-- ==== Sys2Proof/Word.lean ====
section
/-!
DEFINITION. Sys2Proof/Word.lean: the word types of the ET9612 and nothing else.
-/
namespace Sys2Proof

/-- A byte of any memory, frame or descriptor (R6). -/
abbrev Byte := BitVec 8

/-- A control-space word (R11). -/
abbrev W32 := BitVec 32

/-- A `g` or `w` register of a sequencer context (R53, R54). -/
abbrev W64 := BitVec 64

end Sys2Proof
end

