-- ==== Sys2Proof/Syntax.lean ====
section
/-!
DEFINITION. Sys2Proof/Syntax.lean: the commands. One constructor per row of spec/opcode_table.json, in the table's order.
A sequencer instruction names the context that issues it and its fields (R61); it happens at the DT in force. Every other
command carries the instant `t` at which it takes effect: DT in 1/65,536 ns, of a clock edge (R35, R309).
-/
namespace Sys2Proof

/-- A sequencer context, 0 to 16 (R49). -/
abbrev CtxId := Fin 17

/-- The fields of an instruction beside its opcode (Table 3-3). -/
structure Fields where
  gd : BitVec 5
  ga : BitVec 5
  gb : BitVec 5
  sub : BitVec 9
  imm : BitVec 32
deriving DecidableEq, Repr


/-- How a read went: clean, corrected by its ECC, or uncorrectable after the retries (R27, R114). -/
inductive Ecc where
  | clean | corrected | uncorrectable
deriving DecidableEq, Repr

/-- Journal entry kinds (Table 15-5); the kinds that only a snapshot section carries (Table 15-6) follow them. -/
inductive JKind where
  | jwrite | slot | alloc | record | rowmark | carry | dwrite | counter | ckpt | disp | stage | commit | loop | band | reg | civil
  | runctl
  | header | prog | entry | binding | table | claim | cond
deriving DecidableEq, Repr

/-- What a journal entry or a snapshot section carries, as numbers and bytes (R390, R394). -/
structure JItem where
  kind : JKind
  args : List Nat := []
  bytes : List Byte := []
deriving DecidableEq, Repr

/-- A block as a lane receiver hands it on: whether its sync header is that of a data block, and its 8 bytes (R251, R276, R277). -/
structure RxBlock where
  data : Bool
  bytes : List Byte
deriving DecidableEq, Repr

/-- Mismatch counts of a quick scan in phase (R268): at the centre, and outward from it to the right and left, as far as each direction
was measured. -/
structure PhaseCounts where
  mid : Nat
  right : List Nat
  left : List Nat
deriving DecidableEq, Repr

/-- Mismatch counts of a quick scan in voltage (R268): outward from the centre up and down. -/
structure VoltCounts where
  up : List Nat
  down : List Nat
deriving DecidableEq, Repr

/-- Mismatch counts of a quick scan (R268). -/
structure ScanCounts extends PhaseCounts, VoltCounts
deriving DecidableEq, Repr

/-- A delay exchange of the PTP slave (R316): DT latches in ps as the port makes them, the master's receipt time or the peer's turnaround in
ns. -/
inductive PtpDelay where
  | request (tx : Nat) (t4 : Int)
  | peer (tx back : Nat) (turn : Int)
deriving DecidableEq, Repr

/-- What the slave measures with at a Sync (R316): the DT latch in ps at which the Sync came, and the delay exchange. -/
structure PtpTimes where
  rx : Nat
  delay : PtpDelay
deriving DecidableEq, Repr

/-- A host port and the transport a PTP message came over: 0 UDP/IPv4, 1 UDP/IPv6, 2 Ethernet (R315). -/
structure PtpPath where
  port : Fin 4
  via : Fin 3
deriving DecidableEq, Repr

/-- An instruction word that traps: its opcode and its fields (R62, R71). -/
structure OpWord where
  op : BitVec 8
  f : Fields
deriving DecidableEq, Repr

/-- A queue, and how the job-store read of its command goes (R114). -/
structure QueueRead where
  q : Fin 64
  ecc : Ecc
deriving DecidableEq, Repr

/-- What a REPORT reads: the bytes at the host, how the job-store read goes (R114), and the bands whose ledger entries cannot be read (R157). -/
structure ReportRead where
  host : List Byte
  ecc : Ecc
  lost : List Nat
deriving DecidableEq, Repr

/-- How a row was rendered: how many of its line reads hit the tile cache (R145), and an SRAM bank of the bar whose ECC acted on the way,
with whether its cell is faulty beyond correction (R27). -/
structure SliceOut where
  hits : Nat
  sram : Option (Nat × Bool)
deriving DecidableEq, Repr

/-- A row that has passed, and whether its ledger writes succeeded (R157). -/
structure PassedRow where
  n : Nat
  kept : Bool
deriving DecidableEq, Repr

/-- The sync headers a lane has received, each valid or not (R255, R256). -/
structure LaneHeaders where
  l : Fin 100
  headers : List Bool
deriving DecidableEq, Repr

/-- A record of a STAT frame: the blocks of the frame as received, and which of its records it is (R302). -/
structure StatRec where
  fr : List RxBlock
  i : Nat
deriving DecidableEq, Repr

/-- A row hash (R397). -/
structure RowHash where
  bar : Nat
  row : Nat
  cgen : Nat
  lgen : Nat
  chk : Nat
deriving DecidableEq, Repr

/-- The content of a rope HB frame (Table 15-3): DT at launch in 1/65,536 ns, RATE, role (4 STARTING), unit epoch, highest JSEQ
applied, and the sender's identity. -/
structure RopeBeat where
  dt : Nat
  rate : Int
  role : Nat
  epoch : Nat
  jseq : Nat
  unit : Nat
deriving DecidableEq, Repr

/-- How a received SNAP frame leaves its section: more follows, complete and decoded, aborted by the sender (R137), or rejected
by the decoder. -/
inductive SnapEnd where
  | more | complete | aborted | rejected
deriving DecidableEq, Repr

/-- How one block came out of a BIST wave: type code, instance, patterns applied, 64-bit MISR, failed cells, and whether a failing
cell has no spare (R424, R429). -/
structure BlockTest where
  code : Nat
  inst : Nat
  count : Nat
  sig : Nat
  cells : Nat
  noSpare : Bool := false
deriving DecidableEq, Repr

/-- How a BIST wave ran: to its end, stopped, or skipped for VDD_CORE or REFCLK (R422, R423). -/
inductive WaveEnd where
  | ran | stopped | skipVdd | skipRef
deriving DecidableEq, Repr

/-- JTAG instructions (R465); `other` is a private one. -/
inductive JtagOp where
  | bypass | sample | extest | idcode | clamp | highz | other
deriving DecidableEq, Repr

/-- An opcode has an instruction (Tables 3-5 to 3-9, 4-2, 4-4, 4-5, 4-10, 14-2, 14-9). -/
def definedOp (op : Nat) : Bool :=
  decide (op ≤ 0x06) || (decide (0x08 ≤ op) && decide (op ≤ 0x16)) || (decide (0x18 ≤ op) && decide (op ≤ 0x1C)) ||
  (decide (0x20 ≤ op) && decide (op ≤ 0x25)) || (decide (0x30 ≤ op) && decide (op ≤ 0x37)) || (decide (0x40 ≤ op) && decide (op ≤ 0x42)) ||
  (decide (0x60 ≤ op) && decide (op ≤ 0x65)) || (decide (0x70 ≤ op) && decide (op ≤ 0x72)) || (decide (0x80 ≤ op) && decide (op ≤ 0x84)) ||
  (decide (0x90 ≤ op) && decide (op ≤ 0x93)) || op = 0xA0 || op = 0xA1 || op = 0xB0 || op = 0xB1 || (decide (0xF0 ≤ op) && decide (op ≤ 0xF4))

/-- The commands. -/
inductive Instr where
  | add (n : CtxId) (f : Fields)
  | sub (n : CtxId) (f : Fields)
  | mul (n : CtxId) (f : Fields)
  | mulh (n : CtxId) (f : Fields)
  | div (n : CtxId) (f : Fields)
  | rem (n : CtxId) (f : Fields)
  | muldiv (n : CtxId) (f : Fields)
  | and (n : CtxId) (f : Fields)
  | or (n : CtxId) (f : Fields)
  | xor (n : CtxId) (f : Fields)
  | andn (n : CtxId) (f : Fields)
  | shl (n : CtxId) (f : Fields)
  | shr (n : CtxId) (f : Fields)
  | sar (n : CtxId) (f : Fields)
  | ror (n : CtxId) (f : Fields)
  | min (n : CtxId) (f : Fields)
  | max (n : CtxId) (f : Fields)
  | clz (n : CtxId) (f : Fields)
  | popc (n : CtxId) (f : Fields)
  | li (n : CtxId) (f : Fields)
  | lui (n : CtxId) (f : Fields)
  | ext (n : CtxId) (f : Fields)
  | movs (n : CtxId) (f : Fields)
  | movw (n : CtxId) (f : Fields)
  | movg (n : CtxId) (f : Fields)
  | addw (n : CtxId) (f : Fields)
  | wdiff (n : CtxId) (f : Fields)
  | branch (n : CtxId) (f : Fields)
  | brw (n : CtxId) (f : Fields)
  | setCond (n : CtxId) (f : Fields)
  | jal (n : CtxId) (f : Fields)
  | jalr (n : CtxId) (f : Fields)
  | loop (n : CtxId) (f : Fields)
  /-- `ecc`: how the read of D-space went (R27, R63); likewise below. -/
  | ldd (n : CtxId) (f : Fields) (ecc : Ecc)
  | std (n : CtxId) (f : Fields)
  | ldj (n : CtxId) (f : Fields)
  | stj (n : CtxId) (f : Fields)
  | aadd (n : CtxId) (f : Fields) (ecc : Ecc)
  | acas (n : CtxId) (f : Fields) (ecc : Ecc)
  | cpjd (n : CtxId) (f : Fields)
  | cpdj (n : CtxId) (f : Fields) (ecc : Ecc)
  | jobStoreAccessDone (t : Nat) (n : CtxId) (r : Ecc)
  | qrecv (n : CtxId) (f : Fields)
  | qpeek (n : CtxId) (f : Fields)
  | qsend (n : CtxId) (f : Fields) (ecc : Ecc)
  | evpost (n : CtxId) (f : Fields)
  | nop (n : CtxId) (f : Fields)
  /-- `op`: 0xF1, or an opcode that has no instruction (R62). -/
  | trap (n : CtxId) (w : OpWord)
  | fence (n : CtxId) (f : Fields)
  | fenceDone (t : Nat) (n : CtxId)
  | halt (n : CtxId) (f : Fields)
  | disp (n : CtxId) (f : Fields)
  | handlerDispatch (t : Nat)
  | place (n : CtxId) (f : Fields) (ecc : Ecc)
  | trunc (n : CtxId) (f : Fields)
  | pmark (n : CtxId) (f : Fields)
  | waitw (n : CtxId) (f : Fields)
  | waitt (n : CtxId) (f : Fields)
  | waitq (n : CtxId) (f : Fields)
  | waitWake (t : Nat) (n : CtxId)
  | waitTimeout (t : Nat) (n : CtxId)
  | vfmt (n : CtxId) (f : Fields) (ecc : Ecc)
  | vdate (n : CtxId) (f : Fields) (ecc : Ecc)
  | vctr (n : CtxId) (f : Fields)
  | vchk (n : CtxId) (f : Fields) (ecc : Ecc)
  | vtext (n : CtxId) (f : Fields) (ecc : Ecc)
  | vsym (n : CtxId) (f : Fields) (ecc : Ecc)
  | vdComposeDone (t : Nat)
  | tload (n : CtxId) (f : Fields)
  | tcopy (n : CtxId) (f : Fields)
  | tableLoadDone (t : Nat) (n : CtxId) (r : Ecc)
  | stage (n : CtxId) (f : Fields)
  | check (n : CtxId) (f : Fields)
  | commitw (n : CtxId) (f : Fields)
  | committ (n : CtxId) (f : Fields)
  | committFix (t : Nat)
  | abandon (n : CtxId) (f : Fields)
  | restorefac (n : CtxId) (f : Fields)
  | calsave (n : CtxId) (f : Fields)
  | settlingEnd (t : Nat)
  /-- `ok`: the write ran to its end; `hot`: a θ_J judgement found it outside −5 to 100 °C (R372). -/
  | norWriteDone (t : Nat) (ok hot : Bool)
  /-- A host command: the executor takes the head descriptor of queue q (R335). -/
  | run (t : Nat) (q : Fin 64)
  | stop (t : Nat) (q : Fin 64)
  | fireArm (t : Nat) (q : Fin 64)
  /-- `r`: the queue and how the reads of the job store went; an `Ecc` below likewise. -/
  | loadProgram (t : Nat) (r : QueueRead)
  | stageQuery (t : Nat) (q : Fin 64)
  | stageCheck (t : Nat) (q : Fin 64)
  | stageCommitw (t : Nat) (q : Fin 64)
  | stageCommitt (t : Nat) (q : Fin 64)
  | stageAbandon (t : Nat) (q : Fin 64)
  | stageTload (t : Nat) (q : Fin 64)
  | stageRestorefac (t : Nat) (q : Fin 64)
  | stageCalsave (t : Nat) (q : Fin 64)
  | setCivil (t : Nat) (q : Fin 64)
  | status (t : Nat) (q : Fin 64)
  | regRead (t : Nat) (q : Fin 64)
  | regWrite (t : Nat) (q : Fin 64)
  | alloc (t : Nat) (q : Fin 64)
  | free (t : Nat) (q : Fin 64)
  | setrights (t : Nat) (q : Fin 64)
  | sealAlloc (t : Nat) (q : Fin 64)
  | unsealAlloc (t : Nat) (q : Fin 64)
  /-- `host`: the bytes at the descriptor's PCIe host address. -/
  | write (t : Nat) (q : Fin 64) (host : List Byte)
  | read (t : Nat) (q : Fin 64) (r : Ecc)
  | compress (t : Nat) (q : Fin 64)
  | decompress (t : Nat) (q : Fin 64)
  | sendAt (t : Nat) (q : Fin 64)
  | sendAtLaunch (t : Nat) (port : Fin 4)
  /-- `host`: the report's bytes when it lies in host memory. -/
  | report (t : Nat) (q : Fin 64) (r : ReportRead)
  /-- An application descriptor arrives complete on queue q, with its receipt stamp. -/
  | applicationDescriptor (t : Nat) (q : Fin 64) (d : List Byte) (rx : Nat)
  | queueTimeout (t : Nat) (q : Fin 64)
  | openSession (t : Nat) (tenant : Fin 8) (port : Fin 4) (addr udp : Nat) (frame : List Byte)
  | closeSession (t : Nat) (port : Fin 4) (addr udp : Nat) (frame : List Byte)
  /-- A datagram payload as it arrives on a host port from an address. -/
  | descFrame (t : Nat) (port : Fin 4) (addr udp : Nat) (frame : List Byte)
  | bulk (t : Nat) (port : Fin 4) (addr udp : Nat) (frame : List Byte)
  | resync (t : Nat) (port : Fin 4) (addr udp : Nat) (frame : List Byte)
  | sessionTimeout (t : Nat) (tenant : Fin 8) (port : Fin 4)
  | creditFrameSend (t : Nat) (tenant : Fin 8) (port : Fin 4)
  /-- `v6`: neighbour discovery; otherwise ARP. `target`: the address asked for. -/
  | neighbourRequest (t : Nat) (port : Fin 4) (v6 : Bool) (target : Nat)
  /-- A doorbell write with the value PI; `ring`: the new entries as fetched from host memory, oldest first. -/
  | doorbell (t : Nat) (tenant : Fin 8) (q : Fin 64) (pi : BitVec 32) (ring : List (List Byte))
  | outboundConsume (t : Nat) (tenant : Fin 8) (q : Fin 64) (oci : BitVec 32)
  /-- A write of QM_QCFGq with the value v by tenant `tnt`. -/
  | queueEnable (t : Nat) (tnt : Fin 8) (q : Fin 64) (v : BitVec 32)
  | tenantEnable (t : Nat) (tnt : Fin 8) (v : BitVec 32)
  | ptpSyncSend (t : Nat) (port : Fin 4)
  | ptpAnnounceSend (t : Nat) (port : Fin 4)
  /-- `peer`: a peer delay request; `rx`: DT at its receipt as the port latches it, in ps; `id`:
  requesting port identity and sequence. -/
  | ptpDelayReq (t : Nat) (p : PtpPath) (peer : Bool) (domain : BitVec 8) (rx id : Nat)
  | ptpManagement (t : Nat) (p : PtpPath) (domain : BitVec 8) (id : Nat)
  /-- An upstream Announce: domain, ptpTimescale, currentUtcOffsetValid, currentUtcOffset (s), leap61, leap59 and the
  announce interval in ns. -/
  | ptpAnnounceReceived (t : Nat) (domain : BitVec 8) (ptpTimescale utcValid : Bool) (utcOffset : Int)
      (leap61 leap59 : Bool) (interval : Nat)
  /-- An upstream Sync: the master's time of it (ns), DT at its receipt as the port latches it (ps), and the latest delay exchange. -/
  | ptpSyncReceived (t : Nat) (domain : BitVec 8) (t1 : Int) (x : PtpTimes)
  | ptpAnnounceTimeout (t : Nat)
  /-- A and B of channel n count at these levels (R224, R226). -/
  | encoderEdge (t : Nat) (n : Fin 4) (a b : Bool)
  | zEdge (t : Nat) (n : Fin 4)
  | standstill (t : Nat) (n : Fin 4)
  | countGateEnd (t : Nat) (n : Fin 4)
  | speedBoundRefresh (t : Nat)
  /-- `low`: the data input is low when the frame starts (R240). -/
  | ssiFrameStart (t : Nat) (m : Fin 2) (low : Bool)
  /-- `w`: the bits received, the first in the most significant place. -/
  | ssiFrameEnd (t : Nat) (m : Fin 2) (w : BitVec 32)
  | probeEdge (t : Nat) (p : Fin 8) (rise : Bool)
  | probePop (t : Nat) (tnt : Fin 8) (p : Fin 8)
  | modelUpdate (t : Nat)
  | stampFreeze (t : Nat)
  | coastTimeout (t : Nat)
  | haltFireNLow (t : Nat)
  | passStart (t : Nat) (k : Fin 16)
  | rowRendered (t : Nat) (k : Fin 16) (n : Nat) (out : SliceOut)
  /-- `r`: uncorrectable when the fetch fails for its reads, after `retries`. -/
  | tileFetchDone (t : Nat) (h sg b retries : Nat) (r : Ecc)
  | sliceFault (t : Nat) (k : Fin 16) (slice : Fin 25)
  | spareRotation (t : Nat) (k : Fin 16)
  | spareRoundEnd (t : Nat) (k : Fin 16) (pass : Bool)
  /-- `lost`: per bar, the cycles of the window lost to stalls or rollback. -/
  | headroomWindow (t : Nat) (lost : List Nat)
  | loopCommit (t : Nat)
  | codecJobStart (t : Nat)
  | codecPreempt (t job : Nat)
  | codecStallEnd (t job : Nat)
  /-- `since`: when the job came to stand in its RING stall. -/
  | codecStallTimeout (t job since : Nat)
  /-- `bad`: blocks whose verification mismatched and were re-emitted; `vfail`: a STORED block mismatched too (R133). -/
  | codecJobDone (t job : Nat) (r : Ecc) (bad : List Nat) (vfail : Bool)
  | jobStoreScrub (t : Nat) (r : Ecc)
  | timerFire (t : Nat) (n : Fin 16)
  | trigPulseEnd (t : Nat) (g : Fin 8)
  | ppsOutEdge (t : Nat)
  | ppsInEdge (t : Nat)
  | ppsInLoss (t : Nat)
  | leapSecond (t : Nat)
  /-- A write of EN of lane l by tenant `tnt` (R254). -/
  | laneEnable (t : Nat) (tnt : Fin 8) (l : Fin 96) (on : Bool)
  | laneModeChange (t : Nat) (tnt : Fin 8) (q : Fin 24) (mode rate : Bool)
  /-- Lanes 96 to 99 are RL0 to RL3 (R382); so throughout. -/
  | blockLock (t : Nat) (r : LaneHeaders)
  | blockLockLost (t : Nat) (r : LaneHeaders)
  | lockTimeout (t : Nat) (l : Fin 100)
  | relockTimeout (t : Nat) (l : Fin 100)
  | failedRetry (t : Nat) (l : Fin 100)
  /-- The eight bytes of a training block after the sync header (Table 10-4). -/
  | trainingBlock (t : Nat) (l : Fin 100) (block : List Byte)
  | tapTimeout (t : Nat) (l : Fin 100)
  | trainTimeout (t : Nat) (l : Fin 100)
  | alignTimeout (t : Nat) (l : Fin 100)
  /-- `bit`: the place, in bits of the lane's stream, where the sixteenth alignment block of lane l ends (R267). -/
  | alignmentBlock (t : Nat) (l : Fin 96) (bit : Nat)
  /-- `rate`: 0 10.3125, 1 12.890625 Gbit/s, 2 the rope lanes. -/
  | cairnMarkerSend (t : Nat) (rate : Fin 3)
  /-- The eight bytes of a marker, its arrival in ps of DT, whether its BIP matches, and whether it came exactly 16,384 blocks
  after the previous one. -/
  | cairnMarker (t : Nat) (l : Fin 100) (block : List Byte) (ps : Nat) (bipOk onTime : Bool)
  | markerMissing (t : Nat) (l : Fin 100)
  /-- `ppb`: the average offset over 1 ms, in 0.001 ppm. -/
  | refOffsetCheck (t : Nat) (l : Fin 100) (ppb : Int)
  | adaptFreeze (t : Nat) (l : Fin 100)
  | quickScanStart (t : Nat) (l : Fin 100)
  /-- The figure measured, and a number that stands for the receiver settings in force. -/
  | quickScanDone (t : Nat) (l : Fin 100) (phase : PhaseCounts) (volt : VoltCounts) (settings : Nat)
  | eyePointStart (t : Nat) (tnt : Fin 8) (q : Fin 24) (v : BitVec 32)
  | eyePointDone (t : Nat) (q : Fin 24) (count : Nat)
  /-- `beyond`: a sampler's offset lies beyond its range. -/
  | laneRecalDone (t : Nat) (l : Fin 96) (beyond : Bool)
  | laneFrameLaunch (t : Nat) (l : Fin 96)
  | echo (t : Nat) (l : Fin 96) (r : StatRec)
  | echoTimeout (t : Nat) (l : Fin 96) (a : Fin 16) (row : Nat)
  | ack (t : Nat) (l : Fin 96) (r : StatRec)
  | ackTimeout (t : Nat) (l : Fin 96) (fseq : Nat)
  | fireReport (t : Nat) (l : Fin 96) (r : StatRec)
  | epochRecord (t : Nat) (l : Fin 96) (r : StatRec)
  | claimReply (t : Nat) (l : Fin 96) (r : StatRec)
  | tempRecord (t : Nat) (l : Fin 96) (r : StatRec)
  | eeReply (t : Nat) (l : Fin 96) (r : StatRec)
  | hubInfo (t : Nat) (l : Fin 96) (r : StatRec)
  | eeAccess (t : Nat) (tnt : Fin 8) (q : Fin 24) (v : BitVec 32)
  | eeTimeout (t : Nat) (q : Fin 24)
  | timeFrameSend (t : Nat)
  | epochFrameSend (t : Nat)
  | fireKeepalive (t : Nat) (l : Fin 96)
  | claimSend (t : Nat)
  | heartbeatSend (t : Nat)
  /-- The 16 octets after /K28.5/ (Table 15-4). -/
  | belayFrame (t : Nat) (octets : List Byte)
  | ropeHb (t : Nat) (b : RopeBeat)
  | ropeAck (t : Nat) (rseq : Nat)
  | ropeResendTimeout (t : Nat) (rseq : Nat)
  /-- `hrow`: HROW of every lane. -/
  | ropeOffer (t : Nat) (rseq token : Nat) (hrow : List Nat)
  | ropeHash (t : Nat) (rseq : Nat) (hs : List RowHash)
  /-- `verdict`: 0 STANDBY_WRONG, 1 ACTIVE_WRONG, 2 UNDECIDED (Table 15-7). -/
  | ropeVerdict (t : Nat) (rseq bar row : Nat) (verdict : Fin 3)
  /-- The entries of one JRN frame with their JSEQ, in order. -/
  | ropeJrn (t : Nat) (rseq : Nat) (es : List (Nat × JItem))
  | ropeSnap (t : Nat) (rseq sect : Nat) (items : List JItem) (e : SnapEnd)
  | snapshotStart (t : Nat)
  /-- `trailerOk`: the trailer's list matches the sections received. -/
  | snapshotAdopt (t : Nat) (trailerOk : Bool)
  /-- The checksum of the row as the spare slice re-rendered it. -/
  | refereeDone (t : Nat) (bar : Fin 16) (row chk : Nat)
  | pathSilence (t : Nat) (rope : Bool)
  | peerFailure (t : Nat)
  | claimwinExpiry (t : Nat)
  | claimConflictWait (t : Nat) (l : Fin 96)
  | handoff (t : Nat) (tnt : Fin 8)
  | handoffTimeout (t : Nat)
  | recatch (t : Nat) (tnt : Fin 8)
  | hubLeadWindow (t : Nat)
  | roleDecisionTimeout (t : Nat)
  /-- A control space write of v to an FSTAT or FINJ register at `addr` by tenant `tnt`. -/
  | faultAck (t : Nat) (tnt : Fin 8) (addr v : BitVec 32)
  | faultInjectArm (t : Nat) (tnt : Fin 8) (addr v : BitVec 32)
  | faultInjectCancel (t : Nat) (tnt : Fin 8) (addr : BitVec 32)
  /-- The 24 readings in 1/16 °C (none: no conversion in the slot, or a trim record that fails its CRC), VDD_CORE in mV, and
  whether any other rail lies outside its limits. -/
  | thermalSample (t : Nat) (temps : List (Option Int)) (vcore : Nat) (railOut : Bool)
  | shutdownPowerDown (t : Nat)
  | throttleStep (t : Nat)
  | throttleReleaseStep (t : Nat)
  | lspdFrame (t : Nat)
  | rest (t : Nat) (tnt : Fin 8)
  | restAuto (t : Nat)
  | abort (t : Nat) (tnt : Fin 8)
  | noquick (t : Nat) (tnt : Fin 8)
  /-- How the wave ran, its blocks, and the least and greatest VDD_CORE during it (mV). -/
  | bistWaveEnd (t : Nat) (e : WaveEnd) (blocks : List BlockTest) (vmin vmax : Nat)
  /-- `bad`: bars whose restore fails its CRC; `stored`: the record set could be written. -/
  | restEnd (t : Nat) (bad : List (Fin 16)) (stored : Bool)
  | rgoff (t : Nat) (tnt : Fin 8) (off : BitVec 4)
  | regionPowerDone (t : Nat) (n : Fin 4) (bad : List (Fin 16))
  | domainOnTimeout (t : Nat) (d : Fin 8)
  | shutdown (t : Nat) (tnt : Fin 8)
  /-- `ok`: the user bank write and the record set could be written. -/
  | shutdownDone (t : Nat) (ok : Bool)
  /-- The straps as sampled; VDD_CORE (mV) and the mean of REFCLK in ppm of its expected value (none: absent) as measured
  for the quick-start decision (R422, R431). -/
  | pwrgoodRise (t : Nat) (ftm roped pref : Bool) (vcore : Nat) (ref : Option Int)
  /-- `stored`: the POWERON record set could be written. -/
  | startupReady (t : Nat) (stored : Bool)
  | pwrgoodFall (t : Nat)
  | refclkLoss (t : Nat)
  | peakClr (t : Nat) (tnt : Fin 8)
  | minClr (t : Nat) (tnt : Fin 8) (k : Fin 16)
  | refoutEnable (t : Nat) (tnt : Fin 8) (en : BitVec 6)
  /-- `v`: the word written; none where the access is not of one whole word (R332). -/
  | registerWrite (t : Nat) (tnt : Fin 8) (addr : BitVec 32) (v : Option (BitVec 32))
  | haltFireNHigh (t : Nat)
  | fireStampPassed (t : Nat) (k : Fin 16) (r : PassedRow)
  /-- `whole`: the access is of one aligned word. -/
  | registerRead (t : Nat) (tnt : Fin 8) (addr : BitVec 32) (whole : Bool)
  | msixDeferred (t : Nat) (q : Fin 64)
  | jtagInstruction (t : Nat) (i : JtagOp)
  | rxBufferOverflow (t : Nat) (l : Fin 100)
  | rxReady (t : Nat) (l : Fin 96)
  | peerHeardExpiry (t : Nat) (rope : Bool)
  | ssiClockEdge (t : Nat) (m : Fin 2) (low : Bool)
deriving DecidableEq, Repr

end Sys2Proof
end

