-- ==== Sys2Proof/Decode.lean ====
section
/-!
DEFINITION. Sys2Proof/Decode.lean: commands spelled as words. spec/opcode_table.json gives no row any bits: a command comes from
outside the block as it is, so no word of the table spells one. The 64-bit words of the sequencer's own instructions (R61) are decoded
and encoded here.
-/
namespace Sys2Proof

/-- The command that a word of `nbits` bits spells by the opcode table: none, for the table gives no bits. -/
def decodeTableWord (_nbits _w : Nat) : Option Instr := none

/-! ### Instruction words (R61, R62) -/

/-- The fields of Table 3-3. -/
def Fields.ofWord (w : BitVec 64) : Fields :=
  { gd := w.extractLsb' 51 5, ga := w.extractLsb' 46 5, gb := w.extractLsb' 41 5, sub := w.extractLsb' 32 9, imm := w.extractLsb' 0 32 }

/-- The word of an opcode and its fields (Table 3-3). -/
def Fields.word (f : Fields) (op : BitVec 8) : BitVec 64 := op ++ f.gd ++ f.ga ++ f.gb ++ f.sub ++ f.imm

/-- The instruction of an opcode for context n (Tables 3-5 to 3-9, 4-2, 4-4, 4-5, 4-10, 14-2, 14-9), its reads clean; an opcode with no
instruction raises its trap (R62). -/
def instrOf (n : CtxId) (op : BitVec 8) (f : Fields) : Instr :=
  match op.toNat with
  | 0x00 => .add n f
  | 0x01 => .sub n f
  | 0x02 => .mul n f
  | 0x03 => .mulh n f
  | 0x04 => .div n f
  | 0x05 => .rem n f
  | 0x06 => .muldiv n f
  | 0x08 => .and n f
  | 0x09 => .or n f
  | 0x0A => .xor n f
  | 0x0B => .andn n f
  | 0x0C => .shl n f
  | 0x0D => .shr n f
  | 0x0E => .sar n f
  | 0x0F => .ror n f
  | 0x10 => .min n f
  | 0x11 => .max n f
  | 0x12 => .clz n f
  | 0x13 => .popc n f
  | 0x14 => .li n f
  | 0x15 => .lui n f
  | 0x16 => .ext n f
  | 0x18 => .movs n f
  | 0x19 => .movw n f
  | 0x1A => .movg n f
  | 0x1B => .addw n f
  | 0x1C => .wdiff n f
  | 0x20 => .branch n f
  | 0x21 => .brw n f
  | 0x22 => .setCond n f
  | 0x23 => .jal n f
  | 0x24 => .jalr n f
  | 0x25 => .loop n f
  | 0x30 => .ldd n f .clean
  | 0x31 => .std n f
  | 0x32 => .ldj n f
  | 0x33 => .stj n f
  | 0x34 => .aadd n f .clean
  | 0x35 => .acas n f .clean
  | 0x36 => .cpjd n f
  | 0x37 => .cpdj n f .clean
  | 0x40 => .place n f .clean
  | 0x41 => .trunc n f
  | 0x42 => .pmark n f
  | 0x60 => .vfmt n f .clean
  | 0x61 => .vdate n f .clean
  | 0x62 => .vctr n f
  | 0x63 => .vchk n f .clean
  | 0x64 => .vtext n f .clean
  | 0x65 => .vsym n f .clean
  | 0x70 => .waitw n f
  | 0x71 => .waitt n f
  | 0x72 => .waitq n f
  | 0x80 => .stage n f
  | 0x81 => .check n f
  | 0x82 => .commitw n f
  | 0x83 => .committ n f
  | 0x84 => .abandon n f
  | 0x90 => .qrecv n f
  | 0x91 => .qpeek n f
  | 0x92 => .qsend n f .clean
  | 0x93 => .evpost n f
  | 0xA0 => .tload n f
  | 0xA1 => .tcopy n f
  | 0xB0 => .restorefac n f
  | 0xB1 => .calsave n f
  | 0xF0 => .nop n f
  | 0xF2 => .fence n f
  | 0xF3 => .halt n f
  | 0xF4 => .disp n f
  | _ => .trap n ⟨op, f⟩

/-- The instruction that context n finds in a word of program memory (R61). -/
def decodeWord (n : CtxId) (w : BitVec 64) : Instr := instrOf n (w.extractLsb' 56 8) (Fields.ofWord w)

/-- The context that issues a sequencer instruction and the word that spells it; none for the other commands. -/
def encodeWord : Instr → Option (CtxId × BitVec 64)
  | .add n f => some (n, f.word 0x00)
  | .sub n f => some (n, f.word 0x01)
  | .mul n f => some (n, f.word 0x02)
  | .mulh n f => some (n, f.word 0x03)
  | .div n f => some (n, f.word 0x04)
  | .rem n f => some (n, f.word 0x05)
  | .muldiv n f => some (n, f.word 0x06)
  | .and n f => some (n, f.word 0x08)
  | .or n f => some (n, f.word 0x09)
  | .xor n f => some (n, f.word 0x0A)
  | .andn n f => some (n, f.word 0x0B)
  | .shl n f => some (n, f.word 0x0C)
  | .shr n f => some (n, f.word 0x0D)
  | .sar n f => some (n, f.word 0x0E)
  | .ror n f => some (n, f.word 0x0F)
  | .min n f => some (n, f.word 0x10)
  | .max n f => some (n, f.word 0x11)
  | .clz n f => some (n, f.word 0x12)
  | .popc n f => some (n, f.word 0x13)
  | .li n f => some (n, f.word 0x14)
  | .lui n f => some (n, f.word 0x15)
  | .ext n f => some (n, f.word 0x16)
  | .movs n f => some (n, f.word 0x18)
  | .movw n f => some (n, f.word 0x19)
  | .movg n f => some (n, f.word 0x1A)
  | .addw n f => some (n, f.word 0x1B)
  | .wdiff n f => some (n, f.word 0x1C)
  | .branch n f => some (n, f.word 0x20)
  | .brw n f => some (n, f.word 0x21)
  | .setCond n f => some (n, f.word 0x22)
  | .jal n f => some (n, f.word 0x23)
  | .jalr n f => some (n, f.word 0x24)
  | .loop n f => some (n, f.word 0x25)
  | .ldd n f _ => some (n, f.word 0x30)
  | .std n f => some (n, f.word 0x31)
  | .ldj n f => some (n, f.word 0x32)
  | .stj n f => some (n, f.word 0x33)
  | .aadd n f _ => some (n, f.word 0x34)
  | .acas n f _ => some (n, f.word 0x35)
  | .cpjd n f => some (n, f.word 0x36)
  | .cpdj n f _ => some (n, f.word 0x37)
  | .place n f _ => some (n, f.word 0x40)
  | .trunc n f => some (n, f.word 0x41)
  | .pmark n f => some (n, f.word 0x42)
  | .vfmt n f _ => some (n, f.word 0x60)
  | .vdate n f _ => some (n, f.word 0x61)
  | .vctr n f => some (n, f.word 0x62)
  | .vchk n f _ => some (n, f.word 0x63)
  | .vtext n f _ => some (n, f.word 0x64)
  | .vsym n f _ => some (n, f.word 0x65)
  | .waitw n f => some (n, f.word 0x70)
  | .waitt n f => some (n, f.word 0x71)
  | .waitq n f => some (n, f.word 0x72)
  | .stage n f => some (n, f.word 0x80)
  | .check n f => some (n, f.word 0x81)
  | .commitw n f => some (n, f.word 0x82)
  | .committ n f => some (n, f.word 0x83)
  | .abandon n f => some (n, f.word 0x84)
  | .qrecv n f => some (n, f.word 0x90)
  | .qpeek n f => some (n, f.word 0x91)
  | .qsend n f _ => some (n, f.word 0x92)
  | .evpost n f => some (n, f.word 0x93)
  | .tload n f => some (n, f.word 0xA0)
  | .tcopy n f => some (n, f.word 0xA1)
  | .restorefac n f => some (n, f.word 0xB0)
  | .calsave n f => some (n, f.word 0xB1)
  | .nop n f => some (n, f.word 0xF0)
  | .fence n f => some (n, f.word 0xF2)
  | .halt n f => some (n, f.word 0xF3)
  | .disp n f => some (n, f.word 0xF4)
  | .trap n w => some (n, w.f.word w.op)
  | _ => none

/-- The instruction with its reads of D-space clean: a word says nothing of what the memory answers (R28). -/
def Instr.clean : Instr → Instr
  | .ldd n f _ => .ldd n f .clean
  | .aadd n f _ => .aadd n f .clean
  | .acas n f _ => .acas n f .clean
  | .cpdj n f _ => .cpdj n f .clean
  | .place n f _ => .place n f .clean
  | .vfmt n f _ => .vfmt n f .clean
  | .vdate n f _ => .vdate n f .clean
  | .vchk n f _ => .vchk n f .clean
  | .vtext n f _ => .vtext n f .clean
  | .vsym n f _ => .vsym n f .clean
  | .qsend n f _ => .qsend n f .clean
  | i => i

/-- A word of program memory as its eight bytes, little-endian (R61). -/
def wordBytes (w : BitVec 64) : List Byte := (List.range 8).map fun i => w.extractLsb' (8 * i) 8

end Sys2Proof
end

