-- ==== Sys2Proof/Config.lean ====
section
/-!
DEFINITION. Sys2Proof/Config.lean: what one implementation fixes, and the free values. Every constant below is OPAQUE:
it has no body that a proof could see, so a theorem about the model holds for every value of it. Each is named in the
assumption log.
-/
namespace Sys2Proof.Config

/-- A free value: the n-th value that the spec leaves open (assumption 1). A command that needs one applies this to
the counter `Chip.free` and advances the counter. -/
opaque freeValue : Nat → Nat

/-- Factory values that differ from part to part: unit identity, MAC addresses, port latencies, interpolator and sensor
trims (assumption 5). The argument names the item. -/
opaque factory : Nat → Nat

/-- `<BLK>_ID` VERSION, by type code and instance (R47, assumption 5). -/
opaque blockVersion : Nat → Nat → Nat

/-- Which dispatch entries Pardiuk's resident handler owns (R72, RES "per entry"; assumption 6). -/
opaque residentEntry : Nat → Bool

/-- What the resident handler brings from the NOR (R56, R72; assumption 6): field 0 EN, 1 PRIO and 2 ENTRY_PC (from 0x7_C000 on) of entry
i, and 3 the program word at index i. -/
opaque residentField : Nat → Nat → Nat

/-- The program image format is not in the spec: what the image bytes at a J-address mean (R57, assumption 7).
The function gives the image's fields as numbers: `imageField bytes k i`, with k a field and i an index. -/
opaque imageField : List Byte → Nat → Nat → Nat

/-- The layout of the body of table type 0x08 is not in the spec: parameter k of Table 1-1 for bar i (assumption 8). -/
opaque geometryField : List Byte → Nat → Nat → Nat

/-- The body length that type 0x08 allows (R110, assumption 8). -/
opaque geometryLength : Nat

/-- The payload that the compressor chooses for one piece of a KIND stream: the spec fixes the block format and the
cutting (R130) but not the match search (R132, assumption 9). Arguments: KIND, the input, the piece's offset. -/
opaque codedPayload : Nat → List Byte → Nat → List Byte

/-- Signature of one block after a BIST wave, and its golden value (R420, R429, assumption 10). -/
opaque goldenSignature : Nat → Nat → Nat → Nat

/-- Which set of the tile cache holds line i of stream (s, b) of a handle (R140 names 488 sets and no more, assumption 33). Arguments:
handle, s, b, i. -/
opaque cacheSet : Nat → Nat → Nat → Nat → Nat

/-- The clock of bar engine k in steps of 100 MHz: the spec gives only its greatest value, 1.2 GHz (Table 2-3,
assumption 16). -/
opaque barClock : Nat → Nat

/-- The delay trim that renewing interpolator i gives at an instant of DT (R312, assumption 1). -/
opaque trim : Nat → Nat → Nat

end Sys2Proof.Config
end

