-- ==== Sys2Proof/Machine/Bits.lean ====
section
/-!
DEFINITION. Sys2Proof/Machine/Bits.lean: sparse maps in one canonical form, bit fields, byte order, rounding, CRCs.
-/
namespace Sys2Proof.Machine

/-! ### Sparse maps -/

/-- A sparse map: entries with strictly rising keys, none equal to the default. -/
abbrev FMap (α : Type) := List (Nat × α)

/-- The entry at key k, or the default d. -/
def FMap.get {α : Type} (d : α) : FMap α → Nat → α
  | [], _ => d
  | (j, v) :: m, k => if k = j then v else FMap.get d m k

/-- Sets the entry at key k to v, in its place among rising keys. -/
def FMap.insert {α : Type} : FMap α → Nat → α → FMap α
  | [], k, v => [(k, v)]
  | (j, u) :: m, k, v =>
    if k < j then (k, v) :: (j, u) :: m else if k = j then (k, v) :: m else (j, u) :: FMap.insert m k v

/-- Puts v at key k; an entry equal to the default d is left out. -/
def FMap.put {α : Type} [DecidableEq α] (d : α) (m : FMap α) (k : Nat) (v : α) : FMap α :=
  if v = d then m.filter fun e => e.1 ≠ k else FMap.insert m k v

/-- The canonical form: keys rise strictly and no entry equals the default. -/
abbrev FMap.wf {α : Type} (d : α) (m : FMap α) : Prop := m.Pairwise (fun a b => a.1 < b.1) ∧ ∀ e ∈ m, e.2 ≠ d

/-- Keeps only the entries whose key passes p. -/
def FMap.keep {α : Type} (p : Nat → Bool) (m : FMap α) : FMap α := m.filter fun e => p e.1

/-- Lets every entry's value go through f; values that become the default d are left out. -/
def FMap.mapV {α : Type} [DecidableEq α] (d : α) (f : α → α) (m : FMap α) : FMap α :=
  (m.map fun e => (e.1, f e.2)).filter fun e => e.2 ≠ d

/-! ### Bit fields -/

/-- Bits [lo + n - 1 : lo] of w. -/
def bits (w lo n : Nat) : Nat := w / 2 ^ lo % 2 ^ n

/-- Bit i of w. -/
def bit (w i : Nat) : Bool := w / 2 ^ i % 2 = 1

/-- A Boolean as a 1-bit number. -/
def b2n (b : Bool) : Nat := if b then 1 else 0

/-- The n-bit number v read as two's complement (R6). -/
def sgn (n v : Nat) : Int := if v % 2 ^ n < 2 ^ (n - 1) then (v % 2 ^ n : Nat) else ((v % 2 ^ n : Nat) : Int) - 2 ^ n

/-- The two's complement of i in n bits (R6). -/
def uns (n : Nat) (i : Int) : Nat := (i % (2 ^ n : Int)).toNat

/-- Adds with saturation at the n-bit maximum. -/
def satAdd (n a b : Nat) : Nat := min (a + b) (2 ^ n - 1)

/-- Saturates a signed value to n bits and encodes it. -/
def satSgn (n : Nat) (i : Int) : Nat := uns n (max (-(2 ^ (n - 1))) (min (2 ^ (n - 1) - 1) i))

/-- The numbers k below n whose bit is set in w. -/
def setBits (n w : Nat) : List Nat := (List.range n).filter (bit w)

/-- How many of the low n bits of w are set. -/
def popCount (n w : Nat) : Nat := (setBits n w).length

/-- Leading zeros of the n-bit w. -/
def leadZeros (n w : Nat) : Nat := n - (if w % 2 ^ n = 0 then 0 else (w % 2 ^ n).log2 + 1)

/-! ### Rounding -/

/-- a / b to the nearest, halves up; b positive. -/
def halfUp (a : Int) (b : Nat) : Int := (2 * a + b) / (2 * (b : Int))

/-- a / b to the nearest, halves up, for natural numbers. -/
def halfUpN (a b : Nat) : Nat := (2 * a + b) / (2 * b)

/-- ⌈a / b⌉. -/
def ceilDiv (a b : Nat) : Nat := (a + b - 1) / b

/-- Holds i within lo and hi. -/
def clampI (lo hi i : Int) : Int := max lo (min hi i)

/-- Binary digits of a square root from bit n down. -/
def isqrtAux : Nat → Nat → Nat → Nat
  | 0, x, r => if (r + 1) * (r + 1) ≤ x then r + 1 else r
  | n + 1, x, r =>
    let r' := r + 2 ^ (n + 1)
    isqrtAux n x (if r' * r' ≤ x then r' else r)

/-- ⌊√x⌋ for x below 2^256. -/
def isqrt (x : Nat) : Nat := isqrtAux 128 x 0

/-! ### Byte order (R6) -/

/-- The low n bytes of v, little-endian. -/
def le : Nat → Nat → List Byte
  | 0, _ => []
  | n + 1, v => BitVec.ofNat 8 v :: le n (v / 256)

/-- The number that the bytes spell, little-endian. -/
def unle : List Byte → Nat
  | [] => 0
  | b :: bs => b.toNat + 256 * unle bs

/-- Bytes lo to lo + n - 1 of bs as a number; bytes beyond the end read 0. -/
def fieldAt (bs : List Byte) (lo n : Nat) : Nat := unle ((bs.drop lo).take n)

/-- n zero bytes. -/
def zeros (n : Nat) : List Byte := List.replicate n 0

/-- bs cut or zero-filled to n bytes. -/
def fit (n : Nat) (bs : List Byte) : List Byte := (bs ++ zeros n).take n

/-- All bytes are zero. -/
def allZero (bs : List Byte) : Bool := bs.all (· == 0)

/-- The byte range lo to lo + n - 1 of bs is all zero. -/
def zeroAt (bs : List Byte) (lo n : Nat) : Bool := allZero ((bs.drop lo).take n)

/-! ### Checks over bytes -/

/-- One bit of a reflected CRC. -/
def crcBit (poly c : Nat) : Nat := if c % 2 = 1 then (c / 2) ^^^ poly else c / 2

/-- One byte of a reflected CRC. -/
def crcByte (poly c : Nat) (b : Byte) : Nat :=
  crcBit poly (crcBit poly (crcBit poly (crcBit poly (crcBit poly (crcBit poly (crcBit poly (crcBit poly
    (c ^^^ b.toNat))))))))

/-- CRC-32, IEEE 802.3 polynomial (R79, R126): reflected, start and final value all ones. -/
def crc32 (bs : List Byte) : Nat := (bs.foldl (crcByte 0xEDB88320) 0xFFFFFFFF) ^^^ 0xFFFFFFFF

/-- One byte of a CRC taken most significant bit first, width n. -/
def crcMsbByte (n poly c : Nat) (b : Byte) : Nat :=
  (List.range 8).foldl
    (fun c i => let top := (c / 2 ^ (n - 1) % 2 = 1) != bit b.toNat (7 - i)
                let c' := c * 2 % 2 ^ n
                if top then c' ^^^ poly else c') c

/-- A CRC of width n, polynomial poly and start value, most significant bit first. -/
def crcMsb (n poly start : Nat) (bs : List Byte) : Nat := bs.foldl (crcMsbByte n poly) start

/-! ### Bytes of a sparse memory -/

/-- A memory of bytes: what an unlisted address reads as is 0 (assumption 4). -/
abbrev ByteMem := FMap Byte

/-- The byte at address a. -/
def ByteMem.byte (m : ByteMem) (a : Nat) : Byte := FMap.get 0 m a

/-- n bytes from address a. -/
def ByteMem.read (m : ByteMem) (a n : Nat) : List Byte := (List.range n).map fun i => m.byte (a + i)

/-- Stores the bytes from address a on. -/
def ByteMem.write (m : ByteMem) (a : Nat) : List Byte → ByteMem
  | [] => m
  | b :: bs => ByteMem.write (FMap.put 0 m a b) (a + 1) bs

/-- The canonical form of a memory. -/
abbrev ByteMem.wf (m : ByteMem) : Prop := FMap.wf 0 m

/-! ### Lists -/

/-- xs with the element at i replaced; unchanged when i is beyond the end. -/
def setAt {α : Type} (xs : List α) (i : Nat) (a : α) : List α := xs.set i a

/-- The first element that passes p, with the rest of the list without it. -/
def takeFirst {α : Type} (p : α → Bool) : List α → Option (α × List α)
  | [] => none
  | x :: xs => if p x then some (x, xs) else (takeFirst p xs).map fun (y, ys) => (y, x :: ys)

/-- The least of a list of numbers, or d when it is empty. -/
def leastOr (d : Nat) : List Nat → Nat
  | [] => d
  | x :: xs => xs.foldl min x

/-- The greatest of a list of numbers, or 0. -/
def greatest (xs : List Nat) : Nat := xs.foldl max 0

end Sys2Proof.Machine
end

