-- ==== Sys2Proof/Machine/Regs.lean ====
section
/-!
DEFINITION. Sys2Proof/Machine/Regs.lean: control space. Every register field of the spec's register tables is one `Fld`:
its key (window base + offset, and lowest bit), its width and its reset value. The register file of the state maps keys
to values; a field that is not listed holds its reset value. The `FRow` tables say, per block, how a field is read and
written (R12) and which written values are kept or moved to a limit.
-/
namespace Sys2Proof.Machine

/-- The block kinds of Table 2-9. -/
inductive Blk where
  | sys | seq | qm | hp | pcie | tb | wm | fs | ch | tw | rl | hl | ls | nv | mr | hbm | js | tc | cd | rg | be | lq | tn
deriving DecidableEq, Repr

/-- Base address of instance i of a block (Table 2-9, R46). -/
def Blk.base : Blk → Nat → Nat
  | .sys, _ => 0x00000000 | .seq, _ => 0x00010000 | .qm, _ => 0x00020000
  | .hp, p => 0x00030000 + p * 0x10000
  | .pcie, _ => 0x00070000 | .tb, _ => 0x00080000 | .wm, _ => 0x00090000 | .fs, _ => 0x000A0000
  | .ch, _ => 0x000B0000 | .tw, _ => 0x000C0000 | .rl, _ => 0x000D0000 | .hl, _ => 0x000E0000
  | .ls, _ => 0x000F0000 | .nv, _ => 0x00100000 | .mr, _ => 0x01000000
  | .hbm, i => 0x01010000 + i * 0x10000
  | .js, _ => 0x01030000 | .tc, _ => 0x01040000 | .cd, _ => 0x01050000
  | .rg, n => 0x02000000 + n * 0x01000000
  | .be, k => 0x02000000 + (k / 4) * 0x01000000 + (1 + k % 4) * 0x10000
  | .lq, q => 0x02000000 + (q / 6) * 0x01000000 + (5 + q % 6) * 0x10000
  | .tn, t => 0x08000000 + t * 0x00100000

/-- Type code (Table 2-9). -/
def Blk.code : Blk → Nat
  | .sys => 0x00 | .seq => 0x10 | .qm => 0x11 | .hp => 0x12 | .pcie => 0x13 | .tb => 0x14 | .wm => 0x15 | .fs => 0x16
  | .ch => 0x17 | .tw => 0x18 | .rl => 0x19 | .hl => 0x1A | .ls => 0x1B | .nv => 0x1C | .mr => 0x20 | .hbm => 0x21
  | .js => 0x22 | .tc => 0x23 | .cd => 0x24 | .rg => 0x30 | .be => 0x31 | .lq => 0x32 | .tn => 0x40

/-- Region of instance i: 0 to 3 for RG0 to RG3, 4 for MR, 5 for CR (Table 2-2, Table 2-10). -/
def Blk.region : Blk → Nat → Nat
  | .rg, n => n | .be, k => k / 4 | .lq, q => q / 6
  | .mr, _ => 4 | .hbm, _ => 4 | .js, _ => 4 | .tc, _ => 4 | .cd, _ => 4
  | _, _ => 5

/-- How many instances a block has (Table 2-9). -/
def Blk.count : Blk → Nat
  | .hp => 4 | .hbm => 2 | .rg => 4 | .be => 16 | .lq => 24 | .tn => 8 | _ => 1

/-- Every block kind, in the order of Table 2-9. -/
def Blk.all : List Blk :=
  [.sys, .seq, .qm, .hp, .pcie, .tb, .wm, .fs, .ch, .tw, .rl, .hl, .ls, .nv, .mr, .hbm, .js, .tc, .cd, .rg, .be, .lq, .tn]

/-- Severity of source s in a block's source table (Tables 9-2, 10-7, 11-12, 12-4, 15-11, 16-4, 16-9, 17-7). Blocks for
which the spec states faults but no source numbers (SEQ, QM, HP, PCIE, FS, CH, LS, NV, MR, HBM, JS, CD, RG, BE) take the
numbers of assumption 11. An undefined source has severity 0 (R407). -/
def baseSev : Blk → Nat → Nat
  | .sys, 0 => 3 | .sys, 1 => 3 | .sys, 2 => 4
  | .seq, 0 => 2 | .seq, 1 => 1 | .seq, 2 => 1 | .seq, 3 => 0 | .seq, 4 => 1 | .seq, 5 => 1
  | .seq, 6 => 0
  | .hp, 0 => 1 | .hp, 1 => 1
  | .pcie, 0 => 1
  | .tb, 3 => 2
  | .wm, s => if s < 10 then 1 else 0
  | .fs, 0 => 1 | .fs, 1 => 4 | .fs, 2 => 4 | .fs, 3 => 1 | .fs, 4 => 1
  | .ls, 0 => 4
  | .ch, 0 => 1 | .ch, 1 => 1
  | .tw, 0 => 1 | .tw, 1 => 2 | .tw, 2 => 2 | .tw, 3 => 2 | .tw, 4 => 1 | .tw, 5 => 2 | .tw, 6 => 2 | .tw, 7 => 3
  | .tw, 8 => 2 | .tw, 9 => 2 | .tw, 10 => 1 | .tw, 11 => 2 | .tw, 12 => 1 | .tw, 13 => 0
  | .rl, 0 => 1 | .rl, 1 => 0
  | .hl, 1 => 1 | .hl, 2 => 1 | .hl, 3 => 3 | .hl, 4 => 1 | .hl, 10 => 1 | .hl, 11 => 1 | .hl, 15 => 2
  | .hl, 16 => 2 | .hl, 17 => 1 | .hl, 20 => 2 | .hl, 21 => 1
  | .nv, 0 => 1
  | .cd, 0 => 1 | .cd, 1 => 2 | .cd, 2 => 3
  | .rg, 0 => 2 | .rg, 1 => 3
  | .mr, 0 => 2 | .mr, 1 => 3
  | .be, 0 => 4 | .be, 1 => 1 | .be, 2 => 2 | .be, 3 => 1 | .be, 4 => 0 | .be, 5 => 1 | .be, 6 => 2
  | .lq, s => if s < 12 then 2 else if s < 16 then 1 else if s = 16 then 2 else if s = 17 then 1 else if s = 18 then 1
              else if s = 19 then 0 else if s < 24 then 2 else if s < 26 then 3 else 0
  | _, _ => 0

/-- Event source on which source s of instance i reports (Table 2-12, R407). -/
def evSource : Blk → Nat → Nat → Nat
  | .be, k, _ => k | .lq, q, _ => 16 + q | .rg, n, _ => 40 + n
  | .mr, _, _ => 44 | .hbm, _, _ => 44 | .js, _, _ => 44 | .tc, _, _ => 44 | .cd, _, _ => 45
  | .seq, _, s => if s = 1 then 47 else 46
  | .hp, p, _ => 48 + p | .pcie, _, _ => 52 | .qm, _, _ => 53 | .tb, _, _ => 54
  | .wm, _, _ => 55 | .fs, _, _ => 55 | .ls, _, _ => 55 | .ch, _, _ => 56 | .tw, _, _ => 57 | .rl, _, _ => 58
  | .hl, _, s => if s < 10 then 59 else if s < 16 then 60 else 61
  | .nv, _, _ => 62 | .sys, _, _ => 63 | .tn, _, _ => 53

/-- One register field. -/
structure Fld where
  key : Nat
  width : Nat
  reset : Nat
deriving DecidableEq, Repr

/-- The field at [lo + w - 1 : lo] of the register at offset off of instance i of block b. -/
def fld (b : Blk) (i off lo w reset : Nat) : Fld := ⟨(b.base i + off) * 128 + lo, w, reset⟩

/-- The access types of Table 0-4. -/
inductive Acc where
  | rw | ro | w1c | wo | rs | sc
deriving DecidableEq, Repr

/-- What a written value becomes: taken as it is; dropped when listed; 0 read as v; held within limits; held within
signed limits; dropped unless listed. -/
inductive WFilter where
  | any | keepIf (vs : List Nat) | zeroIs (v : Nat) | clamp (lo hi : Nat) | sclamp (lo hi : Int) | only (vs : List Nat)
deriving DecidableEq, Repr

/-- The value that a write of v leaves in a field of width w that held old. -/
def WFilter.apply (f : WFilter) (w old v : Nat) : Nat :=
  match f with
  | .any => v
  | .keepIf vs => if vs.contains v then old else v
  | .zeroIs z => if v = 0 then z else v
  | .clamp lo hi => max lo (min hi v)
  | .sclamp lo hi => uns w (clampI lo hi (sgn w v))
  | .only vs => if vs.contains v then v else old

/-- A row of fields of one block: n copies, their access type and write filter, and the field of copy i of instance b.
(A table of code, no part of the state.) -/
structure FRow where
  n : Nat
  acc : Acc
  filter : WFilter
  at' : Nat → Nat → Fld

/-- The unit identity (R377): never 0 and never 0xFFFF_FFFF; the value is the factory's (assumption 5). -/
def unitId : Nat := Config.factory 0 % 0xFFFFFFFE + 1

/-- Power-up configuration of queue q (Table 13-2): EN, CLASS, DEPTH, ODEPTH, TO. -/
def qcfgReset (q : Nat) : Nat × Nat × Nat × Nat × Nat :=
  let en := if q / 8 = 0 then 1 else 0
  match q % 8 with
  | 0 => (en, 0, 16, 16, 1000)
  | 1 => (en, 3, 0, 256, 0)
  | 2 => (en, 2, 16, 16, 0)
  | 3 => (en, 1, 64, 64, 0)
  | _ => (0, 0, 0, 0, 0)

/-! ### Common header and fault registers (R47, Tables 2-10, 2-11, 16-1) -/

def ID_BLOCK_TYPE (b : Blk) (i : Nat) : Fld := fld b i 0x00 24 8 b.code
def ID_INSTANCE (b : Blk) (i : Nat) : Fld := fld b i 0x00 16 8 i
def ID_REGION (b : Blk) (i : Nat) : Fld := fld b i 0x00 8 8 (b.region i)
def ID_VERSION (b : Blk) (i : Nat) : Fld := fld b i 0x00 0 8 (Config.blockVersion b.code i % 256)
def PWR_QUAR (b : Blk) (i : Nat) : Fld := fld b i 0x04 17 1 0
def PWR_DOMAIN_ON (b : Blk) (i : Nat) : Fld := fld b i 0x04 16 1 1
def PWR_SKIP (b : Blk) (i : Nat) : Fld := fld b i 0x04 4 6 0
def PWR_DIV (b : Blk) (i : Nat) : Fld := fld b i 0x04 2 2 0
def PWR_SELFTEST (b : Blk) (i : Nat) : Fld := fld b i 0x04 1 1 0
def PWR_RUN (b : Blk) (i : Nat) : Fld := fld b i 0x04 0 1 1
def FSTAT_STICKY (b : Blk) (i : Nat) : Fld := fld b i 0x10 0 32 0
def FINJST_INJONLY (b : Blk) (i : Nat) : Fld := fld b i 0x14 0 32 0
def FMASK_MASK (b : Blk) (i : Nat) : Fld := fld b i 0x18 0 32 0
def FESC_ESC (b : Blk) (i : Nat) : Fld := fld b i 0x1C 0 32 0
/-- Severity of source s. -/
def FLVL_LEVEL (b : Blk) (i s : Nat) : Fld := fld b i (0x20 + 4 * (s / 8)) (4 * (s % 8)) 4 (baseSev b s)
def FSUM_PEND (b : Blk) (i : Nat) : Fld := fld b i 0x30 31 1 0
def FSUM_LEVEL (b : Blk) (i : Nat) : Fld := fld b i 0x30 28 3 0
def FSUM_INJ (b : Blk) (i : Nat) : Fld := fld b i 0x30 27 1 0
def FSUM_TOP (b : Blk) (i : Nat) : Fld := fld b i 0x30 16 5 0
def FSUM_NSET (b : Blk) (i : Nat) : Fld := fld b i 0x30 0 6 0
def FCNT_ESCALATIONS (b : Blk) (i : Nat) : Fld := fld b i 0x34 16 16 0
def FCNT_OCCURRENCES (b : Blk) (i : Nat) : Fld := fld b i 0x34 0 16 0
def FINJ_ARM (b : Blk) (i : Nat) : Fld := fld b i 0x38 31 1 0
def FINJ_CANCEL (b : Blk) (i : Nat) : Fld := fld b i 0x38 30 1 0
def FINJ_CELL (b : Blk) (i : Nat) : Fld := fld b i 0x38 8 16 0xFFFF
def FINJ_SRC (b : Blk) (i : Nat) : Fld := fld b i 0x38 0 5 0
def FLAST_MORE (b : Blk) (i : Nat) : Fld := fld b i 0x3C 16 5 0
def FLAST_ESC (b : Blk) (i : Nat) : Fld := fld b i 0x3C 9 1 0
def FLAST_INJ (b : Blk) (i : Nat) : Fld := fld b i 0x3C 8 1 0
def FLAST_SEV (b : Blk) (i : Nat) : Fld := fld b i 0x3C 5 3 0
def FLAST_SRC (b : Blk) (i : Nat) : Fld := fld b i 0x3C 0 5 0

/-- The header rows of block b (R47). -/
def rowsHeader (k : Blk) : List FRow :=
  [⟨1, .ro, .any, fun b _ => ID_BLOCK_TYPE k b⟩, ⟨1, .ro, .any, fun b _ => ID_INSTANCE k b⟩,
   ⟨1, .ro, .any, fun b _ => ID_REGION k b⟩, ⟨1, .ro, .any, fun b _ => ID_VERSION k b⟩,
   ⟨1, .ro, .any, fun b _ => PWR_QUAR k b⟩, ⟨1, .ro, .any, fun b _ => PWR_DOMAIN_ON k b⟩,
   ⟨1, .ro, .any, fun b _ => PWR_SKIP k b⟩, ⟨1, .ro, .any, fun b _ => PWR_DIV k b⟩,
   ⟨1, .ro, .any, fun b _ => PWR_SELFTEST k b⟩, ⟨1, .ro, .any, fun b _ => PWR_RUN k b⟩,
   ⟨1, .rs, .any, fun b _ => FSTAT_STICKY k b⟩, ⟨1, .ro, .any, fun b _ => FINJST_INJONLY k b⟩,
   ⟨1, .rw, .any, fun b _ => FMASK_MASK k b⟩, ⟨1, .ro, .any, fun b _ => FESC_ESC k b⟩,
   ⟨32, .rw, .any, fun b s => FLVL_LEVEL k b s⟩,
   ⟨1, .ro, .any, fun b _ => FSUM_PEND k b⟩, ⟨1, .ro, .any, fun b _ => FSUM_LEVEL k b⟩,
   ⟨1, .ro, .any, fun b _ => FSUM_INJ k b⟩, ⟨1, .ro, .any, fun b _ => FSUM_TOP k b⟩,
   ⟨1, .ro, .any, fun b _ => FSUM_NSET k b⟩,
   ⟨1, .ro, .any, fun b _ => FCNT_ESCALATIONS k b⟩, ⟨1, .ro, .any, fun b _ => FCNT_OCCURRENCES k b⟩,
   ⟨1, .sc, .any, fun b _ => FINJ_ARM k b⟩, ⟨1, .sc, .any, fun b _ => FINJ_CANCEL k b⟩,
   ⟨1, .rw, .any, fun b _ => FINJ_CELL k b⟩, ⟨1, .rw, .any, fun b _ => FINJ_SRC k b⟩,
   ⟨1, .ro, .any, fun b _ => FLAST_MORE k b⟩, ⟨1, .ro, .any, fun b _ => FLAST_ESC k b⟩,
   ⟨1, .ro, .any, fun b _ => FLAST_INJ k b⟩, ⟨1, .ro, .any, fun b _ => FLAST_SEV k b⟩,
   ⟨1, .ro, .any, fun b _ => FLAST_SRC k b⟩]


/-! ### Registers of chapter 03, R76 -/

def SEQ_STAT_IMG_LOADED : Fld := fld .seq 0 0x40 31 1 0
def SEQ_STAT_CTX_BUSY : Fld := fld .seq 0 0x40 0 17 0x00000
def SEQ_IMGID_IMAGE_ID : Fld := fld .seq 0 0x44 0 32 0x00000000
def SEQ_CSTAT_DISPATCHES (i : Nat) : Fld := fld .seq 0 (0x100 + 0x10 * i) 16 16 0x0000
def SEQ_CSTAT_RUNNING (i : Nat) : Fld := fld .seq 0 (0x100 + 0x10 * i) 15 1 0
def SEQ_CSTAT_ENTRY (i : Nat) : Fld := fld .seq 0 (0x100 + 0x10 * i) 8 7 0x00
def SEQ_CSTAT_STATE (i : Nat) : Fld := fld .seq 0 (0x100 + 0x10 * i) 0 3 0
def SEQ_CPC_PC (i : Nat) : Fld := fld .seq 0 (0x104 + 0x10 * i) 0 19 0x00000
def SEQ_CWAIT_OPERAND (i : Nat) : Fld := fld .seq 0 (0x108 + 0x10 * i) 8 8 0x00
def SEQ_CWAIT_KIND (i : Nat) : Fld := fld .seq 0 (0x108 + 0x10 * i) 0 4 0
def SEQ_CTRAP_TRAPPED (i : Nat) : Fld := fld .seq 0 (0x10C + 0x10 * i) 31 1 0
def SEQ_CTRAP_TPC (i : Nat) : Fld := fld .seq 0 (0x10C + 0x10 * i) 8 19 0x00000
def SEQ_CTRAP_CODE (i : Nat) : Fld := fld .seq 0 (0x10C + 0x10 * i) 0 8 0x00
def SEQ_DISPA_EN (i : Nat) : Fld := fld .seq 0 (0x400 + 0x8 * i) 31 1 0
def SEQ_DISPA_RES (i : Nat) : Fld := fld .seq 0 (0x400 + 0x8 * i) 30 1 (if Config.residentEntry i then 1 else 0)
def SEQ_DISPA_PEND (i : Nat) : Fld := fld .seq 0 (0x400 + 0x8 * i) 29 1 0
def SEQ_DISPA_PRIO (i : Nat) : Fld := fld .seq 0 (0x400 + 0x8 * i) 19 2 0
def SEQ_DISPA_ENTRY_PC (i : Nat) : Fld := fld .seq 0 (0x400 + 0x8 * i) 0 19 0x00000
def SEQ_DISPB_COUNT (i : Nat) : Fld := fld .seq 0 (0x404 + 0x8 * i) 16 16 0x0000
def SEQ_DISPB_CTX_MASK (i : Nat) : Fld := fld .seq 0 (0x404 + 0x8 * i) 0 16 0x0000
def SEQ_QBIND_CTX_MASK (i : Nat) : Fld := fld .seq 0 (0x800 + 0x4 * i) 0 17 0x00000

/-! ### Registers of chapter 04, R112 -/

def SEQ_PCUR_CUR : Fld := fld .seq 0 0x60 0 64 0x0000000000000000
def SEQ_PSEQ_NEXT_SEQ : Fld := fld .seq 0 0x6C 0 32 0x00000000
def SEQ_PSTAT_OPEN : Fld := fld .seq 0 0x68 31 1 0
def SEQ_PSTAT_BEHIND : Fld := fld .seq 0 0x68 30 1 0
def SEQ_PSTAT_PEAK : Fld := fld .seq 0 0x68 16 9 0x000
def SEQ_PSTAT_ACTIVE : Fld := fld .seq 0 0x68 0 9 0x000
def SEQ_PLATE_DISCARDED : Fld := fld .seq 0 0x70 16 16 0x0000
def SEQ_PLATE_CLIPPED : Fld := fld .seq 0 0x70 0 16 0x0000
def SEQ_POUT_OUTSTANDING : Fld := fld .seq 0 0x74 0 24 0x000000
def SEQ_VSLOT_FREE : Fld := fld .seq 0 0x78 0 21 0x100000
def SEQ_SCTR_VALUE (i : Nat) : Fld := fld .seq 0 (0xC00 + 0x8 * i) 0 64 0x0000000000000000

/-! ### Registers of chapter 05, R145 -/

def JS_STAT_FREE : Fld := fld .js 0 0x40 0 19 0x60000
def JS_LARGEST_LARGEST : Fld := fld .js 0 0x44 0 19 0x60000
def JS_NALLOC_COUNT : Fld := fld .js 0 0x48 0 16 0x0000
def JS_QUOTA_QUOTA (i : Nat) : Fld := fld .js 0 (0x80 + 0x4 * i) 0 19 (if i = 0 then 0x60000 else 0)
def JS_USED_USED (i : Nat) : Fld := fld .js 0 (0xA0 + 0x4 * i) 0 19 0x00000
def CD_STAT_QUEUED : Fld := fld .cd 0 0x40 16 9 0x000
def CD_STAT_JOB_BUSY : Fld := fld .cd 0 0x40 8 3 0
def CD_STAT_FETCH_BUSY : Fld := fld .cd 0 0x40 0 6 0x00
def CD_DEMAND_PEAK_CLR : Fld := fld .cd 0 0x44 16 1 0
def CD_DEMAND_PEAK : Fld := fld .cd 0 0x44 8 8 0x00
def CD_DEMAND_DEMAND : Fld := fld .cd 0 0x44 0 8 0x00
def CD_STALLTO_STALLTO : Fld := fld .cd 0 0x48 0 24 0x002710
def CD_VCNT_VFAIL : Fld := fld .cd 0 0x4C 16 16 0x0000
def CD_VCNT_REEMIT : Fld := fld .cd 0 0x4C 0 16 0x0000
def CD_FERR_FAIL : Fld := fld .cd 0 0x50 16 16 0x0000
def CD_FERR_RETRY : Fld := fld .cd 0 0x50 0 16 0x0000
def TC_HIT_HITS : Fld := fld .tc 0 0x40 0 32 0x00000000
def TC_MISS_MISSES : Fld := fld .tc 0 0x44 0 32 0x00000000
def TC_PIN_PINNED : Fld := fld .tc 0 0x48 0 11 0x000

/-! ### Registers of chapter 06, R173 -/

def CH_LAW_SLEW : Fld := fld .ch 0 0x44 20 12 0x0A4
def CH_LAW_DB : Fld := fld .ch 0 0x44 8 12 0x00F
def CH_LAW_GAIN : Fld := fld .ch 0 0x44 0 8 0x40
def CH_OBS_NBMIN : Fld := fld .ch 0 0x48 16 8 0x04
def CH_OBS_SENS_MIN : Fld := fld .ch 0 0x48 0 16 0x01F4
def CH_TLIM_TMAX : Fld := fld .ch 0 0x4C 16 16 0xA000
def CH_TLIM_TMIN : Fld := fld .ch 0 0x4C 0 16 0x6666
def CH_COMMIT_CMARGIN : Fld := fld .ch 0 0x50 16 4 1
def CH_COMMIT_CPERIOD : Fld := fld .ch 0 0x50 0 16 0x0040
def CH_STAT_BUSY : Fld := fld .ch 0 0x54 17 1 0
def CH_STAT_PENDING : Fld := fld .ch 0 0x54 16 1 0
def CH_STAT_LCOMMITS : Fld := fld .ch 0 0x54 0 16 0x0000
def CH_CNT_REJECTED : Fld := fld .ch 0 0x58 16 16 0x0000
def CH_CNT_REPORTS : Fld := fld .ch 0 0x58 0 16 0x0000
def CH_SUP_LIMITED : Fld := fld .ch 0 0x5C 16 16 0x0000
def CH_SUP_SUPERSEDED : Fld := fld .ch 0 0x5C 0 16 0x0000
def CH_RESLIM_RESN : Fld := fld .ch 0 0x60 16 8 0x08
def CH_RESLIM_RESLIM : Fld := fld .ch 0 0x60 0 16 0x0032
def CH_RESID_PEAK (i : Nat) : Fld := fld .ch 0 (0x80 + 0x4 * i) 16 16 0x0000
def CH_RESID_RESID (i : Nat) : Fld := fld .ch 0 (0x80 + 0x4 * i) 0 16 0xFFFF
def CH_LGEN_LGEN (i : Nat) : Fld := fld .ch 0 (0x600 + 0x4 * i) 0 16 0x0000

/-! ### Registers of chapter 07, R197 -/

def BE_SCR_ROTATIONS (b : Nat) : Fld := fld .be b 0x40 16 16 0x0000
def BE_SCR_SPARE_STATE (b : Nat) : Fld := fld .be b 0x40 11 2 0
def BE_SCR_SPARE (b : Nat) : Fld := fld .be b 0x40 6 5 0x18
def BE_SCR_WORKING (b : Nat) : Fld := fld .be b 0x40 0 5 0x18
def BE_HR_HEADROOM (b : Nat) : Fld := fld .be b 0x44 0 16 0xFFFE
def BE_HRMIN_MIN_CLR (b : Nat) : Fld := fld .be b 0x48 16 1 0
def BE_HRMIN_MIN (b : Nat) : Fld := fld .be b 0x48 0 16 0xFFFE
def BE_RBK_SPARE_FAIL (b : Nat) : Fld := fld .be b 0x4C 16 16 0x0000
def BE_RBK_ROLLBACK (b : Nat) : Fld := fld .be b 0x4C 0 16 0x0000
def BE_FENCE_FENCED (b : Nat) : Fld := fld .be b 0x50 0 25 0x0000000

/-! ### Registers of chapter 08, R223 -/

def FS_STAT_HALTED : Fld := fld .fs 0 0x40 31 1 1
def FS_STAT_CAUSE : Fld := fld .fs 0 0x40 28 3 3
def FS_STAT_HFN : Fld := fld .fs 0 0x40 27 1 1
def FS_STAT_COASTING : Fld := fld .fs 0 0x40 2 1 0
def FS_STAT_MODE : Fld := fld .fs 0 0x40 0 2 0
def FS_X_X : Fld := fld .fs 0 0x48 0 64 0x0000000000000000
def FS_VEL_VEL : Fld := fld .fs 0 0x50 0 32 0x00000000
def FS_ACC_ACC : Fld := fld .fs 0 0x54 0 32 0x00000000
def FS_RES_PEAK : Fld := fld .fs 0 0x58 16 16 0x0000
def FS_RES_RES : Fld := fld .fs 0 0x58 0 16 0x0000
def FS_AMEND_SENT : Fld := fld .fs 0 0x5C 0 32 0x00000000
def FS_AMISS_MISSED : Fld := fld .fs 0 0x60 16 16 0x0000
def FS_AMISS_CLAMPED : Fld := fld .fs 0 0x60 0 16 0x0000
def FS_HALT_HALTS : Fld := fld .fs 0 0x64 16 16 0x0000
def FS_HALT_SKIPPED : Fld := fld .fs 0 0x64 0 16 0x0000
def FS_DEFF_DEFF (i : Nat) : Fld := fld .fs 0 (0x100 + 0x8 * i) 0 64 0x0000000000000000

/-! ### Registers of chapter 09, R248 -/

def WM_CFG_GATE : Fld := fld .wm 0 0x40 16 10 0x064
def WM_CFG_OUTFEED : Fld := fld .wm 0 0x40 4 2 1
def WM_CFG_INFEED : Fld := fld .wm 0 0x40 0 2 0
def WM_STAT_BEFORE : Fld := fld .wm 0 0x44 0 1 0
def WM_X_X : Fld := fld .wm 0 0x48 0 64 0x0000000000000000
def WM_STR_GAIN : Fld := fld .wm 0 0x50 16 8 0x40
def WM_STR_MODE : Fld := fld .wm 0 0x50 0 1 0
def WM_STRWIN_WIN : Fld := fld .wm 0 0x54 0 32 0x005C460C
def WM_STROFS_OFS : Fld := fld .wm 0 0x58 0 32 0x00000000
def WM_EPS_EPS : Fld := fld .wm 0 0x5C 0 32 0x00000000
def WM_STRRAW_RAW : Fld := fld .wm 0 0x60 0 32 0x00000000
def WM_STRCNT_DISCARDED : Fld := fld .wm 0 0x64 16 16 0x0000
def WM_STRCNT_WINDOWS : Fld := fld .wm 0 0x64 0 16 0x0000
def WM_ECFG_TSTILL (i : Nat) : Fld := fld .wm 0 (0x80 + 0x40 * i) 16 16 0x00C8
def WM_ECFG_FILT (i : Nat) : Fld := fld .wm 0 (0x80 + 0x40 * i) 12 4 3
def WM_ECFG_ZMODE (i : Nat) : Fld := fld .wm 0 (0x80 + 0x40 * i) 10 2 0
def WM_ECFG_HYS (i : Nat) : Fld := fld .wm 0 (0x80 + 0x40 * i) 4 6 0x0A
def WM_ECFG_DIRINV (i : Nat) : Fld := fld .wm 0 (0x80 + 0x40 * i) 1 1 0
def WM_ECFG_EN (i : Nat) : Fld := fld .wm 0 (0x80 + 0x40 * i) 0 1 0
def WM_CPR_CPR (i : Nat) : Fld := fld .wm 0 (0x84 + 0x40 * i) 0 32 0x00000000
def WM_SCALE_SCALE (i : Nat) : Fld := fld .wm 0 (0x88 + 0x40 * i) 0 64 0x0000000100000000
def WM_VCO_ZTOL (i : Nat) : Fld := fld .wm 0 (0x90 + 0x40 * i) 26 6 0x00
def WM_VCO_VCO (i : Nat) : Fld := fld .wm 0 (0x90 + 0x40 * i) 0 26 0x000C350
def WM_POS_POS (i : Nat) : Fld := fld .wm 0 (0x94 + 0x40 * i) 0 32 0x00000000
def WM_SPD_SPD (i : Nat) : Fld := fld .wm 0 (0x98 + 0x40 * i) 0 32 0x00000000
def WM_EST_ILLEGAL (i : Nat) : Fld := fld .wm 0 (0x9C + 0x40 * i) 16 16 0x0000
def WM_EST_ZERR (i : Nat) : Fld := fld .wm 0 (0x9C + 0x40 * i) 8 8 0x00
def WM_EST_METHOD (i : Nat) : Fld := fld .wm 0 (0x9C + 0x40 * i) 4 1 0
def WM_EST_DIR (i : Nat) : Fld := fld .wm 0 (0x9C + 0x40 * i) 3 1 0
def WM_EST_FIRST (i : Nat) : Fld := fld .wm 0 (0x9C + 0x40 * i) 2 1 0
def WM_EST_REV (i : Nat) : Fld := fld .wm 0 (0x9C + 0x40 * i) 1 1 0
def WM_EST_STILL (i : Nat) : Fld := fld .wm 0 (0x9C + 0x40 * i) 0 1 1
def WM_EXT_EXT (i : Nat) : Fld := fld .wm 0 (0xA0 + 0x40 * i) 0 64 0x0000000000000000
def WM_ZREF_ZREF (i : Nat) : Fld := fld .wm 0 (0xA8 + 0x40 * i) 0 32 0x00000000
def WM_ZLAT_ZPOS (i : Nat) : Fld := fld .wm 0 (0xAC + 0x40 * i) 0 32 0x00000000
def WM_ZDT_ZDT (i : Nat) : Fld := fld .wm 0 (0xB0 + 0x40 * i) 0 64 0x0000000000000000
def WM_SCFG_DLY (i : Nat) : Fld := fld .wm 0 (0x200 + 0x20 * i) 24 8 0x00
def WM_SCFG_CDIV (i : Nat) : Fld := fld .wm 0 (0x200 + 0x20 * i) 13 11 0x0C8
def WM_SCFG_NBITS (i : Nat) : Fld := fld .wm 0 (0x200 + 0x20 * i) 7 6 0x19
def WM_SCFG_EBIT (i : Nat) : Fld := fld .wm 0 (0x200 + 0x20 * i) 3 1 0
def WM_SCFG_GRAY (i : Nat) : Fld := fld .wm 0 (0x200 + 0x20 * i) 2 1 0
def WM_SCFG_EN (i : Nat) : Fld := fld .wm 0 (0x200 + 0x20 * i) 0 1 0
def WM_SPER_MONO (i : Nat) : Fld := fld .wm 0 (0x204 + 0x20 * i) 16 16 0x0014
def WM_SPER_PER (i : Nat) : Fld := fld .wm 0 (0x204 + 0x20 * i) 0 16 0x0064
def WM_SVAL_VALUE (i : Nat) : Fld := fld .wm 0 (0x208 + 0x20 * i) 0 32 0x00000000
def WM_SST_LINEERR (i : Nat) : Fld := fld .wm 0 (0x20C + 0x20 * i) 16 16 0x0000
def WM_SST_ENCERR (i : Nat) : Fld := fld .wm 0 (0x20C + 0x20 * i) 0 16 0x0000
def WM_SEXT_SEXT (i : Nat) : Fld := fld .wm 0 (0x210 + 0x20 * i) 0 64 0x0000000000000000
def WM_SDT_SDT (i : Nat) : Fld := fld .wm 0 (0x218 + 0x20 * i) 0 64 0x0000000000000000
def WM_PCFG_TMASK (i : Nat) : Fld := fld .wm 0 (0x300 + 0x20 * i) 24 8 0x00
def WM_PCFG_POP (i : Nat) : Fld := fld .wm 0 (0x300 + 0x20 * i) 16 1 0
def WM_PCFG_FILT (i : Nat) : Fld := fld .wm 0 (0x300 + 0x20 * i) 12 4 3
def WM_PCFG_SRC (i : Nat) : Fld := fld .wm 0 (0x300 + 0x20 * i) 8 3 6
def WM_PCFG_EDGE (i : Nat) : Fld := fld .wm 0 (0x300 + 0x20 * i) 4 2 0
def WM_PCFG_EN (i : Nat) : Fld := fld .wm 0 (0x300 + 0x20 * i) 0 1 0
def WM_PST_OVF (i : Nat) : Fld := fld .wm 0 (0x304 + 0x20 * i) 16 16 0x0000
def WM_PST_COUNT (i : Nat) : Fld := fld .wm 0 (0x304 + 0x20 * i) 0 5 0x00
def WM_PSEQ_SEQ (i : Nat) : Fld := fld .wm 0 (0x308 + 0x20 * i) 0 32 0x00000000
def WM_PVAL_VALUE (i : Nat) : Fld := fld .wm 0 (0x310 + 0x20 * i) 0 64 0x0000000000000000
def WM_PDT_DT (i : Nat) : Fld := fld .wm 0 (0x318 + 0x20 * i) 0 64 0x0000000000000000

/-! ### Registers of chapter 10, R273 -/

def LQ_CFG_BIPLIM (b : Nat) : Fld := fld .lq b 0x40 24 8 0x10
def LQ_CFG_RXINV (b : Nat) : Fld := fld .lq b 0x40 20 4 0
def LQ_CFG_TXINV (b : Nat) : Fld := fld .lq b 0x40 16 4 0
def LQ_CFG_EN (b : Nat) : Fld := fld .lq b 0x40 8 4 0
def LQ_CFG_RATE (b : Nat) : Fld := fld .lq b 0x40 1 1 0
def LQ_CFG_MODE (b : Nat) : Fld := fld .lq b 0x40 0 1 0
def LQ_EYECFG_EWMIN (b : Nat) : Fld := fld .lq b 0x44 24 8 20
def LQ_EYECFG_EHMIN (b : Nat) : Fld := fld .lq b 0x44 16 8 12
def LQ_EYECFG_BERTH (b : Nat) : Fld := fld .lq b 0x44 8 8 0x10
def LQ_EYECFG_DWELL (b : Nat) : Fld := fld .lq b 0x44 4 4 8
def LQ_EYECFG_SCANPER (b : Nat) : Fld := fld .lq b 0x44 0 4 4
def LQ_EYEPT_START (b : Nat) : Fld := fld .lq b 0x48 31 1 0
def LQ_EYEPT_DONE (b : Nat) : Fld := fld .lq b 0x48 30 1 0
def LQ_EYEPT_LANE (b : Nat) : Fld := fld .lq b 0x48 24 2 0
def LQ_EYEPT_H (b : Nat) : Fld := fld .lq b 0x48 16 6 0x00
def LQ_EYEPT_V (b : Nat) : Fld := fld .lq b 0x48 8 7 0x00
def LQ_EYECNT_COUNT (b : Nat) : Fld := fld .lq b 0x4C 0 32 0x00000000
def LQ_LSTAT_STATE (b i : Nat) : Fld := fld .lq b (0x100 + 0x20 * i) 28 4 0
def LQ_LSTAT_CAUSE (b i : Nat) : Fld := fld .lq b (0x100 + 0x20 * i) 24 4 0
def LQ_LSTAT_SKEW (b i : Nat) : Fld := fld .lq b (0x100 + 0x20 * i) 16 8 0x00
def LQ_LSTAT_RELOCKS (b i : Nat) : Fld := fld .lq b (0x100 + 0x20 * i) 8 8 0x00
def LQ_LSTAT_TRAINS (b i : Nat) : Fld := fld .lq b (0x100 + 0x20 * i) 0 8 0x00
def LQ_TAP_CM1 (b i : Nat) : Fld := fld .lq b (0x104 + 0x20 * i) 16 5 0x00
def LQ_TAP_C0 (b i : Nat) : Fld := fld .lq b (0x104 + 0x20 * i) 8 6 0x00
def LQ_TAP_CP1 (b i : Nat) : Fld := fld .lq b (0x104 + 0x20 * i) 0 5 0x00
def LQ_EYE_WIDTH (b i : Nat) : Fld := fld .lq b (0x108 + 0x20 * i) 24 8 0x00
def LQ_EYE_HEIGHT (b i : Nat) : Fld := fld .lq b (0x108 + 0x20 * i) 16 8 0x00
def LQ_EYE_LKG (b i : Nat) : Fld := fld .lq b (0x108 + 0x20 * i) 15 1 0
def LQ_EYE_FROZEN (b i : Nat) : Fld := fld .lq b (0x108 + 0x20 * i) 14 1 0
def LQ_EYE_SCANS (b i : Nat) : Fld := fld .lq b (0x108 + 0x20 * i) 0 14 0x0000
def LQ_RTT_RTT (b i : Nat) : Fld := fld .lq b (0x10C + 0x20 * i) 0 32 0x00000000
def LQ_ERR_BIPERR (b i : Nat) : Fld := fld .lq b (0x110 + 0x20 * i) 16 16 0x0000
def LQ_ERR_MISSED (b i : Nat) : Fld := fld .lq b (0x110 + 0x20 * i) 0 16 0x0000
def HL_RCAL_TRIGGERS : Fld := fld .hl 0 0x100 16 16 0x0000
def HL_RCAL_THREF : Fld := fld .hl 0 0x100 8 8 0x00
def HL_RCAL_RCDELTA : Fld := fld .hl 0 0x100 0 5 0x08

/-! ### Registers of chapter 11, R307 -/

def LQ_HCMD_START (b : Nat) : Fld := fld .lq b 0x50 31 1 0
def LQ_HCMD_WRITE (b : Nat) : Fld := fld .lq b 0x50 30 1 0
def LQ_HCMD_LANE (b : Nat) : Fld := fld .lq b 0x50 28 2 0
def LQ_HCMD_ADDR (b : Nat) : Fld := fld .lq b 0x50 24 4 0
def LQ_HCMD_COUNT (b : Nat) : Fld := fld .lq b 0x50 20 4 1
def LQ_HCMD_EEADDR (b : Nat) : Fld := fld .lq b 0x50 0 16 0x0000
def LQ_HRES_DONE (b : Nat) : Fld := fld .lq b 0x54 31 1 0
def LQ_HRES_RESULT (b : Nat) : Fld := fld .lq b 0x54 24 3 0
def LQ_HDATA_DATA (b : Nat) : Fld := fld .lq b 0x58 0 64 0x0000000000000000
def LQ_HTEMP_VALID (b i : Nat) : Fld := fld .lq b (0x200 + 0x4 * i) 31 1 0
def LQ_HTEMP_TEMP (b i : Nat) : Fld := fld .lq b (0x200 + 0x4 * i) 0 16 0x0000
def LQ_HEP_CUR (b i : Nat) : Fld := fld .lq b (0x114 + 0x20 * i) 0 32 0x00000000
def LQ_HST_OWNER (b i : Nat) : Fld := fld .lq b (0x118 + 0x20 * i) 30 2 0
def LQ_HST_SELF (b i : Nat) : Fld := fld .lq b (0x118 + 0x20 * i) 29 1 0
def LQ_HST_LEASE (b i : Nat) : Fld := fld .lq b (0x118 + 0x20 * i) 28 1 0
def LQ_HST_ARM_L (b i : Nat) : Fld := fld .lq b (0x118 + 0x20 * i) 27 1 0
def LQ_HST_ARM_S (b i : Nat) : Fld := fld .lq b (0x118 + 0x20 * i) 26 1 0
def LQ_HST_CLAIM_SEEN (b i : Nat) : Fld := fld .lq b (0x118 + 0x20 * i) 25 1 0
def LQ_HST_CLAIM_RES (b i : Nat) : Fld := fld .lq b (0x118 + 0x20 * i) 22 3 0
def LQ_HST_PRESENT (b i : Nat) : Fld := fld .lq b (0x118 + 0x20 * i) 0 16 0x0000
def LQ_HERR_RESENDS (b i : Nat) : Fld := fld .lq b (0x11C + 0x20 * i) 16 16 0x0000
def LQ_HERR_REPORTS (b i : Nat) : Fld := fld .lq b (0x11C + 0x20 * i) 0 16 0x0000

/-! ### Registers of chapter 12, R329 -/

def TB_CFG_SSC : Fld := fld .tb 0 0x40 24 8 0
def TB_CFG_PPSFILT : Fld := fld .tb 0 0x40 20 4 3
def TB_CFG_LEAPMODE : Fld := fld .tb 0 0x40 16 1 1
def TB_CFG_POLICY : Fld := fld .tb 0 0x40 10 2 0
def TB_CFG_CSRC : Fld := fld .tb 0 0x40 8 2 0
def TB_STAT_DTSRC : Fld := fld .tb 0 0x44 31 1 0
def TB_STAT_FOLLOW : Fld := fld .tb 0 0x44 30 1 0
def TB_STAT_CVALID : Fld := fld .tb 0 0x44 29 1 0
def TB_STAT_CPEND : Fld := fld .tb 0 0x44 28 1 0
def TB_STAT_HOLDING : Fld := fld .tb 0 0x44 27 1 0
def TB_STAT_LEAPARM : Fld := fld .tb 0 0x44 26 1 0
def TB_STAT_LOT : Fld := fld .tb 0 0x44 0 16 0x0000
def TB_DT_DT : Fld := fld .tb 0 0x48 0 64 0x0000000000000000
def TB_RATE_NOW : Fld := fld .tb 0 0x50 16 16 0x0000
def TB_RATE_TARGET : Fld := fld .tb 0 0x50 0 16 0x0000
def TB_CIVOFS_OFS : Fld := fld .tb 0 0x58 0 64 0x0000000000000000
def TB_CIVPEND_PEND : Fld := fld .tb 0 0x60 0 64 0x0000000000000000
def TB_CERR_ERR : Fld := fld .tb 0 0x68 0 32 0x00000000
def TB_CPAR_CSLEW : Fld := fld .tb 0 0x6C 16 16 0x0064
def TB_CPAR_CSTEP : Fld := fld .tb 0 0x6C 0 16 0x000A
def TB_LEAP_ARM : Fld := fld .tb 0 0x70 31 1 0
def TB_LEAP_DEL : Fld := fld .tb 0 0x70 30 1 0
def TB_LEAP_LSPAN : Fld := fld .tb 0 0x70 0 17 0x15180
def TB_PPSLBL_LABEL : Fld := fld .tb 0 0x78 0 64 0x0000000000000000
def TB_PPSDT_DT : Fld := fld .tb 0 0x80 0 64 0x0000000000000000
def TB_GMOFS_GMOFS : Fld := fld .tb 0 0x88 0 64 0x0000000000000000
def TB_PTPCFG_CLASS : Fld := fld .tb 0 0x90 24 8 0xF8
def TB_PTPCFG_LOGSYNC : Fld := fld .tb 0 0x90 16 4 12
def TB_PTPCFG_DOMAIN : Fld := fld .tb 0 0x90 8 8 0x00
def TB_PTPCFG_DELAY : Fld := fld .tb 0 0x90 5 1 0
def TB_PTPCFG_SLAVE : Fld := fld .tb 0 0x90 4 1 0
def TB_PTPCFG_GMEN : Fld := fld .tb 0 0x90 0 4 0
def TB_CONFLICT_VALID : Fld := fld .tb 0 0x94 31 1 0
def TB_CONFLICT_HELD : Fld := fld .tb 0 0x94 4 4 0
def TB_CONFLICT_REFUSED : Fld := fld .tb 0 0x94 0 4 0
def TB_PORTLAT_TXLAT (i : Nat) : Fld := fld .tb 0 (0xA0 + 0x4 * i) 16 16 (Config.factory (20 + i) % 65536)
def TB_PORTLAT_RXLAT (i : Nat) : Fld := fld .tb 0 (0xA0 + 0x4 * i) 0 16 (Config.factory (30 + i) % 65536)
def TB_TMCFG_EN (i : Nat) : Fld := fld .tb 0 (0x200 + 0x20 * i) 31 1 0
def TB_TMCFG_LATE (i : Nat) : Fld := fld .tb 0 (0x200 + 0x20 * i) 30 1 0
def TB_TMCFG_TMASK (i : Nat) : Fld := fld .tb 0 (0x200 + 0x20 * i) 16 8 0x00
def TB_TMCFG_TRIG (i : Nat) : Fld := fld .tb 0 (0x200 + 0x20 * i) 8 3 0
def TB_TMCFG_OUT (i : Nat) : Fld := fld .tb 0 (0x200 + 0x20 * i) 4 2 0
def TB_TMCFG_LEVEL (i : Nat) : Fld := fld .tb 0 (0x200 + 0x20 * i) 3 1 0
def TB_TMCFG_MODE (i : Nat) : Fld := fld .tb 0 (0x200 + 0x20 * i) 0 1 0
def TB_TMT_T (i : Nat) : Fld := fld .tb 0 (0x208 + 0x20 * i) 0 64 0x0000000000000000
def TB_TMPER_PER (i : Nat) : Fld := fld .tb 0 (0x210 + 0x20 * i) 0 32 0x000F4240
def TB_TMWID_WID (i : Nat) : Fld := fld .tb 0 (0x214 + 0x20 * i) 0 32 0x000003E8

/-! ### Registers of chapter 13, R353 -/

def QM_TEN_EN : Fld := fld .qm 0 0x40 0 8 0x01
def QM_SLOTS_USED : Fld := fld .qm 0 0x44 0 17 0x001C0
def QM_GRANT_PORTS (i : Nat) : Fld := fld .qm 0 (0x80 + 0x4 * i) 8 4 (if i = 0 then 1 else 0)
def QM_GRANT_GRANT (i : Nat) : Fld := fld .qm 0 (0x80 + 0x4 * i) 0 8 (if i = 0 then 0xFF else 0)
def QM_EVMASK_MASK (i : Nat) : Fld := fld .qm 0 (0xC0 + 0x8 * i) 0 64 (if i = 0 then 0xFFFFFFFFFFFFFFFF else 0)
def QM_QCFG_EN (i : Nat) : Fld := fld .qm 0 (0x400 + 0x8 * i) 31 1 (qcfgReset i).1
def QM_QCFG_TENANT (i : Nat) : Fld := fld .qm 0 (0x400 + 0x8 * i) 28 3 (i / 8)
def QM_QCFG_CLASS (i : Nat) : Fld := fld .qm 0 (0x400 + 0x8 * i) 26 2 (qcfgReset i).2.1
def QM_QCFG_VIA (i : Nat) : Fld := fld .qm 0 (0x400 + 0x8 * i) 24 1 0
def QM_QCFG_PORT (i : Nat) : Fld := fld .qm 0 (0x400 + 0x8 * i) 22 2 0
def QM_QCFG_ODEPTH (i : Nat) : Fld := fld .qm 0 (0x400 + 0x8 * i) 12 10 (qcfgReset i).2.2.2.1
def QM_QCFG_DEPTH (i : Nat) : Fld := fld .qm 0 (0x400 + 0x8 * i) 0 10 (qcfgReset i).2.2.1
def QM_QTO_TO (i : Nat) : Fld := fld .qm 0 (0x404 + 0x8 * i) 0 20 (qcfgReset i).2.2.2.2
def QM_QSTAT_OUTQ (i : Nat) : Fld := fld .qm 0 (0x800 + 0x4 * i) 12 10 0x000
def QM_QSTAT_INQ (i : Nat) : Fld := fld .qm 0 (0x800 + 0x4 * i) 0 10 0x000
def TN_ID_TENANT (b : Nat) : Fld := fld .tn b 0x0 24 8 b
def TN_ID_ROLE (b : Nat) : Fld := fld .tn b 0x0 8 2 0
def TN_ID_GRANT (b : Nat) : Fld := fld .tn b 0x0 0 8 (if b = 0 then 0xFF else 0)
def TN_EPOCH_EPOCH (b : Nat) : Fld := fld .tn b 0x4 0 32 0x00000000
def TN_PEER_UNIT (b : Nat) : Fld := fld .tn b 0x8 0 32 0x00000000
def TN_QDB_PI (b i : Nat) : Fld := fld .tn b (0x1000 + 0x40 * i) 0 32 0x00000000
def TN_QCREL_CREL (b i : Nat) : Fld := fld .tn b (0x1004 + 0x40 * i) 0 32 0x00000000
def TN_QOCI_OCI (b i : Nat) : Fld := fld .tn b (0x1008 + 0x40 * i) 0 32 0x00000000
def TN_QOPI_OPI (b i : Nat) : Fld := fld .tn b (0x100C + 0x40 * i) 0 32 0x00000000
def TN_QIBASE_IBASE (b i : Nat) : Fld := fld .tn b (0x1010 + 0x40 * i) 0 64 0x0000000000000000
def TN_QOBASE_OBASE (b i : Nat) : Fld := fld .tn b (0x1018 + 0x40 * i) 0 64 0x0000000000000000
def TN_QIM_IM (b i : Nat) : Fld := fld .tn b (0x1020 + 0x40 * i) 0 16 0x0000
def HP_CFG_UDPPORT (b : Nat) : Fld := fld .hp b 0x40 16 16 0xC294
def HP_CFG_MTU (b : Nat) : Fld := fld .hp b 0x40 2 14 0x05DC
def HP_CFG_IP6EN (b : Nat) : Fld := fld .hp b 0x40 1 1 1
def HP_CFG_IP4EN (b : Nat) : Fld := fld .hp b 0x40 0 1 1
def HP_MAC_MAC (b : Nat) : Fld := fld .hp b 0x48 0 48 (Config.factory (10 + b) % 2 ^ 48)
def HP_IP4_ADDR (b : Nat) : Fld := fld .hp b 0x50 0 32 0x00000000
def HP_IP6_ADDR (b : Nat) : Fld := fld .hp b 0x60 0 128 0
def HP_CNT_NOCRED (b : Nat) : Fld := fld .hp b 0x70 16 16 0x0000
def HP_CNT_SEQERR (b : Nat) : Fld := fld .hp b 0x70 0 16 0x0000

/-! ### Registers of chapter 14, R376 -/

def SEQ_SSTAT_STATE : Fld := fld .seq 0 0x80 29 3 0
def SEQ_SSTAT_RAISED : Fld := fld .seq 0 0x80 28 1 0
def SEQ_SSTAT_CLAIMS : Fld := fld .seq 0 0x80 16 7 0x00
def SEQ_SSTAT_RAISES : Fld := fld .seq 0 0x80 0 16 0x0000
def SEQ_SCHK_RESULT : Fld := fld .seq 0 0x88 0 64 0x0000000000000000
def SEQ_SCPT_CPOINT : Fld := fld .seq 0 0x90 0 64 0x0000000000000000
def SEQ_SCGEN_CGEN : Fld := fld .seq 0 0x98 0 32 0x00000000
def NV_STAT_BUSY : Fld := fld .nv 0 0x40 31 1 0
def NV_STAT_RESULT : Fld := fld .nv 0 0x40 28 3 0
def NV_STAT_BANK : Fld := fld .nv 0 0x40 27 1 0
def NV_STAT_UVALID : Fld := fld .nv 0 0x40 26 1 0
def NV_USEQ_BSEQ : Fld := fld .nv 0 0x44 0 32 0x00000000

/-! ### Registers of chapter 15, R406 -/

def TW_UNIT_UNIT : Fld := fld .tw 0 0x40 0 32 unitId
def TW_PEER_PEER : Fld := fld .tw 0 0x44 0 32 0x00000000
def TW_CFG_CLAIMWIN : Fld := fld .tw 0 0x48 0 12 0x190
def TW_STAT_ROLE : Fld := fld .tw 0 0x4C 29 3 0
def TW_STAT_REASON : Fld := fld .tw 0 0x4C 25 4 0
def TW_STAT_BELAY_HEARD : Fld := fld .tw 0 0x4C 24 1 0
def TW_STAT_ROPE_HEARD : Fld := fld .tw 0 0x4C 23 1 0
def TW_STAT_ROPE_UP : Fld := fld .tw 0 0x4C 22 1 0
def TW_STAT_CLAIMING : Fld := fld .tw 0 0x4C 21 1 0
def TW_STAT_CLAIMHOLD : Fld := fld .tw 0 0x4C 20 1 0
def TW_STAT_HANDOFF : Fld := fld .tw 0 0x4C 19 1 0
def TW_STAT_SECTIONS : Fld := fld .tw 0 0x4C 8 4 0
def TW_CTL_RECATCH : Fld := fld .tw 0 0x50 1 1 0
def TW_CTL_HANDOFF : Fld := fld .tw 0 0x50 0 1 0
def TW_EXPECT_EXPECT : Fld := fld .tw 0 0x54 0 32 0x00000000
def TW_JSEQ_JSEQ : Fld := fld .tw 0 0x58 0 32 0x00000000
def TW_JACK_JACK : Fld := fld .tw 0 0x5C 0 32 0x00000000
def TW_HASH_MISMATCH : Fld := fld .tw 0 0x60 16 16 0x0000
def TW_HASH_MISSING : Fld := fld .tw 0 0x60 0 16 0x0000
def TW_VERD_SWRONG : Fld := fld .tw 0 0x64 24 8 0x00
def TW_VERD_AWRONG : Fld := fld .tw 0 0x64 16 8 0x00
def TW_VERD_UNDEC : Fld := fld .tw 0 0x64 8 8 0x00
def TW_VERD_NONE : Fld := fld .tw 0 0x64 0 8 0x00
def TW_HLEAD_HLEAD (i : Nat) : Fld := fld .tw 0 (0x100 + 0x4 * i) 0 16 0xFFFF
def RL_STAT_UP : Fld := fld .rl 0 0x40 31 1 0
def RL_STAT_LSTATE : Fld := fld .rl 0 0x40 0 16 0x0000
def RL_RTT_RTT : Fld := fld .rl 0 0x44 0 32 0x00000000
def RL_CFG_RLADJ : Fld := fld .rl 0 0x48 0 16 0x0000
def RL_CNT_RESENDS : Fld := fld .rl 0 0x4C 16 16 0x0000
def RL_CNT_DOWNS : Fld := fld .rl 0 0x4C 0 16 0x0000

/-! ### Registers of chapter 16, R435 -/

def HL_BCFG_REST_IDLE : Fld := fld .hl 0 0x180 24 8 0x0A
def HL_BCFG_PLOG : Fld := fld .hl 0 0x180 16 5 0x14
def HL_BCFG_REST_AUTO : Fld := fld .hl 0 0x180 2 1 0
def HL_BCFG_SHUT_EN : Fld := fld .hl 0 0x180 1 1 1
def HL_BCTL_NOQUICK : Fld := fld .hl 0 0x184 2 1 0
def HL_BCTL_ABORT : Fld := fld .hl 0 0x184 1 1 0
def HL_BCTL_REST : Fld := fld .hl 0 0x184 0 1 0
def HL_BSTAT_STATE : Fld := fld .hl 0 0x188 29 3 0
def HL_BSTAT_WAVE : Fld := fld .hl 0 0x188 27 2 0
def HL_BSTAT_FULLSTART : Fld := fld .hl 0 0x188 26 1 1
def HL_BSTAT_QSN : Fld := fld .hl 0 0x188 16 4 0
def HL_BSTAT_FAILED : Fld := fld .hl 0 0x188 8 8 0x00
def HL_BSTAT_NOTPASS : Fld := fld .hl 0 0x188 0 8 0x00
def HL_BSET_SSEQ : Fld := fld .hl 0 0x18C 0 32 0

/-! ### Registers of chapter 17, R452 -/

def HL_THSTAT_WARN : Fld := fld .hl 0 0x40 31 1 0
def HL_THSTAT_THROT : Fld := fld .hl 0 0x40 30 1 0
def HL_THSTAT_PREV_SHUT : Fld := fld .hl 0 0x40 29 1 0
def HL_THSTAT_PREV_PWRFAIL : Fld := fld .hl 0 0x40 28 1 0
def HL_THSTAT_SENSOR : Fld := fld .hl 0 0x40 23 5 0
def HL_THSTAT_THETA_J : Fld := fld .hl 0 0x40 0 16 0x0000
def HL_THCFG_THR_VPER : Fld := fld .hl 0 0x44 24 8 0x64
def HL_THCFG_VSTEP : Fld := fld .hl 0 0x44 16 8 0x02
def HL_THCFG_THR_PER : Fld := fld .hl 0 0x44 8 8 0x01
def HL_THCFG_THR_RPER : Fld := fld .hl 0 0x44 0 8 0x0A
def HL_THR_DIV_CR : Fld := fld .hl 0 0x48 30 2 0
def HL_THR_DIV_MR : Fld := fld .hl 0 0x48 28 2 0
def HL_THR_RELEASING : Fld := fld .hl 0 0x48 24 1 0
def HL_THR_VTH : Fld := fld .hl 0 0x48 0 24 0xFFFFFF
def HL_THVMIN_VMIN : Fld := fld .hl 0 0x4C 0 24 0x000683
def HL_PSTAT_STATE : Fld := fld .hl 0 0x50 28 4 1
def HL_PSTAT_DOMAIN_ON : Fld := fld .hl 0 0x50 16 8 0x7F
def HL_PSTAT_STARTMS : Fld := fld .hl 0 0x50 0 16 0
def HL_PCTL_RGOFF : Fld := fld .hl 0 0x54 4 4 0
def HL_PCTL_SHUTDOWN : Fld := fld .hl 0 0x54 0 1 0
def HL_VMON_VCORE : Fld := fld .hl 0 0x58 0 16 0x0000
def HL_TS_BROKEN (i : Nat) : Fld := fld .hl 0 (0x200 + 0x4 * i) 31 1 0
def HL_TS_TEMP (i : Nat) : Fld := fld .hl 0 (0x200 + 0x4 * i) 0 16 0x0000
def LS_LSPD_SLOW : Fld := fld .ls 0 0x40 31 1 0
def LS_LSPD_CAUSE : Fld := fld .ls 0 0x40 28 3 0
def LS_LSPD_SEQ : Fld := fld .ls 0 0x40 24 4 0
def LS_LSPD_LIMIT : Fld := fld .ls 0 0x40 0 24 0x000000

/-! ### Registers of chapter 18, R470 -/

def SYS_STRAP_ROPE_PREF : Fld := fld .sys 0 0x40 2 1 0
def SYS_STRAP_ROPED_EN : Fld := fld .sys 0 0x40 1 1 0
def SYS_STRAP_FTM : Fld := fld .sys 0 0x40 0 1 0
def SYS_PKG_PART : Fld := fld .sys 0 0x44 16 16 0x9612
/-- 0 ET9612-C, 1 ET9612-I: a factory value of the part (assumption 5). -/
def SYS_PKG_GRADE : Fld := fld .sys 0 0x44 8 1 (Config.factory 2 % 2)
def SYS_PKG_MAJOR : Fld := fld .sys 0 0x44 4 4 1
def SYS_PKG_MINOR : Fld := fld .sys 0 0x44 0 4 1
def LS_REFOUT_EN : Fld := fld .ls 0 0x44 0 6 0x3F

/-! ### Registers of chapter 06, R173 -/

def CH_CTRL_MODE (i : Nat) : Fld := fld .ch 0 0x40 (2 * i) 2 0
/-- Drop weight w(l), l = 1 to 7, of bar i. -/
def CH_WGT_W (i l : Nat) : Fld := fld .ch 0 (0xC0 + 8 * i) (8 * (l - 1)) 8 0xFF
/-- Node n = 0 to 16 of the response table of bar i. -/
def CH_RESP_NODE (i n : Nat) : Fld := fld .ch 0 (0x200 + 0x40 * i + 4 * (n / 2)) (16 * (n % 2)) 16 0
/-! ### Access rows -/

def rowsSeq : List FRow :=
  [⟨1, .ro, .any, fun _ _ => SEQ_STAT_IMG_LOADED⟩,
   ⟨1, .ro, .any, fun _ _ => SEQ_STAT_CTX_BUSY⟩,
   ⟨1, .ro, .any, fun _ _ => SEQ_IMGID_IMAGE_ID⟩,
   ⟨17, .ro, .any, fun _ i => SEQ_CSTAT_DISPATCHES i⟩,
   ⟨17, .ro, .any, fun _ i => SEQ_CSTAT_RUNNING i⟩,
   ⟨17, .ro, .any, fun _ i => SEQ_CSTAT_ENTRY i⟩,
   ⟨17, .ro, .any, fun _ i => SEQ_CSTAT_STATE i⟩,
   ⟨17, .ro, .any, fun _ i => SEQ_CPC_PC i⟩,
   ⟨17, .ro, .any, fun _ i => SEQ_CWAIT_OPERAND i⟩,
   ⟨17, .ro, .any, fun _ i => SEQ_CWAIT_KIND i⟩,
   ⟨17, .rs, .any, fun _ i => SEQ_CTRAP_TRAPPED i⟩,
   ⟨17, .ro, .any, fun _ i => SEQ_CTRAP_TPC i⟩,
   ⟨17, .ro, .any, fun _ i => SEQ_CTRAP_CODE i⟩,
   ⟨128, .ro, .any, fun _ i => SEQ_DISPA_EN i⟩,
   ⟨128, .ro, .any, fun _ i => SEQ_DISPA_RES i⟩,
   ⟨128, .ro, .any, fun _ i => SEQ_DISPA_PEND i⟩,
   ⟨128, .ro, .any, fun _ i => SEQ_DISPA_PRIO i⟩,
   ⟨128, .ro, .any, fun _ i => SEQ_DISPA_ENTRY_PC i⟩,
   ⟨128, .ro, .any, fun _ i => SEQ_DISPB_COUNT i⟩,
   ⟨128, .ro, .any, fun _ i => SEQ_DISPB_CTX_MASK i⟩,
   ⟨64, .ro, .any, fun _ i => SEQ_QBIND_CTX_MASK i⟩,
   ⟨1, .ro, .any, fun _ _ => SEQ_PCUR_CUR⟩,
   ⟨1, .ro, .any, fun _ _ => SEQ_PSEQ_NEXT_SEQ⟩,
   ⟨1, .ro, .any, fun _ _ => SEQ_PSTAT_OPEN⟩,
   ⟨1, .rs, .any, fun _ _ => SEQ_PSTAT_BEHIND⟩,
   ⟨1, .ro, .any, fun _ _ => SEQ_PSTAT_PEAK⟩,
   ⟨1, .ro, .any, fun _ _ => SEQ_PSTAT_ACTIVE⟩,
   ⟨1, .ro, .any, fun _ _ => SEQ_PLATE_DISCARDED⟩,
   ⟨1, .ro, .any, fun _ _ => SEQ_PLATE_CLIPPED⟩,
   ⟨1, .ro, .any, fun _ _ => SEQ_POUT_OUTSTANDING⟩,
   ⟨1, .ro, .any, fun _ _ => SEQ_VSLOT_FREE⟩,
   ⟨16, .ro, .any, fun _ i => SEQ_SCTR_VALUE i⟩,
   ⟨1, .ro, .any, fun _ _ => SEQ_SSTAT_STATE⟩,
   ⟨1, .rs, .any, fun _ _ => SEQ_SSTAT_RAISED⟩,
   ⟨1, .ro, .any, fun _ _ => SEQ_SSTAT_CLAIMS⟩,
   ⟨1, .ro, .any, fun _ _ => SEQ_SSTAT_RAISES⟩,
   ⟨1, .ro, .any, fun _ _ => SEQ_SCHK_RESULT⟩,
   ⟨1, .ro, .any, fun _ _ => SEQ_SCPT_CPOINT⟩,
   ⟨1, .ro, .any, fun _ _ => SEQ_SCGEN_CGEN⟩]
def rowsJs : List FRow :=
  [⟨1, .ro, .any, fun _ _ => JS_STAT_FREE⟩,
   ⟨1, .ro, .any, fun _ _ => JS_LARGEST_LARGEST⟩,
   ⟨1, .ro, .any, fun _ _ => JS_NALLOC_COUNT⟩,
   ⟨8, .rw, .any, fun _ i => JS_QUOTA_QUOTA i⟩,
   ⟨8, .ro, .any, fun _ i => JS_USED_USED i⟩]
def rowsCd : List FRow :=
  [⟨1, .ro, .any, fun _ _ => CD_STAT_QUEUED⟩,
   ⟨1, .ro, .any, fun _ _ => CD_STAT_JOB_BUSY⟩,
   ⟨1, .ro, .any, fun _ _ => CD_STAT_FETCH_BUSY⟩,
   ⟨1, .sc, .any, fun _ _ => CD_DEMAND_PEAK_CLR⟩,
   ⟨1, .ro, .any, fun _ _ => CD_DEMAND_PEAK⟩,
   ⟨1, .ro, .any, fun _ _ => CD_DEMAND_DEMAND⟩,
   ⟨1, .rw, .keepIf [0], fun _ _ => CD_STALLTO_STALLTO⟩,
   ⟨1, .ro, .any, fun _ _ => CD_VCNT_VFAIL⟩,
   ⟨1, .ro, .any, fun _ _ => CD_VCNT_REEMIT⟩,
   ⟨1, .ro, .any, fun _ _ => CD_FERR_FAIL⟩,
   ⟨1, .ro, .any, fun _ _ => CD_FERR_RETRY⟩]
def rowsTc : List FRow :=
  [⟨1, .ro, .any, fun _ _ => TC_HIT_HITS⟩,
   ⟨1, .ro, .any, fun _ _ => TC_MISS_MISSES⟩,
   ⟨1, .ro, .any, fun _ _ => TC_PIN_PINNED⟩]
def rowsCh : List FRow :=
  [⟨1, .rw, .any, fun _ _ => CH_LAW_SLEW⟩,
   ⟨1, .rw, .any, fun _ _ => CH_LAW_DB⟩,
   ⟨1, .rw, .any, fun _ _ => CH_LAW_GAIN⟩,
   ⟨1, .rw, .zeroIs 1, fun _ _ => CH_OBS_NBMIN⟩,
   ⟨1, .rw, .any, fun _ _ => CH_OBS_SENS_MIN⟩,
   ⟨1, .rw, .any, fun _ _ => CH_TLIM_TMAX⟩,
   ⟨1, .rw, .any, fun _ _ => CH_TLIM_TMIN⟩,
   ⟨1, .rw, .any, fun _ _ => CH_COMMIT_CMARGIN⟩,
   ⟨1, .rw, .zeroIs 1, fun _ _ => CH_COMMIT_CPERIOD⟩,
   ⟨1, .ro, .any, fun _ _ => CH_STAT_BUSY⟩,
   ⟨1, .ro, .any, fun _ _ => CH_STAT_PENDING⟩,
   ⟨1, .ro, .any, fun _ _ => CH_STAT_LCOMMITS⟩,
   ⟨1, .ro, .any, fun _ _ => CH_CNT_REJECTED⟩,
   ⟨1, .ro, .any, fun _ _ => CH_CNT_REPORTS⟩,
   ⟨1, .ro, .any, fun _ _ => CH_SUP_LIMITED⟩,
   ⟨1, .ro, .any, fun _ _ => CH_SUP_SUPERSEDED⟩,
   ⟨1, .rw, .zeroIs 1, fun _ _ => CH_RESLIM_RESN⟩,
   ⟨1, .rw, .any, fun _ _ => CH_RESLIM_RESLIM⟩,
   ⟨16, .ro, .any, fun _ i => CH_RESID_PEAK i⟩,
   ⟨16, .ro, .any, fun _ i => CH_RESID_RESID i⟩,
   ⟨16, .ro, .any, fun _ i => CH_LGEN_LGEN i⟩,
   ⟨16, .rw, .keepIf [3], fun _ i => CH_CTRL_MODE i⟩,
   ⟨112, .rw, .any, fun _ i => CH_WGT_W (i / 7) (i % 7 + 1)⟩,
   ⟨272, .rw, .any, fun _ i => CH_RESP_NODE (i / 17) (i % 17)⟩]
def rowsBe : List FRow :=
  [⟨1, .ro, .any, fun b _ => BE_SCR_ROTATIONS b⟩,
   ⟨1, .ro, .any, fun b _ => BE_SCR_SPARE_STATE b⟩,
   ⟨1, .ro, .any, fun b _ => BE_SCR_SPARE b⟩,
   ⟨1, .ro, .any, fun b _ => BE_SCR_WORKING b⟩,
   ⟨1, .ro, .any, fun b _ => BE_HR_HEADROOM b⟩,
   ⟨1, .sc, .any, fun b _ => BE_HRMIN_MIN_CLR b⟩,
   ⟨1, .ro, .any, fun b _ => BE_HRMIN_MIN b⟩,
   ⟨1, .ro, .any, fun b _ => BE_RBK_SPARE_FAIL b⟩,
   ⟨1, .ro, .any, fun b _ => BE_RBK_ROLLBACK b⟩,
   ⟨1, .ro, .any, fun b _ => BE_FENCE_FENCED b⟩]
def rowsFs : List FRow :=
  [⟨1, .ro, .any, fun _ _ => FS_STAT_HALTED⟩,
   ⟨1, .ro, .any, fun _ _ => FS_STAT_CAUSE⟩,
   ⟨1, .ro, .any, fun _ _ => FS_STAT_HFN⟩,
   ⟨1, .ro, .any, fun _ _ => FS_STAT_COASTING⟩,
   ⟨1, .ro, .any, fun _ _ => FS_STAT_MODE⟩,
   ⟨1, .ro, .any, fun _ _ => FS_X_X⟩,
   ⟨1, .ro, .any, fun _ _ => FS_VEL_VEL⟩,
   ⟨1, .ro, .any, fun _ _ => FS_ACC_ACC⟩,
   ⟨1, .ro, .any, fun _ _ => FS_RES_PEAK⟩,
   ⟨1, .ro, .any, fun _ _ => FS_RES_RES⟩,
   ⟨1, .ro, .any, fun _ _ => FS_AMEND_SENT⟩,
   ⟨1, .ro, .any, fun _ _ => FS_AMISS_MISSED⟩,
   ⟨1, .ro, .any, fun _ _ => FS_AMISS_CLAMPED⟩,
   ⟨1, .ro, .any, fun _ _ => FS_HALT_HALTS⟩,
   ⟨1, .ro, .any, fun _ _ => FS_HALT_SKIPPED⟩,
   ⟨16, .ro, .any, fun _ i => FS_DEFF_DEFF i⟩]
def rowsWm : List FRow :=
  [⟨1, .rw, .clamp 10 1023, fun _ _ => WM_CFG_GATE⟩,
   ⟨1, .rw, .any, fun _ _ => WM_CFG_OUTFEED⟩,
   ⟨1, .rw, .any, fun _ _ => WM_CFG_INFEED⟩,
   ⟨1, .ro, .any, fun _ _ => WM_STAT_BEFORE⟩,
   ⟨1, .ro, .any, fun _ _ => WM_X_X⟩,
   ⟨1, .rw, .any, fun _ _ => WM_STR_GAIN⟩,
   ⟨1, .rw, .any, fun _ _ => WM_STR_MODE⟩,
   ⟨1, .rw, .clamp 604724 0xFFFFFFFF, fun _ _ => WM_STRWIN_WIN⟩,
   ⟨1, .rw, .sclamp (-80000) 80000, fun _ _ => WM_STROFS_OFS⟩,
   ⟨1, .ro, .any, fun _ _ => WM_EPS_EPS⟩,
   ⟨1, .ro, .any, fun _ _ => WM_STRRAW_RAW⟩,
   ⟨1, .ro, .any, fun _ _ => WM_STRCNT_DISCARDED⟩,
   ⟨1, .ro, .any, fun _ _ => WM_STRCNT_WINDOWS⟩,
   ⟨4, .rw, .zeroIs 1, fun _ i => WM_ECFG_TSTILL i⟩,
   ⟨4, .rw, .zeroIs 1, fun _ i => WM_ECFG_FILT i⟩,
   ⟨4, .rw, .any, fun _ i => WM_ECFG_ZMODE i⟩,
   ⟨4, .rw, .clamp 0 50, fun _ i => WM_ECFG_HYS i⟩,
   ⟨4, .rw, .any, fun _ i => WM_ECFG_DIRINV i⟩,
   ⟨4, .rw, .any, fun _ i => WM_ECFG_EN i⟩,
   ⟨4, .rw, .any, fun _ i => WM_CPR_CPR i⟩,
   ⟨4, .rw, .any, fun _ i => WM_SCALE_SCALE i⟩,
   ⟨4, .rw, .any, fun _ i => WM_VCO_ZTOL i⟩,
   ⟨4, .rw, .any, fun _ i => WM_VCO_VCO i⟩,
   ⟨4, .ro, .any, fun _ i => WM_POS_POS i⟩,
   ⟨4, .ro, .any, fun _ i => WM_SPD_SPD i⟩,
   ⟨4, .ro, .any, fun _ i => WM_EST_ILLEGAL i⟩,
   ⟨4, .ro, .any, fun _ i => WM_EST_ZERR i⟩,
   ⟨4, .ro, .any, fun _ i => WM_EST_METHOD i⟩,
   ⟨4, .ro, .any, fun _ i => WM_EST_DIR i⟩,
   ⟨4, .ro, .any, fun _ i => WM_EST_FIRST i⟩,
   ⟨4, .ro, .any, fun _ i => WM_EST_REV i⟩,
   ⟨4, .ro, .any, fun _ i => WM_EST_STILL i⟩,
   ⟨4, .ro, .any, fun _ i => WM_EXT_EXT i⟩,
   ⟨4, .rw, .any, fun _ i => WM_ZREF_ZREF i⟩,
   ⟨4, .ro, .any, fun _ i => WM_ZLAT_ZPOS i⟩,
   ⟨4, .ro, .any, fun _ i => WM_ZDT_ZDT i⟩,
   ⟨2, .rw, .any, fun _ i => WM_SCFG_DLY i⟩,
   ⟨2, .rw, .clamp 20 2000, fun _ i => WM_SCFG_CDIV i⟩,
   ⟨2, .rw, .clamp 13 32, fun _ i => WM_SCFG_NBITS i⟩,
   ⟨2, .rw, .any, fun _ i => WM_SCFG_EBIT i⟩,
   ⟨2, .rw, .any, fun _ i => WM_SCFG_GRAY i⟩,
   ⟨2, .rw, .any, fun _ i => WM_SCFG_EN i⟩,
   ⟨2, .rw, .any, fun _ i => WM_SPER_MONO i⟩,
   ⟨2, .rw, .any, fun _ i => WM_SPER_PER i⟩,
   ⟨2, .ro, .any, fun _ i => WM_SVAL_VALUE i⟩,
   ⟨2, .ro, .any, fun _ i => WM_SST_LINEERR i⟩,
   ⟨2, .ro, .any, fun _ i => WM_SST_ENCERR i⟩,
   ⟨2, .ro, .any, fun _ i => WM_SEXT_SEXT i⟩,
   ⟨2, .ro, .any, fun _ i => WM_SDT_SDT i⟩,
   ⟨8, .rw, .any, fun _ i => WM_PCFG_TMASK i⟩,
   ⟨8, .sc, .any, fun _ i => WM_PCFG_POP i⟩,
   ⟨8, .rw, .zeroIs 1, fun _ i => WM_PCFG_FILT i⟩,
   ⟨8, .rw, .keepIf [7], fun _ i => WM_PCFG_SRC i⟩,
   ⟨8, .rw, .keepIf [3], fun _ i => WM_PCFG_EDGE i⟩,
   ⟨8, .rw, .any, fun _ i => WM_PCFG_EN i⟩,
   ⟨8, .ro, .any, fun _ i => WM_PST_OVF i⟩,
   ⟨8, .ro, .any, fun _ i => WM_PST_COUNT i⟩,
   ⟨8, .ro, .any, fun _ i => WM_PSEQ_SEQ i⟩,
   ⟨8, .ro, .any, fun _ i => WM_PVAL_VALUE i⟩,
   ⟨8, .ro, .any, fun _ i => WM_PDT_DT i⟩]
def rowsLq : List FRow :=
  [⟨1, .rw, .any, fun b _ => LQ_CFG_BIPLIM b⟩,
   ⟨1, .rw, .any, fun b _ => LQ_CFG_RXINV b⟩,
   ⟨1, .rw, .any, fun b _ => LQ_CFG_TXINV b⟩,
   ⟨1, .rw, .any, fun b _ => LQ_CFG_EN b⟩,
   ⟨1, .rw, .any, fun b _ => LQ_CFG_RATE b⟩,
   ⟨1, .rw, .any, fun b _ => LQ_CFG_MODE b⟩,
   ⟨1, .rw, .any, fun b _ => LQ_EYECFG_EWMIN b⟩,
   ⟨1, .rw, .any, fun b _ => LQ_EYECFG_EHMIN b⟩,
   ⟨1, .rw, .any, fun b _ => LQ_EYECFG_BERTH b⟩,
   ⟨1, .rw, .any, fun b _ => LQ_EYECFG_DWELL b⟩,
   ⟨1, .rw, .zeroIs 1, fun b _ => LQ_EYECFG_SCANPER b⟩,
   ⟨1, .sc, .any, fun b _ => LQ_EYEPT_START b⟩,
   ⟨1, .ro, .any, fun b _ => LQ_EYEPT_DONE b⟩,
   ⟨1, .rw, .any, fun b _ => LQ_EYEPT_LANE b⟩,
   ⟨1, .rw, .any, fun b _ => LQ_EYEPT_H b⟩,
   ⟨1, .rw, .any, fun b _ => LQ_EYEPT_V b⟩,
   ⟨1, .ro, .any, fun b _ => LQ_EYECNT_COUNT b⟩,
   ⟨4, .ro, .any, fun b i => LQ_LSTAT_STATE b i⟩,
   ⟨4, .ro, .any, fun b i => LQ_LSTAT_CAUSE b i⟩,
   ⟨4, .ro, .any, fun b i => LQ_LSTAT_SKEW b i⟩,
   ⟨4, .ro, .any, fun b i => LQ_LSTAT_RELOCKS b i⟩,
   ⟨4, .ro, .any, fun b i => LQ_LSTAT_TRAINS b i⟩,
   ⟨4, .ro, .any, fun b i => LQ_TAP_CM1 b i⟩,
   ⟨4, .ro, .any, fun b i => LQ_TAP_C0 b i⟩,
   ⟨4, .ro, .any, fun b i => LQ_TAP_CP1 b i⟩,
   ⟨4, .ro, .any, fun b i => LQ_EYE_WIDTH b i⟩,
   ⟨4, .ro, .any, fun b i => LQ_EYE_HEIGHT b i⟩,
   ⟨4, .ro, .any, fun b i => LQ_EYE_LKG b i⟩,
   ⟨4, .ro, .any, fun b i => LQ_EYE_FROZEN b i⟩,
   ⟨4, .ro, .any, fun b i => LQ_EYE_SCANS b i⟩,
   ⟨4, .ro, .any, fun b i => LQ_RTT_RTT b i⟩,
   ⟨4, .ro, .any, fun b i => LQ_ERR_BIPERR b i⟩,
   ⟨4, .ro, .any, fun b i => LQ_ERR_MISSED b i⟩,
   ⟨1, .sc, .any, fun b _ => LQ_HCMD_START b⟩,
   ⟨1, .rw, .any, fun b _ => LQ_HCMD_WRITE b⟩,
   ⟨1, .rw, .any, fun b _ => LQ_HCMD_LANE b⟩,
   ⟨1, .rw, .any, fun b _ => LQ_HCMD_ADDR b⟩,
   ⟨1, .rw, .clamp 1 8, fun b _ => LQ_HCMD_COUNT b⟩,
   ⟨1, .rw, .any, fun b _ => LQ_HCMD_EEADDR b⟩,
   ⟨1, .ro, .any, fun b _ => LQ_HRES_DONE b⟩,
   ⟨1, .ro, .any, fun b _ => LQ_HRES_RESULT b⟩,
   ⟨1, .rw, .any, fun b _ => LQ_HDATA_DATA b⟩,
   ⟨64, .ro, .any, fun b i => LQ_HTEMP_VALID b i⟩,
   ⟨64, .ro, .any, fun b i => LQ_HTEMP_TEMP b i⟩,
   ⟨4, .ro, .any, fun b i => LQ_HEP_CUR b i⟩,
   ⟨4, .ro, .any, fun b i => LQ_HST_OWNER b i⟩,
   ⟨4, .ro, .any, fun b i => LQ_HST_SELF b i⟩,
   ⟨4, .ro, .any, fun b i => LQ_HST_LEASE b i⟩,
   ⟨4, .ro, .any, fun b i => LQ_HST_ARM_L b i⟩,
   ⟨4, .ro, .any, fun b i => LQ_HST_ARM_S b i⟩,
   ⟨4, .ro, .any, fun b i => LQ_HST_CLAIM_SEEN b i⟩,
   ⟨4, .ro, .any, fun b i => LQ_HST_CLAIM_RES b i⟩,
   ⟨4, .ro, .any, fun b i => LQ_HST_PRESENT b i⟩,
   ⟨4, .ro, .any, fun b i => LQ_HERR_RESENDS b i⟩,
   ⟨4, .ro, .any, fun b i => LQ_HERR_REPORTS b i⟩]
def rowsHl : List FRow :=
  [⟨1, .ro, .any, fun _ _ => HL_RCAL_TRIGGERS⟩,
   ⟨1, .ro, .any, fun _ _ => HL_RCAL_THREF⟩,
   ⟨1, .rw, .zeroIs 1, fun _ _ => HL_RCAL_RCDELTA⟩,
   ⟨1, .rw, .zeroIs 1, fun _ _ => HL_BCFG_REST_IDLE⟩,
   ⟨1, .rw, .only [16, 18, 20, 22, 24], fun _ _ => HL_BCFG_PLOG⟩,
   ⟨1, .rw, .any, fun _ _ => HL_BCFG_REST_AUTO⟩,
   ⟨1, .rw, .any, fun _ _ => HL_BCFG_SHUT_EN⟩,
   ⟨1, .sc, .any, fun _ _ => HL_BCTL_NOQUICK⟩,
   ⟨1, .sc, .any, fun _ _ => HL_BCTL_ABORT⟩,
   ⟨1, .sc, .any, fun _ _ => HL_BCTL_REST⟩,
   ⟨1, .ro, .any, fun _ _ => HL_BSTAT_STATE⟩,
   ⟨1, .ro, .any, fun _ _ => HL_BSTAT_WAVE⟩,
   ⟨1, .ro, .any, fun _ _ => HL_BSTAT_FULLSTART⟩,
   ⟨1, .ro, .any, fun _ _ => HL_BSTAT_QSN⟩,
   ⟨1, .ro, .any, fun _ _ => HL_BSTAT_FAILED⟩,
   ⟨1, .ro, .any, fun _ _ => HL_BSTAT_NOTPASS⟩,
   ⟨1, .ro, .any, fun _ _ => HL_BSET_SSEQ⟩,
   ⟨1, .ro, .any, fun _ _ => HL_THSTAT_WARN⟩,
   ⟨1, .ro, .any, fun _ _ => HL_THSTAT_THROT⟩,
   ⟨1, .rs, .any, fun _ _ => HL_THSTAT_PREV_SHUT⟩,
   ⟨1, .rs, .any, fun _ _ => HL_THSTAT_PREV_PWRFAIL⟩,
   ⟨1, .ro, .any, fun _ _ => HL_THSTAT_SENSOR⟩,
   ⟨1, .ro, .any, fun _ _ => HL_THSTAT_THETA_J⟩,
   ⟨1, .rw, .clamp 10 255, fun _ _ => HL_THCFG_THR_VPER⟩,
   ⟨1, .rw, .clamp 1 10, fun _ _ => HL_THCFG_VSTEP⟩,
   ⟨1, .rw, .zeroIs 1, fun _ _ => HL_THCFG_THR_PER⟩,
   ⟨1, .rw, .zeroIs 1, fun _ _ => HL_THCFG_THR_RPER⟩,
   ⟨1, .ro, .any, fun _ _ => HL_THR_DIV_CR⟩,
   ⟨1, .ro, .any, fun _ _ => HL_THR_DIV_MR⟩,
   ⟨1, .ro, .any, fun _ _ => HL_THR_RELEASING⟩,
   ⟨1, .ro, .any, fun _ _ => HL_THR_VTH⟩,
   ⟨1, .rw, .any, fun _ _ => HL_THVMIN_VMIN⟩,
   ⟨1, .ro, .any, fun _ _ => HL_PSTAT_STATE⟩,
   ⟨1, .ro, .any, fun _ _ => HL_PSTAT_DOMAIN_ON⟩,
   ⟨1, .ro, .any, fun _ _ => HL_PSTAT_STARTMS⟩,
   ⟨1, .rw, .any, fun _ _ => HL_PCTL_RGOFF⟩,
   ⟨1, .sc, .any, fun _ _ => HL_PCTL_SHUTDOWN⟩,
   ⟨1, .ro, .any, fun _ _ => HL_VMON_VCORE⟩,
   ⟨24, .ro, .any, fun _ i => HL_TS_BROKEN i⟩,
   ⟨24, .ro, .any, fun _ i => HL_TS_TEMP i⟩]
def rowsTb : List FRow :=
  [⟨1, .ro, .any, fun _ _ => TB_CFG_SSC⟩,
   ⟨1, .rw, .zeroIs 1, fun _ _ => TB_CFG_PPSFILT⟩,
   ⟨1, .rw, .any, fun _ _ => TB_CFG_LEAPMODE⟩,
   ⟨1, .rw, .keepIf [3], fun _ _ => TB_CFG_POLICY⟩,
   ⟨1, .rw, .keepIf [3], fun _ _ => TB_CFG_CSRC⟩,
   ⟨1, .ro, .any, fun _ _ => TB_STAT_DTSRC⟩,
   ⟨1, .ro, .any, fun _ _ => TB_STAT_FOLLOW⟩,
   ⟨1, .ro, .any, fun _ _ => TB_STAT_CVALID⟩,
   ⟨1, .ro, .any, fun _ _ => TB_STAT_CPEND⟩,
   ⟨1, .ro, .any, fun _ _ => TB_STAT_HOLDING⟩,
   ⟨1, .ro, .any, fun _ _ => TB_STAT_LEAPARM⟩,
   ⟨1, .ro, .any, fun _ _ => TB_STAT_LOT⟩,
   ⟨1, .ro, .any, fun _ _ => TB_DT_DT⟩,
   ⟨1, .ro, .any, fun _ _ => TB_RATE_NOW⟩,
   ⟨1, .rw, .sclamp (-10000) 10000, fun _ _ => TB_RATE_TARGET⟩,
   ⟨1, .ro, .any, fun _ _ => TB_CIVOFS_OFS⟩,
   ⟨1, .ro, .any, fun _ _ => TB_CIVPEND_PEND⟩,
   ⟨1, .ro, .any, fun _ _ => TB_CERR_ERR⟩,
   ⟨1, .rw, .clamp 1 1000, fun _ _ => TB_CPAR_CSLEW⟩,
   ⟨1, .rw, .zeroIs 1, fun _ _ => TB_CPAR_CSTEP⟩,
   ⟨1, .rw, .any, fun _ _ => TB_LEAP_ARM⟩,
   ⟨1, .rw, .any, fun _ _ => TB_LEAP_DEL⟩,
   ⟨1, .rw, .clamp 1 86400, fun _ _ => TB_LEAP_LSPAN⟩,
   ⟨1, .rw, .any, fun _ _ => TB_PPSLBL_LABEL⟩,
   ⟨1, .ro, .any, fun _ _ => TB_PPSDT_DT⟩,
   ⟨1, .rw, .any, fun _ _ => TB_GMOFS_GMOFS⟩,
   ⟨1, .rw, .any, fun _ _ => TB_PTPCFG_CLASS⟩,
   ⟨1, .rw, .keepIf [1, 2, 3, 4, 5, 6, 7, 8], fun _ _ => TB_PTPCFG_LOGSYNC⟩,
   ⟨1, .rw, .any, fun _ _ => TB_PTPCFG_DOMAIN⟩,
   ⟨1, .rw, .any, fun _ _ => TB_PTPCFG_DELAY⟩,
   ⟨1, .rw, .any, fun _ _ => TB_PTPCFG_SLAVE⟩,
   ⟨1, .rw, .any, fun _ _ => TB_PTPCFG_GMEN⟩,
   ⟨1, .rs, .any, fun _ _ => TB_CONFLICT_VALID⟩,
   ⟨1, .ro, .any, fun _ _ => TB_CONFLICT_HELD⟩,
   ⟨1, .ro, .any, fun _ _ => TB_CONFLICT_REFUSED⟩,
   ⟨4, .rw, .any, fun _ i => TB_PORTLAT_TXLAT i⟩,
   ⟨4, .rw, .any, fun _ i => TB_PORTLAT_RXLAT i⟩,
   ⟨16, .rw, .any, fun _ i => TB_TMCFG_EN i⟩,
   ⟨16, .rs, .any, fun _ i => TB_TMCFG_LATE i⟩,
   ⟨16, .rw, .any, fun _ i => TB_TMCFG_TMASK i⟩,
   ⟨16, .rw, .any, fun _ i => TB_TMCFG_TRIG i⟩,
   ⟨16, .rw, .keepIf [3], fun _ i => TB_TMCFG_OUT i⟩,
   ⟨16, .rw, .any, fun _ i => TB_TMCFG_LEVEL i⟩,
   ⟨16, .rw, .any, fun _ i => TB_TMCFG_MODE i⟩,
   ⟨16, .rw, .any, fun _ i => TB_TMT_T i⟩,
   ⟨16, .rw, .clamp 1000 0xFFFFFFFF, fun _ i => TB_TMPER_PER i⟩,
   ⟨16, .rw, .any, fun _ i => TB_TMWID_WID i⟩]
def rowsQm : List FRow :=
  [⟨1, .rw, .any, fun _ _ => QM_TEN_EN⟩,
   ⟨1, .ro, .any, fun _ _ => QM_SLOTS_USED⟩,
   ⟨8, .rw, .any, fun _ i => QM_GRANT_PORTS i⟩,
   ⟨8, .rw, .any, fun _ i => QM_GRANT_GRANT i⟩,
   ⟨8, .rw, .any, fun _ i => QM_EVMASK_MASK i⟩,
   ⟨64, .rw, .any, fun _ i => QM_QCFG_EN i⟩,
   ⟨64, .rw, .any, fun _ i => QM_QCFG_TENANT i⟩,
   ⟨64, .rw, .any, fun _ i => QM_QCFG_CLASS i⟩,
   ⟨64, .rw, .any, fun _ i => QM_QCFG_VIA i⟩,
   ⟨64, .rw, .any, fun _ i => QM_QCFG_PORT i⟩,
   ⟨64, .rw, .any, fun _ i => QM_QCFG_ODEPTH i⟩,
   ⟨64, .rw, .any, fun _ i => QM_QCFG_DEPTH i⟩,
   ⟨64, .rw, .any, fun _ i => QM_QTO_TO i⟩,
   ⟨64, .ro, .any, fun _ i => QM_QSTAT_OUTQ i⟩,
   ⟨64, .ro, .any, fun _ i => QM_QSTAT_INQ i⟩]
def rowsTn : List FRow :=
  [⟨1, .ro, .any, fun b _ => TN_ID_TENANT b⟩,
   ⟨1, .ro, .any, fun b _ => TN_ID_ROLE b⟩,
   ⟨1, .ro, .any, fun b _ => TN_ID_GRANT b⟩,
   ⟨1, .ro, .any, fun b _ => TN_EPOCH_EPOCH b⟩,
   ⟨1, .ro, .any, fun b _ => TN_PEER_UNIT b⟩,
   ⟨64, .wo, .any, fun b i => TN_QDB_PI b i⟩,
   ⟨64, .ro, .any, fun b i => TN_QCREL_CREL b i⟩,
   ⟨64, .rw, .any, fun b i => TN_QOCI_OCI b i⟩,
   ⟨64, .ro, .any, fun b i => TN_QOPI_OPI b i⟩,
   ⟨64, .rw, .any, fun b i => TN_QIBASE_IBASE b i⟩,
   ⟨64, .rw, .any, fun b i => TN_QOBASE_OBASE b i⟩,
   ⟨64, .rw, .any, fun b i => TN_QIM_IM b i⟩]
def rowsHp : List FRow :=
  [⟨1, .rw, .any, fun b _ => HP_CFG_UDPPORT b⟩,
   ⟨1, .rw, .clamp 1500 9216, fun b _ => HP_CFG_MTU b⟩,
   ⟨1, .rw, .any, fun b _ => HP_CFG_IP6EN b⟩,
   ⟨1, .rw, .any, fun b _ => HP_CFG_IP4EN b⟩,
   ⟨1, .rw, .any, fun b _ => HP_MAC_MAC b⟩,
   ⟨1, .rw, .any, fun b _ => HP_IP4_ADDR b⟩,
   ⟨1, .rw, .any, fun b _ => HP_IP6_ADDR b⟩,
   ⟨1, .ro, .any, fun b _ => HP_CNT_NOCRED b⟩,
   ⟨1, .ro, .any, fun b _ => HP_CNT_SEQERR b⟩]
def rowsNv : List FRow :=
  [⟨1, .ro, .any, fun _ _ => NV_STAT_BUSY⟩,
   ⟨1, .ro, .any, fun _ _ => NV_STAT_RESULT⟩,
   ⟨1, .ro, .any, fun _ _ => NV_STAT_BANK⟩,
   ⟨1, .ro, .any, fun _ _ => NV_STAT_UVALID⟩,
   ⟨1, .ro, .any, fun _ _ => NV_USEQ_BSEQ⟩]
def rowsTw : List FRow :=
  [⟨1, .ro, .any, fun _ _ => TW_UNIT_UNIT⟩,
   ⟨1, .ro, .any, fun _ _ => TW_PEER_PEER⟩,
   ⟨1, .rw, .clamp 300 4095, fun _ _ => TW_CFG_CLAIMWIN⟩,
   ⟨1, .ro, .any, fun _ _ => TW_STAT_ROLE⟩,
   ⟨1, .ro, .any, fun _ _ => TW_STAT_REASON⟩,
   ⟨1, .ro, .any, fun _ _ => TW_STAT_BELAY_HEARD⟩,
   ⟨1, .ro, .any, fun _ _ => TW_STAT_ROPE_HEARD⟩,
   ⟨1, .ro, .any, fun _ _ => TW_STAT_ROPE_UP⟩,
   ⟨1, .ro, .any, fun _ _ => TW_STAT_CLAIMING⟩,
   ⟨1, .ro, .any, fun _ _ => TW_STAT_CLAIMHOLD⟩,
   ⟨1, .ro, .any, fun _ _ => TW_STAT_HANDOFF⟩,
   ⟨1, .ro, .any, fun _ _ => TW_STAT_SECTIONS⟩,
   ⟨1, .sc, .any, fun _ _ => TW_CTL_RECATCH⟩,
   ⟨1, .sc, .any, fun _ _ => TW_CTL_HANDOFF⟩,
   ⟨1, .rw, .any, fun _ _ => TW_EXPECT_EXPECT⟩,
   ⟨1, .ro, .any, fun _ _ => TW_JSEQ_JSEQ⟩,
   ⟨1, .ro, .any, fun _ _ => TW_JACK_JACK⟩,
   ⟨1, .ro, .any, fun _ _ => TW_HASH_MISMATCH⟩,
   ⟨1, .ro, .any, fun _ _ => TW_HASH_MISSING⟩,
   ⟨1, .ro, .any, fun _ _ => TW_VERD_SWRONG⟩,
   ⟨1, .ro, .any, fun _ _ => TW_VERD_AWRONG⟩,
   ⟨1, .ro, .any, fun _ _ => TW_VERD_UNDEC⟩,
   ⟨1, .ro, .any, fun _ _ => TW_VERD_NONE⟩,
   ⟨16, .ro, .any, fun _ i => TW_HLEAD_HLEAD i⟩]
def rowsRl : List FRow :=
  [⟨1, .ro, .any, fun _ _ => RL_STAT_UP⟩,
   ⟨1, .ro, .any, fun _ _ => RL_STAT_LSTATE⟩,
   ⟨1, .ro, .any, fun _ _ => RL_RTT_RTT⟩,
   ⟨1, .rw, .any, fun _ _ => RL_CFG_RLADJ⟩,
   ⟨1, .ro, .any, fun _ _ => RL_CNT_RESENDS⟩,
   ⟨1, .ro, .any, fun _ _ => RL_CNT_DOWNS⟩]
def rowsLs : List FRow :=
  [⟨1, .ro, .any, fun _ _ => LS_LSPD_SLOW⟩,
   ⟨1, .ro, .any, fun _ _ => LS_LSPD_CAUSE⟩,
   ⟨1, .ro, .any, fun _ _ => LS_LSPD_SEQ⟩,
   ⟨1, .ro, .any, fun _ _ => LS_LSPD_LIMIT⟩,
   ⟨1, .rw, .any, fun _ _ => LS_REFOUT_EN⟩]
def rowsSys : List FRow :=
  [⟨1, .ro, .any, fun _ _ => SYS_STRAP_ROPE_PREF⟩,
   ⟨1, .ro, .any, fun _ _ => SYS_STRAP_ROPED_EN⟩,
   ⟨1, .ro, .any, fun _ _ => SYS_STRAP_FTM⟩,
   ⟨1, .ro, .any, fun _ _ => SYS_PKG_PART⟩,
   ⟨1, .ro, .any, fun _ _ => SYS_PKG_GRADE⟩,
   ⟨1, .ro, .any, fun _ _ => SYS_PKG_MAJOR⟩,
   ⟨1, .ro, .any, fun _ _ => SYS_PKG_MINOR⟩]
/-- The fields of block b after its header. -/
def rowsOf : Blk → List FRow
  | .seq => rowsSeq | .js => rowsJs | .cd => rowsCd | .tc => rowsTc | .ch => rowsCh | .be => rowsBe | .fs => rowsFs
  | .wm => rowsWm | .lq => rowsLq | .hl => rowsHl | .tb => rowsTb | .qm => rowsQm | .tn => rowsTn | .hp => rowsHp
  | .nv => rowsNv | .tw => rowsTw | .rl => rowsRl | .ls => rowsLs | .sys => rowsSys
  | .pcie => [] | .mr => [] | .hbm => [] | .rg => []

/-- All fields of a block's window: the header and fault registers (none in a tenant window, R47), then its own. -/
def windowRows (b : Blk) : List FRow := if b = .tn then rowsOf b else rowsHeader b ++ rowsOf b

end Sys2Proof.Machine
end

