-- ==== Sys2Proof/Machine/State.lean ====
section
/-!
DEFINITION. Sys2Proof/Machine/State.lean: everything the spec gives the block, as plain data. Register contents live in
the register file `regs` (Machine/Regs.lean); the structures below hold what is not a register field. INVENTORY.md lists
each piece with its rule and reset value.
-/
namespace Sys2Proof.Machine

/-! ### What leaves the chip -/

/-- What kind of thing was put on a port. -/
inductive EmitKind where
  /-- Head lane frames (R275 to R300): HALT control frame; CLAIM; TIME; EPOCH; FIRE; AMEND; ROW; other CTRL frames. -/
  | halt | claim | timeFrame | epochFrame | fire | amend | row | eeFrame | marker | trainBlock
  /-- Rope and belay (R383 to R398). -/
  | belay | ropeHb | ropeAck | ropeOffer | ropeHash | ropeVerdict | ropeJrn | ropeSnap
  /-- Host ports and PCIe (R314, R343 to R348). -/
  | hostFrame | credit | bulkData | openReply | resyncReply | neighbour | ptpSync | ptpFollowUp | ptpAnnounce
  | ptpDelayReq | ptpDelayResp | ptpManagement | pcieRecord | pcieData | pcieFetch | msix | timed
  /-- Pins (R317, R324, R443). -/
  | ppsOut | trigOut | lspd | lineSlow | thermtrip | refout | ssiClock
deriving DecidableEq, Repr

/-- One thing put on a port: when (DT, ns), what, on which lane, port or output, and its contents. -/
structure Emit where
  ns : Nat
  kind : EmitKind
  port : Nat
  args : List Nat
  bytes : List Byte := []
deriving DecidableEq, Repr

/-! ### Sequencer (chapters 03, 04) -/

/-- A wait in progress (R95): its kind (KIND of SEQ_CWAITn), mode or bar, its target, its deadline and its gD. -/
structure Wait where
  kind : Nat
  mode : Nat
  item : Nat
  target : Nat
  deadline : Option Nat
  gd : Nat
deriving DecidableEq, Repr

/-- What a stalled context waits to finish (R59, R71, R108, R109). -/
inductive PendOp where
  | ldj (gd addr width : Nat) (signed : Bool)
  | cpjd (jaddr daddr len : Nat)
  | fence (q : Bool)
  | compose (gd result : Nat)
  | tload (gd type bars jaddr : Nat)
  | tcopy (type bars : Nat)
deriving DecidableEq, Repr

/-- What the sequencer keeps per dispatch entry beside SEQ_DISPAi and SEQ_DISPBi: the DT of the first pending trigger, the
dispatches made since, the context that runs it, the block whose summary word is its trigger word, and whether the loaded
image defines it (R71 to R74); the count with which the dispatch under way began (R393). -/
structure DispEntry where
  firstDt : Nat := 0
  waited : Nat := 0
  runningIn : Option Nat := none
  block : Option (Blk × Nat) := none
  defined : Bool := false
  begun : Nat := 0
deriving DecidableEq, Repr

/-- The sequencer: registers of the contexts (key 32 n + i for gI of context n, 8 n + i for wI), waits, pending
operations, dispatch bookkeeping, and the loaded image's entry point for context 0 (R52); whether the resident handler has been loaded,
and whether each context runs in the resident area (R56); per record of `qsend` and `evpost` not yet in its host ring: context, queue, OSEQ
(R71). Program counters and states are SEQ_CPCn and SEQ_CSTATn. -/
structure Seq where
  start : Nat := 0
  g : FMap W64 := []
  w : FMap W64 := []
  waits : FMap (Option Wait) := []
  ops : FMap (Option PendOp) := []
  disp : FMap DispEntry := []
  resident : Bool := false
  inRes : FMap Bool := []
  sent : List (Nat × Nat × Nat) := []
deriving DecidableEq, Repr

/-- A record of the placement stream (Table 4-1); for a MARK also its bar, code, data and tenants (R88). -/
structure Rec where
  start : Nat
  stop : Nat
  seq : Nat
  kind : Nat
  layer : Nat := 0
  op : Nat := 0
  flags : Nat := 0
  bars : Nat := 0
  col : Nat := 0
  width : Nat := 0
  handle : Nat := 0
  phase : Nat := 0
  param : Nat := 0
  maskh : Nat := 0
  markBar : Nat := 0
  markCode : Nat := 0
  markData : Nat := 0
  markTenants : Nat := 0
deriving DecidableEq, Repr

/-- The placement stream: outstanding records in SEQ order; (SEQ, END) of every content record for the active count (R85);
the CLOSE point, the greatest END of the records that have retired, whether event 0x0001 has been posted, whether the stream is behind; the job: whether
one has begun, its row pitch, the drop depth of each bar since it was enabled in the job (key bar, 0 none) (R17) and its seed (R180). -/
structure Strm where
  recs : List Rec := []
  live : List (Nat × Nat) := []
  closePt : Option Nat := none
  maxEnd : Nat := 0
  endPosted : Bool := false
  behind : Bool := false
  job : Bool := false
  pitch : Nat := 3
  depths : FMap Nat := []
  seed : Nat := 0
deriving DecidableEq, Repr

/-- What a field slot holds: a text composed from a glyph set, or a symbol as rows of modules (R103, R104). -/
inductive SlotContent where
  | text (glyphs : Nat) (chars : List Byte) (tracking : Int)
  | linear (modules : List Bool) (xcol barRows qrow quiet : Nat)
  | matrix (rows cols : Nat) (dark : List Bool) (xcol xrow quiet : Nat)
deriving DecidableEq, Repr

/-- A field slot: generation, and its content with width and height while allocated (R107). The count with which a slot starts is not
given: 0 (DESIGN CHOICE, assumption 26). -/
structure Slot where
  gen : Nat := 0
  content : Option SlotContent := none
  width : Nat := 0
  height : Nat := 0
  placed : Bool := false
deriving DecidableEq, Repr

/-- The variable-data unit: the context it composes for, the contexts whose instruction waits, in issue order (R108), and the field
slots (R107). -/
structure VData where
  busy : Option Nat := none
  turns : List Nat := []
  slots : FMap Slot := []
deriving DecidableEq, Repr

/-! ### Tables, staging and calibration (chapters 04, 14) -/

/-- Where a table's content comes from: power-up, a loaded image, or RESTOREFAC (R154, R110, R373). -/
inductive TableSrc where
  | powerUp | image | restored
deriving DecidableEq, Repr

/-- A table: its source, VERSION and body. A `fresh` tone table is one staged since the last commit (R171). For a geometry set, what its
body says: parameter p of Table 1-1 for bar k under key 16 p + k (assumption 8). -/
structure Table where
  src : TableSrc := .powerUp
  version : Nat := 0
  len : Nat := 0
  body : ByteMem := []
  fresh : Bool := false
  geo : FMap Nat := []
deriving DecidableEq, Repr

/-- A claim of the staged claim list (R357): context, kind (0 TIMER, 1 PROBE, 2 TRIG, 3 BUFFER), number or handle. -/
structure Claim where
  ctx : Nat
  kind : Nat
  num : Nat
deriving DecidableEq, Repr

/-- The calibration part of a set (R354, R373): the items that RESTOREFAC staged, and the SSC it staged. -/
structure Calib where
  items : Nat := 0
deriving DecidableEq, Repr

/-- A set: bar tables (key 8 k + type), device tables (key type), claims, calibration part (R354). -/
structure TSet where
  bar : FMap Table := []
  dev : FMap Table := []
  claims : List Claim := []
  calib : Calib := {}
deriving DecidableEq, Repr

/-- Generation data carried by version tags (R367): c, flags. -/
structure GenInfo where
  gen : Nat := 0
  cpoint : Nat := 0
  raised : Bool := false
  restored : Bool := false
deriving DecidableEq, Repr

/-- A commit that waits (R360 to R364): its set, its web point c and first row n_k, whether it was raised, whether its
calibration part has been applied, the bars that have reached n_k, for `committ` the time at which c is to be fixed, and
what an abandonment restores: the generation before the last and SEQ_SCPT (R366). -/
structure Sched where
  set : TSet
  at_ : Option Nat := none
  c : Nat := 0
  nk : Nat := 0
  raised : Bool := false
  reached : Nat := 0
  cal : Bool := false
  before : GenInfo := {}
  scpt : Nat := 0
deriving DecidableEq, Repr

/-- A user bank of the NOR (R370, R371): whether valid, BSEQ, and its items: lane values, port latencies, SSC. -/
structure UserBank where
  valid : Bool := false
  bseq : Nat := 0
  lanes : FMap Nat := []
  portlat : FMap Nat := []
  ssc : Nat := 0
deriving DecidableEq, Repr

/-- A user bank write in progress (R372, R373): the items, the bank image to be written. -/
structure NorWrite where
  items : Nat
  bank : UserBank
deriving DecidableEq, Repr

/-- Staging, commits and the user banks. -/
structure Stage where
  active : TSet := {}
  staged : TSet := {}
  sched : Option Sched := none
  cur : GenInfo := {}
  prev : GenInfo := {}
  bankA : UserBank := {}
  bankB : UserBank := {}
  write : Option NorWrite := none
  calItems : Nat := 0
deriving DecidableEq, Repr

/-! ### Job store and codec (chapter 05) -/

/-- An allocation (Table 5-2) with its first granule. -/
structure Alloc where
  index : Nat
  gen : Nat
  base : Nat
  size : Nat
  owner : Nat
  rd : Nat
  wr : Nat
  jobr : Bool := false
  jobw : Bool := false
  isSealed : Bool := false
  tile : Bool := false
  pin : Bool := false
deriving DecidableEq, Repr

/-- A codec operation (Table 5-8). -/
inductive CodecOp where
  | compress | decompress | sealTile
deriving DecidableEq, Repr

/-- A codec job: who submitted it (queue, tag, receipt stamp, tenant; `twin` for the twin controller), its operation and
ranges, whether an engine runs it, whether its context is in the save area (R134, R135), and the DT (ns) at which it last
left a stall (R137). -/
structure CodecJob where
  id : Nat
  op : CodecOp
  twin : Bool := false
  queue : Nat := 0
  tag : Nat := 0
  rx : Nat := 0
  tenant : Nat := 0
  src : Nat := 0
  dst : Nat := 0
  soff : Nat := 0
  doff : Nat := 0
  len : Nat := 0
  cap : Nat := 0
  kind : Nat := 0
  running : Bool := false
  saved : Bool := false
  resumed : Option Nat := none
deriving DecidableEq, Repr

/-- A line of the tile cache (R140, R141): the stream it holds a part of (handle, segment, band), which part, the bar whose fetch
brought it, and whether its decoder still writes it. -/
structure CacheLine where
  h : Nat
  sg : Nat
  b : Nat
  i : Nat
  bar : Nat
  locked : Bool := false
deriving DecidableEq, Repr

/-- A tile fetch (R139): the bar that asked, the stream, the rows (bar, row) that wait for it, the lines it fills, whether a decoder
decodes it, and whether it has failed after its retries (R143). -/
structure Fetch where
  bar : Nat
  h : Nat
  sg : Nat
  b : Nat
  rows : List (Nat × Nat) := []
  lines : Nat := 0
  busy : Bool := false
  failed : Bool := false
deriving DecidableEq, Repr

/-- The job store allocator, codec job queue and tile cache: its lines, most recently used first (R140, R141); the fetches, oldest first, and
the bar whose fetch started last (R139); the fetches of the last 100 µs as (DT, bytes decoded) (R145). -/
structure Store where
  allocs : List Alloc := []
  gens : FMap Nat := []
  jobs : List CodecJob := []
  nextJob : Nat := 0
  lastTenant : Nat := 7
  lines : List CacheLine := []
  fetches : List Fetch := []
  lastBar : Nat := 15
  load : List (Nat × Nat) := []
  peak : Nat := 0
deriving DecidableEq, Repr

/-! ### Tenants, queues, sessions (chapter 13) -/

/-- A descriptor in an inbound ring, with the DT of its arrival, its receipt stamp and the data of a BULK frame. -/
structure InDesc where
  d : List Byte
  arrival : Nat
  rx : Nat
  data : List Byte := []
  bulk : Bool := false
deriving DecidableEq, Repr

/-- Queue q beside its configuration registers: inbound descriptors (oldest first), outbound records not yet delivered
(oldest first; true marks a completion), reserved slots, OSEQ, descriptors accepted since enable, descriptors written as
the doorbell says, when the last MSI-X message went and whether one is held back. -/
structure Queue where
  inq : List InDesc := []
  out : List (Bool × List Byte) := []
  reserved : Nat := 0
  oseq : Nat := 0
  accepted : Nat := 0
  msixNs : Option Nat := none
  msixHeld : Bool := false
  creditDirty : Bool := false
deriving DecidableEq, Repr

/-- A transport session (R344): host address and UDP port, next XSEQ expected and to send, whether a loss is being
discarded, DT of the latest valid datagram. -/
structure Session where
  addr : Nat
  udp : Nat
  expect : Nat := 0
  send : Nat := 0
  lost : Bool := false
  lastNs : Nat := 0
deriving DecidableEq, Repr

/-- A timed frame that waits for its launch time (R327, R340). -/
structure TimedFrame where
  port : Nat
  launch : Nat
  dest : Nat
  msg : List Byte
  queue : Nat
  tag : Nat
  rx : Nat
deriving DecidableEq, Repr

/-- Tenants: EVSEQ and dropped records per tenant (R349, R350); queues; sessions (key 4 t + p); timed frames; DT of the
latest B-class take (R425); late frames counted per port, and L of its latest timed frame (R327). -/
structure Hosts where
  evseq : FMap Nat := []
  dropped : FMap Nat := []
  queues : FMap Queue := []
  sessions : FMap (Option Session) := []
  timed : List TimedFrame := []
  lastB : Nat := 0
  lateFrames : FMap Nat := []
  lastL : FMap (Option Nat) := []
deriving DecidableEq, Repr

/-! ### Faults (chapter 16) -/

/-- Fault bookkeeping: reaction taken by the latest occurrence per source (key (window base / 0x1_0000) * 32 + source), and
the control clock of that occurrence, counted from 1 (R13, R411); the control clock in which an RS field outside FSTAT was last set (key of
the field, R13); per window SRC and CELL of the injection that FINJ ARM shows armed (R14, R417). -/
structure Faults where
  reaction : FMap Nat := []
  last : FMap Nat := []
  latched : FMap Nat := []
  armed : FMap (Nat × Nat) := []
deriving DecidableEq, Repr

/-! ### Timebase (chapter 12) -/

/-- The timebase beside its registers: the ms of DT up to which RATE has been slewed and the follower's target (R310,
R311); a civil slew in progress as (err, DT at its start, done so far) (R319); the held civil time M (R320); the DT of the
latest PPS edge; the latest Announce as (DT, interval), whether it lets measurements in, and its UTC offset (R316); the
midnight of an armed leap second, and a smear as (change, done so far) (R322); per timer the next firing index and
whether it was enabled late (R324); per TRIG output its level and a running pulse as (timer, DT of its rise); the level
of PPS_OUT; PTP sequence numbers per port; the pending civil value before its latest change, with the control clock of that change
(R320); whether PPS_IN has been missed since its latest edge (R317); the delay trims of the interpolators, those to be recalibrated, and
DT since when the first of them is (R312: 0 to 95 the head lanes, 96 to 99 the rope lanes, 100 to 103 the host ports). -/
structure Time where
  rateMs : Nat := 0
  followTarget : Int := 0
  slew : Option (Int × Nat × Int) := none
  holdAt : Option Int := none
  lastPps : Option Nat := none
  announce : Option (Nat × Nat) := none
  announceOk : Bool := false
  utcOffset : Int := 0
  leapMid : Option Int := none
  smear : Option (Int × Int) := none
  nextK : FMap Nat := []
  lateArmed : FMap Bool := []
  trigLevel : FMap Nat := []
  pulse : FMap (Option (Nat × Nat)) := []
  ppsHigh : Bool := false
  ptpSeq : FMap Nat := []
  pendBefore : Option (Nat × Option Int) := none
  ppsMissed : Bool := false
  trims : FMap Nat := []
  trimming : List Nat := []
  trimAt : Nat := 0
deriving DecidableEq, Repr
/-! ### Bars (chapters 01, 06, 07) -/

/-- One head's part of a row: the LEVELS it frames (R282) with NNOZ, drop depth and DCRC (R284), the DT of the latest launch of
its ROW frame, launches made, whether the hub has accepted it (R283, R284); the head's phase for this row (R200), the last
stamp value sent (HOLD is 2⁶⁴ − 1), the value that waits to be sent (R280), whether the stamp is frozen, and whether MISSED has
counted it (R214). -/
structure HeadRow where
  head : Nat
  nnoz : Nat := 0
  depth : Nat := 1
  levels : List Byte := []
  dcrc : Nat := 0
  launched : Option Nat := none
  tries : Nat := 0
  ok : Bool := false
  phi : Int := 0
  stamp : Option Nat := none
  queued : Option Nat := none
  frozen : Bool := false
  missed : Bool := false
deriving DecidableEq, Repr

/-- A slot of the row ring (R21): the row, its version tag (R367) and trim generation, Σ w(l) per bin (R156), whether it is
complete (R185), whether it has been released unfired (R220, R221), and its heads. -/
structure RowSlot where
  n : Nat
  tag : List Nat := []
  lgen : Nat := 0
  ink : FMap Nat := []
  complete : Bool := false
  released : Bool := false
  heads : List HeadRow := []
deriving DecidableEq, Repr

/-- A committed trim array (R152, R170): its generation, the first row that uses it, and trims that differ from 32,768. -/
structure TrimGen where
  lgen : Nat
  start : Nat
  arr : FMap Nat := []
deriving DecidableEq, Repr

/-- A ledger band (R156, R157): Σ w(l) per bin, how many of its 64 rows have settled, the version tag and generation of its
rows, whether rows differed in them or one was not fired, whether a ledger write failed or a read stayed uncorrectable, whether the
state is the active unit's, received over the rope link (R159), and whether it dates from before the latest RUN (R158). -/
structure Band where
  m : Nat
  ink : FMap Nat := []
  settled : Nat := 0
  tag : List Nat := []
  lgen : Nat := 0
  mixed : Bool := false
  bad : Bool := false
  lost : Bool := false
  said : Bool := false
  old : Bool := false
deriving DecidableEq, Repr

/-- Bar k beside its registers: the row index r_k (R19) and the r_k at which late rows were last judged (R185, −1 at RUN), the
next row to start (R21, R183), whether the bar renders in this
job; DT of the latest pass start and the rows of the pass under way (R183, R192); the carry line, entry by column (R184); the row ring (R21);
the previous outgoing slice and whether the spare's latest round passed (R191), DT of the latest rotation; trim generations
oldest first, staged trims, and the row of a trim reset that waits for its start (R152, R166, R171); the row before which
reports are stale (R171); ledger bands (R158); reports in a row above RESLIM, and bins already reported as limited (R167);
rows that crossed the nozzle line in the headroom window (R195); whether the spare is lent (R191); in STANDBY, the rows that
received ROWMARKs cover, as (first, count, NEXT_SEQ) (R392); whether the next pass journals its carry line; the high-water mark
of X − D_k in this job, −1 before X reached D_k (R19, R95); slices fenced by self-test (R424); SRAM
banks that use their redundant rows (R27, R28); DT at which r_k latest entered a band (R168); the column
at which the pass under way started, or the confirmed cut from which it resumed, and DT from which it goes on there (R192, R193). -/
structure Bar where
  rk : Int := -1
  judged : Int := -1
  next : Nat := 0
  lastPass : Option Nat := none
  pass : Option (Nat × Nat) := none
  carry : List Int := []
  ring : List RowSlot := []
  lastOut : Nat := 24
  spareOk : Bool := false
  rotated : Nat := 0
  trims : List TrimGen := []
  stagedT : FMap (Option Nat) := []
  reset : Option Nat := none
  staleTo : Nat := 0
  bands : List Band := []
  overRes : Nat := 0
  limited : List Nat := []
  winRows : Nat := 0
  lent : Bool := false
  marks : List (Nat × Nat × Nat) := []
  carryDue : Bool := false
  banks : List Nat := []
  high : Int := -1
  bistFence : Nat := 0
  bandAt : Option Nat := none
  cut : Nat := 0
  cutAt : Nat := 0
deriving DecidableEq, Repr

/-- The colour hold loop beside its registers: the band of the latest loop commit point in this stream (R168). -/
structure Colour where
  lastBand : Option Nat := none
deriving DecidableEq, Repr

/-! ### Fire (chapter 08) -/

/-- The fire stamp engine beside its registers: whether a FIRE_ARM waits for the next update (R221); d_eff of each bar in 1/16
tick (R205); the model x (1/65,536 tick), v (1/256 tick/s), a (tick/s²) and t0 (DT, 1/65,536 ns) (R204); the latest infeed
edge as (position in 1/65,536 tick, DT) and whether it came since t0; updates in a row with |r| beyond RDEG, and whether
the coast limit has been reported (R206); the thermal term of each head under the set in force and under a set that waits (R200); each head's last stamp of a released row
(R209); whether the row rate is above R_job (R26); DT of the latest update; the motion parameters in force while a job prints
(R216). -/
structure Fire where
  armed : Bool := false
  updAt : Nat := 0
  deff : FMap Nat := []
  x : Int := 0
  v : Int := 0
  a : Int := 0
  t0 : Nat := 0
  edge : Option (Int × Nat) := none
  fresh : Bool := false
  back : Bool := false
  rdegRun : Nat := 0
  coasted : Bool := false
  therm : FMap Int := []
  thermNext : FMap Int := []
  lastStamp : FMap Nat := []
  tooFast : Bool := false
  motion : Table := {}
deriving DecidableEq, Repr

/-! ### Web motion (chapter 09) -/

/-- A quadrature channel beside its registers: levels of A and B; the latest counted edge that timing may use as (EXT, DT);
the latest intervals, newest first, at most 4; DT of the last counted edge or illegal transition; the exact speed as counts
per DT unit (numerator, denominator); the count-method gate: its start and the last edge before it; whether an edge has
been counted since enable or standstill (R238), and whether the first Z since enable has been used (R229). -/
structure Enc where
  a : Bool := false
  b : Bool := false
  ref : Option (Int × Nat) := none
  ivs : List Nat := []
  seen : Nat := 0
  spd : Int × Nat := (0, 1)
  gate : Nat := 0
  gateRef : Option (Int × Nat) := none
  moved : Bool := false
  homed : Bool := false
deriving DecidableEq, Repr

/-- An SSI port: the DT of the frame under way and whether its data input was low, DT of the latest start, and whether a frame
has been accepted since enable. -/
structure Ssi where
  frame : Option (Nat × Bool) := none
  last : Option Nat := none
  have' : Bool := false
deriving DecidableEq, Repr

/-- A probe: its next sequence number and its latches (sequence, value, DT), oldest first. -/
structure Probe where
  seq : Nat := 0
  store : List (Nat × Nat × Nat) := []
deriving DecidableEq, Repr

/-- An end of a stretch window (R245): DT and infeed EXT of the infeed edge, and the outfeed edges (EXT, DT) on either side. -/
structure StrMark where
  at_ : Nat
  ext : Int
  before : Option (Int × Nat) := none
  after : Option (Int × Nat) := none
deriving DecidableEq, Repr

/-- Web motion: channels, EXT0 (R230), SSI ports, probes, the latest outfeed edges (EXT, DT), newest first, and the stretch window
under way: its start, and its end once reached. -/
structure Motion where
  enc : FMap Enc := []
  ext0 : Int := 0
  ssi : FMap Ssi := []
  probe : FMap Probe := []
  outs : List (Int × Nat) := []
  wStart : Option StrMark := none
  wEnd : Option StrMark := none
deriving DecidableEq, Repr

/-! ### Lanes (chapters 10, 11) -/

/-- A frame that waits on a lane (Table 11-2). Stamps and amendments wait in the row ring (`HeadRow.queued`): `fire` asks for
a FIRE frame with whatever waits, or none (R290). -/
inductive LaneFrame where
  | claim (epoch token : Nat)
  | epoch (epoch token hrow : Nat)
  | time
  | fire
  | ctrl (code addr tag count eeaddr : Nat) (data : List Byte)
  | row (bar n head : Nat)
deriving DecidableEq, Repr

/-- One entry of a stamp frame (Table 11-4): a row, the heads it names, and the stamp. -/
structure StampEntry where
  row : Nat
  mask : Nat
  stamp : Nat
  deriving DecidableEq, Repr

/-- A launched stamp frame not yet acknowledged: its FSEQ, bank, DT of launch, rows and masks. -/
structure SentStamps where
  fseq : Nat
  bank : Nat
  at_ : Nat
  es : List (Nat × Nat)
deriving DecidableEq, Repr

/-- Tap-request training (R259, R260). As requester: its phase (0 a request is outstanding, 1 answered and HOLD sent, 2 a quick
scan, 3 RX_READY sent), the tap (0 c(0), 1 c(+1), 2 c(−1), 3 INIT), DEC or INC, whether it undoes a step, since when, the
status of the answer; the best figure, whether this round has improved it; blocks in a row with RX_READY both ways; training
blocks sent. As responder: the tap and the status reported. -/
structure Train where
  phase : Nat := 0
  tap : Nat := 3
  dec : Bool := false
  undo : Bool := false
  since : Nat := 0
  status : Nat := 0
  bestW : Nat := 0
  bestH : Nat := 0
  improved : Bool := false
  both : Nat := 0
  count : Nat := 0
  rspTap : Nat := 3
  rspStat : Nat := 0
  readyAt : Nat := 0
deriving DecidableEq, Repr

/-- Lane l beside its registers. Lanes 0 to 95 are the head lanes, 96 to 99 those of the rope link. DT since when it is in its
state; failed attempts in a row; relock attempts; frames that wait; FSEQ per bank; launched stamp frames not acknowledged;
TIME frame count; training; the MCOUNT and arrival (ps) of the last good marker, good ones in a row, missing in a row;
launches of own markers (MCOUNT, DT in ps), latest first; the latest 16 RTT values (ps), latest first; the second in which
BIP mismatches are counted, how many, and whether source 17 was raised in it; the skew at the entry to SERVICE; DT of the latest data block; receiver settings
(a number that stands for them) and the last-known-good ones; scan under way (1 quick scan, 2 the scan after a restore, 3 one of a
recalibration that waits for the eye point) and
DT of the latest scheduled one; recalibrating; offset beyond ±20 ppm; where the sixteenth alignment block ended, and the delay
found; start taps from the user area; OWNER_ID of the hub's latest record (R386); the
transmit swing and termination trims and the offset of the sampler (R270, R271). -/
structure Lane where
  since : Nat := 0
  fails : Nat := 0
  tries : Nat := 0
  txq : List LaneFrame := []
  fseq : FMap Nat := []
  unacked : List SentStamps := []
  tseq : Nat := 0
  train : Train := {}
  mcount : Option Nat := none
  arr : Nat := 0
  good : Nat := 0
  missing : Nat := 0
  marks : List (Nat × Nat) := []
  rtts : List Nat := []
  bipSince : Nat := 0
  bipErrs : Nat := 0
  bipTold : Bool := false
  skew : Nat := 0
  dataAt : Nat := 0
  settings : Nat := 0
  lkg : Nat := 0
  scan : Nat := 0
  scanAt : Nat := 0
  recal : Bool := false
  offFreq : Bool := false
  alignEnd : Option Nat := none
  delay : Nat := 0
  userTaps : Option Nat := none
  owner : Nat := 0
  swing : Nat := 0
  term : Nat := 0
  sampler : Nat := 0
deriving DecidableEq, Repr

/-- A head EEPROM access under way on a quad (R303): lane, head address, TAG, write, since. -/
structure EeAccess where
  lane : Nat
  addr : Nat
  tag : Nat
  write : Bool
  since : Nat
deriving DecidableEq, Repr

/-- An eye point under way (R268): the lane of the quad, phase and voltage step. -/
structure EyePoint where
  lane : Nat
  h : Nat
  v : Nat
deriving DecidableEq, Repr

/-- The lanes, the EEPROM access of each quad and its next TAG, an eye point under way per quad, the count of
cairn markers per rate, head temperature record times (key head), whether one more recalibration pass is wanted, and the PLL band
of each quad at each rate (R271, key 2 × quad + rate). -/
structure Lanes where
  lane : FMap Lane := []
  ee : FMap (Option EeAccess) := []
  eeTag : FMap Nat := []
  point : FMap (Option EyePoint) := []
  mcount : FMap Nat := []
  tempAt : FMap Nat := []
  again : Bool := false
  pll : FMap Nat := []
deriving DecidableEq, Repr

/-! ### Twin pair (chapter 15) -/

/-- A journal entry with its JSEQ. -/
structure JEntry where
  jseq : Nat
  item : JItem
deriving DecidableEq, Repr

/-- A planned handoff in progress (R399): t_h, its token, and r_k + 16 of each bar at t_h; whether a shutdown, or a
failover request, started it. -/
structure Handoff where
  th : Nat
  token : Nat
  hrow : List Nat
  forShutdown : Bool := false
  failreq : Bool := false
deriving DecidableEq, Repr

/-- A rope frame sent and not yet acknowledged (R383): RSEQ, kind, DT (ns) of its latest launch, resends made, contents, and for a JRN frame its
last JSEQ. -/
structure RopeFrame where
  rseq : Nat
  kind : EmitKind
  sent : Nat
  tries : Nat := 0
  args : List Nat := []
  bytes : List Byte := []
  jseq : Option Nat := none
deriving DecidableEq, Repr

/-- A claim round of a STANDBY unit (R388): DT (ns) of its first claim, its token, lanes that have accepted and lanes that have
refused with REFUSED_LEASE since, and whether the window has passed. -/
structure ClaimRound where
  since : Nat
  token : Nat
  accepted : List Nat := []
  refused : List Nat := []
  expired : Bool := false
deriving DecidableEq, Repr

/-- A pass whose carry line is kept for the referee (R398): bar, first row, rows, carry line. -/
structure KeptPass where
  bar : Nat
  first : Nat
  count : Nat
  line : List Int
deriving DecidableEq, Repr

/-- The twin controller beside its registers: the unit epoch (R386); role, epoch and identity of the peer as last heard (role
4 STARTING) and whether its failure has been recognised; a handoff, the last token, the token and HROW that a received OFFER
gives; the journal kept (ACTIVE) or received and not yet applied; whether the role is still to be decided and DT (ns) of
the start (R381), whether the unit must stay CATCHUP until its next start-up; per path, DT (ns) of the latest counted
heartbeat and whether its silence has been reported; HBSEQ; RSEQ sent and received; rope frames not acknowledged; the claim
round, lanes being claimed with their tokens, and the DT (ns) until which a lane waits after a conflict; snapshot sections
complete, and the section under way; whether a snapshot has been adopted and bars whose first shadow pass has been echoed;
whether the active peer was lost during catch-up (R396); hashes received for rows not complete yet, mismatches that the
referee works on with the standby's own checksums, DT (ns) of recent STANDBY_WRONG verdicts; passes kept; the least hub lead per bar plus 1 (R400); whether a
snapshot has been sent to this CATCHUP peer; journal entries that no JRN frame has carried yet (R390); whether the unit journals;
whether DT is still to be loaded from the peer (R308); whether entries are to be sent again at the peer's next heartbeat (R404);
whether the bars have been asked for their carry lines (R395). -/
structure Twin where
  epoch : Nat := 0
  peerRole : Option Nat := none
  peerEpoch : Nat := 0
  peerFailed : Bool := false
  handoff : Option Handoff := none
  lastToken : Nat := 0
  kept : List JEntry := []
  deciding : Bool := false
  startNs : Nat := 0
  stuck : Bool := false
  belayAt : Option Nat := none
  ropeAt : Option Nat := none
  belayTold : Bool := false
  ropeTold : Bool := false
  hbSeq : Nat := 0
  rseq : Nat := 0
  rxSeq : Nat := 0
  sent : List RopeFrame := []
  claiming : Option ClaimRound := none
  claims : List (Nat × Nat) := []
  wait : FMap Nat := []
  snap : List (Nat × List JItem) := []
  part : List JItem := []
  adopted : Bool := false
  echoed : List Nat := []
  lost : Bool := false
  hashes : List RowHash := []
  referee : List (RowHash × Nat) := []
  wrongAt : List Nat := []
  passes : List KeptPass := []
  leads : FMap Nat := []
  snapSent : Bool := false
  fresh : List JEntry := []
  mirroring : Bool := false
  needDt : Bool := false
  resend : Bool := false
  asked : Bool := false
deriving DecidableEq, Repr

/-! ### Health, power and self-test (chapters 16, 17, 18) -/

/-- A block record (Table 16-8). -/
structure BlockRec where
  code : Nat
  inst : Nat
  result : Nat
  complete : Bool := false
  isMatch : Bool := false
  count : Nat := 0
  sig : Nat := 0
  cells : Nat := 0
  temp : Int := 0
  vmin : Nat := 0
  vmax : Nat := 0
  dtEnd : Nat := 0
deriving DecidableEq, Repr

/-- A record set of the self-test record area (R428): its slot, header fields, END and QUICKOK, whether its header's CRC is
valid, and its records. -/
structure RecordSet where
  slot : Nat
  kind : Nat
  plog : Nat
  sseq : Nat
  qsn : Nat
  dtStart : Nat
  ended : Bool := false
  quickOk : Bool := true
  recs : List BlockRec := []
deriving DecidableEq, Repr

/-- A BIST run under way (R420, R421): KIND, PLOG, DT at the start of wave A, whether it has been aborted, its records. -/
structure BistRun where
  kind : Nat
  plog : Nat
  dtStart : Nat
  aborted : Bool := false
  recs : List BlockRec := []
deriving DecidableEq, Repr

/-- The health block beside its registers: a BIST run and the record sets of the NOR; samples in a row at or above the set value
and below the clear value of WARN, THROT and SHUT (R438); sensors that have been broken since start-up; samples in a row with
VDD_CORE, and another rail, outside their limits (R447); throttle steps 1 to 4 taken (bit s − 1), DT (ns) of the latest step
6 and of the latest throttle step; DT (ns) at which SHUT set while a power-down is due (R444); DT (ns) since when the unit has
been idle, and of the latest REST set (R425); SEQ of the next LSPD frame; C and D of each bar's latest headroom window in
pixels per window (R440); LINE_SLOW; whether PWRGOOD is high; region power requests under way, as (region, on, DT); the JTAG instruction in force; the REFOUT outputs that run; whether
the transmitters are silent (R444); θ_J at the latest recalibration trigger (R270); ns from PWRGOOD that DT does not count because it was
loaded from the peer (R308); whether a handoff ran when SHUT set (R444). -/
structure Health where
  bist : Option BistRun := none
  sets : List RecordSet := []
  runSet : FMap Nat := []
  runClr : FMap Nat := []
  broken : Nat := 0
  vddOut : Nat := 0
  railOut : Nat := 0
  steps : Nat := 0
  step6At : Option Nat := none
  stepAt : Nat := 0
  shutAt : Option Nat := none
  idleSince : Nat := 0
  restAt : Option Nat := none
  lspdSeq : Nat := 0
  window : FMap (Option (Nat × Nat)) := []
  slow : Bool := false
  powerGood : Bool := true
  startNs : Nat := 0
  powerReq : List (Nat × Bool × Nat) := []
  jtag : Nat := 3
  refRun : Nat := 0x3F
  silent : Bool := false
  thetaRef : Int := 0
  upNs : Nat := 0
  shutHandoff : Bool := false
deriving DecidableEq, Repr

/-! ### The whole -/

/-- The three memories that programs and hosts address: program memory (R56, one 64-bit word per index), D-space (R58) and
the allocatable job store (R59, R113). Only the commands that store to them change this part of the state. -/
structure Mem where
  prog : FMap W64 := []
  data : ByteMem := []
  job : ByteMem := []
deriving DecidableEq, Repr

/-- The canonical form of the three memories: addresses rise strictly and no entry is 0, what an unlisted address reads as. -/
abbrev Mem.wf (m : Mem) : Prop := FMap.wf 0 m.prog ∧ m.data.wf ∧ m.job.wf

/-- Everything else. `dt` is device time in 1/65,536 ns (R309). `latch` and `held` are the latches and held words of wide
registers, by word address (R11). `free` counts the free values used so far and `wire` is the history of all that was put
on the ports: both are the model's own (assumptions 1 and 3). -/
structure Chip where
  regs : FMap Nat := []
  latch : FMap (Option Nat) := []
  held : FMap (Option Nat) := []
  dt : Nat := 0
  free : Nat := 0
  wire : List Emit := []
  seq : Seq := {}
  strm : Strm := {}
  vd : VData := {}
  stage : Stage := {}
  store : Store := {}
  hosts : Hosts := {}
  faults : Faults := {}
  time : Time := {}
  bars : FMap Bar := []
  colour : Colour := {}
  fire : Fire := {}
  motion : Motion := {}
  lanes : Lanes := {}
  twin : Twin := {}
  health : Health := {}
deriving DecidableEq, Repr

/-- The state of the block: memories, the rest of the chip, and the commands that wait, first in first out. -/
structure State where
  mem : Mem := {}
  chip : Chip := {}
  pending : List Instr := []
deriving DecidableEq, Repr

/-- Reasons to stop with a fault. There are none: every command of the table has an effect, no effect, or is refused. -/
inductive Fault where
deriving DecidableEq, Repr

/-- Reasons to refuse a command. -/
inductive Refusal where
  /-- Raised by the dispatch arm of a command whose meaning is not written. Safe: nothing can be proved of a next state. -/
  | notModelled (mnemonic : String)
  /-- Raised by JTAG_INSTRUCTION on a private instruction with FTM high: the spec does not say what it does (R466).
  Safe: the model stops where the part goes on. -/
  | jtagPrivate
deriving DecidableEq, Repr

/-- The block right after reset: every register field at its reset value (an unlisted field reads its reset value), DT 0,
memories with nothing listed, no stream, nothing pending. -/
def State.reset : State := {}

end Sys2Proof.Machine
end

