-- ==== Sys2Proof/Machine/Items.lean ====
section
/-!
DEFINITION. Sys2Proof/Machine/Items.lean: how records, field slots and allocations travel as numbers in journal entries and
snapshot sections (R390, R394). The spec says what each carries, not its layout (assumption 30).
-/
namespace Sys2Proof.Machine

/-- Element i of a list of numbers, 0 beyond its end. -/
def arg (xs : List Nat) (i : Nat) : Nat := xs.getD i 0

/-- The number that stands for a kind of entry. -/
def jkindCode : JKind → Nat
  | .jwrite => 0 | .slot => 1 | .alloc => 2 | .record => 3 | .rowmark => 4 | .carry => 5 | .dwrite => 6 | .counter => 7
  | .ckpt => 8 | .disp => 9 | .stage => 10 | .commit => 11 | .loop => 12 | .band => 13 | .reg => 14 | .civil => 15 | .runctl => 16
  | .header => 17 | .prog => 18 | .entry => 19 | .binding => 20 | .table => 21 | .claim => 22 | .cond => 23

/-- A placement record. -/
def Rec.nums (r : Rec) : List Nat :=
  [r.start, r.stop, r.seq, r.kind, r.layer, r.op, r.flags, r.bars, r.col, r.width, r.handle, r.phase, r.param, r.maskh, r.markBar,
    r.markCode, r.markData, r.markTenants]

def Rec.ofNums (a : List Nat) : Rec :=
  { start := arg a 0, stop := arg a 1, seq := arg a 2, kind := arg a 3, layer := arg a 4, op := arg a 5, flags := arg a 6,
    bars := arg a 7, col := arg a 8, width := arg a 9, handle := arg a 10, phase := arg a 11, param := arg a 12, maskh := arg a 13,
    markBar := arg a 14, markCode := arg a 15, markData := arg a 16, markTenants := arg a 17 }

/-- An allocation. -/
def Alloc.nums (x : Alloc) : List Nat :=
  [x.index, x.gen, x.base, x.size, x.owner, x.rd, x.wr, b2n x.jobr, b2n x.jobw, b2n x.isSealed, b2n x.tile, b2n x.pin]

def Alloc.ofNums (a : List Nat) : Alloc :=
  { index := arg a 0, gen := arg a 1, base := arg a 2, size := arg a 3, owner := arg a 4, rd := arg a 5, wr := arg a 6,
    jobr := arg a 7 = 1, jobw := arg a 8 = 1, isSealed := arg a 9 = 1, tile := arg a 10 = 1, pin := arg a 11 = 1 }

/-- A field slot's generation, size and content. -/
def Slot.nums (x : Slot) : List Nat :=
  [x.gen, x.width, x.height, b2n x.placed] ++
    match x.content with
    | none => [3]
    | some (.text g _ tr) => [0, g, uns 64 tr]
    | some (.linear m a b c d) => [1, a, b, c, d] ++ m.map b2n
    | some (.matrix r k m a b c) => [2, r, k, a, b, c] ++ m.map b2n

def Slot.chars (x : Slot) : List Byte :=
  match x.content with
  | some (.text _ cs _) => cs
  | _ => []

def Slot.ofNums (a : List Nat) (chars : List Byte) : Slot :=
  { gen := arg a 0, width := arg a 1, height := arg a 2, placed := arg a 3 = 1,
    content := match arg a 4 with
      | 0 => some (.text (arg a 5) chars (sgn 64 (arg a 6)))
      | 1 => some (.linear ((a.drop 9).map (· = 1)) (arg a 5) (arg a 6) (arg a 7) (arg a 8))
      | 2 => some (.matrix (arg a 5) (arg a 6) ((a.drop 10).map (· = 1)) (arg a 7) (arg a 8) (arg a 9))
      | _ => none }

end Sys2Proof.Machine
end

