-- ==== Sys2Proof/Machine/TableBytes.lean ====
section
/-!
DEFINITION. Sys2Proof/Machine/TableBytes.lean: the bytes of a table, at power-up or loaded (R154, R179, R186, R187, R199, R216,
R305, R373), and the lane map (R305).
-/
namespace Sys2Proof.Machine

/-- The bar table of type ty of bar k in a set. -/
def TSet.barT (s : TSet) (k ty : Nat) : Table := FMap.get {} s.bar (8 * k + ty)

/-- The device table of type ty in a set. -/
def TSet.devT (s : TSet) (ty : Nat) : Table := FMap.get {} s.dev ty

/-! ### Power-up contents -/

/-- Kernel weights at power-up (R179): 1,792 at tap 0, 768 at tap 7, 1,280 at tap 8, 256 at tap 9. -/
def kernelReset (off : Nat) : Nat :=
  match off with
  | 1 => 0x07 | 15 => 0x03 | 17 => 0x05 | 19 => 0x01 | _ => 0

/-- Motion parameters at power-up (Table 8-4). -/
def motionReset : List Byte :=
  le 2 10 ++ le 2 16384 ++ le 2 1966 ++ le 2 98 ++ le 4 12094488 ++ le 4 60472 ++ le 2 100 ++ le 2 7680 ++ le 2 2 ++
    le 2 16 ++ le 1 4 ++ le 1 0 ++ le 2 48 ++ le 2 0 ++ le 2 48

/-- Byte `off` of the power-up body of a table of type ty (R154, R179, R186, R187, R199, R216, R305). -/
def powerUpByte (ty off : Nat) : Byte :=
  match ty with
  | 2 => if 64 ≤ off ∧ (off - 64) % 3 = 1 then 0x20 else 0
  | 3 => BitVec.ofNat 8 (kernelReset off)
  | 7 => if 64 ≤ off ∧ off < 448 ∧ off % 4 = 0 then BitVec.ofNat 8 ((off - 64) / 4 / 6 + 128) else 0
  | 9 => motionReset.getD off 0
  | _ => 0

/-- Byte `off` of a table of type ty. RESTOREFAC's tone table is the power-up one with TRIMRST 1 (R373). -/
def Table.byteAt (t : Table) (ty off : Nat) : Byte :=
  match t.src with
  | .image => t.body.byte off
  | .restored => if off = 0 then 1 else powerUpByte ty off
  | .powerUp => powerUpByte ty off

/-- n bytes of a table of type ty as a number. -/
def Table.num (t : Table) (ty off n : Nat) : Nat := unle ((List.range n).map fun i => t.byteAt ty (off + i))

/-! ### Lane map (R305) -/

def TSet.laneBar (s : TSet) (l : Nat) : Nat := (s.devT 7).num 7 (64 + 4 * l) 1 % 16
def TSet.laneUsed (s : TSet) (l : Nat) : Bool := bit ((s.devT 7).num 7 (64 + 4 * l) 1) 7
def TSet.txAdj (s : TSet) (l : Nat) : Int := sgn 16 ((s.devT 7).num 7 (66 + 4 * l) 2)

/-- The set last accepted: a commit's device tables for the lanes follow it at once (R305). -/
def Chip.newest (c : Chip) : TSet :=
  match c.stage.sched with
  | some s => if s.at_ = none then s.set else c.stage.active
  | none => c.stage.active

end Sys2Proof.Machine
end

