-- ==== Sys2Proof/Machine/Ops.lean ====
section
/-!
DEFINITION. Sys2Proof/Machine/Ops.lean: the named operations that every family of commands shares: register fields, time,
the ports, roles, the journal, outbound records, event records, dispatch triggers, halting fire, planned handoff, and
raising a fault.
-/
namespace Sys2Proof.Machine

/-- Lets the chip part of a state go through f. -/
def State.onChip (s : State) (f : Chip → Chip) : State := { s with chip := f s.chip }

/-! ### Register fields and the free values -/

/-- The value of a register field: what was written last, or its reset value. -/
def Chip.get (c : Chip) (f : Fld) : Nat := FMap.get f.reset c.regs f.key

/-- Writes a register field, modulo its width. -/
def Chip.set (c : Chip) (f : Fld) (v : Nat) : Chip :=
  { c with regs := FMap.put f.reset c.regs f.key (v % 2 ^ f.width) }

/-- The field is not 0. -/
def Chip.is (c : Chip) (f : Fld) : Bool := c.get f ≠ 0

/-- Adds n to a counter field that saturates at its greatest value. -/
def Chip.bump (c : Chip) (f : Fld) (n : Nat := 1) : Chip := c.set f (satAdd f.width (c.get f) n)

/-- Adds n to a counter field that wraps. -/
def Chip.count (c : Chip) (f : Fld) (n : Nat := 1) : Chip := c.set f (c.get f + n)

/-- A signed field. -/
def Chip.getS (c : Chip) (f : Fld) : Int := sgn f.width (c.get f)

/-- Writes a signed field, modulo its width. -/
def Chip.setS (c : Chip) (f : Fld) (v : Int) : Chip := c.set f (uns f.width v)

/-- Applies f for each of the items, left to right. -/
def Chip.forAll {α : Type} (c : Chip) (xs : List α) (f : Chip → α → Chip) : Chip := xs.foldl f c

/-- The next free value, below m, and the chip with it used (assumption 1). -/
def Chip.fresh (c : Chip) (m : Nat) : Nat × Chip := (Config.freeValue c.free % m, { c with free := c.free + 1 })

/-! ### Time -/

/-- DT in whole ns (R309). -/
def Chip.ns (c : Chip) : Nat := c.dt / 65536

/-- The low 32 bits of DT (R10). -/
def Chip.stamp (c : Chip) : Nat := c.ns % 2 ^ 32

/-- Puts one thing on a port. -/
def Chip.emit (c : Chip) (kind : EmitKind) (port : Nat) (args : List Nat := []) (bytes : List Byte := []) : Chip :=
  { c with wire := c.wire ++ [⟨c.ns, kind, port, args, bytes⟩] }

/-! ### Roles (R379) -/

/-- The role: 0 SOLO, 1 ACTIVE, 2 STANDBY, 3 CATCHUP. -/
def Chip.role (c : Chip) : Nat := c.get TW_STAT_ROLE

/-- The unit runs programs and owns the hubs: SOLO or ACTIVE. -/
def Chip.runs (c : Chip) : Bool := c.role = 0 || c.role = 1

/-- Host descriptors other than STATUS and REG_READ complete with STATE: an orderly shutdown runs or has ended (R450). -/
def Chip.shutting (c : Chip) : Bool := c.get HL_PSTAT_STATE = 3 || c.get HL_PSTAT_STATE = 4

/-- The peer is heard on either path (R385). -/
def Chip.peerHeard (c : Chip) : Bool := c.is TW_STAT_BELAY_HEARD || c.is TW_STAT_ROPE_HEARD

/-- The peer is in STANDBY, as the twin controller knows it (R28, R382, R385): it last said so, it is heard, its failure
has not been recognised and the rope link is up. -/
def Chip.peerStandby (c : Chip) : Bool :=
  c.role = 1 && c.twin.peerRole = some 2 && c.peerHeard && !c.twin.peerFailed && c.is TW_STAT_ROPE_UP

/-- The peer's identity as completions carry it: 0 when SOLO (Table 13-4). -/
def Chip.peerUnit (c : Chip) : Nat := if c.role = 0 then 0 else c.get TW_PEER_PEER

/-- Adds a journal entry while the unit is ACTIVE and mirrors its state (R390): the entry is kept until it is acknowledged, and
waits for the next JRN frame. -/
def Chip.jrn (c : Chip) (k : JKind) (args : List Nat) (bytes : List Byte := []) : Chip :=
  if c.role = 1 ∧ c.twin.mirroring then
    let j := (c.get TW_JSEQ_JSEQ + 1) % 2 ^ 32
    let e : JEntry := { jseq := j, item := { kind := k, args := args, bytes := bytes } }
    let c := c.set TW_JSEQ_JSEQ j
    { c with twin := { c.twin with kept := c.twin.kept ++ [e], fresh := c.twin.fresh ++ [e] } }
  else c

/-- Sends a rope frame that the peer has to acknowledge, while the link is up: RSEQ counts it (R383). -/
def Chip.ropeSend (c : Chip) (kind : EmitKind) (args : List Nat) (bytes : List Byte := []) (jseq : Option Nat := none) :
    Chip :=
  if c.is TW_STAT_ROPE_UP then
    let r := (c.twin.rseq + 1) % 65536
    let f : RopeFrame := { rseq := r, kind := kind, sent := c.ns, args := args, bytes := bytes, jseq := jseq }
    ({ c with twin := { c.twin with rseq := r, sent := c.twin.sent ++ [f] } }).emit kind 0 (r :: args) bytes
  else c

/-- Journal entries as a JRN frame carries them: for each JSEQ, kind, the lengths of what follows, and the numbers; then the bytes. -/
def jrnArgs (es : List JEntry) : List Nat :=
  es.flatMap fun e => [e.jseq, jkindCode e.item.kind, e.item.args.length, e.item.bytes.length] ++ e.item.args

/-- The entries written since the last JRN frame leave in one frame (R390). -/
def Chip.flushJrn (c : Chip) : Chip :=
  if c.twin.fresh.isEmpty then c
  else
    let es : List JEntry := c.twin.fresh
    ({ c with twin := { c.twin with fresh := [] } } : Chip).ropeSend .ropeJrn (jrnArgs es) (es.flatMap fun (e : JEntry) => e.item.bytes)
      (es.getLast?.map fun (e : JEntry) => e.jseq)

/-! ### Bars and sets -/

/-- Bar k's state beside its registers. -/
def Chip.bar (c : Chip) (k : Nat) : Bar := FMap.get {} c.bars k

def Chip.setBar (c : Chip) (k : Nat) (b : Bar) : Chip := { c with bars := FMap.put {} c.bars k b }

def TSet.setBarT (s : TSet) (k ty : Nat) (t : Table) : TSet := { s with bar := FMap.put {} s.bar (8 * k + ty) t }

def TSet.setDevT (s : TSet) (ty : Nat) (t : Table) : TSet := { s with dev := FMap.put {} s.dev ty t }

/-- n bytes of a table body as a number. -/
def Table.field (t : Table) (off n : Nat) : Nat := unle (t.body.read off n)

/-- Parameter p (row of Table 1-1) of the geometry set for bar k: 0 row pitch, 1 drop depth, 2 bar enable, 3 active
width, 4 bar offset in 1/256 µm, 5 render lead, 6 lanes. The body layout of type 0x08 is not in the spec (assumption 8);
at power-up no bar is enabled and the defaults of Table 1-1 hold (assumption 12). -/
def TSet.geo (s : TSet) (p k : Nat) : Nat :=
  let t := s.devT 8
  match t.src with
  | .image => FMap.get 0 t.geo (16 * p + k)
  | _ => match p with
    | 0 => 3 | 1 => 1 | 2 => 0 | 3 => 16 | 4 => 0 | 5 => 56 | _ => 6

def TSet.enabled (s : TSet) (k : Nat) : Bool := s.geo 2 k ≠ 0
def TSet.width (s : TSet) (k : Nat) : Nat := s.geo 3 k
def TSet.lead (s : TSet) (k : Nat) : Nat := s.geo 5 k

/-- The bars enabled in a set. -/
def TSet.bars (s : TSet) : List Nat := (List.range 16).filter s.enabled

/-- Row pitch P as a fraction of web ticks, by the index of Table 0-3. -/
def pitchNum : Nat → Nat
  | 0 => 512 | 1 => 256 | 2 => 512 | 3 => 128 | 4 => 256 | _ => 64
def pitchDen : Nat → Nat
  | 2 => 3 | 4 => 3 | _ => 1

/-- The web point that row n prints (R9). -/
def rowPoint (p n : Nat) : Nat := n * pitchNum p / pitchDen p

/-- The lowest row whose web point is at or above c (R23). -/
def firstRow (p c : Nat) : Nat := ceilDiv (c * pitchDen p) (pitchNum p)

/-- The row pitch of the job, or of the set in force before the first RUN (R17). -/
def Chip.pitch (c : Chip) : Nat := if c.strm.job then c.strm.pitch else c.stage.active.geo 0 0

/-- The set that row n uses (R23): the committed set from n_k on, the set in force before. -/
def Chip.setFor (c : Chip) (n : Nat) : TSet :=
  match c.stage.sched with
  | some s => if s.at_ = none ∧ s.nk ≤ n then s.set else c.stage.active
  | none => c.stage.active

/-- The set that bar k itself has reached: the committed one once it has started row n_k, or at once when it is disabled in
the set in force (R23, R205). -/
def Chip.setOf (c : Chip) (k : Nat) : TSet :=
  match c.stage.sched with
  | some s => if s.at_ = none && (bit s.reached k || !c.stage.active.enabled k) then s.set else c.stage.active
  | none => c.stage.active

/-- The bars enabled in the sets they have reached: a commit's acceptance adds the bars that it enables (R23). -/
def Chip.enabledBars (c : Chip) : List Nat := (List.range 16).filter fun k => (c.setOf k).enabled k

/-- The row after the last that bar k may start (R21): each row's own set gives the lead that allows it. -/
def Chip.horizonRow (c : Chip) (k : Nat) : Nat :=
  let r := (c.bar k).rk + 1
  let m := (r + (c.setOf k).lead k).toNat
  match c.stage.sched with
  | some s => if s.at_ = none ∧ s.nk < m then max s.nk (r + s.set.lead k).toNat else m
  | none => m

/-- Render horizon of bar k: the web point of the row after the last that its lead allows (R22). -/
def Chip.horizon (c : Chip) (k : Nat) : Nat := rowPoint c.pitch (c.horizonRow k)

/-- The highest render horizon among the enabled bars of a mask (R90). -/
def Chip.maskHorizon (c : Chip) (mask : Nat) : Nat :=
  greatest ((c.enabledBars.filter (bit mask)).map c.horizon)

/-- The front horizon (R22). -/
def Chip.frontHorizon (c : Chip) : Nat := greatest (c.enabledBars.map c.horizon)

/-! ### Lanes -/

/-- The lanes in SERVICE (state 4 of Table 10-1). -/
def Chip.serviceLanes (c : Chip) : List Nat :=
  (List.range 96).filter fun l => c.get (LQ_LSTAT_STATE (l / 4) (l % 4)) = 4

/-- Quad q runs at 12.890625 Gbit/s; mode ET5208 has no such rate, and RATE reads 0 there (R250, Table 10-8). -/
def Chip.fast (c : Chip) (q : Nat) : Bool := c.is (LQ_CFG_RATE q) && !c.is (LQ_CFG_MODE q)

/-- The HALT control block: type 0xA5, HALT, zeros, CRC-8 (R279). -/
def haltBlock : List Byte :=
  let b := le 1 0xA5 ++ le 1 0x01 ++ zeros 5
  b ++ le 1 (crcMsb 8 0x07 0 b)

/-- HALT on every lane in SERVICE, ahead of every other frame: its block in 4 consecutive block periods (R218, R220, R279). -/
def Chip.sendHalt (c : Chip) : Chip :=
  c.forAll c.serviceLanes fun c l => c.emit .halt l [] (haltBlock ++ haltBlock ++ haltBlock ++ haltBlock)

/-! ### Host transport -/

/-- The 32-byte transport header (Table 13-7) with its CRC over the payload. -/
def transportFrame (ty tenant nrec dlen xseq ack stamp epoch unit : Nat) (payload : List Byte) : List Byte :=
  let h := le 2 0x9612 ++ le 1 1 ++ le 1 ty ++ le 1 tenant ++ le 1 nrec ++ le 2 dlen ++ le 4 xseq ++ le 4 ack ++
    le 4 stamp ++ le 4 epoch ++ le 4 unit
  h ++ le 4 (crc32 (h ++ zeros 4 ++ payload)) ++ payload

def Chip.queue (c : Chip) (q : Nat) : Queue := FMap.get {} c.hosts.queues q

def Chip.setQueue (c : Chip) (q : Nat) (x : Queue) : Chip :=
  { c with hosts := { c.hosts with queues := FMap.put {} c.hosts.queues q x } }

def Chip.session (c : Chip) (t p : Nat) : Option Session := FMap.get none c.hosts.sessions (4 * t + p)

def Chip.setSession (c : Chip) (t p : Nat) (x : Option Session) : Chip :=
  { c with hosts := { c.hosts with sessions := FMap.put none c.hosts.sessions (4 * t + p) x } }

/-- DT is still a roped unit's provisional count, which nothing outside its own start-up reads (R308). -/
def Chip.provisional (c : Chip) : Bool := c.twin.deciding || c.twin.needDt

/-- DT now in ps as an interpolator latches it: to the nearest 1 ps, and so to 100 ps (R263, R309). -/
def Chip.psNow (c : Chip) : Nat := (c.dt * 1000 + 32768) / 65536 / 100 * 100

/-- A port's stamp (R314): a latch in ps, to 100 ps, moved by a port latency in ps and rounded half up to 1 ns. -/
def portNs (ps : Nat) (lat : Int) : Int := halfUp ((ps / 100 * 100 : Nat) + lat) 1000

/-- The low 32 bits of the stamp of a frame at a port now. -/
def Chip.portStamp (c : Chip) (lat : Int) : Nat := uns 32 (portNs c.psNow lat)

/-- Sends one transport frame of tenant t on port p, if it has a session there; XSEQ counts it (R345, Table 13-7). -/
def Chip.sendFrame (c : Chip) (k : EmitKind) (t p ty nrec dlen : Nat) (payload : List Byte) : Chip :=
  match c.session t p with
  | none => c
  | some s =>
    let stamp := c.portStamp (c.get (TB_PORTLAT_TXLAT p))
    (c.emit k p [t, ty, s.addr, s.udp]
      (transportFrame ty t nrec dlen s.send s.expect stamp c.twin.epoch unitId payload)).setSession t p
        (some { s with send := (s.send + 1) % 2 ^ 32 })

/-- The tenant that owns queue q. -/
def Chip.qTenant (c : Chip) (q : Nat) : Nat := c.get (QM_QCFG_TENANT q)

/-- A record may go to the host now: over the session on the queue's port, or into a host ring with room (R344, R348). -/
def Chip.canDeliver (c : Chip) (q : Nat) : Bool :=
  let t := c.qTenant q
  if c.is (QM_QCFG_VIA q) then
    ((c.get (TN_QOPI_OPI t q) + 2 ^ 32 - c.get (TN_QOCI_OCI t q)) % 2 ^ 32) < c.get (QM_QCFG_ODEPTH q)
  else (c.session t (c.get (QM_QCFG_PORT q))).isSome

/-- MSI-X vector q of function t, no more often than TW_QIMq allows (R347). -/
def Chip.msix (c : Chip) (t q : Nat) : Chip :=
  let x := c.queue q
  let due := match x.msixNs with
    | none => true
    | some last => last + 1000 * c.get (TN_QIM_IM t q) ≤ c.ns
  if due then (c.emit .msix t [q]).setQueue q { x with msixNs := some c.ns, msixHeld := false }
  else c.setQueue q { x with msixHeld := true }

/-- Delivers the oldest outbound record of queue q; a completion returns its descriptor's credit (R341). -/
def Chip.deliverOne (c : Chip) (q : Nat) : Chip :=
  let x := c.queue q
  match x.out with
  | [] => c
  | (isCompletion, r) :: rest =>
    if c.canDeliver q then
      let t := c.qTenant q
      let c := c.setQueue q { x with out := rest, creditDirty := x.creditDirty || isCompletion }
      let c := if isCompletion then c.count (TN_QCREL_CREL t q) else c
      if c.is (QM_QCFG_VIA q) then
        let j := c.get (TN_QOPI_OPI t q)
        let a := c.get (TN_QOBASE_OBASE t q) + 64 * (j % max 1 (c.get (QM_QCFG_ODEPTH q)))
        let c := (c.emit .pcieRecord t [q, a] r).count (TN_QOPI_OPI t q)
        c.msix t q
      else c.sendFrame .hostFrame t (c.get (QM_QCFG_PORT q)) 0x04 1 0 r
    else c

/-- Delivers what can be delivered of queue q, up to n records. -/
def Chip.deliver : Nat → Chip → Nat → Chip
  | 0, c, _ => c
  | n + 1, c, q => if (c.queue q).out.isEmpty || !c.canDeliver q then c else Chip.deliver n (c.deliverOne q) q

/-- Slots of the outbound ring in use, reserved ones included (R342). -/
def Chip.outUsed (c : Chip) (q : Nat) : Nat := (c.queue q).out.length + (c.queue q).reserved

/-- Puts a record in the outbound ring of queue q and delivers it when it can be. The head is RTYPE, QNUM and two bytes;
OSEQ and DT[31:0] follow (Table 13-4). -/
def Chip.postRecord (c : Chip) (q : Nat) (completion : Bool) (rtype b2 b3 : Nat) (rest : List Byte) : Chip :=
  let x := c.queue q
  let o := (x.oseq + 1) % 2 ^ 32
  let r := fit 64 (le 1 rtype ++ le 1 q ++ le 1 b2 ++ le 1 b3 ++ le 4 o ++ le 4 c.stamp ++ rest)
  Chip.deliver 512 (c.setQueue q { x with oseq := o, out := x.out ++ [(completion, r)] }) q

/-- Posts a completion record into its reserved slot (R337, R342). -/
def Chip.complete (c : Chip) (q tag rx status : Nat) (result : List Byte := []) : Chip :=
  let c := c.setQueue q { c.queue q with reserved := (c.queue q).reserved - 1 }
  c.postRecord q true 0x01 status 0
    (le 4 tag ++ le 4 rx ++ le 4 c.peerUnit ++ le 4 c.twin.epoch ++ le 1 c.role ++ zeros 3 ++ fit 32 result)

/-! ### Event records (R349, R350) -/

/-- The enabled E-class queue of tenant t, its event ring (R333). -/
def Chip.eQueue (c : Chip) (t : Nat) : Option Nat :=
  (List.range 64).find? fun q => c.is (QM_QCFG_EN q) && c.qTenant q = t && c.get (QM_QCFG_CLASS q) = 3

/-- Posts one event record to tenant t: true when its ring had room. A record that finds the ring full, or no ring, is
dropped and counted; EVSEQ counts both (R42, R350). That a tenant without a ring counts like one with a full ring is the model's
(DESIGN CHOICE, assumption 32). -/
def Chip.postEvent (c : Chip) (t ev flags sev code data : Nat) (detail : List Byte) : Bool × Chip :=
  let n := (FMap.get 0 c.hosts.evseq t + 1) % 2 ^ 32
  let d := FMap.get 0 c.hosts.dropped t
  let c := { c with hosts := { c.hosts with evseq := FMap.put 0 c.hosts.evseq t n } }
  match c.eQueue t with
  | some q =>
    if c.outUsed q < c.get (QM_QCFG_ODEPTH q) then
      let c := { c with hosts := { c.hosts with dropped := FMap.put 0 c.hosts.dropped t 0 } }
      (true, c.postRecord q false 0x03 ev (flags + b2n (d ≠ 0))
        (le 4 n ++ le 1 sev ++ le 1 0 ++ le 2 code ++ le 2 (min d 65535) ++ zeros 2 ++ le 8 c.ns ++ le 8 data ++
          fit 24 detail))
    else (false, { c with hosts := { c.hosts with dropped := FMap.put 0 c.hosts.dropped t (d + 1) } })
  | none => (false, { c with hosts := { c.hosts with dropped := FMap.put 0 c.hosts.dropped t (d + 1) } })

/-- Dispatch entry i beside its registers. -/
def Chip.entry (c : Chip) (i : Nat) : DispEntry := FMap.get {} c.seq.disp i

def Chip.setEntry (c : Chip) (i : Nat) (e : DispEntry) : Chip :=
  { c with seq := { c.seq with disp := FMap.put {} c.seq.disp i e } }

/-- Triggers dispatch entry i (R72, R73): PEND is set and COUNT adds 1, saturating. -/
def Chip.trigger (c : Chip) (i : Nat) (block : Option (Blk × Nat) := none) : Chip :=
  let e := c.entry i
  let e := if block.isSome then { e with block := block } else e
  let e := if c.is (SEQ_DISPA_PEND i) then e else { e with firstDt := c.ns, waited := 0 }
  let c := c.setEntry i e
  (c.set (SEQ_DISPA_PEND i) 1).bump (SEQ_DISPB_COUNT i)

/-- A coded event of source ev for the tenants in a mask (R349): gives the mask of tenants whose ring was full. The
event also reaches the sequencer's dispatch entry of its source (R72). -/
def Chip.postCoded (c : Chip) (mask ev code data : Nat) : Nat × Chip :=
  let r := (setBits 8 mask).foldl
    (fun (r : Nat × Chip) t =>
      let (ok, c) := r.2.postEvent t ev 0 0xFF code data []
      (if ok then r.1 else r.1 + 2 ^ t, c)) (0, c)
  (r.1, r.2.trigger ev)

/-- As `postCoded`, when nothing reads the mask of full rings. -/
def Chip.event (c : Chip) (mask ev code data : Nat) : Chip := (c.postCoded mask ev code data).2

/-! ### Releasing rows: the row ring and the coverage ledger (R21, R156 to R158, R220) -/

/-- Adds two sparse sums. -/
def addInk (a b : FMap Nat) : FMap Nat := b.foldl (fun a e => FMap.put 0 a e.1 (FMap.get 0 a e.1 + e.2)) a

/-- A row settles in its band: its drops, and, unless the active unit has said the band's state (R159), its tag and generation and
whether it was fired; `kept` says that its ledger writes succeeded (R157). -/
def Band.settle (b : Band) (x : RowSlot) (fired kept : Bool) : Band :=
  let b := { b with ink := addInk b.ink x.ink, settled := b.settled + 1, lost := b.lost || !kept }
  if b.said then b else
  { b with mixed := b.mixed || decide (b.settled ≠ 1 ∧ (b.tag ≠ x.tag ∨ b.lgen ≠ x.lgen)),
           tag := x.tag, lgen := x.lgen, bad := b.bad || !fired }

/-- All 64 rows have settled, here or, as the rope link says, in the active unit (R157, R159). -/
def Band.whole (b : Band) : Bool := b.said || 64 ≤ b.settled

/-- The state of a whole band as the BAND entry carries it (R157, Table 15-5): 0 VALID, 1 MIXED, 2 INVALID. -/
def Band.state (b : Band) : Nat := if b.mixed then 1 else if b.bad || b.lost || b.old then 2 else 0

/-- Journals the state of a band of bar k. -/
def Chip.sayBand (c : Chip) (k : Nat) (y : Band) : Chip := c.jrn .band [k, y.m, y.lgen, y.state]

/-- Bands held per bar (R158). -/
def bandLimit : Nat := 11812

/-- Settles a row in the ledger of its bar: its band begins with its first row, and the latest 11,812 are kept. -/
def Bar.settle (b : Bar) (x : RowSlot) (fired kept : Bool) : Bar :=
  let m := x.n / 64
  if b.bands.any fun y => y.m = m && !y.old then
    { b with bands := b.bands.map fun z => if z.m = m then z.settle x fired kept else z }
  else
    let bs := (b.bands.filter fun y => y.m ≠ m) ++ [({ m := m : Band }).settle x fired kept]
    { b with bands := bs.drop (bs.length - bandLimit) }

/-- Row n of bar k leaves the ring: the last stamps of its heads are kept for R209, and its share of the band settles. -/
def Chip.releaseRow (c : Chip) (k n : Nat) (fired : Bool) (kept : Bool := true) : Chip :=
  let b := c.bar k
  match b.ring.find? fun x => x.n = n with
  | none => c
  | some x =>
    let b := ({ b with ring := b.ring.filter fun y => y.n ≠ n } : Bar).settle x fired kept
    let c := c.setBar k b
    let c := match b.bands.find? fun y => y.m = n / 64 && y.settled = 64 with
      | some y => c.sayBand k y
      | none => c
    let last := x.heads.foldl (fun m h => match h.stamp with
      | some v => if v = 2 ^ 64 - 1 then m else FMap.put 0 m h.head v
      | none => m) c.fire.lastStamp
    { c with fire := { c.fire with lastStamp := last } }

/-- While fire is halted, rows whose web points have passed their nozzle line are released unfired and counted (R220). -/
def Chip.releaseUnfired (c : Chip) : Chip :=
  if c.is FS_STAT_HALTED then
    c.forAll (List.range 16) fun c k =>
      let b := c.bar k
      let ns := (b.ring.map (·.n)).filter fun (n : Nat) => decide ((n : Int) ≤ b.rk)
      c.forAll ns fun c n => (c.releaseRow k n false).bump FS_HALT_SKIPPED
  else c

/-! ### Halting fire, and the planned handoff -/

/-- A row without its stamps. -/
def RowSlot.noStamps (x : RowSlot) : RowSlot :=
  { x with heads := x.heads.map fun h => { h with stamp := none, queued := none, frozen := false, missed := false } }

/-- No stamp is launched any more: what waits goes, and the stamps that hubs discard (R219) are forgotten. -/
def Chip.dropStamps (c : Chip) : Chip :=
  let clean (l : Lane) : Lane := { l with unacked := [] }
  let bare (b : Bar) : Bar := { b with ring := b.ring.map RowSlot.noStamps }
  { c with lanes := { c.lanes with lane := FMap.mapV {} clean c.lanes.lane }, bars := FMap.mapV {} bare c.bars }

/-- Fire enters or stays in the halted state (R220): CAUSE set, HALTS counting entries only, mode IDLE; a FIRE_ARM not yet
applied is withdrawn. -/
def Chip.haltMark (c : Chip) (cause : Nat) : Chip :=
  let c := if c.is FS_STAT_HALTED then c else (c.set FS_STAT_HALTED 1).bump FS_HALT_HALTS
  let c := ((c.set FS_STAT_CAUSE cause).set FS_STAT_MODE 0).dropStamps
  { c with fire := { c.fire with armed := false } }.releaseUnfired

/-- Halts fire: HALT on every lane in SERVICE, the journal entry, the halted state (R218, R220). -/
def Chip.haltFire (c : Chip) (cause : Nat) : Chip := (c.sendHalt.jrn .runctl [2, cause]).haltMark cause

/-- Journals a checkpoint of context 0: state, program counter, g1 to g31 and w0 to w7 (Table 15-5). -/
def Chip.ckpt0 (c : Chip) : Chip :=
  c.jrn .ckpt ([c.get (SEQ_CSTAT_STATE 0), c.get (SEQ_CPC_PC 0)] ++
    (List.range 31).map (fun i => (FMap.get 0 c.seq.g (i + 1)).toNat) ++ (List.range 8).map fun i => (FMap.get 0 c.seq.w i).toNat)

/-- Starts a planned handoff (R399, step 1): only an ACTIVE unit whose peer is STANDBY, one at a time. The token is a
free value, non-zero and different from the last; OFFER carries it with HROW of every lane. -/
def Chip.startHandoff (c : Chip) (forShutdown failreq : Bool := false) : Chip :=
  if c.peerStandby ∧ ¬ c.is TW_STAT_HANDOFF then
    let (v, c) := c.fresh (2 ^ 32 - 2)
    let token := if v + 1 < c.twin.lastToken ∨ c.twin.lastToken = 0 then v + 1 else v + 2
    let hrow := (List.range 16).map fun k => ((c.bar k).rk + 16).toNat
    let c := (c.set TW_STAT_HANDOFF 1).ckpt0.flushJrn
    let h : Handoff := { th := c.ns, token := token, hrow := hrow, forShutdown := forShutdown, failreq := failreq }
    let c := { c with twin := { c.twin with handoff := some h, lastToken := token } }
    c.ropeSend .ropeOffer (token :: (List.range 96).map fun l => hrow.getD (c.newest.laneBar l) 0)
  else c

/-! ### Faults (R408 to R415) -/

/-- One occurrence of a fault source: the source, whether it was injected, the cell, the level of Table 2-1 whose own
handling acted (R414), the packed detail, and the severity where it depends on the role instead of FLVL. -/
structure Occ where
  src : Nat
  inj : Bool := false
  cell : Nat := 0xFFFF
  acted : Nat := 1
  detail : Nat := 0
  detail2 : Nat := 0
  level : Option Nat := none
deriving DecidableEq, Repr

/-- Packs a row, a head and a bar (R414). -/
def packRow (row : Option Nat) (head : Option Nat) (bar : Option Nat) : Nat :=
  (match row with | some n => n % 2 ^ 32 | none => 0xFFFFFFFF) +
  (match head with | some h => h % 2 ^ 16 | none => 0xFFFF) * 2 ^ 32 +
  (match bar with | some k => k % 2 ^ 8 | none => 0xFF) * 2 ^ 48

/-- The window number of a block, the key of its fault bookkeeping. -/
def Blk.window (b : Blk) (i : Nat) : Nat := b.base i / 0x10000

/-- The reaction taken by the latest occurrence of source s (R415). -/
def Chip.reaction (c : Chip) (b : Blk) (i s : Nat) : Nat := FMap.get 0 c.faults.reaction (b.window i * 32 + s)

/-- The control clock of an instant, 2.5 ns long, counted from 1. -/
def Chip.clock (c : Chip) : Nat := c.dt / 163840 + 1

/-- The part sets an RS field: a write in the same control clock does not clear it (R13). -/
def Chip.latchRs (c : Chip) (f : Fld) : Chip :=
  let x := c.faults
  { c.set f 1 with faults := { x with latched := FMap.put 0 x.latched f.key c.clock } }

/-- Source s occurs now with a reaction. -/
def Chip.setReaction (c : Chip) (b : Blk) (i s v : Nat) : Chip :=
  let f := c.faults
  let k := b.window i * 32 + s
  { c with faults := { f with reaction := FMap.put 0 f.reaction k v, last := FMap.put 0 f.last k c.clock } }

/-- FSUM follows FSTAT, FMASK, FINJST and the reactions (Table 16-1). -/
def Chip.refreshSum (c : Chip) (b : Blk) (i : Nat) : Chip :=
  let st := c.get (FSTAT_STICKY b i)
  let on := setBits 32 st
  let lv := greatest (on.map (c.reaction b i))
  let c := c.set (FSUM_PEND b i) (b2n (on.any fun s => !bit (c.get (FMASK_MASK b i)) s))
  let c := c.set (FSUM_LEVEL b i) lv
  let c := c.set (FSUM_INJ b i) (b2n (c.get (FINJST_INJONLY b i) ≠ 0))
  let c := c.set (FSUM_TOP b i) (leastOr 0 (on.filter fun s => c.reaction b i s = lv))
  c.set (FSUM_NSET b i) on.length

/-- Sets or clears bit s of a field. -/
def Chip.setBit (c : Chip) (f : Fld) (s : Nat) (v : Bool) : Chip :=
  let w := c.get f
  if bit w s = v then c else if v then c.set f (w + 2 ^ s) else c.set f (w - 2 ^ s)

/-- The level of an occurrence before escalation. -/
def Chip.occLevel (c : Chip) (b : Blk) (i : Nat) (o : Occ) : Nat := o.level.getD (c.get (FLVL_LEVEL b i o.src))

/-- A real occurrence of level 1 or more that finds its bit set by a real one is a repeat (R410). -/
def Chip.isRepeat (c : Chip) (b : Blk) (i : Nat) (o : Occ) : Bool :=
  !o.inj && c.occLevel b i o ≠ 0 && bit (c.get (FSTAT_STICKY b i)) o.src && !bit (c.get (FINJST_INJONLY b i)) o.src

/-- The reaction an occurrence takes (R410, R412, R28, R419): one level above LEVEL for a repeat, at most 4; a failover
request becomes halt-fire when the unit is SOLO or its peer is not in STANDBY, but not an injected one. -/
def Chip.occReaction (c : Chip) (b : Blk) (i : Nat) (o : Occ) : Nat :=
  let lv := c.occLevel b i o
  let r := if c.isRepeat b i o then min 4 (lv + 1) else lv
  if r = 3 ∧ ¬ o.inj ∧ ¬ c.peerStandby then 4 else r

/-- Latches one occurrence in the block's registers (R408, R410, R419). -/
def Chip.latchOcc (c : Chip) (b : Blk) (i : Nat) (o : Occ) : Chip :=
  let r := c.occReaction b i o
  let esc := c.isRepeat b i o
  let was := bit (c.get (FSTAT_STICKY b i)) o.src
  let c := c.setBit (FINJST_INJONLY b i) o.src (o.inj && (!was || bit (c.get (FINJST_INJONLY b i)) o.src))
  let c := c.setBit (FSTAT_STICKY b i) o.src true
  let c := c.setBit (FESC_ESC b i) o.src esc
  let c := if esc then c.bump (FCNT_ESCALATIONS b i) else c
  (c.bump (FCNT_OCCURRENCES b i)).setReaction b i o.src r

/-- An occurrence with what it came to: reaction, level before escalation, whether escalated. -/
structure Taken where
  occ : Occ
  react : Nat
  level : Nat
  esc : Bool
deriving DecidableEq, Repr

/-- Inserts by highest reaction, then lowest source (R409). -/
def insertTaken (t : Taken) : List Taken → List Taken
  | [] => [t]
  | u :: us => if u.react < t.react ∨ (u.react = t.react ∧ t.occ.src < u.occ.src) then t :: u :: us
               else u :: insertTaken t us

/-- The fault detail of a record (Table 16-3): the first occurrence, then the further ones. -/
def faultDetail (b : Blk) (i : Nat) (t : Taken) (more : List Taken) : List Byte :=
  let acted := if t.react ≥ 3 ∨ (b = .sys ∧ t.occ.src < 3) then 3 else t.occ.acted
  le 1 (min more.length 31) ++ fit 7 ((more.take 7).flatMap fun u => le 1 (u.occ.src + 32 * u.react)) ++
  le 1 (t.level + 8 * b2n t.esc) ++ le 1 acted ++ le 2 t.occ.cell ++ le 1 b.code ++ le 1 i ++ le 2 t.occ.detail2 ++
  le 8 t.occ.detail

/-- The record of one event source among several, for every tenant whose mask admits it, and the dispatch entry
(R409, R413, R72); `extra` names the tenants that the block's own feature names (R349). -/
def Chip.faultRecord (c : Chip) (b : Blk) (i ev : Nat) (ts : List Taken) (extra : Nat) : Chip :=
  match ts.filter fun t => evSource b i t.occ.src = ev && !bit (c.get (FMASK_MASK b i)) t.occ.src with
  | [] => c
  | t :: more =>
    let tenants := (List.range 8).filter fun n => bit (c.get (QM_EVMASK_MASK n)) ev || bit extra n
    let c := c.forAll tenants fun c n =>
      (c.postEvent n ev (4 + 2 * b2n t.occ.inj) t.react t.occ.src 0 (faultDetail b i t more)).2
    c.trigger ev (some (b, i))

/-- A region is under logic self-test: a wave runs and tests it (Table 16-5). -/
def Chip.testing (c : Chip) (r : Nat) : Bool :=
  c.get HL_BSTAT_STATE = 2 && (match c.get HL_BSTAT_WAVE with
    | 0 => r = 0 || r = 1
    | 1 => r = 2 || r = 3
    | _ => r = 4)

/-- Block b instance i is under logic self-test: its region, or, in wave C of a full run, one of the islands of CR that the wave
stops and tests (Table 2-3, Table 16-5). -/
def Chip.underTest (c : Chip) (b : Blk) (i : Nat) : Bool :=
  c.testing (b.region i) || (c.get HL_BSTAT_STATE = 2 && c.get HL_BSTAT_WAVE = 2 && (c.health.bist.any fun r => r.kind ≠ 2) &&
    [Blk.seq, .qm, .hp, .pcie, .ch, .tw, .hl, .nv].contains b)

/-- Source o.src of the block has already occurred in this control clock, and the two count as one (R408). An injected one does not take in a
real one. Sources of the sequencers and of the job store count singly: instructions raise them, which carry no time. -/
def Chip.counted (c : Chip) (b : Blk) (i : Nat) (o : Occ) : Bool :=
  b ≠ .seq && b ≠ .js && bit (c.get (FSTAT_STICKY b i)) o.src && (FMap.get 0 c.faults.last (b.window i * 32 + o.src) = c.clock) &&
    (o.inj || !bit (c.get (FINJST_INJONLY b i)) o.src)

/-- Several sources of one block latch in one control clock (R409): every bit is set, the highest reaction is taken, and
one record per event source is posted. Nothing is reported from inside a block under self-test (R424); the health block reports
the run itself. -/
def Chip.raiseAll (c : Chip) (b : Blk) (i : Nat) (os : List Occ) (extra : Nat := 0) : Chip :=
  let os := if c.underTest b i && b ≠ .hl then [] else os.filter fun o => !c.counted b i o
  let ts := os.foldl (fun ts o => insertTaken ⟨o, c.occReaction b i o, c.occLevel b i o, c.isRepeat b i o⟩ ts) []
  match ts with
  | [] => c
  | t :: more =>
    let c := c.forAll os fun c o => c.latchOcc b i o
    let c := c.set (FLAST_MORE b i) (min more.length 31)
    let c := c.set (FLAST_ESC b i) (b2n t.esc)
    let c := c.set (FLAST_INJ b i) (b2n t.occ.inj)
    let c := c.set (FLAST_SEV b i) t.react
    let c := c.set (FLAST_SRC b i) t.occ.src
    let c := c.refreshSum b i
    let evs := (ts.map fun t => evSource b i t.occ.src).eraseDups
    let c := c.forAll evs fun c ev => c.faultRecord b i ev ts extra
    if t.react = 4 then c.haltFire 2 else if t.react = 3 then c.startHandoff false true else c

/-- One source of one block (R408). -/
def Chip.raise (c : Chip) (b : Blk) (i : Nat) (o : Occ) : Chip := c.raiseAll b i [o]

/-- SRC and CELL of the injection armed in a window (R417). -/
def Chip.armedInj (c : Chip) (b : Blk) (i : Nat) : Option (Nat × Nat) :=
  if c.is (FINJ_ARM b i) then some (FMap.get (0, 0) c.faults.armed (b.window i)) else none

/-- An injection is armed (R417). -/
def Chip.armInj (c : Chip) (b : Blk) (i s cell : Nat) : Chip :=
  let x := c.faults
  { c.set (FINJ_ARM b i) 1 with faults := { x with armed := FMap.put (0, 0) x.armed (b.window i) (s, cell) } }

/-- The checker of source s of a block makes a check (R417, R418): true when an armed injection is delivered to it, which
ends the arming. -/
def Chip.checker (c : Chip) (b : Blk) (i s cell : Nat) : Bool × Chip :=
  match c.armedInj b i with
  | some (s', e) => if s' = s && (e = 0xFFFF || e = cell) then (true, c.set (FINJ_ARM b i) 0) else (false, c)
  | none => (false, c)

/-- The checker of some sources of a block makes a check that finds nothing else wrong: an armed injection that names one of them
is delivered (R418, R419). -/
def Chip.inject (c : Chip) (b : Blk) (i : Nat) (srcs : List Nat) : Chip :=
  match c.armedInj b i with
  | some (s, e) => if srcs.contains s then (c.set (FINJ_ARM b i) 0).raise b i { src := s, inj := true, cell := e } else c
  | none => c

/-- As `checker`, for a check that finds real errors as `real` says: the injection syndrome alone is reported as an
injected occurrence and the data passes (R418). -/
def Chip.checked (c : Chip) (b : Blk) (i : Nat) (o : Occ) (real : Bool) : Chip :=
  let (inj, c) := c.checker b i o.src o.cell
  if real then c.raise b i o else if inj then c.raise b i { o with inj := true } else c

/-- A read of D-space passes its ECC checker: a correction is a notice of the sequencer (R27, R28; source 6, assumption 11). -/
def Chip.dRead (c : Chip) (r : Ecc) : Chip := c.checked .seq 0 { src := 6, acted := 0 } (r = .corrected)

/-- A read of the job store passes its ECC checker: a corrected one is a notice on EV44 (R114). -/
def Chip.jobStoreRead (c : Chip) (r : Ecc) : Chip := c.checked .js 0 { src := 0, acted := 0 } (r = .corrected)

/-- The power domain of a region is on (Table 17-5). -/
def Chip.regionOn (c : Chip) (r : Nat) : Bool :=
  bit (c.get HL_PSTAT_DOMAIN_ON) (if r < 4 then 3 + r else if r = 4 then 2 else 1)

/-- A halt-fire fault is unacknowledged (R415): some FSTAT bit is set whose latest occurrence took reaction 4. -/
def Chip.haltFaultPending (c : Chip) : Bool :=
  Blk.all.any fun b => (List.range b.count).any fun i =>
    (setBits 32 (c.get (FSTAT_STICKY b i))).any fun s => c.reaction b i s = 4

/-- The notice of R46 on EV53: an access outside every window, a partial access, or one that the grants do not allow. -/
def Chip.noticeAccess (c : Chip) (addr : Nat) : Chip := c.raise .qm 0 { src := 0, detail := addr }

/-- The region quarantines block b instance i (R28): a contain fault of the region, and for a bar engine, lane quad, HBM
controller or the sequencer a failover request. -/
def Chip.quarantine (c : Chip) (b : Blk) (i : Nat) : Chip :=
  let c := c.set (PWR_QUAR b i) 1
  let d := b.code + 256 * i
  let os : List Occ := { src := 0, acted := 2, detail := d } ::
    (if b = .be ∨ b = .lq ∨ b = .hbm ∨ b = .seq then [{ src := 1, acted := 2, detail := d }] else [])
  let r := b.region i
  if r < 4 then c.raiseAll .rg r os else if r = 4 then c.raiseAll .mr 0 os else c.raiseAll .sys 0 (os.map fun o => { o with src := 3 + o.src, level := some (2 + o.src) })

end Sys2Proof.Machine
end

