-- ==== Sys2Proof/Machine/Operands.lean ====
section
/-!
DEFINITION. Sys2Proof/Machine/Operands.lean: the operands of a sequencer instruction (R53, R54, R61, R62), the trap codes
(Table 3-4, Table 4-12, Table 14-11), taking a trap (R63, R64), and the issue of one instruction.
-/
namespace Sys2Proof.Machine

/-! ### Trap codes -/

def ILLEGAL_OP : Nat := 0x01
def RESERVED_FIELD : Nat := 0x02
def CONTEXT_OP : Nat := 0x03
def PC_RANGE : Nat := 0x04
def ALIGN : Nat := 0x05
def D_RANGE : Nat := 0x06
def J_RANGE : Nat := 0x07
def DIV_ZERO : Nat := 0x08
def OVERFLOW : Nat := 0x09
def W0_REGRESS : Nat := 0x0A
def QUEUE_USE : Nat := 0x0B
def DISP_ENTRY : Nat := 0x0C
def D_UNCORR : Nat := 0x0D
def J_UNCORR : Nat := 0x0E
def PLACE_DESC : Nat := 0x20
def PLACE_LENGTH : Nat := 0x21
def PLACE_LIMIT : Nat := 0x22
def PLACE_LATE : Nat := 0x23
def HANDLE : Nat := 0x24
def TRUNC_ID : Nat := 0x25
def MARK_ARG : Nat := 0x26
def VD_TEXT : Nat := 0x28
def VD_FORMAT : Nat := 0x29
def VD_WIDTH : Nat := 0x2A
def VD_GLYPH : Nat := 0x2B
def VD_SYMBOL : Nat := 0x2C
def VD_SIZE : Nat := 0x2D
def VD_POOL : Nat := 0x2E
def VD_CTR : Nat := 0x2F
def WAIT_BAR : Nat := 0x30
def TBL_TYPE : Nat := 0x38
def TBL_CRC : Nat := 0x39
def TBL_LEN : Nat := 0x3A
def TBL_BUSY : Nat := 0x3B
def STAGE_ARG : Nat := 0x40
def STAGE_UNCHECKED : Nat := 0x41
def STAGE_LATE : Nat := 0x42
def STAGE_BUSY : Nat := 0x43
def CAL_ARG : Nat := 0x50

/-- A condition that raises a trap code. -/
def trapIf (p : Bool) (code : Nat) : List Nat := if p then [code] else []

/-! ### Context states (Table 3-1) -/

def IDLE : Nat := 0
def RUNNABLE : Nat := 1
def STALLED : Nat := 2
def WAITING : Nat := 3
def TRAPPED : Nat := 4
def HALTED : Nat := 5
def STOPPED : Nat := 6

/-- The state code of context n. -/
def Chip.ctxState (c : Chip) (n : Nat) : Nat := c.get (SEQ_CSTAT_STATE n)

def Chip.setCtxState (c : Chip) (n v : Nat) : Chip := c.set (SEQ_CSTAT_STATE n) v

/-- The program counter of context n. -/
def Chip.pc (c : Chip) (n : Nat) : Nat := c.get (SEQ_CPC_PC n)

def Chip.setPc (c : Chip) (n v : Nat) : Chip := c.set (SEQ_CPC_PC n) v

/-- Context n goes to an instruction of the user area or of the resident area (R56). -/
def Chip.jump (c : Chip) (n pc : Nat) : Chip :=
  let c := c.setPc n pc
  { c with seq := { c.seq with inRes := FMap.put false c.seq.inRes n (decide (0x7C000 ≤ pc)) } }

/-- Context n goes on with its next instruction. -/
def Chip.next (c : Chip) (n : Nat) : Chip := c.setPc n (c.pc n + 1)

/-! ### Registers -/

/-- Register gI of context n; g0 reads 0 (R53). -/
def Chip.g (c : Chip) (n i : Nat) : W64 := if i = 0 then 0 else FMap.get 0 c.seq.g (32 * n + i)

/-- Writes gI of context n; a write to g0 is discarded (R53). -/
def Chip.setG (c : Chip) (n i : Nat) (v : W64) : Chip :=
  if i = 0 then c else { c with seq := { c.seq with g := FMap.put 0 c.seq.g (32 * n + i) v } }

/-- Register wI of context n (R54). -/
def Chip.w (c : Chip) (n i : Nat) : W64 := FMap.get 0 c.seq.w (8 * n + i)

/-- Publishes w0 of context 0 to the bar engines, and notes a change from not behind to behind (R78, R93). -/
def Chip.noteBehind (c : Chip) : Chip :=
  let now := c.is SEQ_PSTAT_OPEN && decide (c.get SEQ_PCUR_CUR < c.frontHorizon)
  let was := c.strm.behind
  let c := { c with strm := { c.strm with behind := now } }
  if now && !was then (c.latchRs SEQ_PSTAT_BEHIND).raise .seq 0 { src := 3 } else c

/-- Writes wI of context n. A change of w0 of context 0 is published (R78). -/
def Chip.setW (c : Chip) (n i : Nat) (v : W64) : Chip :=
  let c := { c with seq := { c.seq with w := FMap.put 0 c.seq.w (8 * n + i) v } }
  if n = 0 ∧ i = 0 then (c.set SEQ_PCUR_CUR v.toNat).noteBehind else c

/-! ### Operand forms (R62) -/

/-- SUB as a number. -/
def subOf (f : Fields) : Nat := f.sub.toNat

/-- The I bit, SUB[8]. -/
def isImm (f : Fields) : Bool := bit (subOf f) 8

/-- IMM as a number. -/
def immOf (f : Fields) : Nat := f.imm.toNat

/-- IMM sign-extended to 64 bits. -/
def immS (f : Fields) : W64 := f.imm.signExtend 64

/-- The second operand: IMM sign-extended when I = 1, gB otherwise. -/
def Chip.op2 (c : Chip) (n : Nat) (f : Fields) : W64 := if isImm f then immS f else c.g n f.gb.toNat

/-- SUB bits outside a mask are set. -/
def subExtra (f : Fields) (mask : Nat) : Bool := (subOf f &&& (511 - mask)) ≠ 0

/-- RESERVED_FIELD for an instruction with an immediate form: SUB may use the bits of `mask` and I; with I = 1 GB must be
0, with I = 0 IMM must be 0 (R62). -/
def resvOp2 (f : Fields) (mask : Nat) (ga : Bool := true) : List Nat :=
  trapIf (subExtra f (mask ||| 256) || (isImm f && f.gb ≠ 0) || (!isImm f && f.imm ≠ 0) || (!ga && f.ga ≠ 0))
    RESERVED_FIELD

/-- RESERVED_FIELD for an instruction without an immediate form: the flags say which of GD, GA, GB and IMM it uses. -/
def resvRaw (f : Fields) (mask : Nat) (gd ga gb imm : Bool) : List Nat :=
  trapIf (subExtra f mask || (!gd && f.gd ≠ 0) || (!ga && f.ga ≠ 0) || (!gb && f.gb ≠ 0) || (!imm && f.imm ≠ 0))
    RESERVED_FIELD

/-- A w field whose upper two bits must be 0 (Table 3-3). -/
def resvW (x : BitVec 5) : List Nat := trapIf (8 ≤ x.toNat) RESERVED_FIELD

/-! ### Taking a trap (R63, R64) -/

/-- An application descriptor: OPC 0x8000 to 0xFFFF (R335). -/
def InDesc.isApp (x : InDesc) : Bool := decide (0x8000 ≤ fieldAt x.d 0 2)

/-- Ends the dispatch of handler context n: the entry is no longer running, and a queue entry whose ring is still
non-empty is triggered again (R72). -/
def Chip.endDispatch (c : Chip) (n : Nat) : Chip :=
  let e := c.get (SEQ_CSTAT_ENTRY n)
  let was := c.is (SEQ_CSTAT_RUNNING n)
  let c := ((c.set (SEQ_CSTAT_RUNNING n) 0).set (SEQ_CSTAT_ENTRY n) 0).setCtxState n IDLE
  if was then
    let c := c.jrn .disp [e, n, 1, (c.entry e).begun]
    let c := c.setEntry e { c.entry e with runningIn := none }
    if 64 ≤ e ∧ (c.queue (e - 64)).inq.any (·.isApp) then c.trigger e else c
  else c

/-- The detail of a trap (R414). -/
def packTrap (pc code n : Nat) : Nat := pc % 2 ^ 19 + (code % 256) * 2 ^ 32 + n * 2 ^ 40

/-- A checkpoint entry of context 0 in the journal (Table 15-5). -/
def Chip.ckpt (c : Chip) (n : Nat) : Chip := if n = 0 then c.ckpt0 else c

/-- Ends a stall or wait of context n: RUNNABLE, KIND none. -/
def Chip.resume (c : Chip) (n : Nat) : Chip :=
  ((c.setCtxState n RUNNABLE).set (SEQ_CWAIT_KIND n) 0).set (SEQ_CWAIT_OPERAND n) 0

/-- The contexts stalled with KIND k become RUNNABLE and issue their instruction again. -/
def Chip.wakeKind (c : Chip) (k : Nat) : Chip :=
  c.forAll ((List.range 17).filter fun n => c.ctxState n = STALLED && c.get (SEQ_CWAIT_KIND n) = k) Chip.resume

/-- An instruction of context n does not wait for the variable-data unit any more: those behind it issue again (R108). -/
def Chip.dropTurn (c : Chip) (n : Nat) : Chip :=
  if c.vd.turns.contains n then
    ({ c with vd := { c.vd with turns := c.vd.turns.filter (· ≠ n) } } : Chip).wakeKind 10
  else c

/-- Context n traps with a code (R64): SEQ_CTRAPn takes the code and the program counter; context 0 enters TRAPPED with a
contain fault on EV46; a handler ends its dispatch with a degrade fault on EV47. -/
def Chip.trap (c : Chip) (n code : Nat) : Chip :=
  let pc := c.pc n
  let c := c.dropTurn n
  let c := ((c.latchRs (SEQ_CTRAP_TRAPPED n)).set (SEQ_CTRAP_TPC n) pc).set (SEQ_CTRAP_CODE n) code
  if n = 0 then (c.setCtxState 0 TRAPPED).ckpt 0 |>.raise .seq 0 { src := 0, detail := packTrap pc code 0 }
  else (c.endDispatch n).raise .seq 0 { src := 1, detail := packTrap pc code n }

/-! ### Issue -/

/-- Context n runs in the resident area: its latest jump or dispatch went there (R56). -/
def Chip.resident (c : Chip) (n : Nat) : Bool := FMap.get false c.seq.inRes n

/-- Execution of context n has run out of the area it was in: past 0x7_BFFF, or past the end of program memory, after which the
program counter starts again at 0 (R56). -/
def Chip.pcBad (c : Chip) (n : Nat) : Bool := c.resident n != decide (0x7C000 ≤ c.pc n)

/-- A jump of context n to a target is outside the allowed area: at or above 0x7_C000 from the user area, or outside program
memory (R56). -/
def Chip.targetBad (c : Chip) (n : Nat) (target : Int) : Bool :=
  decide (target < 0) || decide (0x80000 ≤ target) || (!c.resident n && decide (0x7C000 ≤ target))

/-- Context n may issue: it is RUNNABLE, and no handoff holds the contexts (R52, R399). -/
def Chip.canIssue (c : Chip) (n : Nat) : Bool := c.ctxState n = RUNNABLE && !c.is TW_STAT_HANDOFF && c.runs

/-- Issues one instruction of context n. Nothing happens unless the context can issue. Among the trap codes that apply the
lowest is raised, and the instruction then has no other effect (R63). -/
def issue (n : Nat) (traps : List Nat) (eff : State → State) (s : State) : State :=
  if !s.chip.canIssue n then s
  else if s.chip.pcBad n then { s with chip := s.chip.trap n PC_RANGE }
  else match traps with
    | [] => eff s
    | t :: ts => { s with chip := s.chip.trap n (ts.foldl Nat.min t) }

/-- D_UNCORR: the D-space data that an instruction reads is uncorrectable. -/
def dEcc (r : Ecc) : List Nat := trapIf (r = .uncorrectable) D_UNCORR

/-- Issues an instruction that reads D-space, whose read went as `r` says. -/
def issueD (n : Nat) (r : Ecc) (traps : List Nat) (eff : State → State) (s : State) : State :=
  issue n (traps ++ dEcc r) (fun s => eff (s.onChip (·.dRead r))) s

/-- Issues an instruction that changes no memory. -/
def issueC (n : Nat) (traps : List Nat) (eff : Chip → Chip) (s : State) : State :=
  issue n traps (fun s => { s with chip := eff s.chip }) s

/-- Issues an instruction whose effect is to write gD and go on. -/
def issueG (n : Nat) (f : Fields) (traps : List Nat) (v : W64) (s : State) : State :=
  issueC n traps (fun c => (c.setG n f.gd.toNat v).next n) s

/-- Stalls context n at this instruction with KIND k: it issues it again once the cause has cleared. -/
def Chip.stall (c : Chip) (n k : Nat) (operand : Nat := 0) : Chip :=
  ((c.setCtxState n STALLED).set (SEQ_CWAIT_KIND n) k).set (SEQ_CWAIT_OPERAND n) operand

/-- Stalls context n until an operation finishes. -/
def Chip.pend (c : Chip) (n k : Nat) (o : PendOp) : Chip :=
  let c := c.stall n k
  { c with seq := { c.seq with ops := FMap.put none c.seq.ops n (some o) } }

/-- The operation context n waits for. -/
def Chip.pendOp (c : Chip) (n : Nat) : Option PendOp :=
  if c.ctxState n = STALLED then FMap.get none c.seq.ops n else none

/-- The pending operation of context n is over. -/
def Chip.unpend (c : Chip) (n : Nat) : Chip :=
  let c := c.resume n
  { c with seq := { c.seq with ops := FMap.put none c.seq.ops n none } }

end Sys2Proof.Machine
end

