-- ==== Sys2Proof/Machine/Flags.lean ====
section
/-!
DEFINITION. Sys2Proof/Machine/Flags.lean: the ET9612 has no flag register. Conditions are computed by the instruction that
tests them: the condition codes of R66, and the range tests that raise OVERFLOW (Table 3-4).
-/
namespace Sys2Proof.Machine

/-- The condition of R66 on two 64-bit values: EQ, NE, LT, GE (signed), LTU, GEU (unsigned); none for 6 and 7. -/
def condition (cond : Nat) (a b : W64) : Option Bool :=
  match cond with
  | 0 => some (a == b)
  | 1 => some (a != b)
  | 2 => some (decide (a.toInt < b.toInt))
  | 3 => some (decide (b.toInt ≤ a.toInt))
  | 4 => some (decide (a.toNat < b.toNat))
  | 5 => some (decide (b.toNat ≤ a.toNat))
  | _ => none

/-- The conditions that `brw` defines: EQ, NE, LTU, GEU. -/
def wCondition (cond : Nat) (a b : W64) : Option Bool :=
  if cond = 2 ∨ cond = 3 then none else condition cond a b

/-- A w-register result outside 0 to 2⁶⁴ − 1 (Table 3-4, OVERFLOW). -/
def wOverflow (i : Int) : Bool := decide (i < 0) || decide (2 ^ 64 ≤ i)

/-- A result outside the signed 64-bit range (Table 3-4, OVERFLOW). -/
def sOverflow (i : Int) : Bool := decide (i < -(2 ^ 63)) || decide (2 ^ 63 ≤ i)

/-- Context n would lower w0 of context 0 (R54). -/
def Chip.regress (c : Chip) (n wd : Nat) (v : Nat) : Bool := n = 0 && wd = 0 && decide (v < (c.w 0 0).toNat)

end Sys2Proof.Machine
end

