-- ==== Sys2Proof/Machine/SeqMem.lean ====
section
/-!
DEFINITION. Sys2Proof/Machine/SeqMem.lean: data memory and job-store access (R58 to R60, R67, R68, Table 3-7), with the
allocator's view of J-addresses (R59, R113, R116).
-/
namespace Sys2Proof.Machine

/-! ### Addresses -/

/-- Bytes of an access: SUB[1:0]. -/
def accessBytes (f : Fields) : Nat := 2 ^ (subOf f % 4)

/-- gA + IMM, IMM sign-extended, modulo 2⁶⁴. -/
def Chip.addr (c : Chip) (n : Nat) (f : Fields) : Nat := (c.g n f.ga.toNat + immS f).toNat

/-- A D-space access of k bytes at a falls wholly or partly outside 1 MiB (R58). -/
def dOut (a k : Nat) : Bool := decide (0x100000 < a + k)

/-- D_RANGE or ALIGN of a D-space access of k bytes at a, aligned to al. -/
def dTraps (a k al : Nat) : List Nat := trapIf (a % al ≠ 0) ALIGN ++ trapIf (dOut a k) D_RANGE

/-- The allocation that holds the bytes a to a + k - 1 of J-space. -/
def Store.at_ (st : Store) (a k : Nat) : Option Alloc :=
  st.allocs.find? fun x => x.base * 65536 ≤ a && a + k ≤ (x.base + x.size) * 65536

/-- Programs may read these bytes (R59, R116). -/
def Store.mayRead (st : Store) (a k : Nat) : Bool := (st.at_ a k).any (·.jobr)

/-- Programs may write these bytes: JOBW is 1 and the allocation is OPEN (R59, R116). -/
def Store.mayWrite (st : Store) (a k : Nat) : Bool := (st.at_ a k).any fun x => x.jobw && !x.isSealed

/-- The value of loaded bytes: sign-extended or zero-extended to 64 bits (R67). -/
def extend (signed : Bool) (bs : List Byte) : W64 :=
  if signed then BitVec.ofInt 64 (sgn (8 * bs.length) (unle bs)) else BitVec.ofNat 64 (unle bs)

/-! ### D-space -/

/-- Stores bytes in D-space; an ACTIVE unit journals the store (Table 15-5, DWRITE). -/
def storeD (s : State) (a : Nat) (bs : List Byte) : State :=
  { s with mem := { s.mem with data := s.mem.data.write a bs }, chip := s.chip.jrn .dwrite [a] bs }

/-- Stores bytes in the job store; an ACTIVE unit journals the store (Table 15-5, JWRITE). -/
def storeJ (s : State) (a : Nat) (bs : List Byte) : State :=
  { s with mem := { s.mem with job := s.mem.job.write a bs }, chip := s.chip.jrn .jwrite [a] bs }

def execLdd (n : CtxId) (f : Fields) (ecc : Ecc) (s : State) : Host.Outcome State Fault Refusal :=
  let a := s.chip.addr n f
  let k := accessBytes f
  .next (issueD n ecc (resvRaw f 7 true true false true ++ dTraps a k k)
    (fun s => s.onChip fun c => (c.setG n f.gd.toNat (extend (bit (subOf f) 2) (s.mem.data.read a k))).next n) s)

def execStd (n : CtxId) (f : Fields) (s : State) : Host.Outcome State Fault Refusal :=
  let a := s.chip.addr n f
  let k := accessBytes f
  .next (issue n (resvRaw f 3 false true true true ++ dTraps a k k)
    (fun s => (storeD s a (le k (s.chip.g n f.gb.toNat).toNat)).onChip (·.next n)) s)

/-- The atomic word access of `aadd` and `acas`: the old value goes to gD. -/
def atomicD (n : CtxId) (f : Fields) (ecc : Ecc) (new : W64 → Option W64) (s : State) : State :=
  let a := s.chip.addr n f
  issueD n ecc (resvRaw f 0 true true true true ++ dTraps a 8 8)
    (fun s =>
      let t := BitVec.ofNat 64 (unle (s.mem.data.read a 8))
      let s := match new t with
        | some v => storeD s a (le 8 v.toNat)
        | none => s
      s.onChip fun c => ((c.setG n f.gd.toNat t).next n).ckpt n) s

def execAadd (n : CtxId) (f : Fields) (ecc : Ecc) (s : State) : Host.Outcome State Fault Refusal :=
  .next (atomicD n f ecc (fun t => some (t + s.chip.g n f.gb.toNat)) s)

def execAcas (n : CtxId) (f : Fields) (ecc : Ecc) (s : State) : Host.Outcome State Fault Refusal :=
  .next (atomicD n f ecc
    (fun t => if t = s.chip.g n f.gd.toNat then some (s.chip.g n f.gb.toNat) else none) s)

/-! ### Job store -/

/-- Starts a load: the context stalls with KIND 4 until JOB_STORE_ACCESS_DONE. -/
def execLdj (n : CtxId) (f : Fields) (s : State) : Host.Outcome State Fault Refusal :=
  let a := s.chip.addr n f
  let k := accessBytes f
  .next (issueC n (resvRaw f 7 true true false true ++ trapIf (a % k ≠ 0) ALIGN ++
    trapIf (!s.chip.store.mayRead a k) J_RANGE)
    (fun c => c.pend n 4 (.ldj f.gd.toNat a k (bit (subOf f) 2))) s)

def execStj (n : CtxId) (f : Fields) (s : State) : Host.Outcome State Fault Refusal :=
  let a := s.chip.addr n f
  let k := accessBytes f
  .next (issue n (resvRaw f 3 false true true true ++ trapIf (a % k ≠ 0) ALIGN ++
    trapIf (!s.chip.store.mayWrite a k) J_RANGE)
    (fun s => (storeJ s a (le k (s.chip.g n f.gb.toNat).toNat)).onChip (·.next n)) s)

/-- A copy length that R67 does not allow: not a multiple of 64 from 64 to 4,096. -/
def copyLenBad (k : Nat) : Bool := k % 64 ≠ 0 || k = 0 || decide (4096 < k)

/-- gB bytes from J[gA] to D[gD]; both ranges are checked whole before the copy starts. -/
def execCpjd (n : CtxId) (f : Fields) (s : State) : Host.Outcome State Fault Refusal :=
  let j := (s.chip.g n f.ga.toNat).toNat
  let d := (s.chip.g n f.gd.toNat).toNat
  let k := (s.chip.g n f.gb.toNat).toNat
  .next (issueC n (resvRaw f 0 true true true false ++
    trapIf (j % 64 ≠ 0 || d % 64 ≠ 0 || copyLenBad k) ALIGN ++ trapIf (dOut d k) D_RANGE ++
    trapIf (!s.chip.store.mayRead j k) J_RANGE)
    (fun c => c.pend n 4 (.cpjd j d k)) s)

/-- gB bytes from D[gA] to J[gD]; uncorrectable data leaves the destination unchanged. -/
def execCpdj (n : CtxId) (f : Fields) (ecc : Ecc) (s : State) : Host.Outcome State Fault Refusal :=
  let d := (s.chip.g n f.ga.toNat).toNat
  let j := (s.chip.g n f.gd.toNat).toNat
  let k := (s.chip.g n f.gb.toNat).toNat
  .next (issueD n ecc (resvRaw f 0 true true true false ++
    trapIf (j % 64 ≠ 0 || d % 64 ≠ 0 || copyLenBad k) ALIGN ++ trapIf (dOut d k) D_RANGE ++
    trapIf (!s.chip.store.mayWrite j k) J_RANGE)
    (fun s => (storeJ s j (s.mem.data.read d k)).onChip (·.next n)) s)

/-- The data of a pending `ldj` or `cpjd` arrives (R59): the context continues, or traps J_UNCORR at that instruction, and
then nothing has been written (R63). -/
def jobStoreDone (n : CtxId) (uncorr : Bool) (s : State) : State :=
  match s.chip.pendOp n with
  | some (.ldj gd a k sg) =>
    if uncorr then s.onChip fun c => (c.unpend n).trap n J_UNCORR
    else s.onChip fun c => ((c.unpend n).setG n gd (extend sg (s.mem.job.read a k))).next n
  | some (.cpjd j d k) =>
    if uncorr then s.onChip fun c => (c.unpend n).trap n J_UNCORR
    else (storeD s d (s.mem.job.read j k)).onChip fun c => (c.unpend n).next n
  | _ => s

end Sys2Proof.Machine
end

