-- ==== Sys2Proof/Machine/SeqQueue.lean ====
section
/-!
DEFINITION. Sys2Proof/Machine/SeqQueue.lean: queue and event instructions (R69, R70, Table 3-8), `disp`, and handler
dispatch (R72 to R75).
-/
namespace Sys2Proof.Machine

/-- The queue an instruction names: IMM[5:0] when I = 1, gA[5:0] otherwise (R70). -/
def Chip.queueOf (c : Chip) (n : Nat) (f : Fields) : Nat :=
  if isImm f then immOf f % 64 else (c.g n f.ga.toNat).toNat % 64

/-- RESERVED_FIELD of a queue instruction: with I = 1 GA and IMM[31:6] must be 0, with I = 0 IMM must be 0; `gb` says
whether GB is used. -/
def resvQueue (f : Fields) (gb : Bool) : List Nat :=
  trapIf (subExtra f 256 || (!gb && f.gb ≠ 0) || (isImm f && (f.ga ≠ 0 || decide (64 ≤ immOf f))) ||
    (!isImm f && f.imm ≠ 0)) RESERVED_FIELD

/-- The contexts to which queue q is bound (R69): a queue that carries class C is bound to context 16 alone, whatever the image
says. A disabled queue carries no class. -/
def Chip.bind (c : Chip) (q : Nat) : Nat :=
  if c.is (QM_QCFG_EN q) && c.get (QM_QCFG_CLASS q) = 0 then 2 ^ 16 else c.get (SEQ_QBIND_CTX_MASK q)

/-- QUEUE_USE: the queue is not bound to the context, or is an E-class queue where that is not allowed. -/
def Chip.queueTraps (c : Chip) (n q : Nat) (noE : Bool) : List Nat :=
  trapIf (!bit (c.bind q) n || (noE && c.get (QM_QCFG_CLASS q) = 3)) QUEUE_USE

/-- The application descriptors that wait in queue q; system commands never enter a program's view (R335). -/
def Chip.appWaiting (c : Chip) (q : Nat) : List InDesc := (c.queue q).inq.filter (·.isApp)

/-- Takes the head application descriptor: it leaves the ring and completes with OK (R335, R341). -/
def Chip.takeApp (c : Chip) (q : Nat) : Option (InDesc × Chip) :=
  (takeFirst (·.isApp) (c.queue q).inq).map fun (x, rest) =>
    (x, (c.setQueue q { c.queue q with inq := rest }).complete q (fieldAt x.d 4 4) x.rx 0)

def execQrecv (n : CtxId) (f : Fields) (s : State) : Host.Outcome State Fault Refusal :=
  let q := s.chip.queueOf n f
  let a := (s.chip.g n f.gb.toNat).toNat
  .next (issue n (resvQueue f true ++ dTraps a 64 64 ++ s.chip.queueTraps n q true)
    (fun s =>
      let t := s.chip.qTenant q
      match s.chip.takeApp q with
      | none => s.onChip fun c => ((c.setG n f.gd.toNat (BitVec.ofNat 64 (1 + t * 256))).next n).ckpt n
      | some (x, c) =>
        let s := storeD { s with chip := c } a (fit 64 x.d)
        let left := (s.chip.appWaiting q).length
        s.onChip fun c => ((c.setG n f.gd.toNat (BitVec.ofNat 64 (t * 256 + left * 65536))).next n).ckpt n) s)

def execQpeek (n : CtxId) (f : Fields) (s : State) : Host.Outcome State Fault Refusal :=
  let q := s.chip.queueOf n f
  .next (issueG n f (resvQueue f false ++ s.chip.queueTraps n q false)
    (BitVec.ofNat 64 (s.chip.appWaiting q).length) s)

/-- A record of context n is not yet in its host ring (R71). -/
def Chip.notSent (c : Chip) (x : Nat × Nat × Nat) : Bool := (c.queue x.2.1).out.any fun r => fieldAt r.2 4 4 = x.2.2

/-- Context n has posted a record to each of some queues: a fence of queue posts waits for those that stay (R71). -/
def Chip.noteSent (c : Chip) (n : Nat) (qs : List Nat) : Chip :=
  let xs := (c.seq.sent ++ qs.map fun q => (n, q, (c.queue q).oseq)).filter c.notSent
  { c with seq := { c.seq with sent := xs } }

/-- Every queue post of context n is in its host ring (R71). -/
def Chip.allSent (c : Chip) (n : Nat) : Bool := !c.seq.sent.any fun x => x.1 = n && c.notSent x

/-- A response record (RTYPE 0x02): the ET9612 writes its head, the program bytes 12 to 63 (Table 13-4). FULL when only
reserved slots remain free (R342). -/
def execQsend (n : CtxId) (f : Fields) (ecc : Ecc) (s : State) : Host.Outcome State Fault Refusal :=
  let q := s.chip.queueOf n f
  let a := (s.chip.g n f.gb.toNat).toNat
  .next (issueD n ecc (resvQueue f true ++ dTraps a 64 64 ++ s.chip.queueTraps n q true)
    (fun s => s.onChip fun c =>
      let full := decide (c.get (QM_QCFG_ODEPTH q) ≤ c.outUsed q)
      let c := if full then c else (c.postRecord q false 0x02 0 0 ((s.mem.data.read a 64).drop 12)).noteSent n [q]
      ((c.setG n f.gd.toNat (if full then 2 else 0)).next n).ckpt n) s)

/-- A program event with code gA[15:0] and data gB to the tenants in IMM[7:0]; gD = tenants whose ring was full. -/
def execEvpost (n : CtxId) (f : Fields) (s : State) : Host.Outcome State Fault Refusal :=
  .next (issueC n (resvRaw f 0 true true true true ++ trapIf (decide (256 ≤ immOf f)) RESERVED_FIELD)
    (fun c =>
      let (full, c) := c.postCoded (immOf f) (if n.val = 0 then 46 else 47)
        ((c.g n f.ga.toNat).toNat % 65536) (c.g n f.gb.toNat).toNat
      let c := c.noteSent n ((setBits 8 (immOf f)).filterMap c.eQueue)
      ((c.setG n f.gd.toNat (BitVec.ofNat 64 full)).next n).ckpt n) s)

/-- Enables or disables a dispatch entry of the image; a disabled entry keeps its trigger and count (R71). -/
def execDisp (n : CtxId) (f : Fields) (s : State) : Host.Outcome State Fault Refusal :=
  let e := immOf f % 128
  .next (issueC n (resvRaw f 1 false false false true ++ trapIf (decide (128 ≤ immOf f)) RESERVED_FIELD ++
    trapIf (s.chip.is (SEQ_DISPA_RES e) || !(s.chip.entry e).defined) DISP_ENTRY)
    (fun c => (c.set (SEQ_DISPA_EN e) (subOf f % 2)).next n) s)

/-! ### Dispatch (R74) -/

/-- Entry e is the resident handler's, and that handler has been loaded (R56, R72). -/
def Chip.resEntry (c : Chip) (e : Nat) : Bool := c.seq.resident && c.is (SEQ_DISPA_RES e)

/-- EN, PRIO, ENTRY_PC and CTX_MASK of entry e. What the resident handler's own entries hold comes with it from the NOR
(assumption 6); they run in context 16 only (R72). -/
def Chip.dispEn (c : Chip) (e : Nat) : Bool := if c.resEntry e then Config.residentField 0 e ≠ 0 else c.is (SEQ_DISPA_EN e)
def Chip.dispPrio (c : Chip) (e : Nat) : Nat := if c.resEntry e then Config.residentField 1 e % 4 else c.get (SEQ_DISPA_PRIO e)
def Chip.dispPc (c : Chip) (e : Nat) : Nat :=
  if c.resEntry e then 0x7C000 + Config.residentField 2 e % 0x4000 else c.get (SEQ_DISPA_ENTRY_PC e)
def Chip.dispMask (c : Chip) (e : Nat) : Nat := if c.resEntry e then 2 ^ 15 else c.get (SEQ_DISPB_CTX_MASK e)

/-- The word of program memory at index i: the resident area holds the handler loaded at start-up (R56, assumption 6). -/
def State.progWord (s : State) (i : Nat) : W64 :=
  if 0x7C000 ≤ i ∧ s.chip.seq.resident then BitVec.ofNat 64 (Config.residentField 3 i) else FMap.get 0 s.mem.prog i

/-- The idle contexts that may run entry e, lowest first: CTX_MASK bit j − 1 names context j. -/
def Chip.idleFor (c : Chip) (e : Nat) : List Nat :=
  ((List.range 16).filter fun j => bit (c.dispMask e) j && c.ctxState (j + 1) = IDLE).map (· + 1)

/-- Entry e is a candidate: enabled, pending, not running, with an idle context in its mask. -/
def Chip.candidate (c : Chip) (e : Nat) : Bool :=
  c.dispEn e && c.is (SEQ_DISPA_PEND e) && (c.entry e).runningIn.isNone &&
    !(c.idleFor e).isEmpty

/-- a is to be dispatched before b: oldest first among the aged, else higher priority, else lower index. -/
def Chip.before (c : Chip) (a b : Nat) : Bool :=
  let x := c.entry a
  let y := c.entry b
  if 256 ≤ x.waited then (if 256 ≤ y.waited then decide (x.firstDt ≤ y.firstDt) else true)
  else if 256 ≤ y.waited then false
  else decide (c.dispPrio b ≤ c.dispPrio a)

/-- The entry that the procedure of R74 picks: the first that is not behind any other; lower index wins a tie. -/
def Chip.pick (c : Chip) : Option Nat :=
  ((List.range 128).filter c.candidate).foldl
    (fun best e => match best with
      | none => some e
      | some b => if c.before b e then some b else some e) none

/-- The summary word FSUM of a block (Table 16-1). -/
def Chip.sumWord (c : Chip) (b : Blk) (i : Nat) : Nat :=
  c.get (FSUM_PEND b i) * 2 ^ 31 + c.get (FSUM_LEVEL b i) * 2 ^ 28 + c.get (FSUM_INJ b i) * 2 ^ 27 +
    c.get (FSUM_TOP b i) * 2 ^ 16 + c.get (FSUM_NSET b i)

/-- The block that an event source stands for, where no block has triggered the entry yet (Table 2-12). -/
def evBlock (ev : Nat) : Blk × Nat :=
  if ev < 16 then (.be, ev) else if ev < 40 then (.lq, ev - 16) else if ev < 44 then (.rg, ev - 40)
  else match ev with
    | 44 => (.mr, 0) | 45 => (.cd, 0) | 46 => (.seq, 0) | 47 => (.seq, 0) | 48 => (.hp, 0) | 49 => (.hp, 1)
    | 50 => (.hp, 2) | 51 => (.hp, 3) | 52 => (.pcie, 0) | 53 => (.qm, 0) | 54 => (.tb, 0) | 55 => (.wm, 0)
    | 56 => (.ch, 0) | 57 => (.tw, 0) | 58 => (.rl, 0) | 59 => (.hl, 0) | 60 => (.hl, 0) | 61 => (.hl, 0)
    | 62 => (.nv, 0) | _ => (.sys, 0)

/-- The trigger word of entry e (R74): the sticky summary of its source's block, or the descriptors waiting. Several blocks report
on one source (Table 2-12), and the spec does not say whose summary then counts: the block that triggered the entry last, else the
block that stands first for the source (DESIGN CHOICE, assumption 24). -/
def Chip.triggerWord (c : Chip) (e : Nat) : Nat :=
  if e < 64 then
    let (b, i) := ((c.entry e).block).getD (evBlock e)
    c.sumWord b i
  else (c.appWaiting (e - 64)).length

/-- One dispatch (R74): the picked entry starts in the lowest idle context of its mask with g1 to g4 loaded. A pending entry counts every
dispatch made while PEND is set, also while it is disabled or runs, and the oldest is the one triggered first: the spec says neither
(DESIGN CHOICE, assumption 25). -/
def Chip.dispatch (c : Chip) : Chip :=
  match c.pick with
  | none => c
  | some e =>
    match c.idleFor e with
    | [] => c
    | n :: _ =>
      let x := { c.entry e with begun := c.get (SEQ_DISPB_COUNT e) }
      let c := c.setG n 1 (BitVec.ofNat 64 e)
      let c := c.setG n 2 (BitVec.ofNat 64 (c.triggerWord e))
      let c := c.setG n 3 (BitVec.ofNat 64 x.firstDt)
      let c := c.setG n 4 (BitVec.ofNat 64 (c.get (SEQ_DISPB_COUNT e)))
      let c := (c.set (SEQ_DISPA_PEND e) 0).set (SEQ_DISPB_COUNT e) 0
      let c := (c.jump n (c.dispPc e)).setCtxState n RUNNABLE
      let c := ((c.set (SEQ_CSTAT_RUNNING n) 1).set (SEQ_CSTAT_ENTRY n) e).count (SEQ_CSTAT_DISPATCHES n)
      let c := c.setEntry e { x with runningIn := some n, waited := 0 }
      let waiting := (List.range 128).filter fun j => j ≠ e && c.is (SEQ_DISPA_PEND j)
      let c := c.forAll waiting fun c j =>
        c.setEntry j { c.entry j with waited := (c.entry j).waited + 1 }
      c.jrn .disp [e, n, 0, x.begun]

end Sys2Proof.Machine
end

