-- ==== Sys2Proof/Machine/TimeBase.lean ====
section
/-!
DEFINITION. Sys2Proof/Machine/TimeBase.lean: device time, the civil servo, precision time, PPS, timers and leap seconds
(R308 to R329).
-/
namespace Sys2Proof.Machine

/-! ### Device time (R309, R310) -/

/-- One REFCLK period as DT counts it, in 1/65,536 ns, as numerator and denominator (R309). -/
def Chip.periodNum (c : Chip) : Nat := (10 * 65536 * 20000 * (1000000000 + c.getS TB_RATE_NOW)).toNat
def Chip.periodDen (c : Chip) : Nat := 1000000000 * (20000 - min 50 (c.get TB_CFG_SSC))

/-- The target of RATE: TARGET in SOLO and ACTIVE, the peer-time loop's in STANDBY and CATCHUP (R310). -/
def Chip.rateTarget (c : Chip) : Int := if c.runs then c.getS TB_RATE_TARGET else c.time.followTarget

/-- Moves `now` toward `target` by at most `step`. -/
def toward (now target step : Int) : Int :=
  if now ≤ target then min target (now + step) else max target (now - step)

/-- RATE moves by at most 10 units for each whole ms of DT that has passed (R310). -/
def Chip.slewRate (c : Chip) : Chip :=
  let ms := c.ns / 1000000
  let n := ms - c.time.rateMs
  let c := { c with time := { c.time with rateMs := max ms c.time.rateMs } }
  if n = 0 then c else c.setS TB_RATE_NOW (toward (c.getS TB_RATE_NOW) c.rateTarget (10 * n))

/-! ### Civil time (R318 to R322) -/

/-- Civil time: DT plus the offset in force, and at least M while it is held (R318, R320). -/
def Chip.civil (c : Chip) : Int :=
  let v : Int := c.ns + c.getS TB_CIVOFS_OFS
  match c.time.holdAt with
  | some m => max v m
  | none => v

/-- A journal entry with the civil offset, pending value and lot (Table 15-5). -/
def Chip.jrnCivil (c : Chip) : Chip :=
  c.jrn .civil [c.get TB_CIVOFS_OFS, c.get TB_STAT_CPEND, c.get TB_CIVPEND_PEND, c.get TB_STAT_LOT]

/-- Moves the civil offset by some ns. -/
def Chip.moveCivil (c : Chip) (d : Int) : Chip :=
  if d = 0 then c else (c.setS TB_CIVOFS_OFS (c.getS TB_CIVOFS_OFS + d)).jrnCivil

/-- The part of a civil slew that elapsed DT allows: CSLEW ppm of it, until err is used up (R319). -/
def Chip.slewCivil (c : Chip) : Chip :=
  match c.time.slew with
  | none => c
  | some (err, ns0, done) =>
    let allowed : Int := ((c.ns - ns0) * c.get TB_CPAR_CSLEW / 1000000 : Nat)
    let want := if 0 ≤ err then min err allowed else max err (-allowed)
    let c := c.moveCivil (want - done)
    { c with time := { c.time with slew := if want = err then none else some (err, ns0, want) } }

/-- The part of a smear of delta that is due u − start ns of unsmeared civil time after its start: linear over the span in civil time as
the smear itself moves it (R322). -/
def smearDue (delta span u : Int) : Int :=
  let v := delta * (max 0 u) / (span - delta)
  if 0 ≤ delta then min delta v else max delta v

/-- The smear of a leap second over the LSPAN seconds before its midnight (R322). A unit that runs no civil servo moves nothing and keeps
count of what the active unit's offset holds of it (R323). -/
def Chip.smearCivil (c : Chip) : Chip :=
  match c.time.smear, c.time.leapMid with
  | some (delta, done), some mid =>
    let span : Int := c.get TB_LEAP_LSPAN * 1000000000
    let v : Int := c.ns + c.getS TB_CIVOFS_OFS - (mid - span)
    if c.runs then
      let want := smearDue delta span (v - done)
      let c := c.moveCivil (want - done)
      { c with time := { c.time with smear := some (delta, want) } }
    else { c with time := { c.time with smear := some (delta, delta * clampI 0 span v / span) } }
  | _, _ => c

/-- Held civil time runs again once DT + offset has passed it (R320, R321). -/
def Chip.releaseHold (c : Chip) : Chip :=
  match c.time.holdAt with
  | some m =>
    if m ≤ c.ns + c.getS TB_CIVOFS_OFS then
      { c with time := { c.time with holdAt := none } }.set TB_STAT_HOLDING 0
    else c
  | none => c

/-- DT units (1/65,536 ns) in a second, a microsecond and a control clock (2.5 ns). -/
def dtSecond : Nat := 65536 * 1000000000
def dtMicro : Nat := 65536 * 1000
def dtClock : Nat := 163840

/-! ### Interpolator trims (R312) -/

/-- A recalibration trigger: every interpolator is to be recalibrated, after those that still are (R312). -/
def Chip.startTrims (c : Chip) : Chip :=
  let t := c.time
  let all := List.range 104
  { c with time := { t with trimAt := if t.trimming.isEmpty then c.dt else t.trimAt,
                            trimming := t.trimming ++ all.filter fun i => !t.trimming.contains i } }

/-- The recalibrations that have ended, one interpolator at a time and 20 µs each (the most R312 allows): the new trim is a number that
the spec does not give. A latch goes on with the trims it finds. -/
def Chip.renewTrims (c : Chip) : Chip :=
  let t := c.time
  let n := min t.trimming.length ((c.dt - t.trimAt) / (20 * dtMicro))
  if n = 0 then c
  else
    { c with time := { t with
      trims := (t.trimming.take n).foldl (fun m i => FMap.put 0 m i (Config.trim i c.dt % 65536)) t.trims,
      trimming := t.trimming.drop n, trimAt := t.trimAt + n * (20 * dtMicro) } }

/-- DT advances to the instant t of a command; it only advances (R308). What the journal holds leaves first; RATE and the civil
offset follow. The unit has been idle since no stream is open (R425). -/
def Chip.advance (c : Chip) (t : Nat) : Chip :=
  let c := c.flushJrn
  let c := { c with dt := max c.dt t }.slewRate.renewTrims
  let c : Chip := if c.is SEQ_PSTAT_OPEN then { c with health := { c.health with idleSince := c.ns } } else c
  (if c.runs then c.slewCivil else c).smearCivil.releaseHold

/-- A command takes effect at instant t. -/
def State.at_ (s : State) (t : Nat) : State := s.onChip (·.advance t)

/-- The pending civil value, while there is one. -/
def Chip.civilPending (c : Chip) : Option Int := if c.is TB_STAT_CPEND then some (c.getS TB_CIVPEND_PEND) else none

/-- The pending civil value changes at this control clock edge; what it was before stays known for a commit of the same edge (R320). -/
def Chip.setPending (c : Chip) (v : Option Int) : Chip :=
  let before := match c.time.pendBefore with
    | some (k, x) => if k = c.clock then (k, x) else (c.clock, c.civilPending)
    | none => (c.clock, c.civilPending)
  let c : Chip := { c with time := { c.time with pendBefore := some before } }
  match v with
  | some x => (c.setS TB_CIVPEND_PEND x).set TB_STAT_CPEND 1
  | none => c.set TB_STAT_CPEND 0

/-- The pending civil value as it stood at the previous control clock edge, and whether it has changed since (R320). -/
def Chip.pendingThen (c : Chip) : Option Int × Bool :=
  match c.time.pendBefore with
  | some (k, x) => if k = c.clock then (x, true) else (c.civilPending, false)
  | none => (c.civilPending, false)

/-- The selected civil source delivers no more: the offset is held from here on (R318). -/
def Chip.loseCivil (c : Chip) : Chip := { c.set TB_STAT_CVALID 0 with time := { c.time with slew := none } }

/-- One civil measurement m taken at DT `at_` (R319, Table 12-1). -/
def Chip.measure (c : Chip) (m : Int) (at_ : Nat) : Chip :=
  if !c.runs then c else
  let off := c.getS TB_CIVOFS_OFS
  let err := m - (at_ + off)
  let step : Int := c.get TB_CPAR_CSTEP * 1000000
  let c := (c.set TB_CERR_ERR (satSgn 32 err)).set TB_STAT_CVALID 1
  if -step ≤ err ∧ err ≤ step then
    let c := if c.is TB_STAT_CPEND then (c.setPending none).jrnCivil else c
    { c with time := { c.time with slew := if err = 0 then none else some (err, c.ns, 0) } }
  else if step < err then
    let c := { c with time := { c.time with slew := none } }
    let c := (c.setS TB_CIVOFS_OFS (off + err)).setPending none
    c.jrnCivil.raise .tb 0 { src := 2 }
  else
    let first := !c.is TB_STAT_CPEND
    let c := { c with time := { c.time with slew := none } }
    let c := (c.setPending (some (off + err))).jrnCivil
    if first then c.raise .tb 0 { src := 1 } else c

/-- A backward jump that was pending at the previous control clock edge takes effect at a commit with web point cpt (R320, Table 12-2); a
measurement of this edge waits for the next commit. -/
def Chip.applyCivil (c : Chip) (cpt : Nat) : Chip :=
  match c.pendingThen with
  | (none, _) => c
  | (some new, later) =>
    let m := c.civil
    let c := { c with time := { c.time with slew := none, holdAt := none } }
    let c := if later then c else c.set TB_STAT_CPEND 0
    let c := (c.setS TB_CIVOFS_OFS new).set TB_STAT_HOLDING 0
    let c := (if c.get TB_CFG_POLICY = 2 then c.count TB_STAT_LOT else c).jrnCivil
    match c.get TB_CFG_POLICY with
    | 0 =>
      if c.ns + new < m then { c with time := { c.time with holdAt := some m } }.set TB_STAT_HOLDING 1 else c
    | 1 => c
    | _ => if c.runs then c.event 1 54 0x0540 cpt else c

/-- The length of a UTC day in ns. -/
def dayNs : Int := 86400 * 1000000000

/-- Arms a leap second for the first UTC midnight to come; inside the span, SMEAR acts as STEP (R322). -/
def Chip.armLeap (c : Chip) (del : Bool) : Chip :=
  let mid := (c.civil / dayNs + 1) * dayNs
  let span : Int := c.get TB_LEAP_LSPAN * 1000000000
  let smear := c.is TB_CFG_LEAPMODE && decide (c.civil ≤ mid - span)
  let delta : Int := if del then 1000000000 else -1000000000
  let c := ((c.set TB_LEAP_ARM 1).set TB_LEAP_DEL (b2n del)).set TB_STAT_LEAPARM 1
  { c with time := { c.time with leapMid := some mid, smear := if smear then some (delta, 0) else none } }

/-- Withdraws an armed leap second. -/
def Chip.disarmLeap (c : Chip) : Chip :=
  let c := (c.set TB_LEAP_ARM 0).set TB_STAT_LEAPARM 0
  { c with time := { c.time with leapMid := none, smear := none } }

/-- The armed leap second at its midnight (R322): a smear has run to its end; a deleted second steps forward, an inserted
one becomes a pending backward jump. Source 7 is raised and ARM clears. A unit that runs no civil servo takes the offset and the pending
value from the journal (R323). -/
def Chip.leapSecond (c : Chip) : Chip :=
  match c.time.leapMid with
  | none => c
  | some mid =>
    if c.civil < mid then c else
    let off := c.getS TB_CIVOFS_OFS
    let c := if !c.runs then c else match c.time.smear with
      | some (delta, done) => c.setS TB_CIVOFS_OFS (off + (delta - done))
      | none =>
        if c.is TB_LEAP_DEL then c.setS TB_CIVOFS_OFS (off + 1000000000)
        else c.setPending (some (off - 1000000000))
    (if c.runs then c.jrnCivil else c).disarmLeap.raise .tb 0 { src := 7 }

/-! ### Precision time (R315, R316) -/

/-- Time that a grandmaster port serves: DT + GMOFS (R315). -/
def Chip.served (c : Chip) : Nat := (c.ns + c.get TB_GMOFS_GMOFS) % 2 ^ 64

/-- The time served for a stamp (ns). -/
def Chip.servedAt (c : Chip) (ns : Int) : Nat := uns 64 (ns + c.getS TB_GMOFS_GMOFS)

/-- The corrected stamps of a frame that leaves port p now, and of one received at a latch in ps (R314). -/
def Chip.txNs (c : Chip) (p : Nat) : Int := portNs c.psNow (c.get (TB_PORTLAT_TXLAT p))
def Chip.rxNs (c : Chip) (p ps : Nat) : Int := portNs ps (-(c.get (TB_PORTLAT_RXLAT p) : Int))

/-- The next PTP sequence number of a port and message kind. -/
def Chip.ptpNext (c : Chip) (key : Nat) : Nat × Chip :=
  let n := FMap.get 0 c.time.ptpSeq key
  (n, { c with time := { c.time with ptpSeq := FMap.put 0 c.time.ptpSeq key ((n + 1) % 65536) } })

/-- Port p is a grandmaster. -/
def Chip.gm (c : Chip) (p : Nat) : Bool := bit (c.get TB_PTPCFG_GMEN) p

/-- clockIdentity of port p (R377): 0x50, 0x44, the unit identity most significant octet first, 0x00, p. -/
def clockIdentity (p : Nat) : List Byte := [0x50, 0x44] ++ (le 4 unitId).reverse ++ [0, BitVec.ofNat 8 p]

/-- Two-step Sync and its Follow_Up with the time served. -/
def Chip.ptpSync (c : Chip) (p : Nat) : Chip :=
  if c.gm p then
    let (n, c) := c.ptpNext p
    let d := c.get TB_PTPCFG_DOMAIN
    (c.emit .ptpSync p [d, n, c.get TB_PTPCFG_LOGSYNC] (clockIdentity p)).emit .ptpFollowUp p
      [d, n, c.servedAt (c.txNs p)] (clockIdentity p)
  else c

/-- Announce: ptpTimescale FALSE, timeSource INTERNAL_OSCILLATOR (0xA0), clockClass CLASS, clockAccuracy 0xFE. -/
def Chip.ptpAnnounce (c : Chip) (p : Nat) : Chip :=
  if c.gm p then
    let (n, c) := c.ptpNext (8 + p)
    c.emit .ptpAnnounce p [c.get TB_PTPCFG_DOMAIN, n, 0, 0xA0, c.get TB_PTPCFG_CLASS, 0xFE] (clockIdentity p)
  else c

/-- A delay or peer delay request is answered, in the transport it arrives in, when it suits DELAY and the domain: with its corrected
receive stamp, and for a peer delay request the stamp of the answer (R314, R315). -/
def Chip.ptpDelay (c : Chip) (p via : Nat) (peer : Bool) (domain rx id : Nat) : Chip :=
  if c.gm p && decide (domain = c.get TB_PTPCFG_DOMAIN) && peer == c.is TB_PTPCFG_DELAY then
    c.emit .ptpDelayResp p [via, domain, id, b2n peer, c.servedAt (c.rxNs p rx), c.servedAt (c.txNs p)] (clockIdentity p)
  else c

/-- What the slave's corrected stamps give (R316): the receive stamp of the Sync, and the master's time at it, half of an odd ns rounded
up. An exchange by the mechanism that DELAY does not select gives nothing. -/
def Chip.slaveTime (c : Chip) (t1 : Int) (rx : Nat) (x : PtpDelay) : Option (Int × Int) :=
  let t2 := c.rxNs 3 rx
  let lat : Int := c.get (TB_PORTLAT_TXLAT 3)
  match x with
  | .request tx t4 => if c.is TB_PTPCFG_DELAY then none else some (t2, t1 + halfUp ((t2 - t1) + (t4 - portNs tx lat)) 2)
  | .peer tx back turn => if c.is TB_PTPCFG_DELAY then some (t2, t1 + halfUp (c.rxNs 3 back - portNs tx lat - turn) 2) else none

/-! ### Timers (R324, R325) -/

/-- The instant at which timer n fires next: none once a ONCE timer has fired. -/
def Chip.timerDue (c : Chip) (n : Nat) : Option Nat :=
  let k := FMap.get 0 c.time.nextK n
  let t := c.get (TB_TMT_T n)
  if !c.is (TB_TMCFG_EN n) then none
  else if c.is (TB_TMCFG_MODE n) then some (t + k * c.get (TB_TMPER_PER n))
  else if k = 0 then some t else none

/-- The first index k with T + k × PER at or after now (R324). -/
def firstK (t per now : Nat) : Nat := if now ≤ t then 0 else ceilDiv (now - t) (max 1 per)

/-- A timer is enabled at this edge: a periodic one makes up no firings, a ONCE one whose T is past is late (R324). -/
def Chip.armTimer (c : Chip) (n : Nat) : Chip :=
  let t := c.get (TB_TMT_T n)
  let per := c.is (TB_TMCFG_MODE n)
  let k := if per then firstK t (c.get (TB_TMPER_PER n)) c.ns else 0
  { c with time := { c.time with
      nextK := FMap.put 0 c.time.nextK n k,
      lateArmed := FMap.put false c.time.lateArmed n (!per && decide (t < c.ns)) } }

/-- A TRIG output changes; only an ACTIVE or SOLO unit drives it (R378). -/
def Chip.driveTrig (c : Chip) (g v : Nat) : Chip :=
  let c := { c with time := { c.time with trigLevel := FMap.put 0 c.time.trigLevel g v } }
  if c.runs then c.emit .trigOut g [v] else c

/-- What a firing does to its output: a pulse of WID ns, ending one that is still high, or a level (R324, R325). -/
def Chip.timerOutput (c : Chip) (n : Nat) : Chip :=
  let g := c.get (TB_TMCFG_TRIG n)
  match c.get (TB_TMCFG_OUT n) with
  | 1 =>
    let c := if (FMap.get none c.time.pulse g).isSome then c.driveTrig g 0 else c
    { c with time := { c.time with pulse := FMap.put none c.time.pulse g (some (n, c.ns)) } }.driveTrig g 1
  | 2 => c.driveTrig g (c.get (TB_TMCFG_LEVEL n))
  | _ => c

/-- Timer n reaches its target (R324): output, event of source 16 + n to EVMASK and TMASK tenants and to dispatch entry
54; a ONCE timer enabled late sets LATE and raises source 5 with it. -/
def Chip.timerFire (c : Chip) (n : Nat) : Chip :=
  match c.timerDue n with
  | none => c
  | some due =>
    if c.ns < due then c else
    let late := FMap.get false c.time.lateArmed n
    let k := FMap.get 0 c.time.nextK n
    let c := { c with time := { c.time with
      nextK := FMap.put 0 c.time.nextK n (k + 1), lateArmed := FMap.put false c.time.lateArmed n false } }
    let c := c.timerOutput n
    let c := if late then c.latchRs (TB_TMCFG_LATE n) else c
    c.raiseAll .tb 0 ({ src := 16 + n } :: (if late then [{ src := 5 }] else []))
      (c.get (TB_TMCFG_TMASK n))

/-- A firing due at the edge of a write to its timer uses the values before the write (R325). -/
def Chip.fireDue (c : Chip) (n : Nat) : Chip :=
  if FMap.get false c.time.lateArmed n then c else c.timerFire n

/-- The pulse on output g has lasted WID ns. -/
def Chip.pulseEnd (c : Chip) (g : Nat) : Chip :=
  match FMap.get none c.time.pulse g with
  | some (n, since) =>
    if since + c.get (TB_TMWID_WID n) ≤ c.ns then
      { c with time := { c.time with pulse := FMap.put none c.time.pulse g none } }.driveTrig g 0
    else c
  | none => c

/-! ### The commands -/

def execPtpSyncSend (t : Nat) (port : Fin 4) (s : State) : Host.Outcome State Fault Refusal :=
  .next ((s.at_ t).onChip (·.ptpSync port))
def execPtpAnnounceSend (t : Nat) (port : Fin 4) (s : State) : Host.Outcome State Fault Refusal :=
  .next ((s.at_ t).onChip (·.ptpAnnounce port))
def execPtpDelayReq (t : Nat) (p : PtpPath) (peer : Bool) (domain : BitVec 8) (rx id : Nat) (s : State) :
    Host.Outcome State Fault Refusal :=
  .next ((s.at_ t).onChip (·.ptpDelay p.port p.via peer domain.toNat rx id))

/-- A management message is answered with NOT_SUPPORTED (error 0x0006 of IEEE 1588). -/
def execPtpManagement (t : Nat) (p : PtpPath) (domain : BitVec 8) (id : Nat) (s : State) :
    Host.Outcome State Fault Refusal :=
  .next ((s.at_ t).onChip fun c =>
    if c.gm p.port then c.emit .ptpManagement p.port [p.via, domain.toNat, id, 6] (clockIdentity p.port) else c)

/-- The slave takes an upstream Announce: it lets measurements in only with ptpTimescale and a valid UTC offset; then
leap61 and leap59 arm or disarm while CSRC is PTP (R316). -/
def execPtpAnnounceReceived (t : Nat) (domain : BitVec 8) (ptpTimescale utcValid : Bool) (utcOffset : Int)
    (leap61 leap59 : Bool) (interval : Nat) (s : State) : Host.Outcome State Fault Refusal :=
  .next ((s.at_ t).onChip fun c =>
    if c.is TB_PTPCFG_SLAVE ∧ domain.toNat = c.get TB_PTPCFG_DOMAIN then
      let ok := ptpTimescale && utcValid
      let c := { c with time := { c.time with
        announce := some (c.ns, interval), announceOk := ok, utcOffset := utcOffset } }
      if ok ∧ c.get TB_CFG_CSRC = 1 then
        (if leap61 ∨ leap59 then (if c.is TB_STAT_LEAPARM then c else c.armLeap (leap59 && !leap61)) else
          if c.is TB_STAT_LEAPARM then c.disarmLeap else c)
      else c
    else c)

/-- The slave takes a Sync of its domain: it sends its next delay request, in the mechanism of DELAY, and, while CSRC is PTP and the master
announces UTC, the master's time less currentUtcOffset is a civil measurement (R316). -/
def Chip.ptpSlave (c : Chip) (domain : Nat) (t1 : Int) (rx : Nat) (x : PtpDelay) : Chip :=
  if c.is TB_PTPCFG_SLAVE ∧ domain = c.get TB_PTPCFG_DOMAIN then
    let (n, c) := c.ptpNext 19
    let c := c.emit .ptpDelayReq 3 [domain, n, c.get TB_PTPCFG_DELAY] (clockIdentity 3)
    match c.slaveTime t1 rx x with
    | some (t2, m) => if c.get TB_CFG_CSRC = 1 ∧ c.time.announceOk then c.measure (m - c.time.utcOffset * 1000000000) t2.toNat else c
    | none => c
  else c

def execPtpSyncReceived (t : Nat) (domain : BitVec 8) (t1 : Int) (x : PtpTimes) (s : State) :
    Host.Outcome State Fault Refusal :=
  .next ((s.at_ t).onChip (·.ptpSlave domain.toNat t1 x.rx x.delay))

/-- No Announce for three intervals: the source is lost (R316). -/
def execPtpAnnounceTimeout (t : Nat) (s : State) : Host.Outcome State Fault Refusal :=
  .next ((s.at_ t).onChip fun c =>
    match c.time.announce with
    | some (at', iv) =>
      if at' + 3 * iv ≤ c.ns ∧ c.get TB_CFG_CSRC = 1 then
        let c := { c with time := { c.time with announce := none, announceOk := false } }
        c.loseCivil.raise .tb 0 { src := 0 }
      else c
    | none => c)

def execTimerFire (t : Nat) (n : Fin 16) (s : State) : Host.Outcome State Fault Refusal :=
  .next ((s.at_ t).onChip (·.timerFire n))
def execTrigPulseEnd (t : Nat) (g : Fin 8) (s : State) : Host.Outcome State Fault Refusal :=
  .next ((s.at_ t).onChip (·.pulseEnd g))

/-- PPS_OUT is high for the first 100 ms of each whole second of DT + GMOFS (R317). -/
def execPpsOutEdge (t : Nat) (s : State) : Host.Outcome State Fault Refusal :=
  .next ((s.at_ t).onChip fun c =>
    let v := decide (c.served % 1000000000 < 100000000)
    if v = c.time.ppsHigh then c
    else
      let c := { c with time := { c.time with ppsHigh := v } }
      if c.runs then c.emit .ppsOut 0 [b2n v] else c)

/-- A counted rise of PPS_IN: DT is latched as that of the sample that began the filtered level, (PPSFILT − 1) × 2.5 ns before (R224,
R317). -/
def Chip.ppsEdge (c : Chip) : Chip :=
  let at' := (c.dt - (max 1 (c.get TB_CFG_PPSFILT) - 1) * 163840) / 65536
  let c : Chip := { c.set TB_PPSDT_DT at' with time := { c.time with lastPps := some at', ppsMissed := false } }
  if c.get TB_CFG_CSRC = 2 then (c.measure (c.get TB_PPSLBL_LABEL * 1000000000) at').count TB_PPSLBL_LABEL else c

def execPpsInEdge (t : Nat) (s : State) : Host.Outcome State Fault Refusal := .next ((s.at_ t).onChip (·.ppsEdge))

/-- No PPS edge for 1.1 s, or since DT 0 where none has come, while it is the source (R317): said once until the next edge. -/
def Chip.ppsLoss (c : Chip) : Chip :=
  if c.get TB_CFG_CSRC = 2 ∧ c.time.lastPps.getD 0 + 1100000000 ≤ c.ns ∧ c.time.ppsMissed = false then
    let c : Chip := { c with time := { c.time with ppsMissed := true } }
    c.loseCivil.raiseAll .tb 0 [{ src := 0 }, { src := 4 }]
  else c

def execPpsInLoss (t : Nat) (s : State) : Host.Outcome State Fault Refusal := .next ((s.at_ t).onChip (·.ppsLoss))

def execLeapSecond (t : Nat) (s : State) : Host.Outcome State Fault Refusal := .next ((s.at_ t).onChip (·.leapSecond))

/-- One REFCLK period passes with no command (R309): the least count that DT can advance, plus a free choice of rounding
when the period is no whole count (assumption 2). -/
def State.tick (s : State) : State :=
  let q := s.chip.periodNum / s.chip.periodDen
  if s.chip.periodNum % s.chip.periodDen = 0 then s.at_ (s.chip.dt + q)
  else
    let (v, c) := s.chip.fresh 2
    { s with chip := c }.at_ (c.dt + q + v)

end Sys2Proof.Machine
end

