-- ==== Sys2Proof/Machine/Hosts.lean ====
section
/-!
DEFINITION. Sys2Proof/Machine/Hosts.lean: descriptors, completions and the control transport: acceptance of descriptors,
sessions, frames, doorbells, queue and tenant enables, timeouts (R330 to R353, R42).
-/
namespace Sys2Proof.Machine

/-! ### Completion status (Table 13-6) -/

def stOK : Nat := 0x00
def stOPCODE : Nat := 0x10
def stGRANT : Nat := 0x11
def stCLASS : Nat := 0x12
def stFORMAT : Nat := 0x13
def stNOT_ACTIVE : Nat := 0x14
def stSTATE : Nat := 0x15
def stNO_INFEED : Nat := 0x16
def stHALT_INPUT : Nat := 0x17
def stFAULT_PENDING : Nat := 0x18
def stTIMEOUT : Nat := 0x19
def stLATE : Nat := 0x1A
def stLOAD : Nat := 0x1B
def stNO_HANDLER : Nat := 0x1C

/-! ### System commands (Table 13-5) -/

/-- Class and used PARAM byte ranges (first byte, length) of a system command; none for an undefined OPC. -/
def commandForm (opc fn : Nat) : Option (Nat × List (Nat × Nat)) :=
  match opc with
  | 0x0001 => some (0, [(16, 8)])
  | 0x0002 => some (0, [])
  | 0x0003 => some (0, [])
  | 0x0004 => some (0, [(16, 4), (24, 8)])
  | 0x0005 => some (0, (16, 1) :: (match fn with
      | 2 => [(18, 1), (24, 8)]
      | 3 => [(24, 8)]
      | 5 => [(17, 1), (20, 2), (32, 4), (40, 8)]
      | 6 => [(17, 1), (20, 2)]
      | 7 => [(17, 1), (18, 1)]
      | _ => []))
  | 0x0006 => some (0, [(16, 16)])
  | 0x0007 => some (0, [])
  | 0x0008 => some (0, [(16, 5)])
  | 0x0009 => some (0, [(16, 8)])
  | 0x0100 => some (1, [(16, 5)])
  | 0x0101 => some (1, [(16, 4)])
  | 0x0102 => some (1, [(16, 7)])
  | 0x0103 => some (1, [(16, 5)])
  | 0x0104 => some (1, [(16, 4)])
  | 0x0105 => some (1, [(16, 4), (24, 12), (40, 8)])
  | 0x0106 => some (1, [(16, 4), (24, 12), (40, 8)])
  | 0x0107 => some (1, [(16, 33)])
  | 0x0108 => some (1, [(16, 33)])
  | 0x0109 => some (1, [(16, 10), (32, 32)])
  | 0x0200 => some (2, [(16, 1), (20, 16)])
  | _ => none

/-- Byte i lies in one of the ranges. -/
def inRanges (rs : List (Nat × Nat)) (i : Nat) : Bool := rs.any fun r => r.1 ≤ i && i < r.1 + r.2

/-- Unlisted PARAM bytes must be 0 (R338). -/
def paramBad (d : List Byte) (rs : List (Nat × Nat)) : Bool :=
  (List.range 48).any fun j => !inRanges rs (16 + j) && fieldAt d (16 + j) 1 ≠ 0

/-- Operation code and STAGE_CTL function of a descriptor. -/
def InDesc.opc (x : InDesc) : Nat := fieldAt x.d 0 2
def InDesc.fn (x : InDesc) : Nat := if x.opc = 5 then fieldAt x.d 16 1 else 0
def InDesc.tag (x : InDesc) : Nat := fieldAt x.d 4 4

/-- A parameter of a descriptor. -/
def InDesc.param (x : InDesc) (lo n : Nat) : Nat := fieldAt x.d lo n

/-- The status with which a descriptor completes without starting, whatever its grants: FORMAT (also for a STAGE_CTL function
above 7), OPCODE, CLASS,
NO_HANDLER (R335, R336, R338), NOT_ACTIVE (R352), STATE during a shutdown (R450). -/
def Chip.early (c : Chip) (q : Nat) (x : InDesc) : Option Nat :=
  let cls := c.get (QM_QCFG_CLASS q)
  if fieldAt x.d 2 1 ≠ 0 ∨ fieldAt x.d 3 1 ≠ q ∨ !zeroAt x.d 8 8 then some stFORMAT
  else if x.isApp then
    if cls = 0 then some stCLASS
    else if !c.runs then some stNOT_ACTIVE
    else if c.shutting then some stSTATE
    else if c.bind q = 0 then some stNO_HANDLER
    else none
  else match commandForm x.opc x.fn with
    | none => some stOPCODE
    | some (k, rs) =>
      if k ≠ cls then some stCLASS
      else if paramBad x.d rs || (x.opc = 5 && decide (8 ≤ x.fn)) then some stFORMAT
      else if !c.runs ∧ x.opc ≠ 7 ∧ x.opc ≠ 8 ∧ x.opc ≠ 0x106 then some stNOT_ACTIVE
      else if c.shutting ∧ x.opc ≠ 7 ∧ x.opc ≠ 8 then some stSTATE
      else none

/-! ### Credits and acceptance (R341, R342, R42) -/

/-- Credits that the host holds for queue q. -/
def Chip.credits (c : Chip) (q : Nat) : Nat :=
  let out := ((c.queue q).accepted + 2 ^ 32 - c.get (TN_QCREL_CREL (c.qTenant q) q)) % 2 ^ 32
  c.get (QM_QCFG_DEPTH q) - out

/-- A descriptor without a credit is discarded, counted and raises a degrade fault on its port (R42). -/
def Chip.noCredit (c : Chip) (port : Option Nat) : Chip :=
  match port with
  | some p => (c.bump (HP_CNT_NOCRED p)).raise .hp p { src := 0 }
  | none => c.raise .pcie 0 { src := 0 }

/-- Queue q takes descriptors from tenant t: it is enabled, the tenant's, not an event ring, and PD1 is on. -/
def Chip.takesFrom (c : Chip) (t q : Nat) : Bool :=
  q < 64 && c.regionOn 5 && c.is (QM_QCFG_EN q) && c.qTenant q = t && c.get (QM_QCFG_CLASS q) ≠ 3

/-- One descriptor arrives on queue q (R335, R336, R338, R341, R342): with a credit it takes a slot of the outbound ring;
it then completes at once, or waits in the inbound ring, where an application descriptor triggers dispatch entry 64 + q
(R72). -/
def Chip.accept (c : Chip) (q : Nat) (d : List Byte) (rx : Nat) (port : Option Nat) (data : List Byte := [])
    (bulk : Bool := false) : Chip :=
  if c.credits q = 0 then c.noCredit port
  else
    let x : InDesc := { d := fit 64 d, arrival := c.ns, rx := rx, data := data, bulk := bulk }
    let k := c.queue q
    let c := c.setQueue q { k with accepted := (k.accepted + 1) % 2 ^ 32, reserved := k.reserved + 1 }
    match c.early q x with
    | some st => c.complete q x.tag rx st
    | none =>
      let was := (c.queue q).inq
      let c := c.setQueue q { c.queue q with inq := was ++ [x] }
      if x.isApp && !was.any (·.isApp) then c.trigger (64 + q) else c

/-! ### Taking a system command -/

/-- The first system command that waits in queue q, and the chip with it taken. -/
def Chip.takeSys (c : Chip) (q : Nat) : Option (InDesc × Chip) :=
  (takeFirst (fun x => !x.isApp) (c.queue q).inq).map fun (x, rest) =>
    (x, c.setQueue q { c.queue q with inq := rest })

/-- Queue q has system command `opc` (with STAGE_CTL function `fn`) at its head. -/
def Chip.headIs (c : Chip) (q opc fn : Nat) : Bool :=
  match c.takeSys q with
  | some (x, _) => x.opc = opc && x.fn = fn
  | none => false

/-- A grant bit that the owner of queue q holds. -/
def Chip.granted (c : Chip) (q g : Nat) : Bool :=
  let t := c.qTenant q
  t = 0 || bit (c.get (QM_GRANT_GRANT t)) g

/-- The executor takes the head command of queue q when it is the one named, and runs it with the status checks of R338,
R331, R352 and R450; otherwise nothing happens. The body posts its own completion. -/
def hostCommand (t : Nat) (q opc fn : Nat) (grant : Option Nat) (body : InDesc → State → State) (s : State) : State :=
  let s := s.at_ t
  if !s.chip.headIs q opc fn then s
  else match s.chip.takeSys q with
    | none => s
    | some (x, c) =>
      match c.early q x with
      | some st => { s with chip := c.complete q x.tag x.rx st }
      | none =>
        if (grant.map fun g => c.granted q g) = some false then { s with chip := c.complete q x.tag x.rx stGRANT }
        else body x { s with chip := c }

/-- Completes the command of descriptor x. -/
def State.done (s : State) (q : Nat) (x : InDesc) (status : Nat) (result : List Byte := []) : State :=
  s.onChip fun c => c.complete q x.tag x.rx status result

/-! ### Frames (R343 to R346, Table 13-7) -/

/-- The header checks of a datagram from the host: length, MAGIC, VER, TYPE, TENANT, NREC, DLEN, the bytes the host
leaves 0, and the CRC. -/
def frameOk (f : List Byte) : Bool :=
  let ty := fieldAt f 3 1
  let nrec := fieldAt f 5 1
  let dlen := fieldAt f 6 2
  let counts := match ty with
    | 3 => decide (1 ≤ nrec ∧ nrec ≤ 16 ∧ dlen = 0)
    | 6 => decide (nrec = 1 ∧ 64 ≤ dlen ∧ dlen ≤ 8192 ∧ dlen % 64 = 0)
    | _ => decide (nrec = 0 ∧ dlen = 0)
  f.length = 32 + 64 * nrec + dlen && fieldAt f 0 2 = 0x9612 && fieldAt f 2 1 = 1 &&
    [1, 2, 3, 6, 7].contains ty && decide (fieldAt f 4 1 < 8) && counts && zeroAt f 16 12 &&
    decide (fieldAt f 28 4 = crc32 (f.take 28 ++ zeros 4 ++ f.drop 32))

def frameType (f : List Byte) : Nat := fieldAt f 3 1
def frameTenant (f : List Byte) : Nat := fieldAt f 4 1
def frameXseq (f : List Byte) : Nat := fieldAt f 8 4

/-- The receipt stamp of a frame (R314). -/
def Chip.rxStamp (c : Chip) (p : Nat) : Nat := c.portStamp (-(c.get (TB_PORTLAT_RXLAT p) : Int))

/-- A datagram of type ty arrives on port p: a bad one is counted in SEQERR and discarded (R343); one whose address holds
no session of its tenant is discarded (R344); otherwise the session is heard and f goes on. -/
def Chip.datagram (c : Chip) (p addr udp ty : Nat) (frame : List Byte) (f : Session → Chip → Chip) : Chip :=
  if !frameOk frame then c.bump (HP_CNT_SEQERR p)
  else if frameType frame ≠ ty then c
  else match c.session (frameTenant frame) p with
    | none => c
    | some ses =>
      if ses.addr ≠ addr ∨ ses.udp ≠ udp then c
      else
        let ses := { ses with lastNs := c.ns }
        f ses (c.setSession (frameTenant frame) p (some ses))

/-- A DESC or BULK frame is taken only with the XSEQ expected (R346): a lower one is a duplicate, a higher one a loss,
after which frames are discarded until RESYNC. -/
def Chip.inOrder (c : Chip) (p : Nat) (ses : Session) (frame : List Byte) (f : Chip → Chip) : Chip :=
  let t := frameTenant frame
  let x := frameXseq frame
  if ses.lost then c
  else if x = ses.expect then f (c.setSession t p (some { ses with expect := (ses.expect + 1) % 2 ^ 32 }))
  else if (x + 2 ^ 32 - ses.expect) % 2 ^ 32 < 2 ^ 31 then
    ((c.setSession t p (some { ses with lost := true })).bump (HP_CNT_SEQERR p)).raise .hp p { src := 1 }
  else c

/-- One descriptor of tenant t on port p: the queue must be carried by this port (R344); one for a queue that is not the
tenant's, not enabled or an event ring has no credit (R42). -/
def Chip.arrive (c : Chip) (t p : Nat) (d data : List Byte) (bulk : Bool) : Chip :=
  let q := fieldAt d 3 1
  if q < 64 ∧ c.is (QM_QCFG_EN q) ∧ c.qTenant q = t ∧ (c.is (QM_QCFG_VIA q) ∨ c.get (QM_QCFG_PORT q) ≠ p) then
    c.bump (HP_CNT_SEQERR p)
  else if c.takesFrom t q then c.accept q d (c.rxStamp p) (some p) data bulk
  else c.noCredit (some p)

/-- The records of a frame. -/
def frameRecords (f : List Byte) : List (List Byte) :=
  (List.range (fieldAt f 5 1)).map fun i => (f.drop (32 + 64 * i)).take 64

/-- Delivers what waits for the session of tenant t on port p. -/
def Chip.deliverPort (c : Chip) (t p : Nat) : Chip :=
  c.forAll ((List.range 64).filter fun q => c.is (QM_QCFG_EN q) && c.qTenant q = t && !c.is (QM_QCFG_VIA q) &&
    c.get (QM_QCFG_PORT q) = p) fun c q => Chip.deliver 512 c q

/-- OPEN (R344, R449): the part is ready, the tenant enabled, bit p of PORTS set and no session of the tenant open there.
OPEN is frame 0 of each side. From the address of an open session it opens nothing and keeps that session alive. -/
def Chip.openSession (c : Chip) (t p addr udp : Nat) (frame : List Byte) : Chip :=
  if !frameOk frame then c.bump (HP_CNT_SEQERR p)
  else if frameType frame = 1 ∧ frameTenant frame = t ∧ c.get HL_PSTAT_STATE = 2 ∧ bit (c.get QM_TEN_EN) t ∧
      bit (c.get (QM_GRANT_PORTS t)) p ∧ (c.session t p).isNone then
    let c := c.setSession t p (some { addr := addr, udp := udp, expect := 1, send := 0, lastNs := c.ns })
    (c.sendFrame .openReply t p 0x01 0 0 []).deliverPort t p
  else match c.session (frameTenant frame) p with
    | some ses =>
      if ses.addr = addr ∧ ses.udp = udp then c.setSession (frameTenant frame) p (some { ses with lastNs := c.ns }) else c
    | none => c

/-- The CREDIT frames of tenant t on port p (R345): one record per queue with byte 1 the queue and bytes 4 to 7 CREL,
16 records a frame. -/
def Chip.creditFrames (c : Chip) (t p : Nat) : Chip :=
  let qs := (List.range 64).filter fun q => c.takesFrom t q && !c.is (QM_QCFG_VIA q) && c.get (QM_QCFG_PORT q) = p
  let c := c.forAll qs fun c q => c.setQueue q { c.queue q with creditDirty := false }
  c.forAll (List.range 4) fun c i =>
    match (qs.drop (16 * i)).take 16 with
    | [] => c
    | some_ => c.sendFrame .credit t p 0x05 some_.length 0
        (some_.flatMap fun q => le 1 0 ++ le 1 q ++ le 2 0 ++ le 4 (c.get (TN_QCREL_CREL t q)) ++ zeros 56)

/-- RESYNC (R346): frames are taken again; the reply's ACKSEQ gives the expected XSEQ, and a CREDIT frame follows. -/
def Chip.resync (c : Chip) (p : Nat) (ses : Session) (frame : List Byte) : Chip :=
  let t := frameTenant frame
  let c := c.setSession t p (some { ses with lost := false })
  (c.sendFrame .resyncReply t p 0x08 0 0 []).creditFrames t p

/-! ### PCIe (R347, R348) -/

/-- A doorbell write: new descriptors are fetched while the host holds credits; the excess is a fault and not fetched. -/
def Chip.doorbell (c : Chip) (t q pi : Nat) (ring : List (List Byte)) : Chip :=
  if !(c.takesFrom t q && c.is (QM_QCFG_VIA q) && bit (c.get QM_TEN_EN) t) then c else
  let c := c.set (TN_QDB_PI t q) pi
  let new := (pi + 2 ^ 32 - (c.queue q).accepted) % 2 ^ 32
  let n := min new (c.credits q)
  let depth := max 1 (c.get (QM_QCFG_DEPTH q))
  let first := (c.queue q).accepted
  let c := c.forAll (List.range n) fun c i =>
    let a := c.get (TN_QIBASE_IBASE t q) + 64 * ((first + i) % depth)
    (c.emit .pcieFetch t [q, a]).accept q (ring.getD i []) c.stamp none
  if n < new then c.noCredit none else c

/-- The host consumed records (R348). -/
def Chip.consume (c : Chip) (t q oci : Nat) : Chip :=
  if bit (c.get QM_TEN_EN) t ∧ q < 64 ∧ c.qTenant q = t then
    Chip.deliver 512 (c.set (TN_QOCI_OCI t q) oci) q
  else c

/-- A held-back MSI-X message goes once its interval has passed (R347). -/
def Chip.msixDeferred (c : Chip) (q : Nat) : Chip :=
  if (c.queue q).msixHeld then c.msix (c.qTenant q) q else c

/-! ### Queue and tenant enables (R330, R333) -/

/-- Slots of the enabled queues. -/
def Chip.queueSlots (c : Chip) : Nat :=
  (((List.range 64).filter fun q => c.is (QM_QCFG_EN q)).map fun q =>
    c.get (QM_QCFG_DEPTH q) + c.get (QM_QCFG_ODEPTH q)).foldl (· + ·) 0

/-- Setting EN of queue q with the configuration word v is refused (R333). Depths above 512 are outside their range. -/
def Chip.enableRefused (c : Chip) (q v : Nat) : Bool :=
  let t := bits v 28 3
  let cls := bits v 26 2
  let od := bits v 12 10
  let d := bits v 0 10
  let same := (List.range 64).any fun p => p ≠ q && c.is (QM_QCFG_EN p) && c.qTenant p = t &&
    c.get (QM_QCFG_CLASS p) = cls
  !bit (c.get QM_TEN_EN) t || ((cls = 0 || cls = 3) && same) || (cls = 0 && (d ≠ 16 || decide (od < 16))) ||
    (cls = 3 && (d ≠ 0 || decide (od < 16))) || (cls ≠ 3 && (decide (od < d) || d = 0)) ||
    (!bit v 24 && !bit (c.get (QM_GRANT_PORTS t)) (bits v 22 2)) || decide (512 < d) || decide (512 < od) ||
    decide (32768 < c.queueSlots + d + od)

/-- The fields of a configuration word but EN. -/
def Chip.setQcfg (c : Chip) (q v : Nat) : Chip :=
  let c := (c.set (QM_QCFG_TENANT q) (bits v 28 3)).set (QM_QCFG_CLASS q) (bits v 26 2)
  let c := (c.set (QM_QCFG_VIA q) (bits v 24 1)).set (QM_QCFG_PORT q) (bits v 22 2)
  (c.set (QM_QCFG_ODEPTH q) (bits v 12 10)).set (QM_QCFG_DEPTH q) (bits v 0 10)

/-- Starts queue q empty, with its counts at 0 (R337, R341, R348). -/
def Chip.startQueue (c : Chip) (q : Nat) : Chip :=
  let t := c.qTenant q
  let c := ((c.set (TN_QCREL_CREL t q) 0).set (TN_QOCI_OCI t q) 0).set (TN_QOPI_OPI t q) 0
  ((c.set (TN_QDB_PI t q) 0).setQueue q {}).set (QM_QCFG_EN q) 1

/-- A write of QM_QCFGq by a tenant that may write it (R333). What a queue holds when it is disabled is dropped. -/
def Chip.writeQcfg (c : Chip) (q v : Nat) : Chip :=
  if c.is (QM_QCFG_EN q) then
    if bit v 31 then c else ((c.setQcfg q v).set (QM_QCFG_EN q) 0).setQueue q {}
  else if !bit v 31 then c.setQcfg q v
  else if c.enableRefused q v then (c.setQcfg q v).raise .qm 0 { src := 1 }
  else (c.setQcfg q v).startQueue q

/-- A write of QM_TEN (R330): ignored while it would disable a tenant that has an enabled queue. Sessions of a tenant that
is disabled end. -/
def Chip.writeTen (c : Chip) (v : Nat) : Chip :=
  let new := (v % 256) ||| 1
  let off := (List.range 8).filter fun t => bit (c.get QM_TEN_EN) t && !bit new t
  if off.any fun t => (List.range 64).any fun q => c.is (QM_QCFG_EN q) && c.qTenant q = t then c
  else
    let c := c.set QM_TEN_EN new
    c.forAll off fun c t => c.forAll (List.range 4) fun c p => c.setSession t p none

/-- A tenant holds grant g. -/
def Chip.holds (c : Chip) (t g : Nat) : Bool := t = 0 || bit (c.get (QM_GRANT_GRANT t)) g

/-! ### The commands -/

def execApplicationDescriptor (t : Nat) (q : Fin 64) (d : List Byte) (rx : Nat) (s : State) :
    Host.Outcome State Fault Refusal :=
  .next ((s.at_ t).onChip fun c =>
    if 0x8000 ≤ fieldAt d 0 2 ∧ c.takesFrom (c.qTenant q) q then
      c.accept q d rx (if c.is (QM_QCFG_VIA q) then none else some (c.get (QM_QCFG_PORT q)))
    else c)

/-- A descriptor that has not been started within TO µs of its arrival completes with TIMEOUT (R351). -/
def execQueueTimeout (t : Nat) (q : Fin 64) (s : State) : Host.Outcome State Fault Refusal :=
  .next ((s.at_ t).onChip fun c =>
    let lim := c.get (QM_QTO_TO q)
    if lim = 0 then c
    else match takeFirst (fun (x : InDesc) => decide (x.arrival + 1000 * lim ≤ c.ns)) (c.queue q).inq with
      | none => c
      | some (x, rest) => (c.setQueue q { c.queue q with inq := rest }).complete q x.tag x.rx stTIMEOUT)

def execOpenSession (t : Nat) (tenant : Fin 8) (port : Fin 4) (addr udp : Nat) (frame : List Byte) (s : State) :
    Host.Outcome State Fault Refusal :=
  .next ((s.at_ t).onChip (·.openSession tenant port addr udp frame))
def execCloseSession (t : Nat) (port : Fin 4) (addr udp : Nat) (frame : List Byte) (s : State) :
    Host.Outcome State Fault Refusal :=
  .next ((s.at_ t).onChip fun c => c.datagram port addr udp 2 frame fun _ c => c.setSession (frameTenant frame) port none)
def execDescFrame (t : Nat) (port : Fin 4) (addr udp : Nat) (frame : List Byte) (s : State) :
    Host.Outcome State Fault Refusal :=
  .next ((s.at_ t).onChip fun c => c.datagram port addr udp 3 frame fun ses c => c.inOrder port ses frame fun c =>
    c.forAll (frameRecords frame) fun c d => c.arrive (frameTenant frame) port d [] false)
def execBulk (t : Nat) (port : Fin 4) (addr udp : Nat) (frame : List Byte) (s : State) :
    Host.Outcome State Fault Refusal :=
  .next ((s.at_ t).onChip fun c => c.datagram port addr udp 6 frame fun ses c => c.inOrder port ses frame fun c =>
    c.arrive (frameTenant frame) port ((frame.drop 32).take 64) (frame.drop 96) true)
def execResync (t : Nat) (port : Fin 4) (addr udp : Nat) (frame : List Byte) (s : State) :
    Host.Outcome State Fault Refusal :=
  .next ((s.at_ t).onChip fun c => c.datagram port addr udp 7 frame fun ses c => c.resync port ses frame)

/-- No valid datagram for 100 ms ends a session; queues and their contents stay (R344). -/
def execSessionTimeout (t : Nat) (tenant : Fin 8) (port : Fin 4) (s : State) : Host.Outcome State Fault Refusal :=
  .next ((s.at_ t).onChip fun c =>
    match c.session tenant port with
    | some ses => if ses.lastNs + 100000000 ≤ c.ns then c.setSession tenant port none else c
    | none => c)
def execCreditFrameSend (t : Nat) (tenant : Fin 8) (port : Fin 4) (s : State) : Host.Outcome State Fault Refusal :=
  .next ((s.at_ t).onChip (·.creditFrames tenant port))

/-- ARP and IPv6 neighbour discovery are answered for the port's own addresses (R343). -/
def execNeighbourRequest (t : Nat) (port : Fin 4) (v6 : Bool) (target : Nat) (s : State) :
    Host.Outcome State Fault Refusal :=
  .next ((s.at_ t).onChip fun c =>
    let own := if v6 then c.is (HP_CFG_IP6EN port) && c.get (HP_IP6_ADDR port) = target
      else c.is (HP_CFG_IP4EN port) && c.get (HP_IP4_ADDR port) = target
    if own then c.emit .neighbour port [b2n v6, target, c.get (HP_MAC_MAC port)] else c)

def execDoorbell (t : Nat) (tenant : Fin 8) (q : Fin 64) (pi : BitVec 32) (ring : List (List Byte)) (s : State) :
    Host.Outcome State Fault Refusal :=
  .next ((s.at_ t).onChip (·.doorbell tenant q pi.toNat ring))
def execOutboundConsume (t : Nat) (tenant : Fin 8) (q : Fin 64) (oci : BitVec 32) (s : State) :
    Host.Outcome State Fault Refusal :=
  .next ((s.at_ t).onChip (·.consume tenant q oci.toNat))
def execMsixDeferred (t : Nat) (q : Fin 64) (s : State) : Host.Outcome State Fault Refusal :=
  .next ((s.at_ t).onChip (·.msixDeferred q))

/-- Only a tenant with ADMIN writes the queue manager window (R331, R353); another's write is a notice (R332). -/
def execQueueEnable (t : Nat) (tnt : Fin 8) (q : Fin 64) (v : BitVec 32) (s : State) :
    Host.Outcome State Fault Refusal :=
  .next ((s.at_ t).onChip fun c =>
    if c.holds tnt 3 then c.writeQcfg q v.toNat else c.noticeAccess (0x20400 + 8 * q))
def execTenantEnable (t : Nat) (tnt : Fin 8) (v : BitVec 32) (s : State) : Host.Outcome State Fault Refusal :=
  .next ((s.at_ t).onChip fun c =>
    if c.holds tnt 3 then c.writeTen v.toNat else c.noticeAccess 0x20040)

end Sys2Proof.Machine
end

