-- ==== Sys2Proof/Machine/Motion.lean ====
section
/-!
DEFINITION. Sys2Proof/Machine/Motion.lean: web motion inputs: quadrature counting, speed, Z, SSI ports, probes and web stretch
(R224 to R246). What follows from a new X is in Machine/Web.lean.
-/
namespace Sys2Proof.Machine

/-- Channel n beside its registers. -/
def Chip.enc (c : Chip) (n : Nat) : Enc := FMap.get {} c.motion.enc n
def Chip.setEnc (c : Chip) (n : Nat) (e : Enc) : Chip :=
  { c with motion := { c.motion with enc := FMap.put {} c.motion.enc n e } }

/-- The infeed and outfeed channels. -/
def Chip.infeed (c : Chip) : Nat := c.get WM_CFG_INFEED
def Chip.outfeed (c : Chip) : Nat := c.get WM_CFG_OUTFEED

/-- DT of the first sample at a level that counts now after f edges (R224). -/
def Chip.latched (c : Chip) (f : Nat) : Nat := c.dt - (f - 1) * dtClock

/-! ### Speed (R233 to R238) -/

/-- Gives channel n a speed of num / den counts per DT unit. WM_SPD shows it rounded half up (assumption 17). -/
def Chip.setSpeed (c : Chip) (n : Nat) (num : Int) (den : Nat) : Chip :=
  let d := max 1 den
  (c.setEnc n { c.enc n with spd := (num, d) }).set (WM_SPD_SPD n) (satSgn 32 (halfUp (16 * num * dtSecond) d))

/-- Web speed of the infeed in ticks/s, rounded toward zero; 0 while it shows STILL or REV (R233). -/
def Chip.webSpeed (c : Chip) : Int :=
  let n := c.infeed
  if c.is (WM_EST_STILL n) || c.is (WM_EST_REV n) then 0
  else
    let (num, den) := (c.enc n).spd
    (num * dtSecond * c.get (WM_SCALE_SCALE n)).tdiv (den * 2 ^ 32)

/-- Speed timing restarts: no reference edge, no intervals, period method (R234, R236). -/
def Chip.restartTiming (c : Chip) (n : Nat) (ref : Option (Int × Nat)) : Chip :=
  ((c.setEnc n { c.enc n with ref := ref, ivs := [] }).set (WM_EST_METHOD n) 0).set (WM_EST_FIRST n) 0

/-- The speed magnitude num / den is at least v counts/s. -/
def reaches (num : Int) (den v : Nat) : Bool := decide (v * den ≤ num.natAbs * dtSecond)

/-- A new period speed of k counts over the latest k intervals (R234, R236). -/
def Chip.periodSpeed (c : Chip) (n : Nat) (d : Int) : Chip :=
  let e := c.enc n
  let k := e.ivs.length
  let den := e.ivs.foldl (· + ·) 0
  let c := ((c.setSpeed n (d * k) den).set (WM_EST_FIRST n) (b2n (k = 1))).set (WM_EST_STILL n) 0
  let c := c.set (WM_EST_REV n) 0
  if reaches k (max 1 den) (c.get (WM_VCO_VCO n)) then
    (c.setEnc n { c.enc n with gate := c.dt, gateRef := e.ref }).set (WM_EST_METHOD n) 1
  else c

/-! ### Stretch windows (R245, R246) -/

/-- Discards the window under way. -/
def Chip.spoil (c : Chip) : Chip :=
  if c.motion.wStart.isSome then
    { c with motion := { c.motion with wStart := none, wEnd := none } }.bump WM_STRCNT_DISCARDED
  else c

/-- A case of R246 on channel n discards the window when n is the infeed or the outfeed; outfeed edges before it no longer serve. -/
def Chip.spoilOn (c : Chip) (n : Nat) : Chip :=
  let c := if n = c.infeed ∨ n = c.outfeed then c.spoil else c
  if n = c.outfeed then { c with motion := { c.motion with outs := [] } } else c

/-- The stream closes; the stretch window under way is discarded (R246). -/
def Chip.closeStream (c : Chip) : Chip := (c.set SEQ_PSTAT_OPEN 0).spoil

/-- The outfeed count at a mark by linear interpolation, as a fraction. -/
def StrMark.out (m : StrMark) : Option (Int × Nat) :=
  match m.before, m.after with
  | some (e0, t0), some (e1, t1) =>
    if t1 ≤ t0 then some (e1, 1)
    else some (e0 * ((t1 - t0 : Nat) : Int) + ((m.at_ - t0 : Nat) : Int) * (e1 - e0), t1 - t0)
  | _, _ => none

/-- The stretch filter: ε + GAIN/256 × (raw − ε), rounded half up to 1/16 ppm (R245). -/
def filterEps (eps raw : Int) (gain : Nat) : Int := halfUp (256 * eps + gain * (raw - eps)) 256

/-- Puts a new ε in force: a measured value beyond ±5,000 ppm is a degrade fault on EV55 (R18). -/
def Chip.newEps (c : Chip) (eps : Int) : Chip :=
  let c := c.set WM_EPS_EPS (satSgn 32 eps)
  if decide (eps < -80000) || decide (80000 < eps) then c.raise .fs 0 { src := 3 } else c

/-- The raw stretch of a window in 1/16 ppm, rounded half up. -/
def rawStretch (n0 n1 : Int) (d0 d1 : Nat) (din : Int) (sOut sIn : Nat) (ofs : Int) : Int :=
  let num := (n1 * d0 - n0 * d1) * sOut
  let den := d0 * d1 * din.natAbs * sIn
  halfUp ((num - den) * 16000000) (max 1 den) - ofs

/-- Ends the window once the outfeed edges around both ends are known (R245). The next begins where it ended. -/
def Chip.closeWindow (c : Chip) : Chip :=
  match c.motion.wStart, c.motion.wEnd with
  | some m0, some m1 =>
    match m0.out, m1.out with
    | some (n0, d0), some (n1, d1) =>
      let c : Chip := { c with motion := { c.motion with wStart := some m1, wEnd := none } }
      let raw := rawStretch n0 n1 d0 d1 (m1.ext - m0.ext) (c.get (WM_SCALE_SCALE c.outfeed)) (c.get (WM_SCALE_SCALE c.infeed))
        (c.getS WM_STROFS_OFS)
      let c := (c.set WM_STRRAW_RAW (satSgn 32 raw)).count WM_STRCNT_WINDOWS
      c.newEps (filterEps (c.getS WM_EPS_EPS) raw (c.get WM_STR_GAIN))
    | _, _ => c
  | _, _ => c

/-- An outfeed edge, in the order of counting: by its latched DT it comes before the mark, or is the first after it. -/
def StrMark.note (m : StrMark) (e : Int × Nat) : StrMark :=
  if m.after.isSome then m else if e.2 ≤ m.at_ then { m with before := some e } else { m with after := some e }

/-- A counted outfeed edge. The latest 16 are kept: filters of different length latch an infeed edge at most 14 control clocks
before outfeed edges that were counted earlier. -/
def Chip.outfeedEdge (c : Chip) (e : Int × Nat) : Chip :=
  let c : Chip := { c with motion := { c.motion with
    outs := (e :: c.motion.outs).take 16
    wStart := c.motion.wStart.map fun m => m.note e
    wEnd := c.motion.wEnd.map fun m => m.note e } }
  c.closeWindow

/-- Neither the infeed nor the outfeed reports STILL or REV (R246). -/
def Chip.webRuns (c : Chip) : Bool :=
  !c.is (WM_EST_STILL c.infeed) && !c.is (WM_EST_REV c.infeed) && !c.is (WM_EST_STILL c.outfeed) && !c.is (WM_EST_REV c.outfeed)

/-- A counted infeed edge: the window ends at the first that reaches WIN, or a new one begins at a forward edge. -/
def Chip.infeedEdge (c : Chip) (ext : Int) (at' : Nat) (forward : Bool) : Chip :=
  if !c.is WM_STR_MODE then c
  else if !c.is SEQ_PSTAT_OPEN || !c.is (WM_ECFG_EN c.outfeed) then c.spoil
  else
    let mark : StrMark := c.motion.outs.foldr (fun e m => m.note e) { at_ := at', ext := ext }
    match c.motion.wStart, c.motion.wEnd with
    | none, _ => if forward && c.webRuns && mark.before.isSome then { c with motion := { c.motion with wStart := some mark } } else c
    | some m0, none =>
      if (c.get WM_STRWIN_WIN : Int) * 2 ^ 32 ≤ (ext - m0.ext) * c.get (WM_SCALE_SCALE c.infeed) then
        if mark.before.isSome then ({ c with motion := { c.motion with wEnd := some mark } } : Chip).closeWindow else c.spoil
      else c
    | some _, some _ => c

/-! ### Counting (R226 to R228) -/

/-- The place of (A, B) in the forward order 00, 10, 11, 01. -/
def phaseOf (a b : Bool) : Nat := match a, b with
  | false, false => 0 | true, false => 1 | true, true => 2 | false, true => 3

/-- POS after one count of d on a circle of cpr counts; a CPR of 0 means 2³² (R228). -/
def stepPos (pos cpr : Nat) (d : Int) : Nat :=
  let n := if cpr = 0 then 2 ^ 32 else cpr
  if d = 1 then (if n ≤ pos + 1 then 0 else pos + 1) else (if pos = 0 then n - 1 else pos - 1)

/-- A and B change at one counting edge (R227). -/
def Chip.illegal (c : Chip) (n : Nat) : Chip :=
  let c := c.setEnc n { c.enc n with seen := c.latched (c.get (WM_ECFG_FILT n)) }
  ((c.restartTiming n none).bump (WM_EST_ILLEGAL n)).spoilOn n |>.raise .wm 0 { src := n }

/-- What a counted edge with direction d, EXT x and DT t does to the speed of channel n (R234, R235, R238). -/
def Chip.timeEdge (c : Chip) (n : Nat) (d x : Int) (t : Nat) (reversal : Bool) : Chip :=
  let e := c.enc n
  if reversal then
    let c := (c.restartTiming n (some (x, t))).setSpeed n 0 1
    (c.set (WM_EST_REV n) 1).spoilOn n
  else match e.ref with
    | none => c.setEnc n { e with ref := some (x, t) }
    | some (_, t0) =>
      let c := c.setEnc n { e with ref := some (x, t), ivs := ((t - t0) :: e.ivs).take 4 }
      if c.is (WM_EST_METHOD n) then c else c.periodSpeed n d

/-- One count of d on channel n. Gives EXT and DT of the edge with the new chip. -/
def Chip.countEdge (c : Chip) (n : Nat) (d : Int) : Int × Nat × Chip :=
  let t := c.latched (c.get (WM_ECFG_FILT n))
  let x := c.getS (WM_EXT_EXT n) + d
  let back := decide (d < 0)
  let reversal := (c.enc n).moved && back != c.is (WM_EST_DIR n)
  let c := (c.setS (WM_EXT_EXT n) x).set (WM_POS_POS n) (stepPos (c.get (WM_POS_POS n)) (c.get (WM_CPR_CPR n)) d)
  let c := c.set (WM_EST_DIR n) (b2n back)
  let c := c.setEnc n { c.enc n with seen := t, moved := true }
  (x, t, c.timeEdge n d x t reversal)

/-- The direction of a change of levels: +1, −1, or none for both lines or no line (R226). -/
def stepDir (old new : Nat) (inv : Bool) : Option Int :=
  let k := (new + 4 - old) % 4
  if k = 1 then some (if inv then -1 else 1) else if k = 3 then some (if inv then 1 else -1) else none

/-! ### Reference position (R230, R231) -/

/-- (EXT − EXT0) × SCALE of the infeed, in 2⁻³² tick. -/
def Chip.travel (c : Chip) : Int :=
  (c.getS (WM_EXT_EXT c.infeed) - c.motion.ext0) * c.get (WM_SCALE_SCALE c.infeed)

/-- X and BEFORE follow the infeed count. -/
def Chip.refreshX (c : Chip) : Chip :=
  (c.set WM_X_X ((c.travel / 2 ^ 32).toNat % 2 ^ 64)).set WM_STAT_BEFORE (b2n (c.getS (WM_EXT_EXT c.infeed) < c.motion.ext0))

/-- The infeed edge goes to the fire stamp engine: position in 1/65,536 tick, and DT (R231); a reverse edge is noted (R204). -/
def Chip.passEdge (c : Chip) (t : Nat) (forward : Bool) : Chip :=
  let c : Chip := if forward then c else { c with fire := { c.fire with back := true } }
  if c.is WM_STAT_BEFORE then c
  else { c with fire := { c.fire with edge := some (halfUp c.travel 65536, t), fresh := true, coasted := false } }

/-! ### The other channel commands -/

/-- Distance of a and b the short way round a circle of cpr counts. -/
def circleDist (a b cpr : Nat) : Nat :=
  let n := if cpr = 0 then 2 ^ 32 else cpr
  let d := (a + n - b % n) % n
  min d (n - d)

/-- Z of channel n counts at the same edge as a count of d, or with d = 0 alone (R229): the latch takes POS after the count; with
HOME the first Z since the channel was enabled sets POS to ZREF, and any other Z is checked. The count itself follows. -/
def Chip.zEdge (c : Chip) (n : Nat) (d : Int) : Chip :=
  let mode := c.get (WM_ECFG_ZMODE n)
  if !c.is (WM_ECFG_EN n) || mode = 0 then c
  else
    let cpr := c.get (WM_CPR_CPR n)
    let step (p : Nat) (d : Int) : Nat := if d = 0 then p else stepPos p cpr d
    let pos := step (c.get (WM_POS_POS n)) d
    let c := (c.set (WM_ZLAT_ZPOS n) pos).set (WM_ZDT_ZDT n) (c.latched (c.get (WM_ECFG_FILT n)) / 65536)
    let first := !(c.enc n).homed
    let c := c.setEnc n { c.enc n with homed := true }
    if mode = 1 then c
    else if mode = 3 && first then c.set (WM_POS_POS n) (step (c.get (WM_ZREF_ZREF n)) (-d))
    else if c.get (WM_VCO_ZTOL n) < circleDist pos (c.get (WM_ZREF_ZREF n)) cpr then
      (c.bump (WM_EST_ZERR n)).raise .wm 0 { src := 4 + n }
    else c

/-- What channel n counts when its lines come to a and b: none for both lines at once, 0 for no change or a disabled channel. -/
def Chip.countOf (c : Chip) (n : Nat) (a b : Bool) : Option Int :=
  let e := c.enc n
  let old := phaseOf e.a e.b
  let new := phaseOf a b
  if !c.is (WM_ECFG_EN n) || old = new then some 0 else stepDir old new (c.is (WM_ECFG_DIRINV n))

/-- The edge of channel n that waits in the queue for this very instant: what it counts (R229, R237, R242). -/
def State.countNow (s : State) (t n : Nat) : Option (Option Int) :=
  s.pending.findSome? fun i => match i with
    | .encoderEdge t' n' a b => if t' = t ∧ n'.val = n then some (s.chip.countOf n a b) else none
    | _ => none

/-- The count of channel n that waits for this very instant, 0 for none. -/
def State.deltaNow (s : State) (t n : Nat) : Int := ((s.countNow t n).getD none).getD 0

def execZEdge (t : Nat) (n : Fin 4) (s : State) : Host.Outcome State Fault Refusal :=
  .next ((s.at_ t).onChip fun c => c.zEdge n (s.deltaNow t n))

/-- No counted edge and no illegal transition for TSTILL (R237). Timing restarts again when a first edge after a standstill stays
alone for as long. -/
def Chip.standstill (c : Chip) (n : Nat) : Chip :=
  if c.is (WM_ECFG_EN n) && (!c.is (WM_EST_STILL n) || (c.enc n).moved) &&
      decide ((c.enc n).seen + c.get (WM_ECFG_TSTILL n) * 100 * dtMicro ≤ c.dt) then
    let c := (c.restartTiming n none).setSpeed n 0 1
    let c := c.setEnc n { c.enc n with moved := false }
    (c.set (WM_EST_STILL n) 1).spoilOn n
  else c

/-- A gate of GATE µs ends: a speed from the edges in it, or, with none, the period method again (R235, R236). -/
def Chip.countGateEnd (c : Chip) (n : Nat) : Chip :=
  let e := c.enc n
  let g := c.get WM_CFG_GATE * dtMicro
  if !c.is (WM_ECFG_EN n) || !c.is (WM_EST_METHOD n) || decide (c.dt < e.gate + g) then c
  else match e.gateRef, e.ref with
    | some (x0, t0), some (x1, t1) =>
      if x0 = x1 ∧ t0 = t1 then c.set (WM_EST_METHOD n) 0
      else
        let c := (c.setEnc n { e with gate := e.gate + g, gateRef := e.ref }).setSpeed n (x1 - x0) (t1 - t0)
        let c := c.set (WM_EST_FIRST n) 0
        let low := c.get (WM_VCO_VCO n) * (100 - c.get (WM_ECFG_HYS n))
        if reaches (100 * (x1 - x0)) (max 1 (t1 - t0)) low then c else c.set (WM_EST_METHOD n) 0
    | _, _ => c.set (WM_EST_METHOD n) 0

/-- The period speed of channel n reads at most one count over the time since its last edge (R234). -/
def Chip.boundSpeed (c : Chip) (n : Nat) : Chip :=
  let e := c.enc n
  match e.ref, e.ivs with
  | some (_, t0), iv :: _ =>
    let (num, den) := e.spd
    let el := c.dt - t0
    if c.is (WM_ECFG_EN n) && !c.is (WM_EST_METHOD n) && decide (iv < el) && decide (den < num.natAbs * el) then
      c.setSpeed n num.sign el
    else c
  | _, _ => c

/-! ### SSI ports (R239 to R241) -/

def Chip.ssi (c : Chip) (m : Nat) : Ssi := FMap.get {} c.motion.ssi m
def Chip.setSsi (c : Chip) (m : Nat) (x : Ssi) : Chip :=
  { c with motion := { c.motion with ssi := FMap.put {} c.motion.ssi m x } }

/-- A frame's time in DT units: NBITS + 1 periods of 2 × CDIV control clocks. -/
def Chip.ssiTime (c : Chip) (m : Nat) : Nat := (c.get (WM_SCFG_NBITS m) + 1) * 2 * c.get (WM_SCFG_CDIV m) * dtClock

/-- The least time from one frame's start to the next: PER, or frame time and MONO when that is longer. -/
def Chip.ssiPeriod (c : Chip) (m : Nat) : Nat :=
  max (c.get (WM_SPER_PER m) * dtMicro) (c.ssiTime m + c.get (WM_SPER_MONO m) * dtMicro)

/-- The first falling edge of port m's clock: the frame's instant (R239). -/
def Chip.ssiStart (c : Chip) (m : Nat) (low : Bool) : Chip :=
  c.setSsi m { c.ssi m with frame := some (c.dt, low), last := some c.dt }

def execSsiFrameStart (t : Nat) (m : Fin 2) (low : Bool) (s : State) : Host.Outcome State Fault Refusal :=
  .next ((s.at_ t).onChip fun c =>
    let due := match (c.ssi m).last with
      | none => true
      | some l => decide (l + c.ssiPeriod m ≤ c.dt)
    if c.is (WM_SCFG_EN m) && c.runs && (c.ssi m).frame.isNone && due then
      (c.ssiStart m low).emit .ssiClock m [c.get (WM_SCFG_NBITS m) + 1]
    else c)

/-- The binary value of an n-bit Gray word, most significant bit first. -/
def grayDecode : Nat → Nat → Nat
  | 0, _ => 0
  | n + 1, w =>
    let hi := grayDecode n (w / 2)
    2 * hi + (if (hi % 2 = 1) != (w % 2 = 1) then 1 else 0)

/-- An accepted value of port m, in k bits, latched at DT `at_` (R241). -/
def Chip.ssiAccept (c : Chip) (m k v at' : Nat) : Chip :=
  let x := c.ssi m
  let old := c.get (WM_SVAL_VALUE m)
  let sext := if x.have' then c.getS (WM_SEXT_SEXT m) + sgn k (v + 2 ^ k - old % 2 ^ k) else v
  let c := ((c.set (WM_SVAL_VALUE m) v).setS (WM_SEXT_SEXT m) sext).set (WM_SDT_SDT m) (at' / 65536)
  c.setSsi m { x with have' := true }

/-- A frame of NBITS bits has been received (R240). -/
def execSsiFrameEnd (t : Nat) (m : Fin 2) (w : BitVec 32) (s : State) : Host.Outcome State Fault Refusal :=
  .next ((s.at_ t).onChip fun c =>
    match (c.ssi m).frame with
    | none => c
    | some (at', low) =>
      if c.dt < at' + c.ssiTime m then c
      else
        let c := c.setSsi m { c.ssi m with frame := none }
        let n := c.get (WM_SCFG_NBITS m)
        let w := w.toNat % 2 ^ n
        let flag := c.is (WM_SCFG_EBIT m) && decide (w % 2 = 1)
        let k := n - c.get (WM_SCFG_EBIT m)
        let bin := if c.is (WM_SCFG_GRAY m) then grayDecode n w else w
        let v := if c.is (WM_SCFG_EBIT m) then bin / 2 else bin
        if low || flag then
          let c := if low then c.bump (WM_SST_LINEERR m) else c
          let c := if flag then c.bump (WM_SST_ENCERR m) else c
          c.raise .wm 0 { src := 8 + m }
        else c.ssiAccept m k v at')

/-- In STANDBY and CATCHUP the clock that the active unit drives starts a frame (R455). -/
def execSsiClockEdge (t : Nat) (m : Fin 2) (low : Bool) (s : State) : Host.Outcome State Fault Refusal :=
  .next ((s.at_ t).onChip fun c =>
    if c.is (WM_SCFG_EN m) && !c.runs && (c.ssi m).frame.isNone then c.ssiStart m low else c)

/-! ### Probes (R242, R243) -/

def Chip.probe (c : Chip) (p : Nat) : Probe := FMap.get {} c.motion.probe p
def Chip.setProbe (c : Chip) (p : Nat) (x : Probe) : Chip :=
  { c with motion := { c.motion with probe := FMap.put {} c.motion.probe p x } }

/-- The value that SRC of probe p names, after the counts `d n` of channels n at the same edge (R242). -/
def Chip.probeValue (c : Chip) (p : Nat) (d : Nat → Int) : Nat :=
  let k := c.get (WM_PCFG_SRC p)
  if k < 4 then uns 64 (c.getS (WM_EXT_EXT k) + d k) else if k < 6 then c.get (WM_SEXT_SEXT (k - 4))
  else ((c.travel + d c.infeed * c.get (WM_SCALE_SCALE c.infeed)) / 2 ^ 32).toNat % 2 ^ 64

/-- A latch of probe p: it takes the next number; a full store that no POP of the same clock makes room in discards it with a
notice (R243, R248). -/
def Chip.probeLatch (c : Chip) (p : Nat) (d : Nat → Int) (pops : Bool) : Chip :=
  let x := c.probe p
  let q := x.seq
  let c := c.setProbe p { x with seq := (q + 1) % 2 ^ 32 }
  if 16 ≤ x.store.length ∧ ¬ pops then (c.bump (WM_PST_OVF p)).raise .wm 0 { src := 10 }
  else
    let l := (q, c.probeValue p d, c.latched (c.get (WM_PCFG_FILT p)) / 65536)
    let c := c.setProbe p { c.probe p with store := x.store ++ [l] }
    if c.get (WM_PCFG_TMASK p) = 0 then c else c.event (c.get (WM_PCFG_TMASK p)) 55 (0x560 + p) q

/-- A POP of probe p waits in the queue for the control clock of instant t. -/
def State.popNow (s : State) (t : Nat) (p : Fin 8) : Bool :=
  s.pending.any fun i => match i with
    | .probePop t' _ p' => t' / dtClock = t / dtClock && p' = p
    | _ => false

def execProbeEdge (t : Nat) (p : Fin 8) (rise : Bool) (s : State) : Host.Outcome State Fault Refusal :=
  .next ((s.at_ t).onChip fun c =>
    let e := c.get (WM_PCFG_EDGE p)
    if c.is (WM_PCFG_EN p) && (e = 2 || (e = 0) == rise) then c.probeLatch p (s.deltaNow t) (s.popNow t p) else c)

/-- POP removes the oldest latch. -/
def Chip.probePop (c : Chip) (p : Nat) : Chip := c.setProbe p { c.probe p with store := (c.probe p).store.drop 1 }

/-- Channel n is enabled: EXT is 0, timing restarts, the first Z has not come (R228, R229, R234). -/
def Chip.enableEnc (c : Chip) (n : Nat) : Chip :=
  let e := c.enc n
  let c := c.setEnc n { a := e.a, b := e.b, seen := c.dt }
  let c := ((c.setS (WM_EXT_EXT n) 0).set (WM_SPD_SPD n) 0).set (WM_EST_STILL n) 1
  ((c.set (WM_EST_REV n) 0).set (WM_EST_FIRST n) 0).set (WM_EST_METHOD n) 0

end Sys2Proof.Machine
end

