-- ==== Sys2Proof/Machine/Print.lean ====
section
/-!
DEFINITION. Sys2Proof/Machine/Print.lean: the placement stream: records, placement instructions, late records, retirement,
the end of the stream (R78 to R93, R113 to R119).
-/
namespace Sys2Proof.Machine

/-! ### Handles (R115, R119) -/

/-- The allocation that a handle names; none for a stale handle or index 0 (R115). -/
def Store.find (st : Store) (h : Nat) : Option Alloc :=
  if h / 2 ^ 28 ≠ 0 then none
  else st.allocs.find? fun x => x.index = h % 65536 && x.gen = bits h 16 12

/-- The handle of an allocation. -/
def Alloc.handle (x : Alloc) : Nat := x.index + 65536 * x.gen

/-- The first byte of an allocation in J-space. -/
def Alloc.start (x : Alloc) : Nat := x.base * 65536

/-- The tile header of an allocation (Table 5-3). -/
def tileHeader (job : ByteMem) (x : Alloc) : List Byte := job.read x.start 64

/-- A handle may be placed: SEALED as TILE, readable by jobs, of one of the formats, made for the job's row pitch
(R119). -/
def usable (s : State) (h : Nat) (fmts : List Nat) : Bool :=
  match s.chip.store.find h with
  | none => false
  | some x =>
    let hd := tileHeader s.mem.job x
    x.isSealed && x.tile && x.jobr && fmts.contains (fieldAt hd 0 1) && fieldAt hd 2 1 = s.chip.pitch

/-- Field slot i. -/
def Chip.slot (c : Chip) (i : Nat) : Slot := FMap.get {} c.vd.slots i

/-- A handle names an allocated field slot (R107). -/
def Chip.slotUsable (c : Chip) (h : Nat) : Bool :=
  let x := c.slot (h % 2 ^ 20)
  x.content.isSome && x.gen = bits h 20 12

/-! ### Records -/

/-- Kinds of content records. -/
def Rec.isContent (r : Rec) : Bool := 1 ≤ r.kind && r.kind ≤ 4

/-- The 64 bytes of a record (Table 4-1), CRC last. A MARK's code and tenants stand in PARAM and its data in PHASE; the
spec lays out no bytes for them (assumption 14). -/
def Rec.bytes (r : Rec) : List Byte :=
  let b := le 8 r.start ++ le 8 r.stop ++ le 4 r.seq ++ le 1 r.kind ++ le 1 r.layer ++ le 1 r.op ++ le 1 r.flags ++
    le 2 r.bars ++ le 2 0 ++ le 4 r.col ++ le 4 r.width ++ le 4 r.handle ++ le 8 r.phase ++ le 8 r.param ++ le 4 r.maskh
  b ++ le 4 (crc32 b)

/-- Bar k has started a row at or beyond web point e (R86). -/
def Chip.startedPast (c : Chip) (k e : Nat) : Bool :=
  let n := (c.bar k).next
  n ≠ 0 && decide (e ≤ rowPoint c.pitch (n - 1))

/-- A content record is outstanding until every enabled bar of its mask has started a row at or beyond END (R86). A MARK
stays until its event is posted. -/
def Chip.outstanding (c : Chip) (r : Rec) : Bool :=
  if r.isContent then (c.enabledBars.filter (bit r.bars)).any fun k => !c.startedPast k r.stop else r.kind = 5

/-- Frees a field slot: its generation counts up (R107). -/
def Chip.freeSlot (c : Chip) (i : Nat) : Chip :=
  let x := c.slot i
  { c with vd := { c.vd with slots := FMap.put {} c.vd.slots i { gen := (x.gen + 1) % 4096 } } }

/-- Records no longer outstanding retire; a slot is freed with its last referencing record; an instruction stalled for
want of a record place or a slot issues again (R86, R107). -/
def Chip.retire (c : Chip) : Chip :=
  let gone := c.strm.recs.filter fun r => !c.outstanding r
  if gone.isEmpty then c
  else
    let c : Chip := { c with strm := { c.strm with recs := c.strm.recs.filter c.outstanding,
                                                   maxEnd := max c.strm.maxEnd (greatest ((gone.filter Rec.isContent).map (·.stop))) } }
    let slots := ((gone.filter fun r => r.kind = 4).map fun r => r.handle % 2 ^ 20).eraseDups
    let c := c.forAll (slots.filter fun i => !c.strm.recs.any fun r => r.kind = 4 && r.handle % 2 ^ 20 = i)
      Chip.freeSlot
    (c.wakeKind 8).wakeKind 9

/-- The active count: content records with END above w0 (R85). -/
def Chip.activeCount (c : Chip) : Nat :=
  (c.strm.live.filter fun e => (c.w 0 0).toNat < e.2).length

/-- The stream is full: 8,388,608 records are outstanding (R86). -/
def Chip.streamFull (c : Chip) : Bool := decide (8388608 ≤ c.strm.recs.length)

/-- Appends a record to the stream with the next SEQ (R78). -/
def Chip.appendRec (c : Chip) (r : Rec) (keep : Bool) : Chip :=
  let r := { r with seq := c.get SEQ_PSEQ_NEXT_SEQ }
  let c := c.count SEQ_PSEQ_NEXT_SEQ
  let live := if r.isContent && keep then c.strm.live.filter (fun e => (c.w 0 0).toNat < e.2) ++ [(r.seq, r.stop)]
              else c.strm.live
  let c : Chip := { c with strm := { c.strm with
    recs := if keep then c.strm.recs ++ [r] else c.strm.recs,
    live := live } }
  let c := if c.get SEQ_PSTAT_PEAK < c.activeCount then c.set SEQ_PSTAT_PEAK c.activeCount else c
  (c.jrn .record (b2n keep :: r.nums)).retire

/-- A late record: counted and reported at degrade (R91). -/
def Chip.noteLate (c : Chip) (discarded : Bool) : Chip :=
  (if discarded then c.bump SEQ_PLATE_DISCARDED else c.bump SEQ_PLATE_CLIPPED).raise .seq 0 { src := 2 }

/-! ### Placement (R83 to R88) -/

/-- The record that a descriptor asks for, with START w0 and END left open. -/
def parseDesc (d : List Byte) : Rec :=
  { start := 0, stop := 0, seq := 0, kind := fieldAt d 20 1, layer := fieldAt d 21 1, op := fieldAt d 22 1,
    flags := fieldAt d 23 1, bars := fieldAt d 24 2, col := fieldAt d 28 4, width := fieldAt d 32 4,
    handle := fieldAt d 36 4, phase := fieldAt d 40 8, param := fieldAt d 48 8, maskh := fieldAt d 56 4 }

/-- PLACE_DESC (R84). -/
def descBad (d : List Byte) (pitch : Nat) : Bool :=
  let r := parseDesc d
  let rot := r.flags % 4
  !r.isContent || decide (2 < r.op) || fieldAt d 26 2 ≠ 0 || decide (16 ≤ r.flags) || bit r.flags 2 ||
  (r.kind = 1 && decide (2 ^ 18 ≤ r.param)) || (r.kind = 2 && decide (2 ^ 58 ≤ r.param)) ||
  (r.kind ≠ 4 && (rot ≠ 0 || bit r.flags 3)) || ((rot = 1 || rot = 3) && pitch ≠ 3) || r.bars = 0 ||
  decide (163839 < r.col) || r.width = 0 || decide (163840 < r.width) ||
  (r.kind = 2 && (bits r.param 0 32 = 0 || bits r.param 32 18 = 0 || decide (163840 < bits r.param 32 18))) ||
  (r.kind = 3 && r.handle ≠ 0) || (r.op ≠ 1 && r.maskh ≠ 0)

/-- HANDLE (R84, R119). -/
def handleBad (s : State) (r : Rec) : Bool :=
  ((r.kind = 1 || r.kind = 2) && !usable s r.handle [1, 2, 3, 4]) ||
  (r.kind = 4 && !s.chip.slotUsable r.handle) ||
  (r.op = 1 && !usable s r.maskh [5])

/-- The length operand: IMM or gB, signed. -/
def Chip.length (c : Chip) (n : Nat) (f : Fields) : Int := (c.op2 n f).toInt

/-- CONTEXT_OP outside context 0. -/
def ctx0Only (n : CtxId) : List Nat := trapIf (n.val ≠ 0) CONTEXT_OP

/-- Marks the slot of a FIELD record as placed. -/
def Chip.markPlaced (c : Chip) (r : Rec) : Chip :=
  if r.kind = 4 then
    let i := r.handle % 2 ^ 20
    { c with vd := { c.vd with slots := FMap.put {} c.vd.slots i { c.slot i with placed := true } } }
  else c

/-- Issues a placement record at w0 (R83, R90, R91): a late one has its START raised to the horizon, or is discarded. -/
def Chip.place (c : Chip) (n gd : Nat) (r : Rec) (len : Nat) : Chip :=
  let w0 := (c.w 0 0).toNat
  let h := c.maskHorizon r.bars
  let late := decide (w0 < h)
  let stop := w0 + len
  let start := if late then h else w0
  let r := { r with start := start, stop := stop, flags := if late then r.flags + 4 else r.flags }
  let gone := late && decide (stop ≤ start)
  let seq := c.get SEQ_PSEQ_NEXT_SEQ
  let c := if gone then c else c.markPlaced r
  let c := c.appendRec r (!gone)
  let c := if late then c.noteLate gone else c
  let v := seq + (if late then 2 ^ 62 else 0) + (if gone then 2 ^ 63 else 0)
  ((c.setG n gd (BitVec.ofNat 64 v)).next n).ckpt n

def execPlace (n : CtxId) (f : Fields) (ecc : Ecc) (s : State) : Host.Outcome State Fault Refusal :=
  let a := (s.chip.g n f.ga.toNat).toNat
  let d := s.mem.data.read a 64
  let r := parseDesc d
  let len := s.chip.length n f
  let w0 := (s.chip.w 0 0).toNat
  let traps := resvOp2 f 1 ++ ctx0Only n ++ dTraps a 64 64 ++
    trapIf (decide (2 ^ 64 ≤ (w0 : Int) + len)) OVERFLOW ++ trapIf (descBad d s.chip.pitch) PLACE_DESC ++
    trapIf (decide (len ≤ 0)) PLACE_LENGTH ++ trapIf (decide (256 ≤ s.chip.activeCount)) PLACE_LIMIT ++
    trapIf (bit (subOf f) 0 && decide (w0 < s.chip.maskHorizon r.bars)) PLACE_LATE ++
    trapIf (handleBad s r) HANDLE
  .next (issueD n ecc traps
    (fun s => s.onChip fun c => if c.streamFull then c.stall n 8 else c.place n f.gd.toNat r len.toNat) s)

/-- The outstanding content record with a SEQ and END above w0, the target of a `trunc` (R87). -/
def Chip.truncTarget (c : Chip) (seq : Nat) : Option Rec :=
  c.strm.recs.find? fun r => r.isContent && r.seq = seq && decide ((c.w 0 0).toNat < r.stop)

/-- Gives a record a new END, in the stream and for the active count. -/
def Chip.setEnd (c : Chip) (seq stop : Nat) : Chip :=
  { c with strm := { c.strm with
      recs := c.strm.recs.map (fun r => if r.isContent ∧ r.seq = seq then { r with stop := stop } else r),
      live := c.strm.live.map (fun e => if e.1 = seq then (seq, stop) else e) } }

/-- Ends record r at w0, or, when late, no earlier than the horizon (R87, R91). -/
def Chip.truncate (c : Chip) (n gd : Nat) (r : Rec) : Chip :=
  let w0 := (c.w 0 0).toNat
  let h := c.maskHorizon r.bars
  let late := decide (w0 < h)
  let stop := if late then min r.stop (max w0 (max h r.start)) else max w0 r.start
  let seq := c.get SEQ_PSEQ_NEXT_SEQ
  let c := c.setEnd r.seq stop
  let c := c.appendRec { start := if late then h else w0, stop := stop, seq := 0, kind := 6, bars := r.bars,
                         param := r.seq, flags := if late then 4 else 0 } false
  let c := if late then c.noteLate false else c
  ((c.setG n gd (BitVec.ofNat 64 seq)).next n).ckpt n

def execTrunc (n : CtxId) (f : Fields) (s : State) : Host.Outcome State Fault Refusal :=
  let seq := (s.chip.g n f.ga.toNat).toNat % 2 ^ 32
  let r := s.chip.truncTarget seq
  let late := r.any fun r => decide ((s.chip.w 0 0).toNat < s.chip.maskHorizon r.bars)
  .next (issueC n (resvRaw f 1 true true false false ++ ctx0Only n ++ trapIf r.isNone TRUNC_ID ++
    trapIf (bit (subOf f) 0 && late) PLACE_LATE)
    (fun c => match r with
      | some r => if c.streamFull then c.stall n 8 else c.truncate n f.gd.toNat r
      | none => c) s)

/-- Posts the event of a MARK; a unit that does not run the program posts none (R88, R379). -/
def Chip.postMark (c : Chip) (code data tenants : Nat) : Chip := if c.runs then c.event tenants 46 code data else c

/-- The marks whose row has passed their bar's nozzle line are posted and retire (R88). -/
def Chip.checkMarks (c : Chip) : Chip :=
  let due := c.strm.recs.filter fun r =>
    r.kind = 5 && decide ((firstRow c.pitch r.start : Int) ≤ (c.bar r.markBar).rk)
  if due.isEmpty then c
  else
    let c := { c with strm := { c.strm with recs := c.strm.recs.filter fun r => !due.contains r } }
    (c.forAll due fun c r => c.postMark r.markCode r.markData r.markTenants).wakeKind 8

def execPmark (n : CtxId) (f : Fields) (s : State) : Host.Outcome State Fault Refusal :=
  let im := immOf f
  let k := im % 16
  let code := (s.chip.g n f.ga.toNat).toNat % 65536
  let data := (s.chip.g n f.gb.toNat).toNat
  let w0 := (s.chip.w 0 0).toNat
  .next (issueC n (resvRaw f 0 true true true true ++ ctx0Only n ++
    trapIf (!(s.chip.setOf k).enabled k || bit code 15 || bits im 4 4 ≠ 0 || decide (65536 ≤ im)) MARK_ARG)
    (fun c =>
      if c.streamFull then c.stall n 8
      else
        let seq := c.get SEQ_PSEQ_NEXT_SEQ
        let past := decide ((firstRow c.pitch w0 : Int) ≤ (c.bar k).rk)
        let c := c.appendRec { start := w0, stop := w0, seq := 0, kind := 5, bars := 2 ^ k, phase := data,
                               param := code + 65536 * bits im 8 8, markBar := k, markCode := code, markData := data,
                               markTenants := bits im 8 8 } (!past)
        let c := if past then c.postMark (code + 32768) data (bits im 8 8) else c
        ((c.setG n f.gd.toNat (BitVec.ofNat 64 seq)).next n).ckpt n) s)

/-! ### The end of the stream (R89) -/

/-- Where print ends: the greater of the CLOSE point and the greatest END of any record, as truncated (R87, R89). -/
def Chip.streamEnd (c : Chip) : Option Nat :=
  c.strm.closePt.map fun p => max (max p c.strm.maxEnd) (greatest ((c.strm.recs.filter Rec.isContent).map (·.stop)))

/-- The job prints: its stream is open, or closed with rows below its end still to be started or to leave a ring (R89, R202;
assumption 18). -/
def Chip.printing (c : Chip) : Bool :=
  c.strm.job && (c.is SEQ_PSTAT_OPEN || (match c.streamEnd with
    | some e => c.enabledBars.any fun k => !c.startedPast k e || (c.bar k).ring.any fun x => decide (rowPoint c.pitch x.n < e)
    | none => false))

/-- Event 0x0001 to T0 when the last enabled bar has started a row at or beyond the stream end (R89). -/
def Chip.checkEnd (c : Chip) : Chip :=
  match c.streamEnd with
  | none => c
  | some e =>
    if !c.strm.endPosted && c.enabledBars.all (c.startedPast · e) then
      let c : Chip := { c with strm := { c.strm with endPosted := true } }
      if c.runs then c.event 1 46 0x0001 0 else c
    else c

/-- HALT: context 0 closes the stream at w0 and enters HALTED; a handler ends its dispatch (R71, R89). -/
def execHalt (n : CtxId) (f : Fields) (s : State) : Host.Outcome State Fault Refusal :=
  .next (issueC n (resvRaw f 0 false false false false)
    (fun c =>
      let c := c.next n
      if n.val = 0 then
        let w0 := (c.w 0 0).toNat
        let c := c.appendRec { start := w0, stop := w0, seq := 0, kind := 15 } false
        let c := ({ c with strm := { c.strm with closePt := some w0 } } : Chip).closeStream
        ((c.noteBehind.setCtxState 0 HALTED).ckpt 0).checkEnd
      else c.endDispatch n) s)

/-! ### System instructions (R71) and dispatch -/

def execNop (n : CtxId) (f : Fields) (s : State) : Host.Outcome State Fault Refusal :=
  .next (issueC n (resvRaw f 0 false false false false) (·.next n) s)

/-- Opcode 0xF1 raises the software trap IMM[7:0], and RESERVED_FIELD where its code is below 0x80 or another field is not 0; an
opcode with no instruction raises ILLEGAL_OP (R62, R71). The opcode of another instruction is no `trap`: not well formed, no effect. -/
def execTrap (n : CtxId) (w : OpWord) (s : State) : Host.Outcome State Fault Refusal :=
  let f := w.f
  let reserved := resvRaw f 0 false false false true ++ trapIf (decide (immOf f < 128) || decide (256 ≤ immOf f)) RESERVED_FIELD
  .next (if w.op = 0xF1 then issueC n (if reserved.isEmpty then [immOf f] else reserved) id s
    else if definedOp w.op.toNat then s else issueC n [ILLEGAL_OP] id s)

/-- Waits with KIND 6 for FENCE_DONE; neither M nor Q raises ILLEGAL_OP. Stores are visible at once in this model. -/
def execFence (n : CtxId) (f : Fields) (s : State) : Host.Outcome State Fault Refusal :=
  .next (issueC n (trapIf (subOf f % 4 = 0) ILLEGAL_OP ++ resvRaw f 3 false false false false)
    (fun c => c.pend n 6 (.fence (bit (subOf f) 1))) s)

/-- A fence with Q ends once every earlier `qsend` and `evpost` of its context is in its host ring (R71). -/
def execFenceDone (t : Nat) (n : CtxId) (s : State) : Host.Outcome State Fault Refusal :=
  .next ((s.at_ t).onChip fun c =>
    match c.pendOp n with
    | some (.fence q) => if q && !c.allSent n then c else (c.unpend n).next n
    | _ => c)

def execHandlerDispatch (t : Nat) (s : State) : Host.Outcome State Fault Refusal :=
  .next ((s.at_ t).onChip fun c => if c.runs && !c.is TW_STAT_HANDOFF then c.dispatch else c)

/-- A corrected read is a notice on EV44 (R114). -/
def execJobStoreAccessDone (t : Nat) (n : CtxId) (r : Ecc) (s : State) : Host.Outcome State Fault Refusal :=
  .next (jobStoreDone n (r = .uncorrectable) ((s.at_ t).onChip fun c =>
    if (c.pendOp n).isSome then c.jobStoreRead r else c))

end Sys2Proof.Machine
end

