-- ==== Sys2Proof/Machine/Tile.lean ====
section
/-!
DEFINITION. Sys2Proof/Machine/Tile.lean: the tile layout (R120 to R124), the codec stream format with its decoder
(R126 to R129) and the compressor's cutting (R130 to R133).
-/
namespace Sys2Proof.Machine

/-! ### Tile layout (Table 5-3) -/

/-- The fields of a tile header. -/
structure Tile where
  fmt : Nat
  nch : Nat
  pitch : Nat
  spot : Nat
  ws : Nat
  hs : Nat
  bandCols : Nat
  segRows : Nat
  nband : Nat
  nseg : Nat
  tlen : Nat
deriving DecidableEq, Repr

def parseTile (h : List Byte) : Tile :=
  { fmt := fieldAt h 0 1, nch := fieldAt h 1 1, pitch := fieldAt h 2 1, spot := fieldAt h 3 1, ws := fieldAt h 4 4,
    hs := fieldAt h 8 4, bandCols := fieldAt h 12 4, segRows := fieldAt h 16 4, nband := fieldAt h 20 4,
    nseg := fieldAt h 24 4, tlen := fieldAt h 28 8 }

/-- Columns of band b and rows of segment s (R123). -/
def Tile.cols (t : Tile) (b : Nat) : Nat := if b + 1 < t.nband then t.bandCols else t.ws - (t.nband - 1) * t.bandCols
def Tile.rows (t : Tile) (s : Nat) : Nat := if s + 1 < t.nseg then t.segRows else t.hs - (t.nseg - 1) * t.segRows

/-- Bytes of a band row of `n` columns (R121, Table 5-4). -/
def Tile.rowBytes (t : Tile) (n : Nat) : Nat :=
  match t.fmt with
  | 1 => t.nch * n
  | 2 => 2 * t.nch * n
  | 3 => n
  | 4 => 2 * n
  | _ => ceilDiv n 8

/-- Decoded length of stream (s, b). -/
def Tile.decoded (t : Tile) (s b : Nat) : Nat := t.rows s * t.rowBytes (t.cols b)

/-- Offset of the stream index: after the header, and after the directory of a glyph set. -/
def Tile.indexAt (t : Tile) : Nat := 64 + (if t.fmt = 6 then 2048 else 0)

/-- Offset of index entry i. -/
def Tile.entryAt (t : Tile) (i : Nat) : Nat := t.indexAt + 16 * i

/-- Cache lines that the decoded tile needs (R141). -/
def Tile.lines (t : Tile) : Nat :=
  (List.range t.nseg).foldl (fun n s => (List.range t.nband).foldl (fun n b => n + ceilDiv (t.decoded s b) 1024) n) 0

/-! ### The stream decoder (R126 to R129) -/

/-- Copies a match byte by byte; `out` holds the decoded bytes, the latest first. -/
def copyMatch : Nat → Nat → List Byte → List Byte
  | 0, _, out => out
  | n + 1, d, out => copyMatch n d (out.getD (d - 1) 0 :: out)

/-- A codeword: its size in the payload, and either literal bytes or a match (length, distance). -/
inductive Codeword where
  | literal (bs : List Byte)
  | copy (len dist : Nat)
deriving DecidableEq, Repr

/-- The first codeword of a payload with its size (Table 5-7); none when it runs past the payload. -/
def codeword (p : List Byte) : Option (Codeword × Nat) :=
  match p with
  | [] => none
  | x :: rest =>
    let v := x.toNat
    let l := v % 64
    match v / 64 with
    | 0 => if l + 1 ≤ rest.length then some (.literal (rest.take (l + 1)), l + 2) else none
    | 1 => if 1 ≤ rest.length then some (.copy (l / 8 + 3) (l % 8 * 256 + fieldAt rest 0 1 + 1), 2) else none
    | 2 => if 2 ≤ rest.length then some (.copy (l + 3) (fieldAt rest 0 2 + 1), 3) else none
    | _ => if 3 ≤ rest.length then some (.copy (l * 256 + fieldAt rest 0 1 + 67) (fieldAt rest 1 2 + 1), 4) else none

/-- Decodes a CODED payload: `todo` decoded bytes are still due in the block, `reach` bytes may be reached back. Gives the
output and whether the payload was well formed. `fuel` bounds the codewords. -/
def decodeCoded : Nat → List Byte → Nat → Nat → List Byte → List Byte × Bool
  | 0, p, todo, _, out => (out, p.isEmpty && todo = 0)
  | fuel + 1, p, todo, reach, out =>
    if p.isEmpty then (out, todo = 0)
    else match codeword p with
      | none => (out, false)
      | some (.literal bs, k) =>
        if bs.length ≤ todo then
          decodeCoded fuel (p.drop k) (todo - bs.length) (reach + bs.length) (bs.reverse ++ out)
        else (out, false)
      | some (.copy len dist, k) =>
        if len ≤ todo ∧ dist ≤ reach ∧ dist ≤ 65536 then
          decodeCoded fuel (p.drop k) (todo - len) (reach + len) (copyMatch len dist out)
        else (out, false)

/-- Decodes n blocks: `reach` counts the bytes since the latest KEY block began. Gives the output (latest byte first), the
bytes after the blocks, and whether all was well formed. -/
def decodeBlocks : Nat → List Byte → Nat → List Byte → List Byte × List Byte × Bool
  | 0, p, _, out => (out, p, true)
  | n + 1, p, reach, out =>
    if p.length < 4 then (out, p, false)
    else
      let h := fieldAt p 0 4
      let dlen := bits h 16 14 + 1
      let clen := bits h 0 16
      let payload := (p.drop 4).take clen
      let reach := if bit h 30 then 0 else reach
      if payload.length < clen then (out, p, false)
      else if bit h 31 then
        if clen = 0 ∨ dlen ≤ clen then (out, p, false)
        else
          let (out, ok) := decodeCoded clen payload dlen reach out
          if ok then decodeBlocks n (p.drop (4 + clen)) (reach + dlen) out else (out, p, false)
      else if clen ≠ dlen then (out, p, false)
      else decodeBlocks n (p.drop (4 + clen)) (reach + dlen) (payload.reverse ++ out)

/-- Decodes a stream of a KIND from the bytes given: what it decoded, and whether R129 accepts it. `exact` says that the
bytes are the stream's given length. -/
def decodeStream (bs : List Byte) (kind : Nat) (exact : Bool) : List Byte × Bool :=
  if bs.length < 20 ∨ fieldAt bs 0 1 ≠ 1 ∨ fieldAt bs 1 1 ≠ kind ∨ fieldAt bs 2 2 ≠ 0 then ([], false)
  else
    let ulen := fieldAt bs 4 8
    let (out, rest, ok) := decodeBlocks (fieldAt bs 12 4) (bs.drop 16) 0 []
    let out := out.reverse
    (out, ok && out.length = ulen && decide (4 ≤ rest.length) && (!exact || rest.length = 4) &&
      decide (fieldAt rest 0 4 = crc32 out))

/-! ### The compressor (R130 to R133) -/

/-- Cuts a list into pieces of k; fuel bounds their number. -/
def pieces (k : Nat) : Nat → List Byte → List (List Byte)
  | 0, _ => []
  | n + 1, xs => if xs.isEmpty then [] else xs.take k :: pieces k n (xs.drop k)

/-- One block: header and payload as two units of emission. -/
def block (coded key : Bool) (dlen : Nat) (payload : List Byte) : List (List Byte) :=
  [le 4 (b2n coded * 2 ^ 31 + b2n key * 2 ^ 30 + (dlen - 1) * 65536 + payload.length), payload]

/-- A piece as STORED blocks of 1,024 bytes; KEY on the first when asked. -/
def storedBlocks (key : Bool) (piece : List Byte) : List (List Byte) :=
  match pieces 1024 (piece.length + 1) piece with
  | [] => []
  | x :: xs => block false key x.length x ++ xs.flatMap fun y => block false false y.length y

/-- Splits a CODED payload into codewords, the units of emission (R136). -/
def codewords : Nat → List Byte → List (List Byte)
  | 0, _ => []
  | n + 1, p => match codeword p with
    | none => []
    | some (_, k) => p.take k :: codewords n (p.drop k)

/-- The units of one piece at offset off of the input: one CODED block when the compressor's codewords are shorter than
the piece and decode to it, STORED blocks otherwise. Piece number `i` in `bad` mismatched at the verifier (R133) and is
STORED. Gives the number of blocks too. -/
def pieceUnits (kind : Nat) (input : List Byte) (off i : Nat) (piece : List Byte) (bad : List Nat) :
    List (List Byte) × Nat :=
  let key := off = 0 || (kind = 1 && off % 4194304 = 0)
  let p := Config.codedPayload kind input off
  let since := if kind = 1 then off % 4194304 else off
  let good := decide (1 ≤ p.length ∧ p.length < piece.length) &&
    (match decodeCoded p.length p piece.length since (input.take off).reverse with
     | (out, ok) => ok && (out.take piece.length).reverse == piece)
  if good && !bad.contains i then (block true key piece.length p |>.take 1 |> (· ++ codewords p.length p), 1)
  else (storedBlocks key piece, ceilDiv piece.length 1024)

/-- The pieces with their numbers, cut at 16,384 bytes. -/
def inputPieces (input : List Byte) : List (Nat × List Byte) :=
  let ps := pieces 16384 (input.length / 16384 + 1) input
  (List.range ps.length).zip ps

/-- The units of emission of a whole stream: header, blocks, trailer (R126, R130). -/
def compressUnits (kind : Nat) (input : List Byte) (bad : List Nat) : List (List Byte) :=
  let parts := (inputPieces input).map fun e => pieceUnits kind input (16384 * e.1) e.1 e.2 bad
  let nblk := parts.foldl (fun n p => n + p.2) 0
  (le 1 1 ++ le 1 kind ++ zeros 2 ++ le 8 input.length ++ le 4 nblk) :: parts.flatMap (·.1) ++ [le 4 (crc32 input)]

/-- The units that fit in a capacity, taken in order up to the first that does not (R136): their bytes and whether all
fit. -/
def emitUnits : List (List Byte) → Nat → List Byte × Bool
  | [], _ => ([], true)
  | u :: us, room =>
    if u.length ≤ room then
      let (bs, ok) := emitUnits us (room - u.length)
      (u ++ bs, ok)
    else ([], false)

/-! ### SEAL checks (R125) -/

/-- n is a power of two. -/
def isPow2 (n : Nat) : Bool := n ≠ 0 && 2 ^ n.log2 = n

/-- Check 2: every field range of Tables 5-3 and 5-4. -/
def Tile.rangesOk (t : Tile) (h : List Byte) : Bool :=
  decide (1 ≤ t.fmt ∧ t.fmt ≤ 6) &&
  (if t.fmt ≤ 2 then decide (1 ≤ t.nch ∧ t.nch ≤ 4) else t.nch = 1) && decide (t.pitch ≤ 5) &&
  (if t.fmt = 3 ∨ t.fmt = 4 then decide (t.spot ≤ 7) else t.spot = 0) &&
  decide (1 ≤ t.ws ∧ t.ws ≤ 163840) && decide (1 ≤ t.hs ∧ t.hs ≤ (if t.fmt = 6 then 4096 else 2 ^ 31)) &&
  isPow2 t.bandCols && decide (64 ≤ t.bandCols ∧ t.bandCols ≤ 16384) &&
  isPow2 t.segRows && decide (8 ≤ t.segRows ∧ t.segRows ≤ 1024) && zeroAt h 36 24

/-- Check 3: NBAND, NSEG and the 65,536-byte limit of a stream. -/
def Tile.cutOk (t : Tile) : Bool :=
  t.nband = ceilDiv t.ws t.bandCols && t.nseg = ceilDiv t.hs t.segRows &&
    decide (min t.segRows t.hs * t.rowBytes (min t.bandCols t.ws) ≤ 65536)

/-- Check 5: directory entry k of a glyph set. -/
def glyphOk (t : Tile) (e : List Byte) : Bool :=
  let gx := fieldAt e 0 4
  let gw := fieldAt e 4 2
  let adv := fieldAt e 6 2
  decide (gx < 2 ^ 18) && decide (gw ≤ 1024) && decide (adv ≤ 2048) && decide (gw ≤ adv) && decide (gx + gw ≤ t.ws)

/-- Index entry i: offset and length. -/
def Tile.entry (t : Tile) (job : ByteMem) (start i : Nat) : Nat × Nat :=
  (unle (job.read (start + t.entryAt i) 8), unle (job.read (start + t.entryAt i + 8) 4))

/-- Check 6 for entry i among n. -/
def Tile.entryOk (t : Tile) (job : ByteMem) (start i : Nat) : Bool :=
  let n := t.nseg * t.nband
  let (o, l) := t.entry job start i
  unle (job.read (start + t.entryAt i + 12) 4) = 0 && decide (t.entryAt n ≤ o) && decide (o + l ≤ t.tlen) &&
    (List.range n).all fun j =>
      let (o', l') := t.entry job start j
      j = i || decide (o + l ≤ o') || decide (o' + l' ≤ o)

/-- The decoded bytes of stream (s, b), none when the decoder rejects it or its length is not the one expected. -/
def Tile.stream (t : Tile) (job : ByteMem) (start s b : Nat) : Option (List Byte) :=
  let (o, l) := t.entry job start (s * t.nband + b)
  let (out, ok) := decodeStream (job.read (start + o) l) 0 true
  if ok && out.length = t.decoded s b then some out else none

/-- SEAL with kind TILE: the first failed check, with (s, b) for checks 6 and 7; (0, 0, 0) when all pass. -/
def sealChecks (job : ByteMem) (start size : Nat) : Nat × Nat × Nat :=
  let h := job.read start 64
  let t := parseTile h
  if fieldAt h 60 4 ≠ crc32 (h.take 60) then (1, 0, 0)
  else if !t.rangesOk h then (2, 0, 0)
  else if !t.cutOk then (3, 0, 0)
  else if size * 65536 < t.tlen then (4, 0, 0)
  else if t.fmt = 6 ∧ (List.range 256).any (fun k => !glyphOk t (job.read (start + 64 + 8 * k) 8)) then (5, 0, 0)
  else
    let n := t.nseg * t.nband
    match (List.range n).find? fun i => !t.entryOk job start i with
    | some i => (6, i / t.nband, i % t.nband)
    | none => match (List.range n).find? fun i => (t.stream job start (i / t.nband) (i % t.nband)).isNone with
      | some i => (7, i / t.nband, i % t.nband)
      | none => (0, 0, 0)

/-! ### Pixels (R121, R122) -/

/-- A pixel of a tile at row i, column j of the tile: its channel values widened to 16 bits, or its M1/G1 bit. -/
def Tile.pixel (t : Tile) (job : ByteMem) (start i j : Nat) : List Nat :=
  let s := i / t.segRows
  let b := j / t.bandCols
  let out := (t.stream job start s b).getD []
  let row := (i % t.segRows) * t.rowBytes (t.cols b)
  let x := j % t.bandCols
  match t.fmt with
  | 1 => (List.range t.nch).map fun c => fieldAt out (row + x * t.nch + c) 1 * 257
  | 2 => (List.range t.nch).map fun c => fieldAt out (row + 2 * (x * t.nch + c)) 2
  | 3 => [fieldAt out (row + x) 1 * 257]
  | 4 => [fieldAt out (row + 2 * x) 2]
  | _ => [b2n (bit (fieldAt out (row + x / 8) 1) (x % 8))]

end Sys2Proof.Machine
end

