-- ==== Sys2Proof/Machine/Store.lean ====
section
/-!
DEFINITION. Sys2Proof/Machine/Store.lean: the job store commands, codec jobs, timed frames and the scrub (R113 to R118, R125, R130 to
R138, R141, R327, R340, R345).
-/
namespace Sys2Proof.Machine

/-! ### Status codes (Table 5-9) -/

def jsNO_SPACE : Nat := 0x01
def jsVERIFY : Nat := 0x02
def jsSTREAM : Nat := 0x03
def jsSTALL : Nat := 0x04
def jsRIGHTS : Nat := 0x05
def jsRANGE : Nat := 0x06
def jsIN_USE : Nat := 0x07
def jsQUOTA : Nat := 0x08
def jsBUSY : Nat := 0x09
def jsUNCORR : Nat := 0x0A
def jsSTALE : Nat := 0x0B
def jsFORMAT : Nat := 0x0C
def jsPIN_FULL : Nat := 0x0D
def jsABSENT : Nat := 0x0E

/-! ### The allocator (R113, R115, R117) -/

/-- Granules of the allocatable area. -/
def granules : Nat := 393216

/-- A run of n granules from base overlaps no allocation. -/
def Store.runFree (st : Store) (base n : Nat) : Bool :=
  decide (base + n ≤ granules) && st.allocs.all fun x => decide (x.base + x.size ≤ base) || decide (base + n ≤ x.base)

/-- Where a free run can begin: granule 0 and the end of every allocation. -/
def Store.starts (st : Store) : List Nat := 0 :: st.allocs.map fun x => x.base + x.size

/-- The lowest-addressed free run of n granules. -/
def Store.place (st : Store) (n : Nat) : Option Nat :=
  match st.starts.filter (st.runFree · n) with
  | [] => none
  | x :: xs => some (xs.foldl min x)

/-- Granules in use, in all and by tenant t; free granules; the longest free run. -/
def Store.used (st : Store) (p : Alloc → Bool) : Nat := ((st.allocs.filter p).map (·.size)).foldl (· + ·) 0
def Store.freeGranules (st : Store) : Nat := granules - st.used fun _ => true
def Store.largest (st : Store) : Nat :=
  greatest (st.starts.map fun b =>
    if st.allocs.any (fun x => x.base ≤ b && b < x.base + x.size) then 0
    else leastOr granules ((st.allocs.filter fun x => b ≤ x.base).map (·.base)) - b)

/-- The lowest index that names no allocation. -/
def Store.freeIndex (st : Store) : Option Nat :=
  ((List.range 65536).drop 1).find? fun i => !st.allocs.any fun x => x.index = i

/-- Replaces the allocation with the same index. -/
def Store.update (st : Store) (x : Alloc) : Store :=
  { st with allocs := st.allocs.map fun y => if y.index = x.index then x else y }

def Chip.setStore (c : Chip) (st : Store) : Chip := { c with store := st }

/-- The attributes of an allocation as a journal ALLOC entry carries them (Table 15-5). -/
def Chip.jrnAlloc (c : Chip) (x : Alloc) (live : Bool) : Chip := c.jrn .alloc (b2n live :: x.nums)

/-- Changes an allocation's attributes, with its journal entry. -/
def Chip.putAlloc (c : Chip) (x : Alloc) : Chip := (c.setStore (c.store.update x)).jrnAlloc x true

/-- An allocation is in use (R118). -/
def Chip.inUse (c : Chip) (x : Alloc) : Bool :=
  let h := x.handle
  c.strm.recs.any (fun r => ((r.kind = 1 || r.kind = 2) && r.handle = h) || (r.isContent && r.op = 1 && r.maskh = h)) ||
  c.vd.slots.any (fun e => match e.2.content with
    | some (.text g _ _) => g = h
    | _ => false) ||
  c.store.jobs.any fun j => !j.twin && (j.src = h || (j.op ≠ .sealTile && j.dst = h))

/-- Forgets the cached streams of an allocation. -/
def Store.dropCached (st : Store) (h : Nat) : Store := { st with lines := st.lines.filter fun y => y.h ≠ h }

/-! ### Pinned lines (R141) -/

/-- The tile of an allocation. -/
def tileOf (job : ByteMem) (x : Alloc) : Tile := parseTile (job.read x.start 64)

/-- Lines that the pinned tiles other than x need. -/
def pinnedLines (s : State) (x : Alloc) : Nat :=
  ((s.chip.store.allocs.filter fun y => y.isSealed && y.tile && y.pin && y.index ≠ x.index).map fun y =>
    (tileOf s.mem.job y).lines).foldl (· + ·) 0

/-- Pinning x would pass 1,024 lines. -/
def pinFull (s : State) (x : Alloc) : Bool := decide (1024 < pinnedLines s x + (tileOf s.mem.job x).lines)

/-! ### Commands of the allocator -/

/-- A job store command: it waits while MR is under self-test (R426) and completes ABSENT while its domain is off. -/
def storeCommand (t : Nat) (q opc : Nat) (grant : Option Nat) (body : InDesc → State → State) (s : State) : State :=
  if s.chip.testing 4 then s.at_ t
  else hostCommand t q opc 0 grant (fun x s =>
    let s := if s.chip.get (QM_QCFG_CLASS q) = 1 then
      { s with chip := { s.chip with hosts := { s.chip.hosts with lastB := s.chip.ns } } } else s
    if s.chip.regionOn 4 then body x s else s.done q x jsABSENT) s

/-- The tenant t owns allocation x, or is T0. -/
def Alloc.ownedBy (x : Alloc) (t : Nat) : Bool := t = 0 || x.owner = t

/-- Runs f on the allocation that PARAM 16 to 19 names: STALE when there is none, RIGHTS when the tenant is neither owner
nor T0. -/
def withOwned (q : Nat) (x : InDesc) (s : State) (f : Alloc → State → State) : State :=
  match s.chip.store.find (x.param 16 4) with
  | none => s.done q x jsSTALE
  | some a => if a.ownedBy (s.chip.qTenant q) then f a s else s.done q x jsRIGHTS

/-- ALLOC (R113, R115, R117). The generation with which an index starts is not given: 0 (DESIGN CHOICE, assumption 26). -/
def allocBody (q : Nat) (x : InDesc) (s : State) : State :=
  let n := x.param 16 4
  let pin := x.param 20 1
  let t := s.chip.qTenant q
  let st := s.chip.store
  if 1 < pin then s.done q x stFORMAT
  else if n = 0 ∨ granules < n then s.done q x jsRANGE
  else if s.chip.get (JS_QUOTA_QUOTA t) < st.used (fun y => y.owner = t) + n then s.done q x jsQUOTA
  else match st.place n, st.freeIndex with
    | some b, some i =>
      let m := 2 ^ t ||| 1
      let a : Alloc := { index := i, gen := FMap.get 0 st.gens i, base := b, size := n, owner := t, rd := m, wr := m,
                         pin := pin = 1 }
      let s := s.onChip fun c => (c.setStore { st with allocs := st.allocs ++ [a] }).jrnAlloc a true
      s.done q x stOK (le 4 a.handle)
    | _, _ => s.done q x jsNO_SPACE

def freeBody (q : Nat) (x : InDesc) (s : State) : State :=
  withOwned q x s fun a s =>
    if s.chip.inUse a then s.done q x jsIN_USE
    else
      let st := s.chip.store
      let st := { st with allocs := st.allocs.filter (fun y => y.index ≠ a.index),
                          gens := FMap.put 0 st.gens a.index ((a.gen + 1) % 4096) }
      (s.onChip fun c => (c.setStore (st.dropCached a.handle)).jrnAlloc a false).done q x stOK

def setrightsBody (q : Nat) (x : InDesc) (s : State) : State :=
  withOwned q x s fun a s =>
    let fl := x.param 22 1
    let new := { a with rd := x.param 20 1, wr := x.param 21 1, jobr := bit fl 0, jobw := bit fl 1, pin := bit fl 2 }
    if 8 ≤ fl then s.done q x stFORMAT
    else if a.jobr ∧ !new.jobr ∧ s.chip.inUse a then s.done q x jsIN_USE
    else if new.pin ∧ !a.pin ∧ a.isSealed ∧ a.tile ∧ pinFull s a then s.done q x jsPIN_FULL
    else (s.onChip (·.putAlloc new)).done q x stOK

def unsealBody (q : Nat) (x : InDesc) (s : State) : State :=
  withOwned q x s fun a s =>
    if !a.isSealed then s.done q x jsRIGHTS
    else if s.chip.inUse a then s.done q x jsIN_USE
    else (s.onChip fun c => (c.setStore (c.store.dropCached a.handle)).putAlloc { a with isSealed := false }).done q x stOK

/-! ### Codec jobs (R134 to R138) -/

/-- Jobs that wait. -/
def Store.waiting (st : Store) : List CodecJob := st.jobs.filter fun j => !j.running

/-- Adds a job to the queue, or completes BUSY when 256 wait. -/
def submit (q : Nat) (x : InDesc) (j : CodecJob) (s : State) : State :=
  let st := s.chip.store
  if 256 ≤ st.waiting.length then s.done q x jsBUSY
  else
    let j := { j with id := st.nextJob, queue := q, tag := x.tag, rx := x.rx, tenant := s.chip.qTenant q }
    s.onChip fun c => c.setStore { st with jobs := st.jobs ++ [j], nextJob := st.nextJob + 1 }

/-- SEAL: kind TILE is a codec job; kind DATA makes no check (R125). -/
def sealBody (q : Nat) (x : InDesc) (s : State) : State :=
  withOwned q x s fun a s =>
    let kind := x.param 20 1
    if 1 < kind then s.done q x stFORMAT
    else if a.isSealed then s.done q x jsRIGHTS
    else if kind = 1 then (s.onChip (·.putAlloc { a with isSealed := true, tile := false })).done q x stOK
    else submit q x { id := 0, op := .sealTile, src := a.handle } s

/-- COMPRESS and DECOMPRESS (R134). -/
def codecBody (op : CodecOp) (q : Nat) (x : InDesc) (s : State) : State :=
  let t := s.chip.qTenant q
  let kind := x.param 48 1
  let soff := x.param 24 8
  let doff := x.param 32 8
  let len := x.param 40 4
  let cap := x.param 44 4
  if (op = .compress ∧ kind ≠ 0 ∧ kind ≠ 2) ∨ 2 < kind then s.done q x stFORMAT
  else match s.chip.store.find (x.param 16 4), s.chip.store.find (x.param 20 4) with
    | some a, some b =>
      if !bit a.rd t ∨ !bit b.wr t ∨ b.isSealed then s.done q x jsRIGHTS
      else if soff % 64 ≠ 0 ∨ doff % 64 ≠ 0 ∨ a.size * 65536 < soff + len ∨ b.size * 65536 < doff + cap then
        s.done q x jsRANGE
      else submit q x { id := 0, op := op, src := a.handle, dst := b.handle, soff := soff, doff := doff, len := len,
                        cap := cap, kind := kind } s
    | _, _ => s.done q x jsSTALE

/-- The job that a free engine takes (R134): twin jobs first, then host jobs round-robin over tenants from the one after
the last served, in order of submission within a tenant. -/
def Store.nextToRun (st : Store) : Option CodecJob :=
  match st.waiting.find? (·.twin) with
  | some j => some j
  | none => ((List.range 8).map fun i => st.waiting.find? fun j => j.tenant = (st.lastTenant + 1 + i) % 8).findSome? id

/-- Sets the fields of job id. -/
def Store.mapJob (st : Store) (id : Nat) (f : CodecJob → CodecJob) : Store :=
  { st with jobs := st.jobs.map fun j => if j.id = id then f j else j }

/-- Engines busy. -/
def Store.running (st : Store) : List CodecJob := st.jobs.filter (·.running)

/-- A free engine starts the next job, restoring a saved context. -/
def Store.startJob (st : Store) : Store :=
  if 4 ≤ st.running.length then st
  else match st.nextToRun with
    | none => st
    | some j =>
      let st := st.mapJob j.id fun j => { j with running := true, saved := false }
      if j.twin then st else { st with lastTenant := j.tenant }

/-- A waiting twin job pre-empts running host job id at its block boundary and takes its engine; the job's context is saved (R135). -/
def Store.preempt (st : Store) (id : Nat) : Store :=
  if (st.waiting.any (·.twin)) && decide (4 ≤ st.running.length) && st.jobs.any (fun j => j.id = id && j.running && !j.twin)
  then (st.mapJob id fun j => { j with running := false, saved := true }).startJob
  else st

/-- Writes zero to the n bytes that a failed job wrote (R137). -/
def wipe (s : State) (a n : Nat) : State := if n = 0 then s else storeJ s a (zeros n)

/-- What a COMPRESS or DECOMPRESS job gives: its output, whether it fits, and the status when it does not end OK. -/
def codecResult (j : CodecJob) (input : List Byte) (bad : List Nat) : List Byte × Nat :=
  match j.op with
  | .compress =>
    let (out, fits) := emitUnits (compressUnits j.kind input bad) j.cap
    (out, if fits then stOK else jsNO_SPACE)
  | _ =>
    let (out, ok) := decodeStream input j.kind false
    if j.cap < out.length then (out.take j.cap, jsNO_SPACE) else (out, if ok then stOK else jsSTREAM)

/-- The verifier's findings in a COMPRESS job (R133). -/
def Chip.verifier (c : Chip) (bad : List Nat) (vfail : Bool) : Chip :=
  let c := c.forAll bad fun c _ => (c.bump CD_VCNT_REEMIT).raise .cd 0 { src := 0 }
  if vfail then (c.bump CD_VCNT_VFAIL).raise .cd 0 { src := 1 } else c

/-- Removes a job and completes its command. -/
def endJob (j : CodecJob) (st : Nat) (result : List Byte) (s : State) : State :=
  let s := s.onChip fun c => c.setStore { c.store with jobs := c.store.jobs.filter fun k => k.id ≠ j.id }
  s.onChip fun c => c.complete j.queue j.tag j.rx st result

/-- A host COMPRESS or DECOMPRESS job ends: an uncorrectable read ends it UNCORR, a STORED block that mismatches VERIFY;
then, as at NO_SPACE and STREAM, every byte it wrote is zeroed and length 0 reported. How much it had written before
UNCORR or VERIFY the spec leaves open (assumption 1). A destination sealed since the job was submitted takes nothing: RIGHTS (R116). -/
def hostJobDone (j : CodecJob) (r : Ecc) (bad : List Nat) (vfail : Bool) (s : State) : State :=
  match s.chip.store.find j.src, s.chip.store.find j.dst with
  | some a, some b =>
    let dst := b.start + j.doff
    let compress := decide (j.op = .compress)
    let s := s.onChip fun c =>
      let c := c.jobStoreRead r
      if compress then c.verifier bad vfail else c
    let (out, st) := codecResult j (s.mem.job.read (a.start + j.soff) j.len) bad
    if r = .uncorrectable ∨ (compress ∧ vfail) then
      let (n, c) := s.chip.fresh (out.length + 1)
      endJob j (if r = .uncorrectable then jsUNCORR else jsVERIFY) (le 4 0) (wipe { s with chip := c } dst (if b.isSealed then 0 else n))
    else if b.isSealed then endJob j jsRIGHTS (le 4 0) s
    else if st = stOK then endJob j stOK (le 4 out.length) (storeJ s dst out)
    else endJob j st (le 4 0) (wipe s dst out.length)
  | _, _ => endJob j jsSTALE (le 4 0) s

/-- A SEAL job ends (R125). -/
def sealJobDone (j : CodecJob) (r : Ecc) (s : State) : State :=
  match s.chip.store.find j.src with
  | none => endJob j jsSTALE [] s
  | some a =>
    let s := s.onChip (·.jobStoreRead r)
    if r = .uncorrectable then endJob j jsUNCORR [] s
    else
      let (chk, si, bi) := sealChecks s.mem.job a.start a.size
      if chk ≠ 0 then endJob j jsFORMAT (le 4 chk ++ le 4 si ++ le 4 bi) s
      else if a.pin ∧ pinFull s a then endJob j jsPIN_FULL [] s
      else endJob j stOK (zeros 12) (s.onChip (·.putAlloc { a with isSealed := true, tile := true }))

/-! ### WRITE and READ (R345) -/

/-- The tenant's RD or WR bit, STALE, RIGHTS and RANGE of a transfer; f runs when all is well. -/
def withRange (q : Nat) (x : InDesc) (s : State) (write : Bool) (f : Alloc → State → State) : State :=
  let t := s.chip.qTenant q
  match s.chip.store.find (x.param 16 4) with
  | none => s.done q x jsSTALE
  | some a =>
    if (if write then !bit a.wr t || a.isSealed else !bit a.rd t) then s.done q x jsRIGHTS
    else if a.size * 65536 < x.param 24 8 + x.param 32 4 then s.done q x jsRANGE
    else f a s

/-- WRITE: the data of its BULK frame, or `host` read from the host address. -/
def writeBody (q : Nat) (host : List Byte) (x : InDesc) (s : State) : State :=
  let len := x.param 32 4
  let addr := x.param 40 8
  if (if x.bulk then addr ≠ 0 || decide (x.data.length ≠ 64 * ceilDiv len 64) else addr = 0) then s.done q x stFORMAT
  else withRange q x s true fun a s =>
    let s := if x.bulk then s else s.onChip fun c => c.emit .pcieFetch (c.qTenant q) [q, addr, len]
    (storeJ s (a.start + x.param 24 8) (fit len (if x.bulk then x.data else host))).done q x stOK (le 4 len)

/-- A data record (RTYPE 0x05) with its data in one BULK frame (Table 13-4, R345). -/
def Chip.sendData (c : Chip) (q tag off : Nat) (data : List Byte) : Chip :=
  let t := c.qTenant q
  let k := c.queue q
  let o := (k.oseq + 1) % 2 ^ 32
  let r := fit 64 (le 1 5 ++ le 1 q ++ le 2 0 ++ le 4 o ++ le 4 c.stamp ++ le 4 tag ++ le 8 off ++ le 4 data.length)
  let dlen := 64 * ceilDiv data.length 64
  (c.setQueue q { k with oseq := o }).sendFrame .bulkData t (c.get (QM_QCFG_PORT q)) 0x06 1 dlen (r ++ fit dlen data)

/-- The data of the longest BULK frame that the port's MTU allows: a multiple of 64, at most 8,192, beside 40 bytes of IP,
8 of UDP, the header and one record. -/
def Chip.bulkRoom (c : Chip) (q : Nat) : Nat := min 8192 ((c.get (HP_CFG_MTU (c.get (QM_QCFG_PORT q))) - 144) / 64 * 64)

/-- READ: BULK frames over Ethernet, or a write to host memory, then the completion. -/
def readBody (q : Nat) (r : Ecc) (x : InDesc) (s : State) : State :=
  let len := x.param 32 4
  let addr := x.param 40 8
  let off := x.param 24 8
  let pcie := s.chip.is (QM_QCFG_VIA q)
  if addr = 0 ∧ pcie then s.done q x stFORMAT
  else withRange q x s false fun a s =>
    let s := s.onChip (·.jobStoreRead r)
    if r = .uncorrectable then s.done q x jsUNCORR
    else
      let bs := s.mem.job.read (a.start + off) len
      let s := s.onChip fun c =>
        if addr ≠ 0 then c.emit .pcieData (c.qTenant q) [q, addr] bs
        else
          let k := max 64 (c.bulkRoom q)
          c.forAll (List.range (ceilDiv len k)) fun c i => c.sendData q x.tag (off + k * i) ((bs.drop (k * i)).take k)
      s.done q x stOK (le 4 len)

/-! ### Frame launch at a set time (R327, R340) -/

def sendAtBody (q : Nat) (x : InDesc) (s : State) : State :=
  let d := x.param 24 1
  let n := x.param 25 1
  if 8 ≤ d ∨ n = 0 ∨ 32 < n then s.done q x stFORMAT
  else match s.chip.eQueue d with
    | none => s.done q x stSTATE
    | some e =>
      let p := s.chip.get (QM_QCFG_PORT e)
      if s.chip.is (QM_QCFG_VIA e) ∨ (s.chip.session d p).isNone then s.done q x stSTATE
      else s.onChip fun c => { c with hosts := { c.hosts with timed := c.hosts.timed ++
        [{ port := p, launch := x.param 16 8, dest := d, msg := (x.d.drop 32).take n, queue := q, tag := x.tag,
           rx := x.rx }] } }

/-- The timed frame of port p with the least launch time, the one queued first on a tie, and the others. -/
def nextTimed (p : Nat) (fs : List TimedFrame) : Option (TimedFrame × List TimedFrame) :=
  let mine := fs.filter (·.port = p)
  takeFirst (fun f => f.port = p && mine.all fun g => decide (f.launch ≤ g.launch)) fs

/-- The timed frame of port p that is due leaves: on time, late by less than 1 µs and counted, or dropped. The second of two frames
with equal L is late whatever the instant (R327). -/
def Chip.sendAtLaunch (c : Chip) (p : Nat) : Chip :=
  match nextTimed p c.hosts.timed with
  | none => c
  | some (f, rest) =>
    if c.ns < f.launch then c else
    let c := { c with hosts := { c.hosts with timed := rest } }
    if f.launch + 1000 ≤ c.ns then c.complete f.queue f.tag f.rx stLATE
    else match c.eQueue f.dest, c.session f.dest p with
      | some e, some _ =>
        let late := decide (f.launch < c.ns) || FMap.get none c.hosts.lastL p = some f.launch
        let n := FMap.get 0 c.hosts.lateFrames p
        let c : Chip := { c with hosts := { c.hosts with
          lateFrames := FMap.put 0 c.hosts.lateFrames p (if late then n + 1 else n),
          lastL := FMap.put none c.hosts.lastL p (some f.launch) } }
        let k := c.queue e
        let o := (k.oseq + 1) % 2 ^ 32
        let r := fit 64 (le 1 4 ++ le 1 e ++ le 2 0 ++ le 4 o ++ le 4 c.stamp ++ le 4 0 ++ f.msg)
        let c := (c.setQueue e { k with oseq := o }).sendFrame .timed f.dest p 0x04 1 0 r
        c.complete f.queue f.tag f.rx stOK
      | _, _ => c.complete f.queue f.tag f.rx stSTATE

/-! ### The commands -/

def execAlloc (t : Nat) (q : Fin 64) (s : State) : Host.Outcome State Fault Refusal :=
  .next (storeCommand t q 0x100 none (allocBody q) s)
def execFree (t : Nat) (q : Fin 64) (s : State) : Host.Outcome State Fault Refusal :=
  .next (storeCommand t q 0x101 none (freeBody q) s)
def execSetrights (t : Nat) (q : Fin 64) (s : State) : Host.Outcome State Fault Refusal :=
  .next (storeCommand t q 0x102 none (setrightsBody q) s)
def execSealAlloc (t : Nat) (q : Fin 64) (s : State) : Host.Outcome State Fault Refusal :=
  .next (storeCommand t q 0x103 none (sealBody q) s)
def execUnsealAlloc (t : Nat) (q : Fin 64) (s : State) : Host.Outcome State Fault Refusal :=
  .next (storeCommand t q 0x104 none (unsealBody q) s)
def execWrite (t : Nat) (q : Fin 64) (host : List Byte) (s : State) : Host.Outcome State Fault Refusal :=
  .next (storeCommand t q 0x105 none (writeBody q host) s)
def execRead (t : Nat) (q : Fin 64) (r : Ecc) (s : State) : Host.Outcome State Fault Refusal :=
  .next (storeCommand t q 0x106 none (readBody q r) s)
def execCompress (t : Nat) (q : Fin 64) (s : State) : Host.Outcome State Fault Refusal :=
  .next (storeCommand t q 0x107 none (codecBody .compress q) s)
def execDecompress (t : Nat) (q : Fin 64) (s : State) : Host.Outcome State Fault Refusal :=
  .next (storeCommand t q 0x108 none (codecBody .decompress q) s)

/-- SEND_AT is served wholly in CR. -/
def execSendAt (t : Nat) (q : Fin 64) (s : State) : Host.Outcome State Fault Refusal :=
  .next (hostCommand t q 0x109 0 (some 2) (sendAtBody q) s)
def execSendAtLaunch (t : Nat) (port : Fin 4) (s : State) : Host.Outcome State Fault Refusal :=
  .next ((s.at_ t).onChip (·.sendAtLaunch port))

def execCodecJobStart (t : Nat) (s : State) : Host.Outcome State Fault Refusal :=
  .next ((s.at_ t).onChip fun c => c.setStore c.store.startJob)
def execCodecPreempt (t : Nat) (job : Nat) (s : State) : Host.Outcome State Fault Refusal :=
  .next ((s.at_ t).onChip fun c => c.setStore (c.store.preempt job))

/-- The allocator reads a granule and corrects what it can (R114). -/
def execJobStoreScrub (t : Nat) (r : Ecc) (s : State) : Host.Outcome State Fault Refusal :=
  .next ((s.at_ t).onChip fun c => if c.regionOn 4 then c.jobStoreRead r else c)

end Sys2Proof.Machine
end

