-- ==== Sys2Proof/Machine/Tables.lean ====
section
/-!
DEFINITION. Sys2Proof/Machine/Tables.lean: what the tables of Table 4-11 say: colour, kernel, nozzle map, head
spans, phases, lane map and motion parameters; and the bars' effective offsets (R18, R205).
-/
namespace Sys2Proof.Machine

/-! ### Offsets (R18, R205) -/

/-- D_k for an offset in 1/256 µm and a stretch in 1/16 ppm, clamped to ±5,000 ppm: to the nearest tick, halves up (R18). -/
def offsetTicks (o : Nat) (eps : Int) : Nat :=
  let e := clampI (-80000) 80000 eps
  (halfUp (o * 153600 * 16000000) ((256 * 25400 * (16000000 + e)).toNat)).toNat

/-- D_k of bar k now. -/
def Chip.offset (c : Chip) (k : Nat) : Nat := offsetTicks ((c.setOf k).geo 4 k) (c.getS WM_EPS_EPS)

/-- d_eff of bar k in 1/16 tick; while fire is halted, and at RUN, it equals D_k (R205). -/
def Chip.deff (c : Chip) (k : Nat) : Nat :=
  if c.is FS_STAT_HALTED then 16 * c.offset k else FMap.get 0 c.fire.deff k

def Chip.setDeff (c : Chip) (k v : Nat) : Chip := { c with fire := { c.fire with deff := FMap.put 0 c.fire.deff k v } }

/-- FIRE_ARM sets d_eff of every bar to D_k (R221). -/
def Chip.resetDeff (c : Chip) : Chip := c.forAll (List.range 16) fun c k => c.setDeff k (16 * c.offset k)

/-- The offset d of R19: d_eff rounded down to a tick. -/
def Chip.tickOffset (c : Chip) (k : Nat) : Nat := c.deff k / 16

/-- The leading bars: the enabled bars of least D_k, one or more (R18). -/
def Chip.leading (c : Chip) : List Nat :=
  let ks := c.enabledBars
  ks.filter fun k => ks.all fun j => c.offset k ≤ c.offset j

/-- The motion parameters in force (R216): those of the latest update while a job prints, else those of the set in force. -/
def Chip.motionTable (c : Chip) : Table := if c.strm.job then c.fire.motion else c.stage.active.devT 9

/-- Bar k has reached row n_k of a commit: it has started that row, or, where the commit disables it, R21 would allow it to
(R364). -/
def Chip.reachedNk (c : Chip) (x : Sched) (k : Nat) : Bool :=
  bit x.reached k ||
    (!x.set.enabled k && decide ((x.nk : Int) ≤ (c.bar k).rk + c.stage.active.lead k))

/-- A model update takes up a commit's motion parameters once a leading bar has reached n_k, and keeps them (R216). -/
def Chip.takeMotion (c : Chip) : Chip :=
  let t := match c.stage.sched with
    | some x => if x.at_.isNone && (c.leading.any (c.reachedNk x) || decide (c.fire.motion = x.set.devT 9)) then x.set.devT 9
        else c.stage.active.devT 9
    | none => c.stage.active.devT 9
  { c with fire := { c.fire with motion := t } }

/-- A motion parameter: n bytes at byte `off` of Table 8-4. -/
def Chip.mp (c : Chip) (off n : Nat) : Nat := c.motionTable.num 9 off n

/-! ### Head spans and nozzle map (R186, R187, R189) -/

/-- A head span entry (Table 7-3). -/
structure Span where
  head : Nat
  first : Nat
  ncol : Nat
  noz0 : Nat
  dir : Nat
deriving DecidableEq, Repr

/-- The entries of a head span table. -/
def Table.spans (t : Table) : List Span :=
  (List.range (t.num 5 0 2)).map fun i =>
    let o := 64 + 16 * i
    { head := t.num 5 o 2 % 2048, first := t.num 5 (o + 4) 4 % 2 ^ 18, ncol := t.num 5 (o + 8) 2,
      noz0 := t.num 5 (o + 10) 2, dir := t.num 5 (o + 12) 1 % 2 }

def Span.covers (x : Span) (col : Nat) : Bool := x.first ≤ col && col < x.first + x.ncol

/-- The nozzle that fires a covered column. -/
def Span.nozzle (x : Span) (col : Nat) : Nat := if x.dir = 0 then x.noz0 + (col - x.first) else x.noz0 - (col - x.first)

/-- NNOZ: one more than the highest nozzle that the entry uses (R282). -/
def Span.nnoz (x : Span) : Nat := if x.dir = 0 then x.noz0 + x.ncol else x.noz0 + 1

/-- The column that nozzle z fires. -/
def Span.column (x : Span) (z : Nat) : Option Nat :=
  if x.dir = 0 then (if x.noz0 ≤ z ∧ z < x.noz0 + x.ncol then some (x.first + (z - x.noz0)) else none)
  else if z ≤ x.noz0 ∧ x.noz0 < z + x.ncol then some (x.first + (x.noz0 - z)) else none

/-- STATE and PARAM of the nozzle map entry of a column. -/
def Table.nozEntry (t : Table) (col : Nat) : Option (Nat × Nat) :=
  (List.range (t.num 4 0 4)).findSome? fun i =>
    let w := t.num 4 (64 + 4 * i) 4
    if w % 2 ^ 18 = col then some (bits w 30 2, bits w 24 6) else none

/-- How a column fires: live, weak with its weight, out, or a blend of heads A and B with its share and which sides are
out. -/
inductive ColState where
  | live | weak (w : Nat) | out | blend (share : Nat) (aOut bOut : Bool) (a b : Nat)
deriving DecidableEq, Repr

/-- The state of a column (R187, R189). -/
def colState (map span : Table) (col : Nat) : ColState :=
  match span.spans.filter (·.covers col), map.nozEntry col with
  | a :: b :: _, e =>
    let o0 := b.first
    let no := max 1 (min (a.first + a.ncol) (b.first + b.ncol) - o0)
    let dflt := 16 * (2 * (col - o0) + 1) / (2 * no)
    match e with
    | some (3, p) => .blend (bits p 2 4) (bit p 0) (bit p 1) a.head b.head
    | _ => .blend dflt false false a.head b.head
  | _, some (1, w) => .weak w
  | _, some (2, _) => .out
  | _, _ => .live

/-- For screening a blend column is out when both sides are out, live otherwise (R189). -/
def ColState.screen : ColState → ColState
  | .blend _ true true _ _ => .out
  | .blend _ _ _ _ _ => .live
  | x => x

/-- The order of 4 bits reversed. -/
def bitrev4 (x : Nat) : Nat := 8 * (x % 2) + 4 * (x / 2 % 2) + 2 * (x / 4 % 2) + x / 8 % 2

/-- The selector of R189. -/
def blendSel (n col : Nat) : Nat := bitrev4 ((n + 5 * col) % 16)

/-- Head `h` fires this column in row n. -/
def ColState.firedBy (s : ColState) (n col h : Nat) : Bool :=
  match s with
  | .blend share aOut bOut a b =>
    if aOut && bOut then false
    else if aOut then h = b
    else if bOut then h = a
    else if blendSel n col < share then h = b else h = a
  | _ => true

/-- The heads that the span tables of a bar name in a set. -/
def TSet.heads (s : TSet) (k : Nat) : List Nat := ((s.barT k 5).spans).map (·.head)

/-! ### Lane map (R305) -/

/-- The lanes in bar k's lane map. -/
def TSet.barLanes (s : TSet) (k : Nat) : List Nat :=
  (List.range 96).filter fun l => s.laneUsed l && s.laneBar l = k

/-- A lane is in use: a stream is open and an enabled bar's head span table names a head on it (R250). -/
def Chip.laneInUse (c : Chip) (l : Nat) : Bool :=
  c.is SEQ_PSTAT_OPEN && c.enabledBars.any fun k => ((c.setOf k).heads k).any fun h => h / 16 = l

/-! ### Versions and rows (R17, R367) -/

/-- Generation data of the set that row n uses. -/
def Chip.genFor (c : Chip) (n : Nat) : GenInfo :=
  match c.stage.sched with
  | some s => if s.at_ = none ∧ n < s.nk then c.stage.prev else c.stage.cur
  | none => c.stage.cur

/-- The drop depth of bar k in the row set `s`: fixed while the bar is enabled in a job (R17). -/
def Chip.depth (c : Chip) (s : TSet) (k : Nat) : Nat :=
  let d := FMap.get 0 c.strm.depths k
  if d = 0 then s.geo 1 k else d

/-- The trim generation that row n of a bar uses: the last whose first row is at or below n (generations stand in the order
of their first rows). -/
def Bar.trimFor (b : Bar) (n : Nat) : TrimGen :=
  (b.trims.filter fun g => g.start ≤ n).getLastD { lgen := 0, start := 0 }

/-- The trims of the latest committed generation (R170). -/
def Bar.committed (b : Bar) : FMap Nat := match b.trims.getLast? with
  | some g => g.arr
  | none => []

def Bar.comTrim (b : Bar) (i : Nat) : Nat := FMap.get 32768 b.committed i

/-- The staged trim of a bin: its committed one until an update changes it. -/
def Bar.stgTrim (b : Bar) (i : Nat) : Nat := (FMap.get none b.stagedT i).getD (b.comTrim i)

/-- Some staged trim differs from its committed value. -/
def Bar.changed (b : Bar) : Bool := b.stagedT.any fun e => match e.2 with | some v => v ≠ b.comTrim e.1 | none => false

/-- PENDING follows the staged trims (Table 6-7). -/
def Chip.refreshPending (c : Chip) : Chip :=
  c.set CH_STAT_PENDING (b2n ((List.range 16).any fun k => (c.bar k).changed))

/-- The staged trims of every bar are lost (R172). -/
def Chip.dropStaged (c : Chip) : Chip :=
  let bare (b : Bar) : Bar := { b with stagedT := [] }
  { c with bars := FMap.mapV {} bare c.bars }.refreshPending

/-- The version tag of row n of bar k (Table 14-6), as fields: CGEN, LGEN, FLAGS, CPOINT, the ten VERSIONs, SEED. -/
def Chip.rowTag (c : Chip) (k n : Nat) : List Nat :=
  let g := c.genFor n
  let s := c.setFor n
  [g.gen, ((c.bar k).trimFor n).lgen, b2n g.raised + 2 * b2n g.restored, g.cpoint] ++
    (List.range 6).map (fun ty => (s.barT k ty).version) ++
    (List.range 4).map (fun i => (s.devT (6 + i)).version) ++ [c.strm.seed]

/-- The 64 bytes of a version tag. -/
def tagBytes (t : List Nat) : List Byte :=
  le 4 (t.getD 0 0) ++ le 2 (t.getD 1 0) ++ le 1 (t.getD 2 0) ++ le 1 0 ++ le 8 (t.getD 3 0) ++
    ((List.range 10).flatMap fun i => le 4 (t.getD (4 + i) 0)) ++ le 8 (t.getD 14 0)

end Sys2Proof.Machine
end

