-- ==== Sys2Proof/Machine/VarData.lean ====
section
/-!
DEFINITION. Sys2Proof/Machine/VarData.lean: text buffers, formats, dates, counters, check digits, and the composition of
text and linear symbols into field slots (R97 to R108). Data Matrix is in Machine/DataMatrix.lean. Character and symbol
tables that the spec names by their ISO standard are PRESUMED (assumption 15).
-/
namespace Sys2Proof.Machine

/-- ASCII bytes. -/
def asc (n : Nat) : Byte := BitVec.ofNat 8 n

/-! ### Text buffers (R97) -/

/-- The length byte of the text buffer at a. -/
def textLen (s : State) (a : Nat) : Nat := (s.mem.data.byte a).toNat

/-- The characters of the text buffer at a. -/
def textOf (s : State) (a : Nat) : List Byte := s.mem.data.read (a + 1) (textLen s a)

/-- VD_TEXT for a buffer at a to which k characters are to be appended. -/
def textTraps (s : State) (a k : Nat) : List Nat :=
  trapIf (decide (254 < textLen s a) || decide (254 < textLen s a + k)) VD_TEXT

/-- Appends characters and goes on with gD = the new length. -/
def appendText (n : CtxId) (f : Fields) (a : Nat) (chars : List Byte) (s : State) : State :=
  let len := textLen s a
  let s := storeD s (a + 1 + len) chars
  let s := storeD s a [BitVec.ofNat 8 (len + chars.length)]
  s.onChip fun c => ((c.setG n f.gd.toNat (BitVec.ofNat 64 (len + chars.length))).next n)

/-! ### vfmt (R99) -/

/-- The digit character: 0 to 9, then A to Z. -/
def digitChar (d : Nat) : Byte := if d < 10 then asc (48 + d) else asc (55 + d)

/-- Digits of v in a base, most significant first; 0 gives one digit. -/
def digitsAux (base : Nat) : Nat → Nat → List Byte → List Byte
  | 0, _, acc => acc
  | k + 1, v, acc => if v < base then digitChar v :: acc else digitsAux base k (v / base) (digitChar (v % base) :: acc)
def digits (base v : Nat) : List Byte := digitsAux base 64 v []

/-- Padding on the left to minw; the pad '0' goes after a minus sign, any other pad before it (Table 4-6). -/
def padNumber (minw pad : Nat) (neg : Bool) (ds : List Byte) : List Byte :=
  let k := minw - (ds.length + b2n neg)
  let p := List.replicate k (asc pad)
  if neg then (if pad = 48 then asc 45 :: p ++ ds else p ++ asc 45 :: ds) else p ++ ds

/-- What a numeric format appends, before padding: sign and digits. -/
def numberText (fmt : Nat) (v : W64) : Bool × List Byte :=
  match fmt with
  | 1 => (decide (v.toInt < 0), digits 10 v.toInt.natAbs)
  | 2 => (false, digits 16 v.toNat)
  | 3 => (false, digits 36 v.toNat)
  | _ => (false, digits 10 v.toNat)

/-- The characters that `vfmt` appends, or none for formats 6 and 7. -/
def fmtChars (s : State) (n : CtxId) (f : Fields) : List Byte :=
  let v := s.chip.g n f.ga.toNat
  let im := immOf f
  match subOf f % 8 with
  | 4 => s.mem.data.read v.toNat (im % 256)
  | 5 => [BitVec.ofNat 8 v.toNat]
  | k => let (neg, ds) := numberText k v
         padNumber (im % 256) (bits im 16 8) neg ds

/-- The traps of the format itself. A STR count of 0 or 255 is a bad format: the spec names no code for it (DESIGN CHOICE,
assumption 27). -/
def fmtTraps (s : State) (n : CtxId) (f : Fields) : List Nat :=
  let v := s.chip.g n f.ga.toNat
  let im := immOf f
  match subOf f % 8 with
  | 4 => trapIf (decide (256 ≤ im)) RESERVED_FIELD ++ trapIf (im % 256 = 0 || im % 256 = 255) VD_FORMAT ++
         trapIf (dOut v.toNat (im % 256)) D_RANGE
  | 5 => trapIf (im ≠ 0) RESERVED_FIELD
  | 6 => [ILLEGAL_OP]
  | 7 => [ILLEGAL_OP]
  | k =>
    let minw := im % 256
    let maxw := if bits im 8 8 = 0 then 20 else bits im 8 8
    let pad := bits im 16 8
    let (neg, ds) := numberText k v
    trapIf (decide (2 ^ 24 ≤ im)) RESERVED_FIELD ++
    trapIf (decide (maxw < minw) || decide (20 < maxw) || decide (pad < 32) || decide (126 < pad)) VD_FORMAT ++
    trapIf (decide (maxw < ds.length + b2n neg)) VD_WIDTH

def execVfmt (n : CtxId) (f : Fields) (ecc : Ecc) (s : State) : Host.Outcome State Fault Refusal :=
  let a := (s.chip.g n f.gb.toNat).toNat
  let cs := fmtChars s n f
  .next (issueD n ecc (resvRaw f 7 true true true true ++ fmtTraps s n f ++ dTraps a 256 64 ++
    textTraps s a cs.length) (appendText n f a cs) s)

/-! ### vdate (R100) -/

/-- Year, month, day of a day number from 1970-01-01 in the proleptic Gregorian calendar (days not negative). -/
def civilDate (days : Nat) : Nat × Nat × Nat :=
  let z := days + 719468
  let era := z / 146097
  let doe := z % 146097
  let yoe := (doe - doe / 1460 + doe / 36524 - doe / 146096) / 365
  let doy := doe - (365 * yoe + yoe / 4 - yoe / 100)
  let mp := (5 * doy + 2) / 153
  let d := doy - (153 * mp + 2) / 5 + 1
  let m := if mp < 10 then mp + 3 else mp - 9
  let y := yoe + era * 400 + (if m ≤ 2 then 1 else 0)
  (y, m, d)

def leapYear (y : Nat) : Bool := (y % 4 = 0 && y % 100 ≠ 0) || y % 400 = 0

/-- Days from 1970-01-01 to January 1 of year y (y at least 1970). -/
def daysToYear (y : Nat) : Nat := (y - 1970) * 365 + ((y - 1) / 4 - 492) - ((y - 1) / 100 - 19) + ((y - 1) / 400 - 4)

/-- ISO 8601 weekday of a day number, 1 Monday to 7 Sunday. -/
def weekday (days : Nat) : Nat := (days + 3) % 7 + 1

/-- ISO 8601 week-year and week of a day number. -/
def isoWeek (days : Nat) : Nat × Nat :=
  -- the week belongs to the year of its Thursday
  let th := days + 4 - weekday days
  let (y, _, _) := civilDate th
  (y, (th - daysToYear y) / 7 + 1)

/-- v with k digits. -/
def dec (k v : Nat) : List Byte := (List.range k).map fun i => digitChar (v / 10 ^ (k - 1 - i) % 10)

/-- The three letters of a month. -/
def monthName (m : Nat) : List Byte :=
  match m with
  | 1 => [74, 65, 78] | 2 => [70, 69, 66] | 3 => [77, 65, 82] | 4 => [65, 80, 82] | 5 => [77, 65, 89]
  | 6 => [74, 85, 78] | 7 => [74, 85, 76] | 8 => [65, 85, 71] | 9 => [83, 69, 80] | 10 => [79, 67, 84]
  | 11 => [78, 79, 86] | _ => [68, 69, 67]

/-- The longest token of Table 4-7 at the head of a pattern: what it appends, and its length. -/
def dateToken (ns : Nat) (p : List Byte) : Option (List Byte × Nat) :=
  let days := ns / 86400000000000
  let secs := ns / 1000000000 % 86400
  let (y, m, d) := civilDate days
  let (wy, wk) := isoWeek days
  let starts (t : List Nat) : Bool := p.take t.length == t.map asc
  if starts [89, 89, 89, 89] then some (dec 4 y, 4)
  else if starts [89, 89] then some (dec 2 y, 2)
  else if starts [89] then some (dec 1 y, 1)
  else if starts [77, 77, 77] then some (monthName m, 3)
  else if starts [77, 77] then some (dec 2 m, 2)
  else if starts [68, 68] then some (dec 2 d, 2)
  else if starts [74, 74, 74] then some (dec 3 (days - daysToYear y + 1), 3)
  else if starts [87, 87] then some (dec 2 wk, 2)
  else if starts [71, 71] then some (dec 2 wy, 2)
  else if starts [68] then some (dec 1 (weekday days), 1)
  else if starts [72, 72] then some (dec 2 (secs / 3600), 2)
  else if starts [109, 109] then some (dec 2 (secs / 60 % 60), 2)
  else if starts [115, 115] then some (dec 2 (secs % 60), 2)
  else none

/-- Replaces the tokens of a pattern; any other byte is copied. -/
def datePattern (ns : Nat) : Nat → List Byte → List Byte
  | 0, _ => []
  | _, [] => []
  | k + 1, b :: p =>
    match dateToken ns (b :: p) with
    | some (out, len) => out ++ datePattern ns k ((b :: p).drop len)
    | none => b :: datePattern ns k p

/-- The pattern at a: the bytes before the NUL, and whether there is one within 32 bytes; and whether it leaves D-space. -/
def readPattern (s : State) (a : Nat) : List Byte × Bool × Bool :=
  let bs := s.mem.data.read a 32
  let p := bs.takeWhile (· != 0)
  (p, decide (p.length < 32), dOut a (min 32 (p.length + 1)))

/-- The civil time lies in the years 1970 to 2199 (R100). -/
def dateOk (v : Int) : Bool := decide (0 ≤ v) && decide (v < (daysToYear 2200 : Int) * 86400000000000)

def execVdate (n : CtxId) (f : Fields) (ecc : Ecc) (s : State) : Host.Outcome State Fault Refusal :=
  let a := (s.chip.g n f.gb.toNat).toNat
  let v := (s.chip.g n f.ga.toNat).toInt
  let (p, ended, out) := readPattern s (immOf f)
  let cs := datePattern v.toNat 32 p
  .next (issueD n ecc (resvRaw f 0 true true true true ++ dTraps a 256 64 ++ trapIf out D_RANGE ++
    trapIf (!ended || !dateOk v) VD_FORMAT ++ textTraps s a cs.length) (appendText n f a cs) s)

/-! ### vctr (R101) -/

def execVctr (n : CtxId) (f : Fields) (s : State) : Host.Outcome State Fault Refusal :=
  let fn := subOf f % 4
  let i := immOf f % 16
  let old := s.chip.get (SEQ_SCTR_VALUE i)
  let a := (s.chip.g n f.ga.toNat).toNat
  let b := (s.chip.g n f.gb.toNat).toNat
  .next (issueC n (trapIf (fn = 3) ILLEGAL_OP ++ resvRaw f 3 true (fn = 1) (fn = 1 || fn = 2) true ++
    trapIf (decide (16 ≤ immOf f)) RESERVED_FIELD ++
    trapIf (fn = 1 && (decide (a < old + b) || decide (2 ^ 64 ≤ old + b))) VD_CTR)
    (fun c =>
      let new := if fn = 1 then old + b else if fn = 2 then b else old
      let c := c.set (SEQ_SCTR_VALUE i) new
      let c := if fn = 0 then c else c.jrn .counter [i, new]
      ((c.setG n f.gd.toNat (BitVec.ofNat 64 old)).next n).ckpt n) s)

/-! ### vchk (R102) -/

/-- A byte '0' to '9'. -/
def isDigit (b : Byte) : Bool := decide (48 ≤ b.toNat) && decide (b.toNat ≤ 57)

/-- The GS1 mod 10 check digit of digits: weights 3, 1, 3 … from the right. -/
def gs1Check (ds : List Byte) : Nat :=
  let sum := (ds.reverse.zipIdx.map fun (b, i) => (b.toNat - 48) * (if i % 2 = 0 then 3 else 1)).sum
  (10 - sum % 10) % 10

/-- The Luhn check digit (ISO/IEC 7812): every second digit from the right is doubled, starting with the last. -/
def luhnCheck (ds : List Byte) : Nat :=
  let sum := (ds.reverse.zipIdx.map fun (b, i) =>
    let d := b.toNat - 48
    if i % 2 = 0 then (if 2 * d > 9 then 2 * d - 9 else 2 * d) else d).sum
  (10 - sum % 10) % 10

/-- A position of 0, which the spec gives no outcome, is a bad one: VD_FORMAT (DESIGN CHOICE, assumption 28). -/
def execVchk (n : CtxId) (f : Fields) (ecc : Ecc) (s : State) : Host.Outcome State Fault Refusal :=
  let a := (s.chip.g n f.gb.toNat).toNat
  let p := (s.chip.g n f.ga.toNat).toNat % 256
  let ds := (textOf s a).drop (p - 1)
  let k := if bit (subOf f) 0 then luhnCheck ds else gs1Check ds
  .next (issueD n ecc (resvRaw f 1 true true true false ++ dTraps a 256 64 ++
    trapIf (p = 0 || ds.isEmpty || !ds.all isDigit) VD_FORMAT ++ textTraps s a 1)
    (appendText n f a [asc (48 + k)]) s)

/-! ### Field slots (R107, R108) -/

/-- The first slot without content at or after i, circularly, tried k times. -/
def Chip.freeSlotFrom (c : Chip) : Nat → Nat → Option Nat
  | 0, _ => none
  | k + 1, i => if (c.slot (i % 2 ^ 20)).content.isNone then some (i % 2 ^ 20) else c.freeSlotFrom k (i + 1)

/-- Field slots in use. -/
def Chip.slotsUsed (c : Chip) : Nat := (c.vd.slots.filter fun e => e.2.content.isSome).length

/-- An outstanding record references a field slot. -/
def Chip.slotReferenced (c : Chip) : Bool := c.strm.recs.any fun r => r.kind = 4

/-- Starts a composition for context n: which free slot it takes is left open by the spec (assumption 1). The context
stalls with KIND 10 until VD_COMPOSE_DONE. -/
def Chip.startCompose (c : Chip) (n gd : Nat) (x : SlotContent) (w h : Nat) : Chip :=
  let (v, c) := c.fresh (2 ^ 20)
  match c.freeSlotFrom (c.vd.slots.length + 1) v with
  | none => c
  | some i =>
    let g := (c.slot i).gen
    let sl : Slot := { gen := g, content := some x, width := w, height := h }
    let c : Chip := { c with vd := { busy := some n, turns := c.vd.turns.filter (· ≠ n), slots := FMap.put {} c.vd.slots i sl } }
    let c := c.jrn .slot (i :: sl.nums) sl.chars
    c.pend n 10 (.compose gd (i + 2 ^ 20 * g + 2 ^ 32 * w + 2 ^ 50 * h))

/-- An instruction of context n waits its turn for the unit, with KIND k. -/
def Chip.awaitTurn (c : Chip) (n k : Nat) : Chip :=
  let ts := if c.vd.turns.contains n then c.vd.turns else c.vd.turns ++ [n]
  ({ c with vd := { c.vd with turns := ts } } : Chip).stall n k

/-- Another instruction waits that was issued before that of context n. -/
def Chip.behindTurn (c : Chip) (n : Nat) : Bool := !(c.vd.turns.takeWhile (· ≠ n)).isEmpty

/-- A composing instruction: it stalls with KIND 10 while the unit is busy or belongs to an earlier one, with KIND 9 while no slot is
free but one may come free, and traps VD_POOL when none would (R107, R108). -/
def compose (n : CtxId) (ecc : Ecc) (f : Fields) (traps : List Nat) (x : SlotContent) (w h : Nat) (s : State) : State :=
  let full := decide (2 ^ 20 ≤ s.chip.slotsUsed)
  issueD n ecc (traps ++ trapIf (full && !s.chip.slotReferenced) VD_POOL)
    (fun s => s.onChip fun c =>
      if c.vd.busy.isSome then c.awaitTurn n 10
      else if full then c.awaitTurn n 9
      else if c.behindTurn n then c.awaitTurn n 10
      else c.startCompose n f.gd.toNat x w h) s

/-- The unit finishes and frees itself for the next waiting instruction (R108). -/
def execVdComposeDone (t : Nat) (s : State) : Host.Outcome State Fault Refusal :=
  .next ((s.at_ t).onChip fun c =>
    match c.vd.busy with
    | none => c
    | some n =>
      let c : Chip := { c with vd := { c.vd with busy := none } }
      let c := match c.pendOp n with
        | some (.compose gd v) => ((c.unpend n).setG n gd (BitVec.ofNat 64 v)).next n
        | _ => c
      c.wakeKind 10)

/-! ### vtext (R103, R124) -/

/-- The directory entry of a character in a glyph set: first column, width, advance (R124). -/
def glyphEntry (job : ByteMem) (x : Alloc) (ch : Nat) : Nat × Nat × Nat :=
  let d := job.read (x.start + 64 + 8 * ch) 8
  (fieldAt d 0 4, fieldAt d 4 2, fieldAt d 6 2)

/-- Sum of the advances, with the tracking between adjacent glyphs. -/
def textWidth (job : ByteMem) (x : Alloc) (tracking : Int) (cs : List Byte) : Int :=
  ((cs.map fun b => (glyphEntry job x b.toNat).2.2).sum : Nat) + tracking * (cs.length - 1 : Nat)

/-- An empty text raises VD_TEXT: the spec names that code only for a longer one than 120 (DESIGN CHOICE, assumption 29). -/
def execVtext (n : CtxId) (f : Fields) (ecc : Ecc) (s : State) : Host.Outcome State Fault Refusal :=
  let a := (s.chip.g n f.ga.toNat).toNat
  let hnd := (s.chip.g n f.gb.toNat).toNat
  let cs := textOf s a
  let tr := sgn 8 (immOf f)
  let ok := usable s hnd [6]
  let x := s.chip.store.find hnd
  let w := (x.map fun x => textWidth s.mem.job x tr cs).getD 0
  let h := (x.map fun x => fieldAt (tileHeader s.mem.job x) 8 4).getD 0
  let noGlyph := x.any fun x => cs.any fun b => (glyphEntry s.mem.job x b.toNat).2.2 = 0
  .next (compose n ecc f (resvRaw f 0 true true true true ++ trapIf (decide (256 ≤ immOf f)) RESERVED_FIELD ++
    dTraps a 256 64 ++ trapIf (!ok) HANDLE ++
    trapIf (textLen s a = 0 || decide (120 < textLen s a)) VD_TEXT ++ trapIf (ok && noGlyph) VD_GLYPH ++
    trapIf (ok && (decide (w < 1) || decide (163840 < w))) VD_SIZE)
    (.text hnd cs tr) w.toNat h s)

/-! ### Code 128 (R105) -/

/-- Bar and space widths of the Code 128 characters 0 to 105, as six digits each (ISO/IEC 15417; assumption 15). -/
def code128Widths : List Nat :=
  [212222, 222122, 222221, 121223, 121322, 131222, 122213, 122312, 132212, 221213, 221312, 231212, 112232, 122132,
   122231, 113222, 123122, 123221, 223211, 221132, 221231, 213212, 223112, 312131, 311222, 321122, 321221, 312212,
   322112, 322211, 212123, 212321, 232121, 111323, 131123] ++
  [131321, 112313, 132113, 132311, 211313, 231113, 231311, 112133, 112331, 132131, 113123, 113321, 133121, 313121,
   211331, 231131, 213113, 213311, 213131, 311123, 311321, 331121, 312113, 312311, 332111, 314111, 221411, 431111,
   111224, 111422, 121124, 121421, 141122, 141221, 112214] ++
  [112412, 122114, 122411, 142112, 142211, 241211, 221114, 413111, 241112, 134111, 111242, 121142, 121241, 114212,
   124112, 124211, 411212, 421112, 421211, 212141, 214121, 412121, 111143, 111341, 131141, 114113, 114311, 411113,
   411311, 113141, 114131, 311141, 411131, 211412, 211214, 211232]

/-- Modules of a character from its width digits, bar first. -/
def widthModules (k w : Nat) : List Bool :=
  (List.range k).flatMap fun i => List.replicate (w / 10 ^ (k - 1 - i) % 10) (i % 2 == 0)

/-- What a text character asks for: FNC1, or a byte 0 to 127. -/
inductive CodeChar where
  | fnc1 | byte (b : Nat)
deriving DecidableEq, Repr

/-- Code sets. -/
inductive CodeSet where
  | a | b | c
deriving DecidableEq, Repr

/-- The symbol value of a character in a code set, when the set has it. -/
def codeValue : CodeSet → CodeChar → Option Nat
  | _, .fnc1 => some 102
  | .a, .byte b => if b < 32 then some (b + 64) else if b < 96 then some (b - 32) else none
  | .b, .byte b => if 32 ≤ b ∧ b < 128 then some (b - 32) else none
  | .c, .byte _ => none

/-- The value of a digit pair in code set C. -/
def pairValue : List CodeChar → Option Nat
  | .byte x :: .byte y :: _ => if 48 ≤ x ∧ x ≤ 57 ∧ 48 ≤ y ∧ y ≤ 57 then some ((x - 48) * 10 + (y - 48)) else none
  | _ => none

/-- The switch character from one code set to another. -/
def switchTo : CodeSet → Nat
  | .a => 101 | .b => 100 | .c => 99

/-- A cost that no encoding reaches. -/
def noCost : Nat := 100000

/-- Fewest characters for the rest, from each of the sets A, B, C, given the costs after one and after two characters. -/
def codeCosts (cs : List CodeChar) (c1 c2 : Nat × Nat × Nat) : Nat × Nat × Nat :=
  match cs with
  | [] => (0, 0, 0)
  | ch :: _ =>
    let da := if (codeValue .a ch).isSome then 1 + c1.1 else noCost
    let db := if (codeValue .b ch).isSome then 1 + c1.2.1 else noCost
    let dc := if ch = .fnc1 then 1 + c1.2.2 else if (pairValue cs).isSome then 1 + c2.2.2 else noCost
    let sa := if (codeValue .a ch).isSome then 2 + c1.2.1 else noCost   -- shifted to A while in B
    let sb := if (codeValue .b ch).isSome then 2 + c1.1 else noCost     -- shifted to B while in A
    (min (min da sb) (min (1 + db) (1 + dc)), min (min db sa) (min (1 + da) (1 + dc)), min dc (min (1 + da) (1 + db)))

/-- The cost triples for every suffix, the whole text first. -/
def codeTable : List CodeChar → List (Nat × Nat × Nat)
  | [] => [(0, 0, 0)]
  | ch :: cs =>
    let rest := codeTable cs
    let c1 := rest.headD (0, 0, 0)
    let c2 := (rest.drop 1).headD (0, 0, 0)
    codeCosts (ch :: cs) c1 c2 :: rest

/-- The cost from a set. -/
def costOf (t : Nat × Nat × Nat) : CodeSet → Nat
  | .a => t.1 | .b => t.2.1 | .c => t.2.2

/-- Symbol values from a current set with fewest characters; at each character code set C is preferred, then B, then A
(R105). Where staying in a set by a shift costs as much as a switch to the preferred one, the switch is taken, and at the start B with a
shift is preferred to A: the rule orders sets, not these (DESIGN CHOICE, assumption 31). -/
def codeEmit : Nat → CodeSet → List CodeChar → List Nat
  | 0, _, _ => []
  | _, _, [] => []
  | k + 1, cur, ch :: cs =>
    let table := codeTable (ch :: cs)
    let best := costOf (table.headD (0, 0, 0)) cur
    let c1 := (table.drop 1).headD (0, 0, 0)
    let c2 := (table.drop 2).headD (0, 0, 0)
    let sw (x : CodeSet) : List Nat := if cur = x then [] else [switchTo x]
    let pre (x : CodeSet) : Nat := if cur = x then 0 else 1
    let pair := pairValue (ch :: cs)
    if ch = .fnc1 ∧ pre .c + 1 + c1.2.2 = best then sw .c ++ 102 :: codeEmit k .c cs
    else if ch ≠ .fnc1 ∧ pair.isSome ∧ pre .c + 1 + c2.2.2 = best then
      sw .c ++ pair.getD 0 :: codeEmit k .c (cs.drop 1)
    else if (codeValue .b ch).isSome ∧ pre .b + 1 + c1.2.1 = best then
      sw .b ++ (codeValue .b ch).getD 0 :: codeEmit k .b cs
    else if cur = .a ∧ (codeValue .b ch).isSome ∧ 2 + c1.1 = best then
      98 :: (codeValue .b ch).getD 0 :: codeEmit k .a cs
    else if (codeValue .a ch).isSome ∧ pre .a + 1 + c1.1 = best then
      sw .a ++ (codeValue .a ch).getD 0 :: codeEmit k .a cs
    else if cur = .b ∧ (codeValue .a ch).isSome ∧ 2 + c1.2.1 = best then
      98 :: (codeValue .a ch).getD 0 :: codeEmit k .b cs
    else []

/-- The start set: fewest characters, C preferred, then B, then A; `gs1` puts FNC1 after the start character. -/
def codeStart (cs : List CodeChar) : CodeSet × Nat :=
  let t := (codeTable cs).headD (0, 0, 0)
  let m := min t.1 (min t.2.1 t.2.2)
  if t.2.2 = m then (.c, 105) else if t.2.1 = m then (.b, 104) else (.a, 103)

/-- All symbol values: start, data, check (ISO/IEC 15417). -/
def code128Values (cs : List CodeChar) : List Nat :=
  let (set, st) := codeStart cs
  let vs := codeEmit (cs.length + 1) set cs
  let chk := (st + ((vs.zipIdx.map fun (v, i) => v * (i + 1)).sum)) % 103
  st :: vs ++ [chk]

/-- The modules of the symbol: its characters, then the stop pattern of 13 modules. -/
def code128Modules (cs : List CodeChar) : List Bool :=
  (code128Values cs).flatMap (fun v => widthModules 6 (code128Widths.getD v 0)) ++ widthModules 7 2331112

/-- A text as Code 128 characters: 0x00 to 0x7F, and 0xF1 for FNC1. -/
def code128Chars (bs : List Byte) : List CodeChar :=
  bs.map fun b => if b = 0xF1 then .fnc1 else .byte b.toNat

/-- A text as GS1-128 characters: FNC1 first, and each 0x1D an FNC1. -/
def gs1Chars (bs : List Byte) : List CodeChar :=
  .fnc1 :: bs.map fun b => if b = 0x1D then .fnc1 else .byte b.toNat

/-- The GS1 character set (GS1 AI encodable set 82; assumption 15), beside the 0x1D separator. -/
def gs1Allowed (b : Byte) : Bool :=
  let v := b.toNat
  v = 0x1D || v = 33 || v = 34 || (37 ≤ v && v ≤ 63) || (65 ≤ v && v ≤ 90) || v = 95 || (97 ≤ v && v ≤ 122)

/-- Data that the linear symbology cannot encode (R105). -/
def linearBad (sym : Nat) (bs : List Byte) : Bool :=
  bs.isEmpty || decide (80 < bs.length) ||
  (if sym = 0 then bs.any fun b => decide (128 ≤ b.toNat) && b != 0xF1
   else bs.any (fun b => !gs1Allowed b) || decide (bs.length < 2) || !(bs.take 2).all isDigit)

end Sys2Proof.Machine
end

