-- ==== Sys2Proof/Machine/Render.lean ====
section
/-!
DEFINITION. Sys2Proof/Machine/Render.lean: from the placement stream to a row's drop levels: content and compositing (R80 to
R82), separation and tone (R146 to R153), screening (R174 to R184), nozzle data (R190, R282), and the ledger's sums (R156).
-/
namespace Sys2Proof.Machine

/-! ### Content (R81, R103 to R106, R122) -/

/-- A pixel's channels: four process, then eight spot. -/
abbrev Px := List Nat

def blankPx : Px := List.replicate 12 0

/-- A tile pixel widened to channels (R122). -/
def tilePx (t : Tile) (v : List Nat) : Px :=
  if t.fmt ≤ 2 then fit' v else (blankPx.set (4 + t.spot) (v.headD 0))
where
  fit' (v : List Nat) : Px := (v ++ blankPx).take 12

/-- A pixel of a field slot: none beyond it, else whether it is dark. -/
def textDark (job : ByteMem) (st : Store) (h : Nat) (tracking : Int) (cs : List Byte) (r s : Nat) : Bool :=
  match st.find h with
  | none => false
  | some x =>
    let t := tileOf job x
    (cs.foldl (fun (acc : Int × Bool) ch =>
      let (gx, gw, adv) := glyphEntry job x ch.toNat
      let rel := (s : Int) - acc.1
      let dark := decide (0 ≤ rel) && decide (rel < gw) &&
        (t.pixel job x.start r (gx + rel.toNat)).headD 0 = 1
      (acc.1 + adv + tracking, acc.2 || dark)) (0, false)).2

/-- A pixel (row r, column s) of a slot is dark; quiet zones are light (R103, R104). -/
def SlotContent.dark (job : ByteMem) (st : Store) (x : SlotContent) (r s : Nat) : Bool :=
  match x with
  | .text h cs tr => textDark job st h tr cs r s
  | .linear ms xcol barRows qrow quiet =>
    let m := s / max 1 xcol
    decide (qrow ≤ r) && decide (r < qrow + barRows) && decide (quiet ≤ m) && ms.getD (m - quiet) false
  | .matrix rows cols dark xcol xrow quiet =>
    let i := r / max 1 xrow
    let j := s / max 1 xcol
    decide (quiet ≤ i) && decide (i < quiet + rows) && decide (quiet ≤ j) && decide (j < quiet + cols) &&
      dark.getD ((i - quiet) * cols + (j - quiet)) false

/-- Width and height of a record's content. -/
def contentSize (s : State) (x : Rec) : Nat × Nat :=
  if x.kind = 4 then let y := s.chip.slot (x.handle % 2 ^ 20); (y.width, y.height)
  else match s.chip.store.find x.handle with
    | some a => let t := tileOf s.mem.job a; (t.ws, t.hs)
    | none => (0, 0)

/-- (r, s) of R81 for web point p and column c, none outside the record or its content. -/
def Rec.place (x : Rec) (pn pd p c ws hs : Nat) : Option (Nat × Nat) :=
  if p < x.start ∨ x.stop ≤ p ∨ c < x.col ∨ x.col + x.width ≤ c then none
  else
    let u := c - x.col
    let q := p - x.start + x.phase
    if x.kind = 3 then some (q * pd / pn, u)
    else
      let pa := max 1 (bits x.param 0 32)
      let pc := max 1 (bits x.param 32 18)
      let (u, q) := if x.kind = 2 then (u % pc, (q + (u / pc) * bits x.param 50 8 * pa / 256) % pa) else (u, q)
      let u := if x.kind = 1 then u + bits x.param 0 18 else u
      let t := q * pd / pn
      let (r, s) : Int × Int := match (if x.kind = 4 then x.flags % 4 else 0) with
        | 0 => (t, u)
        | 1 => (hs - 1 - u, t)
        | 2 => (hs - 1 - t, ws - 1 - u)
        | _ => (u, ws - 1 - t)
      if r < 0 ∨ (hs : Int) ≤ r ∨ s < 0 ∨ (ws : Int) ≤ s then none else some (r.toNat, s.toNat)

/-- The mask tile's bit at (r, s); 0 outside it (R82). -/
def maskBit (s : State) (h r k : Nat) : Bool :=
  match s.chip.store.find h with
  | none => false
  | some a =>
    let t := tileOf s.mem.job a
    decide (r < t.hs) && decide (k < t.ws) && (t.pixel s.mem.job a.start r k).headD 0 = 1

/-- The four values of PARAM as process channels. -/
def paramPx (v : Nat) : Px := (List.range 4).map (fun i => bits v (16 * i) 16) ++ List.replicate 8 0

/-- What a record yields at a point: none, or the channels, where blank stands for light pixels under LIGHT_KO. -/
def Rec.yields (s : State) (x : Rec) (p c : Nat) : Option (Nat × Nat × Px) :=
  let k := s.chip.pitch
  let (ws, hs) := contentSize s x
  match x.place (pitchNum k) (pitchDen k) p c ws hs with
  | none => none
  | some (r, q) => match x.kind with
    | 3 => some (r, q, paramPx x.param)
    | 4 =>
      match (s.chip.slot (x.handle % 2 ^ 20)).content with
      | none => none
      | some y =>
        if y.dark s.mem.job s.chip.store r q then some (r, q, paramPx x.param)
        else if bit x.flags 3 then some (r, q, blankPx) else none
    | _ => match s.chip.store.find x.handle with
      | none => none
      | some a =>
        let t := tileOf s.mem.job a
        some (r, q, tilePx t (t.pixel s.mem.job a.start r q))

/-- Applies one record at a point: the value so far, and whether the pixel is covered (R82). -/
def Rec.apply (s : State) (p c : Nat) (acc : Px × Bool) (x : Rec) : Px × Bool :=
  match x.yields s p c with
  | none => acc
  | some (r, q, v) => match x.op with
    | 0 => (v, true)
    | 1 => if maskBit s x.maskh r q then (v, true) else (acc.1, true)
    | _ => (blankPx, true)

/-- Puts a record into ascending LAYER, then SEQ. -/
def insertRec (x : Rec) : List Rec → List Rec
  | [] => [x]
  | y :: ys => if x.layer < y.layer ∨ (x.layer = y.layer ∧ x.seq < y.seq) then x :: y :: ys else y :: insertRec x ys

/-- In STANDBY a row is rendered from the records with SEQ below the NEXT_SEQ of the ROWMARK that covers it (R392). -/
def Chip.seqLimit (c : Chip) (k n : Nat) : Option Nat :=
  if c.runs then none
  else ((c.bar k).marks.find? fun m => m.1 ≤ n && n < m.1 + m.2.1).map (·.2.2)

/-- The records that bar k takes for row n, in order. -/
def Chip.barRecs (c : Chip) (k n : Nat) : List Rec :=
  (c.strm.recs.filter fun x => x.isContent && bit x.bars k && (c.seqLimit k n).all fun q => x.seq < q).foldl
    (fun l x => insertRec x l) []

/-- The composited pixel at web point p and column c, and whether it is covered. -/
def composite (s : State) (recs : List Rec) (p c : Nat) : Px × Bool := recs.foldl (Rec.apply s p c) (blankPx, false)

/-! ### Ink amount (R146 to R149) -/

/-- Inserts by falling f, then rising index (R148). -/
def insertF (x : Nat × Nat) : List (Nat × Nat) → List (Nat × Nat)
  | [] => [x]
  | y :: ys => if y.2 < x.2 ∨ (y.2 = x.2 ∧ x.1 < y.1) then x :: y :: ys else y :: insertF x ys

/-- Node of the 4-D table at indices i (R147). -/
def Table.node4 (t : Table) (i : List Nat) : Nat :=
  t.num 0 (2 * (i.getD 0 0 + 17 * i.getD 1 0 + 289 * i.getD 2 0 + 4913 * i.getD 3 0)) 2

/-- The walk of R148 along the simplex: sorted (dimension, f), current node, sum. -/
def simplex (t : Table) : List (Nat × Nat) → List Nat → Nat → Nat
  | [], _, acc => acc
  | (d, f) :: rest, i, acc =>
    let i := i.set d (i.getD d 0 + 1)
    let w := f - (rest.headD (0, 0)).2
    simplex t rest i (acc + w * t.node4 i)

/-- 4-D separation of process channels 0 to 3 (R148). -/
def separate (t : Table) (v : List Nat) : Nat :=
  let u := (List.range 4).map fun d => v.getD d 0 + v.getD d 0 / 32768
  let i := u.map fun u => min (u / 4096) 15
  let fs := (List.range 4).map fun d => (d, u.getD d 0 - i.getD d 0 * 4096)
  let ord := fs.foldl (fun l x => insertF x l) []
  (simplex t ord i ((4096 - (ord.headD (0, 0)).2) * t.node4 i) + 2048) / 4096

/-- The 1-D conversion of a spot channel (R149). -/
def spotInk (t : Table) (v : Nat) : Nat :=
  let u := v + v / 32768
  let i := min (u / 256) 255
  let f := u - i * 256
  let n (j : Nat) := t.num 1 (64 + 2 * j) 2
  (n i * (256 - f) + n (i + 1) * f + 128) / 256

/-- The ink amount of bar k (R146); a pixel covered by no record has none. -/
def inkAmount (set : TSet) (k : Nat) (px : Px × Bool) : Nat :=
  if !px.2 then 0
  else
    let sp := set.barT k 1
    let proc := separate (set.barT k 0) px.1
    let spot := spotInk sp (px.1.getD (4 + sp.num 1 1 1 % 8) 0)
    match sp.num 1 0 1 with
    | 0 => proc
    | 1 => spot
    | _ => min 65535 (proc + spot)

/-- Tone correction and trim of column c (R153). -/
def toneCorrect (tone : Table) (trim : FMap Nat) (c a : Nat) : Nat :=
  if a = 0 then 0
  else
    let e := tone.num 2 (64 + 3 * c) 3
    let t := clampI 0 65535 (((a * (e % 16384) + 4096) / 8192 : Nat) + 16 * sgn 10 (e / 16384))
    min 65535 ((t.toNat * FMap.get 32768 trim (c / 16) + 16384) / 32768)

/-! ### Screening (R174 to R178, R180) -/

/-- A bar's kernel in use: weights, level values t(0) to t(L − 1), noise amplitude, OUTMODE, KSEED. -/
structure Kernel where
  w : List Nat
  t : List Nat
  namp : Nat
  side : Bool
  seed : Nat
deriving DecidableEq, Repr

def Table.kernel (tb : Table) (depth : Nat) : Kernel :=
  { w := (List.range 12).map fun i => tb.num 3 (2 * i) 2
    t := 0 :: (List.range (2 ^ depth - 1)).map fun i => tb.num 3 (24 + 2 * i) 2
    namp := tb.num 3 38 2, side := tb.num 3 40 1 = 1, seed := tb.num 3 44 4 }

/-- The noise of column c in the row of web point p (R180). -/
def noise (seed kseed p c : Nat) : Int :=
  let m (x : Nat) := x % 2 ^ 64
  let x := seed ^^^ m (p * 0xC3A59E2B74D10F6B)
  let x := x ^^^ (m (kseed * 2 ^ 32) ||| c)
  let x := x ^^^ (x / 2 ^ 32)
  let x := m (x * 0x9A724C1ED5B3806F)
  let x := x ^^^ (x / 2 ^ 29)
  let x := m (x * 0xE38B27C561F94AD3)
  let x := x ^^^ (x / 2 ^ 32)
  sgn 16 (x / 2 ^ 48)

/-- The level value l for a column: scaled by its weight where it is weak. -/
def levelValue (ker : Kernel) (st : ColState) (l : Nat) : Int :=
  let t := ker.t.getD l 0
  match st with
  | .weak w => ((t * w + 32) / 64 : Nat)
  | _ => (t : Nat)

/-- The quantiser of R175: level and error. -/
def quantise (ker : Kernel) (st : ColState) (a : Nat) (rin iin nu : Int) : Nat × Int :=
  if a = 0 then (0, 0)
  else
    let x : Int := a + clampI (-32768) 32767 rin + iin
    let nz := (nu * ker.namp) / 65536
    let level := if st = .out then 0 else
      (List.range (ker.t.length - 1)).foldl (fun best i =>
        if (levelValue ker st i + levelValue ker st (i + 1) + 1) / 2 + nz ≤ x then i + 1 else best) 0
    (level, clampI (-32768) 32767 (x - levelValue ker st level))

/-- The tap with the greatest weight, the lowest index on a tie. -/
def bigTap (w : List Nat) : Nat :=
  (List.range 12).foldl (fun b i => if w.getD b 0 < w.getD i 0 then i else b) 0

/-- The shares of an error over the 12 taps (R178): taps 0 to 4 stay in the row, 5 to 11 go to the row below. -/
def shares (ker : Kernel) (e : Int) : List Int :=
  let big := bigTap ker.w
  let s := (List.range 12).map fun i => if i = big then 0 else (e * ker.w.getD i 0) / 4096
  s.set big (e - s.foldl (· + ·) 0)

/-- Adds two lists place by place. -/
def addLists : List Int → List Int → List Int
  | [], ys => ys
  | xs, [] => xs
  | x :: xs, y :: ys => (x + y) :: addLists xs ys

/-- What one pixel sends: to the five columns that follow in its row, and to columns −3 to +3 of the row below (R178). -/
def sends (ker : Kernel) (st : ColState) (e : Int) : List Int × List Int :=
  if st = .out ∧ ker.side then ([e / 2, 0, 0, 0, 0], [0, 0, e - e / 2, 0, 0, 0, 0])
  else let s := shares ker e; (s.take 5, s.drop 5)

/-- One row from column c on: `rin` the sums from the row above, `fwd` the shares waiting in this row, `win` the sums of the
row below at columns c − 3 to c + 3. Gives the levels, and the row below's sums from column c − 3 on. -/
def screenRow (ker : Kernel) (st : Nat → ColState) (ink : Nat → Nat) (nu : Nat → Int) :
    List Int → Nat → List Int → List Int → List Nat × List Int
  | [], _, _, win => ([], win.take 3)
  | r :: rs, c, fwd, win =>
    let (level, e) := quantise ker (st c) (ink c) r (fwd.headD 0) (nu c)
    let (f, d) := sends ker (st c) e
    let win := addLists win d
    let (ls, below) := screenRow ker st ink nu rs (c + 1) (addLists (fwd.drop 1) f) (win.drop 1)
    (level :: ls, win.headD 0 :: below)

/-- xs cut or filled with 0 to n entries. -/
def padTo (n : Nat) (xs : List Int) : List Int := (xs ++ List.replicate n 0).take n

/-- Row n of bar k in set `set`: its levels, and the carry for the row below, clamped (R184). -/
def renderRow (s : State) (set : TSet) (k n : Nat) (carry : List Int) : List Nat × List Int :=
  let c := s.chip
  let p := rowPoint c.pitch n
  let w := set.width k
  let recs := c.barRecs k n
  let ker := (set.barT k 3).kernel (c.depth set k)
  let trim := ((c.bar k).trimFor n).arr
  let (ls, below) := screenRow ker (fun col => (colState (set.barT k 4) (set.barT k 5) col).screen)
    (fun col => toneCorrect (set.barT k 2) trim col (inkAmount set k (composite s recs p col)))
    (fun col => noise c.strm.seed ker.seed p col) (padTo w carry) 0 [] []
  (ls, (padTo w (below.drop 3)).map (clampI (-32768) 32767))

/-! ### Nozzle data and ledger sums (R156, R190, R282, R284) -/

/-- Packs levels of b bits, least significant bit first, into bytes (R282). -/
def packLevels (b : Nat) (ls : List Nat) : List Byte :=
  let bitsOf := ls.flatMap fun l => (List.range b).map fun i => bit l i
  (List.range (8 * ceilDiv bitsOf.length 64)).map fun j =>
    BitVec.ofNat 8 ((List.range 8).foldl (fun v i => v + b2n (bitsOf.getD (8 * j + i) false) * 2 ^ i) 0)

/-- One head's part of a row. -/
def headRow (set : TSet) (k n depth : Nat) (levels : List Nat) (x : Span) : HeadRow :=
  let lv := (List.range x.nnoz).map fun z => match x.column z with
    | some col => if (colState (set.barT k 4) (set.barT k 5) col).firedBy n col x.head then levels.getD col 0 else 0
    | none => 0
  let bytes := packLevels depth lv
  { head := x.head, nnoz := x.nnoz, depth := depth, levels := bytes, dcrc := crc32 bytes }

/-- Σ w(l) of a row per bin (R156): w(0) is 0. -/
def Chip.rowInk (c : Chip) (k : Nat) (levels : List Nat) : FMap Nat :=
  ((List.range levels.length).zip levels).foldl (fun m e =>
    if e.2 = 0 then m
    else FMap.put 0 m (e.1 / 16) (FMap.get 0 m (e.1 / 16) + c.get (CH_WGT_W k e.2))) []

/-- The row checksum: the XOR of the DCRC of every head (R284). -/
def RowSlot.checksum (x : RowSlot) : Nat := x.heads.foldl (fun v h => v ^^^ h.dcrc) 0

/-- Row n of bar k, rendered: its slot, and the carry line after it. -/
def newSlot (s : State) (k n : Nat) (carry : List Int) : RowSlot × List Int :=
  let c := s.chip
  let set := c.setFor n
  let (levels, carry) := renderRow s set k n carry
  ({ n := n, tag := c.rowTag k n, lgen := ((c.bar k).trimFor n).lgen, ink := c.rowInk k levels,
     heads := ((set.barT k 5).spans).map (headRow set k n (c.depth set k) levels) }, carry)

end Sys2Proof.Machine
end

