-- ==== Sys2Proof/Machine/Cache.lean ====
section
/-!
DEFINITION. Sys2Proof/Machine/Cache.lean: tile fetches and the tile cache (R139 to R143, R145).
-/
namespace Sys2Proof.Machine

/-! ### The cache (R140, R141) -/

/-- Sets of 16 ways that a line may lie in: which of the 488 holds it is not in the spec (assumption 33). -/
def CacheLine.set (x : CacheLine) : Nat := Config.cacheSet x.h x.sg x.b x.i % 488

/-- A line holds part of stream (sg, b) of the tile with handle h. -/
def CacheLine.of (h sg b : Nat) (x : CacheLine) : Bool := x.h = h && x.sg = sg && x.b = b

/-- Lines of a decoded stream: whole lines of 1 KiB (R141). -/
def Tile.streamLines (t : Tile) (sg b : Nat) : Nat := ceilDiv (t.decoded sg b) 1024

/-- The tile of a handle is pinned (R141). -/
def Store.pinned (st : Store) (h : Nat) : Bool := (st.find h).any fun x => x.pin && x.isSealed && x.tile

/-- A fetch of bar k, one of n enabled bars, may evict line y: it is neither locked nor pinned, and another bar's only beyond that
bar's reserve of ⌊5,088 / n⌋ lines. -/
def Store.evictable (st : Store) (k n : Nat) (y : CacheLine) : Bool :=
  !y.locked && !st.pinned y.h && (y.bar = k || decide (5088 / max 1 n < (st.lines.filter fun z => z.bar = y.bar).length))

/-- Finds a place for a line in its set: a free way, or that of the least recently used line that may be evicted. -/
def Store.placeLine (k n : Nat) (st : Store) (x : CacheLine) : Option Store :=
  if st.lines.length < 16 || (st.lines.filter fun y => y.set = x.set).length < 16 then some { st with lines := x :: st.lines }
  else (takeFirst (fun y => y.set = x.set && st.evictable k n y) st.lines.reverse).map fun p => { st with lines := x :: p.2.reverse }

/-- Locked lines for the whole stream of a fetch, none of them when one finds no place (R139, R141). -/
def Store.lockLines (st : Store) (n : Nat) (x : Fetch) : Option Store :=
  let st := { st with lines := st.lines.filter fun y => !y.of x.h x.sg x.b }
  (List.range x.lines).foldl (fun o i => o.bind fun st => st.placeLine x.bar n { h := x.h, sg := x.sg, b := x.b, i := i, bar := x.bar, locked := true })
    (some st)

/-- Every line of stream (sg, b) is in the cache, decoded. -/
def Store.holds (st : Store) (h sg b n : Nat) : Bool := (st.lines.filter fun y => y.of h sg b && !y.locked).length = n

/-- The lines of a stream become the most recently used. -/
def Store.touch (st : Store) (h sg b : Nat) : Store :=
  { st with lines := st.lines.filter (·.of h sg b) ++ st.lines.filter fun y => !y.of h sg b }

/-! ### The fetch decoders (R139, R142, R145) -/

/-- The fetches of the last 100 µs as bytes decoded, times `n`: what CD_DEMAND measures (R145). -/
def Chip.loadTimes (c : Chip) (n : Nat) : Nat :=
  ((c.store.load.filter fun x => decide (c.ns < x.1 + 100000)).map (·.2)).sum * n

/-- 32 decoders at 64 bytes per cycle of 1.0 GHz: bytes in 100 µs (R139). -/
def decoderBytes : Nat := 204800000

/-- CD_DEMAND shows the load as a share of the current capacity, PEAK the highest, and CD_STAT the decoders at work (R145). -/
def Chip.sampleDemand (c : Chip) : Chip :=
  let v := min 255 (c.loadTimes (100 * 2 ^ c.get HL_THR_DIV_MR) / decoderBytes)
  ((c.set CD_DEMAND_DEMAND v).set CD_DEMAND_PEAK (max v (c.get CD_DEMAND_PEAK))).set CD_STAT_FETCH_BUSY
    (c.store.fetches.filter (·.busy)).length

/-- The waiting fetches in the order in which a decoder takes them: each bar's oldest, round-robin from the bar after the one served
last (R139). No bar waits more than 16 grants, so aging never acts. -/
def Store.fetchOrder (st : Store) : List Fetch :=
  (List.range 16).filterMap fun i => st.fetches.find? fun x => x.bar = (st.lastBar + 1 + i) % 16 && !x.busy && !x.failed

/-- A free decoder takes the first fetch that finds lines; the others wait (R139, R141). -/
def Store.startFetch (n : Nat) (st : Store) : Store :=
  if 32 ≤ (st.fetches.filter (·.busy)).length then st
  else
    match st.fetchOrder.findSome? fun x => (st.lockLines n x).map fun st => (x, st) with
    | none => st
    | some (x, st) => { st with lastBar := x.bar, fetches := st.fetches.map fun y => if y = x then { y with busy := true } else y }

/-- Decoders that are free take what waits. -/
def Chip.startFetches (c : Chip) : Chip :=
  if c.store.fetches.all fun x => x.busy || x.failed then c
  else
    let n := c.enabledBars.length
    ({ c with store := (List.range 32).foldl (fun st _ => st.startFetch n) c.store } : Chip).sampleDemand

/-- Row (k, n) needs stream (sg, b) of a tile: it is in the cache, or a fetch of it is under way, or one starts (R139). -/
def State.needStream (s : State) (k n : Nat) (e : Nat × Nat × Nat) : State :=
  let (h, sg, b) := e
  match s.chip.store.find h with
  | none => s
  | some a =>
    let t := tileOf s.mem.job a
    let m := t.streamLines sg b
    s.onChip fun c =>
      let st := c.store
      let same (x : Fetch) : Bool := x.h = h && x.sg = sg && x.b = b && !x.failed
      if st.fetches.any same then
        { c with store := { st with fetches := st.fetches.map fun x => if same x then { x with rows := x.rows ++ [(k, n)] } else x } }
      else if st.holds h sg b m then { c with store := st.touch h sg b }
      else
        let x : Fetch := { bar := k, h := h, sg := sg, b := b, rows := [(k, n)], lines := m }
        let ld := (st.load.filter fun x => decide (c.ns < x.1 + 100000)) ++ [(c.ns, t.decoded sg b)]
        ({ c with store := { st with fetches := st.fetches ++ [x], load := ld } } : Chip).count TC_MISS_MISSES

/-- The streams that a record needs for row n of bar k: those of its tile, and of its mask, at the pixels it yields (R81, R82). -/
def Rec.streams (s : State) (k n : Nat) (x : Rec) : List (Nat × Nat × Nat) :=
  let p := s.chip.pitch
  let (ws, hs) := contentSize s x
  let spots := (List.range (min x.width ((s.chip.setFor n).width k - x.col))).filterMap fun u =>
    x.place (pitchNum p) (pitchDen p) (rowPoint p n) (x.col + u) ws hs
  let tile (h : Nat) : List (Nat × Nat × Nat) :=
    match s.chip.store.find h with
    | none => []
    | some a =>
      let t := tileOf s.mem.job a
      (spots.filter fun e => decide (e.1 < t.hs) && decide (e.2 < t.ws)).map fun e =>
        (h, e.1 / max 1 t.segRows, e.2 / max 1 t.bandCols)
  (if x.kind = 1 ∨ x.kind = 2 then tile x.handle else []) ++ if x.op = 1 then tile x.maskh else []

/-- The bar asks for every stream that row n needs (R139). -/
def askTiles (k : Nat) (s : State) (n : Nat) : State :=
  let es := ((s.chip.barRecs k n).flatMap (Rec.streams s k n)).eraseDups
  if es.isEmpty then s else (es.foldl (State.needStream · k n) s).onChip (·.startFetches)

/-- A slice of row (k, n) stalls: tile data that the row needs has not arrived, or could not be had (R142, R143). -/
def Store.stalls (st : Store) (k n : Nat) : Bool := st.fetches.any fun x => x.rows.contains (k, n)

/-- A fetch decoder ends a stream: its lines are unlocked. A corrupt stream or an uncorrectable read has been retried up to three
times; then the codec raises its failover fault, naming handle and stream, and the rows that need it stay as they are (R27, R143). -/
def tileFetchDone (h sg b retries : Nat) (r : Ecc) (s : State) : State :=
  match s.chip.store.fetches.find? fun x => x.h = h && x.sg = sg && x.b = b && x.busy with
  | none => s
  | some x =>
    let bad := decide (r = .uncorrectable) || (s.chip.store.find h).any fun a =>
      a.isSealed && a.tile && ((tileOf s.mem.job a).stream s.mem.job a.start sg b).isNone
    s.onChip fun c =>
      let c := (c.jobStoreRead r).bump CD_FERR_RETRY (min retries 3)
      let st := c.store
      let c := if bad then
          ({ c with store := { st with
            lines := st.lines.filter fun y => !y.of h sg b,
            fetches := st.fetches.map fun y => if y = x then { y with busy := false, failed := true } else y } } : Chip)
        else { c with store := { st with
          lines := st.lines.map fun y => if y.of h sg b then { y with locked := false } else y,
          fetches := st.fetches.filter fun y => y ≠ x } }
      let c := if bad then (c.bump CD_FERR_FAIL).checked .cd 0 { src := 2, detail := h + sg % 2 ^ 32 * 2 ^ 32, detail2 := b % 65536 } true
        else c.inject .cd 0 [2]
      c.startFetches.sampleDemand

def execTileFetchDone (t : Nat) (h sg b retries : Nat) (r : Ecc) (s : State) : Host.Outcome State Fault Refusal :=
  .next (tileFetchDone h sg b retries r (s.at_ t))

/-- A new run asks for its rows anew (R19). -/
def Chip.clearFetches (c : Chip) : Chip :=
  { c with store := { c.store with fetches := [], lines := c.store.lines.filter fun y => !y.locked } }

end Sys2Proof.Machine
end

