-- ==== Sys2Proof/Machine/Bars.lean ====
section
/-!
DEFINITION. Sys2Proof/Machine/Bars.lean: bars along the web: row index, passes, row ring, slices, and a commit's way through
the bars (R19 to R26, R182 to R195, R363, R364, R392).
-/
namespace Sys2Proof.Machine

/-! ### Applying a set (R363, R364, R373) -/

/-- What RESTOREFAC's calibration part puts in force: bit 0 the factory start taps at each lane's next training, bit 1 the
factory port latencies (Table 14-8); the spread acts at the next start-up only. -/
def Chip.applyCalib (c : Chip) (items : Nat) : Chip :=
  let c := if bit items 1 then c.forAll (List.range 4) fun c p =>
    (c.set (TB_PORTLAT_TXLAT p) (TB_PORTLAT_TXLAT p).reset).set (TB_PORTLAT_RXLAT p) (TB_PORTLAT_RXLAT p).reset else c
  if bit items 0 then
    let plain (l : Lane) : Lane := { l with userTaps := none }
    { c with lanes := { c.lanes with lane := FMap.mapV {} plain c.lanes.lane } }
  else c

/-- The committed set becomes the active set; the staged set is SETTLING (R364). A bar that renders has cut its carried errors at
row n_k; those of a bar that the commit disables are cut here (R181). -/
def Chip.settle (c : Chip) (x : Sched) : Chip :=
  let c : Chip := { c with stage := { c.stage with active := x.set, sched := none, calItems := x.set.calib.items }
                           fire := { c.fire with therm := c.fire.thermNext } }
  let c := c.forAll (List.range 16) fun c k => c.setBar k { c.bar k with carry := (c.bar k).carry.take (x.set.width k) }
  (if x.cal then c else c.applyCalib x.set.calib.items).set SEQ_SSTAT_STATE 4

/-- Once every bar that is enabled in either set has reached n_k, the set becomes SETTLING. -/
def Chip.checkSettle (c : Chip) : Chip :=
  match c.stage.sched with
  | some x =>
    if x.at_.isNone && (List.range 16).all (fun k =>
        (!c.stage.active.enabled k && !x.set.enabled k) || c.reachedNk x k) then c.settle x
    else c
  | none => c

/-- Bar k has started rows n0 to n0 + count − 1: whether that reaches n_k. Once every bar that the commit leaves enabled has, its
calibration part is in force (R363). -/
def Chip.noteReached (c : Chip) (k n0 count : Nat) : Chip :=
  match c.stage.sched with
  | some x =>
    if x.at_.isNone ∧ n0 ≤ x.nk ∧ x.nk < n0 + count ∧ !bit x.reached k then
      let m := x.reached + 2 ^ k
      let all := (List.range 16).all fun j => !x.set.enabled j || bit m j
      let c : Chip := { c with stage := { c.stage with sched := some { x with reached := m, cal := all } } }
      if all then c.applyCalib x.set.calib.items else c
    else c
  | none => c

/-- A trim reset whose row is at or below n takes effect (R171): LGEN adds 1, the reset array is stored, the staged trims are discarded,
and loop commits for the same or a later row of this job do not apply. -/
def Chip.applyReset (c : Chip) (k n : Nat) : Chip :=
  let b := c.bar k
  match b.reset with
  | some r =>
    if r ≤ n then
      let g := (c.get (CH_LGEN_LGEN k) + 1) % 65536
      let later (x : TrimGen) : Bool := x.start ≠ 0 && decide (r ≤ x.start)
      let ts := b.trims.filter (fun x => !later x) ++ [{ lgen := g, start := r }]
      let c := c.setBar k { b with reset := none, trims := ts.drop (ts.length - 256), stagedT := [], staleTo := r }
      ((c.bump CH_SUP_SUPERSEDED (b.trims.countP later)).set (CH_LGEN_LGEN k) g).refreshPending
    else c
  | none => c

/-! ### Passes (R21, R182, R183) -/

/-- The clock of bar engine k in Hz (assumption 16). -/
def barHz (k : Nat) : Nat := 100000000 * (1 + Config.barClock k % 12)

/-- Bar engine cycles as DT units, with the cycles that throttling skips, rounded up. -/
def Chip.cyclesDt (c : Chip) (k cycles : Nat) : Nat :=
  ceilDiv (cycles * 64 * dtSecond) (barHz k * (64 - min 63 (c.get (PWR_SKIP .be k))))

/-- Bar k may start row n (R21, R183, R392). -/
def Chip.rowAllowed (c : Chip) (k n : Nat) : Bool :=
  let s := c.setFor n
  s.enabled k && decide ((n : Int) ≤ (c.bar k).rk + s.lead k) && (c.runs || (c.seqLimit k n).isSome)

/-- The rows of a pass that may start now, at most one per working slice and as many as the ring has room for. -/
def Chip.passRows (c : Chip) (k : Nat) : List Nat :=
  let b := c.bar k
  ((List.range (min (c.get (BE_SCR_WORKING k)) (64 - b.ring.length))).map (b.next + ·)).takeWhile (c.rowAllowed k)

/-- Bar engine k works: its region is on and not under test, and it is not quarantined. -/
def Chip.barWorks (c : Chip) (k : Nat) : Bool :=
  c.regionOn (k / 4) && !c.testing (k / 4) && !c.is (PWR_QUAR .be k)

/-- max(W_k, 96) cycles have passed since the previous pass started (R183), and after a rollback its first row is at its end (R193). -/
def Chip.passDue (c : Chip) (k : Nat) : Bool :=
  let b := c.bar k
  let w := (c.setFor b.next).width k
  match b.lastPass with
  | none => true
  | some t => decide (t + c.cyclesDt k (max w 96) ≤ c.dt) && decide (b.cutAt + c.cyclesDt k (w - b.cut) ≤ c.dt)

/-- The latest confirmed cut of the pass under way (R192): every working slice has passed column cut + 256, at one column per cycle, each
4 columns behind the one before; the checks of 128 cycles are over by then. -/
def Chip.confirmedCut (c : Chip) (k : Nat) : Nat :=
  let b := c.bar k
  let rows := match b.pass with | some p => p.2 | none => 1
  let ran := (c.dt - b.cutAt) * barHz k * (64 - min 63 (c.get (PWR_SKIP .be k))) / (64 * dtSecond)
  max b.cut ((b.cut + ran - 4 * (rows - 1) - 256) / 256 * 256)

/-- The pass under way rolls back to its latest confirmed cut and goes on 2 µs later (R193, R194). -/
def Chip.rollBack (c : Chip) (k : Nat) : Chip :=
  let b := { c.bar k with cut := c.confirmedCut k, cutAt := c.dt + 2 * dtMicro }
  if (c.bar k).ring.all (·.complete) then c else c.setBar k b

/-- Row n of bar k may become complete: its pass is not being rolled back. -/
def Chip.passRuns (c : Chip) (k n : Nat) : Bool :=
  let b := c.bar k
  decide (b.cutAt ≤ c.dt) || (match b.pass with | some p => decide (n < p.1) | none => true)

/-- A pass may start in bar k. -/
def Chip.mayPass (c : Chip) (k : Nat) : Bool :=
  c.strm.job && (c.runs || c.role = 2 || (c.role = 3 && c.twin.adopted)) && c.barWorks k && c.passDue k && !(c.passRows k).isEmpty

/-- One row of a pass: a reset that it meets, its slot, and the carry after it. -/
def startRow (k : Nat) (s : State) (n : Nat) : State :=
  let s := s.onChip fun c => c.applyReset k n
  let (x, carry) := newSlot s k n (s.chip.bar k).carry
  s.onChip fun c =>
    let b := c.bar k
    c.setBar k { b with ring := b.ring ++ [x], carry := carry, next := n + 1 }

/-- A unit that renders shadow rows keeps the carry line of each bar's latest two passes (R398). -/
def Chip.keepPass (c : Chip) (k n0 count : Nat) : Chip :=
  if c.runs then c
  else
    let mine := c.twin.passes.filter fun p => p.bar = k
    let old := (c.twin.passes.filter fun p => p.bar ≠ k) ++ mine.drop (mine.length - 1)
    { c with twin := { c.twin with passes := old ++ [⟨k, n0, count, (c.bar k).carry⟩] } }

/-- Starts a pass of rows `ns`: all of them count as started at this edge (R183). What a row holds is known from here on, for sealed tiles
do not change; the row completes once the tile data it needs has come (R139, R142). -/
def startPass (k : Nat) (ns : List Nat) (s : State) : State :=
  let n0 := ns.headD 0
  let s := s.onChip fun c =>
    let c := c.keepPass k n0 ns.length
    let b := c.bar k
    let c := if b.carryDue then c.jrn .carry (k :: b.carry.map (uns 16)) else c
    let c := c.setBar k { b with carryDue := false, lastPass := some c.dt, pass := some (n0, ns.length), cut := 0, cutAt := c.dt }
    c.jrn .rowmark [k, n0, ns.length, c.get SEQ_PSEQ_NEXT_SEQ, c.get SEQ_SCGEN_CGEN]
  let s := ns.foldl (askTiles k) (ns.foldl (startRow k) s)
  s.onChip fun c => ((c.noteReached k n0 ns.length).retire.checkEnd).noteBehind.checkSettle

def execPassStart (t : Nat) (k : Fin 16) (s : State) : Host.Outcome State Fault Refusal :=
  let s := s.at_ t
  .next (if s.chip.mayPass k then startPass k (s.chip.passRows k) s else s)

/-- Puts a frame at the end of lane l's queue when it carries frames (SERVICE, or RELOCK). -/
def Chip.lane (c : Chip) (l : Nat) : Lane := FMap.get {} c.lanes.lane l
def Chip.setLane (c : Chip) (l : Nat) (x : Lane) : Chip :=
  { c with lanes := { c.lanes with lane := FMap.put {} c.lanes.lane l x } }
def Chip.laneState (c : Chip) (l : Nat) : Nat := c.get (LQ_LSTAT_STATE (l / 4) (l % 4))
def Chip.enqueue (c : Chip) (l : Nat) (f : LaneFrame) : Chip :=
  if c.laneState l = 4 ∨ c.laneState l = 5 then c.setLane l { c.lane l with txq := (c.lane l).txq ++ [f] } else c

/-- Row n of bar k is complete: its heads' ROW frames wait on their lanes, in ascending FIRST (R185, R280). -/
def Chip.rowComplete (c : Chip) (k n hits : Nat) : Chip :=
  let b := c.bar k
  match b.ring.find? fun x => x.n = n && !x.complete with
  | none => c
  | some x =>
    let c := c.setBar k { b with ring := b.ring.map fun y => if y.n = n then { y with complete := true } else y }
    let c := c.count TC_HIT_HITS hits
    c.forAll x.heads fun c h => c.enqueue (h.head / 16) (.row k n h.head)

/-! ### The web moves: r_k and what follows (R19, R26, R185) -/

/-- The highest row whose web point has reached the nozzle line at X = x with offset d, −1 for none (R19). -/
def rowIndex (p x d : Nat) : Int :=
  if x < d then -1 else ((((x - d + 1) * pitchDen p - 1) / pitchNum p : Nat) : Int)

/-- The lowest of the rows of bar k that are not complete and that r_k has just made late (R185). -/
def Chip.lateRow (c : Chip) (k : Nat) (old new : Int) : Option Nat :=
  let b := c.bar k
  let from' := if old < 0 then 0 else old.toNat + 3
  let ns := ((b.ring.filter fun x => !x.complete).map (·.n) ++ [max b.next from']).filter fun (n : Nat) =>
    decide (from' ≤ n) && decide ((n : Int) ≤ new + 2) && (c.setFor n).enabled k
  if ns.isEmpty then none else some (leastOr 0 ns)

/-- r_k follows X; it never decreases. Rows made late stop fire with a fault that names the lowest (R19, R185). -/
def Chip.advanceRow (c : Chip) (k : Nat) : Chip :=
  let b := c.bar k
  let b := { b with high := max b.high ((c.get WM_X_X : Int) - c.tickOffset k) }
  let new := max b.rk (rowIndex c.pitch (c.get WM_X_X) (c.tickOffset k))
  if new ≤ b.rk then c.setBar k b
  else
    let late := if c.runs then c.lateRow k b.judged new else none
    let entered := if b.rk.fdiv 64 < new.fdiv 64 then some c.dt else b.bandAt
    let c := c.setBar k { b with rk := new, judged := new, winRows := b.winRows + (new - b.rk).toNat, bandAt := entered }
    match late with
    | some n => c.raise .be k { src := 0, detail := packRow (some n) none none }
    | none => c

/-- The skip of a bar engine: a disabled one skips 63 of 64 cycles while THROT is set (R440). -/
def Chip.viewSkip (c : Chip) (b : Blk) (i : Nat) : Nat :=
  if b = .be ∧ c.is HL_THSTAT_THROT ∧ ¬ (c.setOf i).enabled i then 63 else c.get (PWR_SKIP b i)

/-- R_k (R25), with the slices that work (R194) and the clock that throttling leaves (Table 2-3, R440). -/
def Chip.rateLimit (c : Chip) (k : Nat) : Nat :=
  let s := c.setOf k
  let ls := s.barLanes k
  let fast := match ls with | l :: _ => c.fast (l / 4) | [] => false
  let wb := max 1 (s.width k * c.depth s k)
  let clane := if fast then 11468800000 else 9175040000
  min 125000 (min (ls.length * clane / wb)
    (c.get (BE_SCR_WORKING k) * barHz k * (64 - c.viewSkip .be k) * 100 / (64 * 105 * max 1 (s.width k))))
/-- R_job, the least R_k over the enabled bars (R25). -/
def Chip.jobLimit (c : Chip) : Nat := leastOr 125000 (c.enabledBars.map c.rateLimit)

/-- The measured row rate exceeds `num / den` of R_job. -/
def Chip.rateAbove (c : Chip) (num den : Nat) : Bool :=
  decide ((c.jobLimit * num * pitchNum c.pitch : Int) < c.webSpeed * pitchDen c.pitch * den)

/-- A row rate above R_job while a job prints stops fire, once on each entry, and once more after a FIRE_ARM (R26). -/
def Chip.checkRate (c : Chip) : Chip :=
  let now := c.printing && !c.enabledBars.isEmpty && c.rateAbove 1 1
  let was := c.fire.tooFast
  let c : Chip := { c with fire := { c.fire with tooFast := now } }
  if now && !was then c.raise .ls 0 { src := 0 } else c

/-- R_job × P, the web speed limit in 0.1 mm/s, rounded down (R26, R443). -/
def Chip.speedLimit (c : Chip) : Nat := c.jobLimit * pitchNum c.pitch * 254 / (pitchDen c.pitch * 153600)

/-- V_th binds: it is the lesser limit (R441). -/
def Chip.thermBinds (c : Chip) : Bool := decide (c.get HL_THR_VTH < c.speedLimit)

/-- LINE_SLOW follows the measured row rate (R26, R441); a unit drives the pin only while it is ACTIVE or SOLO (R378). -/
def Chip.refreshSlow (c : Chip) : Chip :=
  let now := !c.enabledBars.isEmpty && (if c.thermBinds then decide ((97 * c.get HL_THR_VTH * 153600 : Int) < c.webSpeed * 25400)
    else c.rateAbove 97 100)
  if now = c.health.slow then c
  else
    let c : Chip := { c with health := { c.health with slow := now } }
    if c.runs then c.emit .lineSlow 0 [b2n now] else c

/-- Everything but stamps that follows a new X (R19, R26, R86, R88, R93, R220, R364). -/
def Chip.webMoved (c : Chip) : Chip :=
  let c := c.refreshSlow
  if !c.strm.job then c
  else
    let c := c.forAll (List.range 16) Chip.advanceRow
    (c.releaseUnfired.checkMarks.retire).noteBehind.checkSettle.checkRate

/-! ### Slices (R191 to R194) -/

/-- Slice i of bar k works: neither fenced nor the spare. -/
def Chip.sliceWorks (c : Chip) (k i : Nat) : Bool :=
  i < 25 && !bit (c.get (BE_FENCE_FENCED k)) i && c.get (BE_SCR_SPARE k) ≠ i

/-- A bar has a spare. -/
def Chip.hasSpare (c : Chip) (k : Nat) : Bool := c.get (BE_SCR_SPARE k) ≠ 31

/-- The bar has no spare any more. -/
def Chip.noSpare (c : Chip) (k : Nat) : Chip :=
  let c := (c.set (BE_SCR_SPARE k) 31).set (BE_SCR_SPARE_STATE k) 2
  c.setBar k { c.bar k with spareOk := false, lent := false }

/-- A working slice reports a fault: the pass rolls back; the spare takes its place, or the bar goes on with one slice
fewer, or, below 20, is quarantined (R193, R194). -/
def Chip.sliceFault (c : Chip) (k i : Nat) : Chip :=
  if !c.sliceWorks k i || !c.barWorks k then c
  else
    let c := ((c.rollBack k).set (BE_FENCE_FENCED k) (c.get (BE_FENCE_FENCED k) + 2 ^ i)).bump (BE_RBK_ROLLBACK k)
    if c.hasSpare k then (c.noSpare k).raise .be k { src := 1, cell := i }
    else if c.get (BE_SCR_WORKING k) ≤ 20 then (c.raise .be k { src := 2, cell := i }).quarantine .be k
    else (c.set (BE_SCR_WORKING k) (c.get (BE_SCR_WORKING k) - 1)).raise .be k { src := 2, cell := i }

/-- The working slice with the lowest index above `i`, wrapping (R191). -/
def Chip.nextOut (c : Chip) (k i : Nat) : Option Nat :=
  ((List.range 25).map fun j => (i + 1 + j) % 25).find? (c.sliceWorks k)

/-- Every 10 s, between passes, the spare changes places with a working slice, if its latest round passed (R191). -/
def execSpareRotation (t : Nat) (k : Fin 16) (s : State) : Host.Outcome State Fault Refusal :=
  .next ((s.at_ t).onChip fun c =>
    let b := c.bar k
    if c.barWorks k && c.hasSpare k && b.spareOk && !b.lent && decide (b.rotated + 10 * dtSecond ≤ c.dt) &&
        b.ring.all (·.complete) then
      match c.nextOut k b.lastOut with
      | some i =>
        let c := c.setBar k { b with lastOut := i, spareOk := false, rotated := c.dt }
        ((c.set (BE_SCR_SPARE k) i).set (BE_SCR_SPARE_STATE k) 0).count (BE_SCR_ROTATIONS k)
      | none => c
    else c)

/-- A test round of the spare ends; one that fails fences it (R191, R432). -/
def execSpareRoundEnd (t : Nat) (k : Fin 16) (pass : Bool) (s : State) : Host.Outcome State Fault Refusal :=
  .next ((s.at_ t).onChip fun c =>
    if !c.hasSpare k || c.get (BE_SCR_SPARE_STATE k) ≠ 0 || !c.barWorks k then c
    else if pass then (c.setBar k { c.bar k with spareOk := true }).inject .be k [3]
    else
      let i := c.get (BE_SCR_SPARE k)
      let c := c.set (BE_FENCE_FENCED k) (c.get (BE_FENCE_FENCED k) + 2 ^ i)
      ((c.noSpare k).bump (BE_RBK_SPARE_FAIL k)).raise .be k { src := 3, cell := i })

/-! ### Render headroom (R195) -/

/-- Render headroom of bar k over a window of 100 µs in which `lost` cycles were lost, in 0.1 %. -/
def Chip.headroom (c : Chip) (k skip lost : Nat) : Nat :=
  let w := (c.setOf k).width k
  let u := barHz k / 10000 * (64 - skip) / 64 - lost
  let cap := c.get (BE_SCR_WORKING k) * u * w
  let d := w * (c.bar k).winRows
  let m := max w 96
  if d = 0 then 0xFFFE
  else if cap ≤ d * m then 0 else min 0xFFFE (1000 * (cap - d * m) / (d * m))

/-- The headroom of the window, shown in BEk_HR and MIN; a new window begins. -/
def Chip.closeHeadroom (c : Chip) (k lost : Nat) : Chip :=
  let h := c.headroom k (c.get (PWR_SKIP .be k)) lost
  let c := c.set (BE_HR_HEADROOM k) h
  let c := if h < c.get (BE_HRMIN_MIN k) then c.set (BE_HRMIN_MIN k) h else c
  c.setBar k { c.bar k with winRows := 0 }

end Sys2Proof.Machine
end

