-- ==== Sys2Proof/Machine/Fire.lean ====
section
/-!
DEFINITION. Sys2Proof/Machine/Fire.lean: drop placement by time: targets, head phases, the motion model, fire stamps, amendments
and HALT_FIRE_N (R198 to R223). A stamp waits in `HeadRow.queued` until its lane launches it (Machine/Hub.lean).
-/
namespace Sys2Proof.Machine

/-- The HOLD stamp (R210). -/
def holdStamp : Nat := 2 ^ 64 - 1

/-- The horizon: 40 µs in ns (R212, R213). -/
def horizonNs : Nat := 40000

/-! ### Head phases (R199 to R201) -/

/-- Fields of a head phase entry (Table 8-1). -/
def TSet.phase (s : TSet) (h : Nat) : Int := sgn 16 ((s.devT 6).num 6 (64 + 8 * h) 2)
def TSet.fdelay (s : TSet) (h : Nat) : Nat := (s.devT 6).num 6 (66 + 8 * h) 2
def TSet.tcoef (s : TSet) (h : Nat) : Int := sgn 8 ((s.devT 6).num 6 (68 + 8 * h) 1)
def TSet.tref (s : TSet) (h : Nat) : Nat := (s.devT 6).num 6 (69 + 8 * h) 1

/-- A phase held to its window (R201). -/
def clampPhase (lead : Nat) (p : Int) : Int := clampI (-64) (64 * (64 - (lead : Int))) p

/-- The thermal term of head h for row n: under the set that the row uses (R200). -/
def Chip.thermOf (c : Chip) (n h : Nat) : Int :=
  match c.stage.sched with
  | some s => if s.at_ = none ∧ s.nk ≤ n then FMap.get 0 c.fire.thermNext h else FMap.get 0 c.fire.therm h
  | none => FMap.get 0 c.fire.therm h

/-- φ of head h of bar k for row n (R200). -/
def Chip.phi (c : Chip) (k n h : Nat) : Int :=
  let s := c.setFor n
  clampPhase (s.lead k) (s.phase h + c.thermOf n h)

/-- θ_h in whole °C, none when the head cannot be read (R304). -/
def Chip.headTemp (c : Chip) (h : Nat) : Option Int :=
  let q := h / 64
  let m := h % 64
  if c.is (LQ_HTEMP_VALID q m) ∧ c.ns ≤ FMap.get 0 c.lanes.tempAt h + 500000000 then
    some (halfUp (c.getS (LQ_HTEMP_TEMP q m)) 16)
  else none

/-- The thermal term of head h under a set, from θ_h now: none when the head cannot be read and TCOEF asks for it. -/
def Chip.thermTerm (c : Chip) (s : TSet) (h : Nat) : Option Int :=
  if s.tcoef h = 0 then some 0 else (c.headTemp h).map fun th => halfUp (s.tcoef h * (th - s.tref h)) 64

/-- The thermal terms under a set, from θ_h now: an unreadable head keeps the term it had (R200). -/
def Chip.thermTerms (c : Chip) (s : TSet) (old : FMap Int) : FMap Int :=
  (s.bars.flatMap s.heads).foldl (fun m h => match c.thermTerm s h with | some v => FMap.put 0 m h v | none => m) old

/-- The notices of a re-evaluation for head h of bar k: it cannot be read, or its phase is held to the window (R200, R201). -/
def Chip.noteTherm (c : Chip) (s : TSet) (terms : FMap Int) (k h : Nat) : Chip :=
  let c := if (c.thermTerm s h).isNone then c.raise .fs 0 { src := 5, detail := packRow none (some h) none } else c
  let p := s.phase h + FMap.get 0 terms h
  if p = clampPhase (s.lead k) p then c else c.raise .fs 0 { src := 6, detail := packRow none (some h) none }

/-- Re-evaluates every head that an enabled bar names, under the set in force and under a set that waits; the notices are those of
the newer (R200). -/
def Chip.retherm (c : Chip) : Chip :=
  let c : Chip := { c with fire := { c.fire with therm := c.thermTerms c.stage.active c.fire.therm
                                                 thermNext := c.thermTerms c.newest c.fire.thermNext } }
  let s := c.newest
  c.forAll s.bars fun c k => c.forAll (s.heads k) fun c h => c.noteTherm s c.fire.thermNext k h

/-! ### Targets (R198) -/

/-- X_t in 1/65,536 web tick, of row n at effective offset d (1/16 tick) and phase φ. -/
def target (p n d : Nat) (phi : Int) : Int :=
  (rowPoint p n : Int) * 65536 + d * 4096 + halfUp (phi * pitchNum p * 1024) (pitchDen p)

/-- X_t for head-row h of bar k, whose φ is `phi`. -/
def Chip.targetOf (c : Chip) (k n : Nat) (phi : Int) : Int := target c.pitch n (c.deff k) phi

/-! ### The motion model (R204) -/

/-- The model state after `d` DT units without an edge: x, v, a rounded half up to their widths. -/
def predictModel (x v a : Int) (d : Nat) : Int × Int × Int :=
  let u : Int := dtSecond
  (max x (halfUp (x * u * u + v * 256 * d * u + a * 32768 * d * d) (dtSecond * dtSecond)),
    halfUp (v * u + a * 256 * d) dtSecond, a)

/-- The residual at an edge `e` DT units after t0, in 1/65,536 tick over U². -/
def residual (x v a xe e : Int) : Int :=
  let u : Int := dtSecond
  xe * u * u - (x * u * u + v * 256 * e * u + a * 32768 * e * e)

/-- The model state after `d` DT units with residual r, for gains α, β, γ and clamp AMAX. -/
def correctModel (x v a r : Int) (d alpha beta gamma amax : Nat) : Int × Int × Int :=
  let u : Int := dtSecond
  let xp := x * u * u + v * 256 * d * u + a * 32768 * d * d
  (max x (halfUp (65536 * xp + alpha * r) (65536 * dtSecond * dtSecond)),
    halfUp ((v * u + a * 256 * d) * d * 4294967296 + beta * 256 * r) (dtSecond * d * 4294967296),
    clampI (-(amax : Int)) amax (halfUp (a * 4294967296 * d * d + 2 * gamma * r) (4294967296 * d * d)))

/-! ### Stamps (R208) -/

/-- ⌈√x⌉. -/
def csqrt (x : Nat) : Nat := let r := isqrt x; if r * r = x then r else r + 1

/-- The stamp of target xt from model state (x, v, a) at t0 (DT units), less FDELAY: exact, rounded half up to 1 ns; none where
the web would stop short. -/
def rawStamp (x v a : Int) (t0 : Nat) (xt : Int) (fdelay : Nat) : Option Int :=
  let dx := xt - x
  let tt : Int := (t0 : Int) - 65536 * fdelay
  if v ≤ 0 then none
  else if a = 0 then some (halfUp (tt * v + dx * 256000000000) (65536 * v.toNat))
  else
    let q := v * v + 2 * a * dx
    if q < 0 then none
    else
      let k := 16777216 * (a.natAbs : Int)
      let s := a.sign
      let cc := (tt + 32768) * 256 * a.natAbs - s * dtSecond * v
      let r := q.toNat * dtSecond * dtSecond
      some (if 0 < a then (cc + isqrt r) / k else (cc - csqrt r) / k)

/-- The prediction for a target, as a stamp. -/
def Chip.predict (c : Chip) (xt : Int) (fdelay : Nat) : Nat :=
  match rawStamp c.fire.x c.fire.v c.fire.a c.fire.t0 xt fdelay with
  | some t => min (t.toNat) (holdStamp - 1)
  | none => holdStamp

/-! ### Freezing (R212) -/

/-- DT has carried the stamp sent for a head-row past its horizon (R212). -/
def HeadRow.pastHorizon (now : Nat) (h : HeadRow) : Bool :=
  match h.stamp with
  | some v => v ≠ holdStamp && decide (v < now + horizonNs)
  | none => false

/-- Two values differ by more than ATOL, HOLD by any measure (R212, R214). -/
def Chip.differs (c : Chip) (v p : Nat) : Bool :=
  v ≠ p && (v = holdStamp || p = holdStamp || decide (c.mp 20 2 < if p < v then v - p else p - v))

/-- Two values differ by more than MISSLIM web ticks at the model's v (R214). -/
def Chip.farOff (c : Chip) (v p : Nat) : Bool :=
  v ≠ p && (p = holdStamp || decide (c.mp 30 2 * 256000000000 < (if p < v then v - p else p - v) * c.fire.v.natAbs))

/-- An amendment that still waits when its stamp freezes is never sent and counts under R214 (R280). -/
def Chip.dropsAmend (c : Chip) (h : HeadRow) : Bool :=
  !h.frozen && h.pastHorizon c.ns && h.queued.any fun v => c.differs (h.stamp.getD 0) v

def Chip.freezeHead (c : Chip) (h : HeadRow) : HeadRow :=
  if h.pastHorizon c.ns then { h with frozen := true, queued := none, missed := h.missed || c.dropsAmend h } else h

/-- The head-rows whose waiting amendment is dropped now, as (row, head, stamp, amendment). -/
def Chip.dropped (c : Chip) : List (Nat × Nat × Nat × Nat) :=
  (List.range 16).flatMap fun k => (c.bar k).ring.flatMap fun x => (x.heads.filter c.dropsAmend).map fun h =>
    (x.n, h.head, h.stamp.getD 0, h.queued.getD 0)

/-- Stamps freeze (R212). A dropped amendment is counted as missed here; where no further update comes before its stamp, MISSLIM is
judged here too. -/
def Chip.freeze (c : Chip) : Chip :=
  let ds := c.dropped
  let far := ds.find? fun d => c.farOff d.2.2.1 d.2.2.2 && decide (d.2.2.1 * 65536 ≤ c.fire.updAt + c.mp 0 2 * dtMicro)
  let c : Chip := { c with bars := FMap.mapV {} (fun b => { b with ring := b.ring.map fun x => { x with heads := x.heads.map c.freezeHead } }) c.bars }
  let c := c.bump FS_AMISS_MISSED ds.length
  match far with
  | some d => c.raise .fs 0 { src := 4, detail := packRow (some d.1) (some d.2.1) none }
  | none => c

/-! ### Stamping the rows of a bar (R207 to R214) -/

/-- What stamping carries from row to row: the value planned last for each head, values raised, frozen stamps missed, and the
first (row, head) whose error exceeds MISSLIM. -/
structure StampAcc where
  last : FMap Nat
  clamped : Nat := 0
  missed : Nat := 0
  fault : Option (Nat × Nat) := none
deriving DecidableEq, Repr

/-- A value under R209 (at least the last one plus MINGAP; HOLD after HOLD) and R213 (at least 40 µs ahead), and whether it was
raised. -/
def Chip.raiseStamp (c : Chip) (last raw : Nat) : Nat × Bool :=
  if last = holdStamp ∨ raw = holdStamp then (holdStamp, false)
  else
    let lo := max (if last = 0 then 0 else last + c.mp 18 2) (c.ns + horizonNs)
    (max raw lo, decide (raw < lo))

/-- A frozen stamp v at the last update before it: compared with the current prediction p, and counted once (R214). -/
def Chip.judge (c : Chip) (n : Nat) (h : HeadRow) (v p : Nat) (acc : StampAcc) : StampAcc :=
  if v ≤ c.ns ∨ c.ns + 1000 * c.mp 0 2 < v then acc
  else { acc with missed := acc.missed + b2n (c.differs v p && !h.missed)
                  fault := if c.farOff v p && acc.fault.isNone then some (n, h.head) else acc.fault }

/-- The value launched last for a head-row, waiting or sent. -/
def HeadRow.given (h : HeadRow) : Option Nat := h.queued.orElse fun _ => h.stamp

/-- One head-row at a model update. `mode` is the mode after the update, `drop` whether the mode has just changed to POSITION. The
update edge is the launch edge of R213: a value that the lane sends later stays as it is (assumption 23). -/
def Chip.stampHead (c : Chip) (k : Nat) (s : TSet) (mode : Nat) (drop : Bool) (n : Nat) (acc : StampAcc) (h : HeadRow) :
    HeadRow × StampAcc :=
  let phi := if h.given.isNone then c.phi k n h.head else h.phi
  let plan (v : Nat) := FMap.put 0 acc.last h.head v
  if mode = 2 then
    let raw := c.predict (c.targetOf k n phi) (s.fdelay h.head)
    if h.frozen then
      let v := h.stamp.getD 0
      (h, c.judge n h v raw { acc with last := plan v })
    else
      let (v, up) := c.raiseStamp (FMap.get 0 acc.last h.head) raw
      if h.given.all (c.differs · v) then
        ({ h with phi := phi, queued := some v }, { acc with last := plan v, clamped := acc.clamped + b2n up })
      else (h, { acc with last := plan (h.given.getD 0) })
  else if h.frozen then (h, { acc with last := plan (h.stamp.getD 0) })
  else if h.given.isNone || (drop && h.given ≠ some holdStamp) then
    ({ h with phi := phi, queued := some holdStamp }, { acc with last := plan holdStamp })
  else (h, acc)

/-- The heads of one row. -/
def Chip.stampHeads (c : Chip) (k : Nat) (s : TSet) (mode : Nat) (drop : Bool) (n : Nat) :
    List HeadRow → StampAcc → List HeadRow × StampAcc
  | [], acc => ([], acc)
  | h :: hs, acc =>
    let (h', acc) := c.stampHead k s mode drop n acc h
    let (hs', acc) := Chip.stampHeads c k s mode drop n hs acc
    (h' :: hs', acc)

/-- The rows of a bar's ring, in ascending order. -/
def Chip.stampRing (c : Chip) (k mode : Nat) (drop : Bool) : List RowSlot → StampAcc → List RowSlot × StampAcc
  | [], acc => ([], acc)
  | x :: xs, acc =>
    let (hs, acc) := c.stampHeads k (c.setFor x.n) mode drop x.n x.heads acc
    let (xs', acc) := Chip.stampRing c k mode drop xs acc
    ({ x with heads := hs } :: xs', acc)

/-- Stamps of one bar at a model update. -/
def Chip.stampBar (mode : Nat) (drop : Bool) (r : Chip × StampAcc) (k : Nat) : Chip × StampAcc :=
  let b := r.1.bar k
  let (ring, acc) := r.1.stampRing k mode drop b.ring r.2
  (r.1.setBar k { b with ring := ring }, acc)

/-- Every stamp at a model update: first stamps, amendments, misses (R207 to R214). -/
def Chip.stampAll (c : Chip) (mode : Nat) (drop : Bool) : Chip :=
  let c := c.freeze
  let (c, acc) := (List.range 16).foldl (Chip.stampBar mode drop) (c, { last := c.fire.lastStamp })
  let c := (c.bump FS_AMISS_CLAMPED acc.clamped).bump FS_AMISS_MISSED acc.missed
  match acc.fault with
  | some (n, h) => c.raise .fs 0 { src := 4, detail := packRow (some n) (some h) none }
  | none => c

/-! ### Position mode (R211) -/

/-- In POSITION: a row that holds HOLD or has no stamp gets the edge's DT plus 40 µs once X stands at or beyond ⌈X_t⌉ in forward
travel, subject to R209: not behind a row that holds HOLD. -/
def Chip.positionHead (c : Chip) (k n : Nat) (acc : StampAcc) (h : HeadRow) : HeadRow × StampAcc :=
  let last := FMap.get 0 acc.last h.head
  let phi := if h.given.isNone then c.phi k n h.head else h.phi
  let now := h.given.getD holdStamp
  if !h.frozen && now = holdStamp && last ≠ holdStamp && decide (c.targetOf k n phi ≤ c.get WM_X_X * 65536) then
    let raw := c.ns + horizonNs
    let v := if last = 0 then raw else max raw (last + c.mp 18 2)
    ({ h with phi := phi, queued := some v },
      { acc with last := FMap.put 0 acc.last h.head v, clamped := acc.clamped + b2n (raw < v) })
  else (h, { acc with last := FMap.put 0 acc.last h.head now })

/-- One row in POSITION. -/
def Chip.positionHeads (c : Chip) (k n : Nat) : List HeadRow → StampAcc → List HeadRow × StampAcc
  | [], acc => ([], acc)
  | h :: hs, acc =>
    let (h', acc) := c.positionHead k n acc h
    let (hs', acc) := Chip.positionHeads c k n hs acc
    (h' :: hs', acc)

def Chip.positionRing (c : Chip) (k : Nat) : List RowSlot → StampAcc → List RowSlot × StampAcc
  | [], acc => ([], acc)
  | x :: xs, acc =>
    let (hs, acc) := c.positionHeads k x.n x.heads acc
    let (xs', acc) := Chip.positionRing c k xs acc
    ({ x with heads := hs } :: xs', acc)

def Chip.positionBar (r : Chip × StampAcc) (k : Nat) : Chip × StampAcc :=
  let b := r.1.bar k
  let (ring, acc) := r.1.positionRing k b.ring r.2
  (r.1.setBar k { b with ring := ring }, acc)

/-- A control clock edge in POSITION at which X or the targets may have changed. -/
def Chip.positionStamps (c : Chip) : Chip :=
  if c.get FS_STAT_MODE = 1 then
    let c := c.freeze
    let (c, acc) := (List.range 16).foldl Chip.positionBar (c, { last := c.fire.lastStamp })
    c.bump FS_AMISS_CLAMPED acc.clamped
  else c

/-! ### The model update (R203 to R206, R221) -/

/-- The lanes of every enabled bar. -/
def Chip.enabledLanes (c : Chip) : List Nat := c.enabledBars.flatMap c.newest.barLanes

/-- FIRE_ARM takes effect: d_eff of every bar is D_k, rows at or below r_k + 2 are released unfired, and CTRL FIRE_ARM goes to
every lane of every enabled bar (R221, R291). -/
def Chip.armFire (c : Chip) : Chip :=
  let c := c.resetDeff.set FS_STAT_HALTED 0
  let c : Chip := { c with fire := { c.fire with armed := false, lastStamp := [], tooFast := false } }
  let c := c.forAll (List.range 16) fun c k =>
    let b := c.bar k
    c.forAll ((b.ring.map (·.n)).filter fun (n : Nat) => decide ((n : Int) ≤ b.rk + 2)) fun c n =>
      (c.releaseRow k n false).bump FS_HALT_SKIPPED
  c.forAll c.enabledLanes fun c l => c.enqueue l (.ctrl 1 31 0 0 0 [])

/-- d_eff of each bar moves toward D_k by at most DSLEW (R205). -/
def Chip.slewDeff (c : Chip) : Chip :=
  c.forAll (List.range 16) fun c k => c.setDeff k (toward (c.deff k) (16 * c.offset k) (c.mp 22 2)).toNat

/-- Web motion reports a speed that lets PREDICTED begin (R203). -/
def Chip.speedValid (c : Chip) : Bool :=
  let n := c.infeed
  !c.is (WM_EST_STILL n) && !c.is (WM_EST_REV n) && !c.is (WM_EST_FIRST n) && decide ((c.mp 12 4 : Int) ≤ c.webSpeed)

/-- An update in POSITION: PREDICTED begins from the latest edge, or t0 follows (R203, R204). -/
def Chip.updatePosition (c : Chip) : Chip :=
  match c.fire.edge with
  | some (xe, te) =>
    if c.speedValid then
      ({ c with fire := { c.fire with x := xe, v := 256 * c.webSpeed, a := 0, t0 := te, fresh := false, rdegRun := 0 } }).set
        FS_STAT_MODE 2
    else { c with fire := { c.fire with t0 := c.dt, fresh := false } }.set FS_STAT_MODE 1
  | none => { c with fire := { c.fire with t0 := c.dt, fresh := false } }.set FS_STAT_MODE 1

/-- The residual's figures and faults (R206): |r| in 1/64 tick, and the degrade and halt-fire limits. -/
def Chip.noteResidual (c : Chip) (r : Int) : Chip :=
  let uu := dtSecond * dtSecond
  let m := r.natAbs
  let shown := min 65535 (halfUp (m : Int) (1024 * uu)).toNat
  let c := (c.set FS_RES_RES shown).set FS_RES_PEAK (max shown (c.get FS_RES_PEAK))
  let run := if c.mp 26 2 * 65536 * uu < m then c.fire.rdegRun + 1 else 0
  let c : Chip := { c with fire := { c.fire with rdegRun := if run = 4 then 0 else run } }
  let os : List Occ := (if run = 4 then [{ src := 0, detail := packRow none none none }] else []) ++
    (if c.mp 28 2 ≠ 0 ∧ c.mp 28 2 * 65536 * uu < m then [{ src := 1, detail := packRow none none none }] else [])
  c.raiseAll .fs 0 os

/-- An infeed count in DT units at the model's velocity after te, when v is positive: numerator and denominator. -/
def Chip.edgePeriod (c : Chip) : Nat × Nat :=
  (c.get (WM_SCALE_SCALE c.infeed) * 256 * dtSecond, 4294967296 * c.fire.v.toNat)

/-- DT has reached the instant of the next predicted edge plus `extra` DT units (R206). -/
def Chip.pastEdge (c : Chip) (extra : Nat) : Bool :=
  match c.fire.edge with
  | some (_, te) =>
    let (a, b) := c.edgePeriod
    0 < b && decide (te + extra ≤ c.dt) && decide (a ≤ (c.dt - te - extra) * b)
  | none => false

/-- An update in PREDICTED (R203, R204, R206). A reverse edge since the last update ends PREDICTED. -/
def Chip.updatePredicted (c : Chip) (back : Bool) : Chip :=
  let f := c.fire
  let n := c.infeed
  if back || c.is (WM_EST_STILL n) || c.is (WM_EST_REV n) then
    ({ c with fire := { f with t0 := c.dt, fresh := false } }.set FS_STAT_MODE 1)
  else
    let d := c.dt - f.t0
    let c := match f.edge, f.fresh with
      | some (xe, te), true =>
        let r := residual f.x f.v f.a xe ((te : Int) - f.t0)
        let (x, v, a) := correctModel f.x f.v f.a r d (c.mp 2 2) (c.mp 4 2) (c.mp 6 2) (c.mp 8 4)
        let c : Chip := { c with fire := { f with x := x, v := v, a := a, t0 := c.dt, fresh := false } }
        c.noteResidual r
      | _, _ =>
        let (x, v, a) := predictModel f.x f.v f.a d
        { c with fire := { f with x := x, v := v, a := a, t0 := c.dt, rdegRun := 0 } }
    if c.is FS_STAT_HALTED then c
    else if 8 * c.fire.v < 7 * 256 * (c.mp 12 4 : Int) then c.set FS_STAT_MODE 1
    else c

/-- A model update (R204): every TU µs while the job prints. What still prints after a CLOSE is stamped like the rest; then the mode
is IDLE (R89, R202; assumption 18). -/
def Chip.modelUpdate (c : Chip) : Chip :=
  if decide (c.dt < c.fire.updAt + c.mp 0 2 * dtMicro) || decide (c.dt ≤ c.fire.t0) then c
  else if !c.printing then c.set FS_STAT_MODE 0
  else
    let back := c.fire.back
    let c : Chip := ({ c with fire := { c.fire with updAt := c.dt, back := false } } : Chip).takeMotion
    let arms := c.is FS_STAT_HALTED && c.fire.armed
    let c := if arms then c.armFire.set FS_STAT_MODE 1 else c
    if c.is FS_STAT_HALTED then { c with fire := { c.fire with t0 := c.dt, fresh := false } }.webMoved
    else
      let c := if arms then c else c.slewDeff
      let was := c.get FS_STAT_MODE
      let c := if was = 2 then c.updatePredicted back else c.updatePosition
      if c.is FS_STAT_HALTED then c.webMoved
      else
        let mode := c.get FS_STAT_MODE
        let c := c.stampAll mode (was = 2 && mode ≠ 2)
        (if c.is (WM_EST_STILL c.infeed) || c.is (WM_EST_REV c.infeed) then c else c.positionStamps).webMoved

def execModelUpdate (t : Nat) (s : State) : Host.Outcome State Fault Refusal := .next ((s.at_ t).onChip (·.modelUpdate))

def execStampFreeze (t : Nat) (s : State) : Host.Outcome State Fault Refusal := .next ((s.at_ t).onChip (·.freeze))

/-- COAST µs have passed since the predicted edge with none, not even one of this instant (R35, R206). -/
def execCoastTimeout (t : Nat) (s : State) : Host.Outcome State Fault Refusal :=
  .next ((s.at_ t).onChip fun c =>
    if c.get FS_STAT_MODE = 2 && !c.fire.coasted && c.pastEdge (c.mp 16 2 * dtMicro) && (s.countNow t c.infeed).all (· = some 0) then
      { c with fire := { c.fire with coasted := true } }.raise .fs 0 { src := 2, detail := packRow none none none }
    else c)

/-! ### HALT_FIRE_N (R218) -/

def execHaltFireNLow (t : Nat) (s : State) : Host.Outcome State Fault Refusal :=
  .next ((s.at_ t).onChip fun c =>
    if c.is FS_STAT_HFN then ((c.set FS_STAT_HFN 0).haltFire 1).raise .ls 0 { src := 1 } else c)

def execHaltFireNHigh (t : Nat) (s : State) : Host.Outcome State Fault Refusal :=
  .next ((s.at_ t).onChip (·.set FS_STAT_HFN 1))

/-! ### Firing of rows (R21) -/

/-- The hub has accepted row n of bar k and its stamps have passed (R21): the row is complete, every head's ROW frame is
accepted, and DT has reached every stamp. -/
def Chip.rowFired (c : Chip) (k : Nat) (x : RowSlot) : Bool :=
  x.complete && x.heads.all (fun h => h.ok && (match h.stamp with
    | some v => v ≠ holdStamp && decide (v ≤ c.ns)
    | none => false)) && (!x.heads.isEmpty || decide ((x.n : Int) ≤ (c.bar k).rk))

/-- `kept` says that the row's ledger writes succeeded (R157). -/
def execFireStampPassed (t : Nat) (k : Fin 16) (r : PassedRow) (s : State) : Host.Outcome State Fault Refusal :=
  .next ((s.at_ t).onChip fun c =>
    match (c.bar k).ring.find? fun x => x.n = r.n with
    | some x => if c.rowFired k x then c.releaseRow k r.n true r.kept else c
    | none => c)

end Sys2Proof.Machine
end

