-- ==== Sys2Proof/Machine/Web.lean ====
section
/-!
DEFINITION. Sys2Proof/Machine/Web.lean: a counted encoder edge and everything that follows from it at the same clock edge (R211,
R226 to R231, R245).
-/
namespace Sys2Proof.Machine

/-- A counted edge of the infeed: stretch window, X, the edge for the motion model, POSITION stamps, and the bars. -/
def Chip.infeedMoved (c : Chip) (x : Int) (at' : Nat) (forward : Bool) : Chip :=
  let c := (c.infeedEdge x at' forward).refreshX.passEdge at' forward
  (if forward then c.positionStamps else c).webMoved

/-- Channel n's lines count at levels a and b. A disabled channel only follows its levels (R226, R227). -/
def Chip.encoderEdge (c : Chip) (n : Nat) (a b : Bool) : Chip :=
  let count := c.countOf n a b
  let c := c.setEnc n { c.enc n with a := a, b := b }
  match count with
    | none => c.illegal n
    | some 0 => c
    | some d =>
      let (x, at', c) := c.countEdge n d
      let c := if n = c.outfeed then c.outfeedEdge (x, at') else c
      if n = c.infeed then c.infeedMoved x at' (0 < d) else c

def execEncoderEdge (t : Nat) (n : Fin 4) (a b : Bool) (s : State) : Host.Outcome State Fault Refusal :=
  .next ((s.at_ t).onChip (·.encoderEdge n a b))

/-! ### Speeds without an edge: the row rate of R26 is judged at each -/

/-- Standstill of channel n, unless an edge of the same instant prevents it (R35, R237). -/
def execStandstill (t : Nat) (n : Fin 4) (s : State) : Host.Outcome State Fault Refusal :=
  .next ((s.at_ t).onChip fun c => (if (s.countNow t n).all (· = some 0) then c.standstill n else c).webMoved)

/-- A gate of the count method ends (R235). -/
def execCountGateEnd (t : Nat) (n : Fin 4) (s : State) : Host.Outcome State Fault Refusal :=
  .next ((s.at_ t).onChip fun c => (c.countGateEnd n).webMoved)

/-- At each whole multiple of 1,000 ns the bound of R234 is refreshed. -/
def execSpeedBoundRefresh (t : Nat) (s : State) : Host.Outcome State Fault Refusal :=
  .next ((s.at_ t).onChip fun c =>
    if c.ns % 1000 = 0 then (c.forAll (List.range 4) Chip.boundSpeed).webMoved else c)

end Sys2Proof.Machine
end

