-- ==== Sys2Proof/Machine/Colour.lean ====
section
/-!
DEFINITION. Sys2Proof/Machine/Colour.lean: the colour hold loop: density reports and loop commits (R156 to R173).
-/
namespace Sys2Proof.Machine

/-! ### The ledger (R156 to R158) -/

/-- A band is VALID: its 64 rows settled with one set of versions and one LGEN, all fired, since the latest RUN (R157). -/
def Band.valid (b : Band) : Bool := b.whole && b.state = 0

/-- Ledger entry E of bin i in a band: ⌊Σ w(l) / 4⌋. -/
def Band.entry (b : Band) (i : Nat) : Nat := FMap.get 0 b.ink i / 4

/-- Band m of a bar as the ledger holds it. -/
def Bar.band (b : Bar) (m : Nat) : Option Band := b.bands.find? fun y => y.m = m

/-- A band among m0 to m1 is not yet complete: it is still being written, or m1 lies beyond all that the bar has settled since RUN. -/
def Bar.future (b : Bar) (m0 m1 : Nat) : Bool :=
  let now := b.bands.filter fun y => !y.old
  now.any (fun y => m0 ≤ y.m && y.m ≤ m1 && !y.whole) || now.all fun y => y.m < m1

/-- The first web point of band m. -/
def bandStart (p m : Nat) : Nat := rowPoint p (64 * m)

/-- The band that holds web point x. -/
def bandOf (p x : Nat) : Nat := (firstRow p (x + 1) - 1) / 64

/-- The bands that overlap [a, e). -/
def bandsOver (p a e : Nat) : List Nat :=
  let m0 := bandOf p a
  (List.range (bandOf p (e - 1) + 1 - m0)).map (m0 + ·)

/-- The whole bands inside [a, e). -/
def wholeBands (p a e : Nat) : List Nat := (bandsOver p a e).filter fun m => a ≤ bandStart p m && bandStart p (m + 1) ≤ e

/-! ### Trims (R166, R170, R171) -/

/-- The trims of generation g, while the history holds them; generation 0 is the power-up one. -/
def Bar.history (b : Bar) (g : Nat) : Option (FMap Nat) :=
  match b.trims.reverse.find? fun x => x.lgen = g with
  | some x => some x.arr
  | none => if g = 0 ∧ b.trims.length < 256 then some [] else none

/-! ### The loop law (R164 to R167) -/

/-- 4,080 × R_b(E), and slope × 4,080 × E, by the segment that holds E (R164). -/
def Chip.respAt (c : Chip) (k e : Nat) : Int :=
  let n := min (e / 4080) 15
  let r0 : Int := c.get (CH_RESP_NODE k n)
  r0 * 4080 + ((c.get (CH_RESP_NODE k (n + 1)) : Int) - r0) * ((e : Int) - 4080 * n)
def Chip.slopeTimes (c : Chip) (k e : Nat) : Int :=
  let n := min (e / 4080) 15
  ((c.get (CH_RESP_NODE k (n + 1)) : Int) - c.get (CH_RESP_NODE k n)) * e

/-- The loop's figures for one bin: whether it is observable, e and sens as numerators over 4,080 N (R165). -/
structure BinFig where
  obs : Bool
  err : Int
  sens : Int
  den : Nat
deriving DecidableEq, Repr

def Chip.binFig (c : Chip) (k d : Nat) (es : List Nat) : BinFig :=
  let n := es.length
  let m := 4080 * n
  let sens : Int := (es.map (c.slopeTimes k)).foldl (· + ·) (0 : Int)
  let err : Int := (d : Int) * m - (es.map (c.respAt k)).foldl (· + ·) (0 : Int)
  { obs := d ≠ 0xFFFF && decide (c.get CH_OBS_NBMIN ≤ n) && decide (0 < n) && decide ((c.get CH_OBS_SENS_MIN * m : Nat) ≤ sens),
    err := err, sens := sens, den := m }

/-- The bounds TMIN and TMAX in use. -/
def Chip.trimLimits (c : Chip) : Int × Int := (c.get CH_TLIM_TMIN, max (c.get CH_TLIM_TMIN) (c.get CH_TLIM_TMAX))

/-- The new staged trim for an error beyond the dead-band, before the limits (R166): rounded half up. A sens of 0, which an
SENS_MIN of 0 lets through, leaves tau open: `tau0` stands for it. -/
def Chip.trimTarget (c : Chip) (f : BinFig) (used stg tau0 : Nat) : Int :=
  let ed := f.err - f.err.sign * ((c.get CH_LAW_DB * f.den : Nat) : Int)
  let g : Int := c.get CH_LAW_GAIN
  let st : Int := stg
  if f.sens = 0 then halfUp (st * (256 : Int) + g * ((tau0 : Int) - st)) 256
  else halfUp (st * 256 * f.sens + g * ((used : Int) * (f.sens - ed) - st * f.sens)) (256 * f.sens.toNat)

/-- What a report has done so far: bins observed and updated, Σ err² over them, bins newly held at a limit. -/
structure RepAcc where
  obs : Nat := 0
  upd : Nat := 0
  sq : Nat := 0
  held : List Nat := []
deriving DecidableEq, Repr

/-- One bin of an accepted report. -/
def Chip.reportBin (k : Nat) (bands : List Band) (arr : FMap Nat) (r : Chip × RepAcc) (e : Nat × Nat) : Chip × RepAcc :=
  let (c, acc) := r
  let (i, d) := e
  let f := c.binFig k d (bands.map (·.entry i))
  if !f.obs then (c, acc)
  else
    let acc := { acc with obs := acc.obs + 1, sq := acc.sq + f.err.natAbs * f.err.natAbs }
    if c.get (CH_CTRL_MODE k) ≠ 2 ∨ c.get CH_LAW_GAIN = 0 ∨ f.err.natAbs ≤ c.get CH_LAW_DB * f.den then (c, acc)
    else
      let b := c.bar k
      let com : Int := b.comTrim i
      let (tau0, c) := if f.sens = 0 then c.fresh 65536 else (0, c)
      let (lo, hi) := c.trimLimits
      let t := clampI (com - c.get CH_LAW_SLEW) (com + c.get CH_LAW_SLEW)
        (c.trimTarget f (FMap.get 32768 arr i) (b.stgTrim i) tau0)
      let v := clampI lo hi t
      let new := decide (v ≠ t) && !b.limited.contains i
      let b := { b with stagedT := FMap.put none b.stagedT i (some v.toNat),
                        limited := if new then b.limited ++ [i] else b.limited }
      (c.setBar k b, { acc with upd := acc.upd + 1, held := if new then acc.held ++ [i] else acc.held })

/-- Root mean square of e over n bins, rounded half up. -/
def rms (sq n den : Nat) : Nat := if n = 0 then 0xFFFF else min 0xFFFE ((isqrt (4 * sq / (n * (den * den))) + 1) / 2)

/-- Shows a residual and judges RESLIM (R167). -/
def Chip.noteResid (c : Chip) (k res : Nat) : Chip :=
  let c := c.set (CH_RESID_RESID k) res
  let c := if res ≠ 0xFFFF ∧ c.get (CH_RESID_PEAK k) < res then c.set (CH_RESID_PEAK k) res else c
  let b := c.bar k
  let many := if res ≠ 0xFFFF ∧ c.get CH_RESLIM_RESLIM < res then b.overRes + 1 else 0
  let full := many ≠ 0 ∧ c.get CH_RESLIM_RESN ≤ many
  let c := c.setBar k { b with overRes := if full then 0 else many }
  if full then c.raise .ch 0 { src := 0, detail := packRow none none (some k) } else c

/-! ### Reports (R160 to R163) -/

/-- A report's fields (Table 6-4). -/
structure Report where
  bytes : List Byte

def Report.field (r : Report) (lo n : Nat) : Nat := fieldAt r.bytes lo n
def Report.nbin (r : Report) : Nat := r.field 26 2
/-- The bins of a report with their densities. -/
def Report.bins (r : Report) : List (Nat × Nat) := (List.range r.nbin).map fun j => (r.field 24 2 + j, r.field (32 + 2 * j) 2)

def Report.formatOk (r : Report) : Bool :=
  32 ≤ r.bytes.length && r.field 0 1 = 1 && r.field 2 2 = 0 && 1 ≤ r.nbin && r.nbin ≤ 10240 &&
    r.bytes.length = 32 + 2 * r.nbin
def Report.crcOk (r : Report) : Bool := r.field 28 4 = crc32 (r.bytes.take 28 ++ zeros 4 ++ r.bytes.drop 32)

/-- The first refusal of Table 6-5 that applies, in its order. -/
def Chip.reportStatus (c : Chip) (r : Report) : Nat :=
  let k := r.field 1 1
  let a := r.field 8 8
  let e := r.field 16 8
  let b := c.bar k
  if !r.formatOk then 1
  else if !r.crcOk then 2
  else if 16 ≤ k ∨ !(c.setOf k).enabled k ∨ c.get (CH_CTRL_MODE k) = 0 then 3
  else if e ≤ a ∨ (c.setOf k).width k / 16 < r.field 24 2 + r.nbin then 4
  else if b.future (bandOf c.pitch a) (bandOf c.pitch (e - 1)) then 5
  else
    let n := bandOf c.pitch (e - 1) + 1 - bandOf c.pitch a
    let ms := if 1026 < n then [] else wholeBands c.pitch a e
    if ms.isEmpty ∨ 1024 < ms.length then 6
    else
      let held := ms.filterMap b.band
      let used := held.filter (·.valid)
      let gens := (used.map (·.lgen)).eraseDups
      if held.isEmpty then 7
      else if 1 < gens.length ∨ gens.any (fun g => (b.history g).isNone) ∨
          used.any (fun y => 64 * y.m < max b.staleTo (b.reset.getD 0)) then 8
      else 0

/-- An accepted report. -/
def Chip.report (c : Chip) (r : Report) : List Byte × Chip :=
  let k := r.field 1 1
  let b := c.bar k
  let bands := ((wholeBands c.pitch (r.field 8 8) (r.field 16 8)).filterMap b.band).filter (·.valid)
  let (lgen, c) := match bands with
    | y :: _ => (y.lgen, c)
    | [] => c.fresh 65536
  let (c, acc) := r.bins.foldl (Chip.reportBin k bands ((b.history lgen).getD [])) (c, {})
  let res := rms acc.sq acc.obs (4080 * bands.length)
  let c := (c.noteResid k res).bump CH_SUP_LIMITED acc.held.length
  let c := c.raiseAll .ch 0 (acc.held.map fun i => { src := 1, cell := i, detail := packRow none none (some k) })
  (le 4 (r.field 4 4) ++ le 2 acc.obs ++ le 2 acc.upd ++ le 2 res ++ le 2 lgen, (c.bump CH_CNT_REPORTS).refreshPending)

/-- The bytes of a report: from host memory, or from an allocation that the tenant may read. -/
def reportBytes (q : Nat) (host : List Byte) (x : InDesc) (s : State) : List Byte :=
  let len := x.param 32 4
  if x.param 16 1 = 1 then fit len host
  else match s.chip.store.find (x.param 20 4) with
    | some a => if bit a.rd (s.chip.qTenant q) && decide (x.param 24 8 + len ≤ a.size * 65536) then
        s.mem.job.read (a.start + x.param 24 8) len else []
    | none => []

/-- The bands of an acceptable range whose ledger read stays uncorrectable become INVALID (R157). -/
def Chip.loseBands (c : Chip) (r : Report) (lost : List Nat) : Chip :=
  let k := r.field 1 1
  let hit (y : Band) : Bool := lost.contains y.m && (wholeBands c.pitch (r.field 8 8) (r.field 16 8)).contains y.m && y.whole && !y.lost
  if c.reportStatus r ≠ 0 then c
  else
    let b := c.bar k
    let c := c.setBar k { b with bands := b.bands.map fun y => if hit y then { y with lost := true } else y }
    c.forAll (b.bands.filter hit) fun c y => c.sayBand k { y with lost := true }

/-- REPORT; `lost` names the bands whose ledger read stays uncorrectable. A stale handle completes with STALE and a read that stays uncorrectable with UNCORR, the codes of Table 5-9: Table 6-5 has
none for them (R114, R115). -/
def reportBody (q : Nat) (host : List Byte) (r : Ecc) (lost : List Nat) (x : InDesc) (s : State) : State :=
  let store := decide (x.param 16 1 = 0)
  let reject (st : Nat) (s : State) : State := (s.onChip (·.bump CH_CNT_REJECTED)).done q x st
  if 1 < x.param 16 1 ∨ 32 + 2 * 10240 < x.param 32 4 then reject 1 s
  else if store && (s.chip.store.find (x.param 20 4)).isNone then reject jsSTALE s
  else if store && r = .uncorrectable then reject jsUNCORR (s.onChip (·.jobStoreRead r))
  else
    let s := if store then s.onChip (·.jobStoreRead r) else s
    let s := if x.param 16 1 = 1 then s.onChip fun c => c.emit .pcieFetch (c.qTenant q) [q, x.param 24 8, x.param 32 4] else s
    let r : Report := ⟨reportBytes q host x s⟩
    let s := s.onChip (·.loseBands r lost)
    let st := s.chip.reportStatus r
    if st ≠ 0 then reject st s
    else
      let (bs, c) := s.chip.report r
      ({ s with chip := c }).done q x 0 bs

def execReport (t : Nat) (q : Fin 64) (r : ReportRead) (s : State) : Host.Outcome State Fault Refusal :=
  .next (storeCommand t q 0x0200 (some 1) (reportBody q r.host r.ecc r.lost) s)

/-! ### Loop commits (R168 to R170) -/

/-- Bar k takes its staged trims as a new generation from row n on. -/
def Chip.commitTrims (cpt n : Nat) (c : Chip) (k : Nat) : Chip :=
  let b := c.bar k
  let g := (c.get (CH_LGEN_LGEN k) + 1) % 65536
  let arr := b.stagedT.foldl (fun a e => match e.2 with | some v => FMap.put 32768 a e.1 v | none => a) b.committed
  let ts := b.trims ++ [{ lgen := g, start := n, arr := arr }]
  let c := (c.setBar k { b with trims := ts.drop (ts.length - 256), stagedT := [] }).set (CH_LGEN_LGEN k) g
  c.jrn .loop ([k, cpt, n, g] ++ arr.flatMap fun (e : Nat × Nat) => [e.1, e.2])

/-- A leading bar enters a band at this instant, at least CPERIOD bands past the latest loop commit point (R168). -/
def Chip.loopDue (c : Chip) : Bool :=
  c.leading.any fun k =>
    (c.bar k).bandAt = some c.dt && (match c.colour.lastBand with
      | none => true
      | some m => decide (m + c.get CH_COMMIT_CPERIOD ≤ (c.bar k).rk.toNat / 64))

/-- The band that a loop commit starts at: the first at or above the front horizon, plus CMARGIN (R169). -/
def Chip.loopBand (c : Chip) : Nat := ceilDiv (firstRow c.pitch c.frontHorizon) 64 + c.get CH_COMMIT_CMARGIN

def Chip.loopCommit (c : Chip) : Chip :=
  let ks := (List.range 16).filter fun k => (c.bar k).changed
  if !c.runs || !c.is SEQ_PSTAT_OPEN || ks.isEmpty || !c.loopDue then c
  else
    let m := c.loopBand
    let c := c.forAll ks (Chip.commitTrims (bandStart c.pitch m) (64 * m))
    (({ c with colour := { c.colour with lastBand := some m } }).count CH_STAT_LCOMMITS).refreshPending

def execLoopCommit (t : Nat) (s : State) : Host.Outcome State Fault Refusal := .next ((s.at_ t).onChip (·.loopCommit))

end Sys2Proof.Machine
end

