-- ==== Sys2Proof/Machine/DataMatrix.lean ====
section
/-!
DEFINITION. Sys2Proof/Machine/DataMatrix.lean: Data Matrix ECC 200 symbols (R106, ISO/IEC 16022; assumption 15) and the
`vsym` instruction (R104).
-/
namespace Sys2Proof.Machine

/-! ### Codewords -/

/-- ASCII encodation: digit pairs in one codeword, 0x80 to 0xFF with an upper shift; `gs1` encodes 0x1D as 232. -/
def dmAscii (gs1 : Bool) : List Byte → List Nat
  | [] => []
  | [x] => dmOne gs1 x
  | x :: y :: r =>
    if isDigit x && isDigit y then ((x.toNat - 48) * 10 + (y.toNat - 48) + 130) :: dmAscii gs1 r
    else dmOne gs1 x ++ dmAscii gs1 (y :: r)
where
  dmOne (gs1 : Bool) (x : Byte) : List Nat :=
    if gs1 && x == 0x1D then [232] else if x.toNat < 128 then [x.toNat + 1] else [235, x.toNat - 127]

/-- Padding to k codewords: 129, then the randomised 129 of the standard. -/
def dmPad (k : Nat) (cw : List Nat) : List Nat :=
  cw ++ (List.range (k - cw.length)).map fun i =>
    if i = 0 then 129
    else
      let v := 129 + (149 * (cw.length + i + 1)) % 253 + 1
      if v > 254 then v - 254 else v

/-! ### Reed-Solomon over GF(256), polynomial 0x12D -/

def gfDouble (a : Nat) : Nat := if a < 128 then 2 * a else (2 * a) ^^^ 0x12D

/-- Product in GF(256). -/
def gfMulAux : Nat → Nat → Nat → Nat → Nat
  | 0, _, _, acc => acc
  | k + 1, a, b, acc => gfMulAux k (gfDouble a) (b / 2) (if b % 2 = 1 then acc ^^^ a else acc)
def gfMul (a b : Nat) : Nat := gfMulAux 8 a b 0

/-- α^k. -/
def gfPow : Nat → Nat
  | 0 => 1
  | k + 1 => gfDouble (gfPow k)

/-- Multiplies a polynomial (highest degree first, leading 1 left out) by (x + r). -/
def genStep (p : List Nat) (r : Nat) : List Nat :=
  -- (1, p) * (x + r) = (1, p ++ [0]) + r * (0, 1, p)
  List.zipWith (· ^^^ ·) (p ++ [0]) ((1 :: p).map (gfMul r))

/-- The generator polynomial with roots α to α^n, leading 1 left out. -/
def generator (n : Nat) : List Nat := (List.range n).foldl (fun p i => genStep p (gfPow (i + 1))) []

/-- The error codewords of a data block. -/
def rsEncode (n : Nat) (data : List Nat) : List Nat :=
  let g := generator n
  data.foldl
    (fun reg d =>
      let t := d ^^^ reg.headD 0
      List.zipWith (· ^^^ ·) (reg.drop 1 ++ [0]) (g.map (gfMul t)))
    (List.replicate n 0)

/-- Every k-th element from i. -/
def stride {α : Type} (k i : Nat) (xs : List α) : List α :=
  (xs.zipIdx.filter fun (_, j) => j % k = i).map (·.1)

/-- Data and error codewords; 52 × 52 has two interleaved blocks. -/
def dmCodewords (blocks nerr : Nat) (data : List Nat) : List Nat :=
  let ec := (List.range blocks).map fun b => rsEncode (nerr / blocks) (stride blocks b data)
  data ++ (List.range nerr).map fun i => (ec.getD (i % blocks) []).getD (i / blocks) 0

/-! ### Placement (Annex F of the standard) -/

/-- The map under construction: rows, columns, and per cell 8 × codeword + bit + 1 (0 none), key row × columns + column;
bit 0 is the codeword's most significant. -/
structure DmMap where
  nr : Nat
  nc : Nat
  cells : FMap Nat := []
deriving DecidableEq, Repr

/-- Places bit b (1 to 8) of codeword ch at (r, c), wrapping above the top and left of the edge. -/
def DmMap.put (m : DmMap) (r c : Int) (ch b : Nat) : DmMap :=
  let (r, c) := if r < 0 then (r + m.nr, c + (4 - ((m.nr + 4) % 8 : Nat) : Int)) else (r, c)
  let (r, c) := if c < 0 then (r + (4 - ((m.nc + 4) % 8 : Nat) : Int), c + m.nc) else (r, c)
  { m with cells := FMap.put 0 m.cells (r.toNat * m.nc + c.toNat) (8 * (ch - 1) + b) }

def DmMap.used (m : DmMap) (r c : Int) : Bool := FMap.get 0 m.cells (r.toNat * m.nc + c.toNat) ≠ 0

/-- Places the eight bits of a codeword at the listed cells. -/
def DmMap.putAll (m : DmMap) (ch : Nat) (cells : List (Int × Int)) : DmMap :=
  (cells.zipIdx).foldl (fun m x => m.put x.1.1 x.1.2 ch (x.2 + 1)) m

def DmMap.utah (m : DmMap) (r c : Int) (ch : Nat) : DmMap :=
  m.putAll ch [(r - 2, c - 2), (r - 2, c - 1), (r - 1, c - 2), (r - 1, c - 1), (r - 1, c), (r, c - 2), (r, c - 1), (r, c)]

def DmMap.corner1 (m : DmMap) (ch : Nat) : DmMap :=
  let R : Int := m.nr; let C : Int := m.nc
  m.putAll ch [(R - 1, 0), (R - 1, 1), (R - 1, 2), (0, C - 2), (0, C - 1), (1, C - 1), (2, C - 1), (3, C - 1)]
def DmMap.corner2 (m : DmMap) (ch : Nat) : DmMap :=
  let R : Int := m.nr; let C : Int := m.nc
  m.putAll ch [(R - 3, 0), (R - 2, 0), (R - 1, 0), (0, C - 4), (0, C - 3), (0, C - 2), (0, C - 1), (1, C - 1)]
def DmMap.corner3 (m : DmMap) (ch : Nat) : DmMap :=
  let R : Int := m.nr; let C : Int := m.nc
  m.putAll ch [(R - 3, 0), (R - 2, 0), (R - 1, 0), (0, C - 2), (0, C - 1), (1, C - 1), (2, C - 1), (3, C - 1)]
def DmMap.corner4 (m : DmMap) (ch : Nat) : DmMap :=
  let R : Int := m.nr; let C : Int := m.nc
  m.putAll ch [(R - 1, 0), (R - 1, C - 1), (0, C - 3), (0, C - 2), (0, C - 1), (1, C - 3), (1, C - 2), (1, C - 1)]

/-- The upward diagonal sweep. -/
def DmMap.up : Nat → DmMap → Int → Int → Nat → DmMap × Int × Int × Nat
  | 0, m, r, c, ch => (m, r, c, ch)
  | k + 1, m, r, c, ch =>
    let place := decide (r < m.nr) && decide (0 ≤ c) && !m.used r c
    let m' := if place then m.utah r c ch else m
    let ch' := if place then ch + 1 else ch
    if 0 ≤ r - 2 ∧ c + 2 < m.nc then DmMap.up k m' (r - 2) (c + 2) ch' else (m', r - 2, c + 2, ch')

/-- The downward diagonal sweep. -/
def DmMap.down : Nat → DmMap → Int → Int → Nat → DmMap × Int × Int × Nat
  | 0, m, r, c, ch => (m, r, c, ch)
  | k + 1, m, r, c, ch =>
    let place := decide (0 ≤ r) && decide (c < m.nc) && !m.used r c
    let m' := if place then m.utah r c ch else m
    let ch' := if place then ch + 1 else ch
    if r + 2 < m.nr ∧ 0 ≤ c - 2 then DmMap.down k m' (r + 2) (c - 2) ch' else (m', r + 2, c - 2, ch')

/-- The sweeps with the corner conditions, until the array is passed. -/
def DmMap.fill : Nat → DmMap → Int → Int → Nat → DmMap
  | 0, m, _, _, _ => m
  | k + 1, m, r, c, ch =>
    let R : Int := m.nr
    let c1 := decide (r = R ∧ c = 0)
    let (m, ch) := if c1 then (m.corner1 ch, ch + 1) else (m, ch)
    let c2 := decide (r = R - 2 ∧ c = 0 ∧ m.nc % 4 ≠ 0)
    let (m, ch) := if c2 then (m.corner2 ch, ch + 1) else (m, ch)
    let c3 := decide (r = R - 2 ∧ c = 0 ∧ m.nc % 8 = 4)
    let (m, ch) := if c3 then (m.corner3 ch, ch + 1) else (m, ch)
    let c4 := decide (r = R + 4 ∧ c = 2 ∧ m.nc % 8 = 0)
    let (m, ch) := if c4 then (m.corner4 ch, ch + 1) else (m, ch)
    let (m, r, c, ch) := DmMap.up 64 m r c ch
    let (m, r, c, ch) := DmMap.down 64 m (r + 1) (c + 3) ch
    let r := r + 3
    let c := c + 1
    if r < m.nr ∨ c < m.nc then DmMap.fill k m r c ch else m

/-- The module at a cell of the data region: the placed bit; the unplaced lower right corner has a fixed pattern. -/
def dmBit (m : DmMap) (cw : List Nat) (r c : Nat) : Bool :=
  match FMap.get 0 m.cells (r * m.nc + c) with
  | 0 => (r = m.nr - 1 && c = m.nc - 1) || (r = m.nr - 2 && c = m.nc - 2)
  | v => bit (cw.getD ((v - 1) / 8) 0) (7 - (v - 1) % 8)

/-! ### Sizes (Table 4-9) -/

/-- Rows, columns, data codewords, error codewords, region rows, region columns (counts), blocks; by SIZE. -/
def dmSize : Nat → Option (Nat × Nat × Nat × Nat × Nat × Nat × Nat)
  | 1 => some (10, 10, 3, 5, 1, 1, 1) | 2 => some (12, 12, 5, 7, 1, 1, 1) | 3 => some (14, 14, 8, 10, 1, 1, 1)
  | 4 => some (16, 16, 12, 12, 1, 1, 1) | 5 => some (18, 18, 18, 14, 1, 1, 1) | 6 => some (20, 20, 22, 18, 1, 1, 1)
  | 7 => some (22, 22, 30, 20, 1, 1, 1) | 8 => some (24, 24, 36, 24, 1, 1, 1) | 9 => some (26, 26, 44, 28, 1, 1, 1)
  | 10 => some (32, 32, 62, 36, 2, 2, 1) | 11 => some (36, 36, 86, 42, 2, 2, 1) | 12 => some (40, 40, 114, 48, 2, 2, 1)
  | 13 => some (44, 44, 144, 56, 2, 2, 1) | 14 => some (48, 48, 174, 68, 2, 2, 1)
  | 15 => some (52, 52, 204, 84, 2, 2, 2)
  | 16 => some (8, 18, 5, 7, 1, 1, 1) | 17 => some (8, 32, 10, 11, 1, 2, 1) | 18 => some (12, 26, 16, 14, 1, 1, 1)
  | 19 => some (12, 36, 22, 18, 1, 2, 1) | 20 => some (16, 36, 32, 24, 1, 2, 1) | 21 => some (16, 48, 49, 28, 1, 2, 1)
  | _ => none

/-- The size used for k codewords: SIZE 0 picks the smallest square that holds them. -/
def dmPick (size k : Nat) : Option (Nat × Nat × Nat × Nat × Nat × Nat × Nat) :=
  let fits (i : Nat) : Option (Nat × Nat × Nat × Nat × Nat × Nat × Nat) :=
    match dmSize i with
    | some z => if k ≤ z.2.2.1 then some z else none
    | none => none
  if size = 0 then (List.range 15).findSome? fun i => fits (i + 1) else fits size

/-- A module of the whole symbol: each region has a solid left and lower border and an alternating upper and right one. -/
def dmModule (rows cols rr rc : Nat) (data : Nat → Nat → Bool) (r c : Nat) : Bool :=
  let h := rows / rr
  let w := cols / rc
  let y := r % h
  let x := c % w
  if y = h - 1 || x = 0 then true
  else if y = 0 then x % 2 = 0
  else if x = w - 1 then y % 2 = 1
  else data ((r / h) * (h - 2) + (y - 1)) ((c / w) * (w - 2) + (x - 1))

/-- The dark modules of a symbol, row by row from the top. -/
def dmSymbol (cw : List Nat) (z : Nat × Nat × Nat × Nat × Nat × Nat × Nat) : List Bool :=
  let (rows, cols, nd, ne, rr, rc, blocks) := z
  let all := dmCodewords blocks ne (dmPad nd cw)
  let m := DmMap.fill 64 { nr := rows - 2 * rr, nc := cols - 2 * rc } 4 0 1
  (List.range (rows * cols)).map fun i => dmModule rows cols rr rc (dmBit m all) (i / cols) (i % cols)

/-! ### vsym (R104) -/

/-- VD_SYMBOL for a parameter block (Table 4-8). -/
def symBlockBad (p : List Byte) : Bool :=
  let sym := fieldAt p 0 1
  let size := fieldAt p 1 1
  let xcol := fieldAt p 2 1
  let xrow := fieldAt p 3 1
  let rows := fieldAt p 4 2
  let quiet := fieldAt p 6 1
  let linear := decide (sym < 2)
  decide (3 < sym) || !zeroAt p 7 57 || xcol = 0 || decide (64 < xcol) ||
  (if linear then size ≠ 0 || rows = 0 || decide (4096 < rows) || decide (quiet < 10) || decide (20 < quiet)
   else decide (21 < size) || xrow = 0 || decide (64 < xrow) || rows ≠ 0 || quiet = 0 || decide (20 < quiet))

def execVsym (n : CtxId) (f : Fields) (ecc : Ecc) (s : State) : Host.Outcome State Fault Refusal :=
  let a := (s.chip.g n f.ga.toNat).toNat
  let b := (s.chip.g n f.gb.toNat).toNat
  let p := s.mem.data.read b 64
  let sym := fieldAt p 0 1
  let xcol := fieldAt p 2 1
  let xrow := fieldAt p 3 1
  let rows := fieldAt p 4 2
  let quiet := fieldAt p 6 1
  let cs := textOf s a
  let common := resvRaw f 0 true true true false ++ dTraps a 256 64 ++ dTraps b 64 64 ++
    trapIf (decide (254 < textLen s a)) VD_TEXT ++ trapIf (symBlockBad p) VD_SYMBOL
  if sym < 2 then
    let bad := linearBad sym cs
    let ms := if bad then [] else code128Modules (if sym = 0 then code128Chars cs else gs1Chars cs)
    let w := (ms.length + 2 * quiet) * xcol
    let h := rows + 2 * xrow
    .next (compose n ecc f (common ++ trapIf bad VD_SYMBOL ++ trapIf (decide (163840 < w)) VD_SIZE)
      (.linear ms xcol rows xrow quiet) w h s)
  else
    let gs1 := decide (sym = 3)
    let cw := (if gs1 then [232] else []) ++ dmAscii gs1 cs
    match dmPick (fieldAt p 1 1) cw.length with
    | none => .next (compose n ecc f (common ++ [VD_SIZE]) (.matrix 0 0 [] xcol xrow quiet) 0 0 s)
    | some z =>
      let w := (z.2.1 + 2 * quiet) * xcol
      let h := (z.1 + 2 * quiet) * xrow
      .next (compose n ecc f common (.matrix z.1 z.2.1 (dmSymbol cw z) xcol xrow quiet) w h s)

end Sys2Proof.Machine
end

