-- ==== Sys2Proof/Machine/Access.lean ====
section
/-!
DEFINITION. Sys2Proof/Machine/Access.lean: who may reach which word of control space (R46, R331, R332, R426).
-/
namespace Sys2Proof.Machine

/-- Size of a window: 64 KiB, and 1 MiB for a tenant window (Table 2-9). -/
def Blk.size : Blk → Nat
  | .tn => 0x100000
  | _ => 0x10000

/-- The window that holds an address. -/
def blockAt (addr : Nat) : Option (Blk × Nat) :=
  Blk.all.findSome? fun b =>
    ((List.range b.count).find? fun i => b.base i ≤ addr && addr < b.base i + b.size).map fun i => (b, i)

/-- Offset of an address in the window of instance i of block b. -/
def offIn (b : Blk) (i addr : Nat) : Nat := addr - b.base i

/-- The grant that a write to an offset of a window needs (Table 13-1, R329, R353, R406, R417, R435, R452, R470). FINJ needs MAINT
in every window; TW_CTL needs LINE, the other fields of the twin and rope windows ADMIN; LS_REFOUT needs MAINT. -/
def writeGrant (b : Blk) (off : Nat) : Nat :=
  if b ≠ .tn ∧ off = 0x38 then 6
  else match b with
    | .qm => 3 | .hp => 3 | .tb => 2 | .ch => 1 | .hl => 6 | .nv => 6
    | .js => if 0x80 ≤ off ∧ off < 0xA0 then 3 else 5
    | .tw => if off = 0x50 then 0 else 3
    | .rl => 3
    | .ls => if off = 0x44 then 6 else 5
    | _ => 5

/-- The tenant is enabled (R330). -/
def Chip.tenantOn (c : Chip) (t : Nat) : Bool := t = 0 || bit (c.get QM_TEN_EN) t

/-- Tenant t may write at an offset of a window: always in its own tenant window, else with the grant named (R332). -/
def Chip.mayWrite (c : Chip) (t : Nat) (b : Blk) (i off : Nat) : Bool :=
  c.tenantOn t && ((b = .tn && i = t) || c.holds t (writeGrant b off))

/-- Tenant t may read a window. -/
def Chip.mayRead (c : Chip) (t : Nat) (b : Blk) (i : Nat) : Bool := c.tenantOn t && ((b = .tn && i = t) || c.holds t 4)

/-- The block answers: its power domain is on and its region is not under self-test; otherwise the access is ABSENT and has no
effect (R34, R426). -/
def Chip.reachable (c : Chip) (b : Blk) (i : Nat) : Bool := c.regionOn (b.region i) && !c.testing (b.region i)

/-- A register write that has a row of its own: tenant t writes at an offset of a window. Without the grant it behaves as outside
every window (R332). -/
def Chip.ownWrite (c : Chip) (t : Nat) (b : Blk) (i off : Nat) (f : Chip → Chip) : Chip :=
  if !c.mayWrite t b i off then c.noticeAccess (b.base i + off)
  else if c.reachable b i then f c else c

end Sys2Proof.Machine
end

