-- ==== Sys2Proof/Machine/Roles.lean ====
section
/-!
DEFINITION. Sys2Proof/Machine/Roles.lean: role changes, what a unit drops on its way to CATCHUP, and the rope link's state
(R352, R379, R380, R382, R395, R427).
-/
namespace Sys2Proof.Machine

/-- Standby rest is aborted (R427): the running wave stops, later ones are skipped; source 24. -/
def Chip.abortRest (c : Chip) : Chip :=
  match c.health.bist with
  | some r =>
    if r.kind = 2 ∧ !r.aborted then
      { c with health := { c.health with bist := some { r with aborted := true } } }.raise .hl 0 { src := 24 }
    else c
  | none => c

/-- Every descriptor of queue q that has not been started completes with NOT_ACTIVE (R352). -/
def Chip.refuseQueue (c : Chip) (q : Nat) : Chip :=
  let xs := (c.queue q).inq
  let c := c.setQueue q { c.queue q with inq := [] }
  c.forAll xs fun c x => c.complete q x.tag x.rx stNOT_ACTIVE

/-- Outputs that only an ACTIVE or SOLO unit drives begin to be driven (R378). -/
def Chip.driveOutputs (c : Chip) : Chip :=
  let c := c.forAll (List.range 8) fun c g => c.emit .trigOut g [FMap.get 0 c.time.trigLevel g]
  (c.emit .ppsOut 0 [b2n c.time.ppsHigh]).emit .lineSlow 0 [b2n c.health.slow]

/-- The USED lanes (R305). -/
def Chip.usedLanes (c : Chip) : List Nat := (List.range 96).filter c.newest.laneUsed

/-- The peer owns the hub of lane l, as its latest record says. -/
def Chip.peerOwns (c : Chip) (l : Nat) : Bool :=
  let id := (FMap.get {} c.lanes.lane l : Lane).owner
  !c.is (LQ_HST_SELF (l / 4) (l % 4)) && c.is (LQ_HST_OWNER (l / 4) (l % 4)) && id ≠ 0 && id = c.get TW_PEER_PEER

/-- The unit epoch (R386): the highest CUR among the USED lanes whose hub this unit owns (ACTIVE, SOLO) or its peer owns
(STANDBY, CATCHUP). -/
def Chip.refreshEpoch (c : Chip) : Chip :=
  let mine := c.usedLanes.filter fun l => if c.runs then c.is (LQ_HST_SELF (l / 4) (l % 4)) else c.peerOwns l
  { c with twin := { c.twin with epoch := greatest (mine.map fun l => c.get (LQ_HEP_CUR (l / 4) (l % 4))) } }

/-- The unit's role changes at this edge (R380): source 13, rest aborted, and when it leaves ACTIVE or SOLO the descriptors not
started complete with NOT_ACTIVE and its staged trims are lost (R172). -/
def Chip.setRole (c : Chip) (r : Nat) : Chip :=
  if c.role = r then c
  else
    let ran := c.runs
    let c := ((c.set TW_STAT_ROLE r).refreshEpoch.raise .tw 0 { src := 13 }).abortRest
    let c := if ran && !c.runs then (c.forAll (List.range 64) Chip.refuseQueue).dropStaged else c
    if !ran && c.runs then (c.set TB_STAT_FOLLOW 0).driveOutputs else c

/-- Catch-up is complete once every enabled bar's first shadow pass has been echoed (R395): the journal is applied as it arrives. -/
def Chip.checkJoined (c : Chip) : Chip :=
  if c.role = 3 ∧ c.twin.adopted ∧ c.enabledBars.all (c.twin.echoed.contains ·) then
    { c with twin := { c.twin with kept := [] } }.setRole 2
  else c

/-- A claim round ends; no lane is claimed any more. -/
def Chip.withdrawClaims (c : Chip) : Chip :=
  { c with twin := { c.twin with claiming := none, claims := [], wait := [] } }.set TW_STAT_CLAIMING 0

/-- What catch-up has received is discarded (R395). -/
def Chip.dropSnapshot (c : Chip) : Chip :=
  { c with twin := { c.twin with snap := [], part := [], kept := [], adopted := false, echoed := [], hashes := [],
                                 referee := [], passes := [], wrongAt := [], asked := false } }.set TW_STAT_SECTIONS 0

/-- A lane without frames that wait or wait for an answer. -/
def Lane.quiet (l : Lane) : Lane := { l with txq := [], unacked := [] }

/-- What the unit was printing or shadowing is dropped: the snapshot to come replaces it. -/
def Chip.dropJob (c : Chip) : Chip :=
  let bare (b : Bar) : Bar := { b with ring := [], marks := [], pass := none, carryDue := false }
  { c with bars := FMap.mapV {} bare c.bars, strm := { c.strm with job := false } }.closeStream

/-- The unit enters CATCHUP with a reason of Table 15-12; it writes to no bank and renders nothing from here on. -/
def Chip.toCatchup (c : Chip) (reason : Nat) : Chip :=
  let c := (c.withdrawClaims.dropSnapshot).set TW_STAT_REASON reason
  let c := ({ c with twin := { c.twin with handoff := none, mirroring := false, fresh := [] } }.set TW_STAT_HANDOFF 0).dropJob.setRole 3
  { c with lanes := { c.lanes with lane := FMap.mapV {} Lane.quiet c.lanes.lane } }

/-- Catch-up is discarded, with what an adopted snapshot has put in place, and starts again once the rope link is up: source 4 (R395). -/
def Chip.failCatchup (c : Chip) (reason : Nat) : Chip :=
  if c.role = 3 ∧ ¬ c.twin.stuck then
    (((if c.twin.adopted then c.dropJob else c).dropSnapshot).set TW_STAT_REASON reason).raise .tw 0 { src := 4 }
  else c

/-- Something of a snapshot or journal has been received in this catch-up. -/
def Chip.catching (c : Chip) : Bool := !c.twin.snap.isEmpty || !c.twin.part.isEmpty || !c.twin.kept.isEmpty || c.twin.adopted

/-- The rope link goes down (R382, R383): source 0 on EV58; a STANDBY unit that still hears the belay enters CATCHUP, and catch-up
under way is discarded. -/
def Chip.ropeDown (c : Chip) : Chip :=
  let c := ((c.set TW_STAT_ROPE_UP 0).set RL_STAT_UP 0).bump RL_CNT_DOWNS
  let c := { c with twin := { c.twin with sent := [], snapSent := false } }.raise .rl 0 { src := 0 }
  if c.role = 2 ∧ c.is TW_STAT_BELAY_HEARD then c.toCatchup 2
  else if c.role = 3 ∧ c.catching then c.failCatchup 2
  else c

/-- The states of RL0 to RL3, and the link with them: up while all four are in SERVICE (R382). -/
def Chip.syncRope (c : Chip) : Chip :=
  let st := (List.range 4).map fun i => c.laneState (96 + i)
  let c := c.set RL_STAT_LSTATE ((st.getD 0 0) + 16 * (st.getD 1 0) + 256 * (st.getD 2 0) + 4096 * (st.getD 3 0))
  let up := st.all (· = 4)
  if up && !c.is TW_STAT_ROPE_UP then ({ c with twin := { c.twin with rseq := 0, rxSeq := 0, sent := [], resend := true } }.set TW_STAT_ROPE_UP 1).set RL_STAT_UP 1
  else if !up && c.is TW_STAT_ROPE_UP then c.ropeDown else c

end Sys2Proof.Machine
end

