-- ==== Sys2Proof/Machine/Lanes.lean ====
section
/-!
DEFINITION. Sys2Proof/Machine/Lanes.lean: head lanes and rope lanes: bring-up, tap-request training, cairn markers and deskew,
eye scans, adaptation and recalibration (R249 to R273, R382). Rope lane RLi is lane 96 + i; its figures stand where those of a
lane quad 24 would stand, outside every window.
-/
namespace Sys2Proof.Machine

/-- Lane states (Table 10-1). -/
def lsOFF : Nat := 0
def lsLOCK : Nat := 1
def lsTRAIN : Nat := 2
def lsALIGN : Nat := 3
def lsSERVICE : Nat := 4
def lsRELOCK : Nat := 5
def lsFAILED : Nat := 6
def lsFENCED : Nat := 7

/-- Causes (LQq_LSTATi CAUSE). -/
def lcLOCK_TIMEOUT : Nat := 1
def lcTAP_TIMEOUT : Nat := 2
def lcTRAIN_TIMEOUT : Nat := 3
def lcRATE : Nat := 4
def lcREF : Nat := 5
def lcLANE_ID : Nat := 6
def lcSKEW : Nat := 7
def lcMARKER_LOSS : Nat := 8
def lcRELOCK_FAIL : Nat := 9
def lcEYE : Nat := 10

/-- A lane of the rope link. -/
def isRope (l : Nat) : Bool := 96 ≤ l

/-- The lane's quad is in mode ET5208. -/
def Chip.et5208 (c : Chip) (l : Nat) : Bool := c.is (LQ_CFG_MODE (l / 4)) && !isRope l

/-- Block period of lane l in ps (R251, R382). -/
def Chip.blockPs (c : Chip) (l : Nat) : Nat := if isRope l then 2560 else if c.fast (l / 4) then 5120 else 6400

/-- The lane is enabled: EN for a head lane; a rope lane while ROPED_EN is high and PD7 is on. -/
def Chip.laneEn (c : Chip) (l : Nat) : Bool :=
  if isRope l then c.is SYS_STRAP_ROPED_EN && bit (c.get HL_PSTAT_DOMAIN_ON) 7
  else bit (c.get (LQ_CFG_EN (l / 4))) (l % 4)

/-- The quad's sources of a lane; a rope lane reports through its link alone (R382). -/
def Chip.raiseLane (c : Chip) (l src : Nat) : Chip :=
  if isRope l then c else c.raise .lq (l / 4) { src := src, cell := l % 4 }

/-! ### State changes (R254 to R256) -/

/-- Training blocks due on lane l since it entered TRAIN: one in every 64 blocks (R258). -/
def Chip.trainDue (c : Chip) (l : Nat) : Nat := (c.dt - (c.lane l).since) * 1000 / (64 * c.blockPs l * 65536)

/-- The bytes of our training block (Table 10-4): the request outstanding, the status reported, RX_READY. -/
def Train.block (tr : Train) (l : Nat) : List Byte :=
  let shift : Nat → Nat
    | 0 => 4 | 1 => 16 | _ => 1
  let req := if tr.phase ≠ 0 then 0 else if tr.tap = 3 then 64 else shift tr.tap * (if tr.dec != tr.undo then 2 else 1)
  let sta := if tr.rspTap = 3 then tr.rspStat * 21 else tr.rspStat * shift tr.rspTap
  let bs := le 1 0xD2 ++ le 1 req ++ le 1 (sta + 64 * b2n (tr.phase = 3)) ++ le 1 (l % 96) ++ le 1 1 ++ le 1 (tr.count % 256) ++ le 1 0
  bs ++ le 1 (crcMsb 8 0x07 0 bs)

/-- Sends `n` training blocks of the present content, with TCOUNT counting on from the one shown (R258). -/
def Chip.sendTrain (c : Chip) (l n : Nat) : Chip :=
  let x := c.lane l
  if n = 0 then c
  else (c.emit .trainBlock l [n] (x.train.block l)).setLane l { x with train := { x.train with count := x.train.count + n } }

/-- The training blocks that have fallen due have gone out, before their content changes (R258). -/
def Chip.flushTrain (c : Chip) (l : Nat) : Chip :=
  if c.laneState l = lsTRAIN ∧ ¬ c.et5208 l then c.sendTrain l (c.trainDue l - (c.lane l).train.count) else c

/-- The eye point of quad q works on lane l. -/
def Chip.pointOn (c : Chip) (l : Nat) : Bool :=
  !isRope l && (FMap.get none c.lanes.point (l / 4)).any fun p => p.lane = l % 4

/-- The next lane of quad q, from index i on, that is in SERVICE recalibrates (R270); its quick scan is the last step, and waits for an
eye point that works on it (R268). -/
def Chip.recalFrom (c : Chip) (q i : Nat) : Chip :=
  match ((List.range 4).map (4 * q + ·)).find? fun l => i ≤ l % 4 && c.laneState l = lsSERVICE with
  | some l => c.setLane l { c.lane l with recal := true, scan := if c.pointOn l then 3 else 1 }
  | none => c

/-- A pass: every quad begins with its first lane in SERVICE. -/
def Chip.recalPass (c : Chip) : Chip :=
  let c := c.forAll (List.range 24) fun c q => c.recalFrom q 0
  { c with lanes := { c.lanes with again := false } }

/-- Some lane recalibrates. -/
def Chip.recalibrating (c : Chip) : Bool := (List.range 96).any fun l => (c.lane l).recal

/-- Lane l is done with: the next lane of its quad, or, with no lane left anywhere, the end of the pass (R270). -/
def Chip.recalNext (c : Chip) (l : Nat) : Chip :=
  let c := c.recalFrom (l / 4) (l % 4 + 1)
  if !c.recalibrating && c.lanes.again then c.recalPass else c

/-- Lane l enters a state; the rope link follows its lanes. A lane that leaves SERVICE while it recalibrates drops out, and the next one
of its quad begins (R270). -/
def Chip.laneTo (c : Chip) (l st : Nat) : Chip :=
  let c := c.flushTrain l
  let x := c.lane l
  let on := decide (st = lsSERVICE)
  let c := (c.set (LQ_LSTAT_STATE (l / 4) (l % 4)) st).setLane l
    { x with since := c.dt, recal := x.recal && on, scan := if on then x.scan else 0 }
  let c := if x.recal && !on then c.recalNext l else c
  if isRope l then c.syncRope else c

def Chip.laneCause (c : Chip) (l cause : Nat) : Chip := c.set (LQ_LSTAT_CAUSE (l / 4) (l % 4)) cause

/-- Taps as a triple (|c(−1)|, c(0), |c(+1)|). -/
def Chip.taps (c : Chip) (l : Nat) : Nat × Nat × Nat :=
  (c.get (LQ_TAP_CM1 (l / 4) (l % 4)), c.get (LQ_TAP_C0 (l / 4) (l % 4)), c.get (LQ_TAP_CP1 (l / 4) (l % 4)))

def Chip.setTaps (c : Chip) (l : Nat) (x : Nat × Nat × Nat) : Chip :=
  ((c.set (LQ_TAP_CM1 (l / 4) (l % 4)) x.1).set (LQ_TAP_C0 (l / 4) (l % 4)) x.2.1).set (LQ_TAP_CP1 (l / 4) (l % 4)) x.2.2

/-- Presets P0 to P3 (Table 10-3). -/
def preset : Nat → Nat × Nat × Nat
  | 0 => (0, 63, 0) | 1 => (0, 52, 11) | 2 => (4, 49, 10) | _ => (6, 45, 12)

/-- Taps as one number, as a user bank holds them. -/
def packTaps (x : Nat × Nat × Nat) : Nat := x.1 + 32 * x.2.1 + 2048 * x.2.2
def unpackTaps (v : Nat) : Nat × Nat × Nat := (v % 32, v / 32 % 64, v / 2048 % 32)

/-- The start taps: the user area's, or P1 of the factory area (R259, R271). -/
def Chip.startTaps (c : Chip) (l : Nat) : Nat × Nat × Nat :=
  match (c.lane l).userTaps with
  | some v => unpackTaps v
  | none => preset 1

/-- The lane hunts for block lock with its start taps; what a session of service held is gone. -/
def Chip.enterLock (c : Chip) (l : Nat) : Chip :=
  let c := (c.setTaps l (c.startTaps l)).laneTo l lsLOCK
  let x := c.lane l
  c.setLane l { x with tries := 0, txq := [], unacked := [], train := {}, mcount := none, good := 0, missing := 0,
                       marks := [], rtts := [], alignEnd := none }

/-- The lane is disabled or loses its power domain. What calibration holds for it stays. -/
def Chip.laneOff (c : Chip) (l : Nat) : Chip :=
  let c := (c.laneCause l 0).laneTo l lsOFF
  let x := c.lane l
  c.setLane l { since := x.since, settings := x.settings, lkg := x.lkg, userTaps := x.userTaps, offFreq := x.offFreq, owner := x.owner,
                swing := x.swing, term := x.term, sampler := x.sampler }

/-- The lane is fenced, with a source of its quad; where it is in use and its rule says so, the region quarantines the quad (R28). -/
def Chip.fenceLane (c : Chip) (l cause src : Nat) (quar : Bool) : Chip :=
  let used := quar && c.laneInUse l && !isRope l
  let c := c.setLane l (c.lane l).quiet
  let c := ((c.laneCause l cause).laneTo l lsFENCED).raiseLane l src
  if used then c.quarantine .lq (l / 4) else c

/-- The lane's attempt fails: FAILED with its cause, or fenced at the third failure in a row (R255). A rope lane retrains for
ever (R382). -/
def Chip.laneFail (c : Chip) (l cause : Nat) : Chip :=
  let n := (c.lane l).fails + 1
  let c := c.setLane l { (c.lane l).quiet with fails := n }
  if 3 ≤ n ∧ ¬ isRope l then c.fenceLane l cause (l % 4) false else (c.laneCause l cause).laneTo l lsFAILED

/-- MARKER_LOSS, LANE_ID or SKEW (R264, R265): a lane in use is fenced and its quad quarantined, another trains again. -/
def Chip.markerFault (c : Chip) (l cause : Nat) : Chip :=
  if c.laneInUse l ∧ ¬ isRope l then c.fenceLane l cause (8 + l % 4) true
  else (c.laneFail l cause).raiseLane l (8 + l % 4)

/-- The lane carries frames from here on. -/
def Chip.enterService (c : Chip) (l : Nat) : Chip :=
  let x := c.lane l
  (c.setLane l { x with fails := 0, tries := 0, dataAt := c.dt, bipSince := c.dt, bipErrs := 0, bipTold := false }).laneTo l lsSERVICE

/-- A lane enters TRAIN: in mode ET9612 it requests INIT (R258 to R260); in mode ET5208 only its own receiver adapts (R266). Its receiver
adapts throughout. -/
def Chip.enterTrain (c : Chip) (l : Nat) : Chip :=
  let c := ((c.bump (LQ_LSTAT_TRAINS (l / 4) (l % 4))).set (LQ_EYE_FROZEN (l / 4) (l % 4)) 0).setLane l
    { c.lane l with train := { since := c.dt } }
  c.laneTo l lsTRAIN

def execLaneEnable (t : Nat) (tnt : Fin 8) (l : Fin 96) (on : Bool) (s : State) : Host.Outcome State Fault Refusal :=
  .next ((s.at_ t).onChip fun c => c.ownWrite tnt .lq (l / 4) 0x40 fun c =>
    if c.laneEn l = on then c
    else
      let c := c.setBit (LQ_CFG_EN (l / 4)) (l % 4) on
      if on then c.enterLock l else c.laneOff l)

/-- MODE and RATE of quad q: ignored with a notice while one of its lanes is in use; a change retrains its enabled lanes (R250),
and in mode ET5208 RTT is reported as 0 (R266). -/
def Chip.modeChange (c : Chip) (q : Nat) (mode rate : Bool) : Chip :=
  let ls := (List.range 4).map (4 * q + ·)
  if c.is (LQ_CFG_MODE q) = mode ∧ c.is (LQ_CFG_RATE q) = rate then c
  else if ls.any c.laneInUse then c.raise .lq q { src := 27 }
  else
    let c := (c.set (LQ_CFG_MODE q) (b2n mode)).set (LQ_CFG_RATE q) (b2n rate)
    let c := if mode then c.forAll ls fun c l => c.set (LQ_RTT_RTT q (l % 4)) 0 else c
    c.forAll (ls.filter c.laneEn) Chip.enterLock

def execLaneModeChange (t : Nat) (tnt : Fin 8) (q : Fin 24) (mode rate : Bool) (s : State) :
    Host.Outcome State Fault Refusal :=
  .next ((s.at_ t).onChip fun c => c.ownWrite tnt .lq q 0x40 fun c => c.modeChange q mode rate)

/-- 64 valid sync headers in a row, the latest last (R255). -/
def blockLocked (headers : List Bool) : Bool := 64 ≤ headers.length && (headers.drop (headers.length - 64)).all id

/-- 16 invalid sync headers among the latest 64 (R255). -/
def blockLost (headers : List Bool) : Bool := 16 ≤ (headers.drop (headers.length - 64)).countP (!·)

/-- A lane declares block lock on the sync headers seen (R255, R256); beyond ±20 ppm it does not train (R253). -/
def execBlockLock (t : Nat) (r : LaneHeaders) (s : State) : Host.Outcome State Fault Refusal :=
  let l := r.l
  .next ((s.at_ t).onChip fun c =>
    if !blockLocked r.headers then c
    else if c.laneState l = lsLOCK ∧ ¬ (c.lane l).offFreq then c.enterTrain l
    else if c.laneState l = lsRELOCK then
      ((c.bump (LQ_LSTAT_RELOCKS (l.val / 4) (l.val % 4))).enterService l).raiseLane l 19
    else c)

/-- A lane in SERVICE leaves block lock for RELOCK with its taps and settings (R256). -/
def Chip.loseLock (c : Chip) (l : Nat) : Chip :=
  if c.laneState l = lsSERVICE then (c.setLane l { c.lane l with tries := 1 }).laneTo l lsRELOCK
  else c

def execBlockLockLost (t : Nat) (r : LaneHeaders) (s : State) : Host.Outcome State Fault Refusal :=
  .next ((s.at_ t).onChip fun c => if blockLost r.headers then c.loseLock r.l else c)

/-- The lane has been in state st for at least d DT units. -/
def Chip.lingered (c : Chip) (l st d : Nat) : Bool := c.laneState l = st && decide ((c.lane l).since + d ≤ c.dt)

def dtMilli : Nat := 1000 * dtMicro

def execLockTimeout (t : Nat) (l : Fin 100) (s : State) : Host.Outcome State Fault Refusal :=
  .next ((s.at_ t).onChip fun c => if c.lingered l lsLOCK (10 * dtMilli) then c.laneFail l lcLOCK_TIMEOUT else c)

/-- A relock attempt of 20 µs ends: the next of three, or the lane is fenced when in use, and trains again otherwise (R256). -/
def execRelockTimeout (t : Nat) (l : Fin 100) (s : State) : Host.Outcome State Fault Refusal :=
  .next ((s.at_ t).onChip fun c =>
    if !c.lingered l lsRELOCK (20 * dtMicro) then c
    else
      let x := c.lane l
      if x.tries < 3 then c.setLane l { x with tries := x.tries + 1, since := c.dt }
      else if c.laneInUse l ∧ ¬ isRope l then c.fenceLane l lcRELOCK_FAIL (4 + l.val % 4) true
      else (c.laneCause l lcRELOCK_FAIL).enterLock l)

def execFailedRetry (t : Nat) (l : Fin 100) (s : State) : Host.Outcome State Fault Refusal :=
  .next ((s.at_ t).onChip fun c => if c.lingered l lsFAILED (10 * dtMilli) then c.enterLock l else c)

/-! ### Tap-request training (R257 to R260) -/

/-- Tap 0 is c(0), 1 is c(+1), 2 is c(−1). The taps after one step, or none where a limit or a constraint of Table 10-2 would
break. -/
def stepTap (x : Nat × Nat × Nat) (tap : Nat) (dec : Bool) : Option (Nat × Nat × Nat) :=
  let f (v : Nat) : Nat := if dec then v - 1 else v + 1
  let y : Nat × Nat × Nat := match tap with
    | 0 => (x.1, f x.2.1, x.2.2) | 1 => (x.1, x.2.1, f x.2.2) | _ => (f x.1, x.2.1, x.2.2)
  let moved := decide (y ≠ x)
  if moved && decide (y.1 ≤ 15) && decide (16 ≤ y.2.1) && decide (y.2.1 ≤ 63) && decide (y.2.2 ≤ 31) &&
      decide (y.1 + y.2.1 + y.2.2 ≤ 63) && decide (12 + y.1 + y.2.2 ≤ y.2.1) then some y else none

/-- The 2-bit field of a tap in byte 1 or 2 of a training block. -/
def tapField (b tap : Nat) : Nat := match tap with | 0 => bits b 2 2 | 1 => bits b 4 2 | _ => bits b 0 2

/-- What a received training block asks of our transmitter: none (HOLD), one tap step, INIT, or a preset; requests that combine
fields are ignored (R259). -/
inductive TapReq where
  | hold | ignored | step (tap : Nat) (dec : Bool) | init | preset (i : Nat)
deriving DecidableEq, Repr

def tapRequest (b1 b4 : Nat) : TapReq :=
  let fs := (List.range 3).filter fun i => tapField b1 i ≠ 0
  match fs with
  | [] => if bit b1 6 then .init else if bit b1 7 then .preset (bits b4 1 2) else .hold
  | [i] => if bit b1 6 || bit b1 7 || tapField b1 i = 3 then .ignored else .step i (tapField b1 i = 2)
  | _ => .ignored

/-- The responder's part: it makes the change once, keeps reporting its status while the request is repeated, and reports
NOT_UPDATED after HOLD (R259). A step that would break a limit reports AT_MIN or AT_MAX. -/
def Chip.respond (c : Chip) (l : Nat) (r : TapReq) : Chip :=
  let x := c.lane l
  let tr := x.train
  let report (c : Chip) (tap st : Nat) : Chip := c.setLane l { x with train := { tr with rspTap := tap, rspStat := st } }
  match r with
  | .hold => report c tr.rspTap 0
  | .ignored => c
  | .init => if tr.rspStat = 0 then report (c.setTaps l (c.startTaps l)) 3 1 else c
  | .preset i => if tr.rspStat = 0 then report (c.setTaps l (Machine.preset i)) 3 1 else c
  | .step tap dec =>
    if tr.rspStat ≠ 0 then c
    else match stepTap (c.taps l) tap dec with
      | some y => report (c.setTaps l y) tap 1
      | none => report c tap (if dec then 2 else 3)

/-- A request goes out. -/
def Train.ask (tr : Train) (now tap : Nat) (dec undo : Bool) : Train :=
  { tr with phase := 0, tap := tap, dec := dec, undo := undo, since := now, status := 0 }

/-- The tap search goes on after the step (tap, direction) is done with: the other direction, the next tap, another round, or
the end (R260). `skip`: this tap has improved. -/
def Train.advance (tr : Train) (now : Nat) (skip : Bool) : Train :=
  if !tr.dec && !skip then tr.ask now tr.tap true false
  else if tr.tap < 2 then tr.ask now (tr.tap + 1) false false
  else if tr.improved then { tr with improved := false }.ask now 0 false false
  else { tr with phase := 3 }

/-- The search has ended: RX_READY when the best figure is good, else the lane fails with cause EYE (R260). The settings in
force become the first last-known-good ones. -/
def Chip.searchEnd (c : Chip) (l : Nat) : Chip :=
  let x := c.lane l
  if c.get (LQ_EYECFG_EWMIN (l / 4)) ≤ x.train.bestW ∧ c.get (LQ_EYECFG_EHMIN (l / 4)) ≤ x.train.bestH then
    (c.setLane l { x with lkg := x.settings }).set (LQ_EYE_LKG (l / 4) (l % 4)) 1
  else c.laneFail l lcEYE

/-- Goes on with the search. -/
def Chip.goOn (c : Chip) (l : Nat) (skip : Bool) : Chip :=
  let x := c.lane l
  let tr := { x.train.advance c.dt skip with readyAt := x.train.count }
  let c := c.setLane l { x with train := tr }
  if tr.phase = 3 then c.searchEnd l else c

/-- The requester's part of a received training block: an answer draws HOLD; NOT_UPDATED after it lets the search go on
(R259, R260). -/
def Chip.requester (c : Chip) (l b2 : Nat) : Chip :=
  let x := c.lane l
  let tr := x.train
  let st := if tr.tap = 3 then max (tapField b2 0) (max (tapField b2 1) (tapField b2 2)) else tapField b2 tr.tap
  if tr.phase = 0 ∧ st ≠ 0 then c.setLane l { x with train := { tr with phase := 1, status := st } }
  else if tr.phase = 1 ∧ st = 0 then
    if tr.tap ≠ 3 ∧ tr.undo then c.goOn l false
    else if tr.tap ≠ 3 ∧ tr.status ≠ 1 then c.goOn l false
    else c.setLane l { x with train := { tr with phase := 2 } }
  else c

/-- A quick scan of the search ends (R260). -/
def Chip.searchScan (c : Chip) (l w h : Nat) : Chip :=
  let x := c.lane l
  let tr := x.train
  if tr.tap = 3 then
    c.setLane l { x with train := { tr with bestW := w, bestH := h }.ask c.dt 0 false false }
  else if tr.bestW * tr.bestH < w * h then
    (c.setLane l { x with train := { tr with bestW := w, bestH := h, improved := true } }).goOn l true
  else
    let back := { tr with phase := 0, undo := true, since := c.dt, status := 0 }
    c.setLane l { x with train := back }

/-- RX_READY sent and received in 16 blocks in a row ends TRAIN: 64 further training blocks follow (R260, Table 10-6). -/
def Chip.readyRun (c : Chip) (l : Nat) (ready : Bool) : Chip :=
  let x := c.lane l
  if x.train.phase = 3 ∧ ready then
    if 16 ≤ x.train.both + 1 ∧ x.train.readyAt + 16 ≤ x.train.count then (c.laneTo l lsALIGN).sendTrain l 64
    else c.setLane l { x with train := { x.train with both := x.train.both + 1 } }
  else c.setLane l { x with train := { x.train with both := 0 } }

/-- A training block as received; one whose CRC fails is discarded (R258). -/
def Chip.trainingBlock (c : Chip) (l : Nat) (b : List Byte) : Chip :=
  let ok := b.length = 8 && fieldAt b 0 1 = 0xD2 && fieldAt b 7 1 = crcMsb 8 0x07 0 (b.take 7)
  if !ok || c.laneState l ≠ lsTRAIN || c.et5208 l then c
  else if !isRope l && c.fast (l / 4) && !bit (fieldAt b 4 1) 0 then c.laneFail l lcRATE
  else
    let c := (c.flushTrain l).respond l (tapRequest (fieldAt b 1 1) (fieldAt b 4 1))
    (c.requester l (fieldAt b 2 1)).readyRun l (bit (fieldAt b 2 1) 6)

def execTrainingBlock (t : Nat) (l : Fin 100) (block : List Byte) (s : State) : Host.Outcome State Fault Refusal :=
  .next ((s.at_ t).onChip fun c => c.trainingBlock l block)

/-- No status within 2 ms (R259). -/
def execTapTimeout (t : Nat) (l : Fin 100) (s : State) : Host.Outcome State Fault Refusal :=
  .next ((s.at_ t).onChip fun c =>
    if c.laneState l = lsTRAIN ∧ ¬ c.et5208 l ∧ (c.lane l).train.phase = 0 ∧
        (c.lane l).train.since + 2 * dtMilli ≤ c.dt then c.laneFail l lcTAP_TIMEOUT else c)

def execTrainTimeout (t : Nat) (l : Fin 100) (s : State) : Host.Outcome State Fault Refusal :=
  .next ((s.at_ t).onChip fun c => if c.lingered l lsTRAIN (500 * dtMilli) then c.laneFail l lcTRAIN_TIMEOUT else c)

/-- In mode ET5208 the first RX_READY of the own receiver ends TRAIN (R266). -/
def execRxReady (t : Nat) (l : Fin 96) (s : State) : Host.Outcome State Fault Refusal :=
  .next ((s.at_ t).onChip fun c =>
    if c.laneState l = lsTRAIN ∧ c.et5208 l then
      let c := (c.setLane l { c.lane l with lkg := (c.lane l).settings }).set (LQ_EYE_LKG (l.val / 4) (l.val % 4)) 1
      c.laneTo l lsALIGN
    else c)

/-! ### Deskew (R264 to R267) -/

/-- The deskew group of lane l: the lanes of its enabled bar's lane map; the four rope lanes; else the lane alone (R265). -/
def Chip.group (c : Chip) (l : Nat) : List Nat :=
  if isRope l then [96, 97, 98, 99]
  else
    let s := c.newest
    if s.laneUsed l && s.enabled (s.laneBar l) then s.barLanes (s.laneBar l) else [l]

/-- The lanes of the group that are in ALIGN with their sixteenth alignment block seen, with its place. -/
def Chip.alignPlaces (c : Chip) (l : Nat) : List (Nat × Nat) :=
  (c.group l).filterMap fun j => if c.laneState j = lsALIGN then (c.lane j).alignEnd.map fun p => (j, p) else none

/-- Once every lane of the group on its way to SERVICE has had its sixteenth alignment block, and no delay exceeds 6,335 bits, they enter
SERVICE with their delays; those of lanes in SERVICE are kept (R267). -/
def Chip.alignGroup (c : Chip) (l : Nat) : Chip :=
  let ps := c.alignPlaces l
  let last := greatest (ps.map (·.2))
  let waits := (c.group l).any fun j => (c.lane j).alignEnd.isNone && (c.laneState j = lsLOCK || c.laneState j = lsTRAIN || c.laneState j = lsALIGN)
  if waits || ps.any (fun e => decide (e.2 + 6335 < last)) then c
  else c.forAll ps fun c e => (c.setLane e.1 { c.lane e.1 with delay := last - e.2 }).enterService e.1

/-- The sixteenth alignment block of an ET5208 lane ends in bit `place` (R267). -/
def Chip.alignmentBlock (c : Chip) (l place : Nat) : Chip :=
  if !c.et5208 l || c.laneState l ≠ lsALIGN then c
  else (c.setLane l { c.lane l with alignEnd := some place }).alignGroup l

def execAlignmentBlock (t : Nat) (l : Fin 96) (bit : Nat) (s : State) : Host.Outcome State Fault Refusal :=
  .next ((s.at_ t).onChip fun c => c.alignmentBlock l bit)

/-- TALIGN has passed (R254, R264, R267): in mode ET5208 the lane with the latest block fails with cause SKEW and the others
align without it where they can; in mode ET9612 the lane has no marker lock. -/
def execAlignTimeout (t : Nat) (l : Fin 100) (s : State) : Host.Outcome State Fault Refusal :=
  .next ((s.at_ t).onChip fun c =>
    if !c.lingered l lsALIGN (2 * dtMilli) then c
    else if c.et5208 l then
      let own := (c.lane l).alignEnd
      let later := (c.alignPlaces l).any fun e => match own with | some p => decide (p < e.2) | none => false
      if later then c else (c.laneFail l lcSKEW).alignGroup l
    else c.laneFail l lcMARKER_LOSS)

/-! ### Cairn markers (R261 to R265) -/

/-- The lanes of a rate whose transmitters run in mode ET9612. -/
def Chip.markerLanes (c : Chip) (rate : Nat) : List Nat :=
  let ls := if rate = 2 then [96, 97, 98, 99]
    else (List.range 96).filter fun l => !c.et5208 l && c.fast (l / 4) == (rate = 1)
  ls.filter fun l => 1 ≤ c.laneState l && c.laneState l ≤ 5

/-- Marker m goes out on every lane of the rate in one block period (R262). Its BIP is that of scrambled blocks the model does not
form: a free value. -/
def Chip.sendMarkers (c : Chip) (rate : Nat) : Chip :=
  let m := FMap.get 0 c.lanes.mcount rate
  let c : Chip := { c with lanes := { c.lanes with mcount := FMap.put 0 c.lanes.mcount rate ((m + 1) % 2 ^ 24) } }
  c.forAll (c.markerLanes rate) fun c l =>
    let (bip, c) := c.fresh 256
    let bs := le 1 0xC5 ++ le 1 (l % 96) ++ le 3 m ++ le 1 bip ++ le 1 0
    let c := c.emit .marker l [m] (bs ++ le 1 (crcMsb 8 0x07 0 bs))
    c.setLane l { c.lane l with marks := ((m, c.psNow) :: (c.lane l).marks).take 4 }

def execCairnMarkerSend (t : Nat) (rate : Fin 3) (s : State) : Host.Outcome State Fault Refusal :=
  .next ((s.at_ t).onChip (·.sendMarkers rate))

/-- An expected marker is missing or invalid: the fourth in a row loses marker lock (R264). -/
def Chip.missMarker (c : Chip) (l : Nat) : Chip :=
  let st := c.laneState l
  if c.et5208 l || (st ≠ lsALIGN && st ≠ lsSERVICE) then c
  else
    let x := c.lane l
    let c := (c.setLane l { x with missing := x.missing + 1, good := 0 }).bump (LQ_ERR_MISSED (l / 4) (l % 4))
    if 4 ≤ x.missing + 1 then c.markerFault l lcMARKER_LOSS else c

/-- A BIP mismatch: counted, and source 17 when a lane exceeds BIPLIM in a second (R263). -/
def Chip.bipMismatch (c : Chip) (l : Nat) : Chip :=
  let c := c.bump (LQ_ERR_BIPERR (l / 4) (l % 4))
  let x := c.lane l
  let x := if x.bipSince + dtSecond ≤ c.dt then { x with bipSince := c.dt, bipErrs := 0, bipTold := false } else x
  let past := !x.bipTold && decide (c.get (LQ_CFG_BIPLIM (l / 4)) ≤ x.bipErrs)
  let c := c.setLane l { x with bipErrs := x.bipErrs + 1, bipTold := x.bipTold || past }
  if past then c.raiseLane l 17 else c

/-- Round trip of marker m that arrived at `ps` with a TURN (R263). -/
def Chip.noteRtt (c : Chip) (l m ps turn : Nat) : Chip :=
  let x := c.lane l
  match x.marks.find? fun e => e.1 = m with
  | none => c
  | some (_, at') =>
    let rtt := ps - at' - turn * c.blockPs l
    let rs := (rtt :: x.rtts).take 16
    let c := (c.setLane l { x with rtts := rs }).set (LQ_RTT_RTT (l / 4) (l % 4)) (min rtt (2 ^ 32 - 1))
    if isRope l then
      let all := (List.range 4).flatMap fun i => ((c.lane (96 + i)).rtts)
      c.set RL_RTT_RTT (if all.isEmpty then 0 else halfUpN (all.foldl (· + ·) 0) all.length)
    else c

/-- Skew of lane l in whole blocks: its arrival of marker m less the earliest in its group (R265). -/
def Chip.skewOf (c : Chip) (l m : Nat) : Nat :=
  let at' := (c.lane l).arr
  let same := (c.group l).filterMap fun j =>
    if (c.laneState j = lsALIGN ∨ c.laneState j = lsSERVICE) ∧ (c.lane j).mcount = some m then some (c.lane j).arr else none
  (at' - leastOr at' same) / c.blockPs l

/-- A valid hub marker on a lane in ALIGN or SERVICE. -/
def Chip.goodMarker (c : Chip) (l m ps turn : Nat) (bipOk onTime : Bool) : Chip :=
  let x := c.lane l
  let run := onTime && x.mcount.map (fun p => (p + 1) % 2 ^ 24) = some m
  let good := if run then x.good + 1 else 1
  let c := c.setLane l { x with mcount := some m, arr := ps, good := good, missing := 0 }
  let c := if isRope l then (if bipOk then c else c.bipMismatch l)
    else
      let (inj, c) := c.checker .lq (l / 4) 17 (l % 4)
      let c := if inj && bipOk then c.raise .lq (l / 4) { src := 17, cell := l % 4, inj := true } else c
      if bipOk then c else c.bipMismatch l
  let c := c.noteRtt l m ps turn
  let sk := c.skewOf l m
  if c.laneState l = lsALIGN then
    if good < 2 then c
    else if 96 < sk then c.markerFault l lcSKEW
    else
      let c := c.setLane l { c.lane l with skew := sk }
      (c.set (LQ_LSTAT_SKEW (l / 4) (l % 4)) sk).enterService l
  else
    let c := c.set (LQ_LSTAT_SKEW (l / 4) (l % 4)) sk
    if sk ≤ x.skew + 1 ∧ x.skew ≤ sk + 1 then c else c.markerFault l lcSKEW

/-- A cairn marker as received (Table 10-5). One with DIR 0 on a rope lane is the peer's own: it is returned with DIR 1 and the
unit's fixed TURN (R382). -/
def Chip.cairnMarker (c : Chip) (l : Nat) (b : List Byte) (ps : Nat) (bipOk onTime : Bool) : Chip :=
  let st := c.laneState l
  if c.et5208 l || (st ≠ lsALIGN && st ≠ lsSERVICE) then c
  else if b.length ≠ 8 || fieldAt b 0 1 ≠ 0xC5 || fieldAt b 7 1 ≠ crcMsb 8 0x07 0 (b.take 7) then c.missMarker l
  else
    let w := fieldAt b 1 1
    let m := fieldAt b 2 3
    if w < 128 then
      if isRope l then
        let bs := le 1 0xC5 ++ le 1 (w + 128) ++ le 3 m ++ le 1 (fieldAt b 5 1) ++ le 1 (1 + Config.factory 40 % 255)
        c.emit .marker l [m] (bs ++ le 1 (crcMsb 8 0x07 0 bs))
      else c.missMarker l
    else if w % 128 ≠ l % 96 then c.markerFault l lcLANE_ID
    else c.goodMarker l m (ps / 100 * 100) (fieldAt b 6 1) bipOk onTime

def execCairnMarker (t : Nat) (l : Fin 100) (block : List Byte) (ps : Nat) (bipOk onTime : Bool) (s : State) :
    Host.Outcome State Fault Refusal :=
  .next ((s.at_ t).onChip fun c => c.cairnMarker l block ps bipOk onTime)

def execMarkerMissing (t : Nat) (l : Fin 100) (s : State) : Host.Outcome State Fault Refusal :=
  .next ((s.at_ t).onChip fun c => c.missMarker l)

/-! ### The shared reference (R253) -/

/-- The lane leaves block lock with cause REF: source 16. -/
def Chip.refLost (c : Chip) (l : Nat) : Chip :=
  let st := c.laneState l
  if st = lsSERVICE then ((c.laneCause l lcREF).loseLock l).raiseLane l 16
  else if st = lsTRAIN ∨ st = lsALIGN then (c.laneFail l lcREF).raiseLane l 16
  else c

def execRefOffsetCheck (t : Nat) (l : Fin 100) (ppb : Int) (s : State) : Host.Outcome State Fault Refusal :=
  .next ((s.at_ t).onChip fun c =>
    let off := decide (20000 < ppb.natAbs)
    let c := c.setLane l { c.lane l with offFreq := off }
    if off then c.refLost l else c)

def execRxBufferOverflow (t : Nat) (l : Fin 100) (s : State) : Host.Outcome State Fault Refusal :=
  .next ((s.at_ t).onChip fun c => c.refLost l)

/-! ### Eye scan and adaptation (R268, R269) -/

/-- 1 ms without a data block freezes adaptation (R269). -/
def execAdaptFreeze (t : Nat) (l : Fin 100) (s : State) : Host.Outcome State Fault Refusal :=
  .next ((s.at_ t).onChip fun c =>
    if c.laneState l = lsSERVICE ∧ (c.lane l).dataAt + dtMilli ≤ c.dt then c.set (LQ_EYE_FROZEN (l.val / 4) (l.val % 4)) 1 else c)

/-- A data block arrives on lane l: adaptation unfreezes (R269). -/
def Chip.dataBlock (c : Chip) (l : Nat) : Chip :=
  (c.setLane l { c.lane l with dataAt := c.dt }).set (LQ_EYE_FROZEN (l / 4) (l % 4)) 0

/-- The passing run of a quick scan (R268): the points outward from the centre on both sides, each side up to its limit and to its first
failing point. -/
def scanRun (berth mid : Nat) (up : List Nat) (upMax : Nat) (down : List Nat) (downMax : Nat) : Nat :=
  let side (xs : List Nat) (m : Nat) : Nat := ((xs.take m).takeWhile (· ≤ berth)).length
  if berth < mid then 0 else 1 + side up upMax + side down downMax

/-- WIDTH and HEIGHT of the counts (R268). -/
def Chip.eyeFigure (c : Chip) (l : Nat) (k : ScanCounts) : Nat × Nat :=
  let b := c.get (LQ_EYECFG_BERTH (l / 4))
  (scanRun b k.mid k.right 31 k.left 32, scanRun b k.mid k.up 63 k.down 64)

/-- A scheduled quick scan starts every SCANPER, once the sampler is free (R268). -/
def execQuickScanStart (t : Nat) (l : Fin 100) (s : State) : Host.Outcome State Fault Refusal :=
  .next ((s.at_ t).onChip fun c =>
    let x := c.lane l
    if c.laneState l = lsSERVICE && x.scan = 0 && !c.pointOn l &&
        decide (x.scanAt + max 1 (c.get (LQ_EYECFG_SCANPER (l.val / 4))) * 250 * dtMilli ≤ c.dt) then
      c.setLane l { x with scan := 1, scanAt := c.dt }
    else c)

/-- A quick scan of a lane in SERVICE ends (R269): a good figure records the settings in force; one that is not good restores
the last-known-good ones and scans again; a second raises source 12 + i, and a lane not in use trains again. -/
def Chip.serviceScan (c : Chip) (l w h settings : Nat) : Chip :=
  let x := c.lane l
  if c.get (LQ_EYECFG_EWMIN (l / 4)) ≤ w ∧ c.get (LQ_EYECFG_EHMIN (l / 4)) ≤ h then
    (c.setLane l { x with scan := 0, settings := settings, lkg := settings }).set (LQ_EYE_LKG (l / 4) (l % 4)) 1
  else if x.scan = 1 then c.setLane l { x with scan := 2, settings := x.lkg }
  else
    let c := (c.setLane l { x with scan := 0, settings := settings }).raiseLane l (12 + l % 4)
    if c.laneInUse l ∧ ¬ isRope l then c else c.enterLock l

def Chip.quickScanDone (c : Chip) (l : Nat) (k : ScanCounts) (settings : Nat) : Chip :=
  let (w, h) := c.eyeFigure l k
  let c := c.flushTrain l
  let shown (c : Chip) : Chip := ((c.set (LQ_EYE_WIDTH (l / 4) (l % 4)) w).set (LQ_EYE_HEIGHT (l / 4) (l % 4)) h).count
    (LQ_EYE_SCANS (l / 4) (l % 4))
  if c.laneState l = lsTRAIN ∧ ¬ c.et5208 l ∧ (c.lane l).train.phase = 2 then
    (shown (c.setLane l { c.lane l with settings := settings })).searchScan l w h
  else if c.laneState l = lsSERVICE ∧ ((c.lane l).scan = 1 ∨ (c.lane l).scan = 2) then (shown c).serviceScan l w h settings
  else c

def execQuickScanDone (t : Nat) (l : Fin 100) (phase : PhaseCounts) (volt : VoltCounts) (settings : Nat) (s : State) :
    Host.Outcome State Fault Refusal :=
  .next ((s.at_ t).onChip fun c => c.quickScanDone l ⟨phase, volt⟩ settings)

def Chip.setPoint (c : Chip) (q : Nat) (p : Option EyePoint) : Chip :=
  { c with lanes := { c.lanes with point := FMap.put none c.lanes.point q p } }

/-- A write of LQq_EYEPT; while a point runs, one with START is ignored, and one without leaves the point as it is (R12, R14, R268). -/
def Chip.writeEyept (c : Chip) (q v : Nat) : Chip :=
  if (FMap.get none c.lanes.point q).isSome && bit v 31 then c
  else
    let c := ((c.set (LQ_EYEPT_LANE q) (bits v 24 2)).set (LQ_EYEPT_H q) (bits v 16 6)).set (LQ_EYEPT_V q) (bits v 8 7)
    if bit v 31 then (c.set (LQ_EYEPT_DONE q) 0).setPoint q (some ⟨bits v 24 2, bits v 16 6, bits v 8 7⟩) else c

def execEyePointStart (t : Nat) (tnt : Fin 8) (q : Fin 24) (v : BitVec 32) (s : State) : Host.Outcome State Fault Refusal :=
  .next ((s.at_ t).onChip fun c => c.ownWrite tnt .lq q 0x48 (·.writeEyept q v.toNat))

/-- A quick scan of lane l is under way, in SERVICE or as a step of training. -/
def Chip.scanning (c : Chip) (l : Nat) : Bool :=
  let x := c.lane l
  x.scan = 1 || x.scan = 2 || (c.laneState l = lsTRAIN && !c.et5208 l && x.train.phase = 2)

/-- The point's mismatch count over 2^(16 + DWELL) bits; it waits for a quick scan of its lane to end, and the scan of a recalibration
waits for it (R268). -/
def Chip.eyePointDone (c : Chip) (q count : Nat) : Chip :=
  match FMap.get none c.lanes.point q with
  | none => c
  | some p =>
    let l := 4 * q + p.lane
    if c.scanning l then c
    else
      let n := min count (min (2 ^ (16 + c.get (LQ_EYECFG_DWELL q))) (2 ^ 32 - 1))
      let c := ((c.set (LQ_EYECNT_COUNT q) n).set (LQ_EYEPT_DONE q) 1).setPoint q none
      if (c.lane l).scan = 3 then c.setLane l { c.lane l with scan := 1 } else c

def execEyePointDone (t : Nat) (q : Fin 24) (count : Nat) (s : State) : Host.Outcome State Fault Refusal :=
  .next ((s.at_ t).onChip fun c => c.eyePointDone q count)

/-! ### Recalibration (R270) -/

/-- The recalibration trigger (R270): θ_REF, the timebase trims (R312), the head phases of R200, and the lanes: a pass now, or one more after the current. -/
def Chip.recalTrigger (c : Chip) (theta : Int) : Chip :=
  let c := (((c.set HL_RCAL_THREF (uns 8 (halfUp theta 16))).count HL_RCAL_TRIGGERS).startTrims).retherm
  if c.recalibrating then { c with lanes := { c.lanes with again := true } } else c.recalPass

/-- Lane l has finished (R270): its sampler has a new offset, which the spec puts no number to, or, beyond its range, keeps the previous
trim with source 18; the next lane follows. -/
def Chip.recalDone (c : Chip) (l : Nat) (beyond : Bool) : Chip :=
  if !(c.lane l).recal || (c.lane l).scan ≠ 0 then c
  else
    let (v, c) := if beyond then ((c.lane l).sampler, c.raiseLane l 18) else c.fresh 65536
    (c.setLane l { c.lane l with recal := false, sampler := v }).recalNext l

def execLaneRecalDone (t : Nat) (l : Fin 96) (beyond : Bool) (s : State) : Host.Outcome State Fault Refusal :=
  .next ((s.at_ t).onChip fun c => c.recalDone l beyond)

end Sys2Proof.Machine
end

