-- ==== Sys2Proof/Machine/Check.lean ====
section
/-!
DEFINITION. Sys2Proof/Machine/Check.lean: CHECK: the rules of Table 14-3 on the set that a commit would create (R358, R359).
A rule gives its first failure as bar (0xFF for none), ITEM_A and ITEM_B.
-/
namespace Sys2Proof.Machine

/-- A failure: bar, ITEM_A, ITEM_B. -/
abbrev Failure := Nat × Nat × Nat

/-- The result word of R358. -/
def resultWord (rule : Nat) (x : Failure) : Nat := rule + 256 * (x.1 % 256) + 2 ^ 16 * (x.2.1 % 2 ^ 24) + 2 ^ 40 * (x.2.2 % 2 ^ 24)

def noBar : Nat := 0xFF
def noItem : Nat := 0xFFFFFF

/-- The first of some byte offsets at which a table of type ty holds a non-zero byte. -/
def Table.firstNonZero (t : Table) (ty : Nat) (offs : List Nat) : Option Nat := offs.find? fun o => t.byteAt ty o ≠ 0

/-- The numbers lo to hi − 1. -/
def span (lo hi : Nat) : List Nat := (List.range (hi - lo)).map (lo + ·)

/-- Fails with a value when the condition holds. -/
def failIf {α : Type} (p : Bool) (x : α) : Option α := if p then some x else none

/-- The first failure of a list of checks. -/
def firstOf {α : Type} (xs : List (Option α)) : Option α := xs.findSome? id

/-! ### Rule 1, GEOMETRY (R17, R446) -/

/-- A lane quad is quarantined: its lanes count as absent (R30). -/
def Chip.lanePresent (c : Chip) (l : Nat) : Bool := !c.is (PWR_QUAR .lq (l / 4))

/-- The lanes of bar k that are present in a set: rules GEOMETRY, LANEMAP and NOZZLE count no others (R30). -/
def Chip.presentLanes (c : Chip) (x : TSet) (k : Nat) : List Nat := (x.barLanes k).filter c.lanePresent

/-- Context 0 is IDLE, TRAPPED, HALTED or STOPPED. -/
def Chip.ctx0Idle (c : Chip) : Bool := [IDLE, TRAPPED, HALTED, STOPPED].contains (c.ctxState 0)

def checkGeometry (c : Chip) (x : TSet) : Option Failure :=
  let act := c.stage.active
  firstOf (failIf (decide (5 < x.geo 0 0) || (decide (x.geo 0 0 ≠ act.geo 0 0) && !c.ctx0Idle)) (noBar, 0, 0) ::
    (List.range 16).map fun k =>
      firstOf [
        failIf (x.geo 1 k = 0 || decide (3 < x.geo 1 k) ||
          (act.enabled k && decide (x.geo 1 k ≠ act.geo 1 k) && !c.ctx0Idle)) (k, 1, 0),
        failIf (decide (1 < x.geo 2 k) || (x.enabled k && !c.regionOn (k / 4))) (k, 2, 0),
        failIf (decide (x.width k < 16) || decide (163840 < x.width k) || x.width k % 16 ≠ 0) (k, 3, 0),
        failIf (decide (60000000 * 256 < x.geo 4 k)) (k, 4, 0),
        failIf (decide (x.lead k < 48) || decide (64 < x.lead k)) (k, 5, 0),
        failIf (x.enabled k && ((c.presentLanes x k).isEmpty || decide (24 < (c.presentLanes x k).length))) (k, 6, 0)])

/-! ### Rule 2, LANEMAP (R30, R250, R305) -/

/-- The lane maps table. A lane of an enabled bar whose quad is quarantined counts as absent, and so as none that the bar may have
(DEDUCED from R30 and R362, assumption 22). -/
def checkLanes (c : Chip) (x : TSet) : Option Failure :=
  let t := x.devT 7
  firstOf (
    ((t.firstNonZero 7 (List.range 64)).map fun o => (noBar, noItem, o)) ::
    ((List.range 96).find? fun l => bits (t.num 7 (64 + 4 * l) 1) 4 3 ≠ 0 || t.byteAt 7 (65 + 4 * l) ≠ 0).map
      (fun l => (noBar, l, 0)) ::
    (List.range 16).map fun k =>
      let ls := x.barLanes k
      firstOf [
        (ls.find? fun l => l / 24 ≠ k / 4 || (x.enabled k && !c.lanePresent l)).map fun l => (k, l, k),
        match ls with
        | [] => none
        | l0 :: _ =>
          (ls.find? fun l => decide (c.fast (l / 4) ≠ c.fast (l0 / 4)) ||
            decide (c.get (LQ_CFG_MODE (l / 4)) ≠ c.get (LQ_CFG_MODE (l0 / 4)))).map fun l => (k, l0, l)])

/-! ### Rule 3, COLOUR (R147, R150, R151) -/

def checkColour (x : TSet) : Option Failure :=
  firstOf ((List.range 16).map fun k =>
    firstOf [
      ((x.barT k 0).firstNonZero 0 (span 167042 167104)).map fun o => (k, o, 0),
      failIf (decide (2 < (x.barT k 1).num 1 0 1)) (k, 0, 1),
      failIf (decide (7 < (x.barT k 1).num 1 1 1)) (k, 1, 1),
      ((x.barT k 1).firstNonZero 1 (span 2 64 ++ span 578 640)).map fun o => (k, o, 1),
      failIf (decide (1 < (x.barT k 2).num 2 0 1)) (k, 0, 2),
      ((x.barT k 2).firstNonZero 2 (span 1 64)).map fun o => (k, o, 2)])

/-! ### Rule 4, KERNEL (R179) -/

def Table.tap (t : Table) (i : Nat) : Nat := t.num 3 (2 * i) 2
def Table.levelValue (t : Table) (i : Nat) : Nat := t.num 3 (22 + 2 * i) 2

def checkKernel (x : TSet) : Option Failure :=
  firstOf (x.bars.map fun k =>
    let t := x.barT k 3
    let levels := 2 ^ x.geo 1 k
    firstOf [
      ((List.range 12).find? fun i => decide (4096 < t.tap i)).map fun i => (k, 2 * i, 0),
      failIf (((List.range 12).map t.tap).foldl (· + ·) 0 ≠ 4096) (k, 0, 0),
      ((span 1 levels).find? fun i => decide (t.levelValue i ≤ if i = 1 then 0 else t.levelValue (i - 1))).map fun i => (k, 22 + 2 * i, 0),
      ((span levels 8).find? fun i => t.levelValue i ≠ 0).map fun i => (k, 22 + 2 * i, 0),
      failIf (decide (1 < t.num 3 40 1)) (k, 40, 0),
      (t.firstNonZero 3 (span 41 44 ++ span 48 128)).map fun o => (k, o, 0)])

/-! ### Rule 5, NOZZLE (R188) -/

/-- Entry i of a nozzle map breaks Table 7-4 or stands out of order. -/
def nozBad (t : Table) (i : Nat) : Bool :=
  let w := t.num 4 (64 + 4 * i) 4
  let st := bits w 30 2
  let p := bits w 24 6
  bits w 18 6 ≠ 0 || decide (163839 < w % 2 ^ 18) || (st = 1 && p = 0) || ((st = 0 || st = 2) && p ≠ 0) ||
    (decide (0 < i) && decide (w % 2 ^ 18 ≤ t.num 4 (60 + 4 * i) 4 % 2 ^ 18))

/-- Heads that cover a column. -/
def coverage (spans : List Span) (col : Nat) : Nat := (spans.filter (·.covers col)).length

def checkNozMap (x : TSet) (k : Nat) : Option Failure :=
  let t := x.barT k 4
  let spans := (x.barT k 5).spans
  let n := t.num 4 0 4
  let col i := t.num 4 (64 + 4 * i) 4 % 2 ^ 18
  firstOf [
    (t.firstNonZero 4 (span 4 64)).map fun o => (k, noItem, o),
    ((List.range n).find? (nozBad t)).map fun i => (k, col i, 0),
    ((List.range n).find? fun i => decide ((bits (t.num 4 (64 + 4 * i) 4) 30 2 = 3) ≠ (2 ≤ coverage spans (col i)))).map
      fun i => (k, col i, 0),
    (t.firstNonZero 4 (span (64 + 4 * n) (64 * (1 + ceilDiv n 16)))).map fun o => (k, noItem, o)]

/-- Entry i of a head span table breaks Table 7-3 or stands out of order. -/
def spanBad (t : Table) (i : Nat) (x : Span) : Bool :=
  let o := 64 + 16 * i
  decide (1535 < t.num 5 o 2) || t.num 5 (o + 2) 2 ≠ 0 || decide (2 ^ 18 ≤ t.num 5 (o + 4) 4) || x.ncol = 0 ||
    decide (16384 < x.ncol) || decide (1 < t.num 5 (o + 12) 1) || t.num 5 (o + 13) 3 ≠ 0 ||
    (x.dir = 1 && decide (x.noz0 + 1 < x.ncol)) || decide (163840 < x.first + x.ncol) ||
    (decide (0 < i) && decide (x.first ≤ t.num 5 (o - 12) 4 % 2 ^ 18))

def checkSpans (c : Chip) (x : TSet) (k : Nat) : Option Failure :=
  let t := x.barT k 5
  let spans := t.spans
  let at' i := spans.getD i ⟨0, 0, 0, 0, 0⟩
  let n := spans.length
  firstOf [
    (t.firstNonZero 5 (span 2 64)).map fun o => (k, noItem, o),
    ((List.range n).find? fun i => spanBad t i (at' i)).map fun i => (k, (at' i).head, 0),
    ((List.range n).find? fun i => (spans.take i).any (fun y => y.head = (at' i).head) ||
        (List.range 16).any fun j => j ≠ k && (x.heads j).contains (at' i).head).map
      fun i => (k, (at' i).head, (at' i).head),
    ((List.range n).find? fun i => !(c.presentLanes x k).contains ((at' i).head / 16)).map fun i => (k, (at' i).head, 0),
    ((List.range n).find? fun i => decide (2 ≤ i) && (spans.take (i - 1)).any fun y => y.covers (at' i).first).map
      fun i => (k, (at' i).first, (at' i).head),
    (t.firstNonZero 5 (span (64 + 16 * n) (64 * (1 + ceilDiv n 4)))).map fun o => (k, noItem, o),
    ((List.range (x.width k)).find? fun col => coverage spans col = 0 &&
        decide (((x.barT k 4).nozEntry col).map (·.1) ≠ some 2)).map fun col => (k, col, 0)]

def checkNozzles (c : Chip) (x : TSet) : Option Failure := firstOf (x.bars.map fun k => firstOf [checkNozMap x k, checkSpans c x k])

/-! ### Rule 6, PHASES (R199, R201) -/

def checkPhases (x : TSet) : Option Failure :=
  let t := x.devT 6
  let phase h : Int := sgn 16 (t.num 6 (64 + 8 * h) 2)
  firstOf (
    ((t.firstNonZero 6 (List.range 64)).map fun o => (noBar, noItem, o)) ::
    ((List.range 1536).find? fun h => decide (phase h < -64) || decide (1024 < phase h) ||
      decide (120 < t.num 6 (69 + 8 * h) 1) || t.num 6 (70 + 8 * h) 2 ≠ 0).map (fun h => (noBar, h, 0)) ::
    x.bars.map fun k => ((x.heads k).find? fun h => decide (phase h < -64) ||
      decide ((64 * (64 - x.lead k) : Int) < phase h)).map fun h => (k, h, 0))

/-! ### Rule 7, MOTION (R216) -/

/-- Fields of Table 8-4: offset, bytes, least and greatest value. -/
def motionRanges : List (Nat × Nat × Nat × Nat) :=
  [(0, 2, 5, 100), (2, 2, 1, 65535), (4, 2, 0, 65535), (6, 2, 0, 65535), (8, 4, 1, 4294967295), (12, 4, 1, 4294967295),
   (16, 2, 10, 10000), (18, 2, 0, 65535), (20, 2, 1, 1000), (22, 2, 1, 65535), (24, 1, 1, 15), (25, 1, 0, 0), (26, 2, 1, 65535)]

def checkMotion (x : TSet) : Option Failure :=
  let t := x.devT 9
  let out (r : Nat × Nat × Nat × Nat) : Bool := decide (t.num 9 r.1 r.2.1 < r.2.2.1) || decide (r.2.2.2 < t.num 9 r.1 r.2.1)
  firstOf [
    (motionRanges.find? out).map fun r => (noBar, r.1, 0),
    failIf (t.num 9 28 2 ≠ 0 && decide (t.num 9 28 2 < t.num 9 26 2)) (noBar, 28, 0),
    failIf (t.num 9 30 2 = 0) (noBar, 30, 0),
    (t.firstNonZero 9 (span 32 128)).map fun o => (noBar, o, 0)]

/-! ### Rule 8, CLAIM (R359) -/

/-- A claimant: its kind and number, and what it claims as (resource kind, what is compared, resource number). -/
structure Claimant where
  kind : Nat
  num : Nat
  res : List (Nat × Nat × Nat)
deriving DecidableEq, Repr

def probeBall (p : Nat) : Nat := if p < 4 then 8 + p else p

/-- What a claim by a context claims; i is its index in the list. -/
def Claim.res (x : Claim) (i : Nat) : List (Nat × Nat × Nat) :=
  match x.kind with
  | 0 => [(3, x.num, x.num)]
  | 1 => [(0, probeBall x.num, probeBall x.num), (2, x.num, x.num)]
  | 2 => [(0, x.num, x.num), (1, x.num, x.num)]
  | _ => [(5, x.num, i)]

def plain (kind : Nat) (ns : List Nat) : List (Nat × Nat × Nat) := ns.map fun n => (kind, n, n)

/-- Every claimant of a set, by kind and number (Table 14-4). -/
def claimants (c : Chip) (x : TSet) : List Claimant :=
  ((List.range 16).filter fun n => c.is (TB_TMCFG_EN n) && c.get (TB_TMCFG_OUT n) ≠ 0).map (fun n =>
    let g := c.get (TB_TMCFG_TRIG n)
    ⟨1, n, [(0, g, g), (1, g, g), (3, n, n)]⟩) ++
  ((List.range 8).filter fun p => c.is (WM_PCFG_EN p)).map (fun p => ⟨2, p, [(0, probeBall p, probeBall p), (2, p, p)]⟩) ++
  ((List.range 2).filter fun m => c.is (WM_SCFG_EN m)).map (fun m => ⟨3, m, plain 0 (if m = 0 then [0x1C, 0x1D] else [0x19, 0x1A])⟩) ++
  ((List.range 4).filter fun n => c.is (WM_ECFG_EN n)).map (fun n => ⟨4, n, plain 0 [0x10 + 3 * n, 0x11 + 3 * n, 0x12 + 3 * n]⟩) ++
  x.bars.map (fun k => ⟨5, k, plain 4 (x.barLanes k)⟩) ++
  ((List.range 17).map fun n =>
    ⟨6, n, ((List.range x.claims.length).filter fun i => (x.claims.getD i ⟨17, 0, 0⟩).ctx = n).flatMap fun i =>
      (x.claims.getD i ⟨17, 0, 0⟩).res i⟩)

/-- The resource of lowest kind, then number, that two claimants both hold, as each of them numbers it. -/
def shared (a b : Claimant) : Option ((Nat × Nat) × (Nat × Nat)) :=
  (List.range 6).findSome? fun k =>
    let both := (a.res.filter fun r => r.1 = k && b.res.any fun q => q.1 = k && q.2.1 = r.2.1)
    match both with
    | [] => none
    | r0 :: rs =>
      let r := rs.foldl (fun m r => if r.2.2 < m.2.2 then r else m) r0
      let n := ((b.res.find? fun q => q.1 = k && q.2.1 = r.2.1).map (·.2.2)).getD r.2.2
      some ((k, r.2.2), (k, n))

/-- A claimant code (R359). -/
def Claimant.code (x : Claimant) (r : Nat × Nat) : Nat := x.kind * 2 ^ 20 + x.num * 2 ^ 12 + r.1 * 2 ^ 8 + r.2

/-- The first claimant that conflicts with a later one, and the first such later one. -/
def firstConflict : List Claimant → Option (Nat × Nat)
  | [] => none
  | a :: bs => match bs.findSome? fun b => (shared a b).map fun r => (a.code r.1, b.code r.2) with
    | some e => some e
    | none => firstConflict bs

def checkClaims (c : Chip) (x : TSet) : Option Failure := (firstConflict (claimants c x)).map fun e => (noBar, e.1, e.2)

/-- A claim whose allocation is gone: it has been freed (R357). -/
def staleClaim (c : Chip) (x : Claim) : Bool := x.kind = 3 && (c.store.find x.num).isNone

/-- The first claim of a set on a freed allocation, as CHECK names it. -/
def checkFreed (c : Chip) (x : TSet) : Option Failure :=
  ((List.range x.claims.length).find? fun i => staleClaim c (x.claims.getD i ⟨17, 0, 0⟩)).map fun i =>
    (noBar, (Claimant.mk 6 (x.claims.getD i ⟨17, 0, 0⟩).ctx []).code (5, i), 0)

/-- CHECK on a set: 0, or the result word of the first failure (R358). -/
def checkSet (c : Chip) (x : TSet) : Nat :=
  (firstOf [
    (checkGeometry c x).map (resultWord 1), (checkLanes c x).map (resultWord 2), (checkColour x).map (resultWord 3),
    (checkKernel x).map (resultWord 4), (checkNozzles c x).map (resultWord 5), (checkPhases x).map (resultWord 6),
    (checkMotion x).map (resultWord 7), (checkFreed c x).map (resultWord 8), (checkClaims c x).map (resultWord 8)]).getD 0

/-- The recheck of R362: rules 2 and 8. -/
def recheck (c : Chip) (x : TSet) : Nat :=
  (firstOf [(checkLanes c x).map (resultWord 2), (checkFreed c x).map (resultWord 8), (checkClaims c x).map (resultWord 8)]).getD 0

end Sys2Proof.Machine
end

