-- ==== Sys2Proof/Machine/Hub.lean ====
section
/-!
DEFINITION. Sys2Proof/Machine/Hub.lean: the head protocol: frames to the hubs and what their records do, but for ownership
(R274 to R307; Machine/Owner.lean holds EPOCH and CLAIM_REPLY records).
-/
namespace Sys2Proof.Machine

/-! ### Frames (R276, R277) -/

/-- A frame: header block, payload blocks, FCRC. -/
def hubFrame (kind bank addr epoch : Nat) (payload : List Byte) : List Byte :=
  let h := le 1 0xE1 ++ le 1 (kind + 16 * bank) ++ le 1 addr ++ le 2 (payload.length / 8 + 1) ++ le 2 epoch
  h ++ le 1 (crcMsb 8 0x07 0 h) ++ payload ++ le 4 (crc32 payload) ++ zeros 4

/-- This unit owns the hub of lane l, as its latest record says. -/
def Chip.ownsHub (c : Chip) (l : Nat) : Bool := c.is (LQ_HST_SELF (l / 4) (l % 4))

/-- The bank that this unit's rows and stamps go to: LIVE where it owns the hub, SHADOW elsewhere (R275). -/
def Chip.bankOf (c : Chip) (l : Nat) : Nat := if c.ownsHub l then 0 else 1

/-- CUR_l (R386). -/
def Chip.curOf (c : Chip) (l : Nat) : Nat := c.get (LQ_HEP_CUR (l / 4) (l % 4))

/-! ### STAT frames as received (R276, R277, R302) -/

/-- The data blocks of a frame: only markers and HALT blocks may stand among them (R277). -/
def frameData (fr : List RxBlock) : Option (List Byte) :=
  let own := fr.filter fun b => b.data || !(fieldAt b.bytes 0 1 = 0xC5 || fieldAt b.bytes 0 1 = 0xA5)
  if own.all (·.data) then some (own.flatMap (·.bytes)) else none

/-- The header block of a STAT frame to the ET9612: its CRC, KIND, ADDR and reserved fields are as they must be (Tables 11-1, 11-2). -/
def statHeader (h : RxBlock) : Bool :=
  !h.data && h.bytes.length = 8 && fieldAt h.bytes 0 1 = 0xE1 && fieldAt h.bytes 1 1 = 6 && fieldAt h.bytes 2 1 = 31 &&
    fieldAt h.bytes 3 2 < 1024 && fieldAt h.bytes 7 1 = crcMsb 8 0x07 0 (h.bytes.take 7)

/-- Record i of a received STAT frame: none where the receiver discards the frame (R277), or where it holds no such record. -/
def statRecord (fr : List RxBlock) (i : Nat) : Option (List Byte) :=
  match fr with
  | [] => none
  | h :: rest => match frameData rest with
    | none => none
    | some d =>
      let n := fieldAt d 4 2
      let len := fieldAt h.bytes 3 2
      if statHeader h && 1 ≤ n && n ≤ 32 && len = 2 + 2 * n && d.length = 8 * len && fieldAt d 6 2 = 0 &&
          fieldAt d (8 * len - 8) 4 = crc32 (d.take (8 * len - 8)) && fieldAt d (8 * len - 4) 4 = 0 && i < n then
        some ((d.drop (8 + 16 * i)).take 16)
      else none

/-- A STAT frame on a lane in SERVICE: its data blocks unfreeze adaptation (R269), and record i, if the frame stands and the record has
the type, does `f` (R277, Table 11-10). -/
def State.record (s : State) (l : Nat) (fr : List RxBlock) (i type : Nat) (f : List Byte → State → State) : State :=
  if s.chip.laneState l ≠ lsSERVICE then s
  else
    let s := if fr.any (·.data) then s.onChip (·.dataBlock l) else s
    match statRecord fr i with
    | some r => if fieldAt r 0 1 = type then f r s else s
    | none => s

/-! ### Stamps that wait (R280, R286) -/

/-- Values that wait for heads on lane l: (row, head, value) of first stamps, or of amendments. -/
def Chip.waiting (c : Chip) (l : Nat) (amend : Bool) : List (Nat × Nat × Nat) :=
  (List.range 16).flatMap fun k => (c.bar k).ring.flatMap fun x => x.heads.filterMap fun h =>
    if h.head / 16 = l ∧ h.stamp.isSome = amend then h.queued.map fun v => (x.n, h.head, v) else none

/-- Adds a head to the entry of its row and stamp, or begins one. -/
def gather (es : List StampEntry) (e : Nat × Nat × Nat) : List StampEntry :=
  let m := 2 ^ (e.2.1 % 16)
  if es.any fun x => x.row = e.1 && x.stamp = e.2.2 then
    es.map fun x => if x.row = e.1 ∧ x.stamp = e.2.2 then { x with mask := x.mask + m } else x
  else es ++ [⟨e.1, m, e.2.2⟩]

/-- A head-row whose value in one of the entries is launched. -/
def HeadRow.launch (l n : Nat) (amend : Bool) (es : List StampEntry) (h : HeadRow) : HeadRow :=
  match h.queued with
  | some v =>
    if h.head / 16 = l ∧ h.stamp.isSome = amend ∧ es.any (fun e => e.row = n && bit e.mask (h.head % 16) && e.stamp = v) then
      { h with stamp := some v, queued := none }
    else h
  | none => h

/-- Payload of FIRE and AMEND (Table 11-4). -/
def stampPayload (fseq : Nat) (es : List StampEntry) : List Byte :=
  le 4 fseq ++ le 2 es.length ++ zeros 2 ++ es.flatMap fun e => le 4 e.row ++ le 2 e.mask ++ zeros 2 ++ le 8 e.stamp

/-- Launches a FIRE or AMEND frame on lane l with up to 64 entries of what waits (R286 to R290). -/
def Chip.launchStamps (c : Chip) (l : Nat) (amend : Bool) : Chip :=
  let now := c.ns
  let bank := c.bankOf l
  let ws := c.waiting l amend
  let es := (ws.foldl gather []).take 64
  let sent := (es.map fun e => popCount 16 e.mask).foldl (· + ·) 0
  let x := c.lane l
  let f := FMap.get 0 x.fseq bank
  let c := c.setLane l { x with fseq := FMap.put 0 x.fseq bank ((f + 1) % 2 ^ 32),
                                unacked := x.unacked ++ [⟨f, bank, now, es.map fun e => (e.row, e.mask)⟩] }
  let mark (b : Bar) : Bar :=
    { b with ring := b.ring.map fun y => { y with heads := y.heads.map (HeadRow.launch l y.n amend es) } }
  let c : Chip := { c with bars := FMap.mapV {} mark c.bars }
  let c := if amend then c.count FS_AMEND_SENT sent else c
  c.emit (if amend then .amend else .fire) l [f, bank] (hubFrame (if amend then 3 else 2) bank 31 (c.curOf l % 65536)
    (stampPayload f es))

/-! ### Rows (R281 to R285) -/

/-- Payload of a ROW frame (Table 11-3). -/
def rowPayload (n : Nat) (h : HeadRow) : List Byte :=
  le 4 n ++ le 2 h.nnoz ++ le 1 h.depth ++ le 1 0 ++ fit (8 * ceilDiv (h.nnoz * h.depth) 64) h.levels

/-- Changes head-row h of row n of bar k. -/
def Chip.setHeadRow (c : Chip) (k n head : Nat) (f : HeadRow → HeadRow) : Chip :=
  let b := c.bar k
  c.setBar k { b with ring := b.ring.map fun x =>
    if x.n = n then { x with heads := x.heads.map fun h => if h.head = head then f h else h } else x }

def Chip.headRow? (c : Chip) (k n head : Nat) : Option HeadRow :=
  match (c.bar k).ring.find? fun x => x.n = n with
  | some x => x.heads.find? fun h => h.head = head
  | none => none

/-- Launches a ROW frame. In STANDBY a row that comes after its stamp is not sent and counts as missing (R392). -/
def Chip.launchRow (c : Chip) (l k n head : Nat) : Chip :=
  match c.headRow? k n head with
  | none => c
  | some h =>
    let past := match h.stamp with | some v => v ≠ holdStamp && decide (v ≤ c.ns) | none => false
    if c.role = 2 && past then c.bump TW_HASH_MISSING
    else
      let bank := c.bankOf l
      let c := c.setHeadRow k n head fun h => { h with launched := some c.ns, tries := h.tries + 1 }
      c.emit .row l [k, n, head, bank] (hubFrame 1 bank (head % 16) (c.curOf l % 65536) (rowPayload n h))

/-! ### TIME (R292) -/

/-- DT at the arrival of a frame launched now on lane l, in 1/65,536 ns: launch, half the mean RTT, TXADJ, rounded half up. -/
def Chip.arrivalDt (c : Chip) (l : Nat) : Nat :=
  let rs := (c.lane l).rtts
  let n := max 1 rs.length
  let num : Int := 2 * n * ((c.psNow : Int) + c.newest.txAdj l) + ((rs.foldl (· + ·) 0 : Nat) : Int)
  (halfUp (num * 65536) (2 * n * 1000)).toNat

def Chip.launchTime (c : Chip) (l : Nat) : Chip :=
  let v := c.arrivalDt l
  let x := c.lane l
  let p := le 8 (v / 65536) ++ le 2 (v % 65536) ++ le 4 (uns 32 (c.getS TB_RATE_NOW)) ++ le 2 x.tseq
  (c.setLane l { x with tseq := (x.tseq + 1) % 65536 }).emit .timeFrame l [v] (hubFrame 4 0 31 (c.curOf l % 65536) p)

/-! ### Launching (R280) -/

/-- Rank of a waiting frame: CLAIM and EPOCH, TIME, the FIRE_ARM that goes ahead of stamps (R291), FIRE, AMEND, CTRL, ROW. -/
def LaneFrame.rank : LaneFrame → Nat
  | .claim _ _ => 0 | .epoch _ _ _ => 0 | .time => 1
  | .ctrl code _ _ _ _ _ => if code = 1 then 2 else 5
  | .fire => 3
  | .row _ _ _ => 6

/-- Row frames go in ascending row order, within a row in ascending FIRST of the head span table (R280). -/
def Chip.rowBefore (c : Chip) (k n h k' n' h' : Nat) : Bool :=
  let first (k n h : Nat) := ((((c.setFor n).barT k 5).spans.find? fun x => x.head = h).map (·.first)).getD 0
  decide (n < n') || (n = n' && decide (first k n h < first k' n' h'))

/-- The frame that lane l launches first: least rank, rows in their order, else the order of waiting. -/
def Chip.bestWaiting (c : Chip) (l : Nat) : Option LaneFrame :=
  (c.lane l).txq.foldl (fun best f => match best with
    | none => some f
    | some g =>
      if f.rank < g.rank then some f
      else match f, g with
        | .row k n h, .row k' n' h' => if c.rowBefore k n h k' n' h' then some f else some g
        | _, _ => some g) none

def Chip.popFrame (c : Chip) (l : Nat) (f : LaneFrame) : Chip :=
  c.setLane l { c.lane l with txq := (c.lane l).txq.erase f }

/-- Launches one frame of the queue. -/
def Chip.launchFrame (c : Chip) (l : Nat) (f : LaneFrame) : Chip :=
  let c := c.popFrame l f
  match f with
  | .claim e tok =>
    c.emit .claim l [e, tok] (hubFrame 8 0 31 (e % 65536) (le 4 e ++ le 4 unitId ++ le 4 tok ++ zeros 4))
  | .epoch e tok hrow =>
    c.emit .epochFrame l [e, tok, hrow]
      (hubFrame 7 0 31 (c.curOf l % 65536) (le 4 e ++ le 4 unitId ++ le 4 tok ++ le 4 hrow))
  | .time => c.launchTime l
  | .fire => c.launchStamps l false
  | .ctrl code addr tag count ea data =>
    let bank := if code = 1 then c.bankOf l else if c.is (LQ_HST_OWNER (l / 4) (l % 4)) then c.bankOf l else 0
    c.emit .eeFrame l [code, addr, tag, bank] (hubFrame 5 bank addr (c.curOf l % 65536)
      (le 1 code ++ le 1 tag ++ le 1 count ++ le 1 0 ++ le 2 ea ++ zeros 2 ++ fit 8 data))
  | .row k n h => c.launchRow l k n h

/-- At a frame boundary lane l launches the waiting frame of highest priority (R280). -/
def Chip.laneLaunch (c : Chip) (l : Nat) : Chip :=
  if c.laneState l ≠ lsSERVICE then c
  else
    let c := c.freeze
    let best := c.bestWaiting l
    let r := match best with | some f => f.rank | none => 9
    if 3 < r ∧ ¬ (c.waiting l false).isEmpty then c.launchStamps l false
    else if 4 < r ∧ ¬ (c.waiting l true).isEmpty then c.launchStamps l true
    else match best with
      | some f => c.launchFrame l f
      | none => c

def execLaneFrameLaunch (t : Nat) (l : Fin 96) (s : State) : Host.Outcome State Fault Refusal :=
  .next ((s.at_ t).onChip (·.laneLaunch l))

/-! ### What is sent regularly (R290, R292, R297, R300) -/

/-- Puts a frame in the queue of lane l unless it already waits there. -/
def Chip.want (c : Chip) (l : Nat) (f : LaneFrame) : Chip := if (c.lane l).txq.contains f then c else c.enqueue l f

/-- No head lane carries a provisional DT (R308). -/
def execTimeFrameSend (t : Nat) (s : State) : Host.Outcome State Fault Refusal :=
  .next ((s.at_ t).onChip fun c => if c.provisional then c else c.forAll c.serviceLanes fun c l => c.want l .time)

/-- HROW of lane l in a handoff. -/
def Handoff.row (h : Handoff) (bar : Nat) : Nat := h.hrow.getD bar 0

/-- EPOCH on every lane whose hub this unit owns, with the token only in a planned handoff (R297, R399). -/
def Chip.epochFrames (c : Chip) : Chip :=
  c.forAll (c.serviceLanes.filter c.ownsHub) fun c l =>
    match c.twin.handoff with
    | some h => c.want l (.epoch (c.curOf l) h.token (h.row (c.newest.laneBar l)))
    | none => c.want l (.epoch (c.curOf l) 0 0)

def execEpochFrameSend (t : Nat) (s : State) : Host.Outcome State Fault Refusal :=
  .next ((s.at_ t).onChip (·.epochFrames))

/-- The owner keeps its lease (R290); a resting unit sends no keepalive (R425). -/
def execFireKeepalive (t : Nat) (l : Fin 96) (s : State) : Host.Outcome State Fault Refusal :=
  .next ((s.at_ t).onChip fun c =>
    if c.ownsHub l && c.runs && (c.health.bist.all fun r => r.kind ≠ 2) then c.want l .fire else c)

/-- CLAIM on every lane that is being claimed, with E = CUR_l + 1 (R300, R386, R388). -/
def Chip.claimFrames (c : Chip) : Chip :=
  c.forAll (c.twin.claims.filter fun e => FMap.get 0 c.twin.wait e.1 ≤ c.ns) fun c e =>
    c.want e.1 (.claim ((c.curOf e.1 + 1) % 2 ^ 32) e.2)

def execClaimSend (t : Nat) (s : State) : Host.Outcome State Fault Refusal :=
  .next ((s.at_ t).onChip (·.claimFrames))

/-! ### Echoes (R284, R285) -/

/-- The bar and row slot that a record's ROW names for a head. -/
def Chip.findRow (c : Chip) (head row : Nat) : Option (Nat × Nat) :=
  (List.range 16).findSome? fun k => ((c.bar k).ring.find? fun x =>
    x.n % 2 ^ 32 = row && x.heads.any fun h => h.head = head).map fun x => (k, x.n)

/-- A ROW frame goes again, up to 3 times; then the lane is fenced (R285). -/
def Chip.resendRow (c : Chip) (l k n : Nat) (h : HeadRow) : Chip :=
  if h.tries < 4 then
    let c := c.setHeadRow k n h.head fun h => { h with launched := none }
    (c.enqueue l (.row k n h.head)).bump (LQ_HERR_RESENDS (l / 4) (l % 4))
  else c.fenceLane l 0 (20 + l % 4) true

/-- Notes the hub lead of row n once its last ECHO is in (R400): the earliest stamp less DT now. -/
def Chip.noteLead (c : Chip) (k n : Nat) : Chip :=
  match (c.bar k).ring.find? fun x => x.n = n with
  | none => c
  | some x =>
    let vs := (x.heads.filterMap (·.stamp)).filter (· ≠ holdStamp)
    if x.heads.all (·.ok) && !vs.isEmpty then
      let lead := leastOr holdStamp vs - c.ns
      let old := FMap.get 0 c.twin.leads k
      let new := if old = 0 then lead + 1 else min old (lead + 1)
      { c with twin := { c.twin with leads := FMap.put 0 c.twin.leads k new } }
    else c

/-- In CATCHUP: bar k's first shadow pass has been echoed (R395). -/
def Chip.noteEchoed (c : Chip) (k n : Nat) : Chip :=
  match (c.bar k).ring.find? fun x => x.n = n with
  | some x => if c.role = 3 ∧ x.heads.all (·.ok) ∧ ¬ c.twin.echoed.contains k then
      { c with twin := { c.twin with echoed := c.twin.echoed ++ [k] } }.checkJoined else c
  | none => c

/-- A hub's ECHO (Table 11-10): accepted when OK with the DCRC that was framed. -/
def Chip.echo (c : Chip) (l : Nat) (r : List Byte) : Chip :=
  let head := 16 * l + bits (fieldAt r 1 1) 1 5 % 16
  match c.findRow head (fieldAt r 4 4) with
  | none => c
  | some (k, n) => match c.headRow? k n head with
    | none => c
    | some h =>
      if h.ok || h.launched.isNone then c
      else if fieldAt r 2 1 = 0 ∧ fieldAt r 8 4 = h.dcrc then
        let (inj, c) := c.checker .lq (l / 4) (20 + l % 4) (l % 4)
        let c := if inj then c.raise .lq (l / 4) { src := 20 + l % 4, cell := l % 4, inj := true } else c
        ((c.setHeadRow k n head fun h => { h with ok := true }).noteLead k n).noteEchoed k n
      else c.resendRow l k n h

def execEcho (t : Nat) (l : Fin 96) (r : StatRec) (s : State) : Host.Outcome State Fault Refusal :=
  .next ((s.at_ t).record l r.fr r.i 1 fun r s => s.onChip (·.echo l r))

/-- No ECHO within 20 µs of a launch (R285). -/
def execEchoTimeout (t : Nat) (l : Fin 96) (a : Fin 16) (row : Nat) (s : State) : Host.Outcome State Fault Refusal :=
  .next ((s.at_ t).onChip fun c =>
    let head := 16 * l.val + a.val
    match c.findRow head row with
    | none => c
    | some (k, n) => match c.headRow? k n head with
      | none => c
      | some h => match h.launched with
        | some at' => if !h.ok ∧ at' + 20000 ≤ c.ns then c.resendRow l k n h else c
        | none => c)

/-! ### Acknowledgements (R289) -/

/-- Queues the current values of a stamp frame's entries as amendments; a stamp already frozen cannot be resent: source 24. -/
def Chip.resendStamps (c : Chip) (l : Nat) (f : SentStamps) : Chip :=
  let c := c.freeze
  let hs := f.es.flatMap fun e => (setBits 16 e.2).map fun a => (e.1, 16 * l + a)
  let c := (c.setLane l { c.lane l with unacked := (c.lane l).unacked.filter (· ≠ f) }).bump
    (LQ_HERR_RESENDS (l / 4) (l % 4))
  let frozen := hs.find? fun e => match c.findRow e.2 (e.1 % 2 ^ 32) with
    | some (k, n) => (match c.headRow? k n e.2 with | some h => h.frozen | none => false)
    | none => false
  let c := c.forAll hs fun c e => match c.findRow e.2 (e.1 % 2 ^ 32) with
    | some (k, n) => c.setHeadRow k n e.2 fun h =>
        if h.frozen || h.queued.isSome then h else { h with queued := h.stamp }
    | none => c
  match frozen with
  | some e => c.raise .lq (l / 4) { src := 24, cell := l % 4, detail := packRow (some e.1) (some e.2) none }
  | none => c

/-- A hub's ACK (Table 11-10). -/
def Chip.ack (c : Chip) (l : Nat) (r : List Byte) : Chip :=
  let bank := fieldAt r 1 1 % 2
  let upTo := fieldAt r 4 4
  let x := c.lane l
  let keep := x.unacked.filter fun f => f.bank ≠ bank || decide (2 ^ 31 ≤ (upTo + 2 ^ 32 - f.fseq) % 2 ^ 32)
  let c := c.setLane l { x with unacked := keep }
  if bit (fieldAt r 2 1) 0 then
    match keep.find? fun f => f.bank = bank && f.fseq = fieldAt r 8 4 with
    | some f => c.resendStamps l f
    | none => c
  else c

def execAck (t : Nat) (l : Fin 96) (r : StatRec) (s : State) : Host.Outcome State Fault Refusal :=
  .next ((s.at_ t).record l r.fr r.i 2 fun r s => s.onChip (·.ack l r))

/-- No ACK within 20 µs of a stamp frame's launch. -/
def execAckTimeout (t : Nat) (l : Fin 96) (fseq : Nat) (s : State) : Host.Outcome State Fault Refusal :=
  .next ((s.at_ t).onChip fun c =>
    match (c.lane l).unacked.find? fun f => f.fseq = fseq && decide (f.at_ + 20000 ≤ c.ns) with
    | some f => c.resendStamps l f
    | none => c)

/-! ### Reports, temperatures, hub data (R302 to R306) -/

/-- FIRE_REPORT: counted; one from a LIVE bank raises source 25 (R306). -/
def Chip.fireReport (c : Chip) (l : Nat) (r : List Byte) : Chip :=
  let c := c.bump (LQ_HERR_REPORTS (l / 4) (l % 4))
  if bit (fieldAt r 1 1) 0 then c
  else
    let head := 16 * l + bits (fieldAt r 1 1) 1 5 % 16
    c.raise .lq (l / 4) { src := 25, cell := l % 4, detail := packRow (some (fieldAt r 4 4)) (some head) none }

def execFireReport (t : Nat) (l : Fin 96) (r : StatRec) (s : State) : Host.Outcome State Fault Refusal :=
  .next ((s.at_ t).record l r.fr r.i 3 fun r s => s.onChip (·.fireReport l r))

/-- TEMP: the latest temperature of a head, and when it came (R304). -/
def Chip.tempRecord (c : Chip) (l : Nat) (r : List Byte) : Chip :=
  let a := fieldAt r 1 1 % 16
  let m := 16 * (l % 4) + a
  let c := (c.set (LQ_HTEMP_VALID (l / 4) m) (fieldAt r 2 1)).set (LQ_HTEMP_TEMP (l / 4) m) (fieldAt r 4 2)
  { c with lanes := { c.lanes with tempAt := FMap.put 0 c.lanes.tempAt (16 * l + a) c.ns } }

def execTempRecord (t : Nat) (l : Fin 96) (r : StatRec) (s : State) : Host.Outcome State Fault Refusal :=
  .next ((s.at_ t).record l r.fr r.i 6 fun r s => s.onChip (·.tempRecord l r))

def execHubInfo (t : Nat) (l : Fin 96) (r : StatRec) (s : State) : Host.Outcome State Fault Refusal :=
  .next ((s.at_ t).record l r.fr r.i 8 fun r s => s.onChip (·.set (LQ_HST_PRESENT (l / 4) (l % 4)) (fieldAt r 8 2)))

/-! ### Head EEPROMs (R303, R307) -/

/-- θ_J lies within −5 to 100 °C (R303, R372). -/
def Chip.writeTemp (c : Chip) : Bool :=
  let th := c.getS HL_THSTAT_THETA_J
  decide (-80 ≤ th) && decide (th ≤ 1600)

def Chip.eeSet (c : Chip) (q : Nat) (x : Option EeAccess) : Chip :=
  { c with lanes := { c.lanes with ee := FMap.put none c.lanes.ee q x } }

/-- The access of quad q ends with a result. -/
def Chip.eeEnd (c : Chip) (q result : Nat) : Chip := ((c.eeSet q none).set (LQ_HRES_RESULT q) result).set (LQ_HRES_DONE q) 1

/-- A write of LQq_HCMD; while an access runs, one with START is ignored, and one without leaves the access as it is (R12, R14). -/
def Chip.writeHcmd (c : Chip) (q v : Nat) : Chip :=
  if (FMap.get none c.lanes.ee q).isSome && bit v 31 then c
  else
    let wr := bit v 30
    let lane := 4 * q + bits v 28 2
    let n := max 1 (min 8 (bits v 20 4))
    let c := ((c.set (LQ_HCMD_WRITE q) (bits v 30 1)).set (LQ_HCMD_LANE q) (bits v 28 2)).set (LQ_HCMD_ADDR q) (bits v 24 4)
    let c := (c.set (LQ_HCMD_COUNT q) n).set (LQ_HCMD_EEADDR q) (bits v 0 16)
    if !bit v 31 then c
    else
      let c := c.set (LQ_HRES_DONE q) 0
      if wr && !c.writeTemp then c.eeEnd q 4
      else if wr && c.is (LQ_HST_OWNER q (lane % 4)) && !c.ownsHub lane then c.eeEnd q 6
      else
        let tag := FMap.get 0 c.lanes.eeTag q
        let c : Chip := { c with lanes := { c.lanes with eeTag := FMap.put 0 c.lanes.eeTag q ((tag + 1) % 256) } }
        let c := c.eeSet q (some { lane := lane, addr := bits v 24 4, tag := tag, write := wr, since := c.ns })
        let data := if wr then (le 8 (c.get (LQ_HDATA_DATA q))).take n else []
        c.enqueue lane (.ctrl (if wr then 3 else 2) (bits v 24 4) tag n (bits v 0 16) data)

def execEeAccess (t : Nat) (tnt : Fin 8) (q : Fin 24) (v : BitVec 32) (s : State) : Host.Outcome State Fault Refusal :=
  .next ((s.at_ t).onChip fun c => c.ownWrite tnt .lq q 0x50 (·.writeHcmd q v.toNat))

/-- A hub's EE_REPLY ends the access whose TAG it returns. -/
def Chip.eeReply (c : Chip) (l : Nat) (r : List Byte) : Chip :=
  match FMap.get none c.lanes.ee (l / 4) with
  | some x =>
    if x.lane = l ∧ x.tag = fieldAt r 3 1 ∧ x.addr = fieldAt r 1 1 % 32 then
      let c := if fieldAt r 2 1 = 0 ∧ ¬ x.write then
        c.set (LQ_HDATA_DATA (l / 4)) (fieldAt r 8 (min 8 (fieldAt r 6 1))) else c
      c.eeEnd (l / 4) (min 3 (fieldAt r 2 1))
    else c
  | none => c

def execEeReply (t : Nat) (l : Fin 96) (r : StatRec) (s : State) : Host.Outcome State Fault Refusal :=
  .next ((s.at_ t).record l r.fr r.i 7 fun r s => s.onChip (·.eeReply l r))

def execEeTimeout (t : Nat) (q : Fin 24) (s : State) : Host.Outcome State Fault Refusal :=
  .next ((s.at_ t).onChip fun c => match FMap.get none c.lanes.ee q with
    | some x => if x.since + 50000000 ≤ c.ns then c.eeEnd q 5 else c
    | none => c)

end Sys2Proof.Machine
end

