-- ==== Sys2Proof/Machine/Staging.lean ====
section
/-!
DEFINITION. Sys2Proof/Machine/Staging.lean: table loads, the staged set, commits and the calibration stores (R109, R110, R354 to
R373). Each operation is one function that the instructions, STAGE_CTL and the journal share.
-/
namespace Sys2Proof.Machine

/-! ### States of the staged set (Table 14-1) -/

def ssCLEAN : Nat := 0
def ssDIRTY : Nat := 1
def ssPASSED : Nat := 2
def ssSCHEDULED : Nat := 3
def ssSETTLING : Nat := 4

def Chip.sstate (c : Chip) : Nat := c.get SEQ_SSTAT_STATE
def Chip.setSstate (c : Chip) (v : Nat) : Chip := c.set SEQ_SSTAT_STATE v

def Chip.setStaged (c : Chip) (x : TSet) : Chip := { c with stage := { c.stage with staged := x } }

/-! ### Table loads (R109, R110) -/

/-- The type is a bar table's. -/
def barType (ty : Nat) : Bool := ty < 6

/-- TBL_TYPE of the mask operand: unknown types, a bar type without bars, a device type with any, bars above 15. -/
def maskBad (ty mask : Nat) : Bool :=
  decide (9 < ty) || decide (65536 ≤ mask) || (if barType ty then mask = 0 else mask ≠ 0)

/-- The body length that a type allows (R147, R149, R151, R177, R186, R187, R199, R216, R305; type 0x08 is open, assumption 8). -/
def lengthOk (ty len : Nat) (body : List Byte) : Bool :=
  match ty with
  | 0 => len = 167104
  | 1 => len = 640
  | 2 => len = 491584
  | 3 => len = 128
  | 4 => let n := fieldAt body 0 4; n ≤ 16368 && len = 64 * (1 + ceilDiv n 16)
  | 5 => let n := fieldAt body 0 2; n ≤ 384 && len = 64 * (1 + ceilDiv n 4)
  | 6 => len = 12352
  | 7 => len = 448
  | 8 => len = Config.geometryLength
  | _ => len = 128

/-- Header checks of a table image (R110). -/
def headerBad (h : List Byte) (ty : Nat) : Bool :=
  fieldAt h 0 1 ≠ ty || fieldAt h 1 1 ≠ 1 || !zeroAt h 2 2 || !zeroAt h 16 48

/-- Trap codes of the image at J-address j: J_RANGE alone for one that leaves the readable allocation, else TBL_TYPE, TBL_CRC and
TBL_LEN as they apply. -/
def imageTraps (s : State) (ty j : Nat) : List Nat :=
  let h := s.mem.job.read j 64
  let len := fieldAt h 4 4
  if !s.chip.store.mayRead j (64 + len) then [J_RANGE]
  else
    let body := s.mem.job.read (j + 64) len
    trapIf (headerBad h ty) TBL_TYPE ++ trapIf (crc32 body ≠ fieldAt h 12 4) TBL_CRC ++
    trapIf (len % 64 ≠ 0 || !lengthOk ty len body) TBL_LEN

/-- Bytes as a sparse body. -/
def bodyOf (bs : List Byte) : ByteMem := ByteMem.write [] 0 bs

/-- What the body of a geometry set says: the layout is not in the spec (assumption 8). -/
def geometryOf (bs : List Byte) : FMap Nat :=
  (List.range 96).foldl (fun m i => FMap.put 0 m i (Config.geometryField bs (i / 16) (i % 16))) []

/-- The table that an image at J-address j holds. -/
def imageTable (s : State) (ty j : Nat) : Table :=
  let h := s.mem.job.read j 64
  let len := fieldAt h 4 4
  let bs := s.mem.job.read (j + 64) len
  { src := .image, version := fieldAt h 8 4, len := len, body := bodyOf bs, fresh := true, geo := if ty = 8 then geometryOf bs else [] }

/-- Puts a table of type ty in the set, for the bars of a mask or the device. -/
def TSet.putTable (x : TSet) (ty mask : Nat) (t : Nat → Table) : TSet :=
  if barType ty then (setBits 16 mask).foldl (fun x k => x.setBarT k ty (t k)) x else x.setDevT ty (t 0)

/-- A change to the staged set (Table 14-1). -/
def Chip.change (c : Chip) (x : TSet) : Chip := (c.setStaged x).setSstate ssDIRTY

/-- `tload`: the staged copies take the image. -/
def loadTable (ty mask j : Nat) (s : State) : State :=
  let t := imageTable s ty j
  s.onChip fun c => (c.change (c.stage.staged.putTable ty mask fun _ => t)).jrn .stage [0, ty, mask, j, t.version]

/-- `tcopy`: the staged copies take the active tables. -/
def Chip.copyTable (c : Chip) (ty mask : Nat) : Chip :=
  let a := c.stage.active
  let t k : Table := { (if barType ty then a.barT k ty else a.devT ty) with fresh := true }
  (c.change (c.stage.staged.putTable ty mask t)).jrn .stage [1, ty, mask]

/-- The instruction waits while the staged set is SETTLING (KIND 11); otherwise f. -/
def Chip.unlessSettling (c : Chip) (n : Nat) (f : Chip → Chip) : Chip := if c.sstate = ssSETTLING then c.stall n 11 else f c

def execTload (n : CtxId) (f : Fields) (s : State) : Host.Outcome State Fault Refusal :=
  let j := (s.chip.g n f.ga.toNat).toNat
  let ty := subOf f % 32
  .next (issueC n (resvRaw f 31 true true false true ++ trapIf (j % 64 ≠ 0) ALIGN ++ trapIf (maskBad ty (immOf f)) TBL_TYPE ++
    imageTraps s ty j ++ trapIf (s.chip.sstate = ssSCHEDULED) TBL_BUSY)
    (fun c => c.unlessSettling n fun c => c.pend n 4 (.tload f.gd.toNat ty (immOf f) j)) s)

def execTcopy (n : CtxId) (f : Fields) (s : State) : Host.Outcome State Fault Refusal :=
  let ty := subOf f % 32
  .next (issueC n (resvRaw f 31 false false false true ++ trapIf (maskBad ty (immOf f)) TBL_TYPE ++
    trapIf (s.chip.sstate = ssSCHEDULED) TBL_BUSY)
    (fun c => c.unlessSettling n fun c => c.pend n 4 (.tcopy ty (immOf f))) s)

/-- A pending table load ends: the set must still take changes; a set that has begun to settle meanwhile makes the instruction wait
again. -/
def tableLoadDone (n : CtxId) (uncorr : Bool) (s : State) : State :=
  let fin (traps : List Nat) (eff : State → State) : State :=
    let s := s.onChip (·.unpend n)
    if s.chip.sstate = ssSETTLING then s.onChip fun c => c.stall n 11
    else match traps ++ trapIf (s.chip.sstate = ssSCHEDULED) TBL_BUSY with
      | [] => (eff s).onChip fun c => (c.next n).ckpt n
      | t :: ts => s.onChip fun c => c.trap n (ts.foldl Nat.min t)
  match s.chip.pendOp n with
  | some (.tload gd ty mask j) =>
    fin (trapIf uncorr J_UNCORR ++ (if uncorr then [] else imageTraps s ty j)) fun s =>
      let v := (imageTable s ty j).version
      (loadTable ty mask j s).onChip fun c => c.setG n gd (BitVec.ofNat 64 v)
  | some (.tcopy ty mask) => fin [] fun s => s.onChip fun c => c.copyTable ty mask
  | _ => s

def execTableLoadDone (t : Nat) (n : CtxId) (r : Ecc) (s : State) : Host.Outcome State Fault Refusal :=
  .next (tableLoadDone n (r = .uncorrectable) ((s.at_ t).onChip fun c =>
    match c.pendOp n with | some (.tload _ _ _ _) => c.jobStoreRead r | _ => c))

/-! ### Claims (R356, R357) -/

/-- STAGE_ARG of a claim or a release. -/
def Chip.claimBad (c : Chip) (x : Claim) (release : Bool) : Bool :=
  let held := c.stage.staged.claims.contains x
  if release then !held
  else
    (match x.kind with
     | 0 => decide (15 < x.num)
     | 3 => (match c.store.find x.num with | some a => !a.jobw || a.isSealed | none => true)
     | _ => decide (7 < x.num)) || (!held && decide (64 ≤ c.stage.staged.claims.length))

/-- Adds or removes a claim; one that the context has already has no effect (R357). -/
def Chip.claim (c : Chip) (x : Claim) (release : Bool) : Chip :=
  let cs := c.stage.staged.claims
  if !release && cs.contains x then c else
  let cs := if release then cs.filter (· ≠ x) else cs ++ [x]
  (c.change { c.stage.staged with claims := cs }).jrn .stage [2, x.ctx, x.kind, x.num, b2n release]

def execStage (n : CtxId) (f : Fields) (s : State) : Host.Outcome State Fault Refusal :=
  let x : Claim := ⟨n, immOf f % 4, (s.chip.g n f.ga.toNat).toNat⟩
  let rel := bit (subOf f) 0
  .next (issueC n (resvRaw f 1 true true false true ++ trapIf (decide (4 ≤ immOf f)) RESERVED_FIELD ++
    trapIf (s.chip.claimBad x rel) STAGE_ARG ++ trapIf (s.chip.sstate = ssSCHEDULED) STAGE_BUSY)
    (fun c => c.unlessSettling n fun c =>
      let c := c.claim x rel
      ((c.setG n f.gd.toNat (BitVec.ofNat 64 c.stage.staged.claims.length)).next n).ckpt n) s)

/-! ### CHECK (R355, R358) -/

/-- Runs CHECK: SEQ_SCHK takes the result word, the set becomes PASSED or DIRTY, and claims on freed allocations drop out. -/
def Chip.runCheck (c : Chip) : Nat × Chip :=
  let w := checkSet c c.stage.staged
  let x := c.stage.staged
  let c := c.setStaged { x with claims := x.claims.filter fun y => !staleClaim c y }
  let st := if w = 0 then ssPASSED else ssDIRTY
  (w, ((c.set SEQ_SCHK_RESULT w).setSstate st).jrn .stage [5, st, w])

def execCheck (n : CtxId) (f : Fields) (s : State) : Host.Outcome State Fault Refusal :=
  .next (issueC n (resvRaw f 0 true false false false ++ trapIf (s.chip.sstate = ssSCHEDULED) STAGE_BUSY)
    (fun c => c.unlessSettling n fun c =>
      let (w, c) := c.runCheck
      ((c.setG n f.gd.toNat (BitVec.ofNat 64 w)).next n).ckpt n) s)

/-! ### Commits (R360 to R365) -/

/-- A bar's staged tone table resets its trims with this commit (R171). -/
def TSet.resetsTrims (x : TSet) (k : Nat) : Bool := (x.barT k 2).fresh && (x.barT k 2).num 2 0 1 = 1

/-- The trim resets of a commit whose first row is n wait for that row (R171); with no stream open they take effect at once, at the
row that the bar would start next. -/
def Chip.planReset (x : TSet) (n : Nat) (c : Chip) (k : Nat) : Chip :=
  if !x.resetsTrims k then c
  else
    let b := c.bar k
    if c.is SEQ_PSTAT_OPEN then c.setBar k { b with reset := some n }
    else (c.setBar k { b with reset := some b.next }).applyReset k b.next

/-- Some table of a set is one that RESTOREFAC staged, or the set restores calibration values (Table 14-6). -/
def TSet.isRestored (x : TSet) : Bool := x.calib.items ≠ 0 || x.bar.any fun e => e.2.src = .restored

/-- A bar that the commit enables starts with row n_k, and keeps the commit's drop depth (R17). -/
def Chip.enableBar (x : TSet) (n : Nat) (c : Chip) (k : Nat) : Chip :=
  if x.enabled k && !c.stage.active.enabled k then
    let c := c.setBar k { c.bar k with next := n }
    { c with strm := { c.strm with depths := FMap.put 0 c.strm.depths k (x.geo 1 k) } }
  else c

/-- A commit of the staged set is accepted at web point cpt (R363): the generation counts up, a pending civil jump is applied,
and with no stream open the set takes effect in full. -/
def Chip.acceptCommit (c : Chip) (cpt : Nat) (raised : Bool) : Chip :=
  let x := c.stage.staged
  let open' := c.is SEQ_PSTAT_OPEN
  let cpt := if open' then cpt else 0
  let nk := if open' then firstRow c.pitch cpt else 0
  let scpt := match c.stage.sched with | some y => y.scpt | none => c.get SEQ_SCPT_CPOINT
  let g := (c.get SEQ_SCGEN_CGEN + 1) % 2 ^ 32
  let c := (c.set SEQ_SCGEN_CGEN g).set SEQ_SCPT_CPOINT cpt
  let c : Chip := { c with stage := { c.stage with
    sched := some { set := x, c := cpt, nk := nk, raised := raised, before := c.stage.prev, scpt := scpt },
    prev := c.stage.cur, cur := { gen := g, cpoint := cpt, raised := raised, restored := x.isRestored } } }
  let c := c.setSstate ssSCHEDULED
  let c := if raised then (c.latchRs SEQ_SSTAT_RAISED).bump SEQ_SSTAT_RAISES else c
  let c := if raised && c.runs then c.raise .seq 0 { src := 4 } else c
  let c := c.jrn .commit [0, g, cpt, b2n raised]
  let c := c.forAll (List.range 16) (Chip.planReset x nk)
  let c := if open' then c.forAll (List.range 16) (Chip.enableBar x nk) else c
  let c := c.applyCivil cpt
  let c : Chip := { c with fire := { c.fire with thermNext := c.fire.therm } }
  let c := if (x.devT 6).fresh then c.retherm else c
  if open' then c.checkSettle
  else match c.stage.sched with
    | some y => c.settle y
    | none => c

/-- The recheck of R362 fails: nothing is committed. -/
def Chip.conflict (c : Chip) (w : Nat) : Chip :=
  let c := match c.stage.sched with
    | some x => c.set SEQ_SCPT_CPOINT x.scpt
    | none => c
  let c := (c.set SEQ_SCHK_RESULT w).setSstate ssDIRTY
  ({ c with stage := { c.stage with sched := none } } : Chip).jrn .commit [3, w, 0, 0]

/-- H: the front horizon (R22, R360). -/
def Chip.commitLate (c : Chip) (cpt : Nat) : Bool := c.is SEQ_PSTAT_OPEN && decide (cpt < c.frontHorizon)

/-- `commitw` at web point cpt: 0 accepted, 1 raised, 2 conflict. -/
def Chip.commitw (c : Chip) (cpt : Nat) : Nat × Chip :=
  let w := recheck c c.stage.staged
  if w ≠ 0 then (2, c.conflict w)
  else if c.commitLate cpt then (1, c.acceptCommit c.frontHorizon true)
  else (0, c.acceptCommit cpt false)

/-- Trap codes of a commit in the state of the set (Table 14-1). -/
def Chip.commitTraps (c : Chip) : List Nat :=
  trapIf (c.sstate = ssDIRTY) STAGE_UNCHECKED ++ trapIf (c.sstate = ssSCHEDULED) STAGE_BUSY

/-- Writes gD and goes on after a staging operation that gives a number. -/
def Chip.stageResult (n gd : Nat) (r : Nat × Chip) : Chip := ((r.2.setG n gd (BitVec.ofNat 64 r.1)).next n).ckpt n

def execCommitw (n : CtxId) (f : Fields) (s : State) : Host.Outcome State Fault Refusal :=
  let cpt := (s.chip.w n (f.ga.toNat % 8)).toNat
  .next (issueC n (resvRaw f 1 true true false false ++ resvW f.ga ++ s.chip.commitTraps ++
    trapIf (bit (subOf f) 0 && s.chip.sstate ≠ ssSETTLING && s.chip.commitLate cpt) STAGE_LATE)
    (fun c => c.unlessSettling n fun c => Chip.stageResult n f.gd.toNat (c.commitw cpt)) s)

/-- `committ` for time T: the set is SCHEDULED and SEQ_SCPT reads all ones until c is fixed (R361). -/
def Chip.committ (c : Chip) (t : Nat) : Chip :=
  let x : Sched := { set := c.stage.staged, at_ := some t, scpt := c.get SEQ_SCPT_CPOINT, before := c.stage.prev }
  let c : Chip := { c with stage := { c.stage with sched := some x } }
  ((c.set SEQ_SCPT_CPOINT (2 ^ 64 - 1)).setSstate ssSCHEDULED).jrn .commit [1, c.get SEQ_SCGEN_CGEN, t, 0]

def execCommitt (n : CtxId) (f : Fields) (s : State) : Host.Outcome State Fault Refusal :=
  .next (issueC n (resvRaw f 0 true true false false ++ s.chip.commitTraps)
    (fun c => c.unlessSettling n fun c => Chip.stageResult n f.gd.toNat (0, c.committ (c.g n f.ga.toNat).toNat)) s)

/-- `committ` fixes c as H at its time; a failed recheck is a fault, since the instruction has completed (R361, R362). -/
def Chip.committFix (c : Chip) : Chip :=
  match c.stage.sched with
  | some x => match x.at_ with
    | some t =>
      if c.ns < t then c
      else
        let w := recheck c x.set
        if w ≠ 0 then (c.conflict w).raise .seq 0 { src := 5 }
        else c.acceptCommit c.frontHorizon false
    | none => c
  | none => c

def execCommittFix (t : Nat) (s : State) : Host.Outcome State Fault Refusal :=
  .next ((s.at_ t).onChip fun c => if c.runs then c.committFix else c)

/-! ### Abandoning (R366) -/

/-- `abandon`: 0 done, 1 APPLYING. -/
def Chip.abandon (c : Chip) : Nat × Chip :=
  if c.sstate = ssCLEAN then (0, c)
  else if c.sstate = ssSCHEDULED then
    match c.stage.sched with
    | none => (0, c)
    | some x =>
      if x.reached ≠ 0 then (1, c)
      else
        let c := if x.at_.isSome then c.set SEQ_SCPT_CPOINT x.scpt
          else ({ c with stage := { c.stage with cur := c.stage.prev, prev := x.before } } : Chip).set SEQ_SCGEN_CGEN c.stage.prev.gen
        let unplan (b : Bar) : Bar := { b with reset := none }
        let c : Chip := { c with stage := { c.stage with sched := none }, bars := FMap.mapV {} unplan c.bars }
        (0, (c.setSstate ssPASSED).jrn .commit [2, c.get SEQ_SCGEN_CGEN, 0, 0])
  else (0, ((c.setStaged c.stage.active).setSstate ssCLEAN).jrn .stage [6])

def execAbandon (n : CtxId) (f : Fields) (s : State) : Host.Outcome State Fault Refusal :=
  .next (issueC n (resvRaw f 0 true false false false)
    (fun c => c.unlessSettling n fun c => Chip.stageResult n f.gd.toNat c.abandon) s)

/-! ### Calibration stores (R368 to R373) -/

/-- CAL_ARG of RESTOREFAC. -/
def restoreBad (items bars : Nat) : Bool := decide (16 ≤ items) || (bit items 3 && bars = 0) || (!bit items 3 && bars ≠ 0)

/-- `restorefac`: stages the factory values of the items, and factory tone tables for the bars. -/
def Chip.restoreFac (c : Chip) (items bars : Nat) : Chip :=
  let x := c.stage.staged
  let x := if bit items 3 then
    x.putTable 2 bars fun _ => { src := .restored, version := 0, len := 491584, fresh := true } else x
  let x := { x with calib := { items := x.calib.items ||| items % 8 } }
  (c.change x).jrn .stage [3, items, bars]

def execRestorefac (n : CtxId) (f : Fields) (s : State) : Host.Outcome State Fault Refusal :=
  let bars := (s.chip.g n f.ga.toNat).toNat % 65536
  .next (issueC n (resvRaw f 0 true true false true ++ trapIf (restoreBad (immOf f) bars) CAL_ARG ++
    trapIf (s.chip.sstate = ssSCHEDULED) STAGE_BUSY)
    (fun c => c.unlessSettling n fun c => Chip.stageResult n f.gd.toNat (0, c.restoreFac (immOf f) bars)) s)

/-- The user bank in force: the valid one with the higher BSEQ, counted modulo 2³²; none when neither is valid (R370). -/
def Stage.bankB? (g : Stage) : Bool :=
  g.bankB.valid && (!g.bankA.valid || decide (0 < (g.bankB.bseq + 2 ^ 32 - g.bankA.bseq) % 2 ^ 32 ∧
    (g.bankB.bseq + 2 ^ 32 - g.bankA.bseq) % 2 ^ 32 < 2 ^ 31))
def Stage.bank (g : Stage) : UserBank := if g.bankB? then g.bankB else if g.bankA.valid then g.bankA else {}

/-- NV_STAT and NV_USEQ show the bank in force. -/
def Chip.showBank (c : Chip) : Chip :=
  let g := c.stage
  ((c.set NV_STAT_BANK (b2n g.bankB?)).set NV_STAT_UVALID (b2n (g.bankA.valid || g.bankB.valid))).set NV_USEQ_BSEQ g.bank.bseq

/-- The lane values in force: start taps, and the last-known-good settings where some are held (their number plus 1). -/
def Chip.laneValues (c : Chip) : FMap Nat :=
  (List.range 96).foldl (fun m l =>
    let good := if c.is (LQ_EYE_LKG (l / 4) (l % 4)) then (c.lane l).lkg + 1 else 0
    FMap.put 0 m l (packTaps (c.taps l) + 65536 * good)) []

/-- The port latencies in force. -/
def Chip.portValues (c : Chip) : FMap Nat :=
  (List.range 4).foldl (fun m p => FMap.put 0 (FMap.put 0 m (2 * p) (c.get (TB_PORTLAT_TXLAT p))) (2 * p + 1) (c.get (TB_PORTLAT_RXLAT p))) []

/-- The bank that a write of the items fills: BSEQ + 1, the items' values, the rest from the bank in force (R370). -/
def Chip.newBank (c : Chip) (items ssc : Nat) (lanes ports : FMap Nat) : UserBank :=
  let old := c.stage.bank
  { valid := true, bseq := (old.bseq + 1) % 2 ^ 32, lanes := if bit items 0 then lanes else old.lanes,
    portlat := if bit items 1 then ports else old.portlat, ssc := if bit items 2 then ssc else old.ssc }

/-- Event 0x0620 on EV62 to T0: a write has finished (R373). -/
def Chip.norEvent (c : Chip) : Chip := c.event 1 62 0x0620 (c.get NV_STAT_RESULT)

/-- Stops a write for temperature: RESULT reads TEMP, with a fault (R372). -/
def Chip.norTemp (c : Chip) : Chip := (c.set NV_STAT_RESULT 1).raise .nv 0 { src := 0 }

/-- Starts a user bank write: 0 started, 1 busy, 2 TEMP. The other bank is invalid while it is written. -/
def Chip.startNor (c : Chip) (items : Nat) (bank : UserBank) : Nat × Chip :=
  if c.is NV_STAT_BUSY then (1, c)
  else if !c.writeTemp then (2, c.norTemp)
  else
    let g := c.stage
    let g : Stage := { g with write := some ⟨items, bank⟩ }
    let g : Stage := if g.bankB? || !g.bankA.valid then { g with bankA := { g.bankA with valid := false } }
      else { g with bankB := { g.bankB with valid := false } }
    (0, ({ c with stage := g } : Chip).set NV_STAT_BUSY 1)

/-- `calsave`: the items from the values in force. -/
def Chip.calSave (c : Chip) (items ssc : Nat) : Nat × Chip :=
  let (r, c) := c.startNor items (c.newBank items ssc c.laneValues c.portValues)
  (r, if r = 0 then c.jrn .stage [4, items, ssc] else c)

/-- CAL_ARG of CALSAVE: an unknown item, or an SSC value above 50 that is to be saved. -/
def saveBad (items ssc : Nat) : Bool := decide (8 ≤ items) || (bit items 2 && decide (50 < ssc))

def execCalsave (n : CtxId) (f : Fields) (s : State) : Host.Outcome State Fault Refusal :=
  let ssc := (s.chip.g n f.ga.toNat).toNat % 256
  .next (issueC n (resvRaw f 0 true true false true ++ trapIf (saveBad (immOf f) ssc) CAL_ARG)
    (fun c => Chip.stageResult n f.gd.toNat (c.calSave (immOf f) ssc)) s)

/-- The user bank that a settled set's restored values are written to (R373): no user lane values, the factory latencies. -/
def Chip.saveRestored (c : Chip) : Chip :=
  let items := c.stage.calItems
  if items = 0 ∨ c.is NV_STAT_BUSY then c
  else
    let (_, c) := c.startNor items (c.newBank items TB_CFG_SSC.reset [] c.portValues)
    { c with stage := { c.stage with calItems := 0 } }

/-- Tables that are no longer new since the last commit. -/
def TSet.settled (x : TSet) : TSet :=
  let plain (t : Table) : Table := { t with fresh := false }
  { x with bar := FMap.mapV {} plain x.bar, dev := FMap.mapV {} plain x.dev, calib := {} }

/-- SETTLING ends: the staged set equals the active set, CLEAN; instructions that wait for it issue again (R354, R355). -/
def Chip.settlingEnd (c : Chip) : Chip :=
  if c.sstate ≠ ssSETTLING then c
  else
    let x := c.stage.active.settled
    let c : Chip := { c with stage := { c.stage with active := x, staged := x } }
    ((c.setSstate ssCLEAN).wakeKind 11).saveRestored

def execSettlingEnd (t : Nat) (s : State) : Host.Outcome State Fault Refusal := .next ((s.at_ t).onChip (·.settlingEnd))

/-- At start-up the lanes take the factory trims, and the last-known-good settings of the user area where it holds some (R271). -/
def Chip.startLanes (c : Chip) (m : FMap Nat) : Chip :=
  let bands := (List.range 48).foldl (fun m i => FMap.put 0 m i (Config.factory (400 + i))) []
  let c : Chip := { c with lanes := { c.lanes with pll := bands } }
  c.forAll (List.range 96) fun c l =>
    let good := FMap.get 0 m l / 65536
    let x := { c.lane l with swing := Config.factory (100 + l), term := Config.factory (200 + l), sampler := Config.factory (300 + l) }
    if good = 0 then c.setLane l x
    else (c.setLane l { x with settings := good - 1, lkg := good - 1 }).set (LQ_EYE_LKG (l / 4) (l % 4)) 1

/-- Start taps of the user area are in force from each lane's next training (Table 14-8). -/
def Chip.useLanes (c : Chip) (m : FMap Nat) : Chip :=
  c.forAll (List.range 96) fun c l =>
    let v := FMap.get 0 m l % 65536
    c.setLane l { c.lane l with userTaps := if v = 0 then none else some v }

/-- Wave A of the BIST run under way starts (R421). -/
def Chip.startWaves (c : Chip) : Chip :=
  let c : Chip := { c with health := { c.health with bist := c.health.bist.map fun r => { r with dtStart := c.ns } } }
  (c.set HL_BSTAT_STATE 2).set HL_BSTAT_WAVE 0

/-- The BIST of an orderly shutdown follows the user bank write (R450). -/
def Chip.startShutBist (c : Chip) : Chip :=
  if c.get HL_PSTAT_STATE = 3 ∧ c.health.bist.isSome ∧ c.get HL_BSTAT_STATE = 0 then c.startWaves else c

/-- A user bank write ends (R370, R372): the bank written is in force; or it stays invalid, with TEMP or WRITE_FAIL. -/
def Chip.norDone (c : Chip) (ok hot : Bool) : Chip :=
  match c.stage.write with
  | none => c
  | some w =>
    let g : Stage := { c.stage with write := none }
    let toA := g.bankB? || !g.bankA.valid
    let good := ok && !hot
    let g : Stage := if !good then g else if toA then { g with bankA := w.bank } else { g with bankB := w.bank }
    let c : Chip := ({ c with stage := g } : Chip).set NV_STAT_BUSY 0
    let c := if hot then c.norTemp else c.set NV_STAT_RESULT (if ok then 0 else 2)
    let c := if good ∧ bit w.items 0 then c.useLanes w.bank.lanes else c
    (c.showBank.norEvent).saveRestored.startShutBist

def execNorWriteDone (t : Nat) (ok hot : Bool) (s : State) : Host.Outcome State Fault Refusal :=
  .next ((s.at_ t).onChip fun c => c.norDone ok hot)

end Sys2Proof.Machine
end

