-- ==== Sys2Proof/Machine/Waits.lean ====
section
/-!
DEFINITION. Sys2Proof/Machine/Waits.lean: special registers and the wait instructions (R55, R95, R96).
-/
namespace Sys2Proof.Machine

/-! ### Special registers (R55) -/

/-- `s.headroom`: the least HEADROOM over the enabled bars and the lowest bar that has it. -/
def Chip.headroomWord (c : Chip) : Nat :=
  match c.enabledBars.foldl (fun best k => match best with
    | none => some k
    | some b => if c.get (BE_HR_HEADROOM k) < c.get (BE_HR_HEADROOM b) then some k else some b) none with
  | none => 0xFFFF
  | some k => c.get (BE_HR_HEADROOM k) + 65536 * k

/-- The special register of a selector (Table 3-2). -/
def Chip.special (c : Chip) : Nat → Nat
  | 0 => c.ns
  | 1 => uns 64 c.civil
  | 2 => c.get WM_X_X
  | 3 => uns 64 c.webSpeed
  | 4 => c.twin.epoch
  | 5 => c.role
  | _ => c.headroomWord

def execMovs (n : CtxId) (f : Fields) (s : State) : Host.Outcome State Fault Refusal :=
  .next (issueG n f (resvRaw f 7 true false false false ++ trapIf (subOf f % 8 = 7) ILLEGAL_OP)
    (BitVec.ofNat 64 (s.chip.special (subOf f % 8))) s)

/-! ### Waits -/

/-- What a `waitw` compares with wA: X, the front horizon, or the web point under a bar's nozzle line (R95). -/
def Chip.webMark (c : Chip) (mode bar : Nat) : Int :=
  match mode with
  | 0 => c.get WM_X_X
  | 1 => c.frontHorizon
  | _ => max (c.bar bar).high ((c.get WM_X_X : Int) - c.tickOffset bar)

/-- The condition of a wait holds: KIND 1 WAITW, 2 WAITT, 3 WAITQ. -/
def Chip.waitMet (c : Chip) (x : Wait) : Bool :=
  match x.kind with
  | 1 => decide ((x.target : Int) ≤ c.webMark x.mode x.item)
  | 2 => decide (x.target ≤ c.ns)
  | _ => !(c.appWaiting x.item).isEmpty

/-- The wait of context n ends with a status: gD takes it, or DT for WAITT, and the context goes on. -/
def Chip.endWait (c : Chip) (n : Nat) (x : Wait) (status : Nat) : Chip :=
  let c := if c.ctxState n = WAITING then c.resume n else c
  let c : Chip := { c with seq := { c.seq with waits := FMap.put none c.seq.waits n none } }
  (c.setG n x.gd (BitVec.ofNat 64 (if x.kind = 2 then c.ns else status))).next n

/-- Context n enters a wait (WAITING, KIND and OPERAND shown), or goes on at once when its condition holds. Each wait entry of
context 0 is a checkpoint (Table 15-5). -/
def Chip.startWait (c : Chip) (n : Nat) (x : Wait) (operand : Nat) : Chip :=
  if c.waitMet x then c.endWait n x 0
  else
    let c := ((c.setCtxState n WAITING).set (SEQ_CWAIT_KIND n) x.kind).set (SEQ_CWAIT_OPERAND n) operand
    ({ c with seq := { c.seq with waits := FMap.put none c.seq.waits n (some x) } } : Chip).ckpt n

/-- The deadline that a timeout register sets: none for 0 (R95). -/
def Chip.deadline (c : Chip) (n gb : Nat) : Option Nat :=
  let v := (c.g n gb).toNat
  if v = 0 then none else some (c.ns + v)

def execWaitw (n : CtxId) (f : Fields) (s : State) : Host.Outcome State Fault Refusal :=
  let c := s.chip
  let mode := subOf f % 4
  let im := immOf f
  let traps := trapIf (mode = 3) ILLEGAL_OP ++ trapIf (subExtra f 3) RESERVED_FIELD ++ resvW f.ga ++
    trapIf (decide (im ≥ if mode = 2 then 16 else 1)) RESERVED_FIELD ++
    trapIf ((mode = 1 && c.enabledBars.isEmpty) || (mode = 2 && !(c.setOf (im % 16)).enabled (im % 16))) WAIT_BAR
  .next (issueC n traps (fun c => c.startWait n
    { kind := 1, mode := mode, item := im % 16, target := (c.w n (f.ga.toNat % 8)).toNat, deadline := c.deadline n f.gb.toNat,
      gd := f.gd.toNat } (f.ga.toNat % 8)) s)

def execWaitt (n : CtxId) (f : Fields) (s : State) : Host.Outcome State Fault Refusal :=
  .next (issueC n (resvRaw f 1 true true false false) (fun c =>
    let v := (c.g n f.ga.toNat).toNat
    c.startWait n { kind := 2, mode := 0, item := 0, target := if bit (subOf f) 0 then c.ns + v else v, deadline := none,
                    gd := f.gd.toNat } 0) s)

def execWaitq (n : CtxId) (f : Fields) (s : State) : Host.Outcome State Fault Refusal :=
  let q := s.chip.queueOf n f
  .next (issueC n (resvQueue f true ++ s.chip.queueTraps n q true) (fun c =>
    c.startWait n { kind := 3, mode := 0, item := q, target := 0, deadline := c.deadline n f.gb.toNat, gd := f.gd.toNat } q) s)

/-- The wait that context n is in. -/
def Chip.waitOf (c : Chip) (n : Nat) : Option Wait := if c.ctxState n = WAITING then FMap.get none c.seq.waits n else none

/-- A wait whose condition holds ends with status 0 (R96). -/
def execWaitWake (t : Nat) (n : CtxId) (s : State) : Host.Outcome State Fault Refusal :=
  .next ((s.at_ t).onChip fun c => match c.waitOf n with
    | some x => if c.waitMet x then c.endWait n x 0 else c
    | none => c)

/-- A wait whose limit is reached ends with status 1, or 0 when its condition holds in the same instant (R35, R96). -/
def execWaitTimeout (t : Nat) (n : CtxId) (s : State) : Host.Outcome State Fault Refusal :=
  .next ((s.at_ t).onChip fun c => match c.waitOf n with
    | some x => match x.deadline with
      | some d => if d ≤ c.ns then c.endWait n x (if c.waitMet x then 0 else 1) else c
      | none => c
    | none => c)

end Sys2Proof.Machine
end

