-- ==== Sys2Proof/Machine/HostCmds.lean ====
section
/-!
DEFINITION. Sys2Proof/Machine/HostCmds.lean: the C-class system commands RUN, STOP, FIRE_ARM, LOAD_PROGRAM, STAGE_CTL, SET_CIVIL
and STATUS (R57, R69, R77, R221, R319, R339, R374). REG_READ and REG_WRITE stand in Machine/RegWrite.lean.
-/
namespace Sys2Proof.Machine

/-! ### RUN (R17, R52, R86, R158, R181, R205, R230, R339, R364) -/

/-- A bar at the start of a job: no row reached, nothing rendered, carried errors 0, every ledger band invalid, the trim history kept
with its latest array in force from row 0 on. -/
def Bar.newJob (b : Bar) : Bar :=
  { b with rk := -1, judged := -1, next := 0, lastPass := none, pass := none, carry := [], ring := [], winRows := 0, marks := [], high := -1,
           bands := b.bands.map fun x => { x with bad := true, old := true },
           trims := b.trims.map fun g => { g with start := 0 },
           reset := none, staleTo := 0, limited := [], bandAt := none, cut := 0, cutAt := 0 }

/-- A commit whose c is fixed completes at once with RUN (R364); a trim reset that waits takes effect. -/
def Chip.completeCommit (c : Chip) : Chip :=
  let c := c.forAll (List.range 16) fun c k => match (c.bar k).reset with
    | some n => c.applyReset k n
    | none => c
  match c.stage.sched with
  | some x => if x.at_.isNone then c.settle x else c
  | none => c

/-- Context 0 starts at the image's entry point with g and w zero (R52). -/
def Chip.startCtx0 (c : Chip) : Chip :=
  let c : Chip := { c with seq := { c.seq with
    g := FMap.keep (fun i => 32 ≤ i) c.seq.g, w := FMap.keep (fun i => 8 ≤ i) c.seq.w, waits := FMap.put none c.seq.waits 0 none,
    ops := FMap.put none c.seq.ops 0 none } }
  (((c.set (SEQ_CWAIT_KIND 0) 0).set (SEQ_CWAIT_OPERAND 0) 0).jump 0 c.seq.start).setCtxState 0 RUNNABLE

/-- The stream opens (R17, R78, R86, R112): no records, counts from 0; P and the depths of the enabled bars are fixed for the job. -/
def Chip.openStream (c : Chip) (seed : Nat) : Chip :=
  let a := c.stage.active
  let clear (x : Slot) : Slot := if x.content.isSome then { gen := (x.gen + 1) % 4096 } else x
  let c : Chip := { c with vd := { c.vd with slots := FMap.mapV {} clear c.vd.slots } }
  let depths : FMap Nat := a.bars.foldl (fun m k => FMap.put 0 m k (a.geo 1 k)) []
  let new : Strm := { job := true, pitch := a.geo 0 0, seed := seed, depths := depths }
  let c : Chip := { c with strm := new }
  let c := ((c.set SEQ_PSTAT_OPEN 1).set SEQ_PSTAT_PEAK 0).set SEQ_PSEQ_NEXT_SEQ 0
  (((c.set SEQ_PLATE_CLIPPED 0).set SEQ_PLATE_DISCARDED 0).set SEQ_PCUR_CUR 0).wakeKind 8 |>.wakeKind 9

/-- The bars and fire start afresh: no row reached, d_eff = D_k, headroom minima and the residual's peak restart. -/
def Chip.restartBars (c : Chip) : Chip :=
  let c : Chip := { c.clearFetches with bars := FMap.mapV {} Bar.newJob c.bars, colour := {} }
  let c := c.forAll (List.range 16) fun c k =>
    ((c.set (BE_HRMIN_MIN k) (c.get (BE_HR_HEADROOM k))).set (CH_RESID_PEAK k) 0).setDeff k (16 * c.offset k)
  let c := c.set CH_SUP_LIMITED 0
  ({ c with fire := { c.fire with armed := false, edge := none, fresh := false, back := false, rdegRun := 0, coasted := false,
                                   lastStamp := [], tooFast := false, motion := c.stage.active.devT 9 } } : Chip).set FS_RES_PEAK 0

/-- r_k at the RUN edge, from X at that edge (R19). No row can be complete yet: late rows are judged from the first advance of
r_k after RUN (R185; assumption 20). -/
def Chip.startRows (c : Chip) : Chip :=
  c.forAll c.enabledBars fun c k =>
    let r := rowIndex c.pitch (c.get WM_X_X) (c.tickOffset k)
    c.setBar k { c.bar k with rk := r, winRows := (r + 1).toNat, high := max (-1) ((c.get WM_X_X : Int) - c.tickOffset k) }

/-- A job begins with a seed (R339); a unit that mirrors it sends no HALT of its own. -/
def Chip.startJob (c : Chip) (seed : Nat) : Chip :=
  let c := (c.completeCommit.set TB_STAT_LOT 0).applyCivil 0
  let c := if c.runs then c.haltFire 4 else c.haltMark 4
  let c := c.restartBars.openStream seed
  let c : Chip := { c.spoil with motion := { c.spoil.motion with ext0 := c.getS (WM_EXT_EXT c.infeed) } }
  c.refreshX.startRows.startCtx0.noteBehind

/-- RUN is refused during rest, without an image, or while context 0 runs (R339, R426). -/
def Chip.runRefused (c : Chip) : Option Nat :=
  if c.health.bist.isSome then some stSTATE
  else if !c.is SEQ_STAT_IMG_LOADED || !c.ctx0Idle then some stSTATE
  else if !c.is (WM_ECFG_EN c.infeed) then some stNO_INFEED
  else none

def runBody (q : Nat) (x : InDesc) (s : State) : State :=
  match s.chip.runRefused with
  | some st => (s.onChip (·.abortRest)).done q x st
  | none =>
    let s := s.onChip fun c => (c.jrn .runctl [0, x.param 16 8]).startJob (x.param 16 8)
    s.done q x stOK (le 4 (s.chip.get SEQ_IMGID_IMAGE_ID))

def execRun (t : Nat) (q : Fin 64) (s : State) : Host.Outcome State Fault Refusal :=
  .next (hostCommand t q 0x0001 0 (some 0) (runBody q) s)

/-! ### STOP and FIRE_ARM (R96, R220, R221, R339) -/

/-- Context 0 stops if it runs; fire halts with CAUSE 3. -/
def Chip.stopJob (c : Chip) : Chip :=
  let c := if c.ctx0Idle then c
    else
      let c : Chip := { c with seq := { c.seq with waits := FMap.put none c.seq.waits 0 none, ops := FMap.put none c.seq.ops 0 none } }
      (((c.dropTurn 0).set (SEQ_CWAIT_KIND 0) 0).set (SEQ_CWAIT_OPERAND 0) 0 |>.setCtxState 0 STOPPED).ckpt 0
  (c.jrn .runctl [1]).haltFire 3

def stopBody (q : Nat) (x : InDesc) (s : State) : State :=
  let s := s.onChip (·.stopJob)
  s.done q x stOK (le 8 (s.chip.get WM_X_X))

def execStop (t : Nat) (q : Fin 64) (s : State) : Host.Outcome State Fault Refusal :=
  .next (hostCommand t q 0x0002 0 (some 0) (stopBody q) s)

def fireArmBody (q : Nat) (x : InDesc) (s : State) : State :=
  let c := s.chip
  if !c.is SEQ_PSTAT_OPEN then s.done q x stSTATE
  else if !c.is FS_STAT_HFN then s.done q x stHALT_INPUT
  else if c.haltFaultPending then s.done q x stFAULT_PENDING
  else
    let arm (c : Chip) : Chip := { c with fire := { c.fire with armed := true } }
    let s := if c.is FS_STAT_HALTED then s.onChip fun c => arm (c.jrn .runctl [3]) else s
    s.done q x stOK

def execFireArm (t : Nat) (q : Fin 64) (s : State) : Host.Outcome State Fault Refusal :=
  .next (hostCommand t q 0x0003 0 (some 0) (fireArmBody q) s)

/-! ### LOAD_PROGRAM (R57, R69, R72, R77); the image's format is open (assumption 7) -/

/-- Fields of an image: 0 IMAGE_ID, 1 entry point of context 0, 2 words of program, 3 word i; of dispatch entry i: 4 whether the
image defines it, 5 EN, 6 PRIO, 7 ENTRY_PC, 8 CTX_MASK; 9 the context mask of queue i. -/
def imgF (img : List Byte) (k i : Nat) : Nat := Config.imageField img k i

/-- The binding of queue i under an image. -/
def imgBind (c : Chip) (img : List Byte) (i : Nat) : Nat :=
  if c.get (QM_QCFG_CLASS i) = 0 ∧ c.is (QM_QCFG_EN i) then 2 ^ 16 else imgF img 9 i % 2 ^ 17

/-- Entry i is the image's: defined by it, and not the resident handler's. -/
def imgDefines (c : Chip) (img : List Byte) (i : Nat) : Bool := !c.is (SEQ_DISPA_RES i) && imgF img 4 i ≠ 0

/-- An entry that fails the load (R77). -/
def entryBad (c : Chip) (img : List Byte) (i : Nat) : Bool :=
  let mask := imgF img 8 i
  imgDefines c img i && (decide (2 ^ 15 ≤ mask) || decide (0x7C000 ≤ imgF img 7 i) || (imgF img 5 i ≠ 0 && mask = 0) ||
    (decide (64 ≤ i) && (List.range 15).any fun j => bit mask j && !bit (imgBind c img (i - 64)) (j + 1)))

/-- A C-class queue that the image binds to another context than 16 (R69). -/
def queueBad (c : Chip) (img : List Byte) (i : Nat) : Bool :=
  c.get (QM_QCFG_CLASS i) = 0 && c.is (QM_QCFG_EN i) && decide (imgF img 9 i % 2 ^ 16 ≠ 0)

/-- The failed item of a load: 0 entry or 1 queue, and its number. -/
def loadFailure (c : Chip) (img : List Byte) : Option (Nat × Nat) :=
  match (List.range 128).find? (entryBad c img) with
  | some i => some (0, i)
  | none => ((List.range 64).find? (queueBad c img)).map fun i => (1, i)

/-- Dispatch entry i takes what the image says; a pending trigger and its count stay (R57). -/
def Chip.loadEntry (img : List Byte) (c : Chip) (i : Nat) : Chip :=
  if c.is (SEQ_DISPA_RES i) then c
  else
    let on := imgDefines c img i
    let v k := if on then imgF img k i else 0
    let c := ((c.set (SEQ_DISPA_EN i) (b2n (v 5 ≠ 0))).set (SEQ_DISPA_PRIO i) (v 6)).set (SEQ_DISPA_ENTRY_PC i) (v 7)
    (c.set (SEQ_DISPB_CTX_MASK i) (v 8)).setEntry i { c.entry i with defined := on }

/-- The image replaces the user area, the dispatch entries and the bindings (R57). -/
def loadImage (img : List Byte) (s : State) : State :=
  let n := min 0x7C000 (imgF img 2 0)
  let words := (List.range n).map fun i => (i, BitVec.ofNat 64 (imgF img 3 i))
  let prog := words.foldl (fun m e => FMap.put 0 m e.1 e.2) (FMap.keep (fun i => 0x7C000 ≤ i) s.mem.prog)
  let s := { s with mem := { s.mem with prog := prog } }
  s.onChip fun c =>
    let c := c.forAll (List.range 128) (Chip.loadEntry img)
    let c := c.forAll (List.range 64) fun c i => c.set (SEQ_QBIND_CTX_MASK i) (imgF img 9 i)
    let c : Chip := { c with seq := { c.seq with start := imgF img 1 0 } }
    (c.set SEQ_STAT_IMG_LOADED 1).set SEQ_IMGID_IMAGE_ID (imgF img 0 0)

/-- The bytes of an image: from its offset to the end of its allocation. -/
def imageAt (s : State) (a : Alloc) (off : Nat) : List Byte := s.mem.job.read (a.start + off) (a.size * 65536 - off)

/-- LOAD_PROGRAM. Its allocation must be readable for the tenant (R116), and a read that stays uncorrectable ends it with UNCORR (R114);
these codes are those of Table 5-9. -/
def loadBody (q : Nat) (r : Ecc) (x : InDesc) (s : State) : State :=
  let c := s.chip
  let off := x.param 24 8
  if c.testing 4 then s.done q x stSTATE
  else if !c.ctx0Idle || (List.range 16).any (fun n => c.ctxState (n + 1) ≠ IDLE) then s.done q x stLOAD
  else match c.store.find (x.param 16 4) with
    | none => s.done q x jsSTALE
    | some a =>
      if !bit a.rd (c.qTenant q) then s.done q x jsRIGHTS
      else if a.size * 65536 ≤ off then s.done q x stFORMAT
      else
        let s := s.onChip (·.jobStoreRead r)
        if r = .uncorrectable then s.done q x jsUNCORR
        else match loadFailure s.chip (imageAt s a off) with
        | some (k, i) => s.done q x stLOAD (le 1 k ++ le 1 i)
        | none =>
          let s := loadImage (imageAt s a off) s
          (s.onChip fun c => c.jrn .runctl [4, x.param 16 4, off]).done q x stOK

def execLoadProgram (t : Nat) (r : QueueRead) (s : State) : Host.Outcome State Fault Refusal :=
  .next (hostCommand t r.q 0x0004 0 (some 0) (loadBody r.q r.ecc) s)

/-! ### STAGE_CTL (R374) -/

/-- Status of STAGE_CTL for a trap code (Table 14-10). -/
def trapStatus (code : Nat) : Nat :=
  if code = STAGE_UNCHECKED then 0x02 else if code = STAGE_BUSY ∨ code = TBL_BUSY then 0x03
  else if code = STAGE_LATE then 0x04 else if code = STAGE_ARG ∨ code = CAL_ARG then 0x08 else 0x07

/-- Completes a STAGE_CTL function with its status, gD and trap code. -/
def State.stageDone (s : State) (q : Nat) (x : InDesc) (status gd code : Nat) : State :=
  s.done q x status (le 8 gd ++ le 8 (s.chip.get SEQ_SCPT_CPOINT) ++ le 1 s.chip.sstate ++ le 1 code)

/-- A function that traps completes with the lowest code; otherwise f. -/
def stageCtl (q : Nat) (x : InDesc) (traps : List Nat) (f : State → State) (s : State) : State :=
  match traps with
  | [] => f s
  | t :: ts => let code := ts.foldl Nat.min t; s.stageDone q x (trapStatus code) 0 code

/-- A function that, like its instruction, waits while the set is SETTLING: its command stays in the queue. -/
def stageCommand (t q fn : Nat) (body : InDesc → State → State) (s : State) : State :=
  if s.chip.sstate = ssSETTLING ∧ (s.at_ t).chip.headIs q 5 fn then s.at_ t else hostCommand t q 5 fn (some 0) body s

/-- QUERY: no instruction stands behind it, so gD is a free value (assumption 1). -/
def execStageQuery (t : Nat) (q : Fin 64) (s : State) : Host.Outcome State Fault Refusal :=
  .next (hostCommand t q 5 0 (some 0) (fun x s =>
    let (v, c) := s.chip.fresh (2 ^ 64)
    ({ s with chip := c }).stageDone q x stOK v 0) s)

def execStageCheck (t : Nat) (q : Fin 64) (s : State) : Host.Outcome State Fault Refusal :=
  .next (stageCommand t q 1 (fun x s =>
    stageCtl q x (trapIf (s.chip.sstate = ssSCHEDULED) STAGE_BUSY) (fun s =>
      let (w, c) := s.chip.runCheck
      ({ s with chip := c }).stageDone q x (if w = 0 then stOK else 0x01) w 0) s) s)

def execStageCommitw (t : Nat) (q : Fin 64) (s : State) : Host.Outcome State Fault Refusal :=
  .next (stageCommand t q 2 (fun x s =>
    let cpt := x.param 24 8
    stageCtl q x (s.chip.commitTraps ++ trapIf (x.param 18 1 % 2 = 1 && s.chip.commitLate cpt) STAGE_LATE) (fun s =>
      let (r, c) := s.chip.commitw cpt
      ({ s with chip := c }).stageDone q x (if r = 2 then 0x01 else stOK) r 0) s) s)

def execStageCommitt (t : Nat) (q : Fin 64) (s : State) : Host.Outcome State Fault Refusal :=
  .next (stageCommand t q 3 (fun x s =>
    stageCtl q x s.chip.commitTraps (fun s => (s.onChip fun c => c.committ (x.param 24 8)).stageDone q x stOK 0 0) s) s)

def execStageAbandon (t : Nat) (q : Fin 64) (s : State) : Host.Outcome State Fault Refusal :=
  .next (stageCommand t q 4 (fun x s =>
    let (r, c) := s.chip.abandon
    ({ s with chip := c }).stageDone q x (if r = 1 then 0x05 else stOK) r 0) s)

/-- TLOAD checks its handle first: STALE, then J_RANGE for one that the job may not read. -/
def execStageTload (t : Nat) (q : Fin 64) (s : State) : Host.Outcome State Fault Refusal :=
  .next (stageCommand t q 5 (fun x s =>
    let ty := x.param 17 1
    let mask := x.param 20 2
    if s.chip.testing 4 then s.done q x stSTATE
    else match s.chip.store.find (x.param 32 4) with
      | none => s.stageDone q x 0x09 0 0
      | some a =>
        let j := a.start + x.param 40 8
        if !a.jobr || decide (a.size * 65536 < x.param 40 8 + 64) then s.stageDone q x 0x07 0 J_RANGE
        else
          stageCtl q x (trapIf (j % 64 ≠ 0) ALIGN ++ trapIf (maskBad ty mask) TBL_TYPE ++
              trapIf (s.chip.sstate = ssSCHEDULED) TBL_BUSY ++ imageTraps s ty j)
            (fun s => (loadTable ty mask j s).stageDone q x stOK (imageTable s ty j).version 0) s) s)

def execStageRestorefac (t : Nat) (q : Fin 64) (s : State) : Host.Outcome State Fault Refusal :=
  .next (stageCommand t q 6 (fun x s =>
    stageCtl q x (trapIf (restoreBad (x.param 17 1) (x.param 20 2)) CAL_ARG ++ trapIf (s.chip.sstate = ssSCHEDULED) STAGE_BUSY)
      (fun s => (s.onChip fun c => c.restoreFac (x.param 17 1) (x.param 20 2)).stageDone q x stOK 0 0) s) s)

def execStageCalsave (t : Nat) (q : Fin 64) (s : State) : Host.Outcome State Fault Refusal :=
  .next (hostCommand t q 5 7 (some 0) (fun x s =>
    stageCtl q x (trapIf (saveBad (x.param 17 1) (x.param 18 1)) CAL_ARG) (fun s =>
      let (r, c) := s.chip.calSave (x.param 17 1) (x.param 18 1)
      ({ s with chip := c }).stageDone q x (if r = 1 then 0x03 else if r = 2 then 0x06 else stOK) r 0) s) s)

/-! ### SET_CIVIL and STATUS (R319, Table 13-5) -/

/-- A civil measurement when CSRC is HOST. -/
def execSetCivil (t : Nat) (q : Fin 64) (s : State) : Host.Outcome State Fault Refusal :=
  .next (hostCommand t q 6 0 (some 2) (fun x s =>
    let s := if s.chip.get TB_CFG_CSRC = 0 then s.onChip fun c => c.measure (sgn 64 (x.param 16 8)) (x.param 24 8) else s
    s.done q x stOK) s)

def execStatus (t : Nat) (q : Fin 64) (s : State) : Host.Outcome State Fault Refusal :=
  .next (hostCommand t q 7 0 none (fun x s =>
    let c := s.chip
    s.done q x stOK (le 4 (c.ctxState 0) ++ zeros 4 ++ le 8 c.ns ++ le 8 (c.get WM_X_X) ++ le 2 (c.headroomWord % 65536))) s)

end Sys2Proof.Machine
end

