-- ==== Sys2Proof/Machine/Owner.lean ====
section
/-!
DEFINITION. Sys2Proof/Machine/Owner.lean: who owns the hubs: claims, takeover, yielding, the end of a planned handoff, and the EPOCH
and CLAIM_REPLY records (R300, R306, R386 to R389, R393, R396, R399).
-/
namespace Sys2Proof.Machine

/-! ### What a role change does to programs (R379, R393) -/

/-- Every handler entry whose dispatch began and has not ended is pended again with its count, and the handler contexts are idle
(R393). -/
def Chip.settleHandlers (c : Chip) : Chip :=
  let c := c.forAll ((List.range 128).filter fun e => (c.entry e).runningIn.isSome) fun c e =>
    let x := c.entry e
    ((c.setEntry e { x with runningIn := none }).set (SEQ_DISPA_PEND e) 1).bump (SEQ_DISPB_COUNT e) x.begun
  let c := c.forAll ((List.range 16).map (· + 1)) fun c n =>
    (((c.set (SEQ_CSTAT_RUNNING n) 0).set (SEQ_CSTAT_ENTRY n) 0).set (SEQ_CWAIT_KIND n) 0).setCtxState n IDLE
  { c with seq := { c.seq with waits := FMap.keep (· = 0) c.seq.waits, ops := FMap.keep (· = 0) c.seq.ops } }

/-- Context 0 goes on from the state applied: one that waited or was stalled issues the instruction at its program counter again
(R393). -/
def Chip.resumeCtx0 (c : Chip) : Chip :=
  let c : Chip := { c with seq := { c.seq with waits := FMap.put none c.seq.waits 0 none, ops := FMap.put none c.seq.ops 0 none } }
  if c.ctxState 0 = WAITING ∨ c.ctxState 0 = STALLED then c.resume 0 else c

/-! ### Orderly shutdown begins (R450) -/

/-- Steps 1 to 3: SHUTTING; the user bank item LANES is written; then, while SHUT_EN is 1, a full BIST runs. A write that
cannot start cuts the sequence short. -/
def Chip.beginShutdown (c : Chip) : Chip :=
  let c := c.set HL_PSTAT_STATE 3
  let run : Option BistRun := if c.is HL_BCFG_SHUT_EN then some { kind := 1, plog := c.get HL_BCFG_PLOG, dtStart := c.ns } else none
  let c : Chip := { c with health := { c.health with bist := run } }
  let (r, c) := c.startNor 1 (c.newBank 1 0 c.laneValues c.portValues)
  if r ≠ 0 ∧ run.isSome then c.startWaves else c

/-! ### Claims (R387, R388) -/

/-- Lane l is claimed with a token. -/
def Chip.claimLane (c : Chip) (l token : Nat) : Chip :=
  if c.twin.claims.any fun e => e.1 = l then c
  else ({ c with twin := { c.twin with claims := c.twin.claims ++ [(l, token)] } }).want l (.claim ((c.curOf l + 1) % 2 ^ 32) token)

/-- Lane l is no longer claimed. -/
def Chip.unclaim (c : Chip) (l : Nat) : Chip :=
  { c with twin := { c.twin with claims := c.twin.claims.filter fun e => e.1 ≠ l, wait := FMap.put 0 c.twin.wait l 0 } }

/-- The claim round is over; lanes still claimed stay so. -/
def Chip.endRound (c : Chip) : Chip := { c with twin := { c.twin with claiming := none } }.set TW_STAT_CLAIMING 0

/-- A STANDBY unit starts a claim round on every USED lane (R388). -/
def Chip.startClaim (c : Chip) (token : Nat) : Chip :=
  if c.twin.claiming.isSome then c
  else
    let c := { c with twin := { c.twin with claiming := some { since := c.ns, token := token } } }.set TW_STAT_CLAIMING 1
    c.forAll c.usedLanes fun c l => c.claimLane l token

/-- An ACTIVE or SOLO unit claims a hub whose latest record shows no running lease and another owner or none (R387). -/
def Chip.claimFree (c : Chip) (l : Nat) : Chip :=
  if c.runs && c.newest.laneUsed l && c.laneState l = lsSERVICE && !c.is (LQ_HST_LEASE (l / 4) (l % 4)) && !c.ownsHub l &&
      !c.is TW_STAT_HANDOFF then c.claimLane l 0
  else c

/-- The first hub has accepted: the STANDBY unit becomes ACTIVE and goes on (R388, R393). After a handoff its peer follows as
STANDBY, so it mirrors from here on. -/
def Chip.takeOver (c : Chip) (token : Nat) : Chip :=
  let tw := c.twin
  let c : Chip := { c with twin := { tw with mirroring := token ≠ 0, kept := [], fresh := [], passes := [], hashes := [], referee := [],
                                             lost := false } }
  ((c.setRole 1).settleHandlers).resumeCtx0

/-! ### The end of a planned handoff (R399) -/

/-- The handoff is over. -/
def Chip.endHandoff (c : Chip) : Chip := { c with twin := { c.twin with handoff := none } }.set TW_STAT_HANDOFF 0

/-- Step 4: once every USED lane's record shows the peer as owner the former active unit is STANDBY; a shutdown that waited for
it begins. -/
def Chip.checkHandedOver (c : Chip) : Chip :=
  match c.twin.handoff with
  | none => c
  | some h =>
    if c.role = 1 ∧ !c.usedLanes.isEmpty ∧ c.usedLanes.all c.peerOwns then
      let c := c.flushJrn.endHandoff
      let tw := c.twin
      let c : Chip := { c with twin := { tw with mirroring := false, kept := [], claims := [], wait := [] } }
      let c := (c.setRole 2).settleHandlers
      if h.forShutdown then c.beginShutdown else c
    else c

/-! ### A fresh start (R396) -/

/-- The registers of a window below its fault registers return to their reset values. -/
def Chip.resetWindow (c : Chip) (b : Blk) (i : Nat) : Chip :=
  let lo := 128 * (b.base i + 0x40)
  let hi := 128 * (b.base i + 0x10000)
  { c with regs := FMap.keep (fun k => k < lo || hi ≤ k) c.regs }

/-- No program, no open stream, an empty job store, the power-up tables. -/
def freshState (s : State) : State :=
  let c := s.chip.resetWindow .seq 0
  let g := c.stage
  let c : Chip := { c with
    seq := { resident := c.seq.resident }, strm := {}, vd := {}, bars := [], colour := {},
    store := { jobs := c.store.jobs, nextJob := c.store.nextJob, lastTenant := c.store.lastTenant },
    stage := { bankA := g.bankA, bankB := g.bankB, write := g.write } }
  let c := c.forAll (List.range 16) fun c k => c.set (CH_LGEN_LGEN k) 0
  { s with chip := c.refreshPending,
           mem := { prog := FMap.keep (fun i => 0x7C000 ≤ i) s.mem.prog } }

/-- The active unit was lost during catch-up and a hub's lease has ended: HALT everywhere, and a fresh ACTIVE unit. -/
def freshActive (s : State) : State :=
  let s := freshState (s.onChip fun c => c.sendHalt.dropSnapshot)
  s.onChip fun c => ({ (c.haltMark 2) with twin := { c.twin with lost := false, mirroring := false } }).setRole 1

/-! ### EPOCH records (R302, R306, R386) -/

/-- What an EPOCH record shows of the hub of lane l. -/
def Chip.noteOwner (c : Chip) (l : Nat) (r : List Byte) : Chip :=
  let q := l / 4
  let i := l % 4
  let b := fieldAt r 1 1
  let id := fieldAt r 8 4
  let was := c.ownsHub l
  let self := b % 4 ≠ 0 && id = unitId
  let c := c.setLane l { c.lane l with owner := if b % 4 = 0 then 0 else id }
  let c := ((c.set (LQ_HEP_CUR q i) (fieldAt r 4 4)).set (LQ_HST_OWNER q i) (b % 4)).set (LQ_HST_SELF q i) (b2n self)
  let c := ((c.set (LQ_HST_LEASE q i) (bits b 2 1)).set (LQ_HST_ARM_L q i) (bits b 3 1)).set (LQ_HST_ARM_S q i) (bits b 4 1)
  let c := c.refreshEpoch
  if was && !self then c.raise .lq q { src := 26, cell := i } else c

def epochRecord (l : Nat) (r : List Byte) (s : State) : State :=
  let s := s.onChip fun c => c.noteOwner l r
  if s.chip.role = 3 && s.chip.twin.lost && s.chip.newest.laneUsed l && !s.chip.is (LQ_HST_LEASE (l / 4) (l % 4)) then
    let s := freshActive s
    s.onChip fun c => c.forAll c.usedLanes Chip.claimFree
  else s.onChip fun c => (c.claimFree l).checkHandedOver

def execEpochRecord (t : Nat) (l : Fin 96) (r : StatRec) (s : State) : Host.Outcome State Fault Refusal :=
  .next ((s.at_ t).record l r.fr r.i 4 (epochRecord l))

/-! ### CLAIM_REPLY records (R300, R388) -/

/-- The results of Table 11-10. -/
def crACCEPTED : Nat := 0
def crREFUSED_LEASE : Nat := 1
def crREFUSED_CONFLICT : Nat := 4

/-- What a round notes of a reply: lanes that have accepted, and lanes whose latest reply was REFUSED_LEASE. -/
def ClaimRound.note (x : ClaimRound) (l res : Nat) : ClaimRound :=
  let refused := x.refused.filter (· ≠ l)
  if res = crACCEPTED then { x with accepted := x.accepted ++ [l], refused := refused }
  else if res = crREFUSED_LEASE then { x with refused := refused ++ [l] } else { x with refused := refused }

/-- A hub has accepted the claim on lane l. -/
def Chip.claimAccepted (c : Chip) (l token : Nat) : Chip :=
  let c := (c.unclaim l).refreshEpoch
  let c := if c.role = 2 then c.takeOver token else c
  if c.twin.claiming.isSome && c.twin.claims.isEmpty then c.endRound else c

def Chip.claimReply (c : Chip) (l : Nat) (r : List Byte) : Chip :=
  let q := l / 4
  let i := l % 4
  let res := fieldAt r 2 1
  let id := fieldAt r 12 4
  let c := c.setLane l { c.lane l with owner := id }
  let c := ((c.set (LQ_HEP_CUR q i) (fieldAt r 8 4)).set (LQ_HST_SELF q i) (b2n (id = unitId))).refreshEpoch
  let c := (c.set (LQ_HST_CLAIM_SEEN q i) 1).set (LQ_HST_CLAIM_RES q i) res
  match c.twin.claims.find? fun e => e.1 = l with
  | none => c
  | some (_, token) =>
    let c : Chip := { c with twin := { c.twin with claiming := c.twin.claiming.map fun x => x.note l res } }
    if res = crACCEPTED then c.claimAccepted l token
    else if res = crREFUSED_CONFLICT ∧ c.get TW_PEER_PEER < unitId then
      { c with twin := { c.twin with wait := FMap.put 0 c.twin.wait l (c.ns + 30000) } }
    else c

def execClaimReply (t : Nat) (l : Fin 96) (r : StatRec) (s : State) : Host.Outcome State Fault Refusal :=
  .next ((s.at_ t).record l r.fr r.i 5 fun r s => s.onChip (·.claimReply l r))

/-- 30 µs after REFUSED_CONFLICT the higher identity claims again (R388). -/
def execClaimConflictWait (t : Nat) (l : Fin 96) (s : State) : Host.Outcome State Fault Refusal :=
  .next ((s.at_ t).onChip fun c =>
    let w := FMap.get 0 c.twin.wait l
    match c.twin.claims.find? fun e => e.1 = l.val with
    | some (_, token) =>
      if w ≠ 0 ∧ w ≤ c.ns then
        ({ c with twin := { c.twin with wait := FMap.put 0 c.twin.wait l 0 } }).want l
          (.claim ((c.curOf l + 1) % 2 ^ 32) token)
      else c
    | none => c)

/-- CLAIMWIN has passed since the first claim of the round (R388): no hub has accepted, and the claim is refused; or some have while
others still refuse with REFUSED_LEASE, and the claim is split; else only the round ends. -/
def Chip.claimwinExpiry (c : Chip) : Chip :=
  match c.twin.claiming with
  | none => c
  | some x =>
    if c.ns < x.since + 1000 * c.get TW_CFG_CLAIMWIN then c
    else if x.accepted.isEmpty then
      ((c.withdrawClaims).set TW_STAT_CLAIMHOLD 1).raise .tw 0 { src := 2 }
    else
      let split := x.refused.any fun l => c.twin.claims.any fun e => e.1 = l
      let c := c.endRound
      if split then c.raise .tw 0 { src := 3, level := some 4 } else c

def execClaimwinExpiry (t : Nat) (s : State) : Host.Outcome State Fault Refusal :=
  .next ((s.at_ t).onChip (·.claimwinExpiry))

/-! ### Planned handoff (R399) -/

/-- A tenant that holds LINE writes TW_CTL HANDOFF. -/
def execHandoff (t : Nat) (tnt : Fin 8) (s : State) : Host.Outcome State Fault Refusal :=
  .next ((s.at_ t).onChip fun c => c.ownWrite tnt .tw 0 0x50 (·.startHandoff))

/-- Step 5: 1 ms after t_h the handoff has not completed: EPOCH with TOKEN 0 on the lanes still owned, and source 11; what follows
depends on the hubs and the peer. A shutdown that waited for it is cancelled. -/
def Chip.handoffTimeout (c : Chip) : Chip :=
  match c.twin.handoff with
  | none => c
  | some h =>
    if c.ns < h.th + 1000000 then c
    else
      let taken := c.usedLanes.filter fun l => c.peerOwns l
      let c := c.endHandoff
      let c := c.forAll (c.serviceLanes.filter c.ownsHub) fun c l => c.want l (.epoch (c.curOf l) 0 0)
      let c := c.raise .tw 0 { src := 11 }
      let c := if h.forShutdown then c.raise .hl 0 { src := 14 } else c
      if taken.isEmpty then c
      else if !c.twin.peerFailed && c.peerHeard then c.toCatchup 9
      else c.forAll taken Chip.claimFree

def execHandoffTimeout (t : Nat) (s : State) : Host.Outcome State Fault Refusal :=
  .next ((s.at_ t).onChip (·.handoffTimeout))

/-! ### Two ACTIVE units (R389) -/

/-- This unit yields to an ACTIVE peer of identity `id` and unit epoch `e`: the lower epoch yields, at equal epochs the higher
identity. -/
def Chip.yields (c : Chip) (id e : Nat) : Bool := decide (c.twin.epoch < e) || (c.twin.epoch = e && decide (id < unitId))

/-- A planned handoff is under way, in the unit that gives or in the one that takes: both are ACTIVE for a while, and R399 settles which
goes on (DEDUCED, assumption 36). -/
def Chip.handingOver (c : Chip) : Bool := c.is TW_STAT_HANDOFF || c.twin.claiming.any fun x => x.token ≠ 0

/-- It enters CATCHUP with reason YIELD. -/
def Chip.yieldTo (c : Chip) : Chip := (c.toCatchup 4).raise .tw 0 { src := 3, level := some 2 }

end Sys2Proof.Machine
end

