-- ==== Sys2Proof/Machine/RegFile.lean ====
section
/-!
DEFINITION. Sys2Proof/Machine/RegFile.lean: control space by words: what a register reads as, wide registers (R11), access
types (R12), and what a write to the timebase, web motion, colour hold, job store and codec windows does beside storing
fields (R173, R228, R232, R242, R245, R322, R325, R326, R362).
-/
namespace Sys2Proof.Machine

/-! ### Registers of a window -/

/-- A register field with its access type and write filter. -/
structure RegField where
  acc : Acc
  filter : WFilter
  f : Fld
deriving DecidableEq, Repr

/-- Byte address of the lowest word of a field's register, and the field's lowest bit in the register. -/
def Fld.base (f : Fld) : Nat := f.key / 128
def Fld.lo (f : Fld) : Nat := f.key % 128

/-- Words of a register that the field reaches. -/
def Fld.reach (f : Fld) : Nat := ceilDiv (f.lo + f.width) 32

/-- Every field of a window. -/
def windowFields (b : Blk) (i : Nat) : List RegField :=
  (windowRows b).flatMap fun r => (List.range r.n).map fun j => ⟨r.acc, r.filter, r.at' i j⟩

/-- The fields of the register that holds the word at an address: none where the window has no register there. -/
def fieldsAt (b : Blk) (i addr : Nat) : List RegField :=
  let fs := windowFields b i
  match fs.find? fun r => r.f.base ≤ addr && addr < r.f.base + 4 * r.f.reach with
  | some r => fs.filter fun q => q.f.base = r.f.base
  | none => []

/-- Words of a register. -/
def regWords (fs : List RegField) : Nat := greatest (fs.map fun r => r.f.reach)

/-! ### What a field reads as -/

/-- The block's power domain is on: PD7 holds the rope link (Table 17-5). -/
def Chip.blockOn (c : Chip) (b : Blk) (i : Nat) : Bool :=
  if b = .rl then bit (c.get HL_PSTAT_DOMAIN_ON) 7 else c.regionOn (b.region i)

/-- Division of the block's island (Table 2-3): I41 for the CR core, I40 for MR. -/
def Chip.division (c : Chip) : Blk → Nat
  | .seq => c.get HL_THR_DIV_CR | .qm => c.get HL_THR_DIV_CR | .ch => c.get HL_THR_DIV_CR | .tw => c.get HL_THR_DIV_CR
  | .hl => c.get HL_THR_DIV_CR | .nv => c.get HL_THR_DIV_CR
  | .mr => c.get HL_THR_DIV_MR | .js => c.get HL_THR_DIV_MR | .tc => c.get HL_THR_DIV_MR | .cd => c.get HL_THR_DIV_MR
  | .hbm => c.get HL_THR_DIV_MR
  | _ => 0

/-- The fields of <BLK>_PWR that report the state of the block's island and domain (Table 2-11). -/
def Chip.viewPwr (c : Chip) (b : Blk) (i : Nat) (f : Fld) : Nat :=
  match f.lo with
  | 16 => b2n (c.blockOn b i)
  | 2 => c.division b
  | 4 => c.viewSkip b i
  | 1 => b2n (c.underTest b i)
  | 0 => b2n (c.blockOn b i)
  | _ => c.get f

/-- Granules that a tenant holds (Table 5-2). -/
def Chip.heldBy (c : Chip) (t : Nat) : Nat := c.store.used fun x => x.owner = t

/-- A probe's oldest latch as (sequence, value, DT), zero when it holds none. -/
def Chip.oldestLatch (c : Chip) (p : Nat) : Nat × Nat × Nat := (c.probe p).store.headD (0, 0, 0)

/-- Sequencer fields that other state gives (Tables 3-13, 4-13, 14-9). -/
def Chip.viewSeq (c : Chip) (off : Nat) (f : Fld) : Nat :=
  if off = 0x40 ∧ f.lo = 0 then
    ((List.range 17).filter fun n => [RUNNABLE, STALLED, WAITING].contains (c.ctxState n)).foldl (fun m n => m + 2 ^ n) 0
  else if off = 0x68 ∧ f.lo = 0 then c.activeCount
  else if off = 0x74 then c.strm.recs.length
  else if off = 0x78 then 2 ^ 20 - c.slotsUsed
  else if off = 0x80 ∧ f.lo = 16 then c.stage.staged.claims.length
  else if 0x400 ≤ off ∧ off < 0x800 then
    let e := (off - 0x400) / 8
    if off % 8 = 0 then (match f.lo with | 31 => b2n (c.dispEn e) | 19 => c.dispPrio e | 0 => c.dispPc e | _ => c.get f)
    else if f.lo = 0 then c.dispMask e else c.get f
  else if 0x800 ≤ off ∧ off < 0x900 then c.bind ((off - 0x800) / 4)
  else c.get f

/-- Web motion fields that other state gives: the oldest latch of a probe (R243). -/
def Chip.viewWm (c : Chip) (off : Nat) (f : Fld) : Nat :=
  if off < 0x300 then c.get f
  else
    let p := (off - 0x300) / 0x20
    match off % 0x20 with
    | 0x04 => if f.lo = 0 then (c.probe p).store.length else c.get f
    | 0x08 => (c.oldestLatch p).1
    | 0x10 => (c.oldestLatch p).2.1
    | 0x18 => (c.oldestLatch p).2.2
    | _ => c.get f

/-- Fire stamp engine fields that other state gives: the model at its latest update, and d_eff in whole ticks (R223).
COASTING is 1 in PREDICTED from the instant of the next predicted edge until an edge comes (R206). -/
def Chip.viewFs (c : Chip) (off : Nat) (f : Fld) : Nat :=
  if off = 0x40 ∧ f.lo = 2 then b2n (c.get FS_STAT_MODE = 2 && c.pastEdge 0)
  else if off = 0x48 then uns 64 (c.fire.x / 65536)
  else if off = 0x50 then satSgn 32 (c.fire.v / 256)
  else if off = 0x54 then satSgn 32 c.fire.a
  else if 0x100 ≤ off then c.tickOffset ((off - 0x100) / 8)
  else c.get f

/-- Queue manager and tenant fields that other state gives (R353). -/
def Chip.viewQm (c : Chip) (off : Nat) (f : Fld) : Nat :=
  if off = 0x44 then c.queueSlots
  else if 0x800 ≤ off then
    let q := (off - 0x800) / 4
    if f.lo = 0 then (c.queue q).inq.length else c.outUsed q
  else c.get f

/-- A tenant window; the offsets of another tenant's queue read 0 (R353). -/
def Chip.viewTn (c : Chip) (t off : Nat) (f : Fld) : Nat :=
  if off = 0 then (match f.lo with | 8 => c.role | 0 => c.get (QM_GRANT_GRANT t) | _ => c.get f)
  else if off = 4 then c.twin.epoch
  else if off = 8 then c.peerUnit
  else if c.qTenant ((off - 0x1000) / 0x40) ≠ t then 0
  else c.get f

/-- An SC field reads 1 while its action runs (R12). -/
def Chip.viewLq (c : Chip) (q off : Nat) (f : Fld) : Nat :=
  if off = 0x40 ∧ f.lo = 1 then b2n (c.fast q)
  else if off = 0x48 ∧ f.lo = 31 then b2n (FMap.get none c.lanes.point q).isSome
  else if off = 0x50 ∧ f.lo = 31 then b2n (FMap.get none c.lanes.ee q).isSome
  else c.get f

def Chip.viewHl (c : Chip) (off : Nat) (f : Fld) : Nat :=
  if off = 0x184 ∧ f.lo = 0 then b2n ((c.health.bist.map (·.kind)) = some 2)
  else if off = 0x184 ∧ f.lo = 1 then b2n (c.health.bist.any fun r => r.kind = 2 && r.aborted)
  else if off = 0x54 ∧ f.lo = 0 then
    b2n (c.get HL_PSTAT_STATE = 3 || (c.twin.handoff.map (·.forShutdown)) = some true)
  else c.get f

/-- Lines of the pinned tiles (R141). -/
def pinnedTotal (s : State) : Nat :=
  ((s.chip.store.allocs.filter fun x => x.isSealed && x.tile && x.pin).map fun x => (tileOf s.mem.job x).lines).foldl (· + ·) 0

/-- What a field reads as now. -/
def State.view (s : State) (b : Blk) (i : Nat) (f : Fld) : Nat :=
  let c := s.chip
  let off := f.base - b.base i
  if b ≠ .tn ∧ off = 4 then c.viewPwr b i f
  else match b with
    | .seq => c.viewSeq off f
    | .qm => c.viewQm off f
    | .tn => c.viewTn i off f
    | .tb => if off = 0x48 then c.ns else c.get f
    | .wm => c.viewWm off f
    | .fs => c.viewFs off f
    | .tw => if off = 0x50 ∧ f.lo = 0 then c.get TW_STAT_HANDOFF else c.get f
    | .hl => c.viewHl off f
    | .lq => c.viewLq i off f
    | .js => if off = 0x40 then c.store.freeGranules else if off = 0x44 then c.store.largest
             else if off = 0x48 then c.store.allocs.length
             else if 0xA0 ≤ off then c.heldBy ((off - 0xA0) / 4) else c.get f
    | .tc => if off = 0x48 then pinnedTotal s else c.get f
    | .cd => if off = 0x40 then (match f.lo with
               | 16 => c.store.waiting.length
               | 8 => c.store.running.length
               | _ => c.get f) else c.get f
    | _ => c.get f

/-- A whole register as a number; a WO field reads 0 (R12). -/
def State.regValue (s : State) (b : Blk) (i : Nat) (fs : List RegField) : Nat :=
  fs.foldl (fun v r => if r.acc = .wo then v else v + s.view b i r.f % 2 ^ r.f.width * 2 ^ r.f.lo) 0

def regReset (fs : List RegField) : Nat := fs.foldl (fun v r => v + r.f.reset % 2 ^ r.f.width * 2 ^ r.f.lo) 0

/-! ### Reading a word (R11) -/

/-- Latches the higher words of a register at a read of its lowest. -/
def Chip.latchWords (c : Chip) (base n v : Nat) : Chip :=
  c.forAll ((List.range n).drop 1) fun c k =>
    { c with latch := FMap.put none c.latch (base + 4 * k) (some (bits v (32 * k) 32)) }

/-- One word of a window. -/
def State.readWord (s : State) (b : Blk) (i addr : Nat) : Nat × State :=
  let fs := fieldsAt b i addr
  match fs with
  | [] => (0, s)
  | r :: _ =>
    let n := regWords fs
    let s := if b = .cd then s.onChip Chip.sampleDemand else s
    if r.f.base = addr then
      let v := s.regValue b i fs
      (v % 2 ^ 32, s.onChip (·.latchWords addr n v))
    else
      let k := (addr - r.f.base) / 4
      ((FMap.get none s.chip.latch addr).getD (bits (regReset fs) (32 * k) 32), s)

/-- TB_DT cannot be read while DT is a roped unit's provisional count (R308). -/
def Chip.dtHidden (c : Chip) (b : Blk) (i addr : Nat) : Bool :=
  b = .tb && (addr - b.base i) / 8 = 9 && c.provisional

/-- Tenant t reads the word at an address: 0 and a notice outside every window and where its grants do not reach (R46, R332);
a block that does not answer has no effect and gives no data, a free value. -/
def State.regRead (s : State) (t addr : Nat) : Nat × State :=
  match blockAt addr with
  | none => (0, s.onChip (·.noticeAccess addr))
  | some (b, i) =>
    if !s.chip.mayRead t b i then (0, s.onChip (·.noticeAccess addr))
    else if !(s.chip.reachable b i && s.chip.blockOn b i) || s.chip.dtHidden b i addr then
      let (v, c) := s.chip.fresh (2 ^ 32)
      (v, { s with chip := c })
    else s.readWord b i addr

/-! ### Writing fields (R11, R12) -/

/-- The write of a register: which of its bits are written, and with what. -/
structure RegWrite where
  mask : Nat
  val : Nat
deriving DecidableEq, Repr

/-- A field gets written bits. -/
def RegWrite.hits (w : RegWrite) (f : Fld) : Bool := bits w.mask f.lo f.width ≠ 0

/-- The bits written into a field, the others as they were. -/
def RegWrite.merge (w : RegWrite) (f : Fld) (old : Nat) : Nat :=
  let m := bits w.mask f.lo f.width
  (old - (old &&& m)) + (bits w.val f.lo f.width &&& m)

/-- Bits written as 1. -/
def RegWrite.ones (w : RegWrite) (f : Fld) : Nat := bits w.val f.lo f.width &&& bits w.mask f.lo f.width

/-- A severity keeps its value above 4 and below its reset value (Table 16-1). -/
def keepsLevel (b : Blk) (i v : Nat) (f : Fld) : Bool :=
  let off := f.base - b.base i
  b ≠ .tn && 0x20 ≤ off && off < 0x30 && (decide (4 < v) || decide (v < f.reset))

/-- Stores one written field by its access type. SC and WO fields store nothing: what they start is the window's own. An RS bit that
the part sets in the same control clock stays set (R13). -/
def Chip.storeField (c : Chip) (b : Blk) (i : Nat) (w : RegWrite) (r : RegField) : Chip :=
  if !w.hits r.f then c
  else
    let old := c.get r.f
    match r.acc with
    | .rw =>
      let v := r.filter.apply r.f.width old (w.merge r.f old)
      if keepsLevel b i v r.f then c else c.set r.f v
    | .w1c => c.set r.f (old - (old &&& w.ones r.f))
    | .rs => if FMap.get 0 c.faults.latched r.f.key = c.clock then c else c.set r.f (old - (old &&& w.ones r.f))
    | _ => c

def Chip.storeReg (c : Chip) (b : Blk) (i : Nat) (fs : List RegField) (w : RegWrite) : Chip :=
  c.forAll fs fun c r => c.storeField b i w r

/-! ### The timebase window -/

/-- An enabled timer other than n that drives the output of timer n (R326). -/
def Chip.trigHolder (c : Chip) (n : Nat) : Option Nat :=
  let drives (m : Nat) : Bool := c.is (TB_TMCFG_EN m) && c.get (TB_TMCFG_OUT m) ≠ 0
  if drives n then (List.range 16).find? fun m => m ≠ n && drives m && c.get (TB_TMCFG_TRIG m) = c.get (TB_TMCFG_TRIG n) else none

/-- A write to TB_TMCFG: one that gives an output two timers is ignored and noted (R326); a timer is armed when it is enabled, and
again when its mode changes. -/
def Chip.wroteTimer (old c : Chip) (n : Nat) : Chip :=
  match c.trigHolder n with
  | some m =>
    (((old.latchRs TB_CONFLICT_VALID).set TB_CONFLICT_HELD m).set TB_CONFLICT_REFUSED n).raise .tb 0 { src := 6 }
  | none =>
    if c.is (TB_TMCFG_EN n) && (!old.is (TB_TMCFG_EN n) || c.get (TB_TMCFG_MODE n) ≠ old.get (TB_TMCFG_MODE n)) then c.armTimer n
    else c

/-- A pulse width stays within 10 ns and PER (Table 12-7). -/
def Chip.fitWidth (c : Chip) (n : Nat) : Chip :=
  c.set (TB_TMWID_WID n) (max 10 (min (c.get (TB_TMPER_PER n)) (c.get (TB_TMWID_WID n))))

/-- A write to T, PER or WID (R325): an enabled timer looks for its next firing anew. -/
def Chip.wroteTarget (old c : Chip) (n : Nat) : Chip :=
  let c := c.fitWidth n
  let moved := c.get (TB_TMT_T n) ≠ old.get (TB_TMT_T n) ||
    (c.is (TB_TMCFG_MODE n) && c.get (TB_TMPER_PER n) ≠ old.get (TB_TMPER_PER n))
  if c.is (TB_TMCFG_EN n) && moved then c.armTimer n else c

/-- A write to TB_LEAP arms, changes before its span begins, or disarms a leap second (R322). -/
def Chip.wroteLeap (old c : Chip) : Chip :=
  let begun := match old.time.smear with | some (_, d) => decide (d ≠ 0) | none => false
  if c.is TB_LEAP_ARM then
    if old.is TB_LEAP_ARM && begun then c else c.armLeap (c.is TB_LEAP_DEL)
  else if old.is TB_LEAP_ARM then c.disarmLeap else c

/-- A source newly selected has delivered no measurement yet (R318), and PPS_IN may be missing anew. -/
def Chip.wroteSource (old c : Chip) : Chip :=
  if c.get TB_CFG_CSRC = old.get TB_CFG_CSRC then c
  else { c with time := { c.time with ppsMissed := false } }.loseCivil

/-- A new slew limit holds from the write on (R319): what is left of err slews from here. -/
def Chip.rebaseSlew (c : Chip) : Chip :=
  match c.time.slew with
  | some (err, _, done) => { c with time := { c.time with slew := some (err - done, c.ns, 0) } }
  | none => c

/-- A write of GMOFS while a grandmaster serves, and one that would make HP3 slave and grandmaster, are ignored (R315, R316). -/
def Chip.wroteTb (old c : Chip) (off : Nat) : Chip :=
  if off = 0x40 then old.wroteSource c
  else if off = 0x6C then c.rebaseSlew
  else if off = 0x70 then old.wroteLeap c
  else if (off = 0x88 && old.is TB_PTPCFG_GMEN) || (off = 0x90 && c.is TB_PTPCFG_SLAVE && c.gm 3) then old.raise .tb 0 { src := 6 }
  else if 0x200 ≤ off then
    let n := (off - 0x200) / 0x20
    if off % 0x20 = 0 then old.wroteTimer c n else old.wroteTarget c n
  else c

/-! ### The web motion window -/

/-- Registers that an open stream fixes (R232). -/
def fixedWhileOpen (off : Nat) : Bool :=
  off = 0x40 || (decide (0x80 ≤ off) && decide (off < 0x180) && [0x00, 0x04, 0x08, 0x10].contains (off % 0x40))

/-- In FIXED mode ε equals OFS, and no window is measured (R245). -/
def Chip.wroteStretch (c : Chip) : Chip :=
  if c.is WM_STR_MODE then c
  else { (c.newEps (c.getS WM_STROFS_OFS)) with motion := { c.motion with wStart := none, wEnd := none } }

/-- A probe is enabled: its sequence starts at 0 (R242). POP removes its oldest latch (R243). -/
def Chip.wroteProbe (old c : Chip) (p : Nat) (pop : Bool) : Chip :=
  let c := if c.is (WM_PCFG_EN p) && !old.is (WM_PCFG_EN p) then c.setProbe p { c.probe p with seq := 0 } else c
  if pop then c.probePop p else c

def Chip.wroteWm (old c : Chip) (off : Nat) (w : RegWrite) : Chip :=
  if (fixedWhileOpen off && old.is SEQ_PSTAT_OPEN) ||
      ((off = 0x40 || off = 0x50) && c.is WM_STR_MODE && c.infeed = c.outfeed) then old.raise .wm 0 { src := 11 }
  else if off = 0x50 || off = 0x58 then c.wroteStretch
  else if decide (0x80 ≤ off) && decide (off < 0x180) then
    let n := (off - 0x80) / 0x40
    let c := if c.is (WM_ECFG_EN n) && !old.is (WM_ECFG_EN n) then c.enableEnc n else c
    if n = c.infeed then c.refreshX else c
  else if off = 0x40 then c.refreshX
  else if off = 0x200 || off = 0x220 then
    let m := (off - 0x200) / 0x20
    if c.is (WM_SCFG_EN m) && !old.is (WM_SCFG_EN m) then c.setSsi m {} else c
  else if 0x300 ≤ off && off % 0x20 = 0 then old.wroteProbe c ((off - 0x300) / 0x20) (bit w.val 16 && bit w.mask 16)
  else c

/-! ### What a write to a window does -/

/-- While a set is SCHEDULED, a write that would enable a feature in conflict with a claim of that set is ignored, with a notice
of the block that owns the register (R362). -/
def Chip.claimConflict (old c : Chip) : Bool :=
  match old.stage.sched with
  | some x => (checkClaims old x.set).isNone && (checkClaims c x.set).isSome
  | none => false

/-- A write accepted in the timebase, web motion, colour hold, job store or codec window; the result without its journal entry. -/
def Chip.writeTracked (c : Chip) (b : Blk) (i off : Nat) (fs : List RegField) (w : RegWrite) : Chip :=
  let c := if b = .tb ∧ 0x200 ≤ off ∧ off % 0x20 ≠ 0 then c.fireDue ((off - 0x200) / 0x20) else c
  let new := c.storeReg b i fs w
  if (b = .tb ∨ b = .wm) ∧ c.claimConflict new then c.raise b i { src := if b = .tb then 6 else 11 }
  else match b with
    | .tb => c.wroteTb new off
    | .wm => c.wroteWm new off w
    | .ch => if decide (0xC0 ≤ off) && decide (off < 0x140) && c.is SEQ_PSTAT_OPEN then c else new
    | .cd => if off = 0x44 ∧ bit w.val 16 ∧ bit w.mask 16 then new.set CD_DEMAND_PEAK (new.get CD_DEMAND_DEMAND) else new
    | _ => new

/-- The windows whose writes are journaled (Table 15-5). -/
def trackedWindow (b : Blk) : Bool := b = .tb || b = .wm || b = .ch || b = .js || b = .cd

/-- A journaled write is applied in a STANDBY or CATCHUP unit: the register at an address, the bits written and their value. -/
def Chip.applyReg (c : Chip) (addr mask val : Nat) : Chip :=
  match blockAt addr with
  | some (b, i) => if trackedWindow b then c.writeTracked b i (offIn b i addr) (fieldsAt b i addr) ⟨mask, val⟩ else c
  | none => c

/-! ### The commands with rows of their own -/

/-- POP of probe p (R243). -/
def execProbePop (t : Nat) (tnt : Fin 8) (p : Fin 8) (s : State) : Host.Outcome State Fault Refusal :=
  .next ((s.at_ t).onChip fun c => c.ownWrite tnt .wm 0 (0x300 + 0x20 * p.val) fun c =>
    (c.probePop p).jrn .reg [Blk.base .wm 0 + 0x300 + 0x20 * p.val, 2 ^ 16, 2 ^ 16])

/-- PEAK_CLR sets PEAK to DEMAND (R145). -/
def execPeakClr (t : Nat) (tnt : Fin 8) (s : State) : Host.Outcome State Fault Refusal :=
  .next ((s.at_ t).onChip fun c => c.ownWrite tnt .cd 0 0x44 fun c =>
    let c := c.sampleDemand
    (c.set CD_DEMAND_PEAK (c.get CD_DEMAND_DEMAND)).jrn .reg [Blk.base .cd 0 + 0x44, 2 ^ 16, 2 ^ 16])

end Sys2Proof.Machine
end

