-- ==== Sys2Proof/Machine/Apply.lean ====
section
/-!
DEFINITION. Sys2Proof/Machine/Apply.lean: the journal and the snapshot: what each entry does in the unit that receives it, and what each
snapshot section holds (R390, R391, R394, R395). The spec says what they carry; how it is laid out is the model's (assumption 30).
-/
namespace Sys2Proof.Machine

/-- The pairs that follow a list's first n numbers. -/
def pairsOf : List Nat → List (Nat × Nat)
  | a :: b :: xs => (a, b) :: pairsOf xs
  | _ => []

/-- Pairs as numbers. -/
def ofPairs (m : List (Nat × Nat)) : List Nat := m.flatMap fun e => [e.1, e.2]

/-- A sparse map from pairs. -/
def mapOf (d : Nat) (m : List (Nat × Nat)) : FMap Nat := m.foldl (fun a e => FMap.put d a e.1 e.2) []

/-- A number that may be missing, as n + 1 or 0. -/
def optNum : Option Nat → Nat
  | some n => n + 1
  | none => 0
def numOpt (n : Nat) : Option Nat := if n = 0 then none else some (n - 1)

/-! ### Entries of the journal (Table 15-5) -/

/-- RECORD: the record enters the stream with its own SEQ. A TRUNC gives its target its new END, and a HALT closes the stream. -/
def Chip.applyRecord (c : Chip) (keep : Bool) (r : Rec) : Chip :=
  let c := if r.kind = 6 then c.setEnd r.param r.stop else if keep then c.markPlaced r else c
  let c := (c.set SEQ_PSEQ_NEXT_SEQ r.seq).appendRec r keep
  let c := if bit r.flags 2 then (if r.isContent && !keep then c.bump SEQ_PLATE_DISCARDED else c.bump SEQ_PLATE_CLIPPED) else c
  if r.kind = 15 then ({ c with strm := { c.strm with closePt := some r.start } } : Chip).closeStream else c

/-- ALLOC: 1 an allocation as it stands now, 0 one that has been freed, 2 the generation of an index. -/
def Chip.applyAlloc (c : Chip) (a : List Nat) : Chip :=
  let st := c.store
  if arg a 0 = 2 then c.setStore { st with gens := FMap.put 0 st.gens (arg a 1) (arg a 2) }
  else
    let x := Alloc.ofNums (a.drop 1)
    let rest := st.allocs.filter fun y => y.index ≠ x.index
    if arg a 0 = 1 then c.setStore { st with allocs := rest ++ [x], gens := FMap.put 0 st.gens x.index x.gen }
    else c.setStore ({ st with allocs := rest, gens := FMap.put 0 st.gens x.index ((x.gen + 1) % 4096) }.dropCached x.handle)

/-- ROWMARK: the rows that a bar may render now. The first one after a CARRY says where the bar begins (R392, R395). -/
def Chip.applyRowmark (c : Chip) (k n0 count next : Nat) : Chip :=
  let b := c.bar k
  let b := if b.carryDue then { b with next := n0, carryDue := false } else b
  c.setBar k { b with marks := (b.marks.filter fun m => b.next < m.1 + m.2.1) ++ [(n0, count, next)] }

/-- CKPT: state, program counter, g1 to g31 and w0 to w7 of context 0. -/
def Chip.applyCkpt (c : Chip) (a : List Nat) : Chip :=
  let c := (c.setCtxState 0 (arg a 0)).jump 0 (arg a 1)
  let g := (List.range 31).foldl (fun m i => FMap.put 0 m (i + 1) (BitVec.ofNat 64 (arg a (2 + i)))) c.seq.g
  let w := (List.range 8).foldl (fun m i => FMap.put 0 m i (BitVec.ofNat 64 (arg a (33 + i)))) c.seq.w
  let c : Chip := { c with seq := { c.seq with g := g, w := w } }
  c.set SEQ_PCUR_CUR (arg a 33)

/-- DISP: a dispatch begins with its count, or ends. -/
def Chip.applyDisp (c : Chip) (e n count : Nat) (ends : Bool) : Chip :=
  let x := c.entry e
  if ends then c.setEntry e { x with runningIn := none }
  else ((c.setEntry e { x with runningIn := some n, begun := count }).set (SEQ_DISPA_PEND e) 0).set (SEQ_DISPB_COUNT e) 0

/-- LOOP: the trims of a bar from a row on, and the loop commit point (R168, R172). -/
def Chip.applyLoop (c : Chip) (k n g : Nat) (arr : FMap Nat) : Chip :=
  let b := c.bar k
  let ts := b.trims ++ [{ lgen := g, start := n, arr := arr }]
  let c := (c.setBar k { b with trims := ts.drop (ts.length - 256), stagedT := [] }).set (CH_LGEN_LGEN k) g
  { c with colour := { c.colour with lastBand := some (n / 64) } }

/-- Puts a band into the ledger of bar k, in place of the one with its index. -/
def Chip.putBand (c : Chip) (k : Nat) (x : Band) : Chip :=
  let b := c.bar k
  let bs := (b.bands.filter fun y => y.m ≠ x.m) ++ [x]
  c.setBar k { b with bands := bs.drop (bs.length - bandLimit) }

/-- BAND: the active unit's state of a band; what the band holds comes from this unit's own rendering (R159). -/
def Chip.applyBand (c : Chip) (k m lgen state : Nat) : Chip :=
  let y := match (c.bar k).bands.find? fun y => y.m = m && !y.old with
    | some y => y
    | none => { m := m }
  c.putBand k { y with lgen := lgen, mixed := state = 1, bad := state = 2, said := true }

/-- A band of section 7, as the sender's ledger holds it. -/
def Chip.adoptBand (c : Chip) (a : List Nat) : Chip :=
  c.putBand (arg a 0) { m := arg a 1, lgen := arg a 2, mixed := arg a 3 = 1, bad := arg a 4 = 1, lost := arg a 5 = 1, said := arg a 6 = 1,
                        settled := arg a 7, tag := (a.drop 8).take 15, ink := mapOf 0 (pairsOf (a.drop 23)) }

/-- CIVIL: offset, pending or not, pending value, lot (R323). -/
def Chip.applyCivilEntry (c : Chip) (a : List Nat) : Chip :=
  (((c.set TB_CIVOFS_OFS (arg a 0)).set TB_STAT_CPEND (arg a 1)).set TB_CIVPEND_PEND (arg a 2)).set TB_STAT_LOT (arg a 3)

/-- STAGE: the operation with its operands. -/
def applyStage (a : List Nat) (s : State) : State :=
  match arg a 0 with
  | 0 => loadTable (arg a 1) (arg a 2) (arg a 3) s
  | 1 => s.onChip (·.copyTable (arg a 1) (arg a 2))
  | 2 => s.onChip (·.claim ⟨arg a 1, arg a 2, arg a 3⟩ (arg a 4 = 1))
  | 3 => s.onChip (·.restoreFac (arg a 1) (arg a 2))
  | 4 => s.onChip fun c => (c.calSave (arg a 1) (arg a 2)).2
  | 5 => s.onChip fun c =>
      let x := c.stage.staged
      let c := c.setStaged { x with claims := x.claims.filter fun y => !staleClaim c y }
      (c.set SEQ_SCHK_RESULT (arg a 2)).setSstate (arg a 1)
  | _ => s.onChip fun c => (c.setStaged c.stage.active).setSstate ssCLEAN

/-- COMMIT: accepted with its c, waiting for its time, refused by its recheck, or abandoned. -/
def Chip.applyCommit (c : Chip) (a : List Nat) : Chip :=
  match arg a 0 with
  | 0 => (c.acceptCommit (arg a 2) (arg a 3 = 1)).set SEQ_SCGEN_CGEN (arg a 1)
  | 1 => c.committ (arg a 2)
  | 3 => c.conflict (arg a 1)
  | _ => (c.abandon).2

/-- RUNCTL: RUN, STOP (what it does stands in the entries that follow), the halted state, FIRE_ARM, LOAD_PROGRAM. -/
def applyRunctl (a : List Nat) (s : State) : State :=
  match arg a 0 with
  | 0 => s.onChip (·.startJob (arg a 1))
  | 1 => s
  | 2 => s.onChip (·.haltMark (arg a 1))
  | 3 => s.onChip fun c => { c with fire := { c.fire with armed := true } }
  | _ => match s.chip.store.find (arg a 1) with
    | some x => loadImage (imageAt s x (arg a 2)) s
    | none => s

/-! ### What only a snapshot carries (Table 15-6) -/

/-- Changes the active, staged or committed set. -/
def Chip.inSet (c : Chip) (which : Nat) (f : TSet → TSet) : Chip :=
  match which with
  | 0 => { c with stage := { c.stage with active := f c.stage.active } }
  | 1 => c.setStaged (f c.stage.staged)
  | _ => { c with stage := { c.stage with sched := c.stage.sched.map fun x => { x with set := f x.set } } }

def Chip.setWhich (c : Chip) : Nat → TSet
  | 0 => c.stage.active
  | 1 => c.stage.staged
  | _ => (c.stage.sched.map (·.set)).getD {}

/-- A table as numbers, its body apart. -/
def Table.nums (t : Table) : List Nat :=
  [(match t.src with | .powerUp => 0 | .image => 1 | .restored => 2), t.version, t.len, b2n t.fresh] ++ ofPairs t.geo
def Table.ofNums (a : List Nat) (body : List Byte) : Table :=
  { src := (match arg a 0 with | 0 => .powerUp | 1 => .image | _ => .restored), version := arg a 1, len := arg a 2, fresh := arg a 3 = 1,
    body := bodyOf body, geo := mapOf 0 (pairsOf (a.drop 4)) }

def GenInfo.nums (g : GenInfo) : List Nat := [g.gen, g.cpoint, b2n g.raised, b2n g.restored]
def GenInfo.ofNums (a : List Nat) : GenInfo :=
  { gen := arg a 0, cpoint := arg a 1, raised := arg a 2 = 1, restored := arg a 3 = 1 }

/-- The rest of the unit's condition: 0 the stream, 1 its live records, 2 its depths, 3 the generations, 4 a commit that waits, 5 the
staged set's state, 6 the loaded image, 7 a bar's trim reset, 8 the web's position, 9 a running dispatch, 11 a ledger band, 10 the halted state. -/
def Chip.applyCond (c : Chip) (a : List Nat) : Chip :=
  let x i := arg a (i + 1)
  let m := c.strm
  match arg a 0 with
  | 0 =>
    let c : Chip := { c with strm := { m with job := x 0 = 1, pitch := x 1, seed := x 2, closePt := numOpt (x 3), maxEnd := x 4,
                                              endPosted := x 5 = 1 } }
    ((((c.set SEQ_PSEQ_NEXT_SEQ (x 6)).set SEQ_PSTAT_OPEN (x 7)).set SEQ_PSTAT_PEAK (x 8)).set SEQ_PLATE_CLIPPED (x 9)).set
      SEQ_PLATE_DISCARDED (x 10)
  | 1 => { c with strm := { m with live := pairsOf (a.drop 1) } }
  | 2 => { c with strm := { m with depths := mapOf 0 (pairsOf (a.drop 1)) } }
  | 3 => { c with stage := { c.stage with cur := GenInfo.ofNums (a.drop 1), prev := GenInfo.ofNums (a.drop 5) } }
  | 4 =>
    let y : Sched := { set := {}, at_ := numOpt (x 0), c := x 1, nk := x 2, raised := x 3 = 1, reached := x 4, scpt := x 5, cal := x 6 = 1,
                       before := GenInfo.ofNums (a.drop 8) }
    { c with stage := { c.stage with sched := some y } }
  | 5 =>
    let c := c.inSet 0 fun s => { s with calib := { items := x 0 } }
    let c := c.inSet 1 fun s => { s with calib := { items := x 1 } }
    let c := c.inSet 2 fun s => { s with calib := { items := x 2 } }
    let c := ((c.setSstate (x 3)).set SEQ_SCPT_CPOINT (x 4)).set SEQ_SCHK_RESULT (x 5)
    (c.set SEQ_SSTAT_RAISED (x 6)).set SEQ_SSTAT_RAISES (x 7)
  | 6 => ({ c with seq := { c.seq with start := x 2 } }.set SEQ_STAT_IMG_LOADED (x 0)).set SEQ_IMGID_IMAGE_ID (x 1)
  | 7 => { c.setBar (x 0) { c.bar (x 0) with reset := numOpt (x 1), staleTo := x 2 } with colour := { c.colour with lastBand := numOpt (x 3) } }
  | 8 => { c with motion := { c.motion with ext0 := sgn 64 (x 0) } }
  | 9 => c.setEntry (x 0) { c.entry (x 0) with runningIn := numOpt (x 1), begun := x 2 }
  | 11 => c.adoptBand (a.drop 1)
  | _ => (c.set FS_STAT_HALTED (x 0)).set FS_STAT_CAUSE (x 1)

/-- What an entry does in the unit that receives it. -/
def applyItem (s : State) (e : JItem) : State :=
  let a := e.args
  match e.kind with
  | .jwrite => storeJ s (arg a 0) e.bytes
  | .dwrite => storeD s (arg a 0) e.bytes
  | .slot => s.onChip fun c =>
      { c with vd := { c.vd with slots := FMap.put {} c.vd.slots (arg a 0) (Slot.ofNums (a.drop 1) e.bytes) } }
  | .alloc => s.onChip (·.applyAlloc a)
  | .record => s.onChip (·.applyRecord (arg a 0 = 1) (Rec.ofNums (a.drop 1)))
  | .rowmark => s.onChip (·.applyRowmark (arg a 0) (arg a 1) (arg a 2) (arg a 3))
  | .carry => s.onChip fun c => c.setBar (arg a 0) { c.bar (arg a 0) with carry := (a.drop 1).map (sgn 16), carryDue := true }
  | .counter => s.onChip (·.set (SEQ_SCTR_VALUE (arg a 0)) (arg a 1))
  | .ckpt => s.onChip (·.applyCkpt a)
  | .disp => s.onChip (·.applyDisp (arg a 0) (arg a 1) (arg a 3) (arg a 2 = 1))
  | .stage => applyStage a s
  | .commit => s.onChip (·.applyCommit a)
  | .loop => s.onChip (·.applyLoop (arg a 0) (arg a 2) (arg a 3) (mapOf 32768 (pairsOf (a.drop 4))))
  | .band => s.onChip (·.applyBand (arg a 0) (arg a 1) (arg a 2) (arg a 3))
  | .reg => s.onChip (·.applyReg (arg a 0) (arg a 1) (arg a 2))
  | .civil => s.onChip (·.applyCivilEntry a)
  | .runctl => applyRunctl a s
  | .header => s.onChip fun c =>
      (c.forAll (List.range 16) fun c k => c.set (CH_LGEN_LGEN k) (arg a (3 + k))).set SEQ_SCGEN_CGEN (arg a 1)
  | .prog => { s with mem := { s.mem with prog := FMap.put 0 s.mem.prog (arg a 0) (BitVec.ofNat 64 (arg a 1)) } }
  | .entry => s.onChip fun c =>
      let i := arg a 0
      let c := ((c.set (SEQ_DISPA_EN i) (arg a 1)).set (SEQ_DISPA_PRIO i) (arg a 2)).set (SEQ_DISPA_ENTRY_PC i) (arg a 3)
      (c.set (SEQ_DISPB_CTX_MASK i) (arg a 4)).setEntry i { c.entry i with defined := arg a 5 = 1 }
  | .binding => s.onChip (·.set (SEQ_QBIND_CTX_MASK (arg a 0)) (arg a 1))
  | .table => s.onChip fun c => c.inSet (arg a 0) fun x =>
      let t := Table.ofNums (a.drop 3) e.bytes
      if arg a 1 = 0 then { x with bar := FMap.put {} x.bar (arg a 2) t } else { x with dev := FMap.put {} x.dev (arg a 2) t }
  | .claim => s.onChip fun c => c.inSet (arg a 0) fun x => { x with claims := x.claims ++ [⟨arg a 1, arg a 2, arg a 3⟩] }
  | .cond => s.onChip (·.applyCond a)

/-! ### What each section holds (Table 15-6) -/

/-- An item without bytes. -/
def item (k : JKind) (args : List Nat) : JItem := { kind := k, args := args }

/-- Section 1: the allocation table. -/
def sectAllocs (c : Chip) : List JItem :=
  c.store.gens.map (fun e => item .alloc [2, e.1, e.2]) ++ c.store.allocs.map fun x => item .alloc (1 :: x.nums)

/-- Section 2: the bytes of every allocated granule that are not zero. -/
def sectJob (s : State) : List JItem :=
  (s.mem.job.filter fun e => (s.chip.store.at_ e.1 1).isSome).map fun e => { kind := .jwrite, args := [e.1], bytes := [e.2] }

/-- Section 3: the placement stream and the field slots. -/
def sectStream (c : Chip) : List JItem :=
  let m := c.strm
  c.vd.slots.map (fun e => { kind := .slot, args := e.1 :: e.2.nums, bytes := e.2.chars }) ++
  m.recs.map (fun r => item .record (1 :: r.nums)) ++
  [item .cond [0, b2n m.job, m.pitch, m.seed, optNum m.closePt, m.maxEnd, b2n m.endPosted, c.get SEQ_PSEQ_NEXT_SEQ,
     c.get SEQ_PSTAT_OPEN, c.get SEQ_PSTAT_PEAK, c.get SEQ_PLATE_CLIPPED, c.get SEQ_PLATE_DISCARDED],
   item .cond (1 :: ofPairs m.live), item .cond (2 :: ofPairs m.depths)]

/-- Section 4: program image, dispatch table, queue bindings. -/
def sectProgram (s : State) : List JItem :=
  let c := s.chip
  (s.mem.prog.filter fun e => e.1 < 0x7C000).map (fun e => item .prog [e.1, e.2.toNat]) ++
  ((List.range 128).filter fun i => !c.is (SEQ_DISPA_RES i)).map (fun i => item .entry [i, c.get (SEQ_DISPA_EN i),
    c.get (SEQ_DISPA_PRIO i), c.get (SEQ_DISPA_ENTRY_PC i), c.get (SEQ_DISPB_CTX_MASK i), b2n (c.entry i).defined]) ++
  (List.range 64).map (fun q => item .binding [q, c.get (SEQ_QBIND_CTX_MASK q)]) ++
  [item .cond [6, c.get SEQ_STAT_IMG_LOADED, c.get SEQ_IMGID_IMAGE_ID, c.seq.start]]

/-- The claims of a set. -/
def sectClaims (c : Chip) (which : Nat) : List JItem :=
  (c.setWhich which).claims.map fun x => item .claim [which, x.ctx, x.kind, x.num]

/-- Section 5: D-space, serial counters, the checkpoint, dispatches under way, claims. -/
def sectData (s : State) : List JItem :=
  let c := s.chip
  s.mem.data.map (fun e => { kind := .dwrite, args := [e.1], bytes := [e.2] }) ++
  (List.range 16).map (fun i => item .counter [i, c.get (SEQ_SCTR_VALUE i)]) ++
  [item .ckpt ([c.get (SEQ_CSTAT_STATE 0), c.get (SEQ_CPC_PC 0)] ++
    (List.range 31).map (fun i => (c.g 0 (i + 1)).toNat) ++ (List.range 8).map fun i => (c.w 0 i).toNat)] ++
  ((List.range 128).filter fun e => (c.entry e).runningIn.isSome).map (fun e =>
    item .cond [9, e, optNum (c.entry e).runningIn, (c.entry e).begun]) ++
  [item .cond [10, c.get FS_STAT_HALTED, c.get FS_STAT_CAUSE]]

/-- The tables of a set. -/
def sectTables (c : Chip) (which : Nat) : List JItem :=
  let x := c.setWhich which
  x.bar.map (fun e => { kind := .table, args := [which, 0, e.1] ++ e.2.nums, bytes := e.2.body.read 0 e.2.len }) ++
  x.dev.map fun e => { kind := .table, args := [which, 1, e.1] ++ e.2.nums, bytes := e.2.body.read 0 e.2.len }

/-- Section 6: the sets, a commit that waits, generations, trim history. -/
def sectSets (c : Chip) : List JItem :=
  let g := c.stage
  (match g.sched with
   | some x => [item .cond ([4, optNum x.at_, x.c, x.nk, b2n x.raised, x.reached, x.scpt, b2n x.cal] ++ x.before.nums)]
   | none => []) ++
  sectTables c 0 ++ sectTables c 1 ++ sectTables c 2 ++ sectClaims c 0 ++ sectClaims c 1 ++ sectClaims c 2 ++
  [item .cond (3 :: (g.cur.nums ++ g.prev.nums)),
   item .cond [5, g.active.calib.items, g.staged.calib.items, (c.setWhich 2).calib.items, c.sstate, c.get SEQ_SCPT_CPOINT,
     c.get SEQ_SCHK_RESULT, c.get SEQ_SSTAT_RAISED, c.get SEQ_SSTAT_RAISES]] ++
  (List.range 16).flatMap fun k =>
    let b := c.bar k
    b.trims.map (fun t => item .loop ([k, 0, t.start, t.lgen] ++ ofPairs t.arr)) ++
      [item .cond [7, k, optNum b.reset, b.staleTo, optNum c.colour.lastBand]]

/-- Section 7: the ledger bands held. -/
def sectLedger (c : Chip) : List JItem :=
  (List.range 16).flatMap fun k => ((c.bar k).bands.filter fun y => !y.old).map fun y =>
    item .cond ([11, k, y.m, y.lgen, b2n y.mixed, b2n y.bad, b2n y.lost, b2n y.said, y.settled] ++ (y.tag ++ List.replicate 15 0).take 15 ++ ofPairs y.ink)

/-- Section 8: the fields that a journaled register write stores, and the web's position. -/
def sectRegs (c : Chip) : List JItem :=
  ([(Blk.tb, 0), (.wm, 0), (.ch, 0), (.js, 0), (.cd, 0)].flatMap fun b =>
    ((windowFields b.1 b.2).filter fun r => r.acc = .rw && 0x40 ≤ r.f.base - b.1.base b.2).map fun r =>
      item .reg [r.f.base, (2 ^ r.f.width - 1) * 2 ^ r.f.lo, c.get r.f * 2 ^ r.f.lo]) ++
  [item .cond [8, c.get WM_X_X]]

/-- The contents of section n; section 10 lists lengths and checksums, which the model takes as an operand of SNAPSHOT_ADOPT. -/
def section_ (s : State) (n : Nat) : List JItem :=
  let c := s.chip
  match n with
  | 0 => [item .header ([unitId, c.get SEQ_SCGEN_CGEN, 11] ++ (List.range 16).map fun k => c.get (CH_LGEN_LGEN k))]
  | 1 => sectAllocs c
  | 2 => sectJob s
  | 3 => sectStream c
  | 4 => sectProgram s
  | 5 => sectData s
  | 6 => sectSets c
  | 7 => sectLedger c
  | 8 => sectRegs c
  | 9 => [item .civil [c.get TB_CIVOFS_OFS, c.get TB_STAT_CPEND, c.get TB_CIVPEND_PEND, c.get TB_STAT_LOT]]
  | _ => []

/-- The web's position as it is received: the distance to this unit's own infeed count (R230). -/
def Chip.placeItem (c : Chip) (e : JItem) : JItem :=
  if e.kind = .cond ∧ arg e.args 0 = 8 then { e with args := [8, uns 64 (c.getS (WM_EXT_EXT c.infeed) - arg e.args 1)] } else e

/-! ### Adopting a snapshot (R395) -/

/-- The order in which the sections are put in place: the registers, then the others in theirs. -/
def adoptOrder : List Nat := [8, 0, 1, 2, 3, 4, 5, 6, 7, 9, 10]

/-- The items of a received section. -/
def Twin.sectItems (x : Twin) (n : Nat) : List JItem := ((x.snap.find? fun e => e.1 = n).map (·.2)).getD []

/-- The journal received runs from JSEQ 0 without a gap. -/
def journalWhole : Nat → List JEntry → Bool
  | _, [] => true
  | n, e :: es => e.jseq = n && journalWhole (n + 1) es

/-- The snapshot takes the place of what the unit held; the journal is applied over it from JSEQ 0. -/
def adoptSnapshot (s : State) : State :=
  let x := s.chip.twin
  let s := freshState s
  let s := adoptOrder.foldl (fun s n => (x.sectItems n).foldl applyItem s) s
  let s := x.kept.foldl (fun s e => applyItem s e.item) s
  let last := match x.kept.getLast? with
    | some e => e.jseq
    | none => 2 ^ 32 - 1
  s.onChip fun c =>
    let tw := c.twin
    let c : Chip := { c with twin := { tw with adopted := true, snap := [], part := [], kept := [], echoed := [] } }
    (((c.set TW_JSEQ_JSEQ last).set TW_JACK_JACK last).resetDeff).refreshX.checkJoined

end Sys2Proof.Machine
end

