-- ==== Sys2Proof/Machine/Twin.lean ====
section
/-!
DEFINITION. Sys2Proof/Machine/Twin.lean: the twin controller: heartbeats and roles, the rope link, the journal and snapshots as they
travel, row hashes and the referee, hub lead, and codec jobs as they end (R137, R138, R144, R185, R308, R311, R377 to R406).
-/
namespace Sys2Proof.Machine

/-! ### Heartbeats (R384, R385) -/

/-- ROPED_EN was high when PWRGOOD rose (R378). -/
def Chip.roped (c : Chip) : Bool := c.is SYS_STRAP_ROPED_EN

/-- The role as heartbeats carry it (Table 15-4). -/
def Chip.beatRole (c : Chip) : Nat := if !c.roped then 0 else if c.twin.deciding then 4 else c.role

/-- FLAGS of a belay frame. -/
def Chip.beatFlags (c : Chip) : Nat :=
  b2n ((c.twin.handoff.map (·.failreq)) = some true) + 2 * c.get TW_STAT_HANDOFF + 4 * c.get TW_STAT_ROPE_UP +
    8 * c.get TW_STAT_CLAIMING

/-- CRC-16 of a belay frame over its first 14 octets. -/
def belayCrc (bs : List Byte) : Nat := crcMsb 16 0x1021 0xFFFF (bs.take 14)

/-- The 16 octets of the next belay frame. -/
def Chip.belayOctets (c : Chip) : List Byte :=
  let bs := le 1 0x48 ++ le 1 c.beatRole ++ le 1 c.beatFlags ++ le 1 0 ++ le 4 unitId ++ le 4 c.twin.epoch ++ le 2 c.twin.hbSeq
  bs ++ le 2 (belayCrc bs)

/-- Both transmitters run from PWRGOOD on, until a power-down stops them (R444, R448, R450). -/
def Chip.transmits (c : Chip) : Bool := c.health.powerGood && !c.health.silent

/-- Every 10 µs a heartbeat leaves on each path that is up; it shows no provisional DT (R308): what stands in its place is free. -/
def Chip.heartbeat (c : Chip) : Chip :=
  if !c.transmits then c
  else
    let c := c.emit .belay 0 [] c.belayOctets
    let tw := c.twin
    let c : Chip := { c with twin := { tw with hbSeq := (tw.hbSeq + 1) % 65536 } }
    if c.roped && c.is TW_STAT_ROPE_UP then
      let (dt, c) := if c.provisional then c.fresh (2 ^ 80) else (c.dt, c)
      c.emit .ropeHb 0 [dt, c.get TB_RATE_NOW, c.beatRole, c.twin.epoch, c.get TW_JSEQ_JSEQ, unitId]
    else c

def execHeartbeatSend (t : Nat) (s : State) : Host.Outcome State Fault Refusal := .next ((s.at_ t).onChip (·.heartbeat))

/-- An armed injection that names source `src` of the path's window discards the next heartbeat or frame on it (R403). -/
def Chip.injected (c : Chip) (b : Blk) (srcs : List Nat) : Bool × Chip :=
  match c.armedInj b 0 with
  | some (s, e) =>
    if srcs.contains s && e = 0xFFFF then (true, (c.set (FINJ_ARM b 0) 0).raise b 0 { src := s, inj := true }) else (false, c)
  | none => (false, c)

/-! ### Deciding the role (R381) -/

/-- The role is decided: ACTIVE. -/
def Chip.decideActive (c : Chip) : Chip :=
  let tw := c.twin
  ({ c with twin := { tw with deciding := false } } : Chip).setRole 1

/-- The role is decided: CATCHUP, which the unit has read as since the start; the change from start-up is reported like any (R380). -/
def Chip.decideCatchup (c : Chip) (reason : Nat) (dt stuck : Bool) : Chip :=
  let tw := c.twin
  (({ c with twin := { tw with deciding := false, needDt := dt, stuck := stuck } } : Chip).set TW_STAT_REASON reason).raise .tw 0 { src := 13 }

/-- What a heartbeat of a roped unit that is still deciding tells it. No frame carries the peer's ROPE_PREF: a free value
(assumption 1). -/
def Chip.hearWhileDeciding (c : Chip) (role id : Nat) : Chip :=
  if role = 0 ∨ (c.is TW_EXPECT_EXPECT ∧ id ≠ c.get TW_EXPECT_EXPECT) then (c.decideCatchup 7 false true).raise .tw 0 { src := 12 }
  else if role = 1 then c.decideCatchup 1 true false
  else if role = 4 then
    let (theirs, c) := c.fresh 2
    let mine := c.get SYS_STRAP_ROPE_PREF
    if mine = theirs then (if unitId < id then c.decideActive else c.decideCatchup 1 false false)
    else if mine = 1 then c.decideActive else c.decideCatchup 1 false false
  else c

/-! ### Counting a heartbeat (R385, R388, R389, R396) -/

/-- The heartbeat is the peer's: the identity known so far, or any that TW_EXPECT allows while none is known or the known peer has
failed. -/
def Chip.fromPeer (c : Chip) (id : Nat) : Bool :=
  id ≠ unitId && (c.get TW_PEER_PEER = id || !c.is TW_PEER_PEER || c.twin.peerFailed || c.twin.deciding) &&
    (c.twin.deciding || !c.is TW_EXPECT_EXPECT || c.get TW_EXPECT_EXPECT = id)

/-- The peer was lost during catch-up and is heard again: the snapshot starts again (R396). -/
def Chip.peerBack (c : Chip) : Chip :=
  if c.twin.lost then
    let tw := c.twin
    ({ c with twin := { tw with lost := false } } : Chip).dropSnapshot
  else c

/-- A heartbeat counts on a path. -/
def Chip.countBeat (c : Chip) (rope : Bool) (role id epoch : Nat) : Chip :=
  if !c.roped || !c.fromPeer id then c
  else
    let tw := c.twin
    let tw := if rope then { tw with ropeAt := some c.ns, ropeTold := false } else { tw with belayAt := some c.ns, belayTold := false }
    let c : Chip := { c with twin := { tw with peerRole := some role, peerEpoch := epoch, peerFailed := false } }
    let c := ((c.set TW_PEER_PEER id).set (if rope then TW_STAT_ROPE_HEARD else TW_STAT_BELAY_HEARD) 1).set TW_STAT_CLAIMHOLD 0
    let c := c.peerBack
    let c := if c.twin.deciding then c.hearWhileDeciding role id else c
    if c.role = 1 ∧ role = 1 ∧ !c.handingOver ∧ c.yields id epoch then c.yieldTo else c

/-- A belay frame as received: whole, of the right type and CRC (R384). -/
def Chip.belayFrame (c : Chip) (bs : List Byte) : Chip :=
  if bs.length ≠ 16 || fieldAt bs 0 1 ≠ 0x48 || fieldAt bs 14 2 ≠ belayCrc bs then c
  else
    let (inj, c) := c.injected .tw [0]
    if inj then c else c.countBeat false (fieldAt bs 1 1) (fieldAt bs 4 4) (fieldAt bs 8 4)

def execBelayFrame (t : Nat) (octets : List Byte) (s : State) : Host.Outcome State Fault Refusal :=
  .next ((s.at_ t).onChip fun c => c.belayFrame octets)

/-- DT is loaded from the peer, with the delay that the frame took (R308). -/
def Chip.ropeDelay (c : Chip) : Int := (c.get RL_RTT_RTT : Int) / 2 + c.getS RL_CFG_RLADJ

/-- A delay in ps as DT units. -/
def psDt (ps : Int) : Int := halfUp (ps * 65536) 1000

/-- The peer-time loop (R308, R311, R402). -/
def Chip.followTime (c : Chip) (b : RopeBeat) : Chip :=
  let e : Int := (b.dt : Int) + psDt c.ropeDelay - c.dt
  let tw := c.twin
  if tw.needDt then
    let h := c.health
    ({ c with dt := ((c.dt : Int) + e).toNat, twin := { tw with needDt := false },
              health := { h with upNs := h.upNs + (c.ns - h.startNs), startNs := ((c.dt : Int) + e).toNat / 65536 },
              time := { c.time with rateMs := ((c.dt : Int) + e).toNat / 65536 / 1000000 } } : Chip).set TB_STAT_DTSRC 1
  else if tw.stuck ∧ c.get TW_STAT_REASON = 6 then c
  else if -(100 * 65536) ≤ e then
    let target := clampI (-10000) 10000 (b.rate + halfUp e (20 * 65536))
    ({ c with time := { c.time with followTarget := target } } : Chip).set TB_STAT_FOLLOW 1
  else
    let c := (c.set TB_STAT_FOLLOW 0).raise .tb 0 { src := 3 }
    let c := c.toCatchup 6
    let tw := c.twin
    { c with twin := { tw with stuck := true } }

/-- After a silence, or once the link is up again, a STANDBY peer gets the entries it has not applied, if they are still held
(R404). -/
def Chip.resendJournal (c : Chip) (applied : Nat) : Chip :=
  let tw := c.twin
  let c : Chip := { c with twin := { tw with resend := false } }
  let es : List JEntry := tw.kept.filter fun (e : JEntry) => decide ((e.jseq + 2 ^ 32 - applied - 1) % 2 ^ 32 < 2 ^ 31)
  if es.isEmpty then c
  else c.ropeSend .ropeJrn (jrnArgs es) (es.flatMap fun (e : JEntry) => e.item.bytes) (es.getLast?.map fun (e : JEntry) => e.jseq)

/-- The peer has taken the whole snapshot: its request to join, which no frame carries, is taken from its next heartbeat; the
first pass of each bar then journals its carry line (R395). -/
def Chip.joinAsked (c : Chip) : Chip :=
  let tw := c.twin
  if tw.snapSent && !tw.asked && (tw.sent.all fun f => f.kind ≠ .ropeSnap) && (c.store.jobs.all fun j => !j.twin) then
    let due (b : Bar) : Bar := { b with carryDue := true }
    let c : Chip := { c with twin := { tw with asked := true } }
    c.forAll (List.range 16) fun c k => c.setBar k (due (c.bar k))
  else c

/-- A rope heartbeat counts (R311, R385). -/
def Chip.ropeHb (c : Chip) (b : RopeBeat) : Chip :=
  let (inj, c) := c.injected .rl [0, 1]
  if inj || !c.is TW_STAT_ROPE_UP then c
  else if !c.roped || !c.fromPeer b.unit then c
  else
    let c := c.countBeat true b.role b.unit b.epoch
    if c.role = 1 then
      let c := if c.twin.resend ∧ b.role = 2 then c.resendJournal b.jseq else c
      if b.role = 3 then c.joinAsked else c
    else if (c.role = 2 ∨ c.role = 3) ∧ b.role = 1 then c.followTime b
    else c

def execRopeHb (t : Nat) (b : RopeBeat) (s : State) : Host.Outcome State Fault Refusal :=
  .next ((s.at_ t).onChip fun c => c.ropeHb b)

/-! ### Silence (R385, R388, R396) -/

/-- A path has been silent for 100 µs: never heard, or its latest heartbeat is that old. -/
def Chip.silentFor (c : Chip) (at' : Option Nat) (ns : Nat) : Bool :=
  match at' with
  | some a => decide (a + ns ≤ c.ns)
  | none => true

/-- One path is silent while the other still counts heartbeats: source 0 for the belay pair; the rope link reports its own loss
(R382). -/
def Chip.pathSilence (c : Chip) (rope : Bool) : Chip :=
  let tw := c.twin
  if !rope && !tw.belayTold && tw.belayAt.isSome && c.silentFor tw.belayAt 100000 && !c.silentFor tw.ropeAt 100000 then
    ({ c with twin := { tw with belayTold := true } } : Chip).raise .tw 0 { src := 0 }
  else if rope && !tw.ropeTold && tw.ropeAt.isSome && c.silentFor tw.ropeAt 100000 && !c.silentFor tw.belayAt 100000 then
    let c : Chip := { c with twin := { tw with ropeTold := true } }
    if c.is TW_STAT_ROPE_UP then c.forAll [96, 97, 98, 99] Chip.enterLock else c
  else c

def execPathSilence (t : Nat) (rope : Bool) (s : State) : Host.Outcome State Fault Refusal :=
  .next ((s.at_ t).onChip fun c => c.pathSilence rope)

/-- The latest heartbeat on a path is more than 30 µs old. -/
def execPeerHeardExpiry (t : Nat) (rope : Bool) (s : State) : Host.Outcome State Fault Refusal :=
  .next ((s.at_ t).onChip fun c =>
    if c.silentFor (if rope then c.twin.ropeAt else c.twin.belayAt) 30001 then
      c.set (if rope then TW_STAT_ROPE_HEARD else TW_STAT_BELAY_HEARD) 0
    else c)

/-- Peer failure is recognised. -/
def Chip.peerFailure (c : Chip) : Chip :=
  let tw := c.twin
  if !c.roped || tw.deciding || tw.peerFailed || tw.peerRole.isNone || !c.silentFor tw.belayAt 100000 ||
      !c.silentFor tw.ropeAt 100000 then c
  else
    let c : Chip := { c with twin := { tw with peerFailed := true, resend := true } }
    let c := c.raise .tw 0 { src := 1 }
    if c.role = 2 ∧ ¬ c.is TW_STAT_CLAIMHOLD then c.startClaim 0
    else if c.role = 3 ∧ ¬ c.twin.stuck then
      let tw := c.twin
      let c : Chip := { c with twin := { tw with lost := true, needDt := false } }
      (c.set TW_STAT_REASON 8).raise .tw 0 { src := 5, detail := c.get TW_STAT_SECTIONS }
    else c

def execPeerFailure (t : Nat) (s : State) : Host.Outcome State Fault Refusal := .next ((s.at_ t).onChip (·.peerFailure))

/-- 2 s from PWRGOOD without anything decisive; DT starts 2 ms after PWRGOOD (Table 17-6). -/
def execRoleDecisionTimeout (t : Nat) (s : State) : Host.Outcome State Fault Refusal :=
  .next ((s.at_ t).onChip fun c =>
    if c.roped && c.twin.deciding && decide (c.twin.startNs + 1998000000 ≤ c.ns) then c.decideActive else c)

/-! ### Rope frames (R383) -/

/-- A frame of sequence number `rseq` arrives: true when it is the next in order. Every frame is answered with the highest RSEQ received
in order; one that comes too early is not taken and waits for its resend. -/
def Chip.rxRope (c : Chip) (rseq : Nat) : Bool × Chip :=
  if !c.roped || !c.is TW_STAT_ROPE_UP then (false, c)
  else
    let (inj, c) := c.injected .rl [0, 1]
    if inj then (false, c)
    else
      let tw := c.twin
      if rseq = (tw.rxSeq + 1) % 65536 then
        (true, ({ c with twin := { tw with rxSeq := rseq } } : Chip).emit .ropeAck 0 [rseq])
      else (false, c.emit .ropeAck 0 [tw.rxSeq])

/-- An ACK: every frame up to its RSEQ has arrived, and the journal entries they carried need not be kept. -/
def Chip.ropeAck (c : Chip) (rseq : Nat) : Chip :=
  let tw := c.twin
  let done := tw.sent.filter fun (f : RopeFrame) => decide ((rseq + 65536 - f.rseq) % 65536 < 32768)
  let rest := tw.sent.filter fun (f : RopeFrame) => !decide ((rseq + 65536 - f.rseq) % 65536 < 32768)
  let c : Chip := { c with twin := { tw with sent := rest } }
  match (done.filterMap (·.jseq)).getLast? with
  | some j =>
    let kept := c.twin.kept.filter fun (e : JEntry) => !decide ((j + 2 ^ 32 - e.jseq) % 2 ^ 32 < 2 ^ 31)
    ({ c with twin := { c.twin with kept := kept } } : Chip).set TW_JACK_JACK j
  | none => c

def execRopeAck (t : Nat) (rseq : Nat) (s : State) : Host.Outcome State Fault Refusal :=
  .next ((s.at_ t).onChip fun c =>
    if !c.is TW_STAT_ROPE_UP then c
    else
      let (inj, c) := c.injected .rl [0, 1]
      if inj then c else c.ropeAck rseq)

/-- A frame has not been acknowledged in 20 µs: it goes again, and after the third resend the link goes down. -/
def Chip.ropeResend (c : Chip) (rseq : Nat) : Chip :=
  match c.twin.sent.find? fun (f : RopeFrame) => f.rseq = rseq && decide (f.sent + 20000 ≤ c.ns) with
  | none => c
  | some f =>
    if f.tries < 3 then
      let g : RopeFrame := { f with sent := c.ns, tries := f.tries + 1 }
      let tw := c.twin
      let c : Chip := { c with twin := { tw with sent := tw.sent.map fun x => if x.rseq = rseq then g else x } }
      ((c.emit f.kind 0 (f.rseq :: f.args) f.bytes).bump RL_CNT_RESENDS).raise .rl 0 { src := 1 }
    else c.forAll [96, 97, 98, 99] Chip.enterLock

def execRopeResendTimeout (t : Nat) (rseq : Nat) (s : State) : Host.Outcome State Fault Refusal :=
  .next ((s.at_ t).onChip fun c => c.ropeResend rseq)

/-- OFFER: a STANDBY unit makes a claim round with its token (R399). -/
def execRopeOffer (t : Nat) (rseq token : Nat) (_hrow : List Nat) (s : State) : Host.Outcome State Fault Refusal :=
  .next ((s.at_ t).onChip fun c =>
    let (new, c) := c.rxRope rseq
    if new ∧ c.role = 2 then c.startClaim token else c)

/-! ### Row hashes and the referee (R397, R398) -/

/-- The standby's verdict (Table 15-7): 0 STANDBY_WRONG, 1 ACTIVE_WRONG, 2 UNDECIDED. It goes to the active unit in a VERDICT frame. -/
def Chip.judgeRow (c : Chip) (bar row verdict : Nat) : Chip :=
  let c := c.ropeSend .ropeVerdict [bar, row, verdict]
  match verdict with
  | 0 =>
    let tw := c.twin
    let ats := tw.wrongAt.filter (fun a => c.ns < a + 10000000000) ++ [c.ns]
    let c := ({ c with twin := { tw with wrongAt := ats } }.bump TW_VERD_SWRONG).raise .tw 0 { src := 6, detail := packRow (some row) none (some bar) }
    if 3 ≤ ats.length then c.toCatchup 5 else c
  | 1 => c.bump TW_VERD_AWRONG
  | _ => ((c.bump TW_VERD_UNDEC).raise .tw 0 { src := 8, detail := packRow (some row) none (some bar) }).toCatchup 5

/-- The referee can run for a row: the spare is TESTING, the row's generation is in force in its bar, its pass is kept. -/
def Chip.canReferee (c : Chip) (h : RowHash) : Bool :=
  let b := c.bar h.bar
  c.hasSpare h.bar && c.get (BE_SCR_SPARE_STATE h.bar) = 0 && !b.lent && (c.genFor b.next).gen = h.cgen &&
    c.twin.passes.any fun p => p.bar = h.bar && p.first ≤ h.row && h.row < p.first + p.count

/-- A hash is compared with the unit's own complete row. -/
def Chip.compareHash (c : Chip) (h : RowHash) (x : RowSlot) : Chip :=
  if arg x.tag 0 ≠ h.cgen ∨ x.lgen ≠ h.lgen then
    (c.raise .tw 0 { src := 9, detail := packRow (some h.row) none (some h.bar) }).toCatchup 5
  else if x.checksum = h.chk then c
  else
    let c := c.bump TW_HASH_MISMATCH
    if c.canReferee h then
      let c := (c.setBar h.bar { c.bar h.bar with lent := true }).set (BE_SCR_SPARE_STATE h.bar) 1
      let tw := c.twin
      { c with twin := { tw with referee := tw.referee ++ [(h, x.checksum)] } }
    else (c.bump TW_VERD_NONE).judgeRow h.bar h.row 2

/-- One received hash: compared now, or kept until the row is complete. -/
def Chip.rowHash (c : Chip) (h : RowHash) : Chip :=
  if c.role ≠ 2 then c
  else
    let b := c.bar h.bar
    match b.ring.find? fun x => x.n = h.row with
    | some x => if x.complete then c.compareHash h x else { c with twin := { c.twin with hashes := c.twin.hashes ++ [h] } }
    | none => if b.next ≤ h.row then { c with twin := { c.twin with hashes := c.twin.hashes ++ [h] } } else c

def execRopeHash (t : Nat) (rseq : Nat) (hs : List RowHash) (s : State) : Host.Outcome State Fault Refusal :=
  .next ((s.at_ t).onChip fun c =>
    let (new, c) := c.rxRope rseq
    if new then c.forAll hs Chip.rowHash else c)

/-- The spare slice has re-rendered the row with checksum `chk`: it returns to its own work, and the referee decides. -/
def Chip.refereeDone (c : Chip) (bar row chk : Nat) : Chip :=
  match c.twin.referee.find? fun e => e.1.bar = bar && e.1.row = row with
  | none => c
  | some (h, own) =>
    let tw := c.twin
    let c : Chip := { c with twin := { tw with referee := tw.referee.filter fun e => !(e.1.bar = bar && e.1.row = row) } }
    let c := (c.setBar bar { c.bar bar with lent := false }).set (BE_SCR_SPARE_STATE bar) (if c.hasSpare bar then 0 else 2)
    c.judgeRow bar row (if chk = h.chk then 0 else if chk = own then 1 else 2)

def execRefereeDone (t : Nat) (bar : Fin 16) (row chk : Nat) (s : State) : Host.Outcome State Fault Refusal :=
  .next ((s.at_ t).onChip fun c => c.refereeDone bar row chk)

/-- The referee's renderings that bar k's spare was lent for have ended without a checksum: their verdict is NONE (R193, R398). -/
def Chip.dropReferee (c : Chip) (k : Nat) : Chip :=
  let tw := c.twin
  let mine (e : RowHash × Nat) : Bool := e.1.bar = k
  let c : Chip := { c with twin := { tw with referee := tw.referee.filter fun e => !mine e } }
  c.forAll (tw.referee.filter mine) fun c e => (c.bump TW_VERD_NONE).judgeRow k e.1.row 2

/-- A fault of a working slice ends a lent rendering too (R193); that its verdict is then NONE is DEDUCED (assumption 35). -/
def execSliceFault (t : Nat) (k : Fin 16) (slice : Fin 25) (s : State) : Host.Outcome State Fault Refusal :=
  .next ((s.at_ t).onChip fun c =>
    let d := c.sliceFault k slice
    if (c.bar k).lent && !(d.bar k).lent then d.dropReferee k else d)

/-- A verdict reaches the active unit (Table 15-7). -/
def execRopeVerdict (t : Nat) (rseq bar row : Nat) (verdict : Fin 3) (s : State) : Host.Outcome State Fault Refusal :=
  .next ((s.at_ t).onChip fun c =>
    let (new, c) := c.rxRope rseq
    if !new || c.role ≠ 1 then c
    else
      let o (n : Nat) : Occ := { src := n, detail := packRow (some row) none (some bar) }
      match verdict with
      | 0 => c.bump TW_VERD_SWRONG
      | 1 => (c.bump TW_VERD_AWRONG).raise .tw 0 (o 7)
      | 2 => (c.bump TW_VERD_UNDEC).raise .tw 0 (o 8))

/-! ### The journal as it arrives (R391, R395, R404) -/

/-- The size of an entry in the journal part of the twin area (assumption 30). -/
def itemSize (e : JItem) : Nat := 16 + 8 * e.args.length + e.bytes.length

/-- A CATCHUP unit keeps the entries from JSEQ 0 on until it adopts the snapshot; a gap or a full journal part discards everything. -/
def Chip.storeEntry (c : Chip) (j : Nat) (e : JItem) : Chip :=
  let tw := c.twin
  let want := match tw.kept.getLast? with
    | some l => l.jseq + 1
    | none => 0
  if j = want then
    if 2 ^ 30 < (tw.kept.map fun (x : JEntry) => itemSize x.item).foldl (· + ·) (itemSize e) then c.failCatchup 3
    else ({ c with twin := { tw with kept := tw.kept ++ [{ jseq := j, item := e }] } } : Chip).set TW_JACK_JACK j
  else if want ≠ 0 ∧ want < j then c.failCatchup 3
  else c

/-- A unit that mirrors applies the entry that follows the last one applied; one that has been applied is ignored, a gap takes a
STANDBY unit to CATCHUP. -/
def applyEntry (s : State) (e : Nat × JItem) : State :=
  let c := s.chip
  if c.role = 2 ∨ (c.role = 3 ∧ c.twin.adopted) then
    let d := (e.1 + 2 ^ 32 - c.get TW_JSEQ_JSEQ) % 2 ^ 32
    if d = 1 then (applyItem (s.onChip (·.set TW_JACK_JACK e.1)) e.2).onChip (·.set TW_JSEQ_JSEQ e.1)
    else if d = 0 ∨ 2 ^ 31 ≤ d then s
    else s.onChip fun c => if c.role = 2 then c.toCatchup 3 else c.failCatchup 3
  else if c.role = 3 ∧ ¬ c.twin.stuck then s.onChip fun c => c.storeEntry e.1 e.2
  else s

def ropeJrn (rseq : Nat) (es : List (Nat × JItem)) (s : State) : State :=
  let (new, c) := s.chip.rxRope rseq
  let s : State := { s with chip := c }
  if new then (es.foldl applyEntry s).onChip (·.checkJoined) else s

def execRopeJrn (t : Nat) (rseq : Nat) (es : List (Nat × JItem)) (s : State) : Host.Outcome State Fault Refusal :=
  .next (ropeJrn rseq es (s.at_ t))

/-! ### Snapshots (R144, R394, R395) -/

/-- Data of a snapshot section arrives in a CATCHUP unit. -/
def Chip.ropeSnap (c : Chip) (sect : Nat) (items : List JItem) (e : SnapEnd) : Chip :=
  if c.role ≠ 3 ∨ c.twin.stuck ∨ c.twin.adopted then c
  else
    let tw := c.twin
    let part := tw.part ++ items.map c.placeItem
    match e with
    | .more => { c with twin := { tw with part := part } }
    | .complete =>
      let snap := tw.snap ++ [(sect, part)]
      ({ c with twin := { tw with part := [], snap := snap } } : Chip).set TW_STAT_SECTIONS snap.length
    | _ => c.failCatchup (c.get TW_STAT_REASON)

/-- The job that unpacks a section from the receive ring: it begins with the section's first frame and ends with its last (R134, R144). -/
def Chip.unpackJob (c : Chip) (sect : Nat) (e : SnapEnd) : Chip :=
  let st := c.store
  let mine (j : CodecJob) : Bool := j.twin && j.op = .decompress
  if e = .more ∧ st.jobs.any (fun j => mine j && j.soff = sect) then c
  else
    let jobs := st.jobs.filter fun j => !mine j
    if e = .more then
      c.setStore { st with jobs := jobs ++ [{ id := st.nextJob, op := .decompress, twin := true, kind := 1, soff := sect,
                                              running := decide (st.running.length < 4) }], nextJob := st.nextJob + 1 }
    else c.setStore { st with jobs := jobs }

def execRopeSnap (t : Nat) (rseq sect : Nat) (items : List JItem) (e : SnapEnd) (s : State) : Host.Outcome State Fault Refusal :=
  .next ((s.at_ t).onChip fun c =>
    let (new, c) := c.rxRope rseq
    if new then (if c.role = 3 ∧ !c.twin.stuck then c.unpackJob sect e else c).ropeSnap sect items e else c)

/-- Queues the codec job that packs section n, while the job queue has room (R134, R144). -/
def Chip.packSection (c : Chip) (n : Nat) : Option Chip :=
  let st := c.store
  if 256 ≤ st.waiting.length then none
  else some (c.setStore { st with jobs := st.jobs ++ [{ id := st.nextJob, op := .compress, twin := true, kind := 1, soff := n }],
                                  nextJob := st.nextJob + 1 })

/-- The active unit starts a snapshot: journaling begins at JSEQ 0, and codec jobs pack the eleven sections, one after the other (R135,
R144). A full job queue takes none: the snapshot then waits for the next start. -/
def Chip.snapshotStart (c : Chip) : Chip :=
  if c.role = 1 && c.twin.peerRole = some 3 && c.peerHeard && !c.twin.peerFailed && c.is TW_STAT_ROPE_UP && !c.twin.snapSent then
    let tw := c.twin
    match (c.setStore { c.store with jobs := c.store.jobs.filter fun j => !j.twin }).packSection 0 with
    | some c =>
      let c : Chip := { c with twin := { tw with snapSent := true, asked := false, mirroring := true, kept := [], fresh := [] } }
      c.set TW_JSEQ_JSEQ (2 ^ 32 - 1)
    | none => c
  else c

def execSnapshotStart (t : Nat) (s : State) : Host.Outcome State Fault Refusal :=
  .next ((s.at_ t).onChip (·.snapshotStart))

/-- Every section has decoded, the trailer matches, and the journal is whole from JSEQ 0. -/
def Chip.mayAdopt (c : Chip) (trailerOk : Bool) : Bool :=
  c.role = 3 && !c.twin.stuck && !c.twin.lost && !c.twin.adopted && trailerOk &&
    (List.range 11).all (fun n => c.twin.snap.any fun e => e.1 = n) && journalWhole 0 c.twin.kept

def execSnapshotAdopt (t : Nat) (trailerOk : Bool) (s : State) : Host.Outcome State Fault Refusal :=
  let s := s.at_ t
  .next (if s.chip.mayAdopt trailerOk then adoptSnapshot s else s)

/-- RECATCH: what has been received is discarded and catch-up starts again (R406). -/
def execRecatch (t : Nat) (tnt : Fin 8) (s : State) : Host.Outcome State Fault Refusal :=
  .next ((s.at_ t).onChip fun c => c.ownWrite tnt .tw 0 0x50 fun c => if c.role = 3 then c.dropSnapshot else c)

/-! ### Hub lead (R400) -/

/-- Hub lead of every enabled bar over the past 1 ms, in whole µs; a bar without a row in the window reads all ones. -/
def Chip.hubLead (c : Chip) : Chip :=
  let ks := c.enabledBars
  let c := c.forAll ks fun c k =>
    let v := FMap.get 0 c.twin.leads k
    c.set (TW_HLEAD_HLEAD k) (if v = 0 then 0xFFFF else min 0xFFFF ((v - 1) / 1000))
  let low := ks.any fun k => decide (c.get (TW_HLEAD_HLEAD k) < 280)
  let c : Chip := { c with twin := { c.twin with leads := [] } }
  if low && (c.twin.peerRole = some 1 || c.twin.peerRole = some 2) && c.peerHeard then c.raise .tw 0 { src := 10 } else c

def execHubLeadWindow (t : Nat) (s : State) : Host.Outcome State Fault Refusal := .next ((s.at_ t).onChip (·.hubLead))

/-! ### A row is complete (R185, R397) -/

/-- The active unit sends the row's hash; a STANDBY unit compares the hashes that have come for it. -/
def Chip.hashRow (c : Chip) (k n : Nat) : Chip :=
  match (c.bar k).ring.find? fun x => x.n = n && x.complete with
  | none => c
  | some x =>
    if c.role = 1 ∧ c.twin.mirroring then c.ropeSend .ropeHash [k, n, arg x.tag 0, x.lgen, x.checksum]
    else if c.role = 2 then
      let tw := c.twin
      let mine := tw.hashes.filter fun h => h.bar = k && h.row = n
      let c : Chip := { c with twin := { tw with hashes := tw.hashes.filter fun h => !(h.bar = k && h.row = n) } }
      c.forAll mine fun c h => if c.role = 2 then c.compareHash h x else c
    else c

/-- An SRAM bank of a bar engine works on a row: a corrected cell is a notice; a faulty one brings in the bank's redundant rows, and a bank
that uses them already has no spare, so the region quarantines the bar engine (R27, R28; sources 4 to 6, assumption 11). -/
def Chip.sramCheck (c : Chip) (k : Nat) : Option (Nat × Bool) → Chip
  | none => c.inject .be k [4, 5, 6]
  | some (b, false) => c.raise .be k { src := 4, acted := 0, detail := b }
  | some (b, true) =>
    if (c.bar k).banks.contains b then (c.raise .be k { src := 6, detail := b }).quarantine .be k
    else (c.setBar k { c.bar k with banks := (c.bar k).banks ++ [b] }).raise .be k { src := 5, detail := b }

def execRowRendered (t : Nat) (k : Fin 16) (n : Nat) (out : SliceOut) (s : State) : Host.Outcome State Fault Refusal :=
  .next ((s.at_ t).onChip fun c =>
    if (c.bar k).ring.any (fun x => x.n = n && !x.complete) && !c.store.stalls k n && c.passRuns k n && c.barWorks k then
      let c := (c.inject .be k [1, 2]).sramCheck k out.sram
      if c.barWorks k then (c.rowComplete k n out.hits).hashRow k n else c
    else c)

/-! ### Codec jobs (R136 to R138, R144) -/

/-- A section's bytes before compression: the spec names what a section holds, not its byte order (assumption 34). -/
def sectionBytes (items : List JItem) : List Byte :=
  items.flatMap fun e => le 1 (jkindCode e.kind) ++ le 4 e.args.length ++ le 4 e.bytes.length ++ e.args.flatMap (le 8) ++ e.bytes

/-- A section fails: it is marked aborted in the ring, and the snapshot starts again (R137, R144). -/
def Chip.abortSnapshot (c : Chip) (sect : Nat) : Chip :=
  let c := (c.setStore { c.store with jobs := c.store.jobs.filter fun k => !k.twin }).ropeSend .ropeSnap [sect, 2]
  { c with twin := { c.twin with snapSent := false, mirroring := false } }

/-- A packing job of the twin controller ends: its section leaves as a KIND 1 stream with its KEY blocks, and the next is packed; a
section whose job fails is aborted (R130, R137, R144). -/
def twinJobDone (j : CodecJob) (ok : Bool) (bad : List Nat) (s : State) : State :=
  if !ok then s.onChip (·.abortSnapshot j.soff)
  else
    let stream := (compressUnits 1 (sectionBytes (section_ s j.soff)) bad).flatten
    s.onChip fun c =>
      let c := (c.setStore { c.store with jobs := c.store.jobs.filter fun k => k.id ≠ j.id }).ropeSend .ropeSnap [j.soff, 1] stream
      if 10 ≤ j.soff then c else (c.packSection (j.soff + 1)).getD (c.abortSnapshot (j.soff + 1))

/-- The running job with a number. -/
def Store.runningJob (st : Store) (id : Nat) : Option CodecJob := st.running.find? fun j => j.id = id

/-- Ring space has come: the job goes on (R136). -/
def execCodecStallEnd (t job : Nat) (s : State) : Host.Outcome State Fault Refusal :=
  .next ((s.at_ t).onChip fun c => c.setStore (c.store.mapJob job fun j =>
    if j.running && j.twin then { j with resumed := some c.ns } else j))

/-- A RING stall has lasted CD_STALLTO (R138); space that came in the same instant wins. -/
def execCodecStallTimeout (t job since : Nat) (s : State) : Host.Outcome State Fault Refusal :=
  let s := s.at_ t
  .next (match s.chip.store.runningJob job with
    | some j =>
      let late := decide (since + 1000 * s.chip.get CD_STALLTO_STALLTO ≤ s.chip.ns)
      let resumed := match j.resumed with | some a => decide (since ≤ a) | none => false
      if j.twin && j.op = .compress && late && !resumed then twinJobDone j false [] s else s
    | none => s)

/-- A codec job ends (R125, R133 to R137). -/
def execCodecJobDone (t job : Nat) (r : Ecc) (bad : List Nat) (vfail : Bool) (s : State) : Host.Outcome State Fault Refusal :=
  let s := s.at_ t
  .next (match s.chip.store.runningJob job with
    | some j =>
      if j.twin then
        if j.op = .compress then twinJobDone j (r ≠ .uncorrectable && !vfail) bad (s.onChip fun c => (c.jobStoreRead r).verifier bad vfail)
        else s
      else if j.op = .sealTile then sealJobDone j r s else hostJobDone j r bad vfail s
    | none => s)

end Sys2Proof.Machine
end

