-- ==== Sys2Proof/Machine/Health.lean ====
section
/-!
DEFINITION. Sys2Proof/Machine/Health.lean: junction temperature, throttle, line signals, supplies, power domains, start-up and
shutdown, self-test, and the commands that write fault registers (R195, R270, R403, R407 to R467).
-/
namespace Sys2Proof.Machine

/-- The health block's state goes through f. -/
def Chip.onHealth (c : Chip) (f : Health → Health) : Chip := { c with health := f c.health }

/-! ### Self-test records (R428 to R431) -/

/-- Results of a block record (Table 16-8). -/
def brPASS : Nat := 0
def brFAIL : Nat := 1
def brINCOMPLETE : Nat := 2
def brSKIP_VDD : Nat := 3
def brSKIP_REF : Nat := 4
def brSKIP_ABORT : Nat := 5
def brNONE : Nat := 6

/-- The blocks of region n. -/
def regionBlocks (n : Nat) : List (Blk × Nat) :=
  (Blk.rg, n) :: (List.range 4).map (fun j => (Blk.be, 4 * n + j)) ++ (List.range 6).map fun j => (Blk.lq, 6 * n + j)

/-- The blocks of CR that a full run tests: those outside islands I42, I50 and I51. -/
def crBlocks : List (Blk × Nat) :=
  [(.seq, 0), (.qm, 0), (.hp, 0), (.hp, 1), (.hp, 2), (.hp, 3), (.pcie, 0), (.ch, 0), (.tw, 0), (.hl, 0), (.nv, 0)]

/-- The blocks of wave w (Table 16-5). -/
def waveBlocks (w : Nat) (full : Bool) : List (Blk × Nat) :=
  match w with
  | 0 => regionBlocks 0 ++ regionBlocks 1
  | 1 => regionBlocks 2 ++ regionBlocks 3
  | _ => [(.mr, 0), (.hbm, 0), (.hbm, 1), (.js, 0), (.tc, 0), (.cd, 0)] ++ if full then crBlocks else []

/-- The regions RGn of wave w. -/
def waveRegions : Nat → List Nat
  | 0 => [0, 1]
  | 1 => [2, 3]
  | _ => []

/-- The record of a block with a result and no test behind it. -/
def plainRec (c : Chip) (b : Blk × Nat) (result vmin vmax : Nat) : BlockRec :=
  { code := b.1.code, inst := b.2, result := result, temp := c.getS HL_THSTAT_THETA_J, vmin := vmin, vmax := vmax, dtEnd := c.ns }

/-- The record of a block after its wave (R422, R423, R430): a signature counts only for the full pattern count. -/
def waveRec (c : Chip) (plog : Nat) (e : WaveEnd) (xs : List BlockTest) (vmin vmax : Nat) (b : Blk × Nat) : BlockRec :=
  match e with
  | .skipVdd => plainRec c b brSKIP_VDD vmin vmax
  | .skipRef => plainRec c b brSKIP_REF vmin vmax
  | _ =>
    match xs.find? fun x => x.code = b.1.code && x.inst = b.2 with
    | none => plainRec c b brINCOMPLETE vmin vmax
    | some x =>
      let whole := decide (e = .ran) && decide (x.count = 2 ^ plog)
      let good := decide (x.sig = Config.goldenSignature x.code x.inst plog)
      let result := if !whole then brINCOMPLETE else if good && decide (x.cells = 0) then brPASS else brFAIL
      { plainRec c b result vmin vmax with complete := whole, isMatch := good, count := x.count, sig := x.sig, cells := x.cells }

/-- The latest record set. -/
def Health.latest (h : Health) : Option RecordSet := h.sets.getLast?

/-- Writes the record set of the run under way, which ends it (R428): a refused or failed write raises source 21 and leaves the set
without END. HL_BSTAT and HL_BSET show the latest set. -/
def Chip.writeSet (c : Chip) (stored : Bool) : Chip :=
  match c.health.bist with
  | none => c
  | some r =>
    let ok := stored && c.writeTemp
    let (slot, sseq) := match c.health.latest with
      | some x => ((x.slot + 1) % 4096, (x.sseq + 1) % 2 ^ 32)
      | none => (0, 1)
    let recs := if r.kind = 2 then r.recs ++ crBlocks.map fun b => plainRec c b brNONE 0 0 else r.recs
    let x : RecordSet := { slot := slot, kind := r.kind, plog := r.plog, sseq := sseq,
                           qsn := if r.kind = 0 then 0 else c.get HL_BSTAT_QSN, dtStart := r.dtStart, ended := ok, recs := recs }
    let count (p : Nat → Bool) : Nat := min 255 (recs.filter fun y => p y.result).length
    let c := c.onHealth fun h => { h with bist := none, sets := (h.sets.filter fun y => y.slot ≠ slot) ++ [x],
                                          restAt := if r.kind = 2 then some c.ns else h.restAt }
    let c := (c.set HL_BSTAT_STATE 0).set HL_BSTAT_WAVE 0
    let c := ((c.set HL_BSET_SSEQ sseq).set HL_BSTAT_FAILED (count (· = brFAIL))).set HL_BSTAT_NOTPASS
      (count fun y => decide (brINCOMPLETE ≤ y) && decide (y ≤ brSKIP_ABORT))
    if ok then c else c.raise .hl 0 { src := 21 }

/-- VDD_CORE and REFCLK let a wave run (R422): `ref` is the mean of REFCLK in ppm of what SSC makes of 100 MHz. -/
def supplyGood (vcore : Nat) (ref : Option Int) : Bool :=
  decide (720 ≤ vcore) && decide (vcore ≤ 800) && (match ref with
    | some p => decide (-300 ≤ p) && decide (p ≤ 300)
    | none => false)

/-- The record sets allow a quick start (R431). -/
def Health.quickSet (h : Health) : Bool :=
  match h.latest with
  | some x => x.kind = 1 && x.ended && x.quickOk && decide (20 ≤ x.plog) && decide (x.qsn < 15) && !x.recs.isEmpty &&
      x.recs.all fun y => y.result = brPASS
  | none => false

/-! ### What a wave leaves (R194, R424) -/

/-- The slices of bar k after a test that found `bad` ones: live fences that pass return, those of self-test only after a full run. -/
def Chip.refitSlices (c : Chip) (k bad : Nat) (full : Bool) : Chip :=
  let b := c.bar k
  let old := c.get (BE_FENCE_FENCED k)
  let held := if full then 0 else old &&& b.bistFence
  let f := (bad ||| held) % 2 ^ 25
  let n := 25 - popCount 25 f
  let s := c.get (BE_SCR_SPARE k)
  let c := (c.setBar k { b with bistFence := (if full then 0 else b.bistFence) ||| bad }).set (BE_FENCE_FENCED k) f
  if n = 25 then
    if s < 25 then c
    else
      let back := leastOr 24 (setBits 25 old)
      let c := ((c.set (BE_SCR_WORKING k) 24).set (BE_SCR_SPARE k) back).set (BE_SCR_SPARE_STATE k) 0
      c.setBar k { c.bar k with spareOk := false, lent := false }
  else
    let c := (c.noSpare k).set (BE_SCR_WORKING k) n
    if n < 20 then c.quarantine .be k else c

/-- What the test of one block leads to: a fence of its cells, a quarantine, or, after a full run that passes it, the end of one. -/
def Chip.afterTest (full : Bool) (c : Chip) (e : (Blk × Nat) × BlockRec × Bool) : Chip :=
  let ((b, i), r, noSpare) := e
  if !r.complete then c
  else
    let c := if b = .be then c.refitSlices i r.cells full else c
    if r.result = brPASS then (if full then c.set (PWR_QUAR b i) 0 else c)
    else if noSpare || (r.cells = 0 && !r.isMatch) then c.quarantine b i else c

/-- Render data of region n returns to its power-up content (R424). -/
def Chip.clearRegion (c : Chip) (n : Nat) : Chip :=
  let bare (b : Bar) : Bar := { b with ring := [], carry := [], pass := none, lastOut := 24, spareOk := false }
  let c := c.forAll ((List.range 4).map (4 * n + ·)) fun c k => c.setBar k (bare (c.bar k))
  c.forAll ((List.range 24).map (24 * n + ·)) fun c l => c.setLane l (c.lane l).quiet

/-- The enabled lanes of region n that are not fenced leave SERVICE, or hunt for lock again. -/
def Chip.regionLanes (c : Chip) (n : Nat) (on : Bool) : Chip :=
  let ls := ((List.range 24).map (24 * n + ·)).filter c.laneEn
  if on then c.forAll (ls.filter fun l => c.laneState l = lsOFF) Chip.enterLock
  else c.forAll (ls.filter fun l => c.laneState l ≠ lsFENCED) Chip.laneOff

/-- Committed tables of bars whose restore fails its CRC return to those of R154: source 20 (R424, R446). -/
def Chip.restoreBars (c : Chip) (bad : List Nat) : Chip :=
  let plain (x : TSet) : TSet := { x with bar := FMap.keep (fun i => !bad.contains (i / 8)) x.bar }
  let g := c.stage
  let c : Chip := { c with stage := { g with active := plain g.active, staged := plain g.staged } }
  let c := c.forAll bad fun c k => c.setBar k { c.bar k with trims := [], stagedT := [] }
  c.checked .hl 0 { src := 20, cell := leastOr 0xFFFF bad } (!bad.isEmpty)

/-- Wave w of run r has come to its end: records, consequences, re-initialisation. -/
def Chip.endWave (c : Chip) (r : BistRun) (w : Nat) (e : WaveEnd) (xs : List BlockTest) (vmin vmax : Nat) : Chip :=
  let full := r.kind ≠ 2
  let e := if r.aborted && e = .ran then .stopped else e
  let es := (waveBlocks w full).map fun b => (b, waveRec c r.plog e xs vmin vmax b,
    (xs.any fun x => x.code = b.1.code && x.inst = b.2 && x.noSpare))
  let rest := if e = .stopped then ((List.range 3).drop (w + 1)) else []
  let later := rest.flatMap fun v => (waveBlocks v full).map fun b => plainRec c b brSKIP_ABORT vmin vmax
  let r : BistRun := { r with recs := r.recs ++ es.map (fun x => x.2.1) ++ later }
  let last := decide (e = .stopped) || decide (2 ≤ w)
  let c := (c.onHealth fun h => { h with bist := some r }).set HL_BSTAT_STATE (if last then 3 else 2)
  let c := if last then c else c.set HL_BSTAT_WAVE (w + 1)
  let c := c.forAll es (Chip.afterTest full)
  let failed := es.filter fun x => x.2.1.result = brFAIL
  let lost := failed.filter fun x => x.2.2 || (x.2.1.cells = 0 && !x.2.1.isMatch)
  let fenced := failed.filter fun x => x.2.1.cells ≠ 0
  let det (l : List ((Blk × Nat) × BlockRec × Bool)) : Nat := match l with
    | x :: _ => x.1.1.code + 256 * x.1.2
    | [] => 0
  let os : List Occ :=
    (if lost.isEmpty then [] else [{ src := 16, acted := 2, detail := det lost }]) ++
    (if fenced.isEmpty then [] else [{ src := 17, detail := det fenced }]) ++
    (if e = .skipVdd ∨ e = .skipRef then [{ src := 18 }] else []) ++ (if e = .stopped then [{ src := 19 }] else [])
  let c := c.raiseAll .hl 0 os
  let c := if e = .ran then c.inject .hl 0 [16, 17] else c
  let regions := waveRegions w ++ rest.flatMap waveRegions
  let c := c.forAll (waveRegions w) Chip.clearRegion
  let c := if w = 2 then c.setStore { c.store with lines := [] } else c
  if full then c else c.forAll regions fun c n => c.regionLanes n true

def execBistWaveEnd (t : Nat) (e : WaveEnd) (blocks : List BlockTest) (vmin vmax : Nat) (s : State) :
    Host.Outcome State Fault Refusal :=
  .next ((s.at_ t).onChip fun c => match c.health.bist with
    | some r => if c.get HL_BSTAT_STATE = 2 then c.endWave r (c.get HL_BSTAT_WAVE) e blocks vmin vmax else c
    | none => c)

/-! ### Standby rest (R425 to R427) -/

/-- The unit may rest (R425). -/
def Chip.mayRest (c : Chip) : Bool :=
  c.runs && c.get HL_PSTAT_STATE = 2 && !c.is SEQ_PSTAT_OPEN && c.store.jobs.isEmpty && decide (c.sstate ≤ ssPASSED) &&
    c.health.bist.isNone

/-- Rest begins: the tables are saved, the lanes of the tested regions leave SERVICE, and wave A starts. -/
def Chip.startRest (c : Chip) : Chip :=
  let c := c.onHealth fun h => { h with bist := some { kind := 2, plog := c.get HL_BCFG_PLOG, dtStart := c.ns } }
  (c.forAll (List.range 4) fun c n => c.regionLanes n false).startWaves

def execRest (t : Nat) (tnt : Fin 8) (s : State) : Host.Outcome State Fault Refusal :=
  .next ((s.at_ t).onChip fun c => c.ownWrite tnt .hl 0 0x184 fun c => if c.mayRest then c.startRest else c)

/-- Idle for REST_IDLE minutes, and no REST set for 8 h. -/
def Chip.restDue (c : Chip) : Bool :=
  let idle := max c.health.idleSince c.hosts.lastB
  c.is HL_BCFG_REST_AUTO && decide (idle + 60000000000 * c.get HL_BCFG_REST_IDLE ≤ c.ns) &&
    (match c.health.restAt with
      | some a => decide (a + 28800000000000 ≤ c.ns)
      | none => true)

def execRestAuto (t : Nat) (s : State) : Host.Outcome State Fault Refusal :=
  .next ((s.at_ t).onChip fun c => if c.mayRest && c.restDue then c.startRest else c)

def execAbort (t : Nat) (tnt : Fin 8) (s : State) : Host.Outcome State Fault Refusal :=
  .next ((s.at_ t).onChip fun c => c.ownWrite tnt .hl 0 0x184 (·.abortRest))

/-- The latest set no longer allows a quick start. -/
def Chip.noQuick (c : Chip) : Chip :=
  c.onHealth fun h => match h.sets.getLast? with
    | some x => { h with sets := h.sets.dropLast ++ [{ x with quickOk := false }] }
    | none => h

def execNoquick (t : Nat) (tnt : Fin 8) (s : State) : Host.Outcome State Fault Refusal :=
  .next ((s.at_ t).onChip fun c => c.ownWrite tnt .hl 0 0x184 (·.noQuick))

/-- The tested regions are restored, the REST set is written, rest ends. -/
def execRestEnd (t : Nat) (bad : List (Fin 16)) (stored : Bool) (s : State) : Host.Outcome State Fault Refusal :=
  .next ((s.at_ t).onChip fun c => match c.health.bist with
    | some r =>
      if r.kind = 2 ∧ c.get HL_BSTAT_STATE = 3 then (c.restoreBars (bad.map (·.val))).writeSet stored else c
    | none => c)

/-! ### Losing power (R444, R448, R450) -/

/-- Register fields that PD0 keeps while PD1 to PD7 are off: the fault latches, the timebase, the health block, the straps. -/
def pd0Key (k : Nat) : Bool :=
  let a := k / 128
  let off := a % 0x10000
  (decide (a < 0x8000000) && decide (0x10 ≤ off) && decide (off < 0x40)) || a / 0x10000 = 8 || a / 0x10000 = 14 || a / 0x10000 = 0

/-- Everything outside the fields `keep` and the NOR is lost. -/
def powerLost (keep : Nat → Bool) (s : State) : State :=
  let c := s.chip
  let g := c.stage
  { s with
    mem := {},
    chip := { regs := FMap.keep keep c.regs, dt := c.dt, free := c.free, wire := c.wire,
              stage := { bankA := g.bankA, bankB := g.bankB },
              hosts := {}, faults := c.faults, time := c.time, health := c.health } }

/-- A roped unit without a role reads CATCHUP with reason START (R449). -/
def Chip.startRole (c : Chip) : Chip := if c.roped then c.set TW_STAT_ROLE 3 else c

/-- The transmitters stop and PD1 to PD7 turn off; STATE then reads st. -/
def powerDown (st : Nat) (s : State) : State :=
  let s := powerLost pd0Key s
  s.onChip fun c =>
    let c := c.onHealth fun h => { h with bist := none, steps := 0, step6At := none, window := [], powerReq := [], silent := true,
                                          slow := false }
    ((c.set HL_PSTAT_DOMAIN_ON 1).set HL_PSTAT_STATE st).startRole

/-! ### Start-up (R308, R381, R431, R449) -/

/-- The straps and what PD0 remembers of the previous run, and the thermal levels. -/
def startKey (k : Nat) : Bool := k / 128 = 0x40 || k / 128 = 0xE0040

/-- The user calibration of the bank in force is used (R271, R309, R371). -/
def Chip.useBank (c : Chip) : Chip :=
  let b := c.stage.bank
  let c := (c.showBank.useLanes b.lanes).startLanes b.lanes
  let c := c.set TB_CFG_SSC b.ssc
  if b.portlat.isEmpty then c
  else c.forAll (List.range 4) fun c p =>
    (c.set (TB_PORTLAT_TXLAT p) (FMap.get 0 b.portlat (2 * p))).set (TB_PORTLAT_RXLAT p) (FMap.get 0 b.portlat (2 * p + 1))

/-- The start-up sequence of Table 17-6, up to the BIST waves or, in a quick start, to READY. -/
def startUp (quick : Bool) (s : State) : State :=
  let s := powerLost startKey s
  s.onChip fun c =>
    let h := c.health
    let new : Health := { sets := h.sets, jtag := h.jtag }
    let trims := (List.range 104).foldl (fun m i => FMap.put 0 m i (Config.factory (500 + i))) []
    let c : Chip := { c with dt := 0, time := { trims := trims }, faults := {}, health := new }
    let c := ((c.set HL_PSTAT_DOMAIN_ON (if c.roped then 0xFF else 0x7F)).set HL_THSTAT_THETA_J 0).set HL_THSTAT_SENSOR 0
    let c : Chip := { c with twin := { c.twin with deciding := c.roped } }
    let c := c.startRole.useBank
    let c : Chip := { c with seq := { c.seq with resident := true } }
    let c := if c.roped then c.forAll [96, 97, 98, 99] Chip.enterLock else c.driveOutputs
    let c := if c.is HL_THSTAT_PREV_PWRFAIL then c.raise .hl 0 { src := 12 } else c
    let c := c.set HL_BSET_SSEQ ((h.latest.map (·.sseq)).getD 0)
    if quick then (c.set HL_BSTAT_FULLSTART 0).set HL_BSTAT_QSN ((h.latest.map (·.qsn)).getD 0 + 1)
    else
      let c := ((c.set HL_BSTAT_FULLSTART 1).set HL_BSTAT_QSN 0).raise .hl 0 { src := 22 }
      (c.onHealth fun h => { h with bist := some { kind := 0, plog := c.get HL_BCFG_PLOG, dtStart := 0 } }).startWaves

def execPwrgoodRise (t : Nat) (ftm roped pref : Bool) (vcore : Nat) (ref : Option Int) (s : State) :
    Host.Outcome State Fault Refusal :=
  let s := s.at_ t
  .next (if s.chip.health.powerGood then s
    else
      let quick := !ftm && supplyGood vcore ref && s.chip.health.quickSet
      startUp quick (s.onChip fun c =>
        ((c.set SYS_STRAP_FTM (b2n ftm)).set SYS_STRAP_ROPED_EN (b2n roped)).set SYS_STRAP_ROPE_PREF (b2n pref)))

/-- Start-up can end: the power-on BIST is over, the role is decided and DT readable. -/
def Chip.startDone (c : Chip) : Bool :=
  c.health.powerGood && !c.health.silent && c.get HL_PSTAT_STATE = 1 && !c.twin.deciding && !c.twin.needDt &&
    (c.health.bist.isNone || c.get HL_BSTAT_STATE = 3)

/-- The HL_PSTAT word. -/
def Chip.pstat (c : Chip) : Nat :=
  c.get HL_PSTAT_STATE * 2 ^ 28 + c.get HL_PSTAT_DOMAIN_ON * 2 ^ 16 + c.get HL_PSTAT_STARTMS

/-- READY: STARTMS counts from PWRGOOD, 2 ms before DT starts; θ_REF becomes θ_J (R270). -/
def Chip.ready (c : Chip) (stored : Bool) : Chip :=
  let c := c.writeSet stored
  let ms := 2 + (c.health.upNs + (c.ns - c.health.startNs)) / 1000000
  let th := c.getS HL_THSTAT_THETA_J
  let c := ((c.set HL_PSTAT_STATE 2).set HL_PSTAT_STARTMS (min 65535 ms)).set HL_RCAL_THREF (uns 8 (halfUp th 16))
  let c := c.onHealth fun h => { h with thetaRef := th }
  c.event 1 60 0x0600 c.pstat

def execStartupReady (t : Nat) (stored : Bool) (s : State) : Host.Outcome State Fault Refusal :=
  .next ((s.at_ t).onChip fun c => if c.startDone then c.ready stored else c)

/-- PWRGOOD falls (R448): HALT where this unit prints without a STANDBY peer; then every domain is in reset. A NOR write stops. -/
def powerFall (s : State) : State :=
  let s := s.onChip fun c => if c.runs ∧ ¬ c.peerStandby then c.sendHalt else c
  let shut := s.chip.health.silent && s.chip.health.shutAt.isSome
  let s := powerLost (fun k => k / 128 = 0xE0040) s
  s.onChip fun c =>
    let new : Health := { sets := c.health.sets, jtag := c.health.jtag, powerGood := false, silent := true }
    let c : Chip := { c with dt := 0, time := {}, faults := {}, health := new }
    let c := ((c.set HL_THSTAT_WARN 0).set HL_THSTAT_THROT 0).set HL_THSTAT_PREV_SHUT (b2n shut)
    (c.latchRs HL_THSTAT_PREV_PWRFAIL).set HL_PSTAT_DOMAIN_ON 0

def execPwrgoodFall (t : Nat) (s : State) : Host.Outcome State Fault Refusal :=
  let s := s.at_ t
  .next (if s.chip.health.powerGood then powerFall s else s)

/-- REFCLK stops: loss of lock in the clock generators (R416, R463); the REFOUT outputs stop (R464). -/
def execRefclkLoss (t : Nat) (s : State) : Host.Outcome State Fault Refusal :=
  .next ((s.at_ t).onChip fun c =>
    let c := c.forAll (setBits 6 c.health.refRun) fun c n => c.emit .refout n [0]
    (c.onHealth fun h => { h with refRun := 0 }).raise .sys 0 { src := 2 })

/-- The outputs of LS_REFOUT EN start or stop (R464). -/
def Chip.refout (c : Chip) (en : Nat) : Chip :=
  let old := c.health.refRun
  let c := (c.set LS_REFOUT_EN en).onHealth fun h => { h with refRun := en }
  c.forAll ((List.range 6).filter fun n => bit old n ≠ bit en n) fun c n => c.emit .refout n [b2n (bit en n)]

def execRefoutEnable (t : Nat) (tnt : Fin 8) (en : BitVec 6) (s : State) : Host.Outcome State Fault Refusal :=
  .next ((s.at_ t).onChip fun c => c.ownWrite tnt .ls 0 0x44 (·.refout en.toNat))

/-! ### Orderly shutdown (R450) -/

/-- A write of SHUTDOWN: ignored while a stream is open and no STANDBY peer can take over, and during rest; an ACTIVE unit with a
STANDBY peer hands over first. -/
def Chip.shutdown (c : Chip) : Chip :=
  let alone := c.runs && !c.peerStandby
  if c.get HL_PSTAT_STATE ≠ 2 then c
  else if (alone && c.is SEQ_PSTAT_OPEN) || (c.health.bist.any fun r => r.kind = 2) then c.raise .hl 0 { src := 14 }
  else match c.twin.handoff with
    | some h => { c with twin := { c.twin with handoff := some { h with forShutdown := true } } }
    | none => if c.peerStandby then c.startHandoff true else c.beginShutdown

def execShutdown (t : Nat) (tnt : Fin 8) (s : State) : Host.Outcome State Fault Refusal :=
  .next ((s.at_ t).onChip fun c => c.ownWrite tnt .hl 0 0x54 (·.shutdown))

/-- The shutdown's NOR write and BIST are over. -/
def Chip.shutOver (c : Chip) : Bool :=
  c.get HL_PSTAT_STATE = 3 && !c.is NV_STAT_BUSY && (c.health.bist.isNone || c.get HL_BSTAT_STATE = 3)

def execShutdownDone (t : Nat) (ok : Bool) (s : State) : Host.Outcome State Fault Refusal :=
  let s := s.at_ t
  .next (if s.chip.shutOver then
    powerDown 4 (s.onChip fun c =>
      let c := c.writeSet ok
      c.event 1 60 0x0601 (c.get HL_BSET_SSEQ))
  else s)

/-! ### Junction temperature and hardware shutdown (R436 to R438, R444, R447) -/

/-- The readings of one sample: 0x0960 and true for a broken sensor (R437). -/
def judged (temps : List (Option Int)) : List (Int × Bool) :=
  (List.range 24).map fun i => match temps.getD i none with
    | some v => if -880 ≤ v ∧ v ≤ 2400 then (v, false) else (0x960, true)
    | none => (0x960, true)

/-- The greatest reading and its sensor, the lowest on a tie. -/
def hottest (xs : List (Int × Bool)) : Int × Nat :=
  (xs.foldl (fun (a : (Int × Nat) × Nat) x => (if a.2 = 0 ∨ a.1.1 < x.1 then (x.1, a.2) else a.1, a.2 + 1)) ((0, 0), 0)).1

/-- Set value, clear value (1/16 °C) and the run that clears of a level: 0 WARN, 1 THROT, 2 SHUT (Table 17-1). -/
def levelSet : Nat → Int
  | 0 => 1520 | 1 => 1680 | _ => 1888
def levelClear : Nat → Int
  | 0 => 1440 | 1 => 1600 | _ => 1520
def levelRun : Nat → Nat
  | 2 => 200000 | _ => 256

/-- The runs of level i after a sample of θ: whether it is to set, and whether to clear (R438). -/
def Chip.levelSample (c : Chip) (i : Nat) (th : Int) : Bool × Bool × Chip :=
  let up := if levelSet i ≤ th then FMap.get 0 c.health.runSet i + 1 else 0
  let dn := if th < levelClear i then FMap.get 0 c.health.runClr i + 1 else 0
  (decide (256 ≤ up), decide (levelRun i ≤ dn),
   c.onHealth fun h => { h with runSet := FMap.put 0 h.runSet i (min up 256), runClr := FMap.put 0 h.runClr i (min dn 200000) })

/-- WARN and THROT: the chip with the level, and its occurrences. -/
def Chip.warnLevel (c : Chip) (th : Int) : List Occ × Chip :=
  let (up, dn, c) := c.levelSample 0 th
  if up ∧ ¬ c.is HL_THSTAT_WARN then ([{ src := 0 }], c.set HL_THSTAT_WARN 1)
  else if dn then ([], c.set HL_THSTAT_WARN 0) else ([], c)

/-- Something is left to release. -/
def Chip.throttled (c : Chip) : Bool :=
  c.health.steps ≠ 0 || c.get HL_THR_VTH ≠ 0xFFFFFF || (List.range 16).any fun k => c.is (PWR_SKIP .be k)

def Chip.throtLevel (c : Chip) (th : Int) : List Occ × Chip :=
  let (up, dn, c) := c.levelSample 1 th
  let now := c.onHealth fun h => { h with stepAt := c.ns }
  if up ∧ ¬ c.is HL_THSTAT_THROT then ([{ src := 1 }], (now.set HL_THSTAT_THROT 1).set HL_THR_RELEASING 0)
  else if dn ∧ c.is HL_THSTAT_THROT then ([{ src := 5 }], (now.set HL_THSTAT_THROT 0).set HL_THR_RELEASING (b2n c.throttled))
  else ([], c)

/-- SHUT sets: severity 3 while the unit prints, 2 otherwise (R444). -/
def Chip.shutLevel (c : Chip) (th : Int) : List Occ × Chip :=
  let (up, _, c) := c.levelSample 2 th
  if up ∧ c.health.shutAt.isNone then
    ([{ src := 3, level := if c.runs then none else some 2 }], c.onHealth fun h => { h with shutAt := some c.ns })
  else ([], c)

/-- The sample clears SHUT. -/
def Chip.shutClears (c : Chip) : Bool :=
  c.health.shutAt.isSome && decide (200000 ≤ FMap.get 0 c.health.runClr 2)

/-- Rails out of their limits for 256 samples (R447). -/
def Chip.railSample (c : Chip) (vcore : Nat) (railOut : Bool) : List Occ × Chip :=
  let v := if vcore < 720 ∨ 800 < vcore then min 257 (c.health.vddOut + 1) else 0
  let r := if railOut then min 257 (c.health.railOut + 1) else 0
  ((if v = 256 then [{ src := 10 }] else []) ++ (if r = 256 then [{ src := 11 }] else []),
   (c.set HL_VMON_VCORE vcore).onHealth fun h => { h with vddOut := v, railOut := r })

/-- The readings in the registers; sensors broken for the first time since start-up raise source 4. -/
def Chip.showTemps (c : Chip) (xs : List (Int × Bool)) : List Occ × Chip :=
  let (th, at_) := hottest xs
  let idx := (List.range 24).map fun i => (i, xs.getD i (0x960, true))
  let c := c.forAll idx fun c e => (c.setS (HL_TS_TEMP e.1) e.2.1).set (HL_TS_BROKEN e.1) (b2n e.2.2)
  let c := (c.setS HL_THSTAT_THETA_J th).set HL_THSTAT_SENSOR at_
  let new := (idx.filter fun e => e.2.2 && !bit c.health.broken e.1).map (·.1)
  let c := c.onHealth fun h => { h with broken := new.foldl (fun m i => m + 2 ^ i) h.broken }
  match new with
  | [] => ([], c)
  | i :: _ => ([{ src := 4, cell := i, detail := i }], c)

/-- A new θ_J RCDELTA or more away from θ_REF is the recalibration trigger (R270). -/
def Chip.judgeRecal (c : Chip) (th : Int) : Chip :=
  let d := th - c.health.thetaRef
  let lim : Int := 16 * c.get HL_RCAL_RCDELTA
  if c.get HL_PSTAT_STATE = 2 ∧ (lim ≤ d ∨ d ≤ -lim) then (c.onHealth fun h => { h with thetaRef := th }).recalTrigger th else c

/-- One sample of the sensors and supplies. -/
def Chip.thermalSample (c : Chip) (temps : List (Option Int)) (vcore : Nat) (railOut : Bool) : Chip :=
  let xs := judged temps
  let th := (hottest xs).1
  let (o4, c) := c.showTemps xs
  let (o0, c) := c.warnLevel th
  let (o1, c) := c.throtLevel th
  let (o3, c) := c.shutLevel th
  let (o10, c) := c.railSample vcore railOut
  let c := c.raiseAll .hl 0 (o0 ++ o1 ++ o3 ++ o4 ++ o10)
  let c := if o4.isEmpty then c.inject .hl 0 [4] else c
  let c := if o3.isEmpty then c else c.onHealth fun h => { h with shutHandoff := c.is TW_STAT_HANDOFF }
  c.judgeRecal th

/-- SHUT clears after the power-down: THERMTRIP_N goes high and the unit starts in full. -/
def shutOverRestart (s : State) : State := startUp false (s.onChip fun c => c.emit .thermtrip 0 [1])

def execThermalSample (t : Nat) (temps : List (Option Int)) (vcore : Nat) (railOut : Bool) (s : State) :
    Host.Outcome State Fault Refusal :=
  let s := s.at_ t
  .next (if !s.chip.health.powerGood then s
    else
      let s := s.onChip fun c => c.thermalSample temps vcore railOut
      if s.chip.shutClears && s.chip.health.silent then shutOverRestart s
      else if s.chip.shutClears then s.onChip fun c => c.onHealth fun h => { h with shutAt := none }
      else s)

/-- The power-down is due: 100 µs after SHUT unless a handoff runs, at the handoff's end, or 1 ms after SHUT. -/
def Chip.downDue (c : Chip) : Bool :=
  match c.health.shutAt with
  | none => false
  | some a =>
    !c.health.silent && (decide (a + 1000000 ≤ c.ns) ||
      (!c.is TW_STAT_HANDOFF && (c.health.shutHandoff || decide (a + 100000 ≤ c.ns))))

def execShutdownPowerDown (t : Nat) (s : State) : Host.Outcome State Fault Refusal :=
  let s := s.at_ t
  .next (if s.chip.downDue then
    (powerDown 1 s).onChip fun c =>
      ((c.latchRs HL_THSTAT_PREV_SHUT).set HL_THSTAT_PREV_PWRFAIL 0).emit .thermtrip 0 [0]
  else s)

/-! ### Throttle (R195, R439 to R442) -/

/-- C and D of bar k over the window that ends, in pixels, each times max(W_k, 96). -/
def Chip.windowOf (c : Chip) (k lost : Nat) : Nat × Nat :=
  let w := (c.setOf k).width k
  let u := barHz k / 10000 * (64 - c.get (PWR_SKIP .be k)) / 64 - lost
  (c.get (BE_SCR_WORKING k) * u * w, w * (c.bar k).winRows * max w 96)

/-- A window of 100 µs ends in bar k: its headroom, and a skip that headroom no longer allows falls by 1 (R195, R440). -/
def Chip.barWindow (lost : List Nat) (c : Chip) (k : Nat) : Chip :=
  if !c.regionOn (k / 4) || c.testing (k / 4) then c
  else
    let l := lost.getD k 0
    let win := c.windowOf k l
    let c := (c.closeHeadroom k l).onHealth fun h => { h with window := FMap.put none h.window k (some win) }
    let s := c.get (PWR_SKIP .be k)
    if s ≠ 0 ∧ c.get (BE_HR_HEADROOM k) < 50 then c.set (PWR_SKIP .be k) (s - 1) else c

def execHeadroomWindow (t : Nat) (lost : List Nat) (s : State) : Host.Outcome State Fault Refusal :=
  .next ((s.at_ t).onChip fun c => c.forAll (List.range 16) (Chip.barWindow lost))

/-- Bar k may raise its skip (R440). -/
def Chip.skipAllowed (c : Chip) (k : Nat) : Bool :=
  let s := c.get (PWR_SKIP .be k)
  let (cc, d) := (FMap.get none c.health.window k).getD (0, 0)
  decide (s ≤ 62) && (decide (d = 0) || decide (50 * d * (64 - s) + 1000 * d * (64 - s) ≤ 1000 * cc * (63 - s)))

/-- The fetch load, at division `div` of I40, stays at or below 95.0 % (R142). -/
def Chip.demandAllows (c : Chip) (div : Nat) : Bool :=
  decide (c.loadTimes (100 * div) ≤ 95 * decoderBytes)

/-- Takes step n of 1 to 4, with a division field's new value. -/
def Chip.divide (c : Chip) (n : Nat) (f : Fld) (v : Nat) : Chip :=
  (c.onHealth fun h => { h with steps := h.steps ||| 2 ^ (n - 1) }).set f v

/-- Step 6: V_th is set, or lowered once the line has followed it; never below THR_VMIN (R441). -/
def Chip.lowerVth (c : Chip) : Chip :=
  let v := c.get HL_THR_VTH
  let p := 100 - c.get HL_THCFG_VSTEP
  let floor := c.get HL_THVMIN_VMIN
  let stamp (c : Chip) : Chip := c.onHealth fun h => { h with step6At := some c.ns }
  if v = 0xFFFFFF then
    let new := (c.webSpeed * 254 * p / 15360000).toNat
    ((stamp c).set HL_THR_VTH (min 0xFFFFFE (max floor new))).raise .hl 0 { src := 2 }
  else if c.webSpeed * 254 ≤ v * 153600 then (stamp c).set HL_THR_VTH (max floor (v * p / 100)) else c

/-- THR_VPER has passed since the previous step 6. -/
def Chip.step6Due (c : Chip) : Bool :=
  match c.health.step6At with
  | some a => decide (a + 1000000 * c.get HL_THCFG_THR_VPER ≤ c.ns)
  | none => true

/-- The first step of Table 17-2 that is allowed and not yet taken. -/
def Chip.throttleStep (c : Chip) : Chip :=
  let c := (c.onHealth fun h => { h with stepAt := c.ns }).sampleDemand
  let took (n : Nat) : Bool := bit c.health.steps (n - 1)
  if !took 1 then c.divide 1 HL_THR_DIV_CR 1
  else if !took 2 && c.demandAllows 2 then c.divide 2 HL_THR_DIV_MR 1
  else if !took 3 then c.divide 3 HL_THR_DIV_CR 2
  else if took 2 && !took 4 && c.demandAllows 4 then c.divide 4 HL_THR_DIV_MR 2
  else
    let ks := c.enabledBars.filter c.skipAllowed
    if !ks.isEmpty then c.forAll ks fun c k => c.set (PWR_SKIP .be k) (c.get (PWR_SKIP .be k) + 1)
    else if c.step6Due then c.lowerVth else c

/-- A period of n ms has passed since the latest throttle step. -/
def Chip.stepDue (c : Chip) (n : Nat) : Bool := decide (c.health.stepAt + 1000000 * n ≤ c.ns)

def execThrottleStep (t : Nat) (s : State) : Host.Outcome State Fault Refusal :=
  .next ((s.at_ t).onChip fun c =>
    if c.is HL_THSTAT_THROT && c.stepDue (c.get HL_THCFG_THR_PER) then c.throttleStep.refreshSlow else c)

/-- One release step, in the order of R442. -/
def Chip.releaseStep (c : Chip) : Chip :=
  let c := c.onHealth fun h => { h with stepAt := c.ns }
  let v := c.get HL_THR_VTH
  let ks := (List.range 16).filter fun k => c.is (PWR_SKIP .be k)
  let undo (n : Nat) (f : Fld) (w : Nat) (c : Chip) : Chip :=
    (c.onHealth fun h => { h with steps := h.steps &&& (15 - 2 ^ (n - 1)) }).set f w
  let c :=
    if v ≠ 0xFFFFFF then
      let new := max (v + 1) (v * (100 + c.get HL_THCFG_VSTEP) / 100)
      c.set HL_THR_VTH (if c.speedLimit ≤ new then 0xFFFFFF else new)
    else if !ks.isEmpty then c.forAll ks fun c k => c.set (PWR_SKIP .be k) (c.get (PWR_SKIP .be k) - 1)
    else if bit c.health.steps 3 then undo 4 HL_THR_DIV_MR 1 c
    else if bit c.health.steps 2 then undo 3 HL_THR_DIV_CR 1 c
    else if bit c.health.steps 1 then undo 2 HL_THR_DIV_MR 0 c
    else if bit c.health.steps 0 then undo 1 HL_THR_DIV_CR 0 c else c
  c.set HL_THR_RELEASING (b2n c.throttled)

def execThrottleReleaseStep (t : Nat) (s : State) : Host.Outcome State Fault Refusal :=
  .next ((s.at_ t).onChip fun c =>
    if c.is HL_THR_RELEASING && !c.is HL_THSTAT_THROT && c.stepDue (c.get HL_THCFG_THR_RPER) then c.releaseStep.refreshSlow
    else c)

/-! ### LSPD (R443) -/

/-- The 32 bits of the next frame. -/
def Chip.lspdWord (c : Chip) : Nat :=
  let none' := c.enabledBars.isEmpty
  let binds := c.thermBinds && !none'
  let limit := if none' then 0 else min 0xFFFFFF (if binds then c.get HL_THR_VTH else c.speedLimit)
  b2n c.health.slow * 2 ^ 31 + b2n binds * 2 ^ 28 + c.health.lspdSeq % 16 * 2 ^ 24 + limit

/-- A frame: its 32 bits, and the even parity bit that follows. Only a SOLO or ACTIVE unit drives the pins (R378). -/
def Chip.lspdFrame (c : Chip) : Chip :=
  let c := c.refreshSlow
  if !c.runs || !c.regionOn 5 then c
  else
    let w := c.lspdWord
    let c := c.emit .lspd 0 [w, popCount 32 w % 2]
    let c := c.onHealth fun h => { h with lspdSeq := (h.lspdSeq + 1) % 16 }
    (((c.set LS_LSPD_SLOW (bits w 31 1)).set LS_LSPD_CAUSE (bits w 28 3)).set LS_LSPD_SEQ (bits w 24 4)).set LS_LSPD_LIMIT
      (bits w 0 24)

def execLspdFrame (t : Nat) (s : State) : Host.Outcome State Fault Refusal := .next ((s.at_ t).onChip (·.lspdFrame))

/-! ### Region power (R446, R451) -/

/-- The request for region n's domain that is under way, if any. -/
def Chip.powerAsked (c : Chip) (n : Nat) : Option Bool := (c.health.powerReq.find? fun e => e.1 = n).map (·.2.1)

/-- Replaces the request for region n. -/
def Chip.askPower (c : Chip) (n : Nat) (r : Option Bool) : Chip :=
  c.onHealth fun h => { h with powerReq := (h.powerReq.filter fun e => e.1 ≠ n) ++ (match r with
    | some on => [(n, on, c.ns)]
    | none => []) }

/-- The region may lose its domain. -/
def Chip.mayPowerOff (c : Chip) (n : Nat) : Bool :=
  !c.is SEQ_PSTAT_OPEN && (List.range 4).all (fun j => !c.stage.active.enabled (4 * n + j)) &&
    (List.range 6).all (fun j => !c.is (LQ_CFG_EN (6 * n + j))) && (c.health.bist.all fun r => r.kind ≠ 2)

/-- RGOFF is written: off requests that may not be carried out are ignored, with source 13. -/
def Chip.writeRgoff (c : Chip) (v : Nat) : Chip :=
  let old := c.get HL_PCTL_RGOFF
  let off := (List.range 4).filter fun n => bit v n && !bit old n
  let on := (List.range 4).filter fun n => !bit v n && bit old n
  let bad := off.filter fun n => !c.mayPowerOff n
  let c := c.forAll (off.filter c.mayPowerOff) fun c n => (c.setBit HL_PCTL_RGOFF n true).askPower n (some false)
  let c := c.forAll on fun c n => (c.setBit HL_PCTL_RGOFF n false).askPower n (some true)
  if bad.isEmpty then c else c.raise .hl 0 { src := 13 }

def execRgoff (t : Nat) (tnt : Fin 8) (off : BitVec 4) (s : State) : Host.Outcome State Fault Refusal :=
  .next ((s.at_ t).onChip fun c => c.ownWrite tnt .hl 0 0x54 (·.writeRgoff off.toNat))

/-- The domain of region n has turned off, and its lanes with it (R254), or on again with its bar tables restored and its enabled lanes
hunting for lock. -/
def Chip.powerDone (c : Chip) (n : Nat) (bad : List Nat) : Chip :=
  match c.powerAsked n with
  | none => c
  | some false =>
    let c := ((c.askPower n none).clearRegion n).setBit HL_PSTAT_DOMAIN_ON (3 + n) false
    c.forAll (((List.range 24).map (24 * n + ·)).filter fun l => c.laneState l ≠ lsOFF) Chip.laneOff
  | some true =>
    (((c.askPower n none).setBit HL_PSTAT_DOMAIN_ON (3 + n) true).restoreBars (bad.filter fun k => k / 4 = n)).regionLanes n true

def execRegionPowerDone (t : Nat) (n : Fin 4) (bad : List (Fin 16)) (s : State) : Host.Outcome State Fault Refusal :=
  .next ((s.at_ t).onChip fun c => c.powerDone n (bad.map (·.val)))

/-- A domain has not turned on within its time: at start-up, or a region within 20 ms of the request. -/
def Chip.domainLate (c : Chip) (d : Nat) : Chip :=
  let asked := decide (3 ≤ d) && c.health.powerReq.any fun e => e.1 = d - 3 && e.2.1 && decide (e.2.2 + 20000000 ≤ c.ns)
  if asked then (c.askPower (d - 3) none).raise .hl 0 { src := 15 }
  else if c.get HL_PSTAT_STATE = 1 ∧ d ≠ 0 ∧ bit (c.get HL_PSTAT_DOMAIN_ON) d then
    (c.setBit HL_PSTAT_DOMAIN_ON d false).raise .hl 0 { src := 15 }
  else c

def execDomainOnTimeout (t : Nat) (d : Fin 8) (s : State) : Host.Outcome State Fault Refusal :=
  .next ((s.at_ t).onChip fun c => c.domainLate d)

/-! ### Writes to fault registers (R13, R411, R417) -/

/-- Bits of FSTAT that a write of 1 clears: not those of sources that occur in the same control clock. -/
def Chip.ackable (c : Chip) (b : Blk) (i v : Nat) : List Nat :=
  (setBits 32 (c.get (FSTAT_STICKY b i))).filter fun s =>
    bit v s && FMap.get 0 c.faults.last (b.window i * 32 + s) ≠ c.clock

/-- FSTAT bits are acknowledged: FINJST and FESC clear with them. -/
def Chip.ackFaults (c : Chip) (b : Blk) (i v : Nat) : Chip :=
  let c := c.forAll (c.ackable b i v) fun c s =>
    ((c.setBit (FSTAT_STICKY b i) s false).setBit (FINJST_INJONLY b i) s false).setBit (FESC_ESC b i) s false
  c.refreshSum b i

/-- A write to one register of the window at an address: `f` for the block, where the offset is the one meant. -/
def Chip.windowWrite (c : Chip) (tnt addr off : Nat) (f : Blk → Nat → Chip → Chip) : Chip :=
  match blockAt addr with
  | some (b, i) => if b ≠ .tn ∧ offIn b i addr = off then c.ownWrite tnt b i off (f b i) else c
  | none => c.noticeAccess addr

def execFaultAck (t : Nat) (tnt : Fin 8) (addr v : BitVec 32) (s : State) : Host.Outcome State Fault Refusal :=
  .next ((s.at_ t).onChip fun c => c.windowWrite tnt addr.toNat 0x10 fun b i c => c.ackFaults b i v.toNat)

/-- Source s of block b has a checker (R417, with the source numbers of assumption 11). -/
def hasChecker : Blk → Nat → Bool
  | .sys, s => s = 1
  | .js, s => s = 0
  | .cd, s => s = 2
  | .seq, s => s = 6
  | .be, s => decide (1 ≤ s) && decide (s ≤ 6)
  | .lq, s => s = 17 || (20 ≤ s && s < 24)
  | .tw, s => s = 0
  | .rl, s => s < 2
  | .hl, s => s = 4 || s = 16 || s = 17 || s = 20
  | _, _ => false

/-- Cells of a block. -/
def Blk.cells : Blk → Nat
  | .be => 25 | .lq => 4 | .qm => 64 | .hl => 24 | _ => 0

/-- A write of ARM is refused (R417). -/
def Chip.armRefused (c : Chip) (b : Blk) (s cell : Nat) : Bool :=
  (!c.roped && !c.is SYS_STRAP_FTM) || !hasChecker b s || !(cell = 0xFFFF || decide (cell < b.cells))

/-- A write of FINJ: CANCEL disarms, before ARM is looked at (DESIGN CHOICE, assumption 21: the order of two SC fields written together is
not stated); SRC and CELL are stored, and ARM arms, or is refused with source 23. While an injection is armed a write with ARM
set is ignored, and one without leaves the armed injection as it is (R14). Handshake channels carry transfers all the time, so their checker makes its
check at once. -/
def Chip.writeFinj (c : Chip) (b : Blk) (i v : Nat) : Chip :=
  let c := if bit v 30 then c.set (FINJ_ARM b i) 0 else c
  if c.is (FINJ_ARM b i) && bit v 31 then c
  else
    let s := bits v 0 5
    let cell := bits v 8 16
    let c := (c.set (FINJ_SRC b i) s).set (FINJ_CELL b i) cell
    if !bit v 31 then c
    else if c.armRefused b s cell then c.raise .hl 0 { src := 23 }
    else
      let c := c.armInj b i s cell
      if b = .sys then c.inject b i [1] else c

def execFaultInjectArm (t : Nat) (tnt : Fin 8) (addr v : BitVec 32) (s : State) : Host.Outcome State Fault Refusal :=
  .next ((s.at_ t).onChip fun c => c.windowWrite tnt addr.toNat 0x38 fun b i c => c.writeFinj b i (v.toNat ||| 2 ^ 31))

def execFaultInjectCancel (t : Nat) (tnt : Fin 8) (addr : BitVec 32) (s : State) : Host.Outcome State Fault Refusal :=
  .next ((s.at_ t).onChip fun c => c.windowWrite tnt addr.toNat 0x38 fun b i c => c.set (FINJ_ARM b i) 0)

/-- MIN_CLR sets MIN to HEADROOM (R197). -/
def execMinClr (t : Nat) (tnt : Fin 8) (k : Fin 16) (s : State) : Host.Outcome State Fault Refusal :=
  .next ((s.at_ t).onChip fun c => c.ownWrite tnt .be k 0x48 fun c => c.set (BE_HRMIN_MIN k) (c.get (BE_HR_HEADROOM k)))

/-! ### JTAG (R465, R466) -/

/-- Public instructions by number. -/
def jtagCode : JtagOp → Nat
  | .bypass => 0 | .sample => 1 | .extest => 2 | .idcode => 3 | .clamp => 4 | .highz => 5 | .other => 6

/-- The instruction that comes into force: BYPASS in place of one that would take a ball during a run with FTM low, and in place of a
private one, which is not decoded then (PRESUMED: an undecoded instruction selects BYPASS). -/
def Chip.jtagTakes (c : Chip) (i : JtagOp) : JtagOp :=
  if c.is SYS_STRAP_FTM then i
  else match i with
    | .other => .bypass
    | .extest | .clamp | .highz => if c.is SEQ_PSTAT_OPEN then .bypass else i
    | _ => i

/-- A private instruction with FTM high is refused by the model: the spec does not say what it does. -/
def execJtagInstruction (t : Nat) (i : JtagOp) (s : State) : Host.Outcome State Fault Refusal :=
  let s := s.at_ t
  if s.chip.jtagTakes i = .other then .refused .jtagPrivate
  else .next (s.onChip fun c => c.onHealth fun h => { h with jtag := jtagCode (c.jtagTakes i) })

end Sys2Proof.Machine
end

