-- ==== Sys2Proof/Machine/RegWrite.lean ====
section
/-!
DEFINITION. Sys2Proof/Machine/RegWrite.lean: writes of whole words to control space, whatever window they meet, and the commands
REG_READ, REG_WRITE, REGISTER_READ and REGISTER_WRITE (R11, R12, R14, R46, R331, R332, R353, R362, R390, R426).
-/
namespace Sys2Proof.Machine

/-! ### Windows whose registers do more than hold fields -/

/-- The value that a write leaves in a field's bits, before its access type. -/
def Chip.merged (c : Chip) (w : RegWrite) (f : Fld) : Nat := w.merge f (c.get f)

/-- A write that the timebase, web motion, colour hold, job store or codec window ignores. -/
def Chip.refusesWrite (c : Chip) (b : Blk) (i off : Nat) (fs : List RegField) (w : RegWrite) : Bool :=
  let new := c.storeReg b i fs w
  match b with
  | .tb => c.claimConflict new || (off = 0x88 && c.is TB_PTPCFG_GMEN) || (off = 0x90 && new.is TB_PTPCFG_SLAVE && new.gm 3) || (decide (0x200 ≤ off) && off % 0x20 = 0 && (new.trigHolder ((off - 0x200) / 0x20)).isSome)
  | .wm => c.claimConflict new || (fixedWhileOpen off && c.is SEQ_PSTAT_OPEN) ||
      ((off = 0x40 || off = 0x50) && new.is WM_STR_MODE && new.infeed = new.outfeed)
  | .ch => decide (0xC0 ≤ off) && decide (off < 0x140) && c.is SEQ_PSTAT_OPEN
  | _ => false

/-- A write to one of the windows that the journal follows: an accepted one is journaled (Table 15-5). -/
def Chip.writeJournaled (c : Chip) (b : Blk) (i off : Nat) (fs : List RegField) (w : RegWrite) : Chip :=
  let bad := c.refusesWrite b i off fs w
  let new := c.writeTracked b i off fs w
  if bad then new else new.jrn .reg [b.base i + off, w.mask, w.val]

/-- The fault registers of a window (Table 16-1). -/
def Chip.writeHeader (c : Chip) (b : Blk) (i off : Nat) (fs : List RegField) (w : RegWrite) : Chip :=
  if off = 0x10 then c.ackFaults b i (w.val &&& w.mask)
  else if off = 0x38 then c.writeFinj b i w.val
  else (c.storeReg b i fs w).refreshSum b i

/-- The queue manager window (R330, R331, R333): T0's grants cannot be changed. -/
def Chip.writeQm (c : Chip) (off : Nat) (fs : List RegField) (w : RegWrite) : Chip :=
  if off = 0x40 then c.writeTen w.val
  else if off = 0x80 then c.storeReg .qm 0 (fs.filter fun r => r.f ≠ QM_GRANT_GRANT 0) w
  else if 0x400 ≤ off ∧ off < 0x600 ∧ off % 8 = 0 then c.writeQcfg ((off - 0x400) / 8) w.val
  else c.storeReg .qm 0 fs w

/-- n ring entries that no operand carries: free bytes (assumption 1). -/
def Chip.freeRing (c : Chip) : Nat → List (List Byte) × Chip
  | 0 => ([], c)
  | n + 1 =>
    let (v, c) := c.fresh (2 ^ 512)
    let (r, c) := c.freeRing n
    (le 64 v :: r, c)

/-- A tenant window: offsets of another tenant's queue ignore writes (R353). A doorbell fetches what host memory holds. -/
def Chip.writeTn (c : Chip) (t off : Nat) (fs : List RegField) (w : RegWrite) : Chip :=
  let q := (off - 0x1000) / 0x40
  if off < 0x1000 ∨ 64 ≤ q ∨ c.qTenant q ≠ t then c
  else match off % 0x40 with
    | 0 =>
      let (ring, c) := c.freeRing (c.credits q)
      c.doorbell t q w.val ring
    | 8 => c.consume t q w.val
    | _ => c.storeReg .tn t fs w

/-- A lane quad's window: EN, MODE and RATE act, the rest of LQq_CFG is stored (R250, R254, R268, R303). -/
def Chip.writeLq (c : Chip) (q off : Nat) (fs : List RegField) (w : RegWrite) : Chip :=
  if off = 0x48 then c.writeEyept q w.val
  else if off = 0x50 then c.writeHcmd q w.val
  else if off = 0x40 then
    let acts : List Fld := [LQ_CFG_EN q, LQ_CFG_RATE q, LQ_CFG_MODE q]
    let c := c.storeReg .lq q (fs.filter fun r => !acts.contains r.f) w
    let c := c.modeChange q (c.merged w (LQ_CFG_MODE q) = 1) (c.merged w (LQ_CFG_RATE q) = 1)
    let en := c.merged w (LQ_CFG_EN q)
    c.forAll (List.range 4) fun c i =>
      let l := 4 * q + i
      if c.laneEn l = bit en i then c
      else
        let c := c.setBit (LQ_CFG_EN q) i (bit en i)
        if bit en i then c.enterLock l else c.laneOff l
  else c.storeReg .lq q fs w

/-- The twin controller's window: HANDOFF and RECATCH (R399, R406). -/
def Chip.writeTw (c : Chip) (off : Nat) (fs : List RegField) (w : RegWrite) : Chip :=
  if off = 0x50 then
    let c := if bit w.val 0 then c.startHandoff else c
    if bit w.val 1 ∧ c.role = 3 then c.dropSnapshot else c
  else c.storeReg .tw 0 fs w

/-- The health window: rest, region power, shutdown (R425 to R428, R446, R450). -/
def Chip.writeHl (c : Chip) (off : Nat) (fs : List RegField) (w : RegWrite) : Chip :=
  if off = 0x184 then
    let c := if bit w.val 0 && c.mayRest then c.startRest else c
    let c := if bit w.val 1 then c.abortRest else c
    if bit w.val 2 then c.noQuick else c
  else if off = 0x54 then
    let c := c.writeRgoff (bits w.val 4 4)
    if bit w.val 0 then c.shutdown else c
  else c.storeReg .hl 0 fs w

/-- A whole register is written: `off` is the offset of its lowest word. -/
def Chip.applyWrite (c : Chip) (b : Blk) (i off : Nat) (fs : List RegField) (w : RegWrite) : Chip :=
  if b ≠ .tn ∧ off < 0x40 then c.writeHeader b i off fs w
  else if trackedWindow b then c.writeJournaled b i off fs w
  else match b with
    | .qm => c.writeQm off fs w
    | .tn => c.writeTn i off fs w
    | .lq => c.writeLq i off fs w
    | .tw => c.writeTw off fs w
    | .hl => c.writeHl off fs w
    | .ls => if off = 0x44 then c.refout (w.val % 64) else c.storeReg .ls 0 fs w
    | .be => if off = 0x48 ∧ bit w.val 16 then c.set (BE_HRMIN_MIN i) (c.get (BE_HR_HEADROOM i)) else c.storeReg .be i fs w
    | _ => c.storeReg b i fs w

/-! ### Words (R11) -/

/-- What a write to the highest word of a register writes: that word, and the lower words that are held. -/
def Chip.gather (c : Chip) (base n v : Nat) : RegWrite :=
  (List.range (n - 1)).foldl (fun (w : RegWrite) k => match FMap.get none c.held (base + 4 * k) with
    | some x => ⟨w.mask + (2 ^ 32 - 1) * 2 ^ (32 * k), w.val + x * 2 ^ (32 * k)⟩
    | none => w) ⟨(2 ^ 32 - 1) * 2 ^ (32 * (n - 1)), v * 2 ^ (32 * (n - 1))⟩

/-- The held words of a register are cleared. -/
def Chip.clearHeld (c : Chip) (base n : Nat) : Chip :=
  c.forAll (List.range n) fun c k => { c with held := FMap.put none c.held (base + 4 * k) none }

/-- One word of a window is written; where no register stands the write is ignored. -/
def Chip.writeWord (c : Chip) (b : Blk) (i addr v : Nat) : Chip :=
  let fs := fieldsAt b i addr
  match fs with
  | [] => c
  | r :: _ =>
    let n := regWords fs
    if addr < r.f.base + 4 * (n - 1) then { c with held := FMap.put none c.held addr (some v) }
    else
      let w := c.gather r.f.base n v
      (c.clearHeld r.f.base n).applyWrite b i (r.f.base - b.base i) fs w

/-- Tenant t writes the word at an address: ignored with a notice outside every window and where its grants do not reach (R46, R332);
a block that does not answer takes nothing (R34, R426). -/
def Chip.regWrite (c : Chip) (t addr v : Nat) : Chip :=
  match blockAt addr with
  | none => c.noticeAccess addr
  | some (b, i) =>
    if !c.mayWrite t b i (offIn b i addr) then c.noticeAccess addr
    else if c.reachable b i && c.blockOn b i then c.writeWord b i addr v else c

/-! ### REG_READ and REG_WRITE (Table 13-5) -/

/-- The block at an address does not answer: under self-test, or its power domain is off. -/
def Chip.noAnswer (c : Chip) (addr : Nat) : Bool :=
  match blockAt addr with
  | some (b, i) => !(c.reachable b i && c.blockOn b i)
  | none => false

/-- A word that a read does not get: the block does not answer, or it is the provisional DT (R308). -/
def Chip.unreadable (c : Chip) (addr : Nat) : Bool :=
  c.noAnswer addr || match blockAt addr with
    | some (b, i) => c.dtHidden b i addr
    | none => false

/-- Reads n words from an address. -/
def State.regReads (s : State) (t addr : Nat) : Nat → List Byte × State
  | 0 => ([], s)
  | n + 1 =>
    let (v, s) := s.regRead t addr
    let (bs, s) := s.regReads t (addr + 4) n
    (le 4 v ++ bs, s)

def regReadBody (q : Nat) (x : InDesc) (s : State) : State :=
  let addr := x.param 16 4
  let n := x.param 20 1
  if addr % 4 ≠ 0 ∨ n = 0 ∨ 8 < n then s.done q x stFORMAT
  else if (List.range n).any fun i => s.chip.unreadable (addr + 4 * i) then s.done q x stSTATE
  else
    let (bs, s) := s.regReads (s.chip.qTenant q) addr n
    s.done q x stOK bs

def execRegRead (t : Nat) (q : Fin 64) (s : State) : Host.Outcome State Fault Refusal :=
  .next (hostCommand t q 0x0008 0 none (regReadBody q) s)

def regWriteBody (q : Nat) (x : InDesc) (s : State) : State :=
  let addr := x.param 16 4
  if addr % 4 ≠ 0 then s.done q x stFORMAT
  else if s.chip.noAnswer addr then s.done q x stSTATE
  else (s.onChip fun c => c.regWrite (c.qTenant q) addr (x.param 20 4)).done q x stOK

def execRegWrite (t : Nat) (q : Fin 64) (s : State) : Host.Outcome State Fault Refusal :=
  .next (hostCommand t q 0x0009 0 none (regWriteBody q) s)

/-! ### Accesses over PCIe (R332) -/

/-- A write of less than a word, or of an address that is not aligned, is ignored with the notice (R332). -/
def execRegisterWrite (t : Nat) (tnt : Fin 8) (addr : BitVec 32) (v : Option (BitVec 32)) (s : State) :
    Host.Outcome State Fault Refusal :=
  .next ((s.at_ t).onChip fun c => match v with
    | some v => if addr.toNat % 4 ≠ 0 then c.noticeAccess addr.toNat else c.regWrite tnt addr.toNat v.toNat
    | none => c.noticeAccess addr.toNat)

/-- The word goes back to the host; a partial access reads 0 and raises the notice. -/
def execRegisterRead (t : Nat) (tnt : Fin 8) (addr : BitVec 32) (whole : Bool) (s : State) :
    Host.Outcome State Fault Refusal :=
  let s := s.at_ t
  let a := addr.toNat
  let (v, s) := if !whole || a % 4 ≠ 0 then (0, s.onChip (·.noticeAccess a)) else s.regRead tnt a
  .next (s.onChip fun c => c.emit .pcieData tnt [a, v])

end Sys2Proof.Machine
end

