-- ==== Sys2Proof/Machine/SeqArith.lean ====
section
/-!
DEFINITION. Sys2Proof/Machine/SeqArith.lean: arithmetic and logic instructions (R65, Table 3-5).
-/
namespace Sys2Proof.Machine

/-- An instruction of the form gD = op(gA, op2) with the SUB bits of `mask`. -/
def alu (mask : Nat) (op : W64 → W64 → W64) (n : CtxId) (f : Fields) (s : State) : State :=
  issueG n f (resvOp2 f mask) (op (s.chip.g n f.ga.toNat) (s.chip.op2 n f)) s

/-- The low 6 bits of a shift amount. -/
def amount (b : W64) : Nat := b.toNat % 64

/-- SUB[0], the signed or rounding bit. -/
def sbit (f : Fields) : Bool := bit (subOf f) 0

/-- High half of the 128-bit product. -/
def mulHigh (signed : Bool) (a b : W64) : W64 :=
  if signed then BitVec.ofInt 64 (a.toInt * b.toInt / 2 ^ 64) else BitVec.ofNat 64 (a.toNat * b.toNat / 2 ^ 64)

/-- Quotient, rounded toward zero; −2⁶³ by −1 wraps to −2⁶³ (R65). -/
def quotient (signed : Bool) (a b : W64) : W64 :=
  if signed then BitVec.ofInt 64 (a.toInt.tdiv b.toInt) else BitVec.ofNat 64 (a.toNat / b.toNat)

/-- Remainder, with the sign of gA when signed. -/
def remainder (signed : Bool) (a b : W64) : W64 :=
  if signed then BitVec.ofInt 64 (a.toInt.tmod b.toInt) else BitVec.ofNat 64 (a.toNat % b.toNat)

/-- The exact value of gA × gB / IMM, floored or rounded half up. -/
def mulDiv (round : Bool) (a b : W64) (m : Nat) : Nat :=
  if round then (2 * (a.toNat * b.toNat) + m) / (2 * m) else a.toNat * b.toNat / m

/-- The lesser of two values. -/
def lesser (signed : Bool) (a b : W64) : W64 :=
  if signed then (if b.toInt < a.toInt then b else a) else (if b.toNat < a.toNat then b else a)

/-- The greater of two values. -/
def greater (signed : Bool) (a b : W64) : W64 :=
  if signed then (if a.toInt < b.toInt then b else a) else (if a.toNat < b.toNat then b else a)

/-- The field of gA from bit p, of width w, zero-extended; bits above 63 read 0. -/
def extract (a : W64) (p w : Nat) : W64 := BitVec.ofNat 64 (bits a.toNat p w)

def execAdd (n : CtxId) (f : Fields) (s : State) : Host.Outcome State Fault Refusal := .next (alu 0 (· + ·) n f s)
def execSub (n : CtxId) (f : Fields) (s : State) : Host.Outcome State Fault Refusal := .next (alu 0 (· - ·) n f s)
def execMul (n : CtxId) (f : Fields) (s : State) : Host.Outcome State Fault Refusal := .next (alu 0 (· * ·) n f s)
def execMulh (n : CtxId) (f : Fields) (s : State) : Host.Outcome State Fault Refusal :=
  .next (alu 1 (mulHigh (sbit f)) n f s)

/-- DIV_ZERO on a zero divisor. -/
def execDiv (n : CtxId) (f : Fields) (s : State) : Host.Outcome State Fault Refusal :=
  let b := s.chip.op2 n f
  .next (issueG n f (resvOp2 f 1 ++ trapIf (b == 0) DIV_ZERO) (quotient (sbit f) (s.chip.g n f.ga.toNat) b) s)

def execRem (n : CtxId) (f : Fields) (s : State) : Host.Outcome State Fault Refusal :=
  let b := s.chip.op2 n f
  .next (issueG n f (resvOp2 f 1 ++ trapIf (b == 0) DIV_ZERO) (remainder (sbit f) (s.chip.g n f.ga.toNat) b) s)

/-- DIV_ZERO on IMM = 0, OVERFLOW above 2⁶⁴ − 1. -/
def execMuldiv (n : CtxId) (f : Fields) (s : State) : Host.Outcome State Fault Refusal :=
  let m := immOf f
  let r := mulDiv (sbit f) (s.chip.g n f.ga.toNat) (s.chip.g n f.gb.toNat) m
  .next (issueG n f (resvRaw f 1 true true true true ++ trapIf (m = 0) DIV_ZERO ++
    trapIf (m ≠ 0 && decide (2 ^ 64 ≤ r)) OVERFLOW) (BitVec.ofNat 64 r) s)

def execAnd (n : CtxId) (f : Fields) (s : State) : Host.Outcome State Fault Refusal := .next (alu 0 (· &&& ·) n f s)
def execOr (n : CtxId) (f : Fields) (s : State) : Host.Outcome State Fault Refusal := .next (alu 0 (· ||| ·) n f s)
def execXor (n : CtxId) (f : Fields) (s : State) : Host.Outcome State Fault Refusal := .next (alu 0 (· ^^^ ·) n f s)
def execAndn (n : CtxId) (f : Fields) (s : State) : Host.Outcome State Fault Refusal :=
  .next (alu 0 (fun a b => a &&& ~~~b) n f s)
def execShl (n : CtxId) (f : Fields) (s : State) : Host.Outcome State Fault Refusal :=
  .next (alu 0 (fun a b => a <<< amount b) n f s)
def execShr (n : CtxId) (f : Fields) (s : State) : Host.Outcome State Fault Refusal :=
  .next (alu 0 (fun a b => a >>> amount b) n f s)
def execSar (n : CtxId) (f : Fields) (s : State) : Host.Outcome State Fault Refusal :=
  .next (alu 0 (fun a b => a.sshiftRight (amount b)) n f s)
def execRor (n : CtxId) (f : Fields) (s : State) : Host.Outcome State Fault Refusal :=
  .next (alu 0 (fun a b => a.rotateRight (amount b)) n f s)
def execMin (n : CtxId) (f : Fields) (s : State) : Host.Outcome State Fault Refusal :=
  .next (alu 1 (lesser (sbit f)) n f s)
def execMax (n : CtxId) (f : Fields) (s : State) : Host.Outcome State Fault Refusal :=
  .next (alu 1 (greater (sbit f)) n f s)

def execClz (n : CtxId) (f : Fields) (s : State) : Host.Outcome State Fault Refusal :=
  .next (issueG n f (resvRaw f 0 true true false false)
    (BitVec.ofNat 64 (leadZeros 64 (s.chip.g n f.ga.toNat).toNat)) s)
def execPopc (n : CtxId) (f : Fields) (s : State) : Host.Outcome State Fault Refusal :=
  .next (issueG n f (resvRaw f 0 true true false false)
    (BitVec.ofNat 64 (popCount 64 (s.chip.g n f.ga.toNat).toNat)) s)
def execLi (n : CtxId) (f : Fields) (s : State) : Host.Outcome State Fault Refusal :=
  .next (issueG n f (resvRaw f 1 true false false true) (if sbit f then f.imm.zeroExtend 64 else immS f) s)
def execLui (n : CtxId) (f : Fields) (s : State) : Host.Outcome State Fault Refusal :=
  .next (issueG n f (resvRaw f 0 true true false true)
    ((f.imm.zeroExtend 64 <<< 32) ||| (s.chip.g n f.ga.toNat &&& 0xFFFFFFFF)) s)

/-- SUB[5:0] is the position, IMM[5:0] the width less one; IMM[31:6] and SUB[8:6] must be 0. -/
def execExt (n : CtxId) (f : Fields) (s : State) : Host.Outcome State Fault Refusal :=
  .next (issueG n f (resvRaw f 63 true true false true ++ trapIf (64 ≤ immOf f) RESERVED_FIELD)
    (extract (s.chip.g n f.ga.toNat) (subOf f % 64) (immOf f % 64 + 1)) s)

def execMovw (n : CtxId) (f : Fields) (s : State) : Host.Outcome State Fault Refusal :=
  let v := s.chip.g n f.ga.toNat
  .next (issueC n (resvRaw f 0 true true false false ++ resvW f.gd ++
    trapIf (s.chip.regress n f.gd.toNat v.toNat) W0_REGRESS)
    (fun c => (c.setW n f.gd.toNat v).next n) s)

def execMovg (n : CtxId) (f : Fields) (s : State) : Host.Outcome State Fault Refusal :=
  .next (issueG n f (resvRaw f 0 true true false false ++ resvW f.ga) (s.chip.w n f.ga.toNat) s)

def execAddw (n : CtxId) (f : Fields) (s : State) : Host.Outcome State Fault Refusal :=
  let r : Int := (s.chip.w n f.ga.toNat).toNat + (s.chip.op2 n f).toInt
  .next (issueC n (resvOp2 f 0 ++ resvW f.gd ++ resvW f.ga ++ trapIf (wOverflow r) OVERFLOW ++
    trapIf (!wOverflow r && s.chip.regress n f.gd.toNat r.toNat) W0_REGRESS)
    (fun c => (c.setW n f.gd.toNat (BitVec.ofInt 64 r)).next n) s)

def execWdiff (n : CtxId) (f : Fields) (s : State) : Host.Outcome State Fault Refusal :=
  let r : Int := (s.chip.w n f.ga.toNat).toNat - (s.chip.w n f.gb.toNat).toNat
  .next (issueG n f (resvRaw f 0 true true true false ++ resvW f.ga ++ resvW f.gb ++ trapIf (sOverflow r) OVERFLOW)
    (BitVec.ofInt 64 r) s)

end Sys2Proof.Machine
end

