-- ==== Sys2Proof/Machine/SeqBranch.lean ====
section
/-!
DEFINITION. Sys2Proof/Machine/SeqBranch.lean: compare and branch instructions (R66, Table 3-6).
-/
namespace Sys2Proof.Machine

/-- The target of a pc-relative branch. -/
def Chip.relTarget (c : Chip) (n : Nat) (f : Fields) : Int := c.pc n + f.imm.toInt

/-- Branches when taken, else goes on; the target is checked only when the branch is taken (R66). -/
def branchTo (n : Nat) (f : Fields) (traps : List Nat) (taken : Bool) (pre : Chip → Chip) (s : State) : State :=
  let t := s.chip.relTarget n f
  issueC n (traps ++ trapIf (taken && s.chip.targetBad n t) PC_RANGE)
    (fun c => if taken then (pre c).jump n t.toNat else (pre c).next n) s

def execBranch (n : CtxId) (f : Fields) (s : State) : Host.Outcome State Fault Refusal :=
  let r := condition (subOf f % 8) (s.chip.g n f.ga.toNat) (s.chip.g n f.gb.toNat)
  .next (branchTo n f (trapIf r.isNone ILLEGAL_OP ++ resvRaw f 7 false true true true) (r.getD false) id s)

def execBrw (n : CtxId) (f : Fields) (s : State) : Host.Outcome State Fault Refusal :=
  let r := wCondition (subOf f % 8) (s.chip.w n f.ga.toNat) (s.chip.w n f.gb.toNat)
  .next (branchTo n f (trapIf r.isNone ILLEGAL_OP ++ resvRaw f 7 false true true true ++ resvW f.ga ++ resvW f.gb)
    (r.getD false) id s)

def execSetCond (n : CtxId) (f : Fields) (s : State) : Host.Outcome State Fault Refusal :=
  let r := condition (subOf f % 8) (s.chip.g n f.ga.toNat) (s.chip.op2 n f)
  .next (issueG n f (trapIf r.isNone ILLEGAL_OP ++ resvOp2 f 7) (if r.getD false then 1 else 0) s)

/-- gD = pc + 1, then the jump. -/
def execJal (n : CtxId) (f : Fields) (s : State) : Host.Outcome State Fault Refusal :=
  .next (branchTo n f (resvRaw f 0 true false false true) true
    (fun c => c.setG n f.gd.toNat (BitVec.ofNat 64 (c.pc n + 1))) s)

/-- The target gA + IMM is computed before gD is written. -/
def execJalr (n : CtxId) (f : Fields) (s : State) : Host.Outcome State Fault Refusal :=
  let t := (s.chip.g n f.ga.toNat + immS f).toNat
  .next (issueC n (resvRaw f 0 true true false true ++ trapIf (s.chip.targetBad n t) PC_RANGE)
    (fun c => (c.setG n f.gd.toNat (BitVec.ofNat 64 (c.pc n + 1))).jump n t) s)

/-- gD = gD − 1, and the branch while it is not 0. -/
def execLoop (n : CtxId) (f : Fields) (s : State) : Host.Outcome State Fault Refusal :=
  let v := s.chip.g n f.gd.toNat - 1
  .next (branchTo n f (resvRaw f 0 true false false true) (v != 0) (fun c => c.setG n f.gd.toNat v) s)

end Sys2Proof.Machine
end

