-- ==== Sys2Proof/Machine/Dispatch.lean ====
section
/-!
DEFINITION. Sys2Proof/Machine/Dispatch.lean: one arm per command, in the table's order.
-/
namespace Sys2Proof.Machine

/-- The effect of a command on everything but the queue. -/
def exec (i : Instr) (s : State) : Host.Outcome State Fault Refusal :=
  match i with
  | .add n f => Sys2Proof.Machine.execAdd n f s
  | .sub n f => Sys2Proof.Machine.execSub n f s
  | .mul n f => Sys2Proof.Machine.execMul n f s
  | .mulh n f => Sys2Proof.Machine.execMulh n f s
  | .div n f => Sys2Proof.Machine.execDiv n f s
  | .rem n f => Sys2Proof.Machine.execRem n f s
  | .muldiv n f => Sys2Proof.Machine.execMuldiv n f s
  | .and n f => Sys2Proof.Machine.execAnd n f s
  | .or n f => Sys2Proof.Machine.execOr n f s
  | .xor n f => Sys2Proof.Machine.execXor n f s
  | .andn n f => Sys2Proof.Machine.execAndn n f s
  | .shl n f => Sys2Proof.Machine.execShl n f s
  | .shr n f => Sys2Proof.Machine.execShr n f s
  | .sar n f => Sys2Proof.Machine.execSar n f s
  | .ror n f => Sys2Proof.Machine.execRor n f s
  | .min n f => Sys2Proof.Machine.execMin n f s
  | .max n f => Sys2Proof.Machine.execMax n f s
  | .clz n f => Sys2Proof.Machine.execClz n f s
  | .popc n f => Sys2Proof.Machine.execPopc n f s
  | .li n f => Sys2Proof.Machine.execLi n f s
  | .lui n f => Sys2Proof.Machine.execLui n f s
  | .ext n f => Sys2Proof.Machine.execExt n f s
  | .movs n f => Sys2Proof.Machine.execMovs n f s
  | .movw n f => Sys2Proof.Machine.execMovw n f s
  | .movg n f => Sys2Proof.Machine.execMovg n f s
  | .addw n f => Sys2Proof.Machine.execAddw n f s
  | .wdiff n f => Sys2Proof.Machine.execWdiff n f s
  | .branch n f => Sys2Proof.Machine.execBranch n f s
  | .brw n f => Sys2Proof.Machine.execBrw n f s
  | .setCond n f => Sys2Proof.Machine.execSetCond n f s
  | .jal n f => Sys2Proof.Machine.execJal n f s
  | .jalr n f => Sys2Proof.Machine.execJalr n f s
  | .loop n f => Sys2Proof.Machine.execLoop n f s
  | .ldd n f ecc => Sys2Proof.Machine.execLdd n f ecc s
  | .std n f => Sys2Proof.Machine.execStd n f s
  | .ldj n f => Sys2Proof.Machine.execLdj n f s
  | .stj n f => Sys2Proof.Machine.execStj n f s
  | .aadd n f ecc => Sys2Proof.Machine.execAadd n f ecc s
  | .acas n f ecc => Sys2Proof.Machine.execAcas n f ecc s
  | .cpjd n f => Sys2Proof.Machine.execCpjd n f s
  | .cpdj n f ecc => Sys2Proof.Machine.execCpdj n f ecc s
  | .jobStoreAccessDone t n r => Sys2Proof.Machine.execJobStoreAccessDone t n r s
  | .qrecv n f => Sys2Proof.Machine.execQrecv n f s
  | .qpeek n f => Sys2Proof.Machine.execQpeek n f s
  | .qsend n f ecc => Sys2Proof.Machine.execQsend n f ecc s
  | .evpost n f => Sys2Proof.Machine.execEvpost n f s
  | .nop n f => Sys2Proof.Machine.execNop n f s
  | .trap n w => Sys2Proof.Machine.execTrap n w s
  | .fence n f => Sys2Proof.Machine.execFence n f s
  | .fenceDone t n => Sys2Proof.Machine.execFenceDone t n s
  | .halt n f => Sys2Proof.Machine.execHalt n f s
  | .disp n f => Sys2Proof.Machine.execDisp n f s
  | .handlerDispatch t => Sys2Proof.Machine.execHandlerDispatch t s
  | .place n f ecc => Sys2Proof.Machine.execPlace n f ecc s
  | .trunc n f => Sys2Proof.Machine.execTrunc n f s
  | .pmark n f => Sys2Proof.Machine.execPmark n f s
  | .waitw n f => Sys2Proof.Machine.execWaitw n f s
  | .waitt n f => Sys2Proof.Machine.execWaitt n f s
  | .waitq n f => Sys2Proof.Machine.execWaitq n f s
  | .waitWake t n => Sys2Proof.Machine.execWaitWake t n s
  | .waitTimeout t n => Sys2Proof.Machine.execWaitTimeout t n s
  | .vfmt n f ecc => Sys2Proof.Machine.execVfmt n f ecc s
  | .vdate n f ecc => Sys2Proof.Machine.execVdate n f ecc s
  | .vctr n f => Sys2Proof.Machine.execVctr n f s
  | .vchk n f ecc => Sys2Proof.Machine.execVchk n f ecc s
  | .vtext n f ecc => Sys2Proof.Machine.execVtext n f ecc s
  | .vsym n f ecc => Sys2Proof.Machine.execVsym n f ecc s
  | .vdComposeDone t => Sys2Proof.Machine.execVdComposeDone t s
  | .tload n f => Sys2Proof.Machine.execTload n f s
  | .tcopy n f => Sys2Proof.Machine.execTcopy n f s
  | .tableLoadDone t n r => Sys2Proof.Machine.execTableLoadDone t n r s
  | .stage n f => Sys2Proof.Machine.execStage n f s
  | .check n f => Sys2Proof.Machine.execCheck n f s
  | .commitw n f => Sys2Proof.Machine.execCommitw n f s
  | .committ n f => Sys2Proof.Machine.execCommitt n f s
  | .committFix t => Sys2Proof.Machine.execCommittFix t s
  | .abandon n f => Sys2Proof.Machine.execAbandon n f s
  | .restorefac n f => Sys2Proof.Machine.execRestorefac n f s
  | .calsave n f => Sys2Proof.Machine.execCalsave n f s
  | .settlingEnd t => Sys2Proof.Machine.execSettlingEnd t s
  | .norWriteDone t ok hot => Sys2Proof.Machine.execNorWriteDone t ok hot s
  | .run t q => Sys2Proof.Machine.execRun t q s
  | .stop t q => Sys2Proof.Machine.execStop t q s
  | .fireArm t q => Sys2Proof.Machine.execFireArm t q s
  | .loadProgram t r => Sys2Proof.Machine.execLoadProgram t r s
  | .stageQuery t q => Sys2Proof.Machine.execStageQuery t q s
  | .stageCheck t q => Sys2Proof.Machine.execStageCheck t q s
  | .stageCommitw t q => Sys2Proof.Machine.execStageCommitw t q s
  | .stageCommitt t q => Sys2Proof.Machine.execStageCommitt t q s
  | .stageAbandon t q => Sys2Proof.Machine.execStageAbandon t q s
  | .stageTload t q => Sys2Proof.Machine.execStageTload t q s
  | .stageRestorefac t q => Sys2Proof.Machine.execStageRestorefac t q s
  | .stageCalsave t q => Sys2Proof.Machine.execStageCalsave t q s
  | .setCivil t q => Sys2Proof.Machine.execSetCivil t q s
  | .status t q => Sys2Proof.Machine.execStatus t q s
  | .regRead t q => Sys2Proof.Machine.execRegRead t q s
  | .regWrite t q => Sys2Proof.Machine.execRegWrite t q s
  | .alloc t q => Sys2Proof.Machine.execAlloc t q s
  | .free t q => Sys2Proof.Machine.execFree t q s
  | .setrights t q => Sys2Proof.Machine.execSetrights t q s
  | .sealAlloc t q => Sys2Proof.Machine.execSealAlloc t q s
  | .unsealAlloc t q => Sys2Proof.Machine.execUnsealAlloc t q s
  | .write t q host => Sys2Proof.Machine.execWrite t q host s
  | .read t q r => Sys2Proof.Machine.execRead t q r s
  | .compress t q => Sys2Proof.Machine.execCompress t q s
  | .decompress t q => Sys2Proof.Machine.execDecompress t q s
  | .sendAt t q => Sys2Proof.Machine.execSendAt t q s
  | .sendAtLaunch t port => Sys2Proof.Machine.execSendAtLaunch t port s
  | .report t q r => Sys2Proof.Machine.execReport t q r s
  | .applicationDescriptor t q d rx => Sys2Proof.Machine.execApplicationDescriptor t q d rx s
  | .queueTimeout t q => Sys2Proof.Machine.execQueueTimeout t q s
  | .openSession t tenant port addr udp frame => Sys2Proof.Machine.execOpenSession t tenant port addr udp frame s
  | .closeSession t port addr udp frame => Sys2Proof.Machine.execCloseSession t port addr udp frame s
  | .descFrame t port addr udp frame => Sys2Proof.Machine.execDescFrame t port addr udp frame s
  | .bulk t port addr udp frame => Sys2Proof.Machine.execBulk t port addr udp frame s
  | .resync t port addr udp frame => Sys2Proof.Machine.execResync t port addr udp frame s
  | .sessionTimeout t tenant port => Sys2Proof.Machine.execSessionTimeout t tenant port s
  | .creditFrameSend t tenant port => Sys2Proof.Machine.execCreditFrameSend t tenant port s
  | .neighbourRequest t port v6 target => Sys2Proof.Machine.execNeighbourRequest t port v6 target s
  | .doorbell t tenant q pi ring => Sys2Proof.Machine.execDoorbell t tenant q pi ring s
  | .outboundConsume t tenant q oci => Sys2Proof.Machine.execOutboundConsume t tenant q oci s
  | .queueEnable t tnt q v => Sys2Proof.Machine.execQueueEnable t tnt q v s
  | .tenantEnable t tnt v => Sys2Proof.Machine.execTenantEnable t tnt v s
  | .ptpSyncSend t port => Sys2Proof.Machine.execPtpSyncSend t port s
  | .ptpAnnounceSend t port => Sys2Proof.Machine.execPtpAnnounceSend t port s
  | .ptpDelayReq t p peer domain rx id => Sys2Proof.Machine.execPtpDelayReq t p peer domain rx id s
  | .ptpManagement t p domain id => Sys2Proof.Machine.execPtpManagement t p domain id s
  | .ptpAnnounceReceived t domain ptpTimescale utcValid utcOffset leap61 leap59 interval => Sys2Proof.Machine.execPtpAnnounceReceived t domain ptpTimescale utcValid utcOffset leap61 leap59 interval s
  | .ptpSyncReceived t domain t1 x => Sys2Proof.Machine.execPtpSyncReceived t domain t1 x s
  | .ptpAnnounceTimeout t => Sys2Proof.Machine.execPtpAnnounceTimeout t s
  | .encoderEdge t n a b => Sys2Proof.Machine.execEncoderEdge t n a b s
  | .zEdge t n => Sys2Proof.Machine.execZEdge t n s
  | .standstill t n => Sys2Proof.Machine.execStandstill t n s
  | .countGateEnd t n => Sys2Proof.Machine.execCountGateEnd t n s
  | .speedBoundRefresh t => Sys2Proof.Machine.execSpeedBoundRefresh t s
  | .ssiFrameStart t m low => Sys2Proof.Machine.execSsiFrameStart t m low s
  | .ssiFrameEnd t m w => Sys2Proof.Machine.execSsiFrameEnd t m w s
  | .probeEdge t p rise => Sys2Proof.Machine.execProbeEdge t p rise s
  | .probePop t tnt p => Sys2Proof.Machine.execProbePop t tnt p s
  | .modelUpdate t => Sys2Proof.Machine.execModelUpdate t s
  | .stampFreeze t => Sys2Proof.Machine.execStampFreeze t s
  | .coastTimeout t => Sys2Proof.Machine.execCoastTimeout t s
  | .haltFireNLow t => Sys2Proof.Machine.execHaltFireNLow t s
  | .passStart t k => Sys2Proof.Machine.execPassStart t k s
  | .rowRendered t k n out => Sys2Proof.Machine.execRowRendered t k n out s
  | .tileFetchDone t h sg b retries r => Sys2Proof.Machine.execTileFetchDone t h sg b retries r s
  | .sliceFault t k slice => Sys2Proof.Machine.execSliceFault t k slice s
  | .spareRotation t k => Sys2Proof.Machine.execSpareRotation t k s
  | .spareRoundEnd t k pass => Sys2Proof.Machine.execSpareRoundEnd t k pass s
  | .headroomWindow t lost => Sys2Proof.Machine.execHeadroomWindow t lost s
  | .loopCommit t => Sys2Proof.Machine.execLoopCommit t s
  | .codecJobStart t => Sys2Proof.Machine.execCodecJobStart t s
  | .codecPreempt t job => Sys2Proof.Machine.execCodecPreempt t job s
  | .codecStallEnd t job => Sys2Proof.Machine.execCodecStallEnd t job s
  | .codecStallTimeout t job since => Sys2Proof.Machine.execCodecStallTimeout t job since s
  | .codecJobDone t job r bad vfail => Sys2Proof.Machine.execCodecJobDone t job r bad vfail s
  | .jobStoreScrub t r => Sys2Proof.Machine.execJobStoreScrub t r s
  | .timerFire t n => Sys2Proof.Machine.execTimerFire t n s
  | .trigPulseEnd t g => Sys2Proof.Machine.execTrigPulseEnd t g s
  | .ppsOutEdge t => Sys2Proof.Machine.execPpsOutEdge t s
  | .ppsInEdge t => Sys2Proof.Machine.execPpsInEdge t s
  | .ppsInLoss t => Sys2Proof.Machine.execPpsInLoss t s
  | .leapSecond t => Sys2Proof.Machine.execLeapSecond t s
  | .laneEnable t tnt l on => Sys2Proof.Machine.execLaneEnable t tnt l on s
  | .laneModeChange t tnt q mode rate => Sys2Proof.Machine.execLaneModeChange t tnt q mode rate s
  | .blockLock t r => Sys2Proof.Machine.execBlockLock t r s
  | .blockLockLost t r => Sys2Proof.Machine.execBlockLockLost t r s
  | .lockTimeout t l => Sys2Proof.Machine.execLockTimeout t l s
  | .relockTimeout t l => Sys2Proof.Machine.execRelockTimeout t l s
  | .failedRetry t l => Sys2Proof.Machine.execFailedRetry t l s
  | .trainingBlock t l block => Sys2Proof.Machine.execTrainingBlock t l block s
  | .tapTimeout t l => Sys2Proof.Machine.execTapTimeout t l s
  | .trainTimeout t l => Sys2Proof.Machine.execTrainTimeout t l s
  | .alignTimeout t l => Sys2Proof.Machine.execAlignTimeout t l s
  | .alignmentBlock t l bit => Sys2Proof.Machine.execAlignmentBlock t l bit s
  | .cairnMarkerSend t rate => Sys2Proof.Machine.execCairnMarkerSend t rate s
  | .cairnMarker t l block ps bipOk onTime => Sys2Proof.Machine.execCairnMarker t l block ps bipOk onTime s
  | .markerMissing t l => Sys2Proof.Machine.execMarkerMissing t l s
  | .refOffsetCheck t l ppb => Sys2Proof.Machine.execRefOffsetCheck t l ppb s
  | .adaptFreeze t l => Sys2Proof.Machine.execAdaptFreeze t l s
  | .quickScanStart t l => Sys2Proof.Machine.execQuickScanStart t l s
  | .quickScanDone t l phase volt settings => Sys2Proof.Machine.execQuickScanDone t l phase volt settings s
  | .eyePointStart t tnt q v => Sys2Proof.Machine.execEyePointStart t tnt q v s
  | .eyePointDone t q count => Sys2Proof.Machine.execEyePointDone t q count s
  | .laneRecalDone t l beyond => Sys2Proof.Machine.execLaneRecalDone t l beyond s
  | .laneFrameLaunch t l => Sys2Proof.Machine.execLaneFrameLaunch t l s
  | .echo t l r => Sys2Proof.Machine.execEcho t l r s
  | .echoTimeout t l a row => Sys2Proof.Machine.execEchoTimeout t l a row s
  | .ack t l r => Sys2Proof.Machine.execAck t l r s
  | .ackTimeout t l fseq => Sys2Proof.Machine.execAckTimeout t l fseq s
  | .fireReport t l r => Sys2Proof.Machine.execFireReport t l r s
  | .epochRecord t l r => Sys2Proof.Machine.execEpochRecord t l r s
  | .claimReply t l r => Sys2Proof.Machine.execClaimReply t l r s
  | .tempRecord t l r => Sys2Proof.Machine.execTempRecord t l r s
  | .eeReply t l r => Sys2Proof.Machine.execEeReply t l r s
  | .hubInfo t l r => Sys2Proof.Machine.execHubInfo t l r s
  | .eeAccess t tnt q v => Sys2Proof.Machine.execEeAccess t tnt q v s
  | .eeTimeout t q => Sys2Proof.Machine.execEeTimeout t q s
  | .timeFrameSend t => Sys2Proof.Machine.execTimeFrameSend t s
  | .epochFrameSend t => Sys2Proof.Machine.execEpochFrameSend t s
  | .fireKeepalive t l => Sys2Proof.Machine.execFireKeepalive t l s
  | .claimSend t => Sys2Proof.Machine.execClaimSend t s
  | .heartbeatSend t => Sys2Proof.Machine.execHeartbeatSend t s
  | .belayFrame t octets => Sys2Proof.Machine.execBelayFrame t octets s
  | .ropeHb t b => Sys2Proof.Machine.execRopeHb t b s
  | .ropeAck t rseq => Sys2Proof.Machine.execRopeAck t rseq s
  | .ropeResendTimeout t rseq => Sys2Proof.Machine.execRopeResendTimeout t rseq s
  | .ropeOffer t rseq token hrow => Sys2Proof.Machine.execRopeOffer t rseq token hrow s
  | .ropeHash t rseq hs => Sys2Proof.Machine.execRopeHash t rseq hs s
  | .ropeVerdict t rseq bar row verdict => Sys2Proof.Machine.execRopeVerdict t rseq bar row verdict s
  | .ropeJrn t rseq es => Sys2Proof.Machine.execRopeJrn t rseq es s
  | .ropeSnap t rseq sect items e => Sys2Proof.Machine.execRopeSnap t rseq sect items e s
  | .snapshotStart t => Sys2Proof.Machine.execSnapshotStart t s
  | .snapshotAdopt t trailerOk => Sys2Proof.Machine.execSnapshotAdopt t trailerOk s
  | .refereeDone t bar row chk => Sys2Proof.Machine.execRefereeDone t bar row chk s
  | .pathSilence t rope => Sys2Proof.Machine.execPathSilence t rope s
  | .peerFailure t => Sys2Proof.Machine.execPeerFailure t s
  | .claimwinExpiry t => Sys2Proof.Machine.execClaimwinExpiry t s
  | .claimConflictWait t l => Sys2Proof.Machine.execClaimConflictWait t l s
  | .handoff t tnt => Sys2Proof.Machine.execHandoff t tnt s
  | .handoffTimeout t => Sys2Proof.Machine.execHandoffTimeout t s
  | .recatch t tnt => Sys2Proof.Machine.execRecatch t tnt s
  | .hubLeadWindow t => Sys2Proof.Machine.execHubLeadWindow t s
  | .roleDecisionTimeout t => Sys2Proof.Machine.execRoleDecisionTimeout t s
  | .faultAck t tnt addr v => Sys2Proof.Machine.execFaultAck t tnt addr v s
  | .faultInjectArm t tnt addr v => Sys2Proof.Machine.execFaultInjectArm t tnt addr v s
  | .faultInjectCancel t tnt addr => Sys2Proof.Machine.execFaultInjectCancel t tnt addr s
  | .thermalSample t temps vcore railOut => Sys2Proof.Machine.execThermalSample t temps vcore railOut s
  | .shutdownPowerDown t => Sys2Proof.Machine.execShutdownPowerDown t s
  | .throttleStep t => Sys2Proof.Machine.execThrottleStep t s
  | .throttleReleaseStep t => Sys2Proof.Machine.execThrottleReleaseStep t s
  | .lspdFrame t => Sys2Proof.Machine.execLspdFrame t s
  | .rest t tnt => Sys2Proof.Machine.execRest t tnt s
  | .restAuto t => Sys2Proof.Machine.execRestAuto t s
  | .abort t tnt => Sys2Proof.Machine.execAbort t tnt s
  | .noquick t tnt => Sys2Proof.Machine.execNoquick t tnt s
  | .bistWaveEnd t e blocks vmin vmax => Sys2Proof.Machine.execBistWaveEnd t e blocks vmin vmax s
  | .restEnd t bad stored => Sys2Proof.Machine.execRestEnd t bad stored s
  | .rgoff t tnt off => Sys2Proof.Machine.execRgoff t tnt off s
  | .regionPowerDone t n bad => Sys2Proof.Machine.execRegionPowerDone t n bad s
  | .domainOnTimeout t d => Sys2Proof.Machine.execDomainOnTimeout t d s
  | .shutdown t tnt => Sys2Proof.Machine.execShutdown t tnt s
  | .shutdownDone t ok => Sys2Proof.Machine.execShutdownDone t ok s
  | .pwrgoodRise t ftm roped pref vcore ref => Sys2Proof.Machine.execPwrgoodRise t ftm roped pref vcore ref s
  | .startupReady t stored => Sys2Proof.Machine.execStartupReady t stored s
  | .pwrgoodFall t => Sys2Proof.Machine.execPwrgoodFall t s
  | .refclkLoss t => Sys2Proof.Machine.execRefclkLoss t s
  | .peakClr t tnt => Sys2Proof.Machine.execPeakClr t tnt s
  | .minClr t tnt k => Sys2Proof.Machine.execMinClr t tnt k s
  | .refoutEnable t tnt en => Sys2Proof.Machine.execRefoutEnable t tnt en s
  | .registerWrite t tnt addr v => Sys2Proof.Machine.execRegisterWrite t tnt addr v s
  | .haltFireNHigh t => Sys2Proof.Machine.execHaltFireNHigh t s
  | .fireStampPassed t k r => Sys2Proof.Machine.execFireStampPassed t k r s
  | .registerRead t tnt addr whole => Sys2Proof.Machine.execRegisterRead t tnt addr whole s
  | .msixDeferred t q => Sys2Proof.Machine.execMsixDeferred t q s
  | .jtagInstruction t op => Sys2Proof.Machine.execJtagInstruction t op s
  | .rxBufferOverflow t l => Sys2Proof.Machine.execRxBufferOverflow t l s
  | .rxReady t l => Sys2Proof.Machine.execRxReady t l s
  | .peerHeardExpiry t rope => Sys2Proof.Machine.execPeerHeardExpiry t rope s
  | .ssiClockEdge t m low => Sys2Proof.Machine.execSsiClockEdge t m low s

end Sys2Proof.Machine
end

