-- ==== Sys2Proof/Safety.lean ====
section
/-!
DEFINITION. Sys2Proof/Safety.lean: what counts as a safe run: it never stops but where the spec leaves a private JTAG instruction's
effect open. And the terms in which the statements say what a command changes and what it leaves unchanged.
-/
namespace Sys2Proof.Machine

/-- An outcome that goes on. -/
def goesOn : Host.Outcome State Fault Refusal → Prop
  | .next _ => True
  | .fault _ => False
  | .refused _ => False

/-- n steps from s all go on. -/
def safeFor : Nat → State → Prop
  | 0, _ => True
  | n + 1, s =>
    match step s with
    | .next t => safeFor n t
    | .fault _ => False
    | .refused _ => False

/-! ### Frames -/

/-- Every register field but those listed reads in d as in c. -/
def sameFields (ks : List Fld) (c d : Chip) : Prop := ∀ h : Fld, (∀ k ∈ ks, h.key ≠ k.key) → d.get h = c.get h

/-- The chip without its register fields, the g and the w registers of its contexts. -/
def Chip.bare (c : Chip) : Chip := { c with regs := [], seq := { c.seq with g := [], w := [] } }

/-- Every g register of every context reads in d as in c. -/
def sameG (c d : Chip) : Prop := ∀ m i, i < 32 → d.g m i = c.g m i

/-- Every w register of every context reads in d as in c. -/
def sameW (c d : Chip) : Prop := ∀ m i, i < 8 → d.w m i = c.w m i

/-- What reporting a fault or an event never touches: all state but the ports, the host queues, fault bookkeeping, pending
dispatch triggers, and what halting fire and starting a handoff reach. -/
def Chip.kept (c : Chip) : Chip :=
  { c with regs := [], wire := [], free := 0, hosts := {}, faults := {}, bars := [], fire := {}, lanes := {}, twin := {},
           seq := { c.seq with disp := [] } }

/-- A register field that reporting never touches: it is no fault register (offsets below 0x40 of every window), no tenant
window register, no SEQ_DISPAi or SEQ_DISPBi, and lies in none of FS_STAT, FS_HALT, TW_STAT and TW_JSEQ. -/
def Fld.still (h : Fld) : Prop :=
  let a := h.key / 128
  0x40 ≤ a % 65536 ∧ a < 0x08000000 ∧ (a < 0x10400 ∨ 0x10800 ≤ a) ∧ a ≠ 0xA0040 ∧ a ≠ 0xA0064 ∧ a ≠ 0xC004C ∧ a ≠ 0xC0058

/-- d is c but for what reporting may touch. -/
def Chip.like (c d : Chip) : Prop := d.kept = c.kept ∧ ∀ h : Fld, h.still → d.get h = c.get h

/-- All state but register fields, the ports, time, the twin controller and the start of idling. -/
def Chip.timeless (c : Chip) : Chip :=
  { c with regs := [], wire := [], dt := 0, time := {}, twin := {}, health := { c.health with idleSince := 0 } }

/-- The register fields that the passing of time moves: RATE, the civil offset, HOLDING, and JSEQ of the journal. -/
def timeFields : List Fld := [TB_RATE_NOW, TB_CIVOFS_OFS, TB_STAT_HOLDING, TW_JSEQ_JSEQ]

/-- d is c but for what the passing of time may move (R308 to R322, R390, R425). -/
def Chip.later (c d : Chip) : Prop := d.timeless = c.timeless ∧ sameFields timeFields c d

/-! ### Sequencer instructions -/

/-- Context n can issue its next instruction: it is RUNNABLE in a unit that runs programs, no handoff holds the contexts, and
its program counter lies in the area it may run in (R52, R56, R399). -/
def Ready (n : CtxId) (s : State) : Prop := s.chip.canIssue n = true ∧ s.chip.pcBad n = false

/-- Context n goes on with the next instruction. -/
def wentOn (n : CtxId) (s t : State) : Prop := t.chip.pc n = (s.chip.pc n + 1) % 2 ^ 19

/-- From s to t context n has written v to gD and gone on with its next instruction, and nothing else has changed: g0 reads 0
whatever is written (R53), every other g and every w register of every context, every register field but the program counter, all
of memory and all other state are as before. -/
def WroteG (n : CtxId) (gd : BitVec 5) (v : W64) (s t : State) : Prop :=
  t.mem = s.mem ∧ t.pending = s.pending ∧ wentOn n s t ∧
  (∀ m i, i < 32 → t.chip.g m i = if m = n.val ∧ i = gd.toNat ∧ gd ≠ 0 then v else s.chip.g m i) ∧
  sameW s.chip t.chip ∧ sameFields [SEQ_CPC_PC n] s.chip t.chip ∧ t.chip.bare = s.chip.bare

/-- The instruction's whole effect is to write v to gD and to go on. -/
def Gives (c : Instr) (n : CtxId) (gd : BitVec 5) (v : W64) (s : State) : Prop :=
  ∃ t, exec c s = .next t ∧ WroteG n gd v s t

/-- As `Gives`, when the instruction reads D-space with outcome r, which the read's ECC checker reports (R27, R28): the rest stays as it was
after that report. -/
def GivesD (c : Instr) (n : CtxId) (gd : BitVec 5) (v : W64) (r : Ecc) (s : State) : Prop :=
  ∃ t, exec c s = .next t ∧ WroteG n gd v (s.onChip (·.dRead r)) t

/-- As `WroteG`, when the program counter goes to `target` instead of the next instruction, in the area of program memory where it lies
(R56), and v, where there is one, goes to gD. -/
def Jumped (n : CtxId) (target : Nat) (gd : BitVec 5) (v : Option W64) (s t : State) : Prop :=
  t.mem = s.mem ∧ t.pending = s.pending ∧ t.chip.pc n = target ∧
  (∀ m i, i < 32 → t.chip.g m i =
    match v with
    | some v => if m = n.val ∧ i = gd.toNat ∧ gd ≠ 0 then v else s.chip.g m i
    | none => s.chip.g m i) ∧
  sameW s.chip t.chip ∧ sameFields [SEQ_CPC_PC n] s.chip t.chip ∧
  (∀ m, t.chip.resident m = if m = n.val then decide (0x7C000 ≤ target) else s.chip.resident m) ∧
  { t.chip.bare with seq := { t.chip.bare.seq with inRes := [] } } = { s.chip.bare with seq := { s.chip.bare.seq with inRes := [] } }

/-- The instruction's whole effect is a jump. -/
def JumpsTo (c : Instr) (n : CtxId) (target : Nat) (gd : BitVec 5) (v : Option W64) (s : State) : Prop :=
  ∃ t, exec c s = .next t ∧ Jumped n target gd v s t

/-- From s to t context n has written v to wD and gone on, and nothing else has changed, but that w0 of context 0 is published to
the bar engines in SEQ_PCUR and notes whether the stream is behind (R78, R93). -/
def WroteW (n : CtxId) (wd : BitVec 5) (v : W64) (s t : State) : Prop :=
  t.mem = s.mem ∧ t.pending = s.pending ∧ wentOn n s t ∧ sameG s.chip t.chip ∧
  (∀ m i, i < 8 → t.chip.w m i = if m = n.val ∧ i = wd.toNat then v else s.chip.w m i) ∧
  (if n = 0 ∧ wd = 0 then t.chip.get SEQ_PCUR_CUR = v.toNat else t.chip.get SEQ_PCUR_CUR = s.chip.get SEQ_PCUR_CUR) ∧
  sameFields [SEQ_CPC_PC n, SEQ_PCUR_CUR] s.chip t.chip ∧
  { t.chip.bare with strm := { t.chip.strm with behind := false } } =
    { s.chip.bare with strm := { s.chip.strm with behind := false } }

/-- The chip without its registers, its g and w registers and the journal that an ACTIVE unit keeps for its peer. -/
def Chip.unjournalled (c : Chip) : Chip := { c.bare with twin := { c.twin with kept := [], fresh := [] } }

/-- From m to m' the bytes bs have been stored from address a on, and every other byte reads as before. -/
def Stored (m m' : ByteMem) (a : Nat) (bs : List Byte) : Prop :=
  ∀ x, m'.byte x = if a ≤ x ∧ x < a + bs.length then bs.getD (x - a) 0 else m.byte x

/-- From s to t context n has stored the bytes bs at address a of D-space and gone on, writing gD where v says so; the store is
journalled (Table 15-5), and nothing else has changed. -/
def StoredD (n : CtxId) (a : Nat) (bs : List Byte) (gd : BitVec 5) (v : Option W64) (s t : State) : Prop :=
  Stored s.mem.data t.mem.data a bs ∧ t.mem.job = s.mem.job ∧ t.mem.prog = s.mem.prog ∧ t.pending = s.pending ∧
  wentOn n s t ∧ sameW s.chip t.chip ∧
  (∀ m i, i < 32 → t.chip.g m i =
    match v with
    | some v => if m = n.val ∧ i = gd.toNat ∧ gd ≠ 0 then v else s.chip.g m i
    | none => s.chip.g m i) ∧
  sameFields [SEQ_CPC_PC n, TW_JSEQ_JSEQ] s.chip t.chip ∧ t.chip.unjournalled = s.chip.unjournalled

/-- As `StoredD`, in the job store. -/
def StoredJ (n : CtxId) (a : Nat) (bs : List Byte) (s t : State) : Prop :=
  Stored s.mem.job t.mem.job a bs ∧ t.mem.data = s.mem.data ∧ t.mem.prog = s.mem.prog ∧ t.pending = s.pending ∧
  wentOn n s t ∧ sameG s.chip t.chip ∧ sameW s.chip t.chip ∧
  sameFields [SEQ_CPC_PC n, TW_JSEQ_JSEQ] s.chip t.chip ∧ t.chip.unjournalled = s.chip.unjournalled

/-- From s to t context n has begun operation o: it is STALLED at this instruction with KIND k, and nothing else has changed. -/
def Began (n : CtxId) (k : Nat) (o : PendOp) (s t : State) : Prop :=
  t.mem = s.mem ∧ t.pending = s.pending ∧ t.chip.pc n = s.chip.pc n ∧ t.chip.ctxState n = STALLED ∧
  t.chip.get (SEQ_CWAIT_KIND n) = k ∧ t.chip.pendOp n = some o ∧ sameG s.chip t.chip ∧ sameW s.chip t.chip ∧
  sameFields [SEQ_CSTAT_STATE n, SEQ_CWAIT_KIND n, SEQ_CWAIT_OPERAND n] s.chip t.chip ∧
  { t.chip.bare with seq := { t.chip.bare.seq with ops := [] } } = { s.chip.bare with seq := { s.chip.bare.seq with ops := [] } }

/-- Context n runs again: RUNNABLE, with no wait shown. -/
def Resumed (n : CtxId) (t : State) : Prop :=
  t.chip.ctxState n = RUNNABLE ∧ t.chip.get (SEQ_CWAIT_KIND n) = 0

/-- From s to t context n has taken trap `code` (R63, R64): SEQ_CTRAPn records the code and the program counter; context 0 enters
TRAPPED, a handler ends its dispatch and returns to IDLE; no register and no memory is written. -/
def Trapped (n : CtxId) (code : Nat) (s t : State) : Prop :=
  t.mem = s.mem ∧ t.pending = s.pending ∧ sameG s.chip t.chip ∧ sameW s.chip t.chip ∧ t.chip.pc n = s.chip.pc n ∧
  t.chip.get (SEQ_CTRAP_TRAPPED n) = 1 ∧ t.chip.get (SEQ_CTRAP_TPC n) = s.chip.pc n % 2 ^ 19 ∧
  t.chip.get (SEQ_CTRAP_CODE n) = code ∧ t.chip.ctxState n = (if n = 0 then TRAPPED else IDLE)

/-- The comparison that a condition code names (R66): EQ, NE, LT and GE signed, LTU and GEU. -/
def holds (k : Nat) (a b : W64) : Prop :=
  (k = 0 ∧ a = b) ∨ (k = 1 ∧ a ≠ b) ∨ (k = 2 ∧ a.toInt < b.toInt) ∨ (k = 3 ∧ b.toInt ≤ a.toInt) ∨
  (k = 4 ∧ a.toNat < b.toNat) ∨ (k = 5 ∧ b.toNat ≤ a.toNat)

/-! ### Terms of single families -/

/-- The address and width of a load or store: gA + IMM modulo 2⁶⁴, and 2^SUB[1:0] bytes, aligned to that width (R67). -/
def dataAddress (n : CtxId) (f : Fields) (s : State) : Nat := (s.chip.g n f.ga.toNat + f.imm.signExtend 64).toNat

/-- From s to t context n has appended characters to the text buffer at a (R97): its length byte and the bytes after the text that
stood there take them, gD takes the new length, the context goes on, and no other byte and no other register changes. -/
def Appended (n : CtxId) (gd : BitVec 5) (a : Nat) (chars : List Byte) (s t : State) : Prop :=
  let len := (s.mem.data.byte a).toNat
  t.mem.job = s.mem.job ∧ t.mem.prog = s.mem.prog ∧ t.pending = s.pending ∧ wentOn n s t ∧ sameW s.chip t.chip ∧
  (∀ x, t.mem.data.byte x = if x = a then BitVec.ofNat 8 (len + chars.length)
    else if a + 1 + len ≤ x ∧ x < a + 1 + len + chars.length then chars.getD (x - (a + 1 + len)) 0 else s.mem.data.byte x) ∧
  (∀ m i, i < 32 → t.chip.g m i = if m = n.val ∧ i = gd.toNat ∧ gd ≠ 0 then BitVec.ofNat 64 (len + chars.length) else s.chip.g m i) ∧
  sameFields [SEQ_CPC_PC n, TW_JSEQ_JSEQ] s.chip t.chip

/-- Digits of a base, 0 to 9 then A to Z, that spell v, most significant first. -/
def spells (base v : Nat) (ds : List Byte) : Prop :=
  (∀ b ∈ ds, ∃ d, d < base ∧ b = digitChar d) ∧
  ds.foldl (fun m b => m * base + if b.toNat < 58 then b.toNat - 48 else b.toNat - 55) 0 = v

/-- From s to t context n has begun to compose x, w columns by h rows, into field slot i, which was free: the unit is busy for it, and
the context is STALLED with KIND 10 until gD takes the slot's handle with generation, width and height (R98, R107, R108). -/
def Composing (n : CtxId) (gd : BitVec 5) (x : SlotContent) (w h : Nat) (s t : State) : Prop :=
  ∃ i, i < 2 ^ 20 ∧ (s.chip.slot i).content = none ∧ t.mem = s.mem ∧ sameG s.chip t.chip ∧ sameW s.chip t.chip ∧
    t.chip.pc n = s.chip.pc n ∧
    (∀ j, t.chip.slot j = if j = i then ⟨(s.chip.slot i).gen, some x, w, h, false⟩ else s.chip.slot j) ∧
    t.chip.vd.busy = some n.val ∧ t.chip.vd.turns = s.chip.vd.turns.filter (· ≠ n.val) ∧ t.chip.ctxState n = STALLED ∧ t.chip.get (SEQ_CWAIT_KIND n) = 10 ∧
    t.chip.pendOp n = some (.compose gd.toNat (i + 2 ^ 20 * (s.chip.slot i).gen + 2 ^ 32 * w + 2 ^ 50 * h))

/-- From s to t context n has run a staging instruction: gD takes r, the context goes on, memory and all other registers of contexts stay. -/
def StagingDone (n : CtxId) (gd : BitVec 5) (r : Nat) (s t : State) : Prop :=
  t.mem = s.mem ∧ t.pending = s.pending ∧ wentOn n s t ∧ sameW s.chip t.chip ∧
  ∀ m i, i < 32 → t.chip.g m i = if m = n.val ∧ i = gd.toNat ∧ gd ≠ 0 then BitVec.ofNat 64 r else s.chip.g m i

/-- The executor of host commands starts descriptor x at time t: x is the first system command that waits in queue q, it is command
opc (with STAGE_CTL function fn), no check of its form, class or role stops it, and the owner of q holds grant g, where the
command asks for one. c is the chip at that time with x taken from the queue. -/
def Started (t : Nat) (q : Fin 64) (opc fn : Nat) (g : Option Nat) (x : InDesc) (c : Chip) (s : State) : Prop :=
  (s.at_ t).chip.takeSys q = some (x, c) ∧ x.opc = opc ∧ x.fn = fn ∧ c.early q x = none ∧ ∀ k, g = some k → c.granted q k = true

/-- The command's whole effect is that descriptor x completes with a status and a result. -/
def OnlyCompletes (e : Instr) (t : Nat) (q : Fin 64) (x : InDesc) (st : Nat) (res : List Byte) (c : Chip) (s : State) : Prop :=
  exec e s = .next { s.at_ t with chip := c.complete q x.tag x.rx st res }

/-- Host commands with OPC, STAGE_CTL function and the grant that each asks for (Tables 13-2, 13-5). -/
def hostCommands (t : Nat) (q : Fin 64) (host : List Byte) (r : Ecc) (lost : List Nat) : List (Instr × Nat × Nat × Option Nat) :=
  [(.run t q, 1, 0, some 0), (.stop t q, 2, 0, some 0), (.fireArm t q, 3, 0, some 0), (.loadProgram t ⟨q, r⟩, 4, 0, some 0),
   (.stageQuery t q, 5, 0, some 0), (.stageCheck t q, 5, 1, some 0), (.stageCommitw t q, 5, 2, some 0), (.stageCommitt t q, 5, 3, some 0),
   (.stageAbandon t q, 5, 4, some 0), (.stageTload t q, 5, 5, some 0), (.stageRestorefac t q, 5, 6, some 0), (.stageCalsave t q, 5, 7, some 0),
   (.setCivil t q, 6, 0, some 2), (.status t q, 7, 0, none), (.regRead t q, 8, 0, none), (.regWrite t q, 9, 0, none),
   (.alloc t q, 0x100, 0, none), (.free t q, 0x101, 0, none), (.setrights t q, 0x102, 0, none), (.sealAlloc t q, 0x103, 0, none),
   (.unsealAlloc t q, 0x104, 0, none), (.write t q host, 0x105, 0, none), (.read t q r, 0x106, 0, none), (.compress t q, 0x107, 0, none),
   (.decompress t q, 0x108, 0, none), (.sendAt t q, 0x109, 0, some 2), (.report t q ⟨host, r, lost⟩, 0x200, 0, some 1)]

/-- A STAGE_CTL function leaves u and completes with a status; RESULT returns gD, SEQ_SCPT, the state of the set and the trap code (R374). -/
def StageCompletes (e : Instr) (q : Fin 64) (x : InDesc) (st gd code : Nat) (u s : State) : Prop :=
  let result := le 8 gd ++ le 8 (u.chip.get SEQ_SCPT_CPOINT) ++ le 1 u.chip.sstate ++ le 1 code
  exec e s = .next { u with chip := u.chip.complete q x.tag x.rx st result }

/-- A job store command starts (R113, R426): as `Started`, with MR not under self-test and powered; a command on a B-class queue notes its time. -/
def StoreStarted (t : Nat) (q : Fin 64) (opc : Nat) (g : Option Nat) (x : InDesc) (c : Chip) (s : State) : Prop :=
  s.chip.testing 4 = false ∧ ∃ d : Chip, Started t q opc 0 g x d s ∧ d.regionOn 4 = true ∧
    c = if d.get (QM_QCFG_CLASS q) = 1 then { d with hosts := { d.hosts with lastB := d.ns } } else d

/-- From c to d allocation a is put into the allocation table in place of the one with its index, which the journal notes; nothing else changes. -/
def Reallocated (a : Alloc) (c d : Chip) : Prop :=
  d.store.allocs = c.store.allocs.map (fun y => if y.index = a.index then a else y) ∧ sameFields [TW_JSEQ_JSEQ] c d ∧
  { d with regs := [], twin := {}, store := {} } = { c with regs := [], twin := {}, store := {} } ∧
  { d.store with allocs := [], lines := [] } = { c.store with allocs := [], lines := [] }

/-- The command takes effect at time t, and its whole effect is that the chip becomes d: memories and queue stay. -/
def Acts (e : Instr) (t : Nat) (s : State) (d : Chip) : Prop := exec e s = .next { s.at_ t with chip := d }

/-- The command has no effect but that time goes on to t. -/
def Passes (e : Instr) (t : Nat) (s : State) : Prop := exec e s = .next (s.at_ t)

/-- Codec job j ends at time t: it leaves the queue and its command completes with a status and a result; the bytes bs have been stored in the job
store from address a on. c is the chip before. -/
def JobEnds (e : Instr) (t : Nat) (j : CodecJob) (st : Nat) (res : List Byte) (a : Nat) (bs : List Byte) (c : Chip) (s : State) : Prop :=
  ∃ (d : Chip) (m : Mem), exec e s = .next { s.at_ t with mem := m, chip := d.complete j.queue j.tag j.rx st res } ∧
    Stored s.mem.job m.job a bs ∧ m.data = s.mem.data ∧ m.prog = s.mem.prog ∧ sameFields [TW_JSEQ_JSEQ] c d ∧
    d.store = { c.store with jobs := c.store.jobs.filter fun k => k.id ≠ j.id } ∧
    { d with regs := [], twin := {}, store := {}, free := 0 } = { c with regs := [], twin := {}, store := {}, free := 0 }

/-- A good datagram of type ty arrives at time t on a host port from the address that holds the session `ses` of its tenant there (R343, R344). c is the
chip with the session heard. -/
def Heard (t : Nat) (p : Fin 4) (addr udp ty : Nat) (frame : List Byte) (ses : Session) (c : Chip) (s : State) : Prop :=
  frameOk frame = true ∧ frameType frame = ty ∧ (s.at_ t).chip.session (frameTenant frame) p = some ses ∧ ses.addr = addr ∧ ses.udp = udp ∧
    c = (s.at_ t).chip.setSession (frameTenant frame) p (some { ses with lastNs := (s.at_ t).chip.ns })

/-- Lane l after the data blocks of a frame (R269). -/
def arrived (c : Chip) (l : Nat) (fr : List RxBlock) : Chip := if fr.any (·.data) then c.dataBlock l else c

/-- At time t lane l, in SERVICE, receives a STAT frame that stands (R277), with r of the given type as its record i (Table 11-10). -/
def Received (t : Nat) (l : Fin 96) (fr : List RxBlock) (i type : Nat) (r : List Byte) (s : State) : Prop :=
  (s.at_ t).chip.laneState l = 4 ∧ statRecord fr i = some r ∧ fieldAt r 0 1 = type

/-- At time t lane l receives a frame that gives no record i of the type: the lane is not in SERVICE, the receiver discards the frame, or it holds no such
record (R277). -/
def NotReceived (t : Nat) (l : Fin 96) (fr : List RxBlock) (i type : Nat) (s : State) : Prop :=
  (s.at_ t).chip.laneState l ≠ 4 ∨ ∀ r, statRecord fr i = some r → fieldAt r 0 1 ≠ type

end Sys2Proof.Machine

namespace Sys2Proof

/-- The commands that may store to memory: stores and copies of programs, text stores, received descriptors, WRITE, codec jobs, LOAD_PROGRAM, what
a STANDBY or CATCHUP unit applies, and what takes power or a fresh start away. -/
def Instr.stores : Instr → Bool
  | .std .. | .aadd .. | .acas .. | .stj .. | .cpdj .. | .jobStoreAccessDone .. | .qrecv .. | .vfmt .. | .vdate .. | .vchk ..
  | .write .. | .codecJobDone .. | .loadProgram .. | .epochRecord .. | .ropeJrn .. | .snapshotAdopt .. | .pwrgoodRise .. | .pwrgoodFall ..
  | .shutdownDone .. | .shutdownPowerDown .. | .thermalSample .. => true
  | _ => false

end Sys2Proof
end

