-- ==== Sys2Proof/WellFormed.lean ====
section
/-!
DEFINITION. Sys2Proof/WellFormed.lean: which commands are well formed: the operands that a list or a number carries have the sizes
that the spec gives what they stand for. `exec` is total on ill-formed commands as well.
-/
namespace Sys2Proof

/-- A list has n elements. -/
def sized {α : Type} (n : Nat) (xs : List α) : Bool := decide (xs.length = n)

/-- A number fits in n bits. -/
def fits (n v : Nat) : Bool := decide (v < 2 ^ n)

/-- A journal or snapshot item: bytes and numbers as long as a section can be (R394, 16 GiB with the job store's 24 GiB). -/
def JItem.ok (e : JItem) : Bool := e.args.all (fits 64)

/-- The record of a STAT frame: 8-byte blocks, at most 32 records (R276, R302). -/
def StatRec.ok (r : StatRec) : Bool := r.fr.all (fun b => sized 8 b.bytes) && decide (r.i < 32)

/-- The operands have their sizes: a descriptor 64 bytes (R335), a ring entry 64 bytes (R348), a training block and a marker 8 bytes
(Tables 10-4, 10-5), a received block 8 bytes and a STAT frame at most 32 records (R276, R302), a belay frame 16 octets (Table 15-4), HROW of 96 lanes (R399), 24 sensors
(R436), one loss figure per bar at most (R195), at least one and at most 16 application or register words (R346); identities, tokens,
epochs and sequence numbers fit their fields. -/
def Instr.wf : Instr → Bool
  | .trap _ w => w.op = 0xF1 || !definedOp w.op.toNat
  | .applicationDescriptor _ _ d rx => sized 64 d && fits 32 rx
  | .doorbell _ _ _ _ ring => ring.all (sized 64)
  | .bulk _ _ addr udp _ => fits 128 addr && fits 16 udp
  | .descFrame _ _ addr udp _ => fits 128 addr && fits 16 udp
  | .openSession _ _ _ addr udp _ => fits 128 addr && fits 16 udp
  | .closeSession _ _ addr udp _ => fits 128 addr && fits 16 udp
  | .resync _ _ addr udp _ => fits 128 addr && fits 16 udp
  | .neighbourRequest _ _ v6 target => fits (if v6 then 128 else 32) target
  | .trainingBlock _ _ block => sized 8 block
  | .cairnMarker _ _ block _ _ _ => sized 8 block
  | .echo _ _ r => r.ok
  | .ack _ _ r => r.ok
  | .fireReport _ _ r => r.ok
  | .epochRecord _ _ r => r.ok
  | .claimReply _ _ r => r.ok
  | .tempRecord _ _ r => r.ok
  | .eeReply _ _ r => r.ok
  | .hubInfo _ _ r => r.ok
  | .echoTimeout _ _ _ row => fits 64 row
  | .ackTimeout _ _ fseq => fits 32 fseq
  | .belayFrame _ octets => sized 16 octets
  | .ropeHb _ b => decide (b.role ≤ 4) && fits 32 b.epoch && fits 32 b.jseq && fits 32 b.unit
  | .ropeAck _ rseq => fits 16 rseq
  | .ropeResendTimeout _ rseq => fits 16 rseq
  | .ropeOffer _ rseq token hrow => fits 16 rseq && fits 32 token && sized 96 hrow
  | .ropeHash _ rseq hs => fits 16 rseq && hs.all fun h => decide (h.bar < 16)
  | .ropeVerdict _ rseq bar _ _ => fits 16 rseq && decide (bar < 16)
  | .ropeJrn _ rseq es => fits 16 rseq && es.all fun e => fits 32 e.1 && e.2.ok
  | .ropeSnap _ rseq sect items _ => fits 16 rseq && decide (sect < 11) && items.all JItem.ok
  | .headroomWindow _ lost => decide (lost.length ≤ 16)
  | .thermalSample _ temps _ _ => sized 24 temps
  | _ => true

end Sys2Proof
end

