-- ==== Sys2Proof/Certificates/Slice0/Obligations.lean ====
section
/-!
DEFINITION. Sys2Proof/Certificates/Slice0/Obligations.lean: the statements for the provers. Each is named after what it states; the rules of spec/
that it formalises stand in its docstring. `Acts`, `Passes`, `Gives`, `Trapped`, `OnlyCompletes` and the other terms are in Sys2Proof/Safety.lean. A
statement says the whole next state, or the fields that change and that every other is as before.
-/
open Sys2Proof Sys2Proof.Machine

/-! ### Sequencer: arithmetic and logic (R65, Table 3-5) -/

/-- R53, R62, R65: with no reserved field set, add, sub, mul (modulo 2⁶⁴), the logic operations, and the shifts and rotation by the low
6 bits of the second operand write their result to gD, and nothing else changes. -/
def Obligations.ArithmeticLogicShift : Prop :=
  ∀ (n : CtxId) (f : Fields) (s : State), Ready n s → resvOp2 f 0 = [] →
    let a := s.chip.g n f.ga.toNat
    let b := s.chip.op2 n f
    Gives (.add n f) n f.gd (a + b) s ∧ Gives (.sub n f) n f.gd (a - b) s ∧ Gives (.mul n f) n f.gd (a * b) s ∧
    Gives (.and n f) n f.gd (a &&& b) s ∧ Gives (.or n f) n f.gd (a ||| b) s ∧ Gives (.xor n f) n f.gd (a ^^^ b) s ∧
    Gives (.andn n f) n f.gd (a &&& ~~~b) s ∧ Gives (.shl n f) n f.gd (a <<< (b.toNat % 64)) s ∧
    Gives (.shr n f) n f.gd (a >>> (b.toNat % 64)) s ∧ Gives (.sar n f) n f.gd (a.sshiftRight (b.toNat % 64)) s ∧
    Gives (.ror n f) n f.gd (a.rotateRight (b.toNat % 64)) s

/-- R65: SUB[0] chooses signed or unsigned. Division rounds toward zero, the remainder takes the sign of gA, −2⁶³ by −1 wraps to
−2⁶³ with remainder 0; min and max; the high half of the product. -/
def Obligations.SignedUnsignedArithmetic : Prop :=
  ∀ (n : CtxId) (f : Fields) (s : State), Ready n s → resvOp2 f 1 = [] →
    let a := s.chip.g n f.ga.toNat
    let b := s.chip.op2 n f
    (f.sub.getLsbD 0 = true → b ≠ 0 →
      Gives (.div n f) n f.gd (a.sdiv b) s ∧ Gives (.rem n f) n f.gd (a.srem b) s) ∧
    (f.sub.getLsbD 0 = false → b ≠ 0 →
      Gives (.div n f) n f.gd (a / b) s ∧ Gives (.rem n f) n f.gd (a % b) s) ∧
    (f.sub.getLsbD 0 = true →
      Gives (.mulh n f) n f.gd (BitVec.ofInt 64 (a.toInt * b.toInt / 2 ^ 64)) s ∧
      Gives (.min n f) n f.gd (if b.slt a then b else a) s ∧ Gives (.max n f) n f.gd (if a.slt b then b else a) s) ∧
    (f.sub.getLsbD 0 = false →
      Gives (.mulh n f) n f.gd (BitVec.ofNat 64 (a.toNat * b.toNat / 2 ^ 64)) s ∧
      Gives (.min n f) n f.gd (if b.ult a then b else a) s ∧ Gives (.max n f) n f.gd (if a.ult b then b else a) s)

/-- R65: gA × gB / IMM exactly, floored, or with SUB[0] rounded half up, when it fits; the count of leading zeros r (the value has
its highest set bit at 63 − r, and r = 64 for 0); the count of set bits; li zero-extends IMM when SUB[0] is set and
sign-extends it otherwise; lui puts IMM above the low half of gA; ext takes IMM[5:0] + 1 bits of gA from bit SUB[5:0]. -/
def Obligations.MuldivCountsConstantsExtract : Prop :=
  ∀ (n : CtxId) (f : Fields) (s : State), Ready n s →
    let a := s.chip.g n f.ga.toNat
    let b := s.chip.g n f.gb.toNat
    (resvRaw f 1 true true true true = [] → ∀ r : Nat, r < 2 ^ 64 → f.imm ≠ 0 →
      (f.sub.getLsbD 0 = false → r * f.imm.toNat ≤ a.toNat * b.toNat → a.toNat * b.toNat < (r + 1) * f.imm.toNat →
        Gives (.muldiv n f) n f.gd (BitVec.ofNat 64 r) s) ∧
      (f.sub.getLsbD 0 = true → (2 * r - 1) * f.imm.toNat ≤ 2 * (a.toNat * b.toNat) → (r = 0 → 2 * (a.toNat * b.toNat) < f.imm.toNat) →
        2 * (a.toNat * b.toNat) < (2 * r + 1) * f.imm.toNat →
        Gives (.muldiv n f) n f.gd (BitVec.ofNat 64 r) s)) ∧
    (resvRaw f 0 true true false false = [] →
      (∃ r : Nat, Gives (.clz n f) n f.gd (BitVec.ofNat 64 r) s ∧ r ≤ 64 ∧ a.toNat < 2 ^ (64 - r) ∧
        (r < 64 → 2 ^ (63 - r) ≤ a.toNat)) ∧
      Gives (.popc n f) n f.gd (BitVec.ofNat 64 ((List.range 64).filter a.getLsbD).length) s) ∧
    (resvRaw f 1 true false false true = [] →
      Gives (.li n f) n f.gd (if f.sub.getLsbD 0 then f.imm.setWidth 64 else f.imm.signExtend 64) s) ∧
    (resvRaw f 0 true true false true = [] → Gives (.lui n f) n f.gd (f.imm ++ a.setWidth 32) s) ∧
    (resvRaw f 63 true true false true = [] → f.imm < 64 →
      Gives (.ext n f) n f.gd (((a >>> (f.sub.toNat % 64)).setWidth (f.imm.toNat % 64 + 1)).setWidth 64) s)

/-! ### Sequencer: special registers, w registers, branches (R54, R55, R66, Tables 3-2, 3-5, 3-6) -/

/-- R55, Table 3-2: movs reads DT in ns, civil time, X, the web speed, the unit epoch, the role, or the headroom word; movg copies a w
register; wdiff is the exact difference of two, when it fits in 64 signed bits; the set instruction writes 1 when its condition holds
and 0 otherwise. -/
def Obligations.SpecialRegisterCopyDifferenceCondition : Prop :=
  ∀ (n : CtxId) (f : Fields) (s : State), Ready n s →
    (resvRaw f 7 true false false false = [] →
      (f.sub = 0 → Gives (.movs n f) n f.gd (BitVec.ofNat 64 (s.chip.dt / 65536)) s) ∧
      (f.sub = 1 → Gives (.movs n f) n f.gd (BitVec.ofInt 64 s.chip.civil) s) ∧
      (f.sub = 2 → Gives (.movs n f) n f.gd (BitVec.ofNat 64 (s.chip.get WM_X_X)) s) ∧
      (f.sub = 3 → Gives (.movs n f) n f.gd (BitVec.ofInt 64 s.chip.webSpeed) s) ∧
      (f.sub = 4 → Gives (.movs n f) n f.gd (BitVec.ofNat 64 s.chip.twin.epoch) s) ∧
      (f.sub = 5 → Gives (.movs n f) n f.gd (BitVec.ofNat 64 (s.chip.get TW_STAT_ROLE)) s) ∧
      (f.sub = 6 → Gives (.movs n f) n f.gd (BitVec.ofNat 64 s.chip.headroomWord) s)) ∧
    (resvRaw f 0 true true false false = [] → f.ga < 8 → Gives (.movg n f) n f.gd (s.chip.w n f.ga.toNat) s) ∧
    (resvRaw f 0 true true true false = [] → f.ga < 8 → f.gb < 8 → ∀ d : W64,
      d.toInt = (s.chip.w n f.ga.toNat).toNat - (s.chip.w n f.gb.toNat).toNat → Gives (.wdiff n f) n f.gd d s) ∧
    (resvOp2 f 7 = [] → f.sub.toNat % 8 < 6 →
      (holds (f.sub.toNat % 8) (s.chip.g n f.ga.toNat) (s.chip.op2 n f) → Gives (.setCond n f) n f.gd 1 s) ∧
      (¬ holds (f.sub.toNat % 8) (s.chip.g n f.ga.toNat) (s.chip.op2 n f) → Gives (.setCond n f) n f.gd 0 s))

/-- R54, R65, R78: movw and addw write a w register; the sum is exact and lies in 0 to 2⁶⁴ − 1; w0 of context 0 does not fall, and is
published. (For w0 of context 0 this states the case where the stream does not fall behind: it is closed, or the new value
has reached the front horizon.) -/
def Obligations.WRegisterWrites : Prop :=
  ∀ (n : CtxId) (f : Fields) (s : State), Ready n s → f.gd < 8 →
    (resvRaw f 0 true true false false = [] → ∀ v : W64, v = s.chip.g n f.ga.toNat →
      (n = 0 ∧ f.gd = 0 → (s.chip.w 0 0).toNat ≤ v.toNat ∧ (s.chip.get SEQ_PSTAT_OPEN = 0 ∨ s.chip.frontHorizon ≤ v.toNat)) →
      ∃ t, exec (.movw n f) s = .next t ∧ WroteW n f.gd v s t) ∧
    (resvOp2 f 0 = [] → f.ga < 8 → ∀ v : W64, (v.toNat : Int) = (s.chip.w n f.ga.toNat).toNat + (s.chip.op2 n f).toInt →
      (n = 0 ∧ f.gd = 0 → (s.chip.w 0 0).toNat ≤ v.toNat ∧ (s.chip.get SEQ_PSTAT_OPEN = 0 ∨ s.chip.frontHorizon ≤ v.toNat)) →
      ∃ t, exec (.addw n f) s = .next t ∧ WroteW n f.gd v s t)

/-- R66: a branch whose condition holds goes to pc + IMM, IMM signed, and goes on otherwise; brw compares w registers, for equality and
unsigned order only. jal writes pc + 1 to gD and jumps to pc + IMM; jalr jumps to gA + IMM, computed before gD takes pc + 1; loop takes 1
from gD and branches to pc + IMM while the result is not 0. A jump writes nothing else, and a target is checked only when it is taken. -/
def Obligations.BranchesJumpsAndLoop : Prop :=
  (∀ (n : CtxId) (f : Fields) (s : State), Ready n s → resvRaw f 7 false true true true = [] →
     let k := f.sub.toNat % 8
     let target : Int := s.chip.pc n + f.imm.toInt
     (k < 6 →
       (holds k (s.chip.g n f.ga.toNat) (s.chip.g n f.gb.toNat) → s.chip.targetBad n target = false →
         JumpsTo (.branch n f) n target.toNat 0 none s) ∧
       (¬ holds k (s.chip.g n f.ga.toNat) (s.chip.g n f.gb.toNat) →
         Gives (.branch n f) n 0 0 s)) ∧
     (f.ga < 8 → f.gb < 8 → k < 6 → k ≠ 2 → k ≠ 3 →
       (holds k (s.chip.w n f.ga.toNat) (s.chip.w n f.gb.toNat) → s.chip.targetBad n target = false →
         JumpsTo (.brw n f) n target.toNat 0 none s) ∧
       (¬ holds k (s.chip.w n f.ga.toNat) (s.chip.w n f.gb.toNat) →
         Gives (.brw n f) n 0 0 s))) ∧
  (∀ (n : CtxId) (f : Fields) (s : State), Ready n s →
     let target : Int := s.chip.pc n + f.imm.toInt
     let ret := BitVec.ofNat 64 (s.chip.pc n + 1)
     let left := s.chip.g n f.gd.toNat - 1
     (resvRaw f 0 true false false true = [] → s.chip.targetBad n target = false →
       JumpsTo (.jal n f) n target.toNat f.gd (some ret) s ∧
       (left ≠ 0 → JumpsTo (.loop n f) n target.toNat f.gd (some left) s)) ∧
     (resvRaw f 0 true false false true = [] → left = 0 →
       Gives (.loop n f) n f.gd 0 s) ∧
     (resvRaw f 0 true true false true = [] →
       s.chip.targetBad n (s.chip.g n f.ga.toNat + f.imm.signExtend 64).toNat = false →
       JumpsTo (.jalr n f) n (s.chip.g n f.ga.toNat + f.imm.signExtend 64).toNat f.gd (some ret) s))

/-! ### Sequencer: memory (R58, R59, R67, R68, Table 3-7) -/

/-- R28, R58, R67: an aligned access inside D-space whose data is not uncorrectable; a corrected one is a notice. ldd loads 1, 2, 4 or 8 bytes, little-endian,
sign-extended when SUB[2] is set and zero-extended otherwise; std stores the low bytes of gB at the address, and
no other byte of any memory changes. -/
def Obligations.DataSpaceLoadStore : Prop :=
  ∀ (n : CtxId) (f : Fields) (s : State), Ready n s →
    let a := dataAddress n f s
    let k := 2 ^ (f.sub.toNat % 4)
    a % k = 0 → a + k ≤ 0x100000 →
    (resvRaw f 7 true true false true = [] →
      ∀ r : Ecc, r ≠ .uncorrectable →
      (f.sub.getLsbD 2 = false → GivesD (.ldd n f r) n f.gd (BitVec.ofNat 64 (unle (s.mem.data.read a k))) r s) ∧
      (f.sub.getLsbD 2 = true →
        GivesD (.ldd n f r) n f.gd (BitVec.signExtend 64 (BitVec.ofNat (8 * k) (unle (s.mem.data.read a k)))) r s)) ∧
    (resvRaw f 3 false true true true = [] →
      ∃ t, exec (.std n f) s = .next t ∧ StoredD n a (le k (s.chip.g n f.gb.toNat).toNat) 0 none s t)

/-- R68: the atomic accesses to an aligned doubleword of D-space. Both write its old value to gD; aadd stores the sum of old
value and gB modulo 2⁶⁴; acas stores gB only when the old value equals gD's. (Stated where context 0 does not
journal a checkpoint: a handler's context, or a unit that journals nothing.) The rest stays as after the report of the read. -/
def Obligations.AtomicDataAccess : Prop :=
  ∀ (n : CtxId) (f : Fields) (r : Ecc) (s : State), Ready n s → r ≠ .uncorrectable →
    let u := s.onChip (·.dRead r)
    n ≠ 0 ∨ u.chip.twin.mirroring = false →
    let a := dataAddress n f s
    let old := BitVec.ofNat 64 (unle (s.mem.data.read a 8))
    a % 8 = 0 → a + 8 ≤ 0x100000 → resvRaw f 0 true true true true = [] →
    (∃ t, exec (.aadd n f r) s = .next t ∧
      StoredD n a (le 8 (old + s.chip.g n f.gb.toNat).toNat) f.gd (some old) u t) ∧
    (old = s.chip.g n f.gd.toNat → ∃ t, exec (.acas n f r) s = .next t ∧
      StoredD n a (le 8 (s.chip.g n f.gb.toNat).toNat) f.gd (some old) u t) ∧
    (old ≠ s.chip.g n f.gd.toNat → GivesD (.acas n f r) n f.gd old r s)

/-- R59, R67, R116: job-store accesses that the allocation's rights admit. A load and a copy into D-space stall the context with KIND 4
until the data arrives; a store and a copy from D-space store at once and touch no other byte. Copies move gB bytes, a multiple
of 64 from 64 to 4,096, between 64-byte-aligned addresses. -/
def Obligations.JobStoreAccesses : Prop :=
  ∀ (n : CtxId) (f : Fields) (s : State), Ready n s →
    let a := dataAddress n f s
    let k := 2 ^ (f.sub.toNat % 4)
    let p := (s.chip.g n f.ga.toNat).toNat
    let q := (s.chip.g n f.gd.toNat).toNat
    let m := (s.chip.g n f.gb.toNat).toNat
    (resvRaw f 7 true true false true = [] → a % k = 0 → s.chip.store.mayRead a k = true →
      ∃ t, exec (.ldj n f) s = .next t ∧ Began n 4 (.ldj f.gd.toNat a k (f.sub.getLsbD 2)) s t) ∧
    (resvRaw f 3 false true true true = [] → a % k = 0 → s.chip.store.mayWrite a k = true →
      ∃ t, exec (.stj n f) s = .next t ∧ StoredJ n a (le k (s.chip.g n f.gb.toNat).toNat) s t) ∧
    (resvRaw f 0 true true true false = [] → p % 64 = 0 → q % 64 = 0 → m % 64 = 0 → 64 ≤ m → m ≤ 4096 →
      (q + m ≤ 0x100000 → s.chip.store.mayRead p m = true →
        ∃ t, exec (.cpjd n f) s = .next t ∧ Began n 4 (.cpjd p q m) s t) ∧
      (p + m ≤ 0x100000 → s.chip.store.mayWrite q m = true →
        ∀ r : Ecc, r ≠ .uncorrectable →
        ∃ t, exec (.cpdj n f r) s = .next t ∧ StoredJ n q (s.mem.data.read p m) (s.onChip (·.dRead r)) t))

/-- R59, R114: when the data of a pending load or copy arrives and is not uncorrectable, the load's bytes, extended, are written
to gD, or the copy's bytes to D-space, and the context runs on with its next instruction; every other g and w register and, for a load,
every byte of memory stays; for a copy every byte outside the copied ones. -/
def Obligations.JobStoreAccessCompletes : Prop :=
  ∀ (t : Nat) (n : CtxId) (r : Ecc) (s : State), r ≠ .uncorrectable →
    (∀ gd a k sg, (s.at_ t).chip.pendOp n = some (.ldj gd a k sg) → gd < 32 →
      ∃ u, exec (.jobStoreAccessDone t n r) s = .next u ∧ Resumed n u ∧ wentOn n s u ∧ u.mem = s.mem ∧
        sameW s.chip u.chip ∧ (∀ m i, i < 32 → u.chip.g m i =
          if m = n.val ∧ i = gd ∧ gd ≠ 0 then extend sg (s.mem.job.read a k) else s.chip.g m i)) ∧
    (∀ j d k, (s.at_ t).chip.pendOp n = some (.cpjd j d k) →
      ∃ u, exec (.jobStoreAccessDone t n r) s = .next u ∧ Resumed n u ∧ wentOn n s u ∧
        Stored s.mem.data u.mem.data d (s.mem.job.read j k) ∧ u.mem.job = s.mem.job ∧ u.mem.prog = s.mem.prog ∧
        sameG s.chip u.chip ∧ sameW s.chip u.chip)

/-! ### Sequencer: queues, system instructions, traps, dispatch (R63, R64, R69 to R75) -/

/-- R69, R70, R335: on a queue bound to the context, qpeek gives the application descriptors that wait; qrecv of an empty queue
gives status EMPTY with the queue's tenant; otherwise the head application descriptor leaves the ring, its 64 bytes are
stored at D[gB] and gD gives OK, the tenant and how many still wait. -/
def Obligations.QueuePeekReceive : Prop :=
  ∀ (n : CtxId) (f : Fields) (s : State), Ready n s →
    let q := s.chip.queueOf n f
    let a := (s.chip.g n f.gb.toNat).toNat
    let tenant := s.chip.get (QM_QCFG_TENANT q)
    (resvQueue f false = [] → s.chip.queueTraps n q false = [] →
      Gives (.qpeek n f) n f.gd (BitVec.ofNat 64 (s.chip.appWaiting q).length) s) ∧
    (resvQueue f true = [] → s.chip.queueTraps n q true = [] → a % 64 = 0 → a + 64 ≤ 0x100000 →
      (s.chip.appWaiting q = [] → ∃ t, exec (.qrecv n f) s = .next t ∧ t.mem = s.mem ∧ wentOn n s t ∧
        (∀ m i, i < 32 → t.chip.g m i = if m = n.val ∧ i = f.gd.toNat ∧ f.gd ≠ 0 then BitVec.ofNat 64 (1 + 256 * tenant)
          else s.chip.g m i)) ∧
      (∀ before x after, (s.chip.queue q).inq = before ++ x :: after → (∀ y ∈ before, y.isApp = false) → x.isApp = true →
        x.d.length = 64 →
        ∃ t, exec (.qrecv n f) s = .next t ∧ Stored s.mem.data t.mem.data a x.d ∧ t.mem.job = s.mem.job ∧
          t.mem.prog = s.mem.prog ∧ (t.chip.queue q).inq = before ++ after ∧ wentOn n s t ∧ sameW s.chip t.chip ∧
          (∀ m i, i < 32 → t.chip.g m i = if m = n.val ∧ i = f.gd.toNat ∧ f.gd ≠ 0 then
            BitVec.ofNat 64 (tenant * 256 + (after.filter (·.isApp)).length * 65536) else s.chip.g m i)))

/-- R70, R342, R349: qsend posts a response record whose bytes 12 to 63 are those at D[gB] and gives 0, or, when only reserved slots of
the ring remain, posts nothing and gives FULL; evpost posts a program event of source 46 (context 0) or 47 (a handler) with
code gA[15:0] and data gB to the tenants in IMM[7:0] and gives the tenants whose ring was full. -/
def Obligations.QueueSendEventPost : Prop :=
  ∀ (n : CtxId) (f : Fields) (s : State), Ready n s →
    let q := s.chip.queueOf n f
    let a := (s.chip.g n f.gb.toNat).toNat
    (∀ r : Ecc, r ≠ .uncorrectable →
      let c := s.chip.dRead r
      resvQueue f true = [] → s.chip.queueTraps n q true = [] → a % 64 = 0 → a + 64 ≤ 0x100000 →
      ∃ t, exec (.qsend n f r) s = .next t ∧ t.mem = s.mem ∧ wentOn n s t ∧ sameW s.chip t.chip ∧
        (c.outUsed q < c.get (QM_QCFG_ODEPTH q) →
          t.chip.hosts = (c.postRecord q false 0x02 0 0 ((s.mem.data.read a 64).drop 12)).hosts ∧
          ∀ m i, i < 32 → t.chip.g m i = if m = n.val ∧ i = f.gd.toNat ∧ f.gd ≠ 0 then 0 else s.chip.g m i) ∧
        (c.get (QM_QCFG_ODEPTH q) ≤ c.outUsed q →
          t.chip.hosts = c.hosts ∧
          ∀ m i, i < 32 → t.chip.g m i = if m = n.val ∧ i = f.gd.toNat ∧ f.gd ≠ 0 then 2 else s.chip.g m i)) ∧
    (resvRaw f 0 true true true true = [] → f.imm < 256 →
      let r := s.chip.postCoded f.imm.toNat (if n = 0 then 46 else 47) ((s.chip.g n f.ga.toNat).toNat % 65536)
        (s.chip.g n f.gb.toNat).toNat
      ∃ t, exec (.evpost n f) s = .next t ∧ t.mem = s.mem ∧ wentOn n s t ∧ sameW s.chip t.chip ∧ t.chip.hosts = r.2.hosts ∧
        ∀ m i, i < 32 → t.chip.g m i = if m = n.val ∧ i = f.gd.toNat ∧ f.gd ≠ 0 then BitVec.ofNat 64 r.1 else s.chip.g m i)

/-- R71: nop only goes on; fence waits with KIND 6 and goes on when the fence is done, one with Q not before every queue post of the context is
in its host ring; disp sets or clears the enable of a dispatch entry
that the loaded image defines, and leaves its trigger and count. -/
def Obligations.NopFenceDisp : Prop :=
  ∀ (n : CtxId) (f : Fields) (s : State),
    (Ready n s → resvRaw f 0 false false false false = [] →
      Gives (.nop n f) n 0 0 s) ∧
    (Ready n s → resvRaw f 3 false false false false = [] → f.sub.toNat % 4 ≠ 0 →
      ∃ t, exec (.fence n f) s = .next t ∧ Began n 6 (.fence (f.sub.getLsbD 1)) s t) ∧
    (∀ t, s.chip.pendOp n = some (.fence true) → (s.at_ t).chip.allSent n = false → Passes (.fenceDone t n) t s) ∧
    (∀ t q, s.chip.pendOp n = some (.fence q) → q = false ∨ (s.at_ t).chip.allSent n = true →
      ∃ u, exec (.fenceDone t n) s = .next u ∧ Resumed n u ∧ wentOn n s u ∧ u.mem = s.mem ∧ sameG s.chip u.chip ∧
        sameW s.chip u.chip) ∧
    (Ready n s → resvRaw f 1 false false false true = [] → ∀ e : Fin 128, f.imm.toNat = e → s.chip.get (SEQ_DISPA_RES e) = 0 →
      (s.chip.entry e).defined = true →
      ∃ t, exec (.disp n f) s = .next t ∧ t.mem = s.mem ∧ wentOn n s t ∧
        t.chip.get (SEQ_DISPA_EN e) = f.sub.toNat % 2 ∧ sameG s.chip t.chip ∧ sameW s.chip t.chip ∧
        sameFields [SEQ_CPC_PC n, SEQ_DISPA_EN e] s.chip t.chip ∧ t.chip.bare = s.chip.bare)

/-- R62 to R65, R71: trap raises its software trap, or RESERVED_FIELD below 128; an opcode with no instruction raises ILLEGAL_OP; a division by zero and a zero divisor of muldiv raise DIV_ZERO; a set reserved field
raises RESERVED_FIELD before anything that a later code names; an instruction that traps writes no register and no memory. -/
def Obligations.TrapsAreTaken : Prop :=
  ∀ (n : CtxId) (f : Fields) (s : State), Ready n s →
    (resvRaw f 0 false false false true = [] → 128 ≤ f.imm.toNat → f.imm.toNat < 256 →
      ∃ t, exec (.trap n ⟨0xF1, f⟩) s = .next t ∧ Trapped n f.imm.toNat s t) ∧
    (f.imm.toNat < 128 → ∃ t, exec (.trap n ⟨0xF1, f⟩) s = .next t ∧ Trapped n RESERVED_FIELD s t) ∧
    (∀ op : BitVec 8, op ≠ 0xF1 → definedOp op.toNat = false →
      ∃ t, exec (.trap n ⟨op, f⟩) s = .next t ∧ Trapped n ILLEGAL_OP s t) ∧
    (resvOp2 f 1 = [] → s.chip.op2 n f = 0 →
      (∃ t, exec (.div n f) s = .next t ∧ Trapped n DIV_ZERO s t) ∧ ∃ t, exec (.rem n f) s = .next t ∧ Trapped n DIV_ZERO s t) ∧
    (resvRaw f 1 true true true true = [] → f.imm = 0 → ∃ t, exec (.muldiv n f) s = .next t ∧ Trapped n DIV_ZERO s t) ∧
    (resvOp2 f 0 ≠ [] → ∃ t, exec (.add n f) s = .next t ∧ Trapped n RESERVED_FIELD s t) ∧
    (resvOp2 f 1 ≠ [] → ∃ t, exec (.div n f) s = .next t ∧ Trapped n RESERVED_FIELD s t)

/-- R71, R89: halt in context 0 closes the placement stream at w0 and enters HALTED; in a handler it ends the dispatch and the context
returns to IDLE. -/
def Obligations.HaltEndsProgram : Prop :=
  ∀ (n : CtxId) (f : Fields) (s : State), Ready n s → resvRaw f 0 false false false false = [] →
    ∃ t, exec (.halt n f) s = .next t ∧ t.mem = s.mem ∧ sameG s.chip t.chip ∧ sameW s.chip t.chip ∧ wentOn n s t ∧
      (n = 0 → t.chip.ctxState 0 = HALTED ∧ t.chip.get SEQ_PSTAT_OPEN = 0 ∧
        t.chip.strm.closePt = some (s.chip.w 0 0).toNat) ∧
      (n ≠ 0 → t.chip.ctxState n = IDLE)

/-- R72 to R74: a dispatch starts the picked entry in the lowest idle context of its mask, at its entry point, with g1 the entry, g2 the
trigger word, g3 the DT of its first trigger and g4 its count; the entry is running and no longer pending. -/
def Obligations.HandlerIsDispatched : Prop :=
  ∀ (t : Nat) (s : State) (e : Fin 128) (n : CtxId) (others : List Nat),
    let c := (s.at_ t).chip
    c.runs = true → c.get TW_STAT_HANDOFF = 0 → c.pick = some e.val → c.idleFor e = n.val :: others →
    ∃ u, exec (.handlerDispatch t) s = .next u ∧ u.mem = s.mem ∧ u.chip.ctxState n = RUNNABLE ∧
      u.chip.pc n = c.dispPc e % 2 ^ 19 ∧ (c.resEntry e = false → c.dispPc e = c.get (SEQ_DISPA_ENTRY_PC e)) ∧ u.chip.g n 1 = BitVec.ofNat 64 e ∧
      u.chip.g n 2 = BitVec.ofNat 64 (c.triggerWord e) ∧ u.chip.g n 3 = BitVec.ofNat 64 (c.entry e).firstDt ∧
      u.chip.g n 4 = BitVec.ofNat 64 (c.get (SEQ_DISPB_COUNT e)) ∧ u.chip.get (SEQ_DISPA_PEND e) = 0 ∧
      u.chip.get (SEQ_DISPB_COUNT e) = 0 ∧ u.chip.get (SEQ_CSTAT_RUNNING n) = 1 ∧ u.chip.get (SEQ_CSTAT_ENTRY n) = e

/-! ### Sequencer: placements and waits (R83 to R91, R95, R96) -/

/-- R78, R83, R86, R90, R91: a placement that raises no trap appends a record at w0 with the next SEQ, unless it is late. On or beyond
the horizon of its bars it keeps START; a late one that still ends beyond the horizon starts there and is counted CLIPPED; one that does not is discarded and
counted. gD gets SEQ, with bit 62 when late and bit 63 when discarded. Records no longer outstanding retire, and their greatest END stays for
the end of print (R89). No memory and
no other register of any context changes. (c is the chip after the report of the descriptor's read.) -/
def Obligations.PlaceAppendsRecord : Prop :=
  ∀ (f : Fields) (e : Ecc) (s : State), Ready 0 s → e ≠ .uncorrectable →
    let c := s.chip.dRead e
    let a := (c.g 0 f.ga.toNat).toNat
    let r := parseDesc (s.mem.data.read a 64)
    let stop := (c.w 0 0).toNat + (c.op2 0 f).toInt.toNat
    let h := c.maskHorizon r.bars
    let seq := c.get SEQ_PSEQ_NEXT_SEQ
    resvOp2 f 1 = [] → a % 64 = 0 → a + 64 ≤ 0x100000 → descBad (s.mem.data.read a 64) c.pitch = false → handleBad s r = false →
    (f.sub.getLsbD 0 = false ∨ s.chip.maskHorizon r.bars ≤ (c.w 0 0).toNat) →
    0 < (c.op2 0 f).toInt → stop < 2 ^ 64 → c.activeCount < 256 → c.streamFull = false →
    let ends (rs : List Rec) : Nat := max c.strm.maxEnd (greatest ((rs.filter fun x => x.isContent && !c.outstanding x).map (·.stop)))
    ∃ t, exec (.place 0 f e) s = .next t ∧ t.mem = s.mem ∧ wentOn 0 s t ∧ sameW c t.chip ∧
      t.chip.get SEQ_PSEQ_NEXT_SEQ = (seq + 1) % 2 ^ 32 ∧
      (h ≤ (c.w 0 0).toNat →
        let rs := c.strm.recs ++ [{ r with start := (c.w 0 0).toNat, stop := stop, seq := seq }]
        t.chip.strm.recs = rs.filter c.outstanding ∧ t.chip.strm.maxEnd = ends rs ∧
        t.chip.get SEQ_PLATE_CLIPPED = c.get SEQ_PLATE_CLIPPED ∧ t.chip.get SEQ_PLATE_DISCARDED = c.get SEQ_PLATE_DISCARDED ∧
        ∀ m i, i < 32 → t.chip.g m i = if m = 0 ∧ i = f.gd.toNat ∧ f.gd ≠ 0 then BitVec.ofNat 64 seq else c.g m i) ∧
      ((c.w 0 0).toNat < h → h < stop →
        let rs := c.strm.recs ++ [{ r with start := h, stop := stop, seq := seq, flags := r.flags + 4 }]
        t.chip.strm.recs = rs.filter c.outstanding ∧ t.chip.strm.maxEnd = ends rs ∧
        t.chip.get SEQ_PLATE_CLIPPED = min (c.get SEQ_PLATE_CLIPPED + 1) 65535 ∧
        t.chip.get SEQ_PLATE_DISCARDED = c.get SEQ_PLATE_DISCARDED ∧
        ∀ m i, i < 32 → t.chip.g m i = if m = 0 ∧ i = f.gd.toNat ∧ f.gd ≠ 0 then BitVec.ofNat 64 (seq + 2 ^ 62) else c.g m i) ∧
      ((c.w 0 0).toNat < h → stop ≤ h →
        t.chip.strm.recs = c.strm.recs.filter c.outstanding ∧ t.chip.strm.maxEnd = ends c.strm.recs ∧
        t.chip.get SEQ_PLATE_CLIPPED = c.get SEQ_PLATE_CLIPPED ∧
        t.chip.get SEQ_PLATE_DISCARDED = min (c.get SEQ_PLATE_DISCARDED + 1) 65535 ∧
        ∀ m i, i < 32 → t.chip.g m i =
          if m = 0 ∧ i = f.gd.toNat ∧ f.gd ≠ 0 then BitVec.ofNat 64 (seq + 2 ^ 62 + 2 ^ 63) else c.g m i)

/-- R87, R88, R91: trunc ends an outstanding content record at w0, never before its START, and when late no earlier than the horizon of its
bars and no later than its END; pmark puts a MARK for bar IMM[3:0] at w0, with code gA[15:0], data gB and tenants IMM[15:8], which
stays until its row has passed the nozzle line. Both write their own SEQ to gD, and nothing else of the contexts changes. -/
def Obligations.TruncateAndMark : Prop :=
  ∀ (f : Fields) (s : State), Ready 0 s →
    let c := s.chip
    let w0 := (c.w 0 0).toNat
    let seq := c.get SEQ_PSEQ_NEXT_SEQ
    let k := f.imm.toNat % 16
    let ends (rs : List Rec) : Nat := max c.strm.maxEnd (greatest ((rs.filter fun x => x.isContent && !c.outstanding x).map (·.stop)))
    c.streamFull = false →
    (∀ r, resvRaw f 1 true true false false = [] → c.truncTarget ((c.g 0 f.ga.toNat).toNat % 2 ^ 32) = some r →
      let h := c.maskHorizon r.bars
      let stop := if w0 < h then min r.stop (max w0 (max h r.start)) else max w0 r.start
      (f.sub.getLsbD 0 = false ∨ h ≤ w0) →
      ∃ t, exec (.trunc 0 f) s = .next t ∧ t.mem = s.mem ∧ wentOn 0 s t ∧ sameW c t.chip ∧
        t.chip.get SEQ_PSEQ_NEXT_SEQ = (seq + 1) % 2 ^ 32 ∧
        (let rs := c.strm.recs.map fun x => if x.isContent ∧ x.seq = r.seq then { x with stop := stop } else x
         t.chip.strm.recs = rs.filter c.outstanding ∧ t.chip.strm.maxEnd = ends rs) ∧
        ∀ m i, i < 32 → t.chip.g m i = if m = 0 ∧ i = f.gd.toNat ∧ f.gd ≠ 0 then BitVec.ofNat 64 seq else c.g m i) ∧
    (resvRaw f 0 true true true true = [] → (c.setOf k).enabled k = true → f.imm.toNat / 16 % 16 = 0 → f.imm.toNat < 65536 →
      (c.g 0 f.ga.toNat).toNat / 32768 % 2 = 0 →
      ∃ t, exec (.pmark 0 f) s = .next t ∧ t.mem = s.mem ∧ wentOn 0 s t ∧ sameW c t.chip ∧
        t.chip.get SEQ_PSEQ_NEXT_SEQ = (seq + 1) % 2 ^ 32 ∧ t.chip.strm.maxEnd = ends c.strm.recs ∧
        ((c.bar k).rk < firstRow c.pitch w0 → ∃ x, t.chip.strm.recs = c.strm.recs.filter c.outstanding ++ [x] ∧
          x.kind = 5 ∧ x.start = w0 ∧ x.seq = seq ∧ x.markBar = k ∧ x.markCode = (c.g 0 f.ga.toNat).toNat % 65536 ∧
          x.markData = (c.g 0 f.gb.toNat).toNat ∧ x.markTenants = f.imm.toNat / 256 % 256) ∧
        (firstRow c.pitch w0 ≤ (c.bar k).rk → t.chip.strm.recs = c.strm.recs.filter c.outstanding ∧
          ∀ m, m < 8 → bit (f.imm.toNat / 256) m = true →
            FMap.get 0 t.chip.hosts.evseq m = (FMap.get 0 c.hosts.evseq m + 1) % 2 ^ 32) ∧
        ∀ m i, i < 32 → t.chip.g m i = if m = 0 ∧ i = f.gd.toNat ∧ f.gd ≠ 0 then BitVec.ofNat 64 seq else c.g m i)

/-- R95, R96: a wait whose condition holds gives status 0 (DT in ns for waitt) and goes on; otherwise the context is
WAITING, KIND 1 for the web, 2 for time, 3 for a queue, at the same instruction, and remembers what it waits for. -/
def Obligations.WaitsBlockUntilMet : Prop :=
  ∀ (n : CtxId) (f : Fields) (s : State) (x : Wait), Ready n s →
    let c := s.chip
    let limit := if c.g n f.gb.toNat = 0 then none else some (c.ns + (c.g n f.gb.toNat).toNat)
    let wait (i : Instr) : Prop :=
      (c.waitMet x = true → ∃ t, exec i s = .next t ∧ t.mem = s.mem ∧ wentOn n s t ∧ sameW c t.chip ∧
        ∀ m i, i < 32 → t.chip.g m i =
          if m = n.val ∧ i = f.gd.toNat ∧ f.gd ≠ 0 then (if x.kind = 2 then BitVec.ofNat 64 c.ns else 0) else c.g m i) ∧
      (c.waitMet x = false → ∃ t, exec i s = .next t ∧ t.mem = s.mem ∧ t.chip.ctxState n = WAITING ∧
        t.chip.get (SEQ_CWAIT_KIND n) = x.kind ∧ FMap.get none t.chip.seq.waits n = some x ∧ t.chip.pc n = c.pc n ∧
        sameG c t.chip ∧ sameW c t.chip)
    (∀ mode, f.sub.toNat = mode → mode < 3 → f.ga < 8 → (mode ≠ 2 → f.imm = 0) → f.imm < 16 →
      (mode = 1 → c.enabledBars ≠ []) → (mode = 2 → (c.setOf f.imm.toNat).enabled f.imm.toNat = true) →
      x = ⟨1, mode, f.imm.toNat, (c.w n f.ga.toNat).toNat, limit, f.gd.toNat⟩ → wait (.waitw n f)) ∧
    (resvRaw f 1 true true false false = [] →
      x = ⟨2, 0, 0, (if f.sub.getLsbD 0 then c.ns else 0) + (c.g n f.ga.toNat).toNat, none, f.gd.toNat⟩ →
      wait (.waitt n f)) ∧
    (resvQueue f true = [] → c.queueTraps n (c.queueOf n f) true = [] →
      x = ⟨3, 0, c.queueOf n f, 0, limit, f.gd.toNat⟩ → wait (.waitq n f))

/-- R35, R96: when its condition holds, a wait ends with status 0; at its limit, with 1, or 0 when its condition holds in that
instant. gD gets the status, or DT in ns for waitt, and the context runs on with its next instruction. -/
def Obligations.WaitsEnd : Prop :=
  ∀ (t : Nat) (n : CtxId) (s : State) (x : Wait), s.chip.ctxState n = WAITING → FMap.get none s.chip.seq.waits n = some x →
    x.gd < 32 →
    let now := (s.at_ t).chip
    let ends (i : Instr) (status : Nat) : Prop := ∃ u, exec i s = .next u ∧ u.mem = s.mem ∧ Resumed n u ∧ wentOn n s u ∧
      sameW s.chip u.chip ∧ FMap.get none u.chip.seq.waits n = none ∧
      ∀ m i, i < 32 → u.chip.g m i =
        if m = n.val ∧ i = x.gd ∧ x.gd ≠ 0 then BitVec.ofNat 64 (if x.kind = 2 then now.ns else status) else s.chip.g m i
    (now.waitMet x = true → ends (.waitWake t n) 0) ∧
    (∀ d, x.deadline = some d → d ≤ now.ns → now.waitMet x = false → ends (.waitTimeout t n) 1) ∧
    (∀ d, x.deadline = some d → d ≤ now.ns → now.waitMet x = true → ends (.waitTimeout t n) 0)

/-! ### Sequencer: variable data (R97 to R108) -/

/-- R97, R99: vfmt appends gA to the text buffer D[gB]. The numeric formats give the fewest digits of base 10, 16 or 36 that spell the
value, padded on the left to MINW with the pad character; a minus sign counts in the width, the pad '0' goes after it and
any other pad before it. STR appends bytes of D-space, CHAR the byte gA[7:0]. (u is the state after the report of the read.) -/
def Obligations.FormattedTextAppends : Prop :=
  ∀ (n : CtxId) (f : Fields) (e : Ecc) (s : State), Ready n s → e ≠ .uncorrectable → resvRaw f 7 true true true true = [] →
    let u := s.onChip (·.dRead e)
    let a := (s.chip.g n f.gb.toNat).toNat
    let v := s.chip.g n f.ga.toNat
    let im := f.imm.toNat
    let minw := im % 256
    let maxw := if im / 256 % 256 = 0 then 20 else im / 256 % 256
    let pad := BitVec.ofNat 8 (im / 65536)
    let len := (s.mem.data.byte a).toNat
    let form := f.sub.toNat % 8
    let mag := if form = 1 then v.toInt.natAbs else v.toNat
    let base := if form = 2 then 16 else if form = 3 then 36 else 10
    let neg := decide (form = 1 ∧ v.toInt < 0)
    a % 64 = 0 → a + 256 ≤ 0x100000 → len ≤ 254 →
    (∀ k, form < 4 → im < 2 ^ 24 → minw ≤ maxw → maxw ≤ 20 → 32 ≤ im / 65536 → im / 65536 ≤ 126 →
      0 < k → mag < base ^ k → (k = 1 ∨ base ^ (k - 1) ≤ mag) → k + (if neg then 1 else 0) ≤ maxw →
      len + max minw (k + if neg then 1 else 0) ≤ 254 →
      ∃ ds t, ds.length = k ∧ spells base mag ds ∧ exec (.vfmt n f e) s = .next t ∧
        Appended n f.gd a
          (let fill := List.replicate (minw - (k + if neg then 1 else 0)) pad
           if neg then (if pad = 48 then 45 :: fill ++ ds else fill ++ 45 :: ds) else fill ++ ds) u t) ∧
    (form = 4 → 1 ≤ im → im ≤ 254 → v.toNat + im ≤ 0x100000 → len + im ≤ 254 →
      ∃ t, exec (.vfmt n f e) s = .next t ∧ Appended n f.gd a (s.mem.data.read v.toNat im) u t) ∧
    (form = 5 → im = 0 → len < 254 →
      ∃ t, exec (.vfmt n f e) s = .next t ∧ Appended n f.gd a [v.setWidth 8] u t)

/-- R100, R102: vdate appends what the pattern at D-address IMM makes of the civil time gA, in the years 1970 to 2199; vchk appends
one check digit over the digits from position gA[7:0] to the end of the buffer: with SUB[0] clear the digits weighted 3, 1,
3 … from the right and the check digit sum to a multiple of 10; with SUB[0] set every second digit from the right, the
last first, counts doubled, less 9 above 9. (u is the state after the report of the read.) -/
def Obligations.DateAndCheckDigitAppend : Prop :=
  ∀ (n : CtxId) (f : Fields) (e : Ecc) (s : State), Ready n s → e ≠ .uncorrectable →
    let u := s.onChip (·.dRead e)
    let a := (s.chip.g n f.gb.toNat).toNat
    let v := s.chip.g n f.ga.toNat
    let len := (s.mem.data.byte a).toNat
    a % 64 = 0 → a + 256 ≤ 0x100000 →
    (resvRaw f 0 true true true true = [] → ∀ k, k < 32 → f.imm.toNat + k < 0x100000 → s.mem.data.byte (f.imm.toNat + k) = 0 →
      (∀ i, i < k → s.mem.data.byte (f.imm.toNat + i) ≠ 0) → 0 ≤ v.toInt → v.toInt < 7258118400 * 10 ^ 9 →
      len + (datePattern v.toNat 32 (s.mem.data.read f.imm.toNat k)).length ≤ 254 →
      ∃ t, exec (.vdate n f e) s = .next t ∧ Appended n f.gd a (datePattern v.toNat 32 (s.mem.data.read f.imm.toNat k)) u t) ∧
    (resvRaw f 1 true true true false = [] → ∀ p, p = v.toNat % 256 → 1 ≤ p → p ≤ len → len ≤ 253 →
      (∀ i, i ≤ len → p ≤ i → 48 ≤ (s.mem.data.byte (a + i)).toNat ∧ (s.mem.data.byte (a + i)).toNat ≤ 57) →
      let digit (j : Nat) : Nat := (s.mem.data.byte (a + len - j)).toNat - 48
      let weighed (j : Nat) : Nat :=
        if f.sub.getLsbD 0 then (if j % 2 = 0 then (if digit j < 5 then 2 * digit j else 2 * digit j - 9) else digit j)
        else if j % 2 = 0 then 3 * digit j else digit j
      ∃ k t, k < 10 ∧ (((List.range (len + 1 - p)).map weighed).sum + k) % 10 = 0 ∧ exec (.vchk n f e) s = .next t ∧
        Appended n f.gd a [BitVec.ofNat 8 (48 + k)] u t)

/-- R101: vctr on serial counter SC(IMM[3:0]): READ leaves it, ADD adds gB when the sum is at most gA, SET writes gB; gD takes the old
value, and every other counter and register stays. -/
def Obligations.SerialCounters : Prop :=
  ∀ (n : CtxId) (f : Fields) (s : State), Ready n s → ∀ i : Fin 16, f.imm.toNat = i →
    let old := s.chip.get (SEQ_SCTR_VALUE i)
    let a := (s.chip.g n f.ga.toNat).toNat
    let b := (s.chip.g n f.gb.toNat).toNat
    let counts (new : Nat) : Prop := ∃ t, exec (.vctr n f) s = .next t ∧ t.mem = s.mem ∧ wentOn n s t ∧ sameW s.chip t.chip ∧
      t.chip.get (SEQ_SCTR_VALUE i) = new ∧ sameFields [SEQ_CPC_PC n, SEQ_SCTR_VALUE i, TW_JSEQ_JSEQ] s.chip t.chip ∧
      ∀ m j, j < 32 → t.chip.g m j = if m = n.val ∧ j = f.gd.toNat ∧ f.gd ≠ 0 then BitVec.ofNat 64 old else s.chip.g m j
    (resvRaw f 3 true false false true = [] → f.sub.toNat = 0 → counts (old % 2 ^ 64)) ∧
    (resvRaw f 3 true true true true = [] → f.sub.toNat = 1 → old + b ≤ a → counts (old + b)) ∧
    (resvRaw f 3 true false true true = [] → f.sub.toNat = 2 → counts b)

/-- R103, R104, R107, R108: with the unit free and a slot free, vtext begins to compose 1 to 120 characters that the glyph set
holds, as wide as their advances plus the tracking between them and as high as the set's line; vsym begins a linear symbol of
its modules and quiet zones, or the Data Matrix that holds the text. A unit that is busy, or that an earlier instruction waits for, stalls
them with KIND 10, a full pool with outstanding FIELD records with KIND 9; the unit serves them in the order of issue. -/
def Obligations.TextAndSymbolsCompose : Prop :=
  ∀ (n : CtxId) (f : Fields) (e : Ecc) (s : State), Ready n s → e ≠ .uncorrectable →
    let u := s.onChip (·.dRead e)
    let c := u.chip
    let a := (c.g n f.ga.toNat).toNat
    let b := (c.g n f.gb.toNat).toNat
    let p := s.mem.data.read b 64
    let text := s.mem.data.read (a + 1) (s.mem.data.byte a).toNat
    let composes (i : Instr) (x : SlotContent) (w h : Nat) : Prop :=
      (c.vd.busy = none → c.slotsUsed < 2 ^ 20 → c.behindTurn n = false → ∃ t, exec i s = .next t ∧ Composing n f.gd x w h u t) ∧
      (c.vd.busy ≠ none → c.slotsUsed < 2 ^ 20 → exec i s = .next { u with chip := c.awaitTurn n 10 }) ∧
      (c.vd.busy = none → c.slotsUsed < 2 ^ 20 → c.behindTurn n = true → exec i s = .next { u with chip := c.awaitTurn n 10 }) ∧
      (c.vd.busy = none → 2 ^ 20 ≤ c.slotsUsed → c.slotReferenced = true → exec i s = .next { u with chip := c.awaitTurn n 9 })
    a % 64 = 0 → a + 256 ≤ 0x100000 →
    (resvRaw f 0 true true true true = [] → f.imm.toNat < 256 → usable s b [6] = true →
      0 < text.length → text.length ≤ 120 → ∀ x, c.store.find b = some x →
      (∀ ch ∈ text, (glyphEntry s.mem.job x ch.toNat).2.2 ≠ 0) →
      ∀ w : Nat, 1 ≤ w → w ≤ 163840 →
      (w : Int) = ((text.map fun ch => (glyphEntry s.mem.job x ch.toNat).2.2).sum : Nat) + (f.imm.setWidth 8).toInt * (text.length - 1 : Nat) →
      composes (.vtext n f e) (.text b text (f.imm.setWidth 8).toInt) w (fieldAt (s.mem.job.read (x.base * 65536) 64) 8 4)) ∧
    (resvRaw f 0 true true true false = [] → b % 64 = 0 → b + 64 ≤ 0x100000 → symBlockBad p = false → text.length ≤ 254 →
      (∀ ms, fieldAt p 0 1 < 2 → linearBad (fieldAt p 0 1) text = false →
        ms = code128Modules (if fieldAt p 0 1 = 0 then code128Chars text else gs1Chars text) →
        (ms.length + 2 * fieldAt p 6 1) * fieldAt p 2 1 ≤ 163840 →
        composes (.vsym n f e) (.linear ms (fieldAt p 2 1) (fieldAt p 4 2) (fieldAt p 3 1) (fieldAt p 6 1))
          ((ms.length + 2 * fieldAt p 6 1) * fieldAt p 2 1) (fieldAt p 4 2 + 2 * fieldAt p 3 1)) ∧
      (∀ cw z, 2 ≤ fieldAt p 0 1 → cw = (if fieldAt p 0 1 = 3 then [232] else []) ++ dmAscii (decide (fieldAt p 0 1 = 3)) text →
        dmPick (fieldAt p 1 1) cw.length = some z →
        composes (.vsym n f e) (.matrix z.1 z.2.1 (dmSymbol cw z) (fieldAt p 2 1) (fieldAt p 3 1) (fieldAt p 6 1))
          ((z.2.1 + 2 * fieldAt p 6 1) * fieldAt p 2 1) ((z.1 + 2 * fieldAt p 6 1) * fieldAt p 3 1)))

/-- R108: when the unit finishes, gD of the context it composed for takes the handle, the context runs on with its next instruction, the
unit is free, and instructions that wait for it (KIND 10) issue again. -/
def Obligations.CompositionEnds : Prop :=
  ∀ (t : Nat) (n : CtxId) (gd v : Nat) (s : State), s.chip.vd.busy = some n.val → s.chip.pendOp n = some (.compose gd v) → gd < 32 →
    ∃ u, exec (.vdComposeDone t) s = .next u ∧ u.mem = s.mem ∧ u.chip.vd.busy = none ∧ u.chip.vd.slots = s.chip.vd.slots ∧
      Resumed n u ∧ wentOn n s u ∧ sameW s.chip u.chip ∧
      (∀ m : CtxId, m ≠ n → s.chip.ctxState m = STALLED → s.chip.get (SEQ_CWAIT_KIND m) = 10 → Resumed m u) ∧
      ∀ m i, i < 32 → u.chip.g m i = if m = n.val ∧ i = gd ∧ gd ≠ 0 then BitVec.ofNat 64 v else s.chip.g m i

/-! ### Sequencer: tables, staging, calibration (R109, R110, R354 to R373) -/

/-- R109, R110: tload and tcopy stall with KIND 4 until the copy is done. Then a tload puts the table that the image at gA
holds into the staged set, for the bars of the mask or the device, gD takes its VERSION, the set is DIRTY, and the context
runs on; a tcopy puts the active tables there. The active set, every other staged table and all memory stay. -/
def Obligations.TableLoadsFillStagedSet : Prop :=
  ∀ (n : CtxId) (f : Fields) (s : State) (t : Nat) (r : Ecc) (gd ty mask j : Nat),
    (Ready n s → s.chip.sstate ≠ 3 → s.chip.sstate ≠ 4 → ty = f.sub.toNat → ty < 32 → mask = f.imm.toNat → maskBad ty mask = false →
      (j = (s.chip.g n f.ga.toNat).toNat → gd = f.gd.toNat → resvRaw f 31 true true false true = [] → j % 64 = 0 →
        s.chip.store.mayRead j 64 = true → imageTraps s ty j = [] →
        ∃ u, exec (.tload n f) s = .next u ∧ Began n 4 (.tload gd ty mask j) s u) ∧
      (resvRaw f 31 false false false true = [] → ∃ u, exec (.tcopy n f) s = .next u ∧ Began n 4 (.tcopy ty mask) s u)) ∧
    (s.chip.sstate ≠ 3 → s.chip.sstate ≠ 4 → r ≠ .uncorrectable → ty < 10 →
      let fills (v : Option W64) (table : Nat → Table) : Prop :=
        ∃ u, exec (.tableLoadDone t n r) s = .next u ∧ u.mem = s.mem ∧ Resumed n u ∧ wentOn n s u ∧ u.chip.sstate = 1 ∧
          u.chip.stage.active = s.chip.stage.active ∧ u.chip.stage.sched = s.chip.stage.sched ∧
          (∀ k i, k < 16 → i < 8 → u.chip.stage.staged.barT k i =
            if ty < 6 ∧ i = ty ∧ bit mask k = true then table k else s.chip.stage.staged.barT k i) ∧
          (∀ i, u.chip.stage.staged.devT i = if 6 ≤ ty ∧ i = ty then table 0 else s.chip.stage.staged.devT i) ∧
          sameW s.chip u.chip ∧ ∀ m i, i < 32 → u.chip.g m i =
            match v with
            | some v => if m = n.val ∧ i = gd ∧ gd ≠ 0 then v else s.chip.g m i
            | none => s.chip.g m i
      (s.chip.pendOp n = some (.tload gd ty mask j) → gd < 32 → imageTraps s ty j = [] →
        fills (some (BitVec.ofNat 64 (fieldAt (s.mem.job.read j 64) 8 4))) fun _ => imageTable s ty j) ∧
      (s.chip.pendOp n = some (.tcopy ty mask) →
        fills none fun k => { (if ty < 6 then s.chip.stage.active.barT k ty else s.chip.stage.active.devT ty) with fresh := true }))

/-- R355 to R358, R366, R373: outside SCHEDULED and SETTLING, stage adds or releases a claim, one that stands already to no effect, and gives how many there are; check gives the
result word of the staged set, also in SEQ_SCHK, and makes it PASSED or DIRTY; abandon of a set that is not CLEAN makes it
the active set again; restorefac stages factory tone tables and calibration items. While the set is SETTLING each of them waits with
KIND 11. -/
def Obligations.StagedSetChanges : Prop :=
  ∀ (n : CtxId) (f : Fields) (s : State), Ready n s →
    let c := s.chip
    let settling (i : Instr) : Prop := ∃ t, exec i s = .next t ∧ t.chip = c.stall n 11 ∧ t.mem = s.mem
    (∀ x : Claim, x = ⟨n, f.imm.toNat, (c.g n f.ga.toNat).toNat⟩ → resvRaw f 1 true true false true = [] → f.imm.toNat < 4 →
      c.claimBad x (f.sub.getLsbD 0) = false →
      (c.sstate = 4 → settling (.stage n f)) ∧
      (c.sstate ≠ 3 → c.sstate ≠ 4 → ∃ t, exec (.stage n f) s = .next t ∧
        t.chip.stage.staged = { c.stage.staged with claims := t.chip.stage.staged.claims } ∧
        t.chip.stage.staged.claims = (if f.sub.getLsbD 0 = true then c.stage.staged.claims.filter (· ≠ x)
          else if c.stage.staged.claims.contains x = true then c.stage.staged.claims else c.stage.staged.claims ++ [x]) ∧
        t.chip.stage.active = c.stage.active ∧
        t.chip.sstate = (if f.sub.getLsbD 0 = false ∧ c.stage.staged.claims.contains x = true then c.sstate else 1) ∧
        StagingDone n f.gd t.chip.stage.staged.claims.length s t)) ∧
    (resvRaw f 0 true false false false = [] → c.sstate ≠ 3 →
      (c.sstate = 4 → settling (.check n f)) ∧
      (c.sstate ≠ 4 → ∃ t, exec (.check n f) s = .next t ∧ t.chip.get SEQ_SCHK_RESULT = checkSet c c.stage.staged % 2 ^ 64 ∧
        t.chip.sstate = (if checkSet c c.stage.staged = 0 then 2 else 1) ∧ t.chip.stage.active = c.stage.active ∧
        StagingDone n f.gd (checkSet c c.stage.staged) s t)) ∧
    (resvRaw f 0 true false false false = [] →
      (c.sstate = 4 → settling (.abandon n f)) ∧
      (c.sstate = 0 → ∃ t, exec (.abandon n f) s = .next t ∧ t.chip.stage = c.stage ∧ StagingDone n f.gd 0 s t) ∧
      (c.sstate = 1 ∨ c.sstate = 2 → ∃ t, exec (.abandon n f) s = .next t ∧ t.chip.stage.staged = c.stage.active ∧
        t.chip.sstate = 0 ∧ t.chip.stage.active = c.stage.active ∧ StagingDone n f.gd 0 s t) ∧
      (∀ x, c.sstate = 3 → c.stage.sched = some x → x.reached ≠ 0 →
        ∃ t, exec (.abandon n f) s = .next t ∧ t.chip.stage = c.stage ∧ t.chip.sstate = 3 ∧ StagingDone n f.gd 1 s t) ∧
      (∀ x, c.sstate = 3 → c.stage.sched = some x → x.reached = 0 →
        ∃ t, exec (.abandon n f) s = .next t ∧ t.chip.stage.sched = none ∧ t.chip.sstate = 2 ∧ t.chip.stage.staged = c.stage.staged ∧
          (x.at_ = none → t.chip.stage.cur = c.stage.prev) ∧ t.chip.stage.active = c.stage.active ∧ StagingDone n f.gd 0 s t)) ∧
    (resvRaw f 0 true true false true = [] → ∀ bars, bars = (c.g n f.ga.toNat).toNat % 65536 → restoreBad f.imm.toNat bars = false →
      (c.sstate = 4 → settling (.restorefac n f)) ∧
      (c.sstate ≠ 3 → c.sstate ≠ 4 → ∃ t, exec (.restorefac n f) s = .next t ∧
        (∀ k i, k < 16 → i < 8 → t.chip.stage.staged.barT k i =
          if i = 2 ∧ bit f.imm.toNat 3 = true ∧ bit bars k = true then { src := .restored, version := 0, len := 491584, body := [], fresh := true, geo := [] } else c.stage.staged.barT k i) ∧
        t.chip.stage.staged.calib.items = c.stage.staged.calib.items ||| f.imm.toNat % 8 ∧
        t.chip.stage.staged.dev = c.stage.staged.dev ∧ t.chip.stage.active = c.stage.active ∧ t.chip.sstate = 1 ∧
        StagingDone n f.gd 0 s t))

/-- R360 to R363: a set that is CLEAN or PASSED commits at web point wA. A failed recheck gives 2 and the set is DIRTY with its result
word; an accepted commit gives 0 and takes the next generation with its web point, 0 when no stream is open; one below the
front horizon of an open stream is raised to it and gives 1. committ gives 0 and waits for its time with SEQ_SCPT all ones. -/
def Obligations.CommitsAreAccepted : Prop :=
  ∀ (n : CtxId) (f : Fields) (s : State), Ready n s →
    let c := s.chip
    let w := recheck c c.stage.staged
    let opened := c.get SEQ_PSTAT_OPEN
    let late (p : Nat) : Prop := opened ≠ 0 ∧ p < c.frontHorizon
    c.sstate = 0 ∨ c.sstate = 2 →
    let accepted (t : State) (p : Nat) (raised : Bool) : Prop :=
      t.chip.get SEQ_SCGEN_CGEN = (c.get SEQ_SCGEN_CGEN + 1) % 2 ^ 32 ∧
      t.chip.get SEQ_SCPT_CPOINT = (if opened = 0 then 0 else p) % 2 ^ 64 ∧
      t.chip.stage.cur.gen = (c.get SEQ_SCGEN_CGEN + 1) % 2 ^ 32 ∧ t.chip.stage.cur.raised = raised ∧
      t.chip.stage.staged = c.stage.staged ∧ (opened = 0 → t.chip.sstate = 4 ∧ t.chip.stage.active = c.stage.staged) ∧
      (opened ≠ 0 → t.chip.sstate = 3 ∨ t.chip.sstate = 4)
    (∀ p, f.ga < 8 → p = (c.w n f.ga.toNat).toNat → resvRaw f 1 true true false false = [] → (f.sub.getLsbD 0 = false ∨ ¬ late p) →
      (w ≠ 0 → ∃ t, exec (.commitw n f) s = .next t ∧ t.chip.get SEQ_SCHK_RESULT = w % 2 ^ 64 ∧ t.chip.sstate = 1 ∧
        t.chip.stage.sched = none ∧ t.chip.stage.active = c.stage.active ∧
        t.chip.get SEQ_SCGEN_CGEN = c.get SEQ_SCGEN_CGEN ∧ StagingDone n f.gd 2 s t) ∧
      (w = 0 → ¬ late p → ∃ t, exec (.commitw n f) s = .next t ∧ accepted t p false ∧ StagingDone n f.gd 0 s t) ∧
      (w = 0 → late p → ∃ t, exec (.commitw n f) s = .next t ∧ accepted t c.frontHorizon true ∧
        t.chip.get SEQ_SSTAT_RAISED = 1 ∧ StagingDone n f.gd 1 s t)) ∧
    (resvRaw f 0 true true false false = [] →
      ∃ t, exec (.committ n f) s = .next t ∧ t.chip.sstate = 3 ∧ t.chip.get SEQ_SCPT_CPOINT = 2 ^ 64 - 1 ∧
        (∃ x, t.chip.stage.sched = some x ∧ x.set = c.stage.staged ∧ x.at_ = some (c.g n f.ga.toNat).toNat ∧ x.reached = 0) ∧
        t.chip.get SEQ_SCGEN_CGEN = c.get SEQ_SCGEN_CGEN ∧ StagingDone n f.gd 0 s t)

/-- R361, R354, R355, R370 to R373: calsave starts a user bank write of the items in force (0), gives 1 while one runs and 2, with
RESULT TEMP, outside −5 to 100 °C; committ's web point is fixed as the front horizon at its time, when the recheck passes; SETTLING
ends with the staged set equal to the active one, CLEAN, and instructions waiting with KIND 11 issue again; a write that
ends well puts its bank in force, and every end clears BUSY, sets RESULT and posts event 0x0620 to T0. -/
def Obligations.CalibrationAndCommitTiming : Prop :=
  (∀ (n : CtxId) (f : Fields) (s : State), Ready n s → resvRaw f 0 true true false true = [] →
    let c := s.chip
    let ssc := (c.g n f.ga.toNat).toNat % 256
    saveBad f.imm.toNat ssc = false →
    (c.get NV_STAT_BUSY ≠ 0 → ∃ t, exec (.calsave n f) s = .next t ∧ t.chip.stage = c.stage ∧ StagingDone n f.gd 1 s t) ∧
    (c.get NV_STAT_BUSY = 0 → -80 ≤ c.getS HL_THSTAT_THETA_J ∧ c.getS HL_THSTAT_THETA_J ≤ 1600 →
      ∃ t w, exec (.calsave n f) s = .next t ∧ t.chip.get NV_STAT_BUSY = 1 ∧ t.chip.stage.write = some w ∧
        w.items = f.imm.toNat ∧ w.bank.valid = true ∧ w.bank.bseq = (c.stage.bank.bseq + 1) % 2 ^ 32 ∧
        (bit f.imm.toNat 2 = true → w.bank.ssc = ssc) ∧ (bit f.imm.toNat 2 = false → w.bank.ssc = c.stage.bank.ssc) ∧
        t.chip.stage.active = c.stage.active ∧ t.chip.stage.staged = c.stage.staged ∧ StagingDone n f.gd 0 s t) ∧
    (c.get NV_STAT_BUSY = 0 → ¬ (-80 ≤ c.getS HL_THSTAT_THETA_J ∧ c.getS HL_THSTAT_THETA_J ≤ 1600) →
      ∃ t, exec (.calsave n f) s = .next t ∧ t.chip.get NV_STAT_RESULT = 1 ∧ t.chip.stage = c.stage ∧ StagingDone n f.gd 2 s t)) ∧
  (∀ (t : Nat) (s : State) (x : Sched) (T : Nat), s.chip.stage.sched = some x → x.at_ = some T →
    let c := (s.at_ t).chip
    c.runs = true → T ≤ c.ns →
    (recheck c x.set = 0 → ∃ u, exec (.committFix t) s = .next u ∧ u.mem = s.mem ∧ sameG s.chip u.chip ∧ sameW s.chip u.chip ∧
      u.chip.get SEQ_SCGEN_CGEN = (s.chip.get SEQ_SCGEN_CGEN + 1) % 2 ^ 32 ∧
      u.chip.get SEQ_SCPT_CPOINT = (if s.chip.get SEQ_PSTAT_OPEN = 0 then 0 else c.frontHorizon) % 2 ^ 64) ∧
    (recheck c x.set ≠ 0 → ∃ u, exec (.committFix t) s = .next u ∧ u.mem = s.mem ∧ sameG s.chip u.chip ∧ sameW s.chip u.chip ∧
      u.chip.stage.sched = none ∧ u.chip.sstate = 1 ∧ u.chip.get SEQ_SCHK_RESULT = recheck c x.set % 2 ^ 64 ∧
      u.chip.get SEQ_SCGEN_CGEN = s.chip.get SEQ_SCGEN_CGEN)) ∧
  (∀ (t : Nat) (s : State), s.chip.sstate = 4 → s.chip.stage.calItems = 0 →
    ∃ u, exec (.settlingEnd t) s = .next u ∧ u.mem = s.mem ∧ u.chip.sstate = 0 ∧ u.chip.stage.staged = u.chip.stage.active ∧
      u.chip.stage.active = s.chip.stage.active.settled ∧ sameG s.chip u.chip ∧ sameW s.chip u.chip ∧
      ∀ n : CtxId, s.chip.ctxState n = STALLED → s.chip.get (SEQ_CWAIT_KIND n) = 11 → Resumed n u) ∧
  (∀ (t : Nat) (ok hot : Bool) (s : State) (w : NorWrite), s.chip.stage.write = some w → s.chip.stage.calItems = 0 →
    ∃ u, exec (.norWriteDone t ok hot) s = .next u ∧ u.mem = s.mem ∧ u.chip.stage.write = none ∧ u.chip.get NV_STAT_BUSY = 0 ∧
      u.chip.get NV_STAT_RESULT = (if hot then 1 else if ok then 0 else 2) ∧
      (ok = true → hot = false → s.chip.stage.bankB? = true ∨ s.chip.stage.bankA.valid = false →
        u.chip.stage.bankA = w.bank ∧ u.chip.stage.bankB = s.chip.stage.bankB) ∧
      (ok = true → hot = false → s.chip.stage.bankB? = false → s.chip.stage.bankA.valid = true →
        u.chip.stage.bankB = w.bank ∧ u.chip.stage.bankA = s.chip.stage.bankA) ∧
      (ok = false ∨ hot = true → u.chip.stage.bankA = s.chip.stage.bankA ∧ u.chip.stage.bankB = s.chip.stage.bankB) ∧
      sameG s.chip u.chip ∧ sameW s.chip u.chip)

/-- R331, R335, R338, R352: a host command runs only when its descriptor heads the system commands of its queue; otherwise
nothing happens. One that a check of form, class or role stops, or whose tenant lacks the grant, completes with that status and has no effect. -/
def Obligations.HostCommandsAreChecked : Prop :=
  ∀ (t : Nat) (q : Fin 64) (host : List Byte) (r : Ecc) (lost : List Nat) (s : State), s.chip.sstate ≠ 4 → s.chip.testing 4 = false →
    ∀ e ∈ hostCommands t q host r lost,
      ((s.at_ t).chip.headIs q e.2.1 e.2.2.1 = false → exec e.1 s = .next (s.at_ t)) ∧
      (∀ x c, (s.at_ t).chip.takeSys q = some (x, c) → x.opc = e.2.1 → x.fn = e.2.2.1 →
        (∀ st, c.early q x = some st → OnlyCompletes e.1 t q x st [] c s) ∧
        (c.early q x = none → ∀ g, e.2.2.2 = some g → c.granted q g = false → OnlyCompletes e.1 t q x 0x11 [] c s))

/-- R337, R342 and Table 13-4: a completion counts the queue's OSEQ, gives its reserved slot back and appends the completion record
with STATUS, OSEQ, DT, TAG, the receipt stamp, the units, the role and the result; while it cannot be delivered it waits in the
outbound ring, and nothing else changes. -/
def Obligations.CompletionsArePosted : Prop :=
  ∀ (c : Chip) (q : Fin 64) (tag rx st : Nat) (res : List Byte),
    let k := c.queue q
    let o := (k.oseq + 1) % 2 ^ 32
    let rec64 := fit 64 (le 1 1 ++ le 1 q.val ++ le 1 st ++ le 1 0 ++ le 4 o ++ le 4 c.stamp ++ le 4 tag ++ le 4 rx ++ le 4 c.peerUnit ++ le 4 c.twin.epoch ++
      le 1 c.role ++ zeros 3 ++ fit 32 res)
    c.canDeliver q = false →
      (c.complete q tag rx st res).queue q = { k with reserved := k.reserved - 1, oseq := o, out := k.out ++ [(true, rec64)] } ∧
      (∀ p, p ≠ q.val → (c.complete q tag rx st res).queue p = c.queue p) ∧
      sameFields [] c (c.complete q tag rx st res) ∧
      { c.complete q tag rx st res with hosts := { c.hosts with queues := [] } } = { c with hosts := { c.hosts with queues := [] } }

/-- R17, R52, R86, R220, R339: RUN is refused with STATE during rest, without an image or while context 0 runs, and with NO_INFEED
without an infeed. Otherwise it starts context 0 at the image's entry point with its g and w registers 0, opens an empty stream that
counts from 0 with the seed, and halts fire with CAUSE 4 (a stream that is at once behind may halt it again); it completes OK
with IMAGE_ID; no other context's register and no memory changes. STOP leaves a running context 0 STOPPED and halts fire with CAUSE 3, and
completes with X. FIRE_ARM arms fire that is halted; it is refused with STATE when no stream is open, HALT_INPUT
when HALT_FIRE_N is low, FAULT_PENDING when a halt-fire fault is unacknowledged (R221). -/
def Obligations.RunStopAndArm : Prop :=
  (∀ (t : Nat) (q : Fin 64) (x : InDesc) (c : Chip) (s : State), Started t q 1 0 (some 0) x c s →
    (∀ r, c.health.bist = some r → exec (.run t q) s = .next { s.at_ t with chip := c.abortRest.complete q x.tag x.rx 0x15 }) ∧
    (c.health.bist = none → ((c.get SEQ_STAT_IMG_LOADED = 0 ∨ c.ctx0Idle = false) → OnlyCompletes (.run t q) t q x 0x15 [] c s) ∧
      (c.get SEQ_STAT_IMG_LOADED ≠ 0 → c.ctx0Idle = true → c.get (WM_ECFG_EN c.infeed) = 0 → OnlyCompletes (.run t q) t q x 0x16 [] c s)) ∧
    (c.health.bist = none → c.get SEQ_STAT_IMG_LOADED ≠ 0 → c.ctx0Idle = true → c.get (WM_ECFG_EN c.infeed) ≠ 0 →
      ∃ d : Chip, exec (.run t q) s = .next { s.at_ t with chip := d.complete q x.tag x.rx 0 (le 4 (d.get SEQ_IMGID_IMAGE_ID)) } ∧
        d.ctxState 0 = RUNNABLE ∧ d.pc 0 = c.seq.start % 2 ^ 19 ∧ d.get (SEQ_CWAIT_KIND 0) = 0 ∧
        (∀ i, i < 32 → d.g 0 i = 0) ∧ (∀ i, i < 8 → d.w 0 i = 0) ∧
        (∀ m i, m ≠ 0 → i < 32 → d.g m i = c.g m i) ∧ (∀ m i, m ≠ 0 → i < 8 → d.w m i = c.w m i) ∧
        d.get SEQ_PSTAT_OPEN = 1 ∧ d.get SEQ_PSEQ_NEXT_SEQ = 0 ∧ d.get SEQ_PCUR_CUR = 0 ∧ d.get SEQ_PLATE_CLIPPED = 0 ∧
        d.strm.recs = [] ∧ d.strm.job = true ∧ d.strm.seed = x.param 16 8 ∧ d.strm.pitch = d.stage.active.geo 0 0 ∧
        d.get FS_RES_PEAK = 0 ∧
        (d.strm.behind = false → d.fire.armed = false ∧ d.get FS_STAT_HALTED ≠ 0 ∧ d.get FS_STAT_CAUSE = 4))) ∧
  (∀ (t : Nat) (q : Fin 64) (x : InDesc) (c : Chip) (s : State), Started t q 2 0 (some 0) x c s →
    ∃ d : Chip, exec (.stop t q) s = .next { s.at_ t with chip := d.complete q x.tag x.rx 0 (le 8 (c.get WM_X_X)) } ∧
      d.get FS_STAT_HALTED ≠ 0 ∧ d.get FS_STAT_CAUSE = 3 ∧ d.fire.armed = false ∧ sameG c d ∧ sameW c d ∧ d.strm = c.strm ∧ d.stage = c.stage ∧ d.store = c.store ∧
      (c.ctx0Idle = false → d.ctxState 0 = STOPPED ∧ d.get (SEQ_CWAIT_KIND 0) = 0) ∧ (c.ctx0Idle = true → d.ctxState 0 = c.ctxState 0)) ∧
  (∀ (t : Nat) (q : Fin 64) (x : InDesc) (c : Chip) (s : State), Started t q 3 0 (some 0) x c s →
    (c.get SEQ_PSTAT_OPEN = 0 → OnlyCompletes (.fireArm t q) t q x 0x15 [] c s) ∧
    (c.get SEQ_PSTAT_OPEN ≠ 0 → c.get FS_STAT_HFN = 0 → OnlyCompletes (.fireArm t q) t q x 0x17 [] c s) ∧
    (c.get SEQ_PSTAT_OPEN ≠ 0 → c.get FS_STAT_HFN ≠ 0 → c.haltFaultPending = true → OnlyCompletes (.fireArm t q) t q x 0x18 [] c s) ∧
    (c.get SEQ_PSTAT_OPEN ≠ 0 → c.get FS_STAT_HFN ≠ 0 → c.haltFaultPending = false → c.get FS_STAT_HALTED = 0 →
      OnlyCompletes (.fireArm t q) t q x 0 [] c s) ∧
    (c.get SEQ_PSTAT_OPEN ≠ 0 → c.get FS_STAT_HFN ≠ 0 → c.haltFaultPending = false → c.get FS_STAT_HALTED ≠ 0 →
      ∃ d : Chip, exec (.fireArm t q) s = .next { s.at_ t with chip := d.complete q x.tag x.rx 0 } ∧ d.fire = { c.fire with armed := true } ∧
        sameFields [TW_JSEQ_JSEQ] c d ∧ { d with fire := c.fire, twin := {}, regs := [] } = { c with twin := {}, regs := [] }))

/-- R57, R69, R77, R114 to R116: LOAD_PROGRAM is refused with STATE during self-test, LOAD while a context is not idle, STALE without its
allocation, RIGHTS when its tenant may not read it, FORMAT beyond its end and UNCORR when the read stays uncorrectable.
An entry or a queue of the image that fails completes LOAD with its kind and number, and nothing changes. Otherwise the image's
words replace the user area of the program memory, its entries every dispatch entry that is not resident, its entry point and
IMAGE_ID are in force and IMG_LOADED reads 1; resident words, all other memory, records and staged tables stay. The image's layout
is the model's (assumption 7). -/
def Obligations.LoadProgramReplacesUserArea : Prop :=
  ∀ (t : Nat) (q : Fin 64) (r : Ecc) (x : InDesc) (b : Chip) (s : State), Started t q 4 0 (some 0) x b s →
    let c := b.jobStoreRead r
    (b.testing 4 = true → OnlyCompletes (.loadProgram t ⟨q, r⟩) t q x 0x15 [] b s) ∧
    (b.testing 4 = false → b.ctx0Idle = false → OnlyCompletes (.loadProgram t ⟨q, r⟩) t q x 0x1B [] b s) ∧
    (∀ n, n < 16 → b.testing 4 = false → b.ctxState (n + 1) ≠ IDLE → OnlyCompletes (.loadProgram t ⟨q, r⟩) t q x 0x1B [] b s) ∧
    (b.testing 4 = false → b.ctx0Idle = true → (∀ n, n < 16 → b.ctxState (n + 1) = IDLE) →
      (b.store.find (x.param 16 4) = none → OnlyCompletes (.loadProgram t ⟨q, r⟩) t q x 0x0B [] b s) ∧
      (∀ a, b.store.find (x.param 16 4) = some a → bit a.rd (b.qTenant q) = false → OnlyCompletes (.loadProgram t ⟨q, r⟩) t q x 0x05 [] b s) ∧
      (∀ a, b.store.find (x.param 16 4) = some a → bit a.rd (b.qTenant q) = true → a.size * 65536 ≤ x.param 24 8 →
        OnlyCompletes (.loadProgram t ⟨q, r⟩) t q x 0x13 [] b s) ∧
      (∀ a, b.store.find (x.param 16 4) = some a → bit a.rd (b.qTenant q) = true → x.param 24 8 < a.size * 65536 → r = .uncorrectable →
        OnlyCompletes (.loadProgram t ⟨q, r⟩) t q x 0x0A [] c s) ∧
      (∀ a, b.store.find (x.param 16 4) = some a → bit a.rd (b.qTenant q) = true → x.param 24 8 < a.size * 65536 → r ≠ .uncorrectable →
        let img := s.mem.job.read (a.start + x.param 24 8) (a.size * 65536 - x.param 24 8)
        (∀ k i, loadFailure c img = some (k, i) → OnlyCompletes (.loadProgram t ⟨q, r⟩) t q x 0x1B (le 1 k ++ le 1 i) c s) ∧
        (loadFailure c img = none → ∃ (d : Chip) (m : Mem), exec (.loadProgram t ⟨q, r⟩) s = .next { s with mem := m, chip := d.complete q x.tag x.rx 0 } ∧
          m.data = s.mem.data ∧ m.job = s.mem.job ∧
          (∀ i, 0x7C000 ≤ i → FMap.get 0 m.prog i = FMap.get 0 s.mem.prog i) ∧
          (∀ i, i < 0x7C000 → FMap.get 0 m.prog i = if i < imgF img 2 0 then BitVec.ofNat 64 (imgF img 3 i) else 0) ∧
          d.seq.start = imgF img 1 0 ∧ d.get SEQ_STAT_IMG_LOADED = 1 ∧ d.get SEQ_IMGID_IMAGE_ID = imgF img 0 0 % 2 ^ 32 ∧
          (∀ i, i < 128 → c.get (SEQ_DISPA_RES i) = 0 →
            d.get (SEQ_DISPA_EN i) = (if imgF img 4 i ≠ 0 ∧ imgF img 5 i ≠ 0 then 1 else 0) ∧
            d.get (SEQ_DISPA_ENTRY_PC i) = (if imgF img 4 i ≠ 0 then imgF img 7 i else 0) % 2 ^ 19 ∧
            d.get (SEQ_DISPB_CTX_MASK i) = (if imgF img 4 i ≠ 0 then imgF img 8 i else 0) % 2 ^ 16) ∧
          (∀ i, i < 128 → c.get (SEQ_DISPA_RES i) ≠ 0 → d.get (SEQ_DISPA_EN i) = c.get (SEQ_DISPA_EN i) ∧
            d.get (SEQ_DISPA_ENTRY_PC i) = c.get (SEQ_DISPA_ENTRY_PC i) ∧ d.get (SEQ_DISPB_CTX_MASK i) = c.get (SEQ_DISPB_CTX_MASK i)) ∧
          sameG c d ∧ sameW c d ∧ d.strm = c.strm ∧ d.stage = c.stage ∧ d.store = c.store)))

/-- R374, Table 14-10: each STAGE_CTL function does what its instruction does, on the same operands, and completes with the number that the
instruction gives. What would trap completes instead with its status and trap code and changes nothing: DIRTY UNCHECKED, SCHEDULED
BUSY, a strict commit below the front horizon LATE, bad items ARG, a stale handle STALE, an allocation the job may not read TABLE. While the set
is SETTLING the function waits in its queue. -/
def Obligations.StageControlActsAsInstruction : Prop :=
  ∀ (t : Nat) (q : Fin 64) (x : InDesc) (c : Chip) (s : State),
    let only (d : Chip) : State := { s.at_ t with chip := d }
    let c1 := (c.runCheck).1
    (∀ e ∈ [(Instr.stageCheck t q, 1), (.stageCommitw t q, 2), (.stageCommitt t q, 3), (.stageAbandon t q, 4), (.stageTload t q, 5), (.stageRestorefac t q, 6)],
      s.chip.sstate = 4 → (s.at_ t).chip.headIs q 5 e.2 = true → exec e.1 s = .next (s.at_ t)) ∧
    (Started t q 5 0 (some 0) x c s → ∃ v, StageCompletes (.stageQuery t q) q x 0 v 0 (only { c with free := c.free + 1 }) s) ∧
    (s.chip.sstate ≠ 4 →
      (Started t q 5 1 (some 0) x c s →
        (c.sstate = 3 → StageCompletes (.stageCheck t q) q x 3 0 0x43 (only c) s) ∧
        (c.sstate ≠ 3 → StageCompletes (.stageCheck t q) q x (if c1 = 0 then 0 else 1) c1 0 (only (c.runCheck).2) s)) ∧
      (Started t q 5 2 (some 0) x c s →
        let p := x.param 24 8
        let strict := x.param 18 1 % 2 = 1
        (c.sstate = 1 → StageCompletes (.stageCommitw t q) q x 2 0 0x41 (only c) s) ∧
        (c.sstate = 3 → ¬ (strict ∧ c.commitLate p = true) → StageCompletes (.stageCommitw t q) q x 3 0 0x43 (only c) s) ∧
        (c.sstate ≠ 1 → strict → c.commitLate p = true → StageCompletes (.stageCommitw t q) q x 4 0 0x42 (only c) s) ∧
        (c.sstate ≠ 1 → c.sstate ≠ 3 → ¬ (strict ∧ c.commitLate p = true) →
          StageCompletes (.stageCommitw t q) q x (if (c.commitw p).1 = 2 then 1 else 0) (c.commitw p).1 0 (only (c.commitw p).2) s)) ∧
      (Started t q 5 3 (some 0) x c s →
        (c.sstate = 1 → StageCompletes (.stageCommitt t q) q x 2 0 0x41 (only c) s) ∧
        (c.sstate = 3 → StageCompletes (.stageCommitt t q) q x 3 0 0x43 (only c) s) ∧
        (c.sstate ≠ 1 → c.sstate ≠ 3 → StageCompletes (.stageCommitt t q) q x 0 0 0 (only (c.committ (x.param 24 8))) s)) ∧
      (Started t q 5 4 (some 0) x c s →
        StageCompletes (.stageAbandon t q) q x (if (c.abandon).1 = 1 then 5 else 0) (c.abandon).1 0 (only (c.abandon).2) s) ∧
      (Started t q 5 5 (some 0) x c s →
        let ty := x.param 17 1
        let mask := x.param 20 2
        (c.testing 4 = true → OnlyCompletes (.stageTload t q) t q x 0x15 [] c s) ∧
        (c.testing 4 = false → c.store.find (x.param 32 4) = none → StageCompletes (.stageTload t q) q x 9 0 0 (only c) s) ∧
        (∀ a, c.testing 4 = false → c.store.find (x.param 32 4) = some a → let j := a.start + x.param 40 8
          (a.jobr = false → StageCompletes (.stageTload t q) q x 7 0 0x07 (only c) s) ∧
          (a.jobr = true → x.param 40 8 + 64 ≤ a.size * 65536 → j % 64 = 0 → maskBad ty mask = false → c.sstate ≠ 3 →
            imageTraps (only c) ty j = [] →
            StageCompletes (.stageTload t q) q x 0 (imageTable (only c) ty j).version 0 (loadTable ty mask j (only c)) s))) ∧
      (Started t q 5 6 (some 0) x c s →
        let items := x.param 17 1
        let bars := x.param 20 2
        (c.sstate = 3 → restoreBad items bars = false → StageCompletes (.stageRestorefac t q) q x 3 0 0x43 (only c) s) ∧
        (c.sstate ≠ 3 → restoreBad items bars = true → StageCompletes (.stageRestorefac t q) q x 8 0 0x50 (only c) s) ∧
        (c.sstate ≠ 3 → restoreBad items bars = false → StageCompletes (.stageRestorefac t q) q x 0 0 0 (only (c.restoreFac items bars)) s))) ∧
    (Started t q 5 7 (some 0) x c s →
      let r := c.calSave (x.param 17 1) (x.param 18 1)
      (saveBad (x.param 17 1) (x.param 18 1) = true → StageCompletes (.stageCalsave t q) q x 8 0 0x50 (only c) s) ∧
      (saveBad (x.param 17 1) (x.param 18 1) = false →
        StageCompletes (.stageCalsave t q) q x (if r.1 = 1 then 3 else if r.1 = 2 then 6 else 0) r.1 0 (only r.2) s))

/-- R11 to R13, R46, R332: a write of a word of control space that is misaligned, outside every window or not granted, or of less than a word,
changes nothing but for the notice of R46; one to a block that does not answer has no effect. In the windows named, at offset 0x40 and
above, a granted write of a one-word register sets its RW fields, clears the bits of its W1C and RS fields that it writes as 1, but for
an RS field that the part has set in that control clock, and leaves its RO fields and every other register as they were; of a wider register a word below the highest is held. A granted
read gives the register and latches its higher words; a higher word gives what was latched; where no register stands it gives 0. -/
def Obligations.ControlSpaceAccesses : Prop :=
  ∀ (t : Nat) (tnt : Fin 8) (a v : BitVec 32) (s : State),
    let c := (s.at_ t).chip
    let only (d : Chip) : State := { s.at_ t with chip := d }
    let addr := a.toNat
    let write := exec (.registerWrite t tnt a (some v)) s
    let read := exec (.registerRead t tnt a true) s
    let answer (n : Nat) (d : Chip) : State := only (d.emit .pcieData tnt [addr, n])
    (addr % 4 ≠ 0 ∨ blockAt addr = none → write = .next (only (c.noticeAccess addr)) ∧ read = .next (answer 0 (c.noticeAccess addr))) ∧
    exec (.registerRead t tnt a false) s = .next (answer 0 (c.noticeAccess addr)) ∧
    exec (.registerWrite t tnt a none) s = .next (only (c.noticeAccess addr)) ∧
    (∀ b i, addr % 4 = 0 → blockAt addr = some (b, i) →
      (c.mayWrite tnt b i (offIn b i addr) = false → write = .next (only (c.noticeAccess addr))) ∧
      (c.mayWrite tnt b i (offIn b i addr) = true → (c.reachable b i && c.blockOn b i) = false → write = .next (only c)) ∧
      (c.mayRead tnt b i = false → read = .next (answer 0 (c.noticeAccess addr))) ∧
      (c.mayRead tnt b i = true → (c.reachable b i && c.blockOn b i) = false ∨ c.dtHidden b i addr = true → ∃ n, read = .next (answer n { c with free := c.free + 1 })) ∧
      (c.mayWrite tnt b i (offIn b i addr) = true → (c.reachable b i && c.blockOn b i) = true → ∀ r fs, fieldsAt b i addr = r :: fs →
        (addr < r.f.base + 4 * (regWords (r :: fs) - 1) → write = .next (only { c with held := FMap.put none c.held addr (some v.toNat) })) ∧
        (b ∈ [Blk.sys, .seq, .hp, .pcie, .fs, .rl, .nv, .mr, .hbm, .tc, .rg] → regWords (r :: fs) = 1 → r.f.base = addr → b.base i + 0x40 ≤ addr →
          ∃ d, write = .next (only d) ∧ sameFields ((r :: fs).map (·.f)) c d ∧
            { d with regs := [], held := [] } = { c with regs := [], held := [] } ∧
            ∀ f ∈ r :: fs, f.f.base = addr → (r :: fs).filter (fun g => g.f.key = f.f.key) = [f] → f.f.width ≠ 0 → f.f.lo + f.f.width ≤ 32 →
              (f.acc = .ro → d.get f.f = c.get f.f) ∧
              (f.acc = .rw → f.filter = .any → d.get f.f = bits v.toNat f.f.lo f.f.width) ∧
              (f.acc = .rs → FMap.get 0 c.faults.latched f.f.key = c.clock → d.get f.f = c.get f.f) ∧
              (f.acc = .w1c ∨ f.acc = .rs ∧ FMap.get 0 c.faults.latched f.f.key ≠ c.clock → d.get f.f = (c.get f.f - (c.get f.f &&& bits v.toNat f.f.lo f.f.width)) % 2 ^ f.f.width))) ∧
      (c.mayRead tnt b i = true → (c.reachable b i && c.blockOn b i) = true → c.dtHidden b i addr = false →
        (fieldsAt b i addr = [] → read = .next (answer 0 c)) ∧
        (∀ r fs, fieldsAt b i addr = r :: fs → b ≠ .cd →
          (r.f.base = addr → let w := (s.at_ t).regValue b i (r :: fs)
            read = .next (answer (w % 2 ^ 32) (c.latchWords addr (regWords (r :: fs)) w))) ∧
          (r.f.base ≠ addr → read = .next (answer ((FMap.get none c.latch addr).getD (bits (regReset (r :: fs)) (32 * ((addr - r.f.base) / 4)) 32)) c)))))

/-- R11, R319, Tables 12-1, 13-5: STATUS completes with the state of context 0, DT, X and the headroom. REG_READ of one to eight aligned
words completes with what each reads, REG_WRITE writes one aligned word as the queue's tenant; both complete FORMAT when the operands are
not so, and STATE for a block that does not answer. SET_CIVIL is a civil measurement M at DT D while CSRC is HOST, and completes OK in
any case; in a unit that runs, within CSTEP the error is slewed; a forward error above it is corrected at once; a backward one waits as the
pending offset. -/
def Obligations.StatusRegisterAndCivilCommands : Prop :=
  (∀ (t : Nat) (q : Fin 64) (x : InDesc) (c : Chip) (s : State), Started t q 7 0 none x c s →
    OnlyCompletes (.status t q) t q x 0 (le 4 (c.ctxState 0) ++ zeros 4 ++ le 8 c.ns ++ le 8 (c.get WM_X_X) ++ le 2 (c.headroomWord % 65536)) c s) ∧
  (∀ (t : Nat) (q : Fin 64) (x : InDesc) (c : Chip) (s : State), Started t q 8 0 none x c s →
    let addr := x.param 16 4
    let n := x.param 20 1
    (addr % 4 ≠ 0 ∨ n = 0 ∨ 8 < n → OnlyCompletes (.regRead t q) t q x 0x13 [] c s) ∧
    (addr % 4 = 0 → n ≠ 0 → n ≤ 8 → (∃ i, i < n ∧ c.unreadable (addr + 4 * i) = true) → OnlyCompletes (.regRead t q) t q x 0x15 [] c s) ∧
    (addr % 4 = 0 → n ≠ 0 → n ≤ 8 → (∀ i, i < n → c.unreadable (addr + 4 * i) = false) →
      let r := ({ s.at_ t with chip := c } : State).regReads (c.qTenant q) addr n
      exec (.regRead t q) s = .next { r.2 with chip := r.2.chip.complete q x.tag x.rx 0 r.1 })) ∧
  (∀ (t : Nat) (q : Fin 64) (x : InDesc) (c : Chip) (s : State), Started t q 9 0 none x c s →
    let addr := x.param 16 4
    (addr % 4 ≠ 0 → OnlyCompletes (.regWrite t q) t q x 0x13 [] c s) ∧
    (addr % 4 = 0 → c.noAnswer addr = true → OnlyCompletes (.regWrite t q) t q x 0x15 [] c s) ∧
    (addr % 4 = 0 → c.noAnswer addr = false →
      OnlyCompletes (.regWrite t q) t q x 0 [] (c.regWrite (c.qTenant q) addr (x.param 20 4)) s)) ∧
  (∀ (t : Nat) (q : Fin 64) (x : InDesc) (c : Chip) (s : State), Started t q 6 0 (some 2) x c s →
    let off := c.getS TB_CIVOFS_OFS
    let err := sgn 64 (x.param 16 8) - ((x.param 24 8 : Nat) + off)
    let step : Int := c.get TB_CPAR_CSTEP * 1000000
    (c.get TB_CFG_CSRC ≠ 0 ∨ c.runs = false → OnlyCompletes (.setCivil t q) t q x 0 [] c s) ∧
    (c.get TB_CFG_CSRC = 0 → c.runs = true → ∃ d : Chip, OnlyCompletes (.setCivil t q) t q x 0 [] d s ∧
      d.get TB_CERR_ERR = satSgn 32 err % 2 ^ 32 ∧ d.get TB_STAT_CVALID = 1 ∧ sameG c d ∧ sameW c d ∧ d.strm = c.strm ∧ d.stage = c.stage ∧
      (-step ≤ err → err ≤ step → d.get TB_STAT_CPEND = 0 ∧ d.get TB_CIVOFS_OFS = c.get TB_CIVOFS_OFS ∧
        d.time.slew = (if err = 0 then none else some (err, c.ns, 0)) ∧
        sameFields [TB_CERR_ERR, TB_STAT_CVALID, TB_STAT_CPEND, TW_JSEQ_JSEQ] c d ∧ d.hosts = c.hosts ∧ d.faults = c.faults) ∧
      (step < err → 0 ≤ step → d.get TB_STAT_CPEND = 0 ∧ d.get TB_CIVOFS_OFS = uns 64 (off + err) % 2 ^ 64 ∧ d.time.slew = none) ∧
      (err < -step → 0 ≤ step → d.get TB_STAT_CPEND = 1 ∧ d.get TB_CIVPEND_PEND = uns 64 (off + err) % 2 ^ 64 ∧
        d.get TB_CIVOFS_OFS = c.get TB_CIVOFS_OFS ∧ d.time.slew = none)))

/-- R113, R115, R117, R118: ALLOC takes the lowest free index and the run that the allocator places, owned by the tenant, who with T0 may read and
write it; it is refused with FORMAT, RANGE, QUOTA and NO_SPACE in that order. FREE, SETRIGHTS, UNSEAL and SEAL of kind DATA act on the
allocation that the handle names for its owner or T0, else STALE or RIGHTS; one in use is not freed, unsealed or withdrawn from the job. -/
def Obligations.AllocatorCommands : Prop :=
  (∀ (t : Nat) (q : Fin 64) (x : InDesc) (c : Chip) (s : State), StoreStarted t q 0x100 none x c s →
    let n := x.param 16 4
    let pin := x.param 20 1
    let own := c.qTenant q
    let st := c.store
    let full : Prop := c.get (JS_QUOTA_QUOTA own) < st.used (fun y => y.owner = own) + n
    (1 < pin → OnlyCompletes (.alloc t q) t q x 0x13 [] c s) ∧
    (pin ≤ 1 → n = 0 ∨ 393216 < n → OnlyCompletes (.alloc t q) t q x 6 [] c s) ∧
    (pin ≤ 1 → n ≠ 0 → n ≤ 393216 → full → OnlyCompletes (.alloc t q) t q x 8 [] c s) ∧
    (pin ≤ 1 → n ≠ 0 → n ≤ 393216 → ¬ full → st.place n = none ∨ st.freeIndex = none → OnlyCompletes (.alloc t q) t q x 1 [] c s) ∧
    (∀ b i, pin ≤ 1 → n ≠ 0 → n ≤ 393216 → ¬ full → st.place n = some b → st.freeIndex = some i →
      let m := 2 ^ own ||| 1
      let a : Alloc := { index := i, gen := FMap.get 0 st.gens i, base := b, size := n, owner := own, rd := m, wr := m, pin := pin = 1 }
      ∃ d, OnlyCompletes (.alloc t q) t q x 0 (le 4 a.handle) d s ∧ d.store = { st with allocs := st.allocs ++ [a] } ∧
        sameFields [TW_JSEQ_JSEQ] c d ∧ { d with regs := [], twin := {}, store := {} } = { c with regs := [], twin := {}, store := {} })) ∧
  (∀ (t : Nat) (q : Fin 64) (x : InDesc) (c : Chip) (s : State), ∀ e ∈ [(Instr.free t q, 0x101), (.setrights t q, 0x102), (.sealAlloc t q, 0x103), (.unsealAlloc t q, 0x104)],
    StoreStarted t q e.2 none x c s →
    (c.store.find (x.param 16 4) = none → OnlyCompletes e.1 t q x 0x0B [] c s) ∧
    (∀ a, c.store.find (x.param 16 4) = some a → a.ownedBy (c.qTenant q) = false → OnlyCompletes e.1 t q x 5 [] c s)) ∧
  (∀ (t : Nat) (q : Fin 64) (x : InDesc) (c : Chip) (s : State) (a : Alloc), c.store.find (x.param 16 4) = some a → a.ownedBy (c.qTenant q) = true →
    (StoreStarted t q 0x101 none x c s →
      (c.inUse a = true → OnlyCompletes (.free t q) t q x 7 [] c s) ∧
      (c.inUse a = false → ∃ d, OnlyCompletes (.free t q) t q x 0 [] d s ∧ d.store.allocs = c.store.allocs.filter (fun y => y.index ≠ a.index) ∧
        FMap.get 0 d.store.gens a.index = (a.gen + 1) % 4096 ∧ d.store.lines = c.store.lines.filter (fun y => y.h ≠ a.handle) ∧
        d.store.jobs = c.store.jobs ∧ sameFields [TW_JSEQ_JSEQ] c d ∧
        { d with regs := [], twin := {}, store := {} } = { c with regs := [], twin := {}, store := {} })) ∧
    (StoreStarted t q 0x102 none x c s →
      let fl := x.param 22 1
      let new := { a with rd := x.param 20 1, wr := x.param 21 1, jobr := bit fl 0, jobw := bit fl 1, pin := bit fl 2 }
      let taken : Prop := a.jobr = true ∧ bit fl 0 = false ∧ c.inUse a = true
      let full : Prop := bit fl 2 = true ∧ a.pin = false ∧ a.isSealed = true ∧ a.tile = true ∧ pinFull { s.at_ t with chip := c } a = true
      (8 ≤ fl → OnlyCompletes (.setrights t q) t q x 0x13 [] c s) ∧
      (fl < 8 → taken → OnlyCompletes (.setrights t q) t q x 7 [] c s) ∧
      (fl < 8 → ¬ taken → full → OnlyCompletes (.setrights t q) t q x 0x0D [] c s) ∧
      (fl < 8 → ¬ taken → ¬ full → ∃ d, OnlyCompletes (.setrights t q) t q x 0 [] d s ∧ Reallocated new c d ∧ d.store.lines = c.store.lines)) ∧
    (StoreStarted t q 0x103 none x c s →
      let kind := x.param 20 1
      (1 < kind → OnlyCompletes (.sealAlloc t q) t q x 0x13 [] c s) ∧
      (kind ≤ 1 → a.isSealed = true → OnlyCompletes (.sealAlloc t q) t q x 5 [] c s) ∧
      (kind = 1 → a.isSealed = false → ∃ d, OnlyCompletes (.sealAlloc t q) t q x 0 [] d s ∧
        Reallocated { a with isSealed := true, tile := false } c d ∧ d.store.lines = c.store.lines) ∧
      (kind = 0 → a.isSealed = false → 256 ≤ c.store.waiting.length → OnlyCompletes (.sealAlloc t q) t q x 9 [] c s) ∧
      (kind = 0 → a.isSealed = false → c.store.waiting.length < 256 →
        let j : CodecJob := { id := c.store.nextJob, op := .sealTile, src := a.handle, queue := q, tag := x.tag, rx := x.rx, tenant := c.qTenant q }
        exec (.sealAlloc t q) s = .next { s.at_ t with chip := { c with store := { c.store with jobs := c.store.jobs ++ [j], nextJob := c.store.nextJob + 1 } } })) ∧
    (StoreStarted t q 0x104 none x c s →
      (a.isSealed = false → OnlyCompletes (.unsealAlloc t q) t q x 5 [] c s) ∧
      (a.isSealed = true → c.inUse a = true → OnlyCompletes (.unsealAlloc t q) t q x 7 [] c s) ∧
      (a.isSealed = true → c.inUse a = false → ∃ d, OnlyCompletes (.unsealAlloc t q) t q x 0 [] d s ∧
        Reallocated { a with isSealed := false } c d ∧ d.store.lines = c.store.lines.filter (fun y => y.h ≠ a.handle))))

/-- R113: the allocator places a run at the lowest granule from which the run lies in the area and overlaps no allocation, and gives it the
lowest index from 1 that no allocation has; it finds no place only where there is none. -/
def Obligations.LowestRunAndIndex : Prop :=
  ∀ (st : Store) (n : Nat),
    let free (b : Nat) : Prop := b + n ≤ 393216 ∧ ∀ x ∈ st.allocs, x.base + x.size ≤ b ∨ b + n ≤ x.base
    (∀ b, st.place n = some b → free b ∧ ∀ y, free y → b ≤ y) ∧ (st.place n = none → ∀ y, ¬ free y) ∧
    (∀ i, st.freeIndex = some i → 1 ≤ i ∧ i < 65536 ∧ (∀ x ∈ st.allocs, x.index ≠ i) ∧ ∀ j, 1 ≤ j → j < i → ∃ x ∈ st.allocs, x.index = j) ∧
    (st.freeIndex = none → ∀ j, 1 ≤ j → j < 65536 → ∃ x ∈ st.allocs, x.index = j)

/-- R132, R134, R136, R345: WRITE stores its BULK data, or what the host address holds, in the allocation; READ writes the bytes to
the host address it names or, where it names none, sends them in BULK frames, and completes UNCORR for an uncorrectable read. STALE, RIGHTS and RANGE refuse a transfer that its
allocation does not admit, FORMAT one whose operands do not fit its queue. COMPRESS and DECOMPRESS check the same of both allocations and
wait as a job for an engine; BUSY refuses a job when 256 wait. -/
def Obligations.JobStoreTransfers : Prop :=
  (∀ (t : Nat) (q : Fin 64) (host : List Byte) (x : InDesc) (c : Chip) (s : State), StoreStarted t q 0x105 none x c s →
    let len := x.param 32 4
    let off := x.param 24 8
    let addr := x.param 40 8
    let bad : Prop := if x.bulk = true then addr ≠ 0 ∨ x.data.length ≠ 64 * ceilDiv len 64 else addr = 0
    (bad → OnlyCompletes (.write t q host) t q x 0x13 [] c s) ∧
    (¬ bad → c.store.find (x.param 16 4) = none → OnlyCompletes (.write t q host) t q x 0x0B [] c s) ∧
    (∀ a, ¬ bad → c.store.find (x.param 16 4) = some a →
      (bit a.wr (c.qTenant q) = false ∨ a.isSealed = true → OnlyCompletes (.write t q host) t q x 5 [] c s) ∧
      (bit a.wr (c.qTenant q) = true → a.isSealed = false → a.size * 65536 < off + len → OnlyCompletes (.write t q host) t q x 6 [] c s) ∧
      (bit a.wr (c.qTenant q) = true → a.isSealed = false → off + len ≤ a.size * 65536 →
        ∃ (d : Chip) (m : Mem), exec (.write t q host) s = .next { s.at_ t with mem := m, chip := d.complete q x.tag x.rx 0 (le 4 len) } ∧
          Stored s.mem.job m.job (a.start + off) (fit len (if x.bulk then x.data else host)) ∧ m.data = s.mem.data ∧ m.prog = s.mem.prog ∧
          sameFields [TW_JSEQ_JSEQ] c d ∧ { d with regs := [], twin := {}, wire := [] } = { c with regs := [], twin := {}, wire := [] }))) ∧
  (∀ (t : Nat) (q : Fin 64) (r : Ecc) (x : InDesc) (c : Chip) (s : State), StoreStarted t q 0x106 none x c s →
    let len := x.param 32 4
    let off := x.param 24 8
    let addr := x.param 40 8
    let pcie := c.is (QM_QCFG_VIA q)
    let bad : Prop := addr = 0 ∧ pcie = true
    (bad → OnlyCompletes (.read t q r) t q x 0x13 [] c s) ∧
    (¬ bad → c.store.find (x.param 16 4) = none → OnlyCompletes (.read t q r) t q x 0x0B [] c s) ∧
    (∀ a, ¬ bad → c.store.find (x.param 16 4) = some a →
      (bit a.rd (c.qTenant q) = false → OnlyCompletes (.read t q r) t q x 5 [] c s) ∧
      (bit a.rd (c.qTenant q) = true → a.size * 65536 < off + len → OnlyCompletes (.read t q r) t q x 6 [] c s) ∧
      (bit a.rd (c.qTenant q) = true → off + len ≤ a.size * 65536 →
        let d := c.jobStoreRead r
        let bs := s.mem.job.read (a.start + off) len
        let room := max 64 (d.bulkRoom q)
        (r = .uncorrectable → OnlyCompletes (.read t q r) t q x 0x0A [] d s) ∧
        (r ≠ .uncorrectable → addr ≠ 0 → OnlyCompletes (.read t q r) t q x 0 (le 4 len) (d.emit .pcieData (d.qTenant q) [q, addr] bs) s) ∧
        (r ≠ .uncorrectable → addr = 0 → OnlyCompletes (.read t q r) t q x 0 (le 4 len)
          (d.forAll (List.range (ceilDiv len room)) fun e i => e.sendData q x.tag (off + room * i) ((bs.drop (room * i)).take room)) s)))) ∧
  (∀ (t : Nat) (q : Fin 64) (x : InDesc) (c : Chip) (s : State), ∀ e ∈ [(Instr.compress t q, 0x107, CodecOp.compress), (.decompress t q, 0x108, .decompress)],
    StoreStarted t q e.2.1 none x c s →
    let kind := x.param 48 1
    let soff := x.param 24 8
    let doff := x.param 32 8
    let len := x.param 40 4
    let cap := x.param 44 4
    let bad : Prop := e.2.2 = .compress ∧ kind = 1 ∨ 2 < kind
    (bad → OnlyCompletes e.1 t q x 0x13 [] c s) ∧
    (¬ bad → c.store.find (x.param 16 4) = none ∨ c.store.find (x.param 20 4) = none → OnlyCompletes e.1 t q x 0x0B [] c s) ∧
    (∀ a b, ¬ bad → c.store.find (x.param 16 4) = some a → c.store.find (x.param 20 4) = some b →
      let allowed : Prop := bit a.rd (c.qTenant q) = true ∧ bit b.wr (c.qTenant q) = true ∧ b.isSealed = false
      let inside : Prop := soff % 64 = 0 ∧ doff % 64 = 0 ∧ soff + len ≤ a.size * 65536 ∧ doff + cap ≤ b.size * 65536
      (¬ allowed → OnlyCompletes e.1 t q x 5 [] c s) ∧
      (allowed → ¬ inside → OnlyCompletes e.1 t q x 6 [] c s) ∧
      (allowed → inside → 256 ≤ c.store.waiting.length → OnlyCompletes e.1 t q x 9 [] c s) ∧
      (allowed → inside → c.store.waiting.length < 256 →
        let j : CodecJob := { id := c.store.nextJob, op := e.2.2, queue := q, tag := x.tag, rx := x.rx, tenant := c.qTenant q, src := a.handle, dst := b.handle, soff := soff, doff := doff, len := len, cap := cap, kind := kind }
        exec e.1 s = .next { s.at_ t with chip := { c with store := { c.store with jobs := c.store.jobs ++ [j], nextJob := c.store.nextJob + 1 } } })))

/-- R327, R335 to R338, R340, R342, R351, Table 6-5: SEND_AT queues a timed frame for the port of the destination's event ring, and completes FORMAT or
STATE where the frame cannot be made. The frame leaves at its launch time or less than 1 µs after, counted as late then and when its launch time is that of the frame before; a later
one is dropped, and
the command completes LATE. REPORT completes STALE or UNCORR where its allocation cannot be read, with the first refusal of Table 6-5 that applies,
counted as rejected, and otherwise with what the report gave; bands whose ledger read stays uncorrectable are INVALID first. An application descriptor takes a credit and waits in its queue, or completes at once with the status of what is wrong; the first one that
waits triggers dispatch entry 64 + q. Without a credit it is discarded with a fault. A descriptor that has waited for TO µs completes TIMEOUT. -/
def Obligations.TimedFramesReportsAndDescriptors : Prop :=
  (∀ (t : Nat) (q : Fin 64) (x : InDesc) (c : Chip) (s : State), Started t q 0x109 0 (some 2) x c s →
    let d := x.param 24 1
    let n := x.param 25 1
    let bad : Prop := 8 ≤ d ∨ n = 0 ∨ 32 < n
    (bad → OnlyCompletes (.sendAt t q) t q x 0x13 [] c s) ∧
    (¬ bad → c.eQueue d = none → OnlyCompletes (.sendAt t q) t q x 0x15 [] c s) ∧
    (∀ e, ¬ bad → c.eQueue d = some e →
      let p := c.get (QM_QCFG_PORT e)
      (c.is (QM_QCFG_VIA e) = true ∨ c.session d p = none → OnlyCompletes (.sendAt t q) t q x 0x15 [] c s) ∧
      (c.is (QM_QCFG_VIA e) = false → c.session d p ≠ none →
        let f : TimedFrame := { port := p, launch := x.param 16 8, dest := d, msg := (x.d.drop 32).take n, queue := q, tag := x.tag, rx := x.rx }
        Acts (.sendAt t q) t s { c with hosts := { c.hosts with timed := c.hosts.timed ++ [f] } }))) ∧
  (∀ (t : Nat) (p : Fin 4) (f : TimedFrame) (rest : List TimedFrame) (s : State),
    let c := (s.at_ t).chip
    let n := FMap.get 0 c.hosts.lateFrames p
    let late : Prop := f.launch < c.ns ∨ FMap.get none c.hosts.lastL p = some f.launch
    nextTimed p c.hosts.timed = some (f, rest) →
    let d : Chip := { c with hosts := { c.hosts with timed := rest } }
    let lates := FMap.put 0 c.hosts.lateFrames p (if late then n + 1 else n)
    let d1 : Chip := { c with hosts := { c.hosts with timed := rest, lateFrames := lates, lastL := FMap.put none c.hosts.lastL p (some f.launch) } }
    (c.ns < f.launch → Passes (.sendAtLaunch t p) t s) ∧
    (f.launch + 1000 ≤ c.ns → Acts (.sendAtLaunch t p) t s (d.complete f.queue f.tag f.rx 0x1A)) ∧
    (∀ e ses, f.launch ≤ c.ns → c.ns < f.launch + 1000 → c.eQueue f.dest = some e → c.session f.dest p = some ses →
      let o := ((c.queue e).oseq + 1) % 2 ^ 32
      let r := fit 64 (le 1 4 ++ le 1 e ++ le 2 0 ++ le 4 o ++ le 4 c.stamp ++ le 4 0 ++ f.msg)
      Acts (.sendAtLaunch t p) t s
        (((d1.setQueue e { c.queue e with oseq := o }).sendFrame .timed f.dest p 4 1 0 r).complete f.queue f.tag f.rx 0))) ∧
  (∀ (t : Nat) (q : Fin 64) (host : List Byte) (r : Ecc) (lost : List Nat) (x : InDesc) (c : Chip) (s : State), StoreStarted t q 0x200 (some 1) x c s →
    let e := Instr.report t q ⟨host, r, lost⟩
    let stored : Prop := x.param 16 1 = 0
    let inHost : Prop := x.param 16 1 = 1
    let bad : Prop := 1 < x.param 16 1 ∨ 20512 < x.param 32 4
    let c1 := if stored then c.jobStoreRead r else c
    let c2 := if inHost then c1.emit .pcieFetch (c1.qTenant q) [q, x.param 24 8, x.param 32 4] else c1
    let p : Report := ⟨reportBytes q host x { s.at_ t with chip := c2 }⟩
    let d := c2.loseBands p lost
    let known : Prop := stored → c.store.find (x.param 20 4) ≠ none
    let read : Prop := stored → r ≠ .uncorrectable
    (bad → OnlyCompletes e t q x 1 [] (c.bump CH_CNT_REJECTED) s) ∧
    (¬ bad → ¬ known → OnlyCompletes e t q x 0x0B [] (c.bump CH_CNT_REJECTED) s) ∧
    (¬ bad → known → ¬ read → OnlyCompletes e t q x 0x0A [] (c1.bump CH_CNT_REJECTED) s) ∧
    (¬ bad → known → read → d.reportStatus p ≠ 0 → OnlyCompletes e t q x (d.reportStatus p) [] (d.bump CH_CNT_REJECTED) s) ∧
    (¬ bad → known → read → d.reportStatus p = 0 → OnlyCompletes e t q x 0 (d.report p).1 (d.report p).2 s)) ∧
  (∀ (t : Nat) (q : Fin 64) (b : List Byte) (rx : Nat) (s : State),
    let c := (s.at_ t).chip
    let e := Instr.applicationDescriptor t q b rx
    let x : InDesc := { d := fit 64 b, arrival := c.ns, rx := rx }
    let k := c.queue q
    let d := c.setQueue q { k with accepted := (k.accepted + 1) % 2 ^ 32, reserved := k.reserved + 1 }
    let d1 := d.setQueue q { d.queue q with inq := (d.queue q).inq ++ [x] }
    x.isApp = true → 0x8000 ≤ fieldAt b 0 2 → c.takesFrom (c.qTenant q) q = true →
      (c.credits q = 0 → Acts e t s (c.noCredit (if c.is (QM_QCFG_VIA q) then none else some (c.get (QM_QCFG_PORT q))))) ∧
      (∀ st, c.credits q ≠ 0 → d.early q x = some st → Acts e t s (d.complete q x.tag rx st)) ∧
      (c.credits q ≠ 0 → d.early q x = none → (d.queue q).inq.any (·.isApp) = true → Acts e t s d1) ∧
      (c.credits q ≠ 0 → d.early q x = none → (d.queue q).inq.any (·.isApp) = false → Acts e t s (d1.trigger (64 + q)))) ∧
  (∀ (t : Nat) (q : Fin 64) (x : InDesc) (rest : List InDesc) (s : State),
    let c := (s.at_ t).chip
    let lim := c.get (QM_QTO_TO q)
    lim ≠ 0 → takeFirst (fun (y : InDesc) => decide (y.arrival + 1000 * lim ≤ c.ns)) (c.queue q).inq = some (x, rest) →
      Acts (.queueTimeout t q) t s ((c.setQueue q { c.queue q with inq := rest }).complete q x.tag x.rx 0x19))

/-- R27, R114, R125, R133 to R139, R141, R143: four engines take jobs from the queue, jobs of the twin controller first, then host jobs round-robin over
tenants and in order of submission; a waiting twin job pre-empts a running host job, whose context is saved. A job ends with its status: COMPRESS and
DECOMPRESS store their output when they end OK; at any other status every byte written is zeroed and length 0 is reported. SEAL seals a tile that passes
its checks; a destination sealed meanwhile takes nothing. A twin job that ends sends its section as a KIND 1 stream in a SNAP frame and the next is
packed; one that fails or stalls for CD_STALLTO is marked aborted there. The scrub reports what it corrects. A fetch unlocks the lines it has filled; one
that fails after its retries gives them back and raises the failover fault of the codec; the decoder takes the next fetch. -/
def Obligations.CodecJobsAndTileFetches : Prop :=
  (∀ (t : Nat) (s : State),
    let c := (s.at_ t).chip
    let st := c.store
    let ready (i : Nat) := st.waiting.find? fun j => j.tenant = (st.lastTenant + 1 + i) % 8
    let started (id : Nat) := st.jobs.map fun k => if k.id = id then { k with running := true, saved := false } else k
    (4 ≤ st.running.length → Passes (.codecJobStart t) t s) ∧
    (st.running.length < 4 → st.waiting.find? (·.twin) = none → (∀ i < 8, ready i = none) → Passes (.codecJobStart t) t s) ∧
    (∀ j, st.running.length < 4 → st.waiting.find? (·.twin) = some j → Acts (.codecJobStart t) t s (c.setStore { st with jobs := started j.id })) ∧
    (∀ i j, st.running.length < 4 → st.waiting.find? (·.twin) = none → i < 8 → (∀ h < i, ready h = none) → ready i = some j →
      Acts (.codecJobStart t) t s (c.setStore { st with jobs := started j.id, lastTenant := j.tenant }))) ∧
  (∀ (t id : Nat) (s : State),
    let c := (s.at_ t).chip
    let st := c.store
    let may : Prop := st.waiting.any (·.twin) = true ∧ 4 ≤ st.running.length ∧ st.jobs.any (fun j => j.id = id && j.running && !j.twin) = true
    (may → Acts (.codecPreempt t id) t s
      (c.setStore ({ st with jobs := st.jobs.map fun k => if k.id = id then { k with running := false, saved := true } else k } : Store).startJob)) ∧
    (¬ may → Passes (.codecPreempt t id) t s)) ∧
  (∀ (t id : Nat) (s : State),
    let c := (s.at_ t).chip
    let goes (k : CodecJob) : CodecJob := if k.id = id ∧ k.running = true ∧ k.twin = true then { k with resumed := some c.ns } else k
    Acts (.codecStallEnd t id) t s (c.setStore { c.store with jobs := c.store.jobs.map goes })) ∧
  (∀ (t id since : Nat) (j : CodecJob) (s : State),
    let c := (s.at_ t).chip
    c.store.runningJob id = some j → j.twin = true → j.op = .compress →
      let long : Prop := since + 1000 * c.get CD_STALLTO_STALLTO ≤ c.ns
      let went : Prop := ∃ a, j.resumed = some a ∧ since ≤ a
      let d := (c.setStore { c.store with jobs := c.store.jobs.filter fun k => !k.twin }).ropeSend .ropeSnap [j.soff, 2]
      (long → ¬ went → Acts (.codecStallTimeout t id since) t s { d with twin := { d.twin with snapSent := false, mirroring := false } }) ∧
      (¬ long ∨ went → Passes (.codecStallTimeout t id since) t s)) ∧
  (∀ (t id : Nat) (r : Ecc) (bad : List Nat) (vfail : Bool) (j : CodecJob) (s : State),
    let e := Instr.codecJobDone t id r bad vfail
    let c := (s.at_ t).chip
    c.store.runningJob id = some j →
      (∀ a b, j.twin = false → j.op ≠ .sealTile → c.store.find j.src = some a → c.store.find j.dst = some b →
        let d := if j.op = .compress then (c.jobStoreRead r).verifier bad vfail else c.jobStoreRead r
        let dst := b.start + j.doff
        let out := (codecResult j (s.mem.job.read (a.start + j.soff) j.len) bad).1
        let st := (codecResult j (s.mem.job.read (a.start + j.soff) j.len) bad).2
        let unverified : Prop := j.op = .compress ∧ vfail = true
        (r = .uncorrectable → ∃ n, n ≤ (if b.isSealed then 0 else out.length) ∧ JobEnds e t j 0x0A (le 4 0) dst (zeros n) d s) ∧
        (r ≠ .uncorrectable → unverified → ∃ n, n ≤ (if b.isSealed then 0 else out.length) ∧ JobEnds e t j 2 (le 4 0) dst (zeros n) d s) ∧
        (r ≠ .uncorrectable → ¬ unverified → b.isSealed = true → JobEnds e t j 5 (le 4 0) dst [] d s) ∧
        (r ≠ .uncorrectable → ¬ unverified → b.isSealed = false → st = 0 → JobEnds e t j 0 (le 4 out.length) dst out d s) ∧
        (r ≠ .uncorrectable → ¬ unverified → b.isSealed = false → st ≠ 0 → JobEnds e t j st (le 4 0) dst (zeros out.length) d s)) ∧
      (∀ a, j.twin = false → j.op = .sealTile → c.store.find j.src = some a →
        let d := c.jobStoreRead r
        let k := sealChecks s.mem.job a.start a.size
        let full : Prop := a.pin = true ∧ pinFull { s.at_ t with chip := d } a = true
        let gone (c : Chip) : Chip := c.setStore { c.store with jobs := c.store.jobs.filter fun k => k.id ≠ j.id }
        let ends (st : Nat) (res : List Byte) (c : Chip) : Prop := Acts e t s ((gone c).complete j.queue j.tag j.rx st res)
        (r = .uncorrectable → ends 0x0A [] d) ∧
        (r ≠ .uncorrectable → k.1 ≠ 0 → ends 0x0C (le 4 k.1 ++ le 4 k.2.1 ++ le 4 k.2.2) d) ∧
        (r ≠ .uncorrectable → k.1 = 0 → full → ends 0x0D [] d) ∧
        (r ≠ .uncorrectable → k.1 = 0 → ¬ full → ends 0 (zeros 12) (d.putAlloc { a with isSealed := true, tile := true }))) ∧
      (j.twin = true → j.op = .decompress → Passes e t s) ∧
      (j.twin = true → j.op = .compress →
        let d := (c.jobStoreRead r).verifier bad vfail
        let stream := (compressUnits 1 (sectionBytes (section_ { s.at_ t with chip := d } j.soff)) bad).flatten
        let sent := (d.setStore { d.store with jobs := d.store.jobs.filter fun k => k.id ≠ j.id }).ropeSend .ropeSnap [j.soff, 1] stream
        let fails (c : Chip) (n : Nat) : Chip :=
          let f := (c.setStore { c.store with jobs := c.store.jobs.filter fun k => !k.twin }).ropeSend .ropeSnap [n, 2]
          { f with twin := { f.twin with snapSent := false, mirroring := false } }
        (r ≠ .uncorrectable → vfail = false → 10 ≤ j.soff → Acts e t s sent) ∧
        (r ≠ .uncorrectable → vfail = false → j.soff < 10 → sent.store.waiting.length < 256 →
          Acts e t s (sent.setStore { sent.store with
            jobs := sent.store.jobs ++ [{ id := sent.store.nextJob, op := .compress, twin := true, kind := 1, soff := j.soff + 1 }]
            nextJob := sent.store.nextJob + 1 })) ∧
        (r ≠ .uncorrectable → vfail = false → j.soff < 10 → 256 ≤ sent.store.waiting.length → Acts e t s (fails sent (j.soff + 1))) ∧
        (r = .uncorrectable ∨ vfail = true → Acts e t s (fails d j.soff)))) ∧
  (∀ (t : Nat) (r : Ecc) (s : State),
    let c := (s.at_ t).chip
    c.regionOn 4 = true → c.is (FINJ_ARM .js 0) = false →
      (r = .corrected → Acts (.jobStoreScrub t r) t s (c.raise .js 0 { src := 0, acted := 0 })) ∧ (r ≠ .corrected → Passes (.jobStoreScrub t r) t s)) ∧
  (∀ (t h sg b retries : Nat) (r : Ecc) (s : State),
    let e := Instr.tileFetchDone t h sg b retries r
    let c := (s.at_ t).chip
    let works (x : Fetch) : Bool := x.h = h && x.sg = sg && x.b = b && x.busy
    let d := (c.jobStoreRead r).bump CD_FERR_RETRY (min retries 3)
    (c.store.fetches.find? works = none → Passes e t s) ∧
    (∀ x a, c.store.fetches.find? works = some x → c.store.find h = some a → a.isSealed = true → a.tile = true → c.is (FINJ_ARM .cd 0) = false →
      d.is (FINJ_ARM .cd 0) = false →
      let bad : Prop := r = .uncorrectable ∨ (tileOf s.mem.job a).stream s.mem.job a.start sg b = none
      let full := d.setStore { d.store with
        lines := d.store.lines.map fun y => if y.of h sg b then { y with locked := false } else y
        fetches := d.store.fetches.filter fun y => y ≠ x }
      let lost := d.setStore { d.store with
        lines := d.store.lines.filter fun y => !y.of h sg b
        fetches := d.store.fetches.map fun y => if y = x then { y with busy := false, failed := true } else y }
      (bad → Acts e t s
        (((lost.bump CD_FERR_FAIL).raise .cd 0 { src := 2, detail := h + sg % 2 ^ 32 * 2 ^ 32, detail2 := b % 65536 }).startFetches.sampleDemand)) ∧
      (¬ bad → Acts e t s full.startFetches.sampleDemand)))

/-- R330 to R333, R341 to R348: an OPEN frame opens a session where the tenant may use the port; CLOSE and 100 ms of silence end it. DESC and BULK frames
are taken in order of XSEQ: a gap discards frames until RESYNC and raises a notice, a lower XSEQ is a duplicate. A bad frame counts in SEQERR. CREDIT frames
carry CREL of every queue of the tenant on the port. A port answers for its own addresses only. A doorbell fetches new descriptors while the host holds
credits; records that the host consumes make room; a held MSI-X message goes when its interval has passed. A tenant with ADMIN enables queues and
tenants, within the limits of R333; for any other it is a notice. -/
def Obligations.SessionsQueuesAndTenants : Prop :=
  (∀ (t : Nat) (m : Fin 8) (p : Fin 4) (addr udp : Nat) (frame : List Byte) (s : State),
    let e := Instr.openSession t m p addr udp frame
    let c := (s.at_ t).chip
    let may : Prop := frameType frame = 1 ∧ frameTenant frame = m ∧ c.get HL_PSTAT_STATE = 2 ∧ bit (c.get QM_TEN_EN) m = true ∧
      bit (c.get (QM_GRANT_PORTS m)) p = true ∧ c.session m p = none
    let new : Session := { addr := addr, udp := udp, expect := 1, send := 0, lastNs := c.ns }
    (frameOk frame = false → Acts e t s (c.bump (HP_CNT_SEQERR p))) ∧
    (frameOk frame = true → may → Acts e t s (((c.setSession m p (some new)).sendFrame .openReply m p 1 0 0 []).deliverPort m p)) ∧
    (frameOk frame = true → ¬ may → ∀ ses, c.session (frameTenant frame) p = some ses → ses.addr = addr → ses.udp = udp →
      Acts e t s (c.setSession (frameTenant frame) p (some { ses with lastNs := c.ns }))) ∧
    (frameOk frame = true → ¬ may → (∀ ses, c.session (frameTenant frame) p = some ses → ses.addr = addr → ses.udp ≠ udp) → Passes e t s)) ∧
  (∀ (t : Nat) (p : Fin 4) (addr udp : Nat) (frame : List Byte) (s : State), frameOk frame = false →
    ∀ e ∈ [Instr.closeSession t p addr udp frame, .descFrame t p addr udp frame, .bulk t p addr udp frame, .resync t p addr udp frame],
      Acts e t s ((s.at_ t).chip.bump (HP_CNT_SEQERR p))) ∧
  (∀ (t : Nat) (p : Fin 4) (addr udp : Nat) (frame : List Byte) (ses : Session) (c : Chip) (s : State), Heard t p addr udp 2 frame ses c s →
    Acts (.closeSession t p addr udp frame) t s (c.setSession (frameTenant frame) p none)) ∧
  (∀ (t : Nat) (p : Fin 4) (addr udp : Nat) (frame : List Byte) (ses : Session) (c : Chip) (s : State),
    ∀ e ∈ [(Instr.descFrame t p addr udp frame, 3), (.bulk t p addr udp frame, 6)], Heard t p addr udp e.2 frame ses c s →
      let n := frameTenant frame
      let x := frameXseq frame
      let next := c.setSession n p (some { ses with lastNs := (s.at_ t).chip.ns, expect := (x + 1) % 2 ^ 32 })
      let stop := c.setSession n p (some { ses with lastNs := (s.at_ t).chip.ns, lost := true })
      let ahead : Prop := (x + 2 ^ 32 - ses.expect) % 2 ^ 32 < 2 ^ 31
      (ses.lost = true → Acts e.1 t s c) ∧
      (ses.lost = false → x = ses.expect → Acts e.1 t s
        (if e.2 = 3 then next.forAll (frameRecords frame) (fun c d => c.arrive n p d [] false)
         else next.arrive n p ((frame.drop 32).take 64) (frame.drop 96) true)) ∧
      (ses.lost = false → x ≠ ses.expect → ahead → Acts e.1 t s ((stop.bump (HP_CNT_SEQERR p)).raise .hp p { src := 1 })) ∧
      (ses.lost = false → x ≠ ses.expect → ¬ ahead → Acts e.1 t s c)) ∧
  (∀ (t : Nat) (p : Fin 4) (addr udp : Nat) (frame : List Byte) (ses : Session) (c : Chip) (s : State), Heard t p addr udp 7 frame ses c s →
    let n := frameTenant frame
    let d := c.setSession n p (some { ses with lastNs := (s.at_ t).chip.ns, lost := false })
    Acts (.resync t p addr udp frame) t s ((d.sendFrame .resyncReply n p 8 0 0 []).creditFrames n p)) ∧
  (∀ (t : Nat) (m : Fin 8) (p : Fin 4) (ses : Session) (s : State), (s.at_ t).chip.session m p = some ses →
    (ses.lastNs + 100000000 ≤ (s.at_ t).chip.ns → Acts (.sessionTimeout t m p) t s ((s.at_ t).chip.setSession m p none)) ∧
    ((s.at_ t).chip.ns < ses.lastNs + 100000000 → Passes (.sessionTimeout t m p) t s)) ∧
  (∀ (t : Nat) (m : Fin 8) (p : Fin 4) (s : State),
    let c := (s.at_ t).chip
    let qs := (List.range 64).filter fun q => c.takesFrom m q && !c.is (QM_QCFG_VIA q) && c.get (QM_QCFG_PORT q) = p
    let clean := c.forAll qs fun c q => c.setQueue q { c.queue q with creditDirty := false }
    let part (i : Nat) := (qs.drop (16 * i)).take 16
    let record (c : Chip) (q : Nat) := le 1 0 ++ le 1 q ++ le 2 0 ++ le 4 (c.get (TN_QCREL_CREL m q)) ++ zeros 56
    Acts (.creditFrameSend t m p) t s (clean.forAll (List.range 4) fun c i =>
      if part i = [] then c else c.sendFrame .credit m p 5 (part i).length 0 ((part i).flatMap (record c)))) ∧
  (∀ (t : Nat) (p : Fin 4) (v6 : Bool) (target : Nat) (s : State),
    let c := (s.at_ t).chip
    let own : Prop := if v6 = true then c.get (HP_CFG_IP6EN p) ≠ 0 ∧ c.get (HP_IP6_ADDR p) = target
      else c.get (HP_CFG_IP4EN p) ≠ 0 ∧ c.get (HP_IP4_ADDR p) = target
    (own → Acts (.neighbourRequest t p v6 target) t s (c.emit .neighbour p [b2n v6, target, c.get (HP_MAC_MAC p)])) ∧
    (¬ own → Passes (.neighbourRequest t p v6 target) t s)) ∧
  (∀ (t : Nat) (m : Fin 8) (q : Fin 64) (pi : BitVec 32) (ring : List (List Byte)) (s : State),
    let c := (s.at_ t).chip
    let d := c.set (TN_QDB_PI m q) pi.toNat
    let first := (c.queue q).accepted
    let new := (pi.toNat + 2 ^ 32 - first) % 2 ^ 32
    let fetch (n : Nat) := d.forAll (List.range n) fun c i =>
      (c.emit .pcieFetch m [q, c.get (TN_QIBASE_IBASE m q) + 64 * ((first + i) % max 1 (d.get (QM_QCFG_DEPTH q)))]).accept q (ring.getD i []) c.stamp none
    c.takesFrom m q = true → c.get (QM_QCFG_VIA q) ≠ 0 → bit (c.get QM_TEN_EN) m = true →
      (new ≤ d.credits q → Acts (.doorbell t m q pi ring) t s (fetch new)) ∧
      (d.credits q < new → Acts (.doorbell t m q pi ring) t s ((fetch (d.credits q)).noCredit none))) ∧
  (∀ (t : Nat) (m : Fin 8) (q : Fin 64) (oci : BitVec 32) (s : State),
    let c := (s.at_ t).chip
    bit (c.get QM_TEN_EN) m = true → c.qTenant q = m →
      Acts (.outboundConsume t m q oci) t s (Chip.deliver 512 (c.set (TN_QOCI_OCI m q) oci.toNat) q)) ∧
  (∀ (t : Nat) (q : Fin 64) (s : State),
    let c := (s.at_ t).chip
    ((c.queue q).msixHeld = true → Acts (.msixDeferred t q) t s (c.msix (c.qTenant q) q)) ∧
    ((c.queue q).msixHeld = false → Passes (.msixDeferred t q) t s)) ∧
  (∀ (t : Nat) (m : Fin 8) (q : Fin 64) (v : BitVec 32) (s : State),
    let e := Instr.queueEnable t m q v
    let c := (s.at_ t).chip
    let on : Prop := c.get (QM_QCFG_EN q) ≠ 0
    let d := c.setQcfg q v.toNat
    let set : Prop := bit v.toNat 31 = true
    (c.holds m 3 = false → Acts e t s (c.noticeAccess (0x20400 + 8 * q))) ∧
    (c.holds m 3 = true → on → set → Passes e t s) ∧
    (c.holds m 3 = true → on → ¬ set → Acts e t s ((d.set (QM_QCFG_EN q) 0).setQueue q {})) ∧
    (c.holds m 3 = true → ¬ on → ¬ set → Acts e t s d) ∧
    (c.holds m 3 = true → ¬ on → set → c.enableRefused q v.toNat = true → Acts e t s (d.raise .qm 0 { src := 1 })) ∧
    (c.holds m 3 = true → ¬ on → set → c.enableRefused q v.toNat = false → Acts e t s (d.startQueue q))) ∧
  (∀ (t : Nat) (m : Fin 8) (v : BitVec 32) (s : State),
    let e := Instr.tenantEnable t m v
    let c := (s.at_ t).chip
    let new := v.toNat % 256 ||| 1
    let off := (List.range 8).filter fun n => bit (c.get QM_TEN_EN) n && !bit new n
    let busy : Prop := ∃ n ∈ off, ∃ q < 64, c.get (QM_QCFG_EN q) ≠ 0 ∧ c.qTenant q = n
    (c.holds m 3 = false → Acts e t s (c.noticeAccess 0x20040)) ∧
    (c.holds m 3 = true → busy → Passes e t s) ∧
    (c.holds m 3 = true → ¬ busy → Acts e t s
      ((c.set QM_TEN_EN new).forAll off fun c n => c.forAll (List.range 4) fun c p => c.setSession n p none)))

/-- R314 to R317, R322, R324, R325, R377, R378: a grandmaster port sends Sync with its Follow_Up and Announce, answers the delay requests of its kind and
domain with the corrected stamps plus GMOFS, and answers management messages with NOT_SUPPORTED; another port stays silent. A slave takes an Announce and a Sync of its
domain, and asks for its delay; a source that falls silent clears CVALID. PPS_OUT is high for the first 100 ms of each second; a rise of PPS_IN is a measurement. A timer
that reaches its target drives its output, counts its firings, and raises source 16 + n for its tenants, with LATE and source 5 where a ONCE timer was
enabled late; a pulse ends after WID. A leap second steps the civil offset at its midnight, or leaves a backward jump pending, with source 7; a unit that runs no civil servo
only disarms (that the active unit's journal carries the offset to it: R323). -/
def Obligations.TimebaseEvents : Prop :=
  (∀ (t : Nat) (p : Fin 4) (s : State),
    let c := (s.at_ t).chip
    let n (k : Nat) := FMap.get 0 c.time.ptpSeq k
    let d (k : Nat) : Chip := { c with time := { c.time with ptpSeq := FMap.put 0 c.time.ptpSeq k ((n k + 1) % 65536) } }
    let dom := c.get TB_PTPCFG_DOMAIN
    let now := c.servedAt (c.txNs p)
    (bit (c.get TB_PTPCFG_GMEN) p = true →
      Acts (.ptpSyncSend t p) t s (((d p).emit .ptpSync p [dom, n p, c.get TB_PTPCFG_LOGSYNC] (clockIdentity p)).emit .ptpFollowUp p
        [dom, n p, now] (clockIdentity p)) ∧
      Acts (.ptpAnnounceSend t p) t s ((d (8 + p)).emit .ptpAnnounce p [dom, n (8 + p), 0, 0xA0, c.get TB_PTPCFG_CLASS, 0xFE] (clockIdentity p)) ∧
      (∀ via domain id, Acts (.ptpManagement t ⟨p, via⟩ domain id) t s (c.emit .ptpManagement p [via, domain.toNat, id, 6] (clockIdentity p))) ∧
      (∀ via peer domain rx id,
        let mine : Prop := domain.toNat = dom ∧ (peer = true ↔ c.get TB_PTPCFG_DELAY ≠ 0)
        (mine → Acts (.ptpDelayReq t ⟨p, via⟩ peer domain rx id) t s
          (c.emit .ptpDelayResp p [via, domain.toNat, id, b2n peer, c.servedAt (c.rxNs p rx), now] (clockIdentity p))) ∧
        (¬ mine → Passes (.ptpDelayReq t ⟨p, via⟩ peer domain rx id) t s))) ∧
    (bit (c.get TB_PTPCFG_GMEN) p = false → ∀ via peer domain rx id,
      Passes (.ptpSyncSend t p) t s ∧ Passes (.ptpAnnounceSend t p) t s ∧ Passes (.ptpManagement t ⟨p, via⟩ domain id) t s ∧
      Passes (.ptpDelayReq t ⟨p, via⟩ peer domain rx id) t s)) ∧
  (∀ (t : Nat) (domain : BitVec 8) (scale valid : Bool) (ofs : Int) (leap61 leap59 : Bool) (iv : Nat) (s : State),
    let e := Instr.ptpAnnounceReceived t domain scale valid ofs leap61 leap59 iv
    let c := (s.at_ t).chip
    let mine : Prop := c.get TB_PTPCFG_SLAVE ≠ 0 ∧ domain.toNat = c.get TB_PTPCFG_DOMAIN
    let d : Chip := { c with time := { c.time with announce := some (c.ns, iv), announceOk := scale && valid, utcOffset := ofs } }
    let source : Prop := scale = true ∧ valid = true ∧ c.get TB_CFG_CSRC = 1
    let leap : Prop := leap61 = true ∨ leap59 = true
    let armed : Prop := c.get TB_STAT_LEAPARM ≠ 0
    (¬ mine → Passes e t s) ∧
    (mine → ¬ source → Acts e t s d) ∧
    (mine → source → (leap ↔ armed) → Acts e t s d) ∧
    (mine → source → leap → ¬ armed → Acts e t s (d.armLeap (leap59 && !leap61))) ∧
    (mine → source → ¬ leap → armed → Acts e t s d.disarmLeap)) ∧
  (∀ (t : Nat) (domain : BitVec 8) (t1 : Int) (rx : Nat) (x : PtpDelay) (s : State),
    let e := Instr.ptpSyncReceived t domain t1 ⟨rx, x⟩
    let c := (s.at_ t).chip
    let n := FMap.get 0 c.time.ptpSeq 19
    let mine : Prop := c.get TB_PTPCFG_SLAVE ≠ 0 ∧ domain.toNat = c.get TB_PTPCFG_DOMAIN
    let d : Chip := { c with time := { c.time with ptpSeq := FMap.put 0 c.time.ptpSeq 19 ((n + 1) % 65536) } }
    let asks := d.emit .ptpDelayReq 3 [domain.toNat, n, c.get TB_PTPCFG_DELAY] (clockIdentity 3)
    let source : Prop := c.get TB_CFG_CSRC = 1 ∧ c.time.announceOk = true
    let t2 := c.rxNs 3 rx
    let tx (ps : Nat) := portNs ps (c.get (TB_PORTLAT_TXLAT 3))
    let takes (m : Int) : Prop := (source → Acts e t s (asks.measure (m - c.time.utcOffset * 1000000000) t2.toNat)) ∧ (¬ source → Acts e t s asks)
    (¬ mine → Passes e t s) ∧
    (∀ r t4, mine → x = .request r t4 → c.get TB_PTPCFG_DELAY = 0 → takes (t1 + halfUp ((t2 - t1) + (t4 - tx r)) 2)) ∧
    (∀ r back turn, mine → x = .peer r back turn → c.get TB_PTPCFG_DELAY ≠ 0 → takes (t1 + halfUp (c.rxNs 3 back - tx r - turn) 2)) ∧
    (∀ r t4, mine → x = .request r t4 → c.get TB_PTPCFG_DELAY ≠ 0 → Acts e t s asks) ∧
    (∀ r back turn, mine → x = .peer r back turn → c.get TB_PTPCFG_DELAY = 0 → Acts e t s asks)) ∧
  (∀ (t a iv : Nat) (s : State),
    let c := (s.at_ t).chip
    let lost : Prop := a + 3 * iv ≤ c.ns ∧ c.get TB_CFG_CSRC = 1
    let d : Chip := { c with time := { c.time with announce := none, announceOk := false, slew := none } }
    c.time.announce = some (a, iv) →
      (lost → Acts (.ptpAnnounceTimeout t) t s ((d.set TB_STAT_CVALID 0).raise .tb 0 { src := 0 })) ∧
      (¬ lost → Passes (.ptpAnnounceTimeout t) t s)) ∧
  (∀ (t : Nat) (s : State),
    let c := (s.at_ t).chip
    let high := decide ((c.ns + c.get TB_GMOFS_GMOFS) % 2 ^ 64 % 1000000000 < 100000000)
    let d : Chip := { c with time := { c.time with ppsHigh := high } }
    (high = c.time.ppsHigh → Passes (.ppsOutEdge t) t s) ∧
    (high ≠ c.time.ppsHigh → Acts (.ppsOutEdge t) t s (if c.role = 0 ∨ c.role = 1 then d.emit .ppsOut 0 [b2n high] else d))) ∧
  (∀ (t : Nat) (s : State),
    let c := (s.at_ t).chip
    let at' := (c.dt - (max 1 (c.get TB_CFG_PPSFILT) - 1) * 163840) / 65536
    let d : Chip := { c.set TB_PPSDT_DT at' with time := { c.time with lastPps := some at', ppsMissed := false } }
    (c.get TB_CFG_CSRC = 2 → Acts (.ppsInEdge t) t s ((d.measure (c.get TB_PPSLBL_LABEL * 1000000000) at').count TB_PPSLBL_LABEL)) ∧
    (c.get TB_CFG_CSRC ≠ 2 → Acts (.ppsInEdge t) t s d)) ∧
  (∀ (t : Nat) (s : State),
    let c := (s.at_ t).chip
    let lost : Prop := c.time.lastPps.getD 0 + 1100000000 ≤ c.ns ∧ c.get TB_CFG_CSRC = 2 ∧ c.time.ppsMissed = false
    let d : Chip := { c with time := { c.time with ppsMissed := true, slew := none } }
    (lost → Acts (.ppsInLoss t) t s ((d.set TB_STAT_CVALID 0).raiseAll .tb 0 [{ src := 0 }, { src := 4 }])) ∧
    (¬ lost → Passes (.ppsInLoss t) t s)) ∧
  (∀ (t : Nat) (n : Fin 16) (s : State),
    let c := (s.at_ t).chip
    let k := FMap.get 0 c.time.nextK n
    let due := c.get (TB_TMT_T n) + (if c.get (TB_TMCFG_MODE n) ≠ 0 then k * c.get (TB_TMPER_PER n) else 0)
    let fires : Prop := c.get (TB_TMCFG_EN n) ≠ 0 ∧ (c.get (TB_TMCFG_MODE n) ≠ 0 ∨ k = 0) ∧ due ≤ c.ns
    let late := FMap.get false c.time.lateArmed n
    let d : Chip := { c with time := { c.time with nextK := FMap.put 0 c.time.nextK n (k + 1), lateArmed := FMap.put false c.time.lateArmed n false } }
    (¬ fires → Passes (.timerFire t n) t s) ∧
    (fires → late = false → Acts (.timerFire t n) t s
      ((d.timerOutput n).raiseAll .tb 0 [{ src := 16 + n }] ((d.timerOutput n).get (TB_TMCFG_TMASK n)))) ∧
    (fires → late = true →
      let f := (d.timerOutput n).latchRs (TB_TMCFG_LATE n)
      Acts (.timerFire t n) t s (f.raiseAll .tb 0 [{ src := 16 + n }, { src := 5 }] (f.get (TB_TMCFG_TMASK n))))) ∧
  (∀ (t : Nat) (g : Fin 8) (n since : Nat) (s : State),
    let c := (s.at_ t).chip
    let d : Chip := { c with time := { c.time with pulse := FMap.put none c.time.pulse g none, trigLevel := FMap.put 0 c.time.trigLevel g 0 } }
    FMap.get none c.time.pulse g = some (n, since) →
      (since + c.get (TB_TMWID_WID n) ≤ c.ns → Acts (.trigPulseEnd t g) t s (if c.role = 0 ∨ c.role = 1 then d.emit .trigOut g [0] else d)) ∧
      (c.ns < since + c.get (TB_TMWID_WID n) → Passes (.trigPulseEnd t g) t s)) ∧
  (∀ (t : Nat) (mid : Int) (s : State),
    let c := (s.at_ t).chip
    let off := c.getS TB_CIVOFS_OFS
    let ends (d : Chip) : Prop := Acts (.leapSecond t) t s (d.disarmLeap.raise .tb 0 { src := 7 })
    let runs : Prop := c.role = 0 ∨ c.role = 1
    c.time.leapMid = some mid →
      (c.civil < mid → Passes (.leapSecond t) t s) ∧
      (mid ≤ c.civil → ¬ runs → ends c) ∧
      (∀ delta done, mid ≤ c.civil → runs → c.time.smear = some (delta, done) → ends (c.setS TB_CIVOFS_OFS (off + (delta - done))).jrnCivil) ∧
      (mid ≤ c.civil → runs → c.time.smear = none → c.get TB_LEAP_DEL ≠ 0 → ends (c.setS TB_CIVOFS_OFS (off + 1000000000)).jrnCivil) ∧
      (mid ≤ c.civil → runs → c.time.smear = none → c.get TB_LEAP_DEL = 0 → ends (c.setPending (some (off - 1000000000))).jrnCivil))

/-- R224 to R243, R145: levels of A and B that count move a channel by one count along the forward order, with DIRINV the other way round; both lines at
once count nothing and raise a notice; a disabled channel only follows its levels. A counted edge of the outfeed or the infeed goes to the stretch
window, to X and to the fire stamp engine. Z latches POS, and homes or checks it as ZMODE says; it, a probe
and standstill see a count that waits for the same instant. Standstill, the end of a gate and the bound of each
microsecond set the speed. An SSI port starts a frame when one is due, accepts or discards what it receives, and in STANDBY follows the clock of the active
unit. An enabled probe latches on its edges, up to 16; POP removes the oldest. PEAK_CLR sets PEAK to DEMAND. -/
def Obligations.WebMotionEvents : Prop :=
  (∀ (t : Nat) (n : Fin 4) (a b : Bool) (s : State),
    let e := Instr.encoderEdge t n a b
    let c := (s.at_ t).chip
    let d := c.setEnc n { c.enc n with a := a, b := b }
    let old := phaseOf (c.enc n).a (c.enc n).b
    let new := phaseOf a b
    let on : Prop := c.get (WM_ECFG_EN n) ≠ 0
    let up : Int := if c.get (WM_ECFG_DIRINV n) = 0 then 1 else -1
    let counts (k : Int) : Prop :=
      let r := d.countEdge n k
      let f := if n = c.outfeed then r.2.2.outfeedEdge (r.1, r.2.1) else r.2.2
      Acts e t s (if n = c.infeed then f.infeedMoved r.1 r.2.1 (0 < k) else f) ∧ r.1 = c.getS (WM_EXT_EXT n) + k ∧
        r.2.1 = c.dt - (c.get (WM_ECFG_FILT n) - 1) * dtClock ∧ r.2.2.get (WM_EXT_EXT n) = uns 64 (c.getS (WM_EXT_EXT n) + k) ∧
        r.2.2.get (WM_POS_POS n) = stepPos (c.get (WM_POS_POS n)) (c.get (WM_CPR_CPR n)) k % 2 ^ 32
    (¬ on ∨ old = new → Acts e t s d) ∧
    (on → new = (old + 1) % 4 → counts up) ∧
    (on → old = (new + 1) % 4 → counts (-up)) ∧
    (on → new = (old + 2) % 4 → Acts e t s
      (((((d.setEnc n { d.enc n with seen := c.dt - (c.get (WM_ECFG_FILT n) - 1) * dtClock }).restartTiming n none).bump (WM_EST_ILLEGAL n)).spoilOn n).raise
        .wm 0 { src := n }))) ∧
  (∀ (t : Nat) (n : Fin 4) (s : State),
    let e := Instr.zEdge t n
    let c := (s.at_ t).chip
    let mode := c.get (WM_ECFG_ZMODE n)
    let on : Prop := c.get (WM_ECFG_EN n) ≠ 0 ∧ mode ≠ 0
    let pos := c.get (WM_POS_POS n)
    let ref := c.get (WM_ZREF_ZREF n)
    let k := s.deltaNow t n
    let new := if k = 0 then pos else stepPos pos (c.get (WM_CPR_CPR n)) k
    let d := ((c.set (WM_ZLAT_ZPOS n) new).set (WM_ZDT_ZDT n) ((c.dt - (c.get (WM_ECFG_FILT n) - 1) * dtClock) / 65536)).setEnc n
      { c.enc n with homed := true }
    let homes : Prop := mode = 3 ∧ (c.enc n).homed = false
    let far : Prop := c.get (WM_VCO_ZTOL n) < circleDist new ref (c.get (WM_CPR_CPR n))
    (¬ on → Passes e t s) ∧ (on → mode = 1 → Acts e t s d) ∧
    (on → homes → Acts e t s (d.set (WM_POS_POS n) (if k = 0 then ref else stepPos ref (c.get (WM_CPR_CPR n)) (-k)))) ∧
    (on → mode ≠ 1 → ¬ homes → far → Acts e t s ((d.bump (WM_EST_ZERR n)).raise .wm 0 { src := 4 + n })) ∧
    (on → mode ≠ 1 → ¬ homes → ¬ far → Acts e t s d)) ∧
  (∀ (t : Nat) (n : Fin 4) (s : State),
    let c := (s.at_ t).chip
    let on : Prop := c.get (WM_ECFG_EN n) ≠ 0
    let edge : Prop := ∃ k, s.countNow t n = some k ∧ k ≠ some 0
    let stops : Prop := ¬ edge ∧ on ∧ (c.get (WM_EST_STILL n) = 0 ∨ (c.enc n).moved = true) ∧ (c.enc n).seen + c.get (WM_ECFG_TSTILL n) * 100 * dtMicro ≤ c.dt
    let d := (c.restartTiming n none).setSpeed n 0 1
    (stops → Acts (.standstill t n) t s ((((d.setEnc n { d.enc n with moved := false }).set (WM_EST_STILL n) 1).spoilOn n).webMoved)) ∧
    (¬ stops → Acts (.standstill t n) t s c.webMoved) ∧
    (let g := c.get WM_CFG_GATE * dtMicro
     let ends : Prop := on ∧ c.get (WM_EST_METHOD n) ≠ 0 ∧ (c.enc n).gate + g ≤ c.dt
     (¬ ends → Acts (.countGateEnd t n) t s c.webMoved) ∧
     (∀ x, ends → (c.enc n).gateRef = some x → (c.enc n).ref = some x → Acts (.countGateEnd t n) t s (c.set (WM_EST_METHOD n) 0).webMoved) ∧
     (∀ x0 t0 x1 t1, ends → (c.enc n).gateRef = some (x0, t0) → (c.enc n).ref = some (x1, t1) → (x0, t0) ≠ (x1, t1) →
       let d := ((c.setEnc n { c.enc n with gate := (c.enc n).gate + g, gateRef := some (x1, t1) }).setSpeed n (x1 - x0) (t1 - t0)).set (WM_EST_FIRST n) 0
       let fast := reaches (100 * (x1 - x0)) (max 1 (t1 - t0)) (c.get (WM_VCO_VCO n) * (100 - c.get (WM_ECFG_HYS n)))
       Acts (.countGateEnd t n) t s (if fast = true then d else d.set (WM_EST_METHOD n) 0).webMoved))) ∧
  (∀ (t : Nat) (s : State),
    let c := (s.at_ t).chip
    (c.ns % 1000 = 0 → Acts (.speedBoundRefresh t) t s (c.forAll (List.range 4) Chip.boundSpeed).webMoved) ∧
    (c.ns % 1000 ≠ 0 → Passes (.speedBoundRefresh t) t s)) ∧
  (∀ (t : Nat) (m : Fin 2) (low : Bool) (s : State),
    let c := (s.at_ t).chip
    let d := c.setSsi m { c.ssi m with frame := some (c.dt, low), last := some c.dt }
    let free : Prop := c.get (WM_SCFG_EN m) ≠ 0 ∧ (c.ssi m).frame = none
    let due : Prop := ∀ l, (c.ssi m).last = some l → l + c.ssiPeriod m ≤ c.dt
    let own : Prop := c.role = 0 ∨ c.role = 1
    (free → own → due → Acts (.ssiFrameStart t m low) t s (d.emit .ssiClock m [c.get (WM_SCFG_NBITS m) + 1])) ∧
    (¬ free ∨ ¬ own ∨ ¬ due → Passes (.ssiFrameStart t m low) t s) ∧
    (free → ¬ own → Acts (.ssiClockEdge t m low) t s d) ∧ (¬ free ∨ own → Passes (.ssiClockEdge t m low) t s)) ∧
  (∀ (t : Nat) (m : Fin 2) (w : BitVec 32) (at' : Nat) (low : Bool) (s : State),
    let e := Instr.ssiFrameEnd t m w
    let c := (s.at_ t).chip
    let d := c.setSsi m { c.ssi m with frame := none }
    let n := c.get (WM_SCFG_NBITS m)
    let eb := c.get (WM_SCFG_EBIT m)
    let v := w.toNat % 2 ^ n
    let bin := if c.get (WM_SCFG_GRAY m) ≠ 0 then grayDecode n v else v
    let bad : Prop := eb ≠ 0 ∧ v % 2 = 1
    (c.ssi m).frame = some (at', low) →
      (c.dt < at' + c.ssiTime m → Passes e t s) ∧
      (at' + c.ssiTime m ≤ c.dt → low = false → ¬ bad → Acts e t s (d.ssiAccept m (n - eb) (if eb ≠ 0 then bin / 2 else bin) at')) ∧
      (at' + c.ssiTime m ≤ c.dt → low = true → ¬ bad → Acts e t s ((d.bump (WM_SST_LINEERR m)).raise .wm 0 { src := 8 + m })) ∧
      (at' + c.ssiTime m ≤ c.dt → low = false → bad → Acts e t s ((d.bump (WM_SST_ENCERR m)).raise .wm 0 { src := 8 + m }))) ∧
  (∀ (t : Nat) (p : Fin 8) (rise : Bool) (s : State),
    let e := Instr.probeEdge t p rise
    let c := (s.at_ t).chip
    let on : Prop := c.get (WM_PCFG_EN p) ≠ 0 ∧ (c.get (WM_PCFG_EDGE p) = 2 ∨ (c.get (WM_PCFG_EDGE p) = 0 ↔ rise = true))
    let x := c.probe p
    let d := c.setProbe p { x with seq := (x.seq + 1) % 2 ^ 32 }
    let room : Prop := x.store.length < 16 ∨ s.popNow t p = true
    let f := d.setProbe p { d.probe p with
      store := x.store ++ [(x.seq, c.probeValue p (s.deltaNow t), (c.dt - (c.get (WM_PCFG_FILT p) - 1) * dtClock) / 65536)] }
    (¬ on → Passes e t s) ∧
    (on → ¬ room → Acts e t s ((d.bump (WM_PST_OVF p)).raise .wm 0 { src := 10 })) ∧
    (on → room → c.get (WM_PCFG_TMASK p) = 0 → Acts e t s f) ∧
    (on → room → c.get (WM_PCFG_TMASK p) ≠ 0 → Acts e t s (f.event (c.get (WM_PCFG_TMASK p)) 55 (0x560 + p) x.seq))) ∧
  (∀ (t : Nat) (m p : Fin 8) (s : State),
    let c := (s.at_ t).chip
    c.mayWrite m .wm 0 (0x300 + 0x20 * p) = true → c.reachable .wm 0 = true →
      let d := c.setProbe p { c.probe p with store := (c.probe p).store.drop 1 }
      Acts (.probePop t m p) t s (d.jrn .reg [0x90300 + 0x20 * p, 2 ^ 16, 2 ^ 16])) ∧
  (∀ (t : Nat) (m : Fin 8) (s : State),
    let c := (s.at_ t).chip
    c.mayWrite m .cd 0 0x44 = true → c.reachable .cd 0 = true →
      let d := c.sampleDemand
      Acts (.peakClr t m) t s ((d.set CD_DEMAND_PEAK (d.get CD_DEMAND_DEMAND)).jrn .reg [Blk.base .cd 0 + 0x44, 2 ^ 16, 2 ^ 16]))

/-- R203 to R214, R216, R218, R220, R221, R21: a model update comes every TU while a job prints; after it the mode is IDLE. While fire is halted it only
follows time, unless FIRE_ARM waits: that applies, and POSITION begins. Otherwise d_eff slews, the model is updated by the rules of its mode, every
head-row is stamped in the mode that results, and rows that X has passed go out. Stamps less than 40 µs ahead freeze; an amendment that waits then is never
sent, and counts as missed where it differs by more than ATOL. A coast limit passed in PREDICTED is reported once. HALT_FIRE_N low halts fire, and HFN follows the pin. A row
whose stamps have passed leaves its ring as fired. -/
def Obligations.FireStampEvents : Prop :=
  (∀ (t : Nat) (s : State),
    let c := (s.at_ t).chip
    let e := Instr.modelUpdate t
    let due : Prop := c.fire.updAt + c.mp 0 2 * dtMicro ≤ c.dt ∧ c.fire.t0 < c.dt
    let prints : Prop := c.printing = true
    let begun := ({ c with fire := { c.fire with updAt := c.dt, back := false } } : Chip).takeMotion
    let halted : Prop := begun.get FS_STAT_HALTED ≠ 0
    let idle : Chip := { begun with fire := { begun.fire with t0 := begun.dt, fresh := false } }
    let runsOn (u : Chip) : Prop := u.get (WM_EST_STILL u.infeed) = 0 ∧ u.get (WM_EST_REV u.infeed) = 0
    let stamped (u : Chip) (drop : Bool) : Prop :=
      let v := u.stampAll (u.get FS_STAT_MODE) drop
      (runsOn v → Acts e t s v.positionStamps.webMoved) ∧ (¬ runsOn v → Acts e t s v.webMoved)
    let position := begun.slewDeff.updatePosition
    let predicted := begun.slewDeff.updatePredicted c.fire.back
    let armed := (begun.armFire.set FS_STAT_MODE 1).updatePosition
    (¬ due → Passes e t s) ∧
    (due → ¬ prints → Acts e t s (c.set FS_STAT_MODE 0)) ∧
    (due → prints → halted → begun.fire.armed = false → Acts e t s idle.webMoved) ∧
    (due → prints → halted → begun.fire.armed = true → armed.get FS_STAT_HALTED = 0 → stamped armed false) ∧
    (due → prints → ¬ halted → begun.slewDeff.get FS_STAT_MODE ≠ 2 → position.get FS_STAT_HALTED = 0 → stamped position false) ∧
    (due → prints → ¬ halted → begun.slewDeff.get FS_STAT_MODE = 2 → predicted.get FS_STAT_HALTED = 0 →
      stamped predicted (predicted.get FS_STAT_MODE ≠ 2)) ∧
    (due → prints → ¬ halted → begun.slewDeff.get FS_STAT_MODE = 2 → predicted.get FS_STAT_HALTED ≠ 0 → Acts e t s predicted.webMoved)) ∧
  (∀ (t : Nat) (s : State),
    let c := (s.at_ t).chip
    let late (h : HeadRow) (v p : Nat) : Bool := !h.frozen && v < p + 1 + c.mp 20 2 && p < v + 1 + c.mp 20 2
    let head (h : HeadRow) : HeadRow := match h.stamp with
      | some p => if p ≠ 2 ^ 64 - 1 ∧ p < c.ns + 40000 then { h with frozen := true, queued := none, missed := h.missed || c.dropsAmend h } else h
      | none => h
    let ring (b : Bar) : Bar := { b with ring := b.ring.map fun x => { x with heads := x.heads.map head } }
    let d := ({ c with bars := FMap.mapV {} ring c.bars } : Chip).bump FS_AMISS_MISSED c.dropped.length
    let far (x : Nat × Nat × Nat × Nat) : Prop := c.farOff x.2.2.1 x.2.2.2 = true ∧ x.2.2.1 * 65536 ≤ c.fire.updAt + c.mp 0 2 * dtMicro
    ((∀ x ∈ c.dropped, ¬ far x) → Acts (.stampFreeze t) t s d) ∧
    (∀ before x after, c.dropped = before ++ x :: after → (∀ y ∈ before, ¬ far y) → far x →
      Acts (.stampFreeze t) t s (d.raise .fs 0 { src := 4, detail := packRow (some x.1) (some x.2.1) none })) ∧
    (∀ h p v, h.stamp = some p → h.queued = some v → h.frozen = false → p ≠ 2 ^ 64 - 1 → p < c.ns + 40000 → v ≠ 2 ^ 64 - 1 →
      (c.dropsAmend h = true ↔ late h v p = false))) ∧
  (∀ (t : Nat) (s : State),
    let c := (s.at_ t).chip
    let coasts : Prop := c.get FS_STAT_MODE = 2 ∧ c.fire.coasted = false ∧ c.pastEdge (c.mp 16 2 * dtMicro) = true ∧
      ∀ k, s.countNow t c.infeed = some k → k = some 0
    let d : Chip := { c with fire := { c.fire with coasted := true } }
    (coasts → Acts (.coastTimeout t) t s (d.raise .fs 0 { src := 2, detail := packRow none none none })) ∧ (¬ coasts → Passes (.coastTimeout t) t s)) ∧
  (∀ (t : Nat) (s : State),
    let c := (s.at_ t).chip
    (c.get FS_STAT_HFN ≠ 0 → Acts (.haltFireNLow t) t s (((c.set FS_STAT_HFN 0).haltFire 1).raise .ls 0 { src := 1 })) ∧
    (c.get FS_STAT_HFN = 0 → Passes (.haltFireNLow t) t s) ∧ Acts (.haltFireNHigh t) t s (c.set FS_STAT_HFN 1)) ∧
  (∀ (t : Nat) (k : Fin 16) (n : Nat) (kept : Bool) (x : RowSlot) (s : State),
    let c := (s.at_ t).chip
    let passed (h : HeadRow) : Prop := h.ok = true ∧ ∃ v ∈ h.stamp, v ≠ 2 ^ 64 - 1 ∧ v ≤ c.ns
    let fired : Prop := x.complete = true ∧ (∀ h ∈ x.heads, passed h) ∧ (x.heads = [] → (x.n : Int) ≤ (c.bar k).rk)
    ((c.bar k).ring.find? fun y => y.n = n) = some x →
      (fired → Acts (.fireStampPassed t k ⟨n, kept⟩) t s (c.releaseRow k n true kept)) ∧ (¬ fired → Passes (.fireStampPassed t k ⟨n, kept⟩) t s))

/-- R21, R168 to R170, R183, R185, R191 to R195, R397: a pass starts in a bar that works when one is due and at least one row is allowed; its rows follow one
another from the next row on, at most one per working slice and as the ring has room. A rendered row is complete: it waits on its lanes, and its hash
goes to the peer or is compared; tile data that has not come, or a pass that rolls back, holds it back. A slice that fails is fenced and the spare takes its place, or the bar goes on with one slice fewer, or is quarantined
below 20. Every 10 s the spare changes places with the next working slice once its round has passed; one that fails is fenced. Each 100 µs the headroom of
every bar that works is shown. A loop commit takes the staged trims of the bars that have any as new generations. -/
def Obligations.BarEvents : Prop :=
  (∀ (t : Nat) (k : Fin 16) (s : State),
    let c := (s.at_ t).chip
    let ns := c.passRows k
    let unit : Prop := c.role = 0 ∨ c.role = 1 ∨ c.role = 2 ∨ c.role = 3 ∧ c.twin.adopted = true
    let may : Prop := c.strm.job = true ∧ unit ∧ c.barWorks k = true ∧ c.passDue k = true ∧ ns ≠ []
    (may → exec (.passStart t k) s = .next (startPass k ns (s.at_ t))) ∧ (¬ may → Passes (.passStart t k) t s) ∧
    (∀ i n, ns[i]? = some n → n = (c.bar k).next + i ∧ c.rowAllowed k n = true ∧ i < c.get (BE_SCR_WORKING k) ∧ i + (c.bar k).ring.length < 64)) ∧
  (∀ (t : Nat) (k : Fin 16) (n hits : Nat) (sram : Option (Nat × Bool)) (s : State),
    let c := (s.at_ t).chip
    let waits : Prop := (∃ x ∈ (c.bar k).ring, x.n = n ∧ x.complete = false) ∧ (∀ x ∈ c.store.fetches, ((k : Nat), n) ∉ x.rows) ∧
      ((c.bar k).cutAt ≤ c.dt ∨ ∀ p ∈ (c.bar k).pass, n < p.1)
    let d := (c.inject .be k [1, 2]).sramCheck k sram
    (waits → c.barWorks k = true → d.barWorks k = true → Acts (.rowRendered t k n ⟨hits, sram⟩) t s ((d.rowComplete k n hits).hashRow k n)) ∧
    (waits → c.barWorks k = true → d.barWorks k = false → Acts (.rowRendered t k n ⟨hits, sram⟩) t s d) ∧
    (¬ waits ∨ c.barWorks k = false → Passes (.rowRendered t k n ⟨hits, sram⟩) t s)) ∧
  (∀ (t : Nat) (k : Fin 16) (i : Fin 25) (s : State),
    let e := Instr.sliceFault t k i
    let c := (s.at_ t).chip
    let works : Prop := bit (c.get (BE_FENCE_FENCED k)) i = false ∧ c.get (BE_SCR_SPARE k) ≠ i ∧ c.barWorks k = true
    let d := ((c.rollBack k).set (BE_FENCE_FENCED k) (c.get (BE_FENCE_FENCED k) + 2 ^ (i : Nat))).bump (BE_RBK_ROLLBACK k)
    let spare : Prop := c.get (BE_SCR_SPARE k) ≠ 31
    let n := c.get (BE_SCR_WORKING k)
    (¬ works → Passes e t s) ∧
    let ends (d : Chip) : Chip := if (c.bar k).lent = true ∧ (d.bar k).lent = false then d.dropReferee k else d
    (works → spare → Acts e t s (ends ((d.noSpare k).raise .be k { src := 1, cell := i }))) ∧
    (works → ¬ spare → 20 < n → Acts e t s (ends ((d.set (BE_SCR_WORKING k) (n - 1)).raise .be k { src := 2, cell := i }))) ∧
    (works → ¬ spare → n ≤ 20 → Acts e t s (ends ((d.raise .be k { src := 2, cell := i }).quarantine .be k)))) ∧
  (∀ (t : Nat) (k : Fin 16) (s : State),
    let c := (s.at_ t).chip
    let b := c.bar k
    let due : Prop := c.barWorks k = true ∧ c.get (BE_SCR_SPARE k) ≠ 31 ∧ b.spareOk = true ∧ b.lent = false ∧ b.rotated + 10 * dtSecond ≤ c.dt ∧
      ∀ x ∈ b.ring, x.complete = true
    (¬ due → Passes (.spareRotation t k) t s) ∧ (due → c.nextOut k b.lastOut = none → Passes (.spareRotation t k) t s) ∧
    (∀ i, due → c.nextOut k b.lastOut = some i → Acts (.spareRotation t k) t s
      ((((c.setBar k { b with lastOut := i, spareOk := false, rotated := c.dt }).set (BE_SCR_SPARE k) i).set (BE_SCR_SPARE_STATE k) 0).count (BE_SCR_ROTATIONS k))) ∧
    (∀ pass,
      let e := Instr.spareRoundEnd t k pass
      let i := c.get (BE_SCR_SPARE k)
      let runs : Prop := i ≠ 31 ∧ c.get (BE_SCR_SPARE_STATE k) = 0 ∧ c.barWorks k = true
      let d := c.set (BE_FENCE_FENCED k) (c.get (BE_FENCE_FENCED k) + 2 ^ i)
      (¬ runs → Passes e t s) ∧ (runs → pass = true → Acts e t s ((c.setBar k { b with spareOk := true }).inject .be k [3])) ∧
      (runs → pass = false → Acts e t s (((d.noSpare k).bump (BE_RBK_SPARE_FAIL k)).raise .be k { src := 3, cell := i })))) ∧
  (∀ (t : Nat) (lost : List Nat) (s : State),
    Acts (.headroomWindow t lost) t s ((s.at_ t).chip.forAll (List.range 16) (Chip.barWindow lost)) ∧
    (∀ (c : Chip) (k : Fin 16), c.regionOn (k / 4) = true → c.testing (k / 4) = false →
      let d := Chip.barWindow lost c k
      let h := c.headroom k (c.get (PWR_SKIP .be k)) (lost.getD k 0)
      d.get (BE_HR_HEADROOM k) = h ∧ d.get (BE_HRMIN_MIN k) = min h (c.get (BE_HRMIN_MIN k)) ∧
      d.get (PWR_SKIP .be k) = if c.get (PWR_SKIP .be k) ≠ 0 ∧ h < 50 then (c.get (PWR_SKIP .be k) - 1) % 64 else c.get (PWR_SKIP .be k))) ∧
  (∀ (t : Nat) (s : State),
    let c := (s.at_ t).chip
    let ks := (List.range 16).filter fun k => (c.bar k).changed
    let due : Prop := (c.role = 0 ∨ c.role = 1) ∧ c.get SEQ_PSTAT_OPEN ≠ 0 ∧ ks ≠ [] ∧ c.loopDue = true
    let m := ceilDiv (firstRow c.pitch c.frontHorizon) 64 + c.get CH_COMMIT_CMARGIN
    let d := c.forAll ks (Chip.commitTrims (bandStart c.pitch m) (64 * m))
    (due → Acts (.loopCommit t) t s (({ d with colour := { d.colour with lastBand := some m } } : Chip).count CH_STAT_LCOMMITS).refreshPending) ∧
    (¬ due → Passes (.loopCommit t) t s))

/-- R250 to R260, R264, R266, R267: an enabled lane hunts for block lock with its start taps and a disabled one is OFF. MODE and RATE change only while
no lane of the quad is in use, and retrain its enabled lanes. 64 valid sync headers in a row are block lock: it begins TRAIN, and ends a RELOCK in
SERVICE with a notice; its loss, 16 invalid ones among 64, begins RELOCK in SERVICE. Each state has its time limit: 10 ms for LOCK, three attempts of 20 µs for RELOCK, 10 ms in FAILED before the next attempt, 2 ms for an
answer and 500 ms for TRAIN, 2 ms for ALIGN. A training block with a good CRC answers the request it carries, and RX_READY both ways ends
TRAIN. In mode ET5208 the receiver's own RX_READY does, and the alignment blocks of a group deskew it. Beyond ±20 ppm, or when its buffer overflows, a lane
leaves block lock. -/
def Obligations.LaneBringUp : Prop :=
  (∀ (t : Nat) (m : Fin 8) (l : Fin 96) (on : Bool) (s : State),
    let e := Instr.laneEnable t m l on
    let c := (s.at_ t).chip
    c.mayWrite m .lq (l / 4) 0x40 = true → c.reachable .lq (l / 4) = true →
      let d := c.setBit (LQ_CFG_EN (l / 4)) (l % 4) on
      let was := bit (c.get (LQ_CFG_EN (l / 4))) (l % 4)
      (was = on → Passes e t s) ∧ (was = false → on = true → Acts e t s (d.enterLock l)) ∧ (was = true → on = false → Acts e t s (d.laneOff l))) ∧
  (∀ (t : Nat) (m : Fin 8) (q : Fin 24) (mode rate : Bool) (s : State),
    let e := Instr.laneModeChange t m q mode rate
    let c := (s.at_ t).chip
    let lanes := (List.range 4).map (4 * q.val + ·)
    let same : Prop := (mode = true ↔ c.get (LQ_CFG_MODE q) ≠ 0) ∧ (rate = true ↔ c.get (LQ_CFG_RATE q) ≠ 0)
    let used : Prop := ∃ l ∈ lanes, c.laneInUse l = true
    let d := (c.set (LQ_CFG_MODE q) (b2n mode)).set (LQ_CFG_RATE q) (b2n rate)
    c.mayWrite m .lq q 0x40 = true → c.reachable .lq q = true →
      let f := if mode = true then d.forAll lanes (fun c l => c.set (LQ_RTT_RTT q (l % 4)) 0) else d
      (same → Passes e t s) ∧ (¬ same → used → Acts e t s (c.raise .lq q { src := 27 })) ∧
      (¬ same → ¬ used → Acts e t s (f.forAll (lanes.filter f.laneEn) Chip.enterLock))) ∧
  (∀ (t : Nat) (l : Fin 100) (hs : List Bool) (s : State),
    let c := (s.at_ t).chip
    let x := c.lane l
    let st := c.laneState l
    let latest := hs.drop (hs.length - 64)
    let locked : Prop := 64 ≤ hs.length ∧ ∀ v ∈ latest, v = true
    let lost : Prop := 16 ≤ latest.countP (fun v => !v)
    let long (n : Nat) : Prop := x.since + n ≤ c.dt
    let fenced : Prop := c.laneInUse l = true ∧ l.val < 96
    ((locked → st = 1 → x.offFreq = false → Acts (.blockLock t ⟨l, hs⟩) t s (c.enterTrain l)) ∧
     (locked → st = 5 → Acts (.blockLock t ⟨l, hs⟩) t s (((c.bump (LQ_LSTAT_RELOCKS (l / 4) (l % 4))).enterService l).raiseLane l 19)) ∧
     (¬ locked ∨ st ≠ 5 ∧ (st ≠ 1 ∨ x.offFreq = true) → Passes (.blockLock t ⟨l, hs⟩) t s)) ∧
    ((lost → st = 4 → Acts (.blockLockLost t ⟨l, hs⟩) t s ((c.setLane l { x with tries := 1 }).laneTo l 5)) ∧
     (¬ lost ∨ st ≠ 4 → Passes (.blockLockLost t ⟨l, hs⟩) t s)) ∧
    ((st = 1 → long (10 * dtMilli) → Acts (.lockTimeout t l) t s (c.laneFail l 1)) ∧ (st ≠ 1 ∨ ¬ long (10 * dtMilli) → Passes (.lockTimeout t l) t s)) ∧
    ((st = 5 → long (20 * dtMicro) → x.tries < 3 → Acts (.relockTimeout t l) t s (c.setLane l { x with tries := x.tries + 1, since := c.dt })) ∧
     (st = 5 → long (20 * dtMicro) → 3 ≤ x.tries → fenced → Acts (.relockTimeout t l) t s (c.fenceLane l 9 (4 + l % 4) true)) ∧
     (st = 5 → long (20 * dtMicro) → 3 ≤ x.tries → ¬ fenced → Acts (.relockTimeout t l) t s ((c.laneCause l 9).enterLock l)) ∧
     (st ≠ 5 ∨ ¬ long (20 * dtMicro) → Passes (.relockTimeout t l) t s)) ∧
    ((st = 6 → long (10 * dtMilli) → Acts (.failedRetry t l) t s (c.enterLock l)) ∧ (st ≠ 6 ∨ ¬ long (10 * dtMilli) → Passes (.failedRetry t l) t s)) ∧
    (let asks : Prop := st = 2 ∧ c.et5208 l = false ∧ x.train.phase = 0 ∧ x.train.since + 2 * dtMilli ≤ c.dt
     (asks → Acts (.tapTimeout t l) t s (c.laneFail l 2)) ∧ (¬ asks → Passes (.tapTimeout t l) t s)) ∧
    ((st = 2 → long (500 * dtMilli) → Acts (.trainTimeout t l) t s (c.laneFail l 3)) ∧ (st ≠ 2 ∨ ¬ long (500 * dtMilli) → Passes (.trainTimeout t l) t s)) ∧
    (let later : Prop := ∃ p, x.alignEnd = some p ∧ ∃ y ∈ c.alignPlaces l, p < y.2
     (st = 3 → long (2 * dtMilli) → c.et5208 l = false → Acts (.alignTimeout t l) t s (c.laneFail l 8)) ∧
     (st = 3 → long (2 * dtMilli) → c.et5208 l = true → ¬ later → Acts (.alignTimeout t l) t s ((c.laneFail l 7).alignGroup l)) ∧
     (st ≠ 3 ∨ ¬ long (2 * dtMilli) ∨ c.et5208 l = true ∧ later → Passes (.alignTimeout t l) t s))) ∧
  (∀ (t : Nat) (l : Fin 100) (b : List Byte) (s : State),
    let c := (s.at_ t).chip
    let good : Prop := c.laneState l = 2 ∧ c.et5208 l = false ∧ b.length = 8 ∧ fieldAt b 0 1 = 0xD2 ∧ fieldAt b 7 1 = crcMsb 8 0x07 0 (b.take 7)
    let slow : Prop := l.val < 96 ∧ c.fast (l / 4) = true ∧ bit (fieldAt b 4 1) 0 = false
    let d := (((c.flushTrain l).respond l (tapRequest (fieldAt b 1 1) (fieldAt b 4 1))).requester l (fieldAt b 2 1)).readyRun l (bit (fieldAt b 2 1) 6)
    (good → slow → Acts (.trainingBlock t l b) t s (c.laneFail l 4)) ∧
    (good → ¬ slow → Acts (.trainingBlock t l b) t s d) ∧
    (¬ good → Passes (.trainingBlock t l b) t s)) ∧
  (∀ (t : Nat) (l : Fin 96) (place : Nat) (s : State),
    let c := (s.at_ t).chip
    let d := c.setLane l { c.lane l with alignEnd := some place }
    let ps := d.alignPlaces l
    let last := greatest (ps.map (·.2))
    let waits : Prop := ∃ j ∈ d.group l, (d.lane j).alignEnd = none ∧ (d.laneState j = 1 ∨ d.laneState j = 2 ∨ d.laneState j = 3)
    let far : Prop := ∃ y ∈ ps, y.2 + 6335 < last
    (c.et5208 l = true → c.laneState l = 3 → waits ∨ far → Acts (.alignmentBlock t l place) t s d) ∧
    (c.et5208 l = true → c.laneState l = 3 → ¬ waits → ¬ far → Acts (.alignmentBlock t l place) t s (d.forAll ps fun c y =>
      (c.setLane y.1 { c.lane y.1 with delay := last - y.2 }).enterService y.1)) ∧
    (c.et5208 l = false ∨ c.laneState l ≠ 3 → Passes (.alignmentBlock t l place) t s) ∧
    (let d := (c.setLane l { c.lane l with lkg := (c.lane l).settings }).set (LQ_EYE_LKG (l / 4) (l % 4)) 1
     (c.et5208 l = true → c.laneState l = 2 → Acts (.rxReady t l) t s (d.laneTo l 3)) ∧
     (c.et5208 l = false ∨ c.laneState l ≠ 2 → Passes (.rxReady t l) t s))) ∧
  (∀ (t : Nat) (l : Fin 100) (ppb : Int) (s : State),
    let c := (s.at_ t).chip
    let off := decide (20000 < ppb.natAbs)
    let d := c.setLane l { c.lane l with offFreq := off }
    let lost (d : Chip) : Chip :=
      if d.laneState l = 4 then
        let f := d.laneCause l 5
        ((f.setLane l { f.lane l with tries := 1 }).laneTo l 5).raiseLane l 16
      else if d.laneState l = 2 ∨ d.laneState l = 3 then (d.laneFail l 5).raiseLane l 16 else d
    (ppb.natAbs ≤ 20000 → Acts (.refOffsetCheck t l ppb) t s d) ∧ (20000 < ppb.natAbs → Acts (.refOffsetCheck t l ppb) t s (lost d)) ∧
    Acts (.rxBufferOverflow t l) t s (lost c))

/-- R261 to R265, R268 to R270, R280, R382: marker m goes out on every lane of a rate whose transmitter runs. A marker as received counts on a lane in ALIGN
or SERVICE: a broken one is missing, another lane's number is a fault, the peer's own comes back with the unit's TURN. The fourth missing in a row loses
marker lock; two good ones in a row end ALIGN when the skew is at most 96 blocks, and in SERVICE a skew that moves by more than one block is a fault. 1 ms
without a data block freezes adaptation. Quick scans run at their period while the sampler is free; one that is not good restores the last settings and scans
again. An eye point waits for a quick scan of its lane. Recalibration goes from lane to lane of a quad. At a frame boundary a lane in SERVICE launches
the waiting frame of least rank, stamps before amendments, rows in ascending order and within a row in ascending FIRST. -/
def Obligations.LaneMarkersEyesAndLaunches : Prop :=
  (∀ (t : Nat) (rate : Fin 3) (s : State),
    let c := (s.at_ t).chip
    let m := FMap.get 0 c.lanes.mcount rate
    let d : Chip := { c with lanes := { c.lanes with mcount := FMap.put 0 c.lanes.mcount rate ((m + 1) % 2 ^ 24) } }
    Acts (.cairnMarkerSend t rate) t s (d.forAll (c.markerLanes rate) fun c l =>
      let bip := (c.fresh 256).1
      let c := (c.fresh 256).2
      let bs := le 1 0xC5 ++ le 1 (l % 96) ++ le 3 m ++ le 1 bip ++ le 1 0
      let c := c.emit .marker l [m] (bs ++ le 1 (crcMsb 8 0x07 0 bs))
      c.setLane l { c.lane l with marks := ((m, c.psNow) :: (c.lane l).marks).take 4 }) ∧
    (∀ l, l ∈ c.markerLanes rate ↔ (1 ≤ c.laneState l ∧ c.laneState l ≤ 5) ∧
      (rate.val = 2 ∧ 96 ≤ l ∧ l < 100 ∨ rate.val ≠ 2 ∧ l < 96 ∧ c.et5208 l = false ∧ (c.fast (l / 4) = true ↔ rate.val = 1)))) ∧
  (∀ (t : Nat) (l : Fin 100) (b : List Byte) (ps : Nat) (bipOk onTime : Bool) (s : State),
    let e := Instr.cairnMarker t l b ps bipOk onTime
    let c := (s.at_ t).chip
    let live : Prop := c.et5208 l = false ∧ (c.laneState l = 3 ∨ c.laneState l = 4)
    let whole : Prop := b.length = 8 ∧ fieldAt b 0 1 = 0xC5 ∧ fieldAt b 7 1 = crcMsb 8 0x07 0 (b.take 7)
    let w := fieldAt b 1 1
    let m := fieldAt b 2 3
    let back := le 1 0xC5 ++ le 1 (w + 128) ++ le 3 m ++ le 1 (fieldAt b 5 1) ++ le 1 (1 + Config.factory 40 % 255)
    let x := c.lane l
    (¬ live → Passes e t s ∧ Passes (.markerMissing t l) t s) ∧
    (live → ¬ whole ∨ w < 128 ∧ l.val < 96 → Acts e t s (c.missMarker l)) ∧
    (live → whole → w < 128 → 96 ≤ l.val → Acts e t s (c.emit .marker l [m] (back ++ le 1 (crcMsb 8 0x07 0 back)))) ∧
    (live → whole → 128 ≤ w → w % 128 ≠ l % 96 → Acts e t s (c.markerFault l 6)) ∧
    (live → whole → 128 ≤ w → w % 128 = l % 96 → Acts e t s (c.goodMarker l m (ps / 100 * 100) (fieldAt b 6 1) bipOk onTime)) ∧
    (live →
      let d := (c.setLane l { x with missing := x.missing + 1, good := 0 }).bump (LQ_ERR_MISSED (l / 4) (l % 4))
      Acts (.markerMissing t l) t s (if 4 ≤ x.missing + 1 then d.markerFault l 8 else d))) ∧
  (∀ (c : Chip) (l m ps turn : Nat) (bipOk onTime : Bool), l < 96 → c.et5208 l = false →
    let x := c.lane l
    let good := if onTime = true ∧ x.mcount.map (fun p => (p + 1) % 2 ^ 24) = some m then x.good + 1 else 1
    let d := c.setLane l { x with mcount := some m, arr := ps, good := good, missing := 0 }
    let i := d.checker .lq (l / 4) 17 (l % 4)
    let d := if i.1 = true ∧ bipOk = true then i.2.raise .lq (l / 4) { src := 17, cell := l % 4, inj := true } else i.2
    let d := (if bipOk then d else d.bipMismatch l).noteRtt l m ps turn
    let sk := d.skewOf l m
    let near : Prop := sk ≤ x.skew + 1 ∧ x.skew ≤ sk + 1
    let set := d.set (LQ_LSTAT_SKEW (l / 4) (l % 4)) sk
    (d.laneState l = 3 → good < 2 → c.goodMarker l m ps turn bipOk onTime = d) ∧
    (d.laneState l = 3 → 2 ≤ good → 96 < sk → c.goodMarker l m ps turn bipOk onTime = d.markerFault l 7) ∧
    (d.laneState l = 3 → 2 ≤ good → sk ≤ 96 → c.goodMarker l m ps turn bipOk onTime =
      ((d.setLane l { d.lane l with skew := sk }).set (LQ_LSTAT_SKEW (l / 4) (l % 4)) sk).enterService l) ∧
    (d.laneState l ≠ 3 → c.goodMarker l m ps turn bipOk onTime = if near then set else set.markerFault l 7)) ∧
  (∀ (t : Nat) (l : Fin 100) (s : State),
    let c := (s.at_ t).chip
    let x := c.lane l
    let due : Prop := c.laneState l = 4 ∧ x.scan = 0 ∧ c.pointOn l = false ∧ x.scanAt + max 1 (c.get (LQ_EYECFG_SCANPER (l / 4))) * 250 * dtMilli ≤ c.dt
    (c.laneState l = 4 → x.dataAt + dtMilli ≤ c.dt → Acts (.adaptFreeze t l) t s (c.set (LQ_EYE_FROZEN (l / 4) (l % 4)) 1)) ∧
    (c.laneState l ≠ 4 ∨ c.dt < x.dataAt + dtMilli → Passes (.adaptFreeze t l) t s) ∧
    (due → Acts (.quickScanStart t l) t s (c.setLane l { x with scan := 1, scanAt := c.dt })) ∧ (¬ due → Passes (.quickScanStart t l) t s)) ∧
  (∀ (t : Nat) (l : Fin 100) (k : ScanCounts) (settings : Nat) (s : State),
    let e := Instr.quickScanDone t l k.toPhaseCounts k.toVoltCounts settings
    let w := ((s.at_ t).chip.eyeFigure l k).1
    let h := ((s.at_ t).chip.eyeFigure l k).2
    let c := (s.at_ t).chip.flushTrain l
    let shown (d : Chip) : Chip := ((d.set (LQ_EYE_WIDTH (l / 4) (l % 4)) w).set (LQ_EYE_HEIGHT (l / 4) (l % 4)) h).count (LQ_EYE_SCANS (l / 4) (l % 4))
    let search : Prop := c.laneState l = 2 ∧ c.et5208 l = false ∧ (c.lane l).train.phase = 2
    let serves : Prop := c.laneState l = 4 ∧ ((c.lane l).scan = 1 ∨ (c.lane l).scan = 2)
    let d := shown c
    let x := d.lane l
    let good : Prop := d.get (LQ_EYECFG_EWMIN (l / 4)) ≤ w ∧ d.get (LQ_EYECFG_EHMIN (l / 4)) ≤ h
    let again := (d.setLane l { x with scan := 0, settings := settings }).raiseLane l (12 + l % 4)
    (search → Acts e t s ((shown (c.setLane l { c.lane l with settings := settings })).searchScan l w h)) ∧
    (serves → good → Acts e t s ((d.setLane l { x with scan := 0, settings := settings, lkg := settings }).set (LQ_EYE_LKG (l / 4) (l % 4)) 1)) ∧
    (serves → ¬ good → x.scan = 1 → Acts e t s (d.setLane l { x with scan := 2, settings := x.lkg })) ∧
    (serves → ¬ good → x.scan ≠ 1 → Acts e t s (if again.laneInUse l = true ∧ l.val < 96 then again else again.enterLock l)) ∧
    (¬ search → ¬ serves → Acts e t s c) ∧
    (∀ (berth mid : Nat) (up down : List Nat) (m n : Nat), (berth < mid → scanRun berth mid up m down n = 0) ∧
      (mid ≤ berth → (∀ v ∈ up, v ≤ berth) → (∀ v ∈ down, v ≤ berth) → scanRun berth mid up m down n = 1 + min m up.length + min n down.length))) ∧
  (∀ (t : Nat) (m : Fin 8) (q : Fin 24) (v : BitVec 32) (count : Nat) (s : State),
    let e := Instr.eyePointStart t m q v
    let c := (s.at_ t).chip
    let point := FMap.get none c.lanes.point q
    let d := ((c.set (LQ_EYEPT_LANE q) (bits v.toNat 24 2)).set (LQ_EYEPT_H q) (bits v.toNat 16 6)).set (LQ_EYEPT_V q) (bits v.toNat 8 7)
    let go (c : Chip) (p : Option EyePoint) : Chip := { c with lanes := { c.lanes with point := FMap.put none c.lanes.point q p } }
    (c.mayWrite m .lq q 0x48 = true → c.reachable .lq q = true →
      (point ≠ none → bit v.toNat 31 = true → Passes e t s) ∧ (bit v.toNat 31 = false → Acts e t s d) ∧
      (point = none → bit v.toNat 31 = true →
        Acts e t s (go (d.set (LQ_EYEPT_DONE q) 0) (some ⟨bits v.toNat 24 2, bits v.toNat 16 6, bits v.toNat 8 7⟩)))) ∧
    (point = none → Passes (.eyePointDone t q count) t s) ∧
    (∀ p, point = some p →
      let l := 4 * q.val + p.lane
      let n := min count (min (2 ^ (16 + c.get (LQ_EYECFG_DWELL q))) (2 ^ 32 - 1))
      let f := go ((c.set (LQ_EYECNT_COUNT q) n).set (LQ_EYEPT_DONE q) 1) none
      (c.scanning l = true → Passes (.eyePointDone t q count) t s) ∧
      (c.scanning l = false → Acts (.eyePointDone t q count) t s
        (if (f.lane l).scan = 3 then f.setLane l { f.lane l with scan := 1 } else f)))) ∧
  (∀ (t : Nat) (l : Fin 96) (beyond : Bool) (s : State),
    let e := Instr.laneRecalDone t l beyond
    let c := (s.at_ t).chip
    let x := c.lane l
    let new := c.fresh 65536
    let kept := c.raiseLane l 18
    let d := if beyond = true then kept.setLane l { kept.lane l with recal := false, sampler := x.sampler }
      else new.2.setLane l { new.2.lane l with recal := false, sampler := new.1 }
    let f := d.recalFrom (l / 4) (l % 4 + 1)
    let last : Prop := (∀ j < 96, (f.lane j).recal = false) ∧ f.lanes.again = true
    (x.recal = false ∨ x.scan ≠ 0 → Passes e t s) ∧
    (x.recal = true → x.scan = 0 → ¬ last → Acts e t s f) ∧ (x.recal = true → x.scan = 0 → last → Acts e t s f.recalPass)) ∧
  (∀ (t : Nat) (l : Fin 96) (s : State),
    let e := Instr.laneFrameLaunch t l
    let c := (s.at_ t).chip
    let d := c.freeze
    let q := (d.lane l).txq
    (c.laneState l ≠ 4 → Passes e t s) ∧
    (c.laneState l = 4 → d.waiting l false ≠ [] → (∀ f ∈ q, 3 < f.rank) → Acts e t s (d.launchStamps l false)) ∧
    (c.laneState l = 4 → d.waiting l false = [] → d.waiting l true ≠ [] → (∀ f ∈ q, 4 < f.rank) → Acts e t s (d.launchStamps l true)) ∧
    (c.laneState l = 4 → d.waiting l false = [] → d.waiting l true = [] → q = [] → Acts e t s d) ∧
    (∀ f ∈ q, c.laneState l = 4 → f.rank ≤ 3 ∨ d.waiting l false = [] ∧ (f.rank ≤ 4 ∨ d.waiting l true = []) → (∀ g ∈ q, f.rank ≤ g.rank) →
      ∃ f' ∈ q, f'.rank = f.rank ∧ (∀ g ∈ q, f'.rank ≤ g.rank) ∧ Acts e t s (d.launchFrame l f') ∧
        ∀ k n h k' n' h', f' = .row k n h → .row k' n' h' ∈ q → d.rowBefore k' n' h' k n h = false))

/-- R276, R284, R285, R289, R290, R292, R297, R300, R302 to R304, R307: an ECHO that is OK with the DCRC framed verifies a head's row; another one, or none
within 20 µs, sends the row again up to three times, then fences the lane. An ACK clears the stamp frames it covers; one that names a frame, or none within 20 µs,
queues the current stamps of its heads again, and a stamp already frozen raises source 24. Report, temperature and hub data records show in the registers. An EEPROM access
is refused while one runs, outside −5 to 100 °C for a write, and to a hub another unit owns; its reply or 50 ms end it. TIME goes to every lane in service,
EPOCH to every hub owned, keepalives while the unit runs, and CLAIM to every lane claimed. A record counts only in a STAT frame that the receiver does not discard:
its data blocks unfreeze adaptation, and nothing else follows from it otherwise (R277). -/
def Obligations.HubRecordsAndRegularFrames : Prop :=
  (∀ (t : Nat) (l : Fin 96) (fr : List RxBlock) (i : Nat) (r : List Byte) (s : State), Received t l fr i 1 r s →
    let e := Instr.echo t l ⟨fr, i⟩
    let d := arrived (s.at_ t).chip l fr
    let head := 16 * l + bits (fieldAt r 1 1) 1 5 % 16
    let good : Prop := fieldAt r 2 1 = 0
    (d.findRow head (fieldAt r 4 4) = none → Acts e t s d) ∧
    (∀ k n, d.findRow head (fieldAt r 4 4) = some (k, n) →
      (d.headRow? k n head = none → Acts e t s d) ∧
      (∀ h, d.headRow? k n head = some h →
        (h.ok = true ∨ h.launched = none → Acts e t s d) ∧
        (h.ok = false → h.launched ≠ none → good → fieldAt r 8 4 = h.dcrc →
          let i := d.checker .lq (l / 4) (20 + l % 4) (l % 4)
          let f := if i.1 = true then i.2.raise .lq (l / 4) { src := 20 + l % 4, cell := l % 4, inj := true } else i.2
          Acts e t s (((f.setHeadRow k n head fun h => { h with ok := true }).noteLead k n).noteEchoed k n)) ∧
        (h.ok = false → h.launched ≠ none → ¬ good ∨ fieldAt r 8 4 ≠ h.dcrc → Acts e t s (d.resendRow l k n h))))) ∧
  (∀ (t : Nat) (l : Fin 96) (a : Fin 16) (row : Nat) (s : State),
    let e := Instr.echoTimeout t l a row
    let c := (s.at_ t).chip
    let head := 16 * l.val + a.val
    let late : Prop := ∃ x ∈ c.findRow head row, ∃ h ∈ c.headRow? x.1 x.2 head, ∃ sent ∈ h.launched, h.ok = false ∧ sent + 20000 ≤ c.ns
    (¬ late → Passes e t s) ∧
    (∀ k n h sent, c.findRow head row = some (k, n) → c.headRow? k n head = some h → h.launched = some sent → h.ok = false → sent + 20000 ≤ c.ns →
      Acts e t s (c.resendRow l k n h)) ∧
    (∀ (c : Chip) (k n : Nat) (h : HeadRow), (h.tries < 4 → c.resendRow l k n h = ((c.setHeadRow k n h.head fun h => { h with launched := none }).enqueue l (.row k n h.head)).bump
      (LQ_HERR_RESENDS (l / 4) (l % 4))) ∧ (4 ≤ h.tries → c.resendRow l k n h = c.fenceLane l 0 (20 + l % 4) true))) ∧
  (∀ (t : Nat) (l : Fin 96) (fr : List RxBlock) (i : Nat) (r : List Byte) (s : State), Received t l fr i 2 r s →
    let e := Instr.ack t l ⟨fr, i⟩
    let d := arrived (s.at_ t).chip l fr
    let bank := fieldAt r 1 1 % 2
    let covered (f : SentStamps) : Prop := f.bank = bank ∧ (fieldAt r 4 4 + 2 ^ 32 - f.fseq) % 2 ^ 32 < 2 ^ 31
    let keep := (d.lane l).unacked.filter fun f => decide (¬ covered f)
    let d := d.setLane l { d.lane l with unacked := keep }
    let named (f : SentStamps) : Prop := f.bank = bank ∧ f.fseq = fieldAt r 8 4
    let asks : Prop := bit (fieldAt r 2 1) 0 = true
    (¬ asks ∨ (∀ f ∈ keep, ¬ named f) → Acts e t s d) ∧
    (asks → (∃ f ∈ keep, named f) → ∃ f ∈ keep, named f ∧ Acts e t s (d.resendStamps l f))) ∧
  (∀ (t : Nat) (l : Fin 96) (seq : Nat) (s : State),
    let c := (s.at_ t).chip
    let old (f : SentStamps) : Prop := f.fseq = seq ∧ f.at_ + 20000 ≤ c.ns
    ((∃ f ∈ (c.lane l).unacked, old f) → ∃ f ∈ (c.lane l).unacked, old f ∧ Acts (.ackTimeout t l seq) t s (c.resendStamps l f)) ∧
    ((∀ f ∈ (c.lane l).unacked, ¬ old f) → Passes (.ackTimeout t l seq) t s)) ∧
  (∀ (c : Chip) (l : Nat) (f : SentStamps),
    let d := c.freeze
    let hs := f.es.flatMap fun e => (setBits 16 e.2).map fun a => (e.1, 16 * l + a)
    let g := (d.setLane l { d.lane l with unacked := (d.lane l).unacked.filter (· ≠ f) }).bump (LQ_HERR_RESENDS (l / 4) (l % 4))
    let row (g : Chip) (e : Nat × Nat) : Option HeadRow := (g.findRow e.2 (e.1 % 2 ^ 32)).bind fun x => g.headRow? x.1 x.2 e.2
    let again := g.forAll hs fun c e => match c.findRow e.2 (e.1 % 2 ^ 32) with
      | some (k, n) => c.setHeadRow k n e.2 fun h => if h.frozen || h.queued.isSome then h else { h with queued := h.stamp }
      | none => c
    ((∀ e ∈ hs, ∀ h ∈ row g e, h.frozen = false) → c.resendStamps l f = again) ∧
    ((∃ e ∈ hs, ∃ h ∈ row g e, h.frozen = true) → ∃ e ∈ hs, (∃ h ∈ row g e, h.frozen = true) ∧
      c.resendStamps l f = again.raise .lq (l / 4) { src := 24, cell := l % 4, detail := packRow (some e.1) (some e.2) none })) ∧
  (∀ (t : Nat) (l : Fin 96) (fr : List RxBlock) (i : Nat) (r : List Byte) (s : State),
    let d := arrived (s.at_ t).chip l fr
    let n := d.bump (LQ_HERR_REPORTS (l / 4) (l % 4))
    let head := 16 * l.val + bits (fieldAt r 1 1) 1 5 % 16
    let a := fieldAt r 1 1 % 16
    let m := 16 * (l.val % 4) + a
    let v := (d.set (LQ_HTEMP_VALID (l / 4) m) (fieldAt r 2 1)).set (LQ_HTEMP_TEMP (l / 4) m) (fieldAt r 4 2)
    (Received t l fr i 3 r s → bit (fieldAt r 1 1) 0 = true → Acts (.fireReport t l ⟨fr, i⟩) t s n) ∧
    (Received t l fr i 3 r s → bit (fieldAt r 1 1) 0 = false → Acts (.fireReport t l ⟨fr, i⟩) t s
      (n.raise .lq (l / 4) { src := 25, cell := l % 4, detail := packRow (some (fieldAt r 4 4)) (some head) none })) ∧
    (Received t l fr i 6 r s → Acts (.tempRecord t l ⟨fr, i⟩) t s { v with lanes := { v.lanes with tempAt := FMap.put 0 v.lanes.tempAt (16 * l.val + a) v.ns } }) ∧
    (Received t l fr i 8 r s → Acts (.hubInfo t l ⟨fr, i⟩) t s (d.set (LQ_HST_PRESENT (l / 4) (l % 4)) (fieldAt r 8 2)))) ∧
  (∀ (t : Nat) (m : Fin 8) (q : Fin 24) (v : BitVec 32) (s : State),
    let e := Instr.eeAccess t m q v
    let c := (s.at_ t).chip
    let running : Prop := FMap.get none c.lanes.ee q ≠ none
    let w := bit v.toNat 30
    let lane := 4 * q + bits v.toNat 28 2
    let n := max 1 (min 8 (bits v.toNat 20 4))
    let d := ((c.set (LQ_HCMD_WRITE q) (bits v.toNat 30 1)).set (LQ_HCMD_LANE q) (bits v.toNat 28 2)).set (LQ_HCMD_ADDR q) (bits v.toNat 24 4)
    let d := (d.set (LQ_HCMD_COUNT q) n).set (LQ_HCMD_EEADDR q) (bits v.toNat 0 16)
    let go := d.set (LQ_HRES_DONE q) 0
    let cold : Prop := w = true ∧ go.writeTemp = false
    let foreign : Prop := w = true ∧ go.get (LQ_HST_OWNER q (lane % 4)) ≠ 0 ∧ go.ownsHub lane = false
    let tag := FMap.get 0 go.lanes.eeTag q
    let f : Chip := { go with lanes := { go.lanes with eeTag := FMap.put 0 go.lanes.eeTag q ((tag + 1) % 256) } }
    let f := f.eeSet q (some { lane := lane, addr := bits v.toNat 24 4, tag := tag, write := w, since := f.ns })
    c.mayWrite m .lq q 0x50 = true → c.reachable .lq q = true →
      (running → bit v.toNat 31 = true → Passes e t s) ∧ (bit v.toNat 31 = false → Acts e t s d) ∧
      (¬ running → bit v.toNat 31 = true → cold → Acts e t s (go.eeEnd q 4)) ∧
      (¬ running → bit v.toNat 31 = true → ¬ cold → foreign → Acts e t s (go.eeEnd q 6)) ∧
      (¬ running → bit v.toNat 31 = true → ¬ cold → ¬ foreign → Acts e t s (f.enqueue lane
        (.ctrl (if w then 3 else 2) (bits v.toNat 24 4) tag n (bits v.toNat 0 16) (if w then (le 8 (f.get (LQ_HDATA_DATA q))).take n else []))))) ∧
  (∀ (t : Nat) (l : Fin 96) (fr : List RxBlock) (i : Nat) (r : List Byte) (s : State), Received t l fr i 7 r s →
    let d := arrived (s.at_ t).chip l fr
    let mine (x : EeAccess) : Prop := x.lane = l.val ∧ x.tag = fieldAt r 3 1 ∧ x.addr = fieldAt r 1 1 % 32
    (FMap.get none d.lanes.ee (l / 4) = none → Acts (.eeReply t l ⟨fr, i⟩) t s d) ∧
    (∀ x, FMap.get none d.lanes.ee (l / 4) = some x →
      (¬ mine x → Acts (.eeReply t l ⟨fr, i⟩) t s d) ∧
      (mine x → fieldAt r 2 1 = 0 → x.write = false → Acts (.eeReply t l ⟨fr, i⟩) t s ((d.set (LQ_HDATA_DATA (l / 4)) (fieldAt r 8 (min 8 (fieldAt r 6 1)))).eeEnd (l / 4) (min 3 (fieldAt r 2 1)))) ∧
      (mine x → fieldAt r 2 1 ≠ 0 ∨ x.write = true → Acts (.eeReply t l ⟨fr, i⟩) t s (d.eeEnd (l / 4) (min 3 (fieldAt r 2 1)))))) ∧
  (∀ (t : Nat) (q : Fin 24) (s : State),
    let c := (s.at_ t).chip
    (FMap.get none c.lanes.ee q = none → Passes (.eeTimeout t q) t s) ∧
    (∀ x, FMap.get none c.lanes.ee q = some x → (x.since + 50000000 ≤ c.ns → Acts (.eeTimeout t q) t s (c.eeEnd q 5)) ∧ (c.ns < x.since + 50000000 → Passes (.eeTimeout t q) t s)) ∧
    (∀ c : Chip, ∀ n, c.eeEnd q n = ((({ c with lanes := { c.lanes with ee := FMap.put none c.lanes.ee q none } } : Chip).set (LQ_HRES_RESULT q) n).set (LQ_HRES_DONE q) 1))) ∧
  (∀ (t : Nat) (l : Fin 96) (s : State),
    let c := (s.at_ t).chip
    let keeps : Prop := c.ownsHub l = true ∧ (c.role = 0 ∨ c.role = 1) ∧ ∀ r, c.health.bist = some r → r.kind ≠ 2
    (c.twin.deciding = false → c.twin.needDt = false → Acts (.timeFrameSend t) t s (c.forAll c.serviceLanes fun c l => c.want l .time)) ∧
    (c.twin.deciding = true ∨ c.twin.needDt = true → Passes (.timeFrameSend t) t s) ∧
    (∀ h, c.twin.handoff = some h → Acts (.epochFrameSend t) t s (c.forAll (c.serviceLanes.filter c.ownsHub) fun d l =>
      d.want l (.epoch (d.curOf l) h.token (h.row (d.newest.laneBar l))))) ∧
    (c.twin.handoff = none → Acts (.epochFrameSend t) t s (c.forAll (c.serviceLanes.filter c.ownsHub) fun d l => d.want l (.epoch (d.curOf l) 0 0))) ∧
    (keeps → Acts (.fireKeepalive t l) t s (c.want l .fire)) ∧ (¬ keeps → Passes (.fireKeepalive t l) t s) ∧
    Acts (.claimSend t) t s (c.forAll (c.twin.claims.filter fun e => FMap.get 0 c.twin.wait e.1 ≤ c.ns) fun c e => c.want e.1 (.claim ((c.curOf e.1 + 1) % 2 ^ 32) e.2)) ∧
    (∀ (d : Chip) (k : Nat) (f : LaneFrame), d.want k f = if f ∈ (d.lane k).txq then d else d.enqueue k f)) ∧
  (∀ (t : Nat) (l : Fin 96) (fr : List RxBlock) (i : Nat) (s : State),
    let c := (s.at_ t).chip
    ∀ e ∈ [(Instr.echo t l ⟨fr, i⟩, 1), (.ack t l ⟨fr, i⟩, 2), (.fireReport t l ⟨fr, i⟩, 3), (.epochRecord t l ⟨fr, i⟩, 4), (.claimReply t l ⟨fr, i⟩, 5),
        (.tempRecord t l ⟨fr, i⟩, 6), (.eeReply t l ⟨fr, i⟩, 7), (.hubInfo t l ⟨fr, i⟩, 8)],
      NotReceived t l fr i e.2 s → Acts e.1 t s (if c.laneState l = 4 then arrived c l fr else c))

/-- R300, R302, R306, R380, R381, R385 to R389, R393, R396, R399: an EPOCH record shows its hub's epoch, owner, lease and arms; losing a hub raises source 26. A unit
that runs then claims a USED hub without a running lease that it does not own, a handoff ends once the peer owns every USED lane, and in catch-up, with the
peer lost, the unit starts fresh. A CLAIM_REPLY shows the hub's epoch, owner and result: ACCEPTED ends the claim, and a STANDBY unit takes
over; at REFUSED_CONFLICT the higher identity waits 30 µs. After CLAIMWIN a round without acceptance is withdrawn, one partly refused is split. A handoff
ends 1 ms after t_h. A path's silence of 30 µs, 100 µs, and of both paths, and 2 s without a decision have their own effects. -/
def Obligations.OwnershipClaimsAndPeerLoss : Prop :=
  (∀ (t : Nat) (l : Fin 96) (fr : List RxBlock) (i : Nat) (r : List Byte) (s : State), Received t l fr i 4 r s →
    let e := Instr.epochRecord t l ⟨fr, i⟩
    let a := s.at_ t
    let c := arrived a.chip l fr
    let b := fieldAt r 1 1
    let id := fieldAt r 8 4
    let self : Prop := b % 4 ≠ 0 ∧ id = unitId
    let d := (c.setLane l { c.lane l with owner := if b % 4 = 0 then 0 else id }).set (LQ_HEP_CUR (l / 4) (l % 4)) (fieldAt r 4 4)
    let d := (d.set (LQ_HST_OWNER (l / 4) (l % 4)) (b % 4)).set (LQ_HST_SELF (l / 4) (l % 4)) (if self then 1 else 0)
    let d := ((d.set (LQ_HST_LEASE (l / 4) (l % 4)) (bits b 2 1)).set (LQ_HST_ARM_L (l / 4) (l % 4)) (bits b 3 1)).set (LQ_HST_ARM_S (l / 4) (l % 4)) (bits b 4 1)
    let d := if c.ownsHub l = true ∧ ¬ self then d.refreshEpoch.raise .lq (l / 4) { src := 26, cell := l % 4 } else d.refreshEpoch
    let alone : Prop := d.role = 3 ∧ d.twin.lost = true ∧ d.newest.laneUsed l = true ∧ d.get (LQ_HST_LEASE (l / 4) (l % 4)) = 0
    let free : Prop := (d.role = 0 ∨ d.role = 1) ∧ d.newest.laneUsed l = true ∧ d.laneState l = 4 ∧ d.get (LQ_HST_LEASE (l / 4) (l % 4)) = 0 ∧ d.ownsHub l = false ∧ d.get TW_STAT_HANDOFF = 0
    (alone → exec e s = .next ((freshActive { a with chip := d }).onChip fun c => c.forAll c.usedLanes Chip.claimFree)) ∧
    (¬ alone → free → Acts e t s (d.claimLane l 0).checkHandedOver) ∧ (¬ alone → ¬ free → Acts e t s d.checkHandedOver)) ∧
  (∀ c : Chip,
    (c.twin.handoff = none → c.checkHandedOver = c) ∧
    (∀ h, c.twin.handoff = some h →
      let ended : Prop := c.role = 1 ∧ c.usedLanes ≠ [] ∧ ∀ l ∈ c.usedLanes, c.peerOwns l = true
      let d := c.flushJrn.endHandoff
      let d : Chip := { d with twin := { d.twin with mirroring := false, kept := [], claims := [], wait := [] } }
      let d := (d.setRole 2).settleHandlers
      (¬ ended → c.checkHandedOver = c) ∧ (ended → h.forShutdown = false → c.checkHandedOver = d) ∧ (ended → h.forShutdown = true → c.checkHandedOver = d.beginShutdown))) ∧
  (∀ (t : Nat) (l : Fin 96) (fr : List RxBlock) (i : Nat) (r : List Byte) (s : State), Received t l fr i 5 r s →
    let e := Instr.claimReply t l ⟨fr, i⟩
    let c := arrived (s.at_ t).chip l fr
    let res := fieldAt r 2 1
    let id := fieldAt r 12 4
    let d := (c.setLane l { c.lane l with owner := id }).set (LQ_HEP_CUR (l / 4) (l % 4)) (fieldAt r 8 4)
    let d := (d.set (LQ_HST_SELF (l / 4) (l % 4)) (if id = unitId then 1 else 0)).refreshEpoch
    let d := (d.set (LQ_HST_CLAIM_SEEN (l / 4) (l % 4)) 1).set (LQ_HST_CLAIM_RES (l / 4) (l % 4)) res
    ((∀ x ∈ d.twin.claims, x.1 ≠ l.val) → Acts e t s d) ∧
    ((∃ x ∈ d.twin.claims, x.1 = l.val) → ∃ x ∈ d.twin.claims, x.1 = l.val ∧
      let f : Chip := { d with twin := { d.twin with claiming := d.twin.claiming.map fun x => x.note l res } }
      let g := (f.unclaim l).refreshEpoch
      let g := if g.role = 2 then g.takeOver x.2 else g
      let done : Prop := g.twin.claiming ≠ none ∧ g.twin.claims = []
      let yields : Prop := res = 4 ∧ f.get TW_PEER_PEER < unitId
      (res = 0 → done → Acts e t s g.endRound) ∧ (res = 0 → ¬ done → Acts e t s g) ∧
      (yields → Acts e t s { f with twin := { f.twin with wait := FMap.put 0 f.twin.wait l (f.ns + 30000) } }) ∧ (res ≠ 0 → ¬ yields → Acts e t s f))) ∧
  (∀ (t : Nat) (l : Fin 96) (s : State),
    let c := (s.at_ t).chip
    let w := FMap.get 0 c.twin.wait l
    let ended : Prop := w ≠ 0 ∧ w ≤ c.ns
    let d : Chip := { c with twin := { c.twin with wait := FMap.put 0 c.twin.wait l 0 } }
    ((∃ x ∈ c.twin.claims, x.1 = l.val) → ended → ∃ x ∈ c.twin.claims, x.1 = l.val ∧
      Acts (.claimConflictWait t l) t s (d.want l (.claim ((d.curOf l + 1) % 2 ^ 32) x.2))) ∧
    (¬ ended ∨ (∀ x ∈ c.twin.claims, x.1 ≠ l.val) → Passes (.claimConflictWait t l) t s) ∧
    (c.twin.claiming = none → Passes (.claimwinExpiry t) t s) ∧
    (∀ x, c.twin.claiming = some x →
      let late : Prop := x.since + 1000 * c.get TW_CFG_CLAIMWIN ≤ c.ns
      let split : Prop := ∃ l ∈ x.refused, ∃ y ∈ c.twin.claims, y.1 = l
      (¬ late → Passes (.claimwinExpiry t) t s) ∧
      (late → x.accepted = [] → Acts (.claimwinExpiry t) t s (((c.withdrawClaims).set TW_STAT_CLAIMHOLD 1).raise .tw 0 { src := 2 })) ∧
      (late → x.accepted ≠ [] → split → Acts (.claimwinExpiry t) t s (c.endRound.raise .tw 0 { src := 3, level := some 4 })) ∧
      (late → x.accepted ≠ [] → ¬ split → Acts (.claimwinExpiry t) t s c.endRound))) ∧
  (∀ (t : Nat) (m : Fin 8) (s : State),
    let c := (s.at_ t).chip
    let may : Prop := c.peerStandby = true ∧ c.get TW_STAT_HANDOFF = 0
    let v := (c.fresh (2 ^ 32 - 2)).1
    let d := (c.fresh (2 ^ 32 - 2)).2
    let token := if v + 1 < d.twin.lastToken ∨ d.twin.lastToken = 0 then v + 1 else v + 2
    let hrow := (List.range 16).map fun k => ((d.bar k).rk + 16).toNat
    let f := (d.set TW_STAT_HANDOFF 1).ckpt0.flushJrn
    let f : Chip := { f with twin := { f.twin with handoff := some { th := f.ns, token := token, hrow := hrow, forShutdown := false, failreq := false }, lastToken := token } }
    c.mayWrite m .tw 0 0x50 = true → c.reachable .tw 0 = true →
      (may → Acts (.handoff t m) t s (f.ropeSend .ropeOffer (token :: (List.range 96).map fun l => hrow.getD (f.newest.laneBar l) 0)) ∧
        1 ≤ token ∧ token < 2 ^ 32 ∧ token ≠ d.twin.lastToken) ∧
      (¬ may → Passes (.handoff t m) t s)) ∧
  (∀ (t : Nat) (s : State),
    let e := Instr.handoffTimeout t
    let c := (s.at_ t).chip
    (c.twin.handoff = none → Passes e t s) ∧
    (∀ h, c.twin.handoff = some h →
      let late : Prop := h.th + 1000000 ≤ c.ns
      let taken := c.usedLanes.filter fun l => c.peerOwns l
      let d := c.endHandoff
      let d := (d.forAll (d.serviceLanes.filter d.ownsHub) fun c l => c.want l (.epoch (c.curOf l) 0 0)).raise .tw 0 { src := 11 }
      let d := if h.forShutdown = true then d.raise .hl 0 { src := 14 } else d
      let heard : Prop := d.twin.peerFailed = false ∧ (d.get TW_STAT_BELAY_HEARD ≠ 0 ∨ d.get TW_STAT_ROPE_HEARD ≠ 0)
      (¬ late → Passes e t s) ∧ (late → taken = [] → Acts e t s d) ∧ (late → taken ≠ [] → heard → Acts e t s (d.toCatchup 9)) ∧
      (late → taken ≠ [] → ¬ heard → Acts e t s (d.forAll taken Chip.claimFree)))) ∧
  (∀ (t : Nat) (s : State),
    let c := (s.at_ t).chip
    let tw := c.twin
    let told (f : Twin) : Chip := { c with twin := f }
    let dumbBelay : Prop := tw.belayTold = false ∧ tw.belayAt ≠ none ∧ c.silentFor tw.belayAt 100000 = true ∧ c.silentFor tw.ropeAt 100000 = false
    let dumbRope : Prop := tw.ropeTold = false ∧ tw.ropeAt ≠ none ∧ c.silentFor tw.ropeAt 100000 = true ∧ c.silentFor tw.belayAt 100000 = false
    let r := told { tw with ropeTold := true }
    (dumbBelay → Acts (.pathSilence t false) t s ((told { tw with belayTold := true }).raise .tw 0 { src := 0 })) ∧ (¬ dumbBelay → Passes (.pathSilence t false) t s) ∧
    (dumbRope → r.get TW_STAT_ROPE_UP ≠ 0 → Acts (.pathSilence t true) t s (r.forAll [96, 97, 98, 99] Chip.enterLock)) ∧
    (dumbRope → r.get TW_STAT_ROPE_UP = 0 → Acts (.pathSilence t true) t s r) ∧ (¬ dumbRope → Passes (.pathSilence t true) t s) ∧
    (c.silentFor tw.ropeAt 30001 = true → Acts (.peerHeardExpiry t true) t s (c.set TW_STAT_ROPE_HEARD 0)) ∧ (c.silentFor tw.ropeAt 30001 = false → Passes (.peerHeardExpiry t true) t s) ∧
    (c.silentFor tw.belayAt 30001 = true → Acts (.peerHeardExpiry t false) t s (c.set TW_STAT_BELAY_HEARD 0)) ∧ (c.silentFor tw.belayAt 30001 = false → Passes (.peerHeardExpiry t false) t s) ∧
    (∀ (c : Chip) (n : Nat), c.silentFor none n = true) ∧ (∀ (c : Chip) (a n : Nat), c.silentFor (some a) n = true ↔ a + n ≤ c.ns)) ∧
  (∀ (t : Nat) (s : State),
    let c := (s.at_ t).chip
    let tw := c.twin
    let failed : Prop := c.roped = true ∧ tw.deciding = false ∧ tw.peerFailed = false ∧ tw.peerRole ≠ none ∧ c.silentFor tw.belayAt 100000 = true ∧ c.silentFor tw.ropeAt 100000 = true
    let d : Chip := { c with twin := { tw with peerFailed := true, resend := true } }
    let d := d.raise .tw 0 { src := 1 }
    let f : Chip := { d with twin := { d.twin with lost := true, needDt := false } }
    let undecided : Prop := c.roped = true ∧ tw.deciding = true ∧ tw.startNs + 1998000000 ≤ c.ns
    let act : Chip := { c with twin := { tw with deciding := false } }
    (¬ failed → Passes (.peerFailure t) t s) ∧
    (failed → d.role = 2 → d.get TW_STAT_CLAIMHOLD = 0 → Acts (.peerFailure t) t s (d.startClaim 0)) ∧
    (failed → d.role = 2 → d.get TW_STAT_CLAIMHOLD ≠ 0 → Acts (.peerFailure t) t s d) ∧
    (failed → d.role = 3 → d.twin.stuck = false → Acts (.peerFailure t) t s ((f.set TW_STAT_REASON 8).raise .tw 0 { src := 5, detail := f.get TW_STAT_SECTIONS })) ∧
    (failed → d.role = 3 → d.twin.stuck = true → Acts (.peerFailure t) t s d) ∧ (failed → d.role ≠ 2 → d.role ≠ 3 → Acts (.peerFailure t) t s d) ∧
    (undecided → Acts (.roleDecisionTimeout t) t s (act.setRole 1)) ∧ (¬ undecided → Passes (.roleDecisionTimeout t) t s))

/-- R144, R308, R311, R382 to R385, R389 to R391, R395, R397 to R400, R403, R404, R406: heartbeats leave on each path that is up and count when they are whole, of the peer
and not discarded by an injection; outside a planned handoff a higher epoch, or a lower identity at the same epoch, takes an ACTIVE unit to CATCHUP. A rope frame is taken
when it is the next in order, and every frame is answered with the highest one received in order; an ACK frees what it covers, and the
third resend in vain takes the link down. OFFER, HASH, VERDICT, JRN and SNAP frames act when taken. A snapshot begins at a CATCHUP peer, and is adopted when whole.
The referee's result is the verdict of Table 15-7. The hub lead of every enabled bar shows each 1 ms. -/
def Obligations.RopeJournalAndReferee : Prop :=
  (∀ (t : Nat) (s : State),
    let c := (s.at_ t).chip
    let runs : Prop := c.health.powerGood = true ∧ c.health.silent = false
    let bs := le 1 0x48 ++ le 1 c.beatRole ++ le 1 c.beatFlags ++ le 1 0 ++ le 4 unitId ++ le 4 c.twin.epoch ++ le 2 c.twin.hbSeq
    let d := c.emit .belay 0 [] (bs ++ le 2 (crcMsb 16 0x1021 0xFFFF (bs.take 14)))
    let d : Chip := { d with twin := { d.twin with hbSeq := (d.twin.hbSeq + 1) % 65536 } }
    let rope : Prop := d.get SYS_STRAP_ROPED_EN ≠ 0 ∧ d.get TW_STAT_ROPE_UP ≠ 0
    (¬ runs → Passes (.heartbeatSend t) t s) ∧ (runs → ¬ rope → Acts (.heartbeatSend t) t s d) ∧
    let hidden : Prop := d.twin.deciding = true ∨ d.twin.needDt = true
    let f := if hidden then (d.fresh (2 ^ 80)).2 else d
    let shown := if hidden then (d.fresh (2 ^ 80)).1 else d.dt
    (runs → rope → Acts (.heartbeatSend t) t s (f.emit .ropeHb 0 [shown, d.get TB_RATE_NOW, d.beatRole, d.twin.epoch, d.get TW_JSEQ_JSEQ, unitId]))) ∧
  (∀ (t : Nat) (b : List Byte) (s : State),
    let e := Instr.belayFrame t b
    let c := (s.at_ t).chip
    let whole : Prop := b.length = 16 ∧ fieldAt b 0 1 = 0x48 ∧ fieldAt b 14 2 = crcMsb 16 0x1021 0xFFFF (b.take 14)
    let i := c.injected .tw [0]
    (¬ whole → Passes e t s) ∧ (whole → i.1 = true → Acts e t s i.2) ∧
    (whole → i.1 = false → Acts e t s (i.2.countBeat false (fieldAt b 1 1) (fieldAt b 4 4) (fieldAt b 8 4)))) ∧
  (∀ (c : Chip) (rope : Bool) (role id epoch : Nat),
    let d : Chip := { c with twin := { (if rope = true then { c.twin with ropeAt := some c.ns, ropeTold := false } else { c.twin with belayAt := some c.ns, belayTold := false } : Twin) with
      peerRole := some role, peerEpoch := epoch, peerFailed := false } }
    let d := ((d.set TW_PEER_PEER id).set (if rope = true then TW_STAT_ROPE_HEARD else TW_STAT_BELAY_HEARD) 1).set TW_STAT_CLAIMHOLD 0
    let d := if d.peerBack.twin.deciding = true then d.peerBack.hearWhileDeciding role id else d.peerBack
    let loses : Prop := d.role = 1 ∧ role = 1 ∧ d.handingOver = false ∧ (d.twin.epoch < epoch ∨ d.twin.epoch = epoch ∧ id < unitId)
    (c.get SYS_STRAP_ROPED_EN = 0 ∨ c.fromPeer id = false → c.countBeat rope role id epoch = c) ∧
    (c.get SYS_STRAP_ROPED_EN ≠ 0 → c.fromPeer id = true → loses → c.countBeat rope role id epoch = (d.toCatchup 4).raise .tw 0 { src := 3, level := some 2 }) ∧
    (c.get SYS_STRAP_ROPED_EN ≠ 0 → c.fromPeer id = true → ¬ loses → c.countBeat rope role id epoch = d)) ∧
  (∀ (t : Nat) (b : RopeBeat) (s : State),
    let e := Instr.ropeHb t b
    let i := (s.at_ t).chip.injected .rl [0, 1]
    let counts : Prop := i.1 = false ∧ i.2.get TW_STAT_ROPE_UP ≠ 0 ∧ i.2.get SYS_STRAP_ROPED_EN ≠ 0 ∧ i.2.fromPeer b.unit = true
    let d := i.2.countBeat true b.role b.unit b.epoch
    let f := if d.twin.resend = true ∧ b.role = 2 then d.resendJournal b.jseq else d
    (¬ counts → Acts e t s i.2) ∧ (counts → d.role = 1 → Acts e t s (if b.role = 3 then f.joinAsked else f)) ∧
    (counts → d.role = 2 ∨ d.role = 3 → b.role = 1 → Acts e t s (d.followTime b)) ∧
    (counts → d.role ≠ 1 → (d.role ≠ 2 ∧ d.role ≠ 3) ∨ b.role ≠ 1 → Acts e t s d)) ∧
  (∀ (c : Chip) (rseq : Nat),
    let up : Prop := c.get SYS_STRAP_ROPED_EN ≠ 0 ∧ c.get TW_STAT_ROPE_UP ≠ 0
    let i := c.injected .rl [0, 1]
    let r := i.2.twin.rxSeq
    let d : Chip := { i.2 with twin := { i.2.twin with rxSeq := rseq } }
    (¬ up → c.rxRope rseq = (false, c)) ∧ (up → i.1 = true → c.rxRope rseq = (false, i.2)) ∧
    (up → i.1 = false → rseq = (r + 1) % 65536 → c.rxRope rseq = (true, d.emit .ropeAck 0 [rseq])) ∧
    (up → i.1 = false → rseq ≠ (r + 1) % 65536 → c.rxRope rseq = (false, i.2.emit .ropeAck 0 [r]))) ∧
  (∀ (t rseq : Nat) (s : State),
    let c := (s.at_ t).chip
    let i := c.injected .rl [0, 1]
    let old (f : RopeFrame) : Prop := f.rseq = rseq ∧ f.sent + 20000 ≤ c.ns
    (c.get TW_STAT_ROPE_UP = 0 → Passes (.ropeAck t rseq) t s) ∧
    (c.get TW_STAT_ROPE_UP ≠ 0 → Acts (.ropeAck t rseq) t s (if i.1 = true then i.2 else i.2.ropeAck rseq)) ∧
    ((∀ f ∈ c.twin.sent, ¬ old f) → Passes (.ropeResendTimeout t rseq) t s) ∧
    ((∃ f ∈ c.twin.sent, old f) → ∃ f ∈ c.twin.sent, old f ∧
      let g : RopeFrame := { f with sent := c.ns, tries := f.tries + 1 }
      let d : Chip := { c with twin := { c.twin with sent := c.twin.sent.map fun x => if x.rseq = rseq then g else x } }
      (f.tries < 3 → Acts (.ropeResendTimeout t rseq) t s (((d.emit f.kind 0 (f.rseq :: f.args) f.bytes).bump RL_CNT_RESENDS).raise .rl 0 { src := 1 })) ∧
      (3 ≤ f.tries → Acts (.ropeResendTimeout t rseq) t s (c.forAll [96, 97, 98, 99] Chip.enterLock)))) ∧
  (∀ (t rseq token bar row sect : Nat) (hrow : List Nat) (hs : List RowHash) (v : Fin 3) (es : List (Nat × JItem)) (items : List JItem) (x : SnapEnd) (s : State),
    let a := s.at_ t
    let r := a.chip.rxRope rseq
    let o (n : Nat) : Occ := { src := n, detail := packRow (some row) none (some bar) }
    Acts (.ropeOffer t rseq token hrow) t s (if r.1 = true ∧ r.2.role = 2 then r.2.startClaim token else r.2) ∧
    Acts (.ropeHash t rseq hs) t s (if r.1 = true then r.2.forAll hs Chip.rowHash else r.2) ∧
    let unpacked := if r.2.role = 3 ∧ r.2.twin.stuck = false then r.2.unpackJob sect x else r.2
    Acts (.ropeSnap t rseq sect items x) t s (if r.1 = true then unpacked.ropeSnap sect items x else r.2) ∧
    (r.1 = false → exec (.ropeJrn t rseq es) s = .next { a with chip := r.2 }) ∧
    (r.1 = true → exec (.ropeJrn t rseq es) s = .next ((es.foldl applyEntry { a with chip := r.2 }).onChip (·.checkJoined))) ∧
    (r.1 = false ∨ r.2.role ≠ 1 → Acts (.ropeVerdict t rseq bar row v) t s r.2) ∧
    (r.1 = true → r.2.role = 1 → v = 0 → Acts (.ropeVerdict t rseq bar row v) t s (r.2.bump TW_VERD_SWRONG)) ∧
    (r.1 = true → r.2.role = 1 → v = 1 → Acts (.ropeVerdict t rseq bar row v) t s ((r.2.bump TW_VERD_AWRONG).raise .tw 0 (o 7))) ∧
    (r.1 = true → r.2.role = 1 → v = 2 → Acts (.ropeVerdict t rseq bar row v) t s ((r.2.bump TW_VERD_UNDEC).raise .tw 0 (o 8)))) ∧
  (∀ (s : State) (e : Nat × JItem),
    let c := s.chip
    let mirrors : Prop := c.role = 2 ∨ c.role = 3 ∧ c.twin.adopted = true
    let d := (e.1 + 2 ^ 32 - c.get TW_JSEQ_JSEQ) % 2 ^ 32
    (mirrors → d = 1 → applyEntry s e = (applyItem (s.onChip (·.set TW_JACK_JACK e.1)) e.2).onChip (·.set TW_JSEQ_JSEQ e.1)) ∧
    (mirrors → d = 0 ∨ 2 ^ 31 ≤ d → applyEntry s e = s) ∧
    (mirrors → 2 ≤ d → d < 2 ^ 31 → applyEntry s e = s.onChip fun c => if c.role = 2 then c.toCatchup 3 else c.failCatchup 3) ∧
    (¬ mirrors → applyEntry s e = if c.role = 3 ∧ c.twin.stuck = false then s.onChip fun c => c.storeEntry e.1 e.2 else s)) ∧
  (∀ (t : Nat) (ok : Bool) (s : State),
    let a := s.at_ t
    let c := a.chip
    let begins : Prop := c.role = 1 ∧ c.twin.peerRole = some 3 ∧ (c.get TW_STAT_BELAY_HEARD ≠ 0 ∨ c.get TW_STAT_ROPE_HEARD ≠ 0) ∧ c.twin.peerFailed = false ∧ c.get TW_STAT_ROPE_UP ≠ 0 ∧
      c.twin.snapSent = false ∧ ({ c.store with jobs := c.store.jobs.filter fun j => !j.twin } : Store).waiting.length < 256
    let st := c.store
    let job : CodecJob := { id := st.nextJob, op := .compress, twin := true, kind := 1, soff := 0 }
    let d := c.setStore { st with jobs := st.jobs.filter (fun j => !j.twin) ++ [job], nextJob := st.nextJob + 1 }
    let d : Chip := { d with twin := { d.twin with snapSent := true, asked := false, mirroring := true, kept := [], fresh := [] } }
    let tw := c.twin
    let may : Prop := c.role = 3 ∧ tw.stuck = false ∧ tw.lost = false ∧ tw.adopted = false ∧ ok = true ∧ (∀ n < 11, ∃ e ∈ tw.snap, e.1 = n) ∧ journalWhole 0 tw.kept = true
    (begins → Acts (.snapshotStart t) t s (d.set TW_JSEQ_JSEQ (2 ^ 32 - 1))) ∧ (¬ begins → Passes (.snapshotStart t) t s) ∧
    (may → exec (.snapshotAdopt t ok) s = .next (adoptSnapshot a)) ∧ (¬ may → Passes (.snapshotAdopt t ok) t s)) ∧
  (∀ (t : Nat) (m : Fin 8) (k : Fin 16) (row chk : Nat) (s : State),
    let c := (s.at_ t).chip
    let mine (e : RowHash × Nat) : Prop := e.1.bar = k.val ∧ e.1.row = row
    (c.mayWrite m .tw 0 0x50 = true → c.reachable .tw 0 = true →
      (c.role = 3 → Acts (.recatch t m) t s c.dropSnapshot) ∧ (c.role ≠ 3 → Passes (.recatch t m) t s)) ∧
    ((∀ e ∈ c.twin.referee, ¬ mine e) → Passes (.refereeDone t k row chk) t s) ∧
    ((∃ e ∈ c.twin.referee, mine e) → ∃ e ∈ c.twin.referee, mine e ∧
      let d : Chip := { c with twin := { c.twin with referee := c.twin.referee.filter fun e => decide (¬ mine e) } }
      let f := d.setBar k { d.bar k with lent := false }
      Acts (.refereeDone t k row chk) t s ((f.set (BE_SCR_SPARE_STATE k) (if f.get (BE_SCR_SPARE k) ≠ 31 then 0 else 2)).judgeRow k row
        (if chk = e.1.chk then 0 else if chk = e.2 then 1 else 2)))) ∧
  (∀ (t : Nat) (s : State),
    let c := (s.at_ t).chip
    let d := c.forAll c.enabledBars fun c k => c.set (TW_HLEAD_HLEAD k) (if FMap.get 0 c.twin.leads k = 0 then 0xFFFF else min 0xFFFF ((FMap.get 0 c.twin.leads k - 1) / 1000))
    let low : Prop := ∃ k ∈ c.enabledBars, d.get (TW_HLEAD_HLEAD k) < 280
    let f : Chip := { d with twin := { d.twin with leads := [] } }
    let told : Prop := low ∧ (f.twin.peerRole = some 1 ∨ f.twin.peerRole = some 2) ∧ (f.get TW_STAT_BELAY_HEARD ≠ 0 ∨ f.get TW_STAT_ROPE_HEARD ≠ 0)
    (told → Acts (.hubLeadWindow t) t s (f.raise .tw 0 { src := 10 })) ∧ (¬ told → Acts (.hubLeadWindow t) t s f))

/-- R421 to R431, R444 to R451, R463: rest begins in a unit that runs, is READY and has nothing under way, on request or after its idle time with no REST set for 8 h; an abort
raises source 24. A wave that ends leaves a record for each of its blocks, whose signature counts only for the full pattern count. The record set then ends the run
under the next number. A region loses its domain only while nothing uses it. A shutdown is refused with source 14 while printing alone or at rest, and
hands over to a STANDBY peer first; its end and 100 µs of over-temperature stop the unit. PWRGOOD's rise starts the unit, quick when the latest set allows
it, and its fall loses everything but the NOR. -/
def Obligations.SelfTestPowerAndStart : Prop :=
  (∀ (t : Nat) (m : Fin 8) (s : State),
    let c := (s.at_ t).chip
    let may : Prop := (c.role = 0 ∨ c.role = 1) ∧ c.get HL_PSTAT_STATE = 2 ∧ c.get SEQ_PSTAT_OPEN = 0 ∧ c.store.jobs = [] ∧ c.sstate ≤ 2 ∧ c.health.bist = none
    let due : Prop := c.get HL_BCFG_REST_AUTO ≠ 0 ∧ max c.health.idleSince c.hosts.lastB + 60000000000 * c.get HL_BCFG_REST_IDLE ≤ c.ns ∧
      ∀ a, c.health.restAt = some a → a + 28800000000000 ≤ c.ns
    let d := c.onHealth fun h => { h with bist := some { kind := 2, plog := c.get HL_BCFG_PLOG, dtStart := c.ns } }
    let rest := (d.forAll (List.range 4) fun c n => c.regionLanes n false).startWaves
    let resting (r : BistRun) : Prop := r.kind = 2 ∧ r.aborted = false
    let held : Prop := c.mayWrite m .hl 0 0x184 = true ∧ c.reachable .hl 0 = true
    (held → may → Acts (.rest t m) t s rest) ∧ (held → ¬ may → Passes (.rest t m) t s) ∧
    (may ∧ due → Acts (.restAuto t) t s rest) ∧ (¬ (may ∧ due) → Passes (.restAuto t) t s) ∧
    (∀ r, held → c.health.bist = some r → resting r → Acts (.abort t m) t s ((c.onHealth fun h => { h with bist := some { r with aborted := true } }).raise .hl 0 { src := 24 })) ∧
    (held → (∀ r, c.health.bist = some r → ¬ resting r) → Passes (.abort t m) t s) ∧
    (∀ x, held → c.health.sets.getLast? = some x → Acts (.noquick t m) t s (c.onHealth fun h => { h with sets := h.sets.dropLast ++ [{ x with quickOk := false }] })) ∧
    (held → c.health.sets = [] → Passes (.noquick t m) t s)) ∧
  (∀ (t : Nat) (e : WaveEnd) (xs : List BlockTest) (vmin vmax : Nat) (bad : List (Fin 16)) (ok : Bool) (s : State),
    let c := (s.at_ t).chip
    (∀ r, c.health.bist = some r → c.get HL_BSTAT_STATE = 2 → Acts (.bistWaveEnd t e xs vmin vmax) t s (c.endWave r (c.get HL_BSTAT_WAVE) e xs vmin vmax)) ∧
    (c.health.bist = none ∨ c.get HL_BSTAT_STATE ≠ 2 → Passes (.bistWaveEnd t e xs vmin vmax) t s) ∧
    (∀ r, c.health.bist = some r → r.kind = 2 → c.get HL_BSTAT_STATE = 3 → Acts (.restEnd t bad ok) t s ((c.restoreBars (bad.map (·.val))).writeSet ok)) ∧
    ((∀ r, c.health.bist = some r → r.kind ≠ 2) ∨ c.get HL_BSTAT_STATE ≠ 3 → Passes (.restEnd t bad ok) t s)) ∧
  (∀ (c : Chip) (plog : Nat) (e : WaveEnd) (xs : List BlockTest) (vmin vmax : Nat) (b : Blk × Nat),
    let r := waveRec c plog e xs vmin vmax b
    (e = .skipVdd → r.result = 3) ∧ (e = .skipRef → r.result = 4) ∧
    (e ≠ .skipVdd → e ≠ .skipRef → (∀ x ∈ xs, ¬ (x.code = b.1.code ∧ x.inst = b.2)) → r.result = 2) ∧
    (e ≠ .skipVdd → e ≠ .skipRef → ∀ x, xs = [x] → x.code = b.1.code → x.inst = b.2 →
      let whole : Prop := e = .ran ∧ x.count = 2 ^ plog
      let pass : Prop := x.sig = Config.goldenSignature x.code x.inst plog ∧ x.cells = 0
      r.count = x.count ∧ r.sig = x.sig ∧ r.cells = x.cells ∧ (¬ whole → r.result = 2) ∧ (whole → pass → r.result = 0) ∧ (whole → ¬ pass → r.result = 1))) ∧
  (∀ (c : Chip) (stored : Bool),
    (c.health.bist = none → c.writeSet stored = c) ∧
    (∀ r, c.health.bist = some r → ∃ x, (c.writeSet stored).health.latest = some x ∧ (c.writeSet stored).health.bist = none ∧ x.kind = r.kind ∧ x.plog = r.plog ∧
      x.ended = (stored && c.writeTemp) ∧ (c.health.latest = none → x.sseq = 1 ∧ x.slot = 0) ∧
      (∀ y, c.health.latest = some y → x.sseq = (y.sseq + 1) % 2 ^ 32 ∧ x.slot = (y.slot + 1) % 4096))) ∧
  (∀ (t : Nat) (m : Fin 8) (off : BitVec 4) (s : State),
    let c := (s.at_ t).chip
    let old := c.get HL_PCTL_RGOFF
    let asked := (List.range 4).filter fun n => bit off.toNat n && !bit old n
    let back := (List.range 4).filter fun n => !bit off.toNat n && bit old n
    let may (n : Nat) : Prop := c.get SEQ_PSTAT_OPEN = 0 ∧ (∀ j < 4, c.stage.active.enabled (4 * n + j) = false) ∧ (∀ j < 6, c.get (LQ_CFG_EN (6 * n + j)) = 0) ∧ ∀ r, c.health.bist = some r → r.kind ≠ 2
    let d := c.forAll (asked.filter fun n => c.mayPowerOff n) fun c n => (c.setBit HL_PCTL_RGOFF n true).askPower n (some false)
    let d := d.forAll back fun c n => (c.setBit HL_PCTL_RGOFF n false).askPower n (some true)
    c.mayWrite m .hl 0 0x54 = true → c.reachable .hl 0 = true →
      (∀ n, c.mayPowerOff n = true ↔ may n) ∧ ((∀ n ∈ asked, may n) → Acts (.rgoff t m off) t s d) ∧ ((∃ n ∈ asked, ¬ may n) → Acts (.rgoff t m off) t s (d.raise .hl 0 { src := 13 }))) ∧
  (∀ (t : Nat) (n : Fin 4) (bad : List (Fin 16)) (d : Fin 8) (s : State),
    let e := Instr.regionPowerDone t n bad
    let c := (s.at_ t).chip
    let late : Prop := 3 ≤ d.val ∧ ∃ x ∈ c.health.powerReq, x.1 = d.val - 3 ∧ x.2.1 = true ∧ x.2.2 + 20000000 ≤ c.ns
    let starting : Prop := c.get HL_PSTAT_STATE = 1 ∧ d.val ≠ 0 ∧ bit (c.get HL_PSTAT_DOMAIN_ON) d = true
    (c.powerAsked n = none → Passes e t s) ∧
    let off := ((c.askPower n none).clearRegion n).setBit HL_PSTAT_DOMAIN_ON (3 + n) false
    (c.powerAsked n = some false → Acts e t s (off.forAll (((List.range 24).map (24 * n.val + ·)).filter fun l => off.laneState l ≠ 0) Chip.laneOff)) ∧
    (c.powerAsked n = some true → Acts e t s
      ((((c.askPower n none).setBit HL_PSTAT_DOMAIN_ON (3 + n) true).restoreBars ((bad.map (·.val)).filter fun k => k / 4 = n.val)).regionLanes n true)) ∧
    (late → Acts (.domainOnTimeout t d) t s ((c.askPower (d.val - 3) none).raise .hl 0 { src := 15 })) ∧
    (¬ late → starting → Acts (.domainOnTimeout t d) t s ((c.setBit HL_PSTAT_DOMAIN_ON d false).raise .hl 0 { src := 15 })) ∧
    (¬ late → ¬ starting → Passes (.domainOnTimeout t d) t s)) ∧
  (∀ (t : Nat) (m : Fin 8) (ok : Bool) (s : State),
    let e := Instr.shutdown t m
    let a := s.at_ t
    let c := a.chip
    let ready : Prop := c.get HL_PSTAT_STATE = 2
    let busy : Prop := (c.role = 0 ∨ c.role = 1) ∧ c.peerStandby = false ∧ c.get SEQ_PSTAT_OPEN ≠ 0 ∨ ∃ r, c.health.bist = some r ∧ r.kind = 2
    let ended : Prop := c.get HL_PSTAT_STATE = 3 ∧ c.get NV_STAT_BUSY = 0 ∧ (c.health.bist = none ∨ c.get HL_BSTAT_STATE = 3)
    (c.mayWrite m .hl 0 0x54 = true → c.reachable .hl 0 = true →
      (¬ ready → Passes e t s) ∧ (ready → busy → Acts e t s (c.raise .hl 0 { src := 14 })) ∧
      (∀ h, ready → ¬ busy → c.twin.handoff = some h → Acts e t s { c with twin := { c.twin with handoff := some { h with forShutdown := true } } }) ∧
      (ready → ¬ busy → c.twin.handoff = none → c.peerStandby = true → Acts e t s (c.startHandoff true)) ∧
      (ready → ¬ busy → c.twin.handoff = none → c.peerStandby = false → Acts e t s c.beginShutdown)) ∧
    (ended → exec (.shutdownDone t ok) s = .next (powerDown 4 (a.onChip fun c => (c.writeSet ok).event 1 60 0x0601 ((c.writeSet ok).get HL_BSET_SSEQ)))) ∧
    (¬ ended → Passes (.shutdownDone t ok) t s)) ∧
  (∀ (t : Nat) (ftm roped pref ok : Bool) (vcore : Nat) (ref : Option Int) (s : State),
    let e := Instr.pwrgoodRise t ftm roped pref vcore ref
    let a := s.at_ t
    let c := a.chip
    let n (b : Bool) : Nat := if b = true then 1 else 0
    let straps := ((c.set SYS_STRAP_FTM (n ftm)).set SYS_STRAP_ROPED_EN (n roped)).set SYS_STRAP_ROPE_PREF (n pref)
    let supply : Prop := 720 ≤ vcore ∧ vcore ≤ 800 ∧ ∃ p, ref = some p ∧ -300 ≤ p ∧ p ≤ 300
    let allows (x : RecordSet) : Prop := x.kind = 1 ∧ x.ended = true ∧ x.quickOk = true ∧ 20 ≤ x.plog ∧ x.qsn < 15 ∧ x.recs ≠ [] ∧ ∀ y ∈ x.recs, y.result = 0
    let quick : Prop := ftm = false ∧ supply ∧ ∃ x, c.health.latest = some x ∧ allows x
    let done : Prop := c.health.powerGood = true ∧ c.health.silent = false ∧ c.get HL_PSTAT_STATE = 1 ∧ c.twin.deciding = false ∧ c.twin.needDt = false ∧
      (c.health.bist = none ∨ c.get HL_BSTAT_STATE = 3)
    (c.health.powerGood = true → Passes e t s) ∧ (c.health.powerGood = false → quick → exec e s = .next (startUp true { a with chip := straps })) ∧
    (c.health.powerGood = false → ¬ quick → exec e s = .next (startUp false { a with chip := straps })) ∧
    (done → Acts (.startupReady t ok) t s (c.ready ok)) ∧ (¬ done → Passes (.startupReady t ok) t s) ∧
    (c.health.powerGood = true → exec (.pwrgoodFall t) s = .next (powerFall a)) ∧ (c.health.powerGood = false → Passes (.pwrgoodFall t) t s) ∧
    Acts (.refclkLoss t) t s (((c.forAll (setBits 6 c.health.refRun) fun c n => c.emit .refout n [0]).onHealth fun h => { h with refRun := 0 }).raise .sys 0 { src := 2 })) ∧
  (∀ (t : Nat) (s : State),
    let a := s.at_ t
    let c := a.chip
    let due (x : Nat) : Prop := c.health.shutAt = some x ∧ c.health.silent = false ∧
      (x + 1000000 ≤ c.ns ∨ c.get TW_STAT_HANDOFF = 0 ∧ (c.health.shutHandoff = true ∨ x + 100000 ≤ c.ns))
    ((∃ x, due x) → exec (.shutdownPowerDown t) s = .next ((powerDown 1 a).onChip fun c => ((c.latchRs HL_THSTAT_PREV_SHUT).set HL_THSTAT_PREV_PWRFAIL 0).emit .thermtrip 0 [0])) ∧
    ((∀ x, ¬ due x) → Passes (.shutdownPowerDown t) t s)) ∧
  (∀ (keep : Nat → Bool) (s : State),
    let d := powerLost keep s
    d.mem = {} ∧ d.pending = s.pending ∧ d.chip.stage.bankA = s.chip.stage.bankA ∧ d.chip.stage.bankB = s.chip.stage.bankB ∧ d.chip.health = s.chip.health ∧
    (∀ f : Fld, keep f.key = true → d.chip.get f = s.chip.get f) ∧ (∀ f : Fld, keep f.key = false → d.chip.get f = f.reset))

/-- R11, R13, R197, R403, R411, R417, R435 to R444, R447, R464 to R466: a write of 1s to FSTAT clears the bits whose source does not occur in the same clock. An injection is
armed for a source with a checker and a real cell, in a roped unit or with FTM high, else source 23 says so. A sample takes the greatest reading, with 150 °C in
place of a broken one; a level sets after 256 samples at its set value and clears after its run below its clear value. Each throttle period takes the
first step allowed, each release period takes back the last. LSPD sends the speed limit with its parity. -/
def Obligations.FaultRegistersAndThermal : Prop :=
  (∀ (t : Nat) (m : Fin 8) (addr v : BitVec 32) (b : Blk) (i : Nat) (s : State),
    let c := (s.at_ t).chip
    let xs := (setBits 32 (c.get (FSTAT_STICKY b i))).filter fun n => bit v.toNat n && FMap.get 0 c.faults.last (b.window i * 32 + n) ≠ c.clock
    let ack := (c.forAll xs fun c n => ((c.setBit (FSTAT_STICKY b i) n false).setBit (FINJST_INJONLY b i) n false).setBit (FESC_ESC b i) n false).refreshSum b i
    let held (off : Nat) : Prop := c.mayWrite m b i off = true ∧ c.reachable b i = true
    let w := v.toNat ||| 2 ^ 31
    let d := if bit w 30 = true then c.set (FINJ_ARM b i) 0 else c
    let f := (d.set (FINJ_SRC b i) (bits w 0 5)).set (FINJ_CELL b i) (bits w 8 16)
    let cell := bits w 8 16
    let good : Prop := (f.get SYS_STRAP_ROPED_EN ≠ 0 ∨ f.get SYS_STRAP_FTM ≠ 0) ∧ hasChecker b (bits w 0 5) = true ∧ (cell = 0xFFFF ∨ cell < b.cells)
    let on := f.armInj b i (bits w 0 5) cell
    (blockAt addr.toNat = none → Acts (.faultAck t m addr v) t s (c.noticeAccess addr.toNat) ∧ Acts (.faultInjectArm t m addr v) t s (c.noticeAccess addr.toNat) ∧
      Acts (.faultInjectCancel t m addr) t s (c.noticeAccess addr.toNat)) ∧
    (blockAt addr.toNat = some (.tn, i) → Passes (.faultAck t m addr v) t s ∧ Passes (.faultInjectArm t m addr v) t s ∧ Passes (.faultInjectCancel t m addr) t s) ∧
    (blockAt addr.toNat = some (b, i) → b ≠ .tn →
      (offIn b i addr.toNat = 0x10 → held 0x10 → Acts (.faultAck t m addr v) t s ack) ∧
      (offIn b i addr.toNat ≠ 0x10 → Passes (.faultAck t m addr v) t s) ∧
      (offIn b i addr.toNat = 0x38 → held 0x38 →
        (d.get (FINJ_ARM b i) ≠ 0 → Acts (.faultInjectArm t m addr v) t s d) ∧
        (d.get (FINJ_ARM b i) = 0 → ¬ good → Acts (.faultInjectArm t m addr v) t s (f.raise .hl 0 { src := 23 })) ∧
        (d.get (FINJ_ARM b i) = 0 → good → Acts (.faultInjectArm t m addr v) t s (if b = .sys then on.inject b i [1] else on)) ∧
        Acts (.faultInjectCancel t m addr) t s (c.set (FINJ_ARM b i) 0)) ∧
      (offIn b i addr.toNat ≠ 0x38 → Passes (.faultInjectArm t m addr v) t s ∧ Passes (.faultInjectCancel t m addr) t s))) ∧
  (∀ (t : Nat) (temps : List (Option Int)) (vcore : Nat) (out : Bool) (s : State),
    let e := Instr.thermalSample t temps vcore out
    let a := s.at_ t
    let d := a.chip.thermalSample temps vcore out
    let cleared : Prop := d.health.shutAt ≠ none ∧ 200000 ≤ FMap.get 0 d.health.runClr 2
    (a.chip.health.powerGood = false → Passes e t s) ∧ (a.chip.health.powerGood = true → ¬ cleared → Acts e t s d) ∧
    (a.chip.health.powerGood = true → cleared → d.health.silent = false → Acts e t s (d.onHealth fun h => { h with shutAt := none })) ∧
    (a.chip.health.powerGood = true → cleared → d.health.silent = true → exec e s = .next (shutOverRestart { a with chip := d }))) ∧
  (∀ (temps : List (Option Int)) (xs : List (Int × Bool)),
    (judged temps).length = 24 ∧
    (∀ i < 24, (judged temps)[i]? = some (match temps.getD i none with | some v => if -880 ≤ v ∧ v ≤ 2400 then (v, false) else (2400, true) | none => (2400, true))) ∧
    (xs ≠ [] → (∃ x, xs[(hottest xs).2]? = some x ∧ x.1 = (hottest xs).1) ∧ (∀ x ∈ xs, x.1 ≤ (hottest xs).1) ∧
      ∀ j x, xs[j]? = some x → x.1 = (hottest xs).1 → (hottest xs).2 ≤ j)) ∧
  (∀ (c : Chip) (th : Int) (i : Nat),
    let r := c.levelSample i th
    let up := if levelSet i ≤ th then FMap.get 0 c.health.runSet i + 1 else 0
    let dn := if th < levelClear i then FMap.get 0 c.health.runClr i + 1 else 0
    (r.1 = true ↔ 256 ≤ up) ∧ (r.2.1 = true ↔ levelRun i ≤ dn) ∧ FMap.get 0 r.2.2.health.runSet i = min up 256 ∧ FMap.get 0 r.2.2.health.runClr i = min dn 200000 ∧
    r.2.2.get HL_THSTAT_WARN = c.get HL_THSTAT_WARN) ∧
  (∀ (t : Nat) (s : State),
    let c := (s.at_ t).chip
    let due (f : Fld) : Prop := c.health.stepAt + 1000000 * c.get f ≤ c.ns
    let throttles : Prop := c.get HL_THSTAT_THROT ≠ 0 ∧ due HL_THCFG_THR_PER
    let releases : Prop := c.get HL_THR_RELEASING ≠ 0 ∧ c.get HL_THSTAT_THROT = 0 ∧ due HL_THCFG_THR_RPER
    let d := (c.onHealth fun h => { h with stepAt := c.ns }).sampleDemand
    let took (n : Nat) : Prop := bit d.health.steps (n - 1) = true
    let ks := d.enabledBars.filter d.skipAllowed
    let hot (f : Chip) : Prop := Acts (.throttleStep t) t s f.refreshSlow
    let late : Prop := took 1 ∧ (took 2 ∨ d.demandAllows 2 = false) ∧ took 3 ∧ (¬ took 2 ∨ took 4 ∨ d.demandAllows 4 = false)
    (¬ throttles → Passes (.throttleStep t) t s) ∧ (throttles → ¬ took 1 → hot (d.divide 1 HL_THR_DIV_CR 1)) ∧
    (throttles → took 1 → ¬ took 2 → d.demandAllows 2 = true → hot (d.divide 2 HL_THR_DIV_MR 1)) ∧
    (throttles → took 1 → took 2 ∨ d.demandAllows 2 = false → ¬ took 3 → hot (d.divide 3 HL_THR_DIV_CR 2)) ∧
    (throttles → took 1 → took 2 → took 3 → ¬ took 4 → d.demandAllows 4 = true → hot (d.divide 4 HL_THR_DIV_MR 2)) ∧
    (throttles → late → ks ≠ [] → hot (d.forAll ks fun c k => c.set (PWR_SKIP .be k) (c.get (PWR_SKIP .be k) + 1))) ∧
    (throttles → late → ks = [] → hot (if d.step6Due = true then d.lowerVth else d)) ∧
    (releases → Acts (.throttleReleaseStep t) t s c.releaseStep.refreshSlow) ∧ (¬ releases → Passes (.throttleReleaseStep t) t s)) ∧
  (∀ c : Chip,
    let d := c.onHealth fun h => { h with stepAt := c.ns }
    let v := d.get HL_THR_VTH
    let ks := (List.range 16).filter fun k => d.is (PWR_SKIP .be k)
    let step (n : Nat) : Prop := bit d.health.steps (n - 1) = true
    let undo (n : Nat) (f : Fld) (w : Nat) : Chip := (d.onHealth fun h => { h with steps := h.steps &&& (15 - 2 ^ (n - 1)) }).set f w
    let shown (f : Chip) : Prop := c.releaseStep = f.set HL_THR_RELEASING (b2n f.throttled)
    let up := max (v + 1) (v * (100 + d.get HL_THCFG_VSTEP) / 100)
    (v ≠ 0xFFFFFF → shown (d.set HL_THR_VTH (if d.speedLimit ≤ up then 0xFFFFFF else up))) ∧
    (v = 0xFFFFFF → ks ≠ [] → shown (d.forAll ks fun c k => c.set (PWR_SKIP .be k) (c.get (PWR_SKIP .be k) - 1))) ∧
    (v = 0xFFFFFF → ks = [] → step 4 → shown (undo 4 HL_THR_DIV_MR 1)) ∧ (v = 0xFFFFFF → ks = [] → ¬ step 4 → step 3 → shown (undo 3 HL_THR_DIV_CR 1)) ∧
    (v = 0xFFFFFF → ks = [] → ¬ step 4 → ¬ step 3 → step 2 → shown (undo 2 HL_THR_DIV_MR 0)) ∧
    (v = 0xFFFFFF → ks = [] → ¬ step 4 → ¬ step 3 → ¬ step 2 → step 1 → shown (undo 1 HL_THR_DIV_CR 0)) ∧
    (v = 0xFFFFFF → ks = [] → ¬ step 4 → ¬ step 3 → ¬ step 2 → ¬ step 1 → shown d)) ∧
  (∀ (t : Nat) (s : State),
    let c := (s.at_ t).chip.refreshSlow
    let drives : Prop := (c.role = 0 ∨ c.role = 1) ∧ c.regionOn 5 = true
    let bars := c.enabledBars
    let binds : Prop := c.thermBinds = true ∧ bars ≠ []
    let limit := if bars = [] then 0 else min 0xFFFFFF (if binds then c.get HL_THR_VTH else c.speedLimit)
    let w := (if c.health.slow = true then 1 else 0) * 2 ^ 31 + (if binds then 1 else 0) * 2 ^ 28 + c.health.lspdSeq % 16 * 2 ^ 24 + limit
    let d := (c.emit .lspd 0 [w, popCount 32 w % 2]).onHealth fun h => { h with lspdSeq := (h.lspdSeq + 1) % 16 }
    (¬ drives → Acts (.lspdFrame t) t s c) ∧
    (drives → Acts (.lspdFrame t) t s ((((d.set LS_LSPD_SLOW (bits w 31 1)).set LS_LSPD_CAUSE (bits w 28 3)).set LS_LSPD_SEQ (bits w 24 4)).set LS_LSPD_LIMIT (bits w 0 24)))) ∧
  (∀ (t : Nat) (m : Fin 8) (k : Fin 16) (en : BitVec 6) (s : State),
    let c := (s.at_ t).chip
    let d := (c.set LS_REFOUT_EN en.toNat).onHealth fun h => { h with refRun := en.toNat }
    (c.mayWrite m .be k 0x48 = true → c.reachable .be k = true → Acts (.minClr t m k) t s (c.set (BE_HRMIN_MIN k) (c.get (BE_HR_HEADROOM k)))) ∧
    (c.mayWrite m .ls 0 0x44 = true → c.reachable .ls 0 = true → Acts (.refoutEnable t m en) t s
      (d.forAll ((List.range 6).filter fun n => bit c.health.refRun n ≠ bit en.toNat n) fun c n => c.emit .refout n [b2n (bit en.toNat n)])))

/-! ### The block as a whole -/

/-- A step takes the command at the front of the queue and runs it with the queue's rest. With nothing waiting one REFCLK period passes: DT and
what follows it move, the queue and every memory stay (the model's choice, assumption 2). -/
def Obligations.StepRunsFrontCommand : Prop :=
  (∀ (i : Instr) (s : State), step { s with pending := i :: s.pending } = exec i s) ∧
  (∀ s : State, s.pending = [] → ∃ u, step s = .next u ∧ u.pending = [] ∧ u.mem = s.mem ∧ u = s.tick)

/-- Table 3-3, R61, R62: the word of an instruction keeps every bit of it. Each of the 2^64 words is read as one well-formed instruction that
is written back as that word, an opcode with no instruction as its trap; and a well-formed instruction that has a word is read back from
it with every operand, its reads clean. -/
def Obligations.InstructionWordsRoundTrip : Prop :=
  (∀ (n : CtxId) (w : BitVec 64), (decodeWord n w).wf = true ∧ encodeWord (decodeWord n w) = some (n, w)) ∧
  (∀ (i : Instr) (n : CtxId) (w : BitVec 64), i.wf = true → encodeWord i = some (n, w) → decodeWord n w = i.clean)

/-- Every command goes on to a next state, whatever the state, and leaves the queue of waiting commands as it is; and unless it is one of
`Instr.stores`, every byte of D-space and of the job store and every word of program memory. The one exception is a private JTAG
instruction with FTM high, which is refused: the spec does not say what it does (R466). -/
def Obligations.EveryCommandGoesOn : Prop :=
  ∀ (i : Instr) (s : State),
    (∃ t, i = .jtagInstruction t .other ∧ (s.at_ t).chip.get SYS_STRAP_FTM ≠ 0 ∧ exec i s = .refused .jtagPrivate) ∨
    ((∀ t, i = .jtagInstruction t .other → (s.at_ t).chip.get SYS_STRAP_FTM = 0) ∧
      ∃ u, exec i s = .next u ∧ u.pending = s.pending ∧ (i.stores = false → u.mem = s.mem))

/-- Program memory, D-space and the job store keep their canonical form in every step from every state that has it: addresses
rise strictly and no entry is 0, so equal memories are equal data. -/
def Obligations.EveryStepKeepsMemoryCanonical : Prop :=
  ∀ (s u : State), s.mem.wf → step s = .next u → u.mem.wf

/-- After reset the memories have their canonical form and list nothing, no command waits and DT is 0 (R10); no stream is open and no
image is loaded. -/
def Obligations.ResetIsCanonical : Prop :=
  State.reset.mem.wf ∧ State.reset.pending = [] ∧ State.reset.chip.dt = 0 ∧ State.reset.chip.get SEQ_PSTAT_OPEN = 0 ∧
  State.reset.chip.get SEQ_STAT_IMG_LOADED = 0 ∧ (∀ a, State.reset.mem.data.byte a = 0) ∧ ∀ a, State.reset.mem.job.byte a = 0

/-- R60: a load or store, atomic or not, whose address is not aligned to its width raises ALIGN, in D-space and in the job store, and
has no effect: no memory, no register and not the program counter changes. -/
def Obligations.MisalignedAccessTraps : Prop :=
  ∀ (n : CtxId) (f : Fields) (ecc : Ecc) (s : State), Ready n s →
    let a := dataAddress n f s
    let k := 2 ^ (f.sub.toNat % 4)
    let traps (i : Instr) : Prop := ∃ t, exec i s = .next t ∧ Trapped n ALIGN s t
    (resvRaw f 7 true true false true = [] → a % k ≠ 0 → traps (.ldd n f ecc) ∧ traps (.ldj n f)) ∧
    (resvRaw f 3 false true true true = [] → a % k ≠ 0 → traps (.std n f) ∧ traps (.stj n f)) ∧
    (resvRaw f 0 true true true true = [] → a % 8 ≠ 0 → traps (.aadd n f ecc) ∧ traps (.acas n f ecc))

/-- R466: with FTM low and a stream open the TAP captures BYPASS in place of EXTEST, CLAMP or HIGHZ, and no instruction leaves one of
the three in force; a private one is not decoded with FTM low, which then selects BYPASS (the model's choice, PRESUMED, assumption 49).
Every other instruction is captured, and every one of them with FTM high or, private ones apart, with no stream open; with FTM high a
private one is refused, since the spec does not say what it does. -/
def Obligations.JtagCannotTakeBallsDuringRun : Prop :=
  ∀ (t : Nat) (i : JtagOp) (s : State),
    let c := (s.at_ t).chip
    let test : Prop := c.get SYS_STRAP_FTM ≠ 0
    let ball (i : JtagOp) : Prop := i = .extest ∨ i = .clamp ∨ i = .highz
    let takes (j : JtagOp) : Prop := Acts (.jtagInstruction t i) t s (c.onHealth fun h => { h with jtag := jtagCode j })
    (¬ test → c.get SEQ_PSTAT_OPEN ≠ 0 → ball i → takes .bypass) ∧
    (¬ test → c.get SEQ_PSTAT_OPEN ≠ 0 → ∃ u, exec (.jtagInstruction t i) s = .next u ∧ ∀ j, ball j → u.chip.health.jtag ≠ jtagCode j) ∧
    (¬ test → i = .other → takes .bypass) ∧
    (i ≠ .other → test ∨ ¬ ball i ∨ c.get SEQ_PSTAT_OPEN = 0 → takes i) ∧
    (test → i = .other → exec (.jtagInstruction t i) s = .refused .jtagPrivate)
end

