-- ==== Sys2Proof/Laws/Maps.lean ====
section
/-!
SUPPORT. Sys2Proof/Laws/Maps.lean: the laws of sparse maps and byte memories: a read after a write, every other place left
alone, and the canonical form kept.
-/
namespace Sys2Proof.Machine

/-! ### Reading -/

@[simp] theorem FMap.get_nil {α : Type} (d : α) (k : Nat) : FMap.get d [] k = d := rfl

theorem FMap.get_insert {α : Type} (d : α) (m : FMap α) (k : Nat) (v : α) (i : Nat) :
    FMap.get d (FMap.insert m k v) i = if i = k then v else FMap.get d m i := by
  induction m with
  | nil => simp only [FMap.insert, FMap.get]
  | cons e m ih =>
    obtain ⟨j, u⟩ := e
    simp only [FMap.insert]
    split
    · simp only [FMap.get]
    · split
      · subst_vars; simp only [FMap.get]; split <;> simp_all
      · simp only [FMap.get, ih]; split <;> split <;> simp_all

theorem FMap.get_filter_ne {α : Type} (d : α) (m : FMap α) (k i : Nat) :
    FMap.get d (m.filter fun e => decide (e.1 ≠ k)) i = if i = k then d else FMap.get d m i := by
  induction m with
  | nil => simp [FMap.get]
  | cons e m ih =>
    obtain ⟨j, u⟩ := e
    by_cases h : j = k
    · subst h; simp only [List.filter, ne_eq, not_true_eq_false, decide_false, ih, FMap.get]; split <;> simp_all
    · simp only [List.filter, ne_eq, h, not_false_eq_true, decide_true, FMap.get, ih]
      split <;> simp_all

/-- A read at the written key gives the value written. -/
@[simp] theorem FMap.get_put_same {α : Type} [DecidableEq α] (d : α) (m : FMap α) (k : Nat) (v : α) :
    FMap.get d (FMap.put d m k v) k = v := by
  unfold FMap.put
  split
  · next h => rw [FMap.get_filter_ne, if_pos rfl, h]
  · rw [FMap.get_insert, if_pos rfl]

/-- A read at any other key is as before, whatever defaults the write and the read use. -/
theorem FMap.get_put_ne {α : Type} [DecidableEq α] (d d' : α) (m : FMap α) (k i : Nat) (v : α) (h : i ≠ k) :
    FMap.get d (FMap.put d' m k v) i = FMap.get d m i := by
  unfold FMap.put
  split
  · rw [FMap.get_filter_ne, if_neg h]
  · rw [FMap.get_insert, if_neg h]

theorem FMap.get_put {α : Type} [DecidableEq α] (d : α) (m : FMap α) (k i : Nat) (v : α) :
    FMap.get d (FMap.put d m k v) i = if i = k then v else FMap.get d m i := by
  split
  · next h => subst h; exact FMap.get_put_same ..
  · next h => exact FMap.get_put_ne _ _ _ _ _ _ h

/-! ### The canonical form -/

theorem FMap.mem_insert {α : Type} {m : FMap α} {k : Nat} {v : α} {e : Nat × α} (h : e ∈ FMap.insert m k v) :
    e = (k, v) ∨ e ∈ m := by
  induction m with
  | nil => simpa [FMap.insert] using h
  | cons a m ih =>
    obtain ⟨j, u⟩ := a
    simp only [FMap.insert] at h
    split at h
    · simpa using h
    · split at h
      · rcases List.mem_cons.1 h with h | h
        · exact .inl h
        · exact .inr (List.mem_cons_of_mem _ h)
      · rcases List.mem_cons.1 h with h | h
        · exact .inr (h ▸ List.mem_cons_self)
        · exact (ih h).imp_right (List.mem_cons_of_mem _)

theorem FMap.wf_filter {α : Type} {d : α} (p : Nat × α → Bool) {m : FMap α} (h : FMap.wf d m) :
    FMap.wf d (m.filter p) :=
  ⟨h.1.filter p, fun e he => h.2 e (List.mem_filter.1 he).1⟩

theorem FMap.wf_keep {α : Type} {d : α} (p : Nat → Bool) {m : FMap α} (h : FMap.wf d m) : FMap.wf d (FMap.keep p m) :=
  FMap.wf_filter _ h

theorem FMap.rising_insert {α : Type} {m : FMap α} {k : Nat} (v : α) (h : m.Pairwise fun a b => a.1 < b.1) :
    (FMap.insert m k v).Pairwise fun a b => a.1 < b.1 := by
  induction m with
  | nil => simp [FMap.insert]
  | cons e m ih =>
    obtain ⟨j, u⟩ := e
    obtain ⟨h1, h2⟩ := List.pairwise_cons.1 h
    simp only [FMap.insert]
    split
    · next hlt =>
      refine List.pairwise_cons.2 ⟨fun x hx => ?_, h⟩
      rcases List.mem_cons.1 hx with rfl | hx
      · exact hlt
      · exact Nat.lt_trans hlt (h1 x hx)
    · split
      · next he => subst he; exact List.pairwise_cons.2 ⟨h1, h2⟩
      · next hn he =>
        refine List.pairwise_cons.2 ⟨fun x hx => ?_, ih h2⟩
        rcases FMap.mem_insert hx with rfl | hx
        · show j < k; omega
        · exact h1 x hx

theorem FMap.wf_insert {α : Type} {d : α} {m : FMap α} {k : Nat} {v : α} (hv : v ≠ d) (h : FMap.wf d m) :
    FMap.wf d (FMap.insert m k v) :=
  ⟨FMap.rising_insert v h.1, fun e he => by
    rcases FMap.mem_insert he with rfl | he
    · exact hv
    · exact h.2 e he⟩

/-- Putting keeps the canonical form. -/
theorem FMap.wf_put {α : Type} [DecidableEq α] {d : α} {m : FMap α} (k : Nat) (v : α) (h : FMap.wf d m) :
    FMap.wf d (FMap.put d m k v) := by
  unfold FMap.put
  split
  · exact FMap.wf_filter _ h
  · next hv => exact FMap.wf_insert hv h

/-! ### Byte memories -/

/-- Storing bytes keeps the canonical form. -/
theorem ByteMem.wf_write (m : ByteMem) (a : Nat) (bs : List Byte) (h : m.wf) : (m.write a bs).wf := by
  induction bs generalizing m a with
  | nil => exact h
  | cons b bs ih => exact ih _ _ (FMap.wf_put _ _ h)

/-- A byte outside the stored ones reads as before. -/
theorem ByteMem.byte_write_out (m : ByteMem) (a : Nat) (bs : List Byte) (i : Nat) (h : i < a ∨ a + bs.length ≤ i) :
    (m.write a bs).byte i = m.byte i := by
  induction bs generalizing m a with
  | nil => rfl
  | cons b bs ih =>
    simp only [List.length_cons] at h
    rw [ByteMem.write, ih _ _ (by omega)]
    exact FMap.get_put_ne _ _ _ _ _ _ (by omega)

/-- A stored byte reads as stored. -/
theorem ByteMem.byte_write_in (m : ByteMem) (a : Nat) (bs : List Byte) (i : Nat) (h : i < bs.length) :
    (m.write a bs).byte (a + i) = bs[i] := by
  induction bs generalizing m a i with
  | nil => simp at h
  | cons b bs ih =>
    cases i with
    | zero =>
      rw [ByteMem.write, ByteMem.byte_write_out _ _ _ _ (.inl (by omega))]
      exact FMap.get_put_same ..
    | succ i =>
      rw [ByteMem.write, show a + (i + 1) = a + 1 + i by omega, ih _ _ _ (by simpa using h)]
      simp

@[simp] theorem ByteMem.length_read (m : ByteMem) (a n : Nat) : (m.read a n).length = n := by simp [ByteMem.read]

/-- Reading back what was stored gives it. -/
theorem ByteMem.read_write (m : ByteMem) (a : Nat) (bs : List Byte) : (m.write a bs).read a bs.length = bs := by
  apply List.ext_getElem (by simp)
  intro i h1 h2
  simp only [ByteMem.read, List.getElem_map, List.getElem_range]
  exact ByteMem.byte_write_in _ _ _ _ h2

/-! ### Byte order -/

@[simp] theorem length_le (n v : Nat) : (le n v).length = n := by
  induction n generalizing v with
  | zero => rfl
  | succ n ih => simp [le, ih]

/-- The bytes of a number spell it, modulo their count. -/
theorem unle_le (n v : Nat) : unle (le n v) = v % 2 ^ (8 * n) := by
  induction n generalizing v with
  | zero => simp [le, unle, Nat.mod_one]
  | succ n ih =>
    simp only [le, unle, ih, BitVec.toNat_ofNat]
    have : 2 ^ (8 * (n + 1)) = 256 * 2 ^ (8 * n) := by rw [Nat.mul_succ, Nat.pow_add]; omega
    rw [this, Nat.mod_mul]

end Sys2Proof.Machine
end

