-- ==== Sys2Proof/Laws/State.lean ====
section
/-!
SUPPORT. Sys2Proof/Laws/State.lean: one lemma per field per update of the state, true by rfl; and what a read of a register
field, of gI, of wI, of a bar, a queue, a session, a dispatch entry or a lane gives after an update.
-/
namespace Sys2Proof.Machine

variable (s : State) (c : Chip)

/-! ### The state's own fields -/

@[simp] theorem State.onChip_chip (g : Chip → Chip) : (s.onChip g).chip = g s.chip := rfl
@[simp] theorem State.onChip_mem (g : Chip → Chip) : (s.onChip g).mem = s.mem := rfl
@[simp] theorem State.onChip_pending (g : Chip → Chip) : (s.onChip g).pending = s.pending := rfl

/-! ### set -/

@[simp] theorem Chip.set_latch (f : Fld) (v : Nat) : (c.set f v).latch = c.latch := rfl
@[simp] theorem Chip.set_held (f : Fld) (v : Nat) : (c.set f v).held = c.held := rfl
@[simp] theorem Chip.set_dt (f : Fld) (v : Nat) : (c.set f v).dt = c.dt := rfl
@[simp] theorem Chip.set_free (f : Fld) (v : Nat) : (c.set f v).free = c.free := rfl
@[simp] theorem Chip.set_wire (f : Fld) (v : Nat) : (c.set f v).wire = c.wire := rfl
@[simp] theorem Chip.set_seq (f : Fld) (v : Nat) : (c.set f v).seq = c.seq := rfl
@[simp] theorem Chip.set_strm (f : Fld) (v : Nat) : (c.set f v).strm = c.strm := rfl
@[simp] theorem Chip.set_vd (f : Fld) (v : Nat) : (c.set f v).vd = c.vd := rfl
@[simp] theorem Chip.set_stage (f : Fld) (v : Nat) : (c.set f v).stage = c.stage := rfl
@[simp] theorem Chip.set_store (f : Fld) (v : Nat) : (c.set f v).store = c.store := rfl
@[simp] theorem Chip.set_hosts (f : Fld) (v : Nat) : (c.set f v).hosts = c.hosts := rfl
@[simp] theorem Chip.set_faults (f : Fld) (v : Nat) : (c.set f v).faults = c.faults := rfl
@[simp] theorem Chip.set_time (f : Fld) (v : Nat) : (c.set f v).time = c.time := rfl
@[simp] theorem Chip.set_bars (f : Fld) (v : Nat) : (c.set f v).bars = c.bars := rfl
@[simp] theorem Chip.set_colour (f : Fld) (v : Nat) : (c.set f v).colour = c.colour := rfl
@[simp] theorem Chip.set_fire (f : Fld) (v : Nat) : (c.set f v).fire = c.fire := rfl
@[simp] theorem Chip.set_motion (f : Fld) (v : Nat) : (c.set f v).motion = c.motion := rfl
@[simp] theorem Chip.set_lanes (f : Fld) (v : Nat) : (c.set f v).lanes = c.lanes := rfl
@[simp] theorem Chip.set_twin (f : Fld) (v : Nat) : (c.set f v).twin = c.twin := rfl
@[simp] theorem Chip.set_health (f : Fld) (v : Nat) : (c.set f v).health = c.health := rfl

/-! ### setS -/

@[simp] theorem Chip.setS_latch (f : Fld) (v : Int) : (c.setS f v).latch = c.latch := rfl
@[simp] theorem Chip.setS_held (f : Fld) (v : Int) : (c.setS f v).held = c.held := rfl
@[simp] theorem Chip.setS_dt (f : Fld) (v : Int) : (c.setS f v).dt = c.dt := rfl
@[simp] theorem Chip.setS_free (f : Fld) (v : Int) : (c.setS f v).free = c.free := rfl
@[simp] theorem Chip.setS_wire (f : Fld) (v : Int) : (c.setS f v).wire = c.wire := rfl
@[simp] theorem Chip.setS_seq (f : Fld) (v : Int) : (c.setS f v).seq = c.seq := rfl
@[simp] theorem Chip.setS_strm (f : Fld) (v : Int) : (c.setS f v).strm = c.strm := rfl
@[simp] theorem Chip.setS_vd (f : Fld) (v : Int) : (c.setS f v).vd = c.vd := rfl
@[simp] theorem Chip.setS_stage (f : Fld) (v : Int) : (c.setS f v).stage = c.stage := rfl
@[simp] theorem Chip.setS_store (f : Fld) (v : Int) : (c.setS f v).store = c.store := rfl
@[simp] theorem Chip.setS_hosts (f : Fld) (v : Int) : (c.setS f v).hosts = c.hosts := rfl
@[simp] theorem Chip.setS_faults (f : Fld) (v : Int) : (c.setS f v).faults = c.faults := rfl
@[simp] theorem Chip.setS_time (f : Fld) (v : Int) : (c.setS f v).time = c.time := rfl
@[simp] theorem Chip.setS_bars (f : Fld) (v : Int) : (c.setS f v).bars = c.bars := rfl
@[simp] theorem Chip.setS_colour (f : Fld) (v : Int) : (c.setS f v).colour = c.colour := rfl
@[simp] theorem Chip.setS_fire (f : Fld) (v : Int) : (c.setS f v).fire = c.fire := rfl
@[simp] theorem Chip.setS_motion (f : Fld) (v : Int) : (c.setS f v).motion = c.motion := rfl
@[simp] theorem Chip.setS_lanes (f : Fld) (v : Int) : (c.setS f v).lanes = c.lanes := rfl
@[simp] theorem Chip.setS_twin (f : Fld) (v : Int) : (c.setS f v).twin = c.twin := rfl
@[simp] theorem Chip.setS_health (f : Fld) (v : Int) : (c.setS f v).health = c.health := rfl

/-! ### bump -/

@[simp] theorem Chip.bump_latch (f : Fld) (n : Nat) : (c.bump f n).latch = c.latch := rfl
@[simp] theorem Chip.bump_held (f : Fld) (n : Nat) : (c.bump f n).held = c.held := rfl
@[simp] theorem Chip.bump_dt (f : Fld) (n : Nat) : (c.bump f n).dt = c.dt := rfl
@[simp] theorem Chip.bump_free (f : Fld) (n : Nat) : (c.bump f n).free = c.free := rfl
@[simp] theorem Chip.bump_wire (f : Fld) (n : Nat) : (c.bump f n).wire = c.wire := rfl
@[simp] theorem Chip.bump_seq (f : Fld) (n : Nat) : (c.bump f n).seq = c.seq := rfl
@[simp] theorem Chip.bump_strm (f : Fld) (n : Nat) : (c.bump f n).strm = c.strm := rfl
@[simp] theorem Chip.bump_vd (f : Fld) (n : Nat) : (c.bump f n).vd = c.vd := rfl
@[simp] theorem Chip.bump_stage (f : Fld) (n : Nat) : (c.bump f n).stage = c.stage := rfl
@[simp] theorem Chip.bump_store (f : Fld) (n : Nat) : (c.bump f n).store = c.store := rfl
@[simp] theorem Chip.bump_hosts (f : Fld) (n : Nat) : (c.bump f n).hosts = c.hosts := rfl
@[simp] theorem Chip.bump_faults (f : Fld) (n : Nat) : (c.bump f n).faults = c.faults := rfl
@[simp] theorem Chip.bump_time (f : Fld) (n : Nat) : (c.bump f n).time = c.time := rfl
@[simp] theorem Chip.bump_bars (f : Fld) (n : Nat) : (c.bump f n).bars = c.bars := rfl
@[simp] theorem Chip.bump_colour (f : Fld) (n : Nat) : (c.bump f n).colour = c.colour := rfl
@[simp] theorem Chip.bump_fire (f : Fld) (n : Nat) : (c.bump f n).fire = c.fire := rfl
@[simp] theorem Chip.bump_motion (f : Fld) (n : Nat) : (c.bump f n).motion = c.motion := rfl
@[simp] theorem Chip.bump_lanes (f : Fld) (n : Nat) : (c.bump f n).lanes = c.lanes := rfl
@[simp] theorem Chip.bump_twin (f : Fld) (n : Nat) : (c.bump f n).twin = c.twin := rfl
@[simp] theorem Chip.bump_health (f : Fld) (n : Nat) : (c.bump f n).health = c.health := rfl

/-! ### count -/

@[simp] theorem Chip.count_latch (f : Fld) (n : Nat) : (c.count f n).latch = c.latch := rfl
@[simp] theorem Chip.count_held (f : Fld) (n : Nat) : (c.count f n).held = c.held := rfl
@[simp] theorem Chip.count_dt (f : Fld) (n : Nat) : (c.count f n).dt = c.dt := rfl
@[simp] theorem Chip.count_free (f : Fld) (n : Nat) : (c.count f n).free = c.free := rfl
@[simp] theorem Chip.count_wire (f : Fld) (n : Nat) : (c.count f n).wire = c.wire := rfl
@[simp] theorem Chip.count_seq (f : Fld) (n : Nat) : (c.count f n).seq = c.seq := rfl
@[simp] theorem Chip.count_strm (f : Fld) (n : Nat) : (c.count f n).strm = c.strm := rfl
@[simp] theorem Chip.count_vd (f : Fld) (n : Nat) : (c.count f n).vd = c.vd := rfl
@[simp] theorem Chip.count_stage (f : Fld) (n : Nat) : (c.count f n).stage = c.stage := rfl
@[simp] theorem Chip.count_store (f : Fld) (n : Nat) : (c.count f n).store = c.store := rfl
@[simp] theorem Chip.count_hosts (f : Fld) (n : Nat) : (c.count f n).hosts = c.hosts := rfl
@[simp] theorem Chip.count_faults (f : Fld) (n : Nat) : (c.count f n).faults = c.faults := rfl
@[simp] theorem Chip.count_time (f : Fld) (n : Nat) : (c.count f n).time = c.time := rfl
@[simp] theorem Chip.count_bars (f : Fld) (n : Nat) : (c.count f n).bars = c.bars := rfl
@[simp] theorem Chip.count_colour (f : Fld) (n : Nat) : (c.count f n).colour = c.colour := rfl
@[simp] theorem Chip.count_fire (f : Fld) (n : Nat) : (c.count f n).fire = c.fire := rfl
@[simp] theorem Chip.count_motion (f : Fld) (n : Nat) : (c.count f n).motion = c.motion := rfl
@[simp] theorem Chip.count_lanes (f : Fld) (n : Nat) : (c.count f n).lanes = c.lanes := rfl
@[simp] theorem Chip.count_twin (f : Fld) (n : Nat) : (c.count f n).twin = c.twin := rfl
@[simp] theorem Chip.count_health (f : Fld) (n : Nat) : (c.count f n).health = c.health := rfl

/-! ### setPc -/

@[simp] theorem Chip.setPc_latch (n v : Nat) : (c.setPc n v).latch = c.latch := rfl
@[simp] theorem Chip.setPc_held (n v : Nat) : (c.setPc n v).held = c.held := rfl
@[simp] theorem Chip.setPc_dt (n v : Nat) : (c.setPc n v).dt = c.dt := rfl
@[simp] theorem Chip.setPc_free (n v : Nat) : (c.setPc n v).free = c.free := rfl
@[simp] theorem Chip.setPc_wire (n v : Nat) : (c.setPc n v).wire = c.wire := rfl
@[simp] theorem Chip.setPc_seq (n v : Nat) : (c.setPc n v).seq = c.seq := rfl
@[simp] theorem Chip.setPc_strm (n v : Nat) : (c.setPc n v).strm = c.strm := rfl
@[simp] theorem Chip.setPc_vd (n v : Nat) : (c.setPc n v).vd = c.vd := rfl
@[simp] theorem Chip.setPc_stage (n v : Nat) : (c.setPc n v).stage = c.stage := rfl
@[simp] theorem Chip.setPc_store (n v : Nat) : (c.setPc n v).store = c.store := rfl
@[simp] theorem Chip.setPc_hosts (n v : Nat) : (c.setPc n v).hosts = c.hosts := rfl
@[simp] theorem Chip.setPc_faults (n v : Nat) : (c.setPc n v).faults = c.faults := rfl
@[simp] theorem Chip.setPc_time (n v : Nat) : (c.setPc n v).time = c.time := rfl
@[simp] theorem Chip.setPc_bars (n v : Nat) : (c.setPc n v).bars = c.bars := rfl
@[simp] theorem Chip.setPc_colour (n v : Nat) : (c.setPc n v).colour = c.colour := rfl
@[simp] theorem Chip.setPc_fire (n v : Nat) : (c.setPc n v).fire = c.fire := rfl
@[simp] theorem Chip.setPc_motion (n v : Nat) : (c.setPc n v).motion = c.motion := rfl
@[simp] theorem Chip.setPc_lanes (n v : Nat) : (c.setPc n v).lanes = c.lanes := rfl
@[simp] theorem Chip.setPc_twin (n v : Nat) : (c.setPc n v).twin = c.twin := rfl
@[simp] theorem Chip.setPc_health (n v : Nat) : (c.setPc n v).health = c.health := rfl

/-! ### next -/

@[simp] theorem Chip.next_latch (n : Nat) : (c.next n).latch = c.latch := rfl
@[simp] theorem Chip.next_held (n : Nat) : (c.next n).held = c.held := rfl
@[simp] theorem Chip.next_dt (n : Nat) : (c.next n).dt = c.dt := rfl
@[simp] theorem Chip.next_free (n : Nat) : (c.next n).free = c.free := rfl
@[simp] theorem Chip.next_wire (n : Nat) : (c.next n).wire = c.wire := rfl
@[simp] theorem Chip.next_seq (n : Nat) : (c.next n).seq = c.seq := rfl
@[simp] theorem Chip.next_strm (n : Nat) : (c.next n).strm = c.strm := rfl
@[simp] theorem Chip.next_vd (n : Nat) : (c.next n).vd = c.vd := rfl
@[simp] theorem Chip.next_stage (n : Nat) : (c.next n).stage = c.stage := rfl
@[simp] theorem Chip.next_store (n : Nat) : (c.next n).store = c.store := rfl
@[simp] theorem Chip.next_hosts (n : Nat) : (c.next n).hosts = c.hosts := rfl
@[simp] theorem Chip.next_faults (n : Nat) : (c.next n).faults = c.faults := rfl
@[simp] theorem Chip.next_time (n : Nat) : (c.next n).time = c.time := rfl
@[simp] theorem Chip.next_bars (n : Nat) : (c.next n).bars = c.bars := rfl
@[simp] theorem Chip.next_colour (n : Nat) : (c.next n).colour = c.colour := rfl
@[simp] theorem Chip.next_fire (n : Nat) : (c.next n).fire = c.fire := rfl
@[simp] theorem Chip.next_motion (n : Nat) : (c.next n).motion = c.motion := rfl
@[simp] theorem Chip.next_lanes (n : Nat) : (c.next n).lanes = c.lanes := rfl
@[simp] theorem Chip.next_twin (n : Nat) : (c.next n).twin = c.twin := rfl
@[simp] theorem Chip.next_health (n : Nat) : (c.next n).health = c.health := rfl

/-! ### setCtxState -/

@[simp] theorem Chip.setCtxState_latch (n v : Nat) : (c.setCtxState n v).latch = c.latch := rfl
@[simp] theorem Chip.setCtxState_held (n v : Nat) : (c.setCtxState n v).held = c.held := rfl
@[simp] theorem Chip.setCtxState_dt (n v : Nat) : (c.setCtxState n v).dt = c.dt := rfl
@[simp] theorem Chip.setCtxState_free (n v : Nat) : (c.setCtxState n v).free = c.free := rfl
@[simp] theorem Chip.setCtxState_wire (n v : Nat) : (c.setCtxState n v).wire = c.wire := rfl
@[simp] theorem Chip.setCtxState_seq (n v : Nat) : (c.setCtxState n v).seq = c.seq := rfl
@[simp] theorem Chip.setCtxState_strm (n v : Nat) : (c.setCtxState n v).strm = c.strm := rfl
@[simp] theorem Chip.setCtxState_vd (n v : Nat) : (c.setCtxState n v).vd = c.vd := rfl
@[simp] theorem Chip.setCtxState_stage (n v : Nat) : (c.setCtxState n v).stage = c.stage := rfl
@[simp] theorem Chip.setCtxState_store (n v : Nat) : (c.setCtxState n v).store = c.store := rfl
@[simp] theorem Chip.setCtxState_hosts (n v : Nat) : (c.setCtxState n v).hosts = c.hosts := rfl
@[simp] theorem Chip.setCtxState_faults (n v : Nat) : (c.setCtxState n v).faults = c.faults := rfl
@[simp] theorem Chip.setCtxState_time (n v : Nat) : (c.setCtxState n v).time = c.time := rfl
@[simp] theorem Chip.setCtxState_bars (n v : Nat) : (c.setCtxState n v).bars = c.bars := rfl
@[simp] theorem Chip.setCtxState_colour (n v : Nat) : (c.setCtxState n v).colour = c.colour := rfl
@[simp] theorem Chip.setCtxState_fire (n v : Nat) : (c.setCtxState n v).fire = c.fire := rfl
@[simp] theorem Chip.setCtxState_motion (n v : Nat) : (c.setCtxState n v).motion = c.motion := rfl
@[simp] theorem Chip.setCtxState_lanes (n v : Nat) : (c.setCtxState n v).lanes = c.lanes := rfl
@[simp] theorem Chip.setCtxState_twin (n v : Nat) : (c.setCtxState n v).twin = c.twin := rfl
@[simp] theorem Chip.setCtxState_health (n v : Nat) : (c.setCtxState n v).health = c.health := rfl

/-! ### stall -/

@[simp] theorem Chip.stall_latch (n k o : Nat) : (c.stall n k o).latch = c.latch := rfl
@[simp] theorem Chip.stall_held (n k o : Nat) : (c.stall n k o).held = c.held := rfl
@[simp] theorem Chip.stall_dt (n k o : Nat) : (c.stall n k o).dt = c.dt := rfl
@[simp] theorem Chip.stall_free (n k o : Nat) : (c.stall n k o).free = c.free := rfl
@[simp] theorem Chip.stall_wire (n k o : Nat) : (c.stall n k o).wire = c.wire := rfl
@[simp] theorem Chip.stall_seq (n k o : Nat) : (c.stall n k o).seq = c.seq := rfl
@[simp] theorem Chip.stall_strm (n k o : Nat) : (c.stall n k o).strm = c.strm := rfl
@[simp] theorem Chip.stall_vd (n k o : Nat) : (c.stall n k o).vd = c.vd := rfl
@[simp] theorem Chip.stall_stage (n k o : Nat) : (c.stall n k o).stage = c.stage := rfl
@[simp] theorem Chip.stall_store (n k o : Nat) : (c.stall n k o).store = c.store := rfl
@[simp] theorem Chip.stall_hosts (n k o : Nat) : (c.stall n k o).hosts = c.hosts := rfl
@[simp] theorem Chip.stall_faults (n k o : Nat) : (c.stall n k o).faults = c.faults := rfl
@[simp] theorem Chip.stall_time (n k o : Nat) : (c.stall n k o).time = c.time := rfl
@[simp] theorem Chip.stall_bars (n k o : Nat) : (c.stall n k o).bars = c.bars := rfl
@[simp] theorem Chip.stall_colour (n k o : Nat) : (c.stall n k o).colour = c.colour := rfl
@[simp] theorem Chip.stall_fire (n k o : Nat) : (c.stall n k o).fire = c.fire := rfl
@[simp] theorem Chip.stall_motion (n k o : Nat) : (c.stall n k o).motion = c.motion := rfl
@[simp] theorem Chip.stall_lanes (n k o : Nat) : (c.stall n k o).lanes = c.lanes := rfl
@[simp] theorem Chip.stall_twin (n k o : Nat) : (c.stall n k o).twin = c.twin := rfl
@[simp] theorem Chip.stall_health (n k o : Nat) : (c.stall n k o).health = c.health := rfl

/-! ### resume -/

@[simp] theorem Chip.resume_latch (n : Nat) : (c.resume n).latch = c.latch := rfl
@[simp] theorem Chip.resume_held (n : Nat) : (c.resume n).held = c.held := rfl
@[simp] theorem Chip.resume_dt (n : Nat) : (c.resume n).dt = c.dt := rfl
@[simp] theorem Chip.resume_free (n : Nat) : (c.resume n).free = c.free := rfl
@[simp] theorem Chip.resume_wire (n : Nat) : (c.resume n).wire = c.wire := rfl
@[simp] theorem Chip.resume_seq (n : Nat) : (c.resume n).seq = c.seq := rfl
@[simp] theorem Chip.resume_strm (n : Nat) : (c.resume n).strm = c.strm := rfl
@[simp] theorem Chip.resume_vd (n : Nat) : (c.resume n).vd = c.vd := rfl
@[simp] theorem Chip.resume_stage (n : Nat) : (c.resume n).stage = c.stage := rfl
@[simp] theorem Chip.resume_store (n : Nat) : (c.resume n).store = c.store := rfl
@[simp] theorem Chip.resume_hosts (n : Nat) : (c.resume n).hosts = c.hosts := rfl
@[simp] theorem Chip.resume_faults (n : Nat) : (c.resume n).faults = c.faults := rfl
@[simp] theorem Chip.resume_time (n : Nat) : (c.resume n).time = c.time := rfl
@[simp] theorem Chip.resume_bars (n : Nat) : (c.resume n).bars = c.bars := rfl
@[simp] theorem Chip.resume_colour (n : Nat) : (c.resume n).colour = c.colour := rfl
@[simp] theorem Chip.resume_fire (n : Nat) : (c.resume n).fire = c.fire := rfl
@[simp] theorem Chip.resume_motion (n : Nat) : (c.resume n).motion = c.motion := rfl
@[simp] theorem Chip.resume_lanes (n : Nat) : (c.resume n).lanes = c.lanes := rfl
@[simp] theorem Chip.resume_twin (n : Nat) : (c.resume n).twin = c.twin := rfl
@[simp] theorem Chip.resume_health (n : Nat) : (c.resume n).health = c.health := rfl

/-! ### pend -/

@[simp] theorem Chip.pend_latch (n k : Nat) (o : PendOp) : (c.pend n k o).latch = c.latch := rfl
@[simp] theorem Chip.pend_held (n k : Nat) (o : PendOp) : (c.pend n k o).held = c.held := rfl
@[simp] theorem Chip.pend_dt (n k : Nat) (o : PendOp) : (c.pend n k o).dt = c.dt := rfl
@[simp] theorem Chip.pend_free (n k : Nat) (o : PendOp) : (c.pend n k o).free = c.free := rfl
@[simp] theorem Chip.pend_wire (n k : Nat) (o : PendOp) : (c.pend n k o).wire = c.wire := rfl
@[simp] theorem Chip.pend_strm (n k : Nat) (o : PendOp) : (c.pend n k o).strm = c.strm := rfl
@[simp] theorem Chip.pend_vd (n k : Nat) (o : PendOp) : (c.pend n k o).vd = c.vd := rfl
@[simp] theorem Chip.pend_stage (n k : Nat) (o : PendOp) : (c.pend n k o).stage = c.stage := rfl
@[simp] theorem Chip.pend_store (n k : Nat) (o : PendOp) : (c.pend n k o).store = c.store := rfl
@[simp] theorem Chip.pend_hosts (n k : Nat) (o : PendOp) : (c.pend n k o).hosts = c.hosts := rfl
@[simp] theorem Chip.pend_faults (n k : Nat) (o : PendOp) : (c.pend n k o).faults = c.faults := rfl
@[simp] theorem Chip.pend_time (n k : Nat) (o : PendOp) : (c.pend n k o).time = c.time := rfl
@[simp] theorem Chip.pend_bars (n k : Nat) (o : PendOp) : (c.pend n k o).bars = c.bars := rfl
@[simp] theorem Chip.pend_colour (n k : Nat) (o : PendOp) : (c.pend n k o).colour = c.colour := rfl
@[simp] theorem Chip.pend_fire (n k : Nat) (o : PendOp) : (c.pend n k o).fire = c.fire := rfl
@[simp] theorem Chip.pend_motion (n k : Nat) (o : PendOp) : (c.pend n k o).motion = c.motion := rfl
@[simp] theorem Chip.pend_lanes (n k : Nat) (o : PendOp) : (c.pend n k o).lanes = c.lanes := rfl
@[simp] theorem Chip.pend_twin (n k : Nat) (o : PendOp) : (c.pend n k o).twin = c.twin := rfl
@[simp] theorem Chip.pend_health (n k : Nat) (o : PendOp) : (c.pend n k o).health = c.health := rfl

/-! ### emit -/

@[simp] theorem Chip.emit_regs (k : EmitKind) (p : Nat) (as : List Nat) (bs : List Byte) : (c.emit k p as bs).regs = c.regs := rfl
@[simp] theorem Chip.emit_latch (k : EmitKind) (p : Nat) (as : List Nat) (bs : List Byte) : (c.emit k p as bs).latch = c.latch := rfl
@[simp] theorem Chip.emit_held (k : EmitKind) (p : Nat) (as : List Nat) (bs : List Byte) : (c.emit k p as bs).held = c.held := rfl
@[simp] theorem Chip.emit_dt (k : EmitKind) (p : Nat) (as : List Nat) (bs : List Byte) : (c.emit k p as bs).dt = c.dt := rfl
@[simp] theorem Chip.emit_free (k : EmitKind) (p : Nat) (as : List Nat) (bs : List Byte) : (c.emit k p as bs).free = c.free := rfl
@[simp] theorem Chip.emit_seq (k : EmitKind) (p : Nat) (as : List Nat) (bs : List Byte) : (c.emit k p as bs).seq = c.seq := rfl
@[simp] theorem Chip.emit_strm (k : EmitKind) (p : Nat) (as : List Nat) (bs : List Byte) : (c.emit k p as bs).strm = c.strm := rfl
@[simp] theorem Chip.emit_vd (k : EmitKind) (p : Nat) (as : List Nat) (bs : List Byte) : (c.emit k p as bs).vd = c.vd := rfl
@[simp] theorem Chip.emit_stage (k : EmitKind) (p : Nat) (as : List Nat) (bs : List Byte) : (c.emit k p as bs).stage = c.stage := rfl
@[simp] theorem Chip.emit_store (k : EmitKind) (p : Nat) (as : List Nat) (bs : List Byte) : (c.emit k p as bs).store = c.store := rfl
@[simp] theorem Chip.emit_hosts (k : EmitKind) (p : Nat) (as : List Nat) (bs : List Byte) : (c.emit k p as bs).hosts = c.hosts := rfl
@[simp] theorem Chip.emit_faults (k : EmitKind) (p : Nat) (as : List Nat) (bs : List Byte) : (c.emit k p as bs).faults = c.faults := rfl
@[simp] theorem Chip.emit_time (k : EmitKind) (p : Nat) (as : List Nat) (bs : List Byte) : (c.emit k p as bs).time = c.time := rfl
@[simp] theorem Chip.emit_bars (k : EmitKind) (p : Nat) (as : List Nat) (bs : List Byte) : (c.emit k p as bs).bars = c.bars := rfl
@[simp] theorem Chip.emit_colour (k : EmitKind) (p : Nat) (as : List Nat) (bs : List Byte) : (c.emit k p as bs).colour = c.colour := rfl
@[simp] theorem Chip.emit_fire (k : EmitKind) (p : Nat) (as : List Nat) (bs : List Byte) : (c.emit k p as bs).fire = c.fire := rfl
@[simp] theorem Chip.emit_motion (k : EmitKind) (p : Nat) (as : List Nat) (bs : List Byte) : (c.emit k p as bs).motion = c.motion := rfl
@[simp] theorem Chip.emit_lanes (k : EmitKind) (p : Nat) (as : List Nat) (bs : List Byte) : (c.emit k p as bs).lanes = c.lanes := rfl
@[simp] theorem Chip.emit_twin (k : EmitKind) (p : Nat) (as : List Nat) (bs : List Byte) : (c.emit k p as bs).twin = c.twin := rfl
@[simp] theorem Chip.emit_health (k : EmitKind) (p : Nat) (as : List Nat) (bs : List Byte) : (c.emit k p as bs).health = c.health := rfl

/-! ### setBar -/

@[simp] theorem Chip.setBar_regs (k : Nat) (b : Bar) : (c.setBar k b).regs = c.regs := rfl
@[simp] theorem Chip.setBar_latch (k : Nat) (b : Bar) : (c.setBar k b).latch = c.latch := rfl
@[simp] theorem Chip.setBar_held (k : Nat) (b : Bar) : (c.setBar k b).held = c.held := rfl
@[simp] theorem Chip.setBar_dt (k : Nat) (b : Bar) : (c.setBar k b).dt = c.dt := rfl
@[simp] theorem Chip.setBar_free (k : Nat) (b : Bar) : (c.setBar k b).free = c.free := rfl
@[simp] theorem Chip.setBar_wire (k : Nat) (b : Bar) : (c.setBar k b).wire = c.wire := rfl
@[simp] theorem Chip.setBar_seq (k : Nat) (b : Bar) : (c.setBar k b).seq = c.seq := rfl
@[simp] theorem Chip.setBar_strm (k : Nat) (b : Bar) : (c.setBar k b).strm = c.strm := rfl
@[simp] theorem Chip.setBar_vd (k : Nat) (b : Bar) : (c.setBar k b).vd = c.vd := rfl
@[simp] theorem Chip.setBar_stage (k : Nat) (b : Bar) : (c.setBar k b).stage = c.stage := rfl
@[simp] theorem Chip.setBar_store (k : Nat) (b : Bar) : (c.setBar k b).store = c.store := rfl
@[simp] theorem Chip.setBar_hosts (k : Nat) (b : Bar) : (c.setBar k b).hosts = c.hosts := rfl
@[simp] theorem Chip.setBar_faults (k : Nat) (b : Bar) : (c.setBar k b).faults = c.faults := rfl
@[simp] theorem Chip.setBar_time (k : Nat) (b : Bar) : (c.setBar k b).time = c.time := rfl
@[simp] theorem Chip.setBar_colour (k : Nat) (b : Bar) : (c.setBar k b).colour = c.colour := rfl
@[simp] theorem Chip.setBar_fire (k : Nat) (b : Bar) : (c.setBar k b).fire = c.fire := rfl
@[simp] theorem Chip.setBar_motion (k : Nat) (b : Bar) : (c.setBar k b).motion = c.motion := rfl
@[simp] theorem Chip.setBar_lanes (k : Nat) (b : Bar) : (c.setBar k b).lanes = c.lanes := rfl
@[simp] theorem Chip.setBar_twin (k : Nat) (b : Bar) : (c.setBar k b).twin = c.twin := rfl
@[simp] theorem Chip.setBar_health (k : Nat) (b : Bar) : (c.setBar k b).health = c.health := rfl

/-! ### setQueue -/

@[simp] theorem Chip.setQueue_regs (q : Nat) (x : Queue) : (c.setQueue q x).regs = c.regs := rfl
@[simp] theorem Chip.setQueue_latch (q : Nat) (x : Queue) : (c.setQueue q x).latch = c.latch := rfl
@[simp] theorem Chip.setQueue_held (q : Nat) (x : Queue) : (c.setQueue q x).held = c.held := rfl
@[simp] theorem Chip.setQueue_dt (q : Nat) (x : Queue) : (c.setQueue q x).dt = c.dt := rfl
@[simp] theorem Chip.setQueue_free (q : Nat) (x : Queue) : (c.setQueue q x).free = c.free := rfl
@[simp] theorem Chip.setQueue_wire (q : Nat) (x : Queue) : (c.setQueue q x).wire = c.wire := rfl
@[simp] theorem Chip.setQueue_seq (q : Nat) (x : Queue) : (c.setQueue q x).seq = c.seq := rfl
@[simp] theorem Chip.setQueue_strm (q : Nat) (x : Queue) : (c.setQueue q x).strm = c.strm := rfl
@[simp] theorem Chip.setQueue_vd (q : Nat) (x : Queue) : (c.setQueue q x).vd = c.vd := rfl
@[simp] theorem Chip.setQueue_stage (q : Nat) (x : Queue) : (c.setQueue q x).stage = c.stage := rfl
@[simp] theorem Chip.setQueue_store (q : Nat) (x : Queue) : (c.setQueue q x).store = c.store := rfl
@[simp] theorem Chip.setQueue_faults (q : Nat) (x : Queue) : (c.setQueue q x).faults = c.faults := rfl
@[simp] theorem Chip.setQueue_time (q : Nat) (x : Queue) : (c.setQueue q x).time = c.time := rfl
@[simp] theorem Chip.setQueue_bars (q : Nat) (x : Queue) : (c.setQueue q x).bars = c.bars := rfl
@[simp] theorem Chip.setQueue_colour (q : Nat) (x : Queue) : (c.setQueue q x).colour = c.colour := rfl
@[simp] theorem Chip.setQueue_fire (q : Nat) (x : Queue) : (c.setQueue q x).fire = c.fire := rfl
@[simp] theorem Chip.setQueue_motion (q : Nat) (x : Queue) : (c.setQueue q x).motion = c.motion := rfl
@[simp] theorem Chip.setQueue_lanes (q : Nat) (x : Queue) : (c.setQueue q x).lanes = c.lanes := rfl
@[simp] theorem Chip.setQueue_twin (q : Nat) (x : Queue) : (c.setQueue q x).twin = c.twin := rfl
@[simp] theorem Chip.setQueue_health (q : Nat) (x : Queue) : (c.setQueue q x).health = c.health := rfl

/-! ### setSession -/

@[simp] theorem Chip.setSession_regs (t p : Nat) (x : Option Session) : (c.setSession t p x).regs = c.regs := rfl
@[simp] theorem Chip.setSession_latch (t p : Nat) (x : Option Session) : (c.setSession t p x).latch = c.latch := rfl
@[simp] theorem Chip.setSession_held (t p : Nat) (x : Option Session) : (c.setSession t p x).held = c.held := rfl
@[simp] theorem Chip.setSession_dt (t p : Nat) (x : Option Session) : (c.setSession t p x).dt = c.dt := rfl
@[simp] theorem Chip.setSession_free (t p : Nat) (x : Option Session) : (c.setSession t p x).free = c.free := rfl
@[simp] theorem Chip.setSession_wire (t p : Nat) (x : Option Session) : (c.setSession t p x).wire = c.wire := rfl
@[simp] theorem Chip.setSession_seq (t p : Nat) (x : Option Session) : (c.setSession t p x).seq = c.seq := rfl
@[simp] theorem Chip.setSession_strm (t p : Nat) (x : Option Session) : (c.setSession t p x).strm = c.strm := rfl
@[simp] theorem Chip.setSession_vd (t p : Nat) (x : Option Session) : (c.setSession t p x).vd = c.vd := rfl
@[simp] theorem Chip.setSession_stage (t p : Nat) (x : Option Session) : (c.setSession t p x).stage = c.stage := rfl
@[simp] theorem Chip.setSession_store (t p : Nat) (x : Option Session) : (c.setSession t p x).store = c.store := rfl
@[simp] theorem Chip.setSession_faults (t p : Nat) (x : Option Session) : (c.setSession t p x).faults = c.faults := rfl
@[simp] theorem Chip.setSession_time (t p : Nat) (x : Option Session) : (c.setSession t p x).time = c.time := rfl
@[simp] theorem Chip.setSession_bars (t p : Nat) (x : Option Session) : (c.setSession t p x).bars = c.bars := rfl
@[simp] theorem Chip.setSession_colour (t p : Nat) (x : Option Session) : (c.setSession t p x).colour = c.colour := rfl
@[simp] theorem Chip.setSession_fire (t p : Nat) (x : Option Session) : (c.setSession t p x).fire = c.fire := rfl
@[simp] theorem Chip.setSession_motion (t p : Nat) (x : Option Session) : (c.setSession t p x).motion = c.motion := rfl
@[simp] theorem Chip.setSession_lanes (t p : Nat) (x : Option Session) : (c.setSession t p x).lanes = c.lanes := rfl
@[simp] theorem Chip.setSession_twin (t p : Nat) (x : Option Session) : (c.setSession t p x).twin = c.twin := rfl
@[simp] theorem Chip.setSession_health (t p : Nat) (x : Option Session) : (c.setSession t p x).health = c.health := rfl

/-! ### setEntry -/

@[simp] theorem Chip.setEntry_regs (i : Nat) (e : DispEntry) : (c.setEntry i e).regs = c.regs := rfl
@[simp] theorem Chip.setEntry_latch (i : Nat) (e : DispEntry) : (c.setEntry i e).latch = c.latch := rfl
@[simp] theorem Chip.setEntry_held (i : Nat) (e : DispEntry) : (c.setEntry i e).held = c.held := rfl
@[simp] theorem Chip.setEntry_dt (i : Nat) (e : DispEntry) : (c.setEntry i e).dt = c.dt := rfl
@[simp] theorem Chip.setEntry_free (i : Nat) (e : DispEntry) : (c.setEntry i e).free = c.free := rfl
@[simp] theorem Chip.setEntry_wire (i : Nat) (e : DispEntry) : (c.setEntry i e).wire = c.wire := rfl
@[simp] theorem Chip.setEntry_strm (i : Nat) (e : DispEntry) : (c.setEntry i e).strm = c.strm := rfl
@[simp] theorem Chip.setEntry_vd (i : Nat) (e : DispEntry) : (c.setEntry i e).vd = c.vd := rfl
@[simp] theorem Chip.setEntry_stage (i : Nat) (e : DispEntry) : (c.setEntry i e).stage = c.stage := rfl
@[simp] theorem Chip.setEntry_store (i : Nat) (e : DispEntry) : (c.setEntry i e).store = c.store := rfl
@[simp] theorem Chip.setEntry_hosts (i : Nat) (e : DispEntry) : (c.setEntry i e).hosts = c.hosts := rfl
@[simp] theorem Chip.setEntry_faults (i : Nat) (e : DispEntry) : (c.setEntry i e).faults = c.faults := rfl
@[simp] theorem Chip.setEntry_time (i : Nat) (e : DispEntry) : (c.setEntry i e).time = c.time := rfl
@[simp] theorem Chip.setEntry_bars (i : Nat) (e : DispEntry) : (c.setEntry i e).bars = c.bars := rfl
@[simp] theorem Chip.setEntry_colour (i : Nat) (e : DispEntry) : (c.setEntry i e).colour = c.colour := rfl
@[simp] theorem Chip.setEntry_fire (i : Nat) (e : DispEntry) : (c.setEntry i e).fire = c.fire := rfl
@[simp] theorem Chip.setEntry_motion (i : Nat) (e : DispEntry) : (c.setEntry i e).motion = c.motion := rfl
@[simp] theorem Chip.setEntry_lanes (i : Nat) (e : DispEntry) : (c.setEntry i e).lanes = c.lanes := rfl
@[simp] theorem Chip.setEntry_twin (i : Nat) (e : DispEntry) : (c.setEntry i e).twin = c.twin := rfl
@[simp] theorem Chip.setEntry_health (i : Nat) (e : DispEntry) : (c.setEntry i e).health = c.health := rfl

/-! ### setLane -/

@[simp] theorem Chip.setLane_regs (l : Nat) (x : Lane) : (c.setLane l x).regs = c.regs := rfl
@[simp] theorem Chip.setLane_latch (l : Nat) (x : Lane) : (c.setLane l x).latch = c.latch := rfl
@[simp] theorem Chip.setLane_held (l : Nat) (x : Lane) : (c.setLane l x).held = c.held := rfl
@[simp] theorem Chip.setLane_dt (l : Nat) (x : Lane) : (c.setLane l x).dt = c.dt := rfl
@[simp] theorem Chip.setLane_free (l : Nat) (x : Lane) : (c.setLane l x).free = c.free := rfl
@[simp] theorem Chip.setLane_wire (l : Nat) (x : Lane) : (c.setLane l x).wire = c.wire := rfl
@[simp] theorem Chip.setLane_seq (l : Nat) (x : Lane) : (c.setLane l x).seq = c.seq := rfl
@[simp] theorem Chip.setLane_strm (l : Nat) (x : Lane) : (c.setLane l x).strm = c.strm := rfl
@[simp] theorem Chip.setLane_vd (l : Nat) (x : Lane) : (c.setLane l x).vd = c.vd := rfl
@[simp] theorem Chip.setLane_stage (l : Nat) (x : Lane) : (c.setLane l x).stage = c.stage := rfl
@[simp] theorem Chip.setLane_store (l : Nat) (x : Lane) : (c.setLane l x).store = c.store := rfl
@[simp] theorem Chip.setLane_hosts (l : Nat) (x : Lane) : (c.setLane l x).hosts = c.hosts := rfl
@[simp] theorem Chip.setLane_faults (l : Nat) (x : Lane) : (c.setLane l x).faults = c.faults := rfl
@[simp] theorem Chip.setLane_time (l : Nat) (x : Lane) : (c.setLane l x).time = c.time := rfl
@[simp] theorem Chip.setLane_bars (l : Nat) (x : Lane) : (c.setLane l x).bars = c.bars := rfl
@[simp] theorem Chip.setLane_colour (l : Nat) (x : Lane) : (c.setLane l x).colour = c.colour := rfl
@[simp] theorem Chip.setLane_fire (l : Nat) (x : Lane) : (c.setLane l x).fire = c.fire := rfl
@[simp] theorem Chip.setLane_motion (l : Nat) (x : Lane) : (c.setLane l x).motion = c.motion := rfl
@[simp] theorem Chip.setLane_twin (l : Nat) (x : Lane) : (c.setLane l x).twin = c.twin := rfl
@[simp] theorem Chip.setLane_health (l : Nat) (x : Lane) : (c.setLane l x).health = c.health := rfl

/-! ### setG -/

theorem Chip.setG_eq (n i : Nat) (v : W64) : c.setG n i v = if i = 0 then c else
    { c with seq := { c.seq with g := FMap.put 0 c.seq.g (32 * n + i) v } } := rfl

@[simp] theorem Chip.setG_regs (n i : Nat) (v : W64) : (c.setG n i v).regs = c.regs := by unfold Chip.setG; split <;> rfl
@[simp] theorem Chip.setG_latch (n i : Nat) (v : W64) : (c.setG n i v).latch = c.latch := by unfold Chip.setG; split <;> rfl
@[simp] theorem Chip.setG_held (n i : Nat) (v : W64) : (c.setG n i v).held = c.held := by unfold Chip.setG; split <;> rfl
@[simp] theorem Chip.setG_dt (n i : Nat) (v : W64) : (c.setG n i v).dt = c.dt := by unfold Chip.setG; split <;> rfl
@[simp] theorem Chip.setG_free (n i : Nat) (v : W64) : (c.setG n i v).free = c.free := by unfold Chip.setG; split <;> rfl
@[simp] theorem Chip.setG_wire (n i : Nat) (v : W64) : (c.setG n i v).wire = c.wire := by unfold Chip.setG; split <;> rfl
@[simp] theorem Chip.setG_strm (n i : Nat) (v : W64) : (c.setG n i v).strm = c.strm := by unfold Chip.setG; split <;> rfl
@[simp] theorem Chip.setG_vd (n i : Nat) (v : W64) : (c.setG n i v).vd = c.vd := by unfold Chip.setG; split <;> rfl
@[simp] theorem Chip.setG_stage (n i : Nat) (v : W64) : (c.setG n i v).stage = c.stage := by unfold Chip.setG; split <;> rfl
@[simp] theorem Chip.setG_store (n i : Nat) (v : W64) : (c.setG n i v).store = c.store := by unfold Chip.setG; split <;> rfl
@[simp] theorem Chip.setG_hosts (n i : Nat) (v : W64) : (c.setG n i v).hosts = c.hosts := by unfold Chip.setG; split <;> rfl
@[simp] theorem Chip.setG_faults (n i : Nat) (v : W64) : (c.setG n i v).faults = c.faults := by unfold Chip.setG; split <;> rfl
@[simp] theorem Chip.setG_time (n i : Nat) (v : W64) : (c.setG n i v).time = c.time := by unfold Chip.setG; split <;> rfl
@[simp] theorem Chip.setG_bars (n i : Nat) (v : W64) : (c.setG n i v).bars = c.bars := by unfold Chip.setG; split <;> rfl
@[simp] theorem Chip.setG_colour (n i : Nat) (v : W64) : (c.setG n i v).colour = c.colour := by unfold Chip.setG; split <;> rfl
@[simp] theorem Chip.setG_fire (n i : Nat) (v : W64) : (c.setG n i v).fire = c.fire := by unfold Chip.setG; split <;> rfl
@[simp] theorem Chip.setG_motion (n i : Nat) (v : W64) : (c.setG n i v).motion = c.motion := by unfold Chip.setG; split <;> rfl
@[simp] theorem Chip.setG_lanes (n i : Nat) (v : W64) : (c.setG n i v).lanes = c.lanes := by unfold Chip.setG; split <;> rfl
@[simp] theorem Chip.setG_twin (n i : Nat) (v : W64) : (c.setG n i v).twin = c.twin := by unfold Chip.setG; split <;> rfl
@[simp] theorem Chip.setG_health (n i : Nat) (v : W64) : (c.setG n i v).health = c.health := by unfold Chip.setG; split <;> rfl
@[simp] theorem Chip.setG_seq_start (n i : Nat) (v : W64) : (c.setG n i v).seq.start = c.seq.start := by unfold Chip.setG; split <;> rfl
@[simp] theorem Chip.setG_seq_w (n i : Nat) (v : W64) : (c.setG n i v).seq.w = c.seq.w := by unfold Chip.setG; split <;> rfl
@[simp] theorem Chip.setG_seq_waits (n i : Nat) (v : W64) : (c.setG n i v).seq.waits = c.seq.waits := by unfold Chip.setG; split <;> rfl
@[simp] theorem Chip.setG_seq_ops (n i : Nat) (v : W64) : (c.setG n i v).seq.ops = c.seq.ops := by unfold Chip.setG; split <;> rfl
@[simp] theorem Chip.setG_seq_disp (n i : Nat) (v : W64) : (c.setG n i v).seq.disp = c.seq.disp := by unfold Chip.setG; split <;> rfl

/-! ### Reads after writes -/

/-- A register field reads as written, modulo its width. -/
@[simp] theorem Chip.get_set_same (f : Fld) (v : Nat) : (c.set f v).get f = v % 2 ^ f.width := FMap.get_put_same ..

/-- Every register field at another place reads as before. -/
theorem Chip.get_set_ne (f h : Fld) (v : Nat) (hk : h.key ≠ f.key) : (c.set f v).get h = c.get h :=
  FMap.get_put_ne _ _ _ _ _ _ hk

/-- A field that depends only on other parts of the chip. -/
theorem Chip.get_congr {c d : Chip} (h : d.regs = c.regs) (f : Fld) : d.get f = c.get f := by unfold Chip.get; rw [h]


@[simp] theorem Chip.emit_get (k : EmitKind) (p : Nat) (as : List Nat) (bs : List Byte) (f : Fld) : (c.emit k p as bs).get f = c.get f := rfl
@[simp] theorem Chip.setBar_get (k : Nat) (b : Bar) (f : Fld) : (c.setBar k b).get f = c.get f := rfl
@[simp] theorem Chip.setQueue_get (q : Nat) (x : Queue) (f : Fld) : (c.setQueue q x).get f = c.get f := rfl
@[simp] theorem Chip.setSession_get (t p : Nat) (x : Option Session) (f : Fld) : (c.setSession t p x).get f = c.get f := rfl
@[simp] theorem Chip.setEntry_get (i : Nat) (e : DispEntry) (f : Fld) : (c.setEntry i e).get f = c.get f := rfl
@[simp] theorem Chip.setLane_get (l : Nat) (x : Lane) (f : Fld) : (c.setLane l x).get f = c.get f := rfl
@[simp] theorem Chip.setG_get (n i : Nat) (v : W64) (f : Fld) : (c.setG n i v).get f = c.get f :=
  Chip.get_congr (Chip.setG_regs ..) f

/-- gI of context n after a write: g0 reads 0, the written register reads the value, every other as before. -/
theorem Chip.g_setG (n i m j : Nat) (v : W64) (hi : i < 32) (hj : j < 32) :
    (c.setG n i v).g m j = if m = n ∧ j = i ∧ i ≠ 0 then v else c.g m j := by
  unfold Chip.g Chip.setG
  by_cases h0 : i = 0
  · subst h0; simp
  · by_cases hj0 : j = 0
    · subst hj0; simp [Ne.symm h0]
    · simp only [h0, hj0, if_false, FMap.get_put, ne_eq, not_false_eq_true, and_true]
      have : 32 * m + j = 32 * n + i ↔ m = n ∧ j = i := by omega
      simp only [this]

@[simp] theorem Chip.set_g (f : Fld) (v n i : Nat) : (c.set f v).g n i = c.g n i := rfl
@[simp] theorem Chip.set_w (f : Fld) (v n i : Nat) : (c.set f v).w n i = c.w n i := rfl
@[simp] theorem Chip.setG_w (n i m j : Nat) (v : W64) : (c.setG n i v).w m j = c.w m j := by unfold Chip.w; simp
@[simp] theorem Chip.setPc_g (n v m i : Nat) : (c.setPc n v).g m i = c.g m i := rfl
@[simp] theorem Chip.next_g (n m i : Nat) : (c.next n).g m i = c.g m i := rfl
@[simp] theorem Chip.g_zero (n : Nat) : c.g n 0 = 0 := rfl

theorem Chip.bar_setBar (k j : Nat) (b : Bar) : (c.setBar k b).bar j = if j = k then b else c.bar j := FMap.get_put ..
@[simp] theorem Chip.bar_setBar_same (k : Nat) (b : Bar) : (c.setBar k b).bar k = b := FMap.get_put_same ..
@[simp] theorem Chip.queue_setQueue_same (q : Nat) (x : Queue) : (c.setQueue q x).queue q = x := FMap.get_put_same ..
theorem Chip.queue_setQueue (q j : Nat) (x : Queue) : (c.setQueue q x).queue j = if j = q then x else c.queue j :=
  FMap.get_put ..
@[simp] theorem Chip.session_setSession_same (t p : Nat) (x : Option Session) : (c.setSession t p x).session t p = x :=
  FMap.get_put_same ..
@[simp] theorem Chip.entry_setEntry_same (i : Nat) (e : DispEntry) : (c.setEntry i e).entry i = e := FMap.get_put_same ..
@[simp] theorem Chip.lane_setLane_same (l : Nat) (x : Lane) : (c.setLane l x).lane l = x := FMap.get_put_same ..
theorem Chip.lane_setLane (l j : Nat) (x : Lane) : (c.setLane l x).lane j = if j = l then x else c.lane j := FMap.get_put ..

/-- The program counter of context n after its instruction. -/
@[simp] theorem Chip.pc_setPc_same (n v : Nat) : (c.setPc n v).pc n = v % 2 ^ 19 := Chip.get_set_same ..

/-- The program counter after `next`. -/
@[simp] theorem Chip.pc_next (n : Nat) : (c.next n).pc n = (c.pc n + 1) % 2 ^ 19 := Chip.get_set_same ..

end Sys2Proof.Machine
end

