-- ==== Sys2Proof/Laws/Issue.lean ====
section
/-!
SUPPORT. Sys2Proof/Laws/Issue.lean: what issuing one sequencer instruction does (R52, R63): nothing when the context cannot issue;
a trap with the lowest code that applies; else its effect.
-/
namespace Sys2Proof.Machine

/-- Everything that issuing can do. -/
theorem issue_cases (n : Nat) (traps : List Nat) (eff : State → State) (s : State) :
    (s.chip.canIssue n = false ∧ issue n traps eff s = s) ∨
    (s.chip.canIssue n = true ∧ s.chip.pcBad n = true ∧
      issue n traps eff s = { s with chip := s.chip.trap n PC_RANGE }) ∨
    (s.chip.canIssue n = true ∧ s.chip.pcBad n = false ∧ traps = [] ∧ issue n traps eff s = eff s) ∨
    (s.chip.canIssue n = true ∧ s.chip.pcBad n = false ∧ ∃ t ts, traps = t :: ts ∧
      issue n traps eff s = { s with chip := s.chip.trap n (ts.foldl Nat.min t) }) := by
  unfold issue
  cases h1 : s.chip.canIssue n <;> cases h2 : s.chip.pcBad n <;> cases traps <;> simp
  all_goals exact ⟨_, _, ⟨rfl, rfl⟩, rfl⟩

/-- A context that can issue runs an instruction that traps nothing. -/
theorem issue_ready {n : CtxId} {s : State} (h : Ready n s) (eff : State → State) : issue n [] eff s = eff s := by
  simp [issue, h.1, h.2]

/-- A context that can issue takes the trap that applies. -/
theorem issue_trap {n : CtxId} {s : State} (h : Ready n s) (code : Nat) (eff : State → State) :
    issue n [code] eff s = { s with chip := s.chip.trap n code } := by
  simp [issue, h.1, h.2]

/-- A context that can issue runs an instruction that traps nothing and reads D-space; the read's outcome is reported first. -/
theorem issueD_ready {n : CtxId} {s : State} (h : Ready n s) {r : Ecc} (hr : r ≠ .uncorrectable) (eff : State → State) :
    issueD n r [] eff s = eff (s.onChip (·.dRead r)) := by
  have : dEcc r = [] := by unfold dEcc trapIf; simp [hr]
  rw [issueD, this, List.append_nil, issue_ready h]

theorem issueC_ready {n : CtxId} {s : State} (h : Ready n s) (eff : Chip → Chip) :
    issueC n [] eff s = { s with chip := eff s.chip } := issue_ready h _

@[simp] theorem Chip.setG_pc (c : Chip) (n i m : Nat) (v : W64) : (c.setG n i v).pc m = c.pc m := Chip.setG_get ..

theorem Chip.setG_bare (c : Chip) (n i : Nat) (v : W64) : (c.setG n i v).bare = c.bare := by
  unfold Chip.setG; split <;> rfl

/-- Writing gD and a register field touch nothing but gD and that field. -/
theorem Chip.setG_set_frame (c : Chip) (n : CtxId) (gd : BitVec 5) (v : W64) (f : Fld) (x : Nat) :
    (∀ m i, i < 32 → ((c.setG n gd.toNat v).set f x).g m i =
      if m = n.val ∧ i = gd.toNat ∧ gd ≠ 0 then v else c.g m i) ∧
    sameW c ((c.setG n gd.toNat v).set f x) ∧ sameFields [f] c ((c.setG n gd.toNat v).set f x) ∧
    ((c.setG n gd.toNat v).set f x).bare = c.bare := by
  have hz : gd.toNat ≠ 0 ↔ gd ≠ 0 := by
    constructor <;> intro h h' <;> apply h
    · simp [h']
    · exact BitVec.eq_of_toNat_eq (by simpa using h')
  refine ⟨fun m i hi => ?_, fun m i _ => by simp, fun h hk => ?_, ?_⟩
  · rw [Chip.set_g, Chip.g_setG _ _ _ _ _ _ (by omega) hi]; simp only [hz]
  · rw [Chip.get_set_ne _ _ _ _ (hk f (by simp)), Chip.setG_get]
  · rw [show ((c.setG n gd.toNat v).set f x).bare = (c.setG n gd.toNat v).bare from rfl, Chip.setG_bare]

/-- An instruction that traps nothing and writes gD. -/
theorem issueG_wrote {n : CtxId} {f : Fields} {s : State} (h : Ready n s) (v : W64) :
    WroteG n f.gd v s (issueG n f [] v s) := by
  have := Chip.setG_set_frame s.chip n f.gd v (SEQ_CPC_PC n) ((s.chip.setG n f.gd.toNat v).pc n + 1)
  simp only [issueG, issueC_ready h]
  exact ⟨rfl, rfl, by simp [wentOn], this⟩

end Sys2Proof.Machine
end

