-- ==== Sys2Proof/Laws/Memory.lean ====
section
/-! SUPPORT. What each shared operation does to memory and to the queue of waiting commands: nothing, or a store that keeps the canonical
form. `Kept P` says that P holds along every change of the chip alone; every operation that changes no more has it. -/
namespace Sys2Proof.Machine

/-- A relation of states that every change of the chip alone keeps. -/
structure Kept (P : State → State → Prop) : Prop where
  refl : ∀ s, P s s
  trans : ∀ {a b c}, P a b → P b c → P a c
  chip : ∀ (s : State) (c : Chip), P s { s with chip := c }
/-- The queue of commands and the memory are as before. -/
def sameMem (s u : State) : Prop := u.pending = s.pending ∧ u.mem = s.mem
/-- The queue of commands is as before, and the memory keeps its canonical form. -/
def wfMem (s u : State) : Prop := u.pending = s.pending ∧ (s.mem.wf → u.mem.wf)

theorem kept_same : Kept sameMem := ⟨fun _ => ⟨rfl, rfl⟩, fun h k => ⟨k.1.trans h.1, k.2.trans h.2⟩, fun _ _ => ⟨rfl, rfl⟩⟩

theorem kept_wf : Kept wfMem := ⟨fun _ => ⟨rfl, id⟩, fun h k => ⟨k.1.trans h.1, fun a => k.2 (h.2 a)⟩, fun _ _ => ⟨rfl, id⟩⟩

theorem same_wf {s u : State} (h : sameMem s u) : wfMem s u := ⟨h.1, fun a => by rw [h.2]; exact a⟩
/-- A relation that both branches have, the choice has. -/
theorem Kept.ite {P : State → State → Prop} (_ : Kept P) {p : Prop} [Decidable p] {s a b : State} (h : P s a) (g : P s b) :
    P s (if p then a else b) := by split; exact h; exact g

section
variable {P : State → State → Prop} (k : Kept P)
include k

theorem Kept.onChip (s : State) (f : Chip → Chip) : P s (s.onChip f) := k.chip s _

theorem Kept.at_ (s : State) (t : Nat) : P s (s.at_ t) := k.chip s _

theorem Kept.done (s : State) (q : Nat) (x : InDesc) (st : Nat) (r : List Byte) : P s (s.done q x st r) := k.chip s _

theorem Kept.stageDone (s : State) (q : Nat) (x : InDesc) (st a b : Nat) : P s (s.stageDone q x st a b) := k.chip s _

theorem Kept.onChip' {s u : State} (h : P s u) (f : Chip → Chip) : P s (u.onChip f) := k.trans h (k.chip u _)

theorem Kept.done' {s u : State} (h : P s u) (q : Nat) (x : InDesc) (st : Nat) (r : List Byte) : P s (u.done q x st r) := k.trans h (k.chip u _)

theorem Kept.issue (n : Nat) (tr : List Nat) (f : State → State) (s : State) (h : P s (f s)) : P s (issue n tr f s) := by
  unfold Machine.issue
  refine k.ite (k.refl s) (k.ite (k.chip s _) ?_)
  cases tr with
  | nil => exact h
  | cons t ts => exact k.chip s _

theorem Kept.issueD (n : Nat) (r : Ecc) (tr : List Nat) (f : State → State) (s : State) (h : ∀ u, u.mem = s.mem → P u (f u)) : P s (issueD n r tr f s) :=
  k.issue _ _ _ _ (k.trans (k.onChip s _) (h _ rfl))

theorem Kept.issueC (n : Nat) (tr : List Nat) (f : Chip → Chip) (s : State) : P s (issueC n tr f s) := k.issue n tr _ s (k.chip s _)

theorem Kept.issueG (n : Nat) (f : Fields) (tr : List Nat) (v : W64) (s : State) : P s (issueG n f tr v s) := k.issueC n tr _ s

theorem Kept.foldl {α : Type} (f : State → α → State) (h : ∀ s a, P s (f s a)) (xs : List α) (s : State) : P s (xs.foldl f s) := by
  induction xs generalizing s with
  | nil => exact k.refl s
  | cons x xs ih => exact k.trans (h s x) (ih _)

theorem Kept.host (t q opc fn : Nat) (g : Option Nat) (body : InDesc → State → State) (s : State) (h : ∀ x u, P u (body x u)) : P s (hostCommand t q opc fn g body s) := by
  unfold hostCommand
  refine k.trans (k.at_ s t) (k.ite (k.refl _) ?_)
  cases (s.at_ t).chip.takeSys q with
  | none => exact k.refl _
  | some p =>
    obtain ⟨x, c⟩ := p
    dsimp only
    cases c.early q x with
    | some st => exact k.chip _ _
    | none => exact k.ite (k.chip _ _) (k.trans (k.chip _ c) (h x _))

theorem Kept.store (t q opc : Nat) (g : Option Nat) (body : InDesc → State → State) (s : State) (h : ∀ x u, P u (body x u)) : P s (storeCommand t q opc g body s) := by
  unfold storeCommand
  refine k.ite (k.at_ s t) (k.host _ _ _ _ _ _ _ fun x u => ?_)
  dsimp only
  refine k.trans (b := if u.chip.get (QM_QCFG_CLASS q) = 1 then
      { u with chip := { u.chip with hosts := { u.chip.hosts with lastB := u.chip.ns } } } else u) (k.ite (k.chip _ _) (k.refl _)) (k.ite (h x _) (k.done _ _ _ _ _))

theorem Kept.stageCtl (q : Nat) (x : InDesc) (tr : List Nat) (f : State → State) (s : State) (h : P s (f s)) : P s (stageCtl q x tr f s) := by
  unfold Machine.stageCtl
  cases tr with
  | nil => exact h
  | cons t ts => exact k.stageDone _ _ _ _ _ _

theorem Kept.stageC (t q fn : Nat) (body : InDesc → State → State) (s : State) (h : ∀ x u, P u (body x u)) : P s (stageCommand t q fn body s) := by
  unfold stageCommand
  exact k.ite (k.at_ s t) (k.host _ _ _ _ _ _ _ h)

theorem Kept.owned (q : Nat) (x : InDesc) (s : State) (f : Alloc → State → State) (h : ∀ a, P s (f a s)) : P s (withOwned q x s f) := by
  unfold withOwned
  cases s.chip.store.find (x.param 16 4) with
  | none => exact k.done _ _ _ _ _
  | some a => exact k.ite (h a) (k.done _ _ _ _ _)

theorem Kept.range (q : Nat) (x : InDesc) (s : State) (w : Bool) (f : Alloc → State → State) (h : ∀ a, P s (f a s)) : P s (withRange q x s w f) := by
  unfold withRange
  cases s.chip.store.find (x.param 16 4) with
  | none => exact k.done _ _ _ _ _
  | some a => exact k.ite (k.done _ _ _ _ _) (k.ite (k.done _ _ _ _ _) (h a))

theorem Kept.branchTo (n : Nat) (f : Fields) (tr : List Nat) (b : Bool) (pre : Chip → Chip) (s : State) : P s (branchTo n f tr b pre s) := by
  unfold Machine.branchTo; exact k.issueC _ _ _ _

theorem Kept.tick (s : State) : P s s.tick := by
  unfold State.tick; exact k.ite (k.at_ _ _) (k.trans (k.chip s _) (k.at_ _ _))

theorem Kept.compose (n : CtxId) (r : Ecc) (f : Fields) (tr : List Nat) (x : SlotContent) (w h : Nat) (s : State) : P s (compose n r f tr x w h s) := by
  unfold Machine.compose; exact k.issueD _ _ _ _ _ fun u _ => k.onChip u _

theorem Kept.tableDone (n : CtxId) (u : Bool) (s : State) : P s (tableLoadDone n u s) := by
  unfold tableLoadDone
  have fin (f : State → State) (g : ∀ s, P s (f s)) (tr : List Nat) (s : State) : P s (match tr with
      | [] => (f s).onChip fun c => (c.next n).ckpt n
      | t :: ts => s.onChip fun c => c.trap n (ts.foldl Nat.min t)) := by
    cases tr with
    | nil => exact k.onChip' (g s) _
    | cons t ts => exact k.onChip _ _
  cases s.chip.pendOp n with
  | none => exact k.refl s
  | some o =>
    cases o with
    | tload gd ty mask j => exact k.trans (k.onChip s _) (k.ite (k.onChip _ _) (fin _ (fun s => k.trans (k.onChip s _) (k.onChip _ _)) _ _))
    | tcopy ty mask => exact k.trans (k.onChip s _) (k.ite (k.onChip _ _) (fin _ (fun s => k.onChip s _) _ _))
    | _ => exact k.refl s

theorem Kept.regRead (s : State) (t addr : Nat) : P s (s.regRead t addr).2 := by
  unfold State.regRead
  cases blockAt addr with
  | none => dsimp only; exact k.onChip s _
  | some p =>
    obtain ⟨b, i⟩ := p
    dsimp only
    split
    · dsimp only; exact k.onChip s _
    · split
      · exact k.chip _ _
      · unfold State.readWord
        cases fieldsAt b i addr with
        | nil => exact k.refl s
        | cons r rs =>
          dsimp only
          split
          · dsimp only; exact k.trans (k.ite (k.onChip s _) (k.refl s)) (k.onChip (if b = Blk.cd then s.onChip Chip.sampleDemand else s) _)
          · exact k.ite (k.onChip s _) (k.refl s)

theorem Kept.regReads (s : State) (t addr n : Nat) : P s (s.regReads t addr n).2 := by
  induction n generalizing s addr with
  | zero => exact k.refl s
  | succ n ih => exact k.trans (k.regRead s t addr) (ih _ _)

theorem Kept.submit (q : Nat) (x : InDesc) (j : CodecJob) (s : State) : P s (submit q x j s) := by
  unfold Machine.submit; exact k.ite (k.done _ _ _ _ _) (k.onChip _ _)

theorem Kept.codec (op : CodecOp) (q : Nat) (x : InDesc) (s : State) : P s (codecBody op q x s) := by
  unfold codecBody
  refine k.ite (k.done _ _ _ _ _) ?_
  split
  · exact k.ite (k.done _ _ _ _ _) (k.ite (k.done _ _ _ _ _) (k.submit _ _ _ _))
  · exact k.done _ _ _ _ _

theorem Kept.report (q : Nat) (host : List Byte) (r : Ecc) (lost : List Nat) (x : InDesc) (s : State) : P s (reportBody q host r lost x s) := by
  unfold reportBody
  have out (st : Nat) (u : State) : P u ((u.onChip (·.bump CH_CNT_REJECTED)).done q x st) := k.done' (k.onChip u _) _ _ _ _
  refine k.ite (out _ _) (k.ite (out _ _) (k.ite (k.trans (k.onChip s _) (out _ _)) ?_))
  refine k.trans (b := if decide (x.param 16 1 = 0) = true then s.onChip (·.jobStoreRead r) else s) (k.ite (k.onChip _ _) (k.refl _)) ?_
  generalize (if decide (x.param 16 1 = 0) = true then s.onChip (·.jobStoreRead r) else s) = u
  refine k.trans (b := if x.param 16 1 = 1 then u.onChip fun c => c.emit .pcieFetch (c.qTenant q) [q, x.param 24 8, x.param 32 4] else u)
    (k.ite (k.onChip _ _) (k.refl _)) (k.trans (k.onChip _ _) (k.ite (out _ _) (k.chip _ _)))

theorem Kept.needStream (b n : Nat) (e : Nat × Nat × Nat) (s : State) : P s (s.needStream b n e) := by
  unfold State.needStream
  dsimp only
  split
  · exact k.refl s
  · exact k.onChip s _

theorem Kept.askTiles (b n : Nat) (s : State) : P s (askTiles b s n) := by
  unfold Machine.askTiles
  exact k.ite (k.refl s) (k.onChip' (k.foldl _ (fun s e => k.needStream _ _ e s) _ _) _)

theorem Kept.startPass (n : Nat) (ns : List Nat) (s : State) : P s (startPass n ns s) := by
  unfold Machine.startPass
  exact k.onChip' (k.trans (k.onChip s _) (k.trans (k.foldl (Machine.startRow n) (fun s a => by unfold startRow; exact k.trans (k.onChip s _) (k.onChip _ _)) _ _)
    (k.foldl _ (fun s m => k.askTiles n m s) _ _))) _

theorem Kept.tileFetch (h sg b n : Nat) (r : Ecc) (s : State) : P s (tileFetchDone h sg b n r s) := by
  unfold tileFetchDone
  split
  · exact k.refl s
  · exact k.onChip s _

theorem Kept.twinJob (j : CodecJob) (ok : Bool) (bad : List Nat) (s : State) : P s (twinJobDone j ok bad s) := by
  unfold twinJobDone
  exact k.ite (k.onChip s _) (k.onChip s _)

theorem Kept.record (s : State) (l : Nat) (fr : List RxBlock) (i ty : Nat) (f : List Byte → State → State) (h : ∀ r u, P u (f r u)) : P s (s.record l fr i ty f) := by
  unfold State.record
  refine k.ite (k.refl s) (k.trans (b := if (fr.any fun x => x.data) = true then s.onChip (·.dataBlock l) else s) (k.ite (k.onChip _ _) (k.refl s)) ?_)
  dsimp only
  cases statRecord fr i with
  | none => exact k.refl _
  | some r => exact k.ite (h _ _) (k.refl _)
end
/-! ### Operations that store -/

theorem wf_storeD (s : State) (a : Nat) (bs : List Byte) : wfMem s (storeD s a bs) := ⟨rfl, fun h => ⟨h.1, ByteMem.wf_write _ _ _ h.2.1, h.2.2⟩⟩

theorem wf_storeJ (s : State) (a : Nat) (bs : List Byte) : wfMem s (storeJ s a bs) := ⟨rfl, fun h => ⟨h.1, h.2.1, ByteMem.wf_write _ _ _ h.2.2⟩⟩

theorem wf_wipe (s : State) (a n : Nat) : wfMem s (wipe s a n) := by unfold wipe; exact kept_wf.ite (kept_wf.refl s) (wf_storeJ _ _ _)

theorem FMap.wf_nil {α : Type} (d : α) : FMap.wf d ([] : FMap α) := ⟨.nil, by simp⟩

theorem wf_puts (ws : List (Nat × W64)) (m : FMap W64) (h : FMap.wf 0 m) : FMap.wf 0 (ws.foldl (fun m e => FMap.put 0 m e.1 e.2) m) := by
  induction ws generalizing m with
  | nil => exact h
  | cons w ws ih => exact ih _ (FMap.wf_put _ _ h)

theorem wf_loadImage (img : List Byte) (s : State) : wfMem s (loadImage img s) :=
  ⟨rfl, fun h => ⟨wf_puts _ _ (FMap.wf_keep _ h.1), h.2.1, h.2.2⟩⟩

theorem freshState_mem (s : State) : (freshState s).mem = { prog := FMap.keep (fun i => 0x7C000 ≤ i) s.mem.prog } := rfl

theorem wf_freshState (s : State) : wfMem s (freshState s) :=
  ⟨rfl, fun h => by
    rw [freshState_mem]; exact ⟨FMap.wf_keep (fun i => decide (0x7C000 ≤ i)) h.1, FMap.wf_nil _, FMap.wf_nil _⟩⟩

theorem wf_powerLost (keep : Nat → Bool) (s : State) : wfMem s (powerLost keep s) :=
  ⟨rfl, fun _ => by unfold powerLost; exact ⟨FMap.wf_nil _, FMap.wf_nil _, FMap.wf_nil _⟩⟩

theorem wf_powerDown (st : Nat) (s : State) : wfMem s (powerDown st s) := kept_wf.onChip' (wf_powerLost _ s) _

theorem wf_startUp (b : Bool) (s : State) : wfMem s (startUp b s) := kept_wf.onChip' (wf_powerLost _ s) _

theorem wf_powerFall (s : State) : wfMem s (powerFall s) := kept_wf.onChip' (kept_wf.trans (kept_wf.onChip s _) (wf_powerLost _ _)) _

theorem wf_applyItem (s : State) (e : JItem) : wfMem s (applyItem s e) := by
  unfold applyItem
  dsimp only
  split <;> try exact kept_wf.onChip s _
  · exact wf_storeJ _ _ _
  · exact wf_storeD _ _ _
  · unfold applyStage; split <;> exact kept_wf.onChip s _
  · unfold applyRunctl
    split
    · exact kept_wf.onChip s _
    · exact kept_wf.refl s
    · exact kept_wf.onChip s _
    · exact kept_wf.onChip s _
    · split
      · exact wf_loadImage _ _
      · exact kept_wf.refl s
  · exact ⟨rfl, fun h => ⟨FMap.wf_put _ _ h.1, h.2.1, h.2.2⟩⟩

theorem wf_adopt (s : State) : wfMem s (adoptSnapshot s) := by
  unfold adoptSnapshot
  exact kept_wf.onChip' (kept_wf.trans (wf_freshState s) (kept_wf.trans (kept_wf.foldl _ (fun s n => kept_wf.foldl _ wf_applyItem _ s) _ _)
    (kept_wf.foldl _ (fun s (e : JEntry) => wf_applyItem s e.item) _ _))) _

theorem wf_applyEntry (s : State) (e : Nat × JItem) : wfMem s (applyEntry s e) := by
  unfold applyEntry
  exact kept_wf.ite (kept_wf.ite (kept_wf.onChip' (kept_wf.trans (kept_wf.onChip s _) (wf_applyItem _ _)) _) (kept_wf.ite (kept_wf.refl s) (kept_wf.onChip s _)))
    (kept_wf.ite (kept_wf.onChip s _) (kept_wf.refl s))

theorem wf_ropeJrn (r : Nat) (es : List (Nat × JItem)) (s : State) : wfMem s (ropeJrn r es s) := by
  unfold ropeJrn
  exact kept_wf.trans (kept_wf.chip s _) (kept_wf.ite (kept_wf.onChip' (kept_wf.foldl _ wf_applyEntry _ _) _) (kept_wf.refl _))

theorem wf_freshActive (s : State) : wfMem s (freshActive s) := by
  unfold freshActive
  exact kept_wf.onChip' (kept_wf.trans (kept_wf.onChip s _) (wf_freshState _)) _

theorem wf_epochRecord (l : Nat) (r : List Byte) (s : State) : wfMem s (epochRecord l r s) := by
  unfold epochRecord
  refine kept_wf.trans (kept_wf.onChip s _) (kept_wf.ite (kept_wf.onChip' ?_ _) (kept_wf.onChip _ _))
  exact wf_freshActive _

theorem wf_appendText (n : CtxId) (f : Fields) (a : Nat) (cs : List Byte) (s : State) : wfMem s (appendText n f a cs s) := by
  unfold appendText
  generalize textLen s a = k
  refine kept_wf.onChip' (kept_wf.trans (b := storeD s (a + 1 + k) cs) ?_ ?_) _
  · exact wf_storeD _ _ _
  · exact wf_storeD _ _ _

theorem wf_atomicD (n : CtxId) (f : Fields) (ecc : Ecc) (new : W64 → Option W64) (s : State) : wfMem s (atomicD n f ecc new s) := by
  unfold atomicD
  refine kept_wf.issueD _ _ _ _ _ fun u _ => kept_wf.onChip' ?_ _
  split
  · exact wf_storeD _ _ _
  · exact kept_wf.refl u

theorem wf_jobStoreDone (n : CtxId) (u : Bool) (s : State) : wfMem s (jobStoreDone n u s) := by
  unfold jobStoreDone
  split
  · exact kept_wf.ite (kept_wf.onChip _ _) (kept_wf.onChip _ _)
  · exact kept_wf.ite (kept_wf.onChip _ _) (kept_wf.onChip' (wf_storeD _ _ _) _)
  · exact kept_wf.refl s

theorem wf_endJob (j : CodecJob) (st : Nat) (r : List Byte) {s u : State} (h : wfMem s u) : wfMem s (endJob j st r u) :=
  kept_wf.onChip' (kept_wf.onChip' h _) _

theorem wf_hostJob (j : CodecJob) (r : Ecc) (bad : List Nat) (v : Bool) (s : State) : wfMem s (hostJobDone j r bad v s) := by
  unfold hostJobDone
  split
  · exact kept_wf.trans (kept_wf.onChip s _) (kept_wf.ite (wf_endJob _ _ _ (kept_wf.trans (kept_wf.chip _ _) (wf_wipe _ _ _)))
      (kept_wf.ite (wf_endJob _ _ _ (kept_wf.refl _)) (kept_wf.ite (wf_endJob _ _ _ (wf_storeJ _ _ _)) (wf_endJob _ _ _ (wf_wipe _ _ _)))))
  · exact wf_endJob _ _ _ (kept_wf.refl s)

theorem wf_sealJob (j : CodecJob) (r : Ecc) (s : State) : wfMem s (sealJobDone j r s) := by
  unfold sealJobDone
  split
  · exact wf_endJob _ _ _ (kept_wf.refl s)
  · refine kept_wf.trans (kept_wf.onChip s _) (kept_wf.ite (wf_endJob _ _ _ (kept_wf.refl _)) (kept_wf.ite (wf_endJob _ _ _ (kept_wf.refl _))
      (kept_wf.ite (wf_endJob _ _ _ (kept_wf.refl _)) (wf_endJob _ _ _ (kept_wf.onChip _ _)))))

theorem wf_loadBody (q : Nat) (r : Ecc) (x : InDesc) (s : State) : wfMem s (loadBody q r x s) := by
  unfold loadBody
  refine kept_wf.ite (kept_wf.done _ _ _ _ _) (kept_wf.ite (kept_wf.done _ _ _ _ _) ?_)
  split
  · exact kept_wf.done _ _ _ _ _
  · refine kept_wf.ite (kept_wf.done _ _ _ _ _) (kept_wf.ite (kept_wf.done _ _ _ _ _)
      (kept_wf.trans (kept_wf.onChip s _) (kept_wf.ite (kept_wf.done _ _ _ _ _) ?_)))
    split
    · exact kept_wf.done _ _ _ _ _
    · exact kept_wf.done' (kept_wf.onChip' (wf_loadImage _ _) _) _ _ _ _

theorem wf_writeBody (q : Nat) (host : List Byte) (x : InDesc) (s : State) : wfMem s (writeBody q host x s) := by
  unfold writeBody
  refine kept_wf.ite (kept_wf.done _ _ _ _ _) (kept_wf.range _ _ _ _ _ fun a => kept_wf.done' (kept_wf.trans (kept_wf.ite (kept_wf.refl s) (kept_wf.onChip s _)) (wf_storeJ _ _ _)) _ _ _ _)

theorem wf_thermal (temps : List (Option Int)) (v : Nat) (o : Bool) (s : State) : wfMem s (if !s.chip.health.powerGood then s
    else
      let s := s.onChip fun c => c.thermalSample temps v o
      if s.chip.shutClears && s.chip.health.silent then shutOverRestart s
      else if s.chip.shutClears then s.onChip fun c => c.onHealth fun h => { h with shutAt := none }
      else s) :=
  kept_wf.ite (kept_wf.refl s) (kept_wf.trans (kept_wf.onChip s _) (kept_wf.ite (kept_wf.trans (kept_wf.onChip _ _) (wf_startUp _ _))
    (kept_wf.ite (kept_wf.onChip _ _) (kept_wf.refl _))))

end Sys2Proof.Machine
end

