-- ==== Sys2Proof/Laws/Reports.lean ====
section
/-!
SUPPORT. Sys2Proof/Laws/Reports.lean: what reporting can do to the chip, said once: posting records and events, triggering dispatch,
journalling, halting fire, starting a handoff and raising a fault leave everything that `Chip.kept` and `Fld.still` name unchanged.
-/
namespace Sys2Proof.Machine

/-! ### `like` is kept by composition -/

theorem Chip.like_refl (c : Chip) : c.like c := ⟨rfl, fun _ _ => rfl⟩

theorem Chip.like_trans {a b c : Chip} (h : a.like b) (k : b.like c) : a.like c :=
  ⟨k.1.trans h.1, fun f hf => (k.2 f hf).trans (h.2 f hf)⟩

theorem Chip.like_foldl {α : Type} (g : Chip → α → Chip) (hg : ∀ (c : Chip) (a : α), c.like (g c a)) (xs : List α) (c : Chip) :
    c.like (xs.foldl g c) := by
  induction xs generalizing c with
  | nil => exact c.like_refl
  | cons x xs ih => exact Chip.like_trans (hg c x) (ih _)

theorem Chip.like_forAll {α : Type} (c : Chip) (xs : List α) (g : Chip → α → Chip) (hg : ∀ (c : Chip) (a : α), c.like (g c a)) :
    c.like (c.forAll xs g) := Chip.like_foldl g hg xs c

theorem Chip.like_ite {p : Prop} [Decidable p] {c d e : Chip} (h : c.like d) (k : c.like e) : c.like (if p then d else e) := by
  split <;> assumption

/-- Registers unchanged and the rest alike. -/
theorem Chip.like_of {c d : Chip} (hr : d.regs = c.regs) (hk : d.kept = c.kept) : c.like d :=
  ⟨hk, fun f _ => Chip.get_congr hr f⟩

theorem Chip.like_fire {c d : Chip} (h : c.like d) (x : Fire) : c.like { d with fire := x } := ⟨h.1, h.2⟩

theorem Chip.like_twin {c d : Chip} (h : c.like d) (x : Twin) : c.like { d with twin := x } := ⟨h.1, h.2⟩

/-- A field that is not still may be written. -/
theorem Chip.like_set (c : Chip) (f : Fld) (v : Nat) (hf : ¬ f.still) : c.like (c.set f v) :=
  ⟨rfl, fun h hh => Chip.get_set_ne _ _ _ _ (fun e => hf (by unfold Fld.still at hh ⊢; rw [← e]; exact hh))⟩

theorem Chip.like_bump (c : Chip) (f : Fld) (n : Nat) (hf : ¬ f.still) : c.like (c.bump f n) := Chip.like_set _ _ _ hf

theorem Chip.like_count (c : Chip) (f : Fld) (n : Nat) (hf : ¬ f.still) : c.like (c.count f n) := Chip.like_set _ _ _ hf

/-! ### Fields that reporting writes -/

/-- Every window lies at a multiple of 64 KiB. -/
theorem Blk.base_aligned (b : Blk) (i : Nat) : b.base i % 65536 = 0 := by cases b <;> simp only [Blk.base] <;> omega

/-- The fault registers of every window are not still. -/
theorem not_still_fault (b : Blk) (i off lo w r : Nat) (ho : off < 0x40) (hl : lo < 128) : ¬ (fld b i off lo w r).still := by
  intro h
  have h1 := h.1
  have := b.base_aligned i
  simp only [fld] at h1
  omega

theorem not_still_tenant (t off lo w r : Nat) : ¬ (fld .tn t off lo w r).still := by
  intro h
  have h1 := h.2.1
  simp only [fld, Blk.base] at h1
  omega

theorem not_still_dispatch (off lo w r : Nat) (h1 : 0x400 ≤ off) (h2 : off < 0x800) (hl : lo < 128) :
    ¬ (fld .seq 0 off lo w r).still := by
  intro h
  have h3 := h.2.2.1
  simp only [fld, Blk.base] at h3
  omega

theorem not_still_fs_stat (lo w r : Nat) (hl : lo < 128) : ¬ (fld .fs 0 0x40 lo w r).still := by
  intro h; have h3 := h.2.2.2.1; simp only [fld, Blk.base] at h3; omega

theorem not_still_fs_halt (lo w r : Nat) (hl : lo < 128) : ¬ (fld .fs 0 0x64 lo w r).still := by
  intro h; have h3 := h.2.2.2.2.1; simp only [fld, Blk.base] at h3; omega

theorem not_still_tw_stat (lo w r : Nat) (hl : lo < 128) : ¬ (fld .tw 0 0x4C lo w r).still := by
  intro h; have h3 := h.2.2.2.2.2.1; simp only [fld, Blk.base] at h3; omega

theorem not_still_jseq : ¬ TW_JSEQ_JSEQ.still := by
  intro h; exact h.2.2.2.2.2.2 (by decide)

/-! ### Ports, queues and records -/

theorem Chip.like_emit (c : Chip) (k : EmitKind) (p : Nat) (as : List Nat) (bs : List Byte) : c.like (c.emit k p as bs) :=
  Chip.like_of rfl rfl

theorem Chip.like_jrn (c : Chip) (k : JKind) (as : List Nat) (bs : List Byte) : c.like (c.jrn k as bs) := by
  unfold Chip.jrn
  exact Chip.like_ite (Chip.like_trans (c.like_set _ _ not_still_jseq) (Chip.like_of rfl rfl)) c.like_refl

theorem Chip.like_ropeSend (c : Chip) (k : EmitKind) (as : List Nat) (bs : List Byte) (j : Option Nat) :
    c.like (c.ropeSend k as bs j) := by
  unfold Chip.ropeSend
  exact Chip.like_ite (Chip.like_of rfl rfl) c.like_refl

theorem Chip.like_flushJrn (c : Chip) : c.like c.flushJrn := by
  unfold Chip.flushJrn
  exact Chip.like_ite c.like_refl (Chip.like_trans (Chip.like_of (d := { c with twin := { c.twin with fresh := [] } }) rfl rfl)
    (Chip.like_ropeSend ..))

theorem Chip.like_setBar (c : Chip) (k : Nat) (b : Bar) : c.like (c.setBar k b) := Chip.like_of rfl rfl
theorem Chip.like_setQueue (c : Chip) (q : Nat) (x : Queue) : c.like (c.setQueue q x) := Chip.like_of rfl rfl
theorem Chip.like_setSession (c : Chip) (t p : Nat) (x : Option Session) : c.like (c.setSession t p x) := Chip.like_of rfl rfl
theorem Chip.like_setEntry (c : Chip) (i : Nat) (e : DispEntry) : c.like (c.setEntry i e) := Chip.like_of rfl rfl

theorem Chip.like_sendFrame (c : Chip) (k : EmitKind) (t p ty nrec dlen : Nat) (bs : List Byte) :
    c.like (c.sendFrame k t p ty nrec dlen bs) := by
  unfold Chip.sendFrame
  split
  · exact c.like_refl
  · exact Chip.like_trans (Chip.like_emit ..) (Chip.like_setSession ..)

theorem Chip.like_msix (c : Chip) (t q : Nat) : c.like (c.msix t q) := by
  unfold Chip.msix
  exact Chip.like_ite (Chip.like_trans (Chip.like_emit ..) (Chip.like_setQueue ..)) (Chip.like_setQueue ..)

theorem Chip.like_deliverOne (c : Chip) (q : Nat) : c.like (c.deliverOne q) := by
  unfold Chip.deliverOne
  simp only
  split
  · exact c.like_refl
  · refine Chip.like_ite ?_ c.like_refl
    have h1 : ∀ b x, c.like (if b = true then (c.setQueue q x).count (TN_QCREL_CREL (c.qTenant q) q) else c.setQueue q x) :=
      fun _ _ => Chip.like_ite (Chip.like_trans (Chip.like_setQueue ..) (Chip.like_count _ _ _ (not_still_tenant _ _ _ _ _)))
        (Chip.like_setQueue ..)
    refine Chip.like_ite ?_ (Chip.like_trans (h1 _ _) (Chip.like_sendFrame ..))
    exact Chip.like_trans (h1 _ _) (Chip.like_trans (Chip.like_emit ..)
      (Chip.like_trans (Chip.like_count _ _ _ (not_still_tenant _ _ _ _ _)) (Chip.like_msix ..)))

theorem Chip.like_deliver (n : Nat) (c : Chip) (q : Nat) : c.like (Chip.deliver n c q) := by
  induction n generalizing c with
  | zero => exact c.like_refl
  | succ n ih => exact Chip.like_ite c.like_refl (Chip.like_trans (c.like_deliverOne q) (ih _))

theorem Chip.like_postRecord (c : Chip) (q : Nat) (b : Bool) (r b2 b3 : Nat) (bs : List Byte) :
    c.like (c.postRecord q b r b2 b3 bs) := Chip.like_trans (Chip.like_setQueue ..) (Chip.like_deliver ..)

theorem Chip.like_complete (c : Chip) (q tag rx st : Nat) (bs : List Byte) : c.like (c.complete q tag rx st bs) :=
  Chip.like_trans (Chip.like_setQueue ..) (Chip.like_postRecord ..)

theorem Chip.like_postEvent (c : Chip) (t ev fl sev code data : Nat) (bs : List Byte) :
    c.like (c.postEvent t ev fl sev code data bs).2 := by
  unfold Chip.postEvent
  simp only
  split
  · split
    · exact Chip.like_trans (Chip.like_of (c := c) rfl rfl) (Chip.like_postRecord ..)
    · exact Chip.like_of rfl rfl
  · exact Chip.like_of rfl rfl

theorem Chip.like_trigger (c : Chip) (i : Nat) (b : Option (Blk × Nat)) (hi : i < 128) : c.like (c.trigger i b) := by
  unfold Chip.trigger
  exact Chip.like_trans (Chip.like_setEntry ..)
    (Chip.like_trans (Chip.like_set _ _ _ (not_still_dispatch _ _ _ _ (by omega) (by omega) (by omega)))
      (Chip.like_bump _ _ _ (not_still_dispatch _ _ _ _ (by omega) (by omega) (by omega))))

theorem Chip.like_postCoded (c : Chip) (mask ev code data : Nat) (hev : ev < 128) : c.like (c.postCoded mask ev code data).2 := by
  unfold Chip.postCoded
  refine Chip.like_trans ?_ (Chip.like_trigger _ _ _ hev)
  suffices h : ∀ (xs : List Nat) (r : Nat × Chip), r.2.like (xs.foldl (fun (r : Nat × Chip) t =>
      let (ok, c) := r.2.postEvent t ev 0 0xFF code data []
      (if ok then r.1 else r.1 + 2 ^ t, c)) r).2 from h _ (0, c)
  intro xs
  induction xs with
  | nil => exact fun r => r.2.like_refl
  | cons x xs ih => exact fun r => Chip.like_trans (r.2.like_postEvent x ev 0 0xFF code data []) (ih _)

theorem Chip.like_event (c : Chip) (mask ev code data : Nat) (hev : ev < 128) : c.like (c.event mask ev code data) :=
  c.like_postCoded mask ev code data hev

/-! ### Halting fire and the handoff -/

theorem Chip.like_sendHalt (c : Chip) : c.like c.sendHalt :=
  Chip.like_forAll _ _ _ fun _ _ => Chip.like_emit ..

theorem Chip.like_releaseRow (c : Chip) (k n : Nat) (fired kept : Bool) : c.like (c.releaseRow k n fired kept) := by
  unfold Chip.releaseRow
  simp only
  split
  · exact c.like_refl
  · split
    · exact Chip.like_fire (Chip.like_trans (Chip.like_setBar ..) (Chip.like_jrn ..)) _
    · exact Chip.like_fire (Chip.like_setBar ..) _

theorem Chip.like_releaseUnfired (c : Chip) : c.like c.releaseUnfired := by
  unfold Chip.releaseUnfired
  refine Chip.like_ite ?_ c.like_refl
  exact Chip.like_forAll _ _ _ fun _ _ => Chip.like_forAll _ _ _ fun _ _ =>
    Chip.like_trans (Chip.like_releaseRow ..) (Chip.like_bump _ _ _ (not_still_fs_halt 0 16 0 (by omega)))

theorem Chip.like_dropStamps (c : Chip) : c.like c.dropStamps := Chip.like_of rfl rfl

theorem Chip.like_haltMark (c : Chip) (cause : Nat) : c.like (c.haltMark cause) := by
  unfold Chip.haltMark
  refine Chip.like_trans ?_ (Chip.like_releaseUnfired _)
  refine Chip.like_trans (b := (((if c.is FS_STAT_HALTED then c else (c.set FS_STAT_HALTED 1).bump FS_HALT_HALTS).set
    FS_STAT_CAUSE cause).set FS_STAT_MODE 0).dropStamps) ?_ (Chip.like_of rfl rfl)
  refine Chip.like_trans ?_ (Chip.like_dropStamps _)
  refine Chip.like_trans ?_ (Chip.like_set _ _ _ (not_still_fs_stat _ _ _ (by omega)))
  refine Chip.like_trans ?_ (Chip.like_set _ _ _ (not_still_fs_stat _ _ _ (by omega)))
  exact Chip.like_ite c.like_refl (Chip.like_trans (Chip.like_set _ _ _ (not_still_fs_stat _ _ _ (by omega)))
    (Chip.like_bump _ _ _ (not_still_fs_halt _ _ _ (by omega))))

theorem Chip.like_haltFire (c : Chip) (cause : Nat) : c.like (c.haltFire cause) :=
  Chip.like_trans (Chip.like_sendHalt ..) (Chip.like_trans (Chip.like_jrn ..) (Chip.like_haltMark ..))

theorem Chip.like_ckpt0 (c : Chip) : c.like c.ckpt0 := Chip.like_jrn ..

theorem Chip.like_ckpt (c : Chip) (n : Nat) : c.like (c.ckpt n) := Chip.like_ite c.like_ckpt0 c.like_refl

theorem Chip.like_startHandoff (c : Chip) (a b : Bool) : c.like (c.startHandoff a b) := by
  unfold Chip.startHandoff
  refine Chip.like_ite ?_ c.like_refl
  simp only
  refine Chip.like_trans (b := (c.fresh (2 ^ 32 - 2)).2) (Chip.like_of rfl rfl) ?_
  refine Chip.like_trans ?_ (Chip.like_ropeSend ..)
  refine Chip.like_trans (Chip.like_set _ TW_STAT_HANDOFF 1 (not_still_tw_stat _ _ _ (by omega))) ?_
  exact Chip.like_trans (Chip.like_ckpt0 _) (Chip.like_trans (Chip.like_flushJrn _) (Chip.like_of rfl rfl))

/-! ### Raising a fault -/

theorem Chip.like_setReaction (c : Chip) (b : Blk) (i s v : Nat) : c.like (c.setReaction b i s v) := Chip.like_of rfl rfl

theorem Chip.like_setBit (c : Chip) (f : Fld) (s : Nat) (v : Bool) (hf : ¬ f.still) : c.like (c.setBit f s v) :=
  Chip.like_ite c.like_refl (Chip.like_ite (c.like_set _ _ hf) (c.like_set _ _ hf))

theorem Chip.like_refreshSum (c : Chip) (b : Blk) (i : Nat) : c.like (c.refreshSum b i) := by
  have h := fun lo w r hl => not_still_fault b i 0x30 lo w r (by decide) hl
  unfold Chip.refreshSum
  exact Chip.like_trans (Chip.like_set _ _ _ (h _ _ _ (by omega))) (Chip.like_trans (Chip.like_set _ _ _ (h _ _ _ (by omega)))
    (Chip.like_trans (Chip.like_set _ _ _ (h _ _ _ (by omega))) (Chip.like_trans (Chip.like_set _ _ _ (h _ _ _ (by omega)))
      (Chip.like_set _ _ _ (h _ _ _ (by omega))))))

theorem Chip.like_latchOcc (c : Chip) (b : Blk) (i : Nat) (o : Occ) : c.like (c.latchOcc b i o) := by
  have h := fun off lo w r ho hl => not_still_fault b i off lo w r ho hl
  unfold Chip.latchOcc
  refine Chip.like_trans ?_ (Chip.like_setReaction ..)
  refine Chip.like_trans ?_ (Chip.like_bump _ _ _ (h _ _ _ _ (by omega) (by omega)))
  have h3 : ∀ (d : Chip), c.like d → c.like (if c.isRepeat b i o = true then d.bump (FCNT_ESCALATIONS b i) else d) :=
    fun d hd => Chip.like_ite (Chip.like_trans hd (Chip.like_bump _ _ _ (h _ _ _ _ (by omega) (by omega)))) hd
  apply h3
  refine Chip.like_trans ?_ (Chip.like_setBit _ _ _ _ (h _ _ _ _ (by omega) (by omega)))
  exact Chip.like_trans (Chip.like_setBit _ _ _ _ (h _ _ _ _ (by omega) (by omega)))
    (Chip.like_setBit _ _ _ _ (h _ _ _ _ (by omega) (by omega)))

theorem Chip.like_faultRecord (c : Chip) (b : Blk) (i ev : Nat) (ts : List Taken) (extra : Nat) (hev : ev < 128) :
    c.like (c.faultRecord b i ev ts extra) := by
  unfold Chip.faultRecord
  split
  · exact c.like_refl
  · exact Chip.like_trans (Chip.like_forAll _ _ _ fun _ _ => Chip.like_postEvent ..) (Chip.like_trigger _ _ _ hev)

theorem Chip.like_forAll_mem {α : Type} (xs : List α) (g : Chip → α → Chip) (c : Chip)
    (hg : ∀ (c : Chip), ∀ a ∈ xs, c.like (g c a)) : c.like (c.forAll xs g) := by
  unfold Chip.forAll
  induction xs generalizing c with
  | nil => exact c.like_refl
  | cons x xs ih =>
    exact Chip.like_trans (hg c x List.mem_cons_self) (ih _ fun c a ha => hg c a (List.mem_cons_of_mem _ ha))

theorem Chip.like_react (c : Chip) (r : Nat) :
    c.like (if r = 4 then c.haltFire 2 else if r = 3 then c.startHandoff false true else c) :=
  Chip.like_ite (Chip.like_haltFire ..) (Chip.like_ite (Chip.like_startHandoff ..) (Chip.like_refl _))

/-- Raising a fault touches nothing but what reporting touches. -/
theorem Chip.like_raiseAll (c : Chip) (b : Blk) (i : Nat) (os : List Occ) (extra : Nat) (hev : ∀ s, evSource b i s < 128) :
    c.like (c.raiseAll b i os extra) := by
  have h := fun lo w r hl => not_still_fault b i 0x3C lo w r (by decide) hl
  unfold Chip.raiseAll
  simp only
  split
  · exact c.like_refl
  · refine Chip.like_trans ?_ (Chip.like_react _ _)
    refine Chip.like_trans ?_ (Chip.like_forAll_mem _ _ _ fun c ev he => Chip.like_faultRecord _ _ _ _ _ _ ?_)
    · refine Chip.like_trans ?_ (Chip.like_refreshSum _ b i)
      refine Chip.like_trans ?_ (Chip.like_set _ _ _ (h _ _ _ (by omega)))
      refine Chip.like_trans ?_ (Chip.like_set _ _ _ (h _ _ _ (by omega)))
      refine Chip.like_trans ?_ (Chip.like_set _ _ _ (h _ _ _ (by omega)))
      refine Chip.like_trans ?_ (Chip.like_set _ _ _ (h _ _ _ (by omega)))
      refine Chip.like_trans ?_ (Chip.like_set _ _ _ (h _ _ _ (by omega)))
      exact Chip.like_forAll c _ (fun c o => c.latchOcc b i o) fun c o => Chip.like_latchOcc c b i o
    · obtain ⟨x, -, rfl⟩ := List.mem_map.1 (List.mem_eraseDups.1 he)
      exact hev _

theorem Chip.like_raise (c : Chip) (b : Blk) (i : Nat) (o : Occ) (hev : ∀ s, evSource b i s < 128) : c.like (c.raise b i o) :=
  Chip.like_raiseAll c b i [o] 0 hev

theorem Chip.like_checker (c : Chip) (b : Blk) (i s cell : Nat) : c.like (c.checker b i s cell).2 := by
  unfold Chip.checker
  split
  · split
    · exact c.like_set _ _ (not_still_fault b i 0x38 31 1 0 (by decide) (by decide))
    · exact c.like_refl
  · exact c.like_refl

/-- What an error checker reports touches nothing but what reporting touches. -/
theorem Chip.like_checked (c : Chip) (b : Blk) (i : Nat) (o : Occ) (real : Bool) (hev : ∀ s, evSource b i s < 128) :
    c.like (c.checked b i o real) := by
  unfold Chip.checked
  have h := c.like_checker b i o.src o.cell
  exact Chip.like_ite (Chip.like_trans h (Chip.like_raise _ b i _ hev)) (Chip.like_ite (Chip.like_trans h (Chip.like_raise _ b i _ hev)) h)

/-- An instance that exists reports on one of the 64 event sources. -/
theorem evSource_lt (b : Blk) (i s : Nat) (h : i < b.count) : evSource b i s < 128 := by
  cases b <;> simp only [evSource, Blk.count] at * <;> try omega
  · split <;> omega
  · split <;> (try split) <;> omega

/-- The report of a read of D-space touches nothing but what reporting touches. -/
theorem Chip.like_dRead (c : Chip) (r : Ecc) : c.like (c.dRead r) := c.like_checked .seq 0 _ _ (evSource_lt _ _ · (by decide))

end Sys2Proof.Machine
end

