-- ==== Sys2Proof/Laws/Time.lean ====
section
/-!
SUPPORT. Sys2Proof/Laws/Time.lean: what taking effect at an instant does (R308 to R322): DT goes to the instant and never back; RATE, the
civil offset and the journal follow; everything else stays.
-/
namespace Sys2Proof.Machine

theorem Chip.later_refl (c : Chip) : c.later c := ⟨rfl, fun _ _ => rfl⟩

theorem Chip.later_trans {a b c : Chip} (h : a.later b) (k : b.later c) : a.later c :=
  ⟨k.1.trans h.1, fun f hf => (k.2 f hf).trans (h.2 f hf)⟩

theorem Chip.later_of {c d : Chip} (hr : d.regs = c.regs) (hk : d.timeless = c.timeless) : c.later d :=
  ⟨hk, fun f _ => Chip.get_congr hr f⟩

theorem Chip.later_set (c : Chip) (f : Fld) (v : Nat) (hf : f ∈ timeFields) : c.later (c.set f v) :=
  ⟨rfl, fun _ hh => Chip.get_set_ne _ _ _ _ (hh f hf)⟩

theorem Chip.later_jrn (c : Chip) (k : JKind) (as : List Nat) (bs : List Byte) : c.later (c.jrn k as bs) := by
  unfold Chip.jrn
  split
  · exact Chip.later_trans (c.later_set _ _ (by simp [timeFields])) (Chip.later_of rfl rfl)
  · exact c.later_refl

theorem Chip.later_flushJrn (c : Chip) : c.later c.flushJrn := by
  unfold Chip.flushJrn
  split
  · exact c.later_refl
  · unfold Chip.ropeSend; simp only; split <;> exact Chip.later_of rfl rfl

theorem Chip.later_moveCivil (c : Chip) (d : Int) : c.later (c.moveCivil d) := by
  unfold Chip.moveCivil
  split
  · exact c.later_refl
  · exact Chip.later_trans (c.later_set _ _ (by simp [timeFields])) (Chip.later_jrn ..)

theorem Chip.later_slewCivil (c : Chip) : c.later c.slewCivil := by
  unfold Chip.slewCivil
  split
  · exact c.later_refl
  · exact Chip.later_trans (Chip.later_moveCivil ..) (Chip.later_of rfl rfl)

theorem Chip.later_smearCivil (c : Chip) : c.later c.smearCivil := by
  unfold Chip.smearCivil
  split
  · simp only
    split
    · exact Chip.later_trans (Chip.later_moveCivil ..) (Chip.later_of rfl rfl)
    · exact Chip.later_of rfl rfl
  · exact c.later_refl

theorem Chip.later_renewTrims (c : Chip) : c.later c.renewTrims := by
  unfold Chip.renewTrims
  simp only
  split
  · exact c.later_refl
  · exact Chip.later_of rfl rfl

theorem Chip.later_releaseHold (c : Chip) : c.later c.releaseHold := by
  unfold Chip.releaseHold
  split
  · split
    · exact Chip.later_trans (Chip.later_of (c := c) rfl rfl) (Chip.later_set _ _ _ (by simp [timeFields]))
    · exact c.later_refl
  · exact c.later_refl

theorem Chip.later_slewRate (c : Chip) : c.later c.slewRate := by
  unfold Chip.slewRate
  simp only
  split
  · exact Chip.later_of rfl rfl
  · exact Chip.later_trans (Chip.later_of (c := c) rfl rfl) (Chip.later_set _ _ _ (by simp [timeFields]))

/-- Taking effect at instant t moves only what time moves. -/
theorem Chip.later_advance (c : Chip) (t : Nat) : c.later (c.advance t) := by
  unfold Chip.advance
  have h1 : c.later ({ c.flushJrn with dt := max c.flushJrn.dt t } : Chip).slewRate.renewTrims :=
    Chip.later_trans (Chip.later_trans c.later_flushJrn (Chip.later_trans (Chip.later_of (c := c.flushJrn) rfl rfl)
      (Chip.later_slewRate ({ c.flushJrn with dt := max c.flushJrn.dt t } : Chip)))) (Chip.later_renewTrims _)
  have h2 : ∀ d : Chip, c.later d → c.later (if d.is SEQ_PSTAT_OPEN = true then
      { d with health := { d.health with idleSince := d.ns } } else d) := by
    intro d hd
    split
    · exact Chip.later_trans hd (Chip.later_of rfl rfl)
    · exact hd
  have h3 : ∀ d : Chip, c.later d →
      c.later (if d.runs = true then d.slewCivil else d).smearCivil.releaseHold := by
    intro d hd
    refine Chip.later_trans (Chip.later_trans ?_ (Chip.later_smearCivil _)) (Chip.later_releaseHold _)
    split
    · exact Chip.later_trans hd (Chip.later_slewCivil _)
    · exact hd
  exact h3 _ (h2 _ h1)

/-! ### DT itself -/

@[simp] theorem Chip.jrn_dt (c : Chip) (k : JKind) (as : List Nat) (bs : List Byte) : (c.jrn k as bs).dt = c.dt := by
  unfold Chip.jrn; split <;> rfl
@[simp] theorem Chip.ropeSend_dt (c : Chip) (k : EmitKind) (as : List Nat) (bs : List Byte) (j : Option Nat) :
    (c.ropeSend k as bs j).dt = c.dt := by unfold Chip.ropeSend; split <;> rfl
@[simp] theorem Chip.flushJrn_dt (c : Chip) : c.flushJrn.dt = c.dt := by unfold Chip.flushJrn; split <;> simp
@[simp] theorem Chip.moveCivil_dt (c : Chip) (d : Int) : (c.moveCivil d).dt = c.dt := by
  unfold Chip.moveCivil Chip.jrnCivil; split <;> simp
@[simp] theorem Chip.slewCivil_dt (c : Chip) : c.slewCivil.dt = c.dt := by unfold Chip.slewCivil; split <;> simp
@[simp] theorem Chip.smearCivil_dt (c : Chip) : c.smearCivil.dt = c.dt := by
  unfold Chip.smearCivil; split <;> (try simp only) <;> (try split) <;> simp
@[simp] theorem Chip.renewTrims_dt (c : Chip) : c.renewTrims.dt = c.dt := by unfold Chip.renewTrims; simp only; split <;> rfl
@[simp] theorem Chip.releaseHold_dt (c : Chip) : c.releaseHold.dt = c.dt := by
  unfold Chip.releaseHold; split <;> (try split) <;> simp
@[simp] theorem Chip.slewRate_dt (c : Chip) : c.slewRate.dt = c.dt := by
  unfold Chip.slewRate; simp only; split <;> simp

/-- DT goes to the instant and never back (R308). -/
@[simp] theorem Chip.advance_dt (c : Chip) (t : Nat) : (c.advance t).dt = max c.dt t := by
  unfold Chip.advance; simp only; split <;> split <;> simp

/-! ### Reads at the instant -/

theorem Chip.later_latch {c d : Chip} (h : c.later d) : d.latch = c.latch :=
  (congrArg Chip.latch h.1 : d.timeless.latch = c.timeless.latch)
theorem Chip.later_held {c d : Chip} (h : c.later d) : d.held = c.held :=
  (congrArg Chip.held h.1 : d.timeless.held = c.timeless.held)
theorem Chip.later_free {c d : Chip} (h : c.later d) : d.free = c.free :=
  (congrArg Chip.free h.1 : d.timeless.free = c.timeless.free)
theorem Chip.later_seq {c d : Chip} (h : c.later d) : d.seq = c.seq :=
  (congrArg Chip.seq h.1 : d.timeless.seq = c.timeless.seq)
theorem Chip.later_strm {c d : Chip} (h : c.later d) : d.strm = c.strm :=
  (congrArg Chip.strm h.1 : d.timeless.strm = c.timeless.strm)
theorem Chip.later_vd {c d : Chip} (h : c.later d) : d.vd = c.vd :=
  (congrArg Chip.vd h.1 : d.timeless.vd = c.timeless.vd)
theorem Chip.later_stage {c d : Chip} (h : c.later d) : d.stage = c.stage :=
  (congrArg Chip.stage h.1 : d.timeless.stage = c.timeless.stage)
theorem Chip.later_store {c d : Chip} (h : c.later d) : d.store = c.store :=
  (congrArg Chip.store h.1 : d.timeless.store = c.timeless.store)
theorem Chip.later_hosts {c d : Chip} (h : c.later d) : d.hosts = c.hosts :=
  (congrArg Chip.hosts h.1 : d.timeless.hosts = c.timeless.hosts)
theorem Chip.later_faults {c d : Chip} (h : c.later d) : d.faults = c.faults :=
  (congrArg Chip.faults h.1 : d.timeless.faults = c.timeless.faults)
theorem Chip.later_bars {c d : Chip} (h : c.later d) : d.bars = c.bars :=
  (congrArg Chip.bars h.1 : d.timeless.bars = c.timeless.bars)
theorem Chip.later_colour {c d : Chip} (h : c.later d) : d.colour = c.colour :=
  (congrArg Chip.colour h.1 : d.timeless.colour = c.timeless.colour)
theorem Chip.later_fire {c d : Chip} (h : c.later d) : d.fire = c.fire :=
  (congrArg Chip.fire h.1 : d.timeless.fire = c.timeless.fire)
theorem Chip.later_motion {c d : Chip} (h : c.later d) : d.motion = c.motion :=
  (congrArg Chip.motion h.1 : d.timeless.motion = c.timeless.motion)
theorem Chip.later_lanes {c d : Chip} (h : c.later d) : d.lanes = c.lanes :=
  (congrArg Chip.lanes h.1 : d.timeless.lanes = c.timeless.lanes)

theorem State.at_chip (s : State) (t : Nat) : (s.at_ t).chip = s.chip.advance t := by
  unfold State.at_; exact State.onChip_chip ..

@[simp] theorem State.at_mem (s : State) (t : Nat) : (s.at_ t).mem = s.mem := rfl
@[simp] theorem State.at_pending (s : State) (t : Nat) : (s.at_ t).pending = s.pending := rfl
@[simp] theorem State.at_dt (s : State) (t : Nat) : (s.at_ t).chip.dt = max s.chip.dt t := by
  rw [State.at_chip]; exact Chip.advance_dt ..

/-- A register field that time does not move reads as before. -/
theorem State.at_get (s : State) (t : Nat) (h : Fld) (hh : ∀ k ∈ timeFields, h.key ≠ k.key) :
    (s.at_ t).chip.get h = s.chip.get h := by
  rw [State.at_chip]; exact (s.chip.later_advance t).2 h hh

@[simp] theorem State.at_latch (s : State) (t : Nat) : (s.at_ t).chip.latch = s.chip.latch := by
  rw [State.at_chip]; exact Chip.later_latch (s.chip.later_advance t)
@[simp] theorem State.at_held (s : State) (t : Nat) : (s.at_ t).chip.held = s.chip.held := by
  rw [State.at_chip]; exact Chip.later_held (s.chip.later_advance t)
@[simp] theorem State.at_free (s : State) (t : Nat) : (s.at_ t).chip.free = s.chip.free := by
  rw [State.at_chip]; exact Chip.later_free (s.chip.later_advance t)
@[simp] theorem State.at_seq (s : State) (t : Nat) : (s.at_ t).chip.seq = s.chip.seq := by
  rw [State.at_chip]; exact Chip.later_seq (s.chip.later_advance t)
@[simp] theorem State.at_strm (s : State) (t : Nat) : (s.at_ t).chip.strm = s.chip.strm := by
  rw [State.at_chip]; exact Chip.later_strm (s.chip.later_advance t)
@[simp] theorem State.at_vd (s : State) (t : Nat) : (s.at_ t).chip.vd = s.chip.vd := by
  rw [State.at_chip]; exact Chip.later_vd (s.chip.later_advance t)
@[simp] theorem State.at_stage (s : State) (t : Nat) : (s.at_ t).chip.stage = s.chip.stage := by
  rw [State.at_chip]; exact Chip.later_stage (s.chip.later_advance t)
@[simp] theorem State.at_store (s : State) (t : Nat) : (s.at_ t).chip.store = s.chip.store := by
  rw [State.at_chip]; exact Chip.later_store (s.chip.later_advance t)
@[simp] theorem State.at_hosts (s : State) (t : Nat) : (s.at_ t).chip.hosts = s.chip.hosts := by
  rw [State.at_chip]; exact Chip.later_hosts (s.chip.later_advance t)
@[simp] theorem State.at_faults (s : State) (t : Nat) : (s.at_ t).chip.faults = s.chip.faults := by
  rw [State.at_chip]; exact Chip.later_faults (s.chip.later_advance t)
@[simp] theorem State.at_bars (s : State) (t : Nat) : (s.at_ t).chip.bars = s.chip.bars := by
  rw [State.at_chip]; exact Chip.later_bars (s.chip.later_advance t)
@[simp] theorem State.at_colour (s : State) (t : Nat) : (s.at_ t).chip.colour = s.chip.colour := by
  rw [State.at_chip]; exact Chip.later_colour (s.chip.later_advance t)
@[simp] theorem State.at_fire (s : State) (t : Nat) : (s.at_ t).chip.fire = s.chip.fire := by
  rw [State.at_chip]; exact Chip.later_fire (s.chip.later_advance t)
@[simp] theorem State.at_motion (s : State) (t : Nat) : (s.at_ t).chip.motion = s.chip.motion := by
  rw [State.at_chip]; exact Chip.later_motion (s.chip.later_advance t)
@[simp] theorem State.at_lanes (s : State) (t : Nat) : (s.at_ t).chip.lanes = s.chip.lanes := by
  rw [State.at_chip]; exact Chip.later_lanes (s.chip.later_advance t)

@[simp] theorem State.at_g (s : State) (t n i : Nat) : (s.at_ t).chip.g n i = s.chip.g n i := by unfold Chip.g; simp
@[simp] theorem State.at_w (s : State) (t n i : Nat) : (s.at_ t).chip.w n i = s.chip.w n i := by unfold Chip.w; simp

/-- Fields of contexts are not moved by time. -/
theorem seq_not_time (off lo w r : Nat) (ho : off < 0x10000) (hl : lo < 128) (k : Fld) (hk : k ∈ timeFields) :
    (fld .seq 0 off lo w r).key ≠ k.key := by
  simp only [timeFields, List.mem_cons, List.not_mem_nil, or_false] at hk
  rcases hk with rfl | rfl | rfl | rfl <;>
    simp only [fld, Blk.base, TB_RATE_NOW, TB_CIVOFS_OFS, TB_STAT_HOLDING, TW_JSEQ_JSEQ] <;> omega

theorem State.at_seqField (s : State) (t off lo w r : Nat) (ho : off < 0x10000) (hl : lo < 128) :
    (s.at_ t).chip.get (fld .seq 0 off lo w r) = s.chip.get (fld .seq 0 off lo w r) :=
  s.at_get t _ (seq_not_time off lo w r ho hl)

@[simp] theorem State.at_pc (s : State) (t : Nat) (n : CtxId) : (s.at_ t).chip.pc n = s.chip.pc n :=
  s.at_seqField t _ _ _ _ (by omega) (by omega)
@[simp] theorem State.at_ctxState (s : State) (t : Nat) (n : CtxId) : (s.at_ t).chip.ctxState n = s.chip.ctxState n :=
  s.at_seqField t _ _ _ _ (by omega) (by omega)
@[simp] theorem State.at_pendOp (s : State) (t : Nat) (n : CtxId) : (s.at_ t).chip.pendOp n = s.chip.pendOp n := by
  unfold Chip.pendOp; simp

/-! ### Context fields are still -/

theorem still_seq (off lo w r : Nat) (h1 : 0x40 ≤ off) (h2 : off < 0x400 ∨ 0x800 ≤ off) (h3 : off < 0x10000) (hl : lo < 128) :
    (fld .seq 0 off lo w r).still := by
  have e : (fld .seq 0 off lo w r).key / 128 = 0x10000 + off := by simp only [fld, Blk.base]; omega
  simp only [Fld.still, e]; omega

/-- What reporting leaves: program counter, state and registers of a context. -/
theorem Chip.like_pc {c d : Chip} (h : c.like d) (n : CtxId) : d.pc n = c.pc n :=
  h.2 _ (still_seq _ _ _ _ (by omega) (by omega) (by omega) (by omega))
theorem Chip.like_ctxState {c d : Chip} (h : c.like d) (n : CtxId) : d.ctxState n = c.ctxState n :=
  h.2 _ (still_seq _ _ _ _ (by omega) (by omega) (by omega) (by omega))
theorem Chip.like_g {c d : Chip} (h : c.like d) (n i : Nat) : d.g n i = c.g n i := by
  have e : d.seq.g = c.seq.g := congrArg (fun x => x.seq.g) h.1
  unfold Chip.g; rw [e]
theorem Chip.like_w {c d : Chip} (h : c.like d) (n i : Nat) : d.w n i = c.w n i := by
  have e : d.seq.w = c.seq.w := congrArg (fun x => x.seq.w) h.1
  unfold Chip.w; rw [e]
theorem Chip.like_pendOp {c d : Chip} (h : c.like d) (n : CtxId) : d.pendOp n = c.pendOp n := by
  have e : d.seq.ops = c.seq.ops := congrArg (fun x => x.seq.ops) h.1
  unfold Chip.pendOp; rw [Chip.like_ctxState h, e]

end Sys2Proof.Machine
end

