-- ==== Sys2Proof/Laws/Queues.lean ====
section
/-!
SUPPORT. Sys2Proof/Laws/Queues.lean: what posting to a queue leaves alone (R341, R342): the inbound rings.
-/
namespace Sys2Proof.Machine

/-- A property of both branches holds of the choice. -/
theorem of_ite {α : Type} {P : α → Prop} {p : Prop} [Decidable p] {a b : α} (ha : P a) (hb : P b) :
    P (if p then a else b) := by split <;> assumption

/-- The inbound descriptors of a queue after the queue is set to one with the same inbound ring. -/
theorem Chip.inq_setQueue (c : Chip) (q j : Nat) (x : Queue) (h : x.inq = (c.queue q).inq) :
    ((c.setQueue q x).queue j).inq = (c.queue j).inq := by
  rw [Chip.queue_setQueue]; split
  · next e => rw [e, h]
  · rfl

theorem Chip.inq_msix (c : Chip) (t q j : Nat) : ((c.msix t q).queue j).inq = (c.queue j).inq := by
  unfold Chip.msix
  exact of_ite (P := fun d : Chip => (d.queue j).inq = (c.queue j).inq)
    (Chip.inq_setQueue (c.emit .msix t [q]) q j _ rfl) (Chip.inq_setQueue c q j _ rfl)

theorem Chip.queue_sendFrame (c : Chip) (k : EmitKind) (t p ty nrec dlen : Nat) (bs : List Byte) (j : Nat) :
    (c.sendFrame k t p ty nrec dlen bs).queue j = c.queue j := by
  unfold Chip.sendFrame; split <;> rfl

theorem Chip.inq_deliverOne (c : Chip) (q j : Nat) : ((c.deliverOne q).queue j).inq = (c.queue j).inq := by
  unfold Chip.deliverOne
  simp only
  split
  · rfl
  · have h1 : ∀ (b : Bool) (x : Queue) (f : Fld), x.inq = (c.queue q).inq →
        ((if b = true then (c.setQueue q x).count f else c.setQueue q x).queue j).inq = (c.queue j).inq :=
      fun b x f hx => of_ite (P := fun d : Chip => (d.queue j).inq = (c.queue j).inq)
        (Chip.inq_setQueue c q j x hx) (Chip.inq_setQueue c q j x hx)
    refine of_ite (P := fun d : Chip => (d.queue j).inq = (c.queue j).inq) ?_ rfl
    refine of_ite (P := fun d : Chip => (d.queue j).inq = (c.queue j).inq) ?_ ?_
    · exact (Chip.inq_msix ..).trans (h1 _ _ _ rfl)
    · rw [Chip.queue_sendFrame]; exact h1 _ _ _ rfl

theorem Chip.inq_deliver (n : Nat) (c : Chip) (q j : Nat) : ((Chip.deliver n c q).queue j).inq = (c.queue j).inq := by
  induction n generalizing c with
  | zero => rfl
  | succ n ih =>
    unfold Chip.deliver
    exact of_ite (P := fun d : Chip => (d.queue j).inq = (c.queue j).inq) rfl ((ih _).trans (Chip.inq_deliverOne ..))

/-- Posting a record takes nothing from an inbound ring and puts nothing into one. -/
theorem Chip.inq_postRecord (c : Chip) (q : Nat) (b : Bool) (r b2 b3 : Nat) (bs : List Byte) (j : Nat) :
    ((c.postRecord q b r b2 b3 bs).queue j).inq = (c.queue j).inq :=
  (Chip.inq_deliver ..).trans (Chip.inq_setQueue _ _ _ _ rfl)

theorem Chip.inq_complete (c : Chip) (q tag rx st : Nat) (bs : List Byte) (j : Nat) :
    ((c.complete q tag rx st bs).queue j).inq = (c.queue j).inq :=
  (Chip.inq_postRecord ..).trans (Chip.inq_setQueue _ _ _ _ rfl)

/-! ### Taking the first that fits -/

theorem takeFirst_none {α : Type} (p : α → Bool) (xs : List α) (h : xs.filter p = []) : takeFirst p xs = none := by
  induction xs with
  | nil => rfl
  | cons x xs ih =>
    rw [List.filter_cons] at h
    split at h
    · simp at h
    · next hp => simp [takeFirst, hp, ih h]

theorem takeFirst_some {α : Type} (p : α → Bool) (before : List α) (x : α) (after : List α) (hb : ∀ y ∈ before, p y = false)
    (hx : p x = true) : takeFirst p (before ++ x :: after) = some (x, before ++ after) := by
  induction before with
  | nil => simp [takeFirst, hx]
  | cons y ys ih =>
    have := hb y List.mem_cons_self
    simp [takeFirst, this, ih (fun z hz => hb z (List.mem_cons_of_mem _ hz))]

/-! ### The journal -/

@[simp] theorem Chip.jrn_hosts (c : Chip) (k : JKind) (as : List Nat) (bs : List Byte) : (c.jrn k as bs).hosts = c.hosts := by
  unfold Chip.jrn; split <;> rfl
@[simp] theorem Chip.jrn_seq (c : Chip) (k : JKind) (as : List Nat) (bs : List Byte) : (c.jrn k as bs).seq = c.seq := by
  unfold Chip.jrn; split <;> rfl
@[simp] theorem Chip.jrn_strm (c : Chip) (k : JKind) (as : List Nat) (bs : List Byte) : (c.jrn k as bs).strm = c.strm := by
  unfold Chip.jrn; split <;> rfl
@[simp] theorem Chip.jrn_wire (c : Chip) (k : JKind) (as : List Nat) (bs : List Byte) : (c.jrn k as bs).wire = c.wire := by
  unfold Chip.jrn; split <;> rfl
@[simp] theorem Chip.ckpt_hosts (c : Chip) (n : Nat) : (c.ckpt n).hosts = c.hosts := by
  unfold Chip.ckpt Chip.ckpt0; split <;> simp
theorem Chip.jrn_get (c : Chip) (k : JKind) (as : List Nat) (bs : List Byte) (h : Fld) (hk : h.key ≠ TW_JSEQ_JSEQ.key) :
    (c.jrn k as bs).get h = c.get h := by
  unfold Chip.jrn; split
  · exact Chip.get_set_ne _ _ _ _ hk
  · rfl

/-- An instruction whose traps come to nothing. -/
theorem issue_of_nil {n : CtxId} {s : State} {tr : List Nat} (h : Ready n s) (ht : tr = []) (eff : State → State) :
    issue n tr eff s = eff s := by rw [ht]; exact issue_ready h eff

theorem issueC_of_nil {n : CtxId} {s : State} {tr : List Nat} (h : Ready n s) (ht : tr = []) (eff : Chip → Chip) :
    issueC n tr eff s = { s with chip := eff s.chip } := issue_of_nil h ht _

end Sys2Proof.Machine
end

