-- ==== Sys2Proof/Tests/Slice0.lean ====
section
/-!
SUPPORT. Sys2Proof/Tests/Slice0.lean: the smoke test of well-formedness, instruction words written out from Table 3-3, a few checks on single
commands with results taken from the spec, and for every statement with hypotheses one theorem that shows states and operands that meet them
(`met_<Statement>`, clause by clause).
-/
open Sys2Proof Sys2Proof.Machine
namespace Sys2Proof.Tests
set_option synthInstance.maxSize 2000
set_option Elab.async false

/-- The fields of an instruction. -/
def fd (gd ga gb : Nat) (sub : Nat := 0) (imm : Int := 0) : Fields :=
  ⟨BitVec.ofNat 5 gd, BitVec.ofNat 5 ga, BitVec.ofNat 5 gb, BitVec.ofNat 9 sub, BitVec.ofInt 32 imm⟩

/-- The reset state with some register fields written and the rest of the chip changed. -/
def stateWith (fs : List (Fld × Nat)) (f : Chip → Chip := id) : State :=
  State.reset.onChip fun c => f (fs.foldl (fun c e => c.set e.1 e.2) c)

/-- Contexts 0 and 1 run, with g1 = a and g2 = b. -/
def run (a b : W64) (fs : List (Fld × Nat) := []) (f : Chip → Chip := id) : State :=
  stateWith ((SEQ_CSTAT_STATE 0, 1) :: (SEQ_CSTAT_STATE 1, 1) :: fs) fun c =>
    f ((((c.setG 0 1 a).setG 0 2 b).setG 1 1 a).setG 1 2 b)

/-- Allocation 1, one granule at the start of the job store, which programs may read and write. -/
def alloc1 : Alloc :=
  { index := 1, gen := 0, base := 0, size := 1, owner := 0, rd := 255, wr := 255, jobr := true, jobw := true }

/-- The job store holds allocation 1. -/
def withAlloc (c : Chip) : Chip := c.setStore { allocs := [alloc1] }

/-- A descriptor of 64 bytes: OPC, queue, TAG 7, and bytes from 16 on. -/
def desc (opc q : Nat) (ps : List Byte := []) : InDesc :=
  { d := fit 64 (le 2 opc ++ le 1 0 ++ le 1 q ++ le 4 7 ++ zeros 8 ++ ps), arrival := 0, rx := 0 }

/-- Descriptors wait in queue q; each has its slot reserved. -/
def waits (q : Nat) (xs : List InDesc) (c : Chip) : Chip := c.setQueue q { inq := xs, reserved := xs.length }

/-- A register field holds v, listed whatever its reset value is. -/
def hold (f : Fld) (v : Nat) (c : Chip) : Chip := { c with regs := FMap.insert c.regs f.key v }

/-- Bytes in D-space. -/
def inData (a : Nat) (bs : List Byte) (s : State) : State := { s with mem := { s.mem with data := s.mem.data.write a bs } }

/-- Bytes in the job store. -/
def inJob (a : Nat) (bs : List Byte) (s : State) : State := { s with mem := { s.mem with job := s.mem.job.write a bs } }

/-- A geometry set: the bars ks enabled, pitch index p, lead m, active width w, drop depth 1. -/
def geometry (ks : List Nat) (p : Nat := 3) (m : Nat := 56) (w : Nat := 16) : Table :=
  { src := .image, geo := ([(0, p), (1, 1), (2, 1), (3, w), (5, m)] : List (Nat × Nat)).flatMap fun e =>
      ((List.range 16).filter fun k => e.1 = 0 ∨ k ∈ ks).map fun k => (16 * e.1 + k, e.2) }

/-- The bars ks are enabled in the set in force. -/
def barsOn (ks : List Nat) (c : Chip) (p : Nat := 3) (m : Nat := 56) (w : Nat := 16) : Chip :=
  { c with stage := { c.stage with active := c.stage.active.setDevT 8 (geometry ks p m w) } }

/-- Context 0 runs at w0 with bar 2 on, g1 = a and g2 = b. -/
def print (w0 a b : W64) (fs : List (Fld × Nat) := []) (f : Chip → Chip := id) : State :=
  run a b fs fun c => f (barsOn [2] (c.setW 0 0 w0))

/-- A placement descriptor: a uniform fill of bar 2, 16 columns wide. -/
def fill : List Byte := zeros 20 ++ [3, 0, 0, 0] ++ le 2 4 ++ zeros 6 ++ le 4 16 ++ zeros 28

/-- Every dispatch entry is resident and no queue is enabled, so that any image may be loaded; allocation 1 holds one. -/
def noEntries (c : Chip) : Chip :=
  { withAlloc c with regs := (List.range 128).map (fun i => ((SEQ_DISPA_RES i).key, 1)) ++ (List.range 64).map fun i => ((QM_QCFG_EN i).key, 0) }

/-- A record of that kind with SEQ 5. -/
def rec5 : Rec := { start := 7168, stop := 9000, seq := 5, kind := 3, bars := 4, width := 16 }

/-- Allocation 1, sealed as a tile whose header begins with the bytes hd. -/
def tileAt (hd : List Byte) (s : State) : State :=
  inJob 0 hd (s.onChip (·.setStore { allocs := [{ alloc1 with isSealed := true, tile := true }] }))

/-- A glyph set of the set pitch, 20 rows high, that holds A, 10 columns wide. -/
def glyphs (s : State) : State := tileAt ([6, 0, 3, 0] ++ zeros 4 ++ le 4 20 ++ zeros 572 ++ le 4 0 ++ le 2 8 ++ le 2 10) s

/-- A phase table image of no entries for bar tables of type 4, at the start of the job store. -/
def image4 : List Byte := [4, 1, 0, 0] ++ le 4 64 ++ le 4 9 ++ le 4 (crc32 (zeros 64))

/-- The staged set is in state v. -/
def staging (v : Nat) (a b : W64) (f : Chip → Chip := id) : State := run a b [(SEQ_SSTAT_STATE, v)] f

/-- A commit of the empty set waits. -/
def sched (x : Sched) (c : Chip) : Chip := { c with stage := { c.stage with sched := some x } }

/-- The staged set holds x. -/
def stagedSet (x : TSet) (c : Chip) : Chip := { c with stage := { c.stage with staged := x } }

/-- The chip at time 0 with the first system command of queue q taken. -/
def took (q : Nat) (s : State) : Chip := (((s.at_ 0).chip.takeSys q).map (·.2)).getD {}

/-- The chip is in reset but for some fields and f; a second change g is made after f. -/
def hostWith (fs : List (Fld × Nat)) (f : Chip → Chip) (g : Chip → Chip := id) : State := stateWith fs fun c => g (f c)

/-- A phase table image stands in allocation 1. -/
def imaged (g : Chip → Chip) : State := inJob 0 image4 (stateWith [] fun c => g (withAlloc c))

/-- Allocation 1 is sealed as a tile. -/
def sealed (c : Chip) : Chip := c.setStore { allocs := [{ alloc1 with isSealed := true, tile := true }] }

/-- The job store holds allocation 1, and n codec jobs wait. -/
def busyJobs (n : Nat) (c : Chip) : Chip := c.setStore { allocs := [alloc1], jobs := (List.range n).map fun i => { id := i, op := .sealTile, twin := true } }

/-- The header of a tile of 2,048 lines. -/
def bigHeader : List Byte := [1, 1, 3, 0] ++ le 4 4096 ++ le 4 512 ++ le 4 4096 ++ le 4 512 ++ le 4 1 ++ le 4 1

/-- Allocation 1 is a tile of 2,048 lines, and queue 0 is B-class. -/
def bigTile (g : Chip → Chip) : State :=
  inJob 0 bigHeader (stateWith [(QM_QCFG_CLASS 0, 1)] fun c => g (sealed c))

/-- Parameters of a transfer of len bytes at offset off of the allocation with handle h, with a host address. -/
def xfer (h off len addr : Nat) : List Byte := le 4 h ++ zeros 4 ++ le 8 off ++ le 4 len ++ zeros 4 ++ le 8 addr

/-- Parameters of a codec job. -/
def codec (src dst soff len cap kind : Nat) : List Byte := le 4 src ++ le 4 dst ++ le 8 soff ++ le 8 0 ++ le 4 len ++ le 4 cap ++ le 1 kind

/-- Two allocations and n waiting codec jobs. -/
def twoAllocs (n : Nat) (c : Chip) : Chip :=
  c.setStore { allocs := [alloc1, { alloc1 with index := 2, base := 1 }], jobs := (List.range n).map fun i => { id := i, op := .sealTile, twin := true } }

/-- A tile of one pixel with its stream index and its stream. -/
def smallTile : List Byte :=
  let h := [3, 1, 3, 0] ++ le 4 1 ++ le 4 1 ++ le 4 64 ++ le 4 8 ++ le 4 1 ++ le 4 1 ++ le 8 105 ++ zeros 24
  h ++ le 4 (crc32 h) ++ le 8 80 ++ le 4 25 ++ le 4 0 ++ [1, 0, 0, 0] ++ le 8 1 ++ le 4 1 ++ le 4 (2 ^ 30 + 1) ++ [9] ++ le 4 (crc32 [9])

/-- A report of one bin of bar 2 over the web points 0 to 8,192. -/
def oneBin : List Byte :=
  let h := [1, 2, 0, 0] ++ le 4 7 ++ le 8 0 ++ le 8 8192 ++ le 2 0 ++ le 2 1
  h ++ le 4 (crc32 (h ++ zeros 4 ++ le 2 100)) ++ le 2 100

/-- Bar 2 is under colour control and has settled band 0. -/
def colour2 (c : Chip) : Chip := ((barsOn [2] c).set (CH_CTRL_MODE 2) 1).setBar 2 { bands := [{ m := 0, settled := 64 }] }

/-- The codec jobs are js, with two allocations. -/
def jobsAre (js : List CodecJob) (c : Chip) : Chip := c.setStore { allocs := [alloc1, { alloc1 with index := 2, base := 1 }], jobs := js }

/-- A host job that runs. -/
def job1 : CodecJob := { id := 1, op := .decompress, src := 1, dst := 2, len := 20, cap := 64, running := true }

/-- The twin controller's job for section n runs. -/
def twinJob (n : Nat) (resumed : Option Nat := none) : CodecJob := { id := 1, op := .compress, twin := true, kind := 1, soff := n, running := true, resumed := resumed }

/-- n host jobs run. -/
def runningJobs (n : Nat) : List CodecJob := (List.range n).map fun i => { job1 with id := i }

/-- A timed frame on port 0 for tenant 0, due at 5,000 ns. -/
def frame : TimedFrame := { port := 0, launch := 5000, dest := 0, msg := [1], queue := 0, tag := 7, rx := 0 }

/-- Tenant 0 has a session on port 0, and the frame waits. -/
def timed (c : Chip) : Chip := 
  let d := c.setSession 0 0 (some { addr := 1, udp := 2 })
  { d with hosts := { d.hosts with timed := [frame] } }

/-- A SEAL job runs on a pinned allocation while a pinned tile holds 2,048 lines. -/
def pinnedTwice : State :=
  inJob 65536 bigHeader (inJob 0 smallTile (stateWith [] fun c => c.setStore
    { allocs := [{ alloc1 with pin := true }, { alloc1 with index := 2, base := 1, isSealed := true, tile := true, pin := true }],
      jobs := [{ job1 with op := .sealTile }] }))

/-- A datagram from a host of type ty, tenant 0 and XSEQ n. -/
def dgram (ty nrec dlen n : Nat) (payload : List Byte := []) : List Byte :=
  let h := le 2 0x9612 ++ [1, BitVec.ofNat 8 ty, 0, BitVec.ofNat 8 nrec] ++ le 2 dlen ++ le 4 n ++ zeros 16
  h ++ le 4 (crc32 (h ++ zeros 4 ++ payload)) ++ payload

/-- A session that expects XSEQ 1. -/
def ses1 : Session := { addr := 1, udp := 2, expect := 1 }

/-- Tenant 0 holds that session on port 0. -/
def inSession (x : Session) (c : Chip) : Chip := c.setSession 0 0 (some x)

/-- The chip at time 0 with the session on port 0 heard. -/
def heard (x : Session) (s : State) : Chip := (s.at_ 0).chip.setSession 0 0 (some { x with lastNs := (s.at_ 0).chip.ns })

/-- A job runs with bar 2 on. -/
def running2 (c : Chip) : Chip := { barsOn [2] c with strm := { c.strm with job := true } }

/-- As running2, with a residual that halts fire. -/
def limit2 (c : Chip) : Chip :=
  let d := running2 c
  let x := ByteMem.write [] 0 (motionReset.take 28 ++ le 2 96 ++ le 2 48)
  { d with stage := { d.stage with active := d.stage.active.setDevT 9 { src := .image, body := x } },
           fire := { d.fire with edge := some (10 ^ 14, 0), fresh := true } }

/-- A training block with those bytes 2 and 4. -/
def tblock (x2 x4 : Nat) : List Byte :=
  let h := [0xD2, 0] ++ le 1 x2 ++ [0] ++ le 1 x4 ++ [0, 0]
  h ++ le 1 (crcMsb 8 0x07 0 h)

/-- A CAIRN marker of lane number w and marker count m. -/
def markerOf (w m : Nat) : List Byte :=
  let h := [0xC5] ++ le 1 w ++ le 3 m ++ [0, 0]
  h ++ le 1 (crcMsb 8 0x07 0 h)

/-- Bar 0 is enabled, and its one head is on lane 0. -/
def headOn0 (c : Chip) : Chip :=
  let d := barsOn [0] c
  let body := ByteMem.write [] 0 (le 2 1 ++ zeros 62 ++ le 2 0 ++ zeros 2 ++ le 4 0 ++ le 2 16)
  { d with stage := { d.stage with active := d.stage.active.setBarT 0 5 { src := .image, body := body } } }

/-- A row of bar 0 whose head waits for a FIRE, or for an AMEND when v is a stamp. -/
def queued0 (v : Option Nat) (c : Chip) : Chip := c.setBar 0 { ring := [{ n := 5, complete := true, heads := [{ head := 0, stamp := v, queued := some 90000 }] }] }

/-- A whole STAT frame of one record that begins with the bytes r. -/
def statFrame (r : List Byte) : List RxBlock :=
  let h := [0xE1, 6, 31] ++ le 2 4 ++ [0, 0]
  let d := zeros 4 ++ le 2 1 ++ zeros 2 ++ fit 16 r
  let bs := d ++ le 4 (crc32 d) ++ zeros 4
  ⟨false, h ++ le 1 (crcMsb 8 0x07 0 h)⟩ :: (List.range 4).map fun i => ⟨true, (bs.drop (8 * i)).take 8⟩

/-- Lane 0 alone is in the lane map. -/
def oneLane (c : Chip) : Chip :=
  { c with stage := { c.stage with active := c.stage.active.setDevT 7 { src := .image, body := ByteMem.write [] 64 [128] } } }

/-- The peer, unit 9, owns the hub of lane 0, the only one in use. -/
def peerHas0 (c : Chip) : Chip := ((((oneLane c).set TW_PEER_PEER 9).set (LQ_HST_OWNER 0 0) 1).setLane 0 { owner := 9 })

/-- The twin controller is in state x. -/
def twin (x : Twin) (c : Chip) : Chip := { c with twin := x }

/-- A planned handoff that began at 0. -/
def offer : Handoff := { th := 0, token := 5, hrow := [] }
/-- A whole belay frame from unit 0. -/
def beat16 : List Byte := let h := le 1 0x48 ++ zeros 13; h ++ le 2 (crcMsb 16 0x1021 0xFFFF h)

/-- Rope frame 3 was sent at 0 and n times again. -/
def waiting3 (n : Nat) : RopeFrame := { rseq := 3, kind := .ropeJrn, sent := 0, tries := n }
/-- The health block is in state h. -/
def inHealth (h : Health) (c : Chip) : Chip := { c with health := h }

/-- Slots of the field pool that are used. -/
def usedSlots (n : Nat) : VData := { slots := List.replicate n (0, { content := some (.linear [] 0 0 0 0) }) }

/-- The field pool is full, and a FIELD record is outstanding. -/
def fullPool (c : Chip) : Chip := { c with vd := usedSlots (2 ^ 20), strm := { c.strm with recs := [{ rec5 with kind := 4 }] } }

theorem slotsUsed_full (c : Chip) (n : Nat) (h : c.vd = usedSlots n) : c.slotsUsed = n := by
  simp [Chip.slotsUsed, h, usedSlots]

theorem pool_full (c : Chip) (h : c.vd = usedSlots (2 ^ 20)) : 2 ^ 20 ≤ c.slotsUsed := Nat.le_of_eq (slotsUsed_full c _ h).symm

/-- The first n indices of the job store have an allocation. -/
def indexStore (n : Nat) : Store := { allocs := (List.range n).map fun i => { alloc1 with index := i } }

theorem freeIndex_full (n : Nat) (h : 65536 ≤ n) : (indexStore n).freeIndex = none := by
  simp only [Store.freeIndex, List.find?_eq_none, Bool.not_eq_true', Bool.not_eq_false]
  intro i hi
  have hi := List.mem_range.mp (List.mem_of_mem_drop hi)
  exact List.any_eq_true.mpr ⟨_, List.mem_map.mpr ⟨i, List.mem_range.mpr (by omega), rfl⟩, by simp⟩

/-! ### Well-formedness: one ill-formed command for each check -/

theorem test_wf_trap : (Instr.trap 0 ⟨0x00, (fd 0 0 0)⟩).wf = false ∧ (Instr.trap 0 ⟨0x07, (fd 0 0 0)⟩).wf = true := by decide
theorem test_wf_descriptor : (Instr.applicationDescriptor 0 0 (zeros 63) 0).wf = false ∧ (Instr.applicationDescriptor 0 0 (zeros 64) (2 ^ 32)).wf = false := by decide
theorem test_wf_doorbell : (Instr.doorbell 0 0 0 1 [zeros 65]).wf = false := by decide
theorem test_wf_datagrams : (Instr.bulk 0 0 (2 ^ 128) 0 []).wf = false ∧ (Instr.bulk 0 0 0 65536 []).wf = false ∧
    (Instr.descFrame 0 0 (2 ^ 128) 0 []).wf = false ∧ (Instr.descFrame 0 0 0 65536 []).wf = false ∧
    (Instr.openSession 0 0 0 (2 ^ 128) 0 []).wf = false ∧ (Instr.openSession 0 0 0 0 65536 []).wf = false ∧
    (Instr.closeSession 0 0 (2 ^ 128) 0 []).wf = false ∧ (Instr.closeSession 0 0 0 65536 []).wf = false ∧
    (Instr.resync 0 0 (2 ^ 128) 0 []).wf = false ∧ (Instr.resync 0 0 0 65536 []).wf = false := by decide
theorem test_wf_neighbour : (Instr.neighbourRequest 0 0 false (2 ^ 32)).wf = false ∧ (Instr.neighbourRequest 0 0 true (2 ^ 128)).wf = false := by decide
theorem test_wf_blocks : (Instr.trainingBlock 0 0 (zeros 7)).wf = false ∧ (Instr.cairnMarker 0 0 (zeros 9) 0 true true).wf = false := by decide
theorem test_wf_records : ([.echo, .ack, .fireReport, .epochRecord, .claimReply, .tempRecord, .eeReply, .hubInfo] :
    List (Nat → Fin 96 → StatRec → Instr)).all (fun e => !(e 0 0 ⟨[], 32⟩).wf && !(e 0 0 ⟨[⟨true, zeros 7⟩], 0⟩).wf && (e 0 0 ⟨[⟨true, zeros 8⟩], 31⟩).wf) = true := by decide
theorem test_wf_echo_timeout : (Instr.echoTimeout 0 0 0 (2 ^ 64)).wf = false := by decide
theorem test_wf_ack_timeout : (Instr.ackTimeout 0 0 (2 ^ 32)).wf = false ∧ (Instr.ackTimeout 0 0 65536).wf = true := by decide
theorem test_wf_belay : (Instr.belayFrame 0 (zeros 15)).wf = false := by decide
theorem test_wf_rope_hb : (Instr.ropeHb 0 ⟨0, 0, 5, 0, 0, 0⟩).wf = false ∧ (Instr.ropeHb 0 ⟨0, 0, 0, 2 ^ 32, 0, 0⟩).wf = false ∧
    (Instr.ropeHb 0 ⟨0, 0, 0, 0, 2 ^ 32, 0⟩).wf = false ∧ (Instr.ropeHb 0 ⟨0, 0, 0, 0, 0, 2 ^ 32⟩).wf = false := by decide
theorem test_wf_rope_seq : (Instr.ropeAck 0 65536).wf = false ∧ (Instr.ropeResendTimeout 0 65536).wf = false := by decide
theorem test_wf_rope_offer : (Instr.ropeOffer 0 65536 0 (List.replicate 96 0)).wf = false ∧ (Instr.ropeOffer 0 0 (2 ^ 32) (List.replicate 96 0)).wf = false ∧
    (Instr.ropeOffer 0 0 0 []).wf = false := by decide
theorem test_wf_rope_hash : (Instr.ropeHash 0 65536 []).wf = false ∧ (Instr.ropeHash 0 0 [⟨16, 0, 0, 0, 0⟩]).wf = false := by decide
theorem test_wf_rope_verdict : (Instr.ropeVerdict 0 65536 0 0 0).wf = false ∧ (Instr.ropeVerdict 0 0 16 0 0).wf = false := by decide
theorem test_wf_rope_jrn : (Instr.ropeJrn 0 65536 []).wf = false ∧ (Instr.ropeJrn 0 0 [(2 ^ 32, ⟨.cond, [], []⟩)]).wf = false ∧
    (Instr.ropeJrn 0 0 [(0, ⟨.cond, [2 ^ 64], []⟩)]).wf = false := by decide
theorem test_wf_rope_snap : (Instr.ropeSnap 0 65536 0 [] .more).wf = false ∧ (Instr.ropeSnap 0 0 11 [] .more).wf = false ∧
    (Instr.ropeSnap 0 0 0 [⟨.cond, [2 ^ 64], []⟩] .more).wf = false := by decide
theorem test_wf_headroom : (Instr.headroomWindow 0 (List.replicate 17 0)).wf = false := by decide
theorem test_wf_thermal : (Instr.thermalSample 0 [] 0 false).wf = false := by decide

/-! ### Instruction words (Table 3-3: OP in bits 63 to 56, GD 55 to 51, GA 50 to 46, GB 45 to 41, SUB 40 to 32, IMM 31 to 0) -/

theorem test_word_add : decodeWord 0 0x00190100FFFFFFFF = .add 0 (fd 3 4 0 0x100 0xFFFFFFFF) := by decide
theorem test_word_branch : decodeWord 1 0x2000440300000100 = .branch 1 (fd 0 1 2 3 0x100) := by decide
theorem test_word_ldd : decodeWord 2 0x3029800200000008 = .ldd 2 (fd 5 6 0 2 8) .clean := by decide
theorem test_word_place : decodeWord 0 0x4018400000000000 = .place 0 (fd 3 1 0) .clean := by decide
theorem test_word_vtext : decodeWord 3 0x64184400000000FE = .vtext 3 (fd 3 1 2 0 0xFE) .clean := by decide
theorem test_word_waitw : decodeWord 4 0x7000800100000000 = .waitw 4 (fd 0 2 0 1) := by decide
theorem test_word_committ : decodeWord 5 0x834A000000000000 = .committ 5 (fd 9 8 0) := by decide
theorem test_word_qsend : decodeWord 6 0x9219000000000005 = .qsend 6 (fd 3 4 0 0 5) .clean := by decide
theorem test_word_tload : decodeWord 7 0xA03A120000000000 = .tload 7 (fd 7 8 9) := by decide
theorem test_word_calsave : decodeWord 8 0xB118000000000000 = .calsave 8 (fd 3 0 0) := by decide
theorem test_word_halt : decodeWord 9 0xF300000000000000 = .halt 9 (fd 0 0 0) := by decide
theorem test_word_trap : decodeWord 10 0xF100000000000042 = .trap 10 ⟨0xF1, (fd 0 0 0 0 0x42)⟩ := by decide
/-- R62: opcode 0x07 has no instruction. -/
theorem test_word_undefined : decodeWord 11 0x07F801FF00000007 = .trap 11 ⟨0x07, (fd 31 0 0 0x1FF 7)⟩ := by decide
/-- R61: a word is 8 bytes, little-endian. -/
theorem test_word_bytes : wordBytes 0x00190100FFFFFFFF = [0xFF, 0xFF, 0xFF, 0xFF, 0x00, 0x01, 0x19, 0x00] := by decide

/-! ### Single commands -/

/-- The state that a command goes on to; the reset state where it stops. -/
def ran (i : Instr) (s : State) : State := match exec i s with | .next t => t | _ => State.reset

/-- Table 3-5: sums wrap at 64 bits; g0 reads 0 and takes nothing. -/
theorem test_add_wraps : (ran (.add 0 (fd 3 1 2)) (run 0xFFFFFFFFFFFFFFFF 2)).chip.g 0 3 = 1 := by decide +kernel
theorem test_g0_is_zero : (ran (.add 0 (fd 0 1 2)) (run 5 2)).chip.g 0 0 = 0 := by decide +kernel
/-- R65, Table 3-5: divs (SUB[0] = 1) truncates toward zero; rems has the sign of gA. -/
theorem test_div_truncates : (ran (.div 0 (fd 3 1 2 1)) (run (-7) 2)).chip.g 0 3 = -3 := by decide +kernel
theorem test_rem_sign : (ran (.rem 0 (fd 3 1 2 1)) (run (-7) 2)).chip.g 0 3 = -1 := by decide +kernel
/-- R64, Table 3-4: dividing by zero raises code 0x08 in CTRAP, with the pc that trapped. -/
theorem test_div_zero_traps : (ran (.div 0 (fd 3 1 2)) (run 7 0)).chip.get (SEQ_CTRAP_CODE 0) = DIV_ZERO ∧
    (ran (.div 0 (fd 3 1 2)) (run 7 0)).chip.get (SEQ_CTRAP_TRAPPED 0) = 1 := by decide +kernel
theorem test_undefined_opcode_traps : (ran (.trap 0 ⟨0x07, (fd 0 0 0)⟩) (run 0 0)).chip.get (SEQ_CTRAP_CODE 0) = 0x01 := by decide +kernel
/-- Table 3-9, R71: trap raises the code of IMM[7:0], and RESERVED_FIELD for a code below 0x80. -/
theorem test_trap_code : (ran (.trap 0 ⟨0xF1, (fd 0 0 0 0 0x83)⟩) (run 0 0)).chip.get (SEQ_CTRAP_CODE 0) = 0x83 := by decide +kernel
theorem test_trap_reserved : (ran (.trap 0 ⟨0xF1, (fd 0 0 0 0 0x7F)⟩) (run 0 0)).chip.get (SEQ_CTRAP_CODE 0) = 0x02 := by decide +kernel
theorem test_shl : (ran (.shl 0 (fd 3 1 2)) (run 3 4)).chip.g 0 3 = 48 := by decide +kernel
theorem test_sar_sign : (ran (.sar 0 (fd 3 1 2)) (run (-16) 2)).chip.g 0 3 = -4 := by decide +kernel
theorem test_popc : (ran (.popc 0 (fd 3 1 0)) (run 0xF0F 0)).chip.g 0 3 = 8 := by decide +kernel
theorem test_clz : (ran (.clz 0 (fd 3 1 0)) (run 1 0)).chip.g 0 3 = 63 := by decide +kernel
/-- Table 3-7: std stores the low bytes, little-endian (R6), and ldd sign-extends where SUB[2] is 1. -/
theorem test_std_bytes : (ran (.std 0 (fd 0 1 2 1 8)) (run 0x100 0xFFFFABCD)).mem.data.read 0x108 3 = [0xCD, 0xAB, 0] := by decide +kernel
theorem test_ldd_signed : (ran (.ldd 0 (fd 3 1 0 5 0) .clean) (inData 0x100 [0xFE, 0xFF] (run 0x100 0))).chip.g 0 3 = -2 := by decide +kernel
/-- R60: an unaligned access raises ALIGN. -/
theorem test_ldd_unaligned : (ran (.ldd 0 (fd 3 1 0 1 0) .clean) (run 0x101 0)).chip.get (SEQ_CTRAP_CODE 0) = ALIGN := by decide +kernel
/-- R66: a taken branch goes to pc + 1 + the signed offset or falls to the next word (Table 3-6). -/
theorem test_branch_falls : (ran (.branch 0 (fd 0 1 2 0 5)) (run 1 2)).chip.pc 0 = 1 := by decide +kernel
/-- Table 15-4 and R277: the check values of CRC-16 over the ASCII digits 1 to 9 and of CRC-32 (IEEE 802.3). -/
theorem test_crc16 : crcMsb 16 0x1021 0xFFFF [0x31, 0x32, 0x33, 0x34, 0x35, 0x36, 0x37, 0x38, 0x39] = 0x29B1 := by decide +kernel
theorem test_crc32 : crc32 [0x31, 0x32, 0x33, 0x34, 0x35, 0x36, 0x37, 0x38, 0x39] = 0xCBF43926 := by decide +kernel
/-- Table 18-8: SYS_PKG holds part 0x9612 and major revision 1. -/
theorem test_part : State.reset.chip.get SYS_PKG_PART = 0x9612 ∧ State.reset.chip.get SYS_PKG_MAJOR = 1 := by decide +kernel
/-- An idle step leaves the queue and moves DT; a command leaves with the queue's rest. -/
theorem test_idle_step : (match step State.reset with | .next t => decide (t.pending = [] ∧ State.reset.chip.dt < t.chip.dt) | _ => false) = true := by decide +kernel
theorem test_step_takes_front : (match step { run 1 2 with pending := [.add 0 (fd 3 1 2), .nop 0 (fd 0 0 0)] } with
    | .next t => decide (t.pending = [.nop 0 (fd 0 0 0)] ∧ t.chip.g 0 3 = 3) | _ => false) = true := by decide +kernel

/-! ### The hypotheses of the statements are met -/

theorem met_ArithmeticLogicShift :
    ∃ (n : CtxId) (f : Fields) (s : Machine.State),
      (Ready n s) ∧ (resvOp2 f 0 = []) :=
  ⟨0, fd 3 1 2, run 5 7, by unfold Ready; decide +kernel⟩

theorem met_SignedUnsignedArithmetic :
    (∃ (n : CtxId) (f : Fields) (s : Machine.State),
      let b : W64 := s.chip.op2 (↑n) f
      (Ready n s) ∧ (resvOp2 f 1 = []) ∧ (f.sub.getLsbD 0 = true) ∧ (b ≠ 0)) ∧
    (∃ (n : CtxId) (f : Fields) (s : Machine.State),
      let b : W64 := s.chip.op2 (↑n) f
      (Ready n s) ∧ (resvOp2 f 1 = []) ∧ (f.sub.getLsbD 0 = false) ∧ (b ≠ 0)) ∧
    (∃ (n : CtxId) (f : Fields) (s : Machine.State),
      (Ready n s) ∧ (resvOp2 f 1 = []) ∧ (f.sub.getLsbD 0 = true)) ∧
    (∃ (n : CtxId) (f : Fields) (s : Machine.State),
      (Ready n s) ∧ (resvOp2 f 1 = []) ∧ (f.sub.getLsbD 0 = false)) :=
  ⟨⟨0, fd 3 1 2 1, run 0x8000000000000000 0xFFFFFFFFFFFFFFFF, by dsimp only; unfold Ready; decide +kernel⟩,
   ⟨0, fd 3 1 2, run 0x8000000000000000 0xFFFFFFFFFFFFFFFF, by dsimp only; unfold Ready; decide +kernel⟩,
   ⟨0, fd 3 1 2 1, run 0x8000000000000000 0xFFFFFFFFFFFFFFFF, by unfold Ready; decide +kernel⟩,
   ⟨0, fd 3 1 2, run 0x8000000000000000 0xFFFFFFFFFFFFFFFF, by unfold Ready; decide +kernel⟩⟩

theorem met_MuldivCountsConstantsExtract :
    (∃ (n : CtxId) (f : Fields) (s : Machine.State) (r : Nat),
      let a : W64 := s.chip.g (↑n) f.ga.toNat
      let b : W64 := s.chip.g (↑n) f.gb.toNat
      (Ready n s) ∧ (resvRaw f 1 true true true true = []) ∧ (r < 2 ^ 64) ∧ (f.imm ≠ 0) ∧ (f.sub.getLsbD 0 = false) ∧
        (r * f.imm.toNat ≤ BitVec.toNat a * BitVec.toNat b) ∧ (BitVec.toNat a * BitVec.toNat b < (r + 1) * f.imm.toNat)) ∧
    (∃ (n : CtxId) (f : Fields) (s : Machine.State) (r : Nat),
      let a : W64 := s.chip.g (↑n) f.ga.toNat
      let b : W64 := s.chip.g (↑n) f.gb.toNat
      (Ready n s) ∧ (resvRaw f 1 true true true true = []) ∧ (r < 2 ^ 64) ∧ (f.imm ≠ 0) ∧ (f.sub.getLsbD 0 = true) ∧
        ((2 * r - 1) * f.imm.toNat ≤ 2 * (BitVec.toNat a * BitVec.toNat b)) ∧ (r = 0 → 2 * (BitVec.toNat a * BitVec.toNat b) < f.imm.toNat) ∧
        (2 * (BitVec.toNat a * BitVec.toNat b) < (2 * r + 1) * f.imm.toNat)) ∧
    (∃ (n : CtxId) (f : Fields) (s : Machine.State),
      (Ready n s) ∧ (resvRaw f 0 true true false false = [])) ∧
    (∃ (n : CtxId) (f : Fields) (s : Machine.State),
      (Ready n s) ∧ (resvRaw f 1 true false false true = [])) ∧
    (∃ (n : CtxId) (f : Fields) (s : Machine.State),
      (Ready n s) ∧ (resvRaw f 0 true true false true = [])) ∧
    (∃ (n : CtxId) (f : Fields) (s : Machine.State),
      (Ready n s) ∧ (resvRaw f 63 true true false true = []) ∧ (f.imm < 64)) :=
  ⟨⟨0, fd 3 1 2 0 3, run 5 7, 11, by dsimp only; unfold Ready; decide +kernel⟩,
   ⟨0, fd 3 1 2 1 3, run 5 7, 12, by dsimp only; unfold Ready; decide +kernel⟩,
   ⟨0, fd 3 1 0, run 5 7, by unfold Ready; decide +kernel⟩,
   ⟨0, fd 3 0 0 1 5, run 5 7, by unfold Ready; decide +kernel⟩,
   ⟨0, fd 3 1 0, run 5 7, by unfold Ready; decide +kernel⟩,
   ⟨0, fd 3 1 0, run 5 7, by unfold Ready; decide +kernel⟩⟩

theorem met_SpecialRegisterCopyDifferenceCondition :
    (∃ (n : CtxId) (f : Fields) (s : Machine.State),
      (Ready n s) ∧ (resvRaw f 7 true false false false = []) ∧ (f.sub = 0)) ∧
    (∃ (n : CtxId) (f : Fields) (s : Machine.State),
      (Ready n s) ∧ (resvRaw f 7 true false false false = []) ∧ (f.sub = 1)) ∧
    (∃ (n : CtxId) (f : Fields) (s : Machine.State),
      (Ready n s) ∧ (resvRaw f 7 true false false false = []) ∧ (f.sub = 2)) ∧
    (∃ (n : CtxId) (f : Fields) (s : Machine.State),
      (Ready n s) ∧ (resvRaw f 7 true false false false = []) ∧ (f.sub = 3)) ∧
    (∃ (n : CtxId) (f : Fields) (s : Machine.State),
      (Ready n s) ∧ (resvRaw f 7 true false false false = []) ∧ (f.sub = 4)) ∧
    (∃ (n : CtxId) (f : Fields) (s : Machine.State),
      (Ready n s) ∧ (resvRaw f 7 true false false false = []) ∧ (f.sub = 5)) ∧
    (∃ (n : CtxId) (f : Fields) (s : Machine.State),
      (Ready n s) ∧ (resvRaw f 7 true false false false = []) ∧ (f.sub = 6)) ∧
    (∃ (n : CtxId) (f : Fields) (s : Machine.State),
      (Ready n s) ∧ (resvRaw f 0 true true false false = []) ∧ (f.ga < 8)) ∧
    (∃ (n : CtxId) (f : Fields) (s : Machine.State) (d : W64),
      (Ready n s) ∧ (resvRaw f 0 true true true false = []) ∧ (f.ga < 8) ∧ (f.gb < 8) ∧
        (BitVec.toInt d = ↑(BitVec.toNat (s.chip.w (↑n) f.ga.toNat)) - ↑(BitVec.toNat (s.chip.w (↑n) f.gb.toNat)))) ∧
    (∃ (n : CtxId) (f : Fields) (s : Machine.State),
      (Ready n s) ∧ (resvOp2 f 7 = []) ∧ (f.sub.toNat % 8 < 6) ∧ (holds (f.sub.toNat % 8) (s.chip.g (↑n) f.ga.toNat) (s.chip.op2 (↑n) f))) ∧
    (∃ (n : CtxId) (f : Fields) (s : Machine.State),
      (Ready n s) ∧ (resvOp2 f 7 = []) ∧ (f.sub.toNat % 8 < 6) ∧ (¬holds (f.sub.toNat % 8) (s.chip.g (↑n) f.ga.toNat) (s.chip.op2 (↑n) f))) :=
  ⟨⟨0, fd 3 0 0, run 5 5, by unfold Ready; decide +kernel⟩,
   ⟨0, fd 3 0 0 1, run 5 5, by unfold Ready; decide +kernel⟩,
   ⟨0, fd 3 0 0 2, run 5 5, by unfold Ready; decide +kernel⟩,
   ⟨0, fd 3 0 0 3, run 5 5, by unfold Ready; decide +kernel⟩,
   ⟨0, fd 3 0 0 4, run 5 5, by unfold Ready; decide +kernel⟩,
   ⟨0, fd 3 0 0 5, run 5 5, by unfold Ready; decide +kernel⟩,
   ⟨0, fd 3 0 0 6, run 5 5, by unfold Ready; decide +kernel⟩,
   ⟨0, fd 3 0 0, run 5 5, by unfold Ready; decide +kernel⟩,
   ⟨0, fd 3 0 0, run 5 5, 0, by unfold Ready; decide +kernel⟩,
   ⟨0, fd 3 0 0, run 5 5, by unfold Ready holds; decide +kernel⟩,
   ⟨0, fd 3 0 0 1, run 5 5, by unfold Ready holds; decide +kernel⟩⟩

theorem met_WRegisterWrites :
    (∃ (n : CtxId) (f : Fields) (s : Machine.State) (v : W64),
      (Ready n s) ∧ (f.gd < 8) ∧ (resvRaw f 0 true true false false = []) ∧ (v = s.chip.g (↑n) f.ga.toNat) ∧
        (n = 0 ∧ f.gd = 0 → BitVec.toNat (s.chip.w 0 0) ≤ BitVec.toNat v ∧ (s.chip.get SEQ_PSTAT_OPEN = 0 ∨ s.chip.frontHorizon ≤ BitVec.toNat v))) ∧
    (∃ (n : CtxId) (f : Fields) (s : Machine.State) (v : W64),
      (Ready n s) ∧ (f.gd < 8) ∧ (resvOp2 f 0 = []) ∧ (f.ga < 8) ∧
        (↑(BitVec.toNat v) = ↑(BitVec.toNat (s.chip.w (↑n) f.ga.toNat)) + BitVec.toInt (s.chip.op2 (↑n) f)) ∧
        (n = 0 ∧ f.gd = 0 → BitVec.toNat (s.chip.w 0 0) ≤ BitVec.toNat v ∧ (s.chip.get SEQ_PSTAT_OPEN = 0 ∨ s.chip.frontHorizon ≤ BitVec.toNat v))) :=
  ⟨⟨0, fd 0 1 0, run 5 7, 5, by unfold Ready; decide +kernel⟩,
   ⟨0, fd 0 0 2, run 5 7, 7, by unfold Ready; decide +kernel⟩⟩

theorem met_BranchesJumpsAndLoop :
    (∃ (n : CtxId) (f : Fields) (s : Machine.State),
      let k : Nat := f.sub.toNat % 8
      let target : Int := ↑(s.chip.pc ↑n) + f.imm.toInt
      (Ready n s) ∧ (resvRaw f 7 false true true true = []) ∧ (k < 6) ∧ (holds k (s.chip.g (↑n) f.ga.toNat) (s.chip.g (↑n) f.gb.toNat)) ∧
        (s.chip.targetBad (↑n) target = false)) ∧
    (∃ (n : CtxId) (f : Fields) (s : Machine.State),
      let k : Nat := f.sub.toNat % 8
      (Ready n s) ∧ (resvRaw f 7 false true true true = []) ∧ (k < 6) ∧ (¬holds k (s.chip.g (↑n) f.ga.toNat) (s.chip.g (↑n) f.gb.toNat))) ∧
    (∃ (n : CtxId) (f : Fields) (s : Machine.State),
      let k : Nat := f.sub.toNat % 8
      let target : Int := ↑(s.chip.pc ↑n) + f.imm.toInt
      (Ready n s) ∧ (resvRaw f 7 false true true true = []) ∧ (f.ga < 8) ∧ (f.gb < 8) ∧ (k < 6) ∧ (k ≠ 2) ∧ (k ≠ 3) ∧
        (holds k (s.chip.w (↑n) f.ga.toNat) (s.chip.w (↑n) f.gb.toNat)) ∧ (s.chip.targetBad (↑n) target = false)) ∧
    (∃ (n : CtxId) (f : Fields) (s : Machine.State),
      let k : Nat := f.sub.toNat % 8
      (Ready n s) ∧ (resvRaw f 7 false true true true = []) ∧ (f.ga < 8) ∧ (f.gb < 8) ∧ (k < 6) ∧ (k ≠ 2) ∧ (k ≠ 3) ∧
        (¬holds k (s.chip.w (↑n) f.ga.toNat) (s.chip.w (↑n) f.gb.toNat))) ∧
    (∃ (n : CtxId) (f : Fields) (s : Machine.State),
      let target : Int := ↑(s.chip.pc ↑n) + f.imm.toInt
      (Ready n s) ∧ (resvRaw f 0 true false false true = []) ∧ (s.chip.targetBad (↑n) target = false)) ∧
    (∃ (n : CtxId) (f : Fields) (s : Machine.State),
      let target : Int := ↑(s.chip.pc ↑n) + f.imm.toInt
      let left : W64 := s.chip.g (↑n) f.gd.toNat - 1
      (Ready n s) ∧ (resvRaw f 0 true false false true = []) ∧ (s.chip.targetBad (↑n) target = false) ∧ (left ≠ 0)) ∧
    (∃ (n : CtxId) (f : Fields) (s : Machine.State),
      let left : W64 := s.chip.g (↑n) f.gd.toNat - 1
      (Ready n s) ∧ (resvRaw f 0 true false false true = []) ∧ (left = 0)) ∧
    (∃ (n : CtxId) (f : Fields) (s : Machine.State),
      (Ready n s) ∧ (resvRaw f 0 true true false true = []) ∧
        (s.chip.targetBad ↑n ↑(BitVec.toNat (s.chip.g (↑n) f.ga.toNat + BitVec.signExtend 64 f.imm)) = false)) :=
  ⟨⟨0, fd 0 1 2 2 5, run 5 7, by dsimp only; unfold Ready holds; decide +kernel⟩,
   ⟨0, fd 0 2 1 2 5, run 5 7, by dsimp only; unfold Ready holds; decide +kernel⟩,
   ⟨0, fd 0 1 2 0 5, run 5 7, by dsimp only; unfold Ready holds; decide +kernel⟩,
   ⟨0, fd 0 1 2 1 5, run 5 7, by dsimp only; unfold Ready holds; decide +kernel⟩,
   ⟨0, fd 1 0 0 0 5, run 5 7, by dsimp only; unfold Ready; decide +kernel⟩,
   ⟨0, fd 1 0 0 0 5, run 5 7, by dsimp only; unfold Ready; decide +kernel⟩,
   ⟨0, fd 1 0 0 0 5, run 1 7, by dsimp only; unfold Ready; decide +kernel⟩,
   ⟨0, fd 1 0 0 0 5, run 5 7, by unfold Ready; decide +kernel⟩⟩

theorem met_DataSpaceLoadStore :
    (∃ (n : CtxId) (f : Fields) (s : Machine.State) (r : Ecc),
      let a : Nat := dataAddress n f s
      let k : Nat := 2 ^ (f.sub.toNat % 4)
      (Ready n s) ∧ (a % k = 0) ∧ (a + k ≤ 1048576) ∧ (resvRaw f 7 true true false true = []) ∧ (r ≠ Ecc.uncorrectable) ∧ (f.sub.getLsbD 2 = false)) ∧
    (∃ (n : CtxId) (f : Fields) (s : Machine.State) (r : Ecc),
      let a : Nat := dataAddress n f s
      let k : Nat := 2 ^ (f.sub.toNat % 4)
      (Ready n s) ∧ (a % k = 0) ∧ (a + k ≤ 1048576) ∧ (resvRaw f 7 true true false true = []) ∧ (r ≠ Ecc.uncorrectable) ∧ (f.sub.getLsbD 2 = true)) ∧
    (∃ (n : CtxId) (f : Fields) (s : Machine.State),
      let a : Nat := dataAddress n f s
      let k : Nat := 2 ^ (f.sub.toNat % 4)
      (Ready n s) ∧ (a % k = 0) ∧ (a + k ≤ 1048576) ∧ (resvRaw f 3 false true true true = [])) :=
  ⟨⟨0, fd 3 1 0 3, run 0xFFFF8 7, .clean, by dsimp only; unfold Ready; decide +kernel⟩,
   ⟨0, fd 3 1 0 7, run 0xFFFF8 7, .clean, by dsimp only; unfold Ready; decide +kernel⟩,
   ⟨0, fd 0 1 2 3, run 0xFFFF8 7, by dsimp only; unfold Ready; decide +kernel⟩⟩

theorem met_AtomicDataAccess :
    (∃ (n : CtxId) (f : Fields) (r : Ecc) (s : Machine.State),
      let u : Machine.State := s.onChip fun (x : Chip) => x.dRead r
      let a : Nat := dataAddress n f s
      (Ready n s) ∧ (r ≠ Ecc.uncorrectable) ∧ (n ≠ 0 ∨ u.chip.twin.mirroring = false) ∧ (a % 8 = 0) ∧ (a + 8 ≤ 1048576) ∧
        (resvRaw f 0 true true true true = [])) ∧
    (∃ (n : CtxId) (f : Fields) (r : Ecc) (s : Machine.State),
      let u : Machine.State := s.onChip fun (x : Chip) => x.dRead r
      let a : Nat := dataAddress n f s
      let old : BitVec 64 := BitVec.ofNat 64 (unle (s.mem.data.read a 8))
      (Ready n s) ∧ (r ≠ Ecc.uncorrectable) ∧ (n ≠ 0 ∨ u.chip.twin.mirroring = false) ∧ (a % 8 = 0) ∧ (a + 8 ≤ 1048576) ∧
        (resvRaw f 0 true true true true = []) ∧ (old = s.chip.g (↑n) f.gd.toNat)) ∧
    (∃ (n : CtxId) (f : Fields) (r : Ecc) (s : Machine.State),
      let u : Machine.State := s.onChip fun (x : Chip) => x.dRead r
      let a : Nat := dataAddress n f s
      let old : BitVec 64 := BitVec.ofNat 64 (unle (s.mem.data.read a 8))
      (Ready n s) ∧ (r ≠ Ecc.uncorrectable) ∧ (n ≠ 0 ∨ u.chip.twin.mirroring = false) ∧ (a % 8 = 0) ∧ (a + 8 ≤ 1048576) ∧
        (resvRaw f 0 true true true true = []) ∧ (old ≠ s.chip.g (↑n) f.gd.toNat)) :=
  ⟨⟨0, fd 3 1 2, .clean, run 0xFFFF8 7, by dsimp only; unfold Ready; decide +kernel⟩,
   ⟨0, fd 3 1 2, .clean, run 0xFFFF8 7, by dsimp only; unfold Ready; decide +kernel⟩,
   ⟨0, fd 2 1 2, .clean, run 0xFFFF8 7, by dsimp only; unfold Ready; decide +kernel⟩⟩

theorem met_JobStoreAccesses :
    (∃ (n : CtxId) (f : Fields) (s : Machine.State),
      let a : Nat := dataAddress n f s
      let k : Nat := 2 ^ (f.sub.toNat % 4)
      (Ready n s) ∧ (resvRaw f 7 true true false true = []) ∧ (a % k = 0) ∧ (s.chip.store.mayRead a k = true)) ∧
    (∃ (n : CtxId) (f : Fields) (s : Machine.State),
      let a : Nat := dataAddress n f s
      let k : Nat := 2 ^ (f.sub.toNat % 4)
      (Ready n s) ∧ (resvRaw f 3 false true true true = []) ∧ (a % k = 0) ∧ (s.chip.store.mayWrite a k = true)) ∧
    (∃ (n : CtxId) (f : Fields) (s : Machine.State),
      let p : Nat := BitVec.toNat (s.chip.g (↑n) f.ga.toNat)
      let q : Nat := BitVec.toNat (s.chip.g (↑n) f.gd.toNat)
      let m : Nat := BitVec.toNat (s.chip.g (↑n) f.gb.toNat)
      (Ready n s) ∧ (resvRaw f 0 true true true false = []) ∧ (p % 64 = 0) ∧ (q % 64 = 0) ∧ (m % 64 = 0) ∧ (64 ≤ m) ∧ (m ≤ 4096) ∧
        (q + m ≤ 1048576) ∧ (s.chip.store.mayRead p m = true)) ∧
    (∃ (n : CtxId) (f : Fields) (s : Machine.State) (r : Ecc),
      let p : Nat := BitVec.toNat (s.chip.g (↑n) f.ga.toNat)
      let q : Nat := BitVec.toNat (s.chip.g (↑n) f.gd.toNat)
      let m : Nat := BitVec.toNat (s.chip.g (↑n) f.gb.toNat)
      (Ready n s) ∧ (resvRaw f 0 true true true false = []) ∧ (p % 64 = 0) ∧ (q % 64 = 0) ∧ (m % 64 = 0) ∧ (64 ≤ m) ∧ (m ≤ 4096) ∧
        (p + m ≤ 1048576) ∧ (s.chip.store.mayWrite q m = true) ∧ (r ≠ Ecc.uncorrectable)) :=
  ⟨⟨0, fd 3 1 0 3 0xFFF8, run 0 7 [] withAlloc, by dsimp only; unfold Ready; decide +kernel⟩,
   ⟨0, fd 0 1 2 3 0xFFF8, run 0 7 [] withAlloc, by dsimp only; unfold Ready; decide +kernel⟩,
   ⟨0, fd 1 1 2, run 0 64 [] withAlloc, by dsimp only; unfold Ready; decide +kernel⟩,
   ⟨0, fd 1 1 2, run 0 64 [] withAlloc, .clean, by dsimp only; unfold Ready; decide +kernel⟩⟩

theorem met_JobStoreAccessCompletes :
    (∃ (t : Nat) (n : CtxId) (r : Ecc) (s : Machine.State) (gd : Nat) (a : Nat) (k : Nat) (sg : Bool),
      (r ≠ Ecc.uncorrectable) ∧ ((s.at_ t).chip.pendOp ↑n = some (PendOp.ldj gd a k sg)) ∧ (gd < 32)) ∧
    (∃ (t : Nat) (n : CtxId) (r : Ecc) (s : Machine.State) (j : Nat) (d : Nat) (k : Nat),
      (r ≠ Ecc.uncorrectable) ∧ ((s.at_ t).chip.pendOp ↑n = some (PendOp.cpjd j d k))) :=
  ⟨⟨0, 0, .clean, run 0 7 [] (·.pend 0 4 (.ldj 3 8 8 false)), 3, 8, 8, false, by decide +kernel⟩,
   ⟨0, 0, .clean, run 0 7 [] (·.pend 0 4 (.cpjd 64 64 64)), 64, 64, 64, by decide +kernel⟩⟩

theorem met_QueuePeekReceive :
    (∃ (n : CtxId) (f : Fields) (s : Machine.State),
      let q : Nat := s.chip.queueOf (↑n) f
      (Ready n s) ∧ (resvQueue f false = []) ∧ (s.chip.queueTraps (↑n) q false = [])) ∧
    (∃ (n : CtxId) (f : Fields) (s : Machine.State),
      let q : Nat := s.chip.queueOf (↑n) f
      let a : Nat := BitVec.toNat (s.chip.g (↑n) f.gb.toNat)
      (Ready n s) ∧ (resvQueue f true = []) ∧ (s.chip.queueTraps (↑n) q true = []) ∧ (a % 64 = 0) ∧ (a + 64 ≤ 1048576) ∧ (s.chip.appWaiting q = [])) ∧
    (∃ (n : CtxId) (f : Fields) (s : Machine.State) (before : List InDesc) (x : InDesc) (after : List InDesc),
      let q : Nat := s.chip.queueOf (↑n) f
      let a : Nat := BitVec.toNat (s.chip.g (↑n) f.gb.toNat)
      (Ready n s) ∧ (resvQueue f true = []) ∧ (s.chip.queueTraps (↑n) q true = []) ∧ (a % 64 = 0) ∧ (a + 64 ≤ 1048576) ∧
        ((s.chip.queue q).inq = before ++ x :: after) ∧ (∀ (y : InDesc), y ∈ before → y.isApp = false) ∧ (x.isApp = true) ∧ (x.d.length = 64)) :=
  ⟨⟨1, fd 3 0 0 256 0, run 0xFFFC0 0 [(SEQ_QBIND_CTX_MASK 0, 2), (QM_QCFG_CLASS 0, 1)], by dsimp only; unfold Ready; decide +kernel⟩,
   ⟨1, fd 3 0 0 256 0, run 0xFFFC0 0 [(SEQ_QBIND_CTX_MASK 0, 2), (QM_QCFG_CLASS 0, 1)], by dsimp only; unfold Ready; decide +kernel⟩,
   ⟨1, fd 3 0 0 256 0, run 0xFFFC0 0 [(SEQ_QBIND_CTX_MASK 0, 2), (QM_QCFG_CLASS 0, 1)] (waits 0 [desc 1 0, desc 0x8000 0, desc 0x8001 0]), [desc 1 0], desc 0x8000 0, [desc 0x8001 0], by dsimp only; unfold Ready; decide +kernel⟩⟩

theorem met_QueueSendEventPost :
    (∃ (n : CtxId) (f : Fields) (s : Machine.State) (r : Ecc),
      let q : Nat := s.chip.queueOf (↑n) f
      let a : Nat := BitVec.toNat (s.chip.g (↑n) f.gb.toNat)
      (Ready n s) ∧ (r ≠ Ecc.uncorrectable) ∧ (resvQueue f true = []) ∧ (s.chip.queueTraps (↑n) q true = []) ∧ (a % 64 = 0) ∧ (a + 64 ≤ 1048576)) ∧
    (∃ (n : CtxId) (f : Fields) (s : Machine.State) (r : Ecc),
      let q : Nat := s.chip.queueOf (↑n) f
      let a : Nat := BitVec.toNat (s.chip.g (↑n) f.gb.toNat)
      let c : Chip := s.chip.dRead r
      (Ready n s) ∧ (r ≠ Ecc.uncorrectable) ∧ (resvQueue f true = []) ∧ (s.chip.queueTraps (↑n) q true = []) ∧ (a % 64 = 0) ∧ (a + 64 ≤ 1048576) ∧
        (c.outUsed q < c.get (QM_QCFG_ODEPTH q))) ∧
    (∃ (n : CtxId) (f : Fields) (s : Machine.State) (r : Ecc),
      let q : Nat := s.chip.queueOf (↑n) f
      let a : Nat := BitVec.toNat (s.chip.g (↑n) f.gb.toNat)
      let c : Chip := s.chip.dRead r
      (Ready n s) ∧ (r ≠ Ecc.uncorrectable) ∧ (resvQueue f true = []) ∧ (s.chip.queueTraps (↑n) q true = []) ∧ (a % 64 = 0) ∧ (a + 64 ≤ 1048576) ∧
        (c.get (QM_QCFG_ODEPTH q) ≤ c.outUsed q)) ∧
    (∃ (n : CtxId) (f : Fields) (s : Machine.State),
      (Ready n s) ∧ (resvRaw f 0 true true true true = []) ∧ (f.imm < 256)) :=
  ⟨⟨1, fd 3 0 1 256 0, run 0xFFFC0 0 [(SEQ_QBIND_CTX_MASK 0, 2), (QM_QCFG_CLASS 0, 1), (QM_QCFG_ODEPTH 0, 0)], .clean, by dsimp only; unfold Ready; decide +kernel⟩,
   ⟨1, fd 3 0 1 256 0, run 0xFFFC0 0 [(SEQ_QBIND_CTX_MASK 0, 2), (QM_QCFG_CLASS 0, 1)], .clean, by dsimp only; unfold Ready; decide +kernel⟩,
   ⟨1, fd 3 0 1 256 0, run 0xFFFC0 0 [(SEQ_QBIND_CTX_MASK 0, 2), (QM_QCFG_CLASS 0, 1), (QM_QCFG_ODEPTH 0, 0)], .clean, by dsimp only; unfold Ready; decide +kernel⟩,
   ⟨1, fd 3 1 2 0 255, run 0xFFFC0 0 [(SEQ_QBIND_CTX_MASK 0, 2), (QM_QCFG_CLASS 0, 1), (QM_QCFG_ODEPTH 0, 0)], by unfold Ready; decide +kernel⟩⟩

theorem met_NopFenceDisp :
    (∃ (n : CtxId) (f : Fields) (s : Machine.State),
      (Ready n s) ∧ (resvRaw f 0 false false false false = [])) ∧
    (∃ (n : CtxId) (f : Fields) (s : Machine.State),
      (Ready n s) ∧ (resvRaw f 3 false false false false = []) ∧ (f.sub.toNat % 4 ≠ 0)) ∧
    (∃ (n : CtxId) (s : Machine.State) (t : Nat),
      (s.chip.pendOp ↑n = some (PendOp.fence true)) ∧ ((s.at_ t).chip.allSent ↑n = false)) ∧
    (∃ (n : CtxId) (s : Machine.State) (t : Nat) (q : Bool),
      (s.chip.pendOp ↑n = some (PendOp.fence q)) ∧ (q = false ∨ (s.at_ t).chip.allSent ↑n = true)) ∧
    (∃ (n : CtxId) (f : Fields) (s : Machine.State) (e : Fin 128),
      (Ready n s) ∧ (resvRaw f 1 false false false true = []) ∧ (f.imm.toNat = ↑e) ∧ (s.chip.get (SEQ_DISPA_RES ↑e) = 0) ∧
        ((s.chip.entry ↑e).defined = true)) :=
  ⟨⟨0, fd 0 0 0, run 0 0 [] (fun c => hold (SEQ_DISPA_RES 127) 0 (c.setEntry 127 { defined := true })), by unfold Ready; decide +kernel⟩,
   ⟨0, fd 0 0 0 3, run 0 0 [] (fun c => hold (SEQ_DISPA_RES 127) 0 (c.setEntry 127 { defined := true })), by unfold Ready; decide +kernel⟩,
   ⟨0, run 0 0 [] fun c => let d := (c.setQueue 0 { out := [(true, zeros 64)] }).pend 0 6 (.fence true); { d with seq := { d.seq with sent := [(0, 0, 0)] } }, 0, by decide +kernel⟩,
   ⟨0, run 0 0 [] (·.pend 0 6 (.fence true)), 0, true, by decide +kernel⟩,
   ⟨0, fd 0 0 0 1 127, run 0 0 [] (fun c => hold (SEQ_DISPA_RES 127) 0 (c.setEntry 127 { defined := true })), 127, by unfold Ready; decide +kernel⟩⟩

theorem met_TrapsAreTaken :
    (∃ (n : CtxId) (f : Fields) (s : Machine.State),
      (Ready n s) ∧ (resvRaw f 0 false false false true = []) ∧ (128 ≤ f.imm.toNat) ∧ (f.imm.toNat < 256)) ∧
    (∃ (n : CtxId) (f : Fields) (s : Machine.State),
      (Ready n s) ∧ (f.imm.toNat < 128)) ∧
    (∃ (n : CtxId) (s : Machine.State) (op : BitVec 8),
      (Ready n s) ∧ (op ≠ 241) ∧ (definedOp op.toNat = false)) ∧
    (∃ (n : CtxId) (f : Fields) (s : Machine.State),
      (Ready n s) ∧ (resvOp2 f 1 = []) ∧ (s.chip.op2 (↑n) f = 0)) ∧
    (∃ (n : CtxId) (f : Fields) (s : Machine.State),
      (Ready n s) ∧ (resvRaw f 1 true true true true = []) ∧ (f.imm = 0)) ∧
    (∃ (n : CtxId) (f : Fields) (s : Machine.State),
      (Ready n s) ∧ (resvOp2 f 0 ≠ [])) ∧
    (∃ (n : CtxId) (f : Fields) (s : Machine.State),
      (Ready n s) ∧ (resvOp2 f 1 ≠ [])) :=
  ⟨⟨0, fd 0 0 0 0 128, run 5 0, by unfold Ready; decide +kernel⟩,
   ⟨0, fd 3 1 2, run 5 0, by unfold Ready; decide +kernel⟩,
   ⟨0, run 5 0, 0x07, by unfold Ready; decide +kernel⟩,
   ⟨0, fd 3 1 2, run 5 0, by unfold Ready; decide +kernel⟩,
   ⟨0, fd 3 1 2, run 5 0, by unfold Ready; decide +kernel⟩,
   ⟨0, fd 0 0 0 0 128, run 5 0, by unfold Ready; decide +kernel⟩,
   ⟨0, fd 0 0 0 0 128, run 5 0, by unfold Ready; decide +kernel⟩⟩

theorem met_HaltEndsProgram :
    (∃ (n : CtxId) (f : Fields) (s : Machine.State),
      (Ready n s) ∧ (resvRaw f 0 false false false false = [])) ∧
    (∃ (n : CtxId) (f : Fields) (s : Machine.State),
      (Ready n s) ∧ (resvRaw f 0 false false false false = []) ∧ (n = 0)) ∧
    (∃ (n : CtxId) (f : Fields) (s : Machine.State),
      (Ready n s) ∧ (resvRaw f 0 false false false false = []) ∧ (n ≠ 0)) :=
  ⟨⟨0, fd 0 0 0, run 5 0, by unfold Ready; decide +kernel⟩,
   ⟨0, fd 0 0 0, run 5 0, by unfold Ready; decide +kernel⟩,
   ⟨1, fd 0 0 0, run 5 0, by unfold Ready; decide +kernel⟩⟩

theorem met_HandlerIsDispatched :
    (∃ (t : Nat) (s : Machine.State) (e : Fin 128) (n : CtxId) (others : List Nat),
      let c : Chip := (s.at_ t).chip
      (c.runs = true) ∧ (c.get TW_STAT_HANDOFF = 0) ∧ (c.pick = some ↑e) ∧ (c.idleFor ↑e = ↑n :: others)) ∧
    (∃ (t : Nat) (s : Machine.State) (e : Fin 128) (n : CtxId) (others : List Nat),
      let c : Chip := (s.at_ t).chip
      (c.runs = true) ∧ (c.get TW_STAT_HANDOFF = 0) ∧ (c.pick = some ↑e) ∧ (c.idleFor ↑e = ↑n :: others) ∧ (c.resEntry ↑e = false)) :=
  ⟨⟨0, stateWith [(SEQ_DISPA_EN 127, 1), (SEQ_DISPA_PEND 127, 1), (SEQ_DISPB_CTX_MASK 127, 0x8000)], 127, 16, [], by dsimp only; decide +kernel⟩,
   ⟨0, stateWith [(SEQ_DISPA_EN 127, 1), (SEQ_DISPA_PEND 127, 1), (SEQ_DISPB_CTX_MASK 127, 0x8000)], 127, 16, [], by dsimp only; decide +kernel⟩⟩

theorem met_PlaceAppendsRecord :
    (∃ (f : Fields) (e : Ecc) (s : Machine.State),
      let c : Chip := s.chip.dRead e
      let a : Nat := BitVec.toNat (c.g 0 f.ga.toNat)
      let r : Rec := parseDesc (s.mem.data.read a 64)
      let stop : Nat := BitVec.toNat (c.w 0 0) + (BitVec.toInt (c.op2 0 f)).toNat
      (Ready 0 s) ∧ (e ≠ Ecc.uncorrectable) ∧ (resvOp2 f 1 = []) ∧ (a % 64 = 0) ∧ (a + 64 ≤ 1048576) ∧
        (descBad (s.mem.data.read a 64) c.pitch = false) ∧ (handleBad s r = false) ∧
        (f.sub.getLsbD 0 = false ∨ s.chip.maskHorizon r.bars ≤ BitVec.toNat (c.w 0 0)) ∧ (0 < BitVec.toInt (c.op2 0 f)) ∧ (stop < 2 ^ 64) ∧
        (c.activeCount < 256) ∧ (c.streamFull = false)) ∧
    (∃ (f : Fields) (e : Ecc) (s : Machine.State),
      let c : Chip := s.chip.dRead e
      let a : Nat := BitVec.toNat (c.g 0 f.ga.toNat)
      let r : Rec := parseDesc (s.mem.data.read a 64)
      let stop : Nat := BitVec.toNat (c.w 0 0) + (BitVec.toInt (c.op2 0 f)).toNat
      let h : Nat := c.maskHorizon r.bars
      (Ready 0 s) ∧ (e ≠ Ecc.uncorrectable) ∧ (resvOp2 f 1 = []) ∧ (a % 64 = 0) ∧ (a + 64 ≤ 1048576) ∧
        (descBad (s.mem.data.read a 64) c.pitch = false) ∧ (handleBad s r = false) ∧
        (f.sub.getLsbD 0 = false ∨ s.chip.maskHorizon r.bars ≤ BitVec.toNat (c.w 0 0)) ∧ (0 < BitVec.toInt (c.op2 0 f)) ∧ (stop < 2 ^ 64) ∧
        (c.activeCount < 256) ∧ (c.streamFull = false) ∧ (h ≤ BitVec.toNat (c.w 0 0))) ∧
    (∃ (f : Fields) (e : Ecc) (s : Machine.State),
      let c : Chip := s.chip.dRead e
      let a : Nat := BitVec.toNat (c.g 0 f.ga.toNat)
      let r : Rec := parseDesc (s.mem.data.read a 64)
      let stop : Nat := BitVec.toNat (c.w 0 0) + (BitVec.toInt (c.op2 0 f)).toNat
      let h : Nat := c.maskHorizon r.bars
      (Ready 0 s) ∧ (e ≠ Ecc.uncorrectable) ∧ (resvOp2 f 1 = []) ∧ (a % 64 = 0) ∧ (a + 64 ≤ 1048576) ∧
        (descBad (s.mem.data.read a 64) c.pitch = false) ∧ (handleBad s r = false) ∧
        (f.sub.getLsbD 0 = false ∨ s.chip.maskHorizon r.bars ≤ BitVec.toNat (c.w 0 0)) ∧ (0 < BitVec.toInt (c.op2 0 f)) ∧ (stop < 2 ^ 64) ∧
        (c.activeCount < 256) ∧ (c.streamFull = false) ∧ (BitVec.toNat (c.w 0 0) < h)) :=
  ⟨⟨fd 3 1 2, .clean, inData 64 fill (print 7168 64 100), by dsimp only; unfold Ready; decide +kernel⟩,
   ⟨fd 3 1 2, .clean, inData 64 fill (print 7168 64 100), by dsimp only; unfold Ready; decide +kernel⟩,
   ⟨fd 3 1 2, .clean, inData 64 fill (print 7000 64 1000), by dsimp only; unfold Ready; decide +kernel⟩⟩

theorem met_TruncateAndMark :
    (∃ (f : Fields) (s : Machine.State) (r : Rec),
      let c : Chip := s.chip
      let w0 : Nat := BitVec.toNat (c.w 0 0)
      let h : Nat := c.maskHorizon r.bars
      (Ready 0 s) ∧ (c.streamFull = false) ∧ (resvRaw f 1 true true false false = []) ∧
        (c.truncTarget (BitVec.toNat (c.g 0 f.ga.toNat) % 2 ^ 32) = some r) ∧ (f.sub.getLsbD 0 = false ∨ h ≤ w0)) ∧
    (∃ (f : Fields) (s : Machine.State),
      let c : Chip := s.chip
      let k : Nat := f.imm.toNat % 16
      (Ready 0 s) ∧ (c.streamFull = false) ∧ (resvRaw f 0 true true true true = []) ∧ ((c.setOf k).enabled k = true) ∧ (f.imm.toNat / 16 % 16 = 0) ∧
        (f.imm.toNat < 65536) ∧ (BitVec.toNat (c.g 0 f.ga.toNat) / 32768 % 2 = 0)) ∧
    (∃ (f : Fields) (s : Machine.State),
      let c : Chip := s.chip
      let w0 : Nat := BitVec.toNat (c.w 0 0)
      let k : Nat := f.imm.toNat % 16
      (Ready 0 s) ∧ (c.streamFull = false) ∧ (resvRaw f 0 true true true true = []) ∧ ((c.setOf k).enabled k = true) ∧ (f.imm.toNat / 16 % 16 = 0) ∧
        (f.imm.toNat < 65536) ∧ (BitVec.toNat (c.g 0 f.ga.toNat) / 32768 % 2 = 0) ∧ ((c.bar k).rk < ↑(firstRow c.pitch w0))) ∧
    (∃ (f : Fields) (s : Machine.State),
      let c : Chip := s.chip
      let w0 : Nat := BitVec.toNat (c.w 0 0)
      let k : Nat := f.imm.toNat % 16
      (Ready 0 s) ∧ (c.streamFull = false) ∧ (resvRaw f 0 true true true true = []) ∧ ((c.setOf k).enabled k = true) ∧ (f.imm.toNat / 16 % 16 = 0) ∧
        (f.imm.toNat < 65536) ∧ (BitVec.toNat (c.g 0 f.ga.toNat) / 32768 % 2 = 0) ∧ (↑(firstRow c.pitch w0) ≤ (c.bar k).rk)) :=
  ⟨⟨fd 3 1 0, print 7168 5 9 [] fun c => { c with strm := { recs := [rec5] } }, rec5, by dsimp only; unfold Ready; decide +kernel⟩,
   ⟨fd 3 1 2 0 258, print 7168 5 9 [] fun c => { c with strm := { recs := [rec5] } }, by dsimp only; unfold Ready; decide +kernel⟩,
   ⟨fd 3 1 2 0 258, print 7168 5 9 [] fun c => { c with strm := { recs := [rec5] } }, by dsimp only; unfold Ready; decide +kernel⟩,
   ⟨fd 3 1 2 0 258, print 0 5 9 [] fun c => c.setBar 2 { rk := 100 }, by dsimp only; unfold Ready; decide +kernel⟩⟩

theorem met_WaitsBlockUntilMet :
    (∃ (n : CtxId) (f : Fields) (s : Machine.State) (x : Wait) (mode : Nat),
      let c : Chip := s.chip
      let limit : Option Nat := if c.g (↑n) f.gb.toNat = 0 then none else some (c.ns + BitVec.toNat (c.g (↑n) f.gb.toNat))
      (Ready n s) ∧ (f.sub.toNat = mode) ∧ (mode < 3) ∧ (f.ga < 8) ∧ (mode ≠ 2 → f.imm = 0) ∧ (f.imm < 16) ∧ (mode = 1 → c.enabledBars ≠ []) ∧
        (mode = 2 → (c.setOf f.imm.toNat).enabled f.imm.toNat = true) ∧
        (x = { kind := 1, mode := mode, item := f.imm.toNat, target := BitVec.toNat (c.w (↑n) f.ga.toNat), deadline := limit, gd := f.gd.toNat }) ∧
        (c.waitMet x = true)) ∧
    (∃ (n : CtxId) (f : Fields) (s : Machine.State) (x : Wait) (mode : Nat),
      let c : Chip := s.chip
      let limit : Option Nat := if c.g (↑n) f.gb.toNat = 0 then none else some (c.ns + BitVec.toNat (c.g (↑n) f.gb.toNat))
      (Ready n s) ∧ (f.sub.toNat = mode) ∧ (mode < 3) ∧ (f.ga < 8) ∧ (mode ≠ 2 → f.imm = 0) ∧ (f.imm < 16) ∧ (mode = 1 → c.enabledBars ≠ []) ∧
        (mode = 2 → (c.setOf f.imm.toNat).enabled f.imm.toNat = true) ∧
        (x = { kind := 1, mode := mode, item := f.imm.toNat, target := BitVec.toNat (c.w (↑n) f.ga.toNat), deadline := limit, gd := f.gd.toNat }) ∧
        (c.waitMet x = false)) ∧
    (∃ (n : CtxId) (f : Fields) (s : Machine.State) (x : Wait),
      let c : Chip := s.chip
      (Ready n s) ∧ (resvRaw f 1 true true false false = []) ∧
        (x = { kind := 2, mode := 0, item := 0, target := (if f.sub.getLsbD 0 = true then c.ns else 0) + BitVec.toNat (c.g (↑n) f.ga.toNat), deadline := none, gd := f.gd.toNat }) ∧
        (c.waitMet x = true)) ∧
    (∃ (n : CtxId) (f : Fields) (s : Machine.State) (x : Wait),
      let c : Chip := s.chip
      (Ready n s) ∧ (resvRaw f 1 true true false false = []) ∧
        (x = { kind := 2, mode := 0, item := 0, target := (if f.sub.getLsbD 0 = true then c.ns else 0) + BitVec.toNat (c.g (↑n) f.ga.toNat), deadline := none, gd := f.gd.toNat }) ∧
        (c.waitMet x = false)) ∧
    (∃ (n : CtxId) (f : Fields) (s : Machine.State) (x : Wait),
      let c : Chip := s.chip
      let limit : Option Nat := if c.g (↑n) f.gb.toNat = 0 then none else some (c.ns + BitVec.toNat (c.g (↑n) f.gb.toNat))
      (Ready n s) ∧ (resvQueue f true = []) ∧ (c.queueTraps (↑n) (c.queueOf (↑n) f) true = []) ∧
        (x = { kind := 3, mode := 0, item := c.queueOf (↑n) f, target := 0, deadline := limit, gd := f.gd.toNat }) ∧ (c.waitMet x = true)) ∧
    (∃ (n : CtxId) (f : Fields) (s : Machine.State) (x : Wait),
      let c : Chip := s.chip
      let limit : Option Nat := if c.g (↑n) f.gb.toNat = 0 then none else some (c.ns + BitVec.toNat (c.g (↑n) f.gb.toNat))
      (Ready n s) ∧ (resvQueue f true = []) ∧ (c.queueTraps (↑n) (c.queueOf (↑n) f) true = []) ∧
        (x = { kind := 3, mode := 0, item := c.queueOf (↑n) f, target := 0, deadline := limit, gd := f.gd.toNat }) ∧ (c.waitMet x = false)) :=
  ⟨⟨1, fd 3 0 2 0, print 0 5 7 [(WM_X_X,6)] (·.setW 1 0 5), ⟨1, 0, 0, 5, some 7, 3⟩, 0, by dsimp only; unfold Ready; decide +kernel⟩,
   ⟨1, fd 3 0 2 0, print 0 5 7 [] (·.setW 1 0 5), ⟨1, 0, 0, 5, some 7, 3⟩, 0, by dsimp only; unfold Ready; decide +kernel⟩,
   ⟨1, fd 3 1 0, print 0 0 7 [(SEQ_QBIND_CTX_MASK 0, 2), (QM_QCFG_CLASS 0, 1)], ⟨2, 0, 0, 0, none, 3⟩, by dsimp only; unfold Ready; decide +kernel⟩,
   ⟨1, fd 3 1 0, print 0 5 7 [] (·.setW 1 0 5), ⟨2, 0, 0, 5, none, 3⟩, by dsimp only; unfold Ready; decide +kernel⟩,
   ⟨1, fd 3 0 2 0, print 0 0 7 [(SEQ_QBIND_CTX_MASK 0, 2), (QM_QCFG_CLASS 0, 1)] (waits 0 [desc 0x8000 0]), ⟨3, 0, 0, 0, some 7, 3⟩, by dsimp only; unfold Ready; decide +kernel⟩,
   ⟨1, fd 3 0 2 0, print 0 0 7 [(SEQ_QBIND_CTX_MASK 0, 2), (QM_QCFG_CLASS 0, 1)], ⟨3, 0, 0, 0, some 7, 3⟩, by dsimp only; unfold Ready; decide +kernel⟩⟩

theorem met_WaitsEnd :
    (∃ (t : Nat) (n : CtxId) (s : Machine.State) (x : Wait),
      let now : Chip := (s.at_ t).chip
      (s.chip.ctxState ↑n = WAITING) ∧ (FMap.get none s.chip.seq.waits ↑n = some x) ∧ (x.gd < 32) ∧ (now.waitMet x = true)) ∧
    (∃ (t : Nat) (n : CtxId) (s : Machine.State) (x : Wait) (d : Nat),
      let now : Chip := (s.at_ t).chip
      (s.chip.ctxState ↑n = WAITING) ∧ (FMap.get none s.chip.seq.waits ↑n = some x) ∧ (x.gd < 32) ∧ (x.deadline = some d) ∧ (d ≤ now.ns) ∧
        (now.waitMet x = false)) ∧
    (∃ (t : Nat) (n : CtxId) (s : Machine.State) (x : Wait) (d : Nat),
      let now : Chip := (s.at_ t).chip
      (s.chip.ctxState ↑n = WAITING) ∧ (FMap.get none s.chip.seq.waits ↑n = some x) ∧ (x.gd < 32) ∧ (x.deadline = some d) ∧ (d ≤ now.ns) ∧
        (now.waitMet x = true)) :=
  ⟨⟨0, 1, stateWith [(SEQ_CSTAT_STATE 1, 3)] fun c => { c with seq := { c.seq with waits := [(1, some ⟨2, 0, 0, 0, some 0, 3⟩)] } }, ⟨2, 0, 0, 0, some 0, 3⟩, by dsimp only; decide +kernel⟩,
   ⟨0, 1, stateWith [(SEQ_CSTAT_STATE 1, 3)] fun c => { c with seq := { c.seq with waits := [(1, some ⟨1, 0, 0, 5, some 0, 3⟩)] } }, ⟨1, 0, 0, 5, some 0, 3⟩, 0, by dsimp only; decide +kernel⟩,
   ⟨0, 1, stateWith [(SEQ_CSTAT_STATE 1, 3)] fun c => { c with seq := { c.seq with waits := [(1, some ⟨2, 0, 0, 0, some 0, 3⟩)] } }, ⟨2, 0, 0, 0, some 0, 3⟩, 0, by dsimp only; decide +kernel⟩⟩

theorem met_FormattedTextAppends :
    (∃ (n : CtxId) (f : Fields) (e : Ecc) (s : Machine.State) (k : Nat),
      let a : Nat := BitVec.toNat (s.chip.g (↑n) f.gb.toNat)
      let v : W64 := s.chip.g (↑n) f.ga.toNat
      let im : Nat := f.imm.toNat
      let minw : Nat := im % 256
      let maxw : Nat := if im / 256 % 256 = 0 then 20 else im / 256 % 256
      let len : Nat := BitVec.toNat (s.mem.data.byte a)
      let form : Nat := f.sub.toNat % 8
      let mag : Nat := if form = 1 then (BitVec.toInt v).natAbs else BitVec.toNat v
      let base : Nat := if form = 2 then 16 else if form = 3 then 36 else 10
      let neg : Bool := decide (form = 1 ∧ BitVec.toInt v < 0)
      (Ready n s) ∧ (e ≠ Ecc.uncorrectable) ∧ (resvRaw f 7 true true true true = []) ∧ (a % 64 = 0) ∧ (a + 256 ≤ 1048576) ∧ (len ≤ 254) ∧
        (form < 4) ∧ (im < 2 ^ 24) ∧ (minw ≤ maxw) ∧ (maxw ≤ 20) ∧ (32 ≤ im / 65536) ∧ (im / 65536 ≤ 126) ∧ (0 < k) ∧ (mag < base ^ k) ∧
        (k = 1 ∨ base ^ (k - 1) ≤ mag) ∧ ((k + if neg = true then 1 else 0) ≤ maxw) ∧ (len + max minw (k + if neg = true then 1 else 0) ≤ 254)) ∧
    (∃ (n : CtxId) (f : Fields) (e : Ecc) (s : Machine.State),
      let a : Nat := BitVec.toNat (s.chip.g (↑n) f.gb.toNat)
      let v : W64 := s.chip.g (↑n) f.ga.toNat
      let im : Nat := f.imm.toNat
      let len : Nat := BitVec.toNat (s.mem.data.byte a)
      let form : Nat := f.sub.toNat % 8
      (Ready n s) ∧ (e ≠ Ecc.uncorrectable) ∧ (resvRaw f 7 true true true true = []) ∧ (a % 64 = 0) ∧ (a + 256 ≤ 1048576) ∧ (len ≤ 254) ∧
        (form = 4) ∧ (1 ≤ im) ∧ (im ≤ 254) ∧ (BitVec.toNat v + im ≤ 1048576) ∧ (len + im ≤ 254)) ∧
    (∃ (n : CtxId) (f : Fields) (e : Ecc) (s : Machine.State),
      let a : Nat := BitVec.toNat (s.chip.g (↑n) f.gb.toNat)
      let im : Nat := f.imm.toNat
      let len : Nat := BitVec.toNat (s.mem.data.byte a)
      let form : Nat := f.sub.toNat % 8
      (Ready n s) ∧ (e ≠ Ecc.uncorrectable) ∧ (resvRaw f 7 true true true true = []) ∧ (a % 64 = 0) ∧ (a + 256 ≤ 1048576) ∧ (len ≤ 254) ∧
        (form = 5) ∧ (im = 0) ∧ (len < 254)) :=
  ⟨⟨0, fd 3 1 2 0 0x300004, .clean, run 5 64, 1, by dsimp only; unfold Ready; decide +kernel⟩,
   ⟨0, fd 3 1 2 4 4, .clean, run 5 64, by dsimp only; unfold Ready; decide +kernel⟩,
   ⟨0, fd 3 1 2 5 0, .clean, run 5 64, by dsimp only; unfold Ready; decide +kernel⟩⟩

theorem met_DateAndCheckDigitAppend :
    (∃ (n : CtxId) (f : Fields) (e : Ecc) (s : Machine.State) (k : Nat),
      let a : Nat := BitVec.toNat (s.chip.g (↑n) f.gb.toNat)
      let v : W64 := s.chip.g (↑n) f.ga.toNat
      let len : Nat := BitVec.toNat (s.mem.data.byte a)
      (Ready n s) ∧ (e ≠ Ecc.uncorrectable) ∧ (a % 64 = 0) ∧ (a + 256 ≤ 1048576) ∧ (resvRaw f 0 true true true true = []) ∧ (k < 32) ∧
        (f.imm.toNat + k < 1048576) ∧ (s.mem.data.byte (f.imm.toNat + k) = 0) ∧ (∀ (i : Nat), i < k → s.mem.data.byte (f.imm.toNat + i) ≠ 0) ∧
        (0 ≤ BitVec.toInt v) ∧ (BitVec.toInt v < 7258118400 * 10 ^ 9) ∧
        (len + (datePattern (BitVec.toNat v) 32 (s.mem.data.read f.imm.toNat k)).length ≤ 254)) ∧
    (∃ (n : CtxId) (f : Fields) (e : Ecc) (s : Machine.State) (p : Nat),
      let a : Nat := BitVec.toNat (s.chip.g (↑n) f.gb.toNat)
      let v : W64 := s.chip.g (↑n) f.ga.toNat
      let len : Nat := BitVec.toNat (s.mem.data.byte a)
      (Ready n s) ∧ (e ≠ Ecc.uncorrectable) ∧ (a % 64 = 0) ∧ (a + 256 ≤ 1048576) ∧ (resvRaw f 1 true true true false = []) ∧
        (p = BitVec.toNat v % 256) ∧ (1 ≤ p) ∧ (p ≤ len) ∧ (len ≤ 253) ∧
        (∀ (i : Nat), i ≤ len → p ≤ i → 48 ≤ BitVec.toNat (s.mem.data.byte (a + i)) ∧ BitVec.toNat (s.mem.data.byte (a + i)) ≤ 57)) :=
  ⟨⟨0, fd 3 1 2 0 512, .clean, inData 512 [45] (run 5 64), 1, by dsimp only; unfold Ready; decide +kernel⟩,
   ⟨0, fd 3 1 2 0, .clean, inData 64 [2, 49, 50] (run 1 64), 1, by dsimp only; unfold Ready; decide +kernel⟩⟩

theorem met_SerialCounters :
    (∃ (n : CtxId) (f : Fields) (s : Machine.State) (i : Fin 16),
      (Ready n s) ∧ (f.imm.toNat = ↑i) ∧ (resvRaw f 3 true false false true = []) ∧ (f.sub.toNat = 0)) ∧
    (∃ (n : CtxId) (f : Fields) (s : Machine.State) (i : Fin 16),
      let old : Nat := s.chip.get (SEQ_SCTR_VALUE ↑i)
      let a : Nat := BitVec.toNat (s.chip.g (↑n) f.ga.toNat)
      let b : Nat := BitVec.toNat (s.chip.g (↑n) f.gb.toNat)
      (Ready n s) ∧ (f.imm.toNat = ↑i) ∧ (resvRaw f 3 true true true true = []) ∧ (f.sub.toNat = 1) ∧ (old + b ≤ a)) ∧
    (∃ (n : CtxId) (f : Fields) (s : Machine.State) (i : Fin 16),
      (Ready n s) ∧ (f.imm.toNat = ↑i) ∧ (resvRaw f 3 true false true true = []) ∧ (f.sub.toNat = 2)) :=
  ⟨⟨0, fd 3 0 0 0 3, run 50 7, 3, by unfold Ready; decide +kernel⟩,
   ⟨0, fd 3 1 2 1 3, run 50 7, 3, by dsimp only; unfold Ready; decide +kernel⟩,
   ⟨0, fd 3 0 2 2 3, run 50 7, 3, by unfold Ready; decide +kernel⟩⟩

theorem met_TextAndSymbolsCompose :
    (∃ (n : CtxId) (f : Fields) (e : Ecc) (s : Machine.State) (x : Alloc) (w : Nat),
      let u : Machine.State := s.onChip fun (x : Chip) => x.dRead e
      let c : Chip := u.chip
      let a : Nat := BitVec.toNat (c.g (↑n) f.ga.toNat)
      let b : Nat := BitVec.toNat (c.g (↑n) f.gb.toNat)
      let text : List Byte := s.mem.data.read (a + 1) (BitVec.toNat (s.mem.data.byte a))
      (Ready n s) ∧ (e ≠ Ecc.uncorrectable) ∧ (a % 64 = 0) ∧ (a + 256 ≤ 1048576) ∧ (resvRaw f 0 true true true true = []) ∧ (f.imm.toNat < 256) ∧
        (usable s b [6] = true) ∧ (0 < text.length) ∧ (text.length ≤ 120) ∧ (c.store.find b = some x) ∧
        (∀ (ch : Byte), ch ∈ text → (glyphEntry s.mem.job x (BitVec.toNat ch)).snd.snd ≠ 0) ∧ (1 ≤ w) ∧ (w ≤ 163840) ∧
        (↑w = ↑(List.map (fun (ch : Byte) => (glyphEntry s.mem.job x (BitVec.toNat ch)).snd.snd) text).sum + (BitVec.setWidth 8 f.imm).toInt * ↑(text.length - 1)) ∧
        (c.vd.busy = none) ∧ (c.slotsUsed < 2 ^ 20) ∧ (c.behindTurn ↑n = false)) ∧
    (∃ (n : CtxId) (f : Fields) (e : Ecc) (s : Machine.State) (x : Alloc) (w : Nat),
      let u : Machine.State := s.onChip fun (x : Chip) => x.dRead e
      let c : Chip := u.chip
      let a : Nat := BitVec.toNat (c.g (↑n) f.ga.toNat)
      let b : Nat := BitVec.toNat (c.g (↑n) f.gb.toNat)
      let text : List Byte := s.mem.data.read (a + 1) (BitVec.toNat (s.mem.data.byte a))
      (Ready n s) ∧ (e ≠ Ecc.uncorrectable) ∧ (a % 64 = 0) ∧ (a + 256 ≤ 1048576) ∧ (resvRaw f 0 true true true true = []) ∧ (f.imm.toNat < 256) ∧
        (usable s b [6] = true) ∧ (0 < text.length) ∧ (text.length ≤ 120) ∧ (c.store.find b = some x) ∧
        (∀ (ch : Byte), ch ∈ text → (glyphEntry s.mem.job x (BitVec.toNat ch)).snd.snd ≠ 0) ∧ (1 ≤ w) ∧ (w ≤ 163840) ∧
        (↑w = ↑(List.map (fun (ch : Byte) => (glyphEntry s.mem.job x (BitVec.toNat ch)).snd.snd) text).sum + (BitVec.setWidth 8 f.imm).toInt * ↑(text.length - 1)) ∧
        (c.vd.busy ≠ none) ∧ (c.slotsUsed < 2 ^ 20)) ∧
    (∃ (n : CtxId) (f : Fields) (e : Ecc) (s : Machine.State) (x : Alloc) (w : Nat),
      let u : Machine.State := s.onChip fun (x : Chip) => x.dRead e
      let c : Chip := u.chip
      let a : Nat := BitVec.toNat (c.g (↑n) f.ga.toNat)
      let b : Nat := BitVec.toNat (c.g (↑n) f.gb.toNat)
      let text : List Byte := s.mem.data.read (a + 1) (BitVec.toNat (s.mem.data.byte a))
      (Ready n s) ∧ (e ≠ Ecc.uncorrectable) ∧ (a % 64 = 0) ∧ (a + 256 ≤ 1048576) ∧ (resvRaw f 0 true true true true = []) ∧ (f.imm.toNat < 256) ∧
        (usable s b [6] = true) ∧ (0 < text.length) ∧ (text.length ≤ 120) ∧ (c.store.find b = some x) ∧
        (∀ (ch : Byte), ch ∈ text → (glyphEntry s.mem.job x (BitVec.toNat ch)).snd.snd ≠ 0) ∧ (1 ≤ w) ∧ (w ≤ 163840) ∧
        (↑w = ↑(List.map (fun (ch : Byte) => (glyphEntry s.mem.job x (BitVec.toNat ch)).snd.snd) text).sum + (BitVec.setWidth 8 f.imm).toInt * ↑(text.length - 1)) ∧
        (c.vd.busy = none) ∧ (c.slotsUsed < 2 ^ 20) ∧ (c.behindTurn ↑n = true)) ∧
    (∃ (n : CtxId) (f : Fields) (e : Ecc) (s : Machine.State) (ms : List Bool),
      let u : Machine.State := s.onChip fun (x : Chip) => x.dRead e
      let c : Chip := u.chip
      let a : Nat := BitVec.toNat (c.g (↑n) f.ga.toNat)
      let b : Nat := BitVec.toNat (c.g (↑n) f.gb.toNat)
      let p : List Byte := s.mem.data.read b 64
      let text : List Byte := s.mem.data.read (a + 1) (BitVec.toNat (s.mem.data.byte a))
      (Ready n s) ∧ (e ≠ Ecc.uncorrectable) ∧ (a % 64 = 0) ∧ (a + 256 ≤ 1048576) ∧ (resvRaw f 0 true true true false = []) ∧ (b % 64 = 0) ∧
        (b + 64 ≤ 1048576) ∧ (symBlockBad p = false) ∧ (text.length ≤ 254) ∧ (fieldAt p 0 1 < 2) ∧ (linearBad (fieldAt p 0 1) text = false) ∧
        (ms = code128Modules (if fieldAt p 0 1 = 0 then code128Chars text else gs1Chars text)) ∧
        ((ms.length + 2 * fieldAt p 6 1) * fieldAt p 2 1 ≤ 163840) ∧ (c.vd.busy = none) ∧ (c.slotsUsed < 2 ^ 20) ∧ (c.behindTurn ↑n = false)) ∧
    (∃ (n : CtxId) (f : Fields) (e : Ecc) (s : Machine.State) (ms : List Bool),
      let u : Machine.State := s.onChip fun (x : Chip) => x.dRead e
      let c : Chip := u.chip
      let a : Nat := BitVec.toNat (c.g (↑n) f.ga.toNat)
      let b : Nat := BitVec.toNat (c.g (↑n) f.gb.toNat)
      let p : List Byte := s.mem.data.read b 64
      let text : List Byte := s.mem.data.read (a + 1) (BitVec.toNat (s.mem.data.byte a))
      (Ready n s) ∧ (e ≠ Ecc.uncorrectable) ∧ (a % 64 = 0) ∧ (a + 256 ≤ 1048576) ∧ (resvRaw f 0 true true true false = []) ∧ (b % 64 = 0) ∧
        (b + 64 ≤ 1048576) ∧ (symBlockBad p = false) ∧ (text.length ≤ 254) ∧ (fieldAt p 0 1 < 2) ∧ (linearBad (fieldAt p 0 1) text = false) ∧
        (ms = code128Modules (if fieldAt p 0 1 = 0 then code128Chars text else gs1Chars text)) ∧
        ((ms.length + 2 * fieldAt p 6 1) * fieldAt p 2 1 ≤ 163840) ∧ (c.vd.busy ≠ none) ∧ (c.slotsUsed < 2 ^ 20)) ∧
    (∃ (n : CtxId) (f : Fields) (e : Ecc) (s : Machine.State) (ms : List Bool),
      let u : Machine.State := s.onChip fun (x : Chip) => x.dRead e
      let c : Chip := u.chip
      let a : Nat := BitVec.toNat (c.g (↑n) f.ga.toNat)
      let b : Nat := BitVec.toNat (c.g (↑n) f.gb.toNat)
      let p : List Byte := s.mem.data.read b 64
      let text : List Byte := s.mem.data.read (a + 1) (BitVec.toNat (s.mem.data.byte a))
      (Ready n s) ∧ (e ≠ Ecc.uncorrectable) ∧ (a % 64 = 0) ∧ (a + 256 ≤ 1048576) ∧ (resvRaw f 0 true true true false = []) ∧ (b % 64 = 0) ∧
        (b + 64 ≤ 1048576) ∧ (symBlockBad p = false) ∧ (text.length ≤ 254) ∧ (fieldAt p 0 1 < 2) ∧ (linearBad (fieldAt p 0 1) text = false) ∧
        (ms = code128Modules (if fieldAt p 0 1 = 0 then code128Chars text else gs1Chars text)) ∧
        ((ms.length + 2 * fieldAt p 6 1) * fieldAt p 2 1 ≤ 163840) ∧ (c.vd.busy = none) ∧ (c.slotsUsed < 2 ^ 20) ∧ (c.behindTurn ↑n = true)) ∧
    (∃ (n : CtxId) (f : Fields) (e : Ecc) (s : Machine.State) (cw : List Nat) (z : Nat × Nat × Nat × Nat × Nat × Nat × Nat),
      let u : Machine.State := s.onChip fun (x : Chip) => x.dRead e
      let c : Chip := u.chip
      let a : Nat := BitVec.toNat (c.g (↑n) f.ga.toNat)
      let b : Nat := BitVec.toNat (c.g (↑n) f.gb.toNat)
      let p : List Byte := s.mem.data.read b 64
      let text : List Byte := s.mem.data.read (a + 1) (BitVec.toNat (s.mem.data.byte a))
      (Ready n s) ∧ (e ≠ Ecc.uncorrectable) ∧ (a % 64 = 0) ∧ (a + 256 ≤ 1048576) ∧ (resvRaw f 0 true true true false = []) ∧ (b % 64 = 0) ∧
        (b + 64 ≤ 1048576) ∧ (symBlockBad p = false) ∧ (text.length ≤ 254) ∧ (2 ≤ fieldAt p 0 1) ∧
        (cw = (if fieldAt p 0 1 = 3 then [232] else []) ++ dmAscii (decide (fieldAt p 0 1 = 3)) text) ∧
        (dmPick (fieldAt p 1 1) cw.length = some z) ∧ (c.vd.busy = none) ∧ (c.slotsUsed < 2 ^ 20) ∧ (c.behindTurn ↑n = false)) ∧
    (∃ (n : CtxId) (f : Fields) (e : Ecc) (s : Machine.State) (cw : List Nat) (z : Nat × Nat × Nat × Nat × Nat × Nat × Nat),
      let u : Machine.State := s.onChip fun (x : Chip) => x.dRead e
      let c : Chip := u.chip
      let a : Nat := BitVec.toNat (c.g (↑n) f.ga.toNat)
      let b : Nat := BitVec.toNat (c.g (↑n) f.gb.toNat)
      let p : List Byte := s.mem.data.read b 64
      let text : List Byte := s.mem.data.read (a + 1) (BitVec.toNat (s.mem.data.byte a))
      (Ready n s) ∧ (e ≠ Ecc.uncorrectable) ∧ (a % 64 = 0) ∧ (a + 256 ≤ 1048576) ∧ (resvRaw f 0 true true true false = []) ∧ (b % 64 = 0) ∧
        (b + 64 ≤ 1048576) ∧ (symBlockBad p = false) ∧ (text.length ≤ 254) ∧ (2 ≤ fieldAt p 0 1) ∧
        (cw = (if fieldAt p 0 1 = 3 then [232] else []) ++ dmAscii (decide (fieldAt p 0 1 = 3)) text) ∧
        (dmPick (fieldAt p 1 1) cw.length = some z) ∧ (c.vd.busy ≠ none) ∧ (c.slotsUsed < 2 ^ 20)) ∧
    (∃ (n : CtxId) (f : Fields) (e : Ecc) (s : Machine.State) (cw : List Nat) (z : Nat × Nat × Nat × Nat × Nat × Nat × Nat),
      let u : Machine.State := s.onChip fun (x : Chip) => x.dRead e
      let c : Chip := u.chip
      let a : Nat := BitVec.toNat (c.g (↑n) f.ga.toNat)
      let b : Nat := BitVec.toNat (c.g (↑n) f.gb.toNat)
      let p : List Byte := s.mem.data.read b 64
      let text : List Byte := s.mem.data.read (a + 1) (BitVec.toNat (s.mem.data.byte a))
      (Ready n s) ∧ (e ≠ Ecc.uncorrectable) ∧ (a % 64 = 0) ∧ (a + 256 ≤ 1048576) ∧ (resvRaw f 0 true true true false = []) ∧ (b % 64 = 0) ∧
        (b + 64 ≤ 1048576) ∧ (symBlockBad p = false) ∧ (text.length ≤ 254) ∧ (2 ≤ fieldAt p 0 1) ∧
        (cw = (if fieldAt p 0 1 = 3 then [232] else []) ++ dmAscii (decide (fieldAt p 0 1 = 3)) text) ∧
        (dmPick (fieldAt p 1 1) cw.length = some z) ∧ (c.vd.busy = none) ∧ (c.slotsUsed < 2 ^ 20) ∧ (c.behindTurn ↑n = true)) :=
  ⟨⟨1, fd 3 1 2, .clean, glyphs (inData 64 [1, 65] (run 64 1)), { alloc1 with isSealed := true, tile := true }, 10, by dsimp only; unfold Ready; decide +kernel⟩,
   ⟨1, fd 3 1 2, .clean, glyphs (inData 64 [1, 65] (run 64 1 [] fun c => { c with vd := { busy := some 0 } })), { alloc1 with isSealed := true, tile := true }, 10, by dsimp only; unfold Ready; decide +kernel⟩,
   ⟨1, fd 3 1 2, .clean, glyphs (inData 64 [1, 65] (run 64 1 [] fun c => { c with vd := { turns := [0] } })), { alloc1 with isSealed := true, tile := true }, 10, by dsimp only; unfold Ready; decide +kernel⟩,
   ⟨1, fd 3 1 2, .clean, inData 64 [1, 65] (inData 512 [0, 0, 2, 0, 100, 0, 10] (run 64 512)), code128Modules (code128Chars [65]), by dsimp only; unfold Ready; decide +kernel⟩,
   ⟨1, fd 3 1 2, .clean, inData 64 [1, 65] (inData 512 [0, 0, 2, 0, 100, 0, 10] (run 64 512 [] fun c => { c with vd := { busy := some 0 } })), code128Modules (code128Chars [65]), by dsimp only; unfold Ready; decide +kernel⟩,
   ⟨1, fd 3 1 2, .clean, inData 64 [1, 65] (inData 512 [0, 0, 2, 0, 100, 0, 10] (run 64 512 [] fun c => { c with vd := { turns := [0] } })), code128Modules (code128Chars [65]), by dsimp only; unfold Ready; decide +kernel⟩,
   ⟨1, fd 3 1 2, .clean, inData 64 [1, 65] (inData 512 [2, 0, 2, 2, 0, 0, 1] (run 64 512)), dmAscii false [65], (10, 10, 3, 5, 1, 1, 1), by dsimp only; unfold Ready; decide +kernel⟩,
   ⟨1, fd 3 1 2, .clean, inData 64 [1, 65] (inData 512 [2, 0, 2, 2, 0, 0, 1] (run 64 512 [] fun c => { c with vd := { busy := some 0 } })), dmAscii false [65], (10, 10, 3, 5, 1, 1, 1), by dsimp only; unfold Ready; decide +kernel⟩,
   ⟨1, fd 3 1 2, .clean, inData 64 [1, 65] (inData 512 [2, 0, 2, 2, 0, 0, 1] (run 64 512 [] fun c => { c with vd := { turns := [0] } })), dmAscii false [65], (10, 10, 3, 5, 1, 1, 1), by dsimp only; unfold Ready; decide +kernel⟩⟩

theorem met_CompositionEnds :
    ∃ (n : CtxId) (gd : Nat) (v : Nat) (s : Machine.State),
      (s.chip.vd.busy = some ↑n) ∧ (s.chip.pendOp ↑n = some (PendOp.compose gd v)) ∧ (gd < 32) :=
  ⟨1, 3, 9, stateWith [(SEQ_CSTAT_STATE 1, 2), (SEQ_CSTAT_STATE 2, 2), (SEQ_CWAIT_KIND 2, 10)] fun c => { c with vd := { busy := some 1 }, seq := { c.seq with ops := [(1, some (.compose 3 9))] } }, by decide +kernel⟩

theorem met_TableLoadsFillStagedSet :
    (∃ (n : CtxId) (f : Fields) (s : Machine.State) (gd : Nat) (ty : Nat) (mask : Nat) (j : Nat),
      (Ready n s) ∧ (s.chip.sstate ≠ 3) ∧ (s.chip.sstate ≠ 4) ∧ (ty = f.sub.toNat) ∧ (ty < 32) ∧ (mask = f.imm.toNat) ∧ (maskBad ty mask = false) ∧
        (j = BitVec.toNat (s.chip.g (↑n) f.ga.toNat)) ∧ (gd = f.gd.toNat) ∧ (resvRaw f 31 true true false true = []) ∧ (j % 64 = 0) ∧
        (s.chip.store.mayRead j 64 = true) ∧ (imageTraps s ty j = [])) ∧
    (∃ (n : CtxId) (f : Fields) (s : Machine.State) (ty : Nat) (mask : Nat),
      (Ready n s) ∧ (s.chip.sstate ≠ 3) ∧ (s.chip.sstate ≠ 4) ∧ (ty = f.sub.toNat) ∧ (ty < 32) ∧ (mask = f.imm.toNat) ∧ (maskBad ty mask = false) ∧
        (resvRaw f 31 false false false true = [])) ∧
    (∃ (n : CtxId) (s : Machine.State) (r : Ecc) (gd : Nat) (ty : Nat) (mask : Nat) (j : Nat),
      (s.chip.sstate ≠ 3) ∧ (s.chip.sstate ≠ 4) ∧ (r ≠ Ecc.uncorrectable) ∧ (ty < 10) ∧ (s.chip.pendOp ↑n = some (PendOp.tload gd ty mask j)) ∧
        (gd < 32) ∧ (imageTraps s ty j = [])) ∧
    (∃ (n : CtxId) (s : Machine.State) (r : Ecc) (ty : Nat) (mask : Nat),
      (s.chip.sstate ≠ 3) ∧ (s.chip.sstate ≠ 4) ∧ (r ≠ Ecc.uncorrectable) ∧ (ty < 10) ∧ (s.chip.pendOp ↑n = some (PendOp.tcopy ty mask))) :=
  ⟨⟨1, fd 3 1 0 4 4, inJob 0 image4 (run 0 0 [] withAlloc), 3, 4, 4, 0, by unfold Ready; decide +kernel⟩,
   ⟨1, fd 0 0 0 4 4, inJob 0 image4 (run 0 0 [] withAlloc), 4, 4, by unfold Ready; decide +kernel⟩,
   ⟨1, inJob 0 image4 (run 0 0 [] fun c => (withAlloc c).pend 1 4 (.tload 3 4 4 0)), .clean, 3, 4, 4, 0, by decide +kernel⟩,
   ⟨1, run 0 0 [] (·.pend 1 4 (.tcopy 4 4)), .clean, 4, 4, by decide +kernel⟩⟩

theorem met_StagedSetChanges :
    (∃ (n : CtxId) (f : Fields) (s : Machine.State) (x : Claim),
      let c : Chip := s.chip
      (Ready n s) ∧ (x = { ctx := ↑n, kind := f.imm.toNat, num := BitVec.toNat (c.g (↑n) f.ga.toNat) }) ∧ (resvRaw f 1 true true false true = []) ∧
        (f.imm.toNat < 4) ∧ (c.claimBad x (f.sub.getLsbD 0) = false) ∧ (c.sstate = 4)) ∧
    (∃ (n : CtxId) (f : Fields) (s : Machine.State) (x : Claim),
      let c : Chip := s.chip
      (Ready n s) ∧ (x = { ctx := ↑n, kind := f.imm.toNat, num := BitVec.toNat (c.g (↑n) f.ga.toNat) }) ∧ (resvRaw f 1 true true false true = []) ∧
        (f.imm.toNat < 4) ∧ (c.claimBad x (f.sub.getLsbD 0) = false) ∧ (c.sstate ≠ 3) ∧ (c.sstate ≠ 4)) ∧
    (∃ (n : CtxId) (f : Fields) (s : Machine.State),
      let c : Chip := s.chip
      (Ready n s) ∧ (resvRaw f 0 true false false false = []) ∧ (c.sstate ≠ 3) ∧ (c.sstate = 4)) ∧
    (∃ (n : CtxId) (f : Fields) (s : Machine.State),
      let c : Chip := s.chip
      (Ready n s) ∧ (resvRaw f 0 true false false false = []) ∧ (c.sstate ≠ 3) ∧ (c.sstate ≠ 4)) ∧
    (∃ (n : CtxId) (f : Fields) (s : Machine.State),
      let c : Chip := s.chip
      (Ready n s) ∧ (resvRaw f 0 true false false false = []) ∧ (c.sstate = 4)) ∧
    (∃ (n : CtxId) (f : Fields) (s : Machine.State),
      let c : Chip := s.chip
      (Ready n s) ∧ (resvRaw f 0 true false false false = []) ∧ (c.sstate = 0)) ∧
    (∃ (n : CtxId) (f : Fields) (s : Machine.State),
      let c : Chip := s.chip
      (Ready n s) ∧ (resvRaw f 0 true false false false = []) ∧ (c.sstate = 1 ∨ c.sstate = 2)) ∧
    (∃ (n : CtxId) (f : Fields) (s : Machine.State) (x : Sched),
      let c : Chip := s.chip
      (Ready n s) ∧ (resvRaw f 0 true false false false = []) ∧ (c.sstate = 3) ∧ (c.stage.sched = some x) ∧ (x.reached ≠ 0)) ∧
    (∃ (n : CtxId) (f : Fields) (s : Machine.State) (x : Sched),
      let c : Chip := s.chip
      (Ready n s) ∧ (resvRaw f 0 true false false false = []) ∧ (c.sstate = 3) ∧ (c.stage.sched = some x) ∧ (x.reached = 0)) ∧
    (∃ (n : CtxId) (f : Fields) (s : Machine.State) (x : Sched),
      let c : Chip := s.chip
      (Ready n s) ∧ (resvRaw f 0 true false false false = []) ∧ (c.sstate = 3) ∧ (c.stage.sched = some x) ∧ (x.reached = 0) ∧ (x.at_ = none)) ∧
    (∃ (n : CtxId) (f : Fields) (s : Machine.State) (bars : Nat),
      let c : Chip := s.chip
      (Ready n s) ∧ (resvRaw f 0 true true false true = []) ∧ (bars = BitVec.toNat (c.g (↑n) f.ga.toNat) % 65536) ∧
        (restoreBad f.imm.toNat bars = false) ∧ (c.sstate = 4)) ∧
    (∃ (n : CtxId) (f : Fields) (s : Machine.State) (bars : Nat),
      let c : Chip := s.chip
      (Ready n s) ∧ (resvRaw f 0 true true false true = []) ∧ (bars = BitVec.toNat (c.g (↑n) f.ga.toNat) % 65536) ∧
        (restoreBad f.imm.toNat bars = false) ∧ (c.sstate ≠ 3) ∧ (c.sstate ≠ 4)) :=
  ⟨⟨1, fd 3 1 0 0 1, staging 4 7 0, ⟨1, 1, 7⟩, by dsimp only; unfold Ready; decide +kernel⟩,
   ⟨1, fd 3 1 0 0 1, staging 0 7 0, ⟨1, 1, 7⟩, by dsimp only; unfold Ready; decide +kernel⟩,
   ⟨1, fd 3 0 0, staging 4 7 0, by dsimp only; unfold Ready; decide +kernel⟩,
   ⟨1, fd 3 0 0, staging 0 7 0, by dsimp only; unfold Ready; decide +kernel⟩,
   ⟨1, fd 3 0 0, staging 4 7 0, by dsimp only; unfold Ready; decide +kernel⟩,
   ⟨1, fd 3 0 0, staging 0 7 0, by dsimp only; unfold Ready; decide +kernel⟩,
   ⟨1, fd 3 0 0, staging 1 4 0, by dsimp only; unfold Ready; decide +kernel⟩,
   ⟨1, fd 3 0 0, staging 3 0 0 (sched { set := {}, reached := 3 }), { set := {}, reached := 3 }, by dsimp only; unfold Ready; decide +kernel⟩,
   ⟨1, fd 3 0 0, staging 3 0 0 (sched { set := {} }), { set := {} }, by dsimp only; unfold Ready; decide +kernel⟩,
   ⟨1, fd 3 0 0, staging 3 0 0 (sched { set := {} }), { set := {} }, by dsimp only; unfold Ready; decide +kernel⟩,
   ⟨1, fd 3 1 0 0 8, staging 4 4 0, 4, by dsimp only; unfold Ready; decide +kernel⟩,
   ⟨1, fd 3 1 0 0 8, staging 1 4 0, 4, by dsimp only; unfold Ready; decide +kernel⟩⟩

theorem met_CommitsAreAccepted :
    (∃ (n : CtxId) (f : Fields) (s : Machine.State) (p : Nat),
      let c : Chip := s.chip
      let w : Nat := recheck c c.stage.staged
      let opened : Nat := c.get SEQ_PSTAT_OPEN
      let late : Nat → Prop := fun (p : Nat) => opened ≠ 0 ∧ p < c.frontHorizon
      (Ready n s) ∧ (c.sstate = 0 ∨ c.sstate = 2) ∧ (f.ga < 8) ∧ (p = BitVec.toNat (c.w (↑n) f.ga.toNat)) ∧
        (resvRaw f 1 true true false false = []) ∧ (f.sub.getLsbD 0 = false ∨ ¬late p) ∧ (w ≠ 0)) ∧
    (∃ (n : CtxId) (f : Fields) (s : Machine.State) (p : Nat),
      let c : Chip := s.chip
      let w : Nat := recheck c c.stage.staged
      let opened : Nat := c.get SEQ_PSTAT_OPEN
      let late : Nat → Prop := fun (p : Nat) => opened ≠ 0 ∧ p < c.frontHorizon
      (Ready n s) ∧ (c.sstate = 0 ∨ c.sstate = 2) ∧ (f.ga < 8) ∧ (p = BitVec.toNat (c.w (↑n) f.ga.toNat)) ∧
        (resvRaw f 1 true true false false = []) ∧ (f.sub.getLsbD 0 = false ∨ ¬late p) ∧ (w = 0) ∧ (¬late p)) ∧
    (∃ (n : CtxId) (f : Fields) (s : Machine.State) (p : Nat),
      let c : Chip := s.chip
      let w : Nat := recheck c c.stage.staged
      let opened : Nat := c.get SEQ_PSTAT_OPEN
      let late : Nat → Prop := fun (p : Nat) => opened ≠ 0 ∧ p < c.frontHorizon
      (Ready n s) ∧ (c.sstate = 0 ∨ c.sstate = 2) ∧ (f.ga < 8) ∧ (p = BitVec.toNat (c.w (↑n) f.ga.toNat)) ∧
        (resvRaw f 1 true true false false = []) ∧ (f.sub.getLsbD 0 = false ∨ ¬late p) ∧ (w = 0) ∧ (late p)) ∧
    (∃ (n : CtxId) (f : Fields) (s : Machine.State),
      let c : Chip := s.chip
      (Ready n s) ∧ (c.sstate = 0 ∨ c.sstate = 2) ∧ (resvRaw f 0 true true false false = [])) :=
  ⟨⟨0, fd 3 0 0, print 7168 0 0 [] (stagedSet { claims := [⟨1, 3, 1⟩] }), 7168, by dsimp only; unfold Ready; decide +kernel⟩,
   ⟨0, fd 3 0 0, print 7168 0 0, 7168, by dsimp only; unfold Ready; decide +kernel⟩,
   ⟨0, fd 3 0 0, print 7000 0 0 [(SEQ_PSTAT_OPEN, 1)], 7000, by dsimp only; unfold Ready; decide +kernel⟩,
   ⟨0, fd 3 0 0, print 7168 0 0, by dsimp only; unfold Ready; decide +kernel⟩⟩

theorem met_CalibrationAndCommitTiming :
    (∃ (n : CtxId) (f : Fields) (s : Machine.State),
      let c : Chip := s.chip
      let ssc : Nat := BitVec.toNat (c.g (↑n) f.ga.toNat) % 256
      (Ready n s) ∧ (resvRaw f 0 true true false true = []) ∧ (saveBad f.imm.toNat ssc = false) ∧ (c.get NV_STAT_BUSY ≠ 0)) ∧
    (∃ (n : CtxId) (f : Fields) (s : Machine.State),
      let c : Chip := s.chip
      let ssc : Nat := BitVec.toNat (c.g (↑n) f.ga.toNat) % 256
      (Ready n s) ∧ (resvRaw f 0 true true false true = []) ∧ (saveBad f.imm.toNat ssc = false) ∧ (c.get NV_STAT_BUSY = 0) ∧
        (-80 ≤ c.getS HL_THSTAT_THETA_J ∧ c.getS HL_THSTAT_THETA_J ≤ 1600)) ∧
    (∃ (n : CtxId) (f : Fields) (s : Machine.State),
      let c : Chip := s.chip
      let ssc : Nat := BitVec.toNat (c.g (↑n) f.ga.toNat) % 256
      (Ready n s) ∧ (resvRaw f 0 true true false true = []) ∧ (saveBad f.imm.toNat ssc = false) ∧ (c.get NV_STAT_BUSY = 0) ∧
        (¬(-80 ≤ c.getS HL_THSTAT_THETA_J ∧ c.getS HL_THSTAT_THETA_J ≤ 1600))) ∧
    (∃ (t : Nat) (s : Machine.State) (x : Sched) (T : Nat),
      let c : Chip := (s.at_ t).chip
      (s.chip.stage.sched = some x) ∧ (x.at_ = some T) ∧ (c.runs = true) ∧ (T ≤ c.ns) ∧ (recheck c x.set = 0)) ∧
    (∃ (t : Nat) (s : Machine.State) (x : Sched) (T : Nat),
      let c : Chip := (s.at_ t).chip
      (s.chip.stage.sched = some x) ∧ (x.at_ = some T) ∧ (c.runs = true) ∧ (T ≤ c.ns) ∧ (recheck c x.set ≠ 0)) ∧
    (∃ (s : Machine.State),
      (s.chip.sstate = 4) ∧ (s.chip.stage.calItems = 0)) ∧
    (∃ (s : Machine.State) (w : NorWrite),
      (s.chip.stage.write = some w) ∧ (s.chip.stage.calItems = 0)) ∧
    (∃ (ok : Bool) (s : Machine.State) (w : NorWrite),
      (s.chip.stage.write = some w) ∧ (s.chip.stage.calItems = 0) ∧ (ok = true)) ∧
    (∃ (ok : Bool) (hot : Bool) (s : Machine.State) (w : NorWrite),
      (s.chip.stage.write = some w) ∧ (s.chip.stage.calItems = 0) ∧ (ok = false ∨ hot = true)) :=
  ⟨⟨0, fd 3 1 0 0 1, run 5 0 [(NV_STAT_BUSY, 1)], by dsimp only; unfold Ready; decide +kernel⟩,
   ⟨0, fd 3 1 0 0 1, run 5 0, by dsimp only; unfold Ready; decide +kernel⟩,
   ⟨0, fd 3 1 0 0 1, run 5 0 [(HL_THSTAT_THETA_J, 1601)], by dsimp only; unfold Ready; decide +kernel⟩,
   ⟨0, stateWith [] (sched { set := {}, at_ := some 0 }), { set := {}, at_ := some 0 }, 0, by dsimp only; decide +kernel⟩,
   ⟨0, stateWith [] (sched { set := { claims := [⟨1, 3, 1⟩] }, at_ := some 0 }), { set := { claims := [⟨1, 3, 1⟩] }, at_ := some 0 }, 0, by dsimp only; decide +kernel⟩,
   ⟨stateWith [(SEQ_SSTAT_STATE, 4)], by decide +kernel⟩,
   ⟨stateWith [] (fun c => { c with stage := { c.stage with write := some { items := 1, bank := { valid := true } } } }), { items := 1, bank := { valid := true } }, by decide +kernel⟩,
   ⟨true, stateWith [] (fun c => { c with stage := { c.stage with write := some { items := 1, bank := { valid := true } } } }), { items := 1, bank := { valid := true } }, by decide +kernel⟩,
   ⟨true, true, stateWith [] (fun c => { c with stage := { c.stage with write := some { items := 1, bank := { valid := true } } } }), { items := 1, bank := { valid := true } }, by decide +kernel⟩⟩

theorem met_HostCommandsAreChecked :
    (∃ (t : Nat) (q : Fin 64) (host : List Byte) (r : Ecc) (lost : List Nat) (s : Machine.State) (e : Instr × Nat × Nat × Option Nat),
      (s.chip.sstate ≠ 4) ∧ (s.chip.testing 4 = false) ∧ (e ∈ hostCommands t q host r lost) ∧
        ((s.at_ t).chip.headIs (↑q) e.snd.fst e.snd.snd.fst = false)) ∧
    (∃ (t : Nat) (q : Fin 64) (host : List Byte) (r : Ecc) (lost : List Nat) (s : Machine.State) (e : Instr × Nat × Nat × Option Nat) (x : InDesc) (c : Chip) (st : Nat),
      (s.chip.sstate ≠ 4) ∧ (s.chip.testing 4 = false) ∧ (e ∈ hostCommands t q host r lost) ∧ ((s.at_ t).chip.takeSys ↑q = some (x, c)) ∧
        (x.opc = e.snd.fst) ∧ (x.fn = e.snd.snd.fst) ∧ (c.early (↑q) x = some st)) ∧
    (∃ (t : Nat) (q : Fin 64) (host : List Byte) (r : Ecc) (lost : List Nat) (s : Machine.State) (e : Instr × Nat × Nat × Option Nat) (x : InDesc) (c : Chip) (g : Nat),
      (s.chip.sstate ≠ 4) ∧ (s.chip.testing 4 = false) ∧ (e ∈ hostCommands t q host r lost) ∧ ((s.at_ t).chip.takeSys ↑q = some (x, c)) ∧
        (x.opc = e.snd.fst) ∧ (x.fn = e.snd.snd.fst) ∧ (c.early (↑q) x = none) ∧ (e.snd.snd.snd = some g) ∧ (c.granted (↑q) g = false)) :=
  ⟨⟨0, 0, [], .clean, [], stateWith [], (.stop 0 0, 2, 0, some 0), by decide +kernel⟩,
   ⟨0, 0, [], .clean, [], (hostWith [(QM_QCFG_CLASS 0, 1)] id (waits 0 [desc 2 0])), (.stop 0 0, 2, 0, some 0), desc 2 0, took 0 (hostWith [(QM_QCFG_CLASS 0, 1)] id (waits 0 [desc 2 0])), 0x12, by decide +kernel⟩,
   ⟨0, 0, [], .clean, [], (hostWith [(QM_QCFG_TENANT 0, 3)] id (waits 0 [desc 2 0])), (.stop 0 0, 2, 0, some 0), desc 2 0, took 0 (hostWith [(QM_QCFG_TENANT 0, 3)] id (waits 0 [desc 2 0])), 0, by decide +kernel⟩⟩

theorem met_CompletionsArePosted :
    (∃ (c : Chip) (q : Fin 64),
      (c.canDeliver ↑q = false)) ∧
    (∃ (c : Chip) (q : Fin 64) (p : Nat),
      (c.canDeliver ↑q = false) ∧ (p ≠ ↑q)) :=
  ⟨⟨{}, 0, by decide +kernel⟩,
   ⟨{}, 0, 1, by decide +kernel⟩⟩

theorem met_RunStopAndArm :
    (∃ (t : Nat) (q : Fin 64) (x : InDesc) (c : Chip) (s : Machine.State) (r : BistRun),
      (Started t q 1 0 (some 0) x c s) ∧ (c.health.bist = some r)) ∧
    (∃ (t : Nat) (q : Fin 64) (x : InDesc) (c : Chip) (s : Machine.State),
      (Started t q 1 0 (some 0) x c s) ∧ (c.health.bist = none) ∧ (c.get SEQ_STAT_IMG_LOADED = 0 ∨ c.ctx0Idle = false)) ∧
    (∃ (t : Nat) (q : Fin 64) (x : InDesc) (c : Chip) (s : Machine.State),
      (Started t q 1 0 (some 0) x c s) ∧ (c.health.bist = none) ∧ (c.get SEQ_STAT_IMG_LOADED ≠ 0) ∧ (c.ctx0Idle = true) ∧
        (c.get (WM_ECFG_EN c.infeed) = 0)) ∧
    (∃ (t : Nat) (q : Fin 64) (x : InDesc) (c : Chip) (s : Machine.State),
      (Started t q 1 0 (some 0) x c s) ∧ (c.health.bist = none) ∧ (c.get SEQ_STAT_IMG_LOADED ≠ 0) ∧ (c.ctx0Idle = true) ∧
        (c.get (WM_ECFG_EN c.infeed) ≠ 0)) ∧
    (∃ (t : Nat) (q : Fin 64) (x : InDesc) (c : Chip) (s : Machine.State),
      (Started t q 2 0 (some 0) x c s)) ∧
    (∃ (t : Nat) (q : Fin 64) (x : InDesc) (c : Chip) (s : Machine.State),
      (Started t q 2 0 (some 0) x c s) ∧ (c.ctx0Idle = false)) ∧
    (∃ (t : Nat) (q : Fin 64) (x : InDesc) (c : Chip) (s : Machine.State),
      (Started t q 2 0 (some 0) x c s) ∧ (c.ctx0Idle = true)) ∧
    (∃ (t : Nat) (q : Fin 64) (x : InDesc) (c : Chip) (s : Machine.State),
      (Started t q 3 0 (some 0) x c s) ∧ (c.get SEQ_PSTAT_OPEN = 0)) ∧
    (∃ (t : Nat) (q : Fin 64) (x : InDesc) (c : Chip) (s : Machine.State),
      (Started t q 3 0 (some 0) x c s) ∧ (c.get SEQ_PSTAT_OPEN ≠ 0) ∧ (c.get FS_STAT_HFN = 0)) ∧
    (∃ (t : Nat) (q : Fin 64) (x : InDesc) (c : Chip) (s : Machine.State),
      (Started t q 3 0 (some 0) x c s) ∧ (c.get SEQ_PSTAT_OPEN ≠ 0) ∧ (c.get FS_STAT_HFN ≠ 0) ∧ (c.haltFaultPending = true)) ∧
    (∃ (t : Nat) (q : Fin 64) (x : InDesc) (c : Chip) (s : Machine.State),
      (Started t q 3 0 (some 0) x c s) ∧ (c.get SEQ_PSTAT_OPEN ≠ 0) ∧ (c.get FS_STAT_HFN ≠ 0) ∧ (c.haltFaultPending = false) ∧
        (c.get FS_STAT_HALTED = 0)) ∧
    (∃ (t : Nat) (q : Fin 64) (x : InDesc) (c : Chip) (s : Machine.State),
      (Started t q 3 0 (some 0) x c s) ∧ (c.get SEQ_PSTAT_OPEN ≠ 0) ∧ (c.get FS_STAT_HFN ≠ 0) ∧ (c.haltFaultPending = false) ∧
        (c.get FS_STAT_HALTED ≠ 0)) :=
  ⟨⟨0, 0, desc 1 0, took 0 (hostWith [] (fun c => { c with health := { c.health with bist := some { kind := 1, plog := 0, dtStart := 0 } } }) (waits 0 [desc 1 0])), (hostWith [] (fun c => { c with health := { c.health with bist := some { kind := 1, plog := 0, dtStart := 0 } } }) (waits 0 [desc 1 0])), { kind := 1, plog := 0, dtStart := 0 }, by unfold Started; decide +kernel⟩,
   ⟨0, 0, desc 1 0, took 0 (hostWith [] id (waits 0 [desc 1 0])), (hostWith [] id (waits 0 [desc 1 0])), by unfold Started; decide +kernel⟩,
   ⟨0, 0, desc 1 0, took 0 (hostWith [(SEQ_STAT_IMG_LOADED, 1)] id (waits 0 [desc 1 0])), (hostWith [(SEQ_STAT_IMG_LOADED, 1)] id (waits 0 [desc 1 0])), by unfold Started; decide +kernel⟩,
   ⟨0, 0, desc 1 0, took 0 (hostWith [(SEQ_STAT_IMG_LOADED, 1),(WM_ECFG_EN 0, 1)] id (waits 0 [desc 1 0])), (hostWith [(SEQ_STAT_IMG_LOADED, 1),(WM_ECFG_EN 0, 1)] id (waits 0 [desc 1 0])), by unfold Started; decide +kernel⟩,
   ⟨0, 0, desc 2 0, took 0 (hostWith [] id (waits 0 [desc 2 0])), (hostWith [] id (waits 0 [desc 2 0])), by unfold Started; decide +kernel⟩,
   ⟨0, 0, desc 2 0, took 0 (hostWith [(SEQ_CSTAT_STATE 0, 1)] id (waits 0 [desc 2 0])), (hostWith [(SEQ_CSTAT_STATE 0, 1)] id (waits 0 [desc 2 0])), by unfold Started; decide +kernel⟩,
   ⟨0, 0, desc 2 0, took 0 (hostWith [] id (waits 0 [desc 2 0])), (hostWith [] id (waits 0 [desc 2 0])), by unfold Started; decide +kernel⟩,
   ⟨0, 0, desc 3 0, took 0 (hostWith [] id (waits 0 [desc 3 0])), (hostWith [] id (waits 0 [desc 3 0])), by unfold Started; decide +kernel⟩,
   ⟨0, 0, desc 3 0, took 0 (hostWith [(SEQ_PSTAT_OPEN, 1), (FS_STAT_HFN, 0)] id (waits 0 [desc 3 0])), (hostWith [(SEQ_PSTAT_OPEN, 1), (FS_STAT_HFN, 0)] id (waits 0 [desc 3 0])), by unfold Started; decide +kernel⟩,
   ⟨0, 0, desc 3 0, took 0 (hostWith [(SEQ_PSTAT_OPEN, 1), (FS_STAT_HFN, 1), (FS_STAT_HALTED, 1), (FSTAT_STICKY .fs 0, 1)] (·.setReaction .fs 0 0 4) (waits 0 [desc 3 0])), (hostWith [(SEQ_PSTAT_OPEN, 1), (FS_STAT_HFN, 1), (FS_STAT_HALTED, 1), (FSTAT_STICKY .fs 0, 1)] (·.setReaction .fs 0 0 4) (waits 0 [desc 3 0])), by unfold Started; decide +kernel⟩,
   ⟨0, 0, desc 3 0, took 0 (hostWith [(SEQ_PSTAT_OPEN, 1), (FS_STAT_HFN, 1), (FS_STAT_HALTED, 0)] id (waits 0 [desc 3 0])), (hostWith [(SEQ_PSTAT_OPEN, 1), (FS_STAT_HFN, 1), (FS_STAT_HALTED, 0)] id (waits 0 [desc 3 0])), by unfold Started; decide +kernel⟩,
   ⟨0, 0, desc 3 0, took 0 (hostWith [(SEQ_PSTAT_OPEN, 1), (FS_STAT_HFN, 1), (FS_STAT_HALTED, 1)] id (waits 0 [desc 3 0])), (hostWith [(SEQ_PSTAT_OPEN, 1), (FS_STAT_HFN, 1), (FS_STAT_HALTED, 1)] id (waits 0 [desc 3 0])), by unfold Started; decide +kernel⟩⟩

theorem met_LoadProgramReplacesUserArea :
    (∃ (t : Nat) (q : Fin 64) (x : InDesc) (b : Chip) (s : Machine.State),
      (Started t q 4 0 (some 0) x b s) ∧ (b.testing 4 = true)) ∧
    (∃ (t : Nat) (q : Fin 64) (x : InDesc) (b : Chip) (s : Machine.State),
      (Started t q 4 0 (some 0) x b s) ∧ (b.testing 4 = false) ∧ (b.ctx0Idle = false)) ∧
    (∃ (t : Nat) (q : Fin 64) (x : InDesc) (b : Chip) (s : Machine.State) (n : Nat),
      (Started t q 4 0 (some 0) x b s) ∧ (n < 16) ∧ (b.testing 4 = false) ∧ (b.ctxState (n + 1) ≠ IDLE)) ∧
    (∃ (t : Nat) (q : Fin 64) (x : InDesc) (b : Chip) (s : Machine.State),
      (Started t q 4 0 (some 0) x b s) ∧ (b.testing 4 = false) ∧ (b.ctx0Idle = true) ∧ (∀ (n : Nat), n < 16 → b.ctxState (n + 1) = IDLE) ∧
        (b.store.find (x.param 16 4) = none)) ∧
    (∃ (t : Nat) (q : Fin 64) (x : InDesc) (b : Chip) (s : Machine.State) (a : Alloc),
      (Started t q 4 0 (some 0) x b s) ∧ (b.testing 4 = false) ∧ (b.ctx0Idle = true) ∧ (∀ (n : Nat), n < 16 → b.ctxState (n + 1) = IDLE) ∧
        (b.store.find (x.param 16 4) = some a) ∧ (bit a.rd (b.qTenant ↑q) = false)) ∧
    (∃ (t : Nat) (q : Fin 64) (x : InDesc) (b : Chip) (s : Machine.State) (a : Alloc),
      (Started t q 4 0 (some 0) x b s) ∧ (b.testing 4 = false) ∧ (b.ctx0Idle = true) ∧ (∀ (n : Nat), n < 16 → b.ctxState (n + 1) = IDLE) ∧
        (b.store.find (x.param 16 4) = some a) ∧ (bit a.rd (b.qTenant ↑q) = true) ∧ (a.size * 65536 ≤ x.param 24 8)) ∧
    (∃ (t : Nat) (q : Fin 64) (r : Ecc) (x : InDesc) (b : Chip) (s : Machine.State) (a : Alloc),
      (Started t q 4 0 (some 0) x b s) ∧ (b.testing 4 = false) ∧ (b.ctx0Idle = true) ∧ (∀ (n : Nat), n < 16 → b.ctxState (n + 1) = IDLE) ∧
        (b.store.find (x.param 16 4) = some a) ∧ (bit a.rd (b.qTenant ↑q) = true) ∧ (x.param 24 8 < a.size * 65536) ∧ (r = Ecc.uncorrectable)) ∧
    (∃ (t : Nat) (q : Fin 64) (r : Ecc) (x : InDesc) (b : Chip) (s : Machine.State) (a : Alloc),
      let c : Chip := b.jobStoreRead r
      let img : List Byte := s.mem.job.read (a.start + x.param 24 8) (a.size * 65536 - x.param 24 8)
      (Started t q 4 0 (some 0) x b s) ∧ (b.testing 4 = false) ∧ (b.ctx0Idle = true) ∧ (∀ (n : Nat), n < 16 → b.ctxState (n + 1) = IDLE) ∧
        (b.store.find (x.param 16 4) = some a) ∧ (bit a.rd (b.qTenant ↑q) = true) ∧ (x.param 24 8 < a.size * 65536) ∧ (r ≠ Ecc.uncorrectable) ∧
        (loadFailure c img = none)) :=
  ⟨⟨0, 0, desc 4 0 (le 4 1 ++ zeros 4 ++ le 8 0), took 0 (hostWith [(HL_BSTAT_STATE, 2), (HL_BSTAT_WAVE, 2)] id (waits 0 [desc 4 0 (le 4 1 ++ zeros 4 ++ le 8 0)])), (hostWith [(HL_BSTAT_STATE, 2), (HL_BSTAT_WAVE, 2)] id (waits 0 [desc 4 0 (le 4 1 ++ zeros 4 ++ le 8 0)])), by unfold Started; decide +kernel⟩,
   ⟨0, 0, desc 4 0 (le 4 1 ++ zeros 4 ++ le 8 0), took 0 (hostWith [(SEQ_CSTAT_STATE 0, 1)] id (waits 0 [desc 4 0 (le 4 1 ++ zeros 4 ++ le 8 0)])), (hostWith [(SEQ_CSTAT_STATE 0, 1)] id (waits 0 [desc 4 0 (le 4 1 ++ zeros 4 ++ le 8 0)])), by unfold Started; decide +kernel⟩,
   ⟨0, 0, desc 4 0 (le 4 1 ++ zeros 4 ++ le 8 0), took 0 (hostWith [(SEQ_CSTAT_STATE 1, 1)] id (waits 0 [desc 4 0 (le 4 1 ++ zeros 4 ++ le 8 0)])), (hostWith [(SEQ_CSTAT_STATE 1, 1)] id (waits 0 [desc 4 0 (le 4 1 ++ zeros 4 ++ le 8 0)])), 0, by unfold Started; decide +kernel⟩,
   ⟨0, 0, desc 4 0 (le 4 1 ++ zeros 4 ++ le 8 0), took 0 (hostWith [] id (waits 0 [desc 4 0 (le 4 1 ++ zeros 4 ++ le 8 0)])), (hostWith [] id (waits 0 [desc 4 0 (le 4 1 ++ zeros 4 ++ le 8 0)])), by unfold Started; decide +kernel⟩,
   ⟨0, 0, desc 4 0 (le 4 1 ++ zeros 4 ++ le 8 0), took 0 (hostWith [] (·.setStore { allocs := [{ alloc1 with rd := 0 }] }) (waits 0 [desc 4 0 (le 4 1 ++ zeros 4 ++ le 8 0)])), (hostWith [] (·.setStore { allocs := [{ alloc1 with rd := 0 }] }) (waits 0 [desc 4 0 (le 4 1 ++ zeros 4 ++ le 8 0)])), { alloc1 with rd := 0 }, by unfold Started; decide +kernel⟩,
   ⟨0, 0, desc 4 0 (le 4 1 ++ zeros 4 ++ le 8 65536), took 0 (hostWith [] withAlloc (waits 0 [desc 4 0 (le 4 1 ++ zeros 4 ++ le 8 65536)])), (hostWith [] withAlloc (waits 0 [desc 4 0 (le 4 1 ++ zeros 4 ++ le 8 65536)])), alloc1, by unfold Started; decide +kernel⟩,
   ⟨0, 0, .uncorrectable, desc 4 0 (le 4 1 ++ zeros 4 ++ le 8 65472), took 0 (hostWith [] withAlloc (waits 0 [desc 4 0 (le 4 1 ++ zeros 4 ++ le 8 65472)])), (hostWith [] withAlloc (waits 0 [desc 4 0 (le 4 1 ++ zeros 4 ++ le 8 65472)])), alloc1, by unfold Started; decide +kernel⟩,
   ⟨0, 0, .clean, desc 4 0 (le 4 1 ++ zeros 4 ++ le 8 65472), took 0 (hostWith [] noEntries (waits 0 [desc 4 0 (le 4 1 ++ zeros 4 ++ le 8 65472)])), (hostWith [] noEntries (waits 0 [desc 4 0 (le 4 1 ++ zeros 4 ++ le 8 65472)])), alloc1, by dsimp only; unfold Started; decide +kernel⟩⟩

theorem met_StageControlActsAsInstruction :
    (∃ (t : Nat) (q : Fin 64) (s : Machine.State) (e : Instr × Nat),
      (e ∈ [(Instr.stageCheck t q, 1), (Instr.stageCommitw t q, 2), (Instr.stageCommitt t q, 3), (Instr.stageAbandon t q, 4), (Instr.stageTload t q, 5), (Instr.stageRestorefac t q, 6)]) ∧
        (s.chip.sstate = 4) ∧ ((s.at_ t).chip.headIs (↑q) 5 e.snd = true)) ∧
    (∃ (t : Nat) (q : Fin 64) (x : InDesc) (c : Chip) (s : Machine.State),
      (Started t q 5 0 (some 0) x c s)) ∧
    (∃ (t : Nat) (q : Fin 64) (x : InDesc) (c : Chip) (s : Machine.State),
      (s.chip.sstate ≠ 4) ∧ (Started t q 5 1 (some 0) x c s) ∧ (c.sstate = 3)) ∧
    (∃ (t : Nat) (q : Fin 64) (x : InDesc) (c : Chip) (s : Machine.State),
      (s.chip.sstate ≠ 4) ∧ (Started t q 5 1 (some 0) x c s) ∧ (c.sstate ≠ 3)) ∧
    (∃ (t : Nat) (q : Fin 64) (x : InDesc) (c : Chip) (s : Machine.State),
      (s.chip.sstate ≠ 4) ∧ (Started t q 5 2 (some 0) x c s) ∧ (c.sstate = 1)) ∧
    (∃ (t : Nat) (q : Fin 64) (x : InDesc) (c : Chip) (s : Machine.State),
      let p : Nat := x.param 24 8
      let strict : Prop := x.param 18 1 % 2 = 1
      (s.chip.sstate ≠ 4) ∧ (Started t q 5 2 (some 0) x c s) ∧ (c.sstate = 3) ∧ (¬(strict ∧ c.commitLate p = true))) ∧
    (∃ (t : Nat) (q : Fin 64) (x : InDesc) (c : Chip) (s : Machine.State),
      let p : Nat := x.param 24 8
      let strict : Prop := x.param 18 1 % 2 = 1
      (s.chip.sstate ≠ 4) ∧ (Started t q 5 2 (some 0) x c s) ∧ (c.sstate ≠ 1) ∧ (strict) ∧ (c.commitLate p = true)) ∧
    (∃ (t : Nat) (q : Fin 64) (x : InDesc) (c : Chip) (s : Machine.State),
      let p : Nat := x.param 24 8
      let strict : Prop := x.param 18 1 % 2 = 1
      (s.chip.sstate ≠ 4) ∧ (Started t q 5 2 (some 0) x c s) ∧ (c.sstate ≠ 1) ∧ (c.sstate ≠ 3) ∧ (¬(strict ∧ c.commitLate p = true))) ∧
    (∃ (t : Nat) (q : Fin 64) (x : InDesc) (c : Chip) (s : Machine.State),
      (s.chip.sstate ≠ 4) ∧ (Started t q 5 3 (some 0) x c s) ∧ (c.sstate = 1)) ∧
    (∃ (t : Nat) (q : Fin 64) (x : InDesc) (c : Chip) (s : Machine.State),
      (s.chip.sstate ≠ 4) ∧ (Started t q 5 3 (some 0) x c s) ∧ (c.sstate = 3)) ∧
    (∃ (t : Nat) (q : Fin 64) (x : InDesc) (c : Chip) (s : Machine.State),
      (s.chip.sstate ≠ 4) ∧ (Started t q 5 3 (some 0) x c s) ∧ (c.sstate ≠ 1) ∧ (c.sstate ≠ 3)) ∧
    (∃ (t : Nat) (q : Fin 64) (x : InDesc) (c : Chip) (s : Machine.State),
      (s.chip.sstate ≠ 4) ∧ (Started t q 5 4 (some 0) x c s)) ∧
    (∃ (t : Nat) (q : Fin 64) (x : InDesc) (c : Chip) (s : Machine.State),
      (s.chip.sstate ≠ 4) ∧ (Started t q 5 5 (some 0) x c s) ∧ (c.testing 4 = true)) ∧
    (∃ (t : Nat) (q : Fin 64) (x : InDesc) (c : Chip) (s : Machine.State),
      (s.chip.sstate ≠ 4) ∧ (Started t q 5 5 (some 0) x c s) ∧ (c.testing 4 = false) ∧ (c.store.find (x.param 32 4) = none)) ∧
    (∃ (t : Nat) (q : Fin 64) (x : InDesc) (c : Chip) (s : Machine.State) (a : Alloc),
      (s.chip.sstate ≠ 4) ∧ (Started t q 5 5 (some 0) x c s) ∧ (c.testing 4 = false) ∧ (c.store.find (x.param 32 4) = some a) ∧ (a.jobr = false)) ∧
    (∃ (t : Nat) (q : Fin 64) (x : InDesc) (c : Chip) (s : Machine.State) (a : Alloc),
      let only : Chip → Machine.State := fun (d : Chip) => { (s.at_ t) with chip := d }
      let ty : Nat := x.param 17 1
      let mask : Nat := x.param 20 2
      let j : Nat := a.start + x.param 40 8
      (s.chip.sstate ≠ 4) ∧ (Started t q 5 5 (some 0) x c s) ∧ (c.testing 4 = false) ∧ (c.store.find (x.param 32 4) = some a) ∧ (a.jobr = true) ∧
        (x.param 40 8 + 64 ≤ a.size * 65536) ∧ (j % 64 = 0) ∧ (maskBad ty mask = false) ∧ (c.sstate ≠ 3) ∧ (imageTraps (only c) ty j = [])) ∧
    (∃ (t : Nat) (q : Fin 64) (x : InDesc) (c : Chip) (s : Machine.State),
      let items : Nat := x.param 17 1
      let bars : Nat := x.param 20 2
      (s.chip.sstate ≠ 4) ∧ (Started t q 5 6 (some 0) x c s) ∧ (c.sstate = 3) ∧ (restoreBad items bars = false)) ∧
    (∃ (t : Nat) (q : Fin 64) (x : InDesc) (c : Chip) (s : Machine.State),
      let items : Nat := x.param 17 1
      let bars : Nat := x.param 20 2
      (s.chip.sstate ≠ 4) ∧ (Started t q 5 6 (some 0) x c s) ∧ (c.sstate ≠ 3) ∧ (restoreBad items bars = true)) ∧
    (∃ (t : Nat) (q : Fin 64) (x : InDesc) (c : Chip) (s : Machine.State),
      let items : Nat := x.param 17 1
      let bars : Nat := x.param 20 2
      (s.chip.sstate ≠ 4) ∧ (Started t q 5 6 (some 0) x c s) ∧ (c.sstate ≠ 3) ∧ (restoreBad items bars = false)) ∧
    (∃ (t : Nat) (q : Fin 64) (x : InDesc) (c : Chip) (s : Machine.State),
      (Started t q 5 7 (some 0) x c s) ∧ (saveBad (x.param 17 1) (x.param 18 1) = true)) ∧
    (∃ (t : Nat) (q : Fin 64) (x : InDesc) (c : Chip) (s : Machine.State),
      (Started t q 5 7 (some 0) x c s) ∧ (saveBad (x.param 17 1) (x.param 18 1) = false)) :=
  ⟨⟨0, 0, (hostWith [(SEQ_SSTAT_STATE, 4)] id (waits 0 [desc 5 0 [1]])), (.stageCheck 0 0, 1), by decide +kernel⟩,
   ⟨0, 0, desc 5 0 [0], took 0 (hostWith [] id (waits 0 [desc 5 0 [0]])), (hostWith [] id (waits 0 [desc 5 0 [0]])), by unfold Started; decide +kernel⟩,
   ⟨0, 0, desc 5 0 [1], took 0 (hostWith [(SEQ_SSTAT_STATE, 3)] id (waits 0 [desc 5 0 [1]])), (hostWith [(SEQ_SSTAT_STATE, 3)] id (waits 0 [desc 5 0 [1]])), by unfold Started; decide +kernel⟩,
   ⟨0, 0, desc 5 0 [1], took 0 (hostWith [] id (waits 0 [desc 5 0 [1]])), (hostWith [] id (waits 0 [desc 5 0 [1]])), by unfold Started; decide +kernel⟩,
   ⟨0, 0, desc 5 0 [2], took 0 (hostWith [(SEQ_SSTAT_STATE, 1)] id (waits 0 [desc 5 0 [2]])), (hostWith [(SEQ_SSTAT_STATE, 1)] id (waits 0 [desc 5 0 [2]])), by unfold Started; decide +kernel⟩,
   ⟨0, 0, desc 5 0 [2], took 0 (hostWith [(SEQ_SSTAT_STATE, 3)] id (waits 0 [desc 5 0 [2]])), (hostWith [(SEQ_SSTAT_STATE, 3)] id (waits 0 [desc 5 0 [2]])), by dsimp only; unfold Started; decide +kernel⟩,
   ⟨0, 0, desc 5 0 [2, 0, 1], took 0 (hostWith [(SEQ_PSTAT_OPEN, 1)] (fun c => barsOn [2] c) (waits 0 [desc 5 0 [2, 0, 1]])), (hostWith [(SEQ_PSTAT_OPEN, 1)] (fun c => barsOn [2] c) (waits 0 [desc 5 0 [2, 0, 1]])), by dsimp only; unfold Started; decide +kernel⟩,
   ⟨0, 0, desc 5 0 [2], took 0 (hostWith [] id (waits 0 [desc 5 0 [2]])), (hostWith [] id (waits 0 [desc 5 0 [2]])), by dsimp only; unfold Started; decide +kernel⟩,
   ⟨0, 0, desc 5 0 [3], took 0 (hostWith [(SEQ_SSTAT_STATE, 1)] id (waits 0 [desc 5 0 [3]])), (hostWith [(SEQ_SSTAT_STATE, 1)] id (waits 0 [desc 5 0 [3]])), by unfold Started; decide +kernel⟩,
   ⟨0, 0, desc 5 0 [3], took 0 (hostWith [(SEQ_SSTAT_STATE, 3)] id (waits 0 [desc 5 0 [3]])), (hostWith [(SEQ_SSTAT_STATE, 3)] id (waits 0 [desc 5 0 [3]])), by unfold Started; decide +kernel⟩,
   ⟨0, 0, desc 5 0 [3], took 0 (hostWith [] id (waits 0 [desc 5 0 [3]])), (hostWith [] id (waits 0 [desc 5 0 [3]])), by unfold Started; decide +kernel⟩,
   ⟨0, 0, desc 5 0 [4], took 0 (hostWith [] id (waits 0 [desc 5 0 [4]])), (hostWith [] id (waits 0 [desc 5 0 [4]])), by unfold Started; decide +kernel⟩,
   ⟨0, 0, desc 5 0 [5], took 0 (hostWith [(HL_BSTAT_STATE, 2), (HL_BSTAT_WAVE, 2)] id (waits 0 [desc 5 0 [5]])), (hostWith [(HL_BSTAT_STATE, 2), (HL_BSTAT_WAVE, 2)] id (waits 0 [desc 5 0 [5]])), by unfold Started; decide +kernel⟩,
   ⟨0, 0, desc 5 0 [5], took 0 (hostWith [] id (waits 0 [desc 5 0 [5]])), (hostWith [] id (waits 0 [desc 5 0 [5]])), by unfold Started; decide +kernel⟩,
   ⟨0, 0, desc 5 0 ([5, 4, 0, 0, 4] ++ zeros 11 ++ le 4 1), took 0 (hostWith [] (fun c => c.setStore { allocs := [{ alloc1 with jobr := false }] }) (waits 0 [desc 5 0 ([5, 4, 0, 0, 4] ++ zeros 11 ++ le 4 1)])), (hostWith [] (fun c => c.setStore { allocs := [{ alloc1 with jobr := false }] }) (waits 0 [desc 5 0 ([5, 4, 0, 0, 4] ++ zeros 11 ++ le 4 1)])), { alloc1 with jobr := false }, by unfold Started; decide +kernel⟩,
   ⟨0, 0, desc 5 0 ([5, 4, 0, 0, 4] ++ zeros 11 ++ le 4 1), took 0 (imaged (waits 0 [desc 5 0 ([5, 4, 0, 0, 4] ++ zeros 11 ++ le 4 1)])), (imaged (waits 0 [desc 5 0 ([5, 4, 0, 0, 4] ++ zeros 11 ++ le 4 1)])), alloc1, by dsimp only; unfold Started; decide +kernel⟩,
   ⟨0, 0, desc 5 0 [6, 8, 0, 0, 4], took 0 (hostWith [(SEQ_SSTAT_STATE, 3)] id (waits 0 [desc 5 0 [6, 8, 0, 0, 4]])), (hostWith [(SEQ_SSTAT_STATE, 3)] id (waits 0 [desc 5 0 [6, 8, 0, 0, 4]])), by dsimp only; unfold Started; decide +kernel⟩,
   ⟨0, 0, desc 5 0 [6, 0, 0, 0, 4], took 0 (hostWith [] id (waits 0 [desc 5 0 [6, 0, 0, 0, 4]])), (hostWith [] id (waits 0 [desc 5 0 [6, 0, 0, 0, 4]])), by dsimp only; unfold Started; decide +kernel⟩,
   ⟨0, 0, desc 5 0 [6, 8, 0, 0, 4], took 0 (hostWith [] id (waits 0 [desc 5 0 [6, 8, 0, 0, 4]])), (hostWith [] id (waits 0 [desc 5 0 [6, 8, 0, 0, 4]])), by dsimp only; unfold Started; decide +kernel⟩,
   ⟨0, 0, desc 5 0 [7, 9], took 0 (hostWith [] id (waits 0 [desc 5 0 [7, 9]])), (hostWith [] id (waits 0 [desc 5 0 [7, 9]])), by unfold Started; decide +kernel⟩,
   ⟨0, 0, desc 5 0 [7, 1], took 0 (hostWith [] id (waits 0 [desc 5 0 [7, 1]])), (hostWith [] id (waits 0 [desc 5 0 [7, 1]])), by unfold Started; decide +kernel⟩⟩

theorem met_ControlSpaceAccesses :
    (∃ (a : BitVec 32),
      let addr : Nat := a.toNat
      (addr % 4 ≠ 0 ∨ blockAt addr = none)) ∧
    (∃ (t : Nat) (tnt : Fin 8) (a : BitVec 32) (s : Machine.State) (b : Blk) (i : Nat),
      let c : Chip := (s.at_ t).chip
      let addr : Nat := a.toNat
      (addr % 4 = 0) ∧ (blockAt addr = some (b, i)) ∧ (c.mayWrite (↑tnt) b i (offIn b i addr) = false)) ∧
    (∃ (t : Nat) (tnt : Fin 8) (a : BitVec 32) (s : Machine.State) (b : Blk) (i : Nat),
      let c : Chip := (s.at_ t).chip
      let addr : Nat := a.toNat
      (addr % 4 = 0) ∧ (blockAt addr = some (b, i)) ∧ (c.mayWrite (↑tnt) b i (offIn b i addr) = true) ∧
        ((c.reachable b i && c.blockOn b i) = false)) ∧
    (∃ (t : Nat) (tnt : Fin 8) (a : BitVec 32) (s : Machine.State) (b : Blk) (i : Nat),
      let c : Chip := (s.at_ t).chip
      let addr : Nat := a.toNat
      (addr % 4 = 0) ∧ (blockAt addr = some (b, i)) ∧ (c.mayRead (↑tnt) b i = false)) ∧
    (∃ (t : Nat) (tnt : Fin 8) (a : BitVec 32) (s : Machine.State) (b : Blk) (i : Nat),
      let c : Chip := (s.at_ t).chip
      let addr : Nat := a.toNat
      (addr % 4 = 0) ∧ (blockAt addr = some (b, i)) ∧ (c.mayRead (↑tnt) b i = true) ∧
        ((c.reachable b i && c.blockOn b i) = false ∨ c.dtHidden b i addr = true)) ∧
    (∃ (t : Nat) (tnt : Fin 8) (a : BitVec 32) (s : Machine.State) (b : Blk) (i : Nat) (r : RegField) (fs : List RegField),
      let c : Chip := (s.at_ t).chip
      let addr : Nat := a.toNat
      (addr % 4 = 0) ∧ (blockAt addr = some (b, i)) ∧ (c.mayWrite (↑tnt) b i (offIn b i addr) = true) ∧
        ((c.reachable b i && c.blockOn b i) = true) ∧ (fieldsAt b i addr = r :: fs) ∧ (addr < r.f.base + 4 * (regWords (r :: fs) - 1))) ∧
    (∃ (t : Nat) (tnt : Fin 8) (a : BitVec 32) (s : Machine.State) (b : Blk) (i : Nat) (r : RegField) (fs : List RegField),
      let c : Chip := (s.at_ t).chip
      let addr : Nat := a.toNat
      (addr % 4 = 0) ∧ (blockAt addr = some (b, i)) ∧ (c.mayWrite (↑tnt) b i (offIn b i addr) = true) ∧
        ((c.reachable b i && c.blockOn b i) = true) ∧ (fieldsAt b i addr = r :: fs) ∧
        (b ∈ [Blk.sys, Blk.seq, Blk.hp, Blk.pcie, Blk.fs, Blk.rl, Blk.nv, Blk.mr, Blk.hbm, Blk.tc, Blk.rg]) ∧ (regWords (r :: fs) = 1) ∧
        (r.f.base = addr) ∧ (b.base i + 64 ≤ addr)) ∧
    (∃ (t : Nat) (tnt : Fin 8) (a : BitVec 32) (s : Machine.State) (b : Blk) (i : Nat),
      let c : Chip := (s.at_ t).chip
      let addr : Nat := a.toNat
      (addr % 4 = 0) ∧ (blockAt addr = some (b, i)) ∧ (c.mayRead (↑tnt) b i = true) ∧ ((c.reachable b i && c.blockOn b i) = true) ∧
        (c.dtHidden b i addr = false) ∧ (fieldsAt b i addr = [])) ∧
    (∃ (t : Nat) (tnt : Fin 8) (a : BitVec 32) (s : Machine.State) (b : Blk) (i : Nat) (r : RegField) (fs : List RegField),
      let c : Chip := (s.at_ t).chip
      let addr : Nat := a.toNat
      (addr % 4 = 0) ∧ (blockAt addr = some (b, i)) ∧ (c.mayRead (↑tnt) b i = true) ∧ ((c.reachable b i && c.blockOn b i) = true) ∧
        (c.dtHidden b i addr = false) ∧ (fieldsAt b i addr = r :: fs) ∧ (b ≠ Blk.cd) ∧ (r.f.base = addr)) ∧
    (∃ (t : Nat) (tnt : Fin 8) (a : BitVec 32) (s : Machine.State) (b : Blk) (i : Nat) (r : RegField) (fs : List RegField),
      let c : Chip := (s.at_ t).chip
      let addr : Nat := a.toNat
      (addr % 4 = 0) ∧ (blockAt addr = some (b, i)) ∧ (c.mayRead (↑tnt) b i = true) ∧ ((c.reachable b i && c.blockOn b i) = true) ∧
        (c.dtHidden b i addr = false) ∧ (fieldsAt b i addr = r :: fs) ∧ (b ≠ Blk.cd) ∧ (r.f.base ≠ addr)) :=
  ⟨⟨BitVec.ofNat 32 (0xA0065), by dsimp only; decide +kernel⟩,
   ⟨0, 1, BitVec.ofNat 32 (0xA0064), stateWith [], .fs, 0, by dsimp only; decide +kernel⟩,
   ⟨0, 0, BitVec.ofNat 32 (0xD0048), stateWith [], .rl, 0, by dsimp only; decide +kernel⟩,
   ⟨0, 1, BitVec.ofNat 32 (0xA0064), stateWith [], .fs, 0, by dsimp only; decide +kernel⟩,
   ⟨0, 0, BitVec.ofNat 32 (0xD0048), stateWith [], .rl, 0, by dsimp only; decide +kernel⟩,
   ⟨0, 0, BitVec.ofNat 32 (0xA0048), stateWith [], .fs, 0, (fieldsAt .fs 0 (0xA0048)).head (by decide), (fieldsAt .fs 0 (0xA0048)).tail, by dsimp only; decide +kernel⟩,
   ⟨0, 0, BitVec.ofNat 32 (0xA0064), stateWith [], .fs, 0, (fieldsAt .fs 0 (0xA0064)).head (by decide), (fieldsAt .fs 0 (0xA0064)).tail, by dsimp only; decide +kernel⟩,
   ⟨0, 0, BitVec.ofNat 32 (0xA0FF0), stateWith [], .fs, 0, by dsimp only; decide +kernel⟩,
   ⟨0, 0, BitVec.ofNat 32 (0xA0064), stateWith [], .fs, 0, (fieldsAt .fs 0 (0xA0064)).head (by decide), (fieldsAt .fs 0 (0xA0064)).tail, by dsimp only; decide +kernel⟩,
   ⟨0, 0, BitVec.ofNat 32 (0xA004C), stateWith [], .fs, 0, (fieldsAt .fs 0 (0xA004C)).head (by decide), (fieldsAt .fs 0 (0xA004C)).tail, by dsimp only; decide +kernel⟩⟩

theorem met_StatusRegisterAndCivilCommands :
    (∃ (t : Nat) (q : Fin 64) (x : InDesc) (c : Chip) (s : Machine.State),
      (Started t q 7 0 none x c s)) ∧
    (∃ (t : Nat) (q : Fin 64) (x : InDesc) (c : Chip) (s : Machine.State),
      let addr : Nat := x.param 16 4
      let n : Nat := x.param 20 1
      (Started t q 8 0 none x c s) ∧ (addr % 4 ≠ 0 ∨ n = 0 ∨ 8 < n)) ∧
    (∃ (t : Nat) (q : Fin 64) (x : InDesc) (c : Chip) (s : Machine.State),
      let addr : Nat := x.param 16 4
      let n : Nat := x.param 20 1
      (Started t q 8 0 none x c s) ∧ (addr % 4 = 0) ∧ (n ≠ 0) ∧ (n ≤ 8) ∧ (∃ (i : Nat), i < n ∧ c.unreadable (addr + 4 * i) = true)) ∧
    (∃ (t : Nat) (q : Fin 64) (x : InDesc) (c : Chip) (s : Machine.State),
      let addr : Nat := x.param 16 4
      let n : Nat := x.param 20 1
      (Started t q 8 0 none x c s) ∧ (addr % 4 = 0) ∧ (n ≠ 0) ∧ (n ≤ 8) ∧ (∀ (i : Nat), i < n → c.unreadable (addr + 4 * i) = false)) ∧
    (∃ (t : Nat) (q : Fin 64) (x : InDesc) (c : Chip) (s : Machine.State),
      let addr : Nat := x.param 16 4
      (Started t q 9 0 none x c s) ∧ (addr % 4 ≠ 0)) ∧
    (∃ (t : Nat) (q : Fin 64) (x : InDesc) (c : Chip) (s : Machine.State),
      let addr : Nat := x.param 16 4
      (Started t q 9 0 none x c s) ∧ (addr % 4 = 0) ∧ (c.noAnswer addr = true)) ∧
    (∃ (t : Nat) (q : Fin 64) (x : InDesc) (c : Chip) (s : Machine.State),
      let addr : Nat := x.param 16 4
      (Started t q 9 0 none x c s) ∧ (addr % 4 = 0) ∧ (c.noAnswer addr = false)) ∧
    (∃ (t : Nat) (q : Fin 64) (x : InDesc) (c : Chip) (s : Machine.State),
      (Started t q 6 0 (some 2) x c s) ∧ (c.get TB_CFG_CSRC ≠ 0 ∨ c.runs = false)) ∧
    (∃ (t : Nat) (q : Fin 64) (x : InDesc) (c : Chip) (s : Machine.State),
      (Started t q 6 0 (some 2) x c s) ∧ (c.get TB_CFG_CSRC = 0) ∧ (c.runs = true)) ∧
    (∃ (t : Nat) (q : Fin 64) (x : InDesc) (c : Chip) (s : Machine.State),
      let off : Int := c.getS TB_CIVOFS_OFS
      let err : Int := sgn 64 (x.param 16 8) - (↑(x.param 24 8) + off)
      let step : Int := ↑(c.get TB_CPAR_CSTEP) * 1000000
      (Started t q 6 0 (some 2) x c s) ∧ (c.get TB_CFG_CSRC = 0) ∧ (c.runs = true) ∧ (-step ≤ err)) ∧
    (∃ (t : Nat) (q : Fin 64) (x : InDesc) (c : Chip) (s : Machine.State),
      let off : Int := c.getS TB_CIVOFS_OFS
      let err : Int := sgn 64 (x.param 16 8) - (↑(x.param 24 8) + off)
      let step : Int := ↑(c.get TB_CPAR_CSTEP) * 1000000
      (Started t q 6 0 (some 2) x c s) ∧ (c.get TB_CFG_CSRC = 0) ∧ (c.runs = true) ∧ (step < err)) ∧
    (∃ (t : Nat) (q : Fin 64) (x : InDesc) (c : Chip) (s : Machine.State),
      let off : Int := c.getS TB_CIVOFS_OFS
      let err : Int := sgn 64 (x.param 16 8) - (↑(x.param 24 8) + off)
      let step : Int := ↑(c.get TB_CPAR_CSTEP) * 1000000
      (Started t q 6 0 (some 2) x c s) ∧ (c.get TB_CFG_CSRC = 0) ∧ (c.runs = true) ∧ (err < -step)) :=
  ⟨⟨0, 0, desc 7 0, took 0 (hostWith [] id (waits 0 [desc 7 0])), (hostWith [] id (waits 0 [desc 7 0])), by unfold Started; decide +kernel⟩,
   ⟨0, 0, desc 8 0 [1], took 0 (hostWith [] id (waits 0 [desc 8 0 [1]])), (hostWith [] id (waits 0 [desc 8 0 [1]])), by dsimp only; unfold Started; decide +kernel⟩,
   ⟨0, 0, desc 8 0 ([0x48, 0, 0xD, 0, 1]), took 0 (hostWith [] id (waits 0 [desc 8 0 ([0x48, 0, 0xD, 0, 1])])), (hostWith [] id (waits 0 [desc 8 0 ([0x48, 0, 0xD, 0, 1])])), by dsimp only; unfold Started; decide +kernel⟩,
   ⟨0, 0, desc 8 0 ([0x64, 0, 0xA, 0, 1]), took 0 (hostWith [] id (waits 0 [desc 8 0 ([0x64, 0, 0xA, 0, 1])])), (hostWith [] id (waits 0 [desc 8 0 ([0x64, 0, 0xA, 0, 1])])), by dsimp only; unfold Started; decide +kernel⟩,
   ⟨0, 0, desc 9 0 [1], took 0 (hostWith [] id (waits 0 [desc 9 0 [1]])), (hostWith [] id (waits 0 [desc 9 0 [1]])), by dsimp only; unfold Started; decide +kernel⟩,
   ⟨0, 0, desc 9 0 ([0x48, 0, 0xD]), took 0 (hostWith [] id (waits 0 [desc 9 0 ([0x48, 0, 0xD])])), (hostWith [] id (waits 0 [desc 9 0 ([0x48, 0, 0xD])])), by dsimp only; unfold Started; decide +kernel⟩,
   ⟨0, 0, desc 9 0 ([0x64, 0, 0xA, 0, 1]), took 0 (hostWith [] id (waits 0 [desc 9 0 ([0x64, 0, 0xA, 0, 1])])), (hostWith [] id (waits 0 [desc 9 0 ([0x64, 0, 0xA, 0, 1])])), by dsimp only; unfold Started; decide +kernel⟩,
   ⟨0, 0, desc 6 0 (le 8 5 ++ le 8 0), took 0 (hostWith [(TB_CFG_CSRC, 1)] id (waits 0 [desc 6 0 (le 8 5 ++ le 8 0)])), (hostWith [(TB_CFG_CSRC, 1)] id (waits 0 [desc 6 0 (le 8 5 ++ le 8 0)])), by unfold Started; decide +kernel⟩,
   ⟨0, 0, desc 6 0 (le 8 5 ++ le 8 0), took 0 (hostWith [] id (waits 0 [desc 6 0 (le 8 5 ++ le 8 0)])), (hostWith [] id (waits 0 [desc 6 0 (le 8 5 ++ le 8 0)])), by unfold Started; decide +kernel⟩,
   ⟨0, 0, desc 6 0 (le 8 5 ++ le 8 0), took 0 (hostWith [] id (waits 0 [desc 6 0 (le 8 5 ++ le 8 0)])), (hostWith [] id (waits 0 [desc 6 0 (le 8 5 ++ le 8 0)])), by dsimp only; unfold Started; decide +kernel⟩,
   ⟨0, 0, desc 6 0 (le 8 20000000 ++ le 8 0), took 0 (hostWith [] id (waits 0 [desc 6 0 (le 8 20000000 ++ le 8 0)])), (hostWith [] id (waits 0 [desc 6 0 (le 8 20000000 ++ le 8 0)])), by dsimp only; unfold Started; decide +kernel⟩,
   ⟨0, 0, desc 6 0 (le 8 0 ++ le 8 20000000), took 0 (hostWith [] id (waits 0 [desc 6 0 (le 8 0 ++ le 8 20000000)])), (hostWith [] id (waits 0 [desc 6 0 (le 8 0 ++ le 8 20000000)])), by dsimp only; unfold Started; decide +kernel⟩⟩

theorem met_AllocatorCommands :
    (∃ (t : Nat) (q : Fin 64) (x : InDesc) (c : Chip) (s : Machine.State),
      let pin : Nat := x.param 20 1
      (StoreStarted t q 256 none x c s) ∧ (1 < pin)) ∧
    (∃ (t : Nat) (q : Fin 64) (x : InDesc) (c : Chip) (s : Machine.State),
      let n : Nat := x.param 16 4
      let pin : Nat := x.param 20 1
      (StoreStarted t q 256 none x c s) ∧ (pin ≤ 1) ∧ (n = 0 ∨ 393216 < n)) ∧
    (∃ (t : Nat) (q : Fin 64) (x : InDesc) (c : Chip) (s : Machine.State),
      let n : Nat := x.param 16 4
      let pin : Nat := x.param 20 1
      let own : Nat := c.qTenant ↑q
      let st : Store := c.store
      let full : Prop := c.get (JS_QUOTA_QUOTA own) < (st.used fun (y : Alloc) => decide (y.owner = own)) + n
      (StoreStarted t q 256 none x c s) ∧ (pin ≤ 1) ∧ (n ≠ 0) ∧ (n ≤ 393216) ∧ (full)) ∧
    (∃ (t : Nat) (q : Fin 64) (x : InDesc) (c : Chip) (s : Machine.State),
      let n : Nat := x.param 16 4
      let pin : Nat := x.param 20 1
      let own : Nat := c.qTenant ↑q
      let st : Store := c.store
      let full : Prop := c.get (JS_QUOTA_QUOTA own) < (st.used fun (y : Alloc) => decide (y.owner = own)) + n
      (StoreStarted t q 256 none x c s) ∧ (pin ≤ 1) ∧ (n ≠ 0) ∧ (n ≤ 393216) ∧ (¬full) ∧ (st.place n = none ∨ st.freeIndex = none)) ∧
    (∃ (t : Nat) (q : Fin 64) (x : InDesc) (c : Chip) (s : Machine.State) (b : Nat) (i : Nat),
      let n : Nat := x.param 16 4
      let pin : Nat := x.param 20 1
      let own : Nat := c.qTenant ↑q
      let st : Store := c.store
      let full : Prop := c.get (JS_QUOTA_QUOTA own) < (st.used fun (y : Alloc) => decide (y.owner = own)) + n
      (StoreStarted t q 256 none x c s) ∧ (pin ≤ 1) ∧ (n ≠ 0) ∧ (n ≤ 393216) ∧ (¬full) ∧ (st.place n = some b) ∧ (st.freeIndex = some i)) ∧
    (∃ (t : Nat) (q : Fin 64) (x : InDesc) (c : Chip) (s : Machine.State) (e : Instr × Nat),
      (e ∈ [(Instr.free t q, 257), (Instr.setrights t q, 258), (Instr.sealAlloc t q, 259), (Instr.unsealAlloc t q, 260)]) ∧
        (StoreStarted t q e.snd none x c s) ∧ (c.store.find (x.param 16 4) = none)) ∧
    (∃ (t : Nat) (q : Fin 64) (x : InDesc) (c : Chip) (s : Machine.State) (e : Instr × Nat) (a : Alloc),
      (e ∈ [(Instr.free t q, 257), (Instr.setrights t q, 258), (Instr.sealAlloc t q, 259), (Instr.unsealAlloc t q, 260)]) ∧
        (StoreStarted t q e.snd none x c s) ∧ (c.store.find (x.param 16 4) = some a) ∧ (a.ownedBy (c.qTenant ↑q) = false)) ∧
    (∃ (t : Nat) (q : Fin 64) (x : InDesc) (c : Chip) (s : Machine.State) (a : Alloc),
      (c.store.find (x.param 16 4) = some a) ∧ (a.ownedBy (c.qTenant ↑q) = true) ∧ (StoreStarted t q 257 none x c s) ∧ (c.inUse a = true)) ∧
    (∃ (t : Nat) (q : Fin 64) (x : InDesc) (c : Chip) (s : Machine.State) (a : Alloc),
      (c.store.find (x.param 16 4) = some a) ∧ (a.ownedBy (c.qTenant ↑q) = true) ∧ (StoreStarted t q 257 none x c s) ∧ (c.inUse a = false)) ∧
    (∃ (t : Nat) (q : Fin 64) (x : InDesc) (c : Chip) (s : Machine.State) (a : Alloc),
      let fl : Nat := x.param 22 1
      (c.store.find (x.param 16 4) = some a) ∧ (a.ownedBy (c.qTenant ↑q) = true) ∧ (StoreStarted t q 258 none x c s) ∧ (8 ≤ fl)) ∧
    (∃ (t : Nat) (q : Fin 64) (x : InDesc) (c : Chip) (s : Machine.State) (a : Alloc),
      let fl : Nat := x.param 22 1
      let taken : Prop := a.jobr = true ∧ bit fl 0 = false ∧ c.inUse a = true
      (c.store.find (x.param 16 4) = some a) ∧ (a.ownedBy (c.qTenant ↑q) = true) ∧ (StoreStarted t q 258 none x c s) ∧ (fl < 8) ∧ (taken)) ∧
    (∃ (t : Nat) (q : Fin 64) (x : InDesc) (c : Chip) (s : Machine.State) (a : Alloc),
      let fl : Nat := x.param 22 1
      let taken : Prop := a.jobr = true ∧ bit fl 0 = false ∧ c.inUse a = true
      let full : Prop := bit fl 2 = true ∧ a.pin = false ∧ a.isSealed = true ∧ a.tile = true ∧ pinFull { (s.at_ t) with chip := c } a = true
      (c.store.find (x.param 16 4) = some a) ∧ (a.ownedBy (c.qTenant ↑q) = true) ∧ (StoreStarted t q 258 none x c s) ∧ (fl < 8) ∧ (¬taken) ∧ (full)) ∧
    (∃ (t : Nat) (q : Fin 64) (x : InDesc) (c : Chip) (s : Machine.State) (a : Alloc),
      let fl : Nat := x.param 22 1
      let taken : Prop := a.jobr = true ∧ bit fl 0 = false ∧ c.inUse a = true
      let full : Prop := bit fl 2 = true ∧ a.pin = false ∧ a.isSealed = true ∧ a.tile = true ∧ pinFull { (s.at_ t) with chip := c } a = true
      (c.store.find (x.param 16 4) = some a) ∧ (a.ownedBy (c.qTenant ↑q) = true) ∧ (StoreStarted t q 258 none x c s) ∧ (fl < 8) ∧ (¬taken) ∧
        (¬full)) ∧
    (∃ (t : Nat) (q : Fin 64) (x : InDesc) (c : Chip) (s : Machine.State) (a : Alloc),
      let kind : Nat := x.param 20 1
      (c.store.find (x.param 16 4) = some a) ∧ (a.ownedBy (c.qTenant ↑q) = true) ∧ (StoreStarted t q 259 none x c s) ∧ (1 < kind)) ∧
    (∃ (t : Nat) (q : Fin 64) (x : InDesc) (c : Chip) (s : Machine.State) (a : Alloc),
      let kind : Nat := x.param 20 1
      (c.store.find (x.param 16 4) = some a) ∧ (a.ownedBy (c.qTenant ↑q) = true) ∧ (StoreStarted t q 259 none x c s) ∧ (kind ≤ 1) ∧
        (a.isSealed = true)) ∧
    (∃ (t : Nat) (q : Fin 64) (x : InDesc) (c : Chip) (s : Machine.State) (a : Alloc),
      let kind : Nat := x.param 20 1
      (c.store.find (x.param 16 4) = some a) ∧ (a.ownedBy (c.qTenant ↑q) = true) ∧ (StoreStarted t q 259 none x c s) ∧ (kind = 1) ∧
        (a.isSealed = false)) ∧
    (∃ (t : Nat) (q : Fin 64) (x : InDesc) (c : Chip) (s : Machine.State) (a : Alloc),
      let kind : Nat := x.param 20 1
      (c.store.find (x.param 16 4) = some a) ∧ (a.ownedBy (c.qTenant ↑q) = true) ∧ (StoreStarted t q 259 none x c s) ∧ (kind = 0) ∧
        (a.isSealed = false) ∧ (256 ≤ c.store.waiting.length)) ∧
    (∃ (t : Nat) (q : Fin 64) (x : InDesc) (c : Chip) (s : Machine.State) (a : Alloc),
      let kind : Nat := x.param 20 1
      (c.store.find (x.param 16 4) = some a) ∧ (a.ownedBy (c.qTenant ↑q) = true) ∧ (StoreStarted t q 259 none x c s) ∧ (kind = 0) ∧
        (a.isSealed = false) ∧ (c.store.waiting.length < 256)) ∧
    (∃ (t : Nat) (q : Fin 64) (x : InDesc) (c : Chip) (s : Machine.State) (a : Alloc),
      (c.store.find (x.param 16 4) = some a) ∧ (a.ownedBy (c.qTenant ↑q) = true) ∧ (StoreStarted t q 260 none x c s) ∧ (a.isSealed = false)) ∧
    (∃ (t : Nat) (q : Fin 64) (x : InDesc) (c : Chip) (s : Machine.State) (a : Alloc),
      (c.store.find (x.param 16 4) = some a) ∧ (a.ownedBy (c.qTenant ↑q) = true) ∧ (StoreStarted t q 260 none x c s) ∧ (a.isSealed = true) ∧
        (c.inUse a = true)) ∧
    (∃ (t : Nat) (q : Fin 64) (x : InDesc) (c : Chip) (s : Machine.State) (a : Alloc),
      (c.store.find (x.param 16 4) = some a) ∧ (a.ownedBy (c.qTenant ↑q) = true) ∧ (StoreStarted t q 260 none x c s) ∧ (a.isSealed = true) ∧
        (c.inUse a = false)) :=
  ⟨⟨0, 0, desc 0x100 0 ([0, 0, 0, 0, 2]), took 0 (hostWith [(QM_QCFG_CLASS 0, 1)] id (waits 0 [desc 0x100 0 ([0, 0, 0, 0, 2])])), (hostWith [(QM_QCFG_CLASS 0, 1)] id (waits 0 [desc 0x100 0 ([0, 0, 0, 0, 2])])), ⟨⟨by decide +kernel, ⟨took 0 (hostWith [(QM_QCFG_CLASS 0, 1)] id (waits 0 [desc 0x100 0 ([0, 0, 0, 0, 2])])), by unfold Started; decide +kernel⟩⟩, by decide +kernel⟩⟩,
   ⟨0, 0, desc 0x100 0 ([0]), took 0 (hostWith [(QM_QCFG_CLASS 0, 1)] id (waits 0 [desc 0x100 0 ([0])])), (hostWith [(QM_QCFG_CLASS 0, 1)] id (waits 0 [desc 0x100 0 ([0])])), ⟨⟨by decide +kernel, ⟨took 0 (hostWith [(QM_QCFG_CLASS 0, 1)] id (waits 0 [desc 0x100 0 ([0])])), by unfold Started; decide +kernel⟩⟩, by decide +kernel, by decide +kernel⟩⟩,
   ⟨0, 0, desc 0x100 0 ([1]), took 0 (hostWith [(QM_QCFG_CLASS 0, 1), (JS_QUOTA_QUOTA 0, 0)] id (waits 0 [desc 0x100 0 ([1])])), (hostWith [(QM_QCFG_CLASS 0, 1), (JS_QUOTA_QUOTA 0, 0)] id (waits 0 [desc 0x100 0 ([1])])), ⟨⟨by decide +kernel, ⟨took 0 (hostWith [(QM_QCFG_CLASS 0, 1), (JS_QUOTA_QUOTA 0, 0)] id (waits 0 [desc 0x100 0 ([1])])), by unfold Started; decide +kernel⟩⟩, by decide +kernel, by decide +kernel, by decide +kernel, by decide +kernel⟩⟩,
   ⟨0, 0, desc 0x100 0 ([1]), took 0 (hostWith [(QM_QCFG_CLASS 0, 1)] (·.setStore { allocs := [{ alloc1 with size := 393216, owner := 1 }] }) (waits 0 [desc 0x100 0 ([1])])), (hostWith [(QM_QCFG_CLASS 0, 1)] (·.setStore { allocs := [{ alloc1 with size := 393216, owner := 1 }] }) (waits 0 [desc 0x100 0 ([1])])), ⟨⟨by decide +kernel, ⟨took 0 (hostWith [(QM_QCFG_CLASS 0, 1)] (·.setStore { allocs := [{ alloc1 with size := 393216, owner := 1 }] }) (waits 0 [desc 0x100 0 ([1])])), by unfold Started; decide +kernel⟩⟩, by decide +kernel, by decide +kernel, by decide +kernel, by decide +kernel, by decide +kernel⟩⟩,
   ⟨0, 0, desc 0x100 0 ([1]), took 0 (hostWith [(QM_QCFG_CLASS 0, 1)] withAlloc (waits 0 [desc 0x100 0 ([1])])), (hostWith [(QM_QCFG_CLASS 0, 1)] withAlloc (waits 0 [desc 0x100 0 ([1])])), 1, 2, ⟨⟨by decide +kernel, ⟨took 0 (hostWith [(QM_QCFG_CLASS 0, 1)] withAlloc (waits 0 [desc 0x100 0 ([1])])), by unfold Started; decide +kernel⟩⟩, by decide +kernel, by decide +kernel, by decide +kernel, by decide +kernel, by decide +kernel, by decide +kernel⟩⟩,
   ⟨0, 0, desc 0x101 0 ([1]), took 0 (hostWith [(QM_QCFG_CLASS 0, 1)] id (waits 0 [desc 0x101 0 ([1])])), (hostWith [(QM_QCFG_CLASS 0, 1)] id (waits 0 [desc 0x101 0 ([1])])), (.free 0 0, 0x101), ⟨by decide +kernel, ⟨by decide +kernel, ⟨took 0 (hostWith [(QM_QCFG_CLASS 0, 1)] id (waits 0 [desc 0x101 0 ([1])])), by unfold Started; decide +kernel⟩⟩, by decide +kernel⟩⟩,
   ⟨0, 0, desc 0x101 0 ([1]), took 0 (hostWith [(QM_QCFG_CLASS 0, 1), (QM_QCFG_TENANT 0, 3)] withAlloc (waits 0 [desc 0x101 0 ([1])])), (hostWith [(QM_QCFG_CLASS 0, 1), (QM_QCFG_TENANT 0, 3)] withAlloc (waits 0 [desc 0x101 0 ([1])])), (.free 0 0, 0x101), alloc1, ⟨by decide +kernel, ⟨by decide +kernel, ⟨took 0 (hostWith [(QM_QCFG_CLASS 0, 1), (QM_QCFG_TENANT 0, 3)] withAlloc (waits 0 [desc 0x101 0 ([1])])), by unfold Started; decide +kernel⟩⟩, by decide +kernel, by decide +kernel⟩⟩,
   ⟨0, 0, desc 0x101 0 ([1]), took 0 (hostWith [(QM_QCFG_CLASS 0, 1)] (fun c => { withAlloc c with strm := { recs := [{ rec5 with kind := 1, handle := 1 }] } }) (waits 0 [desc 0x101 0 ([1])])), (hostWith [(QM_QCFG_CLASS 0, 1)] (fun c => { withAlloc c with strm := { recs := [{ rec5 with kind := 1, handle := 1 }] } }) (waits 0 [desc 0x101 0 ([1])])), alloc1, ⟨by decide +kernel, by decide +kernel, ⟨by decide +kernel, ⟨took 0 (hostWith [(QM_QCFG_CLASS 0, 1)] (fun c => { withAlloc c with strm := { recs := [{ rec5 with kind := 1, handle := 1 }] } }) (waits 0 [desc 0x101 0 ([1])])), by unfold Started; decide +kernel⟩⟩, by decide +kernel⟩⟩,
   ⟨0, 0, desc 0x101 0 ([1]), took 0 (hostWith [(QM_QCFG_CLASS 0, 1)] withAlloc (waits 0 [desc 0x101 0 ([1])])), (hostWith [(QM_QCFG_CLASS 0, 1)] withAlloc (waits 0 [desc 0x101 0 ([1])])), alloc1, ⟨by decide +kernel, by decide +kernel, ⟨by decide +kernel, ⟨took 0 (hostWith [(QM_QCFG_CLASS 0, 1)] withAlloc (waits 0 [desc 0x101 0 ([1])])), by unfold Started; decide +kernel⟩⟩, by decide +kernel⟩⟩,
   ⟨0, 0, desc 0x102 0 ([1, 0, 0, 0, 3, 3, 8]), took 0 (hostWith [(QM_QCFG_CLASS 0, 1)] withAlloc (waits 0 [desc 0x102 0 ([1, 0, 0, 0, 3, 3, 8])])), (hostWith [(QM_QCFG_CLASS 0, 1)] withAlloc (waits 0 [desc 0x102 0 ([1, 0, 0, 0, 3, 3, 8])])), alloc1, ⟨by decide +kernel, by decide +kernel, ⟨by decide +kernel, ⟨took 0 (hostWith [(QM_QCFG_CLASS 0, 1)] withAlloc (waits 0 [desc 0x102 0 ([1, 0, 0, 0, 3, 3, 8])])), by unfold Started; decide +kernel⟩⟩, by decide +kernel⟩⟩,
   ⟨0, 0, desc 0x102 0 ([1, 0, 0, 0, 3, 3, 0]), took 0 (hostWith [(QM_QCFG_CLASS 0, 1)] (fun c => { withAlloc c with strm := { recs := [{ rec5 with kind := 1, handle := 1 }] } }) (waits 0 [desc 0x102 0 ([1, 0, 0, 0, 3, 3, 0])])), (hostWith [(QM_QCFG_CLASS 0, 1)] (fun c => { withAlloc c with strm := { recs := [{ rec5 with kind := 1, handle := 1 }] } }) (waits 0 [desc 0x102 0 ([1, 0, 0, 0, 3, 3, 0])])), alloc1, ⟨by decide +kernel, by decide +kernel, ⟨by decide +kernel, ⟨took 0 (hostWith [(QM_QCFG_CLASS 0, 1)] (fun c => { withAlloc c with strm := { recs := [{ rec5 with kind := 1, handle := 1 }] } }) (waits 0 [desc 0x102 0 ([1, 0, 0, 0, 3, 3, 0])])), by unfold Started; decide +kernel⟩⟩, by decide +kernel, by decide +kernel⟩⟩,
   ⟨0, 0, desc 0x102 0 [1, 0, 0, 0, 3, 3, 7], took 0 (bigTile (waits 0 [desc 0x102 0 [1, 0, 0, 0, 3, 3, 7]])), (bigTile (waits 0 [desc 0x102 0 [1, 0, 0, 0, 3, 3, 7]])), { alloc1 with isSealed := true, tile := true }, ⟨by decide +kernel, by decide +kernel, ⟨by decide +kernel, ⟨took 0 (bigTile (waits 0 [desc 0x102 0 [1, 0, 0, 0, 3, 3, 7]])), by unfold Started; decide +kernel⟩⟩, by decide +kernel, by decide +kernel, by decide +kernel⟩⟩,
   ⟨0, 0, desc 0x102 0 ([1]), took 0 (hostWith [(QM_QCFG_CLASS 0, 1)] withAlloc (waits 0 [desc 0x102 0 ([1])])), (hostWith [(QM_QCFG_CLASS 0, 1)] withAlloc (waits 0 [desc 0x102 0 ([1])])), alloc1, ⟨by decide +kernel, by decide +kernel, ⟨by decide +kernel, ⟨took 0 (hostWith [(QM_QCFG_CLASS 0, 1)] withAlloc (waits 0 [desc 0x102 0 ([1])])), by unfold Started; decide +kernel⟩⟩, by decide +kernel, by decide +kernel, by decide +kernel⟩⟩,
   ⟨0, 0, desc 0x103 0 ([1, 0, 0, 0, 2]), took 0 (hostWith [(QM_QCFG_CLASS 0, 1)] withAlloc (waits 0 [desc 0x103 0 ([1, 0, 0, 0, 2])])), (hostWith [(QM_QCFG_CLASS 0, 1)] withAlloc (waits 0 [desc 0x103 0 ([1, 0, 0, 0, 2])])), alloc1, ⟨by decide +kernel, by decide +kernel, ⟨by decide +kernel, ⟨took 0 (hostWith [(QM_QCFG_CLASS 0, 1)] withAlloc (waits 0 [desc 0x103 0 ([1, 0, 0, 0, 2])])), by unfold Started; decide +kernel⟩⟩, by decide +kernel⟩⟩,
   ⟨0, 0, desc 0x103 0 ([1, 0, 0, 0, 0]), took 0 (hostWith [(QM_QCFG_CLASS 0, 1)] sealed (waits 0 [desc 0x103 0 ([1, 0, 0, 0, 0])])), (hostWith [(QM_QCFG_CLASS 0, 1)] sealed (waits 0 [desc 0x103 0 ([1, 0, 0, 0, 0])])), { alloc1 with isSealed := true, tile := true }, ⟨by decide +kernel, by decide +kernel, ⟨by decide +kernel, ⟨took 0 (hostWith [(QM_QCFG_CLASS 0, 1)] sealed (waits 0 [desc 0x103 0 ([1, 0, 0, 0, 0])])), by unfold Started; decide +kernel⟩⟩, by decide +kernel, by decide +kernel⟩⟩,
   ⟨0, 0, desc 0x103 0 ([1, 0, 0, 0, 1]), took 0 (hostWith [(QM_QCFG_CLASS 0, 1)] withAlloc (waits 0 [desc 0x103 0 ([1, 0, 0, 0, 1])])), (hostWith [(QM_QCFG_CLASS 0, 1)] withAlloc (waits 0 [desc 0x103 0 ([1, 0, 0, 0, 1])])), alloc1, ⟨by decide +kernel, by decide +kernel, ⟨by decide +kernel, ⟨took 0 (hostWith [(QM_QCFG_CLASS 0, 1)] withAlloc (waits 0 [desc 0x103 0 ([1, 0, 0, 0, 1])])), by unfold Started; decide +kernel⟩⟩, by decide +kernel, by decide +kernel⟩⟩,
   ⟨0, 0, desc 0x103 0 ([1, 0, 0, 0, 0]), took 0 (hostWith [(QM_QCFG_CLASS 0, 1)] (busyJobs 256) (waits 0 [desc 0x103 0 ([1, 0, 0, 0, 0])])), (hostWith [(QM_QCFG_CLASS 0, 1)] (busyJobs 256) (waits 0 [desc 0x103 0 ([1, 0, 0, 0, 0])])), alloc1, ⟨by decide +kernel, by decide +kernel, ⟨by decide +kernel, ⟨took 0 (hostWith [(QM_QCFG_CLASS 0, 1)] (busyJobs 256) (waits 0 [desc 0x103 0 ([1, 0, 0, 0, 0])])), by unfold Started; decide +kernel⟩⟩, by decide +kernel, by decide +kernel, by decide +kernel⟩⟩,
   ⟨0, 0, desc 0x103 0 ([1]), took 0 (hostWith [(QM_QCFG_CLASS 0, 1)] withAlloc (waits 0 [desc 0x103 0 ([1])])), (hostWith [(QM_QCFG_CLASS 0, 1)] withAlloc (waits 0 [desc 0x103 0 ([1])])), alloc1, ⟨by decide +kernel, by decide +kernel, ⟨by decide +kernel, ⟨took 0 (hostWith [(QM_QCFG_CLASS 0, 1)] withAlloc (waits 0 [desc 0x103 0 ([1])])), by unfold Started; decide +kernel⟩⟩, by decide +kernel, by decide +kernel, by decide +kernel⟩⟩,
   ⟨0, 0, desc 0x104 0 ([1]), took 0 (hostWith [(QM_QCFG_CLASS 0, 1)] withAlloc (waits 0 [desc 0x104 0 ([1])])), (hostWith [(QM_QCFG_CLASS 0, 1)] withAlloc (waits 0 [desc 0x104 0 ([1])])), alloc1, ⟨by decide +kernel, by decide +kernel, ⟨by decide +kernel, ⟨took 0 (hostWith [(QM_QCFG_CLASS 0, 1)] withAlloc (waits 0 [desc 0x104 0 ([1])])), by unfold Started; decide +kernel⟩⟩, by decide +kernel⟩⟩,
   ⟨0, 0, desc 0x104 0 ([1, 0, 0, 0, 0]), took 0 (hostWith [(QM_QCFG_CLASS 0, 1)] (fun c => { sealed c with strm := { recs := [{ rec5 with kind := 1, handle := 1 }] } }) (waits 0 [desc 0x104 0 ([1, 0, 0, 0, 0])])), (hostWith [(QM_QCFG_CLASS 0, 1)] (fun c => { sealed c with strm := { recs := [{ rec5 with kind := 1, handle := 1 }] } }) (waits 0 [desc 0x104 0 ([1, 0, 0, 0, 0])])), { alloc1 with isSealed := true, tile := true }, ⟨by decide +kernel, by decide +kernel, ⟨by decide +kernel, ⟨took 0 (hostWith [(QM_QCFG_CLASS 0, 1)] (fun c => { sealed c with strm := { recs := [{ rec5 with kind := 1, handle := 1 }] } }) (waits 0 [desc 0x104 0 ([1, 0, 0, 0, 0])])), by unfold Started; decide +kernel⟩⟩, by decide +kernel, by decide +kernel⟩⟩,
   ⟨0, 0, desc 0x104 0 ([1, 0, 0, 0, 0]), took 0 (hostWith [(QM_QCFG_CLASS 0, 1)] sealed (waits 0 [desc 0x104 0 ([1, 0, 0, 0, 0])])), (hostWith [(QM_QCFG_CLASS 0, 1)] sealed (waits 0 [desc 0x104 0 ([1, 0, 0, 0, 0])])), { alloc1 with isSealed := true, tile := true }, ⟨by decide +kernel, by decide +kernel, ⟨by decide +kernel, ⟨took 0 (hostWith [(QM_QCFG_CLASS 0, 1)] sealed (waits 0 [desc 0x104 0 ([1, 0, 0, 0, 0])])), by unfold Started; decide +kernel⟩⟩, by decide +kernel, by decide +kernel⟩⟩⟩

theorem met_LowestRunAndIndex :
    (∃ (st : Store) (n : Nat) (b : Nat),
      (st.place n = some b)) ∧
    (∃ (st : Store) (n : Nat) (b : Nat) (x : Alloc),
      (st.place n = some b) ∧ (x ∈ st.allocs)) ∧
    (∃ (st : Store) (n : Nat) (b : Nat) (y : Nat),
      let free : Nat → Prop := fun (b : Nat) => b + n ≤ 393216 ∧ ∀ (x : Alloc), x ∈ st.allocs → x.base + x.size ≤ b ∨ b + n ≤ x.base
      (st.place n = some b) ∧ (free y)) ∧
    (∃ (st : Store) (n : Nat),
      (st.place n = none)) ∧
    (∃ (st : Store) (i : Nat),
      (st.freeIndex = some i)) ∧
    (∃ (st : Store) (i : Nat) (x : Alloc),
      (st.freeIndex = some i) ∧ (x ∈ st.allocs)) ∧
    (∃ (st : Store) (i : Nat) (j : Nat),
      (st.freeIndex = some i) ∧ (1 ≤ j) ∧ (j < i)) :=
  ⟨⟨{ allocs := [alloc1] }, 1, 1, by decide +kernel⟩,
   ⟨{ allocs := [alloc1] }, 1, 1, alloc1, by decide +kernel⟩,
   ⟨{ allocs := [alloc1] }, 1, 1, 1, by dsimp only; decide +kernel⟩,
   ⟨{ allocs := [{ alloc1 with size := 393216 }] }, 1, by decide +kernel⟩,
   ⟨{ allocs := [alloc1] }, 2, by decide +kernel⟩,
   ⟨{ allocs := [alloc1] }, 2, alloc1, by decide +kernel⟩,
   ⟨{ allocs := [alloc1] }, 2, 1, by decide +kernel⟩⟩

theorem met_JobStoreTransfers :
    (∃ (t : Nat) (q : Fin 64) (x : InDesc) (c : Chip) (s : Machine.State),
      let len : Nat := x.param 32 4
      let addr : Nat := x.param 40 8
      let bad : Prop := if x.bulk = true then addr ≠ 0 ∨ x.data.length ≠ 64 * ceilDiv len 64 else addr = 0
      (StoreStarted t q 261 none x c s) ∧ (bad)) ∧
    (∃ (t : Nat) (q : Fin 64) (x : InDesc) (c : Chip) (s : Machine.State),
      let len : Nat := x.param 32 4
      let addr : Nat := x.param 40 8
      let bad : Prop := if x.bulk = true then addr ≠ 0 ∨ x.data.length ≠ 64 * ceilDiv len 64 else addr = 0
      (StoreStarted t q 261 none x c s) ∧ (¬bad) ∧ (c.store.find (x.param 16 4) = none)) ∧
    (∃ (t : Nat) (q : Fin 64) (x : InDesc) (c : Chip) (s : Machine.State) (a : Alloc),
      let len : Nat := x.param 32 4
      let addr : Nat := x.param 40 8
      let bad : Prop := if x.bulk = true then addr ≠ 0 ∨ x.data.length ≠ 64 * ceilDiv len 64 else addr = 0
      (StoreStarted t q 261 none x c s) ∧ (¬bad) ∧ (c.store.find (x.param 16 4) = some a) ∧ (bit a.wr (c.qTenant ↑q) = false ∨ a.isSealed = true)) ∧
    (∃ (t : Nat) (q : Fin 64) (x : InDesc) (c : Chip) (s : Machine.State) (a : Alloc),
      let len : Nat := x.param 32 4
      let off : Nat := x.param 24 8
      let addr : Nat := x.param 40 8
      let bad : Prop := if x.bulk = true then addr ≠ 0 ∨ x.data.length ≠ 64 * ceilDiv len 64 else addr = 0
      (StoreStarted t q 261 none x c s) ∧ (¬bad) ∧ (c.store.find (x.param 16 4) = some a) ∧ (bit a.wr (c.qTenant ↑q) = true) ∧
        (a.isSealed = false) ∧ (a.size * 65536 < off + len)) ∧
    (∃ (t : Nat) (q : Fin 64) (x : InDesc) (c : Chip) (s : Machine.State) (a : Alloc),
      let len : Nat := x.param 32 4
      let off : Nat := x.param 24 8
      let addr : Nat := x.param 40 8
      let bad : Prop := if x.bulk = true then addr ≠ 0 ∨ x.data.length ≠ 64 * ceilDiv len 64 else addr = 0
      (StoreStarted t q 261 none x c s) ∧ (¬bad) ∧ (c.store.find (x.param 16 4) = some a) ∧ (bit a.wr (c.qTenant ↑q) = true) ∧
        (a.isSealed = false) ∧ (off + len ≤ a.size * 65536)) ∧
    (∃ (t : Nat) (q : Fin 64) (x : InDesc) (c : Chip) (s : Machine.State),
      let addr : Nat := x.param 40 8
      let pcie : Bool := c.is (QM_QCFG_VIA ↑q)
      let bad : Prop := addr = 0 ∧ pcie = true
      (StoreStarted t q 262 none x c s) ∧ (bad)) ∧
    (∃ (t : Nat) (q : Fin 64) (x : InDesc) (c : Chip) (s : Machine.State),
      let addr : Nat := x.param 40 8
      let pcie : Bool := c.is (QM_QCFG_VIA ↑q)
      let bad : Prop := addr = 0 ∧ pcie = true
      (StoreStarted t q 262 none x c s) ∧ (¬bad) ∧ (c.store.find (x.param 16 4) = none)) ∧
    (∃ (t : Nat) (q : Fin 64) (x : InDesc) (c : Chip) (s : Machine.State) (a : Alloc),
      let addr : Nat := x.param 40 8
      let pcie : Bool := c.is (QM_QCFG_VIA ↑q)
      let bad : Prop := addr = 0 ∧ pcie = true
      (StoreStarted t q 262 none x c s) ∧ (¬bad) ∧ (c.store.find (x.param 16 4) = some a) ∧ (bit a.rd (c.qTenant ↑q) = false)) ∧
    (∃ (t : Nat) (q : Fin 64) (x : InDesc) (c : Chip) (s : Machine.State) (a : Alloc),
      let len : Nat := x.param 32 4
      let off : Nat := x.param 24 8
      let addr : Nat := x.param 40 8
      let pcie : Bool := c.is (QM_QCFG_VIA ↑q)
      let bad : Prop := addr = 0 ∧ pcie = true
      (StoreStarted t q 262 none x c s) ∧ (¬bad) ∧ (c.store.find (x.param 16 4) = some a) ∧ (bit a.rd (c.qTenant ↑q) = true) ∧
        (a.size * 65536 < off + len)) ∧
    (∃ (t : Nat) (q : Fin 64) (r : Ecc) (x : InDesc) (c : Chip) (s : Machine.State) (a : Alloc),
      let len : Nat := x.param 32 4
      let off : Nat := x.param 24 8
      let addr : Nat := x.param 40 8
      let pcie : Bool := c.is (QM_QCFG_VIA ↑q)
      let bad : Prop := addr = 0 ∧ pcie = true
      (StoreStarted t q 262 none x c s) ∧ (¬bad) ∧ (c.store.find (x.param 16 4) = some a) ∧ (bit a.rd (c.qTenant ↑q) = true) ∧
        (off + len ≤ a.size * 65536) ∧ (r = Ecc.uncorrectable)) ∧
    (∃ (t : Nat) (q : Fin 64) (r : Ecc) (x : InDesc) (c : Chip) (s : Machine.State) (a : Alloc),
      let len : Nat := x.param 32 4
      let off : Nat := x.param 24 8
      let addr : Nat := x.param 40 8
      let pcie : Bool := c.is (QM_QCFG_VIA ↑q)
      let bad : Prop := addr = 0 ∧ pcie = true
      (StoreStarted t q 262 none x c s) ∧ (¬bad) ∧ (c.store.find (x.param 16 4) = some a) ∧ (bit a.rd (c.qTenant ↑q) = true) ∧
        (off + len ≤ a.size * 65536) ∧ (r ≠ Ecc.uncorrectable) ∧ (addr ≠ 0)) ∧
    (∃ (t : Nat) (q : Fin 64) (r : Ecc) (x : InDesc) (c : Chip) (s : Machine.State) (a : Alloc),
      let len : Nat := x.param 32 4
      let off : Nat := x.param 24 8
      let addr : Nat := x.param 40 8
      let pcie : Bool := c.is (QM_QCFG_VIA ↑q)
      let bad : Prop := addr = 0 ∧ pcie = true
      (StoreStarted t q 262 none x c s) ∧ (¬bad) ∧ (c.store.find (x.param 16 4) = some a) ∧ (bit a.rd (c.qTenant ↑q) = true) ∧
        (off + len ≤ a.size * 65536) ∧ (r ≠ Ecc.uncorrectable) ∧ (addr = 0)) ∧
    (∃ (t : Nat) (q : Fin 64) (x : InDesc) (c : Chip) (s : Machine.State) (e : Instr × Nat × CodecOp),
      let kind : Nat := x.param 48 1
      let bad : Prop := e.snd.snd = CodecOp.compress ∧ kind = 1 ∨ 2 < kind
      (e ∈ [(Instr.compress t q, 263, CodecOp.compress), (Instr.decompress t q, 264, CodecOp.decompress)]) ∧
        (StoreStarted t q e.snd.fst none x c s) ∧ (bad)) ∧
    (∃ (t : Nat) (q : Fin 64) (x : InDesc) (c : Chip) (s : Machine.State) (e : Instr × Nat × CodecOp),
      let kind : Nat := x.param 48 1
      let bad : Prop := e.snd.snd = CodecOp.compress ∧ kind = 1 ∨ 2 < kind
      (e ∈ [(Instr.compress t q, 263, CodecOp.compress), (Instr.decompress t q, 264, CodecOp.decompress)]) ∧
        (StoreStarted t q e.snd.fst none x c s) ∧ (¬bad) ∧ (c.store.find (x.param 16 4) = none ∨ c.store.find (x.param 20 4) = none)) ∧
    (∃ (t : Nat) (q : Fin 64) (x : InDesc) (c : Chip) (s : Machine.State) (e : Instr × Nat × CodecOp) (a : Alloc) (b : Alloc),
      let kind : Nat := x.param 48 1
      let bad : Prop := e.snd.snd = CodecOp.compress ∧ kind = 1 ∨ 2 < kind
      let allowed : Prop := bit a.rd (c.qTenant ↑q) = true ∧ bit b.wr (c.qTenant ↑q) = true ∧ b.isSealed = false
      (e ∈ [(Instr.compress t q, 263, CodecOp.compress), (Instr.decompress t q, 264, CodecOp.decompress)]) ∧
        (StoreStarted t q e.snd.fst none x c s) ∧ (¬bad) ∧ (c.store.find (x.param 16 4) = some a) ∧ (c.store.find (x.param 20 4) = some b) ∧
        (¬allowed)) ∧
    (∃ (t : Nat) (q : Fin 64) (x : InDesc) (c : Chip) (s : Machine.State) (e : Instr × Nat × CodecOp) (a : Alloc) (b : Alloc),
      let kind : Nat := x.param 48 1
      let soff : Nat := x.param 24 8
      let doff : Nat := x.param 32 8
      let len : Nat := x.param 40 4
      let cap : Nat := x.param 44 4
      let bad : Prop := e.snd.snd = CodecOp.compress ∧ kind = 1 ∨ 2 < kind
      let allowed : Prop := bit a.rd (c.qTenant ↑q) = true ∧ bit b.wr (c.qTenant ↑q) = true ∧ b.isSealed = false
      let inside : Prop := soff % 64 = 0 ∧ doff % 64 = 0 ∧ soff + len ≤ a.size * 65536 ∧ doff + cap ≤ b.size * 65536
      (e ∈ [(Instr.compress t q, 263, CodecOp.compress), (Instr.decompress t q, 264, CodecOp.decompress)]) ∧
        (StoreStarted t q e.snd.fst none x c s) ∧ (¬bad) ∧ (c.store.find (x.param 16 4) = some a) ∧ (c.store.find (x.param 20 4) = some b) ∧
        (allowed) ∧ (¬inside)) ∧
    (∃ (t : Nat) (q : Fin 64) (x : InDesc) (c : Chip) (s : Machine.State) (e : Instr × Nat × CodecOp) (a : Alloc) (b : Alloc),
      let kind : Nat := x.param 48 1
      let soff : Nat := x.param 24 8
      let doff : Nat := x.param 32 8
      let len : Nat := x.param 40 4
      let cap : Nat := x.param 44 4
      let bad : Prop := e.snd.snd = CodecOp.compress ∧ kind = 1 ∨ 2 < kind
      let allowed : Prop := bit a.rd (c.qTenant ↑q) = true ∧ bit b.wr (c.qTenant ↑q) = true ∧ b.isSealed = false
      let inside : Prop := soff % 64 = 0 ∧ doff % 64 = 0 ∧ soff + len ≤ a.size * 65536 ∧ doff + cap ≤ b.size * 65536
      (e ∈ [(Instr.compress t q, 263, CodecOp.compress), (Instr.decompress t q, 264, CodecOp.decompress)]) ∧
        (StoreStarted t q e.snd.fst none x c s) ∧ (¬bad) ∧ (c.store.find (x.param 16 4) = some a) ∧ (c.store.find (x.param 20 4) = some b) ∧
        (allowed) ∧ (inside) ∧ (256 ≤ c.store.waiting.length)) ∧
    (∃ (t : Nat) (q : Fin 64) (x : InDesc) (c : Chip) (s : Machine.State) (e : Instr × Nat × CodecOp) (a : Alloc) (b : Alloc),
      let kind : Nat := x.param 48 1
      let soff : Nat := x.param 24 8
      let doff : Nat := x.param 32 8
      let len : Nat := x.param 40 4
      let cap : Nat := x.param 44 4
      let bad : Prop := e.snd.snd = CodecOp.compress ∧ kind = 1 ∨ 2 < kind
      let allowed : Prop := bit a.rd (c.qTenant ↑q) = true ∧ bit b.wr (c.qTenant ↑q) = true ∧ b.isSealed = false
      let inside : Prop := soff % 64 = 0 ∧ doff % 64 = 0 ∧ soff + len ≤ a.size * 65536 ∧ doff + cap ≤ b.size * 65536
      (e ∈ [(Instr.compress t q, 263, CodecOp.compress), (Instr.decompress t q, 264, CodecOp.decompress)]) ∧
        (StoreStarted t q e.snd.fst none x c s) ∧ (¬bad) ∧ (c.store.find (x.param 16 4) = some a) ∧ (c.store.find (x.param 20 4) = some b) ∧
        (allowed) ∧ (inside) ∧ (c.store.waiting.length < 256)) :=
  ⟨⟨0, 0, desc 0x105 0 (xfer 1 0 4 0), took 0 (hostWith [(QM_QCFG_CLASS 0, 1)] id (waits 0 [desc 0x105 0 (xfer 1 0 4 0)])), (hostWith [(QM_QCFG_CLASS 0, 1)] id (waits 0 [desc 0x105 0 (xfer 1 0 4 0)])), ⟨⟨by decide +kernel, ⟨took 0 (hostWith [(QM_QCFG_CLASS 0, 1)] id (waits 0 [desc 0x105 0 (xfer 1 0 4 0)])), by unfold Started; decide +kernel⟩⟩, by decide +kernel⟩⟩,
   ⟨0, 0, desc 0x105 0 (xfer 1 0 4 8), took 0 (hostWith [(QM_QCFG_CLASS 0, 1)] id (waits 0 [desc 0x105 0 (xfer 1 0 4 8)])), (hostWith [(QM_QCFG_CLASS 0, 1)] id (waits 0 [desc 0x105 0 (xfer 1 0 4 8)])), ⟨⟨by decide +kernel, ⟨took 0 (hostWith [(QM_QCFG_CLASS 0, 1)] id (waits 0 [desc 0x105 0 (xfer 1 0 4 8)])), by unfold Started; decide +kernel⟩⟩, by decide +kernel, by decide +kernel⟩⟩,
   ⟨0, 0, desc 0x105 0 (xfer 1 0 4 8), took 0 (hostWith [(QM_QCFG_CLASS 0, 1)] sealed (waits 0 [desc 0x105 0 (xfer 1 0 4 8)])), (hostWith [(QM_QCFG_CLASS 0, 1)] sealed (waits 0 [desc 0x105 0 (xfer 1 0 4 8)])), { alloc1 with isSealed := true, tile := true }, ⟨⟨by decide +kernel, ⟨took 0 (hostWith [(QM_QCFG_CLASS 0, 1)] sealed (waits 0 [desc 0x105 0 (xfer 1 0 4 8)])), by unfold Started; decide +kernel⟩⟩, by decide +kernel, by decide +kernel, by decide +kernel⟩⟩,
   ⟨0, 0, desc 0x105 0 (xfer 1 65533 4 8), took 0 (hostWith [(QM_QCFG_CLASS 0, 1)] withAlloc (waits 0 [desc 0x105 0 (xfer 1 65533 4 8)])), (hostWith [(QM_QCFG_CLASS 0, 1)] withAlloc (waits 0 [desc 0x105 0 (xfer 1 65533 4 8)])), alloc1, ⟨⟨by decide +kernel, ⟨took 0 (hostWith [(QM_QCFG_CLASS 0, 1)] withAlloc (waits 0 [desc 0x105 0 (xfer 1 65533 4 8)])), by unfold Started; decide +kernel⟩⟩, by decide +kernel, by decide +kernel, by decide +kernel, by decide +kernel, by decide +kernel⟩⟩,
   ⟨0, 0, desc 0x105 0 (xfer 1 65532 4 8), took 0 (hostWith [(QM_QCFG_CLASS 0, 1)] withAlloc (waits 0 [desc 0x105 0 (xfer 1 65532 4 8)])), (hostWith [(QM_QCFG_CLASS 0, 1)] withAlloc (waits 0 [desc 0x105 0 (xfer 1 65532 4 8)])), alloc1, ⟨⟨by decide +kernel, ⟨took 0 (hostWith [(QM_QCFG_CLASS 0, 1)] withAlloc (waits 0 [desc 0x105 0 (xfer 1 65532 4 8)])), by unfold Started; decide +kernel⟩⟩, by decide +kernel, by decide +kernel, by decide +kernel, by decide +kernel, by decide +kernel⟩⟩,
   ⟨0, 0, desc 0x106 0 (xfer 1 0 4 0), took 0 (hostWith [(QM_QCFG_CLASS 0, 1), (QM_QCFG_VIA 0, 1)] id (waits 0 [desc 0x106 0 (xfer 1 0 4 0)])), (hostWith [(QM_QCFG_CLASS 0, 1), (QM_QCFG_VIA 0, 1)] id (waits 0 [desc 0x106 0 (xfer 1 0 4 0)])), ⟨⟨by decide +kernel, ⟨took 0 (hostWith [(QM_QCFG_CLASS 0, 1), (QM_QCFG_VIA 0, 1)] id (waits 0 [desc 0x106 0 (xfer 1 0 4 0)])), by unfold Started; decide +kernel⟩⟩, by decide +kernel⟩⟩,
   ⟨0, 0, desc 0x106 0 (xfer 1 0 4 8), took 0 (hostWith [(QM_QCFG_CLASS 0, 1)] id (waits 0 [desc 0x106 0 (xfer 1 0 4 8)])), (hostWith [(QM_QCFG_CLASS 0, 1)] id (waits 0 [desc 0x106 0 (xfer 1 0 4 8)])), ⟨⟨by decide +kernel, ⟨took 0 (hostWith [(QM_QCFG_CLASS 0, 1)] id (waits 0 [desc 0x106 0 (xfer 1 0 4 8)])), by unfold Started; decide +kernel⟩⟩, by decide +kernel, by decide +kernel⟩⟩,
   ⟨0, 0, desc 0x106 0 (xfer 1 0 4 0), took 0 (hostWith [(QM_QCFG_CLASS 0, 1)] (·.setStore { allocs := [{ alloc1 with rd := 0 }] }) (waits 0 [desc 0x106 0 (xfer 1 0 4 0)])), (hostWith [(QM_QCFG_CLASS 0, 1)] (·.setStore { allocs := [{ alloc1 with rd := 0 }] }) (waits 0 [desc 0x106 0 (xfer 1 0 4 0)])), { alloc1 with rd := 0 }, ⟨⟨by decide +kernel, ⟨took 0 (hostWith [(QM_QCFG_CLASS 0, 1)] (·.setStore { allocs := [{ alloc1 with rd := 0 }] }) (waits 0 [desc 0x106 0 (xfer 1 0 4 0)])), by unfold Started; decide +kernel⟩⟩, by decide +kernel, by decide +kernel, by decide +kernel⟩⟩,
   ⟨0, 0, desc 0x106 0 (xfer 1 65533 4 0), took 0 (hostWith [(QM_QCFG_CLASS 0, 1)] withAlloc (waits 0 [desc 0x106 0 (xfer 1 65533 4 0)])), (hostWith [(QM_QCFG_CLASS 0, 1)] withAlloc (waits 0 [desc 0x106 0 (xfer 1 65533 4 0)])), alloc1, ⟨⟨by decide +kernel, ⟨took 0 (hostWith [(QM_QCFG_CLASS 0, 1)] withAlloc (waits 0 [desc 0x106 0 (xfer 1 65533 4 0)])), by unfold Started; decide +kernel⟩⟩, by decide +kernel, by decide +kernel, by decide +kernel, by decide +kernel⟩⟩,
   ⟨0, 0, .uncorrectable, desc 0x106 0 (xfer 1 65532 4 0), took 0 (hostWith [(QM_QCFG_CLASS 0, 1)] withAlloc (waits 0 [desc 0x106 0 (xfer 1 65532 4 0)])), (hostWith [(QM_QCFG_CLASS 0, 1)] withAlloc (waits 0 [desc 0x106 0 (xfer 1 65532 4 0)])), alloc1, ⟨⟨by decide +kernel, ⟨took 0 (hostWith [(QM_QCFG_CLASS 0, 1)] withAlloc (waits 0 [desc 0x106 0 (xfer 1 65532 4 0)])), by unfold Started; decide +kernel⟩⟩, by decide +kernel, by decide +kernel, by decide +kernel, by decide +kernel, by decide +kernel⟩⟩,
   ⟨0, 0, .clean, desc 0x106 0 (xfer 1 65532 4 8), took 0 (hostWith [(QM_QCFG_CLASS 0, 1), (QM_QCFG_VIA 0, 1)] withAlloc (waits 0 [desc 0x106 0 (xfer 1 65532 4 8)])), (hostWith [(QM_QCFG_CLASS 0, 1), (QM_QCFG_VIA 0, 1)] withAlloc (waits 0 [desc 0x106 0 (xfer 1 65532 4 8)])), alloc1, ⟨⟨by decide +kernel, ⟨took 0 (hostWith [(QM_QCFG_CLASS 0, 1), (QM_QCFG_VIA 0, 1)] withAlloc (waits 0 [desc 0x106 0 (xfer 1 65532 4 8)])), by unfold Started; decide +kernel⟩⟩, by decide +kernel, by decide +kernel, by decide +kernel, by decide +kernel, by decide +kernel, by decide +kernel⟩⟩,
   ⟨0, 0, .clean, desc 0x106 0 (xfer 1 65532 4 0), took 0 (hostWith [(QM_QCFG_CLASS 0, 1)] withAlloc (waits 0 [desc 0x106 0 (xfer 1 65532 4 0)])), (hostWith [(QM_QCFG_CLASS 0, 1)] withAlloc (waits 0 [desc 0x106 0 (xfer 1 65532 4 0)])), alloc1, ⟨⟨by decide +kernel, ⟨took 0 (hostWith [(QM_QCFG_CLASS 0, 1)] withAlloc (waits 0 [desc 0x106 0 (xfer 1 65532 4 0)])), by unfold Started; decide +kernel⟩⟩, by decide +kernel, by decide +kernel, by decide +kernel, by decide +kernel, by decide +kernel, by decide +kernel⟩⟩,
   ⟨0, 0, desc 0x107 0 (codec 1 2 0 64 64 1), took 0 (hostWith [(QM_QCFG_CLASS 0, 1)] id (waits 0 [desc 0x107 0 (codec 1 2 0 64 64 1)])), (hostWith [(QM_QCFG_CLASS 0, 1)] id (waits 0 [desc 0x107 0 (codec 1 2 0 64 64 1)])), (.compress 0 0, 0x107, .compress), ⟨by decide +kernel, ⟨by decide +kernel, ⟨took 0 (hostWith [(QM_QCFG_CLASS 0, 1)] id (waits 0 [desc 0x107 0 (codec 1 2 0 64 64 1)])), by unfold Started; decide +kernel⟩⟩, by decide +kernel⟩⟩,
   ⟨0, 0, desc 0x107 0 (codec 1 2 0 64 64 0), took 0 (hostWith [(QM_QCFG_CLASS 0, 1)] id (waits 0 [desc 0x107 0 (codec 1 2 0 64 64 0)])), (hostWith [(QM_QCFG_CLASS 0, 1)] id (waits 0 [desc 0x107 0 (codec 1 2 0 64 64 0)])), (.compress 0 0, 0x107, .compress), ⟨by decide +kernel, ⟨by decide +kernel, ⟨took 0 (hostWith [(QM_QCFG_CLASS 0, 1)] id (waits 0 [desc 0x107 0 (codec 1 2 0 64 64 0)])), by unfold Started; decide +kernel⟩⟩, by decide +kernel, by decide +kernel⟩⟩,
   ⟨0, 0, desc 0x107 0 (codec 1 2 0 64 64 0), took 0 (hostWith [(QM_QCFG_CLASS 0, 1)] (fun c => c.setStore { allocs := [alloc1, { alloc1 with index := 2, base := 1, isSealed := true }] }) (waits 0 [desc 0x107 0 (codec 1 2 0 64 64 0)])), (hostWith [(QM_QCFG_CLASS 0, 1)] (fun c => c.setStore { allocs := [alloc1, { alloc1 with index := 2, base := 1, isSealed := true }] }) (waits 0 [desc 0x107 0 (codec 1 2 0 64 64 0)])), (.compress 0 0, 0x107, .compress), alloc1, { alloc1 with index := 2, base := 1, isSealed := true }, ⟨by decide +kernel, ⟨by decide +kernel, ⟨took 0 (hostWith [(QM_QCFG_CLASS 0, 1)] (fun c => c.setStore { allocs := [alloc1, { alloc1 with index := 2, base := 1, isSealed := true }] }) (waits 0 [desc 0x107 0 (codec 1 2 0 64 64 0)])), by unfold Started; decide +kernel⟩⟩, by decide +kernel, by decide +kernel, by decide +kernel, by decide +kernel⟩⟩,
   ⟨0, 0, desc 0x107 0 (codec 1 2 1 64 64 0), took 0 (hostWith [(QM_QCFG_CLASS 0, 1)] (twoAllocs 0) (waits 0 [desc 0x107 0 (codec 1 2 1 64 64 0)])), (hostWith [(QM_QCFG_CLASS 0, 1)] (twoAllocs 0) (waits 0 [desc 0x107 0 (codec 1 2 1 64 64 0)])), (.compress 0 0, 0x107, .compress), alloc1, { alloc1 with index := 2, base := 1 }, ⟨by decide +kernel, ⟨by decide +kernel, ⟨took 0 (hostWith [(QM_QCFG_CLASS 0, 1)] (twoAllocs 0) (waits 0 [desc 0x107 0 (codec 1 2 1 64 64 0)])), by unfold Started; decide +kernel⟩⟩, by decide +kernel, by decide +kernel, by decide +kernel, by decide +kernel, by decide +kernel⟩⟩,
   ⟨0, 0, desc 0x107 0 (codec 1 2 0 64 64 0), took 0 (hostWith [(QM_QCFG_CLASS 0, 1)] (twoAllocs 256) (waits 0 [desc 0x107 0 (codec 1 2 0 64 64 0)])), (hostWith [(QM_QCFG_CLASS 0, 1)] (twoAllocs 256) (waits 0 [desc 0x107 0 (codec 1 2 0 64 64 0)])), (.compress 0 0, 0x107, .compress), alloc1, { alloc1 with index := 2, base := 1 }, ⟨by decide +kernel, ⟨by decide +kernel, ⟨took 0 (hostWith [(QM_QCFG_CLASS 0, 1)] (twoAllocs 256) (waits 0 [desc 0x107 0 (codec 1 2 0 64 64 0)])), by unfold Started; decide +kernel⟩⟩, by decide +kernel, by decide +kernel, by decide +kernel, by decide +kernel, by decide +kernel, by decide +kernel⟩⟩,
   ⟨0, 0, desc 0x107 0 (codec 1 2 0 64 64 0), took 0 (hostWith [(QM_QCFG_CLASS 0, 1)] (twoAllocs 0) (waits 0 [desc 0x107 0 (codec 1 2 0 64 64 0)])), (hostWith [(QM_QCFG_CLASS 0, 1)] (twoAllocs 0) (waits 0 [desc 0x107 0 (codec 1 2 0 64 64 0)])), (.compress 0 0, 0x107, .compress), alloc1, { alloc1 with index := 2, base := 1 }, ⟨by decide +kernel, ⟨by decide +kernel, ⟨took 0 (hostWith [(QM_QCFG_CLASS 0, 1)] (twoAllocs 0) (waits 0 [desc 0x107 0 (codec 1 2 0 64 64 0)])), by unfold Started; decide +kernel⟩⟩, by decide +kernel, by decide +kernel, by decide +kernel, by decide +kernel, by decide +kernel, by decide +kernel⟩⟩⟩

theorem met_TimedFramesReportsAndDescriptors :
    (∃ (t : Nat) (q : Fin 64) (x : InDesc) (c : Chip) (s : Machine.State),
      let d : Nat := x.param 24 1
      let n : Nat := x.param 25 1
      let bad : Prop := 8 ≤ d ∨ n = 0 ∨ 32 < n
      (Started t q 265 0 (some 2) x c s) ∧ (bad)) ∧
    (∃ (t : Nat) (q : Fin 64) (x : InDesc) (c : Chip) (s : Machine.State),
      let d : Nat := x.param 24 1
      let n : Nat := x.param 25 1
      let bad : Prop := 8 ≤ d ∨ n = 0 ∨ 32 < n
      (Started t q 265 0 (some 2) x c s) ∧ (¬bad) ∧ (c.eQueue d = none)) ∧
    (∃ (t : Nat) (q : Fin 64) (x : InDesc) (c : Chip) (s : Machine.State) (e : Nat),
      let d : Nat := x.param 24 1
      let n : Nat := x.param 25 1
      let bad : Prop := 8 ≤ d ∨ n = 0 ∨ 32 < n
      let p : Nat := c.get (QM_QCFG_PORT e)
      (Started t q 265 0 (some 2) x c s) ∧ (¬bad) ∧ (c.eQueue d = some e) ∧ (c.is (QM_QCFG_VIA e) = true ∨ c.session d p = none)) ∧
    (∃ (t : Nat) (q : Fin 64) (x : InDesc) (c : Chip) (s : Machine.State) (e : Nat),
      let d : Nat := x.param 24 1
      let n : Nat := x.param 25 1
      let bad : Prop := 8 ≤ d ∨ n = 0 ∨ 32 < n
      let p : Nat := c.get (QM_QCFG_PORT e)
      (Started t q 265 0 (some 2) x c s) ∧ (¬bad) ∧ (c.eQueue d = some e) ∧ (c.is (QM_QCFG_VIA e) = false) ∧ (c.session d p ≠ none)) ∧
    (∃ (t : Nat) (p : Fin 4) (f : TimedFrame) (rest : List TimedFrame) (s : Machine.State),
      let c : Chip := (s.at_ t).chip
      (nextTimed (↑p) c.hosts.timed = some (f, rest)) ∧ (c.ns < f.launch)) ∧
    (∃ (t : Nat) (p : Fin 4) (f : TimedFrame) (rest : List TimedFrame) (s : Machine.State),
      let c : Chip := (s.at_ t).chip
      (nextTimed (↑p) c.hosts.timed = some (f, rest)) ∧ (f.launch + 1000 ≤ c.ns)) ∧
    (∃ (t : Nat) (p : Fin 4) (f : TimedFrame) (rest : List TimedFrame) (s : Machine.State) (e : Nat) (ses : Session),
      let c : Chip := (s.at_ t).chip
      (nextTimed (↑p) c.hosts.timed = some (f, rest)) ∧ (f.launch ≤ c.ns) ∧ (c.ns < f.launch + 1000) ∧ (c.eQueue f.dest = some e) ∧
        (c.session f.dest ↑p = some ses)) ∧
    (∃ (t : Nat) (q : Fin 64) (x : InDesc) (c : Chip) (s : Machine.State),
      let bad : Prop := 1 < x.param 16 1 ∨ 20512 < x.param 32 4
      (StoreStarted t q 512 (some 1) x c s) ∧ (bad)) ∧
    (∃ (t : Nat) (q : Fin 64) (x : InDesc) (c : Chip) (s : Machine.State),
      let stored : Prop := x.param 16 1 = 0
      let bad : Prop := 1 < x.param 16 1 ∨ 20512 < x.param 32 4
      let known : Prop := stored → c.store.find (x.param 20 4) ≠ none
      (StoreStarted t q 512 (some 1) x c s) ∧ (¬bad) ∧ (¬known)) ∧
    (∃ (t : Nat) (q : Fin 64) (r : Ecc) (x : InDesc) (c : Chip) (s : Machine.State),
      let stored : Prop := x.param 16 1 = 0
      let bad : Prop := 1 < x.param 16 1 ∨ 20512 < x.param 32 4
      let known : Prop := stored → c.store.find (x.param 20 4) ≠ none
      let read : Prop := stored → r ≠ Ecc.uncorrectable
      (StoreStarted t q 512 (some 1) x c s) ∧ (¬bad) ∧ (known) ∧ (¬read)) ∧
    (∃ (t : Nat) (q : Fin 64) (host : List Byte) (r : Ecc) (lost : List Nat) (x : InDesc) (c : Chip) (s : Machine.State),
      let stored : Prop := x.param 16 1 = 0
      let inHost : Prop := x.param 16 1 = 1
      let bad : Prop := 1 < x.param 16 1 ∨ 20512 < x.param 32 4
      let c1 : Chip := if stored then c.jobStoreRead r else c
      let c2 : Chip := if inHost then c1.emit EmitKind.pcieFetch (c1.qTenant ↑q) [↑q, x.param 24 8, x.param 32 4] else c1
      let p : Report := { bytes := reportBytes (↑q) host x { (s.at_ t) with chip := c2 } }
      let d : Chip := c2.loseBands p lost
      let known : Prop := stored → c.store.find (x.param 20 4) ≠ none
      let read : Prop := stored → r ≠ Ecc.uncorrectable
      (StoreStarted t q 512 (some 1) x c s) ∧ (¬bad) ∧ (known) ∧ (read) ∧ (d.reportStatus p ≠ 0)) ∧
    (∃ (t : Nat) (q : Fin 64) (host : List Byte) (r : Ecc) (lost : List Nat) (x : InDesc) (c : Chip) (s : Machine.State),
      let stored : Prop := x.param 16 1 = 0
      let inHost : Prop := x.param 16 1 = 1
      let bad : Prop := 1 < x.param 16 1 ∨ 20512 < x.param 32 4
      let c1 : Chip := if stored then c.jobStoreRead r else c
      let c2 : Chip := if inHost then c1.emit EmitKind.pcieFetch (c1.qTenant ↑q) [↑q, x.param 24 8, x.param 32 4] else c1
      let p : Report := { bytes := reportBytes (↑q) host x { (s.at_ t) with chip := c2 } }
      let d : Chip := c2.loseBands p lost
      let known : Prop := stored → c.store.find (x.param 20 4) ≠ none
      let read : Prop := stored → r ≠ Ecc.uncorrectable
      (StoreStarted t q 512 (some 1) x c s) ∧ (¬bad) ∧ (known) ∧ (read) ∧ (d.reportStatus p = 0)) ∧
    (∃ (t : Nat) (q : Fin 64) (b : List Byte) (rx : Nat) (s : Machine.State),
      let c : Chip := (s.at_ t).chip
      let x : InDesc := { d := fit 64 b, arrival := c.ns, rx := rx, data := [], bulk := false }
      (x.isApp = true) ∧ (32768 ≤ fieldAt b 0 2) ∧ (c.takesFrom (c.qTenant ↑q) ↑q = true) ∧ (c.credits ↑q = 0)) ∧
    (∃ (t : Nat) (q : Fin 64) (b : List Byte) (rx : Nat) (s : Machine.State) (st : Nat),
      let c : Chip := (s.at_ t).chip
      let x : InDesc := { d := fit 64 b, arrival := c.ns, rx := rx, data := [], bulk := false }
      let k : Queue := c.queue ↑q
      let d : Chip := c.setQueue ↑q { k with reserved := k.reserved + 1, accepted := (k.accepted + 1) % 2 ^ 32 }
      (x.isApp = true) ∧ (32768 ≤ fieldAt b 0 2) ∧ (c.takesFrom (c.qTenant ↑q) ↑q = true) ∧ (c.credits ↑q ≠ 0) ∧ (d.early (↑q) x = some st)) ∧
    (∃ (t : Nat) (q : Fin 64) (b : List Byte) (rx : Nat) (s : Machine.State),
      let c : Chip := (s.at_ t).chip
      let x : InDesc := { d := fit 64 b, arrival := c.ns, rx := rx, data := [], bulk := false }
      let k : Queue := c.queue ↑q
      let d : Chip := c.setQueue ↑q { k with reserved := k.reserved + 1, accepted := (k.accepted + 1) % 2 ^ 32 }
      (x.isApp = true) ∧ (32768 ≤ fieldAt b 0 2) ∧ (c.takesFrom (c.qTenant ↑q) ↑q = true) ∧ (c.credits ↑q ≠ 0) ∧ (d.early (↑q) x = none) ∧
        (((d.queue ↑q).inq.any fun (x : InDesc) => x.isApp) = true)) ∧
    (∃ (t : Nat) (q : Fin 64) (b : List Byte) (rx : Nat) (s : Machine.State),
      let c : Chip := (s.at_ t).chip
      let x : InDesc := { d := fit 64 b, arrival := c.ns, rx := rx, data := [], bulk := false }
      let k : Queue := c.queue ↑q
      let d : Chip := c.setQueue ↑q { k with reserved := k.reserved + 1, accepted := (k.accepted + 1) % 2 ^ 32 }
      (x.isApp = true) ∧ (32768 ≤ fieldAt b 0 2) ∧ (c.takesFrom (c.qTenant ↑q) ↑q = true) ∧ (c.credits ↑q ≠ 0) ∧ (d.early (↑q) x = none) ∧
        (((d.queue ↑q).inq.any fun (x : InDesc) => x.isApp) = false)) ∧
    (∃ (t : Nat) (q : Fin 64) (x : InDesc) (rest : List InDesc) (s : Machine.State),
      let c : Chip := (s.at_ t).chip
      let lim : Nat := c.get (QM_QTO_TO ↑q)
      (lim ≠ 0) ∧ (takeFirst (fun (y : InDesc) => decide (y.arrival + 1000 * lim ≤ c.ns)) (c.queue ↑q).inq = some (x, rest))) :=
  ⟨⟨0, 0, desc 0x109 0 (le 8 5000 ++ [8, 1]), took 0 (hostWith [(QM_QCFG_CLASS 0, 1)] id (waits 0 [desc 0x109 0 (le 8 5000 ++ [8, 1])])), (hostWith [(QM_QCFG_CLASS 0, 1)] id (waits 0 [desc 0x109 0 (le 8 5000 ++ [8, 1])])), by dsimp only; unfold Started; decide +kernel⟩,
   ⟨0, 0, desc 0x109 0 (le 8 5000 ++ [3, 1]), took 0 (hostWith [(QM_QCFG_CLASS 0, 1)] id (waits 0 [desc 0x109 0 (le 8 5000 ++ [3, 1])])), (hostWith [(QM_QCFG_CLASS 0, 1)] id (waits 0 [desc 0x109 0 (le 8 5000 ++ [3, 1])])), by dsimp only; unfold Started; decide +kernel⟩,
   ⟨0, 0, desc 0x109 0 (le 8 5000 ++ [0, 1]), took 0 (hostWith [(QM_QCFG_CLASS 0, 1)] id (waits 0 [desc 0x109 0 (le 8 5000 ++ [0, 1])])), (hostWith [(QM_QCFG_CLASS 0, 1)] id (waits 0 [desc 0x109 0 (le 8 5000 ++ [0, 1])])), 1, by dsimp only; unfold Started; decide +kernel⟩,
   ⟨0, 0, desc 0x109 0 (le 8 5000 ++ [0, 1]), took 0 (hostWith [(QM_QCFG_CLASS 0, 1)] timed (waits 0 [desc 0x109 0 (le 8 5000 ++ [0, 1])])), (hostWith [(QM_QCFG_CLASS 0, 1)] timed (waits 0 [desc 0x109 0 (le 8 5000 ++ [0, 1])])), 1, by dsimp only; unfold Started; decide +kernel⟩,
   ⟨0, 0, frame, [], stateWith [] timed, by dsimp only; decide +kernel⟩,
   ⟨65536 * 6000, 0, frame, [], stateWith [] timed, by dsimp only; decide +kernel⟩,
   ⟨65536 * 5000, 0, frame, [], stateWith [] timed, 1, { addr := 1, udp := 2 }, by dsimp only; decide +kernel⟩,
   ⟨0, 0, desc 0x200 0 [2], took 0 (hostWith [(QM_QCFG_CLASS 0, 2)] id (waits 0 [desc 0x200 0 [2]])), (hostWith [(QM_QCFG_CLASS 0, 2)] id (waits 0 [desc 0x200 0 [2]])), ⟨⟨by decide +kernel, ⟨took 0 (hostWith [(QM_QCFG_CLASS 0, 2)] id (waits 0 [desc 0x200 0 [2]])), by unfold Started; decide +kernel⟩⟩, by decide +kernel⟩⟩,
   ⟨0, 0, desc 0x200 0 ([0, 0, 0, 0] ++ le 4 1 ++ zeros 8 ++ le 4 34), took 0 (hostWith [(QM_QCFG_CLASS 0, 2)] id (waits 0 [desc 0x200 0 ([0, 0, 0, 0] ++ le 4 1 ++ zeros 8 ++ le 4 34)])), (hostWith [(QM_QCFG_CLASS 0, 2)] id (waits 0 [desc 0x200 0 ([0, 0, 0, 0] ++ le 4 1 ++ zeros 8 ++ le 4 34)])), ⟨⟨by decide +kernel, ⟨took 0 (hostWith [(QM_QCFG_CLASS 0, 2)] id (waits 0 [desc 0x200 0 ([0, 0, 0, 0] ++ le 4 1 ++ zeros 8 ++ le 4 34)])), by unfold Started; decide +kernel⟩⟩, by decide +kernel, by decide +kernel⟩⟩,
   ⟨0, 0, .uncorrectable, desc 0x200 0 ([0, 0, 0, 0] ++ le 4 1 ++ zeros 8 ++ le 4 34), took 0 (hostWith [(QM_QCFG_CLASS 0, 2)] withAlloc (waits 0 [desc 0x200 0 ([0, 0, 0, 0] ++ le 4 1 ++ zeros 8 ++ le 4 34)])), (hostWith [(QM_QCFG_CLASS 0, 2)] withAlloc (waits 0 [desc 0x200 0 ([0, 0, 0, 0] ++ le 4 1 ++ zeros 8 ++ le 4 34)])), ⟨⟨by decide +kernel, ⟨took 0 (hostWith [(QM_QCFG_CLASS 0, 2)] withAlloc (waits 0 [desc 0x200 0 ([0, 0, 0, 0] ++ le 4 1 ++ zeros 8 ++ le 4 34)])), by unfold Started; decide +kernel⟩⟩, by decide +kernel, by decide +kernel, by decide +kernel⟩⟩,
   ⟨0, 0, [], .clean, [], desc 0x200 0 ([1, 0, 0, 0] ++ zeros 12 ++ le 4 34), took 0 (hostWith [(QM_QCFG_CLASS 0, 2)] id (waits 0 [desc 0x200 0 ([1, 0, 0, 0] ++ zeros 12 ++ le 4 34)])), (hostWith [(QM_QCFG_CLASS 0, 2)] id (waits 0 [desc 0x200 0 ([1, 0, 0, 0] ++ zeros 12 ++ le 4 34)])), ⟨⟨by decide +kernel, ⟨took 0 (hostWith [(QM_QCFG_CLASS 0, 2)] id (waits 0 [desc 0x200 0 ([1, 0, 0, 0] ++ zeros 12 ++ le 4 34)])), by unfold Started; decide +kernel⟩⟩, by decide +kernel, by decide +kernel, by decide +kernel, by decide +kernel⟩⟩,
   ⟨0, 0, oneBin, .clean, [], desc 0x200 0 ([1, 0, 0, 0] ++ zeros 12 ++ le 4 34), took 0 (hostWith [(QM_QCFG_CLASS 0, 2)] colour2 (waits 0 [desc 0x200 0 ([1, 0, 0, 0] ++ zeros 12 ++ le 4 34)])), (hostWith [(QM_QCFG_CLASS 0, 2)] colour2 (waits 0 [desc 0x200 0 ([1, 0, 0, 0] ++ zeros 12 ++ le 4 34)])), ⟨⟨by decide +kernel, ⟨took 0 (hostWith [(QM_QCFG_CLASS 0, 2)] colour2 (waits 0 [desc 0x200 0 ([1, 0, 0, 0] ++ zeros 12 ++ le 4 34)])), by unfold Started; decide +kernel⟩⟩, by decide +kernel, by decide +kernel, by decide +kernel, by decide +kernel⟩⟩,
   ⟨0, 3, (desc 0x8000 3).d, 0, stateWith [] (fun c => c.setQueue 3 { accepted := 64 }), by dsimp only; decide +kernel⟩,
   ⟨0, 3, (desc 0x8000 3).d, 0, stateWith [(SEQ_QBIND_CTX_MASK 3, 0)], 0x1C, by dsimp only; decide +kernel⟩,
   ⟨0, 3, (desc 0x8000 3).d, 0, stateWith [(SEQ_QBIND_CTX_MASK 3, 2)] (waits 3 [desc 0x8000 3]), by dsimp only; decide +kernel⟩,
   ⟨0, 3, (desc 0x8000 3).d, 0, stateWith [(SEQ_QBIND_CTX_MASK 3, 2)], by dsimp only; decide +kernel⟩,
   ⟨65536 * 1000000, 0, desc 0x8000 0, [], stateWith [] (waits 0 [desc 0x8000 0]), by dsimp only; decide +kernel⟩⟩

theorem met_CodecJobsAndTileFetches :
    (∃ (t : Nat) (s : Machine.State),
      let c : Chip := (s.at_ t).chip
      let st : Store := c.store
      (4 ≤ st.running.length)) ∧
    (∃ (t : Nat) (s : Machine.State),
      let c : Chip := (s.at_ t).chip
      let st : Store := c.store
      let ready : Nat → Option CodecJob := fun (i : Nat) => List.find? (fun (j : CodecJob) => decide (j.tenant = (st.lastTenant + 1 + i) % 8)) st.waiting
      (st.running.length < 4) ∧ (List.find? (fun (x : CodecJob) => x.twin) st.waiting = none) ∧ (∀ (i : Nat), i < 8 → ready i = none)) ∧
    (∃ (t : Nat) (s : Machine.State) (j : CodecJob),
      let c : Chip := (s.at_ t).chip
      let st : Store := c.store
      (st.running.length < 4) ∧ (List.find? (fun (x : CodecJob) => x.twin) st.waiting = some j)) ∧
    (∃ (t : Nat) (s : Machine.State) (i : Nat) (j : CodecJob),
      let c : Chip := (s.at_ t).chip
      let st : Store := c.store
      let ready : Nat → Option CodecJob := fun (i : Nat) => List.find? (fun (j : CodecJob) => decide (j.tenant = (st.lastTenant + 1 + i) % 8)) st.waiting
      (st.running.length < 4) ∧ (List.find? (fun (x : CodecJob) => x.twin) st.waiting = none) ∧ (i < 8) ∧ (∀ (h : Nat), h < i → ready h = none) ∧
        (ready i = some j)) ∧
    (∃ (t : Nat) (id : Nat) (s : Machine.State),
      let c : Chip := (s.at_ t).chip
      let st : Store := c.store
      let may : Prop := (st.waiting.any fun (x : CodecJob) => x.twin) = true ∧ 4 ≤ st.running.length ∧
        (st.jobs.any fun (j : CodecJob) => decide (j.id = id) && j.running && !j.twin) = true
      (may)) ∧
    (∃ (t : Nat) (id : Nat) (s : Machine.State),
      let c : Chip := (s.at_ t).chip
      let st : Store := c.store
      let may : Prop := (st.waiting.any fun (x : CodecJob) => x.twin) = true ∧ 4 ≤ st.running.length ∧
        (st.jobs.any fun (j : CodecJob) => decide (j.id = id) && j.running && !j.twin) = true
      (¬may)) ∧
    (∃ (t : Nat) (id : Nat) (since : Nat) (j : CodecJob) (s : Machine.State),
      let c : Chip := (s.at_ t).chip
      let long : Prop := since + 1000 * c.get CD_STALLTO_STALLTO ≤ c.ns
      let went : Prop := ∃ (a : Nat), j.resumed = some a ∧ since ≤ a
      (c.store.runningJob id = some j) ∧ (j.twin = true) ∧ (j.op = CodecOp.compress) ∧ (long) ∧ (¬went)) ∧
    (∃ (t : Nat) (id : Nat) (since : Nat) (j : CodecJob) (s : Machine.State),
      let c : Chip := (s.at_ t).chip
      let long : Prop := since + 1000 * c.get CD_STALLTO_STALLTO ≤ c.ns
      let went : Prop := ∃ (a : Nat), j.resumed = some a ∧ since ≤ a
      (c.store.runningJob id = some j) ∧ (j.twin = true) ∧ (j.op = CodecOp.compress) ∧ (¬long ∨ went)) ∧
    (∃ (t : Nat) (id : Nat) (r : Ecc) (j : CodecJob) (s : Machine.State) (a : Alloc) (b : Alloc),
      let c : Chip := (s.at_ t).chip
      (c.store.runningJob id = some j) ∧ (j.twin = false) ∧ (j.op ≠ CodecOp.sealTile) ∧ (c.store.find j.src = some a) ∧
        (c.store.find j.dst = some b) ∧ (r = Ecc.uncorrectable)) ∧
    (∃ (t : Nat) (id : Nat) (r : Ecc) (vfail : Bool) (j : CodecJob) (s : Machine.State) (a : Alloc) (b : Alloc),
      let c : Chip := (s.at_ t).chip
      let unverified : Prop := j.op = CodecOp.compress ∧ vfail = true
      (c.store.runningJob id = some j) ∧ (j.twin = false) ∧ (j.op ≠ CodecOp.sealTile) ∧ (c.store.find j.src = some a) ∧
        (c.store.find j.dst = some b) ∧ (r ≠ Ecc.uncorrectable) ∧ (unverified)) ∧
    (∃ (t : Nat) (id : Nat) (r : Ecc) (vfail : Bool) (j : CodecJob) (s : Machine.State) (a : Alloc) (b : Alloc),
      let c : Chip := (s.at_ t).chip
      let unverified : Prop := j.op = CodecOp.compress ∧ vfail = true
      (c.store.runningJob id = some j) ∧ (j.twin = false) ∧ (j.op ≠ CodecOp.sealTile) ∧ (c.store.find j.src = some a) ∧
        (c.store.find j.dst = some b) ∧ (r ≠ Ecc.uncorrectable) ∧ (¬unverified) ∧ (b.isSealed = true)) ∧
    (∃ (t : Nat) (id : Nat) (r : Ecc) (bad : List Nat) (vfail : Bool) (j : CodecJob) (s : Machine.State) (a : Alloc) (b : Alloc),
      let c : Chip := (s.at_ t).chip
      let st : Nat := (codecResult j (s.mem.job.read (a.start + j.soff) j.len) bad).snd
      let unverified : Prop := j.op = CodecOp.compress ∧ vfail = true
      (c.store.runningJob id = some j) ∧ (j.twin = false) ∧ (j.op ≠ CodecOp.sealTile) ∧ (c.store.find j.src = some a) ∧
        (c.store.find j.dst = some b) ∧ (r ≠ Ecc.uncorrectable) ∧ (¬unverified) ∧ (b.isSealed = false) ∧ (st = 0)) ∧
    (∃ (t : Nat) (id : Nat) (r : Ecc) (bad : List Nat) (vfail : Bool) (j : CodecJob) (s : Machine.State) (a : Alloc) (b : Alloc),
      let c : Chip := (s.at_ t).chip
      let st : Nat := (codecResult j (s.mem.job.read (a.start + j.soff) j.len) bad).snd
      let unverified : Prop := j.op = CodecOp.compress ∧ vfail = true
      (c.store.runningJob id = some j) ∧ (j.twin = false) ∧ (j.op ≠ CodecOp.sealTile) ∧ (c.store.find j.src = some a) ∧
        (c.store.find j.dst = some b) ∧ (r ≠ Ecc.uncorrectable) ∧ (¬unverified) ∧ (b.isSealed = false) ∧ (st ≠ 0)) ∧
    (∃ (t : Nat) (id : Nat) (r : Ecc) (j : CodecJob) (s : Machine.State) (a : Alloc),
      let c : Chip := (s.at_ t).chip
      (c.store.runningJob id = some j) ∧ (j.twin = false) ∧ (j.op = CodecOp.sealTile) ∧ (c.store.find j.src = some a) ∧ (r = Ecc.uncorrectable)) ∧
    (∃ (t : Nat) (id : Nat) (r : Ecc) (j : CodecJob) (s : Machine.State) (a : Alloc),
      let c : Chip := (s.at_ t).chip
      let k : Nat × Nat × Nat := sealChecks s.mem.job a.start a.size
      (c.store.runningJob id = some j) ∧ (j.twin = false) ∧ (j.op = CodecOp.sealTile) ∧ (c.store.find j.src = some a) ∧ (r ≠ Ecc.uncorrectable) ∧
        (k.fst ≠ 0)) ∧
    (∃ (t : Nat) (id : Nat) (r : Ecc) (j : CodecJob) (s : Machine.State) (a : Alloc),
      let c : Chip := (s.at_ t).chip
      let d : Chip := c.jobStoreRead r
      let k : Nat × Nat × Nat := sealChecks s.mem.job a.start a.size
      let full : Prop := a.pin = true ∧ pinFull { (s.at_ t) with chip := d } a = true
      (c.store.runningJob id = some j) ∧ (j.twin = false) ∧ (j.op = CodecOp.sealTile) ∧ (c.store.find j.src = some a) ∧ (r ≠ Ecc.uncorrectable) ∧
        (k.fst = 0) ∧ (full)) ∧
    (∃ (t : Nat) (id : Nat) (r : Ecc) (j : CodecJob) (s : Machine.State) (a : Alloc),
      let c : Chip := (s.at_ t).chip
      let d : Chip := c.jobStoreRead r
      let k : Nat × Nat × Nat := sealChecks s.mem.job a.start a.size
      let full : Prop := a.pin = true ∧ pinFull { (s.at_ t) with chip := d } a = true
      (c.store.runningJob id = some j) ∧ (j.twin = false) ∧ (j.op = CodecOp.sealTile) ∧ (c.store.find j.src = some a) ∧ (r ≠ Ecc.uncorrectable) ∧
        (k.fst = 0) ∧ (¬full)) ∧
    (∃ (t : Nat) (id : Nat) (j : CodecJob) (s : Machine.State),
      let c : Chip := (s.at_ t).chip
      (c.store.runningJob id = some j) ∧ (j.twin = true) ∧ (j.op = CodecOp.decompress)) ∧
    (∃ (t : Nat) (id : Nat) (r : Ecc) (vfail : Bool) (j : CodecJob) (s : Machine.State),
      let c : Chip := (s.at_ t).chip
      (c.store.runningJob id = some j) ∧ (j.twin = true) ∧ (j.op = CodecOp.compress) ∧ (r ≠ Ecc.uncorrectable) ∧ (vfail = false) ∧ (10 ≤ j.soff)) ∧
    (∃ (t : Nat) (id : Nat) (r : Ecc) (bad : List Nat) (vfail : Bool) (j : CodecJob) (s : Machine.State),
      let c : Chip := (s.at_ t).chip
      let d : Chip := (c.jobStoreRead r).verifier bad vfail
      let stream : List Byte := (compressUnits 1 (sectionBytes (section_ { (s.at_ t) with chip := d } j.soff)) bad).flatten
      let sent : Chip := (d.setStore { d.store with jobs := List.filter (fun (k : CodecJob) => decide (k.id ≠ j.id)) d.store.jobs }).ropeSend EmitKind.ropeSnap [j.soff, 1] stream
      (c.store.runningJob id = some j) ∧ (j.twin = true) ∧ (j.op = CodecOp.compress) ∧ (r ≠ Ecc.uncorrectable) ∧ (vfail = false) ∧ (j.soff < 10) ∧
        (sent.store.waiting.length < 256)) ∧
    (∃ (t : Nat) (id : Nat) (r : Ecc) (bad : List Nat) (vfail : Bool) (j : CodecJob) (s : Machine.State),
      let c : Chip := (s.at_ t).chip
      let d : Chip := (c.jobStoreRead r).verifier bad vfail
      let stream : List Byte := (compressUnits 1 (sectionBytes (section_ { (s.at_ t) with chip := d } j.soff)) bad).flatten
      let sent : Chip := (d.setStore { d.store with jobs := List.filter (fun (k : CodecJob) => decide (k.id ≠ j.id)) d.store.jobs }).ropeSend EmitKind.ropeSnap [j.soff, 1] stream
      (c.store.runningJob id = some j) ∧ (j.twin = true) ∧ (j.op = CodecOp.compress) ∧ (r ≠ Ecc.uncorrectable) ∧ (vfail = false) ∧ (j.soff < 10) ∧
        (256 ≤ sent.store.waiting.length)) ∧
    (∃ (t : Nat) (id : Nat) (r : Ecc) (vfail : Bool) (j : CodecJob) (s : Machine.State),
      let c : Chip := (s.at_ t).chip
      (c.store.runningJob id = some j) ∧ (j.twin = true) ∧ (j.op = CodecOp.compress) ∧ (r = Ecc.uncorrectable ∨ vfail = true)) ∧
    (∃ (t : Nat) (r : Ecc) (s : Machine.State),
      let c : Chip := (s.at_ t).chip
      (c.regionOn 4 = true) ∧ (c.is (FINJ_ARM Blk.js 0) = false) ∧ (r = Ecc.corrected)) ∧
    (∃ (t : Nat) (r : Ecc) (s : Machine.State),
      let c : Chip := (s.at_ t).chip
      (c.regionOn 4 = true) ∧ (c.is (FINJ_ARM Blk.js 0) = false) ∧ (r ≠ Ecc.corrected)) ∧
    (∃ (t : Nat) (h : Nat) (sg : Nat) (b : Nat) (s : Machine.State),
      let c : Chip := (s.at_ t).chip
      let works : Fetch → Bool := fun (x : Fetch) => decide (x.h = h) && decide (x.sg = sg) && decide (x.b = b) && x.busy
      (List.find? works c.store.fetches = none)) ∧
    (∃ (t : Nat) (h : Nat) (sg : Nat) (b : Nat) (retries : Nat) (r : Ecc) (s : Machine.State) (x : Fetch) (a : Alloc),
      let c : Chip := (s.at_ t).chip
      let works : Fetch → Bool := fun (x : Fetch) => decide (x.h = h) && decide (x.sg = sg) && decide (x.b = b) && x.busy
      let d : Chip := (c.jobStoreRead r).bump CD_FERR_RETRY (min retries 3)
      let bad : Prop := r = Ecc.uncorrectable ∨ (tileOf s.mem.job a).stream s.mem.job a.start sg b = none
      (List.find? works c.store.fetches = some x) ∧ (c.store.find h = some a) ∧ (a.isSealed = true) ∧ (a.tile = true) ∧
        (c.is (FINJ_ARM Blk.cd 0) = false) ∧ (d.is (FINJ_ARM Blk.cd 0) = false) ∧ (bad)) ∧
    (∃ (t : Nat) (h : Nat) (sg : Nat) (b : Nat) (retries : Nat) (r : Ecc) (s : Machine.State) (x : Fetch) (a : Alloc),
      let c : Chip := (s.at_ t).chip
      let works : Fetch → Bool := fun (x : Fetch) => decide (x.h = h) && decide (x.sg = sg) && decide (x.b = b) && x.busy
      let d : Chip := (c.jobStoreRead r).bump CD_FERR_RETRY (min retries 3)
      let bad : Prop := r = Ecc.uncorrectable ∨ (tileOf s.mem.job a).stream s.mem.job a.start sg b = none
      (List.find? works c.store.fetches = some x) ∧ (c.store.find h = some a) ∧ (a.isSealed = true) ∧ (a.tile = true) ∧
        (c.is (FINJ_ARM Blk.cd 0) = false) ∧ (d.is (FINJ_ARM Blk.cd 0) = false) ∧ (¬bad)) :=
  ⟨⟨0, stateWith [] (jobsAre (runningJobs 4)), by dsimp only; decide +kernel⟩,
   ⟨0, stateWith [] (jobsAre []), by dsimp only; decide +kernel⟩,
   ⟨0, stateWith [] (jobsAre [{ job1 with twin := true, running := false }]), { job1 with twin := true, running := false }, by dsimp only; decide +kernel⟩,
   ⟨0, stateWith [] (fun c => let d := jobsAre [{ job1 with running := false, tenant := 1 }] c; d), 1, { job1 with running := false, tenant := 1 }, by dsimp only; decide +kernel⟩,
   ⟨0, 1, stateWith [] (jobsAre (runningJobs 4 ++ [{ job1 with id := 9, twin := true, running := false }])), by dsimp only; decide +kernel⟩,
   ⟨0, 1, stateWith [] (jobsAre (runningJobs 4)), by dsimp only; decide +kernel⟩,
   ⟨65536 * 1000 * 2 ^ 20, 1, 0, twinJob 0, stateWith [] (jobsAre [twinJob 0]), by dsimp only; decide +kernel⟩,
   ⟨0, 1, 0, twinJob 0 (some 0), stateWith [] (jobsAre [twinJob 0 (some 0)]), by dsimp only; decide +kernel⟩,
   ⟨0, 1, .uncorrectable, job1, inJob 0 ([1, 0, 0, 0] ++ le 8 0 ++ le 4 0 ++ le 4 (crc32 [])) (stateWith [] (jobsAre [job1])), alloc1, { alloc1 with index := 2, base := 1 }, by dsimp only; decide +kernel⟩,
   ⟨0, 1, .clean, true, { job1 with op := .compress, len := 0 }, stateWith [] (jobsAre [{ job1 with op := .compress, len := 0 }]), alloc1, { alloc1 with index := 2, base := 1 }, by dsimp only; decide +kernel⟩,
   ⟨0, 1, .clean, false, job1, stateWith [] fun c => c.setStore { allocs := [alloc1, { alloc1 with index := 2, base := 1, isSealed := true }], jobs := [job1] }, alloc1, { alloc1 with index := 2, base := 1, isSealed := true }, by dsimp only; decide +kernel⟩,
   ⟨0, 1, .clean, [], false, job1, inJob 0 ([1, 0, 0, 0] ++ le 8 0 ++ le 4 0 ++ le 4 (crc32 [])) (stateWith [] (jobsAre [job1])), alloc1, { alloc1 with index := 2, base := 1 }, by dsimp only; decide +kernel⟩,
   ⟨0, 1, .clean, [], false, job1, stateWith [] (jobsAre [job1]), alloc1, { alloc1 with index := 2, base := 1 }, by dsimp only; decide +kernel⟩,
   ⟨0, 1, .uncorrectable, { job1 with op := .sealTile }, stateWith [] (jobsAre [{ job1 with op := .sealTile }]), alloc1, by dsimp only; decide +kernel⟩,
   ⟨0, 1, .clean, { job1 with op := .sealTile }, stateWith [] (jobsAre [{ job1 with op := .sealTile }]), alloc1, by dsimp only; decide +kernel⟩,
   ⟨0, 1, .clean, { job1 with op := .sealTile }, pinnedTwice, { alloc1 with pin := true }, by dsimp only; decide +kernel⟩,
   ⟨0, 1, .clean, { job1 with op := .sealTile }, inJob 0 smallTile (stateWith [] (jobsAre [{ job1 with op := .sealTile }])), alloc1, by dsimp only; decide +kernel⟩,
   ⟨0, 1, { job1 with twin := true }, stateWith [] (jobsAre [{ job1 with twin := true }]), by dsimp only; decide +kernel⟩,
   ⟨0, 1, .clean, false, twinJob 10, stateWith [] (jobsAre [twinJob 10]), by dsimp only; decide +kernel⟩,
   ⟨0, 1, .clean, [], false, twinJob 0, stateWith [] (jobsAre [twinJob 0]), by dsimp only; decide +kernel⟩,
   ⟨0, 1, .clean, [], false, twinJob 0, stateWith [] (jobsAre ((List.range 256).map (fun i => { job1 with id := i + 2, running := false }) ++ [twinJob 0])), by dsimp only; decide +kernel⟩,
   ⟨0, 1, .clean, true, twinJob 0, stateWith [] (jobsAre [twinJob 0]), by dsimp only; decide +kernel⟩,
   ⟨0, .corrected, stateWith [] (jobsAre (runningJobs 4)), by dsimp only; decide +kernel⟩,
   ⟨0, .clean, stateWith [] (jobsAre (runningJobs 4)), by dsimp only; decide +kernel⟩,
   ⟨0, 0, 0, 0, stateWith [] (jobsAre (runningJobs 4)), by dsimp only; decide +kernel⟩,
   ⟨0, 1, 0, 0, 0, .uncorrectable, inJob 0 smallTile (stateWith [] fun c => let d := sealed c; { d with store := { d.store with fetches := [{ bar := 2, h := 1, sg := 0, b := 0, busy := true }] } }), { bar := 2, h := 1, sg := 0, b := 0, busy := true }, { alloc1 with isSealed := true, tile := true }, by dsimp only; decide +kernel⟩,
   ⟨0, 1, 0, 0, 0, .clean, inJob 0 smallTile (stateWith [] fun c => let d := sealed c; { d with store := { d.store with fetches := [{ bar := 2, h := 1, sg := 0, b := 0, busy := true }] } }), { bar := 2, h := 1, sg := 0, b := 0, busy := true }, { alloc1 with isSealed := true, tile := true }, by dsimp only; decide +kernel⟩⟩

theorem met_SessionsQueuesAndTenants :
    (∃ (frame : List Byte),
      (frameOk frame = false)) ∧
    (∃ (t : Nat) (m : Fin 8) (p : Fin 4) (frame : List Byte) (s : Machine.State),
      let c : Chip := (s.at_ t).chip
      let may : Prop := frameType frame = 1 ∧ frameTenant frame = ↑m ∧ c.get HL_PSTAT_STATE = 2 ∧ bit (c.get QM_TEN_EN) ↑m = true ∧ bit (c.get (QM_GRANT_PORTS ↑m)) ↑p = true ∧ c.session ↑m ↑p = none
      (frameOk frame = true) ∧ (may)) ∧
    (∃ (t : Nat) (m : Fin 8) (p : Fin 4) (addr : Nat) (udp : Nat) (frame : List Byte) (s : Machine.State) (ses : Session),
      let c : Chip := (s.at_ t).chip
      let may : Prop := frameType frame = 1 ∧ frameTenant frame = ↑m ∧ c.get HL_PSTAT_STATE = 2 ∧ bit (c.get QM_TEN_EN) ↑m = true ∧ bit (c.get (QM_GRANT_PORTS ↑m)) ↑p = true ∧ c.session ↑m ↑p = none
      (frameOk frame = true) ∧ (¬may) ∧ (c.session (frameTenant frame) ↑p = some ses) ∧ (ses.addr = addr) ∧ (ses.udp = udp)) ∧
    (∃ (t : Nat) (m : Fin 8) (p : Fin 4) (addr : Nat) (udp : Nat) (frame : List Byte) (s : Machine.State),
      let c : Chip := (s.at_ t).chip
      let may : Prop := frameType frame = 1 ∧ frameTenant frame = ↑m ∧ c.get HL_PSTAT_STATE = 2 ∧ bit (c.get QM_TEN_EN) ↑m = true ∧ bit (c.get (QM_GRANT_PORTS ↑m)) ↑p = true ∧ c.session ↑m ↑p = none
      (frameOk frame = true) ∧ (¬may) ∧ (∀ (ses : Session), c.session (frameTenant frame) ↑p = some ses → ses.addr = addr → ses.udp ≠ udp)) ∧
    (∃ (t : Nat) (p : Fin 4) (addr : Nat) (udp : Nat) (frame : List Byte) (e : Instr),
      (frameOk frame = false) ∧ (e ∈ [Instr.closeSession t p addr udp frame, Instr.descFrame t p addr udp frame, Instr.bulk t p addr udp frame, Instr.resync t p addr udp frame])) ∧
    (∃ (t : Nat) (p : Fin 4) (addr : Nat) (udp : Nat) (frame : List Byte) (ses : Session) (c : Chip) (s : Machine.State),
      (Heard t p addr udp 2 frame ses c s)) ∧
    (∃ (t : Nat) (p : Fin 4) (addr : Nat) (udp : Nat) (frame : List Byte) (ses : Session) (c : Chip) (s : Machine.State) (e : Instr × Nat),
      (e ∈ [(Instr.descFrame t p addr udp frame, 3), (Instr.bulk t p addr udp frame, 6)]) ∧ (Heard t p addr udp e.snd frame ses c s) ∧
        (ses.lost = true)) ∧
    (∃ (t : Nat) (p : Fin 4) (addr : Nat) (udp : Nat) (frame : List Byte) (ses : Session) (c : Chip) (s : Machine.State) (e : Instr × Nat),
      let x : Nat := frameXseq frame
      (e ∈ [(Instr.descFrame t p addr udp frame, 3), (Instr.bulk t p addr udp frame, 6)]) ∧ (Heard t p addr udp e.snd frame ses c s) ∧
        (ses.lost = false) ∧ (x = ses.expect)) ∧
    (∃ (t : Nat) (p : Fin 4) (addr : Nat) (udp : Nat) (frame : List Byte) (ses : Session) (c : Chip) (s : Machine.State) (e : Instr × Nat),
      let x : Nat := frameXseq frame
      let ahead : Prop := (x + 2 ^ 32 - ses.expect) % 2 ^ 32 < 2 ^ 31
      (e ∈ [(Instr.descFrame t p addr udp frame, 3), (Instr.bulk t p addr udp frame, 6)]) ∧ (Heard t p addr udp e.snd frame ses c s) ∧
        (ses.lost = false) ∧ (x ≠ ses.expect) ∧ (ahead)) ∧
    (∃ (t : Nat) (p : Fin 4) (addr : Nat) (udp : Nat) (frame : List Byte) (ses : Session) (c : Chip) (s : Machine.State) (e : Instr × Nat),
      let x : Nat := frameXseq frame
      let ahead : Prop := (x + 2 ^ 32 - ses.expect) % 2 ^ 32 < 2 ^ 31
      (e ∈ [(Instr.descFrame t p addr udp frame, 3), (Instr.bulk t p addr udp frame, 6)]) ∧ (Heard t p addr udp e.snd frame ses c s) ∧
        (ses.lost = false) ∧ (x ≠ ses.expect) ∧ (¬ahead)) ∧
    (∃ (t : Nat) (p : Fin 4) (addr : Nat) (udp : Nat) (frame : List Byte) (ses : Session) (c : Chip) (s : Machine.State),
      (Heard t p addr udp 7 frame ses c s)) ∧
    (∃ (t : Nat) (m : Fin 8) (p : Fin 4) (ses : Session) (s : Machine.State),
      ((s.at_ t).chip.session ↑m ↑p = some ses) ∧ (ses.lastNs + 100000000 ≤ (s.at_ t).chip.ns)) ∧
    (∃ (t : Nat) (m : Fin 8) (p : Fin 4) (ses : Session) (s : Machine.State),
      ((s.at_ t).chip.session ↑m ↑p = some ses) ∧ ((s.at_ t).chip.ns < ses.lastNs + 100000000)) ∧
    (∃ (t : Nat) (p : Fin 4) (v6 : Bool) (target : Nat) (s : Machine.State),
      let c : Chip := (s.at_ t).chip
      let own : Prop := if v6 = true then c.get (HP_CFG_IP6EN ↑p) ≠ 0 ∧ c.get (HP_IP6_ADDR ↑p) = target else c.get (HP_CFG_IP4EN ↑p) ≠ 0 ∧ c.get (HP_IP4_ADDR ↑p) = target
      (own)) ∧
    (∃ (t : Nat) (p : Fin 4) (v6 : Bool) (target : Nat) (s : Machine.State),
      let c : Chip := (s.at_ t).chip
      let own : Prop := if v6 = true then c.get (HP_CFG_IP6EN ↑p) ≠ 0 ∧ c.get (HP_IP6_ADDR ↑p) = target else c.get (HP_CFG_IP4EN ↑p) ≠ 0 ∧ c.get (HP_IP4_ADDR ↑p) = target
      (¬own)) ∧
    (∃ (t : Nat) (m : Fin 8) (q : Fin 64) (pi : BitVec 32) (s : Machine.State),
      let c : Chip := (s.at_ t).chip
      let d : Chip := c.set (TN_QDB_PI ↑m ↑q) pi.toNat
      let first : Nat := (c.queue ↑q).accepted
      let new : Nat := (pi.toNat + 2 ^ 32 - first) % 2 ^ 32
      (c.takesFrom ↑m ↑q = true) ∧ (c.get (QM_QCFG_VIA ↑q) ≠ 0) ∧ (bit (c.get QM_TEN_EN) ↑m = true) ∧ (new ≤ d.credits ↑q)) ∧
    (∃ (t : Nat) (m : Fin 8) (q : Fin 64) (pi : BitVec 32) (s : Machine.State),
      let c : Chip := (s.at_ t).chip
      let d : Chip := c.set (TN_QDB_PI ↑m ↑q) pi.toNat
      let first : Nat := (c.queue ↑q).accepted
      let new : Nat := (pi.toNat + 2 ^ 32 - first) % 2 ^ 32
      (c.takesFrom ↑m ↑q = true) ∧ (c.get (QM_QCFG_VIA ↑q) ≠ 0) ∧ (bit (c.get QM_TEN_EN) ↑m = true) ∧ (d.credits ↑q < new)) ∧
    (∃ (t : Nat) (m : Fin 8) (q : Fin 64) (s : Machine.State),
      let c : Chip := (s.at_ t).chip
      (bit (c.get QM_TEN_EN) ↑m = true) ∧ (c.qTenant ↑q = ↑m)) ∧
    (∃ (t : Nat) (q : Fin 64) (s : Machine.State),
      let c : Chip := (s.at_ t).chip
      ((c.queue ↑q).msixHeld = true)) ∧
    (∃ (t : Nat) (q : Fin 64) (s : Machine.State),
      let c : Chip := (s.at_ t).chip
      ((c.queue ↑q).msixHeld = false)) ∧
    (∃ (t : Nat) (m : Fin 8) (s : Machine.State),
      let c : Chip := (s.at_ t).chip
      (c.holds (↑m) 3 = false)) ∧
    (∃ (t : Nat) (m : Fin 8) (q : Fin 64) (v : BitVec 32) (s : Machine.State),
      let c : Chip := (s.at_ t).chip
      let on : Prop := c.get (QM_QCFG_EN ↑q) ≠ 0
      let set : Prop := bit v.toNat 31 = true
      (c.holds (↑m) 3 = true) ∧ (on) ∧ (set)) ∧
    (∃ (t : Nat) (m : Fin 8) (q : Fin 64) (v : BitVec 32) (s : Machine.State),
      let c : Chip := (s.at_ t).chip
      let on : Prop := c.get (QM_QCFG_EN ↑q) ≠ 0
      let set : Prop := bit v.toNat 31 = true
      (c.holds (↑m) 3 = true) ∧ (on) ∧ (¬set)) ∧
    (∃ (t : Nat) (m : Fin 8) (q : Fin 64) (v : BitVec 32) (s : Machine.State),
      let c : Chip := (s.at_ t).chip
      let on : Prop := c.get (QM_QCFG_EN ↑q) ≠ 0
      let set : Prop := bit v.toNat 31 = true
      (c.holds (↑m) 3 = true) ∧ (¬on) ∧ (¬set)) ∧
    (∃ (t : Nat) (m : Fin 8) (q : Fin 64) (v : BitVec 32) (s : Machine.State),
      let c : Chip := (s.at_ t).chip
      let on : Prop := c.get (QM_QCFG_EN ↑q) ≠ 0
      let set : Prop := bit v.toNat 31 = true
      (c.holds (↑m) 3 = true) ∧ (¬on) ∧ (set) ∧ (c.enableRefused (↑q) v.toNat = true)) ∧
    (∃ (t : Nat) (m : Fin 8) (q : Fin 64) (v : BitVec 32) (s : Machine.State),
      let c : Chip := (s.at_ t).chip
      let on : Prop := c.get (QM_QCFG_EN ↑q) ≠ 0
      let set : Prop := bit v.toNat 31 = true
      (c.holds (↑m) 3 = true) ∧ (¬on) ∧ (set) ∧ (c.enableRefused (↑q) v.toNat = false)) ∧
    (∃ (t : Nat) (m : Fin 8) (v : BitVec 32) (s : Machine.State),
      let c : Chip := (s.at_ t).chip
      let new : Nat := v.toNat % 256 ||| 1
      let off : List Nat := List.filter (fun (n : Nat) => bit (c.get QM_TEN_EN) n && !bit new n) (List.range 8)
      let busy : Prop := ∃ (n : Nat), n ∈ off ∧ ∃ (q : Nat), q < 64 ∧ c.get (QM_QCFG_EN q) ≠ 0 ∧ c.qTenant q = n
      (c.holds (↑m) 3 = true) ∧ (busy)) ∧
    (∃ (t : Nat) (m : Fin 8) (v : BitVec 32) (s : Machine.State),
      let c : Chip := (s.at_ t).chip
      let new : Nat := v.toNat % 256 ||| 1
      let off : List Nat := List.filter (fun (n : Nat) => bit (c.get QM_TEN_EN) n && !bit new n) (List.range 8)
      let busy : Prop := ∃ (n : Nat), n ∈ off ∧ ∃ (q : Nat), q < 64 ∧ c.get (QM_QCFG_EN q) ≠ 0 ∧ c.qTenant q = n
      (c.holds (↑m) 3 = true) ∧ (¬busy)) :=
  ⟨⟨[], by decide +kernel⟩,
   ⟨0, 0, 0, dgram 1 0 0 0, stateWith [(HL_PSTAT_STATE, 2)], by dsimp only; decide +kernel⟩,
   ⟨0, 0, 0, 1, 2, dgram 2 0 0 0 ([]), stateWith [] (inSession ses1), ses1, by dsimp only; decide +kernel⟩,
   ⟨0, 0, 0, 1, 2, dgram 1 0 0 0, stateWith [(HL_PSTAT_STATE, 3)], by dsimp only; decide +kernel⟩,
   ⟨0, 0, 1, 2, [], .closeSession 0 0 1 2 [], by decide +kernel⟩,
   ⟨0, 0, 1, 2, dgram 2 0 0 0 ([]), ses1, heard ses1 (stateWith [] (inSession ses1)), stateWith [] (inSession ses1), by unfold Heard; decide +kernel⟩,
   ⟨0, 0, 1, 2, dgram 3 1 0 1 (zeros 64), { ses1 with lost := true }, heard { ses1 with lost := true } (stateWith [] (inSession { ses1 with lost := true })), stateWith [] (inSession { ses1 with lost := true }), (.descFrame 0 0 1 2 (dgram 3 1 0 1 (zeros 64)), 3), by unfold Heard; decide +kernel⟩,
   ⟨0, 0, 1, 2, dgram 3 1 0 1 (zeros 64), ses1, heard ses1 (stateWith [] (inSession ses1)), stateWith [] (inSession ses1), (.descFrame 0 0 1 2 (dgram 3 1 0 1 (zeros 64)), 3), by dsimp only; unfold Heard; decide +kernel⟩,
   ⟨0, 0, 1, 2, dgram 3 1 0 2 (zeros 64), ses1, heard ses1 (stateWith [] (inSession ses1)), stateWith [] (inSession ses1), (.descFrame 0 0 1 2 (dgram 3 1 0 2 (zeros 64)), 3), by dsimp only; unfold Heard; decide +kernel⟩,
   ⟨0, 0, 1, 2, dgram 3 1 0 0 (zeros 64), ses1, heard ses1 (stateWith [] (inSession ses1)), stateWith [] (inSession ses1), (.descFrame 0 0 1 2 (dgram 3 1 0 0 (zeros 64)), 3), by dsimp only; unfold Heard; decide +kernel⟩,
   ⟨0, 0, 1, 2, dgram 7 0 0 0 ([]), ses1, heard ses1 (stateWith [] (inSession ses1)), stateWith [] (inSession ses1), by unfold Heard; decide +kernel⟩,
   ⟨65536 * 100000000, 0, 0, ses1, stateWith [] (inSession ses1), by decide +kernel⟩,
   ⟨0, 0, 0, ses1, stateWith [] (inSession ses1), by decide +kernel⟩,
   ⟨0, 0, true, 0, stateWith [(HL_PSTAT_STATE, 2)], by dsimp only; decide +kernel⟩,
   ⟨0, 0, false, 8, stateWith [(HP_CFG_IP4EN 0, 1), (HP_IP4_ADDR 0, 7)], by dsimp only; decide +kernel⟩,
   ⟨0, 0, 0, 1, stateWith [(QM_QCFG_VIA 0, 1)], by dsimp only; decide +kernel⟩,
   ⟨0, 0, 0, 100, stateWith [(QM_QCFG_VIA 0, 1)], by dsimp only; decide +kernel⟩,
   ⟨0, 0, 0, stateWith [(QM_QCFG_VIA 0, 1)], by dsimp only; decide +kernel⟩,
   ⟨0, 0, stateWith [] (fun c => c.setQueue 0 { msixHeld := true }), by dsimp only; decide +kernel⟩,
   ⟨0, 0, stateWith [(HL_PSTAT_STATE, 2)], by dsimp only; decide +kernel⟩,
   ⟨0, 1, stateWith [], by dsimp only; decide +kernel⟩,
   ⟨0, 0, 0, 0x80000000, stateWith [], by dsimp only; decide +kernel⟩,
   ⟨0, 0, 0, 0, stateWith [], by dsimp only; decide +kernel⟩,
   ⟨0, 0, 63, 0, stateWith [], by dsimp only; decide +kernel⟩,
   ⟨0, 0, 63, 0x80000000, stateWith [], by dsimp only; decide +kernel⟩,
   ⟨0, 0, 63, 0x84001001, stateWith [], by dsimp only; decide +kernel⟩,
   ⟨0, 0, 1, stateWith [(QM_TEN_EN, 3), (QM_QCFG_TENANT 5, 1), (QM_QCFG_EN 5, 1)], by dsimp only; decide +kernel⟩,
   ⟨0, 0, 0, stateWith [], by dsimp only; decide +kernel⟩⟩

theorem met_TimebaseEvents :
    (∃ (t : Nat) (p : Fin 4) (s : Machine.State),
      let c : Chip := (s.at_ t).chip
      (bit (c.get TB_PTPCFG_GMEN) ↑p = true)) ∧
    (∃ (t : Nat) (p : Fin 4) (s : Machine.State) (peer : Bool) (domain : BitVec 8),
      let c : Chip := (s.at_ t).chip
      let dom : Nat := c.get TB_PTPCFG_DOMAIN
      let mine : Prop := domain.toNat = dom ∧ (peer = true ↔ c.get TB_PTPCFG_DELAY ≠ 0)
      (bit (c.get TB_PTPCFG_GMEN) ↑p = true) ∧ (mine)) ∧
    (∃ (t : Nat) (p : Fin 4) (s : Machine.State) (peer : Bool) (domain : BitVec 8),
      let c : Chip := (s.at_ t).chip
      let dom : Nat := c.get TB_PTPCFG_DOMAIN
      let mine : Prop := domain.toNat = dom ∧ (peer = true ↔ c.get TB_PTPCFG_DELAY ≠ 0)
      (bit (c.get TB_PTPCFG_GMEN) ↑p = true) ∧ (¬mine)) ∧
    (∃ (t : Nat) (p : Fin 4) (s : Machine.State),
      let c : Chip := (s.at_ t).chip
      (bit (c.get TB_PTPCFG_GMEN) ↑p = false)) ∧
    (∃ (t : Nat) (domain : BitVec 8) (s : Machine.State),
      let c : Chip := (s.at_ t).chip
      let mine : Prop := c.get TB_PTPCFG_SLAVE ≠ 0 ∧ domain.toNat = c.get TB_PTPCFG_DOMAIN
      (¬mine)) ∧
    (∃ (t : Nat) (domain : BitVec 8) (scale : Bool) (valid : Bool) (s : Machine.State),
      let c : Chip := (s.at_ t).chip
      let mine : Prop := c.get TB_PTPCFG_SLAVE ≠ 0 ∧ domain.toNat = c.get TB_PTPCFG_DOMAIN
      let source : Prop := scale = true ∧ valid = true ∧ c.get TB_CFG_CSRC = 1
      (mine) ∧ (¬source)) ∧
    (∃ (t : Nat) (domain : BitVec 8) (scale : Bool) (valid : Bool) (leap61 : Bool) (leap59 : Bool) (s : Machine.State),
      let c : Chip := (s.at_ t).chip
      let mine : Prop := c.get TB_PTPCFG_SLAVE ≠ 0 ∧ domain.toNat = c.get TB_PTPCFG_DOMAIN
      let source : Prop := scale = true ∧ valid = true ∧ c.get TB_CFG_CSRC = 1
      let leap : Prop := leap61 = true ∨ leap59 = true
      let armed : Prop := c.get TB_STAT_LEAPARM ≠ 0
      (mine) ∧ (source) ∧ (leap ↔ armed)) ∧
    (∃ (t : Nat) (domain : BitVec 8) (scale : Bool) (valid : Bool) (leap61 : Bool) (leap59 : Bool) (s : Machine.State),
      let c : Chip := (s.at_ t).chip
      let mine : Prop := c.get TB_PTPCFG_SLAVE ≠ 0 ∧ domain.toNat = c.get TB_PTPCFG_DOMAIN
      let source : Prop := scale = true ∧ valid = true ∧ c.get TB_CFG_CSRC = 1
      let leap : Prop := leap61 = true ∨ leap59 = true
      let armed : Prop := c.get TB_STAT_LEAPARM ≠ 0
      (mine) ∧ (source) ∧ (leap) ∧ (¬armed)) ∧
    (∃ (t : Nat) (domain : BitVec 8) (scale : Bool) (valid : Bool) (leap61 : Bool) (leap59 : Bool) (s : Machine.State),
      let c : Chip := (s.at_ t).chip
      let mine : Prop := c.get TB_PTPCFG_SLAVE ≠ 0 ∧ domain.toNat = c.get TB_PTPCFG_DOMAIN
      let source : Prop := scale = true ∧ valid = true ∧ c.get TB_CFG_CSRC = 1
      let leap : Prop := leap61 = true ∨ leap59 = true
      let armed : Prop := c.get TB_STAT_LEAPARM ≠ 0
      (mine) ∧ (source) ∧ (¬leap) ∧ (armed)) ∧
    (∃ (t : Nat) (domain : BitVec 8) (x : PtpDelay) (s : Machine.State) (r : Nat) (t4 : Int),
      let c : Chip := (s.at_ t).chip
      let mine : Prop := c.get TB_PTPCFG_SLAVE ≠ 0 ∧ domain.toNat = c.get TB_PTPCFG_DOMAIN
      let source : Prop := c.get TB_CFG_CSRC = 1 ∧ c.time.announceOk = true
      (mine) ∧ (x = PtpDelay.request r t4) ∧ (c.get TB_PTPCFG_DELAY = 0) ∧ (source)) ∧
    (∃ (t : Nat) (domain : BitVec 8) (x : PtpDelay) (s : Machine.State) (r : Nat) (t4 : Int),
      let c : Chip := (s.at_ t).chip
      let mine : Prop := c.get TB_PTPCFG_SLAVE ≠ 0 ∧ domain.toNat = c.get TB_PTPCFG_DOMAIN
      let source : Prop := c.get TB_CFG_CSRC = 1 ∧ c.time.announceOk = true
      (mine) ∧ (x = PtpDelay.request r t4) ∧ (c.get TB_PTPCFG_DELAY = 0) ∧ (¬source)) ∧
    (∃ (t : Nat) (domain : BitVec 8) (x : PtpDelay) (s : Machine.State) (r : Nat) (back : Nat) (turn : Int),
      let c : Chip := (s.at_ t).chip
      let mine : Prop := c.get TB_PTPCFG_SLAVE ≠ 0 ∧ domain.toNat = c.get TB_PTPCFG_DOMAIN
      let source : Prop := c.get TB_CFG_CSRC = 1 ∧ c.time.announceOk = true
      (mine) ∧ (x = PtpDelay.peer r back turn) ∧ (c.get TB_PTPCFG_DELAY ≠ 0) ∧ (source)) ∧
    (∃ (t : Nat) (domain : BitVec 8) (x : PtpDelay) (s : Machine.State) (r : Nat) (back : Nat) (turn : Int),
      let c : Chip := (s.at_ t).chip
      let mine : Prop := c.get TB_PTPCFG_SLAVE ≠ 0 ∧ domain.toNat = c.get TB_PTPCFG_DOMAIN
      let source : Prop := c.get TB_CFG_CSRC = 1 ∧ c.time.announceOk = true
      (mine) ∧ (x = PtpDelay.peer r back turn) ∧ (c.get TB_PTPCFG_DELAY ≠ 0) ∧ (¬source)) ∧
    (∃ (t : Nat) (domain : BitVec 8) (x : PtpDelay) (s : Machine.State) (r : Nat) (t4 : Int),
      let c : Chip := (s.at_ t).chip
      let mine : Prop := c.get TB_PTPCFG_SLAVE ≠ 0 ∧ domain.toNat = c.get TB_PTPCFG_DOMAIN
      (mine) ∧ (x = PtpDelay.request r t4) ∧ (c.get TB_PTPCFG_DELAY ≠ 0)) ∧
    (∃ (t : Nat) (domain : BitVec 8) (x : PtpDelay) (s : Machine.State) (r : Nat) (back : Nat) (turn : Int),
      let c : Chip := (s.at_ t).chip
      let mine : Prop := c.get TB_PTPCFG_SLAVE ≠ 0 ∧ domain.toNat = c.get TB_PTPCFG_DOMAIN
      (mine) ∧ (x = PtpDelay.peer r back turn) ∧ (c.get TB_PTPCFG_DELAY = 0)) ∧
    (∃ (t : Nat) (a : Nat) (iv : Nat) (s : Machine.State),
      let c : Chip := (s.at_ t).chip
      let lost : Prop := a + 3 * iv ≤ c.ns ∧ c.get TB_CFG_CSRC = 1
      (c.time.announce = some (a, iv)) ∧ (lost)) ∧
    (∃ (t : Nat) (a : Nat) (iv : Nat) (s : Machine.State),
      let c : Chip := (s.at_ t).chip
      let lost : Prop := a + 3 * iv ≤ c.ns ∧ c.get TB_CFG_CSRC = 1
      (c.time.announce = some (a, iv)) ∧ (¬lost)) ∧
    (∃ (t : Nat) (s : Machine.State),
      let c : Chip := (s.at_ t).chip
      let high : Bool := decide ((c.ns + c.get TB_GMOFS_GMOFS) % 2 ^ 64 % 1000000000 < 100000000)
      (high = c.time.ppsHigh)) ∧
    (∃ (t : Nat) (s : Machine.State),
      let c : Chip := (s.at_ t).chip
      let high : Bool := decide ((c.ns + c.get TB_GMOFS_GMOFS) % 2 ^ 64 % 1000000000 < 100000000)
      (high ≠ c.time.ppsHigh)) ∧
    (∃ (t : Nat) (s : Machine.State),
      let c : Chip := (s.at_ t).chip
      (c.get TB_CFG_CSRC = 2)) ∧
    (∃ (t : Nat) (s : Machine.State),
      let c : Chip := (s.at_ t).chip
      (c.get TB_CFG_CSRC ≠ 2)) ∧
    (∃ (t : Nat) (s : Machine.State),
      let c : Chip := (s.at_ t).chip
      let lost : Prop := c.time.lastPps.getD 0 + 1100000000 ≤ c.ns ∧ c.get TB_CFG_CSRC = 2 ∧ c.time.ppsMissed = false
      (lost)) ∧
    (∃ (t : Nat) (s : Machine.State),
      let c : Chip := (s.at_ t).chip
      let lost : Prop := c.time.lastPps.getD 0 + 1100000000 ≤ c.ns ∧ c.get TB_CFG_CSRC = 2 ∧ c.time.ppsMissed = false
      (¬lost)) ∧
    (∃ (t : Nat) (n : Fin 16) (s : Machine.State),
      let c : Chip := (s.at_ t).chip
      let k : Nat := FMap.get 0 c.time.nextK ↑n
      let due : Nat := c.get (TB_TMT_T ↑n) + if c.get (TB_TMCFG_MODE ↑n) ≠ 0 then k * c.get (TB_TMPER_PER ↑n) else 0
      let fires : Prop := c.get (TB_TMCFG_EN ↑n) ≠ 0 ∧ (c.get (TB_TMCFG_MODE ↑n) ≠ 0 ∨ k = 0) ∧ due ≤ c.ns
      (¬fires)) ∧
    (∃ (t : Nat) (n : Fin 16) (s : Machine.State),
      let c : Chip := (s.at_ t).chip
      let k : Nat := FMap.get 0 c.time.nextK ↑n
      let due : Nat := c.get (TB_TMT_T ↑n) + if c.get (TB_TMCFG_MODE ↑n) ≠ 0 then k * c.get (TB_TMPER_PER ↑n) else 0
      let fires : Prop := c.get (TB_TMCFG_EN ↑n) ≠ 0 ∧ (c.get (TB_TMCFG_MODE ↑n) ≠ 0 ∨ k = 0) ∧ due ≤ c.ns
      let late : Bool := FMap.get false c.time.lateArmed ↑n
      (fires) ∧ (late = false)) ∧
    (∃ (t : Nat) (n : Fin 16) (s : Machine.State),
      let c : Chip := (s.at_ t).chip
      let k : Nat := FMap.get 0 c.time.nextK ↑n
      let due : Nat := c.get (TB_TMT_T ↑n) + if c.get (TB_TMCFG_MODE ↑n) ≠ 0 then k * c.get (TB_TMPER_PER ↑n) else 0
      let fires : Prop := c.get (TB_TMCFG_EN ↑n) ≠ 0 ∧ (c.get (TB_TMCFG_MODE ↑n) ≠ 0 ∨ k = 0) ∧ due ≤ c.ns
      let late : Bool := FMap.get false c.time.lateArmed ↑n
      (fires) ∧ (late = true)) ∧
    (∃ (t : Nat) (g : Fin 8) (n : Nat) (since : Nat) (s : Machine.State),
      let c : Chip := (s.at_ t).chip
      (FMap.get none c.time.pulse ↑g = some (n, since)) ∧ (since + c.get (TB_TMWID_WID n) ≤ c.ns)) ∧
    (∃ (t : Nat) (g : Fin 8) (n : Nat) (since : Nat) (s : Machine.State),
      let c : Chip := (s.at_ t).chip
      (FMap.get none c.time.pulse ↑g = some (n, since)) ∧ (c.ns < since + c.get (TB_TMWID_WID n))) ∧
    (∃ (t : Nat) (mid : Int) (s : Machine.State),
      let c : Chip := (s.at_ t).chip
      (c.time.leapMid = some mid) ∧ (c.civil < mid)) ∧
    (∃ (t : Nat) (mid : Int) (s : Machine.State),
      let c : Chip := (s.at_ t).chip
      let runs : Prop := c.role = 0 ∨ c.role = 1
      (c.time.leapMid = some mid) ∧ (mid ≤ c.civil) ∧ (¬runs)) ∧
    (∃ (t : Nat) (mid : Int) (s : Machine.State) (delta : Int) (done : Int),
      let c : Chip := (s.at_ t).chip
      let runs : Prop := c.role = 0 ∨ c.role = 1
      (c.time.leapMid = some mid) ∧ (mid ≤ c.civil) ∧ (runs) ∧ (c.time.smear = some (delta, done))) ∧
    (∃ (t : Nat) (mid : Int) (s : Machine.State),
      let c : Chip := (s.at_ t).chip
      let runs : Prop := c.role = 0 ∨ c.role = 1
      (c.time.leapMid = some mid) ∧ (mid ≤ c.civil) ∧ (runs) ∧ (c.time.smear = none) ∧ (c.get TB_LEAP_DEL ≠ 0)) ∧
    (∃ (t : Nat) (mid : Int) (s : Machine.State),
      let c : Chip := (s.at_ t).chip
      let runs : Prop := c.role = 0 ∨ c.role = 1
      (c.time.leapMid = some mid) ∧ (mid ≤ c.civil) ∧ (runs) ∧ (c.time.smear = none) ∧ (c.get TB_LEAP_DEL = 0)) :=
  ⟨⟨0, 0, stateWith [(TB_PTPCFG_GMEN, 1), (TB_PTPCFG_DOMAIN, 0), (TB_PTPCFG_DELAY, 0)], by dsimp only; decide +kernel⟩,
   ⟨0, 0, stateWith [(TB_PTPCFG_GMEN, 1), (TB_PTPCFG_DOMAIN, 0), (TB_PTPCFG_DELAY, 0)], false, 0, by dsimp only; decide +kernel⟩,
   ⟨0, 0, stateWith [(TB_PTPCFG_GMEN, 1), (TB_PTPCFG_DOMAIN, 0), (TB_PTPCFG_DELAY, 0)], true, 0, by dsimp only; decide +kernel⟩,
   ⟨0, 0, stateWith [], by dsimp only; decide +kernel⟩,
   ⟨0, 0, stateWith [], by dsimp only; decide +kernel⟩,
   ⟨0, 0, true, true, stateWith [(TB_PTPCFG_SLAVE, 1), (TB_PTPCFG_DOMAIN, 0)], by dsimp only; decide +kernel⟩,
   ⟨0, 0, true, true, true, false, stateWith [(TB_PTPCFG_SLAVE, 1), (TB_PTPCFG_DOMAIN, 0), (TB_CFG_CSRC, 1), (TB_STAT_LEAPARM, 1)], by dsimp only; decide +kernel⟩,
   ⟨0, 0, true, true, true, false, stateWith [(TB_PTPCFG_SLAVE, 1), (TB_PTPCFG_DOMAIN, 0), (TB_CFG_CSRC, 1)], by dsimp only; decide +kernel⟩,
   ⟨0, 0, true, true, false, false, stateWith [(TB_PTPCFG_SLAVE, 1), (TB_PTPCFG_DOMAIN, 0), (TB_CFG_CSRC, 1), (TB_STAT_LEAPARM, 1)], by dsimp only; decide +kernel⟩,
   ⟨0, 0, .request 0 9, stateWith [(TB_PTPCFG_SLAVE, 1), (TB_PTPCFG_DOMAIN, 0), (TB_PTPCFG_DELAY, 0), (TB_CFG_CSRC, 1)] (fun c => { c with time := { c.time with announceOk := true } }), 0, 9, by dsimp only; decide +kernel⟩,
   ⟨0, 0, .request 0 9, stateWith [(TB_PTPCFG_SLAVE, 1), (TB_PTPCFG_DOMAIN, 0), (TB_PTPCFG_DELAY, 0)], 0, 9, by dsimp only; decide +kernel⟩,
   ⟨0, 0, .peer 0 0 0, stateWith [(TB_PTPCFG_SLAVE, 1), (TB_PTPCFG_DOMAIN, 0), (TB_PTPCFG_DELAY, 1), (TB_CFG_CSRC, 1)] (fun c => { c with time := { c.time with announceOk := true } }), 0, 0, 0, by dsimp only; decide +kernel⟩,
   ⟨0, 0, .peer 0 0 0, stateWith [(TB_PTPCFG_SLAVE, 1), (TB_PTPCFG_DOMAIN, 0), (TB_PTPCFG_DELAY, 1)], 0, 0, 0, by dsimp only; decide +kernel⟩,
   ⟨0, 0, .request 0 9, stateWith [(TB_PTPCFG_SLAVE, 1), (TB_PTPCFG_DOMAIN, 0), (TB_PTPCFG_DELAY, 1)], 0, 9, by dsimp only; decide +kernel⟩,
   ⟨0, 0, .peer 0 0 0, stateWith [(TB_PTPCFG_SLAVE, 1), (TB_PTPCFG_DOMAIN, 0), (TB_PTPCFG_DELAY, 0)], 0, 0, 0, by dsimp only; decide +kernel⟩,
   ⟨65536 * 3, 0, 1, stateWith [(TB_CFG_CSRC, 1)] (fun c => { c with time := { c.time with announce := some (0, 1) } }), by dsimp only; decide +kernel⟩,
   ⟨0, 0, 1, stateWith [(TB_CFG_CSRC, 1)] (fun c => { c with time := { c.time with announce := some (0, 1) } }), by dsimp only; decide +kernel⟩,
   ⟨0, stateWith [] (fun c => { c with time := { c.time with ppsHigh := true } }), by dsimp only; decide +kernel⟩,
   ⟨0, stateWith [], by dsimp only; decide +kernel⟩,
   ⟨0, stateWith [(TB_CFG_CSRC, 2)] (fun c => { c with time := { c.time with lastPps := some 0 } }), by dsimp only; decide +kernel⟩,
   ⟨0, stateWith [], by dsimp only; decide +kernel⟩,
   ⟨65536 * 1100000000, stateWith [(TB_CFG_CSRC, 2)] (fun c => { c with time := { c.time with lastPps := some 0 } }), by dsimp only; decide +kernel⟩,
   ⟨0, stateWith [], by dsimp only; decide +kernel⟩,
   ⟨0, 0, stateWith [], by dsimp only; decide +kernel⟩,
   ⟨0, 0, stateWith [(TB_TMCFG_EN 0, 1)], by dsimp only; decide +kernel⟩,
   ⟨0, 0, stateWith [(TB_TMCFG_EN 0, 1)] (fun c => { c with time := { c.time with lateArmed := [(0, true)] } }), by dsimp only; decide +kernel⟩,
   ⟨0, 0, 0, 0, stateWith [(TB_TMWID_WID 0, 0)] (fun c => { c with time := { c.time with pulse := [(0, some (0, 0))] } }), by dsimp only; decide +kernel⟩,
   ⟨0, 0, 0, 0, stateWith [(TB_TMWID_WID 0, 1)] (fun c => { c with time := { c.time with pulse := [(0, some (0, 0))] } }), by dsimp only; decide +kernel⟩,
   ⟨0, 5, stateWith [] (fun c => { c with time := { c.time with leapMid := some 5 } }), by dsimp only; decide +kernel⟩,
   ⟨0, 0, stateWith [(TW_STAT_ROLE, 2)] (fun c => { c with time := { c.time with leapMid := some 0 } }), by dsimp only; decide +kernel⟩,
   ⟨0, 0, stateWith [] (fun c => { c with time := { c.time with leapMid := some 0, smear := some (5, 4) } }), 5, 5, by dsimp only; decide +kernel⟩,
   ⟨0, 0, stateWith [(TB_LEAP_DEL, 1)] (fun c => { c with time := { c.time with leapMid := some 0 } }), by dsimp only; decide +kernel⟩,
   ⟨0, 0, stateWith [] (fun c => { c with time := { c.time with leapMid := some 0 } }), by dsimp only; decide +kernel⟩⟩

theorem met_WebMotionEvents :
    (∃ (t : Nat) (n : Fin 4) (a : Bool) (b : Bool) (s : Machine.State),
      let c : Chip := (s.at_ t).chip
      let old : Nat := phaseOf (c.enc ↑n).a (c.enc ↑n).b
      let new : Nat := phaseOf a b
      let on : Prop := c.get (WM_ECFG_EN ↑n) ≠ 0
      (¬on ∨ old = new)) ∧
    (∃ (t : Nat) (n : Fin 4) (a : Bool) (b : Bool) (s : Machine.State),
      let c : Chip := (s.at_ t).chip
      let old : Nat := phaseOf (c.enc ↑n).a (c.enc ↑n).b
      let new : Nat := phaseOf a b
      let on : Prop := c.get (WM_ECFG_EN ↑n) ≠ 0
      (on) ∧ (new = (old + 1) % 4)) ∧
    (∃ (t : Nat) (n : Fin 4) (a : Bool) (b : Bool) (s : Machine.State),
      let c : Chip := (s.at_ t).chip
      let old : Nat := phaseOf (c.enc ↑n).a (c.enc ↑n).b
      let new : Nat := phaseOf a b
      let on : Prop := c.get (WM_ECFG_EN ↑n) ≠ 0
      (on) ∧ (old = (new + 1) % 4)) ∧
    (∃ (t : Nat) (n : Fin 4) (a : Bool) (b : Bool) (s : Machine.State),
      let c : Chip := (s.at_ t).chip
      let old : Nat := phaseOf (c.enc ↑n).a (c.enc ↑n).b
      let new : Nat := phaseOf a b
      let on : Prop := c.get (WM_ECFG_EN ↑n) ≠ 0
      (on) ∧ (new = (old + 2) % 4)) ∧
    (∃ (t : Nat) (n : Fin 4) (s : Machine.State),
      let c : Chip := (s.at_ t).chip
      let mode : Nat := c.get (WM_ECFG_ZMODE ↑n)
      let on : Prop := c.get (WM_ECFG_EN ↑n) ≠ 0 ∧ mode ≠ 0
      (¬on)) ∧
    (∃ (t : Nat) (n : Fin 4) (s : Machine.State),
      let c : Chip := (s.at_ t).chip
      let mode : Nat := c.get (WM_ECFG_ZMODE ↑n)
      let on : Prop := c.get (WM_ECFG_EN ↑n) ≠ 0 ∧ mode ≠ 0
      (on) ∧ (mode = 1)) ∧
    (∃ (t : Nat) (n : Fin 4) (s : Machine.State),
      let c : Chip := (s.at_ t).chip
      let mode : Nat := c.get (WM_ECFG_ZMODE ↑n)
      let on : Prop := c.get (WM_ECFG_EN ↑n) ≠ 0 ∧ mode ≠ 0
      let homes : Prop := mode = 3 ∧ (c.enc ↑n).homed = false
      (on) ∧ (homes)) ∧
    (∃ (t : Nat) (n : Fin 4) (s : Machine.State),
      let c : Chip := (s.at_ t).chip
      let mode : Nat := c.get (WM_ECFG_ZMODE ↑n)
      let on : Prop := c.get (WM_ECFG_EN ↑n) ≠ 0 ∧ mode ≠ 0
      let pos : Nat := c.get (WM_POS_POS ↑n)
      let ref : Nat := c.get (WM_ZREF_ZREF ↑n)
      let k : Int := s.deltaNow t ↑n
      let new : Nat := if k = 0 then pos else stepPos pos (c.get (WM_CPR_CPR ↑n)) k
      let homes : Prop := mode = 3 ∧ (c.enc ↑n).homed = false
      let far : Prop := c.get (WM_VCO_ZTOL ↑n) < circleDist new ref (c.get (WM_CPR_CPR ↑n))
      (on) ∧ (mode ≠ 1) ∧ (¬homes) ∧ (far)) ∧
    (∃ (t : Nat) (n : Fin 4) (s : Machine.State),
      let c : Chip := (s.at_ t).chip
      let mode : Nat := c.get (WM_ECFG_ZMODE ↑n)
      let on : Prop := c.get (WM_ECFG_EN ↑n) ≠ 0 ∧ mode ≠ 0
      let pos : Nat := c.get (WM_POS_POS ↑n)
      let ref : Nat := c.get (WM_ZREF_ZREF ↑n)
      let k : Int := s.deltaNow t ↑n
      let new : Nat := if k = 0 then pos else stepPos pos (c.get (WM_CPR_CPR ↑n)) k
      let homes : Prop := mode = 3 ∧ (c.enc ↑n).homed = false
      let far : Prop := c.get (WM_VCO_ZTOL ↑n) < circleDist new ref (c.get (WM_CPR_CPR ↑n))
      (on) ∧ (mode ≠ 1) ∧ (¬homes) ∧ (¬far)) ∧
    (∃ (t : Nat) (n : Fin 4) (s : Machine.State),
      let c : Chip := (s.at_ t).chip
      let on : Prop := c.get (WM_ECFG_EN ↑n) ≠ 0
      let edge : Prop := ∃ (k : Option Int), s.countNow t ↑n = some k ∧ k ≠ some 0
      let stops : Prop := ¬edge ∧ on ∧ (c.get (WM_EST_STILL ↑n) = 0 ∨ (c.enc ↑n).moved = true) ∧
        (c.enc ↑n).seen + c.get (WM_ECFG_TSTILL ↑n) * 100 * dtMicro ≤ c.dt
      (stops)) ∧
    (∃ (t : Nat) (n : Fin 4) (s : Machine.State),
      let c : Chip := (s.at_ t).chip
      let on : Prop := c.get (WM_ECFG_EN ↑n) ≠ 0
      let edge : Prop := ∃ (k : Option Int), s.countNow t ↑n = some k ∧ k ≠ some 0
      let stops : Prop := ¬edge ∧ on ∧ (c.get (WM_EST_STILL ↑n) = 0 ∨ (c.enc ↑n).moved = true) ∧
        (c.enc ↑n).seen + c.get (WM_ECFG_TSTILL ↑n) * 100 * dtMicro ≤ c.dt
      (¬stops)) ∧
    (∃ (t : Nat) (n : Fin 4) (s : Machine.State),
      let c : Chip := (s.at_ t).chip
      let on : Prop := c.get (WM_ECFG_EN ↑n) ≠ 0
      let g : Nat := c.get WM_CFG_GATE * dtMicro
      let ends : Prop := on ∧ c.get (WM_EST_METHOD ↑n) ≠ 0 ∧ (c.enc ↑n).gate + g ≤ c.dt
      (¬ends)) ∧
    (∃ (t : Nat) (n : Fin 4) (s : Machine.State) (x : Int × Nat),
      let c : Chip := (s.at_ t).chip
      let on : Prop := c.get (WM_ECFG_EN ↑n) ≠ 0
      let g : Nat := c.get WM_CFG_GATE * dtMicro
      let ends : Prop := on ∧ c.get (WM_EST_METHOD ↑n) ≠ 0 ∧ (c.enc ↑n).gate + g ≤ c.dt
      (ends) ∧ ((c.enc ↑n).gateRef = some x) ∧ ((c.enc ↑n).ref = some x)) ∧
    (∃ (t : Nat) (n : Fin 4) (s : Machine.State) (x0 : Int) (t0 : Nat) (x1 : Int) (t1 : Nat),
      let c : Chip := (s.at_ t).chip
      let on : Prop := c.get (WM_ECFG_EN ↑n) ≠ 0
      let g : Nat := c.get WM_CFG_GATE * dtMicro
      let ends : Prop := on ∧ c.get (WM_EST_METHOD ↑n) ≠ 0 ∧ (c.enc ↑n).gate + g ≤ c.dt
      (ends) ∧ ((c.enc ↑n).gateRef = some (x0, t0)) ∧ ((c.enc ↑n).ref = some (x1, t1)) ∧ ((x0, t0) ≠ (x1, t1))) ∧
    (∃ (t : Nat) (s : Machine.State),
      let c : Chip := (s.at_ t).chip
      (c.ns % 1000 = 0)) ∧
    (∃ (t : Nat) (s : Machine.State),
      let c : Chip := (s.at_ t).chip
      (c.ns % 1000 ≠ 0)) ∧
    (∃ (t : Nat) (m : Fin 2) (s : Machine.State),
      let c : Chip := (s.at_ t).chip
      let free : Prop := c.get (WM_SCFG_EN ↑m) ≠ 0 ∧ (c.ssi ↑m).frame = none
      let due : Prop := ∀ (l : Nat), (c.ssi ↑m).last = some l → l + c.ssiPeriod ↑m ≤ c.dt
      let own : Prop := c.role = 0 ∨ c.role = 1
      (free) ∧ (own) ∧ (due)) ∧
    (∃ (t : Nat) (m : Fin 2) (s : Machine.State),
      let c : Chip := (s.at_ t).chip
      let free : Prop := c.get (WM_SCFG_EN ↑m) ≠ 0 ∧ (c.ssi ↑m).frame = none
      let due : Prop := ∀ (l : Nat), (c.ssi ↑m).last = some l → l + c.ssiPeriod ↑m ≤ c.dt
      let own : Prop := c.role = 0 ∨ c.role = 1
      (¬free ∨ ¬own ∨ ¬due)) ∧
    (∃ (t : Nat) (m : Fin 2) (s : Machine.State),
      let c : Chip := (s.at_ t).chip
      let free : Prop := c.get (WM_SCFG_EN ↑m) ≠ 0 ∧ (c.ssi ↑m).frame = none
      let own : Prop := c.role = 0 ∨ c.role = 1
      (free) ∧ (¬own)) ∧
    (∃ (t : Nat) (m : Fin 2) (s : Machine.State),
      let c : Chip := (s.at_ t).chip
      let free : Prop := c.get (WM_SCFG_EN ↑m) ≠ 0 ∧ (c.ssi ↑m).frame = none
      let own : Prop := c.role = 0 ∨ c.role = 1
      (¬free ∨ own)) ∧
    (∃ (t : Nat) (m : Fin 2) (at' : Nat) (low : Bool) (s : Machine.State),
      let c : Chip := (s.at_ t).chip
      ((c.ssi ↑m).frame = some (at', low)) ∧ (c.dt < at' + c.ssiTime ↑m)) ∧
    (∃ (t : Nat) (m : Fin 2) (w : BitVec 32) (at' : Nat) (low : Bool) (s : Machine.State),
      let c : Chip := (s.at_ t).chip
      let n : Nat := c.get (WM_SCFG_NBITS ↑m)
      let eb : Nat := c.get (WM_SCFG_EBIT ↑m)
      let v : Nat := w.toNat % 2 ^ n
      let bad : Prop := eb ≠ 0 ∧ v % 2 = 1
      ((c.ssi ↑m).frame = some (at', low)) ∧ (at' + c.ssiTime ↑m ≤ c.dt) ∧ (low = false) ∧ (¬bad)) ∧
    (∃ (t : Nat) (m : Fin 2) (w : BitVec 32) (at' : Nat) (low : Bool) (s : Machine.State),
      let c : Chip := (s.at_ t).chip
      let n : Nat := c.get (WM_SCFG_NBITS ↑m)
      let eb : Nat := c.get (WM_SCFG_EBIT ↑m)
      let v : Nat := w.toNat % 2 ^ n
      let bad : Prop := eb ≠ 0 ∧ v % 2 = 1
      ((c.ssi ↑m).frame = some (at', low)) ∧ (at' + c.ssiTime ↑m ≤ c.dt) ∧ (low = true) ∧ (¬bad)) ∧
    (∃ (t : Nat) (m : Fin 2) (w : BitVec 32) (at' : Nat) (low : Bool) (s : Machine.State),
      let c : Chip := (s.at_ t).chip
      let n : Nat := c.get (WM_SCFG_NBITS ↑m)
      let eb : Nat := c.get (WM_SCFG_EBIT ↑m)
      let v : Nat := w.toNat % 2 ^ n
      let bad : Prop := eb ≠ 0 ∧ v % 2 = 1
      ((c.ssi ↑m).frame = some (at', low)) ∧ (at' + c.ssiTime ↑m ≤ c.dt) ∧ (low = false) ∧ (bad)) ∧
    (∃ (t : Nat) (p : Fin 8) (rise : Bool) (s : Machine.State),
      let c : Chip := (s.at_ t).chip
      let on : Prop := c.get (WM_PCFG_EN ↑p) ≠ 0 ∧ (c.get (WM_PCFG_EDGE ↑p) = 2 ∨ (c.get (WM_PCFG_EDGE ↑p) = 0 ↔ rise = true))
      (¬on)) ∧
    (∃ (t : Nat) (p : Fin 8) (rise : Bool) (s : Machine.State),
      let c : Chip := (s.at_ t).chip
      let on : Prop := c.get (WM_PCFG_EN ↑p) ≠ 0 ∧ (c.get (WM_PCFG_EDGE ↑p) = 2 ∨ (c.get (WM_PCFG_EDGE ↑p) = 0 ↔ rise = true))
      let x : Probe := c.probe ↑p
      let room : Prop := x.store.length < 16 ∨ s.popNow t p = true
      (on) ∧ (¬room)) ∧
    (∃ (t : Nat) (p : Fin 8) (rise : Bool) (s : Machine.State),
      let c : Chip := (s.at_ t).chip
      let on : Prop := c.get (WM_PCFG_EN ↑p) ≠ 0 ∧ (c.get (WM_PCFG_EDGE ↑p) = 2 ∨ (c.get (WM_PCFG_EDGE ↑p) = 0 ↔ rise = true))
      let x : Probe := c.probe ↑p
      let room : Prop := x.store.length < 16 ∨ s.popNow t p = true
      (on) ∧ (room) ∧ (c.get (WM_PCFG_TMASK ↑p) = 0)) ∧
    (∃ (t : Nat) (p : Fin 8) (rise : Bool) (s : Machine.State),
      let c : Chip := (s.at_ t).chip
      let on : Prop := c.get (WM_PCFG_EN ↑p) ≠ 0 ∧ (c.get (WM_PCFG_EDGE ↑p) = 2 ∨ (c.get (WM_PCFG_EDGE ↑p) = 0 ↔ rise = true))
      let x : Probe := c.probe ↑p
      let room : Prop := x.store.length < 16 ∨ s.popNow t p = true
      (on) ∧ (room) ∧ (c.get (WM_PCFG_TMASK ↑p) ≠ 0)) ∧
    (∃ (t : Nat) (m : Fin 8) (p : Fin 8) (s : Machine.State),
      let c : Chip := (s.at_ t).chip
      (c.mayWrite (↑m) Blk.wm 0 (768 + 32 * ↑p) = true) ∧ (c.reachable Blk.wm 0 = true)) ∧
    (∃ (t : Nat) (m : Fin 8) (s : Machine.State),
      let c : Chip := (s.at_ t).chip
      (c.mayWrite (↑m) Blk.cd 0 68 = true) ∧ (c.reachable Blk.cd 0 = true)) :=
  ⟨⟨0, 0, true, true, stateWith [], by dsimp only; decide +kernel⟩,
   ⟨0, 0, true, false, stateWith [(WM_ECFG_EN 0, 1)], by dsimp only; decide +kernel⟩,
   ⟨0, 0, false, true, stateWith [(WM_ECFG_EN 0, 1)], by dsimp only; decide +kernel⟩,
   ⟨0, 0, true, true, stateWith [(WM_ECFG_EN 0, 1)], by dsimp only; decide +kernel⟩,
   ⟨0, 0, stateWith [], by dsimp only; decide +kernel⟩,
   ⟨0, 0, stateWith [(WM_ECFG_EN 0, 1), (WM_ECFG_ZMODE 0, 1)], by dsimp only; decide +kernel⟩,
   ⟨0, 0, stateWith [(WM_ECFG_EN 0, 1), (WM_ECFG_ZMODE 0, 3)], by dsimp only; decide +kernel⟩,
   ⟨0, 0, stateWith [(WM_ECFG_EN 0, 1), (WM_ECFG_ZMODE 0, 2), (WM_POS_POS 0, 9), (WM_VCO_ZTOL 0, 0), (WM_CPR_CPR 0, 100)], by dsimp only; decide +kernel⟩,
   ⟨0, 0, stateWith [(WM_ECFG_EN 0, 1), (WM_ECFG_ZMODE 0, 2)], by dsimp only; decide +kernel⟩,
   ⟨65536 * 200000000, 0, stateWith [(WM_ECFG_EN 0, 1), (WM_EST_STILL 0, 0)], by dsimp only; decide +kernel⟩,
   ⟨0, 0, stateWith [], by dsimp only; decide +kernel⟩,
   ⟨0, 0, stateWith [], by dsimp only; decide +kernel⟩,
   ⟨65536 * 200000000, 0, stateWith [(WM_ECFG_EN 0, 1), (WM_EST_METHOD 0, 1)] (fun c => c.setEnc 0 { gateRef := some (4, 5), ref := some (4, 5) }), (4, 5), by dsimp only; decide +kernel⟩,
   ⟨65536 * 200000000, 0, stateWith [(WM_ECFG_EN 0, 1), (WM_EST_METHOD 0, 1)] (fun c => c.setEnc 0 { gateRef := some (4, 5), ref := some (6, 7) }), 4, 5, 6, 7, by dsimp only; decide +kernel⟩,
   ⟨0, stateWith [], by dsimp only; decide +kernel⟩,
   ⟨65536 * 10, stateWith [], by dsimp only; decide +kernel⟩,
   ⟨0, 0, stateWith [(WM_SCFG_EN 0, 1)], by dsimp only; decide +kernel⟩,
   ⟨0, 0, stateWith [], by dsimp only; decide +kernel⟩,
   ⟨0, 0, stateWith [(WM_SCFG_EN 0, 1), (TW_STAT_ROLE, 2)], by dsimp only; decide +kernel⟩,
   ⟨0, 0, stateWith [], by dsimp only; decide +kernel⟩,
   ⟨0, 0, 0, false, stateWith [] (fun c => c.setSsi 0 { frame := some (0, false) }), by dsimp only; decide +kernel⟩,
   ⟨65536 * 1000000000, 0, 0, 0, false, stateWith [] (fun c => c.setSsi 0 { frame := some (0, false) }), by dsimp only; decide +kernel⟩,
   ⟨65536 * 1000000000, 0, 0, 0, true, stateWith [] (fun c => c.setSsi 0 { frame := some (0, true) }), by dsimp only; decide +kernel⟩,
   ⟨65536 * 1000000000, 0, 1, 0, false, stateWith [(WM_SCFG_EBIT 0, 1)] (fun c => c.setSsi 0 { frame := some (0, false) }), by dsimp only; decide +kernel⟩,
   ⟨0, 0, true, stateWith [], by dsimp only; decide +kernel⟩,
   ⟨0, 0, true, stateWith [(WM_PCFG_EN 0, 1)] (fun c => c.setProbe 0 { store := (List.range 16).map fun i => (i, 0, 0) }), by dsimp only; decide +kernel⟩,
   ⟨0, 0, true, stateWith [(WM_PCFG_EN 0, 1)], by dsimp only; decide +kernel⟩,
   ⟨0, 0, true, stateWith [(WM_PCFG_EN 0, 1), (WM_PCFG_TMASK 0, 1)], by dsimp only; decide +kernel⟩,
   ⟨0, 0, 0, stateWith [], by dsimp only; decide +kernel⟩,
   ⟨0, 0, stateWith [], by dsimp only; decide +kernel⟩⟩

theorem met_FireStampEvents :
    (∃ (t : Nat) (s : Machine.State),
      let c : Chip := (s.at_ t).chip
      let due : Prop := c.fire.updAt + c.mp 0 2 * dtMicro ≤ c.dt ∧ c.fire.t0 < c.dt
      (¬due)) ∧
    (∃ (t : Nat) (s : Machine.State),
      let c : Chip := (s.at_ t).chip
      let due : Prop := c.fire.updAt + c.mp 0 2 * dtMicro ≤ c.dt ∧ c.fire.t0 < c.dt
      let prints : Prop := c.printing = true
      (due) ∧ (¬prints)) ∧
    (∃ (t : Nat) (s : Machine.State),
      let c : Chip := (s.at_ t).chip
      let due : Prop := c.fire.updAt + c.mp 0 2 * dtMicro ≤ c.dt ∧ c.fire.t0 < c.dt
      let prints : Prop := c.printing = true
      let begun : Chip := { c with fire := { c.fire with updAt := c.dt, back := false } }.takeMotion
      let halted : Prop := begun.get FS_STAT_HALTED ≠ 0
      (due) ∧ (prints) ∧ (halted) ∧ (begun.fire.armed = false)) ∧
    (∃ (t : Nat) (s : Machine.State),
      let c : Chip := (s.at_ t).chip
      let due : Prop := c.fire.updAt + c.mp 0 2 * dtMicro ≤ c.dt ∧ c.fire.t0 < c.dt
      let prints : Prop := c.printing = true
      let begun : Chip := { c with fire := { c.fire with updAt := c.dt, back := false } }.takeMotion
      let halted : Prop := begun.get FS_STAT_HALTED ≠ 0
      let runsOn : Chip → Prop := fun (u : Chip) => u.get (WM_EST_STILL u.infeed) = 0 ∧ u.get (WM_EST_REV u.infeed) = 0
      let armed : Chip := (begun.armFire.set FS_STAT_MODE 1).updatePosition
      let v : Chip := armed.stampAll (armed.get FS_STAT_MODE) false
      (due) ∧ (prints) ∧ (halted) ∧ (begun.fire.armed = true) ∧ (armed.get FS_STAT_HALTED = 0) ∧ (runsOn v)) ∧
    (∃ (t : Nat) (s : Machine.State),
      let c : Chip := (s.at_ t).chip
      let due : Prop := c.fire.updAt + c.mp 0 2 * dtMicro ≤ c.dt ∧ c.fire.t0 < c.dt
      let prints : Prop := c.printing = true
      let begun : Chip := { c with fire := { c.fire with updAt := c.dt, back := false } }.takeMotion
      let halted : Prop := begun.get FS_STAT_HALTED ≠ 0
      let runsOn : Chip → Prop := fun (u : Chip) => u.get (WM_EST_STILL u.infeed) = 0 ∧ u.get (WM_EST_REV u.infeed) = 0
      let armed : Chip := (begun.armFire.set FS_STAT_MODE 1).updatePosition
      let v : Chip := armed.stampAll (armed.get FS_STAT_MODE) false
      (due) ∧ (prints) ∧ (halted) ∧ (begun.fire.armed = true) ∧ (armed.get FS_STAT_HALTED = 0) ∧ (¬runsOn v)) ∧
    (∃ (t : Nat) (s : Machine.State),
      let c : Chip := (s.at_ t).chip
      let due : Prop := c.fire.updAt + c.mp 0 2 * dtMicro ≤ c.dt ∧ c.fire.t0 < c.dt
      let prints : Prop := c.printing = true
      let begun : Chip := { c with fire := { c.fire with updAt := c.dt, back := false } }.takeMotion
      let halted : Prop := begun.get FS_STAT_HALTED ≠ 0
      let runsOn : Chip → Prop := fun (u : Chip) => u.get (WM_EST_STILL u.infeed) = 0 ∧ u.get (WM_EST_REV u.infeed) = 0
      let position : Chip := begun.slewDeff.updatePosition
      let v : Chip := position.stampAll (position.get FS_STAT_MODE) false
      (due) ∧ (prints) ∧ (¬halted) ∧ (begun.slewDeff.get FS_STAT_MODE ≠ 2) ∧ (position.get FS_STAT_HALTED = 0) ∧ (runsOn v)) ∧
    (∃ (t : Nat) (s : Machine.State),
      let c : Chip := (s.at_ t).chip
      let due : Prop := c.fire.updAt + c.mp 0 2 * dtMicro ≤ c.dt ∧ c.fire.t0 < c.dt
      let prints : Prop := c.printing = true
      let begun : Chip := { c with fire := { c.fire with updAt := c.dt, back := false } }.takeMotion
      let halted : Prop := begun.get FS_STAT_HALTED ≠ 0
      let runsOn : Chip → Prop := fun (u : Chip) => u.get (WM_EST_STILL u.infeed) = 0 ∧ u.get (WM_EST_REV u.infeed) = 0
      let position : Chip := begun.slewDeff.updatePosition
      let v : Chip := position.stampAll (position.get FS_STAT_MODE) false
      (due) ∧ (prints) ∧ (¬halted) ∧ (begun.slewDeff.get FS_STAT_MODE ≠ 2) ∧ (position.get FS_STAT_HALTED = 0) ∧ (¬runsOn v)) ∧
    (∃ (t : Nat) (s : Machine.State),
      let c : Chip := (s.at_ t).chip
      let due : Prop := c.fire.updAt + c.mp 0 2 * dtMicro ≤ c.dt ∧ c.fire.t0 < c.dt
      let prints : Prop := c.printing = true
      let begun : Chip := { c with fire := { c.fire with updAt := c.dt, back := false } }.takeMotion
      let halted : Prop := begun.get FS_STAT_HALTED ≠ 0
      let runsOn : Chip → Prop := fun (u : Chip) => u.get (WM_EST_STILL u.infeed) = 0 ∧ u.get (WM_EST_REV u.infeed) = 0
      let predicted : Chip := begun.slewDeff.updatePredicted c.fire.back
      let v : Chip := predicted.stampAll (predicted.get FS_STAT_MODE) (decide (predicted.get FS_STAT_MODE ≠ 2))
      (due) ∧ (prints) ∧ (¬halted) ∧ (begun.slewDeff.get FS_STAT_MODE = 2) ∧ (predicted.get FS_STAT_HALTED = 0) ∧ (runsOn v)) ∧
    (∃ (t : Nat) (s : Machine.State),
      let c : Chip := (s.at_ t).chip
      let due : Prop := c.fire.updAt + c.mp 0 2 * dtMicro ≤ c.dt ∧ c.fire.t0 < c.dt
      let prints : Prop := c.printing = true
      let begun : Chip := { c with fire := { c.fire with updAt := c.dt, back := false } }.takeMotion
      let halted : Prop := begun.get FS_STAT_HALTED ≠ 0
      let runsOn : Chip → Prop := fun (u : Chip) => u.get (WM_EST_STILL u.infeed) = 0 ∧ u.get (WM_EST_REV u.infeed) = 0
      let predicted : Chip := begun.slewDeff.updatePredicted c.fire.back
      let v : Chip := predicted.stampAll (predicted.get FS_STAT_MODE) (decide (predicted.get FS_STAT_MODE ≠ 2))
      (due) ∧ (prints) ∧ (¬halted) ∧ (begun.slewDeff.get FS_STAT_MODE = 2) ∧ (predicted.get FS_STAT_HALTED = 0) ∧ (¬runsOn v)) ∧
    (∃ (t : Nat) (s : Machine.State),
      let c : Chip := (s.at_ t).chip
      let due : Prop := c.fire.updAt + c.mp 0 2 * dtMicro ≤ c.dt ∧ c.fire.t0 < c.dt
      let prints : Prop := c.printing = true
      let begun : Chip := { c with fire := { c.fire with updAt := c.dt, back := false } }.takeMotion
      let halted : Prop := begun.get FS_STAT_HALTED ≠ 0
      let predicted : Chip := begun.slewDeff.updatePredicted c.fire.back
      (due) ∧ (prints) ∧ (¬halted) ∧ (begun.slewDeff.get FS_STAT_MODE = 2) ∧ (predicted.get FS_STAT_HALTED ≠ 0)) ∧
    (∃ (t : Nat) (s : Machine.State),
      let c : Chip := (s.at_ t).chip
      let far : Nat × Nat × Nat × Nat → Prop := fun (x : Nat × Nat × Nat × Nat) => c.farOff x.snd.snd.fst x.snd.snd.snd = true ∧ x.snd.snd.fst * 65536 ≤ c.fire.updAt + c.mp 0 2 * dtMicro
      (∀ (x : Nat × Nat × Nat × Nat), x ∈ c.dropped → ¬far x)) ∧
    (∃ (t : Nat) (s : Machine.State) (before : List (Nat × Nat × Nat × Nat)) (x : Nat × Nat × Nat × Nat) (after : List (Nat × Nat × Nat × Nat)),
      let c : Chip := (s.at_ t).chip
      let far : Nat × Nat × Nat × Nat → Prop := fun (x : Nat × Nat × Nat × Nat) => c.farOff x.snd.snd.fst x.snd.snd.snd = true ∧ x.snd.snd.fst * 65536 ≤ c.fire.updAt + c.mp 0 2 * dtMicro
      (c.dropped = before ++ x :: after) ∧ (∀ (y : Nat × Nat × Nat × Nat), y ∈ before → ¬far y) ∧ (far x)) ∧
    (∃ (t : Nat) (s : Machine.State) (h : HeadRow) (p : Nat) (v : Nat),
      let c : Chip := (s.at_ t).chip
      (h.stamp = some p) ∧ (h.queued = some v) ∧ (h.frozen = false) ∧ (p ≠ 2 ^ 64 - 1) ∧ (p < c.ns + 40000) ∧ (v ≠ 2 ^ 64 - 1)) ∧
    (∃ (t : Nat) (s : Machine.State),
      let c : Chip := (s.at_ t).chip
      let coasts : Prop := c.get FS_STAT_MODE = 2 ∧ c.fire.coasted = false ∧ c.pastEdge (c.mp 16 2 * dtMicro) = true ∧ ∀ (k : Option Int), s.countNow t c.infeed = some k → k = some 0
      (coasts)) ∧
    (∃ (t : Nat) (s : Machine.State),
      let c : Chip := (s.at_ t).chip
      let coasts : Prop := c.get FS_STAT_MODE = 2 ∧ c.fire.coasted = false ∧ c.pastEdge (c.mp 16 2 * dtMicro) = true ∧ ∀ (k : Option Int), s.countNow t c.infeed = some k → k = some 0
      (¬coasts)) ∧
    (∃ (t : Nat) (s : Machine.State),
      let c : Chip := (s.at_ t).chip
      (c.get FS_STAT_HFN ≠ 0)) ∧
    (∃ (t : Nat) (s : Machine.State),
      let c : Chip := (s.at_ t).chip
      (c.get FS_STAT_HFN = 0)) ∧
    (∃ (t : Nat) (k : Fin 16) (n : Nat) (x : RowSlot) (s : Machine.State),
      let c : Chip := (s.at_ t).chip
      let passed : HeadRow → Prop := fun (h : HeadRow) => h.ok = true ∧ ∃ (v : Nat), v ∈ h.stamp ∧ v ≠ 2 ^ 64 - 1 ∧ v ≤ c.ns
      let fired : Prop := x.complete = true ∧ (∀ (h : HeadRow), h ∈ x.heads → passed h) ∧ (x.heads = [] → ↑x.n ≤ (c.bar ↑k).rk)
      (List.find? (fun (y : RowSlot) => decide (y.n = n)) (c.bar ↑k).ring = some x) ∧ (fired)) ∧
    (∃ (t : Nat) (k : Fin 16) (n : Nat) (x : RowSlot) (s : Machine.State),
      let c : Chip := (s.at_ t).chip
      let passed : HeadRow → Prop := fun (h : HeadRow) => h.ok = true ∧ ∃ (v : Nat), v ∈ h.stamp ∧ v ≠ 2 ^ 64 - 1 ∧ v ≤ c.ns
      let fired : Prop := x.complete = true ∧ (∀ (h : HeadRow), h ∈ x.heads → passed h) ∧ (x.heads = [] → ↑x.n ≤ (c.bar ↑k).rk)
      (List.find? (fun (y : RowSlot) => decide (y.n = n)) (c.bar ↑k).ring = some x) ∧ (¬fired)) :=
  ⟨⟨65536 * 1000, stateWith [] (fun c => c.setBar 2 { ring := [{ n := 5, heads := [{ head := 0, stamp := some 20000, queued := some 90000 }] }] }), by dsimp only; decide +kernel⟩,
   ⟨65536 * 1000000, stateWith [], by dsimp only; decide +kernel⟩,
   ⟨65536 * 1000000, stateWith [(SEQ_PSTAT_OPEN, 1), (FS_STAT_HALTED, 1)] running2, by dsimp only; decide +kernel⟩,
   ⟨65536 * 1000000, stateWith [(SEQ_PSTAT_OPEN, 1), (FS_STAT_HALTED, 1), (WM_EST_STILL 0, 0), (WM_EST_STILL 1, 0), (WM_EST_STILL 2, 0), (WM_EST_STILL 3, 0)] (fun c => let d := running2 c; { d with fire := { d.fire with armed := true } }), by dsimp only; decide +kernel⟩,
   ⟨65536 * 1000000, stateWith [(SEQ_PSTAT_OPEN, 1), (FS_STAT_HALTED, 1)] (fun c => let d := running2 c; { d with fire := { d.fire with armed := true } }), by dsimp only; decide +kernel⟩,
   ⟨65536 * 1000000, stateWith [(SEQ_PSTAT_OPEN, 1), (FS_STAT_HALTED, 0), (FS_STAT_MODE, 1), (WM_EST_STILL 0, 0), (WM_EST_STILL 1, 0), (WM_EST_STILL 2, 0), (WM_EST_STILL 3, 0)] running2, by dsimp only; decide +kernel⟩,
   ⟨65536 * 1000000, stateWith [(SEQ_PSTAT_OPEN, 1), (FS_STAT_HALTED, 0), (FS_STAT_MODE, 1)] running2, by dsimp only; decide +kernel⟩,
   ⟨65536 * 1000000, stateWith [(SEQ_PSTAT_OPEN, 1), (FS_STAT_HALTED, 0), (FS_STAT_MODE, 2), (WM_EST_STILL 0, 0), (WM_EST_STILL 1, 0), (WM_EST_STILL 2, 0), (WM_EST_STILL 3, 0)] running2, by dsimp only; decide +kernel⟩,
   ⟨65536 * 1000000, stateWith [(SEQ_PSTAT_OPEN, 1), (FS_STAT_HALTED, 0), (FS_STAT_MODE, 2)] running2, by dsimp only; decide +kernel⟩,
   ⟨65536 * 1000000, stateWith [(SEQ_PSTAT_OPEN, 1), (FS_STAT_HALTED, 0), (FS_STAT_MODE, 2), (WM_EST_STILL 0, 0), (WM_EST_STILL 1, 0), (WM_EST_STILL 2, 0), (WM_EST_STILL 3, 0)] limit2, by dsimp only; decide +kernel⟩,
   ⟨65536 * 1000, stateWith [] (fun c => c.setBar 2 { ring := [{ n := 5, heads := [{ head := 0, stamp := some 20000, queued := some 90000 }] }] }), by dsimp only; decide +kernel⟩,
   ⟨65536 * 1000, (stateWith [] (fun c => c.setBar 2 { ring := [{ n := 5, heads := [{ head := 0, stamp := some 20000, queued := some 90000 }] }] })).onChip (fun c => { c with fire := { c.fire with v := 10 ^ 12, updAt := 65536 * 1000000 } }), [], (5, 0, 20000, 90000), [], by dsimp only; decide +kernel⟩,
   ⟨65536 * 1000, stateWith [] (fun c => c.setBar 2 { ring := [{ n := 5, heads := [{ head := 0, stamp := some 20000, queued := some 90000 }] }] }), { head := 0, stamp := some 20000, queued := some 90000 }, 20000, 90000, by dsimp only; decide +kernel⟩,
   ⟨65536 * 1000000000, stateWith [(SEQ_PSTAT_OPEN, 1), (FS_STAT_HALTED, 0), (FS_STAT_MODE, 2)] (fun c => { c with fire := { c.fire with edge := some (5, 0), v := 10 ^ 12 } }), by dsimp only; decide +kernel⟩,
   ⟨65536 * 1000, stateWith [] (fun c => c.setBar 2 { ring := [{ n := 5, heads := [{ head := 0, stamp := some 20000, queued := some 90000 }] }] }), by dsimp only; decide +kernel⟩,
   ⟨65536 * 1000, stateWith [] (fun c => c.setBar 2 { ring := [{ n := 5, heads := [{ head := 0, stamp := some 20000, queued := some 90000 }] }] }), by dsimp only; decide +kernel⟩,
   ⟨0, stateWith [(FS_STAT_HFN, 0)], by dsimp only; decide +kernel⟩,
   ⟨65536 * 1000000000, 2, 0, { n := 0, complete := true, heads := [{ head := 0, ok := true, stamp := some 5 }] }, stateWith [] (fun c => c.setBar 2 { ring := [{ n := 0, complete := true, heads := [{ head := 0, ok := true, stamp := some 5 }] }] }), by dsimp only; decide +kernel⟩,
   ⟨65536 * 1000000000, 2, 0, { n := 0 }, stateWith [] (fun c => c.setBar 2 { ring := [{ n := 0 }] }), by dsimp only; decide +kernel⟩⟩

theorem met_BarEvents :
    (∃ (t : Nat) (k : Fin 16) (s : Machine.State),
      let c : Chip := (s.at_ t).chip
      let ns : List Nat := c.passRows ↑k
      let unit : Prop := c.role = 0 ∨ c.role = 1 ∨ c.role = 2 ∨ c.role = 3 ∧ c.twin.adopted = true
      let may : Prop := c.strm.job = true ∧ unit ∧ c.barWorks ↑k = true ∧ c.passDue ↑k = true ∧ ns ≠ []
      (may)) ∧
    (∃ (t : Nat) (k : Fin 16) (s : Machine.State),
      let c : Chip := (s.at_ t).chip
      let ns : List Nat := c.passRows ↑k
      let unit : Prop := c.role = 0 ∨ c.role = 1 ∨ c.role = 2 ∨ c.role = 3 ∧ c.twin.adopted = true
      let may : Prop := c.strm.job = true ∧ unit ∧ c.barWorks ↑k = true ∧ c.passDue ↑k = true ∧ ns ≠ []
      (¬may)) ∧
    (∃ (t : Nat) (k : Fin 16) (s : Machine.State) (i : Nat) (n : Nat),
      let c : Chip := (s.at_ t).chip
      let ns : List Nat := c.passRows ↑k
      (ns[i]? = some n)) ∧
    (∃ (t : Nat) (k : Fin 16) (n : Nat) (sram : Option (Nat × Bool)) (s : Machine.State),
      let c : Chip := (s.at_ t).chip
      let waits : Prop := (∃ (x : RowSlot), x ∈ (c.bar ↑k).ring ∧ x.n = n ∧ x.complete = false) ∧
        (∀ (x : Fetch), x ∈ c.store.fetches → ¬(↑k, n) ∈ x.rows) ∧ ((c.bar ↑k).cutAt ≤ c.dt ∨ ∀ (p : Nat × Nat), p ∈ (c.bar ↑k).pass → n < p.fst)
      let d : Chip := (c.inject Blk.be ↑k [1, 2]).sramCheck (↑k) sram
      (waits) ∧ (c.barWorks ↑k = true) ∧ (d.barWorks ↑k = true)) ∧
    (∃ (t : Nat) (k : Fin 16) (n : Nat) (sram : Option (Nat × Bool)) (s : Machine.State),
      let c : Chip := (s.at_ t).chip
      let waits : Prop := (∃ (x : RowSlot), x ∈ (c.bar ↑k).ring ∧ x.n = n ∧ x.complete = false) ∧
        (∀ (x : Fetch), x ∈ c.store.fetches → ¬(↑k, n) ∈ x.rows) ∧ ((c.bar ↑k).cutAt ≤ c.dt ∨ ∀ (p : Nat × Nat), p ∈ (c.bar ↑k).pass → n < p.fst)
      let d : Chip := (c.inject Blk.be ↑k [1, 2]).sramCheck (↑k) sram
      (waits) ∧ (c.barWorks ↑k = true) ∧ (d.barWorks ↑k = false)) ∧
    (∃ (t : Nat) (k : Fin 16) (n : Nat) (s : Machine.State),
      let c : Chip := (s.at_ t).chip
      let waits : Prop := (∃ (x : RowSlot), x ∈ (c.bar ↑k).ring ∧ x.n = n ∧ x.complete = false) ∧
        (∀ (x : Fetch), x ∈ c.store.fetches → ¬(↑k, n) ∈ x.rows) ∧ ((c.bar ↑k).cutAt ≤ c.dt ∨ ∀ (p : Nat × Nat), p ∈ (c.bar ↑k).pass → n < p.fst)
      (¬waits ∨ c.barWorks ↑k = false)) ∧
    (∃ (t : Nat) (k : Fin 16) (i : Fin 25) (s : Machine.State),
      let c : Chip := (s.at_ t).chip
      let works : Prop := bit (c.get (BE_FENCE_FENCED ↑k)) ↑i = false ∧ c.get (BE_SCR_SPARE ↑k) ≠ ↑i ∧ c.barWorks ↑k = true
      (¬works)) ∧
    (∃ (t : Nat) (k : Fin 16) (i : Fin 25) (s : Machine.State),
      let c : Chip := (s.at_ t).chip
      let works : Prop := bit (c.get (BE_FENCE_FENCED ↑k)) ↑i = false ∧ c.get (BE_SCR_SPARE ↑k) ≠ ↑i ∧ c.barWorks ↑k = true
      let spare : Prop := c.get (BE_SCR_SPARE ↑k) ≠ 31
      (works) ∧ (spare)) ∧
    (∃ (t : Nat) (k : Fin 16) (i : Fin 25) (s : Machine.State),
      let c : Chip := (s.at_ t).chip
      let works : Prop := bit (c.get (BE_FENCE_FENCED ↑k)) ↑i = false ∧ c.get (BE_SCR_SPARE ↑k) ≠ ↑i ∧ c.barWorks ↑k = true
      let spare : Prop := c.get (BE_SCR_SPARE ↑k) ≠ 31
      let n : Nat := c.get (BE_SCR_WORKING ↑k)
      (works) ∧ (¬spare) ∧ (20 < n)) ∧
    (∃ (t : Nat) (k : Fin 16) (i : Fin 25) (s : Machine.State),
      let c : Chip := (s.at_ t).chip
      let works : Prop := bit (c.get (BE_FENCE_FENCED ↑k)) ↑i = false ∧ c.get (BE_SCR_SPARE ↑k) ≠ ↑i ∧ c.barWorks ↑k = true
      let spare : Prop := c.get (BE_SCR_SPARE ↑k) ≠ 31
      let n : Nat := c.get (BE_SCR_WORKING ↑k)
      (works) ∧ (¬spare) ∧ (n ≤ 20)) ∧
    (∃ (t : Nat) (k : Fin 16) (s : Machine.State),
      let c : Chip := (s.at_ t).chip
      let b : Bar := c.bar ↑k
      let due : Prop := c.barWorks ↑k = true ∧ c.get (BE_SCR_SPARE ↑k) ≠ 31 ∧ b.spareOk = true ∧ b.lent = false ∧ b.rotated + 10 * dtSecond ≤ c.dt ∧ ∀ (x : RowSlot), x ∈ b.ring → x.complete = true
      (¬due)) ∧
    (∃ (t : Nat) (k : Fin 16) (s : Machine.State),
      let c : Chip := (s.at_ t).chip
      let b : Bar := c.bar ↑k
      let due : Prop := c.barWorks ↑k = true ∧ c.get (BE_SCR_SPARE ↑k) ≠ 31 ∧ b.spareOk = true ∧ b.lent = false ∧ b.rotated + 10 * dtSecond ≤ c.dt ∧ ∀ (x : RowSlot), x ∈ b.ring → x.complete = true
      (due) ∧ (c.nextOut (↑k) b.lastOut = none)) ∧
    (∃ (t : Nat) (k : Fin 16) (s : Machine.State) (i : Nat),
      let c : Chip := (s.at_ t).chip
      let b : Bar := c.bar ↑k
      let due : Prop := c.barWorks ↑k = true ∧ c.get (BE_SCR_SPARE ↑k) ≠ 31 ∧ b.spareOk = true ∧ b.lent = false ∧ b.rotated + 10 * dtSecond ≤ c.dt ∧ ∀ (x : RowSlot), x ∈ b.ring → x.complete = true
      (due) ∧ (c.nextOut (↑k) b.lastOut = some i)) ∧
    (∃ (t : Nat) (k : Fin 16) (s : Machine.State),
      let c : Chip := (s.at_ t).chip
      let i : Nat := c.get (BE_SCR_SPARE ↑k)
      let runs : Prop := i ≠ 31 ∧ c.get (BE_SCR_SPARE_STATE ↑k) = 0 ∧ c.barWorks ↑k = true
      (¬runs)) ∧
    (∃ (t : Nat) (k : Fin 16) (s : Machine.State) (pass : Bool),
      let c : Chip := (s.at_ t).chip
      let i : Nat := c.get (BE_SCR_SPARE ↑k)
      let runs : Prop := i ≠ 31 ∧ c.get (BE_SCR_SPARE_STATE ↑k) = 0 ∧ c.barWorks ↑k = true
      (runs) ∧ (pass = true)) ∧
    (∃ (t : Nat) (k : Fin 16) (s : Machine.State) (pass : Bool),
      let c : Chip := (s.at_ t).chip
      let i : Nat := c.get (BE_SCR_SPARE ↑k)
      let runs : Prop := i ≠ 31 ∧ c.get (BE_SCR_SPARE_STATE ↑k) = 0 ∧ c.barWorks ↑k = true
      (runs) ∧ (pass = false)) ∧
    (∃ (c : Chip) (k : Fin 16),
      (c.regionOn (↑k / 4) = true) ∧ (c.testing (↑k / 4) = false)) ∧
    (∃ (t : Nat) (s : Machine.State),
      let c : Chip := (s.at_ t).chip
      let ks : List Nat := List.filter (fun (k : Nat) => (c.bar k).changed) (List.range 16)
      let due : Prop := (c.role = 0 ∨ c.role = 1) ∧ c.get SEQ_PSTAT_OPEN ≠ 0 ∧ ks ≠ [] ∧ c.loopDue = true
      (due)) ∧
    (∃ (t : Nat) (s : Machine.State),
      let c : Chip := (s.at_ t).chip
      let ks : List Nat := List.filter (fun (k : Nat) => (c.bar k).changed) (List.range 16)
      let due : Prop := (c.role = 0 ∨ c.role = 1) ∧ c.get SEQ_PSTAT_OPEN ≠ 0 ∧ ks ≠ [] ∧ c.loopDue = true
      (¬due)) :=
  ⟨⟨0, 2, stateWith [] running2, by dsimp only; decide +kernel⟩,
   ⟨0, 2, stateWith [] (fun c => c.setBar 2 { banks := [3], ring := [{ n := 0 }] }), by dsimp only; decide +kernel⟩,
   ⟨0, 2, stateWith [] running2, 0, 0, by dsimp only; decide +kernel⟩,
   ⟨0, 2, 0, none, stateWith [] (fun c => c.setBar 2 { ring := [{ n := 0 }] }), by dsimp only; decide +kernel⟩,
   ⟨0, 2, 0, some (3, true), stateWith [] (fun c => c.setBar 2 { banks := [3], ring := [{ n := 0 }] }), by dsimp only; decide +kernel⟩,
   ⟨0, 2, 0, stateWith [], by dsimp only; decide +kernel⟩,
   ⟨0, 2, 0, stateWith [(PWR_QUAR .be 2, 1)] (fun c => c.setBar 2 { ring := [{ n := 0 }] }), by dsimp only; decide +kernel⟩,
   ⟨0, 2, 0, stateWith [] (fun c => c.setBar 2 { banks := [3], ring := [{ n := 0 }] }), by dsimp only; decide +kernel⟩,
   ⟨0, 2, 0, stateWith [(BE_SCR_SPARE 2, 31), (BE_SCR_WORKING 2, 24)], by dsimp only; decide +kernel⟩,
   ⟨0, 2, 0, stateWith [(BE_SCR_SPARE 2, 31), (BE_SCR_WORKING 2, 20)], by dsimp only; decide +kernel⟩,
   ⟨0, 2, stateWith [] (fun c => c.setBar 2 { banks := [3], ring := [{ n := 0 }] }), by dsimp only; decide +kernel⟩,
   ⟨65536 * 10000000000, 2, stateWith [(BE_FENCE_FENCED 2, 2 ^ 25 - 1)] (fun c => c.setBar 2 { spareOk := true }), by dsimp only; decide +kernel⟩,
   ⟨65536 * 10000000000, 2, stateWith [] (fun c => c.setBar 2 { spareOk := true }), 0, by dsimp only; decide +kernel⟩,
   ⟨0, 2, stateWith [(PWR_QUAR .be 2, 1)] (fun c => c.setBar 2 { ring := [{ n := 0 }] }), by dsimp only; decide +kernel⟩,
   ⟨0, 2, stateWith [] (fun c => c.setBar 2 { banks := [3], ring := [{ n := 0 }] }), true, by dsimp only; decide +kernel⟩,
   ⟨0, 2, stateWith [] (fun c => c.setBar 2 { banks := [3], ring := [{ n := 0 }] }), false, by dsimp only; decide +kernel⟩,
   ⟨{}, 2, by decide +kernel⟩,
   ⟨0, stateWith [(SEQ_PSTAT_OPEN, 1)] (fun c => (running2 c).setBar 2 { rk := 0, stagedT := [(0, some 5)], bandAt := some 0 }), by dsimp only; decide +kernel⟩,
   ⟨0, stateWith [] (fun c => c.setBar 2 { banks := [3], ring := [{ n := 0 }] }), by dsimp only; decide +kernel⟩⟩

theorem met_LaneBringUp :
    (∃ (t : Nat) (m : Fin 8) (l : Fin 96) (on : Bool) (s : Machine.State),
      let c : Chip := (s.at_ t).chip
      let was : Bool := bit (c.get (LQ_CFG_EN (↑l / 4))) (↑l % 4)
      (c.mayWrite (↑m) Blk.lq (↑l / 4) 64 = true) ∧ (c.reachable Blk.lq (↑l / 4) = true) ∧ (was = on)) ∧
    (∃ (t : Nat) (m : Fin 8) (l : Fin 96) (on : Bool) (s : Machine.State),
      let c : Chip := (s.at_ t).chip
      let was : Bool := bit (c.get (LQ_CFG_EN (↑l / 4))) (↑l % 4)
      (c.mayWrite (↑m) Blk.lq (↑l / 4) 64 = true) ∧ (c.reachable Blk.lq (↑l / 4) = true) ∧ (was = false) ∧ (on = true)) ∧
    (∃ (t : Nat) (m : Fin 8) (l : Fin 96) (on : Bool) (s : Machine.State),
      let c : Chip := (s.at_ t).chip
      let was : Bool := bit (c.get (LQ_CFG_EN (↑l / 4))) (↑l % 4)
      (c.mayWrite (↑m) Blk.lq (↑l / 4) 64 = true) ∧ (c.reachable Blk.lq (↑l / 4) = true) ∧ (was = true) ∧ (on = false)) ∧
    (∃ (t : Nat) (m : Fin 8) (q : Fin 24) (mode : Bool) (rate : Bool) (s : Machine.State),
      let c : Chip := (s.at_ t).chip
      let same : Prop := (mode = true ↔ c.get (LQ_CFG_MODE ↑q) ≠ 0) ∧ (rate = true ↔ c.get (LQ_CFG_RATE ↑q) ≠ 0)
      (c.mayWrite (↑m) Blk.lq (↑q) 64 = true) ∧ (c.reachable Blk.lq ↑q = true) ∧ (same)) ∧
    (∃ (t : Nat) (m : Fin 8) (q : Fin 24) (mode : Bool) (rate : Bool) (s : Machine.State),
      let c : Chip := (s.at_ t).chip
      let lanes : List Nat := List.map (fun (x : Nat) => 4 * ↑q + x) (List.range 4)
      let same : Prop := (mode = true ↔ c.get (LQ_CFG_MODE ↑q) ≠ 0) ∧ (rate = true ↔ c.get (LQ_CFG_RATE ↑q) ≠ 0)
      let used : Prop := ∃ (l : Nat), l ∈ lanes ∧ c.laneInUse l = true
      (c.mayWrite (↑m) Blk.lq (↑q) 64 = true) ∧ (c.reachable Blk.lq ↑q = true) ∧ (¬same) ∧ (used)) ∧
    (∃ (t : Nat) (m : Fin 8) (q : Fin 24) (mode : Bool) (rate : Bool) (s : Machine.State),
      let c : Chip := (s.at_ t).chip
      let lanes : List Nat := List.map (fun (x : Nat) => 4 * ↑q + x) (List.range 4)
      let same : Prop := (mode = true ↔ c.get (LQ_CFG_MODE ↑q) ≠ 0) ∧ (rate = true ↔ c.get (LQ_CFG_RATE ↑q) ≠ 0)
      let used : Prop := ∃ (l : Nat), l ∈ lanes ∧ c.laneInUse l = true
      (c.mayWrite (↑m) Blk.lq (↑q) 64 = true) ∧ (c.reachable Blk.lq ↑q = true) ∧ (¬same) ∧ (¬used)) ∧
    (∃ (t : Nat) (l : Fin 100) (hs : List Bool) (s : Machine.State),
      let c : Chip := (s.at_ t).chip
      let x : Lane := c.lane ↑l
      let st : Nat := c.laneState ↑l
      let latest : List Bool := List.drop (hs.length - 64) hs
      let locked : Prop := 64 ≤ hs.length ∧ ∀ (v : Bool), v ∈ latest → v = true
      (locked) ∧ (st = 1) ∧ (x.offFreq = false)) ∧
    (∃ (t : Nat) (l : Fin 100) (hs : List Bool) (s : Machine.State),
      let c : Chip := (s.at_ t).chip
      let st : Nat := c.laneState ↑l
      let latest : List Bool := List.drop (hs.length - 64) hs
      let locked : Prop := 64 ≤ hs.length ∧ ∀ (v : Bool), v ∈ latest → v = true
      (locked) ∧ (st = 5)) ∧
    (∃ (t : Nat) (l : Fin 100) (hs : List Bool) (s : Machine.State),
      let c : Chip := (s.at_ t).chip
      let x : Lane := c.lane ↑l
      let st : Nat := c.laneState ↑l
      let latest : List Bool := List.drop (hs.length - 64) hs
      let locked : Prop := 64 ≤ hs.length ∧ ∀ (v : Bool), v ∈ latest → v = true
      (¬locked ∨ st ≠ 5 ∧ (st ≠ 1 ∨ x.offFreq = true))) ∧
    (∃ (t : Nat) (l : Fin 100) (hs : List Bool) (s : Machine.State),
      let c : Chip := (s.at_ t).chip
      let st : Nat := c.laneState ↑l
      let latest : List Bool := List.drop (hs.length - 64) hs
      let lost : Prop := 16 ≤ List.countP (fun (v : Bool) => !v) latest
      (lost) ∧ (st = 4)) ∧
    (∃ (t : Nat) (l : Fin 100) (hs : List Bool) (s : Machine.State),
      let c : Chip := (s.at_ t).chip
      let st : Nat := c.laneState ↑l
      let latest : List Bool := List.drop (hs.length - 64) hs
      let lost : Prop := 16 ≤ List.countP (fun (v : Bool) => !v) latest
      (¬lost ∨ st ≠ 4)) ∧
    (∃ (t : Nat) (l : Fin 100) (s : Machine.State),
      let c : Chip := (s.at_ t).chip
      let x : Lane := c.lane ↑l
      let st : Nat := c.laneState ↑l
      let long : Nat → Prop := fun (n : Nat) => x.since + n ≤ c.dt
      (st = 1) ∧ (long (10 * dtMilli))) ∧
    (∃ (t : Nat) (l : Fin 100) (s : Machine.State),
      let c : Chip := (s.at_ t).chip
      let x : Lane := c.lane ↑l
      let st : Nat := c.laneState ↑l
      let long : Nat → Prop := fun (n : Nat) => x.since + n ≤ c.dt
      (st ≠ 1 ∨ ¬long (10 * dtMilli))) ∧
    (∃ (t : Nat) (l : Fin 100) (s : Machine.State),
      let c : Chip := (s.at_ t).chip
      let x : Lane := c.lane ↑l
      let st : Nat := c.laneState ↑l
      let long : Nat → Prop := fun (n : Nat) => x.since + n ≤ c.dt
      (st = 5) ∧ (long (20 * dtMicro)) ∧ (x.tries < 3)) ∧
    (∃ (t : Nat) (l : Fin 100) (s : Machine.State),
      let c : Chip := (s.at_ t).chip
      let x : Lane := c.lane ↑l
      let st : Nat := c.laneState ↑l
      let long : Nat → Prop := fun (n : Nat) => x.since + n ≤ c.dt
      let fenced : Prop := c.laneInUse ↑l = true ∧ ↑l < 96
      (st = 5) ∧ (long (20 * dtMicro)) ∧ (3 ≤ x.tries) ∧ (fenced)) ∧
    (∃ (t : Nat) (l : Fin 100) (s : Machine.State),
      let c : Chip := (s.at_ t).chip
      let x : Lane := c.lane ↑l
      let st : Nat := c.laneState ↑l
      let long : Nat → Prop := fun (n : Nat) => x.since + n ≤ c.dt
      let fenced : Prop := c.laneInUse ↑l = true ∧ ↑l < 96
      (st = 5) ∧ (long (20 * dtMicro)) ∧ (3 ≤ x.tries) ∧ (¬fenced)) ∧
    (∃ (t : Nat) (l : Fin 100) (s : Machine.State),
      let c : Chip := (s.at_ t).chip
      let x : Lane := c.lane ↑l
      let st : Nat := c.laneState ↑l
      let long : Nat → Prop := fun (n : Nat) => x.since + n ≤ c.dt
      (st ≠ 5 ∨ ¬long (20 * dtMicro))) ∧
    (∃ (t : Nat) (l : Fin 100) (s : Machine.State),
      let c : Chip := (s.at_ t).chip
      let x : Lane := c.lane ↑l
      let st : Nat := c.laneState ↑l
      let long : Nat → Prop := fun (n : Nat) => x.since + n ≤ c.dt
      (st = 6) ∧ (long (10 * dtMilli))) ∧
    (∃ (t : Nat) (l : Fin 100) (s : Machine.State),
      let c : Chip := (s.at_ t).chip
      let x : Lane := c.lane ↑l
      let st : Nat := c.laneState ↑l
      let long : Nat → Prop := fun (n : Nat) => x.since + n ≤ c.dt
      (st ≠ 6 ∨ ¬long (10 * dtMilli))) ∧
    (∃ (t : Nat) (l : Fin 100) (s : Machine.State),
      let c : Chip := (s.at_ t).chip
      let x : Lane := c.lane ↑l
      let st : Nat := c.laneState ↑l
      let asks : Prop := st = 2 ∧ c.et5208 ↑l = false ∧ x.train.phase = 0 ∧ x.train.since + 2 * dtMilli ≤ c.dt
      (asks)) ∧
    (∃ (t : Nat) (l : Fin 100) (s : Machine.State),
      let c : Chip := (s.at_ t).chip
      let x : Lane := c.lane ↑l
      let st : Nat := c.laneState ↑l
      let asks : Prop := st = 2 ∧ c.et5208 ↑l = false ∧ x.train.phase = 0 ∧ x.train.since + 2 * dtMilli ≤ c.dt
      (¬asks)) ∧
    (∃ (t : Nat) (l : Fin 100) (s : Machine.State),
      let c : Chip := (s.at_ t).chip
      let x : Lane := c.lane ↑l
      let st : Nat := c.laneState ↑l
      let long : Nat → Prop := fun (n : Nat) => x.since + n ≤ c.dt
      (st = 2) ∧ (long (500 * dtMilli))) ∧
    (∃ (t : Nat) (l : Fin 100) (s : Machine.State),
      let c : Chip := (s.at_ t).chip
      let x : Lane := c.lane ↑l
      let st : Nat := c.laneState ↑l
      let long : Nat → Prop := fun (n : Nat) => x.since + n ≤ c.dt
      (st ≠ 2 ∨ ¬long (500 * dtMilli))) ∧
    (∃ (t : Nat) (l : Fin 100) (s : Machine.State),
      let c : Chip := (s.at_ t).chip
      let x : Lane := c.lane ↑l
      let st : Nat := c.laneState ↑l
      let long : Nat → Prop := fun (n : Nat) => x.since + n ≤ c.dt
      (st = 3) ∧ (long (2 * dtMilli)) ∧ (c.et5208 ↑l = false)) ∧
    (∃ (t : Nat) (l : Fin 100) (s : Machine.State),
      let c : Chip := (s.at_ t).chip
      let x : Lane := c.lane ↑l
      let st : Nat := c.laneState ↑l
      let long : Nat → Prop := fun (n : Nat) => x.since + n ≤ c.dt
      let later : Prop := ∃ (p : Nat), x.alignEnd = some p ∧ ∃ (y : Nat × Nat), y ∈ c.alignPlaces ↑l ∧ p < y.snd
      (st = 3) ∧ (long (2 * dtMilli)) ∧ (c.et5208 ↑l = true) ∧ (¬later)) ∧
    (∃ (t : Nat) (l : Fin 100) (s : Machine.State),
      let c : Chip := (s.at_ t).chip
      let x : Lane := c.lane ↑l
      let st : Nat := c.laneState ↑l
      let long : Nat → Prop := fun (n : Nat) => x.since + n ≤ c.dt
      let later : Prop := ∃ (p : Nat), x.alignEnd = some p ∧ ∃ (y : Nat × Nat), y ∈ c.alignPlaces ↑l ∧ p < y.snd
      (st ≠ 3 ∨ ¬long (2 * dtMilli) ∨ c.et5208 ↑l = true ∧ later)) ∧
    (∃ (t : Nat) (l : Fin 100) (b : List Byte) (s : Machine.State),
      let c : Chip := (s.at_ t).chip
      let good : Prop := c.laneState ↑l = 2 ∧ c.et5208 ↑l = false ∧ b.length = 8 ∧ fieldAt b 0 1 = 210 ∧ fieldAt b 7 1 = crcMsb 8 7 0 (List.take 7 b)
      let slow : Prop := ↑l < 96 ∧ c.fast (↑l / 4) = true ∧ bit (fieldAt b 4 1) 0 = false
      (good) ∧ (slow)) ∧
    (∃ (t : Nat) (l : Fin 100) (b : List Byte) (s : Machine.State),
      let c : Chip := (s.at_ t).chip
      let good : Prop := c.laneState ↑l = 2 ∧ c.et5208 ↑l = false ∧ b.length = 8 ∧ fieldAt b 0 1 = 210 ∧ fieldAt b 7 1 = crcMsb 8 7 0 (List.take 7 b)
      let slow : Prop := ↑l < 96 ∧ c.fast (↑l / 4) = true ∧ bit (fieldAt b 4 1) 0 = false
      (good) ∧ (¬slow)) ∧
    (∃ (t : Nat) (l : Fin 100) (b : List Byte) (s : Machine.State),
      let c : Chip := (s.at_ t).chip
      let good : Prop := c.laneState ↑l = 2 ∧ c.et5208 ↑l = false ∧ b.length = 8 ∧ fieldAt b 0 1 = 210 ∧ fieldAt b 7 1 = crcMsb 8 7 0 (List.take 7 b)
      (¬good)) ∧
    (∃ (t : Nat) (l : Fin 96) (place : Nat) (s : Machine.State),
      let c : Chip := (s.at_ t).chip
      let d : Chip := c.setLane ↑l { (c.lane ↑l) with alignEnd := some place }
      let ps : List (Nat × Nat) := d.alignPlaces ↑l
      let last : Nat := greatest (List.map (fun (x : Nat × Nat) => x.snd) ps)
      let waits : Prop := ∃ (j : Nat), j ∈ d.group ↑l ∧ (d.lane j).alignEnd = none ∧ (d.laneState j = 1 ∨ d.laneState j = 2 ∨ d.laneState j = 3)
      let far : Prop := ∃ (y : Nat × Nat), y ∈ ps ∧ y.snd + 6335 < last
      (c.et5208 ↑l = true) ∧ (c.laneState ↑l = 3) ∧ (waits ∨ far)) ∧
    (∃ (t : Nat) (l : Fin 96) (place : Nat) (s : Machine.State),
      let c : Chip := (s.at_ t).chip
      let d : Chip := c.setLane ↑l { (c.lane ↑l) with alignEnd := some place }
      let ps : List (Nat × Nat) := d.alignPlaces ↑l
      let last : Nat := greatest (List.map (fun (x : Nat × Nat) => x.snd) ps)
      let waits : Prop := ∃ (j : Nat), j ∈ d.group ↑l ∧ (d.lane j).alignEnd = none ∧ (d.laneState j = 1 ∨ d.laneState j = 2 ∨ d.laneState j = 3)
      let far : Prop := ∃ (y : Nat × Nat), y ∈ ps ∧ y.snd + 6335 < last
      (c.et5208 ↑l = true) ∧ (c.laneState ↑l = 3) ∧ (¬waits) ∧ (¬far)) ∧
    (∃ (t : Nat) (l : Fin 96) (s : Machine.State),
      let c : Chip := (s.at_ t).chip
      (c.et5208 ↑l = false ∨ c.laneState ↑l ≠ 3)) ∧
    (∃ (t : Nat) (l : Fin 96) (s : Machine.State),
      let c : Chip := (s.at_ t).chip
      (c.et5208 ↑l = true) ∧ (c.laneState ↑l = 2)) ∧
    (∃ (t : Nat) (l : Fin 96) (s : Machine.State),
      let c : Chip := (s.at_ t).chip
      (c.et5208 ↑l = false ∨ c.laneState ↑l ≠ 2)) ∧
    (∃ (ppb : Int),
      (ppb.natAbs ≤ 20000)) ∧
    (∃ (ppb : Int),
      (20000 < ppb.natAbs)) :=
  ⟨⟨0, 0, 0, true, stateWith [(LQ_CFG_EN 0, 1)], by dsimp only; decide +kernel⟩,
   ⟨0, 0, 0, true, stateWith [], by dsimp only; decide +kernel⟩,
   ⟨0, 0, 0, false, stateWith [(LQ_CFG_EN 0, 1)], by dsimp only; decide +kernel⟩,
   ⟨0, 0, 0, false, false, stateWith [], by dsimp only; decide +kernel⟩,
   ⟨0, 0, 0, true, false, stateWith [(SEQ_PSTAT_OPEN, 1)] headOn0, by dsimp only; decide +kernel⟩,
   ⟨0, 0, 0, true, true, stateWith [], by dsimp only; decide +kernel⟩,
   ⟨0, 0, List.replicate 64 true, stateWith [(LQ_LSTAT_STATE 0 0, 1)] (id), by dsimp only; decide +kernel⟩,
   ⟨0, 0, List.replicate 64 true, stateWith [(LQ_LSTAT_STATE 0 0, 5)] (id), by dsimp only; decide +kernel⟩,
   ⟨0, 0, List.replicate 64 true, stateWith [(LQ_LSTAT_STATE 0 0, 4)] (id), by dsimp only; decide +kernel⟩,
   ⟨0, 0, List.replicate 64 false, stateWith [(LQ_LSTAT_STATE 0 0, 4)] (id), by dsimp only; decide +kernel⟩,
   ⟨0, 0, List.replicate 64 true, stateWith [(LQ_LSTAT_STATE 0 0, 1)] (id), by dsimp only; decide +kernel⟩,
   ⟨65536 * 600000000, 0, stateWith [(LQ_LSTAT_STATE 0 0, 1)] (id), by dsimp only; decide +kernel⟩,
   ⟨0, 0, stateWith [(LQ_LSTAT_STATE 0 0, 1)] (id), by dsimp only; decide +kernel⟩,
   ⟨65536 * 600000000, 0, stateWith [(LQ_LSTAT_STATE 0 0, 5)] (id), by dsimp only; decide +kernel⟩,
   ⟨65536 * 600000000, 0, stateWith [(LQ_LSTAT_STATE 0 0, 5), (SEQ_PSTAT_OPEN, 1)] (fun c => (headOn0 c).setLane 0 { tries := 3 }), by dsimp only; decide +kernel⟩,
   ⟨65536 * 600000000, 0, stateWith [(LQ_LSTAT_STATE 0 0, 5)] ((·.setLane 0 { tries := 3 })), by dsimp only; decide +kernel⟩,
   ⟨0, 0, stateWith [(LQ_LSTAT_STATE 0 0, 1)] (id), by dsimp only; decide +kernel⟩,
   ⟨65536 * 600000000, 0, stateWith [(LQ_LSTAT_STATE 0 0, 6)] (id), by dsimp only; decide +kernel⟩,
   ⟨0, 0, stateWith [(LQ_LSTAT_STATE 0 0, 1)] (id), by dsimp only; decide +kernel⟩,
   ⟨65536 * 600000000, 0, stateWith [(LQ_LSTAT_STATE 0 0, 2)] (id), by dsimp only; decide +kernel⟩,
   ⟨0, 0, stateWith [(LQ_LSTAT_STATE 0 0, 1)] (id), by dsimp only; decide +kernel⟩,
   ⟨65536 * 600000000, 0, stateWith [(LQ_LSTAT_STATE 0 0, 2)] (id), by dsimp only; decide +kernel⟩,
   ⟨0, 0, stateWith [(LQ_LSTAT_STATE 0 0, 1)] (id), by dsimp only; decide +kernel⟩,
   ⟨65536 * 600000000, 0, stateWith [(LQ_LSTAT_STATE 0 0, 3)] (id), by dsimp only; decide +kernel⟩,
   ⟨65536 * 600000000, 0, stateWith [(LQ_LSTAT_STATE 0 0, 3), (LQ_CFG_MODE 0, 1)] (id), by dsimp only; decide +kernel⟩,
   ⟨0, 0, stateWith [(LQ_LSTAT_STATE 0 0, 1)] (id), by dsimp only; decide +kernel⟩,
   ⟨0, 0, tblock 0 0, stateWith [(LQ_LSTAT_STATE 0 0, 2), (LQ_CFG_RATE 0, 1)] (id), by dsimp only; decide +kernel⟩,
   ⟨0, 0, tblock 0 0, stateWith [(LQ_LSTAT_STATE 0 0, 2)] (id), by dsimp only; decide +kernel⟩,
   ⟨0, 0, [], stateWith [(LQ_LSTAT_STATE 0 0, 2)] (id), by dsimp only; decide +kernel⟩,
   ⟨0, 0, 0, stateWith [(LQ_LSTAT_STATE 0 0, 3), (LQ_CFG_MODE 0, 1), (LQ_CFG_EN 0, 3), (LQ_LSTAT_STATE 0 1, 3)] (fun c => barsOn [0] c), by dsimp only; decide +kernel⟩,
   ⟨0, 0, 0, stateWith [(LQ_LSTAT_STATE 0 0, 3), (LQ_CFG_MODE 0, 1)] (id), by dsimp only; decide +kernel⟩,
   ⟨0, 0, stateWith [], by dsimp only; decide +kernel⟩,
   ⟨0, 0, stateWith [(LQ_LSTAT_STATE 0 0, 2), (LQ_CFG_MODE 0, 1)] (id), by dsimp only; decide +kernel⟩,
   ⟨0, 0, stateWith [], by dsimp only; decide +kernel⟩,
   ⟨0, by decide +kernel⟩,
   ⟨20001, by decide +kernel⟩⟩

theorem met_LaneMarkersEyesAndLaunches :
    (∃ (t : Nat) (l : Fin 100) (s : Machine.State),
      let c : Chip := (s.at_ t).chip
      let live : Prop := c.et5208 ↑l = false ∧ (c.laneState ↑l = 3 ∨ c.laneState ↑l = 4)
      (¬live)) ∧
    (∃ (t : Nat) (l : Fin 100) (b : List Byte) (s : Machine.State),
      let c : Chip := (s.at_ t).chip
      let live : Prop := c.et5208 ↑l = false ∧ (c.laneState ↑l = 3 ∨ c.laneState ↑l = 4)
      let whole : Prop := b.length = 8 ∧ fieldAt b 0 1 = 197 ∧ fieldAt b 7 1 = crcMsb 8 7 0 (List.take 7 b)
      let w : Nat := fieldAt b 1 1
      (live) ∧ (¬whole ∨ w < 128 ∧ ↑l < 96)) ∧
    (∃ (t : Nat) (l : Fin 100) (b : List Byte) (s : Machine.State),
      let c : Chip := (s.at_ t).chip
      let live : Prop := c.et5208 ↑l = false ∧ (c.laneState ↑l = 3 ∨ c.laneState ↑l = 4)
      let whole : Prop := b.length = 8 ∧ fieldAt b 0 1 = 197 ∧ fieldAt b 7 1 = crcMsb 8 7 0 (List.take 7 b)
      let w : Nat := fieldAt b 1 1
      (live) ∧ (whole) ∧ (w < 128) ∧ (96 ≤ ↑l)) ∧
    (∃ (t : Nat) (l : Fin 100) (b : List Byte) (s : Machine.State),
      let c : Chip := (s.at_ t).chip
      let live : Prop := c.et5208 ↑l = false ∧ (c.laneState ↑l = 3 ∨ c.laneState ↑l = 4)
      let whole : Prop := b.length = 8 ∧ fieldAt b 0 1 = 197 ∧ fieldAt b 7 1 = crcMsb 8 7 0 (List.take 7 b)
      let w : Nat := fieldAt b 1 1
      (live) ∧ (whole) ∧ (128 ≤ w) ∧ (w % 128 ≠ ↑l % 96)) ∧
    (∃ (t : Nat) (l : Fin 100) (b : List Byte) (s : Machine.State),
      let c : Chip := (s.at_ t).chip
      let live : Prop := c.et5208 ↑l = false ∧ (c.laneState ↑l = 3 ∨ c.laneState ↑l = 4)
      let whole : Prop := b.length = 8 ∧ fieldAt b 0 1 = 197 ∧ fieldAt b 7 1 = crcMsb 8 7 0 (List.take 7 b)
      let w : Nat := fieldAt b 1 1
      (live) ∧ (whole) ∧ (128 ≤ w) ∧ (w % 128 = ↑l % 96)) ∧
    (∃ (t : Nat) (l : Fin 100) (s : Machine.State),
      let c : Chip := (s.at_ t).chip
      let live : Prop := c.et5208 ↑l = false ∧ (c.laneState ↑l = 3 ∨ c.laneState ↑l = 4)
      (live)) ∧
    (∃ (c : Chip) (l : Nat) (m : Nat) (ps : Nat) (turn : Nat) (bipOk : Bool) (onTime : Bool),
      let x : Lane := c.lane l
      let good : Nat := if onTime = true ∧ Option.map (fun (p : Nat) => (p + 1) % 2 ^ 24) x.mcount = some m then x.good + 1 else 1
      let d : Chip := c.setLane l { x with mcount := some m, arr := ps, good := good, missing := 0 }
      let i : Bool × Chip := d.checker Blk.lq (l / 4) 17 (l % 4)
      let d1 : Chip := if i.fst = true ∧ bipOk = true then i.snd.raise Blk.lq (l / 4) { src := 17, inj := true, cell := l % 4, acted := 1, detail := 0, detail2 := 0, level := none } else i.snd
      let d2 : Chip := (if bipOk = true then d1 else d1.bipMismatch l).noteRtt l m ps turn
      (l < 96) ∧ (c.et5208 l = false) ∧ (d2.laneState l = 3) ∧ (good < 2)) ∧
    (∃ (c : Chip) (l : Nat) (m : Nat) (ps : Nat) (turn : Nat) (bipOk : Bool) (onTime : Bool),
      let x : Lane := c.lane l
      let good : Nat := if onTime = true ∧ Option.map (fun (p : Nat) => (p + 1) % 2 ^ 24) x.mcount = some m then x.good + 1 else 1
      let d : Chip := c.setLane l { x with mcount := some m, arr := ps, good := good, missing := 0 }
      let i : Bool × Chip := d.checker Blk.lq (l / 4) 17 (l % 4)
      let d1 : Chip := if i.fst = true ∧ bipOk = true then i.snd.raise Blk.lq (l / 4) { src := 17, inj := true, cell := l % 4, acted := 1, detail := 0, detail2 := 0, level := none } else i.snd
      let d2 : Chip := (if bipOk = true then d1 else d1.bipMismatch l).noteRtt l m ps turn
      let sk : Nat := d2.skewOf l m
      (l < 96) ∧ (c.et5208 l = false) ∧ (d2.laneState l = 3) ∧ (2 ≤ good) ∧ (96 < sk)) ∧
    (∃ (c : Chip) (l : Nat) (m : Nat) (ps : Nat) (turn : Nat) (bipOk : Bool) (onTime : Bool),
      let x : Lane := c.lane l
      let good : Nat := if onTime = true ∧ Option.map (fun (p : Nat) => (p + 1) % 2 ^ 24) x.mcount = some m then x.good + 1 else 1
      let d : Chip := c.setLane l { x with mcount := some m, arr := ps, good := good, missing := 0 }
      let i : Bool × Chip := d.checker Blk.lq (l / 4) 17 (l % 4)
      let d1 : Chip := if i.fst = true ∧ bipOk = true then i.snd.raise Blk.lq (l / 4) { src := 17, inj := true, cell := l % 4, acted := 1, detail := 0, detail2 := 0, level := none } else i.snd
      let d2 : Chip := (if bipOk = true then d1 else d1.bipMismatch l).noteRtt l m ps turn
      let sk : Nat := d2.skewOf l m
      (l < 96) ∧ (c.et5208 l = false) ∧ (d2.laneState l = 3) ∧ (2 ≤ good) ∧ (sk ≤ 96)) ∧
    (∃ (c : Chip) (l : Nat) (m : Nat) (ps : Nat) (turn : Nat) (bipOk : Bool) (onTime : Bool),
      let x : Lane := c.lane l
      let good : Nat := if onTime = true ∧ Option.map (fun (p : Nat) => (p + 1) % 2 ^ 24) x.mcount = some m then x.good + 1 else 1
      let d : Chip := c.setLane l { x with mcount := some m, arr := ps, good := good, missing := 0 }
      let i : Bool × Chip := d.checker Blk.lq (l / 4) 17 (l % 4)
      let d1 : Chip := if i.fst = true ∧ bipOk = true then i.snd.raise Blk.lq (l / 4) { src := 17, inj := true, cell := l % 4, acted := 1, detail := 0, detail2 := 0, level := none } else i.snd
      let d2 : Chip := (if bipOk = true then d1 else d1.bipMismatch l).noteRtt l m ps turn
      (l < 96) ∧ (c.et5208 l = false) ∧ (d2.laneState l ≠ 3)) ∧
    (∃ (t : Nat) (l : Fin 100) (s : Machine.State),
      let c : Chip := (s.at_ t).chip
      let x : Lane := c.lane ↑l
      (c.laneState ↑l = 4) ∧ (x.dataAt + dtMilli ≤ c.dt)) ∧
    (∃ (t : Nat) (l : Fin 100) (s : Machine.State),
      let c : Chip := (s.at_ t).chip
      let x : Lane := c.lane ↑l
      (c.laneState ↑l ≠ 4 ∨ c.dt < x.dataAt + dtMilli)) ∧
    (∃ (t : Nat) (l : Fin 100) (s : Machine.State),
      let c : Chip := (s.at_ t).chip
      let x : Lane := c.lane ↑l
      let due : Prop := c.laneState ↑l = 4 ∧ x.scan = 0 ∧ c.pointOn ↑l = false ∧ x.scanAt + max 1 (c.get (LQ_EYECFG_SCANPER (↑l / 4))) * 250 * dtMilli ≤ c.dt
      (due)) ∧
    (∃ (t : Nat) (l : Fin 100) (s : Machine.State),
      let c : Chip := (s.at_ t).chip
      let x : Lane := c.lane ↑l
      let due : Prop := c.laneState ↑l = 4 ∧ x.scan = 0 ∧ c.pointOn ↑l = false ∧ x.scanAt + max 1 (c.get (LQ_EYECFG_SCANPER (↑l / 4))) * 250 * dtMilli ≤ c.dt
      (¬due)) ∧
    (∃ (t : Nat) (l : Fin 100) (s : Machine.State),
      let c : Chip := (s.at_ t).chip.flushTrain ↑l
      let search : Prop := c.laneState ↑l = 2 ∧ c.et5208 ↑l = false ∧ (c.lane ↑l).train.phase = 2
      (search)) ∧
    (∃ (t : Nat) (l : Fin 100) (k : ScanCounts) (s : Machine.State),
      let w : Nat := ((s.at_ t).chip.eyeFigure (↑l) k).fst
      let h : Nat := ((s.at_ t).chip.eyeFigure (↑l) k).snd
      let c : Chip := (s.at_ t).chip.flushTrain ↑l
      let shown : Chip → Chip := fun (d : Chip) => ((d.set (LQ_EYE_WIDTH (↑l / 4) (↑l % 4)) w).set (LQ_EYE_HEIGHT (↑l / 4) (↑l % 4)) h).count (LQ_EYE_SCANS (↑l / 4) (↑l % 4))
      let serves : Prop := c.laneState ↑l = 4 ∧ ((c.lane ↑l).scan = 1 ∨ (c.lane ↑l).scan = 2)
      let d : Chip := shown c
      let good : Prop := d.get (LQ_EYECFG_EWMIN (↑l / 4)) ≤ w ∧ d.get (LQ_EYECFG_EHMIN (↑l / 4)) ≤ h
      (serves) ∧ (good)) ∧
    (∃ (t : Nat) (l : Fin 100) (k : ScanCounts) (s : Machine.State),
      let w : Nat := ((s.at_ t).chip.eyeFigure (↑l) k).fst
      let h : Nat := ((s.at_ t).chip.eyeFigure (↑l) k).snd
      let c : Chip := (s.at_ t).chip.flushTrain ↑l
      let shown : Chip → Chip := fun (d : Chip) => ((d.set (LQ_EYE_WIDTH (↑l / 4) (↑l % 4)) w).set (LQ_EYE_HEIGHT (↑l / 4) (↑l % 4)) h).count (LQ_EYE_SCANS (↑l / 4) (↑l % 4))
      let serves : Prop := c.laneState ↑l = 4 ∧ ((c.lane ↑l).scan = 1 ∨ (c.lane ↑l).scan = 2)
      let d : Chip := shown c
      let x : Lane := d.lane ↑l
      let good : Prop := d.get (LQ_EYECFG_EWMIN (↑l / 4)) ≤ w ∧ d.get (LQ_EYECFG_EHMIN (↑l / 4)) ≤ h
      (serves) ∧ (¬good) ∧ (x.scan = 1)) ∧
    (∃ (t : Nat) (l : Fin 100) (k : ScanCounts) (s : Machine.State),
      let w : Nat := ((s.at_ t).chip.eyeFigure (↑l) k).fst
      let h : Nat := ((s.at_ t).chip.eyeFigure (↑l) k).snd
      let c : Chip := (s.at_ t).chip.flushTrain ↑l
      let shown : Chip → Chip := fun (d : Chip) => ((d.set (LQ_EYE_WIDTH (↑l / 4) (↑l % 4)) w).set (LQ_EYE_HEIGHT (↑l / 4) (↑l % 4)) h).count (LQ_EYE_SCANS (↑l / 4) (↑l % 4))
      let serves : Prop := c.laneState ↑l = 4 ∧ ((c.lane ↑l).scan = 1 ∨ (c.lane ↑l).scan = 2)
      let d : Chip := shown c
      let x : Lane := d.lane ↑l
      let good : Prop := d.get (LQ_EYECFG_EWMIN (↑l / 4)) ≤ w ∧ d.get (LQ_EYECFG_EHMIN (↑l / 4)) ≤ h
      (serves) ∧ (¬good) ∧ (x.scan ≠ 1)) ∧
    (∃ (t : Nat) (l : Fin 100) (s : Machine.State),
      let c : Chip := (s.at_ t).chip.flushTrain ↑l
      let search : Prop := c.laneState ↑l = 2 ∧ c.et5208 ↑l = false ∧ (c.lane ↑l).train.phase = 2
      let serves : Prop := c.laneState ↑l = 4 ∧ ((c.lane ↑l).scan = 1 ∨ (c.lane ↑l).scan = 2)
      (¬search) ∧ (¬serves)) ∧
    (∃ (berth : Nat) (mid : Nat),
      (berth < mid)) ∧
    (∃ (berth : Nat) (mid : Nat) (up : List Nat) (down : List Nat),
      (mid ≤ berth) ∧ (∀ (v : Nat), v ∈ up → v ≤ berth) ∧ (∀ (v : Nat), v ∈ down → v ≤ berth)) ∧
    (∃ (t : Nat) (m : Fin 8) (q : Fin 24) (v : BitVec 32) (s : Machine.State),
      let c : Chip := (s.at_ t).chip
      let point : Option EyePoint := FMap.get none c.lanes.point ↑q
      (c.mayWrite (↑m) Blk.lq (↑q) 72 = true) ∧ (c.reachable Blk.lq ↑q = true) ∧ (point ≠ none) ∧ (bit v.toNat 31 = true)) ∧
    (∃ (t : Nat) (m : Fin 8) (q : Fin 24) (v : BitVec 32) (s : Machine.State),
      let c : Chip := (s.at_ t).chip
      (c.mayWrite (↑m) Blk.lq (↑q) 72 = true) ∧ (c.reachable Blk.lq ↑q = true) ∧ (bit v.toNat 31 = false)) ∧
    (∃ (t : Nat) (m : Fin 8) (q : Fin 24) (v : BitVec 32) (s : Machine.State),
      let c : Chip := (s.at_ t).chip
      let point : Option EyePoint := FMap.get none c.lanes.point ↑q
      (c.mayWrite (↑m) Blk.lq (↑q) 72 = true) ∧ (c.reachable Blk.lq ↑q = true) ∧ (point = none) ∧ (bit v.toNat 31 = true)) ∧
    (∃ (t : Nat) (q : Fin 24) (s : Machine.State),
      let c : Chip := (s.at_ t).chip
      let point : Option EyePoint := FMap.get none c.lanes.point ↑q
      (point = none)) ∧
    (∃ (t : Nat) (q : Fin 24) (s : Machine.State) (p : EyePoint),
      let c : Chip := (s.at_ t).chip
      let point : Option EyePoint := FMap.get none c.lanes.point ↑q
      let l : Nat := 4 * ↑q + p.lane
      (point = some p) ∧ (c.scanning l = true)) ∧
    (∃ (t : Nat) (q : Fin 24) (s : Machine.State) (p : EyePoint),
      let c : Chip := (s.at_ t).chip
      let point : Option EyePoint := FMap.get none c.lanes.point ↑q
      let l : Nat := 4 * ↑q + p.lane
      (point = some p) ∧ (c.scanning l = false)) ∧
    (∃ (t : Nat) (l : Fin 96) (s : Machine.State),
      let c : Chip := (s.at_ t).chip
      let x : Lane := c.lane ↑l
      (x.recal = false ∨ x.scan ≠ 0)) ∧
    (∃ (t : Nat) (l : Fin 96) (beyond : Bool) (s : Machine.State),
      let c : Chip := (s.at_ t).chip
      let x : Lane := c.lane ↑l
      let new : Nat × Chip := c.fresh 65536
      let kept : Chip := c.raiseLane (↑l) 18
      let d : Chip := if beyond = true then kept.setLane ↑l { (kept.lane ↑l) with recal := false, sampler := x.sampler } else new.snd.setLane ↑l { (new.snd.lane ↑l) with recal := false, sampler := new.fst }
      let f : Chip := d.recalFrom (↑l / 4) (↑l % 4 + 1)
      let last : Prop := (∀ (j : Nat), j < 96 → (f.lane j).recal = false) ∧ f.lanes.again = true
      (x.recal = true) ∧ (x.scan = 0) ∧ (¬last)) ∧
    (∃ (t : Nat) (l : Fin 96) (beyond : Bool) (s : Machine.State),
      let c : Chip := (s.at_ t).chip
      let x : Lane := c.lane ↑l
      let new : Nat × Chip := c.fresh 65536
      let kept : Chip := c.raiseLane (↑l) 18
      let d : Chip := if beyond = true then kept.setLane ↑l { (kept.lane ↑l) with recal := false, sampler := x.sampler } else new.snd.setLane ↑l { (new.snd.lane ↑l) with recal := false, sampler := new.fst }
      let f : Chip := d.recalFrom (↑l / 4) (↑l % 4 + 1)
      let last : Prop := (∀ (j : Nat), j < 96 → (f.lane j).recal = false) ∧ f.lanes.again = true
      (x.recal = true) ∧ (x.scan = 0) ∧ (last)) ∧
    (∃ (t : Nat) (l : Fin 96) (s : Machine.State),
      let c : Chip := (s.at_ t).chip
      (c.laneState ↑l ≠ 4)) ∧
    (∃ (t : Nat) (l : Fin 96) (s : Machine.State),
      let c : Chip := (s.at_ t).chip
      let d : Chip := c.freeze
      let q : List LaneFrame := (d.lane ↑l).txq
      (c.laneState ↑l = 4) ∧ (d.waiting (↑l) false ≠ []) ∧ (∀ (f : LaneFrame), f ∈ q → 3 < f.rank)) ∧
    (∃ (t : Nat) (l : Fin 96) (s : Machine.State),
      let c : Chip := (s.at_ t).chip
      let d : Chip := c.freeze
      let q : List LaneFrame := (d.lane ↑l).txq
      (c.laneState ↑l = 4) ∧ (d.waiting (↑l) false = []) ∧ (d.waiting (↑l) true ≠ []) ∧ (∀ (f : LaneFrame), f ∈ q → 4 < f.rank)) ∧
    (∃ (t : Nat) (l : Fin 96) (s : Machine.State),
      let c : Chip := (s.at_ t).chip
      let d : Chip := c.freeze
      let q : List LaneFrame := (d.lane ↑l).txq
      (c.laneState ↑l = 4) ∧ (d.waiting (↑l) false = []) ∧ (d.waiting (↑l) true = []) ∧ (q = [])) ∧
    (∃ (t : Nat) (l : Fin 96) (s : Machine.State) (f : LaneFrame),
      let c : Chip := (s.at_ t).chip
      let d : Chip := c.freeze
      let q : List LaneFrame := (d.lane ↑l).txq
      (f ∈ q) ∧ (c.laneState ↑l = 4) ∧ (f.rank ≤ 3 ∨ d.waiting (↑l) false = [] ∧ (f.rank ≤ 4 ∨ d.waiting (↑l) true = [])) ∧
        (∀ (g : LaneFrame), g ∈ q → f.rank ≤ g.rank)) :=
  ⟨⟨0, 0, stateWith [], by dsimp only; decide +kernel⟩,
   ⟨0, 0, [], stateWith [(LQ_LSTAT_STATE 0 0, 3)] (id), by dsimp only; decide +kernel⟩,
   ⟨0, 96, markerOf 0 5, stateWith [(LQ_LSTAT_STATE 24 0, 4)], by dsimp only; decide +kernel⟩,
   ⟨0, 0, markerOf 129 5, stateWith [(LQ_LSTAT_STATE 0 0, 3)] (id), by dsimp only; decide +kernel⟩,
   ⟨0, 0, markerOf 128 5, stateWith [(LQ_LSTAT_STATE 0 0, 3)] (id), by dsimp only; decide +kernel⟩,
   ⟨0, 0, stateWith [(LQ_LSTAT_STATE 0 0, 3)] (id), by dsimp only; decide +kernel⟩,
   ⟨(stateWith [(LQ_LSTAT_STATE 0 0, 3)] (id)).chip, 0, 5, 0, 0, true, true, by dsimp only; decide +kernel⟩,
   ⟨(stateWith [(LQ_LSTAT_STATE 0 0, 3), (LQ_LSTAT_STATE 0 1, 3)] (fun c => ((barsOn [0] c).setLane 0 { mcount := some 4, good := 1 }).setLane 1 { mcount := some 5 })).chip, 0, 5, 1000000, 0, true, true, by dsimp only; decide +kernel⟩,
   ⟨(stateWith [(LQ_LSTAT_STATE 0 0, 3)] ((·.setLane 0 { mcount := some 4, good := 1 }))).chip, 0, 5, 0, 0, true, true, by dsimp only; decide +kernel⟩,
   ⟨(stateWith [(LQ_LSTAT_STATE 0 0, 4)] (id)).chip, 0, 5, 0, 0, true, true, by dsimp only; decide +kernel⟩,
   ⟨65536 * 10000000000, 0, stateWith [(LQ_LSTAT_STATE 0 0, 4)] (id), by dsimp only; decide +kernel⟩,
   ⟨0, 0, stateWith [], by dsimp only; decide +kernel⟩,
   ⟨65536 * 10000000000, 0, stateWith [(LQ_LSTAT_STATE 0 0, 4)] (id), by dsimp only; decide +kernel⟩,
   ⟨0, 0, stateWith [], by dsimp only; decide +kernel⟩,
   ⟨0, 0, stateWith [(LQ_LSTAT_STATE 0 0, 2)] ((·.setLane 0 { train := { phase := 2 } })), by dsimp only; decide +kernel⟩,
   ⟨0, 0, ⟨⟨0, List.replicate 31 0, List.replicate 32 0⟩, List.replicate 63 0, List.replicate 64 0⟩, stateWith [(LQ_LSTAT_STATE 0 0, 4)] ((·.setLane 0 { scan := 1 })), by dsimp only; decide +kernel⟩,
   ⟨0, 0, ⟨⟨2 ^ 40, [], []⟩, [], []⟩, stateWith [(LQ_LSTAT_STATE 0 0, 4)] ((·.setLane 0 { scan := 1 })), by dsimp only; decide +kernel⟩,
   ⟨0, 0, ⟨⟨2 ^ 40, [], []⟩, [], []⟩, stateWith [(LQ_LSTAT_STATE 0 0, 4)] ((·.setLane 0 { scan := 2 })), by dsimp only; decide +kernel⟩,
   ⟨0, 0, stateWith [], by dsimp only; decide +kernel⟩,
   ⟨0, 1, by decide +kernel⟩,
   ⟨0, 0, [], [], by decide +kernel⟩,
   ⟨0, 0, 0, 0x80000000, stateWith [] (fun c => { c with lanes := { c.lanes with point := [(0, some ⟨0, 3, 4⟩)] } }), by dsimp only; decide +kernel⟩,
   ⟨0, 0, 0, 0, stateWith [], by dsimp only; decide +kernel⟩,
   ⟨0, 0, 0, 0x80000000, stateWith [], by dsimp only; decide +kernel⟩,
   ⟨0, 0, stateWith [], by dsimp only; decide +kernel⟩,
   ⟨0, 0, stateWith [(LQ_LSTAT_STATE 0 0, 4)] (fun c => let d := c.setLane 0 { scan := 1 }; { d with lanes := { d.lanes with point := [(0, some ⟨0, 3, 4⟩)] } }), ⟨0, 3, 4⟩, by dsimp only; decide +kernel⟩,
   ⟨0, 0, stateWith [] (fun c => { c with lanes := { c.lanes with point := [(0, some ⟨0, 3, 4⟩)] } }), ⟨0, 3, 4⟩, by dsimp only; decide +kernel⟩,
   ⟨0, 0, stateWith [], by dsimp only; decide +kernel⟩,
   ⟨0, 0, true, stateWith [] (·.setLane 0 { recal := true }), by dsimp only; decide +kernel⟩,
   ⟨0, 0, true, stateWith [] (fun c => let d := c.setLane 0 { recal := true }; { d with lanes := { d.lanes with again := true } }), by dsimp only; decide +kernel⟩,
   ⟨0, 0, stateWith [], by dsimp only; decide +kernel⟩,
   ⟨0, 0, stateWith [(LQ_LSTAT_STATE 0 0, 4)] (queued0 none), by dsimp only; decide +kernel⟩,
   ⟨0, 0, stateWith [(LQ_LSTAT_STATE 0 0, 4)] (queued0 (some 70000)), by dsimp only; decide +kernel⟩,
   ⟨0, 0, stateWith [(LQ_LSTAT_STATE 0 0, 4)] (id), by dsimp only; decide +kernel⟩,
   ⟨0, 0, stateWith [(LQ_LSTAT_STATE 0 0, 4)] ((·.setLane 0 { txq := [.time] })), .time, by dsimp only; decide +kernel⟩⟩

theorem met_HubRecordsAndRegularFrames :
    (∃ (t : Nat) (l : Fin 96) (fr : List RxBlock) (i : Nat) (r : List Byte) (s : Machine.State),
      let d : Chip := arrived (s.at_ t).chip (↑l) fr
      let head : Nat := 16 * ↑l + bits (fieldAt r 1 1) 1 5 % 16
      (Received t l fr i 1 r s) ∧ (d.findRow head (fieldAt r 4 4) = none)) ∧
    (∃ (t : Nat) (l : Fin 96) (fr : List RxBlock) (i : Nat) (r : List Byte) (s : Machine.State) (k : Nat) (n : Nat),
      let d : Chip := arrived (s.at_ t).chip (↑l) fr
      let head : Nat := 16 * ↑l + bits (fieldAt r 1 1) 1 5 % 16
      (Received t l fr i 1 r s) ∧ (d.findRow head (fieldAt r 4 4) = some (k, n)) ∧ (d.headRow? k n head = none)) ∧
    (∃ (t : Nat) (l : Fin 96) (fr : List RxBlock) (i : Nat) (r : List Byte) (s : Machine.State) (k : Nat) (n : Nat) (h : HeadRow),
      let d : Chip := arrived (s.at_ t).chip (↑l) fr
      let head : Nat := 16 * ↑l + bits (fieldAt r 1 1) 1 5 % 16
      (Received t l fr i 1 r s) ∧ (d.findRow head (fieldAt r 4 4) = some (k, n)) ∧ (d.headRow? k n head = some h) ∧
        (h.ok = true ∨ h.launched = none)) ∧
    (∃ (t : Nat) (l : Fin 96) (fr : List RxBlock) (i : Nat) (r : List Byte) (s : Machine.State) (k : Nat) (n : Nat) (h : HeadRow),
      let d : Chip := arrived (s.at_ t).chip (↑l) fr
      let head : Nat := 16 * ↑l + bits (fieldAt r 1 1) 1 5 % 16
      let good : Prop := fieldAt r 2 1 = 0
      (Received t l fr i 1 r s) ∧ (d.findRow head (fieldAt r 4 4) = some (k, n)) ∧ (d.headRow? k n head = some h) ∧ (h.ok = false) ∧
        (h.launched ≠ none) ∧ (good) ∧ (fieldAt r 8 4 = h.dcrc)) ∧
    (∃ (t : Nat) (l : Fin 96) (fr : List RxBlock) (i : Nat) (r : List Byte) (s : Machine.State) (k : Nat) (n : Nat) (h : HeadRow),
      let d : Chip := arrived (s.at_ t).chip (↑l) fr
      let head : Nat := 16 * ↑l + bits (fieldAt r 1 1) 1 5 % 16
      let good : Prop := fieldAt r 2 1 = 0
      (Received t l fr i 1 r s) ∧ (d.findRow head (fieldAt r 4 4) = some (k, n)) ∧ (d.headRow? k n head = some h) ∧ (h.ok = false) ∧
        (h.launched ≠ none) ∧ (¬good ∨ fieldAt r 8 4 ≠ h.dcrc)) ∧
    (∃ (t : Nat) (l : Fin 96) (a : Fin 16) (row : Nat) (s : Machine.State),
      let c : Chip := (s.at_ t).chip
      let head : Nat := 16 * ↑l + ↑a
      let late : Prop := ∃ (x : Nat × Nat), x ∈ c.findRow head row ∧ ∃ (h : HeadRow), h ∈ c.headRow? x.fst x.snd head ∧ ∃ (sent : Nat), sent ∈ h.launched ∧ h.ok = false ∧ sent + 20000 ≤ c.ns
      (¬late)) ∧
    (∃ (t : Nat) (l : Fin 96) (a : Fin 16) (row : Nat) (s : Machine.State) (k : Nat) (n : Nat) (h : HeadRow) (sent : Nat),
      let c : Chip := (s.at_ t).chip
      let head : Nat := 16 * ↑l + ↑a
      (c.findRow head row = some (k, n)) ∧ (c.headRow? k n head = some h) ∧ (h.launched = some sent) ∧ (h.ok = false) ∧ (sent + 20000 ≤ c.ns)) ∧
    (∃ (h : HeadRow),
      (h.tries < 4)) ∧
    (∃ (h : HeadRow),
      (4 ≤ h.tries)) ∧
    (∃ (t : Nat) (l : Fin 96) (fr : List RxBlock) (i : Nat) (r : List Byte) (s : Machine.State),
      let d : Chip := arrived (s.at_ t).chip (↑l) fr
      let bank : Nat := fieldAt r 1 1 % 2
      let covered : SentStamps → Prop := fun (f : SentStamps) => f.bank = bank ∧ (fieldAt r 4 4 + 2 ^ 32 - f.fseq) % 2 ^ 32 < 2 ^ 31
      let keep : List SentStamps := List.filter (fun (f : SentStamps) => decide ¬covered f) (d.lane ↑l).unacked
      let named : SentStamps → Prop := fun (f : SentStamps) => f.bank = bank ∧ f.fseq = fieldAt r 8 4
      let asks : Prop := bit (fieldAt r 2 1) 0 = true
      (Received t l fr i 2 r s) ∧ (¬asks ∨ ∀ (f : SentStamps), f ∈ keep → ¬named f)) ∧
    (∃ (t : Nat) (l : Fin 96) (fr : List RxBlock) (i : Nat) (r : List Byte) (s : Machine.State),
      let d : Chip := arrived (s.at_ t).chip (↑l) fr
      let bank : Nat := fieldAt r 1 1 % 2
      let covered : SentStamps → Prop := fun (f : SentStamps) => f.bank = bank ∧ (fieldAt r 4 4 + 2 ^ 32 - f.fseq) % 2 ^ 32 < 2 ^ 31
      let keep : List SentStamps := List.filter (fun (f : SentStamps) => decide ¬covered f) (d.lane ↑l).unacked
      let named : SentStamps → Prop := fun (f : SentStamps) => f.bank = bank ∧ f.fseq = fieldAt r 8 4
      let asks : Prop := bit (fieldAt r 2 1) 0 = true
      (Received t l fr i 2 r s) ∧ (asks) ∧ (∃ (f : SentStamps), f ∈ keep ∧ named f)) ∧
    (∃ (t : Nat) (l : Fin 96) (seq : Nat) (s : Machine.State),
      let c : Chip := (s.at_ t).chip
      let old : SentStamps → Prop := fun (f : SentStamps) => f.fseq = seq ∧ f.at_ + 20000 ≤ c.ns
      (∃ (f : SentStamps), f ∈ (c.lane ↑l).unacked ∧ old f)) ∧
    (∃ (t : Nat) (l : Fin 96) (seq : Nat) (s : Machine.State),
      let c : Chip := (s.at_ t).chip
      let old : SentStamps → Prop := fun (f : SentStamps) => f.fseq = seq ∧ f.at_ + 20000 ≤ c.ns
      (∀ (f : SentStamps), f ∈ (c.lane ↑l).unacked → ¬old f)) ∧
    (∃ (c : Chip) (l : Nat) (f : SentStamps),
      let d : Chip := c.freeze
      let hs : List (Nat × Nat) := List.flatMap (fun (e : Nat × Nat) => List.map (fun (a : Nat) => (e.fst, 16 * l + a)) (setBits 16 e.snd)) f.es
      let g : Chip := (d.setLane l { (d.lane l) with unacked := List.filter (fun (x : SentStamps) => decide (x ≠ f)) (d.lane l).unacked }).bump (LQ_HERR_RESENDS (l / 4) (l % 4))
      let row : Chip → Nat × Nat → Option HeadRow := fun (g : Chip) (e : Nat × Nat) => (g.findRow e.snd (e.fst % 2 ^ 32)).bind fun (x : Nat × Nat) => g.headRow? x.fst x.snd e.snd
      (∀ (e : Nat × Nat), e ∈ hs → ∀ (h : HeadRow), h ∈ row g e → h.frozen = false)) ∧
    (∃ (c : Chip) (l : Nat) (f : SentStamps),
      let d : Chip := c.freeze
      let hs : List (Nat × Nat) := List.flatMap (fun (e : Nat × Nat) => List.map (fun (a : Nat) => (e.fst, 16 * l + a)) (setBits 16 e.snd)) f.es
      let g : Chip := (d.setLane l { (d.lane l) with unacked := List.filter (fun (x : SentStamps) => decide (x ≠ f)) (d.lane l).unacked }).bump (LQ_HERR_RESENDS (l / 4) (l % 4))
      let row : Chip → Nat × Nat → Option HeadRow := fun (g : Chip) (e : Nat × Nat) => (g.findRow e.snd (e.fst % 2 ^ 32)).bind fun (x : Nat × Nat) => g.headRow? x.fst x.snd e.snd
      (∃ (e : Nat × Nat), e ∈ hs ∧ ∃ (h : HeadRow), h ∈ row g e ∧ h.frozen = true)) ∧
    (∃ (t : Nat) (l : Fin 96) (fr : List RxBlock) (i : Nat) (r : List Byte) (s : Machine.State),
      (Received t l fr i 3 r s) ∧ (bit (fieldAt r 1 1) 0 = true)) ∧
    (∃ (t : Nat) (l : Fin 96) (fr : List RxBlock) (i : Nat) (r : List Byte) (s : Machine.State),
      (Received t l fr i 3 r s) ∧ (bit (fieldAt r 1 1) 0 = false)) ∧
    (∃ (t : Nat) (l : Fin 96) (fr : List RxBlock) (i : Nat) (r : List Byte) (s : Machine.State),
      (Received t l fr i 6 r s)) ∧
    (∃ (t : Nat) (l : Fin 96) (fr : List RxBlock) (i : Nat) (r : List Byte) (s : Machine.State),
      (Received t l fr i 8 r s)) ∧
    (∃ (t : Nat) (m : Fin 8) (q : Fin 24) (v : BitVec 32) (s : Machine.State),
      let c : Chip := (s.at_ t).chip
      let running : Prop := FMap.get none c.lanes.ee ↑q ≠ none
      (c.mayWrite (↑m) Blk.lq (↑q) 80 = true) ∧ (c.reachable Blk.lq ↑q = true) ∧ (running) ∧ (bit v.toNat 31 = true)) ∧
    (∃ (t : Nat) (m : Fin 8) (q : Fin 24) (v : BitVec 32) (s : Machine.State),
      let c : Chip := (s.at_ t).chip
      (c.mayWrite (↑m) Blk.lq (↑q) 80 = true) ∧ (c.reachable Blk.lq ↑q = true) ∧ (bit v.toNat 31 = false)) ∧
    (∃ (t : Nat) (m : Fin 8) (q : Fin 24) (v : BitVec 32) (s : Machine.State),
      let c : Chip := (s.at_ t).chip
      let running : Prop := FMap.get none c.lanes.ee ↑q ≠ none
      let w : Bool := bit v.toNat 30
      let n : Nat := max 1 (min 8 (bits v.toNat 20 4))
      let d : Chip := ((c.set (LQ_HCMD_WRITE ↑q) (bits v.toNat 30 1)).set (LQ_HCMD_LANE ↑q) (bits v.toNat 28 2)).set (LQ_HCMD_ADDR ↑q) (bits v.toNat 24 4)
      let d1 : Chip := (d.set (LQ_HCMD_COUNT ↑q) n).set (LQ_HCMD_EEADDR ↑q) (bits v.toNat 0 16)
      let go : Chip := d1.set (LQ_HRES_DONE ↑q) 0
      let cold : Prop := w = true ∧ go.writeTemp = false
      (c.mayWrite (↑m) Blk.lq (↑q) 80 = true) ∧ (c.reachable Blk.lq ↑q = true) ∧ (¬running) ∧ (bit v.toNat 31 = true) ∧ (cold)) ∧
    (∃ (t : Nat) (m : Fin 8) (q : Fin 24) (v : BitVec 32) (s : Machine.State),
      let c : Chip := (s.at_ t).chip
      let running : Prop := FMap.get none c.lanes.ee ↑q ≠ none
      let w : Bool := bit v.toNat 30
      let lane : Nat := 4 * ↑q + bits v.toNat 28 2
      let n : Nat := max 1 (min 8 (bits v.toNat 20 4))
      let d : Chip := ((c.set (LQ_HCMD_WRITE ↑q) (bits v.toNat 30 1)).set (LQ_HCMD_LANE ↑q) (bits v.toNat 28 2)).set (LQ_HCMD_ADDR ↑q) (bits v.toNat 24 4)
      let d1 : Chip := (d.set (LQ_HCMD_COUNT ↑q) n).set (LQ_HCMD_EEADDR ↑q) (bits v.toNat 0 16)
      let go : Chip := d1.set (LQ_HRES_DONE ↑q) 0
      let cold : Prop := w = true ∧ go.writeTemp = false
      let foreign : Prop := w = true ∧ go.get (LQ_HST_OWNER (↑q) (lane % 4)) ≠ 0 ∧ go.ownsHub lane = false
      (c.mayWrite (↑m) Blk.lq (↑q) 80 = true) ∧ (c.reachable Blk.lq ↑q = true) ∧ (¬running) ∧ (bit v.toNat 31 = true) ∧ (¬cold) ∧ (foreign)) ∧
    (∃ (t : Nat) (m : Fin 8) (q : Fin 24) (v : BitVec 32) (s : Machine.State),
      let c : Chip := (s.at_ t).chip
      let running : Prop := FMap.get none c.lanes.ee ↑q ≠ none
      let w : Bool := bit v.toNat 30
      let lane : Nat := 4 * ↑q + bits v.toNat 28 2
      let n : Nat := max 1 (min 8 (bits v.toNat 20 4))
      let d : Chip := ((c.set (LQ_HCMD_WRITE ↑q) (bits v.toNat 30 1)).set (LQ_HCMD_LANE ↑q) (bits v.toNat 28 2)).set (LQ_HCMD_ADDR ↑q) (bits v.toNat 24 4)
      let d1 : Chip := (d.set (LQ_HCMD_COUNT ↑q) n).set (LQ_HCMD_EEADDR ↑q) (bits v.toNat 0 16)
      let go : Chip := d1.set (LQ_HRES_DONE ↑q) 0
      let cold : Prop := w = true ∧ go.writeTemp = false
      let foreign : Prop := w = true ∧ go.get (LQ_HST_OWNER (↑q) (lane % 4)) ≠ 0 ∧ go.ownsHub lane = false
      (c.mayWrite (↑m) Blk.lq (↑q) 80 = true) ∧ (c.reachable Blk.lq ↑q = true) ∧ (¬running) ∧ (bit v.toNat 31 = true) ∧ (¬cold) ∧ (¬foreign)) ∧
    (∃ (t : Nat) (l : Fin 96) (fr : List RxBlock) (i : Nat) (r : List Byte) (s : Machine.State),
      let d : Chip := arrived (s.at_ t).chip (↑l) fr
      (Received t l fr i 7 r s) ∧ (FMap.get none d.lanes.ee (↑l / 4) = none)) ∧
    (∃ (t : Nat) (l : Fin 96) (fr : List RxBlock) (i : Nat) (r : List Byte) (s : Machine.State) (x : EeAccess),
      let d : Chip := arrived (s.at_ t).chip (↑l) fr
      let mine : EeAccess → Prop := fun (x : EeAccess) => x.lane = ↑l ∧ x.tag = fieldAt r 3 1 ∧ x.addr = fieldAt r 1 1 % 32
      (Received t l fr i 7 r s) ∧ (FMap.get none d.lanes.ee (↑l / 4) = some x) ∧ (¬mine x)) ∧
    (∃ (t : Nat) (l : Fin 96) (fr : List RxBlock) (i : Nat) (r : List Byte) (s : Machine.State) (x : EeAccess),
      let d : Chip := arrived (s.at_ t).chip (↑l) fr
      let mine : EeAccess → Prop := fun (x : EeAccess) => x.lane = ↑l ∧ x.tag = fieldAt r 3 1 ∧ x.addr = fieldAt r 1 1 % 32
      (Received t l fr i 7 r s) ∧ (FMap.get none d.lanes.ee (↑l / 4) = some x) ∧ (mine x) ∧ (fieldAt r 2 1 = 0) ∧ (x.write = false)) ∧
    (∃ (t : Nat) (l : Fin 96) (fr : List RxBlock) (i : Nat) (r : List Byte) (s : Machine.State) (x : EeAccess),
      let d : Chip := arrived (s.at_ t).chip (↑l) fr
      let mine : EeAccess → Prop := fun (x : EeAccess) => x.lane = ↑l ∧ x.tag = fieldAt r 3 1 ∧ x.addr = fieldAt r 1 1 % 32
      (Received t l fr i 7 r s) ∧ (FMap.get none d.lanes.ee (↑l / 4) = some x) ∧ (mine x) ∧ (fieldAt r 2 1 ≠ 0 ∨ x.write = true)) ∧
    (∃ (t : Nat) (q : Fin 24) (s : Machine.State),
      let c : Chip := (s.at_ t).chip
      (FMap.get none c.lanes.ee ↑q = none)) ∧
    (∃ (t : Nat) (q : Fin 24) (s : Machine.State) (x : EeAccess),
      let c : Chip := (s.at_ t).chip
      (FMap.get none c.lanes.ee ↑q = some x) ∧ (x.since + 50000000 ≤ c.ns)) ∧
    (∃ (t : Nat) (q : Fin 24) (s : Machine.State) (x : EeAccess),
      let c : Chip := (s.at_ t).chip
      (FMap.get none c.lanes.ee ↑q = some x) ∧ (c.ns < x.since + 50000000)) ∧
    (∃ (t : Nat) (s : Machine.State),
      let c : Chip := (s.at_ t).chip
      (c.twin.deciding = false) ∧ (c.twin.needDt = false)) ∧
    (∃ (t : Nat) (s : Machine.State),
      let c : Chip := (s.at_ t).chip
      (c.twin.deciding = true ∨ c.twin.needDt = true)) ∧
    (∃ (t : Nat) (s : Machine.State) (h : Handoff),
      let c : Chip := (s.at_ t).chip
      (c.twin.handoff = some h)) ∧
    (∃ (t : Nat) (s : Machine.State),
      let c : Chip := (s.at_ t).chip
      (c.twin.handoff = none)) ∧
    (∃ (t : Nat) (l : Fin 96) (s : Machine.State),
      let c : Chip := (s.at_ t).chip
      let keeps : Prop := c.ownsHub ↑l = true ∧ (c.role = 0 ∨ c.role = 1) ∧ ∀ (r : BistRun), c.health.bist = some r → r.kind ≠ 2
      (keeps)) ∧
    (∃ (t : Nat) (l : Fin 96) (s : Machine.State),
      let c : Chip := (s.at_ t).chip
      let keeps : Prop := c.ownsHub ↑l = true ∧ (c.role = 0 ∨ c.role = 1) ∧ ∀ (r : BistRun), c.health.bist = some r → r.kind ≠ 2
      (¬keeps)) ∧
    (∃ (t : Nat) (l : Fin 96) (fr : List RxBlock) (i : Nat) (s : Machine.State) (e : Instr × Nat),
      (e ∈ [(Instr.echo t l { fr := fr, i := i }, 1), (Instr.ack t l { fr := fr, i := i }, 2), (Instr.fireReport t l { fr := fr, i := i }, 3), (Instr.epochRecord t l { fr := fr, i := i }, 4), (Instr.claimReply t l { fr := fr, i := i }, 5), (Instr.tempRecord t l { fr := fr, i := i }, 6), (Instr.eeReply t l { fr := fr, i := i }, 7), (Instr.hubInfo t l { fr := fr, i := i }, 8)]) ∧
        (NotReceived t l fr i e.snd s)) :=
  ⟨⟨0, 0, statFrame [1, 0, 0, 0, 5], 0, fit 16 [1, 0, 0, 0, 5], stateWith [(LQ_LSTAT_STATE 0 0, 4)], by dsimp only; unfold Received; decide +kernel⟩,
   ⟨0, 0, statFrame [1, 0, 0, 0, 5], 0, fit 16 [1, 0, 0, 0, 5], stateWith [(LQ_LSTAT_STATE 0 0, 4)] (fun c => c.setBar 0 { ring := [{ n := 5 }, { n := 5, heads := [{ head := 0 }] }] }), 0, 5, by dsimp only; unfold Received; decide +kernel⟩,
   ⟨0, 0, statFrame [1, 0, 0, 0, 5], 0, fit 16 [1, 0, 0, 0, 5], stateWith [(LQ_LSTAT_STATE 0 0, 4)] (fun c => c.setBar 0 { ring := [{ n := 5, complete := true, heads := [{ head := 0 }] }] }), 0, 5, { head := 0 }, by dsimp only; unfold Received; decide +kernel⟩,
   ⟨0, 0, statFrame [1, 0, 0, 0, 5], 0, fit 16 [1, 0, 0, 0, 5], stateWith [(LQ_LSTAT_STATE 0 0, 4)] (fun c => c.setBar 0 { ring := [{ n := 5, complete := true, heads := [{ head := 0, launched := some 0 }] }] }), 0, 5, { head := 0, launched := some 0 }, by dsimp only; unfold Received; decide +kernel⟩,
   ⟨0, 0, statFrame [1, 0, 1, 0, 5], 0, fit 16 [1, 0, 1, 0, 5], stateWith [(LQ_LSTAT_STATE 0 0, 4)] (fun c => c.setBar 0 { ring := [{ n := 5, complete := true, heads := [{ head := 0, launched := some 0 }] }] }), 0, 5, { head := 0, launched := some 0 }, by dsimp only; unfold Received; decide +kernel⟩,
   ⟨0, 0, 0, 0, stateWith [(LQ_LSTAT_STATE 0 0, 4)], by dsimp only; decide +kernel⟩,
   ⟨65536 * 1000000, 0, 0, 5, stateWith [(LQ_LSTAT_STATE 0 0, 4)] (fun c => c.setBar 0 { ring := [{ n := 5, complete := true, heads := [{ head := 0, launched := some 0 }] }] }), 0, 5, { head := 0, launched := some 0 }, 0, by dsimp only; decide +kernel⟩,
   ⟨{ head := 0, launched := some 0 }, by decide +kernel⟩,
   ⟨{ head := 0, launched := some 0, tries := 4 }, by decide +kernel⟩,
   ⟨65536 * 1000000, 0, statFrame [2], 0, fit 16 [2], stateWith [(LQ_LSTAT_STATE 0 0, 4)], by dsimp only; unfold Received; decide +kernel⟩,
   ⟨65536 * 1000000, 0, statFrame [2, 0, 1, 0, 0, 0, 0, 0, 5], 0, fit 16 [2, 0, 1, 0, 0, 0, 0, 0, 5], stateWith [(LQ_LSTAT_STATE 0 0, 4)] (fun c => c.setLane 0 { unacked := [⟨5, 0, 0, [(5, 1)]⟩] }), by dsimp only; unfold Received; decide +kernel⟩,
   ⟨65536 * 1000000, 0, 5, stateWith [(LQ_LSTAT_STATE 0 0, 4)] (fun c => c.setLane 0 { unacked := [⟨5, 0, 0, [(5, 1)]⟩] }), by dsimp only; decide +kernel⟩,
   ⟨0, 0, 0, stateWith [(LQ_LSTAT_STATE 0 0, 4)], by dsimp only; decide +kernel⟩,
   ⟨(stateWith []).chip, 0, ⟨5, 0, 0, [(5, 1)]⟩, by dsimp only; decide +kernel⟩,
   ⟨(stateWith [(LQ_LSTAT_STATE 0 0, 4)] (fun c => c.setBar 0 { ring := [{ n := 5, complete := true, heads := [{ head := 0, frozen := true }] }] })).chip, 0, ⟨5, 0, 0, [(5, 1)]⟩, by dsimp only; decide +kernel⟩,
   ⟨0, 0, statFrame [3, 1], 0, fit 16 [3, 1], stateWith [(LQ_LSTAT_STATE 0 0, 4)], by unfold Received; decide +kernel⟩,
   ⟨0, 0, statFrame [3], 0, fit 16 [3], stateWith [(LQ_LSTAT_STATE 0 0, 4)], by unfold Received; decide +kernel⟩,
   ⟨0, 0, statFrame [6], 0, fit 16 [6], stateWith [(LQ_LSTAT_STATE 0 0, 4)], by unfold Received; decide +kernel⟩,
   ⟨0, 0, statFrame [8], 0, fit 16 [8], stateWith [(LQ_LSTAT_STATE 0 0, 4)], by unfold Received; decide +kernel⟩,
   ⟨0, 0, 0, 0x80000000, stateWith [] (fun c => c.eeSet 0 (some ⟨0, 0, 0, false, 0⟩)), by dsimp only; decide +kernel⟩,
   ⟨0, 0, 0, 0, stateWith [], by dsimp only; decide +kernel⟩,
   ⟨0, 0, 0, 0xC0000000, stateWith [(HL_THSTAT_THETA_J, 1601)], by dsimp only; decide +kernel⟩,
   ⟨0, 0, 0, 0xC0000000, stateWith [(LQ_HST_OWNER 0 0, 1)], by dsimp only; decide +kernel⟩,
   ⟨0, 0, 0, 0x80000000, stateWith [], by dsimp only; decide +kernel⟩,
   ⟨0, 0, statFrame [7], 0, fit 16 [7], stateWith [(LQ_LSTAT_STATE 0 0, 4)], by dsimp only; unfold Received; decide +kernel⟩,
   ⟨0, 0, statFrame [7, 0, 0, 9], 0, fit 16 [7, 0, 0, 9], stateWith [(LQ_LSTAT_STATE 0 0, 4)] (fun c => c.eeSet 0 (some ⟨0, 0, 0, false, 0⟩)), ⟨0, 0, 0, false, 0⟩, by dsimp only; unfold Received; decide +kernel⟩,
   ⟨0, 0, statFrame [7], 0, fit 16 [7], stateWith [(LQ_LSTAT_STATE 0 0, 4)] (fun c => c.eeSet 0 (some ⟨0, 0, 0, false, 0⟩)), ⟨0, 0, 0, false, 0⟩, by dsimp only; unfold Received; decide +kernel⟩,
   ⟨0, 0, statFrame [7, 0, 1], 0, fit 16 [7, 0, 1], stateWith [(LQ_LSTAT_STATE 0 0, 4)] (fun c => c.eeSet 0 (some ⟨0, 0, 0, false, 0⟩)), ⟨0, 0, 0, false, 0⟩, by dsimp only; unfold Received; decide +kernel⟩,
   ⟨0, 0, stateWith [(LQ_LSTAT_STATE 0 0, 4)], by dsimp only; decide +kernel⟩,
   ⟨65536 * 50000000, 0, stateWith [(LQ_LSTAT_STATE 0 0, 4)] (fun c => c.eeSet 0 (some ⟨0, 0, 0, false, 0⟩)), ⟨0, 0, 0, false, 0⟩, by dsimp only; decide +kernel⟩,
   ⟨0, 0, stateWith [(LQ_LSTAT_STATE 0 0, 4)] (fun c => c.eeSet 0 (some ⟨0, 0, 0, false, 0⟩)), ⟨0, 0, 0, false, 0⟩, by dsimp only; decide +kernel⟩,
   ⟨0, stateWith [(LQ_LSTAT_STATE 0 0, 4)], by dsimp only; decide +kernel⟩,
   ⟨0, stateWith [] (twin { deciding := true }), by dsimp only; decide +kernel⟩,
   ⟨0, stateWith [] (fun c => { c with twin := { c.twin with handoff := some { th := 0, token := 0, hrow := [] } } }), { th := 0, token := 0, hrow := [] }, by dsimp only; decide +kernel⟩,
   ⟨0, stateWith [(LQ_LSTAT_STATE 0 0, 4)], by dsimp only; decide +kernel⟩,
   ⟨0, 0, stateWith [(LQ_HST_SELF 0 0, 1)], by dsimp only; decide +kernel⟩,
   ⟨0, 0, stateWith [(LQ_LSTAT_STATE 0 0, 4)], by dsimp only; decide +kernel⟩,
   ⟨0, 0, [], 0, stateWith [] (twin { deciding := true }), (.echo 0 0 ⟨[], 0⟩, 1), by unfold NotReceived; decide +kernel⟩⟩

theorem met_OwnershipClaimsAndPeerLoss :
    (∃ (t : Nat) (l : Fin 96) (fr : List RxBlock) (i : Nat) (r : List Byte) (s : Machine.State),
      let a : Machine.State := s.at_ t
      let c : Chip := arrived a.chip (↑l) fr
      let b : Nat := fieldAt r 1 1
      let id : Nat := fieldAt r 8 4
      let self : Prop := b % 4 ≠ 0 ∧ id = unitId
      let d : Chip := (c.setLane ↑l { (c.lane ↑l) with owner := if b % 4 = 0 then 0 else id }).set (LQ_HEP_CUR (↑l / 4) (↑l % 4)) (fieldAt r 4 4)
      let d1 : Chip := (d.set (LQ_HST_OWNER (↑l / 4) (↑l % 4)) (b % 4)).set (LQ_HST_SELF (↑l / 4) (↑l % 4)) (if self then 1 else 0)
      let d2 : Chip := ((d1.set (LQ_HST_LEASE (↑l / 4) (↑l % 4)) (bits b 2 1)).set (LQ_HST_ARM_L (↑l / 4) (↑l % 4)) (bits b 3 1)).set (LQ_HST_ARM_S (↑l / 4) (↑l % 4)) (bits b 4 1)
      let d3 : Chip := if c.ownsHub ↑l = true ∧ ¬self then d2.refreshEpoch.raise Blk.lq (↑l / 4) { src := 26, inj := false, cell := ↑l % 4, acted := 1, detail := 0, detail2 := 0, level := none } else d2.refreshEpoch
      let alone : Prop := d3.role = 3 ∧ d3.twin.lost = true ∧ d3.newest.laneUsed ↑l = true ∧ d3.get (LQ_HST_LEASE (↑l / 4) (↑l % 4)) = 0
      (Received t l fr i 4 r s) ∧ (alone)) ∧
    (∃ (t : Nat) (l : Fin 96) (fr : List RxBlock) (i : Nat) (r : List Byte) (s : Machine.State),
      let a : Machine.State := s.at_ t
      let c : Chip := arrived a.chip (↑l) fr
      let b : Nat := fieldAt r 1 1
      let id : Nat := fieldAt r 8 4
      let self : Prop := b % 4 ≠ 0 ∧ id = unitId
      let d : Chip := (c.setLane ↑l { (c.lane ↑l) with owner := if b % 4 = 0 then 0 else id }).set (LQ_HEP_CUR (↑l / 4) (↑l % 4)) (fieldAt r 4 4)
      let d1 : Chip := (d.set (LQ_HST_OWNER (↑l / 4) (↑l % 4)) (b % 4)).set (LQ_HST_SELF (↑l / 4) (↑l % 4)) (if self then 1 else 0)
      let d2 : Chip := ((d1.set (LQ_HST_LEASE (↑l / 4) (↑l % 4)) (bits b 2 1)).set (LQ_HST_ARM_L (↑l / 4) (↑l % 4)) (bits b 3 1)).set (LQ_HST_ARM_S (↑l / 4) (↑l % 4)) (bits b 4 1)
      let d3 : Chip := if c.ownsHub ↑l = true ∧ ¬self then d2.refreshEpoch.raise Blk.lq (↑l / 4) { src := 26, inj := false, cell := ↑l % 4, acted := 1, detail := 0, detail2 := 0, level := none } else d2.refreshEpoch
      let alone : Prop := d3.role = 3 ∧ d3.twin.lost = true ∧ d3.newest.laneUsed ↑l = true ∧ d3.get (LQ_HST_LEASE (↑l / 4) (↑l % 4)) = 0
      let free : Prop := (d3.role = 0 ∨ d3.role = 1) ∧ d3.newest.laneUsed ↑l = true ∧ d3.laneState ↑l = 4 ∧ d3.get (LQ_HST_LEASE (↑l / 4) (↑l % 4)) = 0 ∧ d3.ownsHub ↑l = false ∧ d3.get TW_STAT_HANDOFF = 0
      (Received t l fr i 4 r s) ∧ (¬alone) ∧ (free)) ∧
    (∃ (t : Nat) (l : Fin 96) (fr : List RxBlock) (i : Nat) (r : List Byte) (s : Machine.State),
      let a : Machine.State := s.at_ t
      let c : Chip := arrived a.chip (↑l) fr
      let b : Nat := fieldAt r 1 1
      let id : Nat := fieldAt r 8 4
      let self : Prop := b % 4 ≠ 0 ∧ id = unitId
      let d : Chip := (c.setLane ↑l { (c.lane ↑l) with owner := if b % 4 = 0 then 0 else id }).set (LQ_HEP_CUR (↑l / 4) (↑l % 4)) (fieldAt r 4 4)
      let d1 : Chip := (d.set (LQ_HST_OWNER (↑l / 4) (↑l % 4)) (b % 4)).set (LQ_HST_SELF (↑l / 4) (↑l % 4)) (if self then 1 else 0)
      let d2 : Chip := ((d1.set (LQ_HST_LEASE (↑l / 4) (↑l % 4)) (bits b 2 1)).set (LQ_HST_ARM_L (↑l / 4) (↑l % 4)) (bits b 3 1)).set (LQ_HST_ARM_S (↑l / 4) (↑l % 4)) (bits b 4 1)
      let d3 : Chip := if c.ownsHub ↑l = true ∧ ¬self then d2.refreshEpoch.raise Blk.lq (↑l / 4) { src := 26, inj := false, cell := ↑l % 4, acted := 1, detail := 0, detail2 := 0, level := none } else d2.refreshEpoch
      let alone : Prop := d3.role = 3 ∧ d3.twin.lost = true ∧ d3.newest.laneUsed ↑l = true ∧ d3.get (LQ_HST_LEASE (↑l / 4) (↑l % 4)) = 0
      let free : Prop := (d3.role = 0 ∨ d3.role = 1) ∧ d3.newest.laneUsed ↑l = true ∧ d3.laneState ↑l = 4 ∧ d3.get (LQ_HST_LEASE (↑l / 4) (↑l % 4)) = 0 ∧ d3.ownsHub ↑l = false ∧ d3.get TW_STAT_HANDOFF = 0
      (Received t l fr i 4 r s) ∧ (¬alone) ∧ (¬free)) ∧
    (∃ (c : Chip),
      (c.twin.handoff = none)) ∧
    (∃ (c : Chip) (h : Handoff),
      let ended : Prop := c.role = 1 ∧ c.usedLanes ≠ [] ∧ ∀ (l : Nat), l ∈ c.usedLanes → c.peerOwns l = true
      (c.twin.handoff = some h) ∧ (¬ended)) ∧
    (∃ (c : Chip) (h : Handoff),
      let ended : Prop := c.role = 1 ∧ c.usedLanes ≠ [] ∧ ∀ (l : Nat), l ∈ c.usedLanes → c.peerOwns l = true
      (c.twin.handoff = some h) ∧ (ended) ∧ (h.forShutdown = false)) ∧
    (∃ (c : Chip) (h : Handoff),
      let ended : Prop := c.role = 1 ∧ c.usedLanes ≠ [] ∧ ∀ (l : Nat), l ∈ c.usedLanes → c.peerOwns l = true
      (c.twin.handoff = some h) ∧ (ended) ∧ (h.forShutdown = true)) ∧
    (∃ (t : Nat) (l : Fin 96) (fr : List RxBlock) (i : Nat) (r : List Byte) (s : Machine.State),
      let c : Chip := arrived (s.at_ t).chip (↑l) fr
      let res : Nat := fieldAt r 2 1
      let id : Nat := fieldAt r 12 4
      let d : Chip := (c.setLane ↑l { (c.lane ↑l) with owner := id }).set (LQ_HEP_CUR (↑l / 4) (↑l % 4)) (fieldAt r 8 4)
      let d1 : Chip := (d.set (LQ_HST_SELF (↑l / 4) (↑l % 4)) (if id = unitId then 1 else 0)).refreshEpoch
      let d2 : Chip := (d1.set (LQ_HST_CLAIM_SEEN (↑l / 4) (↑l % 4)) 1).set (LQ_HST_CLAIM_RES (↑l / 4) (↑l % 4)) res
      (Received t l fr i 5 r s) ∧ (∀ (x : Nat × Nat), x ∈ d2.twin.claims → x.fst ≠ ↑l)) ∧
    (∃ (t : Nat) (l : Fin 96) (fr : List RxBlock) (i : Nat) (r : List Byte) (s : Machine.State),
      let c : Chip := arrived (s.at_ t).chip (↑l) fr
      let res : Nat := fieldAt r 2 1
      let id : Nat := fieldAt r 12 4
      let d : Chip := (c.setLane ↑l { (c.lane ↑l) with owner := id }).set (LQ_HEP_CUR (↑l / 4) (↑l % 4)) (fieldAt r 8 4)
      let d1 : Chip := (d.set (LQ_HST_SELF (↑l / 4) (↑l % 4)) (if id = unitId then 1 else 0)).refreshEpoch
      let d2 : Chip := (d1.set (LQ_HST_CLAIM_SEEN (↑l / 4) (↑l % 4)) 1).set (LQ_HST_CLAIM_RES (↑l / 4) (↑l % 4)) res
      (Received t l fr i 5 r s) ∧ (∃ (x : Nat × Nat), x ∈ d2.twin.claims ∧ x.fst = ↑l)) ∧
    (∃ (t : Nat) (l : Fin 96) (s : Machine.State),
      let c : Chip := (s.at_ t).chip
      let w : Nat := FMap.get 0 c.twin.wait ↑l
      let ended : Prop := w ≠ 0 ∧ w ≤ c.ns
      (∃ (x : Nat × Nat), x ∈ c.twin.claims ∧ x.fst = ↑l) ∧ (ended)) ∧
    (∃ (t : Nat) (l : Fin 96) (s : Machine.State),
      let c : Chip := (s.at_ t).chip
      let w : Nat := FMap.get 0 c.twin.wait ↑l
      let ended : Prop := w ≠ 0 ∧ w ≤ c.ns
      (¬ended ∨ ∀ (x : Nat × Nat), x ∈ c.twin.claims → x.fst ≠ ↑l)) ∧
    (∃ (t : Nat) (s : Machine.State),
      let c : Chip := (s.at_ t).chip
      (c.twin.claiming = none)) ∧
    (∃ (t : Nat) (s : Machine.State) (x : ClaimRound),
      let c : Chip := (s.at_ t).chip
      let late : Prop := x.since + 1000 * c.get TW_CFG_CLAIMWIN ≤ c.ns
      (c.twin.claiming = some x) ∧ (¬late)) ∧
    (∃ (t : Nat) (s : Machine.State) (x : ClaimRound),
      let c : Chip := (s.at_ t).chip
      let late : Prop := x.since + 1000 * c.get TW_CFG_CLAIMWIN ≤ c.ns
      (c.twin.claiming = some x) ∧ (late) ∧ (x.accepted = [])) ∧
    (∃ (t : Nat) (s : Machine.State) (x : ClaimRound),
      let c : Chip := (s.at_ t).chip
      let late : Prop := x.since + 1000 * c.get TW_CFG_CLAIMWIN ≤ c.ns
      let split : Prop := ∃ (l : Nat), l ∈ x.refused ∧ ∃ (y : Nat × Nat), y ∈ c.twin.claims ∧ y.fst = l
      (c.twin.claiming = some x) ∧ (late) ∧ (x.accepted ≠ []) ∧ (split)) ∧
    (∃ (t : Nat) (s : Machine.State) (x : ClaimRound),
      let c : Chip := (s.at_ t).chip
      let late : Prop := x.since + 1000 * c.get TW_CFG_CLAIMWIN ≤ c.ns
      let split : Prop := ∃ (l : Nat), l ∈ x.refused ∧ ∃ (y : Nat × Nat), y ∈ c.twin.claims ∧ y.fst = l
      (c.twin.claiming = some x) ∧ (late) ∧ (x.accepted ≠ []) ∧ (¬split)) ∧
    (∃ (t : Nat) (m : Fin 8) (s : Machine.State),
      let c : Chip := (s.at_ t).chip
      let may : Prop := c.peerStandby = true ∧ c.get TW_STAT_HANDOFF = 0
      (c.mayWrite (↑m) Blk.tw 0 80 = true) ∧ (c.reachable Blk.tw 0 = true) ∧ (may)) ∧
    (∃ (t : Nat) (m : Fin 8) (s : Machine.State),
      let c : Chip := (s.at_ t).chip
      let may : Prop := c.peerStandby = true ∧ c.get TW_STAT_HANDOFF = 0
      (c.mayWrite (↑m) Blk.tw 0 80 = true) ∧ (c.reachable Blk.tw 0 = true) ∧ (¬may)) ∧
    (∃ (t : Nat) (s : Machine.State),
      let c : Chip := (s.at_ t).chip
      (c.twin.handoff = none)) ∧
    (∃ (t : Nat) (s : Machine.State) (h : Handoff),
      let c : Chip := (s.at_ t).chip
      let late : Prop := h.th + 1000000 ≤ c.ns
      (c.twin.handoff = some h) ∧ (¬late)) ∧
    (∃ (t : Nat) (s : Machine.State) (h : Handoff),
      let c : Chip := (s.at_ t).chip
      let late : Prop := h.th + 1000000 ≤ c.ns
      let taken : List Nat := List.filter (fun (l : Nat) => c.peerOwns l) c.usedLanes
      (c.twin.handoff = some h) ∧ (late) ∧ (taken = [])) ∧
    (∃ (t : Nat) (s : Machine.State) (h : Handoff),
      let c : Chip := (s.at_ t).chip
      let late : Prop := h.th + 1000000 ≤ c.ns
      let taken : List Nat := List.filter (fun (l : Nat) => c.peerOwns l) c.usedLanes
      let d : Chip := c.endHandoff
      let d1 : Chip := (d.forAll (List.filter d.ownsHub d.serviceLanes) fun (c : Chip) (l : Nat) => c.want l (LaneFrame.epoch (c.curOf l) 0 0)).raise Blk.tw 0 { src := 11, inj := false, cell := 65535, acted := 1, detail := 0, detail2 := 0, level := none }
      let d2 : Chip := if h.forShutdown = true then d1.raise Blk.hl 0 { src := 14, inj := false, cell := 65535, acted := 1, detail := 0, detail2 := 0, level := none } else d1
      let heard : Prop := d2.twin.peerFailed = false ∧ (d2.get TW_STAT_BELAY_HEARD ≠ 0 ∨ d2.get TW_STAT_ROPE_HEARD ≠ 0)
      (c.twin.handoff = some h) ∧ (late) ∧ (taken ≠ []) ∧ (heard)) ∧
    (∃ (t : Nat) (s : Machine.State) (h : Handoff),
      let c : Chip := (s.at_ t).chip
      let late : Prop := h.th + 1000000 ≤ c.ns
      let taken : List Nat := List.filter (fun (l : Nat) => c.peerOwns l) c.usedLanes
      let d : Chip := c.endHandoff
      let d1 : Chip := (d.forAll (List.filter d.ownsHub d.serviceLanes) fun (c : Chip) (l : Nat) => c.want l (LaneFrame.epoch (c.curOf l) 0 0)).raise Blk.tw 0 { src := 11, inj := false, cell := 65535, acted := 1, detail := 0, detail2 := 0, level := none }
      let d2 : Chip := if h.forShutdown = true then d1.raise Blk.hl 0 { src := 14, inj := false, cell := 65535, acted := 1, detail := 0, detail2 := 0, level := none } else d1
      let heard : Prop := d2.twin.peerFailed = false ∧ (d2.get TW_STAT_BELAY_HEARD ≠ 0 ∨ d2.get TW_STAT_ROPE_HEARD ≠ 0)
      (c.twin.handoff = some h) ∧ (late) ∧ (taken ≠ []) ∧ (¬heard)) ∧
    (∃ (t : Nat) (s : Machine.State),
      let c : Chip := (s.at_ t).chip
      let tw : Twin := c.twin
      let dumbBelay : Prop := tw.belayTold = false ∧ tw.belayAt ≠ none ∧ c.silentFor tw.belayAt 100000 = true ∧ c.silentFor tw.ropeAt 100000 = false
      (dumbBelay)) ∧
    (∃ (t : Nat) (s : Machine.State),
      let c : Chip := (s.at_ t).chip
      let tw : Twin := c.twin
      let dumbBelay : Prop := tw.belayTold = false ∧ tw.belayAt ≠ none ∧ c.silentFor tw.belayAt 100000 = true ∧ c.silentFor tw.ropeAt 100000 = false
      (¬dumbBelay)) ∧
    (∃ (t : Nat) (s : Machine.State),
      let c : Chip := (s.at_ t).chip
      let tw : Twin := c.twin
      let told : Twin → Chip := fun (f : Twin) => { c with twin := f }
      let dumbRope : Prop := tw.ropeTold = false ∧ tw.ropeAt ≠ none ∧ c.silentFor tw.ropeAt 100000 = true ∧ c.silentFor tw.belayAt 100000 = false
      let r : Chip := told { tw with ropeTold := true }
      (dumbRope) ∧ (r.get TW_STAT_ROPE_UP ≠ 0)) ∧
    (∃ (t : Nat) (s : Machine.State),
      let c : Chip := (s.at_ t).chip
      let tw : Twin := c.twin
      let told : Twin → Chip := fun (f : Twin) => { c with twin := f }
      let dumbRope : Prop := tw.ropeTold = false ∧ tw.ropeAt ≠ none ∧ c.silentFor tw.ropeAt 100000 = true ∧ c.silentFor tw.belayAt 100000 = false
      let r : Chip := told { tw with ropeTold := true }
      (dumbRope) ∧ (r.get TW_STAT_ROPE_UP = 0)) ∧
    (∃ (t : Nat) (s : Machine.State),
      let c : Chip := (s.at_ t).chip
      let tw : Twin := c.twin
      let dumbRope : Prop := tw.ropeTold = false ∧ tw.ropeAt ≠ none ∧ c.silentFor tw.ropeAt 100000 = true ∧ c.silentFor tw.belayAt 100000 = false
      (¬dumbRope)) ∧
    (∃ (t : Nat) (s : Machine.State),
      let c : Chip := (s.at_ t).chip
      let tw : Twin := c.twin
      (c.silentFor tw.ropeAt 30001 = true)) ∧
    (∃ (t : Nat) (s : Machine.State),
      let c : Chip := (s.at_ t).chip
      let tw : Twin := c.twin
      (c.silentFor tw.ropeAt 30001 = false)) ∧
    (∃ (t : Nat) (s : Machine.State),
      let c : Chip := (s.at_ t).chip
      let tw : Twin := c.twin
      (c.silentFor tw.belayAt 30001 = true)) ∧
    (∃ (t : Nat) (s : Machine.State),
      let c : Chip := (s.at_ t).chip
      let tw : Twin := c.twin
      (c.silentFor tw.belayAt 30001 = false)) ∧
    (∃ (t : Nat) (s : Machine.State),
      let c : Chip := (s.at_ t).chip
      let tw : Twin := c.twin
      let failed : Prop := c.roped = true ∧ tw.deciding = false ∧ tw.peerFailed = false ∧ tw.peerRole ≠ none ∧ c.silentFor tw.belayAt 100000 = true ∧ c.silentFor tw.ropeAt 100000 = true
      (¬failed)) ∧
    (∃ (t : Nat) (s : Machine.State),
      let c : Chip := (s.at_ t).chip
      let tw : Twin := c.twin
      let failed : Prop := c.roped = true ∧ tw.deciding = false ∧ tw.peerFailed = false ∧ tw.peerRole ≠ none ∧ c.silentFor tw.belayAt 100000 = true ∧ c.silentFor tw.ropeAt 100000 = true
      let d : Chip := { c with twin := { tw with peerFailed := true, resend := true } }
      let d1 : Chip := d.raise Blk.tw 0 { src := 1, inj := false, cell := 65535, acted := 1, detail := 0, detail2 := 0, level := none }
      (failed) ∧ (d1.role = 2) ∧ (d1.get TW_STAT_CLAIMHOLD = 0)) ∧
    (∃ (t : Nat) (s : Machine.State),
      let c : Chip := (s.at_ t).chip
      let tw : Twin := c.twin
      let failed : Prop := c.roped = true ∧ tw.deciding = false ∧ tw.peerFailed = false ∧ tw.peerRole ≠ none ∧ c.silentFor tw.belayAt 100000 = true ∧ c.silentFor tw.ropeAt 100000 = true
      let d : Chip := { c with twin := { tw with peerFailed := true, resend := true } }
      let d1 : Chip := d.raise Blk.tw 0 { src := 1, inj := false, cell := 65535, acted := 1, detail := 0, detail2 := 0, level := none }
      (failed) ∧ (d1.role = 2) ∧ (d1.get TW_STAT_CLAIMHOLD ≠ 0)) ∧
    (∃ (t : Nat) (s : Machine.State),
      let c : Chip := (s.at_ t).chip
      let tw : Twin := c.twin
      let failed : Prop := c.roped = true ∧ tw.deciding = false ∧ tw.peerFailed = false ∧ tw.peerRole ≠ none ∧ c.silentFor tw.belayAt 100000 = true ∧ c.silentFor tw.ropeAt 100000 = true
      let d : Chip := { c with twin := { tw with peerFailed := true, resend := true } }
      let d1 : Chip := d.raise Blk.tw 0 { src := 1, inj := false, cell := 65535, acted := 1, detail := 0, detail2 := 0, level := none }
      (failed) ∧ (d1.role = 3) ∧ (d1.twin.stuck = false)) ∧
    (∃ (t : Nat) (s : Machine.State),
      let c : Chip := (s.at_ t).chip
      let tw : Twin := c.twin
      let failed : Prop := c.roped = true ∧ tw.deciding = false ∧ tw.peerFailed = false ∧ tw.peerRole ≠ none ∧ c.silentFor tw.belayAt 100000 = true ∧ c.silentFor tw.ropeAt 100000 = true
      let d : Chip := { c with twin := { tw with peerFailed := true, resend := true } }
      let d1 : Chip := d.raise Blk.tw 0 { src := 1, inj := false, cell := 65535, acted := 1, detail := 0, detail2 := 0, level := none }
      (failed) ∧ (d1.role = 3) ∧ (d1.twin.stuck = true)) ∧
    (∃ (t : Nat) (s : Machine.State),
      let c : Chip := (s.at_ t).chip
      let tw : Twin := c.twin
      let failed : Prop := c.roped = true ∧ tw.deciding = false ∧ tw.peerFailed = false ∧ tw.peerRole ≠ none ∧ c.silentFor tw.belayAt 100000 = true ∧ c.silentFor tw.ropeAt 100000 = true
      let d : Chip := { c with twin := { tw with peerFailed := true, resend := true } }
      let d1 : Chip := d.raise Blk.tw 0 { src := 1, inj := false, cell := 65535, acted := 1, detail := 0, detail2 := 0, level := none }
      (failed) ∧ (d1.role ≠ 2) ∧ (d1.role ≠ 3)) ∧
    (∃ (t : Nat) (s : Machine.State),
      let c : Chip := (s.at_ t).chip
      let tw : Twin := c.twin
      let undecided : Prop := c.roped = true ∧ tw.deciding = true ∧ tw.startNs + 1998000000 ≤ c.ns
      (undecided)) ∧
    (∃ (t : Nat) (s : Machine.State),
      let c : Chip := (s.at_ t).chip
      let tw : Twin := c.twin
      let undecided : Prop := c.roped = true ∧ tw.deciding = true ∧ tw.startNs + 1998000000 ≤ c.ns
      (¬undecided)) :=
  ⟨⟨0, 0, statFrame [4], 0, fit 16 [4], stateWith [(LQ_LSTAT_STATE 0 0, 4), (TW_STAT_ROLE, 3)] (twin { lost := true }), by dsimp only; unfold Received; decide +kernel⟩,
   ⟨0, 0, statFrame [4], 0, fit 16 [4], stateWith [(LQ_LSTAT_STATE 0 0, 4)], by dsimp only; unfold Received; decide +kernel⟩,
   ⟨0, 0, statFrame [4], 0, fit 16 [4], stateWith [(LQ_LSTAT_STATE 0 0, 4), (TW_STAT_HANDOFF, 1)], by dsimp only; unfold Received; decide +kernel⟩,
   ⟨{}, by decide +kernel⟩,
   ⟨twin { handoff := some offer } {}, offer, by dsimp only; decide +kernel⟩,
   ⟨twin { handoff := some offer } (peerHas0 (Chip.set {} TW_STAT_ROLE 1)), offer, by dsimp only; decide +kernel⟩,
   ⟨twin { handoff := some { offer with forShutdown := true } } (peerHas0 (Chip.set {} TW_STAT_ROLE 1)), { offer with forShutdown := true }, by dsimp only; decide +kernel⟩,
   ⟨0, 0, statFrame [5], 0, fit 16 [5], stateWith [(LQ_LSTAT_STATE 0 0, 4)], by dsimp only; unfold Received; decide +kernel⟩,
   ⟨0, 0, statFrame [5], 0, fit 16 [5], stateWith [(LQ_LSTAT_STATE 0 0, 4)] (twin { claims := [(0, 5)], claiming := some ⟨0, 5, [], [], false⟩ }), by dsimp only; unfold Received; decide +kernel⟩,
   ⟨65536 * 1000000, 0, stateWith [] (twin { claims := [(0, 5)], wait := [(0, 1)] }), by dsimp only; decide +kernel⟩,
   ⟨0, 0, stateWith [(LQ_LSTAT_STATE 0 0, 4), (TW_STAT_HANDOFF, 1)], by dsimp only; decide +kernel⟩,
   ⟨0, stateWith [(LQ_LSTAT_STATE 0 0, 4), (TW_STAT_HANDOFF, 1)], by dsimp only; decide +kernel⟩,
   ⟨0, stateWith [] (twin { claims := [(0, 5)], claiming := some ⟨0, 5, [], [], false⟩ }), ⟨0, 5, [], [], false⟩, by dsimp only; decide +kernel⟩,
   ⟨65536 * 1000000, stateWith [] (twin { claims := [(0, 5)], claiming := some ⟨0, 5, [], [], false⟩ }), ⟨0, 5, [], [], false⟩, by dsimp only; decide +kernel⟩,
   ⟨65536 * 1000000, stateWith [] (twin { claims := [(0, 5)], claiming := some ⟨0, 5, [1], [0], false⟩ }), ⟨0, 5, [1], [0], false⟩, by dsimp only; decide +kernel⟩,
   ⟨65536 * 1000000, stateWith [] (twin { claims := [(0, 5)], claiming := some ⟨0, 5, [1], [], false⟩ }), ⟨0, 5, [1], [], false⟩, by dsimp only; decide +kernel⟩,
   ⟨0, 0, stateWith [(TW_STAT_ROLE, 1), (TW_STAT_ROPE_UP, 1), (TW_STAT_ROPE_HEARD, 1)] (twin { peerRole := some 2 }), by dsimp only; decide +kernel⟩,
   ⟨0, 0, stateWith [(LQ_LSTAT_STATE 0 0, 4), (TW_STAT_HANDOFF, 1)], by dsimp only; decide +kernel⟩,
   ⟨0, stateWith [(LQ_LSTAT_STATE 0 0, 4), (TW_STAT_HANDOFF, 1)], by dsimp only; decide +kernel⟩,
   ⟨0, stateWith [] (twin { handoff := some offer }), offer, by dsimp only; decide +kernel⟩,
   ⟨65536 * 1000000, stateWith [] (twin { handoff := some offer }), offer, by dsimp only; decide +kernel⟩,
   ⟨65536 * 1000000, stateWith [(TW_STAT_BELAY_HEARD, 1)] (fun c => twin { handoff := some offer } (peerHas0 c)), offer, by dsimp only; decide +kernel⟩,
   ⟨65536 * 1000000, stateWith [] (fun c => twin { handoff := some offer } (peerHas0 c)), offer, by dsimp only; decide +kernel⟩,
   ⟨65536 * 200000, stateWith [] (twin { belayAt := some 0, ropeAt := some 190000 }), by dsimp only; decide +kernel⟩,
   ⟨0, stateWith [(LQ_LSTAT_STATE 0 0, 4), (TW_STAT_HANDOFF, 1)], by dsimp only; decide +kernel⟩,
   ⟨65536 * 200000, stateWith [(TW_STAT_ROPE_UP, 1)] (twin { ropeAt := some 0, belayAt := some 190000 }), by dsimp only; decide +kernel⟩,
   ⟨65536 * 200000, stateWith [] (twin { ropeAt := some 0, belayAt := some 190000 }), by dsimp only; decide +kernel⟩,
   ⟨0, stateWith [(LQ_LSTAT_STATE 0 0, 4), (TW_STAT_HANDOFF, 1)], by dsimp only; decide +kernel⟩,
   ⟨0, stateWith [(LQ_LSTAT_STATE 0 0, 4), (TW_STAT_HANDOFF, 1)], by dsimp only; decide +kernel⟩,
   ⟨65536 * 200000, stateWith [] (twin { belayAt := some 0, ropeAt := some 190000 }), by dsimp only; decide +kernel⟩,
   ⟨0, stateWith [(LQ_LSTAT_STATE 0 0, 4), (TW_STAT_HANDOFF, 1)], by dsimp only; decide +kernel⟩,
   ⟨65536 * 200000, stateWith [] (twin { ropeAt := some 0, belayAt := some 190000 }), by dsimp only; decide +kernel⟩,
   ⟨0, stateWith [(LQ_LSTAT_STATE 0 0, 4), (TW_STAT_HANDOFF, 1)], by dsimp only; decide +kernel⟩,
   ⟨65536 * 2000000000, stateWith [(SYS_STRAP_ROPED_EN, 1), (TW_STAT_ROLE, 2)] (twin { peerRole := some 1 }), by dsimp only; decide +kernel⟩,
   ⟨65536 * 2000000000, stateWith [(SYS_STRAP_ROPED_EN, 1), (TW_STAT_ROLE, 2), (TW_STAT_CLAIMHOLD, 1)] (twin { peerRole := some 1 }), by dsimp only; decide +kernel⟩,
   ⟨65536 * 2000000000, stateWith [(SYS_STRAP_ROPED_EN, 1), (TW_STAT_ROLE, 3)] (twin { peerRole := some 1 }), by dsimp only; decide +kernel⟩,
   ⟨65536 * 2000000000, stateWith [(SYS_STRAP_ROPED_EN, 1), (TW_STAT_ROLE, 3)] (twin { peerRole := some 1, stuck := true }), by dsimp only; decide +kernel⟩,
   ⟨65536 * 2000000000, stateWith [(SYS_STRAP_ROPED_EN, 1), (TW_STAT_ROLE, 1)] (twin { peerRole := some 2 }), by dsimp only; decide +kernel⟩,
   ⟨65536 * 2000000000, stateWith [(SYS_STRAP_ROPED_EN, 1)] (twin { deciding := true }), by dsimp only; decide +kernel⟩,
   ⟨0, stateWith [(LQ_LSTAT_STATE 0 0, 4), (TW_STAT_HANDOFF, 1)], by dsimp only; decide +kernel⟩⟩

theorem met_RopeJournalAndReferee :
    (∃ (t : Nat) (s : Machine.State),
      let c : Chip := (s.at_ t).chip
      let runs : Prop := c.health.powerGood = true ∧ c.health.silent = false
      (¬runs)) ∧
    (∃ (t : Nat) (s : Machine.State),
      let c : Chip := (s.at_ t).chip
      let runs : Prop := c.health.powerGood = true ∧ c.health.silent = false
      let bs : List Byte := le 1 72 ++ le 1 c.beatRole ++ le 1 c.beatFlags ++ le 1 0 ++ le 4 unitId ++ le 4 c.twin.epoch ++ le 2 c.twin.hbSeq
      let d : Chip := c.emit EmitKind.belay 0 [] (bs ++ le 2 (crcMsb 16 4129 65535 (List.take 14 bs)))
      let d1 : Chip := { d with twin := { d.twin with hbSeq := (d.twin.hbSeq + 1) % 65536 } }
      let rope : Prop := d1.get SYS_STRAP_ROPED_EN ≠ 0 ∧ d1.get TW_STAT_ROPE_UP ≠ 0
      (runs) ∧ (¬rope)) ∧
    (∃ (t : Nat) (s : Machine.State),
      let c : Chip := (s.at_ t).chip
      let runs : Prop := c.health.powerGood = true ∧ c.health.silent = false
      let bs : List Byte := le 1 72 ++ le 1 c.beatRole ++ le 1 c.beatFlags ++ le 1 0 ++ le 4 unitId ++ le 4 c.twin.epoch ++ le 2 c.twin.hbSeq
      let d : Chip := c.emit EmitKind.belay 0 [] (bs ++ le 2 (crcMsb 16 4129 65535 (List.take 14 bs)))
      let d1 : Chip := { d with twin := { d.twin with hbSeq := (d.twin.hbSeq + 1) % 65536 } }
      let rope : Prop := d1.get SYS_STRAP_ROPED_EN ≠ 0 ∧ d1.get TW_STAT_ROPE_UP ≠ 0
      (runs) ∧ (rope)) ∧
    (∃ (b : List Byte),
      let whole : Prop := b.length = 16 ∧ fieldAt b 0 1 = 72 ∧ fieldAt b 14 2 = crcMsb 16 4129 65535 (List.take 14 b)
      (¬whole)) ∧
    (∃ (t : Nat) (b : List Byte) (s : Machine.State),
      let c : Chip := (s.at_ t).chip
      let whole : Prop := b.length = 16 ∧ fieldAt b 0 1 = 72 ∧ fieldAt b 14 2 = crcMsb 16 4129 65535 (List.take 14 b)
      let i : Bool × Chip := c.injected Blk.tw [0]
      (whole) ∧ (i.fst = true)) ∧
    (∃ (t : Nat) (b : List Byte) (s : Machine.State),
      let c : Chip := (s.at_ t).chip
      let whole : Prop := b.length = 16 ∧ fieldAt b 0 1 = 72 ∧ fieldAt b 14 2 = crcMsb 16 4129 65535 (List.take 14 b)
      let i : Bool × Chip := c.injected Blk.tw [0]
      (whole) ∧ (i.fst = false)) ∧
    (∃ (c : Chip) (id : Nat),
      (c.get SYS_STRAP_ROPED_EN = 0 ∨ c.fromPeer id = false)) ∧
    (∃ (c : Chip) (rope : Bool) (role : Nat) (id : Nat) (epoch : Nat),
      let d : Chip := { c with twin := { (if rope = true then { c.twin with ropeAt := some c.ns, ropeTold := false } else { c.twin with belayAt := some c.ns, belayTold := false }) with peerRole := some role, peerEpoch := epoch, peerFailed := false } }
      let d1 : Chip := ((d.set TW_PEER_PEER id).set (if rope = true then TW_STAT_ROPE_HEARD else TW_STAT_BELAY_HEARD) 1).set TW_STAT_CLAIMHOLD 0
      let d2 : Chip := if d1.peerBack.twin.deciding = true then d1.peerBack.hearWhileDeciding role id else d1.peerBack
      let loses : Prop := d2.role = 1 ∧ role = 1 ∧ d2.handingOver = false ∧ (d2.twin.epoch < epoch ∨ d2.twin.epoch = epoch ∧ id < unitId)
      (c.get SYS_STRAP_ROPED_EN ≠ 0) ∧ (c.fromPeer id = true) ∧ (loses)) ∧
    (∃ (c : Chip) (rope : Bool) (role : Nat) (id : Nat) (epoch : Nat),
      let d : Chip := { c with twin := { (if rope = true then { c.twin with ropeAt := some c.ns, ropeTold := false } else { c.twin with belayAt := some c.ns, belayTold := false }) with peerRole := some role, peerEpoch := epoch, peerFailed := false } }
      let d1 : Chip := ((d.set TW_PEER_PEER id).set (if rope = true then TW_STAT_ROPE_HEARD else TW_STAT_BELAY_HEARD) 1).set TW_STAT_CLAIMHOLD 0
      let d2 : Chip := if d1.peerBack.twin.deciding = true then d1.peerBack.hearWhileDeciding role id else d1.peerBack
      let loses : Prop := d2.role = 1 ∧ role = 1 ∧ d2.handingOver = false ∧ (d2.twin.epoch < epoch ∨ d2.twin.epoch = epoch ∧ id < unitId)
      (c.get SYS_STRAP_ROPED_EN ≠ 0) ∧ (c.fromPeer id = true) ∧ (¬loses)) ∧
    (∃ (t : Nat) (b : RopeBeat) (s : Machine.State),
      let i : Bool × Chip := (s.at_ t).chip.injected Blk.rl [0, 1]
      let counts : Prop := i.fst = false ∧ i.snd.get TW_STAT_ROPE_UP ≠ 0 ∧ i.snd.get SYS_STRAP_ROPED_EN ≠ 0 ∧ i.snd.fromPeer b.unit = true
      (¬counts)) ∧
    (∃ (t : Nat) (b : RopeBeat) (s : Machine.State),
      let i : Bool × Chip := (s.at_ t).chip.injected Blk.rl [0, 1]
      let counts : Prop := i.fst = false ∧ i.snd.get TW_STAT_ROPE_UP ≠ 0 ∧ i.snd.get SYS_STRAP_ROPED_EN ≠ 0 ∧ i.snd.fromPeer b.unit = true
      let d : Chip := i.snd.countBeat true b.role b.unit b.epoch
      (counts) ∧ (d.role = 1)) ∧
    (∃ (t : Nat) (b : RopeBeat) (s : Machine.State),
      let i : Bool × Chip := (s.at_ t).chip.injected Blk.rl [0, 1]
      let counts : Prop := i.fst = false ∧ i.snd.get TW_STAT_ROPE_UP ≠ 0 ∧ i.snd.get SYS_STRAP_ROPED_EN ≠ 0 ∧ i.snd.fromPeer b.unit = true
      let d : Chip := i.snd.countBeat true b.role b.unit b.epoch
      (counts) ∧ (d.role = 2 ∨ d.role = 3) ∧ (b.role = 1)) ∧
    (∃ (t : Nat) (b : RopeBeat) (s : Machine.State),
      let i : Bool × Chip := (s.at_ t).chip.injected Blk.rl [0, 1]
      let counts : Prop := i.fst = false ∧ i.snd.get TW_STAT_ROPE_UP ≠ 0 ∧ i.snd.get SYS_STRAP_ROPED_EN ≠ 0 ∧ i.snd.fromPeer b.unit = true
      let d : Chip := i.snd.countBeat true b.role b.unit b.epoch
      (counts) ∧ (d.role ≠ 1) ∧ (d.role ≠ 2 ∧ d.role ≠ 3 ∨ b.role ≠ 1)) ∧
    (∃ (c : Chip),
      let up : Prop := c.get SYS_STRAP_ROPED_EN ≠ 0 ∧ c.get TW_STAT_ROPE_UP ≠ 0
      (¬up)) ∧
    (∃ (c : Chip),
      let up : Prop := c.get SYS_STRAP_ROPED_EN ≠ 0 ∧ c.get TW_STAT_ROPE_UP ≠ 0
      let i : Bool × Chip := c.injected Blk.rl [0, 1]
      (up) ∧ (i.fst = true)) ∧
    (∃ (c : Chip) (rseq : Nat),
      let up : Prop := c.get SYS_STRAP_ROPED_EN ≠ 0 ∧ c.get TW_STAT_ROPE_UP ≠ 0
      let i : Bool × Chip := c.injected Blk.rl [0, 1]
      let r : Nat := i.snd.twin.rxSeq
      (up) ∧ (i.fst = false) ∧ (rseq = (r + 1) % 65536)) ∧
    (∃ (c : Chip) (rseq : Nat),
      let up : Prop := c.get SYS_STRAP_ROPED_EN ≠ 0 ∧ c.get TW_STAT_ROPE_UP ≠ 0
      let i : Bool × Chip := c.injected Blk.rl [0, 1]
      let r : Nat := i.snd.twin.rxSeq
      (up) ∧ (i.fst = false) ∧ (rseq ≠ (r + 1) % 65536)) ∧
    (∃ (t : Nat) (s : Machine.State),
      let c : Chip := (s.at_ t).chip
      (c.get TW_STAT_ROPE_UP = 0)) ∧
    (∃ (t : Nat) (s : Machine.State),
      let c : Chip := (s.at_ t).chip
      (c.get TW_STAT_ROPE_UP ≠ 0)) ∧
    (∃ (t : Nat) (rseq : Nat) (s : Machine.State),
      let c : Chip := (s.at_ t).chip
      let old : RopeFrame → Prop := fun (f : RopeFrame) => f.rseq = rseq ∧ f.sent + 20000 ≤ c.ns
      (∀ (f : RopeFrame), f ∈ c.twin.sent → ¬old f)) ∧
    (∃ (t : Nat) (rseq : Nat) (s : Machine.State),
      let c : Chip := (s.at_ t).chip
      let old : RopeFrame → Prop := fun (f : RopeFrame) => f.rseq = rseq ∧ f.sent + 20000 ≤ c.ns
      (∃ (f : RopeFrame), f ∈ c.twin.sent ∧ old f)) ∧
    (∃ (t : Nat) (rseq : Nat) (s : Machine.State),
      let a : Machine.State := s.at_ t
      let r : Bool × Chip := a.chip.rxRope rseq
      (r.fst = false)) ∧
    (∃ (t : Nat) (rseq : Nat) (s : Machine.State),
      let a : Machine.State := s.at_ t
      let r : Bool × Chip := a.chip.rxRope rseq
      (r.fst = true)) ∧
    (∃ (t : Nat) (rseq : Nat) (s : Machine.State),
      let a : Machine.State := s.at_ t
      let r : Bool × Chip := a.chip.rxRope rseq
      (r.fst = false ∨ r.snd.role ≠ 1)) ∧
    (∃ (t : Nat) (rseq : Nat) (v : Fin 3) (s : Machine.State),
      let a : Machine.State := s.at_ t
      let r : Bool × Chip := a.chip.rxRope rseq
      (r.fst = true) ∧ (r.snd.role = 1) ∧ (v = 0)) ∧
    (∃ (t : Nat) (rseq : Nat) (v : Fin 3) (s : Machine.State),
      let a : Machine.State := s.at_ t
      let r : Bool × Chip := a.chip.rxRope rseq
      (r.fst = true) ∧ (r.snd.role = 1) ∧ (v = 1)) ∧
    (∃ (t : Nat) (rseq : Nat) (v : Fin 3) (s : Machine.State),
      let a : Machine.State := s.at_ t
      let r : Bool × Chip := a.chip.rxRope rseq
      (r.fst = true) ∧ (r.snd.role = 1) ∧ (v = 2)) ∧
    (∃ (s : Machine.State) (e : Nat × JItem),
      let c : Chip := s.chip
      let mirrors : Prop := c.role = 2 ∨ c.role = 3 ∧ c.twin.adopted = true
      let d : Nat := (e.fst + 2 ^ 32 - c.get TW_JSEQ_JSEQ) % 2 ^ 32
      (mirrors) ∧ (d = 1)) ∧
    (∃ (s : Machine.State) (e : Nat × JItem),
      let c : Chip := s.chip
      let mirrors : Prop := c.role = 2 ∨ c.role = 3 ∧ c.twin.adopted = true
      let d : Nat := (e.fst + 2 ^ 32 - c.get TW_JSEQ_JSEQ) % 2 ^ 32
      (mirrors) ∧ (d = 0 ∨ 2 ^ 31 ≤ d)) ∧
    (∃ (s : Machine.State) (e : Nat × JItem),
      let c : Chip := s.chip
      let mirrors : Prop := c.role = 2 ∨ c.role = 3 ∧ c.twin.adopted = true
      let d : Nat := (e.fst + 2 ^ 32 - c.get TW_JSEQ_JSEQ) % 2 ^ 32
      (mirrors) ∧ (2 ≤ d) ∧ (d < 2 ^ 31)) ∧
    (∃ (s : Machine.State),
      let c : Chip := s.chip
      let mirrors : Prop := c.role = 2 ∨ c.role = 3 ∧ c.twin.adopted = true
      (¬mirrors)) ∧
    (∃ (t : Nat) (s : Machine.State),
      let a : Machine.State := s.at_ t
      let c : Chip := a.chip
      let begins : Prop := c.role = 1 ∧ c.twin.peerRole = some 3 ∧
        (c.get TW_STAT_BELAY_HEARD ≠ 0 ∨ c.get TW_STAT_ROPE_HEARD ≠ 0) ∧ c.twin.peerFailed = false ∧ c.get TW_STAT_ROPE_UP ≠ 0 ∧ c.twin.snapSent = false ∧ { c.store with jobs := List.filter (fun (j : CodecJob) => !j.twin) c.store.jobs }.waiting.length < 256
      (begins)) ∧
    (∃ (t : Nat) (s : Machine.State),
      let a : Machine.State := s.at_ t
      let c : Chip := a.chip
      let begins : Prop := c.role = 1 ∧ c.twin.peerRole = some 3 ∧
        (c.get TW_STAT_BELAY_HEARD ≠ 0 ∨ c.get TW_STAT_ROPE_HEARD ≠ 0) ∧ c.twin.peerFailed = false ∧ c.get TW_STAT_ROPE_UP ≠ 0 ∧ c.twin.snapSent = false ∧ { c.store with jobs := List.filter (fun (j : CodecJob) => !j.twin) c.store.jobs }.waiting.length < 256
      (¬begins)) ∧
    (∃ (t : Nat) (ok : Bool) (s : Machine.State),
      let a : Machine.State := s.at_ t
      let c : Chip := a.chip
      let tw : Twin := c.twin
      let may : Prop := c.role = 3 ∧ tw.stuck = false ∧ tw.lost = false ∧ tw.adopted = false ∧ ok = true ∧
        (∀ (n : Nat), n < 11 → ∃ (e : Nat × List JItem), e ∈ tw.snap ∧ e.fst = n) ∧ journalWhole 0 tw.kept = true
      (may)) ∧
    (∃ (t : Nat) (ok : Bool) (s : Machine.State),
      let a : Machine.State := s.at_ t
      let c : Chip := a.chip
      let tw : Twin := c.twin
      let may : Prop := c.role = 3 ∧ tw.stuck = false ∧ tw.lost = false ∧ tw.adopted = false ∧ ok = true ∧
        (∀ (n : Nat), n < 11 → ∃ (e : Nat × List JItem), e ∈ tw.snap ∧ e.fst = n) ∧ journalWhole 0 tw.kept = true
      (¬may)) ∧
    (∃ (t : Nat) (m : Fin 8) (s : Machine.State),
      let c : Chip := (s.at_ t).chip
      (c.mayWrite (↑m) Blk.tw 0 80 = true) ∧ (c.reachable Blk.tw 0 = true) ∧ (c.role = 3)) ∧
    (∃ (t : Nat) (m : Fin 8) (s : Machine.State),
      let c : Chip := (s.at_ t).chip
      (c.mayWrite (↑m) Blk.tw 0 80 = true) ∧ (c.reachable Blk.tw 0 = true) ∧ (c.role ≠ 3)) ∧
    (∃ (t : Nat) (k : Fin 16) (row : Nat) (s : Machine.State),
      let c : Chip := (s.at_ t).chip
      let mine : RowHash × Nat → Prop := fun (e : RowHash × Nat) => e.fst.bar = ↑k ∧ e.fst.row = row
      (∀ (e : RowHash × Nat), e ∈ c.twin.referee → ¬mine e)) ∧
    (∃ (t : Nat) (k : Fin 16) (row : Nat) (s : Machine.State),
      let c : Chip := (s.at_ t).chip
      let mine : RowHash × Nat → Prop := fun (e : RowHash × Nat) => e.fst.bar = ↑k ∧ e.fst.row = row
      (∃ (e : RowHash × Nat), e ∈ c.twin.referee ∧ mine e)) ∧
    (∃ (t : Nat) (s : Machine.State),
      let c : Chip := (s.at_ t).chip
      let d : Chip := c.forAll c.enabledBars fun (c : Chip) (k : Nat) => c.set (TW_HLEAD_HLEAD k) (if FMap.get 0 c.twin.leads k = 0 then 65535 else min 65535 ((FMap.get 0 c.twin.leads k - 1) / 1000))
      let low : Prop := ∃ (k : Nat), k ∈ c.enabledBars ∧ d.get (TW_HLEAD_HLEAD k) < 280
      let f : Chip := { d with twin := { d.twin with leads := [] } }
      let told : Prop := low ∧ (f.twin.peerRole = some 1 ∨ f.twin.peerRole = some 2) ∧ (f.get TW_STAT_BELAY_HEARD ≠ 0 ∨ f.get TW_STAT_ROPE_HEARD ≠ 0)
      (told)) ∧
    (∃ (t : Nat) (s : Machine.State),
      let c : Chip := (s.at_ t).chip
      let d : Chip := c.forAll c.enabledBars fun (c : Chip) (k : Nat) => c.set (TW_HLEAD_HLEAD k) (if FMap.get 0 c.twin.leads k = 0 then 65535 else min 65535 ((FMap.get 0 c.twin.leads k - 1) / 1000))
      let low : Prop := ∃ (k : Nat), k ∈ c.enabledBars ∧ d.get (TW_HLEAD_HLEAD k) < 280
      let f : Chip := { d with twin := { d.twin with leads := [] } }
      let told : Prop := low ∧ (f.twin.peerRole = some 1 ∨ f.twin.peerRole = some 2) ∧ (f.get TW_STAT_BELAY_HEARD ≠ 0 ∨ f.get TW_STAT_ROPE_HEARD ≠ 0)
      (¬told)) :=
  ⟨⟨0, stateWith [] (fun c => { c with health := { c.health with silent := true } }), by dsimp only; decide +kernel⟩,
   ⟨0, stateWith [], by dsimp only; decide +kernel⟩,
   ⟨0, stateWith [(SYS_STRAP_ROPED_EN, 1), (TW_STAT_ROPE_UP, 1)], by dsimp only; decide +kernel⟩,
   ⟨[], by dsimp only; decide +kernel⟩,
   ⟨0, beat16, stateWith [] (·.armInj .tw 0 0 0xFFFF), by dsimp only; decide +kernel⟩,
   ⟨0, beat16, stateWith [], by dsimp only; decide +kernel⟩,
   ⟨{}, 0, by decide +kernel⟩,
   ⟨(Chip.set {} SYS_STRAP_ROPED_EN 1).set TW_STAT_ROLE 1, true, 1, 0, 5, by dsimp only; decide +kernel⟩,
   ⟨Chip.set {} SYS_STRAP_ROPED_EN 1, true, 1, 0, 5, by dsimp only; decide +kernel⟩,
   ⟨0, ⟨0, 0, 1, 0, 0, 0⟩, stateWith [], by dsimp only; decide +kernel⟩,
   ⟨0, ⟨0, 0, 2, 0, 0, 0⟩, stateWith [(SYS_STRAP_ROPED_EN, 1), (TW_STAT_ROPE_UP, 1), (TW_STAT_ROLE, 1)], by dsimp only; decide +kernel⟩,
   ⟨0, ⟨0, 0, 1, 0, 0, 0⟩, stateWith [(SYS_STRAP_ROPED_EN, 1), (TW_STAT_ROPE_UP, 1), (TW_STAT_ROLE, 1)], by dsimp only; decide +kernel⟩,
   ⟨0, ⟨0, 0, 2, 0, 0, 0⟩, stateWith [(SYS_STRAP_ROPED_EN, 1), (TW_STAT_ROPE_UP, 1), (TW_STAT_ROLE, 2)], by dsimp only; decide +kernel⟩,
   ⟨{}, by dsimp only; decide +kernel⟩,
   ⟨(stateWith [(SYS_STRAP_ROPED_EN, 1), (TW_STAT_ROPE_UP, 1)] (·.armInj .rl 0 0 0xFFFF)).chip, by dsimp only; decide +kernel⟩,
   ⟨(Chip.set {} SYS_STRAP_ROPED_EN 1).set TW_STAT_ROPE_UP 1, 1, by dsimp only; decide +kernel⟩,
   ⟨(Chip.set {} SYS_STRAP_ROPED_EN 1).set TW_STAT_ROPE_UP 1, 0, by dsimp only; decide +kernel⟩,
   ⟨0, stateWith [], by dsimp only; decide +kernel⟩,
   ⟨0, stateWith [(SYS_STRAP_ROPED_EN, 1), (TW_STAT_ROPE_UP, 1)], by dsimp only; decide +kernel⟩,
   ⟨0, 0, stateWith [], by dsimp only; decide +kernel⟩,
   ⟨65536 * 20000, 3, stateWith [] (twin { sent := [waiting3 0] }), by dsimp only; decide +kernel⟩,
   ⟨0, 1, stateWith [], by dsimp only; decide +kernel⟩,
   ⟨0, 1, stateWith [(SYS_STRAP_ROPED_EN, 1), (TW_STAT_ROPE_UP, 1), (TW_STAT_ROLE, 1)], by dsimp only; decide +kernel⟩,
   ⟨0, 1, stateWith [], by dsimp only; decide +kernel⟩,
   ⟨0, 1, 0, stateWith [(SYS_STRAP_ROPED_EN, 1), (TW_STAT_ROPE_UP, 1), (TW_STAT_ROLE, 1)], by dsimp only; decide +kernel⟩,
   ⟨0, 1, 1, stateWith [(SYS_STRAP_ROPED_EN, 1), (TW_STAT_ROPE_UP, 1), (TW_STAT_ROLE, 1)], by dsimp only; decide +kernel⟩,
   ⟨0, 1, 2, stateWith [(SYS_STRAP_ROPED_EN, 1), (TW_STAT_ROPE_UP, 1), (TW_STAT_ROLE, 1)], by dsimp only; decide +kernel⟩,
   ⟨stateWith [(TW_STAT_ROLE, 2)], (1, ⟨.cond, [], []⟩), by dsimp only; decide +kernel⟩,
   ⟨stateWith [(TW_STAT_ROLE, 2)], (0, ⟨.cond, [], []⟩), by dsimp only; decide +kernel⟩,
   ⟨stateWith [(TW_STAT_ROLE, 2)], (2, ⟨.cond, [], []⟩), by dsimp only; decide +kernel⟩,
   ⟨stateWith [], by dsimp only; decide +kernel⟩,
   ⟨0, stateWith [(TW_STAT_ROLE, 1), (TW_STAT_ROPE_UP, 1), (TW_STAT_ROPE_HEARD, 1)] (twin { peerRole := some 3 }), by dsimp only; decide +kernel⟩,
   ⟨0, stateWith [], by dsimp only; decide +kernel⟩,
   ⟨0, true, stateWith [(TW_STAT_ROLE, 3)] (twin { snap := (List.range 11).map fun n => (n, []) }), by dsimp only; decide +kernel⟩,
   ⟨0, true, stateWith [], by dsimp only; decide +kernel⟩,
   ⟨0, 0, stateWith [(TW_STAT_ROLE, 3)] (twin { snap := (List.range 11).map fun n => (n, []) }), by dsimp only; decide +kernel⟩,
   ⟨0, 0, stateWith [], by dsimp only; decide +kernel⟩,
   ⟨0, 0, 0, stateWith [], by dsimp only; decide +kernel⟩,
   ⟨0, 2, 7, stateWith [] (twin { referee := [(⟨2, 7, 0, 0, 1⟩, 2)] }), by dsimp only; decide +kernel⟩,
   ⟨0, stateWith [(TW_STAT_ROPE_HEARD, 1)] (fun c => twin { peerRole := some 1, leads := [(2, 5001)] } (barsOn [2] c)), by dsimp only; decide +kernel⟩,
   ⟨0, stateWith [], by dsimp only; decide +kernel⟩⟩

theorem met_SelfTestPowerAndStart :
    (∃ (t : Nat) (m : Fin 8) (s : Machine.State),
      let c : Chip := (s.at_ t).chip
      let may : Prop := (c.role = 0 ∨ c.role = 1) ∧ c.get HL_PSTAT_STATE = 2 ∧ c.get SEQ_PSTAT_OPEN = 0 ∧ c.store.jobs = [] ∧ c.sstate ≤ 2 ∧ c.health.bist = none
      let held : Prop := c.mayWrite (↑m) Blk.hl 0 388 = true ∧ c.reachable Blk.hl 0 = true
      (held) ∧ (may)) ∧
    (∃ (t : Nat) (m : Fin 8) (s : Machine.State),
      let c : Chip := (s.at_ t).chip
      let may : Prop := (c.role = 0 ∨ c.role = 1) ∧ c.get HL_PSTAT_STATE = 2 ∧ c.get SEQ_PSTAT_OPEN = 0 ∧ c.store.jobs = [] ∧ c.sstate ≤ 2 ∧ c.health.bist = none
      let held : Prop := c.mayWrite (↑m) Blk.hl 0 388 = true ∧ c.reachable Blk.hl 0 = true
      (held) ∧ (¬may)) ∧
    (∃ (t : Nat) (s : Machine.State),
      let c : Chip := (s.at_ t).chip
      let may : Prop := (c.role = 0 ∨ c.role = 1) ∧ c.get HL_PSTAT_STATE = 2 ∧ c.get SEQ_PSTAT_OPEN = 0 ∧ c.store.jobs = [] ∧ c.sstate ≤ 2 ∧ c.health.bist = none
      let due : Prop := c.get HL_BCFG_REST_AUTO ≠ 0 ∧ max c.health.idleSince c.hosts.lastB + 60000000000 * c.get HL_BCFG_REST_IDLE ≤ c.ns ∧ ∀ (a : Nat), c.health.restAt = some a → a + 28800000000000 ≤ c.ns
      (may ∧ due)) ∧
    (∃ (t : Nat) (s : Machine.State),
      let c : Chip := (s.at_ t).chip
      let may : Prop := (c.role = 0 ∨ c.role = 1) ∧ c.get HL_PSTAT_STATE = 2 ∧ c.get SEQ_PSTAT_OPEN = 0 ∧ c.store.jobs = [] ∧ c.sstate ≤ 2 ∧ c.health.bist = none
      let due : Prop := c.get HL_BCFG_REST_AUTO ≠ 0 ∧ max c.health.idleSince c.hosts.lastB + 60000000000 * c.get HL_BCFG_REST_IDLE ≤ c.ns ∧ ∀ (a : Nat), c.health.restAt = some a → a + 28800000000000 ≤ c.ns
      (¬(may ∧ due))) ∧
    (∃ (t : Nat) (m : Fin 8) (s : Machine.State) (r : BistRun),
      let c : Chip := (s.at_ t).chip
      let resting : BistRun → Prop := fun (r : BistRun) => r.kind = 2 ∧ r.aborted = false
      let held : Prop := c.mayWrite (↑m) Blk.hl 0 388 = true ∧ c.reachable Blk.hl 0 = true
      (held) ∧ (c.health.bist = some r) ∧ (resting r)) ∧
    (∃ (t : Nat) (m : Fin 8) (s : Machine.State),
      let c : Chip := (s.at_ t).chip
      let resting : BistRun → Prop := fun (r : BistRun) => r.kind = 2 ∧ r.aborted = false
      let held : Prop := c.mayWrite (↑m) Blk.hl 0 388 = true ∧ c.reachable Blk.hl 0 = true
      (held) ∧ (∀ (r : BistRun), c.health.bist = some r → ¬resting r)) ∧
    (∃ (t : Nat) (m : Fin 8) (s : Machine.State) (x : RecordSet),
      let c : Chip := (s.at_ t).chip
      let held : Prop := c.mayWrite (↑m) Blk.hl 0 388 = true ∧ c.reachable Blk.hl 0 = true
      (held) ∧ (c.health.sets.getLast? = some x)) ∧
    (∃ (t : Nat) (m : Fin 8) (s : Machine.State),
      let c : Chip := (s.at_ t).chip
      let held : Prop := c.mayWrite (↑m) Blk.hl 0 388 = true ∧ c.reachable Blk.hl 0 = true
      (held) ∧ (c.health.sets = [])) ∧
    (∃ (t : Nat) (s : Machine.State) (r : BistRun),
      let c : Chip := (s.at_ t).chip
      (c.health.bist = some r) ∧ (c.get HL_BSTAT_STATE = 2)) ∧
    (∃ (t : Nat) (s : Machine.State),
      let c : Chip := (s.at_ t).chip
      (c.health.bist = none ∨ c.get HL_BSTAT_STATE ≠ 2)) ∧
    (∃ (t : Nat) (s : Machine.State) (r : BistRun),
      let c : Chip := (s.at_ t).chip
      (c.health.bist = some r) ∧ (r.kind = 2) ∧ (c.get HL_BSTAT_STATE = 3)) ∧
    (∃ (t : Nat) (s : Machine.State),
      let c : Chip := (s.at_ t).chip
      ((∀ (r : BistRun), c.health.bist = some r → r.kind ≠ 2) ∨ c.get HL_BSTAT_STATE ≠ 3)) ∧
    (∃ (e : WaveEnd),
      (e = WaveEnd.skipVdd)) ∧
    (∃ (e : WaveEnd),
      (e = WaveEnd.skipRef)) ∧
    (∃ (e : WaveEnd) (xs : List BlockTest) (b : Blk × Nat),
      (e ≠ WaveEnd.skipVdd) ∧ (e ≠ WaveEnd.skipRef) ∧ (∀ (x : BlockTest), x ∈ xs → ¬(x.code = b.fst.code ∧ x.inst = b.snd))) ∧
    (∃ (e : WaveEnd) (xs : List BlockTest) (b : Blk × Nat) (x : BlockTest),
      (e ≠ WaveEnd.skipVdd) ∧ (e ≠ WaveEnd.skipRef) ∧ (xs = [x]) ∧ (x.code = b.fst.code) ∧ (x.inst = b.snd)) ∧
    (∃ (plog : Nat) (e : WaveEnd) (xs : List BlockTest) (b : Blk × Nat) (x : BlockTest),
      let whole : Prop := e = WaveEnd.ran ∧ x.count = 2 ^ plog
      (e ≠ WaveEnd.skipVdd) ∧ (e ≠ WaveEnd.skipRef) ∧ (xs = [x]) ∧ (x.code = b.fst.code) ∧ (x.inst = b.snd) ∧ (¬whole)) ∧
    (∃ (plog : Nat) (e : WaveEnd) (xs : List BlockTest) (b : Blk × Nat) (x : BlockTest),
      let whole : Prop := e = WaveEnd.ran ∧ x.count = 2 ^ plog
      let pass : Prop := x.sig = Config.goldenSignature x.code x.inst plog ∧ x.cells = 0
      (e ≠ WaveEnd.skipVdd) ∧ (e ≠ WaveEnd.skipRef) ∧ (xs = [x]) ∧ (x.code = b.fst.code) ∧ (x.inst = b.snd) ∧ (whole) ∧ (pass)) ∧
    (∃ (plog : Nat) (e : WaveEnd) (xs : List BlockTest) (b : Blk × Nat) (x : BlockTest),
      let whole : Prop := e = WaveEnd.ran ∧ x.count = 2 ^ plog
      let pass : Prop := x.sig = Config.goldenSignature x.code x.inst plog ∧ x.cells = 0
      (e ≠ WaveEnd.skipVdd) ∧ (e ≠ WaveEnd.skipRef) ∧ (xs = [x]) ∧ (x.code = b.fst.code) ∧ (x.inst = b.snd) ∧ (whole) ∧ (¬pass)) ∧
    (∃ (c : Chip),
      (c.health.bist = none)) ∧
    (∃ (c : Chip) (r : BistRun),
      (c.health.bist = some r)) ∧
    (∃ (c : Chip) (r : BistRun),
      (c.health.bist = some r) ∧ (c.health.latest = none)) ∧
    (∃ (t : Nat) (m : Fin 8) (s : Machine.State),
      let c : Chip := (s.at_ t).chip
      (c.mayWrite (↑m) Blk.hl 0 84 = true) ∧ (c.reachable Blk.hl 0 = true)) ∧
    (∃ (t : Nat) (m : Fin 8) (off : BitVec 4) (s : Machine.State),
      let c : Chip := (s.at_ t).chip
      let old : Nat := c.get HL_PCTL_RGOFF
      let asked : List Nat := List.filter (fun (n : Nat) => bit off.toNat n && !bit old n) (List.range 4)
      let may : Nat → Prop := fun (n : Nat) => c.get SEQ_PSTAT_OPEN = 0 ∧ (∀ (j : Nat), j < 4 → c.stage.active.enabled (4 * n + j) = false) ∧
        (∀ (j : Nat), j < 6 → c.get (LQ_CFG_EN (6 * n + j)) = 0) ∧ ∀ (r : BistRun), c.health.bist = some r → r.kind ≠ 2
      (c.mayWrite (↑m) Blk.hl 0 84 = true) ∧ (c.reachable Blk.hl 0 = true) ∧ (∀ (n : Nat), n ∈ asked → may n)) ∧
    (∃ (t : Nat) (m : Fin 8) (off : BitVec 4) (s : Machine.State),
      let c : Chip := (s.at_ t).chip
      let old : Nat := c.get HL_PCTL_RGOFF
      let asked : List Nat := List.filter (fun (n : Nat) => bit off.toNat n && !bit old n) (List.range 4)
      let may : Nat → Prop := fun (n : Nat) => c.get SEQ_PSTAT_OPEN = 0 ∧ (∀ (j : Nat), j < 4 → c.stage.active.enabled (4 * n + j) = false) ∧
        (∀ (j : Nat), j < 6 → c.get (LQ_CFG_EN (6 * n + j)) = 0) ∧ ∀ (r : BistRun), c.health.bist = some r → r.kind ≠ 2
      (c.mayWrite (↑m) Blk.hl 0 84 = true) ∧ (c.reachable Blk.hl 0 = true) ∧ (∃ (n : Nat), n ∈ asked ∧ ¬may n)) ∧
    (∃ (t : Nat) (n : Fin 4) (s : Machine.State),
      let c : Chip := (s.at_ t).chip
      (c.powerAsked ↑n = none)) ∧
    (∃ (t : Nat) (n : Fin 4) (s : Machine.State),
      let c : Chip := (s.at_ t).chip
      (c.powerAsked ↑n = some false)) ∧
    (∃ (t : Nat) (n : Fin 4) (s : Machine.State),
      let c : Chip := (s.at_ t).chip
      (c.powerAsked ↑n = some true)) ∧
    (∃ (t : Nat) (d : Fin 8) (s : Machine.State),
      let c : Chip := (s.at_ t).chip
      let late : Prop := 3 ≤ ↑d ∧ ∃ (x : Nat × Bool × Nat), x ∈ c.health.powerReq ∧ x.fst = ↑d - 3 ∧ x.snd.fst = true ∧ x.snd.snd + 20000000 ≤ c.ns
      (late)) ∧
    (∃ (t : Nat) (d : Fin 8) (s : Machine.State),
      let c : Chip := (s.at_ t).chip
      let late : Prop := 3 ≤ ↑d ∧ ∃ (x : Nat × Bool × Nat), x ∈ c.health.powerReq ∧ x.fst = ↑d - 3 ∧ x.snd.fst = true ∧ x.snd.snd + 20000000 ≤ c.ns
      let starting : Prop := c.get HL_PSTAT_STATE = 1 ∧ ↑d ≠ 0 ∧ bit (c.get HL_PSTAT_DOMAIN_ON) ↑d = true
      (¬late) ∧ (starting)) ∧
    (∃ (t : Nat) (d : Fin 8) (s : Machine.State),
      let c : Chip := (s.at_ t).chip
      let late : Prop := 3 ≤ ↑d ∧ ∃ (x : Nat × Bool × Nat), x ∈ c.health.powerReq ∧ x.fst = ↑d - 3 ∧ x.snd.fst = true ∧ x.snd.snd + 20000000 ≤ c.ns
      let starting : Prop := c.get HL_PSTAT_STATE = 1 ∧ ↑d ≠ 0 ∧ bit (c.get HL_PSTAT_DOMAIN_ON) ↑d = true
      (¬late) ∧ (¬starting)) ∧
    (∃ (t : Nat) (m : Fin 8) (s : Machine.State),
      let a : Machine.State := s.at_ t
      let c : Chip := a.chip
      let ready : Prop := c.get HL_PSTAT_STATE = 2
      (c.mayWrite (↑m) Blk.hl 0 84 = true) ∧ (c.reachable Blk.hl 0 = true) ∧ (¬ready)) ∧
    (∃ (t : Nat) (m : Fin 8) (s : Machine.State),
      let a : Machine.State := s.at_ t
      let c : Chip := a.chip
      let ready : Prop := c.get HL_PSTAT_STATE = 2
      let busy : Prop := (c.role = 0 ∨ c.role = 1) ∧ c.peerStandby = false ∧ c.get SEQ_PSTAT_OPEN ≠ 0 ∨ ∃ (r : BistRun), c.health.bist = some r ∧ r.kind = 2
      (c.mayWrite (↑m) Blk.hl 0 84 = true) ∧ (c.reachable Blk.hl 0 = true) ∧ (ready) ∧ (busy)) ∧
    (∃ (t : Nat) (m : Fin 8) (s : Machine.State) (h : Handoff),
      let a : Machine.State := s.at_ t
      let c : Chip := a.chip
      let ready : Prop := c.get HL_PSTAT_STATE = 2
      let busy : Prop := (c.role = 0 ∨ c.role = 1) ∧ c.peerStandby = false ∧ c.get SEQ_PSTAT_OPEN ≠ 0 ∨ ∃ (r : BistRun), c.health.bist = some r ∧ r.kind = 2
      (c.mayWrite (↑m) Blk.hl 0 84 = true) ∧ (c.reachable Blk.hl 0 = true) ∧ (ready) ∧ (¬busy) ∧ (c.twin.handoff = some h)) ∧
    (∃ (t : Nat) (m : Fin 8) (s : Machine.State),
      let a : Machine.State := s.at_ t
      let c : Chip := a.chip
      let ready : Prop := c.get HL_PSTAT_STATE = 2
      let busy : Prop := (c.role = 0 ∨ c.role = 1) ∧ c.peerStandby = false ∧ c.get SEQ_PSTAT_OPEN ≠ 0 ∨ ∃ (r : BistRun), c.health.bist = some r ∧ r.kind = 2
      (c.mayWrite (↑m) Blk.hl 0 84 = true) ∧ (c.reachable Blk.hl 0 = true) ∧ (ready) ∧ (¬busy) ∧ (c.twin.handoff = none) ∧ (c.peerStandby = true)) ∧
    (∃ (t : Nat) (m : Fin 8) (s : Machine.State),
      let a : Machine.State := s.at_ t
      let c : Chip := a.chip
      let ready : Prop := c.get HL_PSTAT_STATE = 2
      let busy : Prop := (c.role = 0 ∨ c.role = 1) ∧ c.peerStandby = false ∧ c.get SEQ_PSTAT_OPEN ≠ 0 ∨ ∃ (r : BistRun), c.health.bist = some r ∧ r.kind = 2
      (c.mayWrite (↑m) Blk.hl 0 84 = true) ∧ (c.reachable Blk.hl 0 = true) ∧ (ready) ∧ (¬busy) ∧ (c.twin.handoff = none) ∧ (c.peerStandby = false)) ∧
    (∃ (t : Nat) (s : Machine.State),
      let a : Machine.State := s.at_ t
      let c : Chip := a.chip
      let ended : Prop := c.get HL_PSTAT_STATE = 3 ∧ c.get NV_STAT_BUSY = 0 ∧ (c.health.bist = none ∨ c.get HL_BSTAT_STATE = 3)
      (ended)) ∧
    (∃ (t : Nat) (s : Machine.State),
      let a : Machine.State := s.at_ t
      let c : Chip := a.chip
      let ended : Prop := c.get HL_PSTAT_STATE = 3 ∧ c.get NV_STAT_BUSY = 0 ∧ (c.health.bist = none ∨ c.get HL_BSTAT_STATE = 3)
      (¬ended)) ∧
    (∃ (t : Nat) (s : Machine.State),
      let a : Machine.State := s.at_ t
      let c : Chip := a.chip
      (c.health.powerGood = true)) ∧
    (∃ (t : Nat) (ftm : Bool) (vcore : Nat) (ref : Option Int) (s : Machine.State),
      let a : Machine.State := s.at_ t
      let c : Chip := a.chip
      let supply : Prop := 720 ≤ vcore ∧ vcore ≤ 800 ∧ ∃ (p : Int), ref = some p ∧ -300 ≤ p ∧ p ≤ 300
      let allows : RecordSet → Prop := fun (x : RecordSet) => x.kind = 1 ∧ x.ended = true ∧ x.quickOk = true ∧ 20 ≤ x.plog ∧ x.qsn < 15 ∧ x.recs ≠ [] ∧ ∀ (y : BlockRec), y ∈ x.recs → y.result = 0
      let quick : Prop := ftm = false ∧ supply ∧ ∃ (x : RecordSet), c.health.latest = some x ∧ allows x
      (c.health.powerGood = false) ∧ (quick)) ∧
    (∃ (t : Nat) (ftm : Bool) (vcore : Nat) (ref : Option Int) (s : Machine.State),
      let a : Machine.State := s.at_ t
      let c : Chip := a.chip
      let supply : Prop := 720 ≤ vcore ∧ vcore ≤ 800 ∧ ∃ (p : Int), ref = some p ∧ -300 ≤ p ∧ p ≤ 300
      let allows : RecordSet → Prop := fun (x : RecordSet) => x.kind = 1 ∧ x.ended = true ∧ x.quickOk = true ∧ 20 ≤ x.plog ∧ x.qsn < 15 ∧ x.recs ≠ [] ∧ ∀ (y : BlockRec), y ∈ x.recs → y.result = 0
      let quick : Prop := ftm = false ∧ supply ∧ ∃ (x : RecordSet), c.health.latest = some x ∧ allows x
      (c.health.powerGood = false) ∧ (¬quick)) ∧
    (∃ (t : Nat) (s : Machine.State),
      let a : Machine.State := s.at_ t
      let c : Chip := a.chip
      let done : Prop := c.health.powerGood = true ∧ c.health.silent = false ∧ c.get HL_PSTAT_STATE = 1 ∧ c.twin.deciding = false ∧ c.twin.needDt = false ∧
        (c.health.bist = none ∨ c.get HL_BSTAT_STATE = 3)
      (done)) ∧
    (∃ (t : Nat) (s : Machine.State),
      let a : Machine.State := s.at_ t
      let c : Chip := a.chip
      let done : Prop := c.health.powerGood = true ∧ c.health.silent = false ∧ c.get HL_PSTAT_STATE = 1 ∧ c.twin.deciding = false ∧ c.twin.needDt = false ∧
        (c.health.bist = none ∨ c.get HL_BSTAT_STATE = 3)
      (¬done)) ∧
    (∃ (t : Nat) (s : Machine.State),
      let a : Machine.State := s.at_ t
      let c : Chip := a.chip
      (c.health.powerGood = false)) ∧
    (∃ (t : Nat) (s : Machine.State),
      let a : Machine.State := s.at_ t
      let c : Chip := a.chip
      let due : Nat → Prop := fun (x : Nat) => c.health.shutAt = some x ∧ c.health.silent = false ∧
        (x + 1000000 ≤ c.ns ∨ c.get TW_STAT_HANDOFF = 0 ∧ (c.health.shutHandoff = true ∨ x + 100000 ≤ c.ns))
      (∃ (x : Nat), due x)) ∧
    (∃ (t : Nat) (s : Machine.State),
      let a : Machine.State := s.at_ t
      let c : Chip := a.chip
      let due : Nat → Prop := fun (x : Nat) => c.health.shutAt = some x ∧ c.health.silent = false ∧
        (x + 1000000 ≤ c.ns ∨ c.get TW_STAT_HANDOFF = 0 ∧ (c.health.shutHandoff = true ∨ x + 100000 ≤ c.ns))
      (∀ (x : Nat), ¬due x)) ∧
    (∃ (keep : Nat → Bool) (f : Fld),
      (keep f.key = true)) ∧
    (∃ (keep : Nat → Bool) (f : Fld),
      (keep f.key = false)) :=
  ⟨⟨0, 0, stateWith [(HL_PSTAT_STATE, 2)], by dsimp only; decide +kernel⟩,
   ⟨0, 0, stateWith [], by dsimp only; decide +kernel⟩,
   ⟨65536 * 28800000000000, stateWith [(HL_PSTAT_STATE, 2), (HL_BCFG_REST_AUTO, 1)], by dsimp only; decide +kernel⟩,
   ⟨0, stateWith [], by dsimp only; decide +kernel⟩,
   ⟨0, 0, stateWith [] (fun c => inHealth { bist := some ⟨2, 0, 0, false, []⟩ } ( c)), ⟨2, 0, 0, false, []⟩, by dsimp only; decide +kernel⟩,
   ⟨0, 0, stateWith [], by dsimp only; decide +kernel⟩,
   ⟨0, 0, stateWith [] (fun c => inHealth { sets := [⟨0, 1, 20, 1, 0, 0, true, true, [⟨1, 0, 0, true, true, 0, 0, 0, 0, 0, 0, 0⟩]⟩] } ( c)), ⟨0, 1, 20, 1, 0, 0, true, true, [⟨1, 0, 0, true, true, 0, 0, 0, 0, 0, 0, 0⟩]⟩, by dsimp only; decide +kernel⟩,
   ⟨0, 0, stateWith [], by dsimp only; decide +kernel⟩,
   ⟨0, stateWith [(HL_BSTAT_STATE, 2)] (fun c => inHealth { bist := some ⟨2, 0, 0, false, []⟩ } ( c)), ⟨2, 0, 0, false, []⟩, by dsimp only; decide +kernel⟩,
   ⟨0, stateWith [], by dsimp only; decide +kernel⟩,
   ⟨0, stateWith [(HL_BSTAT_STATE, 3)] (fun c => inHealth { bist := some ⟨2, 0, 0, false, []⟩ } ( c)), ⟨2, 0, 0, false, []⟩, by dsimp only; decide +kernel⟩,
   ⟨0, stateWith [], by dsimp only; decide +kernel⟩,
   ⟨.skipVdd, by decide +kernel⟩,
   ⟨.skipRef, by decide +kernel⟩,
   ⟨.ran, [], (.sys, 0), by decide +kernel⟩,
   ⟨.ran, [⟨Blk.sys.code, 0, 1, Config.goldenSignature Blk.sys.code 0 0, 0, false⟩], (.sys, 0), ⟨Blk.sys.code, 0, 1, Config.goldenSignature Blk.sys.code 0 0, 0, false⟩, ⟨by decide +kernel, by decide +kernel, rfl, by decide +kernel, by decide +kernel⟩⟩,
   ⟨0, .stopped, [⟨Blk.sys.code, 0, 1, Config.goldenSignature Blk.sys.code 0 0, 0, false⟩], (.sys, 0), ⟨Blk.sys.code, 0, 1, Config.goldenSignature Blk.sys.code 0 0, 0, false⟩, ⟨by decide +kernel, by decide +kernel, rfl, by decide +kernel, by decide +kernel, by decide +kernel⟩⟩,
   ⟨0, .ran, [⟨Blk.sys.code, 0, 1, Config.goldenSignature Blk.sys.code 0 0, 0, false⟩], (.sys, 0), ⟨Blk.sys.code, 0, 1, Config.goldenSignature Blk.sys.code 0 0, 0, false⟩, ⟨by decide +kernel, by decide +kernel, rfl, by decide +kernel, by decide +kernel, by decide +kernel, ⟨rfl, by decide +kernel⟩⟩⟩,
   ⟨0, .ran, [⟨Blk.sys.code, 0, 1, Config.goldenSignature Blk.sys.code 0 0, 1, false⟩], (.sys, 0), ⟨Blk.sys.code, 0, 1, Config.goldenSignature Blk.sys.code 0 0, 1, false⟩, ⟨by decide +kernel, by decide +kernel, rfl, by decide +kernel, by decide +kernel, by decide +kernel, fun h => absurd h.2 (by decide)⟩⟩,
   ⟨{}, by decide +kernel⟩,
   ⟨inHealth { bist := some ⟨1, 0, 0, false, []⟩ } {}, ⟨1, 0, 0, false, []⟩, by decide +kernel⟩,
   ⟨inHealth { bist := some ⟨1, 0, 0, false, []⟩ } {}, ⟨1, 0, 0, false, []⟩, by decide +kernel⟩,
   ⟨0, 0, stateWith [], by dsimp only; decide +kernel⟩,
   ⟨0, 0, 0, stateWith [], by dsimp only; decide +kernel⟩,
   ⟨0, 0, 1, stateWith [(SEQ_PSTAT_OPEN, 1)], by dsimp only; decide +kernel⟩,
   ⟨0, 0, stateWith [], by dsimp only; decide +kernel⟩,
   ⟨0, 0, stateWith [] (fun c => inHealth { powerReq := [(0, false, 0)] } ( c)), by dsimp only; decide +kernel⟩,
   ⟨0, 0, stateWith [] (fun c => inHealth { powerReq := [(0, true, 0)] } ( c)), by dsimp only; decide +kernel⟩,
   ⟨65536 * 20000000, 3, stateWith [] (fun c => inHealth { powerReq := [(0, true, 0)] } ( c)), by dsimp only; decide +kernel⟩,
   ⟨0, 1, stateWith [], by dsimp only; decide +kernel⟩,
   ⟨0, 0, stateWith [], by dsimp only; decide +kernel⟩,
   ⟨0, 0, stateWith [], by dsimp only; decide +kernel⟩,
   ⟨0, 0, stateWith [(HL_PSTAT_STATE, 2), (SEQ_PSTAT_OPEN, 1)], by dsimp only; decide +kernel⟩,
   ⟨0, 0, stateWith [(HL_PSTAT_STATE, 2)] (twin { handoff := some offer }), offer, by dsimp only; decide +kernel⟩,
   ⟨0, 0, stateWith [(HL_PSTAT_STATE, 2), (TW_STAT_ROLE, 1), (TW_STAT_ROPE_UP, 1), (TW_STAT_ROPE_HEARD, 1)] (twin { peerRole := some 2 }), by dsimp only; decide +kernel⟩,
   ⟨0, 0, stateWith [(HL_PSTAT_STATE, 2)], by dsimp only; decide +kernel⟩,
   ⟨0, stateWith [(HL_PSTAT_STATE, 3)], by dsimp only; decide +kernel⟩,
   ⟨0, stateWith [], by dsimp only; decide +kernel⟩,
   ⟨0, stateWith [], by dsimp only; decide +kernel⟩,
   ⟨0, false, 750, some 0, stateWith [] (fun c => inHealth { powerGood := false, sets := [⟨0, 1, 20, 1, 0, 0, true, true, [⟨1, 0, 0, true, true, 0, 0, 0, 0, 0, 0, 0⟩]⟩] } ( c)), by dsimp only; decide +kernel⟩,
   ⟨0, false, 0, none, stateWith [] (fun c => inHealth { powerGood := false } ( c)), by dsimp only; decide +kernel⟩,
   ⟨0, stateWith [], by dsimp only; decide +kernel⟩,
   ⟨0, stateWith [(HL_PSTAT_STATE, 2)], by dsimp only; decide +kernel⟩,
   ⟨0, stateWith [] (fun c => inHealth { powerGood := false } ( c)), by dsimp only; decide +kernel⟩,
   ⟨65536 * 1000000, stateWith [] (fun c => inHealth { shutAt := some 0 } ( c)), by dsimp only; decide +kernel⟩,
   ⟨0, stateWith [], fun x h => absurd (show (none : Option Nat) = some x from h.1) (by simp)⟩,
   ⟨fun _ => true, SYS_STRAP_FTM, by decide +kernel⟩,
   ⟨fun _ => false, SYS_STRAP_FTM, by decide +kernel⟩⟩

theorem met_FaultRegistersAndThermal :
    (∃ (addr : BitVec 32),
      (blockAt addr.toNat = none)) ∧
    (∃ (addr : BitVec 32) (i : Nat),
      (blockAt addr.toNat = some (Blk.tn, i))) ∧
    (∃ (t : Nat) (m : Fin 8) (addr : BitVec 32) (b : Blk) (i : Nat) (s : Machine.State),
      let c : Chip := (s.at_ t).chip
      let held : Nat → Prop := fun (off : Nat) => c.mayWrite (↑m) b i off = true ∧ c.reachable b i = true
      (blockAt addr.toNat = some (b, i)) ∧ (b ≠ Blk.tn) ∧ (offIn b i addr.toNat = 16) ∧ (held 16)) ∧
    (∃ (addr : BitVec 32) (b : Blk) (i : Nat),
      (blockAt addr.toNat = some (b, i)) ∧ (b ≠ Blk.tn) ∧ (offIn b i addr.toNat ≠ 16)) ∧
    (∃ (t : Nat) (m : Fin 8) (addr : BitVec 32) (v : BitVec 32) (b : Blk) (i : Nat) (s : Machine.State),
      let c : Chip := (s.at_ t).chip
      let held : Nat → Prop := fun (off : Nat) => c.mayWrite (↑m) b i off = true ∧ c.reachable b i = true
      let w : Nat := v.toNat ||| 2 ^ 31
      let d : Chip := if bit w 30 = true then c.set (FINJ_ARM b i) 0 else c
      (blockAt addr.toNat = some (b, i)) ∧ (b ≠ Blk.tn) ∧ (offIn b i addr.toNat = 56) ∧ (held 56) ∧ (d.get (FINJ_ARM b i) ≠ 0)) ∧
    (∃ (t : Nat) (m : Fin 8) (addr : BitVec 32) (v : BitVec 32) (b : Blk) (i : Nat) (s : Machine.State),
      let c : Chip := (s.at_ t).chip
      let held : Nat → Prop := fun (off : Nat) => c.mayWrite (↑m) b i off = true ∧ c.reachable b i = true
      let w : Nat := v.toNat ||| 2 ^ 31
      let d : Chip := if bit w 30 = true then c.set (FINJ_ARM b i) 0 else c
      let f : Chip := (d.set (FINJ_SRC b i) (bits w 0 5)).set (FINJ_CELL b i) (bits w 8 16)
      let cell : Nat := bits w 8 16
      let good : Prop := (f.get SYS_STRAP_ROPED_EN ≠ 0 ∨ f.get SYS_STRAP_FTM ≠ 0) ∧ hasChecker b (bits w 0 5) = true ∧ (cell = 65535 ∨ cell < b.cells)
      (blockAt addr.toNat = some (b, i)) ∧ (b ≠ Blk.tn) ∧ (offIn b i addr.toNat = 56) ∧ (held 56) ∧ (d.get (FINJ_ARM b i) = 0) ∧ (¬good)) ∧
    (∃ (t : Nat) (m : Fin 8) (addr : BitVec 32) (v : BitVec 32) (b : Blk) (i : Nat) (s : Machine.State),
      let c : Chip := (s.at_ t).chip
      let held : Nat → Prop := fun (off : Nat) => c.mayWrite (↑m) b i off = true ∧ c.reachable b i = true
      let w : Nat := v.toNat ||| 2 ^ 31
      let d : Chip := if bit w 30 = true then c.set (FINJ_ARM b i) 0 else c
      let f : Chip := (d.set (FINJ_SRC b i) (bits w 0 5)).set (FINJ_CELL b i) (bits w 8 16)
      let cell : Nat := bits w 8 16
      let good : Prop := (f.get SYS_STRAP_ROPED_EN ≠ 0 ∨ f.get SYS_STRAP_FTM ≠ 0) ∧ hasChecker b (bits w 0 5) = true ∧ (cell = 65535 ∨ cell < b.cells)
      (blockAt addr.toNat = some (b, i)) ∧ (b ≠ Blk.tn) ∧ (offIn b i addr.toNat = 56) ∧ (held 56) ∧ (d.get (FINJ_ARM b i) = 0) ∧ (good)) ∧
    (∃ (t : Nat) (m : Fin 8) (addr : BitVec 32) (b : Blk) (i : Nat) (s : Machine.State),
      let c : Chip := (s.at_ t).chip
      let held : Nat → Prop := fun (off : Nat) => c.mayWrite (↑m) b i off = true ∧ c.reachable b i = true
      (blockAt addr.toNat = some (b, i)) ∧ (b ≠ Blk.tn) ∧ (offIn b i addr.toNat = 56) ∧ (held 56)) ∧
    (∃ (addr : BitVec 32) (b : Blk) (i : Nat),
      (blockAt addr.toNat = some (b, i)) ∧ (b ≠ Blk.tn) ∧ (offIn b i addr.toNat ≠ 56)) ∧
    (∃ (t : Nat) (s : Machine.State),
      let a : Machine.State := s.at_ t
      (a.chip.health.powerGood = false)) ∧
    (∃ (t : Nat) (temps : List (Option Int)) (vcore : Nat) (out : Bool) (s : Machine.State),
      let a : Machine.State := s.at_ t
      let d : Chip := a.chip.thermalSample temps vcore out
      let cleared : Prop := d.health.shutAt ≠ none ∧ 200000 ≤ FMap.get 0 d.health.runClr 2
      (a.chip.health.powerGood = true) ∧ (¬cleared)) ∧
    (∃ (t : Nat) (temps : List (Option Int)) (vcore : Nat) (out : Bool) (s : Machine.State),
      let a : Machine.State := s.at_ t
      let d : Chip := a.chip.thermalSample temps vcore out
      let cleared : Prop := d.health.shutAt ≠ none ∧ 200000 ≤ FMap.get 0 d.health.runClr 2
      (a.chip.health.powerGood = true) ∧ (cleared) ∧ (d.health.silent = false)) ∧
    (∃ (t : Nat) (temps : List (Option Int)) (vcore : Nat) (out : Bool) (s : Machine.State),
      let a : Machine.State := s.at_ t
      let d : Chip := a.chip.thermalSample temps vcore out
      let cleared : Prop := d.health.shutAt ≠ none ∧ 200000 ≤ FMap.get 0 d.health.runClr 2
      (a.chip.health.powerGood = true) ∧ (cleared) ∧ (d.health.silent = true)) ∧
    (∃ (i : Nat),
      (i < 24)) ∧
    (∃ (xs : List (Int × Bool)),
      (xs ≠ [])) ∧
    (∃ (xs : List (Int × Bool)) (x : Int × Bool),
      (xs ≠ []) ∧ (x ∈ xs)) ∧
    (∃ (xs : List (Int × Bool)) (j : Nat) (x : Int × Bool),
      (xs ≠ []) ∧ (xs[j]? = some x) ∧ (x.fst = (hottest xs).fst)) ∧
    (∃ (t : Nat) (s : Machine.State),
      let c : Chip := (s.at_ t).chip
      let due : Fld → Prop := fun (f : Fld) => c.health.stepAt + 1000000 * c.get f ≤ c.ns
      let throttles : Prop := c.get HL_THSTAT_THROT ≠ 0 ∧ due HL_THCFG_THR_PER
      (¬throttles)) ∧
    (∃ (t : Nat) (s : Machine.State),
      let c : Chip := (s.at_ t).chip
      let due : Fld → Prop := fun (f : Fld) => c.health.stepAt + 1000000 * c.get f ≤ c.ns
      let throttles : Prop := c.get HL_THSTAT_THROT ≠ 0 ∧ due HL_THCFG_THR_PER
      let d : Chip := (c.onHealth fun (h : Health) => { h with stepAt := c.ns }).sampleDemand
      let took : Nat → Prop := fun (n : Nat) => bit d.health.steps (n - 1) = true
      (throttles) ∧ (¬took 1)) ∧
    (∃ (t : Nat) (s : Machine.State),
      let c : Chip := (s.at_ t).chip
      let due : Fld → Prop := fun (f : Fld) => c.health.stepAt + 1000000 * c.get f ≤ c.ns
      let throttles : Prop := c.get HL_THSTAT_THROT ≠ 0 ∧ due HL_THCFG_THR_PER
      let d : Chip := (c.onHealth fun (h : Health) => { h with stepAt := c.ns }).sampleDemand
      let took : Nat → Prop := fun (n : Nat) => bit d.health.steps (n - 1) = true
      (throttles) ∧ (took 1) ∧ (¬took 2) ∧ (d.demandAllows 2 = true)) ∧
    (∃ (t : Nat) (s : Machine.State),
      let c : Chip := (s.at_ t).chip
      let due : Fld → Prop := fun (f : Fld) => c.health.stepAt + 1000000 * c.get f ≤ c.ns
      let throttles : Prop := c.get HL_THSTAT_THROT ≠ 0 ∧ due HL_THCFG_THR_PER
      let d : Chip := (c.onHealth fun (h : Health) => { h with stepAt := c.ns }).sampleDemand
      let took : Nat → Prop := fun (n : Nat) => bit d.health.steps (n - 1) = true
      (throttles) ∧ (took 1) ∧ (took 2 ∨ d.demandAllows 2 = false) ∧ (¬took 3)) ∧
    (∃ (t : Nat) (s : Machine.State),
      let c : Chip := (s.at_ t).chip
      let due : Fld → Prop := fun (f : Fld) => c.health.stepAt + 1000000 * c.get f ≤ c.ns
      let throttles : Prop := c.get HL_THSTAT_THROT ≠ 0 ∧ due HL_THCFG_THR_PER
      let d : Chip := (c.onHealth fun (h : Health) => { h with stepAt := c.ns }).sampleDemand
      let took : Nat → Prop := fun (n : Nat) => bit d.health.steps (n - 1) = true
      (throttles) ∧ (took 1) ∧ (took 2) ∧ (took 3) ∧ (¬took 4) ∧ (d.demandAllows 4 = true)) ∧
    (∃ (t : Nat) (s : Machine.State),
      let c : Chip := (s.at_ t).chip
      let due : Fld → Prop := fun (f : Fld) => c.health.stepAt + 1000000 * c.get f ≤ c.ns
      let throttles : Prop := c.get HL_THSTAT_THROT ≠ 0 ∧ due HL_THCFG_THR_PER
      let d : Chip := (c.onHealth fun (h : Health) => { h with stepAt := c.ns }).sampleDemand
      let took : Nat → Prop := fun (n : Nat) => bit d.health.steps (n - 1) = true
      let ks : List Nat := List.filter d.skipAllowed d.enabledBars
      let late : Prop := took 1 ∧ (took 2 ∨ d.demandAllows 2 = false) ∧ took 3 ∧ (¬took 2 ∨ took 4 ∨ d.demandAllows 4 = false)
      (throttles) ∧ (late) ∧ (ks ≠ [])) ∧
    (∃ (t : Nat) (s : Machine.State),
      let c : Chip := (s.at_ t).chip
      let due : Fld → Prop := fun (f : Fld) => c.health.stepAt + 1000000 * c.get f ≤ c.ns
      let throttles : Prop := c.get HL_THSTAT_THROT ≠ 0 ∧ due HL_THCFG_THR_PER
      let d : Chip := (c.onHealth fun (h : Health) => { h with stepAt := c.ns }).sampleDemand
      let took : Nat → Prop := fun (n : Nat) => bit d.health.steps (n - 1) = true
      let ks : List Nat := List.filter d.skipAllowed d.enabledBars
      let late : Prop := took 1 ∧ (took 2 ∨ d.demandAllows 2 = false) ∧ took 3 ∧ (¬took 2 ∨ took 4 ∨ d.demandAllows 4 = false)
      (throttles) ∧ (late) ∧ (ks = [])) ∧
    (∃ (t : Nat) (s : Machine.State),
      let c : Chip := (s.at_ t).chip
      let due : Fld → Prop := fun (f : Fld) => c.health.stepAt + 1000000 * c.get f ≤ c.ns
      let releases : Prop := c.get HL_THR_RELEASING ≠ 0 ∧ c.get HL_THSTAT_THROT = 0 ∧ due HL_THCFG_THR_RPER
      (releases)) ∧
    (∃ (t : Nat) (s : Machine.State),
      let c : Chip := (s.at_ t).chip
      let due : Fld → Prop := fun (f : Fld) => c.health.stepAt + 1000000 * c.get f ≤ c.ns
      let releases : Prop := c.get HL_THR_RELEASING ≠ 0 ∧ c.get HL_THSTAT_THROT = 0 ∧ due HL_THCFG_THR_RPER
      (¬releases)) ∧
    (∃ (c : Chip),
      let d : Chip := c.onHealth fun (h : Health) => { h with stepAt := c.ns }
      let v : Nat := d.get HL_THR_VTH
      (v ≠ 16777215)) ∧
    (∃ (c : Chip),
      let d : Chip := c.onHealth fun (h : Health) => { h with stepAt := c.ns }
      let v : Nat := d.get HL_THR_VTH
      let ks : List Nat := List.filter (fun (k : Nat) => d.is (PWR_SKIP Blk.be k)) (List.range 16)
      (v = 16777215) ∧ (ks ≠ [])) ∧
    (∃ (c : Chip),
      let d : Chip := c.onHealth fun (h : Health) => { h with stepAt := c.ns }
      let v : Nat := d.get HL_THR_VTH
      let ks : List Nat := List.filter (fun (k : Nat) => d.is (PWR_SKIP Blk.be k)) (List.range 16)
      let step : Nat → Prop := fun (n : Nat) => bit d.health.steps (n - 1) = true
      (v = 16777215) ∧ (ks = []) ∧ (step 4)) ∧
    (∃ (c : Chip),
      let d : Chip := c.onHealth fun (h : Health) => { h with stepAt := c.ns }
      let v : Nat := d.get HL_THR_VTH
      let ks : List Nat := List.filter (fun (k : Nat) => d.is (PWR_SKIP Blk.be k)) (List.range 16)
      let step : Nat → Prop := fun (n : Nat) => bit d.health.steps (n - 1) = true
      (v = 16777215) ∧ (ks = []) ∧ (¬step 4) ∧ (step 3)) ∧
    (∃ (c : Chip),
      let d : Chip := c.onHealth fun (h : Health) => { h with stepAt := c.ns }
      let v : Nat := d.get HL_THR_VTH
      let ks : List Nat := List.filter (fun (k : Nat) => d.is (PWR_SKIP Blk.be k)) (List.range 16)
      let step : Nat → Prop := fun (n : Nat) => bit d.health.steps (n - 1) = true
      (v = 16777215) ∧ (ks = []) ∧ (¬step 4) ∧ (¬step 3) ∧ (step 2)) ∧
    (∃ (c : Chip),
      let d : Chip := c.onHealth fun (h : Health) => { h with stepAt := c.ns }
      let v : Nat := d.get HL_THR_VTH
      let ks : List Nat := List.filter (fun (k : Nat) => d.is (PWR_SKIP Blk.be k)) (List.range 16)
      let step : Nat → Prop := fun (n : Nat) => bit d.health.steps (n - 1) = true
      (v = 16777215) ∧ (ks = []) ∧ (¬step 4) ∧ (¬step 3) ∧ (¬step 2) ∧ (step 1)) ∧
    (∃ (c : Chip),
      let d : Chip := c.onHealth fun (h : Health) => { h with stepAt := c.ns }
      let v : Nat := d.get HL_THR_VTH
      let ks : List Nat := List.filter (fun (k : Nat) => d.is (PWR_SKIP Blk.be k)) (List.range 16)
      let step : Nat → Prop := fun (n : Nat) => bit d.health.steps (n - 1) = true
      (v = 16777215) ∧ (ks = []) ∧ (¬step 4) ∧ (¬step 3) ∧ (¬step 2) ∧ (¬step 1)) ∧
    (∃ (t : Nat) (s : Machine.State),
      let c : Chip := (s.at_ t).chip.refreshSlow
      let drives : Prop := (c.role = 0 ∨ c.role = 1) ∧ c.regionOn 5 = true
      (¬drives)) ∧
    (∃ (t : Nat) (s : Machine.State),
      let c : Chip := (s.at_ t).chip.refreshSlow
      let drives : Prop := (c.role = 0 ∨ c.role = 1) ∧ c.regionOn 5 = true
      (drives)) ∧
    (∃ (t : Nat) (m : Fin 8) (k : Fin 16) (s : Machine.State),
      let c : Chip := (s.at_ t).chip
      (c.mayWrite (↑m) Blk.be (↑k) 72 = true) ∧ (c.reachable Blk.be ↑k = true)) ∧
    (∃ (t : Nat) (m : Fin 8) (s : Machine.State),
      let c : Chip := (s.at_ t).chip
      (c.mayWrite (↑m) Blk.ls 0 68 = true) ∧ (c.reachable Blk.ls 0 = true)) :=
  ⟨⟨0xFFFFFFF0, by decide +kernel⟩,
   ⟨BitVec.ofNat 32 (Blk.base .tn 0), 0, by decide +kernel⟩,
   ⟨0, 0, BitVec.ofNat 32 (Blk.base .hl 0 + 0x10), .hl, 0, stateWith [], by dsimp only; decide +kernel⟩,
   ⟨BitVec.ofNat 32 (Blk.base .hl 0 + 0x38), .hl, 0, by decide +kernel⟩,
   ⟨0, 0, BitVec.ofNat 32 (Blk.base .hl 0 + 0x38), 0, .hl, 0, stateWith [(FINJ_ARM .hl 0, 1)], by dsimp only; decide +kernel⟩,
   ⟨0, 0, BitVec.ofNat 32 (Blk.base .hl 0 + 0x38), 0, .hl, 0, stateWith [], by dsimp only; decide +kernel⟩,
   ⟨0, 0, BitVec.ofNat 32 (Blk.base .hl 0 + 0x38), 4, .hl, 0, stateWith [(SYS_STRAP_ROPED_EN, 1)], by dsimp only; decide +kernel⟩,
   ⟨0, 0, BitVec.ofNat 32 (Blk.base .hl 0 + 0x38), .hl, 0, stateWith [], by dsimp only; decide +kernel⟩,
   ⟨BitVec.ofNat 32 (Blk.base .hl 0 + 0x10), .hl, 0, by decide +kernel⟩,
   ⟨0, stateWith [] (fun c => inHealth { powerGood := false } ( c)), by dsimp only; decide +kernel⟩,
   ⟨0, List.replicate 24 (some 100), 750, false, stateWith [], by dsimp only; decide +kernel⟩,
   ⟨0, List.replicate 24 (some 100), 750, false, stateWith [] (fun c => inHealth { shutAt := some 0, runClr := [(2, 200000)] } ( c)), by dsimp only; decide +kernel⟩,
   ⟨0, List.replicate 24 (some 100), 750, false, stateWith [] (fun c => inHealth { shutAt := some 0, runClr := [(2, 200000)], silent := true } ( c)), by dsimp only; decide +kernel⟩,
   ⟨0, by decide +kernel⟩,
   ⟨[(5, true)], by decide +kernel⟩,
   ⟨[(5, true)], (5, true), by decide +kernel⟩,
   ⟨[(5, true)], 0, (5, true), by decide +kernel⟩,
   ⟨0, stateWith [], by dsimp only; decide +kernel⟩,
   ⟨65536 * 10000000, stateWith [(HL_THSTAT_THROT, 1)], by dsimp only; decide +kernel⟩,
   ⟨65536 * 10000000, stateWith [(HL_THSTAT_THROT, 1)] (fun c => inHealth { steps := 1 } ( c)), by dsimp only; decide +kernel⟩,
   ⟨65536 * 10000000, stateWith [(HL_THSTAT_THROT, 1)] (fun c => inHealth { steps := 3 } ( c)), by dsimp only; decide +kernel⟩,
   ⟨65536 * 10000000, stateWith [(HL_THSTAT_THROT, 1)] (fun c => inHealth { steps := 7 } ( c)), by dsimp only; decide +kernel⟩,
   ⟨65536 * 10000000, stateWith [(HL_THSTAT_THROT, 1)] (fun c => inHealth { steps := 15 } (barsOn [2] c)), by dsimp only; decide +kernel⟩,
   ⟨65536 * 10000000, stateWith [(HL_THSTAT_THROT, 1)] (fun c => inHealth { steps := 15 } ( c)), by dsimp only; decide +kernel⟩,
   ⟨65536 * 10000000, stateWith [(HL_THR_RELEASING, 1)], by dsimp only; decide +kernel⟩,
   ⟨0, stateWith [], by dsimp only; decide +kernel⟩,
   ⟨Chip.set {} HL_THR_VTH 5, by dsimp only; decide +kernel⟩,
   ⟨Chip.set {} (PWR_SKIP .be 2) 1, by dsimp only; decide +kernel⟩,
   ⟨inHealth { steps := 8 } {}, by dsimp only; decide +kernel⟩,
   ⟨inHealth { steps := 4 } {}, by dsimp only; decide +kernel⟩,
   ⟨inHealth { steps := 2 } {}, by dsimp only; decide +kernel⟩,
   ⟨inHealth { steps := 1 } {}, by dsimp only; decide +kernel⟩,
   ⟨{}, by dsimp only; decide +kernel⟩,
   ⟨0, stateWith [(TW_STAT_ROLE, 3)], by dsimp only; decide +kernel⟩,
   ⟨0, stateWith [], by dsimp only; decide +kernel⟩,
   ⟨0, 0, 2, stateWith [], by dsimp only; decide +kernel⟩,
   ⟨0, 0, stateWith [], by dsimp only; decide +kernel⟩⟩

theorem met_StepRunsFrontCommand :
    ∃ (s : Machine.State),
      (s.pending = []) :=
  ⟨stateWith [], by decide +kernel⟩

theorem met_InstructionWordsRoundTrip :
    ∃ (i : Instr) (n : CtxId) (w : BitVec 64),
      (i.wf = true) ∧ (encodeWord i = some (n, w)) :=
  ⟨.add 0 (fd 3 4 0 0x100 7), 0, ((fd 3 4 0 0x100 7).word 0), by decide +kernel⟩

theorem met_EveryStepKeepsMemoryCanonical :
    ∃ (s : Machine.State) (u : Machine.State),
      (s.mem.wf) ∧ (step s = Host.Outcome.next u) :=
  ⟨{ stateWith [] with pending := [.heartbeatSend 0] }, ((stateWith []).at_ 0).onChip (·.heartbeat), ⟨by unfold Mem.wf FMap.wf ByteMem.wf; decide +kernel, rfl⟩⟩

theorem met_MisalignedAccessTraps :
    (∃ (n : CtxId) (f : Fields) (s : Machine.State),
      let a : Nat := dataAddress n f s
      let k : Nat := 2 ^ (f.sub.toNat % 4)
      (Ready n s) ∧ (resvRaw f 7 true true false true = []) ∧ (a % k ≠ 0)) ∧
    (∃ (n : CtxId) (f : Fields) (s : Machine.State),
      let a : Nat := dataAddress n f s
      let k : Nat := 2 ^ (f.sub.toNat % 4)
      (Ready n s) ∧ (resvRaw f 3 false true true true = []) ∧ (a % k ≠ 0)) ∧
    (∃ (n : CtxId) (f : Fields) (s : Machine.State),
      let a : Nat := dataAddress n f s
      (Ready n s) ∧ (resvRaw f 0 true true true true = []) ∧ (a % 8 ≠ 0)) :=
  ⟨⟨0, fd 3 1 0 3, run 1 2, by dsimp only; unfold Ready; decide +kernel⟩,
   ⟨0, fd 0 1 2 3, run 1 2, by dsimp only; unfold Ready; decide +kernel⟩,
   ⟨0, fd 3 1 2, run 1 2, by dsimp only; unfold Ready; decide +kernel⟩⟩

theorem met_JtagCannotTakeBallsDuringRun :
    (∃ (t : Nat) (i : JtagOp) (s : Machine.State),
      let c : Chip := (s.at_ t).chip
      let test : Prop := c.get SYS_STRAP_FTM ≠ 0
      let ball : JtagOp → Prop := fun (i : JtagOp) => i = JtagOp.extest ∨ i = JtagOp.clamp ∨ i = JtagOp.highz
      (¬test) ∧ (c.get SEQ_PSTAT_OPEN ≠ 0) ∧ (ball i)) ∧
    (∃ (t : Nat) (s : Machine.State),
      let c : Chip := (s.at_ t).chip
      let test : Prop := c.get SYS_STRAP_FTM ≠ 0
      (¬test) ∧ (c.get SEQ_PSTAT_OPEN ≠ 0)) ∧
    (∃ (t : Nat) (i : JtagOp) (s : Machine.State),
      let c : Chip := (s.at_ t).chip
      let test : Prop := c.get SYS_STRAP_FTM ≠ 0
      (¬test) ∧ (i = JtagOp.other)) ∧
    (∃ (t : Nat) (i : JtagOp) (s : Machine.State),
      let c : Chip := (s.at_ t).chip
      let test : Prop := c.get SYS_STRAP_FTM ≠ 0
      let ball : JtagOp → Prop := fun (i : JtagOp) => i = JtagOp.extest ∨ i = JtagOp.clamp ∨ i = JtagOp.highz
      (i ≠ JtagOp.other) ∧ (test ∨ ¬ball i ∨ c.get SEQ_PSTAT_OPEN = 0)) ∧
    (∃ (t : Nat) (i : JtagOp) (s : Machine.State),
      let c : Chip := (s.at_ t).chip
      let test : Prop := c.get SYS_STRAP_FTM ≠ 0
      (test) ∧ (i = JtagOp.other)) :=
  ⟨⟨0, .extest, stateWith [(SEQ_PSTAT_OPEN, 1)], by dsimp only; decide +kernel⟩,
   ⟨0, stateWith [(SEQ_PSTAT_OPEN, 1)], by dsimp only; decide +kernel⟩,
   ⟨0, .other, stateWith [], by dsimp only; decide +kernel⟩,
   ⟨0, .extest, stateWith [], by dsimp only; decide +kernel⟩,
   ⟨0, .other, stateWith [(SYS_STRAP_FTM, 1)], by dsimp only; decide +kernel⟩⟩

/-- A vtext or vsym that finds the pool full with a FIELD record outstanding (the clauses of `TextAndSymbolsCompose` that stall with KIND 9). -/
theorem met_pool_full_text :
    let s := glyphs (inData 64 [1, 65] (run 64 1 [] fullPool))
    let c := (s.onChip (·.dRead .clean)).chip
    Ready 1 s ∧ resvRaw (fd 3 1 2) 0 true true true true = [] ∧ usable s 1 [6] = true ∧
      c.store.find 1 = some { alloc1 with isSealed := true, tile := true } ∧ (glyphEntry s.mem.job { alloc1 with isSealed := true, tile := true } 65).2.2 = 10 ∧
      c.vd.busy = none ∧ 2 ^ 20 ≤ c.slotsUsed ∧ c.slotReferenced = true := by
  dsimp only
  exact ⟨by unfold Ready; decide +kernel, by decide +kernel, by decide +kernel, by decide +kernel, by decide +kernel, by decide +kernel,
   pool_full _ rfl, by decide +kernel⟩

set_option synthInstance.maxSize 2000 in
theorem met_pool_full_symbols :
    let s := inData 64 [1, 65] (inData 512 [0, 0, 2, 0, 100, 0, 10] (run 64 512 [] fullPool))
    let m := inData 64 [1, 65] (inData 512 [2, 0, 2, 2, 0, 0, 1] (run 64 512 [] fullPool))
    (Ready 1 s ∧ symBlockBad (s.mem.data.read 512 64) = false ∧ linearBad 0 [65] = false ∧ (s.onChip (·.dRead .clean)).chip.vd.busy = none ∧
      2 ^ 20 ≤ (s.onChip (·.dRead .clean)).chip.slotsUsed ∧ (s.onChip (·.dRead .clean)).chip.slotReferenced = true) ∧
    (Ready 1 m ∧ symBlockBad (m.mem.data.read 512 64) = false ∧ dmPick 0 (dmAscii false [65]).length = some (10, 10, 3, 5, 1, 1, 1) ∧
      (m.onChip (·.dRead .clean)).chip.vd.busy = none ∧
      2 ^ 20 ≤ (m.onChip (·.dRead .clean)).chip.slotsUsed ∧ (m.onChip (·.dRead .clean)).chip.slotReferenced = true) := by
  dsimp only
  exact ⟨⟨by unfold Ready; decide +kernel, by decide +kernel, by decide +kernel, by decide +kernel, pool_full _ rfl, by decide +kernel⟩,
   ⟨by unfold Ready; decide +kernel, by decide +kernel, by decide +kernel, by decide +kernel, pool_full _ rfl, by decide +kernel⟩⟩

theorem met_no_free_index : ∃ st : Store, st.freeIndex = none := ⟨indexStore 65536, freeIndex_full _ (Nat.le_refl _)⟩

/-- An image whose entries are judged: the image's fields are Config's (assumption 7), so whether an entry fails is left open, and every other
hypothesis of both clauses of `LoadProgramReplacesUserArea` holds. -/
theorem met_LoadProgram_judged :
    let s := hostWith [] withAlloc (waits 0 [desc 4 0 (le 4 1 ++ zeros 4 ++ le 8 65472)])
    let b := took 0 s
    let f := loadFailure (b.jobStoreRead .clean) (s.mem.job.read (alloc1.start + 65472) (alloc1.size * 65536 - 65472))
    Started 0 0 4 0 (some 0) (desc 4 0 (le 4 1 ++ zeros 4 ++ le 8 65472)) b s ∧ b.testing 4 = false ∧ b.ctx0Idle = true ∧
      b.store.find 1 = some alloc1 ∧ bit alloc1.rd (b.qTenant 0) = true ∧ (f = none ∨ ∃ k i, f = some (k, i)) := by
  dsimp only
  exact ⟨by unfold Started; decide +kernel, by decide +kernel, by decide +kernel, by decide +kernel, by decide +kernel, by
    generalize loadFailure _ _ = f
    match f with
    | none => exact .inl rfl
    | some (k, i) => exact .inr ⟨k, i, rfl⟩⟩

end Sys2Proof.Tests
end

section
/-!
PROOFS. What taking a trap does to the registers of the contexts (R63, R64), for every context and every code; which of several traps is
taken; and from both, that a misaligned load or store raises ALIGN and has no effect (R60).
-/
namespace Sys2Proof.Machine

/-! ### What a change of the chip leaves alone -/

/-- From c to d no g and no w register changes, and every register field of P reads as before. -/
def Chip.leaves (P : Fld → Prop) (c d : Chip) : Prop := sameG c d ∧ sameW c d ∧ ∀ h : Fld, P h → d.get h = c.get h

theorem Chip.leaves_refl (P : Fld → Prop) (c : Chip) : c.leaves P c := ⟨fun _ _ _ => rfl, fun _ _ _ => rfl, fun _ _ => rfl⟩

theorem Chip.leaves_trans {P : Fld → Prop} {a b c : Chip} (h : a.leaves P b) (k : b.leaves P c) : a.leaves P c := by
  obtain ⟨hg, hw, hf⟩ := h
  obtain ⟨kg, kw, kf⟩ := k
  exact ⟨fun m i hi => (kg m i hi).trans (hg m i hi), fun m i hi => (kw m i hi).trans (hw m i hi),
    fun f p => (kf f p).trans (hf f p)⟩

theorem Chip.leaves_mono {P Q : Fld → Prop} {c d : Chip} (hQ : ∀ h, Q h → P h) (h : c.leaves P d) : c.leaves Q d :=
  ⟨h.1, h.2.1, fun f q => h.2.2 f (hQ f q)⟩

theorem Chip.leaves_foldl {α : Type} {P : Fld → Prop} (g : Chip → α → Chip) (hg : ∀ (c : Chip) (a : α), c.leaves P (g c a))
    (xs : List α) (c : Chip) : c.leaves P (xs.foldl g c) := by
  induction xs generalizing c with
  | nil => exact c.leaves_refl P
  | cons x xs ih => exact Chip.leaves_trans (hg c x) (ih _)

/-- Writing a register field leaves every set of fields at other places. -/
theorem Chip.leaves_set {P : Fld → Prop} (c : Chip) (f : Fld) (v : Nat) (hf : ∀ h, P h → h.key ≠ f.key) : c.leaves P (c.set f v) :=
  ⟨fun _ _ _ => rfl, fun _ _ _ => rfl, fun h p => Chip.get_set_ne _ _ _ _ (hf h p)⟩

/-- Reporting leaves every still field. -/
theorem Chip.leaves_of_like {P : Fld → Prop} {c d : Chip} (hP : ∀ h, P h → h.still) (h : c.like d) : c.leaves P d :=
  ⟨fun m i _ => Chip.like_g h m i, fun m i _ => Chip.like_w h m i, fun f p => h.2 f (hP f p)⟩

/-! ### The register fields of the contexts -/

/-- A field of the registers SEQ_CSTATn, SEQ_CPCn, SEQ_CWAITn and SEQ_CTRAPn, at offsets 0x100 to 0x3FF of the sequencer's window. -/
def Fld.ofContext (h : Fld) : Prop := 0x10100 ≤ h.key / 128 ∧ h.key / 128 < 0x10400

/-- A field of SEQ_CPCn or SEQ_CTRAPn. -/
def Fld.pcOrTrap (h : Fld) : Prop := h.ofContext ∧ (h.key / 128 % 16 = 4 ∨ h.key / 128 % 16 = 12)

/-- A field of SEQ_CPCn. -/
def Fld.ofPc (h : Fld) : Prop := h.ofContext ∧ h.key / 128 % 16 = 4

theorem Fld.ofPc_pcOrTrap (h : Fld) (hh : h.ofPc) : h.pcOrTrap := ⟨hh.1, .inl hh.2⟩

theorem Fld.ofContext_still (h : Fld) (hh : h.ofContext) : h.still := by
  unfold Fld.ofContext at hh
  simp only [Fld.still]
  omega

theorem fld_seq_ofContext (off lo w r : Nat) (h1 : 0x100 ≤ off) (h2 : off < 0x400) (hl : lo < 128) : (fld .seq 0 off lo w r).ofContext := by
  simp only [Fld.ofContext, fld, Blk.base]
  omega

theorem fld_seq_pcOrTrap (off lo w r : Nat) (h1 : 0x100 ≤ off) (h2 : off < 0x400) (hl : lo < 128) (hm : off % 16 = 4 ∨ off % 16 = 12) :
    (fld .seq 0 off lo w r).pcOrTrap := by
  refine ⟨fld_seq_ofContext off lo w r h1 h2 hl, ?_⟩
  simp only [fld, Blk.base]
  omega

/-- Writing a field of SEQ_CSTATn or SEQ_CWAITn leaves every SEQ_CPCn and SEQ_CTRAPn. -/
theorem Chip.leaves_set_stat (c : Chip) (off lo w r v : Nat) (hl : lo < 128) (hm : off % 16 = 0 ∨ off % 16 = 8) :
    c.leaves Fld.pcOrTrap (c.set (fld .seq 0 off lo w r) v) :=
  Chip.leaves_set c _ v fun h hh e => by
    obtain ⟨-, hk⟩ := hh
    simp only [e, fld, Blk.base] at hk
    omega

theorem Chip.leaves_setCtxState (c : Chip) (n v : Nat) : c.leaves Fld.pcOrTrap (c.setCtxState n v) :=
  c.leaves_set_stat _ _ _ _ v (by omega) (by omega)

theorem Chip.leaves_resume (c : Chip) (n : Nat) : c.leaves Fld.pcOrTrap (c.resume n) :=
  Chip.leaves_trans (c.leaves_setCtxState n RUNNABLE)
    (Chip.leaves_trans (Chip.leaves_set_stat _ _ _ _ _ 0 (by omega) (by omega)) (Chip.leaves_set_stat _ _ _ _ _ 0 (by omega) (by omega)))

theorem Chip.leaves_dropTurn (c : Chip) (n : Nat) : c.leaves Fld.pcOrTrap (c.dropTurn n) := by
  unfold Chip.dropTurn
  split
  · exact Chip.leaves_foldl Chip.resume Chip.leaves_resume _ { c with vd := { c.vd with turns := c.vd.turns.filter (· ≠ n) } }
  · exact c.leaves_refl _

/-- Triggering a dispatch entry, whatever its number, leaves the registers of the contexts. -/
theorem Chip.leaves_trigger (c : Chip) (i : Nat) : c.leaves Fld.ofContext (c.trigger i) := by
  have dispatch (d : Chip) (off lo w r v : Nat) (ho : 0x400 ≤ off) : d.leaves Fld.ofContext (d.set (fld .seq 0 off lo w r) v) :=
    d.leaves_set _ v fun h hh e => by
      obtain ⟨-, hk⟩ := hh
      simp only [e, fld, Blk.base] at hk
      omega
  unfold Chip.trigger
  exact Chip.leaves_trans (Chip.leaves_of_like Fld.ofContext_still (Chip.like_setEntry ..))
    (Chip.leaves_trans (dispatch _ _ _ _ _ _ (by omega)) (dispatch _ _ _ _ _ _ (by omega)))

/-! ### Taking a trap (R63, R64) -/

/-- A context's state reads as set. -/
theorem Chip.ctxState_setCtxState_same (c : Chip) (n v : Nat) : (c.setCtxState n v).ctxState n = v % 8 := Chip.get_set_same ..

/-- Past the writes of SEQ_CSTATn, ending a dispatch only reports. -/
theorem Chip.endDispatch_reports (c : Chip) (n : Nat) :
    (((c.set (SEQ_CSTAT_RUNNING n) 0).set (SEQ_CSTAT_ENTRY n) 0).setCtxState n IDLE).leaves Fld.ofContext (c.endDispatch n) := by
  unfold Chip.endDispatch
  generalize ((c.set (SEQ_CSTAT_RUNNING n) 0).set (SEQ_CSTAT_ENTRY n) 0).setCtxState n IDLE = d
  have entry (k : JKind) (as : List Nat) (e : Nat) (x : DispEntry) : d.leaves Fld.ofContext ((d.jrn k as).setEntry e x) :=
    Chip.leaves_of_like Fld.ofContext_still (Chip.like_trans (Chip.like_jrn ..) (Chip.like_setEntry ..))
  dsimp only
  split
  · split
    · exact Chip.leaves_trans (entry ..) (Chip.leaves_trigger ..)
    · exact entry ..
  · exact d.leaves_refl _

theorem Chip.leaves_endDispatch (c : Chip) (n : Nat) : c.leaves Fld.pcOrTrap (c.endDispatch n) :=
  Chip.leaves_trans (c.leaves_set_stat _ _ _ _ 0 (by omega) (by omega))
    (Chip.leaves_trans (Chip.leaves_set_stat _ _ _ _ _ 0 (by omega) (by omega))
      (Chip.leaves_trans (Chip.leaves_setCtxState _ n IDLE) (Chip.leaves_mono (fun _ h => h.1) (c.endDispatch_reports n))))

/-- A handler whose dispatch has ended is IDLE. -/
theorem Chip.endDispatch_ctxState (c : Chip) (n : CtxId) : (c.endDispatch n).ctxState n = IDLE :=
  ((c.endDispatch_reports n).2.2 _ (fld_seq_ofContext _ _ _ _ (by omega) (by omega) (by omega))).trans
    (Chip.ctxState_setCtxState_same ..)

/-- A fault of the sequencer is a report. -/
theorem Chip.like_raise_seq (c : Chip) (o : Occ) : c.like (c.raise .seq 0 o) := c.like_raise .seq 0 o (evSource_lt _ _ · (by decide))

/-- Context n does not wait for the variable-data unit any more, and SEQ_CTRAPn records the program counter and a code (R64). -/
def Chip.recordTrap (c : Chip) (n code : Nat) : Chip :=
  (((c.dropTurn n).latchRs (SEQ_CTRAP_TRAPPED n)).set (SEQ_CTRAP_TPC n) (c.pc n)).set (SEQ_CTRAP_CODE n) code

/-- Taking a trap: the record, the end of the context's run, and a report. -/
theorem Chip.trap_eq (c : Chip) (n code : Nat) :
    c.trap n code = if n = 0
      then (((c.recordTrap n code).setCtxState 0 TRAPPED).ckpt 0).raise .seq 0 { src := 0, detail := packTrap (c.pc n) code 0 }
      else ((c.recordTrap n code).endDispatch n).raise .seq 0 { src := 1, detail := packTrap (c.pc n) code n } := rfl

/-- After the record a trap writes no program counter and no SEQ_CTRAPn. -/
theorem Chip.leaves_recordTrap_trap (c : Chip) (n code : Nat) : (c.recordTrap n code).leaves Fld.pcOrTrap (c.trap n code) := by
  have report {d e : Chip} (h : d.like e) : d.leaves Fld.pcOrTrap e := Chip.leaves_of_like (fun f hf => f.ofContext_still hf.1) h
  rw [Chip.trap_eq]
  split
  · exact Chip.leaves_trans (Chip.leaves_setCtxState _ 0 TRAPPED)
      (report (Chip.like_trans (Chip.like_ckpt _ 0) (Chip.like_raise_seq ..)))
  · exact Chip.leaves_trans (Chip.leaves_endDispatch _ n) (report (Chip.like_raise_seq ..))

/-- A trap leaves context 0 TRAPPED and a handler IDLE. -/
theorem Chip.trap_ctxState (c : Chip) (n : CtxId) (code : Nat) : (c.trap n code).ctxState n = if n = 0 then TRAPPED else IDLE := by
  rw [Chip.trap_eq]
  by_cases h : n = 0
  · subst h
    exact (Chip.like_ctxState (Chip.like_trans (Chip.like_ckpt _ 0) (Chip.like_raise_seq ..)) 0).trans (Chip.ctxState_setCtxState_same ..)
  · have hv : n.val ≠ 0 := fun e => h (Fin.ext e)
    rw [if_neg hv, if_neg h]
    exact (Chip.like_ctxState (Chip.like_raise_seq ..) n).trans (Chip.endDispatch_ctxState ..)

/-- The fields of SEQ_CTRAPn as the record leaves them. -/
theorem Chip.recordTrap_get (c : Chip) (n code : Nat) :
    (c.recordTrap n code).get (SEQ_CTRAP_TRAPPED n) = 1 ∧ (c.recordTrap n code).get (SEQ_CTRAP_TPC n) = c.pc n % 2 ^ 19 ∧
    (c.recordTrap n code).get (SEQ_CTRAP_CODE n) = code % 2 ^ 8 := by
  have tpc_code : (SEQ_CTRAP_TPC n).key ≠ (SEQ_CTRAP_CODE n).key := by simp only [SEQ_CTRAP_TPC, SEQ_CTRAP_CODE, fld]; omega
  have trapped_code : (SEQ_CTRAP_TRAPPED n).key ≠ (SEQ_CTRAP_CODE n).key := by simp only [SEQ_CTRAP_TRAPPED, SEQ_CTRAP_CODE, fld]; omega
  have trapped_tpc : (SEQ_CTRAP_TRAPPED n).key ≠ (SEQ_CTRAP_TPC n).key := by simp only [SEQ_CTRAP_TRAPPED, SEQ_CTRAP_TPC, fld]; omega
  unfold Chip.recordTrap
  refine ⟨?_, ?_, Chip.get_set_same ..⟩
  · rw [Chip.get_set_ne _ _ _ _ trapped_code, Chip.get_set_ne _ _ _ _ trapped_tpc]
    exact Chip.get_set_same (c.dropTurn n) (SEQ_CTRAP_TRAPPED n) 1
  · rw [Chip.get_set_ne _ _ _ _ tpc_code]
    exact Chip.get_set_same ..

/-- The record writes no g, no w and no program counter. -/
theorem Chip.leaves_recordTrap (c : Chip) (n code : Nat) : c.leaves Fld.ofPc (c.recordTrap n code) := by
  have ctrap (d : Chip) (lo w r v : Nat) (hl : lo < 128) :
      d.leaves Fld.ofPc (d.set (fld .seq 0 (0x10C + 0x10 * n) lo w r) v) :=
    d.leaves_set _ v fun h hh e => by
      obtain ⟨-, hk⟩ := hh
      simp only [e, fld, Blk.base] at hk
      omega
  exact Chip.leaves_trans (Chip.leaves_mono Fld.ofPc_pcOrTrap (c.leaves_dropTurn n))
    (Chip.leaves_trans (ctrap (c.dropTurn n) 31 1 0 1 (by omega))
      (Chip.leaves_trans (ctrap ((c.dropTurn n).latchRs (SEQ_CTRAP_TRAPPED n)) 8 19 0 _ (by omega)) (ctrap _ 0 8 0 code (by omega))))

/-- R63, R64: taking a trap does what `Trapped` says, whatever the context waits for and whichever entry it serves. -/
theorem trapped_trap (n : CtxId) (s : State) {code : Nat} (hc : code < 256) : Trapped n code s { s with chip := s.chip.trap n code } := by
  obtain ⟨recG, recW, recF⟩ := s.chip.leaves_recordTrap n code
  obtain ⟨trapG, trapW, trapF⟩ := s.chip.leaves_recordTrap_trap n code
  obtain ⟨htrapped, htpc, hcode⟩ := s.chip.recordTrap_get n code
  have ctrap (lo w : Nat) (hl : lo < 128) : (fld .seq 0 (0x10C + 0x10 * n.val) lo w 0).pcOrTrap :=
    fld_seq_pcOrTrap _ lo w 0 (by omega) (by omega) hl (by omega)
  have cpc : (SEQ_CPC_PC n).ofPc :=
    ⟨fld_seq_ofContext _ 0 19 0 (by omega) (by omega) (by omega), by simp only [SEQ_CPC_PC, fld, Blk.base]; omega⟩
  exact ⟨rfl, rfl, fun m i hi => (trapG m i hi).trans (recG m i hi), fun m i hi => (trapW m i hi).trans (recW m i hi),
    (trapF _ (Fld.ofPc_pcOrTrap _ cpc)).trans (recF _ cpc), (trapF _ (ctrap 31 1 (by omega))).trans htrapped,
    (trapF _ (ctrap 8 19 (by omega))).trans htpc, ((trapF _ (ctrap 0 8 (by omega))).trans hcode).trans (Nat.mod_eq_of_lt hc), s.chip.trap_ctxState n code⟩

/-! ### Which trap is taken (R63) -/

/-- Of the traps that apply, `code` is the lowest. -/
def LowestTrap (code : Nat) (traps : List Nat) : Prop := code ∈ traps ∧ ∀ c ∈ traps, code ≤ c

theorem le_of_mem_trapIf {p : Bool} {code c x : Nat} (hx : x ∈ trapIf p c) (h : code ≤ c) : code ≤ x := by
  unfold trapIf at hx
  split at hx <;> simp_all

theorem lowestTrap_trapIf {p : Bool} (code : Nat) (hp : p = true) : LowestTrap code (trapIf p code) := by
  simp [LowestTrap, trapIf, hp]

/-- Traps of higher codes do not matter. -/
theorem LowestTrap.append {code : Nat} {ts us : List Nat} (h : LowestTrap code ts) (hu : ∀ c ∈ us, code ≤ c) : LowestTrap code (ts ++ us) :=
  ⟨List.mem_append_left _ h.1, fun c hc => (List.mem_append.1 hc).elim (h.2 c) (hu c)⟩

theorem LowestTrap.nil_append {code : Nat} {rs ts : List Nat} (h : LowestTrap code ts) (hr : rs = []) : LowestTrap code (rs ++ ts) := by
  rwa [hr, List.nil_append]

/-- An instruction that issues takes the lowest of the traps that apply, and has no other effect. -/
theorem trapped_issue {n : CtxId} {s : State} {code : Nat} {traps : List Nat} (h : Ready n s) (hl : LowestTrap code traps) (hc : code < 256)
    (eff : State → State) : Trapped n code s (issue n traps eff s) := by
  have lowest : ∀ t ts, traps = t :: ts → ts.foldl Nat.min t = code := fun t ts e =>
    Option.some.inj (List.min?_cons'.symm.trans (List.min?_eq_some_iff.2 (e ▸ hl)))
  obtain ⟨hi, hpc⟩ := h
  rcases issue_cases n traps eff s with ⟨h1, -⟩ | ⟨-, h2, -⟩ | ⟨-, -, h3, -⟩ | ⟨-, -, t, ts, e, h4⟩
  · simp [hi] at h1
  · simp [hpc] at h2
  · simp [h3, LowestTrap] at hl
  · rw [h4, lowest t ts e]
    exact trapped_trap n s hc

/-! ### Misaligned accesses (R60) -/

/-- A misaligned access of D-space raises ALIGN before D_RANGE. -/
theorem lowestTrap_dTraps {a al : Nat} (k : Nat) (h : a % al ≠ 0) : LowestTrap ALIGN (dTraps a k al) :=
  (lowestTrap_trapIf ALIGN (by simpa using h)).append fun _ hc => le_of_mem_trapIf hc (by decide)

/-- An instruction that reads D-space misaligned, whatever the read would have given. -/
theorem trapped_issueD_align {n : CtxId} {s : State} {rs : List Nat} {a al : Nat} (k : Nat) (h : Ready n s) (hr : rs = []) (ha : a % al ≠ 0)
    (ecc : Ecc) (eff : State → State) : Trapped n ALIGN s (issueD n ecc (rs ++ dTraps a k al) eff s) :=
  trapped_issue h (((lowestTrap_dTraps k ha).nil_append hr).append fun _ hc => le_of_mem_trapIf hc (by decide)) (by decide) _

/-- An instruction that writes D-space misaligned. -/
theorem trapped_issue_align {n : CtxId} {s : State} {rs : List Nat} {a al : Nat} (k : Nat) (h : Ready n s) (hr : rs = []) (ha : a % al ≠ 0)
    (eff : State → State) : Trapped n ALIGN s (issue n (rs ++ dTraps a k al) eff s) :=
  trapped_issue h ((lowestTrap_dTraps k ha).nil_append hr) (by decide) eff

/-- An instruction that reads or writes the job store misaligned, whether or not the program may access the bytes. -/
theorem trapped_issueJ_align {n : CtxId} {s : State} {rs : List Nat} {a al : Nat} (bad : Bool) (h : Ready n s) (hr : rs = []) (ha : a % al ≠ 0)
    (eff : State → State) : Trapped n ALIGN s (issue n (rs ++ trapIf (a % al ≠ 0) ALIGN ++ trapIf bad J_RANGE) eff s) :=
  trapped_issue h (((lowestTrap_trapIf ALIGN (by simpa using ha)).nil_append hr).append fun _ hc => le_of_mem_trapIf hc (by decide))
    (by decide) eff

/-! ### The six loads and stores -/

section
variable {n : CtxId} {f : Fields} {ecc : Ecc} {s : State} (h : Ready n s)
include h

/-- A misaligned load from D-space, also where the data would be uncorrectable. -/
theorem ldd_misaligned (hr : resvRaw f 7 true true false true = []) (ha : dataAddress n f s % 2 ^ (f.sub.toNat % 4) ≠ 0) :
    ∃ t, exec (.ldd n f ecc) s = .next t ∧ Trapped n ALIGN s t :=
  ⟨_, rfl, trapped_issueD_align (accessBytes f) h hr ha ecc _⟩

/-- A misaligned store to D-space. -/
theorem std_misaligned (hr : resvRaw f 3 false true true true = []) (ha : dataAddress n f s % 2 ^ (f.sub.toNat % 4) ≠ 0) :
    ∃ t, exec (.std n f) s = .next t ∧ Trapped n ALIGN s t :=
  ⟨_, rfl, trapped_issue_align (accessBytes f) h hr ha _⟩

/-- A misaligned load from the job store does not start an access. -/
theorem ldj_misaligned (hr : resvRaw f 7 true true false true = []) (ha : dataAddress n f s % 2 ^ (f.sub.toNat % 4) ≠ 0) :
    ∃ t, exec (.ldj n f) s = .next t ∧ Trapped n ALIGN s t :=
  ⟨_, rfl, trapped_issueJ_align (!s.chip.store.mayRead (dataAddress n f s) (accessBytes f)) h hr ha _⟩

/-- A misaligned store to the job store. -/
theorem stj_misaligned (hr : resvRaw f 3 false true true true = []) (ha : dataAddress n f s % 2 ^ (f.sub.toNat % 4) ≠ 0) :
    ∃ t, exec (.stj n f) s = .next t ∧ Trapped n ALIGN s t :=
  ⟨_, rfl, trapped_issueJ_align (!s.chip.store.mayWrite (dataAddress n f s) (accessBytes f)) h hr ha _⟩

/-- A misaligned atomic access, whatever it would store. -/
theorem atomicD_misaligned (hr : resvRaw f 0 true true true true = []) (ha : dataAddress n f s % 8 ≠ 0) (new : W64 → Option W64) :
    Trapped n ALIGN s (atomicD n f ecc new s) :=
  trapped_issueD_align 8 h hr ha ecc _

end

/-- Settles O59: among ALIGN, D_RANGE or J_RANGE, and D_UNCORR the lowest code is ALIGN, and the instruction does nothing but trap. -/
theorem misalignedAccessTraps : Obligations.MisalignedAccessTraps := by
  unfold Obligations.MisalignedAccessTraps
  intro n f ecc s h
  refine ⟨fun hr ha => ⟨?ldd, ?ldj⟩, fun hr ha => ⟨?std, ?stj⟩, fun hr ha => ⟨?aadd, ?acas⟩⟩
  case ldd => exact ldd_misaligned h hr ha
  case ldj => exact ldj_misaligned h hr ha
  case std => exact std_misaligned h hr ha
  case stj => exact stj_misaligned h hr ha
  case aadd => exact ⟨_, rfl, atomicD_misaligned h hr ha _⟩
  case acas => exact ⟨_, rfl, atomicD_misaligned h hr ha _⟩

end Sys2Proof.Machine
end

section
/-!
PROOFS. Web motion (R224 to R243, R145): what each operation of the encoder channels, the SSI ports and the probes does to the chip, one
equation per case of the rule; from these, what the commands of chapter 9 do.
-/
namespace Sys2Proof.Machine

/-! ### Reading the registers -/

theorem Chip.is_iff {c : Chip} {f : Fld} : c.is f = true ↔ c.get f ≠ 0 := by simp [Chip.is]

theorem Chip.is_eq_false_iff {c : Chip} {f : Fld} : c.is f = false ↔ c.get f = 0 := by simp [Chip.is]

theorem Chip.runs_iff {c : Chip} : c.runs = true ↔ c.role = 0 ∨ c.role = 1 := by simp [Chip.runs]

/-- Two fields of the web motion window lie at different places when their offsets differ, or their lowest bits. -/
theorem fld_wm_key_ne {o l w r o' l' w' r' : Nat} (hl : l < 128) (hl' : l' < 128) (h : o ≠ o' ∨ l ≠ l') :
    (fld .wm 0 o l w r).key ≠ (fld .wm 0 o' l' w' r').key := by
  simp only [fld, Blk.base]
  omega

/-- A write leaves every other field of the web motion window. -/
theorem Chip.get_set_wm {c : Chip} {o l w r o' l' w' r' v : Nat} (hl : l < 128) (hl' : l' < 128) (h : o' ≠ o ∨ l' ≠ l) :
    (c.set (fld .wm 0 o l w r) v).get (fld .wm 0 o' l' w' r') = c.get (fld .wm 0 o' l' w' r') :=
  Chip.get_set_ne _ _ _ _ (fld_wm_key_ne hl' hl h)

theorem uns_lt (n : Nat) (i : Int) : uns n i < 2 ^ n := by
  have pos : (0 : Int) < 2 ^ n := Int.pow_pos (by decide)
  refine (Int.toNat_lt (Int.emod_nonneg i (Int.ne_of_gt pos))).2 ?_
  exact_mod_cast Int.emod_lt_of_pos i pos

/-! ### A command at its instant -/

/-- A command that only takes the chip through g acts with the chip that g gives. -/
theorem Acts.of_onChip {e : Instr} {t : Nat} {s : State} {d : Chip} (g : Chip → Chip) (he : exec e s = .next ((s.at_ t).onChip g))
    (hd : g (s.at_ t).chip = d) : Acts e t s d := by
  rw [← hd]
  exact he

/-- Such a command passes where g changes nothing. -/
theorem Passes.of_onChip {e : Instr} {t : Nat} {s : State} (g : Chip → Chip) (he : exec e s = .next ((s.at_ t).onChip g))
    (hg : g (s.at_ t).chip = (s.at_ t).chip) : Passes e t s := by
  unfold Passes
  generalize s.at_ t = u at he hg ⊢
  rw [he, State.onChip, hg]

/-- The same effect, said of an equal chip. -/
theorem Acts.trans_eq {e : Instr} {t : Nat} {s : State} {c d : Chip} (h : Acts e t s c) (hd : c = d) : Acts e t s d := by
  rwa [← hd]

/-- A write with its grant, to a block that answers, takes effect (R34, R332). -/
theorem Chip.ownWrite_granted {c : Chip} {m : Nat} {b : Blk} {i off : Nat} (hw : c.mayWrite m b i off = true)
    (hr : c.reachable b i = true) (g : Chip → Chip) : c.ownWrite m b i off g = g c := by
  simp [Chip.ownWrite, hw, hr]

/-! ### What timing an edge leaves alone (R234 to R238, R246) -/

/-- A field of WM_CFG, which names the infeed and the outfeed. -/
def Fld.ofWebCfg (h : Fld) : Prop := h.key / 128 = 0x90040

/-- A field of WM_CFG, or EXT or POS of channel n. -/
def Fld.ofCount (n : Nat) (h : Fld) : Prop := h.ofWebCfg ∨ h.key / 128 = 0x900A0 + 0x40 * n ∨ h.key / 128 = 0x90094 + 0x40 * n

theorem ofWebCfg_infeed : WM_CFG_INFEED.ofWebCfg := by unfold Fld.ofWebCfg; decide

theorem ofWebCfg_outfeed : WM_CFG_OUTFEED.ofWebCfg := by unfold Fld.ofWebCfg; decide

theorem ofCount_ext (n : Nat) : (WM_EXT_EXT n).ofCount n := .inr (.inl (by simp only [WM_EXT_EXT, fld, Blk.base]; omega))

theorem ofCount_pos (n : Nat) : (WM_POS_POS n).ofCount n := .inr (.inr (by simp only [WM_POS_POS, fld, Blk.base]; omega))

/-- Writing a register of the web motion window at another offset than WM_CFG leaves WM_CFG. -/
theorem Chip.leaves_webCfg_set (c : Chip) (o l w r v : Nat) (hl : l < 128) (ho : o ≠ 0x40) :
    c.leaves Fld.ofWebCfg (c.set (fld .wm 0 o l w r) v) :=
  c.leaves_set _ v fun h hh e => by
    simp only [Fld.ofWebCfg, e, fld, Blk.base] at hh
    omega

/-- Writing a register of the web motion window at another offset than WM_CFG, EXT and POS of channel n leaves these. -/
theorem Chip.leaves_count_set (c : Chip) (n o l w r v : Nat) (hl : l < 128) (ho : o ≠ 0x40 ∧ o ≠ 0xA0 + 0x40 * n ∧ o ≠ 0x94 + 0x40 * n) :
    c.leaves (Fld.ofCount n) (c.set (fld .wm 0 o l w r) v) :=
  c.leaves_set _ v fun h hh e => by
    simp only [Fld.ofCount, Fld.ofWebCfg, e, fld, Blk.base] at hh
    omega

/-- What stands beside the registers holds no register. -/
theorem Chip.leaves_motion {P : Fld → Prop} (c : Chip) (x : Motion) : c.leaves P { c with motion := x } :=
  ⟨fun _ _ _ => rfl, fun _ _ _ => rfl, fun _ _ => rfl⟩

theorem Chip.leaves_setEnc {P : Fld → Prop} (c : Chip) (n : Nat) (e : Enc) : c.leaves P (c.setEnc n e) := c.leaves_motion _

section
variable (c : Chip) (n : Nat)

theorem Chip.leaves_setSpeed (num : Int) (den : Nat) : c.leaves (Fld.ofCount n) (c.setSpeed n num den) :=
  Chip.leaves_trans (c.leaves_setEnc n _) (Chip.leaves_count_set _ n _ _ _ _ _ (by omega) (by omega))

/-- WM_ESTn is another register. -/
theorem Chip.leaves_set_est (l w r v : Nat) (hl : l < 128) :
    c.leaves (Fld.ofCount n) (c.set (fld .wm 0 (0x9C + 0x40 * n) l w r) v) :=
  c.leaves_count_set n _ l w r v hl (by omega)

theorem Chip.leaves_restartTiming (ref : Option (Int × Nat)) : c.leaves (Fld.ofCount n) (c.restartTiming n ref) :=
  Chip.leaves_trans (c.leaves_setEnc n _)
    (Chip.leaves_trans (Chip.leaves_set_est _ n 4 1 0 0 (by omega)) (Chip.leaves_set_est _ n 2 1 0 0 (by omega)))

theorem Chip.leaves_spoil : c.leaves (Fld.ofCount n) c.spoil := by
  unfold Chip.spoil
  split
  · exact Chip.leaves_trans (c.leaves_motion _) (Chip.leaves_count_set _ n _ _ _ _ _ (by omega) (by omega))
  · exact c.leaves_refl _

theorem Chip.leaves_spoilOn : c.leaves (Fld.ofCount n) (c.spoilOn n) := by
  have discard : c.leaves (Fld.ofCount n) (if n = c.infeed ∨ n = c.outfeed then c.spoil else c) := by
    split
    · exact c.leaves_spoil n
    · exact c.leaves_refl _
  unfold Chip.spoilOn
  generalize (if n = c.infeed ∨ n = c.outfeed then c.spoil else c) = d at discard ⊢
  dsimp only
  split
  · exact Chip.leaves_trans discard (d.leaves_motion _)
  · exact discard

theorem Chip.leaves_periodSpeed (d : Int) : c.leaves (Fld.ofCount n) (c.periodSpeed n d) := by
  have est {d : Chip} (l r v : Nat) (hl : l < 128) (h : c.leaves (Fld.ofCount n) d) :
      c.leaves (Fld.ofCount n) (d.set (fld .wm 0 (0x9C + 0x40 * n) l 1 r) v) := Chip.leaves_trans h (d.leaves_set_est n l _ r v hl)
  have period := est 1 0 0 (by omega) (est 0 1 0 (by omega) (est 2 0 (b2n ((c.enc n).ivs.length = 1)) (by omega)
    (c.leaves_setSpeed n (d * (c.enc n).ivs.length) ((c.enc n).ivs.foldl (· + ·) 0))))
  unfold Chip.periodSpeed
  dsimp only
  split
  · exact est 4 0 1 (by omega) (Chip.leaves_trans period (Chip.leaves_setEnc _ n _))
  · exact period

/-- Timing an edge does not count: EXT and POS stay, whether the edge reverses, is the first or ends an interval. -/
theorem Chip.leaves_timeEdge (d x : Int) (t : Nat) (reversal : Bool) :
    c.leaves (Fld.ofCount n) (c.timeEdge n d x t reversal) := by
  unfold Chip.timeEdge
  dsimp only
  split
  · exact Chip.leaves_trans (c.leaves_restartTiming n _) (Chip.leaves_trans (Chip.leaves_setSpeed _ n 0 1)
      (Chip.leaves_trans (Chip.leaves_set_est _ n 1 1 0 1 (by omega)) (Chip.leaves_spoilOn _ n)))
  · split
    · exact c.leaves_setEnc n _
    · split
      · exact c.leaves_setEnc n _
      · exact Chip.leaves_trans (c.leaves_setEnc n _) (Chip.leaves_periodSpeed _ n d)

/-! ### Counting (R226 to R228) -/

/-- EXT and POS of channel n after a count of k. -/
def Chip.afterCount (k : Int) : Chip :=
  (c.setS (WM_EXT_EXT n) (c.getS (WM_EXT_EXT n) + k)).set (WM_POS_POS n) (stepPos (c.get (WM_POS_POS n)) (c.get (WM_CPR_CPR n)) k)

/-- After the count itself, a counted edge moves EXT and POS no more. -/
theorem Chip.leaves_countEdge (k : Int) : (c.afterCount n k).leaves (Fld.ofCount n) (c.countEdge n k).2.2 :=
  Chip.leaves_trans (Chip.leaves_set_est _ n 3 1 0 (b2n (decide (k < 0))) (by omega))
    (Chip.leaves_trans (Chip.leaves_setEnc _ n _) (Chip.leaves_timeEdge ..))

theorem Chip.countEdge_ext (k : Int) : (c.countEdge n k).2.2.get (WM_EXT_EXT n) = uns 64 (c.getS (WM_EXT_EXT n) + k) := by
  rw [(c.leaves_countEdge n k).2.2 _ (ofCount_ext n)]
  exact (Chip.get_set_wm (by omega) (by omega) (by omega)).trans ((Chip.get_set_same ..).trans (Nat.mod_eq_of_lt (uns_lt ..)))

theorem Chip.countEdge_pos (k : Int) : (c.countEdge n k).2.2.get (WM_POS_POS n) =
    stepPos (c.get (WM_POS_POS n)) (c.get (WM_CPR_CPR n)) k % 2 ^ 32 := by
  rw [(c.leaves_countEdge n k).2.2 _ (ofCount_pos n)]
  exact Chip.get_set_same ..

/-- A count of channel n with its levels set: EXT and DT of the edge, and EXT and POS after it. -/
theorem Chip.countEdge_levels (e : Enc) (k : Int) :
    let r := (c.setEnc n e).countEdge n k
    r.1 = c.getS (WM_EXT_EXT n) + k ∧ r.2.1 = c.latched (c.get (WM_ECFG_FILT n)) ∧
      r.2.2.get (WM_EXT_EXT n) = uns 64 (c.getS (WM_EXT_EXT n) + k) ∧
      r.2.2.get (WM_POS_POS n) = stepPos (c.get (WM_POS_POS n)) (c.get (WM_CPR_CPR n)) k % 2 ^ 32 :=
  ⟨rfl, rfl, Chip.countEdge_ext .., Chip.countEdge_pos ..⟩

/-- Counting leaves WM_CFG. -/
theorem Chip.leaves_webCfg_countEdge (k : Int) : c.leaves Fld.ofWebCfg (c.countEdge n k).2.2 :=
  Chip.leaves_trans (c.leaves_webCfg_set _ _ _ _ _ (by omega) (by omega))
    (Chip.leaves_trans (Chip.leaves_webCfg_set _ _ _ _ _ _ (by omega) (by omega))
      (Chip.leaves_mono (fun _ h => .inl h) (c.leaves_countEdge n k)))

/-- A new ε writes WM_EPS and may report a fault. -/
theorem Chip.leaves_webCfg_newEps (eps : Int) : c.leaves Fld.ofWebCfg (c.newEps eps) := by
  have still (h : Fld) (hh : h.ofWebCfg) : h.still := by
    unfold Fld.ofWebCfg at hh
    simp only [Fld.still]
    omega
  have written := c.leaves_webCfg_set 0x5C 0 32 0 (satSgn 32 eps) (by omega) (by omega)
  unfold Chip.newEps
  split
  · exact Chip.leaves_trans written (Chip.leaves_of_like still (Chip.like_raise _ .fs 0 _ (evSource_lt _ _ · (by decide))))
  · exact written

/-- The end of a stretch window writes its results. -/
theorem Chip.leaves_webCfg_closeWindow : c.leaves Fld.ofWebCfg c.closeWindow := by
  unfold Chip.closeWindow
  split
  · split
    · exact Chip.leaves_trans (c.leaves_motion _) (Chip.leaves_trans (Chip.leaves_webCfg_set _ _ _ _ _ _ (by omega) (by omega))
        (Chip.leaves_trans (Chip.leaves_webCfg_set _ _ _ _ _ _ (by omega) (by omega)) (Chip.leaves_webCfg_newEps ..)))
    · exact c.leaves_refl _
  · exact c.leaves_refl _

theorem Chip.leaves_webCfg_outfeedEdge (e : Int × Nat) : c.leaves Fld.ofWebCfg (c.outfeedEdge e) :=
  Chip.leaves_trans (c.leaves_motion _) (Chip.leaves_webCfg_closeWindow _)

end

theorem phaseOf_lt (a b : Bool) : phaseOf a b < 4 := by cases a <;> cases b <;> decide

/-- One place on in the forward order (R226). -/
theorem stepDir_next {old new : Nat} (ho : old < 4) (h : new = (old + 1) % 4) (inv : Bool) :
    stepDir old new inv = some (if inv then -1 else 1) := by
  have one : (new + 4 - old) % 4 = 1 := by omega
  simp [stepDir, one]

/-- One place back. -/
theorem stepDir_previous {old new : Nat} (hn : new < 4) (h : old = (new + 1) % 4) (inv : Bool) :
    stepDir old new inv = some (if inv then 1 else -1) := by
  have three : (new + 4 - old) % 4 = 3 := by omega
  simp [stepDir, three]

/-- Two places on or back: both lines changed, and nothing is counted (R227). -/
theorem stepDir_both {old new : Nat} (ho : old < 4) (h : new = (old + 2) % 4) (inv : Bool) : stepDir old new inv = none := by
  have two : (new + 4 - old) % 4 = 2 := by omega
  simp [stepDir, two]

section
variable {c : Chip} {n : Nat} {a b : Bool}

/-- A disabled channel, or levels that stay, count 0. -/
theorem Chip.countOf_idle (h : ¬ c.get (WM_ECFG_EN n) ≠ 0 ∨ phaseOf (c.enc n).a (c.enc n).b = phaseOf a b) : c.countOf n a b = some 0 := by
  refine if_pos ?_
  rcases h with off | same
  · simp [Chip.is_eq_false_iff.2 (Decidable.not_not.1 off)]
  · simp [same]

/-- Levels of an enabled channel that change count by their places in the forward order. -/
theorem Chip.countOf_enabled (on : c.get (WM_ECFG_EN n) ≠ 0) (h : phaseOf (c.enc n).a (c.enc n).b ≠ phaseOf a b) :
    c.countOf n a b = stepDir (phaseOf (c.enc n).a (c.enc n).b) (phaseOf a b) (c.is (WM_ECFG_DIRINV n)) :=
  if_neg (by simp [Chip.is_iff.2 on, h])

theorem Chip.countOf_next (on : c.get (WM_ECFG_EN n) ≠ 0) (h : phaseOf a b = (phaseOf (c.enc n).a (c.enc n).b + 1) % 4) :
    c.countOf n a b = some (if c.get (WM_ECFG_DIRINV n) = 0 then 1 else -1) := by
  have old := phaseOf_lt (c.enc n).a (c.enc n).b
  rw [Chip.countOf_enabled on (by omega), stepDir_next old h]
  by_cases inv : c.get (WM_ECFG_DIRINV n) = 0 <;> simp [Chip.is, inv]

theorem Chip.countOf_previous (on : c.get (WM_ECFG_EN n) ≠ 0) (h : phaseOf (c.enc n).a (c.enc n).b = (phaseOf a b + 1) % 4) :
    c.countOf n a b = some (-(if c.get (WM_ECFG_DIRINV n) = 0 then 1 else -1)) := by
  have new := phaseOf_lt a b
  rw [Chip.countOf_enabled on (by omega), stepDir_previous new h]
  by_cases inv : c.get (WM_ECFG_DIRINV n) = 0 <;> simp [Chip.is, inv]

theorem Chip.countOf_both (on : c.get (WM_ECFG_EN n) ≠ 0) (h : phaseOf a b = (phaseOf (c.enc n).a (c.enc n).b + 2) % 4) :
    c.countOf n a b = none := by
  have old := phaseOf_lt (c.enc n).a (c.enc n).b
  rw [Chip.countOf_enabled on (by omega), stepDir_both old h]

/-- Levels that count 0 are only followed. -/
theorem Chip.encoderEdge_idle (h : c.countOf n a b = some 0) : c.encoderEdge n a b = c.setEnc n { c.enc n with a := a, b := b } := by
  simp [Chip.encoderEdge, h]

/-- Both lines at once restart timing, and are counted and reported (R227). -/
theorem Chip.encoderEdge_illegal (h : c.countOf n a b = none) :
    let d := c.setEnc n { c.enc n with a := a, b := b }
    c.encoderEdge n a b =
      (((((d.setEnc n { d.enc n with seen := c.latched (c.get (WM_ECFG_FILT n)) }).restartTiming n none).bump (WM_EST_ILLEGAL n)).spoilOn
        n).raise .wm 0 { src := n }) := by
  simp only [Chip.encoderEdge, h]
  rfl

/-- An edge that counts k, seen from the channel's configuration before it. -/
theorem Chip.encoderEdge_counts {k : Int} (h : c.countOf n a b = some k) (hk : k ≠ 0) :
    let r := (c.setEnc n { c.enc n with a := a, b := b }).countEdge n k
    let f := if n = c.outfeed then r.2.2.outfeedEdge (r.1, r.2.1) else r.2.2
    c.encoderEdge n a b = if n = c.infeed then f.infeedMoved r.1 r.2.1 (0 < k) else f := by
  intro r f
  have counted : c.leaves Fld.ofWebCfg r.2.2 := Chip.leaves_trans (c.leaves_setEnc n _) (Chip.leaves_webCfg_countEdge _ n k)
  have moved : c.leaves Fld.ofWebCfg f := by
    unfold f
    split
    · exact Chip.leaves_trans counted (Chip.leaves_webCfg_outfeedEdge ..)
    · exact counted
  have outfeed : r.2.2.outfeed = c.outfeed := counted.2.2 _ ofWebCfg_outfeed
  have infeed : f.infeed = c.infeed := moved.2.2 _ ofWebCfg_infeed
  simp only [Chip.encoderEdge, h]
  rw [← infeed]
  unfold f
  rw [← outfeed]

end

/-! ### Z (R229) -/

/-- Z latches POS and DT, and the first Z since enable has come. -/
def Chip.zLatched (c : Chip) (n pos : Nat) : Chip :=
  ((c.set (WM_ZLAT_ZPOS n) pos).set (WM_ZDT_ZDT n) (c.latched (c.get (WM_ECFG_FILT n)) / 65536)).setEnc n { c.enc n with homed := true }

/-- The registers stand beside the channels. -/
theorem Chip.setEnc_get (c : Chip) (n : Nat) (e : Enc) (f : Fld) : (c.setEnc n e).get f = c.get f := rfl

/-- The channels stand beside the registers. Not a definitional rewrite, which the kernel would check by unfolding `set`. -/
theorem Chip.set_enc (c : Chip) (f : Fld) (v n : Nat) : (c.set f v).enc n = c.enc n :=
  congrArg (fun m : Motion => FMap.get ({} : Enc) m.enc n) (Chip.set_motion c f v)

/-- The latch writes no other registers. -/
theorem Chip.zLatched_get (c : Chip) (n pos o l w r : Nat) (hl : l < 128) (h : o ≠ 0xAC + 0x40 * n ∧ o ≠ 0xB0 + 0x40 * n) :
    (c.zLatched n pos).get (fld .wm 0 o l w r) = c.get (fld .wm 0 o l w r) := by
  rw [Chip.zLatched, Chip.setEnc_get]
  exact (Chip.get_set_wm (by omega) hl (by omega)).trans (Chip.get_set_wm (by omega) hl (by omega))

/-- Z of a channel that does not use it has no effect. -/
theorem Chip.zEdge_off {c : Chip} {n : Nat} (k : Int) (h : ¬ (c.get (WM_ECFG_EN n) ≠ 0 ∧ c.get (WM_ECFG_ZMODE n) ≠ 0)) : c.zEdge n k = c := by
  refine if_pos ?_
  by_cases en : c.get (WM_ECFG_EN n) = 0
  · simp [Chip.is, en]
  · have mode : c.get (WM_ECFG_ZMODE n) = 0 := Decidable.not_not.1 fun used => h ⟨en, used⟩
    simp [mode]

/-- Z sees POS after the count k of its instant; it latches that, and homes or checks it as ZMODE says. -/
theorem Chip.zEdge_on {c : Chip} {n : Nat} (k : Int) (h : c.get (WM_ECFG_EN n) ≠ 0 ∧ c.get (WM_ECFG_ZMODE n) ≠ 0) :
    let pos := if k = 0 then c.get (WM_POS_POS n) else stepPos (c.get (WM_POS_POS n)) (c.get (WM_CPR_CPR n)) k
    let ref := c.get (WM_ZREF_ZREF n)
    let d := c.zLatched n pos
    c.zEdge n k =
      if c.get (WM_ECFG_ZMODE n) = 1 then d
      else if c.get (WM_ECFG_ZMODE n) = 3 ∧ (c.enc n).homed = false then
        d.set (WM_POS_POS n) (if k = 0 then ref else stepPos ref (c.get (WM_CPR_CPR n)) (-k))
      else if c.get (WM_VCO_ZTOL n) < circleDist pos ref (c.get (WM_CPR_CPR n)) then (d.bump (WM_EST_ZERR n)).raise .wm 0 { src := 4 + n }
      else d := by
  intro pos ref d
  obtain ⟨en, mode⟩ := h
  have same_ref : d.get (WM_ZREF_ZREF n) = ref := c.zLatched_get n pos _ _ _ _ (by omega) (by omega)
  have same_tol : d.get (WM_VCO_ZTOL n) = c.get (WM_VCO_ZTOL n) := c.zLatched_get n pos _ _ _ _ (by omega) (by omega)
  have homes : (decide (c.get (WM_ECFG_ZMODE n) = 3) && !(c.enc n).homed) = true ↔ c.get (WM_ECFG_ZMODE n) = 3 ∧ (c.enc n).homed = false := by
    simp
  have step : (if -k = 0 then ref else stepPos ref (c.get (WM_CPR_CPR n)) (-k)) =
      if k = 0 then ref else stepPos ref (c.get (WM_CPR_CPR n)) (-k) :=
    ite_congr (propext Int.neg_eq_zero) (fun _ => rfl) fun _ => rfl
  have used : ¬ ((!c.is (WM_ECFG_EN n) || decide (c.get (WM_ECFG_ZMODE n) = 0)) = true) := by simp [Chip.is, en, mode]
  rw [← step, ← same_ref, ← same_tol]
  simp only [Chip.zEdge, if_neg used, Chip.set_enc]
  exact ite_congr rfl (fun _ => rfl) fun _ => ite_congr (propext homes) (fun _ => rfl) fun _ => rfl

/-! ### Standstill and the end of a gate (R235 to R237) -/

/-- No edge of this instant prevents standstill. -/
theorem all_countNow_iff (o : Option (Option Int)) : o.all (· = some 0) = true ↔ ¬ ∃ k, o = some k ∧ k ≠ some 0 := by
  cases o <;> simp

/-- A channel stands still once TSTILL has passed without an edge. -/
theorem Chip.standstill_eq (c : Chip) (n : Nat) :
    let d := (c.restartTiming n none).setSpeed n 0 1
    c.standstill n =
      if c.get (WM_ECFG_EN n) ≠ 0 ∧ (c.get (WM_EST_STILL n) = 0 ∨ (c.enc n).moved = true) ∧
          (c.enc n).seen + c.get (WM_ECFG_TSTILL n) * 100 * dtMicro ≤ c.dt then
        ((d.setEnc n { d.enc n with moved := false }).set (WM_EST_STILL n) 1).spoilOn n
      else c := by
  intro d
  unfold Chip.standstill
  refine ite_congr (propext ?_) (fun _ => rfl) fun _ => rfl
  simp [Chip.is, and_assoc]

section
variable {c : Chip} {n : Nat}

/-- A gate that does not end yet. -/
theorem Chip.countGateEnd_early
    (h : ¬ (c.get (WM_ECFG_EN n) ≠ 0 ∧ c.get (WM_EST_METHOD n) ≠ 0 ∧ (c.enc n).gate + c.get WM_CFG_GATE * dtMicro ≤ c.dt)) :
    c.countGateEnd n = c := by
  refine if_pos ?_
  simp only [Chip.is, Bool.or_eq_true, Bool.not_eq_true', decide_eq_true_eq, decide_eq_false_iff_not]
  omega

section
variable (h : c.get (WM_ECFG_EN n) ≠ 0 ∧ c.get (WM_EST_METHOD n) ≠ 0 ∧ (c.enc n).gate + c.get WM_CFG_GATE * dtMicro ≤ c.dt)
include h

/-- A gate that ends is none of those that do not count or are under way. -/
theorem Chip.gate_ends :
    (!c.is (WM_ECFG_EN n) || !c.is (WM_EST_METHOD n) || decide (c.dt < (c.enc n).gate + c.get WM_CFG_GATE * dtMicro)) = false := by
  obtain ⟨en, method, due⟩ := h
  simp [Chip.is, en, method, due]

/-- A gate without an edge gives the period method back. -/
theorem Chip.countGateEnd_no_edge {x : Int × Nat} (hg : (c.enc n).gateRef = some x) (hr : (c.enc n).ref = some x) :
    c.countGateEnd n = c.set (WM_EST_METHOD n) 0 := by
  simp [Chip.countGateEnd, Chip.gate_ends h, hg, hr]

/-- A gate with edges gives a speed, and the period method back where that is slow. -/
theorem Chip.countGateEnd_edges {x0 x1 : Int} {t0 t1 : Nat} (hg : (c.enc n).gateRef = some (x0, t0)) (hr : (c.enc n).ref = some (x1, t1))
    (hne : (x0, t0) ≠ (x1, t1)) :
    let d := ((c.setEnc n { c.enc n with gate := (c.enc n).gate + c.get WM_CFG_GATE * dtMicro, gateRef := some (x1, t1) }).setSpeed n
      (x1 - x0) (t1 - t0)).set (WM_EST_FIRST n) 0
    c.countGateEnd n =
      if reaches (100 * (x1 - x0)) (max 1 (t1 - t0)) (c.get (WM_VCO_VCO n) * (100 - c.get (WM_ECFG_HYS n))) = true then d
      else d.set (WM_EST_METHOD n) 0 := by
  intro d
  have ne : ¬ (x0 = x1 ∧ t0 = t1) := fun ⟨ex, et⟩ => hne (by rw [ex, et])
  have same (o l w r : Nat) (hl : l < 128) (ho : o ≠ 0x98 + 0x40 * n ∧ o ≠ 0x9C + 0x40 * n) :
      d.get (fld .wm 0 o l w r) = c.get (fld .wm 0 o l w r) :=
    (Chip.get_set_wm (by omega) hl (by omega)).trans (Chip.get_set_wm (by omega) hl (by omega))
  have same_vco : d.get (WM_VCO_VCO n) = c.get (WM_VCO_VCO n) := same _ _ _ _ (by omega) (by omega)
  have same_hys : d.get (WM_ECFG_HYS n) = c.get (WM_ECFG_HYS n) := same _ _ _ _ (by omega) (by omega)
  rw [← same_vco, ← same_hys]
  simp only [d, Chip.countGateEnd, Chip.gate_ends h, hg, hr, if_neg ne, Bool.false_eq_true, if_false]

end
end

/-! ### SSI ports (R239 to R241, R455) -/

/-- A frame of port m is due: PER has passed, or the frame's time and MONO (R239). -/
def Chip.ssiDue (c : Chip) (m : Nat) : Bool := (c.ssi m).last.all fun l => decide (l + c.ssiPeriod m ≤ c.dt)

theorem Chip.ssiDue_iff {c : Chip} {m : Nat} : c.ssiDue m = true ↔ ∀ l, (c.ssi m).last = some l → l + c.ssiPeriod m ≤ c.dt := by
  simp [Chip.ssiDue, Option.all_eq_true]

/-- A port is enabled and has no frame under way. -/
def Chip.ssiFree (c : Chip) (m : Nat) : Bool := c.is (WM_SCFG_EN m) && (c.ssi m).frame.isNone

theorem Chip.ssiFree_iff {c : Chip} {m : Nat} : c.ssiFree m = true ↔ c.get (WM_SCFG_EN m) ≠ 0 ∧ (c.ssi m).frame = none := by
  simp [Chip.ssiFree, Chip.is]

/-- The unit's own clock starts a frame in SOLO and ACTIVE. -/
theorem exec_ssiFrameStart (t : Nat) (m : Fin 2) (low : Bool) (s : State) :
    exec (.ssiFrameStart t m low) s = .next ((s.at_ t).onChip fun c =>
      if c.ssiFree m = true ∧ c.runs = true ∧ c.ssiDue m = true then (c.ssiStart m low).emit .ssiClock m [c.get (WM_SCFG_NBITS m) + 1]
      else c) := by
  change execSsiFrameStart t m low s = _
  unfold execSsiFrameStart
  congr 2
  funext c
  refine ite_congr (propext ?_) (fun _ => rfl) fun _ => rfl
  rw [Chip.ssiDue_iff]
  split <;> rename_i last <;> simp [last, Chip.ssiFree, and_assoc, and_left_comm, and_comm]

/-- The active unit's clock starts a frame in STANDBY and CATCHUP. -/
theorem exec_ssiClockEdge (t : Nat) (m : Fin 2) (low : Bool) (s : State) :
    exec (.ssiClockEdge t m low) s = .next ((s.at_ t).onChip fun c =>
      if c.ssiFree m = true ∧ c.runs = false then c.ssiStart m low else c) := by
  change execSsiClockEdge t m low s = _
  unfold execSsiClockEdge
  congr 2
  funext c
  refine ite_congr (propext ?_) (fun _ => rfl) fun _ => rfl
  simp [Chip.ssiFree, and_assoc, and_left_comm, and_comm]

section
variable {t : Nat} {m : Fin 2} {w : BitVec 32} {at' : Nat} {low : Bool} {s : State} (hf : ((s.at_ t).chip.ssi m).frame = some (at', low))
include hf

theorem passes_ssiFrameEnd (early : (s.at_ t).chip.dt < at' + (s.at_ t).chip.ssiTime m) : Passes (.ssiFrameEnd t m w) t s := by
  refine Passes.of_onChip _ rfl ?_
  generalize (s.at_ t).chip = c at hf early ⊢
  simp only [hf, if_pos early]

/-- The word of a frame whose time has passed: one without line error and error bit is accepted, any other counted and reported. -/
theorem acts_ssiFrameEnd (due : at' + (s.at_ t).chip.ssiTime m ≤ (s.at_ t).chip.dt) :
    let c := (s.at_ t).chip
    let d := c.setSsi m { c.ssi m with frame := none }
    let n := c.get (WM_SCFG_NBITS m)
    let eb := c.get (WM_SCFG_EBIT m)
    let v := w.toNat % 2 ^ n
    let bin := if c.get (WM_SCFG_GRAY m) ≠ 0 then grayDecode n v else v
    let bad := eb ≠ 0 ∧ v % 2 = 1
    let line := if low = true then d.bump (WM_SST_LINEERR m) else d
    Acts (.ssiFrameEnd t m w) t s
      (if low = true ∨ bad then (if bad then line.bump (WM_SST_ENCERR m) else line).raise .wm 0 { src := 8 + m }
      else d.ssiAccept m (n - eb) (if eb ≠ 0 then bin / 2 else bin) at') := by
  refine Acts.of_onChip _ rfl ?_
  generalize (s.at_ t).chip = c at hf due ⊢
  have get (f : Fld) : (c.setSsi m { c.ssi m with frame := none }).get f = c.get f := rfl
  simp only [hf, if_neg (Nat.not_lt.2 due), Bool.or_eq_true, Bool.and_eq_true, decide_eq_true_eq, Chip.is_iff, get]

end

/-! ### Probes (R242, R243) -/

section
variable {c : Chip} {p : Nat} {d : Nat → Int} {pops : Bool}

/-- A full store that nothing is taken from discards the latch. -/
theorem Chip.probeLatch_full (h : ¬ ((c.probe p).store.length < 16 ∨ pops = true)) :
    c.probeLatch p d pops =
      ((c.setProbe p { c.probe p with seq := ((c.probe p).seq + 1) % 2 ^ 32 }).bump (WM_PST_OVF p)).raise .wm 0 { src := 10 } :=
  if_pos ⟨Nat.not_lt.1 fun fits => h (.inl fits), fun taken => h (.inr taken)⟩

/-- With room, the latch is the newest of the store, and posts event 0x0560 + p to the tenants that TMASK names. -/
theorem Chip.probeLatch_room (h : (c.probe p).store.length < 16 ∨ pops = true) :
    let x := c.probe p
    let y := c.setProbe p { x with seq := (x.seq + 1) % 2 ^ 32 }
    let f := y.setProbe p { y.probe p with
      store := x.store ++ [(x.seq, c.probeValue p d, c.latched (c.get (WM_PCFG_FILT p)) / 65536)] }
    c.probeLatch p d pops =
      if c.get (WM_PCFG_TMASK p) = 0 then f else f.event (c.get (WM_PCFG_TMASK p)) 55 (0x560 + p) x.seq :=
  if_neg fun ⟨full, kept⟩ => h.elim (Nat.not_lt.2 full) kept

end

/-- An edge of a probe latches where the probe is enabled for it. -/
theorem exec_probeEdge (t : Nat) (p : Fin 8) (rise : Bool) (s : State) :
    exec (.probeEdge t p rise) s = .next ((s.at_ t).onChip fun c =>
      if c.get (WM_PCFG_EN p) ≠ 0 ∧ (c.get (WM_PCFG_EDGE p) = 2 ∨ (c.get (WM_PCFG_EDGE p) = 0 ↔ rise = true)) then
        c.probeLatch p (s.deltaNow t) (s.popNow t p)
      else c) := by
  change execProbeEdge t p rise s = _
  unfold execProbeEdge
  congr 2
  funext c
  refine ite_congr (propext ?_) (fun _ => rfl) fun _ => rfl
  cases rise <;> simp [Chip.is]

/-! ### The commands of chapter 9 -/

/-- Settles O44: each clause is the equation of its operation, on the chip at the command's instant. -/
theorem webMotionEvents : Obligations.WebMotionEvents := by
  unfold Obligations.WebMotionEvents
  refine ⟨?encoder, ?z, ?still, ?bound, ?start, ?received, ?probe, ?pop, ?peak⟩
  case encoder =>
    intro t n a b s e c d old new on up counts
    have acts {f : Chip} (h : c.encoderEdge n a b = f) : Acts e t s f := .of_onChip (·.encoderEdge n a b) rfl h
    have counted {k : Int} (h : c.countOf n a b = some k) (hk : k ≠ 0) : counts k :=
      ⟨acts (Chip.encoderEdge_counts h hk), c.countEdge_levels n _ k⟩
    have up_ne : up ≠ 0 := by
      unfold up
      split <;> decide
    exact ⟨fun h => acts (Chip.encoderEdge_idle (Chip.countOf_idle h)), fun on h => counted (Chip.countOf_next on h) up_ne,
      fun on h => counted (Chip.countOf_previous on h) (mt Int.neg_eq_zero.1 up_ne), fun on h => acts (Chip.encoderEdge_illegal (Chip.countOf_both on h))⟩
  case z =>
    intro t n s e c mode on pos ref k new d homes far
    have acts {f : Chip} (h : c.zEdge n k = f) : Acts e t s f := .of_onChip (·.zEdge n k) rfl h
    refine ⟨fun h => .of_onChip (·.zEdge n k) rfl (Chip.zEdge_off k h), fun h latch => acts ((Chip.zEdge_on k h).trans (if_pos latch)),
      fun h home => ?_, fun h latch home err => ?_, fun h latch home ok => ?_⟩
    · have latch : mode ≠ 1 := by
        rw [home.1]
        decide
      exact acts ((Chip.zEdge_on k h).trans ((if_neg latch).trans (if_pos home)))
    · exact acts ((Chip.zEdge_on k h).trans ((if_neg latch).trans ((if_neg home).trans (if_pos err))))
    · exact acts ((Chip.zEdge_on k h).trans ((if_neg latch).trans ((if_neg home).trans (if_neg ok))))
  case still =>
    intro t n s c on edge stops d
    refine ⟨fun ⟨no, still⟩ => .of_onChip _ rfl (congrArg Chip.webMoved ((if_pos ((all_countNow_iff _).2 no)).trans
      ((c.standstill_eq n).trans (if_pos still)))), fun stay => .of_onChip _ rfl (congrArg Chip.webMoved ?_),
      fun h => .of_onChip _ rfl (congrArg Chip.webMoved (Chip.countGateEnd_early h)),
      fun x h hg hr => .of_onChip _ rfl (congrArg Chip.webMoved (Chip.countGateEnd_no_edge h hg hr)),
      fun x0 t0 x1 t1 h hg hr ne => .of_onChip _ rfl (congrArg Chip.webMoved (Chip.countGateEnd_edges h hg hr ne))⟩
    by_cases now : edge
    · exact if_neg fun h => (all_countNow_iff _).1 h now
    · exact (if_pos ((all_countNow_iff _).2 now)).trans ((c.standstill_eq n).trans (if_neg fun h => stay ⟨now, h⟩))
  case bound =>
    intro t s c
    exact ⟨fun h => .of_onChip _ rfl (if_pos h), fun h => .of_onChip _ rfl (if_neg h)⟩
  case start =>
    intro t m low s c d free due own
    refine ⟨fun hf ho hd => .of_onChip _ (exec_ssiFrameStart t m low s)
        (if_pos ⟨Chip.ssiFree_iff.2 hf, Chip.runs_iff.2 ho, Chip.ssiDue_iff.2 hd⟩),
      fun h => .of_onChip _ (exec_ssiFrameStart t m low s) (if_neg ?_),
      fun hf ho => .of_onChip _ (exec_ssiClockEdge t m low s) (if_pos ⟨Chip.ssiFree_iff.2 hf, Bool.eq_false_iff.2 (mt Chip.runs_iff.1 ho)⟩),
      fun h => .of_onChip _ (exec_ssiClockEdge t m low s) (if_neg ?_)⟩
    · rintro ⟨hf, ho, hd⟩
      exact h.elim (· (Chip.ssiFree_iff.1 hf)) (·.elim (· (Chip.runs_iff.1 ho)) (· (Chip.ssiDue_iff.1 hd)))
    · rintro ⟨hf, ho⟩
      exact h.elim (· (Chip.ssiFree_iff.1 hf)) fun own => Bool.eq_false_iff.1 ho (Chip.runs_iff.2 own)
  case received =>
    intro t m w at' low s e c d n eb v bin bad hf
    exact ⟨passes_ssiFrameEnd hf,
      fun due ok good => (acts_ssiFrameEnd hf due).trans_eq (if_neg (not_or.2 ⟨Bool.eq_false_iff.1 ok, good⟩)),
      fun due line good => (acts_ssiFrameEnd hf due).trans_eq (by rw [if_pos (.inl line), if_neg good, if_pos line]),
      fun due ok err => (acts_ssiFrameEnd hf due).trans_eq (by rw [if_pos (.inr err), if_pos err, if_neg (Bool.eq_false_iff.1 ok)])⟩
  case probe =>
    intro t p rise s e c on x d room f
    have acts {g : Chip} (h : on) (hg : c.probeLatch p (s.deltaNow t) (s.popNow t p) = g) : Acts e t s g :=
      .of_onChip _ (exec_probeEdge t p rise s) ((if_pos h).trans hg)
    exact ⟨fun h => .of_onChip _ (exec_probeEdge t p rise s) (if_neg h), fun h full => acts h (Chip.probeLatch_full full),
      fun h fits quiet => acts h ((Chip.probeLatch_room fits).trans (if_pos quiet)),
      fun h fits tell => acts h ((Chip.probeLatch_room fits).trans (if_neg tell))⟩
  case pop =>
    intro t m p s c hw hr d
    exact .of_onChip _ rfl (Chip.ownWrite_granted hw hr _)
  case peak =>
    intro t m s c hw hr d
    exact .of_onChip _ rfl (Chip.ownWrite_granted hw hr _)

end Sys2Proof.Machine
end

section
/-!
PROOFS. The TAP (R465, R466): which instruction it captures, one equation per case of the rule; from these, that no instruction takes
control of a ball during a run.
-/
namespace Sys2Proof.Machine

/-- The instructions that take control of the balls (R466). -/
def takesBalls (i : JtagOp) : Prop := i = .extest ∨ i = .clamp ∨ i = .highz

/-! ### The captured instruction (R466) -/

/-- With FTM high every instruction is captured. -/
theorem Chip.jtagTakes_of_test {c : Chip} (i : JtagOp) (test : c.get SYS_STRAP_FTM ≠ 0) : c.jtagTakes i = i :=
  if_pos (Chip.is_iff.2 test)

/-- With FTM low an instruction that is not public selects BYPASS. -/
theorem Chip.jtagTakes_private {c : Chip} (low : c.get SYS_STRAP_FTM = 0) : c.jtagTakes .other = .bypass := by
  simp [Chip.jtagTakes, Chip.is_eq_false_iff.2 low]

/-- During a run BYPASS stands in place of an instruction that would take the balls. -/
theorem Chip.jtagTakes_of_run {c : Chip} {i : JtagOp} (low : c.get SYS_STRAP_FTM = 0) (run : c.get SEQ_PSTAT_OPEN ≠ 0)
    (ball : takesBalls i) : c.jtagTakes i = .bypass := by
  rcases ball with rfl | rfl | rfl <;> simp [Chip.jtagTakes, Chip.is_eq_false_iff.2 low, Chip.is_iff.2 run]

/-- Outside a run a public instruction is captured. -/
theorem Chip.jtagTakes_of_closed {c : Chip} {i : JtagOp} (closed : c.get SEQ_PSTAT_OPEN = 0) (pub : i ≠ .other) :
    c.jtagTakes i = i := by
  cases i with
  | other => exact absurd rfl pub
  | _ => simp [Chip.jtagTakes, Chip.is_eq_false_iff.2 closed]

/-- A public instruction that takes no ball is captured. -/
theorem Chip.jtagTakes_of_harmless {c : Chip} {i : JtagOp} (harmless : ¬ takesBalls i) (pub : i ≠ .other) : c.jtagTakes i = i := by
  cases i with
  | other => exact absurd rfl pub
  | extest | clamp | highz => exact absurd (by simp [takesBalls]) harmless
  | bypass | sample | idcode => simp [Chip.jtagTakes]

/-- During a run the captured instruction is a public one and takes no ball. -/
theorem Chip.jtagTakes_during_run {c : Chip} (i : JtagOp) (low : c.get SYS_STRAP_FTM = 0) (run : c.get SEQ_PSTAT_OPEN ≠ 0) :
    c.jtagTakes i ≠ .other ∧ ¬ takesBalls (c.jtagTakes i) := by
  have bypass : JtagOp.bypass ≠ .other ∧ ¬ takesBalls .bypass := by simp [takesBalls]
  by_cases ball : takesBalls i
  · rwa [Chip.jtagTakes_of_run low run ball]
  by_cases priv : i = .other
  · rwa [priv, Chip.jtagTakes_private low]
  · rw [Chip.jtagTakes_of_harmless ball priv]
    exact ⟨priv, ball⟩

/-! ### The codes of the instructions -/

/-- The instruction with a code. -/
def jtagOfCode (n : Nat) : JtagOp := [.bypass, .sample, .extest, .idcode, .clamp, .highz].getD n .other

theorem jtagOfCode_jtagCode (i : JtagOp) : jtagOfCode (jtagCode i) = i := by
  cases i <;> rfl

theorem jtagCode_injective : Function.Injective jtagCode := Function.LeftInverse.injective jtagOfCode_jtagCode

/-! ### The command -/

/-- The chip with the code of the captured instruction in force. -/
def Chip.capture (c : Chip) (i : JtagOp) : Chip := c.onHealth fun h => { h with jtag := jtagCode (c.jtagTakes i) }

theorem Chip.capture_jtag (c : Chip) (i : JtagOp) : (c.capture i).health.jtag = jtagCode (c.jtagTakes i) := rfl

theorem Chip.capture_eq {c : Chip} {i j : JtagOp} (takes : c.jtagTakes i = j) :
    c.capture i = c.onHealth fun h => { h with jtag := jtagCode j } := by
  rw [Chip.capture, takes]

/-- A public instruction that is captured comes into force. -/
theorem exec_jtagInstruction {t : Nat} {i : JtagOp} {s : State} (pub : (s.at_ t).chip.jtagTakes i ≠ .other) :
    exec (.jtagInstruction t i) s = .next ((s.at_ t).onChip (·.capture i)) := by
  change execJtagInstruction t i s = _
  simp only [execJtagInstruction, if_neg pub, Chip.capture]

theorem acts_jtagInstruction {t : Nat} {i j : JtagOp} {s : State} (takes : (s.at_ t).chip.jtagTakes i = j) (pub : j ≠ .other) :
    Acts (.jtagInstruction t i) t s ((s.at_ t).chip.onHealth fun h => { h with jtag := jtagCode j }) :=
  .of_onChip (·.capture i) (exec_jtagInstruction (takes ▸ pub)) (Chip.capture_eq takes)

/-- With FTM high an instruction that is not public is refused. -/
theorem exec_jtagInstruction_private {t : Nat} {s : State} (test : (s.at_ t).chip.get SYS_STRAP_FTM ≠ 0) :
    exec (.jtagInstruction t .other) s = .refused .jtagPrivate := by
  change execJtagInstruction t .other s = _
  rw [execJtagInstruction, if_pos (Chip.jtagTakes_of_test .other test)]

/-- Settles O60: each clause is an equation of the captured instruction, on the chip at the command's instant; the codes of two
instructions differ, so that the one in force during a run is none of the three. -/
theorem jtagCannotTakeBallsDuringRun : Obligations.JtagCannotTakeBallsDuringRun := by
  unfold Obligations.JtagCannotTakeBallsDuringRun
  intro t i s c test ball takes
  refine ⟨fun low run h => ?replaced, fun low run => ?safe, fun low h => ?undecoded, fun pub h => ?captured, fun high h => ?refused⟩
  case replaced => exact acts_jtagInstruction (Chip.jtagTakes_of_run (Classical.not_not.1 low) run h) (by decide)
  case safe =>
    obtain ⟨pub, harmless⟩ := (s.at_ t).chip.jtagTakes_during_run i (Classical.not_not.1 low) run
    refine ⟨_, exec_jtagInstruction pub, fun j hj same => harmless ?_⟩
    rw [State.onChip_chip, Chip.capture_jtag] at same
    rwa [jtagCode_injective same]
  case undecoded =>
    subst h
    exact acts_jtagInstruction (Chip.jtagTakes_private (Classical.not_not.1 low)) (by decide)
  case captured =>
    refine acts_jtagInstruction ?_ pub
    rcases h with high | harmless | closed
    · exact Chip.jtagTakes_of_test i high
    · exact Chip.jtagTakes_of_harmless harmless pub
    · exact Chip.jtagTakes_of_closed closed pub
  case refused =>
    subst h
    exact exec_jtagInstruction_private high

end Sys2Proof.Machine
end

section
/-!
PROOFS. Instruction words (R61, R62, Table 3-3): the fields of a word and the word of fields are inverse, and each opcode names one
instruction; from these, the round trip.
-/
namespace Sys2Proof

/-! ### Words and fields -/

/-- A word is its opcode and its fields. -/
theorem Fields.word_ofWord (w : BitVec 64) : (Fields.ofWord w).word (w.extractLsb' 56 8) = w := by
  apply BitVec.eq_of_getLsbD_eq
  intro i hi
  simp only [Fields.word, Fields.ofWord, BitVec.getLsbD_append, BitVec.getLsbD_extractLsb']
  grind

theorem Fields.word_op (f : Fields) (op : BitVec 8) : (f.word op).extractLsb' 56 8 = op := by
  apply BitVec.eq_of_getLsbD_eq
  intro i hi
  simp only [Fields.word, BitVec.getLsbD_append, BitVec.getLsbD_extractLsb']
  grind

theorem Fields.ofWord_word (f : Fields) (op : BitVec 8) : Fields.ofWord (f.word op) = f := by
  obtain ⟨gd, ga, gb, sub, imm⟩ := f
  simp only [Fields.ofWord, Fields.mk.injEq]
  refine ⟨?_, ?_, ?_, ?_, ?_⟩
  all_goals
    apply BitVec.eq_of_getLsbD_eq
    intro i hi
    simp only [Fields.word, BitVec.getLsbD_append, BitVec.getLsbD_extractLsb']
    grind

/-! ### Opcodes -/

/-- An opcode that has no instruction of its own, or that of trap, is a trap with that opcode. -/
theorem instrOf_trap {op : BitVec 8} (h : op = 0xF1 ∨ definedOp op.toNat = false) (n : CtxId) (f : Fields) : instrOf n op f = .trap n ⟨op, f⟩ := by
  unfold instrOf
  split
  case h_71 => rfl
  all_goals
    next e =>
    rcases h with rfl | h
    · cases e
    · rw [e] at h
      cases h

/-- The instruction of an opcode is spelled with that opcode and its fields. -/
theorem encodeWord_instrOf (n : CtxId) (op : BitVec 8) (f : Fields) : encodeWord (instrOf n op f) = some (n, f.word op) := by
  unfold instrOf
  split
  case h_71 => rfl
  all_goals
    next e => exact congrArg (fun o => some (n, f.word o)) (BitVec.eq_of_toNat_eq (Eq.symm e))

/-- Whether the instruction of an opcode is well formed is a matter of its opcode. -/
theorem instrOf_wf_eq (n m : CtxId) (op : BitVec 8) (f g : Fields) : (instrOf n op f).wf = (instrOf m op g).wf := by
  unfold instrOf
  split <;> rfl

theorem instrOf_wf (n : CtxId) (op : BitVec 8) (f : Fields) : (instrOf n op f).wf = true := by
  have each : ∀ op : BitVec 8, (instrOf 0 op ⟨0, 0, 0, 0, 0⟩).wf = true := by decide +kernel
  rw [instrOf_wf_eq, each]

/-- An instruction that has a word is, its reads clean, the one of its opcode. -/
theorem clean_of_encodeWord {i : Instr} {n : CtxId} {w : BitVec 64} (hi : i.wf = true) (h : encodeWord i = some (n, w)) :
    ∃ (op : BitVec 8) (f : Fields), w = f.word op ∧ i.clean = instrOf n op f := by
  unfold encodeWord at h
  split at h
  case h_71 =>
    cases h
    refine ⟨_, _, rfl, (instrOf_trap ?_ ..).symm⟩
    simpa [Instr.wf] using hi
  case h_72 => cases h
  all_goals
    cases h
    exact ⟨_, _, rfl, rfl⟩

/-- Settles O55: decoding reads the opcode and the fields of Table 3-3, which are the whole word, and each opcode has one instruction. -/
theorem instructionWordsRoundTrip : Obligations.InstructionWordsRoundTrip := by
  unfold Obligations.InstructionWordsRoundTrip
  refine ⟨fun n w => ⟨instrOf_wf .., ?_⟩, fun i n w hi h => ?_⟩
  · rw [decodeWord, encodeWord_instrOf, Fields.word_ofWord]
  · obtain ⟨op, f, rfl, hc⟩ := clean_of_encodeWord hi h
    rw [decodeWord, Fields.word_op, Fields.ofWord_word, hc]

end Sys2Proof
end

section
/-!
PROOFS. What every command does to memory and to the queue of waiting commands (chapter 95): each goes on, but for a JTAG instruction that the spec gives no meaning
with FTM high, and only those of `Instr.stores` touch memory, in its canonical form. The first sections say it of the commands of the
hosts and of the sequencer that do more than change the chip.
-/
namespace Sys2Proof.Machine

/-- The command goes on, to a state that stands in relation P to s. -/
def GoesOn (P : State → State → Prop) (i : Instr) (s : State) : Prop := ∃ u, exec i s = .next u ∧ P s u

section
variable {P : State → State → Prop} (k : Kept P)
include k

/-! ### Host commands -/

theorem Kept.alloc (q : Nat) (x : InDesc) (s : State) : P s (allocBody q x s) := by
  unfold allocBody
  refine k.ite (k.done ..) (k.ite (k.done ..) (k.ite (k.done ..) ?_))
  split
  · exact k.done' (k.onChip ..) ..
  · exact k.done ..

theorem Kept.free (q : Nat) (x : InDesc) (s : State) : P s (freeBody q x s) :=
  k.owned q x s _ fun _ => k.ite (k.done ..) (k.done' (k.onChip ..) ..)

theorem Kept.setrights (q : Nat) (x : InDesc) (s : State) : P s (setrightsBody q x s) :=
  k.owned q x s _ fun _ => k.ite (k.done ..) (k.ite (k.done ..) (k.ite (k.done ..) (k.done' (k.onChip ..) ..)))

theorem Kept.seal (q : Nat) (x : InDesc) (s : State) : P s (sealBody q x s) :=
  k.owned q x s _ fun _ => k.ite (k.done ..) (k.ite (k.done ..) (k.ite (k.done' (k.onChip ..) ..) (k.submit ..)))

theorem Kept.unseal (q : Nat) (x : InDesc) (s : State) : P s (unsealBody q x s) :=
  k.owned q x s _ fun _ => k.ite (k.done ..) (k.ite (k.done ..) (k.done' (k.onChip ..) ..))

theorem Kept.read (q : Nat) (r : Ecc) (x : InDesc) (s : State) : P s (readBody q r x s) :=
  k.ite (k.done ..) (k.range q x s _ _ fun _ => k.ite (k.done' (k.onChip ..) ..) (k.done' (k.onChip' (k.onChip ..) _) ..))

theorem Kept.sendAt (q : Nat) (x : InDesc) (s : State) : P s (sendAtBody q x s) := by
  unfold sendAtBody
  refine k.ite (k.done ..) ?_
  split
  · exact k.done ..
  · exact k.ite (k.done ..) (k.onChip ..)

theorem Kept.run (q : Nat) (x : InDesc) (s : State) : P s (runBody q x s) := by
  unfold runBody
  split <;> exact k.done' (k.onChip ..) ..

theorem Kept.fireArm (q : Nat) (x : InDesc) (s : State) : P s (fireArmBody q x s) :=
  k.ite (k.done ..) (k.ite (k.done ..) (k.ite (k.done ..) (k.done' (k.ite (k.onChip ..) (k.refl s)) ..)))

theorem Kept.regReadCommand (q : Nat) (x : InDesc) (s : State) : P s (regReadBody q x s) :=
  k.ite (k.done ..) (k.ite (k.done ..) (k.done' (k.regReads ..) ..))

theorem Kept.regWriteCommand (q : Nat) (x : InDesc) (s : State) : P s (regWriteBody q x s) :=
  k.ite (k.done ..) (k.ite (k.done ..) (k.done' (k.onChip ..) ..))

/-! ### Commands that store nothing -/

theorem Kept.alu (mask : Nat) (op : W64 → W64 → W64) (n : CtxId) (f : Fields) (s : State) : P s (alu mask op n f s) := k.issueG ..

theorem Kept.stageTload (t : Nat) (q : Fin 64) (s : State) : GoesOn P (.stageTload t q) s := by
  refine ⟨_, rfl, k.stageC _ _ _ _ _ fun x u => k.ite (k.done ..) ?_⟩
  split
  · exact k.stageDone ..
  · exact k.ite (k.stageDone ..) (k.stageCtl _ _ _ _ _ (k.trans (k.onChip u _) (k.stageDone ..)))

/-- A symbol is composed, whatever its kind. -/
theorem Kept.vsym (n : CtxId) (f : Fields) (r : Ecc) (s : State) : GoesOn P (.vsym n f r) s := by
  change ∃ u, execVsym n f r s = .next u ∧ P s u
  unfold execVsym
  extract_lets
  split
  · exact ⟨_, rfl, k.compose ..⟩
  · split <;> exact ⟨_, rfl, k.compose ..⟩

theorem Kept.codecStallTimeout (t job since : Nat) (s : State) : GoesOn P (.codecStallTimeout t job since) s := by
  refine ⟨_, rfl, k.trans (k.at_ s t) ?_⟩
  split
  · exact k.ite (k.twinJob ..) (k.refl _)
  · exact k.refl _

theorem Kept.registerRead (t : Nat) (m : Fin 8) (a : BitVec 32) (whole : Bool) (s : State) : GoesOn P (.registerRead t m a whole) s := by
  change ∃ u, execRegisterRead t m a whole s = .next u ∧ P s u
  unfold execRegisterRead
  by_cases h : (!whole || decide (a.toNat % 4 ≠ 0)) = true <;> simp only [h, if_true]
  · exact ⟨_, rfl, k.onChip' (k.onChip' (k.at_ s t) _) _⟩
  · exact ⟨_, rfl, k.onChip' (k.trans (k.at_ s t) (k.regRead ..)) _⟩

/-- A public JTAG instruction goes on. -/
theorem Kept.jtag (t : Nat) (i : JtagOp) (s : State) (pub : (s.at_ t).chip.jtagTakes i ≠ .other) : GoesOn P (.jtagInstruction t i) s :=
  ⟨_, exec_jtagInstruction pub, k.onChip' (k.at_ s t) _⟩

/-- A command that stores nothing goes on, and changes the chip alone. -/
theorem Kept.goesOn (i : Instr) (s : State) (still : i.stores = false)
    (pub : ∀ t j, i = .jtagInstruction t j → (s.at_ t).chip.jtagTakes j ≠ .other) : GoesOn P i s := by
  cases i with
  | std | aadd | acas | stj | cpdj | jobStoreAccessDone | qrecv | vfmt | vdate | vchk | write | codecJobDone | loadProgram | epochRecord | ropeJrn
  | snapshotAdopt | pwrgoodRise | pwrgoodFall | shutdownDone | shutdownPowerDown | thermalSample => nomatch still
  | ptpSyncSend | ptpAnnounceSend | ptpDelayReq | ptpManagement | ptpAnnounceReceived | ptpSyncReceived | ptpAnnounceTimeout | timerFire
  | trigPulseEnd | ppsOutEdge | ppsInEdge | ppsInLoss | leapSecond | applicationDescriptor | queueTimeout | openSession | closeSession | descFrame
  | bulk | resync | sessionTimeout | creditFrameSend | neighbourRequest | doorbell | outboundConsume | msixDeferred | queueEnable | tenantEnable
  | zEdge | ssiFrameStart | ssiFrameEnd | ssiClockEdge | probeEdge | fenceDone | handlerDispatch | sendAtLaunch | codecJobStart | codecPreempt
  | jobStoreScrub | vdComposeDone | spareRotation | spareRoundEnd | modelUpdate | stampFreeze | coastTimeout | haltFireNLow | haltFireNHigh
  | fireStampPassed | encoderEdge | standstill | countGateEnd | speedBoundRefresh | loopCommit | laneEnable | laneModeChange | blockLockLost
  | lockTimeout | relockTimeout | failedRetry | trainingBlock | tapTimeout | trainTimeout | rxReady | alignmentBlock | alignTimeout | cairnMarkerSend
  | cairnMarker | markerMissing | refOffsetCheck | rxBufferOverflow | adaptFreeze | quickScanStart | quickScanDone | eyePointStart | eyePointDone
  | laneRecalDone | laneFrameLaunch | timeFrameSend | epochFrameSend | fireKeepalive | claimSend | echoTimeout | ackTimeout | eeAccess | eeTimeout
  | committFix | settlingEnd | norWriteDone | waitWake | waitTimeout | claimConflictWait | claimwinExpiry | handoff | handoffTimeout | probePop
  | peakClr | heartbeatSend | belayFrame | ropeHb | pathSilence | peerHeardExpiry | peerFailure | roleDecisionTimeout | ropeAck | ropeResendTimeout
  | ropeOffer | ropeHash | refereeDone | sliceFault | ropeVerdict | ropeSnap | snapshotStart | recatch | hubLeadWindow | rowRendered | codecStallEnd
  | bistWaveEnd | rest | restAuto | abort | noquick | restEnd | startupReady | refclkLoss | refoutEnable | shutdown | headroomWindow | throttleStep
  | throttleReleaseStep | lspdFrame | rgoff | regionPowerDone | domainOnTimeout | faultAck | faultInjectArm | faultInjectCancel | minClr
  | registerWrite | blockLock => exact ⟨_, rfl, k.onChip' (k.at_ ..) _⟩
  | ldj | cpjd | qpeek | evpost | disp | trunc | pmark | halt | nop | fence | vctr | tload | tcopy | stage | check | commitw | committ | abandon
  | restorefac | calsave | movs | waitw | waitt | waitq | div | rem | muldiv | clz | popc | li | lui | ext | movw | movg | addw | wdiff | setCond
  | jalr => exact ⟨_, rfl, k.issueC ..⟩
  | add | sub | mul | mulh | and | or | xor | andn | shl | shr | sar | ror | min | max => exact ⟨_, rfl, k.alu ..⟩
  | branch | brw | jal | loop => exact ⟨_, rfl, k.branchTo ..⟩
  | ldd | place | qsend => exact ⟨_, rfl, k.issueD _ _ _ _ _ fun u _ => k.onChip u _⟩
  | trap => exact ⟨_, rfl, k.ite (k.issueC ..) (k.ite (k.refl s) (k.issueC ..))⟩
  | vtext => exact ⟨_, rfl, k.compose ..⟩
  | vsym n f r => exact k.vsym n f r s
  | tileFetchDone => exact ⟨_, rfl, k.trans (k.at_ s _) (k.tileFetch ..)⟩
  | passStart => exact ⟨_, rfl, k.trans (k.at_ s _) (k.ite (k.startPass ..) (k.refl _))⟩
  | tableLoadDone => exact ⟨_, rfl, k.trans (k.onChip' (k.at_ s _) _) (k.tableDone ..)⟩
  | codecStallTimeout t job since => exact k.codecStallTimeout t job since s
  | jtagInstruction t j => exact k.jtag t j s (pub t j rfl)
  | registerRead t m a whole => exact k.registerRead t m a whole s
  | echo | ack | fireReport | tempRecord | hubInfo | eeReply | claimReply => exact ⟨_, rfl, k.trans (k.at_ s _) (k.record _ _ _ _ _ _ fun _ u => k.onChip u _)⟩
  | alloc => exact ⟨_, rfl, k.store _ _ _ _ _ _ (k.alloc _)⟩
  | free => exact ⟨_, rfl, k.store _ _ _ _ _ _ (k.free _)⟩
  | setrights => exact ⟨_, rfl, k.store _ _ _ _ _ _ (k.setrights _)⟩
  | sealAlloc => exact ⟨_, rfl, k.store _ _ _ _ _ _ (k.seal _)⟩
  | unsealAlloc => exact ⟨_, rfl, k.store _ _ _ _ _ _ (k.unseal _)⟩
  | read => exact ⟨_, rfl, k.store _ _ _ _ _ _ (k.read _ _)⟩
  | compress | decompress => exact ⟨_, rfl, k.store _ _ _ _ _ _ (k.codec _ _)⟩
  | report => exact ⟨_, rfl, k.store _ _ _ _ _ _ (k.report _ _ _ _)⟩
  | sendAt => exact ⟨_, rfl, k.host _ _ _ _ _ _ _ (k.sendAt _)⟩
  | run => exact ⟨_, rfl, k.host _ _ _ _ _ _ _ (k.run _)⟩
  | stop => exact ⟨_, rfl, k.host _ _ _ _ _ _ _ fun _ u => k.done' (k.onChip u _) ..⟩
  | fireArm => exact ⟨_, rfl, k.host _ _ _ _ _ _ _ (k.fireArm _)⟩
  | regRead => exact ⟨_, rfl, k.host _ _ _ _ _ _ _ (k.regReadCommand _)⟩
  | regWrite => exact ⟨_, rfl, k.host _ _ _ _ _ _ _ (k.regWriteCommand _)⟩
  | setCivil => exact ⟨_, rfl, k.host _ _ _ _ _ _ _ fun _ u => k.done' (k.ite (k.onChip u _) (k.refl u)) ..⟩
  | status => exact ⟨_, rfl, k.host _ _ _ _ _ _ _ fun _ u => k.done u ..⟩
  | stageQuery => exact ⟨_, rfl, k.host _ _ _ _ _ _ _ fun _ u => k.trans (k.chip u _) (k.stageDone ..)⟩
  | stageCalsave => exact ⟨_, rfl, k.host _ _ _ _ _ _ _ fun _ u => k.stageCtl _ _ _ _ _ (k.trans (k.chip u _) (k.stageDone ..))⟩
  | stageCheck | stageCommitw => exact ⟨_, rfl, k.stageC _ _ _ _ _ fun _ u => k.stageCtl _ _ _ _ _ (k.trans (k.chip u _) (k.stageDone ..))⟩
  | stageCommitt | stageRestorefac =>
    exact ⟨_, rfl, k.stageC _ _ _ _ _ fun _ u => k.stageCtl _ _ _ _ _ (k.trans (k.onChip u _) (k.stageDone ..))⟩
  | stageAbandon => exact ⟨_, rfl, k.stageC _ _ _ _ _ fun _ u => k.trans (k.chip u _) (k.stageDone ..)⟩
  | stageTload t q => exact k.stageTload t q s

end

/-! ### Commands that store -/

theorem wf_qrecv (n : CtxId) (f : Fields) (s : State) : GoesOn wfMem (.qrecv n f) s := by
  refine ⟨_, rfl, kept_wf.issue _ _ _ _ ?_⟩
  dsimp only
  split
  · exact kept_wf.onChip ..
  · exact kept_wf.onChip' (kept_wf.trans (kept_wf.chip s _) (wf_storeD ..)) _

theorem wf_codecJobDone (t job : Nat) (r : Ecc) (bad : List Nat) (v : Bool) (s : State) : GoesOn wfMem (.codecJobDone t job r bad v) s := by
  refine ⟨_, rfl, kept_wf.trans (kept_wf.at_ s t) ?_⟩
  split
  · exact kept_wf.ite (kept_wf.ite (kept_wf.trans (kept_wf.onChip ..) (kept_wf.twinJob ..)) (kept_wf.refl _))
      (kept_wf.ite (wf_sealJob ..) (wf_hostJob ..))
  · exact kept_wf.refl _

/-- A command that stores goes on, and keeps the canonical form of memory. -/
theorem goesOn_of_stores (i : Instr) (s : State) (h : i.stores = true) : GoesOn wfMem i s := by
  cases i with
  | std => exact ⟨_, rfl, kept_wf.issue _ _ _ _ (kept_wf.onChip' (wf_storeD ..) _)⟩
  | stj => exact ⟨_, rfl, kept_wf.issue _ _ _ _ (kept_wf.onChip' (wf_storeJ ..) _)⟩
  | aadd | acas => exact ⟨_, rfl, wf_atomicD ..⟩
  | cpdj => exact ⟨_, rfl, kept_wf.issueD _ _ _ _ _ fun u _ => kept_wf.onChip' (wf_storeJ u ..) _⟩
  | jobStoreAccessDone => exact ⟨_, rfl, kept_wf.trans (kept_wf.onChip' (kept_wf.at_ s _) _) (wf_jobStoreDone ..)⟩
  | qrecv n f => exact wf_qrecv n f s
  | vfmt | vdate | vchk => exact ⟨_, rfl, kept_wf.issueD _ _ _ _ _ fun u _ => wf_appendText _ _ _ _ u⟩
  | write => exact ⟨_, rfl, kept_wf.store _ _ _ _ _ _ (wf_writeBody _ _)⟩
  | codecJobDone t job r bad v => exact wf_codecJobDone t job r bad v s
  | loadProgram => exact ⟨_, rfl, kept_wf.host _ _ _ _ _ _ _ (wf_loadBody _ _)⟩
  | epochRecord => exact ⟨_, rfl, kept_wf.trans (kept_wf.at_ s _) (kept_wf.record _ _ _ _ _ _ (wf_epochRecord _))⟩
  | ropeJrn => exact ⟨_, rfl, kept_wf.trans (kept_wf.at_ s _) (wf_ropeJrn ..)⟩
  | snapshotAdopt => exact ⟨_, rfl, kept_wf.trans (kept_wf.at_ s _) (kept_wf.ite (wf_adopt _) (kept_wf.refl _))⟩
  | pwrgoodRise => exact ⟨_, rfl, kept_wf.trans (kept_wf.at_ s _) (kept_wf.ite (kept_wf.refl _) (kept_wf.trans (kept_wf.onChip ..) (wf_startUp ..)))⟩
  | pwrgoodFall => exact ⟨_, rfl, kept_wf.trans (kept_wf.at_ s _) (kept_wf.ite (wf_powerFall _) (kept_wf.refl _))⟩
  | shutdownDone => exact ⟨_, rfl, kept_wf.trans (kept_wf.at_ s _) (kept_wf.ite (kept_wf.trans (kept_wf.onChip ..) (wf_powerDown ..)) (kept_wf.refl _))⟩
  | shutdownPowerDown => exact ⟨_, rfl, kept_wf.trans (kept_wf.at_ s _) (kept_wf.ite (kept_wf.onChip' (wf_powerDown ..) _) (kept_wf.refl _))⟩
  | thermalSample => exact ⟨_, rfl, kept_wf.trans (kept_wf.at_ s _) (wf_thermal ..)⟩
  | _ => nomatch h

/-! ### Every command, every step -/

/-- With FTM low, or for a public instruction, the captured instruction is a public one. -/
theorem Chip.jtagTakes_public {c : Chip} {j : JtagOp} (h : j = .other → c.get SYS_STRAP_FTM = 0) : c.jtagTakes j ≠ .other := by
  by_cases low : c.get SYS_STRAP_FTM = 0
  · by_cases open_ : c.get SEQ_PSTAT_OPEN = 0
    · by_cases private_ : j = .other
      · rw [private_, Chip.jtagTakes_private low]
        decide
      · rwa [Chip.jtagTakes_of_closed open_ private_]
    · exact (Chip.jtagTakes_during_run j low open_).1
  · rw [Chip.jtagTakes_of_test j low]
    exact fun private_ => low (h private_)

/-- A command that goes on keeps the canonical form of memory, and the queue. -/
theorem wf_exec {i : Instr} {s u : State} (h : exec i s = .next u) : wfMem s u := by
  by_cases stores : i.stores = true
  · obtain ⟨v, hv, wf⟩ := goesOn_of_stores i s stores
    cases hv.symm.trans h
    exact wf
  · have pub (t : Nat) (j : JtagOp) (hj : i = .jtagInstruction t j) : (s.at_ t).chip.jtagTakes j ≠ .other := by
      refine Chip.jtagTakes_public fun private_ => Classical.not_not.1 fun test => ?_
      rw [hj, private_, exec_jtagInstruction_private test] at h
      cases h
    obtain ⟨v, hv, wf⟩ := kept_wf.goesOn i s (Bool.eq_false_iff.2 stores) pub
    cases hv.symm.trans h
    exact wf

/-- Settles O56: only a JTAG instruction that the spec gives no meaning, with FTM high, is refused; any other command that stores nothing changes the chip alone,
and one that stores keeps the queue. -/
theorem everyCommandGoesOn : Obligations.EveryCommandGoesOn := by
  unfold Obligations.EveryCommandGoesOn
  intro i s
  by_cases refused : ∃ t, i = .jtagInstruction t .other ∧ (s.at_ t).chip.get SYS_STRAP_FTM ≠ 0
  · obtain ⟨t, rfl, test⟩ := refused
    exact .inl ⟨t, rfl, test, exec_jtagInstruction_private test⟩
  · have low (t : Nat) (h : i = .jtagInstruction t .other) : (s.at_ t).chip.get SYS_STRAP_FTM = 0 :=
      Classical.not_not.1 fun test => refused ⟨t, h, test⟩
    refine .inr ⟨low, ?_⟩
    by_cases h : i.stores = true
    · obtain ⟨u, hu, same, -⟩ := goesOn_of_stores i s h
      exact ⟨u, hu, same, fun still => absurd (h.symm.trans still) (by decide)⟩
    · have pub (t : Nat) (j : JtagOp) (hj : i = .jtagInstruction t j) : (s.at_ t).chip.jtagTakes j ≠ .other := by
        refine Chip.jtagTakes_public fun private_ => low t ?_
        rw [hj, private_]
      obtain ⟨u, hu, same, mem⟩ := kept_same.goesOn i s (Bool.eq_false_iff.2 h) pub
      exact ⟨u, hu, same, fun _ => mem⟩

/-- Settles O57: a step is a command, or time that passes. -/
theorem everyStepKeepsMemoryCanonical : Obligations.EveryStepKeepsMemoryCanonical := by
  unfold Obligations.EveryStepKeepsMemoryCanonical
  intro s u canonical h
  unfold step at h
  split at h
  · cases h
    exact (kept_wf.tick s).2 canonical
  · exact (wf_exec h).2 canonical

/-- Settles O54: by definition of a step; a tick changes the chip alone. -/
theorem stepRunsFrontCommand : Obligations.StepRunsFrontCommand := by
  unfold Obligations.StepRunsFrontCommand
  refine ⟨fun i s => rfl, fun s h => ⟨s.tick, ?_, ?_, (kept_same.tick s).2, rfl⟩⟩
  · rw [step, h]
  · rw [(kept_same.tick s).1, h]

/-- Settles O58: the state after reset holds nothing but reset values. -/
theorem resetIsCanonical : Obligations.ResetIsCanonical := by
  unfold Obligations.ResetIsCanonical
  exact ⟨⟨FMap.wf_nil _, FMap.wf_nil _, FMap.wf_nil _⟩, rfl, rfl, rfl, rfl, fun _ => rfl, fun _ => rfl⟩

end Sys2Proof.Machine
end

section
/-!
PROOFS. Facts about the chip that the instructions of the sequencer share: what stands after a report, after waking contexts, after a journal
entry, and after an instruction that writes gD, goes on and is journalled.
-/
namespace Sys2Proof.Machine

/-! ### Conditions -/

/-- A choice by an equivalent condition. -/
theorem ite_of_iff {α : Sort _} {p q : Prop} [Decidable p] [Decidable q] {x y u v : α} (h : p ↔ q) (yes : x = u) (no : y = v) :
    (if p then x else y) = if q then u else v := ite_congr (propext h) (fun _ => yes) fun _ => no

/-! ### Traps that do not apply -/

theorem bit_toNat {w : Nat} (v : BitVec w) (i : Nat) : bit v.toNat i = v.getLsbD i := by
  rw [bit, BitVec.getLsbD, Nat.testBit_eq_decide_div_mod_eq]

@[simp] theorem trapIf_eq_nil {p : Bool} {code : Nat} : trapIf p code = [] ↔ p = false := by
  unfold trapIf
  cases p <;> simp

@[simp] theorem dTraps_eq_nil {a k al : Nat} : dTraps a k al = [] ↔ a % al = 0 ∧ a + k ≤ 0x100000 := by
  simp [dTraps, dOut]

theorem issueD_of_nil {n : CtxId} {s : State} {tr : List Nat} (h : Ready n s) {r : Ecc} (hr : r ≠ .uncorrectable) (ht : tr = [])
    (eff : State → State) : issueD n r tr eff s = eff (s.onChip (·.dRead r)) := by rw [ht, issueD_ready h hr]

/-! ### After a report -/

section
variable {c d : Chip} (h : c.like d)
include h

theorem Chip.like_strm : d.strm = c.strm := (congrArg Chip.strm h.1 : d.kept.strm = c.kept.strm)
theorem Chip.like_stage : d.stage = c.stage := (congrArg Chip.stage h.1 : d.kept.stage = c.kept.stage)
theorem Chip.like_vd : d.vd = c.vd := (congrArg Chip.vd h.1 : d.kept.vd = c.kept.vd)
theorem Chip.like_store : d.store = c.store := (congrArg Chip.store h.1 : d.kept.store = c.kept.store)
theorem Chip.like_colour : d.colour = c.colour := (congrArg Chip.colour h.1 : d.kept.colour = c.kept.colour)
theorem Chip.like_health : d.health = c.health := (congrArg Chip.health h.1 : d.kept.health = c.kept.health)
theorem Chip.like_time : d.time = c.time := (congrArg Chip.time h.1 : d.kept.time = c.kept.time)
theorem Chip.like_dt : d.dt = c.dt := (congrArg Chip.dt h.1 : d.kept.dt = c.kept.dt)

theorem Chip.like_pitch : d.pitch = c.pitch := by rw [Chip.pitch, Chip.pitch, Chip.like_strm h, Chip.like_stage h]

theorem Chip.like_op2 (n : Nat) (f : Fields) : d.op2 n f = c.op2 n f := by rw [Chip.op2, Chip.op2, Chip.like_g h]

end

/-! ### Contexts that wake -/

/-- A field in which neither the state nor the wait of a context shows. -/
def Fld.calm (h : Fld) : Prop := h.key / 128 < 0x10100 ∨ h.key / 128 % 16 = 4 ∨ h.key / 128 % 16 = 12

theorem Chip.leaves_calm_set (c : Chip) (off lo w r v : Nat) (hl : lo < 128) (ho : 0x100 ≤ off) (hm : off % 16 = 0 ∨ off % 16 = 8) :
    c.leaves Fld.calm (c.set (fld .seq 0 off lo w r) v) :=
  c.leaves_set _ v fun h hh e => by
    simp only [Fld.calm, e, fld, Blk.base] at hh
    omega

theorem Chip.leaves_calm_setCtxState (c : Chip) (n v : Nat) : c.leaves Fld.calm (c.setCtxState n v) :=
  c.leaves_calm_set _ _ _ _ v (by omega) (by omega) (by omega)

theorem Chip.leaves_calm_resume (c : Chip) (n : Nat) : c.leaves Fld.calm (c.resume n) :=
  Chip.leaves_trans (c.leaves_calm_setCtxState n RUNNABLE) (Chip.leaves_trans (Chip.leaves_calm_set _ _ _ _ _ 0 (by omega) (by omega) (by omega))
    (Chip.leaves_calm_set _ _ _ _ _ 0 (by omega) (by omega) (by omega)))

theorem Chip.leaves_calm_wakeKind (c : Chip) (k : Nat) : c.leaves Fld.calm (c.wakeKind k) :=
  Chip.leaves_foldl Chip.resume Chip.leaves_calm_resume _ c

/-- What a change of one chip after another leaves, where each does. -/
theorem Chip.forAll_congr {α β : Type} (p : Chip → β) (g : Chip → α → Chip) (hg : ∀ c a, p (g c a) = p c) (xs : List α) (c : Chip) :
    p (c.forAll xs g) = p c := by
  unfold Chip.forAll
  induction xs generalizing c with
  | nil => rfl
  | cons x xs ih => exact (ih _).trans (hg c x)

/-- All state but the register fields. -/
def Chip.unlisted (c : Chip) : Chip := { c with regs := [] }

theorem Chip.unlisted_wakeKind (c : Chip) (k : Nat) : (c.wakeKind k).unlisted = c.unlisted := Chip.forAll_congr Chip.unlisted Chip.resume (fun _ _ => rfl) _ c

theorem Chip.wakeKind_strm (c : Chip) (k : Nat) : (c.wakeKind k).strm = c.strm := (congrArg Chip.strm (c.unlisted_wakeKind k) :)

/-! ### The journal -/

/-- A journal entry writes no g and no w, and no register field but JSEQ. -/
theorem Chip.leaves_jrn (c : Chip) (k : JKind) (as : List Nat) (bs : List Byte) :
    c.leaves (fun h => h.key ≠ TW_JSEQ_JSEQ.key) (c.jrn k as bs) := by
  refine ⟨fun m i _ => ?_, fun m i _ => ?_, fun h hk => c.jrn_get k as bs h hk⟩
  · rw [Chip.g, Chip.jrn_seq, Chip.g]
  · rw [Chip.w, Chip.jrn_seq, Chip.w]

theorem Chip.unjournalled_jrn (c : Chip) (k : JKind) (as : List Nat) (bs : List Byte) : (c.jrn k as bs).unjournalled = c.unjournalled := by
  unfold Chip.jrn
  split <;> rfl

/-! ### An instruction that writes gD, goes on and is journalled -/

section
variable (c : Chip) (n : CtxId) (gd : BitVec 5) (v : W64)

/-- The end of an instruction that writes v to gD. -/
def Chip.finish : Chip := ((c.setG n gd.toNat v).next n).ckpt n

theorem Chip.leaves_ckpt (c : Chip) (n : Nat) : c.leaves (fun h => h.key ≠ TW_JSEQ_JSEQ.key) (c.ckpt n) := by
  unfold Chip.ckpt
  split
  · exact c.leaves_jrn ..
  · exact c.leaves_refl _

theorem Chip.unjournalled_ckpt (c : Chip) (n : Nat) : (c.ckpt n).unjournalled = c.unjournalled := by
  unfold Chip.ckpt
  split
  · exact c.unjournalled_jrn ..
  · rfl

/-- A field of the program counter of a context is not JSEQ. -/
theorem seq_key_ne_jseq (off lo w r : Nat) (ho : off < 0x10000) (hl : lo < 128) : (fld .seq 0 off lo w r).key ≠ TW_JSEQ_JSEQ.key :=
  seq_not_time off lo w r ho hl _ (by simp [timeFields])

theorem Chip.finish_pc : (c.finish n gd v).pc n = (c.pc n + 1) % 2 ^ 19 := by
  refine ((Chip.leaves_ckpt _ n).2.2 _ (seq_key_ne_jseq _ _ _ _ (by omega) (by omega))).trans ?_
  rw [← Chip.setG_pc c n gd.toNat n v]
  exact Chip.pc_next ..

theorem Chip.finish_g : ∀ m i, i < 32 → (c.finish n gd v).g m i = if m = n.val ∧ i = gd.toNat ∧ gd ≠ 0 then v else c.g m i := fun m i hi =>
  ((Chip.leaves_ckpt _ n).1 m i hi).trans ((Chip.setG_set_frame c n gd v (SEQ_CPC_PC n) _).1 m i hi)

theorem Chip.finish_w : sameW c (c.finish n gd v) := fun m i hi =>
  ((Chip.leaves_ckpt _ n).2.1 m i hi).trans ((Chip.setG_set_frame c n gd v (SEQ_CPC_PC n) _).2.1 m i hi)

theorem Chip.finish_get (h : Fld) (hp : h.key ≠ (SEQ_CPC_PC n).key) (hj : h.key ≠ TW_JSEQ_JSEQ.key) : (c.finish n gd v).get h = c.get h :=
  ((Chip.leaves_ckpt _ n).2.2 h hj).trans ((Chip.get_set_ne _ _ _ _ hp).trans (Chip.setG_get ..))

theorem Chip.finish_unjournalled : (c.finish n gd v).unjournalled = c.unjournalled := by
  refine (Chip.unjournalled_ckpt _ n).trans ?_
  have bare : ((c.setG n gd.toNat v).next n).bare = c.bare := Chip.setG_bare c n gd.toNat v
  rw [Chip.unjournalled, Chip.unjournalled, bare]
  rw [show ((c.setG n gd.toNat v).next n).twin = c.twin from Chip.setG_twin ..]

theorem Chip.finish_strm : (c.finish n gd v).strm = c.strm := (congrArg Chip.strm (c.finish_unjournalled n gd v) :)
theorem Chip.finish_stage : (c.finish n gd v).stage = c.stage := (congrArg Chip.stage (c.finish_unjournalled n gd v) :)

end

end Sys2Proof.Machine
end

section
/-!
PROOFS. Placement (R78, R83, R86 to R91): what appending a record and retiring the ones no longer outstanding do to the stream; from these,
what place does.
-/
namespace Sys2Proof.Machine

/-! ### Records that retire -/

/-- Which records are outstanding depends on the bars, the tables and the pitch. -/
theorem Chip.outstanding_congr {c d : Chip} (bars : d.bars = c.bars) (stage : d.stage = c.stage) (pitch : d.pitch = c.pitch) :
    d.outstanding = c.outstanding := by
  have setOf : d.setOf = c.setOf := by funext k; rw [Chip.setOf, Chip.setOf, stage]
  have enabled : d.enabledBars = c.enabledBars := by rw [Chip.enabledBars, Chip.enabledBars, setOf]
  have past : d.startedPast = c.startedPast := by funext k e; rw [Chip.startedPast, Chip.startedPast, pitch, Chip.bar, Chip.bar, bars]
  funext r
  rw [Chip.outstanding, Chip.outstanding, enabled, past]

theorem Chip.freeSlots_strm (c : Chip) (is : List Nat) : (c.forAll is Chip.freeSlot).strm = c.strm :=
  Chip.forAll_congr Chip.strm Chip.freeSlot (fun _ _ => rfl) is c

/-- Retiring keeps the outstanding records, and the greatest END of the others. -/
theorem Chip.retire_strm (c : Chip) :
    c.retire.strm = { c.strm with
      recs := c.strm.recs.filter c.outstanding,
      maxEnd := max c.strm.maxEnd (greatest ((c.strm.recs.filter fun x => x.isContent && !c.outstanding x).map (·.stop))) } := by
  unfold Chip.retire
  dsimp only
  split
  next none =>
    have all : ∀ r ∈ c.strm.recs, c.outstanding r = true := by simpa [List.filter_eq_nil_iff] using none
    have kept : c.strm.recs.filter c.outstanding = c.strm.recs := List.filter_eq_self.2 all
    have ended : c.strm.recs.filter (fun x => x.isContent && !c.outstanding x) = [] :=
      List.filter_eq_nil_iff.2 fun r hr => by simp [all r hr]
    rw [kept, ended]
    simp [greatest]
  next =>
    rw [Chip.wakeKind_strm, Chip.wakeKind_strm, Chip.freeSlots_strm, List.filter_filter]

theorem Chip.leaves_retire (c : Chip) : c.leaves Fld.calm c.retire := by
  unfold Chip.retire
  dsimp only
  split
  · exact c.leaves_refl _
  · refine Chip.leaves_trans ?_ (Chip.leaves_trans (Chip.leaves_calm_wakeKind _ 8) (Chip.leaves_calm_wakeKind _ 9))
    exact Chip.leaves_foldl Chip.freeSlot (fun c _ => ⟨fun _ _ _ => rfl, fun _ _ _ => rfl, fun _ _ => rfl⟩) _ _

/-! ### Appending a record -/

section
variable (c : Chip) (r : Rec) (keep : Bool)

/-- A record with its SEQ in the stream, before any retires. -/
def Chip.append : Chip :=
  let d := c.count SEQ_PSEQ_NEXT_SEQ
  let q := { r with seq := c.get SEQ_PSEQ_NEXT_SEQ }
  { d with strm := { c.strm with
      recs := if keep then c.strm.recs ++ [q] else c.strm.recs,
      live := if r.isContent && keep then c.strm.live.filter (fun e => (c.w 0 0).toNat < e.2) ++ [(q.seq, r.stop)] else c.strm.live } }

/-- The greatest number of active records so far (R83). -/
def Chip.notePeak : Chip := if c.get SEQ_PSTAT_PEAK < c.activeCount then c.set SEQ_PSTAT_PEAK c.activeCount else c

theorem Chip.appendRec_eq : c.appendRec r keep =
    ((c.append r keep).notePeak.jrn .record (b2n keep :: ({ r with seq := c.get SEQ_PSEQ_NEXT_SEQ } : Rec).nums)).retire := rfl

/-- A field that appending a record does not write. -/
def Fld.apart (h : Fld) : Prop :=
  h.calm ∧ h.key ≠ SEQ_PSEQ_NEXT_SEQ.key ∧ h.key ≠ SEQ_PSTAT_PEAK.key ∧ h.key ≠ TW_JSEQ_JSEQ.key

theorem Chip.leaves_append : c.leaves (fun h => h.key ≠ SEQ_PSEQ_NEXT_SEQ.key) (c.append r keep) := c.leaves_set _ _ fun _ => id

theorem Chip.leaves_notePeak : c.leaves (fun h => h.key ≠ SEQ_PSTAT_PEAK.key) c.notePeak := by
  unfold Chip.notePeak
  split
  · exact c.leaves_set _ _ fun _ => id
  · exact c.leaves_refl _

/-- After the record, appending writes the peak, the journal, and the contexts that wake. -/
theorem Chip.leaves_append_appendRec :
    (c.append r keep).leaves (fun h => h.calm ∧ h.key ≠ SEQ_PSTAT_PEAK.key ∧ h.key ≠ TW_JSEQ_JSEQ.key) (c.appendRec r keep) := by
  rw [Chip.appendRec_eq]
  exact Chip.leaves_trans (Chip.leaves_mono (fun h p => p.2.1) (Chip.leaves_notePeak _)) (Chip.leaves_trans
    (Chip.leaves_mono (fun h p => p.2.2) (Chip.leaves_jrn ..)) (Chip.leaves_mono (fun h p => p.1) (Chip.leaves_retire _)))

theorem Chip.leaves_appendRec : c.leaves Fld.apart (c.appendRec r keep) :=
  Chip.leaves_trans (Chip.leaves_mono (fun _ p => p.2.1) (c.leaves_append r keep))
    (Chip.leaves_mono (fun _ p => ⟨p.1, p.2.2⟩) (c.leaves_append_appendRec r keep))

theorem Chip.appendRec_next : (c.appendRec r keep).get SEQ_PSEQ_NEXT_SEQ = (c.get SEQ_PSEQ_NEXT_SEQ + 1) % 2 ^ 32 :=
  ((c.leaves_append_appendRec r keep).2.2 _ (by unfold Fld.calm; decide)).trans (Chip.get_set_same c ..)

/-- What stays of a chip when a record is appended, but for the stream. -/
theorem Chip.notePeak_strm : c.notePeak.strm = c.strm := by
  unfold Chip.notePeak
  split <;> rfl

theorem Chip.notePeak_bars : c.notePeak.bars = c.bars := by
  unfold Chip.notePeak
  split <;> rfl

theorem Chip.notePeak_stage : c.notePeak.stage = c.stage := by
  unfold Chip.notePeak
  split <;> rfl

theorem Chip.appendRec_strm :
    let rs := if keep then c.strm.recs ++ [{ r with seq := c.get SEQ_PSEQ_NEXT_SEQ }] else c.strm.recs
    (c.appendRec r keep).strm.recs = rs.filter c.outstanding ∧
    (c.appendRec r keep).strm.maxEnd = max c.strm.maxEnd (greatest ((rs.filter fun x => x.isContent && !c.outstanding x).map (·.stop))) := by
  intro rs
  rw [Chip.appendRec_eq]
  generalize b2n keep :: _ = nums
  have bare : ((c.append r keep).notePeak.jrn .record nums).unjournalled = (c.append r keep).notePeak.unjournalled := Chip.unjournalled_jrn ..
  have strm : ((c.append r keep).notePeak.jrn .record nums).strm = (c.append r keep).strm := by rw [Chip.jrn_strm, Chip.notePeak_strm]
  have stage : ((c.append r keep).notePeak.jrn .record nums).stage = c.stage :=
    (congrArg Chip.stage bare :).trans (Chip.notePeak_stage _)
  have same : ((c.append r keep).notePeak.jrn .record nums).outstanding = c.outstanding := by
    refine Chip.outstanding_congr ((congrArg Chip.bars bare :).trans (Chip.notePeak_bars _)) stage ?_
    rw [Chip.pitch, Chip.pitch, strm, stage]
    rfl
  rw [Chip.retire_strm, same, strm]
  exact ⟨rfl, rfl⟩

end

/-! ### Placing -/

theorem Chip.leaves_markPlaced (c : Chip) (r : Rec) (P : Fld → Prop) : c.leaves P (c.markPlaced r) := by
  unfold Chip.markPlaced
  split <;> exact ⟨fun _ _ _ => rfl, fun _ _ _ => rfl, fun _ _ => rfl⟩

/-- Marking the slot of a FIELD record as placed changes the slots alone. -/
theorem Chip.markPlaced_slots (c : Chip) (r : Rec) : ∃ x, c.markPlaced r = { c with vd := x } := by
  unfold Chip.markPlaced
  split <;> exact ⟨_, rfl⟩

section
variable {c : Chip} {n : CtxId} {gd : BitVec 5} {r : Rec} {len : Nat}

/-- A record on or beyond the horizon of its bars is appended as it is. -/
theorem Chip.place_onTime (h : c.maskHorizon r.bars ≤ (c.w 0 0).toNat) :
    c.place n gd.toNat r len =
      let q := { r with start := (c.w 0 0).toNat, stop := (c.w 0 0).toNat + len }
      ((c.markPlaced q).appendRec q true).finish n gd (BitVec.ofNat 64 (c.get SEQ_PSEQ_NEXT_SEQ)) := by
  simp only [Chip.place, decide_eq_false (Nat.not_lt.2 h), Bool.false_and, Bool.false_eq_true, if_false, Bool.not_false, Nat.add_zero, Chip.finish]

/-- A late one that ends beyond the horizon starts there. -/
theorem Chip.place_clipped (h : (c.w 0 0).toNat < c.maskHorizon r.bars) (k : c.maskHorizon r.bars < (c.w 0 0).toNat + len) :
    c.place n gd.toNat r len =
      let q := { r with start := c.maskHorizon r.bars, stop := (c.w 0 0).toNat + len, flags := r.flags + 4 }
      (((c.markPlaced q).appendRec q true).noteLate false).finish n gd (BitVec.ofNat 64 (c.get SEQ_PSEQ_NEXT_SEQ + 2 ^ 62)) := by
  simp only [Chip.place, decide_eq_true h, decide_eq_false (Nat.not_le.2 k), Bool.and_false, if_true, Bool.false_eq_true, if_false, Bool.not_false,
    Nat.add_zero, Chip.finish]

/-- A late one that does not is discarded. -/
theorem Chip.place_discarded (h : (c.w 0 0).toNat < c.maskHorizon r.bars) (k : (c.w 0 0).toNat + len ≤ c.maskHorizon r.bars) :
    c.place n gd.toNat r len =
      let q := { r with start := c.maskHorizon r.bars, stop := (c.w 0 0).toNat + len, flags := r.flags + 4 }
      ((c.appendRec q false).noteLate true).finish n gd (BitVec.ofNat 64 (c.get SEQ_PSEQ_NEXT_SEQ + 2 ^ 62 + 2 ^ 63)) := by
  simp only [Chip.place, decide_eq_true h, decide_eq_true k, Bool.and_true, if_true, Bool.not_true, Chip.finish]

end

/-! ### Counting late placements (R91) -/

/-- The count of a late placement, before its report. -/
def Chip.countLate (c : Chip) (discarded : Bool) : Chip := if discarded then c.bump SEQ_PLATE_DISCARDED else c.bump SEQ_PLATE_CLIPPED

theorem Chip.like_noteLate (c : Chip) (b : Bool) : (c.countLate b).like (c.noteLate b) := Chip.like_raise_seq ..

theorem Chip.noteLate_strm (c : Chip) (b : Bool) : (c.noteLate b).strm = c.strm := by
  rw [Chip.like_strm (c.like_noteLate b), Chip.countLate]
  split <;> rfl

/-- A field that counting a late placement does not write. -/
def Fld.notLate (h : Fld) : Prop := h.still ∧ h.key / 128 ≠ 0x10070

theorem Chip.leaves_countLate (c : Chip) (b : Bool) : c.leaves Fld.notLate (c.countLate b) := by
  have ne (lo : Nat) (hl : lo < 128) (h : Fld) (hh : h.notLate) : h.key ≠ (fld .seq 0 0x70 lo 16 0).key := fun e => by
    simp only [Fld.notLate, e, fld, Blk.base] at hh
    omega
  unfold Chip.countLate
  split
  · exact c.leaves_set _ _ (ne 16 (by decide))
  · exact c.leaves_set _ _ (ne 0 (by decide))

theorem Chip.leaves_noteLate (c : Chip) (b : Bool) : c.leaves Fld.notLate (c.noteLate b) :=
  Chip.leaves_trans (c.leaves_countLate b) (Chip.leaves_of_like (fun _ h => h.1) (c.like_noteLate b))

theorem still_plate (lo : Nat) (hl : lo < 128) : (fld .seq 0 0x70 lo 16 0).still := still_seq _ _ _ _ (by decide) (by decide) (by decide) hl

theorem Chip.bump_get_16 (c : Chip) (lo : Nat) : (c.bump (fld .seq 0 0x70 lo 16 0)).get (fld .seq 0 0x70 lo 16 0) =
    min (c.get (fld .seq 0 0x70 lo 16 0) + 1) 65535 := by
  refine (Chip.get_set_same ..).trans (Nat.mod_eq_of_lt ?_)
  simp only [satAdd, fld]
  omega

theorem Chip.noteLate_clipped (c : Chip) : (c.noteLate false).get SEQ_PLATE_CLIPPED = min (c.get SEQ_PLATE_CLIPPED + 1) 65535 ∧
    (c.noteLate false).get SEQ_PLATE_DISCARDED = c.get SEQ_PLATE_DISCARDED :=
  ⟨((c.like_noteLate false).2 _ (still_plate 0 (by decide))).trans (c.bump_get_16 0),
    ((c.like_noteLate false).2 _ (still_plate 16 (by decide))).trans (Chip.get_set_ne _ _ _ _ (by decide))⟩

theorem Chip.noteLate_discarded (c : Chip) : (c.noteLate true).get SEQ_PLATE_CLIPPED = c.get SEQ_PLATE_CLIPPED ∧
    (c.noteLate true).get SEQ_PLATE_DISCARDED = min (c.get SEQ_PLATE_DISCARDED + 1) 65535 :=
  ⟨((c.like_noteLate true).2 _ (still_plate 0 (by decide))).trans (Chip.get_set_ne _ _ _ _ (by decide)),
    ((c.like_noteLate true).2 _ (still_plate 16 (by decide))).trans (c.bump_get_16 16)⟩

/-! ### What placing does to the stream -/

/-- From c to d record r has been given a SEQ, kept in the stream or not, and the records no longer outstanding have retired. -/
def Chip.Appends (r : Rec) (keep : Bool) (c d : Chip) : Prop :=
  let rs := if keep then c.strm.recs ++ [{ r with seq := c.get SEQ_PSEQ_NEXT_SEQ }] else c.strm.recs
  c.leaves (fun h => h.apart ∧ h.notLate) d ∧ d.get SEQ_PSEQ_NEXT_SEQ = (c.get SEQ_PSEQ_NEXT_SEQ + 1) % 2 ^ 32 ∧
  d.strm.recs = rs.filter c.outstanding ∧
  d.strm.maxEnd = max c.strm.maxEnd (greatest ((rs.filter fun x => x.isContent && !c.outstanding x).map (·.stop)))

section
variable {r : Rec} {keep : Bool} {c d : Chip}

theorem Chip.appends_appendRec (c : Chip) (r : Rec) (keep : Bool) : c.Appends r keep (c.appendRec r keep) :=
  ⟨Chip.leaves_mono (fun _ h => h.1) (c.leaves_appendRec r keep), c.appendRec_next r keep, c.appendRec_strm r keep⟩

/-- Marking a slot as placed before makes no difference. -/
theorem Chip.Appends.of_markPlaced {q : Rec} (h : (c.markPlaced q).Appends r keep d) : c.Appends r keep d := by
  obtain ⟨x, hx⟩ := c.markPlaced_slots q
  rw [hx] at h
  exact h

theorem Chip.Appends.noteLate (h : c.Appends r keep d) (b : Bool) : c.Appends r keep (d.noteLate b) := by
  obtain ⟨leaves, next, recs, maxEnd⟩ := h
  refine ⟨Chip.leaves_trans leaves (Chip.leaves_mono (fun _ h => h.2) (d.leaves_noteLate b)), ?_, ?_⟩
  · exact ((d.leaves_noteLate b).2.2 _ ⟨still_seq _ _ _ _ (by decide) (by decide) (by decide) (by decide), by decide⟩).trans next
  · rw [Chip.noteLate_strm]
    exact ⟨recs, maxEnd⟩

theorem Chip.Appends.finish (h : c.Appends r keep d) (n : CtxId) (gd : BitVec 5) (v : W64) :
    let e := d.finish n gd v
    e.pc n = (c.pc n + 1) % 2 ^ 19 ∧ sameW c e ∧ e.get SEQ_PSEQ_NEXT_SEQ = (c.get SEQ_PSEQ_NEXT_SEQ + 1) % 2 ^ 32 ∧
    (let rs := if keep then c.strm.recs ++ [{ r with seq := c.get SEQ_PSEQ_NEXT_SEQ }] else c.strm.recs
     e.strm.recs = rs.filter c.outstanding ∧
     e.strm.maxEnd = max c.strm.maxEnd (greatest ((rs.filter fun x => x.isContent && !c.outstanding x).map (·.stop)))) ∧
    ∀ m i, i < 32 → e.g m i = if m = n.val ∧ i = gd.toNat ∧ gd ≠ 0 then v else c.g m i := by
  obtain ⟨⟨sameG, sameW, fields⟩, next, strm⟩ := h
  intro e
  have pc : d.pc n = c.pc n := by
    refine fields _ ⟨⟨?_, ?_, ?_, ?_⟩, still_seq _ _ _ _ (by omega) (by omega) (by omega) (by omega), ?_⟩ <;>
      simp only [Fld.calm, SEQ_CPC_PC, SEQ_PSEQ_NEXT_SEQ, SEQ_PSTAT_PEAK, TW_JSEQ_JSEQ, fld, Blk.base] <;> omega
  have ne : SEQ_PSEQ_NEXT_SEQ.key ≠ (SEQ_CPC_PC n).key := by
    simp only [SEQ_CPC_PC, SEQ_PSEQ_NEXT_SEQ, fld, Blk.base]
    omega
  refine ⟨pc ▸ d.finish_pc n gd v, fun m i hi => (d.finish_w n gd v m i hi).trans (sameW m i hi),
    (d.finish_get n gd v _ ne (by decide)).trans next, ?_, fun m i hi => ?_⟩
  · unfold e
    rw [Chip.finish_strm]
    exact strm
  · rw [← sameG m i hi]
    exact d.finish_g n gd v m i hi

end

/-! ### The instruction -/

/-- A placement that raises no trap. -/
theorem exec_place {f : Fields} {e : Ecc} {s : State} (ready : Ready 0 s) (ecc : e ≠ .uncorrectable) :
    let a := (s.chip.g 0 f.ga.toNat).toNat
    let d := s.mem.data.read a 64
    let len := s.chip.length 0 f
    resvOp2 f 1 = [] → a % 64 = 0 → a + 64 ≤ 0x100000 → descBad d s.chip.pitch = false → handleBad s (parseDesc d) = false →
    (f.sub.getLsbD 0 = false ∨ s.chip.maskHorizon (parseDesc d).bars ≤ (s.chip.w 0 0).toNat) → 0 < len →
    (s.chip.w 0 0).toNat + len.toNat < 2 ^ 64 → s.chip.activeCount < 256 → (s.chip.dRead e).streamFull = false →
    exec (.place 0 f e) s = .next { s with chip := (s.chip.dRead e).place (0 : CtxId) f.gd.toNat (parseDesc d) len.toNat } := by
  intro a d len resv al inside desc handle late pos fits room notFull
  have strict : (bit (subOf f) 0 && decide ((s.chip.w 0 0).toNat < s.chip.maskHorizon (parseDesc d).bars)) = false := by
    rw [Bool.and_eq_false_iff, subOf, bit_toNat]
    exact late.imp id fun h => decide_eq_false (Nat.not_lt.2 h)
  have sum : ¬ 2 ^ 64 ≤ ((s.chip.w 0 0).toNat : Int) + len := by omega
  change execPlace 0 f e s = _
  unfold execPlace
  refine congrArg _ ((issueD_of_nil ready ecc ?_ _).trans ?_)
  · simp only [List.append_eq_nil_iff, trapIf_eq_nil, dTraps_eq_nil, decide_eq_false_iff_not]
    exact ⟨⟨⟨⟨⟨⟨⟨⟨resv, rfl⟩, al, inside⟩, sum⟩, desc⟩, Int.not_le.2 pos⟩, Nat.not_le.2 room⟩, strict⟩, handle⟩
  · exact congrArg (fun d => ({ s with chip := d } : State)) (if_neg (notFull ▸ Bool.false_ne_true))

/-- Settles O17: the three cases of placing, on the chip after the report of the descriptor's read, which leaves the stream, the registers and the
contexts. -/
theorem placeAppendsRecord : Obligations.PlaceAppendsRecord := by
  unfold Obligations.PlaceAppendsRecord
  intro f e s ready ecc c a r stop h seq resv al inside desc handle late pos fits room notFull ends
  have report : s.chip.like c := s.chip.like_dRead e
  have len : s.chip.length 0 f = (c.op2 0 f).toInt := by rw [Chip.length, ← Chip.like_op2 report]
  have w0 : s.chip.w 0 0 = c.w 0 0 := (Chip.like_w report 0 0).symm
  have ga : s.chip.g 0 f.ga.toNat = c.g 0 f.ga.toNat := (Chip.like_g report 0 _).symm
  have count : s.chip.activeCount = c.activeCount := by rw [Chip.activeCount, Chip.activeCount, Chip.like_strm report, w0]
  have pitch : s.chip.pitch = c.pitch := (Chip.like_pitch report).symm
  have effect := exec_place (f := f) ready ecc
  rw [len, ga, w0, count, pitch] at effect
  have effect := effect resv al inside desc handle late pos fits room notFull
  have went {t : State} (k : t.chip.pc (0 : CtxId) = (c.pc (0 : CtxId) + 1) % 2 ^ 19) : wentOn 0 s t := k.trans (by rw [Chip.like_pc report])
  have keys {lo : Nat} (hlo : lo = 0 ∨ lo = 16) : (fld .seq 0 0x70 lo 16 0).apart ∧
      (fld .seq 0 0x70 lo 16 0).key ≠ (SEQ_CPC_PC (0 : CtxId)).key ∧ (fld .seq 0 0x70 lo 16 0).key ≠ TW_JSEQ_JSEQ.key := by
    rcases hlo with rfl | rfl <;> exact ⟨by unfold Fld.apart Fld.calm; decide, by decide, by decide⟩
  have counts {d : Chip} {v : W64} {lo k : Nat} (hlo : lo = 0 ∨ lo = 16) (hd : d.get (fld .seq 0 0x70 lo 16 0) = k) :
      (d.finish 0 f.gd v).get (fld .seq 0 0x70 lo 16 0) = k :=
    (d.finish_get 0 f.gd v _ (keys hlo).2.1 (keys hlo).2.2).trans hd
  have still (q : Rec) (b : Bool) {lo : Nat} (hlo : lo = 0 ∨ lo = 16) :
      ((c.markPlaced q).appendRec q b).get (fld .seq 0 0x70 lo 16 0) = c.get (fld .seq 0 0x70 lo 16 0) :=
    (((c.markPlaced q).leaves_appendRec q b).2.2 _ (keys hlo).1).trans ((c.leaves_markPlaced q Fld.apart).2.2 _ (keys hlo).1)
  rcases Nat.lt_or_ge (c.w 0 0).toNat h with isLate | onTime
  · rcases Nat.lt_or_ge h stop with clipped | gone
    · rw [Chip.place_clipped isLate clipped] at effect
      obtain ⟨next, sameW, seqs, strm, g⟩ := ((Chip.appends_appendRec _ _ true).of_markPlaced.noteLate false).finish 0 f.gd _
      exact ⟨_, effect, rfl, went next, sameW, seqs, fun k => absurd k (Nat.not_le.2 isLate),
        fun _ _ => ⟨strm.1, strm.2, counts (.inl rfl) ((Chip.noteLate_clipped _).1.trans (by rw [SEQ_PLATE_CLIPPED, still _ _ (.inl rfl)])),
          counts (.inr rfl) ((Chip.noteLate_clipped _).2.trans (still _ _ (.inr rfl))), g⟩, fun _ k => absurd k (Nat.not_le.2 clipped)⟩
    · rw [Chip.place_discarded isLate gone] at effect
      obtain ⟨next, sameW, seqs, strm, g⟩ := ((Chip.appends_appendRec _ _ false).noteLate true).finish 0 f.gd _
      have still (q : Rec) {lo : Nat} (hlo : lo = 0 ∨ lo = 16) := (c.leaves_appendRec q false).2.2 _ (keys hlo).1
      exact ⟨_, effect, rfl, went next, sameW, seqs, fun k => absurd k (Nat.not_le.2 isLate), fun _ k => absurd gone (Nat.not_le.2 k),
        fun _ _ => ⟨strm.1, strm.2, counts (.inl rfl) ((Chip.noteLate_discarded _).1.trans (still _ (.inl rfl))),
          counts (.inr rfl) ((Chip.noteLate_discarded _).2.trans (by rw [SEQ_PLATE_DISCARDED, still _ (.inr rfl)])), g⟩⟩
  · rw [Chip.place_onTime onTime] at effect
    obtain ⟨next, sameW, seqs, strm, g⟩ := (Chip.appends_appendRec _ _ true).of_markPlaced.finish 0 f.gd _
    exact ⟨_, effect, rfl, went next, sameW, seqs,
      fun _ => ⟨strm.1, strm.2, counts (.inl rfl) (still _ true (.inl rfl)), counts (.inr rfl) (still _ true (.inr rfl)), g⟩,
      fun k => absurd onTime (Nat.not_le.2 k), fun k => absurd onTime (Nat.not_le.2 k)⟩

end Sys2Proof.Machine
end

section
/-!
PROOFS. Text buffers (R97 to R102): what appending characters does; the digits of a number; which characters each format, pattern and
check digit gives; from these, what vfmt, vdate and vchk do.
-/
namespace Sys2Proof.Machine

/-! ### Storing bytes -/

/-- A write stores its bytes, and no other. -/
theorem stored_write (m : ByteMem) (a : Nat) (bs : List Byte) : Stored m (m.write a bs) a bs := by
  intro x
  split
  next h =>
    obtain ⟨i, rfl⟩ := Nat.exists_eq_add_of_le h.1
    have hi : i < bs.length := by omega
    rw [ByteMem.byte_write_in m a bs i hi, Nat.add_sub_cancel_left, List.getD_eq_getElem?_getD, List.getElem?_eq_getElem hi]
    rfl
  next h => exact ByteMem.byte_write_out _ _ _ _ (by omega)

theorem unjournalled_storeD (s : State) (a : Nat) (bs : List Byte) : (storeD s a bs).chip.unjournalled = s.chip.unjournalled :=
  Chip.unjournalled_jrn ..

theorem leaves_storeD (s : State) (a : Nat) (bs : List Byte) : s.chip.leaves (fun h => h.key ≠ TW_JSEQ_JSEQ.key) (storeD s a bs).chip :=
  Chip.leaves_jrn ..

/-- Appending characters to a text buffer (R97). -/
theorem appended_appendText (n : CtxId) (f : Fields) (a : Nat) (chars : List Byte) (s : State) :
    Appended n f.gd a chars s (appendText n f a chars s) := by
  let t := storeD (storeD s (a + 1 + textLen s a) chars) a [BitVec.ofNat 8 (textLen s a + chars.length)]
  have leaves : s.chip.leaves (fun h => h.key ≠ TW_JSEQ_JSEQ.key) t.chip := Chip.leaves_trans (leaves_storeD ..) (leaves_storeD ..)
  have frame := Chip.setG_set_frame t.chip n f.gd (BitVec.ofNat 64 (textLen s a + chars.length)) (SEQ_CPC_PC n)
    ((t.chip.setG n f.gd.toNat (BitVec.ofNat 64 (textLen s a + chars.length))).pc n + 1)
  obtain ⟨g, w, fields, -⟩ := frame
  refine ⟨rfl, rfl, rfl, ?_, fun m i hi => (w m i hi).trans (leaves.2.1 m i hi), fun x => ?_, fun m i hi => ?_, fun h hk => ?_⟩
  · refine (Chip.pc_next ..).trans ?_
    rw [Chip.setG_pc, show t.chip.pc n = s.chip.pc n from leaves.2.2 _ (seq_key_ne_jseq _ _ _ _ (by omega) (by omega))]
  · refine (stored_write _ a _ x).trans ?_
    rw [List.length_singleton]
    by_cases here : x = a
    · subst here
      rw [if_pos (by omega), if_pos rfl, Nat.sub_self]
      rfl
    · rw [if_neg (by omega), if_neg here]
      exact stored_write ..
  · rw [← leaves.1 m i hi]
    exact g m i hi
  · exact (fields h fun k hk' => hk k (by simp_all)).trans (leaves.2.2 h (hk _ (by simp)))

/-! ### Digits -/

/-- The value of a digit character. -/
theorem digitChar_value {d : Nat} (h : d < 36) : (if (digitChar d).toNat < 58 then (digitChar d).toNat - 48 else (digitChar d).toNat - 55) = d := by
  unfold digitChar asc
  split <;> simp only [BitVec.toNat_ofNat] <;> split <;> omega

/-- The number of digits that v takes in a base. -/
def takesDigits (base v k : Nat) : Prop := 0 < k ∧ v < base ^ k ∧ (k = 1 ∨ base ^ (k - 1) ≤ v)

theorem spells_snoc {base v d : Nat} {ds : List Byte} (h : spells base v ds) (hd : d < base) (hb : base ≤ 36) :
    spells base (v * base + d) (ds ++ [digitChar d]) := by
  refine ⟨fun b hm => ?_, ?_⟩
  · rcases List.mem_append.1 hm with hm | hm
    · exact h.1 b hm
    · exact ⟨d, hd, List.mem_singleton.1 hm⟩
  · rw [List.foldl_append, h.2, List.foldl_cons, List.foldl_nil, digitChar_value (by omega)]

theorem spells_digit {base v : Nat} (hv : v < base) (hb : base ≤ 36) : spells base v [digitChar v] := by
  refine ⟨fun b hm => ⟨v, hv, List.mem_singleton.1 hm⟩, ?_⟩
  rw [List.foldl_cons, List.foldl_nil, digitChar_value (by omega), Nat.zero_mul, Nat.zero_add]

theorem takesDigits_digit {base v k : Nat} (two : 2 ≤ base) (hv : v < base) (h : takesDigits base v k) : k = 1 := by
  obtain ⟨pos, -, rfl | low⟩ := h
  · rfl
  · refine Classical.byContradiction fun hk => ?_
    have : base ^ 1 ≤ base ^ (k - 1) := Nat.pow_le_pow_right (by omega) (by omega)
    rw [Nat.pow_one] at this
    omega

/-- A number of more than one digit takes one more than its quotient. -/
theorem takesDigits_div {base v k : Nat} (two : 2 ≤ base) (hv : base ≤ v) (h : takesDigits base v k) : takesDigits base (v / base) (k - 1) := by
  obtain ⟨pos, high, low⟩ := h
  obtain ⟨j, rfl⟩ := Nat.exists_eq_succ_of_ne_zero (Nat.ne_of_gt pos)
  have hj : j ≠ 0 := by
    rintro rfl
    simp at high
    omega
  refine ⟨by omega, Nat.div_lt_of_lt_mul (by rwa [Nat.pow_succ, Nat.mul_comm] at high), ?_⟩
  by_cases one : j = 1
  · exact .inl (by omega)
  · refine .inr ((Nat.le_div_iff_mul_le (by omega)).2 ?_)
    rw [← Nat.pow_succ]
    obtain ⟨i, rfl⟩ := Nat.exists_eq_succ_of_ne_zero hj
    simpa using low

/-- As many digits as it takes spell the number. -/
theorem digitsAux_spells {base : Nat} (two : 2 ≤ base) (hb : base ≤ 36) (fuel v : Nat) (acc : List Byte) (hv : v < base ^ (fuel + 1)) :
    ∃ ds, digitsAux base (fuel + 1) v acc = ds ++ acc ∧ spells base v ds ∧ ∀ k, takesDigits base v k → ds.length = k := by
  induction fuel generalizing v acc with
  | zero =>
    rw [Nat.zero_add, Nat.pow_one] at hv
    exact ⟨[digitChar v], if_pos hv, spells_digit hv hb, fun k h => (takesDigits_digit two hv h).symm⟩
  | succ fuel ih =>
    rw [digitsAux]
    split
    next small => exact ⟨[digitChar v], rfl, spells_digit small hb, fun k h => (takesDigits_digit two small h).symm⟩
    next large =>
      have rest : v / base < base ^ (fuel + 1) := Nat.div_lt_of_lt_mul (by rwa [Nat.pow_succ, Nat.mul_comm] at hv)
      obtain ⟨ds, eq, sp, len⟩ := ih (v / base) (digitChar (v % base) :: acc) rest
      refine ⟨ds ++ [digitChar (v % base)], by simp [eq], ?_, fun k h => ?_⟩
      · have := spells_snoc sp (Nat.mod_lt v (by omega)) hb
        rwa [Nat.div_add_mod'] at this
      · have one := len _ (takesDigits_div two (Nat.not_lt.1 large) h)
        have := h.1
        simp only [List.length_append, List.length_singleton]
        omega

theorem digits_spells {base v : Nat} (two : 2 ≤ base) (hb : base ≤ 36) (hv : v < 2 ^ 64) :
    spells base v (digits base v) ∧ ∀ k, takesDigits base v k → (digits base v).length = k := by
  obtain ⟨ds, eq, sp, len⟩ := digitsAux_spells two hb 63 v [] (Nat.lt_of_lt_of_le hv (Nat.pow_le_pow_left two 64))
  rw [digits, eq, List.append_nil]
  exact ⟨sp, len⟩

/-! ### Formats (R99, Table 4-6) -/

/-- The base of a numeric format. -/
def formatBase (form : Nat) : Nat := if form = 2 then 16 else if form = 3 then 36 else 10

/-- The magnitude that a numeric format spells. -/
def formatMag (form : Nat) (v : W64) : Nat := if form = 1 then v.toInt.natAbs else v.toNat

theorem numberText_eq {form : Nat} (h : form < 4) (v : W64) :
    numberText form v = (decide (form = 1 ∧ v.toInt < 0), digits (formatBase form) (formatMag form v)) := by
  obtain rfl | rfl | rfl | rfl : form = 0 ∨ form = 1 ∨ form = 2 ∨ form = 3 := by omega
  all_goals simp [numberText, formatBase, formatMag]

theorem formatMag_lt (form : Nat) (v : W64) : formatMag form v < 2 ^ 64 := by
  have := v.toInt_lt
  have := v.le_toInt
  have := v.isLt
  unfold formatMag
  split <;> omega

section
variable {s : State} {n : CtxId} {f : Fields}

theorem fmtChars_number (h : f.sub.toNat % 8 < 4) :
    fmtChars s n f = padNumber (f.imm.toNat % 256) (bits f.imm.toNat 16 8) (numberText (f.sub.toNat % 8) (s.chip.g n f.ga.toNat)).1
      (numberText (f.sub.toNat % 8) (s.chip.g n f.ga.toNat)).2 := by
  unfold fmtChars subOf
  dsimp only
  split
  · omega
  · omega
  · rfl

theorem fmtTraps_number (h : f.sub.toNat % 8 < 4) :
    fmtTraps s n f = 
      let x := numberText (f.sub.toNat % 8) (s.chip.g n f.ga.toNat)
      let im := f.imm.toNat
      let maxw := if bits im 8 8 = 0 then 20 else bits im 8 8
      trapIf (decide (2 ^ 24 ≤ im)) RESERVED_FIELD ++
      trapIf (decide (maxw < im % 256) || decide (20 < maxw) || decide (bits im 16 8 < 32) || decide (126 < bits im 16 8)) VD_FORMAT ++
      trapIf (decide (maxw < x.2.length + b2n x.1)) VD_WIDTH := by
  unfold fmtTraps subOf
  dsimp only
  split
  · omega
  · omega
  · omega
  · omega
  · rfl

/-- Appending to a text buffer that has room. -/
theorem appends_issueD {ecc : Ecc} {a : Nat} {cs : List Byte} {tr : List Nat} (ready : Ready n s) (clean : ecc ≠ .uncorrectable) (none : tr = [])
    (al : a % 64 = 0) (inside : a + 256 ≤ 0x100000) (room : (s.mem.data.byte a).toNat + cs.length ≤ 254) :
    Appended n f.gd a cs (s.onChip (·.dRead ecc)) (issueD n ecc (tr ++ dTraps a 256 64 ++ textTraps s a cs.length) (appendText n f a cs) s) := by
  have text : textTraps s a cs.length = [] := by
    unfold textTraps textLen
    simp only [trapIf_eq_nil, Bool.or_eq_false_iff, decide_eq_false_iff_not]
    omega
  rw [issueD_of_nil ready clean (by rw [none, dTraps_eq_nil.2 ⟨al, inside⟩, text]; rfl)]
  exact appended_appendText ..

/-- vfmt appends its characters where its format is good. -/
theorem appends_vfmt {ecc : Ecc} (ready : Ready n s) (clean : ecc ≠ .uncorrectable) (resv : resvRaw f 7 true true true true = [])
    (good : fmtTraps s n f = []) :
    let a := (s.chip.g n f.gb.toNat).toNat
    let cs := fmtChars s n f
    a % 64 = 0 → a + 256 ≤ 0x100000 → (s.mem.data.byte a).toNat + cs.length ≤ 254 →
      ∃ t, exec (.vfmt n f ecc) s = .next t ∧ Appended n f.gd a cs (s.onChip (·.dRead ecc)) t := by
  intro a cs al inside room
  exact ⟨_, rfl, appends_issueD ready clean (by rw [resv, good]; rfl) al inside room⟩

/-- The padding of Table 4-6. -/
theorem padNumber_eq {minw pad : Nat} (hp : pad < 256) (neg : Bool) (ds : List Byte) :
    padNumber minw pad neg ds =
      let fill := List.replicate (minw - (ds.length + if neg then 1 else 0)) (BitVec.ofNat 8 pad)
      if neg then (if BitVec.ofNat 8 pad = 48 then 45 :: fill ++ ds else fill ++ 45 :: ds) else fill ++ ds := by
  have zero : BitVec.ofNat 8 pad = 48 ↔ pad = 48 := by
    rw [← BitVec.toNat_inj, BitVec.toNat_ofNat, Nat.mod_eq_of_lt hp]
    rfl
  simp only [zero]
  rfl

theorem length_padNumber (minw pad : Nat) (neg : Bool) (ds : List Byte) :
    (padNumber minw pad neg ds).length = max minw (ds.length + if neg then 1 else 0) := by
  unfold padNumber b2n
  cases neg
  · simp
    omega
  · simp only [if_true]
    split <;> simp <;> omega

end

/-- The widths of a numeric format are good. -/
theorem fmtTraps_number_nil {s : State} {n : CtxId} {f : Fields} (number : f.sub.toNat % 8 < 4) :
    let x := numberText (f.sub.toNat % 8) (s.chip.g n f.ga.toNat)
    let im := f.imm.toNat
    let maxw := if im / 256 % 256 = 0 then 20 else im / 256 % 256
    im < 2 ^ 24 → im % 256 ≤ maxw → maxw ≤ 20 → 32 ≤ im / 65536 → im / 65536 ≤ 126 → x.2.length + b2n x.1 ≤ maxw → fmtTraps s n f = [] := by
  intro x im maxw small hmin hmax low high wide
  rw [fmtTraps_number number]
  simp only [List.append_eq_nil_iff, trapIf_eq_nil, Bool.or_eq_false_iff, decide_eq_false_iff_not, Nat.not_le, Nat.not_lt]
  have max : (if bits im 8 8 = 0 then 20 else bits im 8 8) = maxw := rfl
  have pad : bits im 16 8 = im / 65536 := by
    unfold bits
    omega
  rw [max, pad]
  exact ⟨⟨small, ⟨⟨hmin, hmax⟩, low⟩, high⟩, wide⟩

/-- Settles O21: the digits of a numeric format spell the value, and each format appends its characters. -/
theorem formattedTextAppends : Obligations.FormattedTextAppends := by
  unfold Obligations.FormattedTextAppends
  intro n f e s ready clean resv u a v im minw maxw pad len form mag base neg al inside short
  refine ⟨fun k number small hmin hmax low high pos above below wide room => ?number, fun str one most range room => ?str, fun char zero room => ?char⟩
  case number =>
    have hbase : 2 ≤ base ∧ base ≤ 36 := by
      unfold base
      split
      · omega
      · split <;> omega
    obtain ⟨sp, count⟩ := digits_spells hbase.1 hbase.2 (formatMag_lt form v)
    have length : (digits base mag).length = k := count k ⟨pos, above, below⟩
    have text : numberText form v = (neg, digits base mag) := numberText_eq number v
    have padBits : bits im 16 8 = im / 65536 := by
      unfold bits
      omega
    have chars : fmtChars s n f = padNumber minw (im / 65536) neg (digits base mag) := by
      rw [fmtChars_number number, ← padBits]
      exact congrArg (fun x : Bool × List Byte => padNumber minw (bits im 16 8) x.1 x.2) text
    have good : fmtTraps s n f = [] := fmtTraps_number_nil number small hmin hmax low high (by
      rw [show numberText (f.sub.toNat % 8) (s.chip.g n f.ga.toNat) = _ from text]
      exact length ▸ wide)
    obtain ⟨t, ht, app⟩ := appends_vfmt ready clean resv good al inside (by rw [chars, length_padNumber, length]; exact room)
    rw [chars, padNumber_eq (by omega), length] at app
    exact ⟨digits base mag, t, length, sp, ht, app⟩
  case str =>
    have form4 : subOf f % 8 = 4 := str
    have im256 : immOf f % 256 = im := Nat.mod_eq_of_lt (show im < 256 by omega)
    have chars : fmtChars s n f = s.mem.data.read v.toNat im := by simp only [fmtChars, form4, im256]; rfl
    have good : fmtTraps s n f = [] := by
      simp only [fmtTraps, form4, im256, List.append_eq_nil_iff, trapIf_eq_nil, Bool.or_eq_false_iff, decide_eq_false_iff_not, dOut]
      exact ⟨⟨Nat.not_le.2 (by omega : im < 256), by omega, by omega⟩, Nat.not_lt.2 range⟩
    rw [← chars]
    exact appends_vfmt ready clean resv good al inside (by rw [chars, ByteMem.length_read]; exact room)
  case char =>
    have form5 : subOf f % 8 = 5 := char
    have chars : fmtChars s n f = [v.setWidth 8] := by simp only [fmtChars, form5]; rfl
    have good : fmtTraps s n f = [] := by
      simp only [fmtTraps, form5, trapIf_eq_nil, decide_eq_false_iff_not, Classical.not_not]
      exact zero
    rw [← chars]
    exact appends_vfmt ready clean resv good al inside (by rw [chars]; exact room)

/-! ### Patterns and check digits (R100, R102) -/

theorem ByteMem.read_add (m : ByteMem) (a j k : Nat) : m.read a (j + k) = m.read a j ++ m.read (a + j) k := by
  simp [ByteMem.read, List.range_add, Nat.add_assoc]

/-- A pattern of k bytes that a 0 byte ends. -/
theorem readPattern_eq {s : State} {a k : Nat} (short : k < 32) (stop : s.mem.data.byte (a + k) = 0)
    (body : ∀ i, i < k → s.mem.data.byte (a + i) ≠ 0) : readPattern s a = (s.mem.data.read a k, true, dOut a (k + 1)) := by
  have split : s.mem.data.read a 32 = s.mem.data.read a k ++ 0 :: s.mem.data.read (a + (k + 1)) (31 - k) := by
    rw [show 32 = k + (1 + (31 - k)) by omega, ByteMem.read_add, ByteMem.read_add]
    simp [ByteMem.read, stop, Nat.add_assoc]

  have pattern : (s.mem.data.read a 32).takeWhile (· != 0) = s.mem.data.read a k := by
    have keep : ∀ b ∈ s.mem.data.read a k, (b != 0) = true := by
      intro b hb
      obtain ⟨i, hi, rfl⟩ := List.mem_map.1 hb
      exact bne_iff_ne.2 (body i (List.mem_range.1 hi))
    rw [split, List.takeWhile_append_of_pos keep]
    simp
  simp only [readPattern, pattern, ByteMem.length_read, short, decide_true, Nat.min_eq_right (by omega : k + 1 ≤ 32)]

/-- The digits of a text from its end, one by one. -/
theorem reverse_digits_map {m : ByteMem} {a len p : Nat} (hp : 1 ≤ p) (g : Byte × Nat → Nat) :
    (((m.read (a + 1) len).drop (p - 1)).reverse.zipIdx.map g) = (List.range (len + 1 - p)).map fun j => g (m.byte (a + len - j), j) := by
  apply List.ext_getElem
  · simp
    omega
  · intro i h1 h2
    simp only [List.length_map, List.length_zipIdx, List.length_reverse, List.length_drop, ByteMem.length_read] at h1
    simp only [ByteMem.read, List.getElem_map, List.getElem_zipIdx, List.getElem_reverse, List.getElem_drop, List.getElem_range, List.length_drop,
      List.length_map, List.length_range, Nat.zero_add]
    rw [show a + 1 + (p - 1 + (len - (p - 1) - 1 - i)) = a + len - i by omega]

/-- What a sum lacks to the next multiple of ten. -/
theorem lack_ten (n : Nat) : (10 - n % 10) % 10 < 10 ∧ (n + (10 - n % 10) % 10) % 10 = 0 := by omega

theorem gs1Check_eq {m : ByteMem} {a len p : Nat} (hp : 1 ≤ p) :
    gs1Check ((m.read (a + 1) len).drop (p - 1)) =
      (10 - ((List.range (len + 1 - p)).map fun j =>
        if j % 2 = 0 then 3 * ((m.byte (a + len - j)).toNat - 48) else (m.byte (a + len - j)).toNat - 48).sum % 10) % 10 := by
  unfold gs1Check
  simp only [reverse_digits_map hp]
  congr 6
  funext j
  split <;> omega

theorem luhnCheck_eq {m : ByteMem} {a len p : Nat} (hp : 1 ≤ p) :
    luhnCheck ((m.read (a + 1) len).drop (p - 1)) =
      (10 - ((List.range (len + 1 - p)).map fun j =>
        let d := (m.byte (a + len - j)).toNat - 48
        if j % 2 = 0 then (if d < 5 then 2 * d else 2 * d - 9) else d).sum % 10) % 10 := by
  unfold luhnCheck
  simp only [reverse_digits_map hp]
  congr 6
  funext j
  split
  · split <;> split <;> omega
  · rfl

/-- A civil time before the year 2200 is good. -/
theorem dateOk_of_range {v : W64} (from1970 : 0 ≤ v.toInt) (before2200 : v.toInt < 7258118400 * 10 ^ 9) :
    v.toInt.toNat = v.toNat ∧ dateOk v.toInt = true := by
  have year : (daysToYear 2200 : Int) * 86400000000000 = 7258118400 * 10 ^ 9 := by decide
  refine ⟨?_, ?_⟩
  · rw [BitVec.toInt_eq_toNat_cond] at from1970 ⊢
    split <;> omega
  · unfold dateOk
    rw [year, decide_eq_true from1970, decide_eq_true before2200]
    rfl

/-- The digits from position p of a text. -/
theorem all_isDigit_drop {m : ByteMem} {a len p : Nat} (hp : 1 ≤ p)
    (isDigits : ∀ i, i ≤ len → p ≤ i → 48 ≤ (m.byte (a + i)).toNat ∧ (m.byte (a + i)).toNat ≤ 57) :
    ((m.read (a + 1) len).drop (p - 1)).all isDigit = true := by
  rw [List.all_eq_true]
  intro b hb
  obtain ⟨i, hi, rfl⟩ := List.mem_iff_getElem.1 hb
  simp only [List.length_drop, ByteMem.length_read] at hi
  have good := isDigits (p + i) (by omega) (by omega)
  have position : a + 1 + (p - 1 + i) = a + (p + i) := by omega
  simp only [ByteMem.read, List.getElem_drop, List.getElem_map, List.getElem_range, position, isDigit, decide_eq_true good.1,
    decide_eq_true good.2, Bool.and_self]

/-- vdate on a pattern that has been read. -/
theorem exec_vdate {n : CtxId} {f : Fields} {e : Ecc} {s : State} {p : List Byte} {ended out : Bool} (h : readPattern s (immOf f) = (p, ended, out)) :
    exec (.vdate n f e) s = .next (issueD n e (resvRaw f 0 true true true true ++ dTraps (s.chip.g n f.gb.toNat).toNat 256 64 ++
      trapIf out D_RANGE ++ trapIf (!ended || !dateOk (s.chip.g n f.ga.toNat).toInt) VD_FORMAT ++
      textTraps s (s.chip.g n f.gb.toNat).toNat (datePattern (s.chip.g n f.ga.toNat).toInt.toNat 32 p).length)
      (appendText n f (s.chip.g n f.gb.toNat).toNat (datePattern (s.chip.g n f.ga.toNat).toInt.toNat 32 p)) s) := by
  change execVdate n f e s = _
  unfold execVdate
  rw [h]

/-- Settles O22: the pattern is read up to its 0 byte, and the check digit is what the weighted digits lack to the next multiple of ten. -/
theorem dateAndCheckDigitAppend : Obligations.DateAndCheckDigitAppend := by
  unfold Obligations.DateAndCheckDigitAppend
  intro n f e s ready clean u a v len al inside
  refine ⟨fun resv k short range stop body past before room => ?date, fun resv p hp low high fits isDigits => ?check⟩
  case date =>
    have pattern : readPattern s (immOf f) = _ := readPattern_eq short stop body
    have out : dOut f.imm.toNat (k + 1) = false := decide_eq_false (by omega)
    obtain ⟨time, ok⟩ := dateOk_of_range past before
    have text : textTraps s a (datePattern v.toNat 32 (s.mem.data.read f.imm.toNat k)).length = [] := by
      unfold textTraps textLen
      simp only [trapIf_eq_nil, Bool.or_eq_false_iff, decide_eq_false_iff_not]
      omega
    have traps : resvRaw f 0 true true true true ++ dTraps a 256 64 ++ trapIf (dOut f.imm.toNat (k + 1)) D_RANGE ++
        trapIf (!true || !dateOk v.toInt) VD_FORMAT ++ textTraps s a (datePattern v.toNat 32 (s.mem.data.read f.imm.toNat k)).length = [] := by
      rw [resv, dTraps_eq_nil.2 ⟨al, inside⟩, out, ok, text]
      rfl
    refine ⟨_, exec_vdate pattern, ?_⟩
    rw [time]
    exact (congrArg (Appended n f.gd a _ u) (issueD_of_nil ready clean traps _)).mpr (appended_appendText ..)
  case check =>
    intro digit weighed
    have text : textOf s a = s.mem.data.read (a + 1) len := rfl
    let ds := (s.mem.data.read (a + 1) len).drop (p - 1)
    have some : ds.isEmpty = false := by
      rw [List.isEmpty_eq_false_iff, ← List.length_pos_iff, List.length_drop, ByteMem.length_read]
      omega
    have start : decide (p = 0) = false := decide_eq_false (by omega)
    have digits : ds.all isDigit = true := all_isDigit_drop low isDigits
    have sum : (if bit (subOf f) 0 then luhnCheck ds else gs1Check ds) = (10 - ((List.range (len + 1 - p)).map weighed).sum % 10) % 10 := by
      unfold ds weighed digit
      rw [show bit (subOf f) 0 = f.sub.getLsbD 0 from bit_toNat ..]
      cases f.sub.getLsbD 0
      · exact gs1Check_eq low
      · exact luhnCheck_eq low
    obtain ⟨small, ten⟩ := lack_ten ((List.range (len + 1 - p)).map weighed).sum
    have good : resvRaw f 1 true true true false ++ dTraps a 256 64 ++ trapIf (decide (p = 0) || ds.isEmpty || !ds.all isDigit) VD_FORMAT ++
        textTraps s a 1 = resvRaw f 1 true true true false ++ dTraps a 256 64 ++ textTraps s a 1 := by
      rw [start, some, digits]
      simp [trapIf]
    refine ⟨_, _, small, ten, rfl, ?_⟩
    rw [← sum]
    subst hp
    change Appended n f.gd a _ u (issueD n e (resvRaw f 1 true true true false ++ dTraps a 256 64 ++
      trapIf (decide (v.toNat % 256 = 0) || ds.isEmpty || !ds.all isDigit) VD_FORMAT ++ textTraps s a 1) _ s)
    rw [good, resv]
    exact appends_issueD (tr := []) ready clean rfl al inside (by simp only [List.length_singleton]; omega)

end Sys2Proof.Machine
end

section
/-!
PROOFS. The staged set: table loads, claims, CHECK, abandoning and restored values (R109, R110, R355 to R358, R366, R373).
-/
namespace Sys2Proof.Machine

/-! ### Contexts that wait for data -/

theorem Chip.leaves_notContext_set (c : Chip) (f : Fld) (v : Nat) (hf : ¬ f.ofContext) : c.leaves Fld.ofContext (c.set f v) :=
  c.leaves_set f v fun h hh e => hf (by rwa [Fld.ofContext, ← e])

/-- Three different fields of a context. -/
theorem ctx_keys_ne (n : CtxId) : (SEQ_CWAIT_KIND n).key ≠ (SEQ_CWAIT_OPERAND n).key ∧ (SEQ_CSTAT_STATE n).key ≠ (SEQ_CWAIT_OPERAND n).key ∧
    (SEQ_CSTAT_STATE n).key ≠ (SEQ_CWAIT_KIND n).key := by
  simp only [SEQ_CSTAT_STATE, SEQ_CWAIT_KIND, SEQ_CWAIT_OPERAND, fld, Blk.base]
  omega

theorem Chip.stall_ctxState (c : Chip) (n : CtxId) (k o : Nat) : (c.stall n k o).ctxState n = STALLED := by
  obtain ⟨-, stateOperand, stateKind⟩ := ctx_keys_ne n
  unfold Chip.stall Chip.ctxState Chip.setCtxState
  rw [Chip.get_set_ne _ _ _ _ stateOperand, Chip.get_set_ne _ _ _ _ stateKind, Chip.get_set_same]
  rfl

theorem Chip.stall_kind (c : Chip) (n : CtxId) (k o : Nat) : (c.stall n k o).get (SEQ_CWAIT_KIND n) = k % 16 := by
  unfold Chip.stall
  rw [Chip.get_set_ne _ _ _ _ (ctx_keys_ne n).1, Chip.get_set_same]
  rfl

theorem Chip.leaves_stall (c : Chip) (n k o : Nat) : c.leaves Fld.pcOrTrap (c.stall n k o) :=
  Chip.leaves_trans (c.leaves_setCtxState n STALLED)
    (Chip.leaves_trans (Chip.leaves_set_stat _ _ _ _ _ k (by omega) (by omega)) (Chip.leaves_set_stat _ _ _ _ _ o (by omega) (by omega)))

/-- An operation that a stalled context waits for. -/
theorem began_pend (n : CtxId) (k : Nat) (o : PendOp) (s : State) (hk : k < 16) : Began n k o s (s.onChip (·.pend n k o)) := by
  have leaves := s.chip.leaves_stall n k 0
  have state : (s.chip.pend n k o).ctxState n = STALLED := s.chip.stall_ctxState n k 0
  refine ⟨rfl, rfl, leaves.2.2 _ (fld_seq_pcOrTrap _ _ _ _ (by omega) (by omega) (by omega) (by omega)), state,
    (s.chip.stall_kind n k 0).trans (Nat.mod_eq_of_lt hk), ?_, leaves.1, leaves.2.1, ?_, rfl⟩
  · change Chip.pendOp (s.chip.pend n k o) n = some o
    rw [Chip.pendOp, if_pos state]
    exact FMap.get_put_same none s.chip.seq.ops n (some o)
  · intro h hh
    simp only [List.forall_mem_cons] at hh
    obtain ⟨st, kd, op, -⟩ := hh
    change (s.chip.stall n k 0).get h = _
    unfold Chip.stall Chip.setCtxState
    rw [Chip.get_set_ne _ _ _ _ op, Chip.get_set_ne _ _ _ _ kd, Chip.get_set_ne _ _ _ _ st]

theorem Chip.resume_ctxState (c : Chip) (n : CtxId) : (c.resume n).ctxState n = RUNNABLE := by
  obtain ⟨-, stateOperand, stateKind⟩ := ctx_keys_ne n
  unfold Chip.resume Chip.ctxState Chip.setCtxState
  rw [Chip.get_set_ne _ _ _ _ stateOperand, Chip.get_set_ne _ _ _ _ stateKind, Chip.get_set_same]
  rfl

theorem Chip.resume_kind (c : Chip) (n : CtxId) : (c.resume n).get (SEQ_CWAIT_KIND n) = 0 := by
  unfold Chip.resume
  rw [Chip.get_set_ne _ _ _ _ (ctx_keys_ne n).1, Chip.get_set_same]
  rfl

/-! ### Changes of the staged set -/

/-- A field in which a change of the staged set does not show. -/
def Fld.notStage (h : Fld) : Prop := h.key ≠ SEQ_SSTAT_STATE.key ∧ h.key ≠ TW_JSEQ_JSEQ.key

theorem Chip.leaves_change (c : Chip) (x : TSet) : c.leaves (fun h => h.key ≠ SEQ_SSTAT_STATE.key) (c.change x) :=
  Chip.leaves_set (c.setStaged x) _ _ fun _ hh => hh

theorem Chip.jrn_stage (c : Chip) (k : JKind) (as : List Nat) (bs : List Byte) : (c.jrn k as bs).stage = c.stage :=
  (congrArg Chip.stage (c.unjournalled_jrn k as bs) :)

theorem Chip.setSstate_sstate (c : Chip) (v : Nat) (hv : v < 8) : (c.setSstate v).sstate = v :=
  (Chip.get_set_same ..).trans (Nat.mod_eq_of_lt hv)

theorem Chip.jrn_sstate (c : Chip) (k : JKind) (as : List Nat) (bs : List Byte) : (c.jrn k as bs).sstate = c.sstate :=
  c.jrn_get k as bs _ (by decide)

/-- A change of the staged set that is journalled. -/
theorem Chip.leaves_change_jrn (c : Chip) (x : TSet) (k : JKind) (as : List Nat) (bs : List Byte) :
    c.leaves Fld.notStage ((c.change x).jrn k as bs) :=
  Chip.leaves_trans (Chip.leaves_mono (fun _ h => h.1) (c.leaves_change x)) (Chip.leaves_mono (fun _ h => h.2) (Chip.leaves_jrn ..))

theorem Chip.change_jrn_stage (c : Chip) (x : TSet) (k : JKind) (as : List Nat) (bs : List Byte) :
    ((c.change x).jrn k as bs).stage = { c.stage with staged := x } := Chip.jrn_stage ..

theorem Chip.change_jrn_sstate (c : Chip) (x : TSet) (k : JKind) (as : List Nat) (bs : List Byte) :
    ((c.change x).jrn k as bs).sstate = 1 := (Chip.jrn_sstate ..).trans (Chip.setSstate_sstate _ _ (by decide))

/-- The program counters and the context states are not among the fields of the staged set. -/
theorem ofContext_notStage (h : Fld) (hh : h.ofContext) : h.notStage := by
  constructor <;> intro e <;> (unfold Fld.ofContext at hh; rw [e] at hh; revert hh; decide)

theorem mem_setBits {w n k : Nat} : k ∈ setBits w n ↔ k < w ∧ bit n k = true := by simp [setBits]

theorem TSet.foldl_setBarT (t : Nat → Table) (ty : Nat) (hty : ty < 8) (ks : List Nat) (x : TSet) :
    (ks.foldl (fun x k => x.setBarT k ty (t k)) x).dev = x.dev ∧ ∀ k i, i < 8 →
      (ks.foldl (fun x k => x.setBarT k ty (t k)) x).barT k i = if i = ty ∧ k ∈ ks then t k else x.barT k i := by
  induction ks generalizing x with
  | nil => simp
  | cons j ks ih =>
    obtain ⟨dev, bar⟩ := ih (x.setBarT j ty (t j))
    refine ⟨dev, fun k i hi => ?_⟩
    rw [List.foldl_cons, bar k i hi]
    have key : 8 * k + i = 8 * j + ty ↔ k = j ∧ i = ty := by omega
    simp only [TSet.barT, TSet.setBarT, FMap.get_put, key, List.mem_cons]
    grind

theorem TSet.putTable_calib (x : TSet) (ty mask : Nat) (t : Nat → Table) : (x.putTable ty mask t).calib = x.calib := by
  unfold TSet.putTable
  split
  · generalize setBits 16 mask = ks
    induction ks generalizing x with
    | nil => rfl
    | cons k ks ih => exact ih (x.setBarT k ty (t k))
  · rfl

/-- The tables of a set after a table of type ty. -/
theorem TSet.putTable_tables (x : TSet) (ty mask : Nat) (t : Nat → Table) :
    (∀ k i, k < 16 → i < 8 → (x.putTable ty mask t).barT k i = if ty < 6 ∧ i = ty ∧ bit mask k = true then t k else x.barT k i) ∧
    (∀ i, (x.putTable ty mask t).devT i = if 6 ≤ ty ∧ i = ty then t 0 else x.devT i) := by
  unfold TSet.putTable barType
  by_cases hty : ty < 6
  · obtain ⟨dev, bar⟩ := TSet.foldl_setBarT t ty (by omega) (setBits 16 mask) x
    simp only [hty, decide_true, if_true]
    refine ⟨fun k i hk hi => ?_, fun i => ?_⟩
    · rw [bar k i hi]
      simp [mem_setBits, hk]
    · rw [if_neg (by omega)]
      exact congrArg (fun m => FMap.get {} m i) dev
  · simp only [hty, decide_false, Bool.false_eq_true, if_false]
    refine ⟨fun k i hk hi => ?_, fun i => ?_⟩
    · simp [TSet.barT, TSet.setDevT]
    · simp only [TSet.devT, TSet.setDevT, FMap.get_put]
      simp [Nat.not_lt.1 hty]

/-! ### Table loads -/

theorem Chip.leaves_unpend (c : Chip) (n : Nat) : c.leaves Fld.pcOrTrap (c.unpend n) := c.leaves_resume n

theorem Chip.like_jobStoreRead (c : Chip) (r : Ecc) : c.like (c.jobStoreRead r) := c.like_checked .js 0 _ _ (evSource_lt _ _ · (by decide))

/-- The state in which a table load ends: later, and after the report of its read. -/
def copyEnd (s : State) (t : Nat) (n : CtxId) (r : Ecc) : State :=
  (s.at_ t).onChip fun c => match c.pendOp n with | some (.tload _ _ _ _) => c.jobStoreRead r | _ => c

theorem copyEnd_mem (s : State) (t : Nat) (n : CtxId) (r : Ecc) : (copyEnd s t n r).mem = s.mem := (State.onChip_mem ..).trans (s.at_mem t)

theorem copyEnd_like (s : State) (t : Nat) (n : CtxId) (r : Ecc) : (s.at_ t).chip.like (copyEnd s t n r).chip := by
  simp only [copyEnd, State.onChip_chip]
  split
  · exact Chip.like_jobStoreRead ..
  · exact Chip.like_refl _

/-- What a table load finds. -/
theorem copyEnd_facts (s : State) (t : Nat) (n : CtxId) (r : Ecc) :
    (copyEnd s t n r).chip.pc n = s.chip.pc n ∧ (copyEnd s t n r).chip.sstate = s.chip.sstate ∧ (copyEnd s t n r).chip.stage = s.chip.stage ∧
    (copyEnd s t n r).chip.store = s.chip.store ∧ (copyEnd s t n r).chip.pendOp n = s.chip.pendOp n ∧ sameG s.chip (copyEnd s t n r).chip ∧
    sameW s.chip (copyEnd s t n r).chip := by
  have like := copyEnd_like s t n r
  refine ⟨(Chip.like_pc like n).trans (s.at_pc t n), (like.2 _ (still_seq _ _ _ _ (by decide) (by decide) (by decide) (by decide))).trans (s.at_seqField _ _ _ _ _ (by decide) (by decide)),
    (Chip.like_stage like).trans (s.at_stage t), (Chip.like_store like).trans (s.at_store t), (Chip.like_pendOp like n).trans (s.at_pendOp t n),
    fun m i _ => (Chip.like_g like m i).trans (s.at_g t m i), fun m i _ => (Chip.like_w like m i).trans (s.at_w t m i)⟩

theorem imageTraps_congr {s t : State} (hm : t.mem = s.mem) (hs : t.chip.store = s.chip.store) (ty j : Nat) : imageTraps t ty j = imageTraps s ty j := by
  simp only [imageTraps, hm, hs]

/-- The state that a table load leaves: the staged set x in place, v in gD, and the context at its next instruction. -/
def Chip.fill (c : Chip) (n : CtxId) (gd : BitVec 5) (v : W64) (x : TSet) (as : List Nat) : Chip :=
  Chip.finish (((c.unpend n).change x).jrn .stage as) n gd v

section
variable (c : Chip) (n : CtxId) (gd : BitVec 5) (v : W64) (x : TSet) (as : List Nat)

/-- What a table load leaves, and what it changes. -/
theorem Chip.fill_facts : (c.fill n gd v x as).ctxState n = RUNNABLE ∧ (c.fill n gd v x as).get (SEQ_CWAIT_KIND n) = 0 ∧
    (c.fill n gd v x as).pc n = (c.pc n + 1) % 2 ^ 19 ∧ (c.fill n gd v x as).sstate = 1 ∧
    (c.fill n gd v x as).stage = { c.stage with staged := x } ∧ sameW c (c.fill n gd v x as) ∧
    ∀ m i, i < 32 → (c.fill n gd v x as).g m i = if m = n.val ∧ i = gd.toNat ∧ gd ≠ 0 then v else c.g m i := by
  let d := ((c.unpend n).change x).jrn .stage as
  have staged := Chip.leaves_mono ofContext_notStage ((c.unpend n).leaves_change_jrn x .stage as [])
  have leaves : c.leaves Fld.pcOrTrap d := Chip.leaves_trans (c.leaves_unpend n) (Chip.leaves_mono (fun _ h => h.1) staged)
  have ctx (h : Fld) (hh : h.ofContext) (hp : h.key ≠ (SEQ_CPC_PC n).key) : (c.fill n gd v x as).get h = (c.resume n).get h :=
    (d.finish_get n gd v h hp fun e => by
      unfold Fld.ofContext at hh
      rw [e] at hh
      revert hh
      decide).trans (staged.2.2 h hh)
  have keys : (SEQ_CSTAT_STATE n).key ≠ (SEQ_CPC_PC n).key ∧ (SEQ_CWAIT_KIND n).key ≠ (SEQ_CPC_PC n).key := by
    simp only [SEQ_CSTAT_STATE, SEQ_CWAIT_KIND, SEQ_CPC_PC, fld, Blk.base]
    omega
  have noPc : SEQ_SSTAT_STATE.key ≠ (SEQ_CPC_PC n).key := by
    simp only [SEQ_SSTAT_STATE, SEQ_CPC_PC, fld, Blk.base]
    omega
  refine ⟨?_, ?_, ?_, ?_, ?_, fun m i hi => (d.finish_w n gd v m i hi).trans (leaves.2.1 m i hi), fun m i hi => ?_⟩
  · exact (ctx _ (fld_seq_ofContext _ _ _ _ (by omega) (by omega) (by omega)) keys.1).trans (c.resume_ctxState n)
  · exact (ctx _ (fld_seq_ofContext _ _ _ _ (by omega) (by omega) (by omega)) keys.2).trans (c.resume_kind n)
  · rw [← show d.pc n = c.pc n from leaves.2.2 _ (fld_seq_pcOrTrap _ _ _ _ (by omega) (by omega) (by omega) (by omega))]
    exact d.finish_pc n gd v
  · exact (d.finish_get n gd v _ noPc (by decide)).trans (Chip.change_jrn_sstate ..)
  · exact (d.finish_stage n gd v).trans (Chip.change_jrn_stage ..)
  · rw [← leaves.1 m i hi]
    exact d.finish_g n gd v m i hi

end

theorem Chip.unpend_sstate (c : Chip) (n : Nat) : (c.unpend n).sstate = c.sstate :=
  (c.leaves_calm_resume n).2.2 SEQ_SSTAT_STATE (.inl (by decide))

/-- The end of a table load whose image raises no trap. -/
theorem tableLoadDone_tload {s : State} {n : CtxId} {gd ty mask j : Nat} (op : s.chip.pendOp n = some (.tload gd ty mask j))
    (notScheduled : s.chip.sstate ≠ 3) (notSettling : s.chip.sstate ≠ 4) (small : gd < 32) (image : imageTraps s ty j = []) :
    tableLoadDone n false s = s.onChip fun c => c.fill n (BitVec.ofNat 5 gd) (BitVec.ofNat 64 (imageTable s ty j).version)
        (s.chip.stage.staged.putTable ty mask fun _ => imageTable s ty j) [0, ty, mask, j, (imageTable s ty j).version] := by
  have state : (s.onChip (·.unpend n)).chip.sstate = s.chip.sstate := Chip.unpend_sstate ..
  have reg : (BitVec.ofNat 5 gd).toNat = gd := by simp [Nat.mod_eq_of_lt small]
  unfold tableLoadDone
  rw [op]
  simp only [state, image, show s.chip.sstate ≠ ssSETTLING from notSettling, show s.chip.sstate ≠ ssSCHEDULED from notScheduled,
    decide_false, trapIf, if_false, Bool.false_eq_true, List.append_nil]
  unfold Chip.fill Chip.finish
  rw [reg]
  rfl

/-- The end of a copy of active tables. -/
theorem tableLoadDone_tcopy {s : State} {n : CtxId} {uncorr : Bool} {ty mask : Nat} (op : s.chip.pendOp n = some (.tcopy ty mask))
    (notScheduled : s.chip.sstate ≠ 3) (notSettling : s.chip.sstate ≠ 4) :
    tableLoadDone n uncorr s = s.onChip fun c => c.fill n 0 0 (s.chip.stage.staged.putTable ty mask fun k =>
        { (if ty < 6 then s.chip.stage.active.barT k ty else s.chip.stage.active.devT ty) with fresh := true }) [1, ty, mask] := by
  have state : (s.onChip (·.unpend n)).chip.sstate = s.chip.sstate := Chip.unpend_sstate ..
  unfold tableLoadDone
  rw [op]
  simp only [state, show s.chip.sstate ≠ ssSETTLING from notSettling, show s.chip.sstate ≠ ssSCHEDULED from notScheduled,
    decide_false, trapIf, if_false, Bool.false_eq_true, List.append_nil]
  simp only [State.onChip, Chip.copyTable, barType, decide_eq_true_eq]
  rfl

/-- The state of the staged set lets an instruction change it. -/
theorem issueC_staging {n : CtxId} {s : State} {tr : List Nat} (ready : Ready n s) (notSettling : s.chip.sstate ≠ 4) (none : tr = [])
    (f : Chip → Chip) : issueC n tr (fun c => c.unlessSettling n f) s = { s with chip := f s.chip } := by
  rw [issueC_of_nil ready none, Chip.unlessSettling, if_neg (show s.chip.sstate ≠ ssSETTLING from notSettling)]

theorem notScheduled_nil {c : Chip} (h : c.sstate ≠ 3) (code : Nat) : trapIf (decide (c.sstate = ssSCHEDULED)) code = [] :=
  trapIf_eq_nil.2 (decide_eq_false h)

/-- What the end of a table load in a chip c that has kept the sequencer's registers and the stage shows (R109, R110). -/
theorem fill_tables {c : Chip} {s u : State} {n : CtxId} {gd : BitVec 5} {v : W64} {ty mask : Nat} {table : Nat → Table} {as : List Nat}
    (pc : c.pc n = s.chip.pc n) (stage : c.stage = s.chip.stage) (g : sameG s.chip c) (w : sameW s.chip c) (mem : u.mem = s.mem)
    (fills : u.chip = c.fill n gd v (c.stage.staged.putTable ty mask table) as) :
    u.mem = s.mem ∧ Resumed n u ∧ wentOn n s u ∧ u.chip.sstate = 1 ∧ u.chip.stage.active = s.chip.stage.active ∧ u.chip.stage.sched = s.chip.stage.sched ∧
      (∀ k i, k < 16 → i < 8 → u.chip.stage.staged.barT k i = if ty < 6 ∧ i = ty ∧ bit mask k = true then table k else s.chip.stage.staged.barT k i) ∧
      (∀ i, u.chip.stage.staged.devT i = if 6 ≤ ty ∧ i = ty then table 0 else s.chip.stage.staged.devT i) ∧ sameW s.chip u.chip ∧
      ∀ m i, i < 32 → u.chip.g m i = if m = n.val ∧ i = gd.toNat ∧ gd ≠ 0 then v else s.chip.g m i := by
  obtain ⟨ctx, kind, next, dirty, staged, ws, gs⟩ := c.fill_facts n gd v (c.stage.staged.putTable ty mask table) as
  rw [← fills] at ctx kind next dirty staged ws gs
  rw [stage] at staged
  refine ⟨mem, ⟨ctx, kind⟩, next.trans (by rw [pc]), dirty, ?_, ?_, ?_, ?_, fun m i hi => (ws m i hi).trans (w m i hi), fun m i hi => ?_⟩
  · rw [staged]
  · rw [staged]
  · rw [staged]
    exact (TSet.putTable_tables _ ty mask table).1
  · rw [staged]
    exact (TSet.putTable_tables _ ty mask table).2
  · rw [← g m i hi]
    exact gs m i hi

/-- Settles O26: a load waits for its copy; at the copy's end the staged set takes the tables. -/
theorem tableLoadsFillStagedSet : Obligations.TableLoadsFillStagedSet := by
  unfold Obligations.TableLoadsFillStagedSet
  intro n f s t r gd ty mask j
  refine ⟨fun ready notScheduled notSettling hty small hmask good => ?loads, fun notScheduled notSettling clean small => ?_⟩
  case loads =>
    have type : subOf f % 32 = ty := by rw [← show subOf f = ty from hty.symm] at small ⊢; exact Nat.mod_eq_of_lt small
    refine ⟨fun hj hgd resv al may image => ⟨_, ?_, began_pend n 4 (.tload gd ty mask j) s (by decide)⟩,
      fun resv => ⟨_, ?_, began_pend n 4 (.tcopy ty mask) s (by decide)⟩⟩
    · change execTload n f s = _
      unfold execTload
      dsimp only
      rw [type, show immOf f = mask from hmask.symm, ← hj, issueC_staging ready notSettling (by
        rw [resv, good, image, notScheduled_nil notScheduled]
        simp [trapIf, al]), hgd]
      rfl
    · change execTcopy n f s = _
      unfold execTcopy
      dsimp only
      rw [type, show immOf f = mask from hmask.symm, issueC_staging ready notSettling (by
        rw [resv, good, notScheduled_nil notScheduled]
        rfl)]
      rfl
  obtain ⟨pc, sstate, stage, store, pend, g, w⟩ := copyEnd_facts s t n r
  have mem := copyEnd_mem s t n r
  have uncorr : exec (.tableLoadDone t n r) s = .next (tableLoadDone n (decide (r = .uncorrectable)) (copyEnd s t n r)) := rfl
  rw [decide_eq_false clean] at uncorr
  intro fills
  simp only [fills, uncorr]
  have mem := copyEnd_mem s t n r
  generalize copyEnd s t n r = x at *
  refine ⟨fun op gdSmall image => ⟨_, rfl, ?_⟩, fun op => ⟨_, rfl, ?_⟩⟩
  · have fin := tableLoadDone_tload (pend.trans op) (sstate ▸ notScheduled) (sstate ▸ notSettling) gdSmall ((imageTraps_congr mem store ty j).trans image)
    obtain ⟨mem', res, next, dirty, active, sched, bar, dev, ws, gs⟩ := fill_tables pc stage g w (congrArg State.mem fin |>.trans mem) (congrArg State.chip fin)
    have reg : (BitVec.ofNat 5 gd).toNat = gd := by simp [Nat.mod_eq_of_lt gdSmall]
    have zero : BitVec.ofNat 5 gd ≠ 0 ↔ gd ≠ 0 := by rw [ne_eq, ← BitVec.toNat_inj, reg]; rfl
    have table : imageTable x ty j = imageTable s ty j := by simp only [imageTable, mem]
    simp only [reg, zero, table] at gs bar dev
    exact ⟨mem', res, next, dirty, active, sched, bar, dev, ws, gs⟩
  · have fin := tableLoadDone_tcopy (uncorr := false) (pend.trans op) (sstate ▸ notScheduled) (sstate ▸ notSettling)
    obtain ⟨mem', res, next, dirty, active, sched, bar, dev, ws, gs⟩ := fill_tables pc stage g w (congrArg State.mem fin |>.trans mem) (congrArg State.chip fin)
    rw [stage] at bar dev
    exact ⟨mem', res, next, dirty, active, sched, bar, dev, ws, fun m i hi => (gs m i hi).trans (by simp)⟩

/-! ### Operations that give a number (R355 to R358, R366, R373) -/

/-- A staging operation that leaves the registers of the contexts is done when its number is in gD. -/
theorem stagingDone_finish {s : State} {d : Chip} {n : CtxId} {gd : BitVec 5} {r : Nat} (leaves : s.chip.leaves Fld.ofPc d) :
    StagingDone n gd r s { s with chip := d.finish n gd (BitVec.ofNat 64 r) } := by
  have pc : d.pc n = s.chip.pc n := leaves.2.2 _ ⟨fld_seq_ofContext _ _ _ _ (by omega) (by omega) (by omega), by simp only [SEQ_CPC_PC, fld, Blk.base]; omega⟩
  refine ⟨rfl, rfl, (d.finish_pc n gd _).trans (by rw [pc]), fun m i hi => (d.finish_w n gd _ m i hi).trans (leaves.2.1 m i hi), fun m i hi => ?_⟩
  rw [← leaves.1 m i hi]
  exact d.finish_g n gd _ m i hi

theorem Chip.leaves_ofPc_notStage {c d : Chip} (h : c.leaves Fld.notStage d) : c.leaves Fld.ofPc d :=
  Chip.leaves_mono (fun f hf => ofContext_notStage f hf.1) h

theorem Chip.finish_sstate (c : Chip) (n : CtxId) (gd : BitVec 5) (v : W64) : (c.finish n gd v).sstate = c.sstate :=
  c.finish_get n gd v _ (by simp only [SEQ_SSTAT_STATE, SEQ_CPC_PC, fld, Blk.base]; omega) (by decide)

theorem issueC_settling {n : CtxId} {s : State} {tr : List Nat} (ready : Ready n s) (settling : s.chip.sstate = 4) (none : tr = [])
    (f : Chip → Chip) : issueC n tr (fun c => c.unlessSettling n f) s = { s with chip := s.chip.stall n 11 } := by
  rw [issueC_of_nil ready none, Chip.unlessSettling, if_pos (show s.chip.sstate = ssSETTLING from settling)]

/-- What a claim or a release changes. -/
theorem Chip.claim_facts (c : Chip) (x : Claim) (rel : Bool) :
    c.leaves Fld.notStage (c.claim x rel) ∧
    (c.claim x rel).stage = { c.stage with staged := { c.stage.staged with claims := (c.claim x rel).stage.staged.claims } } ∧
    (c.claim x rel).stage.staged.claims = (if rel = true then c.stage.staged.claims.filter (· ≠ x)
      else if c.stage.staged.claims.contains x = true then c.stage.staged.claims else c.stage.staged.claims ++ [x]) ∧
    (c.claim x rel).sstate = if rel = false ∧ c.stage.staged.claims.contains x = true then c.sstate else 1 := by
  unfold Chip.claim
  dsimp only
  cases rel
  · cases held : c.stage.staged.claims.contains x
    · simp only [Bool.not_false, Bool.and_false, Bool.false_eq_true, if_false, and_false]
      exact ⟨Chip.leaves_change_jrn .., by rw [Chip.change_jrn_stage], by rw [Chip.change_jrn_stage], Chip.change_jrn_sstate ..⟩
    · simp only [Bool.not_false, Bool.and_true, if_true, Bool.false_eq_true, if_false, and_self]
      exact ⟨Chip.leaves_refl .., trivial⟩
  · simp only [Bool.not_true, Bool.false_and, Bool.false_eq_true, if_false, if_true, Bool.true_eq_false, false_and]
    exact ⟨Chip.leaves_change_jrn .., by rw [Chip.change_jrn_stage], by rw [Chip.change_jrn_stage], Chip.change_jrn_sstate ..⟩

/-- What CHECK changes. -/
theorem Chip.runCheck_facts (c : Chip) :
    c.leaves (fun h => h.notStage ∧ h.key ≠ SEQ_SCHK_RESULT.key) c.runCheck.2 ∧ c.runCheck.1 = checkSet c c.stage.staged ∧
    c.runCheck.2.get SEQ_SCHK_RESULT = checkSet c c.stage.staged % 2 ^ 64 ∧
    c.runCheck.2.sstate = (if checkSet c c.stage.staged = 0 then 2 else 1) ∧ c.runCheck.2.stage.active = c.stage.active := by
  unfold Chip.runCheck
  refine ⟨?_, rfl, ?_, ?_, ?_⟩
  · exact Chip.leaves_trans (Chip.leaves_trans (Chip.leaves_set (c.setStaged _) _ _ fun _ h => h.2) (Chip.leaves_set _ _ _ fun _ h => h.1.1))
      (Chip.leaves_mono (fun _ h => h.1.2) (Chip.leaves_jrn ..))
  · exact (Chip.jrn_get _ _ _ _ _ (by decide)).trans ((Chip.get_set_ne _ _ _ _ (by decide)).trans (Chip.get_set_same ..))
  · rw [Chip.jrn_sstate, Chip.setSstate_sstate _ _ (by split <;> decide)]
    rfl
  · rw [Chip.jrn_stage]
    rfl

theorem Chip.leaves_setSstate (c : Chip) (v : Nat) : c.leaves Fld.notStage (c.setSstate v) := Chip.leaves_set _ _ _ fun _ h => h.1

/-- abandon of a set that is DIRTY or PASSED. -/
theorem Chip.abandon_changed (c : Chip) (h : c.sstate = 1 ∨ c.sstate = 2) :
    c.leaves Fld.notStage c.abandon.2 ∧ c.abandon.1 = 0 ∧ c.abandon.2.stage = { c.stage with staged := c.stage.active } ∧ c.abandon.2.sstate = 0 := by
  have eq : c.abandon = (0, ((c.setStaged c.stage.active).setSstate ssCLEAN).jrn .stage [6]) := by
    rw [Chip.abandon, if_neg (by rw [ssCLEAN]; omega), if_neg (by rw [ssSCHEDULED]; omega)]
  rw [eq]
  exact ⟨Chip.leaves_trans (Chip.leaves_setSstate (c.setStaged _) _) (Chip.leaves_mono (fun _ h => h.2) (Chip.leaves_jrn ..)), rfl, Chip.jrn_stage ..,
    (Chip.jrn_sstate ..).trans (Chip.setSstate_sstate _ _ (by decide))⟩

/-- The web point and the generation of a commit that abandon takes back. -/
def Chip.takeBack (c : Chip) (x : Sched) : Chip :=
  if x.at_.isSome then c.set SEQ_SCPT_CPOINT x.scpt
  else ({ c with stage := { c.stage with cur := c.stage.prev, prev := x.before } } : Chip).set SEQ_SCGEN_CGEN c.stage.prev.gen

theorem Chip.takeBack_facts (c : Chip) (x : Sched) :
    c.leaves Fld.ofContext (c.takeBack x) ∧ (c.takeBack x).stage.staged = c.stage.staged ∧ (c.takeBack x).stage.active = c.stage.active ∧
    (x.at_ = none → (c.takeBack x).stage.cur = c.stage.prev) := by
  unfold Chip.takeBack
  cases x.at_ with
  | none => exact ⟨Chip.leaves_notContext_set _ _ _ (by unfold Fld.ofContext; decide), rfl, rfl, fun _ => rfl⟩
  | some t => exact ⟨Chip.leaves_notContext_set _ _ _ (by unfold Fld.ofContext; decide), rfl, rfl, fun h => absurd h (by simp)⟩

/-- abandon of a commit that no bar has reached. -/
theorem Chip.abandon_scheduled (c : Chip) (x : Sched) (h : c.sstate = 3) (hs : c.stage.sched = some x) (hr : x.reached = 0) :
    c.leaves Fld.ofPc c.abandon.2 ∧ c.abandon.1 = 0 ∧ c.abandon.2.sstate = 2 ∧ c.abandon.2.stage.sched = none ∧
    c.abandon.2.stage.staged = c.stage.staged ∧ c.abandon.2.stage.active = c.stage.active ∧ (x.at_ = none → c.abandon.2.stage.cur = c.stage.prev) := by
  obtain ⟨e, as, eq, seq, regs, stage⟩ : ∃ (e : Chip) (as : List Nat), c.abandon = (0, (e.setSstate ssPASSED).jrn .commit as) ∧ e.seq = (c.takeBack x).seq ∧
      e.regs = (c.takeBack x).regs ∧ e.stage = { (c.takeBack x).stage with sched := none } := by
    unfold Chip.abandon
    rw [if_neg (by rw [ssCLEAN]; omega), if_pos (show c.sstate = ssSCHEDULED from h), hs]
    simp only [hr, ne_eq, not_true, if_false]
    exact ⟨_, _, rfl, rfl, rfl, rfl⟩
  obtain ⟨leaves, staged, active, cur⟩ := c.takeBack_facts x
  have same : (c.takeBack x).leaves Fld.ofContext e :=
    ⟨fun m i _ => by rw [Chip.g, seq, Chip.g], fun m i _ => by rw [Chip.w, seq, Chip.w], fun f _ => by rw [Chip.get, regs, Chip.get]⟩
  have last : e.leaves Fld.ofPc ((e.setSstate ssPASSED).jrn .commit as) :=
    Chip.leaves_ofPc_notStage (Chip.leaves_trans (e.leaves_setSstate _) (Chip.leaves_mono (fun _ h => h.2) (Chip.leaves_jrn ..)))
  rw [eq]
  refine ⟨Chip.leaves_trans (Chip.leaves_mono (fun _ h => h.1) (Chip.leaves_trans leaves same)) last, rfl,
    (Chip.jrn_sstate ..).trans (Chip.setSstate_sstate _ _ (by decide)), ?_, ?_, ?_, fun h => ?_⟩
  all_goals dsimp only
  all_goals rw [Chip.jrn_stage, show (e.setSstate ssPASSED).stage = e.stage from rfl, stage]
  · exact staged
  · exact active
  · exact cur h

/-- What restorefac changes. -/
theorem Chip.restoreFac_facts (c : Chip) (items bars : Nat) :
    c.leaves Fld.notStage (c.restoreFac items bars) ∧ (c.restoreFac items bars).sstate = 1 ∧ (c.restoreFac items bars).stage.active = c.stage.active ∧
    (∀ k i, k < 16 → i < 8 → (c.restoreFac items bars).stage.staged.barT k i = if i = 2 ∧ bit items 3 = true ∧ bit bars k = true then
      { src := .restored, version := 0, len := 491584, body := [], fresh := true, geo := [] } else c.stage.staged.barT k i) ∧
    (c.restoreFac items bars).stage.staged.calib.items = c.stage.staged.calib.items ||| items % 8 ∧
    (c.restoreFac items bars).stage.staged.dev = c.stage.staged.dev := by
  let x := c.stage.staged
  let y := if bit items 3 then x.putTable 2 bars fun _ => { src := .restored, version := 0, len := 491584, fresh := true } else x
  obtain ⟨tables, dev⟩ : (∀ k i, k < 16 → i < 8 → y.barT k i = if i = 2 ∧ bit items 3 = true ∧ bit bars k = true then
      { src := .restored, version := 0, len := 491584, body := [], fresh := true, geo := [] } else x.barT k i) ∧ y.dev = x.dev := by
    unfold y
    cases bit items 3
    · simp
    · refine ⟨fun k i hk hi => ((TSet.putTable_tables x 2 bars _).1 k i hk hi).trans ?_, (TSet.foldl_setBarT _ 2 (by decide) _ x).1⟩
      simp
  have calib : y.calib = x.calib := by
    unfold y
    split
    · exact TSet.putTable_calib ..
    · rfl
  unfold Chip.restoreFac
  refine ⟨Chip.leaves_change_jrn .., Chip.change_jrn_sstate .., ?_, ?_, ?_, ?_⟩
  all_goals rw [Chip.change_jrn_stage]
  · exact tables
  · exact congrArg (fun z : Calib => z.items ||| items % 8) calib
  · exact dev

section
variable {n : CtxId} {f : Fields} {s : State} {i : Instr} {tr : List Nat} {g : Chip → Nat × Chip}
  (run : exec i s = .next (issueC n tr (fun c => c.unlessSettling n fun c => Chip.stageResult n f.gd.toNat (g c)) s)) (ready : Ready n s)
  (none : tr = [])
include run ready none

/-- A staging instruction waits while the set is SETTLING. -/
theorem staging_waits (h : s.chip.sstate = 4) : ∃ t, exec i s = .next t ∧ t.chip = s.chip.stall n 11 ∧ t.mem = s.mem :=
  ⟨_, run.trans (congrArg _ (issueC_settling ready h none _)), rfl, rfl⟩

/-- A staging instruction that does not wait runs its operation. -/
theorem staging_runs (h : s.chip.sstate ≠ 4) :
    exec i s = .next { s with chip := (g s.chip).2.finish n f.gd (BitVec.ofNat 64 (g s.chip).1) } :=
  run.trans (congrArg _ (issueC_staging ready h none _))

end

/-- Settles O27: each operation acts as the state of the staged set allows, and writes its number. -/
theorem stagedSetChanges : Obligations.StagedSetChanges := by
  unfold Obligations.StagedSetChanges
  intro n f s ready c settling
  refine ⟨fun x hx resv small good => ?stage, fun resv notScheduled => ?check, fun resv => ?abandon, fun resv bars hbars good => ?restorefac⟩
  case stage =>
    have kind : (⟨n, immOf f % 4, (s.chip.g n f.ga.toNat).toNat⟩ : Claim) = x := by
      rw [hx, show immOf f % 4 = f.imm.toNat from Nat.mod_eq_of_lt small]
    have traps (h : c.sstate ≠ 3) : resvRaw f 1 true true false true ++ trapIf (decide (4 ≤ immOf f)) RESERVED_FIELD ++
        trapIf (c.claimBad x (f.sub.getLsbD 0)) STAGE_ARG ++ trapIf (decide (c.sstate = ssSCHEDULED)) STAGE_BUSY = [] := by
      rw [resv, good, notScheduled_nil h, show decide (4 ≤ immOf f) = false from decide_eq_false (Nat.not_le.2 small)]
      rfl
    have run : exec (.stage n f) s = .next (issueC n (resvRaw f 1 true true false true ++ trapIf (decide (4 ≤ immOf f)) RESERVED_FIELD ++
        trapIf (c.claimBad x (f.sub.getLsbD 0)) STAGE_ARG ++ trapIf (decide (c.sstate = ssSCHEDULED)) STAGE_BUSY)
        (fun c => c.unlessSettling n fun c => Chip.stageResult n f.gd.toNat
          ((c.claim x (f.sub.getLsbD 0)).stage.staged.claims.length, c.claim x (f.sub.getLsbD 0))) s) := by
      change execStage n f s = _
      unfold execStage
      rw [kind, show bit (subOf f) 0 = f.sub.getLsbD 0 from bit_toNat ..]
      rfl
    refine ⟨fun h => staging_waits run ready (traps (by omega)) h, fun notScheduled notSettling => ⟨_, staging_runs run ready (traps notScheduled) notSettling, ?_⟩⟩
    obtain ⟨leaves, stage, claims, state⟩ := c.claim_facts x (f.sub.getLsbD 0)
    dsimp only
    rw [Chip.finish_stage, Chip.finish_sstate]
    exact ⟨congrArg Stage.staged stage, claims, (congrArg Stage.active stage :), state, stagingDone_finish (Chip.leaves_ofPc_notStage leaves)⟩
  case check =>
    have traps : resvRaw f 0 true false false false ++ trapIf (decide (c.sstate = ssSCHEDULED)) STAGE_BUSY = [] := by
      rw [resv, notScheduled_nil notScheduled]
      rfl
    have run : exec (.check n f) s = .next (issueC n (resvRaw f 0 true false false false ++ trapIf (decide (c.sstate = ssSCHEDULED)) STAGE_BUSY)
        (fun c => c.unlessSettling n fun c => Chip.stageResult n f.gd.toNat c.runCheck) s) := rfl
    refine ⟨staging_waits run ready traps, fun notSettling => ⟨_, staging_runs run ready traps notSettling, ?_⟩⟩
    obtain ⟨leaves, word, result, state, active⟩ := c.runCheck_facts
    dsimp only
    rw [Chip.finish_stage, Chip.finish_sstate, Chip.finish_get _ _ _ _ _ (by simp only [SEQ_SCHK_RESULT, SEQ_CPC_PC, fld, Blk.base]; omega) (by decide)]
    refine ⟨result, state, active, ?_⟩
    rw [← word]
    refine stagingDone_finish (Chip.leaves_mono (fun g hg => ⟨ofContext_notStage g hg.1, fun e => ?_⟩) leaves)
    obtain ⟨ctx, -⟩ := hg
    unfold Fld.ofContext at ctx
    rw [e] at ctx
    revert ctx
    decide
  case abandon =>
    have run : exec (.abandon n f) s = .next (issueC n (resvRaw f 0 true false false false)
      (fun c => c.unlessSettling n fun c => Chip.stageResult n f.gd.toNat c.abandon) s) := rfl
    have runs (h : c.sstate ≠ 4) := staging_runs run ready resv h
    refine ⟨staging_waits run ready resv, fun h => ⟨_, runs (by omega), ?_⟩, fun h => ⟨_, runs (by omega), ?_⟩,
      fun x h hs hr => ⟨_, runs (by omega), ?_⟩, fun x h hs hr => ⟨_, runs (by omega), ?_⟩⟩
    all_goals dsimp only
    all_goals rw [Chip.finish_stage]
    · have same : s.chip.abandon = (0, s.chip) := by rw [Chip.abandon, if_pos (show s.chip.sstate = ssCLEAN from h)]
      rw [same]
      exact ⟨rfl, stagingDone_finish (Chip.leaves_refl ..)⟩
    · obtain ⟨leaves, zero, stage, state⟩ := s.chip.abandon_changed h
      rw [Chip.finish_sstate, zero, stage]
      exact ⟨rfl, state, rfl, stagingDone_finish (Chip.leaves_ofPc_notStage leaves)⟩
    · have same : s.chip.abandon = (1, s.chip) := by
        have notClean : s.chip.sstate ≠ ssCLEAN := fun e => absurd (e.symm.trans h) (by decide)
        rw [Chip.abandon, if_neg notClean, if_pos (show s.chip.sstate = ssSCHEDULED from h), hs]
        exact if_pos hr
      rw [same, Chip.finish_sstate]
      exact ⟨rfl, h, stagingDone_finish (Chip.leaves_refl ..)⟩
    · obtain ⟨leaves, zero, state, sched, staged, active, cur⟩ := s.chip.abandon_scheduled x h hs hr
      rw [Chip.finish_sstate, zero]
      exact ⟨sched, state, staged, cur, active, stagingDone_finish leaves⟩
  case restorefac =>
    have traps (h : c.sstate ≠ 3) : resvRaw f 0 true true false true ++ trapIf (restoreBad (immOf f) bars) CAL_ARG ++
        trapIf (decide (c.sstate = ssSCHEDULED)) STAGE_BUSY = [] := by
      rw [resv, show restoreBad (immOf f) bars = false from good, notScheduled_nil h]
      rfl
    have run : exec (.restorefac n f) s = .next (issueC n (resvRaw f 0 true true false true ++ trapIf (restoreBad (immOf f) bars) CAL_ARG ++
        trapIf (decide (c.sstate = ssSCHEDULED)) STAGE_BUSY)
        (fun c => c.unlessSettling n fun c => Chip.stageResult n f.gd.toNat (0, c.restoreFac (immOf f) bars)) s) := hbars ▸ rfl
    refine ⟨fun h => staging_waits run ready (traps (by omega)) h, fun notScheduled notSettling => ⟨_, staging_runs run ready (traps notScheduled) notSettling, ?_⟩⟩
    obtain ⟨leaves, state, active, tables, items, dev⟩ := c.restoreFac_facts (immOf f) bars
    dsimp only
    rw [Chip.finish_stage, Chip.finish_sstate]
    exact ⟨tables, items, dev, active, state, stagingDone_finish (Chip.leaves_ofPc_notStage leaves)⟩

end Sys2Proof.Machine
end

section
/-!
PROOFS. Commits and the calibration stores (R360 to R373).
-/
namespace Sys2Proof.Machine

/-! ### What happens aside from the sequencer's registers and the staged set -/

/-- A field of the sequencer's window that reports leave. -/
def Fld.ofSeq (h : Fld) : Prop := h.still ∧ 0x10000 ≤ h.key / 128 ∧ h.key / 128 < 0x20000

theorem Blk.base_ge (b : Blk) (i : Nat) (hs : b ≠ .sys) (hq : b ≠ .seq) : 0x20000 ≤ b.base i := by
  cases b <;> first | exact absurd rfl hs | exact absurd rfl hq | (simp only [Blk.base]; omega)

theorem Fld.ofPc_ofSeq (h : Fld) (hh : h.ofPc) : h.ofSeq :=
  ⟨h.ofContext_still hh.1, by obtain ⟨⟨low, high⟩, -⟩ := hh; omega⟩

/-- Work that leaves the sequencer's registers and the stage. -/
def Chip.aside (c d : Chip) : Prop := c.leaves Fld.ofSeq d ∧ d.stage = c.stage

theorem Chip.aside_refl (c : Chip) : c.aside c := ⟨c.leaves_refl _, rfl⟩

theorem Chip.aside_trans {a b c : Chip} (h : a.aside b) (k : b.aside c) : a.aside c := ⟨Chip.leaves_trans h.1 k.1, k.2.trans h.2⟩

theorem Chip.aside_like {c d : Chip} (h : c.like d) : c.aside d := ⟨Chip.leaves_of_like (fun _ hh => hh.1) h, Chip.like_stage h⟩

theorem Chip.aside_of {c d : Chip} (hr : d.regs = c.regs) (hq : d.seq = c.seq) (hs : d.stage = c.stage) : c.aside d :=
  ⟨⟨fun m i _ => by rw [Chip.g, hq, Chip.g], fun m i _ => by rw [Chip.w, hq, Chip.w], fun f _ => by rw [Chip.get, hr, Chip.get]⟩, hs⟩

/-- A field outside the windows of the system and the sequencer. -/
def Fld.outside (f : Fld) : Prop := 0x20000 ≤ f.key / 128

theorem outside_fld {b : Blk} {i off lo w r : Nat} (hs : b ≠ .sys) (hq : b ≠ .seq) : (fld b i off lo w r).outside := by
  have low := b.base_ge i hs hq
  simp only [Fld.outside, fld]
  omega

theorem Chip.aside_set (c : Chip) (f : Fld) (v : Nat) (hf : f.outside) : c.aside (c.set f v) :=
  ⟨c.leaves_set _ _ fun h hh e => by
    obtain ⟨-, -, high⟩ := hh
    rw [e] at high
    exact absurd hf (Nat.not_le.2 high), rfl⟩

/-- Aside work goes on with a register outside the sequencer. -/
theorem Chip.aside.set {c d : Chip} (h : c.aside d) (f : Fld) (v : Nat) (hf : f.outside) : c.aside (d.set f v) :=
  Chip.aside_trans h (d.aside_set f v hf)

theorem Chip.aside_foldl {α : Type} (g : Chip → α → Chip) (hg : ∀ c a, Chip.aside c (g c a)) (xs : List α) (c : Chip) : c.aside (xs.foldl g c) := by
  induction xs generalizing c with
  | nil => exact c.aside_refl
  | cons x xs ih => exact Chip.aside_trans (hg c x) (ih _)

theorem Chip.aside_forAll {α : Type} (c : Chip) (xs : List α) (g : Chip → α → Chip) (hg : ∀ c a, Chip.aside c (g c a)) : c.aside (c.forAll xs g) :=
  Chip.aside_foldl g hg xs c

theorem Chip.aside_ite {p : Prop} [Decidable p] {c d e : Chip} (h : c.aside d) (k : c.aside e) : c.aside (if p then d else e) := by
  split
  · exact h
  · exact k

theorem Chip.aside_raise (c : Chip) (b : Blk) (i : Nat) (o : Occ) (hi : i < b.count) : c.aside (c.raise b i o) :=
  Chip.aside_like (c.like_raise b i o (evSource_lt b i · hi))

/-- Aside work goes on with what neither register nor stage shows. -/
theorem Chip.aside.unseen {c d e : Chip} (h : c.aside d) (hr : e.regs = d.regs) (hq : e.seq = d.seq) (hs : e.stage = d.stage) : c.aside e :=
  Chip.aside_trans h (Chip.aside_of hr hq hs)

/-! ### The parts of a commit -/

theorem Chip.aside_refreshPending (c : Chip) : c.aside c.refreshPending := c.aside_set _ _ (outside_fld (by decide) (by decide))

theorem Chip.aside_applyReset (c : Chip) (k n : Nat) : c.aside (c.applyReset k n) := by
  unfold Chip.applyReset
  dsimp only
  split
  · refine Chip.aside_ite (Chip.aside_trans ?_ (Chip.aside_refreshPending _)) c.aside_refl
    refine Chip.aside.set ?_ _ _ (outside_fld (by decide) (by decide))
    exact Chip.aside_trans (Chip.aside_of rfl rfl rfl) (Chip.aside_set _ _ _ (outside_fld (by decide) (by decide)))
  · exact c.aside_refl

theorem Chip.aside_planReset (x : TSet) (n : Nat) (c : Chip) (k : Nat) : c.aside (Chip.planReset x n c k) := by
  unfold Chip.planReset
  refine Chip.aside_ite c.aside_refl (Chip.aside_ite (Chip.aside_of rfl rfl rfl) ?_)
  exact Chip.aside_trans (Chip.aside_of rfl rfl rfl) (Chip.aside_applyReset _ _ _)

theorem Chip.aside_enableBar (x : TSet) (n : Nat) (c : Chip) (k : Nat) : c.aside (Chip.enableBar x n c k) := by
  unfold Chip.enableBar
  exact Chip.aside_ite (Chip.aside_of rfl rfl rfl) c.aside_refl

theorem Chip.aside_jrnCivil (c : Chip) : c.aside c.jrnCivil := Chip.aside_like (c.like_jrn ..)

/-- The civil offset takes a pending value. -/
def Chip.takeCivil (c : Chip) (new : Int) (later : Bool) : Chip :=
  let c := { c with time := { c.time with slew := none, holdAt := none } }
  let c := if later then c else c.set TB_STAT_CPEND 0
  let c := (c.setS TB_CIVOFS_OFS new).set TB_STAT_HOLDING 0
  (if c.get TB_CFG_POLICY = 2 then c.count TB_STAT_LOT else c).jrnCivil

theorem Chip.aside_takeCivil (c : Chip) (new : Int) (later : Bool) : c.aside (c.takeCivil new later) := by
  unfold Chip.takeCivil
  refine Chip.aside_trans (Chip.aside_of (d := { c with time := { c.time with slew := none, holdAt := none } }) rfl rfl rfl) ?_
  generalize ({ c with time := { c.time with slew := none, holdAt := none } } : Chip) = c
  have cleared : c.aside (if later then c else c.set TB_STAT_CPEND 0) := Chip.aside_ite c.aside_refl (c.aside_set _ _ (outside_fld (by decide) (by decide)))
  have moved : c.aside (((if later then c else c.set TB_STAT_CPEND 0).setS TB_CIVOFS_OFS new).set TB_STAT_HOLDING 0) :=
    (cleared.set TB_CIVOFS_OFS (uns TB_CIVOFS_OFS.width new) (outside_fld (by decide) (by decide))).set TB_STAT_HOLDING 0 (outside_fld (by decide) (by decide))
  exact Chip.aside_trans moved <| Chip.aside_trans (Chip.aside_ite (Chip.aside_set _ _ _ (outside_fld (by decide) (by decide))) (Chip.aside_refl _)) (Chip.aside_jrnCivil _)

theorem Chip.aside_applyCivil (c : Chip) (cpt : Nat) : c.aside (c.applyCivil cpt) := by
  unfold Chip.applyCivil
  split
  · exact c.aside_refl
  next new later _ =>
    have taken := c.aside_takeCivil new later
    dsimp only
    split
    · refine Chip.aside_trans taken (Chip.aside_ite ?_ (Chip.aside_refl _))
      refine Chip.aside.set ?_ _ _ (outside_fld (by decide) (by decide))
      exact Chip.aside_of rfl rfl rfl
    · exact taken
    · exact Chip.aside_trans taken (Chip.aside_ite (Chip.aside_like (Chip.like_event _ _ _ _ _ (by decide))) (Chip.aside_refl _))

theorem Chip.aside_noteTherm (c : Chip) (s : TSet) (terms : FMap Int) (k h : Nat) : c.aside (c.noteTherm s terms k h) := by
  unfold Chip.noteTherm
  exact Chip.aside_trans (Chip.aside_ite (c.aside_raise _ _ _ (by decide)) c.aside_refl)
    (Chip.aside_ite (Chip.aside_refl _) (Chip.aside_raise _ _ _ _ (by decide)))

theorem Chip.aside_retherm (c : Chip) : c.aside c.retherm := by
  unfold Chip.retherm
  exact Chip.aside_trans (Chip.aside_of rfl rfl rfl)
    (Chip.aside_forAll _ _ _ fun c k => Chip.aside_forAll _ _ _ fun c h => c.aside_noteTherm _ _ _ _)

theorem Chip.aside_applyCalib (c : Chip) (items : Nat) : c.aside (c.applyCalib items) := by
  unfold Chip.applyCalib
  have ports : c.aside (if bit items 1 then c.forAll (List.range 4) fun c p =>
      (c.set (TB_PORTLAT_TXLAT p) (TB_PORTLAT_TXLAT p).reset).set (TB_PORTLAT_RXLAT p) (TB_PORTLAT_RXLAT p).reset else c) :=
    Chip.aside_ite (Chip.aside_forAll _ _ _ fun c p => (c.aside_set _ _ (outside_fld (by decide) (by decide))).set _ _ (outside_fld (by decide) (by decide))) c.aside_refl
  exact Chip.aside_ite (ports.unseen rfl rfl rfl) ports

/-! ### Settling (R354, R363) -/

/-- The set x takes effect in full. -/
theorem Chip.settle_facts (c : Chip) (x : Sched) :
    c.leaves (fun h => h.ofSeq ∧ h.key ≠ SEQ_SSTAT_STATE.key) (c.settle x) ∧ (c.settle x).sstate = 4 ∧
    (c.settle x).stage = { c.stage with active := x.set, sched := none, calItems := x.set.calib.items } := by
  unfold Chip.settle
  let d : Chip := { c with stage := { c.stage with active := x.set, sched := none, calItems := x.set.calib.items }, fire := { c.fire with therm := c.fire.thermNext } }
  have regs : c.leaves Fld.ofSeq d := ⟨fun _ _ _ => rfl, fun _ _ _ => rfl, fun _ _ => rfl⟩
  have carries : d.aside (d.forAll (List.range 16) fun c k => c.setBar k { c.bar k with carry := (c.bar k).carry.take (x.set.width k) }) :=
    Chip.aside_forAll _ _ _ fun _ _ => Chip.aside_of rfl rfl rfl
  have calib : d.aside (if x.cal then d.forAll (List.range 16) fun c k => c.setBar k { c.bar k with carry := (c.bar k).carry.take (x.set.width k) }
      else (d.forAll (List.range 16) fun c k => c.setBar k { c.bar k with carry := (c.bar k).carry.take (x.set.width k) }).applyCalib x.set.calib.items) :=
    Chip.aside_trans carries (Chip.aside_ite (Chip.aside_refl _) (Chip.aside_applyCalib _ _))
  exact ⟨Chip.leaves_trans (Chip.leaves_mono (fun _ h => h.1) (Chip.leaves_trans regs calib.1)) (Chip.leaves_set _ _ _ fun _ h => h.2),
    (Chip.get_set_same ..).trans (by rfl), calib.2⟩

/-- The staged set takes effect once every bar has reached it. -/
theorem Chip.checkSettle_facts (c : Chip) (h : c.sstate = 3) :
    c.leaves (fun h => h.ofSeq ∧ h.key ≠ SEQ_SSTAT_STATE.key) c.checkSettle ∧ (c.checkSettle.sstate = 3 ∨ c.checkSettle.sstate = 4) ∧
    c.checkSettle.stage.staged = c.stage.staged ∧ c.checkSettle.stage.cur = c.stage.cur := by
  unfold Chip.checkSettle
  split
  next x _ =>
    split
    · obtain ⟨leaves, state, stage⟩ := c.settle_facts x
      exact ⟨leaves, .inr state, by rw [stage], by rw [stage]⟩
    · exact ⟨c.leaves_refl _, .inl h, rfl, rfl⟩
  · exact ⟨c.leaves_refl _, .inl h, rfl, rfl⟩

/-! ### Accepted commits (R363) -/

/-- The staged set is scheduled at a web point, under the next generation. -/
def Chip.schedule (c : Chip) (cpt nk : Nat) (raised : Bool) : Chip :=
  let x := c.stage.staged
  let scpt := match c.stage.sched with | some y => y.scpt | none => c.get SEQ_SCPT_CPOINT
  let g := (c.get SEQ_SCGEN_CGEN + 1) % 2 ^ 32
  let c := (c.set SEQ_SCGEN_CGEN g).set SEQ_SCPT_CPOINT cpt
  let c : Chip := { c with stage := { c.stage with
    sched := some { set := x, c := cpt, nk := nk, raised := raised, before := c.stage.prev, scpt := scpt },
    prev := c.stage.cur, cur := { gen := g, cpoint := cpt, raised := raised, restored := x.isRestored } } }
  c.setSstate ssSCHEDULED

/-- A raised commit shows in SEQ_SSTAT. -/
def Chip.noteRaised (c : Chip) (raised : Bool) : Chip :=
  let c := if raised then (c.latchRs SEQ_SSTAT_RAISED).bump SEQ_SSTAT_RAISES else c
  if raised && c.runs then c.raise .seq 0 { src := 4 } else c

/-- The bars, the civil time and the thermal terms follow a commit. -/
def Chip.follow (c : Chip) (x : TSet) (open' : Bool) (g cpt nk : Nat) (raised : Bool) : Chip :=
  let c := c.jrn .commit [0, g, cpt, b2n raised]
  let c := c.forAll (List.range 16) (Chip.planReset x nk)
  let c := if open' then c.forAll (List.range 16) (Chip.enableBar x nk) else c
  let c := c.applyCivil cpt
  let c : Chip := { c with fire := { c.fire with thermNext := c.fire.therm } }
  if (x.devT 6).fresh then c.retherm else c

theorem Chip.acceptCommit_eq (c : Chip) (cpt : Nat) (raised : Bool) :
    let open' := c.is SEQ_PSTAT_OPEN
    let p := if open' then cpt else 0
    let nk := if open' then firstRow c.pitch p else 0
    let d := ((c.schedule p nk raised).noteRaised raised).follow c.stage.staged open' ((c.get SEQ_SCGEN_CGEN + 1) % 2 ^ 32) p nk raised
    c.acceptCommit cpt raised = if open' then d.checkSettle else match d.stage.sched with | some y => d.settle y | none => d := rfl

theorem Chip.aside_follow (c : Chip) (x : TSet) (open' : Bool) (g cpt nk : Nat) (raised : Bool) : c.aside (c.follow x open' g cpt nk raised) := by
  unfold Chip.follow
  have journalled : c.aside (c.jrn .commit [0, g, cpt, b2n raised]) := Chip.aside_like (c.like_jrn ..)
  have resets := Chip.aside_trans journalled (Chip.aside_forAll _ (List.range 16) (Chip.planReset x nk) (Chip.aside_planReset x nk))
  have bars : c.aside (if open' then ((c.jrn .commit [0, g, cpt, b2n raised]).forAll (List.range 16) (Chip.planReset x nk)).forAll (List.range 16) (Chip.enableBar x nk)
      else (c.jrn .commit [0, g, cpt, b2n raised]).forAll (List.range 16) (Chip.planReset x nk)) :=
    Chip.aside_ite (Chip.aside_trans resets (Chip.aside_forAll _ _ _ (Chip.aside_enableBar x nk))) resets
  have civil := (Chip.aside_trans bars (Chip.aside_applyCivil _ cpt))
  refine Chip.aside_trans (Chip.aside.unseen civil ?_ ?_ ?_) (Chip.aside_ite (Chip.aside_retherm _) (Chip.aside_refl _)) <;> rfl

/-- A scheduled commit shows its generation and its web point. -/
theorem Chip.schedule_facts (c : Chip) (cpt nk : Nat) (raised : Bool) :
    c.leaves (fun h => h.key ≠ SEQ_SCGEN_CGEN.key ∧ h.key ≠ SEQ_SCPT_CPOINT.key ∧ h.key ≠ SEQ_SSTAT_STATE.key) (c.schedule cpt nk raised) ∧
    (c.schedule cpt nk raised).get SEQ_SCGEN_CGEN = (c.get SEQ_SCGEN_CGEN + 1) % 2 ^ 32 ∧
    (c.schedule cpt nk raised).get SEQ_SCPT_CPOINT = cpt % 2 ^ 64 ∧ (c.schedule cpt nk raised).sstate = 3 ∧
    (∃ y, (c.schedule cpt nk raised).stage.sched = some y ∧ y.set = c.stage.staged) ∧
    (c.schedule cpt nk raised).stage.staged = c.stage.staged ∧
    (c.schedule cpt nk raised).stage.cur.gen = (c.get SEQ_SCGEN_CGEN + 1) % 2 ^ 32 ∧ (c.schedule cpt nk raised).stage.cur.raised = raised := by
  unfold Chip.schedule
  refine ⟨?_, ?_, ?_, Chip.setSstate_sstate _ _ (by decide), ⟨_, rfl, rfl⟩, rfl, rfl, rfl⟩
  · exact Chip.leaves_trans (Chip.leaves_trans (c.leaves_set _ _ fun _ h => h.1) (Chip.leaves_set _ _ _ fun _ h => h.2.1)) (Chip.leaves_set _ _ _ fun _ h => h.2.2)
  · refine (Chip.get_set_ne _ _ _ _ (by decide)).trans ((Chip.get_set_ne _ _ _ _ (by decide)).trans ((Chip.get_set_same ..).trans ?_))
    exact Nat.mod_mod _ _
  · exact (Chip.get_set_ne _ _ _ _ (by decide)).trans (Chip.get_set_same ..)

theorem Chip.leaves_latchRs {P : Fld → Prop} (c : Chip) (f : Fld) (hf : ∀ h, P h → h.key ≠ f.key) : c.leaves P (c.latchRs f) :=
  ⟨fun _ _ _ => rfl, fun _ _ _ => rfl, fun h p => Chip.get_set_ne _ _ _ _ (hf h p)⟩

theorem ofSeq_fld (off lo w r : Nat) (h1 : 0x40 ≤ off) (h2 : off < 0x400 ∨ 0x800 ≤ off) (h3 : off < 0x10000) (hl : lo < 128) :
    (fld .seq 0 off lo w r).ofSeq :=
  ⟨still_seq off lo w r h1 h2 h3 hl, by simp only [fld, Blk.base]; omega, by simp only [fld, Blk.base]; omega⟩

/-- The fields of a commit are not among the program counters. -/
theorem ofPc_key_ne (h : Fld) (hh : h.ofPc) (off lo w r : Nat) (ho : off < 0x100) (hl : lo < 128) : h.key ≠ (fld .seq 0 off lo w r).key := by
  intro e
  obtain ⟨⟨low, -⟩, -⟩ := hh
  simp only [e, fld, Blk.base] at low
  omega

/-- A raised commit shows in SSTAT only. -/
theorem Chip.noteRaised_facts (c : Chip) (raised : Bool) :
    c.leaves (fun h => h.ofSeq ∧ h.key ≠ SEQ_SSTAT_RAISED.key ∧ h.key ≠ SEQ_SSTAT_RAISES.key) (c.noteRaised raised) ∧
    (c.noteRaised raised).stage = c.stage ∧ (raised = true → (c.noteRaised raised).get SEQ_SSTAT_RAISED = 1) := by
  unfold Chip.noteRaised
  cases raised
  · exact ⟨c.leaves_refl _, rfl, fun h => absurd h (by decide)⟩
  · simp only [if_true, Bool.true_and, forall_const]
    let d := (c.latchRs SEQ_SSTAT_RAISED).bump SEQ_SSTAT_RAISES
    have shown : c.leaves (fun h => h.ofSeq ∧ h.key ≠ SEQ_SSTAT_RAISED.key ∧ h.key ≠ SEQ_SSTAT_RAISES.key) d :=
      Chip.leaves_trans (c.leaves_latchRs SEQ_SSTAT_RAISED fun _ h => h.2.1) (Chip.leaves_set _ _ _ fun _ h => h.2.2)
    have raise : d.aside (if d.runs then d.raise .seq 0 { src := 4 } else d) := Chip.aside_ite (d.aside_raise _ _ _ (by decide)) d.aside_refl
    refine ⟨Chip.leaves_trans shown (Chip.leaves_mono (fun _ h => h.1) raise.1), raise.2, ?_⟩
    exact (raise.1.2.2 _ (ofSeq_fld _ _ _ _ (by decide) (by decide) (by decide) (by decide))).trans ((Chip.get_set_ne _ _ _ _ (by decide)).trans (Chip.get_set_same c SEQ_SSTAT_RAISED 1))

/-- An accepted commit. -/
theorem Chip.acceptCommit_facts (c : Chip) (cpt : Nat) (raised : Bool) :
    let d := c.acceptCommit cpt raised
    c.leaves Fld.ofPc d ∧ d.get SEQ_SCGEN_CGEN = (c.get SEQ_SCGEN_CGEN + 1) % 2 ^ 32 ∧
    d.get SEQ_SCPT_CPOINT = (if c.get SEQ_PSTAT_OPEN = 0 then 0 else cpt) % 2 ^ 64 ∧
    d.stage.cur.gen = (c.get SEQ_SCGEN_CGEN + 1) % 2 ^ 32 ∧ d.stage.cur.raised = raised ∧ d.stage.staged = c.stage.staged ∧
    (c.get SEQ_PSTAT_OPEN = 0 → d.sstate = 4 ∧ d.stage.active = c.stage.staged) ∧ (c.get SEQ_PSTAT_OPEN ≠ 0 → d.sstate = 3 ∨ d.sstate = 4) ∧
    (raised = true → d.get SEQ_SSTAT_RAISED = 1) := by
  intro d
  let open' := c.is SEQ_PSTAT_OPEN
  let p := if open' then cpt else 0
  let nk := if open' then firstRow c.pitch p else 0
  let e := (c.schedule p nk raised).noteRaised raised
  let g := e.follow c.stage.staged open' ((c.get SEQ_SCGEN_CGEN + 1) % 2 ^ 32) p nk raised
  have eq : d = if open' then g.checkSettle else match g.stage.sched with | some y => g.settle y | none => g := c.acceptCommit_eq cpt raised
  obtain ⟨leaves1, gen, point, state, ⟨y, sched, set⟩, staged, curGen, curRaised⟩ := c.schedule_facts p nk raised
  obtain ⟨leaves2, stage2, shown⟩ := (c.schedule p nk raised).noteRaised_facts raised
  obtain ⟨leaves3, stage3⟩ := e.aside_follow c.stage.staged open' ((c.get SEQ_SCGEN_CGEN + 1) % 2 ^ 32) p nk raised
  have stage : g.stage = (c.schedule p nk raised).stage := stage3.trans stage2
  have scgen : SEQ_SCGEN_CGEN.ofSeq := ofSeq_fld _ _ _ _ (by decide) (by decide) (by decide) (by decide)
  have scpt : SEQ_SCPT_CPOINT.ofSeq := ofSeq_fld _ _ _ _ (by decide) (by decide) (by decide) (by decide)
  have sstat : SEQ_SSTAT_STATE.ofSeq := ofSeq_fld _ _ _ _ (by decide) (by decide) (by decide) (by decide)
  have raises : SEQ_SSTAT_RAISED.ofSeq := ofSeq_fld _ _ _ _ (by decide) (by decide) (by decide) (by decide)
  have kept (h : Fld) (hs : h.ofSeq) (hr : h.key ≠ SEQ_SSTAT_RAISED.key) (hc : h.key ≠ SEQ_SSTAT_RAISES.key) : g.get h = (c.schedule p nk raised).get h :=
    (leaves3.2.2 h hs).trans (leaves2.2.2 h ⟨hs, hr, hc⟩)
  have leavesG : c.leaves Fld.ofPc g := Chip.leaves_trans
    (Chip.leaves_mono (fun h hh => ⟨ofPc_key_ne h hh _ _ _ _ (by decide) (by decide), ofPc_key_ne h hh _ _ _ _ (by decide) (by decide), ofPc_key_ne h hh _ _ _ _ (by decide) (by decide)⟩) leaves1)
    (Chip.leaves_trans (Chip.leaves_mono (fun h hh => ⟨h.ofPc_ofSeq hh, ofPc_key_ne h hh _ _ _ _ (by decide) (by decide), ofPc_key_ne h hh _ _ _ _ (by decide) (by decide)⟩) leaves2)
      (Chip.leaves_mono Fld.ofPc_ofSeq leaves3))
  have stateG : g.sstate = 3 := (kept _ sstat (by decide) (by decide)).trans state
  -- With a stream open the bars decide, otherwise the set takes effect.
  obtain ⟨last, cur, stagedD, closed, opened⟩ : g.leaves (fun h => h.ofSeq ∧ h.key ≠ SEQ_SSTAT_STATE.key) d ∧ d.stage.cur = g.stage.cur ∧
      d.stage.staged = g.stage.staged ∧ (open' = false → d.sstate = 4 ∧ d.stage.active = c.stage.staged) ∧ (open' = true → d.sstate = 3 ∨ d.sstate = 4) := by
    rw [eq]
    by_cases ho : open' = true
    · obtain ⟨leaves4, state4, staged4, cur4⟩ := g.checkSettle_facts stateG
      rw [if_pos ho]
      exact ⟨leaves4, cur4, staged4, fun h => absurd (h.symm.trans ho) (by decide), fun _ => state4⟩
    · obtain ⟨leaves4, state4, stage4⟩ := g.settle_facts y
      rw [if_neg ho, stage, sched]
      exact ⟨leaves4, by rw [stage4]; exact (congrArg Stage.cur stage :), by rw [stage4]; exact (congrArg Stage.staged stage :), fun _ => ⟨state4, by rw [stage4]; exact set⟩, fun h => absurd h ho⟩
  have is_open : open' = true ↔ c.get SEQ_PSTAT_OPEN ≠ 0 := Chip.is_iff ..
  refine ⟨Chip.leaves_trans leavesG (Chip.leaves_mono (fun h hh => ⟨h.ofPc_ofSeq hh, ofPc_key_ne h hh _ _ _ _ (by decide) (by decide)⟩) last), ?_, ?_, ?_, ?_, ?_, ?_, ?_, ?_⟩
  · exact (last.2.2 _ ⟨scgen, by decide⟩).trans ((kept _ scgen (by decide) (by decide)).trans gen)
  · refine (last.2.2 _ ⟨scpt, by decide⟩).trans ((kept _ scpt (by decide) (by decide)).trans (point.trans ?_))
    unfold p
    by_cases h : c.get SEQ_PSTAT_OPEN = 0
    · rw [if_neg (mt is_open.1 (Classical.not_not.2 h)), if_pos h]
    · rw [if_pos (is_open.2 h), if_neg h]
  · rw [cur, stage, curGen]
  · rw [cur, stage, curRaised]
  · rw [stagedD, stage, staged]
  · exact fun h => closed (by rw [← Bool.not_eq_true, is_open]; exact Classical.not_not.2 h)
  · exact fun h => opened (is_open.2 h)
  · exact fun h => (last.2.2 _ ⟨raises, by decide⟩).trans ((leaves3.2.2 _ raises).trans (shown h))

theorem Chip.leaves_ofPc_set (c : Chip) (f : Fld) (v : Nat) (hf : f.key / 128 < 0x10100) : c.leaves Fld.ofPc (c.set f v) :=
  c.leaves_set _ v fun h hh e => by
    obtain ⟨⟨low, -⟩, -⟩ := hh
    rw [e] at low
    omega

theorem Chip.leaves_ofPc_jrn (c : Chip) (k : JKind) (as : List Nat) (bs : List Byte) : c.leaves Fld.ofPc (c.jrn k as bs) :=
  Chip.leaves_of_like (fun h hh => h.ofContext_still hh.1) (c.like_jrn k as bs)

/-- SCPT shows again what it showed before the commit under way. -/
def Chip.restorePoint (c : Chip) : Chip := match c.stage.sched with | some x => c.set SEQ_SCPT_CPOINT x.scpt | none => c

/-- The set is DIRTY with a result word, and nothing is scheduled. -/
def Chip.refuseSet (c : Chip) (w : Nat) : Chip := { (c.set SEQ_SCHK_RESULT w).setSstate ssDIRTY with stage := { c.stage with sched := none } }

theorem Chip.conflict_eq (c : Chip) (w : Nat) : c.conflict w = (c.restorePoint.refuseSet w).jrn .commit [3, w, 0, 0] := rfl

theorem Chip.refuseSet_get (c : Chip) (w : Nat) (h : Fld) : (c.refuseSet w).get h = ((c.set SEQ_SCHK_RESULT w).set SEQ_SSTAT_STATE ssDIRTY).get h := rfl

theorem Chip.restorePoint_facts (c : Chip) :
    c.leaves Fld.ofPc c.restorePoint ∧ c.restorePoint.stage = c.stage ∧ c.restorePoint.get SEQ_SCGEN_CGEN = c.get SEQ_SCGEN_CGEN := by
  unfold Chip.restorePoint
  split
  · exact ⟨c.leaves_ofPc_set _ _ (by decide), rfl, Chip.get_set_ne _ _ _ _ (by decide)⟩
  · exact ⟨c.leaves_refl _, rfl, rfl⟩

/-- A recheck that fails. -/
theorem Chip.conflict_facts (c : Chip) (w : Nat) :
    c.leaves Fld.ofPc (c.conflict w) ∧ (c.conflict w).get SEQ_SCHK_RESULT = w % 2 ^ 64 ∧ (c.conflict w).sstate = 1 ∧
    (c.conflict w).stage = { c.stage with sched := none } ∧ (c.conflict w).get SEQ_SCGEN_CGEN = c.get SEQ_SCGEN_CGEN := by
  rw [Chip.conflict_eq]
  obtain ⟨leaves, stage, gen⟩ := c.restorePoint_facts
  have refused : c.restorePoint.leaves Fld.ofPc (c.restorePoint.refuseSet w) :=
    Chip.leaves_trans (Chip.leaves_ofPc_set _ SEQ_SCHK_RESULT w (by decide))
      (Chip.leaves_ofPc_set (c.restorePoint.set SEQ_SCHK_RESULT w) SEQ_SSTAT_STATE ssDIRTY (by decide) :)
  refine ⟨Chip.leaves_trans leaves (Chip.leaves_trans refused (Chip.leaves_ofPc_jrn ..)), ?_, ?_, ?_, ?_⟩
  · rw [Chip.jrn_get _ _ _ _ _ (by decide), Chip.refuseSet_get, Chip.get_set_ne _ _ _ _ (by decide), Chip.get_set_same]
    rfl
  · rw [Chip.jrn_sstate, Chip.sstate, Chip.refuseSet_get, Chip.get_set_same]
    rfl
  · rw [Chip.jrn_stage, Chip.refuseSet, stage]
  · rw [Chip.jrn_get _ _ _ _ _ (by decide), Chip.refuseSet_get, Chip.get_set_ne _ _ _ _ (by decide), Chip.get_set_ne _ _ _ _ (by decide), gen]

/-- committ for time t. -/
theorem Chip.committ_facts (c : Chip) (t : Nat) :
    c.leaves Fld.ofPc (c.committ t) ∧ (c.committ t).sstate = 3 ∧ (c.committ t).get SEQ_SCPT_CPOINT = 2 ^ 64 - 1 ∧
    (∃ x, (c.committ t).stage.sched = some x ∧ x.set = c.stage.staged ∧ x.at_ = some t ∧ x.reached = 0) ∧
    (c.committ t).get SEQ_SCGEN_CGEN = c.get SEQ_SCGEN_CGEN := by
  unfold Chip.committ
  dsimp only
  let x : Sched := { set := c.stage.staged, at_ := some t, scpt := c.get SEQ_SCPT_CPOINT, before := c.stage.prev }
  let d : Chip := { c with stage := { c.stage with sched := some x } }
  have shown : c.leaves Fld.ofPc ((d.set SEQ_SCPT_CPOINT (2 ^ 64 - 1)).setSstate ssSCHEDULED) :=
    Chip.leaves_trans (Chip.leaves_ofPc_set d SEQ_SCPT_CPOINT (2 ^ 64 - 1) (by decide) : c.leaves Fld.ofPc (d.set SEQ_SCPT_CPOINT (2 ^ 64 - 1)))
      (Chip.leaves_ofPc_set (d.set SEQ_SCPT_CPOINT (2 ^ 64 - 1)) SEQ_SSTAT_STATE ssSCHEDULED (by decide))
  refine ⟨Chip.leaves_trans shown (Chip.leaves_ofPc_jrn ..), ?_, ?_, ⟨x, by rw [Chip.jrn_stage]; rfl, rfl, rfl, rfl⟩, ?_⟩
  · exact (Chip.jrn_sstate ..).trans (Chip.setSstate_sstate (d.set SEQ_SCPT_CPOINT (2 ^ 64 - 1)) _ (by decide))
  · exact (Chip.jrn_get _ _ _ _ _ (by decide)).trans ((Chip.get_set_ne _ _ _ _ (by decide)).trans (Chip.get_set_same d SEQ_SCPT_CPOINT (2 ^ 64 - 1)))
  · exact (Chip.jrn_get _ _ _ _ _ (by decide)).trans ((Chip.get_set_ne _ _ _ _ (by decide)).trans (Chip.get_set_ne d _ _ _ (by decide)))

/-- The end of an instruction leaves the registers before those of the contexts. -/
theorem Chip.finish_get_low (c : Chip) (n : CtxId) (gd : BitVec 5) (v : W64) (h : Fld) (low : h.key / 128 < 0x10100) :
    (c.finish n gd v).get h = c.get h := by
  refine c.finish_get n gd v h (fun e => ?_) (fun e => ?_)
  · simp only [e, SEQ_CPC_PC, fld, Blk.base] at low
    omega
  · rw [e] at low
    revert low
    decide

/-- Settles O28: commitw rechecks, raises or accepts; committ only waits for its time. -/
theorem commitsAreAccepted : Obligations.CommitsAreAccepted := by
  unfold Obligations.CommitsAreAccepted
  intro n f s ready c w opened late state accepted
  have free : c.sstate ≠ 4 := fun h => by omega
  have commit : c.commitTraps = [] := by
    unfold Chip.commitTraps
    rw [decide_eq_false (show c.sstate ≠ ssDIRTY from fun h => by rw [ssDIRTY] at h; omega), notScheduled_nil fun h => by omega]
    rfl
  have isLate (p : Nat) : c.commitLate p = true ↔ late p := by
    unfold Chip.commitLate late
    rw [Bool.and_eq_true, Chip.is_iff, decide_eq_true_iff]
  have accepts (p : Nat) (raised : Bool) (r : Nat) :
      accepted { s with chip := (c.acceptCommit p raised).finish n f.gd (BitVec.ofNat 64 r) } p raised ∧
      StagingDone n f.gd r s { s with chip := (c.acceptCommit p raised).finish n f.gd (BitVec.ofNat 64 r) } := by
    obtain ⟨leaves, gen, point, curGen, curRaised, staged, closed, open', -⟩ := c.acceptCommit_facts p raised
    refine ⟨?_, stagingDone_finish leaves⟩
    simp only [accepted]
    rw [Chip.finish_sstate, Chip.finish_stage, Chip.finish_get_low _ _ _ _ _ (by decide), Chip.finish_get_low _ _ _ _ _ (by decide)]
    exact ⟨gen, point, curGen, curRaised, staged, closed, open'⟩
  refine ⟨fun p reg hp resv strict => ?commitw, fun resv => ?committ⟩
  case commitw =>
    have low : f.ga.toNat < 8 := reg
    have run : exec (.commitw n f) s = .next (issueC n (resvRaw f 1 true true false false ++ resvW f.ga ++ c.commitTraps ++
        trapIf (bit (subOf f) 0 && c.sstate ≠ ssSETTLING && c.commitLate p) STAGE_LATE)
        (fun c => c.unlessSettling n fun c => Chip.stageResult n f.gd.toNat (c.commitw p)) s) := by
      change execCommitw n f s = _
      unfold execCommitw
      rw [hp, Nat.mod_eq_of_lt low]
    have none : resvRaw f 1 true true false false ++ resvW f.ga ++ c.commitTraps ++
        trapIf (bit (subOf f) 0 && c.sstate ≠ ssSETTLING && c.commitLate p) STAGE_LATE = [] := by
      have notStrict : (bit (subOf f) 0 && decide (c.sstate ≠ ssSETTLING) && c.commitLate p) = false := by
        rw [show bit (subOf f) 0 = f.sub.getLsbD 0 from bit_toNat ..]
        rcases strict with h | h
        · rw [h]; rfl
        · rw [Bool.eq_false_iff.2 (mt (isLate p).1 h), Bool.and_false]
      rw [resv, commit, notStrict, resvW, decide_eq_false (Nat.not_le.2 low)]
      rfl
    have runs := staging_runs run ready none free
    refine ⟨fun bad => ⟨_, runs, ?_⟩, fun good early => ⟨_, runs, ?_⟩, fun good lateP => ⟨_, runs, ?_⟩⟩
    · have eq : c.commitw p = (2, c.conflict w) := if_pos bad
      obtain ⟨leaves, word, dirty, stage, gen⟩ := c.conflict_facts w
      dsimp only
      rw [show s.chip.commitw p = _ from eq, Chip.finish_sstate, Chip.finish_stage, Chip.finish_get_low _ _ _ _ _ (by decide),
        Chip.finish_get_low _ _ _ _ _ (by decide), stage]
      exact ⟨word, dirty, rfl, rfl, gen, stagingDone_finish leaves⟩
    · have eq : c.commitw p = (0, c.acceptCommit p false) := (if_neg (Classical.not_not.2 good)).trans (if_neg (mt (isLate p).1 early))
      rw [show s.chip.commitw p = _ from eq]
      exact accepts p false 0
    · have eq : c.commitw p = (1, c.acceptCommit c.frontHorizon true) := (if_neg (Classical.not_not.2 good)).trans (if_pos ((isLate p).2 lateP))
      rw [show s.chip.commitw p = _ from eq]
      obtain ⟨acc, done⟩ := accepts c.frontHorizon true 1
      obtain ⟨-, -, -, -, -, -, -, -, shown⟩ := c.acceptCommit_facts c.frontHorizon true
      exact ⟨acc, (Chip.finish_get_low _ _ _ _ _ (by decide)).trans (shown rfl), done⟩
  case committ =>
    have run : exec (.committ n f) s = .next (issueC n (resvRaw f 0 true true false false ++ c.commitTraps)
        (fun c => c.unlessSettling n fun c => Chip.stageResult n f.gd.toNat (0, c.committ (c.g n f.ga.toNat).toNat)) s) := rfl
    obtain ⟨leaves, scheduled, point, set, gen⟩ := c.committ_facts (c.g n f.ga.toNat).toNat
    refine ⟨_, staging_runs run ready (by rw [resv, commit]; rfl) free, ?_⟩
    dsimp only
    rw [Chip.finish_sstate, Chip.finish_stage, Chip.finish_get_low _ _ _ _ _ (by decide), Chip.finish_get_low _ _ _ _ _ (by decide)]
    exact ⟨scheduled, point, set, gen, stagingDone_finish leaves⟩

/-! ### The end of SETTLING (R354, R355) -/

/-- A context that runs, with no wait shown, still does after another is resumed. -/
theorem Chip.resume_running (c : Chip) (m n : Nat) (hm : m < 17) (h : c.ctxState n = RUNNABLE ∧ c.get (SEQ_CWAIT_KIND n) = 0) (hn : n < 17) :
    (c.resume m).ctxState n = RUNNABLE ∧ (c.resume m).get (SEQ_CWAIT_KIND n) = 0 := by
  by_cases e : n = m
  · subst e
    exact ⟨c.resume_ctxState ⟨n, hn⟩, c.resume_kind ⟨n, hn⟩⟩
  · have keys (g : Nat → Fld) (hg : g = SEQ_CSTAT_STATE ∨ g = SEQ_CWAIT_KIND) : (g n).key ≠ (SEQ_CSTAT_STATE m).key ∧
        (g n).key ≠ (SEQ_CWAIT_KIND m).key ∧ (g n).key ≠ (SEQ_CWAIT_OPERAND m).key := by
      rcases hg with rfl | rfl <;> simp only [SEQ_CSTAT_STATE, SEQ_CWAIT_KIND, SEQ_CWAIT_OPERAND, fld, Blk.base] <;> omega
    have left (g : Nat → Fld) (hg : g = SEQ_CSTAT_STATE ∨ g = SEQ_CWAIT_KIND) : (c.resume m).get (g n) = c.get (g n) := by
      obtain ⟨state, kind, operand⟩ := keys g hg
      unfold Chip.resume Chip.setCtxState
      rw [Chip.get_set_ne _ _ _ _ operand, Chip.get_set_ne _ _ _ _ kind, Chip.get_set_ne _ _ _ _ state]
    exact ⟨(left _ (.inl rfl)).trans h.1, (left _ (.inr rfl)).trans h.2⟩

theorem Chip.foldl_resume (n : Nat) (hn : n < 17) (ks : List Nat) (hk : ∀ k ∈ ks, k < 17) (c : Chip)
    (h : n ∈ ks ∨ (c.ctxState n = RUNNABLE ∧ c.get (SEQ_CWAIT_KIND n) = 0)) :
    (ks.foldl Chip.resume c).ctxState n = RUNNABLE ∧ (ks.foldl Chip.resume c).get (SEQ_CWAIT_KIND n) = 0 := by
  induction ks generalizing c with
  | nil => exact h.resolve_left (by simp)
  | cons k ks ih =>
    have hk0 := hk k (by simp)
    refine ih (fun j hj => hk j (by simp [hj])) _ ?_
    rcases h with h | h
    · rcases List.mem_cons.1 h with rfl | h
      · exact .inr ⟨c.resume_ctxState ⟨n, hn⟩, c.resume_kind ⟨n, hn⟩⟩
      · exact .inl h
    · exact .inr (c.resume_running k n hk0 h hn)

/-- A context that waits with KIND k issues again. -/
theorem Chip.wakeKind_resumes (c : Chip) (k : Nat) (n : CtxId) (stalled : c.ctxState n = STALLED) (kind : c.get (SEQ_CWAIT_KIND n) = k) :
    (c.wakeKind k).ctxState n = RUNNABLE ∧ (c.wakeKind k).get (SEQ_CWAIT_KIND n) = 0 := by
  refine Chip.foldl_resume n n.isLt _ (fun k hk => ?_) c (.inl ?_)
  · exact List.mem_range.1 (List.mem_filter.1 hk).1
  · simp [List.mem_filter, stalled, kind]

/-- Nothing was restored, so no bank is written. -/
theorem Chip.saveRestored_none (c : Chip) (h : c.stage.calItems = 0) : c.saveRestored = c := if_pos (.inl h)

/-- SETTLING ends. -/
theorem Chip.settlingEnd_facts (c : Chip) (settling : c.sstate = 4) (nothing : c.stage.calItems = 0) :
    c.settlingEnd.sstate = 0 ∧ c.settlingEnd.stage.active = c.stage.active.settled ∧ c.settlingEnd.stage.staged = c.stage.active.settled ∧
    sameG c c.settlingEnd ∧ sameW c c.settlingEnd ∧
    ∀ n : CtxId, c.ctxState n = STALLED → c.get (SEQ_CWAIT_KIND n) = 11 → c.settlingEnd.ctxState n = RUNNABLE ∧ c.settlingEnd.get (SEQ_CWAIT_KIND n) = 0 := by
  let d : Chip := { c with stage := { c.stage with active := c.stage.active.settled, staged := c.stage.active.settled } }
  let e := d.setSstate ssCLEAN
  have stage : (e.wakeKind 11).stage = d.stage := (congrArg Chip.stage (e.unlisted_wakeKind 11) :)
  have eq : c.settlingEnd = e.wakeKind 11 := by
    unfold Chip.settlingEnd
    rw [if_neg (Classical.not_not.2 (show c.sstate = ssSETTLING from settling))]
    exact Chip.saveRestored_none _ (by rw [show (e.wakeKind 11).stage = d.stage from stage]; exact nothing)
  obtain ⟨g, w, fields⟩ := e.leaves_calm_wakeKind 11
  have ctx (h : Fld) (hh : h.ofContext) : e.get h = c.get h := Chip.get_set_ne d _ _ _ fun k => by
    unfold Fld.ofContext at hh
    rw [k] at hh
    revert hh
    decide
  rw [eq, stage]
  refine ⟨?_, rfl, rfl, g, w, fun n stalled kind => ?_⟩
  · exact (fields _ (.inl (by decide))).trans (d.setSstate_sstate ssCLEAN (by decide))
  · exact e.wakeKind_resumes 11 n ((ctx _ (fld_seq_ofContext _ _ _ _ (by omega) (by omega) (by omega))).trans stalled)
      ((ctx _ (fld_seq_ofContext _ _ _ _ (by omega) (by omega) (by omega))).trans kind)

/-! ### User bank writes (R368 to R373) -/

theorem Chip.aside_norTemp (c : Chip) : c.aside c.norTemp :=
  Chip.aside_trans (c.aside_set _ _ (outside_fld (by decide) (by decide))) (Chip.aside_raise _ _ _ _ (by decide))

theorem Chip.norTemp_result (c : Chip) : c.norTemp.get NV_STAT_RESULT = 1 :=
  ((Chip.like_raise _ .nv 0 _ (evSource_lt _ _ · (by decide))).2 _ (by unfold Fld.still; decide)).trans (Chip.get_set_same c NV_STAT_RESULT 1)

theorem Chip.writeTemp_iff (c : Chip) : c.writeTemp = true ↔ -80 ≤ c.getS HL_THSTAT_THETA_J ∧ c.getS HL_THSTAT_THETA_J ≤ 1600 := by
  unfold Chip.writeTemp
  rw [Bool.and_eq_true, decide_eq_true_iff, decide_eq_true_iff]

/-- A user bank write that starts. -/
theorem Chip.startNor_facts (c : Chip) (items : Nat) (bank : UserBank) (idle : c.get NV_STAT_BUSY = 0) (cool : c.writeTemp = true) :
    (c.startNor items bank).1 = 0 ∧ c.leaves Fld.ofPc (c.startNor items bank).2 ∧ (c.startNor items bank).2.get NV_STAT_BUSY = 1 ∧
    (c.startNor items bank).2.stage.write = some ⟨items, bank⟩ ∧ (c.startNor items bank).2.stage.active = c.stage.active ∧
    (c.startNor items bank).2.stage.staged = c.stage.staged := by
  obtain ⟨g, eq, write, active, staged⟩ : ∃ g : Stage, c.startNor items bank = (0, ({ c with stage := g } : Chip).set NV_STAT_BUSY 1) ∧
      g.write = some ⟨items, bank⟩ ∧ g.active = c.stage.active ∧ g.staged = c.stage.staged := by
    unfold Chip.startNor
    rw [if_neg (by rw [Chip.is_iff]; exact Classical.not_not.2 idle), cool]
    refine ⟨_, rfl, ?_⟩
    dsimp only
    split <;> exact ⟨rfl, rfl, rfl⟩
  rw [eq]
  let d : Chip := { c with stage := g }
  exact ⟨rfl, Chip.leaves_mono Fld.ofPc_ofSeq (d.aside_set NV_STAT_BUSY 1 (outside_fld (by decide) (by decide))).1, Chip.get_set_same d NV_STAT_BUSY 1,
    write, active, staged⟩

/-- calsave while a write runs, in a write's temperature range, and outside it. -/
theorem Chip.calSave_cases (c : Chip) (items ssc : Nat) :
    (c.get NV_STAT_BUSY ≠ 0 → c.calSave items ssc = (1, c)) ∧
    (c.get NV_STAT_BUSY = 0 → c.writeTemp = true → c.calSave items ssc =
      (0, (c.startNor items (c.newBank items ssc c.laneValues c.portValues)).2.jrn .stage [4, items, ssc])) ∧
    (c.get NV_STAT_BUSY = 0 → c.writeTemp = false → c.calSave items ssc = (2, c.norTemp)) := by
  refine ⟨fun busy => ?_, fun idle cool => ?_, fun idle hot => ?_⟩
  · unfold Chip.calSave Chip.startNor
    rw [if_pos (Chip.is_iff.2 busy)]
    rfl
  · have zero := (c.startNor_facts items (c.newBank items ssc c.laneValues c.portValues) idle cool).1
    unfold Chip.calSave
    rw [← Prod.eta (c.startNor items (c.newBank items ssc c.laneValues c.portValues)), zero]
    rfl
  · unfold Chip.calSave Chip.startNor
    rw [if_neg (by rw [Chip.is_iff]; exact Classical.not_not.2 idle), hot]
    rfl

/-- BUSY and RESULT of NV_STAT. -/
def Fld.norResult (h : Fld) : Prop := h.key = NV_STAT_BUSY.key ∨ h.key = NV_STAT_RESULT.key

theorem norResult_still (h : Fld) (hh : h.norResult) : h.still := by
  rcases hh with e | e <;> (unfold Fld.still; rw [e]; decide)

theorem Chip.leaves_norResult_set (d : Chip) (f : Fld) (v : Nat) (h1 : NV_STAT_BUSY.key ≠ f.key) (h2 : NV_STAT_RESULT.key ≠ f.key) :
    d.leaves Fld.norResult (d.set f v) :=
  d.leaves_set f v fun _ hh e => hh.elim (fun k => h1 (k.symm.trans e)) (fun k => h2 (k.symm.trans e))

theorem Chip.setLane_aside (c : Chip) (l : Nat) (x : Lane) : c.leaves (fun _ => True) (c.setLane l x) ∧ (c.setLane l x).stage = c.stage :=
  ⟨⟨fun _ _ _ => rfl, fun _ _ _ => rfl, fun _ _ => rfl⟩, rfl⟩

theorem Chip.useLanes_aside (c : Chip) (m : FMap Nat) : c.leaves (fun _ => True) (c.useLanes m) ∧ (c.useLanes m).stage = c.stage := by
  unfold Chip.useLanes
  exact ⟨Chip.leaves_foldl _ (fun c l => (c.setLane_aside l _).1) _ c, Chip.forAll_congr Chip.stage _ (fun c l => (c.setLane_aside l _).2) _ c⟩

/-- The bank that a write has filled, and the end of the write, without the event and what follows. -/
def Chip.closeWrite (c : Chip) (w : NorWrite) (ok hot : Bool) : Chip :=
  let g : Stage := { c.stage with write := none }
  let toA := g.bankB? || !g.bankA.valid
  let g : Stage := if !(ok && !hot) then g else if toA then { g with bankA := w.bank } else { g with bankB := w.bank }
  ({ c with stage := g } : Chip).set NV_STAT_BUSY 0

/-- RESULT of a write that has ended. -/
def Chip.showResult (c : Chip) (ok hot : Bool) : Chip := if hot then c.norTemp else c.set NV_STAT_RESULT (if ok then 0 else 2)

theorem Chip.norDone_eq (c : Chip) (ok hot : Bool) (w : NorWrite) (write : c.stage.write = some w) :
    c.norDone ok hot =
      let d := (c.closeWrite w ok hot).showResult ok hot
      ((if (ok && !hot) = true ∧ bit w.items 0 then d.useLanes w.bank.lanes else d).showBank.norEvent).saveRestored.startShutBist := by
  unfold Chip.norDone
  rw [write]
  rfl

theorem Chip.closeWrite_facts (c : Chip) (w : NorWrite) (ok hot : Bool) :
    sameG c (c.closeWrite w ok hot) ∧ sameW c (c.closeWrite w ok hot) ∧ (c.closeWrite w ok hot).get NV_STAT_BUSY = 0 ∧
    (c.closeWrite w ok hot).stage.write = none ∧ (c.closeWrite w ok hot).stage.calItems = c.stage.calItems ∧
    (ok = true → hot = false → c.stage.bankB? = true ∨ c.stage.bankA.valid = false →
      (c.closeWrite w ok hot).stage.bankA = w.bank ∧ (c.closeWrite w ok hot).stage.bankB = c.stage.bankB) ∧
    (ok = true → hot = false → c.stage.bankB? = false → c.stage.bankA.valid = true →
      (c.closeWrite w ok hot).stage.bankB = w.bank ∧ (c.closeWrite w ok hot).stage.bankA = c.stage.bankA) ∧
    (ok = false ∨ hot = true → (c.closeWrite w ok hot).stage.bankA = c.stage.bankA ∧ (c.closeWrite w ok hot).stage.bankB = c.stage.bankB) := by
  refine ⟨fun _ _ _ => rfl, fun _ _ _ => rfl, Chip.get_set_same _ NV_STAT_BUSY 0, ?_⟩
  obtain ⟨g, stage, write, items, a, b, none⟩ : ∃ g : Stage, (c.closeWrite w ok hot).stage = g ∧ g.write = none ∧ g.calItems = c.stage.calItems ∧
      ((ok && !hot) = true → (c.stage.bankB? || !c.stage.bankA.valid) = true → g.bankA = w.bank ∧ g.bankB = c.stage.bankB) ∧
      ((ok && !hot) = true → (c.stage.bankB? || !c.stage.bankA.valid) = false → g.bankB = w.bank ∧ g.bankA = c.stage.bankA) ∧
      ((ok && !hot) = false → g.bankA = c.stage.bankA ∧ g.bankB = c.stage.bankB) := by
    refine ⟨_, rfl, ?_⟩
    unfold Chip.closeWrite
    simp only [Chip.set_stage]
    cases ok && !hot
    · simp
    · rw [show ({ c.stage with write := Option.none } : Stage).bankB? = c.stage.bankB? from rfl]
      cases c.stage.bankB? || !c.stage.bankA.valid <;> simp
  rw [stage]
  refine ⟨write, items, fun h1 h2 h3 => a (by simp [h1, h2]) (by simpa using h3), fun h1 h2 h3 h4 => b (by simp [h1, h2]) (by simp [h3, h4]),
    fun h => none (by rcases h with rfl | rfl <;> simp)⟩

/-- What follows the end of a write leaves BUSY, RESULT and the stage. -/
theorem Chip.leaves_norEnd (c : Chip) (nothing : c.stage.calItems = 0) :
    c.leaves Fld.norResult (c.showBank.norEvent).saveRestored.startShutBist ∧ (c.showBank.norEvent).saveRestored.startShutBist.stage = c.stage := by
  have bank : c.leaves Fld.norResult c.showBank := by
    unfold Chip.showBank
    exact Chip.leaves_trans (Chip.leaves_trans (c.leaves_norResult_set _ _ (by decide) (by decide)) (Chip.leaves_norResult_set _ _ _ (by decide) (by decide))) (Chip.leaves_norResult_set _ _ _ (by decide) (by decide))
  have event : c.showBank.aside c.showBank.norEvent := Chip.aside_like (Chip.like_event _ _ _ _ _ (by decide))
  have leaves : c.leaves Fld.norResult c.showBank.norEvent := Chip.leaves_trans bank (Chip.leaves_of_like norResult_still (Chip.like_event _ _ _ _ _ (by decide)))
  have stage : c.showBank.norEvent.stage = c.stage := event.2
  rw [Chip.saveRestored_none _ (by rw [stage]; exact nothing)]
  unfold Chip.startShutBist
  split
  · unfold Chip.startWaves
    refine ⟨Chip.leaves_trans leaves ?_, stage⟩
    let d : Chip := { c.showBank.norEvent with health := { c.showBank.norEvent.health with
      bist := c.showBank.norEvent.health.bist.map fun r => { r with dtStart := c.showBank.norEvent.ns } } }
    exact Chip.leaves_trans (d.leaves_norResult_set HL_BSTAT_STATE 2 (by decide) (by decide)) (Chip.leaves_norResult_set _ HL_BSTAT_WAVE 0 (by decide) (by decide))
  · exact ⟨leaves, stage⟩

theorem Chip.norDone_facts (c : Chip) (ok hot : Bool) (w : NorWrite) (write : c.stage.write = some w) (nothing : c.stage.calItems = 0) :
    let d := c.norDone ok hot
    sameG c d ∧ sameW c d ∧ d.get NV_STAT_BUSY = 0 ∧ d.get NV_STAT_RESULT = (if hot then 1 else if ok then 0 else 2) ∧ d.stage.write = none ∧
    (ok = true → hot = false → c.stage.bankB? = true ∨ c.stage.bankA.valid = false → d.stage.bankA = w.bank ∧ d.stage.bankB = c.stage.bankB) ∧
    (ok = true → hot = false → c.stage.bankB? = false → c.stage.bankA.valid = true → d.stage.bankB = w.bank ∧ d.stage.bankA = c.stage.bankA) ∧
    (ok = false ∨ hot = true → d.stage.bankA = c.stage.bankA ∧ d.stage.bankB = c.stage.bankB) := by
  obtain ⟨g1, w1, busy, write1, items1, a, b, bad⟩ := c.closeWrite_facts w ok hot
  let d1 := c.closeWrite w ok hot
  obtain ⟨⟨g2, w2, -⟩, stage2⟩ : d1.aside (d1.showResult ok hot) :=
    Chip.aside_ite d1.aside_norTemp (d1.aside_set _ _ (outside_fld (by decide) (by decide)))
  have busy2 : (d1.showResult ok hot).get NV_STAT_BUSY = 0 := by
    unfold Chip.showResult
    split
    · exact ((Chip.like_raise (d1.set NV_STAT_RESULT 1) .nv 0 { src := 0 } (evSource_lt _ _ · (by decide))).2 _ (by unfold Fld.still; decide)).trans
        ((Chip.get_set_ne _ _ _ _ (by decide)).trans busy)
    · exact (Chip.get_set_ne _ _ _ _ (by decide)).trans busy
  have result2 : (d1.showResult ok hot).get NV_STAT_RESULT = if hot then 1 else if ok then 0 else 2 := by
    unfold Chip.showResult
    cases hot
    · refine (Chip.get_set_same ..).trans ?_
      cases ok <;> rfl
    · exact d1.norTemp_result
  let d2 := d1.showResult ok hot
  obtain ⟨⟨g3, w3, f3⟩, stage3⟩ : d2.leaves (fun _ => True) (if (ok && !hot) = true ∧ bit w.items 0 then d2.useLanes w.bank.lanes else d2) ∧
      (if (ok && !hot) = true ∧ bit w.items 0 then d2.useLanes w.bank.lanes else d2).stage = d2.stage := by
    split
    · exact d2.useLanes_aside _
    · exact ⟨d2.leaves_refl _, rfl⟩
  rw [c.norDone_eq ok hot w write]
  dsimp only
  generalize (if (ok && !hot) = true ∧ bit w.items 0 then d2.useLanes w.bank.lanes else d2) = d3 at g3 w3 f3 stage3
  obtain ⟨⟨g4, w4, f4⟩, stage4⟩ := d3.leaves_norEnd (by rw [stage3]; exact (congrArg Stage.calItems stage2).trans (items1.trans nothing))
  have stage : ((d3.showBank.norEvent).saveRestored.startShutBist).stage = d1.stage := stage4.trans (stage3.trans stage2)
  rw [stage]
  exact ⟨fun m i hi => (g4 m i hi).trans ((g3 m i hi).trans ((g2 m i hi).trans (g1 m i hi))),
    fun m i hi => (w4 m i hi).trans ((w3 m i hi).trans ((w2 m i hi).trans (w1 m i hi))),
    (f4 _ (.inl rfl)).trans ((f3 _ trivial).trans busy2), (f4 _ (.inr rfl)).trans ((f3 _ trivial).trans result2), write1, a, b, bad⟩

/-- Settles O29: each write, fixing and settling ends as its conditions say. -/
theorem calibrationAndCommitTiming : Obligations.CalibrationAndCommitTiming := by
  unfold Obligations.CalibrationAndCommitTiming
  refine ⟨fun n f s ready resv => ?calsave, fun t s x T sched fixed => ?committ, fun t s settling nothing => ?settling, fun t ok hot s w write nothing => ?write⟩
  case calsave =>
    intro c ssc good
    have run : exec (.calsave n f) s = .next { s with chip := (c.calSave f.imm.toNat ssc).2.finish n f.gd (BitVec.ofNat 64 (c.calSave f.imm.toNat ssc).1) } := by
      change execCalsave n f s = _
      unfold execCalsave
      dsimp only
      rw [issueC_of_nil ready (by rw [resv, show saveBad (immOf f) ((s.chip.g n f.ga.toNat).toNat % 256) = false from good]; rfl)]
      rfl
    obtain ⟨busy, cool, hot⟩ := c.calSave_cases f.imm.toNat ssc
    refine ⟨fun h => ⟨_, run, ?_⟩, fun idle range => ?_, fun idle range => ⟨_, run, ?_⟩⟩
    · dsimp only
      rw [busy h, Chip.finish_stage]
      exact ⟨rfl, stagingDone_finish (Chip.leaves_refl ..)⟩
    · obtain ⟨-, leaves, shown, write, active, staged⟩ :=
        c.startNor_facts f.imm.toNat (c.newBank f.imm.toNat ssc c.laneValues c.portValues) idle (c.writeTemp_iff.2 range)
      rw [cool idle (c.writeTemp_iff.2 range)] at run
      refine ⟨_, ⟨f.imm.toNat, c.newBank f.imm.toNat ssc c.laneValues c.portValues⟩, run, ?_, ?_, rfl, rfl, rfl, fun h => if_pos h, fun h => if_neg (by simp [h]), ?_, ?_,
        stagingDone_finish (Chip.leaves_trans leaves (Chip.leaves_ofPc_jrn ..))⟩
      · exact (Chip.finish_get _ _ _ _ _ (by simp only [NV_STAT_BUSY, SEQ_CPC_PC, fld, Blk.base]; omega) (by decide)).trans ((Chip.jrn_get _ _ _ _ _ (by decide)).trans shown)
      all_goals dsimp only
      all_goals rw [Chip.finish_stage, Chip.jrn_stage]
      · exact write
      · exact active
      · exact staged
    · rw [hot idle (Bool.eq_false_iff.2 (mt c.writeTemp_iff.1 range)), ]
      dsimp only
      rw [Chip.finish_stage]
      obtain ⟨leaves, stage⟩ := c.aside_norTemp
      exact ⟨(Chip.finish_get _ _ _ _ _ (by simp only [NV_STAT_RESULT, SEQ_CPC_PC, fld, Blk.base]; omega) (by decide)).trans c.norTemp_result, stage,
        stagingDone_finish (Chip.leaves_mono Fld.ofPc_ofSeq leaves)⟩
  case committ =>
    intro c runs due
    have run : exec (.committFix t) s = .next ((s.at_ t).onChip fun c => if c.runs then c.committFix else c) := rfl
    have field (h : Fld) (hh : h.key / 128 < 0x10100) (hl : 0x10000 ≤ h.key / 128) : c.get h = s.chip.get h := s.at_get t h fun k hk e => by
      simp only [timeFields, List.mem_cons, List.not_mem_nil, or_false] at hk
      rw [e] at hh
      rcases hk with rfl | rfl | rfl | rfl <;> (revert hh; decide)
    have fix : c.committFix = if recheck c x.set ≠ 0 then (c.conflict (recheck c x.set)).raise .seq 0 { src := 5 } else c.acceptCommit c.frontHorizon false := by
      unfold Chip.committFix
      rw [show c.stage = s.chip.stage from s.at_stage t, sched]
      dsimp only
      rw [fixed]
      dsimp only
      rw [if_neg (Nat.not_lt.2 due)]
    refine ⟨fun good => ⟨_, run, ?_⟩, fun bad => ⟨_, run, ?_⟩⟩
    all_goals rw [State.onChip_mem, State.at_mem, State.onChip_chip, if_pos runs, fix]
    · rw [if_neg (Classical.not_not.2 good)]
      obtain ⟨⟨g, w, -⟩, gen, point, -⟩ := c.acceptCommit_facts c.frontHorizon false
      rw [field _ (by decide) (by decide)] at gen point
      exact ⟨rfl, fun m i hi => (g m i hi).trans (s.at_g t m i), fun m i hi => (w m i hi).trans (s.at_w t m i), gen, point⟩
    · rw [if_pos bad]
      obtain ⟨⟨g, w, -⟩, word, dirty, stage, gen⟩ := c.conflict_facts (recheck c x.set)
      obtain ⟨⟨g', w', fields⟩, stage'⟩ := (c.conflict (recheck c x.set)).aside_raise .seq 0 { src := 5 } (by decide)
      have same (h : Fld) (hh : h.ofSeq) := fields h hh
      refine ⟨rfl, fun m i hi => ((g' m i hi).trans (g m i hi)).trans (s.at_g t m i), fun m i hi => ((w' m i hi).trans (w m i hi)).trans (s.at_w t m i), ?_, ?_, ?_, ?_⟩
      · rw [stage', stage]
      · exact (same _ (ofSeq_fld _ _ _ _ (by decide) (by decide) (by decide) (by decide))).trans dirty
      · exact (same _ (ofSeq_fld _ _ _ _ (by decide) (by decide) (by decide) (by decide))).trans word
      · exact (same _ (ofSeq_fld _ _ _ _ (by decide) (by decide) (by decide) (by decide))).trans (gen.trans (field _ (by decide) (by decide)))
  case settling =>
    have run : exec (.settlingEnd t) s = .next ((s.at_ t).onChip (·.settlingEnd)) := rfl
    have same : (s.at_ t).chip.sstate = s.chip.sstate := s.at_seqField _ _ _ _ _ (by decide) (by decide)
    obtain ⟨clean, active, staged, g, w, wake⟩ := (s.at_ t).chip.settlingEnd_facts (same.trans settling) (by rw [State.at_stage]; exact nothing)
    refine ⟨_, run, ?_⟩
    rw [State.onChip_mem, State.at_mem, State.onChip_chip]
    refine ⟨rfl, clean, staged.trans active.symm, ?_, fun m i hi => ?_, fun m i hi => ?_, fun n stalled kind => ?_⟩
    · rw [← s.at_stage t]
      exact active
    · exact (g m i hi).trans (s.at_g t m i)
    · exact (w m i hi).trans (s.at_w t m i)
    · have waits : (s.at_ t).chip.get (SEQ_CWAIT_KIND n) = s.chip.get (SEQ_CWAIT_KIND n) := s.at_seqField _ _ _ _ _ (by omega) (by omega)
      rw [Resumed, State.onChip_chip]
      exact wake n ((s.at_ctxState t n).trans stalled) (waits.trans kind)
  case write =>
    have run : exec (.norWriteDone t ok hot) s = .next ((s.at_ t).onChip fun c => c.norDone ok hot) := rfl
    have stage := s.at_stage t
    obtain ⟨g, w, busy, result, none, toA, toB, kept⟩ := (s.at_ t).chip.norDone_facts ok hot w (by rw [stage]; exact write) (by rw [stage]; exact nothing)
    rw [stage] at toA toB kept
    refine ⟨_, run, ?_⟩
    rw [State.onChip_mem, State.at_mem, State.onChip_chip]
    exact ⟨rfl, none, busy, result, toA, toB, kept, fun m i hi => (g m i hi).trans (s.at_g t m i), fun m i hi => (w m i hi).trans (s.at_w t m i)⟩

end Sys2Proof.Machine
end

section
/-!
PROOFS. Arithmetic, constants, conditions, w registers and jumps (R54, R55, R65, R66).
-/
namespace Sys2Proof.Machine

/-! ### Instructions whose effect is a value in gD -/

section
variable {n : CtxId} {f : Fields} {s : State} {i : Instr} {tr : List Nat} {v : W64} (ready : Ready n s)
include ready

theorem gives_of_issueG (run : exec i s = .next (issueG n f tr v s)) (none : tr = []) : Gives i n f.gd v s :=
  ⟨_, run, by rw [none]; exact issueG_wrote ready v⟩

theorem gives_of_alu {mask : Nat} {op : W64 → W64 → W64} (run : exec i s = .next (alu mask op n f s)) (none : resvOp2 f mask = []) :
    Gives i n f.gd (op (s.chip.g n f.ga.toNat) (s.chip.op2 n f)) s :=
  gives_of_issueG ready run none

/-- An instruction that only goes on. -/
theorem gives_next (run : exec i s = .next (issueC n tr (·.next n) s)) (none : tr = []) : Gives i n 0 0 s := by
  refine ⟨_, run, ?_⟩
  rw [issueC_of_nil ready none]
  exact ⟨rfl, rfl, Chip.pc_next .., Chip.setG_set_frame s.chip n 0 0 (SEQ_CPC_PC n) (s.chip.pc n + 1)⟩

end

/-- Settles O1: each instruction is its operation on the two operands. -/
theorem arithmeticLogicShift : Obligations.ArithmeticLogicShift := by
  unfold Obligations.ArithmeticLogicShift
  intro n f s ready none a b
  exact ⟨gives_of_alu ready rfl none, gives_of_alu ready rfl none, gives_of_alu ready rfl none, gives_of_alu ready rfl none,
    gives_of_alu ready rfl none, gives_of_alu ready rfl none, gives_of_alu (op := fun a b => a &&& ~~~b) ready rfl none,
    gives_of_alu (op := fun a b => a <<< amount b) ready rfl none, gives_of_alu (op := fun a b => a >>> amount b) ready rfl none,
    gives_of_alu (op := fun a b => a.sshiftRight (amount b)) ready rfl none, gives_of_alu (op := fun a b => a.rotateRight (amount b)) ready rfl none⟩

/-! ### Signed and unsigned operations -/

theorem quotient_signed (a b : W64) : quotient true a b = a.sdiv b := by
  apply BitVec.eq_of_toInt_eq
  rw [BitVec.toInt_sdiv]
  exact BitVec.toInt_ofInt _

theorem quotient_unsigned (a b : W64) : quotient false a b = a / b := by
  apply BitVec.eq_of_toNat_eq
  rw [BitVec.toNat_udiv]
  exact (BitVec.toNat_ofNat ..).trans (Nat.mod_eq_of_lt (Nat.lt_of_le_of_lt (Nat.div_le_self ..) a.isLt))

theorem remainder_signed (a b : W64) : remainder true a b = a.srem b := by
  change BitVec.ofInt 64 (a.toInt.tmod b.toInt) = _
  rw [← BitVec.toInt_srem, BitVec.ofInt_toInt]

theorem remainder_unsigned (a b : W64) : remainder false a b = a % b := by
  apply BitVec.eq_of_toNat_eq
  rw [BitVec.toNat_umod]
  exact (BitVec.toNat_ofNat ..).trans (Nat.mod_eq_of_lt (Nat.lt_of_le_of_lt (Nat.mod_le ..) a.isLt))

theorem lesser_eq (a b : W64) : lesser true a b = (if b.slt a then b else a) ∧ lesser false a b = if b.ult a then b else a := by
  simp [lesser, BitVec.slt_eq_decide, BitVec.ult_eq_decide]

theorem greater_eq (a b : W64) : greater true a b = (if a.slt b then b else a) ∧ greater false a b = if a.ult b then b else a := by
  simp [greater, BitVec.slt_eq_decide, BitVec.ult_eq_decide]

theorem sbit_eq (f : Fields) : sbit f = f.sub.getLsbD 0 := bit_toNat ..

/-- Settles O2: SUB[0] chooses between the signed and the unsigned operation. -/
theorem signedUnsignedArithmetic : Obligations.SignedUnsignedArithmetic := by
  unfold Obligations.SignedUnsignedArithmetic
  intro n f s ready none a b
  have divTraps (hb : b ≠ 0) : resvOp2 f 1 ++ trapIf (s.chip.op2 n f == 0) DIV_ZERO = [] := by
    rw [none, beq_eq_false_iff_ne.2 hb]
    rfl
  have divRun : exec (.div n f) s = .next (issueG n f (resvOp2 f 1 ++ trapIf (s.chip.op2 n f == 0) DIV_ZERO) (quotient (f.sub.getLsbD 0) a b) s) := by
    rw [← sbit_eq]
    rfl
  have remRun : exec (.rem n f) s = .next (issueG n f (resvOp2 f 1 ++ trapIf (s.chip.op2 n f == 0) DIV_ZERO) (remainder (f.sub.getLsbD 0) a b) s) := by
    rw [← sbit_eq]
    rfl
  have high : Gives (.mulh n f) n f.gd (mulHigh (f.sub.getLsbD 0) a b) s := by
    rw [← sbit_eq]
    exact gives_of_alu ready rfl none
  have least : Gives (.min n f) n f.gd (lesser (f.sub.getLsbD 0) a b) s := by
    rw [← sbit_eq]
    exact gives_of_alu ready rfl none
  have most : Gives (.max n f) n f.gd (greater (f.sub.getLsbD 0) a b) s := by
    rw [← sbit_eq]
    exact gives_of_alu ready rfl none
  refine ⟨fun signed hb => ?_, fun unsigned hb => ?_, fun signed => ?_, fun unsigned => ?_⟩
  · rw [signed, quotient_signed] at divRun
    rw [signed, remainder_signed] at remRun
    exact ⟨gives_of_issueG ready divRun (divTraps hb), gives_of_issueG ready remRun (divTraps hb)⟩
  · rw [unsigned, quotient_unsigned] at divRun
    rw [unsigned, remainder_unsigned] at remRun
    exact ⟨gives_of_issueG ready divRun (divTraps hb), gives_of_issueG ready remRun (divTraps hb)⟩
  · rw [signed] at high least most
    exact ⟨high, (lesser_eq a b).1 ▸ least, (greater_eq a b).1 ▸ most⟩
  · rw [unsigned] at high least most
    exact ⟨high, (lesser_eq a b).2 ▸ least, (greater_eq a b).2 ▸ most⟩

/-! ### Products over a divisor, counts and constants -/

theorem mulDiv_floor {a b : W64} {m r : Nat} (low : r * m ≤ a.toNat * b.toNat) (high : a.toNat * b.toNat < (r + 1) * m) : mulDiv false a b m = r :=
  Nat.div_eq_of_lt_le low high

theorem odd_mul (r m : Nat) : (2 * r + 1) * m = 2 * (r * m) + m := by rw [Nat.add_mul, Nat.mul_assoc, Nat.one_mul]

theorem succ_mul_double (r m : Nat) : (r + 1) * (2 * m) = 2 * (r * m) + 2 * m := by rw [Nat.add_mul, Nat.one_mul, Nat.mul_left_comm]

theorem mulDiv_round {a b : W64} {m r : Nat} (low : (2 * r - 1) * m ≤ 2 * (a.toNat * b.toNat)) (zero : r = 0 → 2 * (a.toNat * b.toNat) < m)
    (high : 2 * (a.toNat * b.toNat) < (2 * r + 1) * m) : mulDiv true a b m = r := by
  change (2 * (a.toNat * b.toNat) + m) / (2 * m) = r
  generalize a.toNat * b.toNat = p at *
  apply Nat.div_eq_of_lt_le
  · cases r with
    | zero => omega
    | succ r =>
      have : (2 * (r + 1) - 1) * m = 2 * (r * m) + m := by
        rw [show 2 * (r + 1) - 1 = 2 * r + 1 by omega]
        exact odd_mul r m
      have := succ_mul_double r m
      omega
  · have := odd_mul r m
    have := succ_mul_double r m
    omega

theorem leadZeros_spec (a : W64) : leadZeros 64 a.toNat ≤ 64 ∧ a.toNat < 2 ^ (64 - leadZeros 64 a.toNat) ∧
    (leadZeros 64 a.toNat < 64 → 2 ^ (63 - leadZeros 64 a.toNat) ≤ a.toNat) := by
  unfold leadZeros
  rw [Nat.mod_eq_of_lt a.isLt]
  split
  next h => simp [h]
  next h =>
    have small : a.toNat.log2 < 64 := (Nat.log2_lt h).2 a.isLt
    refine ⟨by omega, ?_, fun _ => ?_⟩
    · rw [show 64 - (64 - (a.toNat.log2 + 1)) = a.toNat.log2 + 1 by omega]
      exact Nat.lt_log2_self
    · rw [show 63 - (64 - (a.toNat.log2 + 1)) = a.toNat.log2 by omega]
      exact Nat.log2_self_le h

theorem popCount_eq (a : W64) : popCount 64 a.toNat = ((List.range 64).filter a.getLsbD).length := by
  unfold popCount setBits
  congr 2
  funext i
  exact bit_toNat ..

theorem lui_eq (a : W64) (imm : BitVec 32) : (imm.zeroExtend 64 <<< 32) ||| (a &&& 0xFFFFFFFF) = imm ++ a.setWidth 32 := by
  have mask (i : Nat) : (0xFFFFFFFF : W64).getLsbD i = decide (i < 32) := by
    rw [show (0xFFFFFFFF : W64) = (BitVec.allOnes 32).setWidth 64 by decide, BitVec.getLsbD_setWidth, BitVec.getLsbD_allOnes]
    by_cases low : i < 32 <;> simp [low]
    omega
  apply BitVec.eq_of_getLsbD_eq
  intro i hi
  rw [BitVec.getLsbD_or, BitVec.getLsbD_and, mask, BitVec.getLsbD_append, BitVec.getLsbD_setWidth, BitVec.getLsbD_shiftLeft, BitVec.getLsbD_setWidth]
  by_cases low : i < 32
  · simp [hi, low]
  · simp [hi, low, show i - 32 < 64 by omega]

theorem extract_eq (a : W64) (p w : Nat) : extract a p w = ((a >>> p).setWidth w).setWidth 64 := by
  apply BitVec.eq_of_toNat_eq
  simp only [extract, bits, BitVec.toNat_ofNat, BitVec.toNat_setWidth, BitVec.toNat_ushiftRight, Nat.shiftRight_eq_div_pow]

/-- Settles O3: each value is the exact one. -/
theorem muldivCountsConstantsExtract : Obligations.MuldivCountsConstantsExtract := by
  unfold Obligations.MuldivCountsConstantsExtract
  intro n f s ready a b
  have fits (resv : resvRaw f 1 true true true true = []) {r : Nat} (small : r < 2 ^ 64) (nonzero : f.imm ≠ 0)
      (value : mulDiv (f.sub.getLsbD 0) a b f.imm.toNat = r) : Gives (.muldiv n f) n f.gd (BitVec.ofNat 64 r) s := by
    have run : exec (.muldiv n f) s = .next (issueG n f (resvRaw f 1 true true true true ++ trapIf (decide (f.imm.toNat = 0)) DIV_ZERO ++
        trapIf (decide (f.imm.toNat ≠ 0) && decide (2 ^ 64 ≤ mulDiv (sbit f) a b f.imm.toNat)) OVERFLOW)
        (BitVec.ofNat 64 (mulDiv (sbit f) a b f.imm.toNat)) s) := rfl
    rw [sbit_eq, value] at run
    refine gives_of_issueG ready run ?_
    have divisor : f.imm.toNat ≠ 0 := fun h => nonzero (BitVec.eq_of_toNat_eq h)
    rw [resv, decide_eq_false divisor, decide_eq_false (Nat.not_le.2 small), Bool.and_false]
    rfl
  refine ⟨fun resv r small nonzero => ⟨fun floor low high => ?_, fun round low zero high => ?_⟩, fun resv => ⟨⟨_, gives_of_issueG ready rfl resv, leadZeros_spec a⟩, ?_⟩,
    fun resv => ?_, fun resv => ?_, fun resv narrow => ?_⟩
  · have value := mulDiv_floor low high
    exact fits resv small nonzero (floor ▸ value)
  · have value := mulDiv_round low zero high
    exact fits resv small nonzero (round ▸ value)
  · rw [← popCount_eq]
    exact gives_of_issueG ready rfl resv
  · rw [← sbit_eq]
    exact gives_of_issueG ready rfl resv
  · rw [← lui_eq]
    exact gives_of_issueG ready rfl resv
  · rw [← extract_eq]
    exact gives_of_issueG ready rfl (by rw [resv, show decide (64 ≤ immOf f) = false from decide_eq_false (Nat.not_le.2 narrow)]; rfl)

/-! ### Special registers, conditions (R55, R66) -/

theorem ofNat_uns (i : Int) : BitVec.ofNat 64 (uns 64 i) = BitVec.ofInt 64 i := by
  apply BitVec.eq_of_toNat_eq
  simp only [uns, BitVec.toNat_ofNat, BitVec.toNat_ofInt]
  omega

theorem resvW_eq_nil {x : BitVec 5} (h : x < 8) : resvW x = [] := trapIf_eq_nil.2 (decide_eq_false (Nat.not_le.2 h))

/-- The condition codes. -/
theorem condition_holds {k : Nat} (hk : k < 6) (a b : W64) : ∃ r, condition k a b = some r ∧ (r = true ↔ holds k a b) := by
  unfold holds
  rcases k with _ | _ | _ | _ | _ | _ | k
  · exact ⟨_, rfl, by simp⟩
  · exact ⟨_, rfl, by simp⟩
  · exact ⟨_, rfl, by simp⟩
  · exact ⟨_, rfl, by simp⟩
  · exact ⟨_, rfl, by simp⟩
  · exact ⟨_, rfl, by simp⟩
  · omega

/-- Settles O4: each special register, copy, difference and condition. -/
theorem specialRegisterCopyDifferenceCondition : Obligations.SpecialRegisterCopyDifferenceCondition := by
  unfold Obligations.SpecialRegisterCopyDifferenceCondition
  intro n f s ready
  refine ⟨fun resv => ?special, fun resv reg => gives_of_issueG ready rfl (by rw [resv, resvW_eq_nil reg]; rfl),
    fun resv regA regB d exact' => ?difference, fun resv known => ?condition⟩
  case special =>
    have read (k : Nat) (hk : f.sub.toNat = k) (h : k < 7) : Gives (.movs n f) n f.gd (BitVec.ofNat 64 (s.chip.special k)) s := by
      have sel : subOf f % 8 = k := by rw [subOf, hk]; omega
      refine gives_of_issueG (tr := resvRaw f 7 true false false false ++ trapIf (decide (subOf f % 8 = 7)) ILLEGAL_OP) ready (sel ▸ rfl) ?_
      rw [resv, sel, decide_eq_false (by omega)]
      rfl
    refine ⟨fun h => read 0 (by rw [h]; rfl) (by decide), fun h => ?_, fun h => read 2 (by rw [h]; rfl) (by decide), fun h => ?_,
      fun h => read 4 (by rw [h]; rfl) (by decide), fun h => read 5 (by rw [h]; rfl) (by decide), fun h => read 6 (by rw [h]; rfl) (by decide)⟩
    · rw [← ofNat_uns]
      exact read 1 (by rw [h]; rfl) (by decide)
    · rw [← ofNat_uns]
      exact read 3 (by rw [h]; rfl) (by decide)
  case difference =>
    have run : exec (.wdiff n f) s = .next (issueG n f (resvRaw f 0 true true true false ++ resvW f.ga ++ resvW f.gb ++
        trapIf (sOverflow ((s.chip.w n f.ga.toNat).toNat - (s.chip.w n f.gb.toNat).toNat)) OVERFLOW)
        (BitVec.ofInt 64 ((s.chip.w n f.ga.toNat).toNat - (s.chip.w n f.gb.toNat).toNat)) s) := rfl
    rw [← exact', BitVec.ofInt_toInt] at run
    refine gives_of_issueG ready run ?_
    have fits : sOverflow d.toInt = false := by
      have low := BitVec.le_toInt d
      have high := BitVec.toInt_lt (x := d)
      unfold sOverflow
      rw [Bool.or_eq_false_iff, decide_eq_false_iff_not, decide_eq_false_iff_not]
      omega
    rw [resv, resvW_eq_nil regA, resvW_eq_nil regB, fits]
    rfl
  case condition =>
    obtain ⟨r, eq, iff⟩ := condition_holds known (s.chip.g n f.ga.toNat) (s.chip.op2 n f)
    have run : exec (.setCond n f) s = .next (issueG n f (trapIf (some r).isNone ILLEGAL_OP ++ resvOp2 f 7) (if r then 1 else 0) s) := by
      change execSetCond n f s = _
      unfold execSetCond
      rw [show condition (subOf f % 8) (s.chip.g n f.ga.toNat) (s.chip.op2 n f) = some r from eq]
      rfl
    have gives := gives_of_issueG ready run resv
    refine ⟨fun h => ?_, fun h => ?_⟩
    · rwa [iff.2 h] at gives
    · rwa [Bool.eq_false_iff.2 (mt iff.1 h)] at gives

/-! ### Writes of w registers (R54, R78) -/

/-- The w registers after a write. -/
def Chip.withW (c : Chip) (n i : Nat) (v : W64) : Chip := { c with seq := { c.seq with w := FMap.put 0 c.seq.w (8 * n + i) v } }

theorem Chip.withW_w (c : Chip) (n i m j : Nat) (v : W64) (hi : i < 8) (hj : j < 8) : (c.withW n i v).w m j = if m = n ∧ j = i then v else c.w m j := by
  have key : 8 * m + j = 8 * n + i ↔ m = n ∧ j = i := by omega
  simp only [Chip.w, Chip.withW, FMap.get_put, key]

/-- A stream that is closed, or whose w0 has reached the front horizon, is not behind. -/
theorem Chip.noteBehind_caughtUp (c : Chip) (h : c.get SEQ_PSTAT_OPEN = 0 ∨ c.frontHorizon ≤ c.get SEQ_PCUR_CUR) :
    c.noteBehind = { c with strm := { c.strm with behind := false } } := by
  have now : (c.is SEQ_PSTAT_OPEN && decide (c.get SEQ_PCUR_CUR < c.frontHorizon)) = false := by
    rcases h with h | h
    · rw [Chip.is_eq_false_iff.2 h, Bool.false_and]
    · rw [decide_eq_false (Nat.not_lt.2 h), Bool.and_false]
  unfold Chip.noteBehind
  rw [now]
  rfl

theorem toNat_eq_zero {w : Nat} {x : BitVec w} : x.toNat = 0 ↔ x = 0 := by
  rw [← BitVec.toNat_inj]
  simp

/-- A write of a w register, where the stream does not fall behind. -/
theorem wroteW_setW {s : State} (n : CtxId) (wd : BitVec 5) (v : W64) (low : wd < 8)
    (caughtUp : n = 0 ∧ wd = 0 → s.chip.get SEQ_PSTAT_OPEN = 0 ∨ s.chip.frontHorizon ≤ v.toNat) :
    WroteW n wd v s { s with chip := (s.chip.setW n wd.toNat v).next n } := by
  have written (m i : Nat) (hi : i < 8) := s.chip.withW_w n wd.toNat m i v low hi
  have noPc : SEQ_PCUR_CUR.key ≠ (SEQ_CPC_PC n).key := by
    simp only [SEQ_PCUR_CUR, SEQ_CPC_PC, fld, Blk.base]
    omega
  by_cases w0 : n = 0 ∧ wd = 0
  · have zero : n.val = 0 ∧ wd.toNat = 0 := by rw [w0.1, w0.2]; exact ⟨rfl, rfl⟩
    have now : ((s.chip.withW n wd.toNat v).set SEQ_PCUR_CUR v.toNat).get SEQ_PSTAT_OPEN = 0 ∨
        ((s.chip.withW n wd.toNat v).set SEQ_PCUR_CUR v.toNat).frontHorizon ≤ ((s.chip.withW n wd.toNat v).set SEQ_PCUR_CUR v.toNat).get SEQ_PCUR_CUR := by
      rw [Chip.get_set_same, Chip.get_set_ne _ _ _ _ (by decide), show v.toNat % 2 ^ SEQ_PCUR_CUR.width = v.toNat from Nat.mod_eq_of_lt v.isLt]
      exact caughtUp w0
    have eq : s.chip.setW n wd.toNat v = { (s.chip.withW n wd.toNat v).set SEQ_PCUR_CUR v.toNat with strm := { s.chip.strm with behind := false } } :=
      (if_pos zero).trans (Chip.noteBehind_caughtUp _ now)
    rw [eq]
    refine ⟨rfl, rfl, ?_, fun _ _ _ => rfl, written, ?_, fun h hh => ?_, rfl⟩
    · rw [wentOn, Chip.pc_next]
      exact congrArg (fun p => (p + 1) % 2 ^ 19) (Chip.get_set_ne _ _ _ _ noPc.symm)
    · rw [if_pos w0]
      exact (Chip.get_set_ne _ _ _ _ noPc).trans ((Chip.get_set_same ..).trans (Nat.mod_eq_of_lt v.isLt))
    · exact (Chip.get_set_ne _ _ _ _ (hh _ (by simp))).trans (Chip.get_set_ne _ _ _ _ (hh _ (by simp)))
  · have eq : s.chip.setW n wd.toNat v = s.chip.withW n wd.toNat v := if_neg fun h => w0 ⟨Fin.ext h.1, toNat_eq_zero.1 h.2⟩
    rw [eq]
    refine ⟨rfl, rfl, Chip.pc_next .., fun _ _ _ => rfl, written, ?_, fun h hh => ?_, rfl⟩
    · rw [if_neg w0]
      exact Chip.get_set_ne _ _ _ _ noPc
    · exact Chip.get_set_ne _ _ _ _ (hh _ (by simp))

theorem regress_false {c : Chip} {n : CtxId} {wd : BitVec 5} {v : Nat} (h : n = 0 ∧ wd = 0 → (c.w 0 0).toNat ≤ v) : c.regress n wd.toNat v = false := by
  unfold Chip.regress
  by_cases w0 : n = 0 ∧ wd = 0
  · rw [decide_eq_false (Nat.not_lt.2 (h w0)), Bool.and_false]
  · rw [Bool.eq_false_iff, ne_eq, Bool.and_eq_true, Bool.and_eq_true, decide_eq_true_iff, decide_eq_true_iff]
    exact fun k => w0 ⟨Fin.ext k.1.1, toNat_eq_zero.1 k.1.2⟩

/-- Settles O5: the new value is exact, and only w0 of context 0 is published. -/
theorem wRegisterWrites : Obligations.WRegisterWrites := by
  unfold Obligations.WRegisterWrites
  intro n f s ready reg
  refine ⟨fun resv v hv w0 => ⟨_, ?_, wroteW_setW n f.gd v reg fun h => (w0 h).2⟩, fun resv regA v hv w0 => ⟨_, ?_, wroteW_setW n f.gd v reg fun h => (w0 h).2⟩⟩
  · change execMovw n f s = _
    unfold execMovw
    dsimp only
    rw [← hv, issueC_of_nil ready (by rw [resv, resvW_eq_nil reg, regress_false fun h => (w0 h).1]; rfl)]
  · change execAddw n f s = _
    unfold execAddw
    dsimp only
    have fits : wOverflow v.toNat = false := by
      have := v.isLt
      unfold wOverflow
      rw [Bool.or_eq_false_iff, decide_eq_false_iff_not, decide_eq_false_iff_not]
      omega
    rw [← hv, Int.toNat_natCast, fits, regress_false fun h => (w0 h).1,
      issueC_of_nil ready (by rw [resv, resvW_eq_nil reg, resvW_eq_nil regA]; rfl), BitVec.ofInt_natCast, BitVec.ofNat_toNat]
    simp

/-! ### Jumps (R56, R66) -/

theorem Chip.jump_resident (c : Chip) (n : CtxId) (target : Nat) (m : Nat) :
    (c.jump n target).resident m = if m = n.val then decide (0x7C000 ≤ target) else c.resident m := FMap.get_put ..

theorem Chip.setG_resident (c : Chip) (n i : Nat) (v : W64) (m : Nat) : (c.setG n i v).resident m = c.resident m := by
  unfold Chip.setG
  split <;> rfl

theorem targetBad_inside {c : Chip} {n : Nat} {t : Int} (h : c.targetBad n t = false) : 0 ≤ t ∧ t.toNat < 2 ^ 19 := by
  unfold Chip.targetBad at h
  simp only [Bool.or_eq_false_iff, decide_eq_false_iff_not] at h
  omega

section
variable {n : CtxId} {s : State}

/-- A jump that writes v to gD. -/
theorem jumped_write {target : Nat} (gd : BitVec 5) (v : W64) (inside : target < 2 ^ 19) :
    Jumped n target gd (some v) s { s with chip := (s.chip.setG n gd.toNat v).jump n target } := by
  obtain ⟨g, w, fields, -⟩ := Chip.setG_set_frame s.chip n gd v (SEQ_CPC_PC n) target
  refine ⟨rfl, rfl, (Chip.pc_setPc_same ..).trans (Nat.mod_eq_of_lt inside), g, w, fields, fun m => ?_, ?_⟩
  · exact (Chip.jump_resident ..).trans (by rw [Chip.setG_resident])
  · unfold Chip.setG
    split <;> rfl

/-- A jump alone. -/
theorem jumped {target : Nat} (inside : target < 2 ^ 19) : Jumped n target 0 none s { s with chip := s.chip.jump n target } :=
  ⟨rfl, rfl, (Chip.pc_setPc_same ..).trans (Nat.mod_eq_of_lt inside), fun _ _ _ => rfl, fun _ _ _ => rfl,
    fun h hh => Chip.get_set_ne _ _ _ _ (hh _ (by simp)), fun _ => Chip.jump_resident .., rfl⟩

variable {f : Fields} {i : Instr} {tr : List Nat} {taken : Bool} {pre : Chip → Chip} (run : exec i s = .next (branchTo n f tr taken pre s))
  (ready : Ready n s) (none : tr = [])
include run ready none

/-- A branch that is taken. -/
theorem branch_taken (h : taken = true) (ok : s.chip.targetBad n (s.chip.relTarget n f) = false) :
    exec i s = .next { s with chip := (pre s.chip).jump n (s.chip.relTarget n f).toNat } := by
  rw [run, branchTo, issueC_of_nil ready (by rw [none, h, ok]; rfl), h]
  rfl

/-- A branch that is not taken. -/
theorem branch_not_taken (h : taken = false) : exec i s = .next { s with chip := (pre s.chip).next n } := by
  rw [run, branchTo, issueC_of_nil ready (by rw [none, h]; rfl), h]
  rfl

end

/-- An instruction that leaves all but the program counter. -/
theorem gives_onward {n : CtxId} {s : State} {i : Instr} (run : exec i s = .next { s with chip := s.chip.next n }) : Gives i n 0 0 s :=
  ⟨_, run, rfl, rfl, Chip.pc_next .., Chip.setG_set_frame s.chip n 0 0 (SEQ_CPC_PC n) (s.chip.pc n + 1)⟩

/-- Settles O6: a jump writes the program counter, its area, and gD where it has one. -/
theorem branchesJumpsAndLoop : Obligations.BranchesJumpsAndLoop := by
  unfold Obligations.BranchesJumpsAndLoop
  refine ⟨fun n f s ready resv => ?branches, fun n f s ready => ?jumps⟩
  case branches =>
    intro k target
    -- A branch on a condition r that the instruction's code names.
    have decided {i : Instr} {tr : List Nat} {r : Bool} {P : Prop} (run : exec i s = .next (branchTo n f tr r id s)) (none : tr = [])
        (iff : r = true ↔ P) : (P → s.chip.targetBad n target = false → JumpsTo i n target.toNat 0 Option.none s) ∧ (¬ P → Gives i n 0 0 s) :=
      ⟨fun h ok => ⟨_, branch_taken run ready none (iff.2 h) ok, jumped (targetBad_inside ok).2⟩,
        fun h => gives_onward (branch_not_taken run ready none (Bool.eq_false_iff.2 (mt iff.1 h)))⟩
    refine ⟨fun known => ?_, fun regA regB known notLt notGe => ?_⟩
    · obtain ⟨r, eq, iff⟩ := condition_holds known (s.chip.g n f.ga.toNat) (s.chip.g n f.gb.toNat)
      have run : exec (.branch n f) s = .next (branchTo n f (trapIf (some r).isNone ILLEGAL_OP ++ resvRaw f 7 false true true true) r id s) := by
        change execBranch n f s = _
        unfold execBranch
        rw [show condition (subOf f % 8) (s.chip.g n f.ga.toNat) (s.chip.g n f.gb.toNat) = some r from eq]
        rfl
      exact decided run resv iff
    · obtain ⟨r, eq, iff⟩ := condition_holds known (s.chip.w n f.ga.toNat) (s.chip.w n f.gb.toNat)
      have run : exec (.brw n f) s = .next (branchTo n f (trapIf (some r).isNone ILLEGAL_OP ++ resvRaw f 7 false true true true ++
          resvW f.ga ++ resvW f.gb) r id s) := by
        have named : wCondition (subOf f % 8) (s.chip.w n f.ga.toNat) (s.chip.w n f.gb.toNat) = some r := (if_neg (not_or.2 ⟨notLt, notGe⟩)).trans eq
        change execBrw n f s = _
        unfold execBrw
        rw [named]
        rfl
      exact decided run (by rw [resv, resvW_eq_nil regA, resvW_eq_nil regB]; rfl) iff
  case jumps =>
    intro target ret left
    have jal : exec (.jal n f) s = .next (branchTo n f (resvRaw f 0 true false false true) true (fun c => c.setG n f.gd.toNat (BitVec.ofNat 64 (c.pc n + 1))) s) := rfl
    have loop : exec (.loop n f) s = .next (branchTo n f (resvRaw f 0 true false false true) (left != 0) (fun c => c.setG n f.gd.toNat left) s) := rfl
    refine ⟨fun resv ok => ⟨⟨_, branch_taken jal ready resv rfl ok, jumped_write _ _ (targetBad_inside ok).2⟩,
      fun more => ⟨_, branch_taken loop ready resv (bne_iff_ne.2 more) ok, jumped_write _ _ (targetBad_inside ok).2⟩⟩, fun resv last => ?_, fun resv ok => ?_⟩
    · have run := branch_not_taken loop ready resv (by rw [last]; rfl)
      refine ⟨_, run, rfl, rfl, ?_, ?_⟩
      · rw [wentOn, Chip.pc_next, Chip.setG_pc]
      · rw [show left = 0 from last]
        exact Chip.setG_set_frame s.chip n f.gd 0 (SEQ_CPC_PC n) _
    · refine ⟨_, ?_, jumped_write f.gd ret (targetBad_inside ok).2⟩
      change execJalr n f s = _
      unfold execJalr
      dsimp only
      rw [issueC_of_nil ready (by rw [resv, show s.chip.targetBad n (s.chip.g n f.ga.toNat + immS f).toNat = false from ok]; rfl)]
      rfl

end Sys2Proof.Machine
end

section
/-!
PROOFS. Loads, stores and copies (R58, R59, R67, R68, R114).
-/
namespace Sys2Proof.Machine

/-! ### What an access gives -/

theorem extend_unsigned (bs : List Byte) : extend false bs = BitVec.ofNat 64 (unle bs) := rfl

theorem sgn_eq_toInt {n : Nat} (hn : 0 < n) (v : Nat) : sgn n v = (BitVec.ofNat n v).toInt := by
  have half : 2 ^ n = 2 * 2 ^ (n - 1) := by
    rw [← Nat.pow_succ']
    congr 1
    omega
  have cast : ((2 ^ n : Nat) : Int) = 2 ^ n := by norm_cast
  rw [sgn, BitVec.toInt_eq_toNat_cond, BitVec.toNat_ofNat, cast]
  by_cases low : v % 2 ^ n < 2 ^ (n - 1)
  · rw [if_pos low, if_pos (by omega)]
  · rw [if_neg low, if_neg (by omega)]

theorem extend_signed (bs : List Byte) (some : 0 < bs.length) :
    extend true bs = BitVec.signExtend 64 (BitVec.ofNat (8 * bs.length) (unle bs)) := by
  rw [extend, if_pos rfl, sgn_eq_toInt (by omega)]
  rfl

/-! ### Accesses that end with the next instruction -/

theorem wroteG_next (s : State) (n : CtxId) (gd : BitVec 5) (v : W64) : WroteG n gd v s { s with chip := (s.chip.setG n gd.toNat v).next n } := by
  refine ⟨rfl, rfl, ?_, Chip.setG_set_frame s.chip n gd v (SEQ_CPC_PC n) ((s.chip.setG n gd.toNat v).pc n + 1)⟩
  rw [wentOn, Chip.pc_next, Chip.setG_pc]

/-- A chip that a journalled store has left, at the next instruction. -/
theorem Chip.jrn_next (c : Chip) (n : CtxId) (k : JKind) (as : List Nat) (bs : List Byte) :
    ((c.jrn k as bs).next n).pc n = (c.pc n + 1) % 2 ^ 19 ∧ sameG c ((c.jrn k as bs).next n) ∧ sameW c ((c.jrn k as bs).next n) ∧
    sameFields [SEQ_CPC_PC n, TW_JSEQ_JSEQ] c ((c.jrn k as bs).next n) ∧ ((c.jrn k as bs).next n).unjournalled = c.unjournalled := by
  obtain ⟨g, w, fields⟩ := c.leaves_jrn k as bs
  refine ⟨?_, g, w, fun h hh => ?_, c.unjournalled_jrn k as bs⟩
  · rw [Chip.pc_next, show (c.jrn k as bs).pc n = c.pc n from fields _ (seq_key_ne_jseq _ _ _ _ (by omega) (by omega))]
  · exact (Chip.get_set_ne _ _ _ _ (hh _ (by simp))).trans (fields h (hh _ (by simp)))

theorem storedD_next (s : State) (n : CtxId) (a : Nat) (bs : List Byte) :
    StoredD n a bs 0 none s ((storeD s a bs).onChip (·.next n)) := by
  obtain ⟨pc, g, w, fields, rest⟩ := s.chip.jrn_next n .dwrite [a] bs
  exact ⟨stored_write _ a bs, rfl, rfl, rfl, pc, w, g, fields, rest⟩

theorem storedJ_next (s : State) (n : CtxId) (a : Nat) (bs : List Byte) : StoredJ n a bs s ((storeJ s a bs).onChip (·.next n)) := by
  obtain ⟨pc, g, w, fields, rest⟩ := s.chip.jrn_next n .jwrite [a] bs
  exact ⟨stored_write _ a bs, rfl, rfl, rfl, pc, g, w, fields, rest⟩

/-- A store that also writes gD and is journalled with a checkpoint. -/
theorem storedD_finish (s : State) (n : CtxId) (a : Nat) (bs : List Byte) (gd : BitVec 5) (v : W64) :
    StoredD n a bs gd (some v) s ((storeD s a bs).onChip fun c => ((c.setG n gd.toNat v).next n).ckpt n) := by
  obtain ⟨g, w, fields⟩ := leaves_storeD s a bs
  let c := (storeD s a bs).chip
  refine ⟨stored_write _ a bs, rfl, rfl, rfl, ?_, fun m i hi => (c.finish_w n gd v m i hi).trans (w m i hi), fun m i hi => ?_, fun h hh => ?_, ?_⟩
  · refine (c.finish_pc n gd v).trans ?_
    rw [show c.pc n = s.chip.pc n from fields _ (seq_key_ne_jseq _ _ _ _ (by omega) (by omega))]
  · rw [← g m i hi]
    exact c.finish_g n gd v m i hi
  · exact (c.finish_get n gd v h (hh _ (by simp)) (hh _ (by simp))).trans (fields h (hh _ (by simp)))
  · exact (c.finish_unjournalled n gd v).trans (unjournalled_storeD s a bs)

/-- Settles O7: ldd writes the bytes it reads, extended, to gD; std stores the low bytes of gB. -/
theorem dataSpaceLoadStore : Obligations.DataSpaceLoadStore := by
  unfold Obligations.DataSpaceLoadStore
  intro n f s ready a k al inside
  have traps : dTraps a k k = [] := dTraps_eq_nil.2 ⟨al, inside⟩
  refine ⟨fun resv r clean => ?load, fun resv => ⟨_, ?store, storedD_next s n a _⟩⟩
  case load =>
    have run : exec (.ldd n f r) s = .next { s.onChip (·.dRead r) with
        chip := (((s.onChip (·.dRead r)).chip.setG n f.gd.toNat (extend (f.sub.getLsbD 2) (s.mem.data.read a k))).next n) } := by
      rw [← bit_toNat]
      exact congrArg Host.Outcome.next (issueD_of_nil ready clean (by rw [resv]; exact traps) _)
    have some : 0 < k := Nat.two_pow_pos _
    refine ⟨fun unsigned => ⟨_, run, ?_⟩, fun signed => ⟨_, run, ?_⟩⟩
    · rw [unsigned, extend_unsigned]
      exact wroteG_next ..
    · rw [signed, extend_signed _ (by rw [ByteMem.length_read]; exact some), ByteMem.length_read]
      exact wroteG_next ..
  case store =>
    exact congrArg Host.Outcome.next (issue_of_nil ready (by rw [resv]; exact traps) _)

theorem Chip.jrn_quiet {c : Chip} (h : c.twin.mirroring = false) (k : JKind) (as : List Nat) (bs : List Byte) : c.jrn k as bs = c := by
  unfold Chip.jrn
  exact if_neg fun both => absurd (h.symm.trans both.2) (by decide)

section
variable {n : CtxId} {f : Fields} {r : Ecc} {s : State} {new : W64 → Option W64} (ready : Ready n s) (clean : r ≠ .uncorrectable)
  (traps : resvRaw f 0 true true true true ++ dTraps (dataAddress n f s) 8 8 = [])
include ready clean traps

/-- An atomic access that stores v. -/
theorem atomicD_store {v : W64} (h : new (BitVec.ofNat 64 (unle (s.mem.data.read (dataAddress n f s) 8))) = some v) :
    atomicD n f r new s = (storeD (s.onChip (·.dRead r)) (dataAddress n f s) (le 8 v.toNat)).onChip fun c =>
      ((c.setG n f.gd.toNat (BitVec.ofNat 64 (unle (s.mem.data.read (dataAddress n f s) 8)))).next n).ckpt n := by
  unfold atomicD
  dsimp only
  rw [show s.chip.addr n f = dataAddress n f s from rfl, issueD_of_nil ready clean traps]
  simp only [State.onChip_mem, h]

/-- An atomic access that stores nothing. -/
theorem atomicD_keep (h : new (BitVec.ofNat 64 (unle (s.mem.data.read (dataAddress n f s) 8))) = none) :
    atomicD n f r new s = (s.onChip (·.dRead r)).onChip fun c =>
      ((c.setG n f.gd.toNat (BitVec.ofNat 64 (unle (s.mem.data.read (dataAddress n f s) 8)))).next n).ckpt n := by
  unfold atomicD
  dsimp only
  rw [show s.chip.addr n f = dataAddress n f s from rfl, issueD_of_nil ready clean traps]
  simp only [State.onChip_mem, h]

end

/-- Settles O8: both write the old value to gD, and store what they say. -/
theorem atomicDataAccess : Obligations.AtomicDataAccess := by
  unfold Obligations.AtomicDataAccess
  intro n f r s ready clean u quiet a old al inside resv
  have traps : resvRaw f 0 true true true true ++ dTraps a 8 8 = [] := by
    rw [resv]
    exact dTraps_eq_nil.2 ⟨al, inside⟩
  refine ⟨⟨_, congrArg Host.Outcome.next (atomicD_store ready clean traps rfl), storedD_finish u n a _ f.gd old⟩,
    fun equal => ⟨_, congrArg Host.Outcome.next (atomicD_store ready clean traps (if_pos equal)), storedD_finish u n a _ f.gd old⟩,
    fun differ => ⟨_, congrArg Host.Outcome.next (atomicD_keep ready clean traps (if_neg differ)), ?_⟩⟩
  · have noCkpt : ((u.chip.setG n f.gd.toNat old).next n).ckpt n = (u.chip.setG n f.gd.toNat old).next n := by
      rcases quiet with h | h
      · exact if_neg fun e => h (Fin.ext e)
      · unfold Chip.ckpt
        split
        · exact Chip.jrn_quiet (by rw [Chip.next_twin, Chip.setG_twin]; exact h) ..
        · rfl
    exact (congrArg (fun c => WroteG n f.gd old u { u with chip := c }) noCkpt).mpr (wroteG_next u n f.gd old)

/-! ### Job-store accesses -/

theorem extend_f (f : Fields) : bit (subOf f) 2 = f.sub.getLsbD 2 := bit_toNat ..

/-- Settles O9: loads and copies into D-space begin; stores and copies into the job store end at once. -/
theorem jobStoreAccesses : Obligations.JobStoreAccesses := by
  unfold Obligations.JobStoreAccesses
  intro n f s ready a k p q m
  have copyOk (hm : m % 64 = 0) (low : 64 ≤ m) (high : m ≤ 4096) : copyLenBad (s.chip.g n f.gb.toNat).toNat = false := by
    change copyLenBad m = false
    unfold copyLenBad
    simp only [Bool.or_eq_false_iff, decide_eq_false_iff_not]
    omega
  refine ⟨fun resv al may => ⟨_, ?ldj, began_pend n 4 _ s (by decide)⟩, fun resv al may => ⟨_, ?stj, storedJ_next s n a _⟩, fun resv hp hq hm low high =>
    ⟨fun inside may => ⟨_, ?cpjd, began_pend n 4 _ s (by decide)⟩, fun inside may r clean => ⟨_, ?cpdj, storedJ_next (s.onChip (·.dRead r)) n q _⟩⟩⟩
  case ldj =>
    rw [← extend_f]
    refine congrArg Host.Outcome.next (issueC_of_nil ready ?_ _)
    rw [resv, show s.chip.addr n f % accessBytes f = 0 from al, show s.chip.store.mayRead (s.chip.addr n f) (accessBytes f) = true from may]
    rfl
  case stj =>
    refine congrArg Host.Outcome.next (issue_of_nil ready ?_ _)
    rw [resv, show s.chip.addr n f % accessBytes f = 0 from al, show s.chip.store.mayWrite (s.chip.addr n f) (accessBytes f) = true from may]
    rfl
  case cpjd =>
    refine congrArg Host.Outcome.next (issueC_of_nil ready ?_ _)
    rw [resv, show ((s.chip.g n f.ga.toNat).toNat % 64) = 0 from hp, show ((s.chip.g n f.gd.toNat).toNat % 64) = 0 from hq, copyOk hm low high,
      show dOut (s.chip.g n f.gd.toNat).toNat (s.chip.g n f.gb.toNat).toNat = false from decide_eq_false (Nat.not_lt.2 inside), may]
    rfl
  case cpdj =>
    refine congrArg Host.Outcome.next (issueD_of_nil ready clean ?_ _)
    rw [resv, show ((s.chip.g n f.ga.toNat).toNat % 64) = 0 from hp, show ((s.chip.g n f.gd.toNat).toNat % 64) = 0 from hq, copyOk hm low high,
      show dOut (s.chip.g n f.ga.toNat).toNat (s.chip.g n f.gb.toNat).toNat = false from decide_eq_false (Nat.not_lt.2 inside), may]
    rfl

/-! ### Data that arrives (R114) -/

/-- The state in which data of the job store arrives: later, and after the report of its read. -/
def dataEnd (s : State) (t : Nat) (n : CtxId) (r : Ecc) : State :=
  (s.at_ t).onChip fun c => if (c.pendOp n).isSome then c.jobStoreRead r else c

theorem dataEnd_like (s : State) (t : Nat) (n : CtxId) (r : Ecc) : (s.at_ t).chip.like (dataEnd s t n r).chip := by
  simp only [dataEnd, State.onChip_chip]
  split
  · exact Chip.like_jobStoreRead ..
  · exact Chip.like_refl _

theorem dataEnd_mem (s : State) (t : Nat) (n : CtxId) (r : Ecc) : (dataEnd s t n r).mem = s.mem := (State.onChip_mem ..).trans (s.at_mem t)

/-- A context whose operation has ended, at its next instruction. -/
theorem Chip.unpend_next (c : Chip) (n : CtxId) (gd : BitVec 5) (v : W64) :
    (((c.unpend n).setG n gd.toNat v).next n).ctxState n = RUNNABLE ∧ (((c.unpend n).setG n gd.toNat v).next n).get (SEQ_CWAIT_KIND n) = 0 ∧
    (((c.unpend n).setG n gd.toNat v).next n).pc n = (c.pc n + 1) % 2 ^ 19 ∧ sameW c (((c.unpend n).setG n gd.toNat v).next n) ∧
    ∀ m i, i < 32 → (((c.unpend n).setG n gd.toNat v).next n).g m i = if m = n.val ∧ i = gd.toNat ∧ gd ≠ 0 then v else c.g m i := by
  let d := (c.unpend n).setG n gd.toNat v
  obtain ⟨g, w, fields⟩ := c.leaves_unpend n
  obtain ⟨gs, ws, -⟩ := Chip.setG_set_frame (c.unpend n) n gd v (SEQ_CPC_PC n) (d.pc n + 1)
  have keys : (SEQ_CSTAT_STATE n).key ≠ (SEQ_CPC_PC n).key ∧ (SEQ_CWAIT_KIND n).key ≠ (SEQ_CPC_PC n).key := by
    simp only [SEQ_CSTAT_STATE, SEQ_CWAIT_KIND, SEQ_CPC_PC, fld, Blk.base]
    omega
  refine ⟨?_, ?_, ?_, fun m i hi => (ws m i hi).trans (w m i hi), fun m i hi => ?_⟩
  · exact (Chip.get_set_ne _ _ _ _ keys.1).trans ((Chip.setG_get ..).trans (c.resume_ctxState n))
  · exact (Chip.get_set_ne _ _ _ _ keys.2).trans ((Chip.setG_get ..).trans (c.resume_kind n))
  · rw [Chip.pc_next, Chip.setG_pc, show (c.unpend n).pc n = c.pc n from fields _ (fld_seq_pcOrTrap _ _ _ _ (by omega) (by omega) (by omega) (by omega))]
  · rw [← g m i hi]
    exact gs m i hi

/-- Settles O10: at its arrival the data goes to gD or to D-space, and the context runs on. -/
theorem jobStoreAccessCompletes : Obligations.JobStoreAccessCompletes := by
  unfold Obligations.JobStoreAccessCompletes
  intro t n r s clean
  have like := dataEnd_like s t n r
  have pc : (dataEnd s t n r).chip.pc n = s.chip.pc n := (Chip.like_pc like n).trans (s.at_pc t n)
  have g (m i : Nat) : (dataEnd s t n r).chip.g m i = s.chip.g m i := (Chip.like_g like m i).trans (s.at_g t m i)
  have w (m i : Nat) : (dataEnd s t n r).chip.w m i = s.chip.w m i := (Chip.like_w like m i).trans (s.at_w t m i)
  have mem := dataEnd_mem s t n r
  have pend := Chip.like_pendOp like n
  have run : exec (.jobStoreAccessDone t n r) s = .next (jobStoreDone n (decide (r = .uncorrectable)) (dataEnd s t n r)) := rfl
  rw [decide_eq_false clean] at run
  simp only [run]
  generalize dataEnd s t n r = x at *
  refine ⟨fun gd a k sg op small => ⟨_, rfl, ?_⟩, fun j d k op => ⟨_, rfl, ?_⟩⟩
  · have reg : (BitVec.ofNat 5 gd).toNat = gd := by simp [Nat.mod_eq_of_lt small]
    have zero : BitVec.ofNat 5 gd ≠ 0 ↔ gd ≠ 0 := by rw [ne_eq, ← BitVec.toNat_inj, reg]; rfl
    have fin : jobStoreDone n false x = x.onChip fun c => ((c.unpend n).setG n (BitVec.ofNat 5 gd).toNat (extend sg (s.mem.job.read a k))).next n := by
      rw [reg, ← mem]
      unfold jobStoreDone
      rw [pend.trans op]
      rfl
    obtain ⟨state, kind, next, ws, gs⟩ := x.chip.unpend_next n (BitVec.ofNat 5 gd) (extend sg (s.mem.job.read a k))
    simp only [reg, zero, g, pc] at gs next state kind ws fin
    rw [fin]
    exact ⟨⟨state, kind⟩, next, mem, fun m i hi => (ws m i hi).trans (w m i), gs⟩
  · have fin : jobStoreDone n false x = (storeD x d (s.mem.job.read j k)).onChip fun c => (c.unpend n).next n := by
      rw [← mem]
      unfold jobStoreDone
      rw [pend.trans op]
      rfl
    obtain ⟨gd, wd, fields⟩ := leaves_storeD x d (s.mem.job.read j k)
    obtain ⟨state, kind, next, ws, gs⟩ := (storeD x d (s.mem.job.read j k)).chip.unpend_next n 0 0
    rw [fin]
    refine ⟨⟨state, kind⟩, next.trans ?_, ?_, ?_, ?_, fun m i hi => ?_, fun m i hi => (ws m i hi).trans ((wd m i hi).trans (w m i))⟩
    · rw [show (storeD x d (s.mem.job.read j k)).chip.pc n = x.chip.pc n from fields _ (seq_key_ne_jseq _ _ _ _ (by omega) (by omega)), pc]
    · rw [← mem]
      exact stored_write _ d _
    · rw [← mem]
      rfl
    · rw [← mem]
      rfl
    · exact (gs m i hi).trans ((if_neg (by simp)).trans ((gd m i hi).trans (g m i)))

end Sys2Proof.Machine
end

section
/-!
PROOFS. System instructions, traps, halting, dispatch, waits and serial counters (R63, R64, R71 to R75, R95, R96, R101).
-/
namespace Sys2Proof.Machine

/-! ### nop, fence, disp (R71) -/

theorem seq_key_ne {o1 l1 w1 r1 o2 l2 w2 r2 : Nat} (h : (0x10000 + o1) * 128 + l1 ≠ (0x10000 + o2) * 128 + l2) :
    (fld .seq 0 o1 l1 w1 r1).key ≠ (fld .seq 0 o2 l2 w2 r2).key := h

/-- Settles O13: each does its one thing and goes on. -/
theorem nopFenceDisp : Obligations.NopFenceDisp := by
  unfold Obligations.NopFenceDisp
  intro n f s
  refine ⟨fun ready resv => gives_next ready rfl resv, fun ready resv kinds => ⟨_, ?fence, began_pend n 6 _ s (by decide)⟩,
    fun t op waits => ?waits, fun t q op done => ?done, fun ready resv e he free defined => ?disp⟩
  case fence =>
    rw [← bit_toNat]
    refine congrArg Host.Outcome.next (issueC_of_nil ready ?_ _)
    rw [resv, decide_eq_false (show ¬ subOf f % 4 = 0 from kinds)]
    rfl
  case waits =>
    have run : exec (.fenceDone t n) s = .next ((s.at_ t).onChip fun c => match c.pendOp n with
      | some (.fence q) => if q && !c.allSent n then c else (c.unpend n).next n
      | _ => c) := rfl
    rw [Passes, run, State.onChip, State.at_pendOp, op]
    dsimp only
    rw [if_pos (by rw [waits]; rfl)]
  case done =>
    have run : exec (.fenceDone t n) s = .next ((s.at_ t).onChip fun c => match c.pendOp n with
      | some (.fence q) => if q && !c.allSent n then c else (c.unpend n).next n
      | _ => c) := rfl
    have goes : (q && !(s.at_ t).chip.allSent n) = false := by
      rcases done with h | h <;> simp [h]
    rw [State.onChip, State.at_pendOp, op] at run
    dsimp only at run
    rw [if_neg (by rw [goes]; decide)] at run
    obtain ⟨state, kind, next, ws, gs⟩ := (s.at_ t).chip.unpend_next n 0 0
    refine ⟨_, run, ⟨state, kind⟩, next.trans (by rw [State.at_pc]), s.at_mem t, fun m i hi => ?_, fun m i hi => (ws m i hi).trans (s.at_w t m i)⟩
    exact (gs m i hi).trans ((if_neg (by simp)).trans (s.at_g t m i))
  case disp =>
    have entry : immOf f % 128 = e := by rw [immOf, he]; omega
    have run : exec (.disp n f) s = .next { s with chip := (s.chip.set (SEQ_DISPA_EN e) (f.sub.toNat % 2)).next n } := by
      change execDisp n f s = _
      unfold execDisp
      dsimp only
      rw [entry, issueC_of_nil ready]
      · rfl
      · rw [resv, decide_eq_false (show ¬ 128 ≤ immOf f by rw [immOf, he]; omega), Chip.is_eq_false_iff.2 free, defined]
        rfl
    have keys : (SEQ_DISPA_EN e).key ≠ (SEQ_CPC_PC n).key := seq_key_ne (by omega)
    refine ⟨_, run, rfl, ?_, ?_, fun _ _ _ => rfl, fun _ _ _ => rfl, fun h hh => ?_, rfl⟩
    · rw [wentOn, Chip.pc_next]
      exact congrArg (fun p => (p + 1) % 2 ^ 19) (Chip.get_set_ne _ _ _ _ keys.symm)
    · exact (Chip.get_set_ne _ _ _ _ keys).trans ((Chip.get_set_same ..).trans (Nat.mod_mod _ _))
    · exact (Chip.get_set_ne _ _ _ _ (hh _ (by simp))).trans (Chip.get_set_ne _ _ _ _ (hh _ (by simp)))

/-! ### Traps (R63 to R65) -/

theorem lowestTrap_single (code : Nat) : LowestTrap code [code] := by simp [LowestTrap]

/-- A reserved field that is set is the lowest trap of its instruction. -/
theorem lowestTrap_resv {p : Bool} (h : trapIf p RESERVED_FIELD ≠ []) : LowestTrap RESERVED_FIELD (trapIf p RESERVED_FIELD) := by
  cases p
  · exact absurd rfl h
  · exact lowestTrap_single _

/-- The reserved fields of the software trap, among them codes below 128 and above 255. -/
def softTraps (f : Fields) : List Nat := resvRaw f 0 false false false true ++ trapIf (decide (immOf f < 128) || decide (256 ≤ immOf f)) RESERVED_FIELD

theorem exec_trap_software (n : CtxId) (f : Fields) (s : State) :
    exec (.trap n ⟨0xF1, f⟩) s = .next (issueC n (if (softTraps f).isEmpty then [immOf f] else softTraps f) id s) :=
  congrArg Host.Outcome.next (if_pos rfl)

theorem exec_trap_undefined (n : CtxId) (op : BitVec 8) (f : Fields) (s : State) (other : op ≠ 0xF1) (undefined : definedOp op.toNat = false) :
    exec (.trap n ⟨op, f⟩) s = .next (issueC n [ILLEGAL_OP] id s) :=
  congrArg Host.Outcome.next ((if_neg other).trans (if_neg (by rw [undefined]; decide)))

/-- Settles O14: each trap is the lowest that applies. -/
theorem trapsAreTaken : Obligations.TrapsAreTaken := by
  unfold Obligations.TrapsAreTaken
  intro n f s ready
  refine ⟨fun resv low high => ⟨_, exec_trap_software n f s, ?soft⟩, fun low => ⟨_, exec_trap_software n f s, ?reserved⟩,
    fun op other undefined => ⟨_, exec_trap_undefined n op f s other undefined, ?illegal⟩, fun resv zero => ?zero, fun resv zero => ⟨_, rfl, ?muldiv⟩,
    fun resv => ⟨_, rfl, ?add⟩, fun resv => ⟨_, rfl, ?div⟩⟩
  case soft =>
    have none : softTraps f = [] := by
      have notLow : decide (immOf f < 128) = false := decide_eq_false (Nat.not_lt.2 low)
      have notHigh : decide (256 ≤ immOf f) = false := decide_eq_false (Nat.not_le.2 high)
      rw [softTraps, resv, notLow, notHigh]
      rfl
    rw [none]
    exact trapped_issue ready (lowestTrap_single _) high _
  case reserved =>
    have some : LowestTrap RESERVED_FIELD (softTraps f) := by
      have code : LowestTrap RESERVED_FIELD (trapIf (decide (immOf f < 128) || decide (256 ≤ immOf f)) RESERVED_FIELD) :=
        lowestTrap_trapIf _ (by rw [decide_eq_true (show immOf f < 128 from low)]; rfl)
      exact ⟨List.mem_append_right _ code.1, fun c hc => (List.mem_append.1 hc).elim (fun h => le_of_mem_trapIf h (Nat.le_refl _)) (code.2 c)⟩
    rw [if_neg (by rw [List.isEmpty_iff]; exact List.ne_nil_of_mem some.1)]
    exact trapped_issue ready some (by decide) _
  case illegal => exact trapped_issue ready (lowestTrap_single _) (by decide) _
  case zero =>
    have divisor : LowestTrap DIV_ZERO (resvOp2 f 1 ++ trapIf (s.chip.op2 n f == 0) DIV_ZERO) :=
      (lowestTrap_trapIf _ (by rw [zero]; rfl)).nil_append resv
    exact ⟨⟨_, rfl, trapped_issue ready divisor (by decide) _⟩, ⟨_, rfl, trapped_issue ready divisor (by decide) _⟩⟩
  case muldiv =>
    have none : immOf f = 0 := by rw [immOf, zero]; rfl
    exact trapped_issue ready (((lowestTrap_trapIf DIV_ZERO (decide_eq_true none)).nil_append resv).append
      fun _ hc => le_of_mem_trapIf hc (by decide)) (by decide) _
  case add => exact trapped_issue ready (lowestTrap_resv resv) (by decide) _
  case div => exact trapped_issue ready ((lowestTrap_resv resv).append fun _ hc => le_of_mem_trapIf hc (by decide)) (by decide) _

/-! ### Halting (R71, R89) -/

theorem Chip.aside_spoil (c : Chip) : c.aside c.spoil ∧ c.spoil.strm = c.strm := by
  unfold Chip.spoil
  split
  · exact ⟨Chip.aside_trans (Chip.aside_of rfl rfl rfl) (Chip.aside_set _ _ _ (outside_fld (by decide) (by decide))), rfl⟩
  · exact ⟨c.aside_refl, rfl⟩

/-- The last row of the stream may pass every bar: an event, and the stream remembers it. -/
theorem Chip.checkEnd_facts (c : Chip) : c.aside c.checkEnd ∧ c.checkEnd.strm.closePt = c.strm.closePt := by
  have posted : c.aside { c with strm := { c.strm with endPosted := true } } := Chip.aside_of rfl rfl rfl
  unfold Chip.checkEnd
  split
  · exact ⟨c.aside_refl, rfl⟩
  · split
    · dsimp only
      split
      · have event := Chip.like_event { c with strm := { c.strm with endPosted := true } } 1 46 0x0001 0 (by decide)
        exact ⟨Chip.aside_trans posted (Chip.aside_like event), (congrArg Strm.closePt (Chip.like_strm event) :)⟩
      · exact ⟨posted, rfl⟩
    · exact ⟨c.aside_refl, rfl⟩

theorem Fld.ofPc_apart (h : Fld) (hh : h.ofPc) : h.apart := by
  obtain ⟨⟨low, high⟩, four⟩ := hh
  have ne {g : Fld} (hg : g.key / 128 < 0x10100 ∨ 0x10400 ≤ g.key / 128) : h.key ≠ g.key := fun e => by omega
  exact ⟨.inr (.inl four), ne (by decide), ne (by decide), ne (by decide)⟩

theorem ofPc_ne_jseq (h : Fld) (hh : h.ofPc) : h.key ≠ TW_JSEQ_JSEQ.key := (Fld.ofPc_apart h hh).2.2.2

/-- A field of the sequencer that reports leave stays in a checkpoint of context 0. -/
theorem ofSeq_ne_jseq (h : Fld) (hh : h.ofSeq) : h.key ≠ TW_JSEQ_JSEQ.key := fun e => by
  obtain ⟨-, -, high⟩ := hh
  rw [e] at high
  exact absurd high (by decide)

theorem cpc_ofPc (n : CtxId) : (SEQ_CPC_PC n).ofPc := by
  constructor
  · simp only [Fld.ofContext, SEQ_CPC_PC, fld, Blk.base]
    omega
  · simp only [SEQ_CPC_PC, fld, Blk.base]
    omega

/-- Closing the stream: it is no longer open, and no longer behind. -/
theorem Chip.closeStream_facts (c : Chip) :
    c.leaves (fun h => h.ofSeq ∧ h.key ≠ SEQ_PSTAT_OPEN.key) c.closeStream.noteBehind ∧
      c.closeStream.noteBehind.get SEQ_PSTAT_OPEN = 0 ∧ c.closeStream.noteBehind.strm.closePt = c.strm.closePt := by
  obtain ⟨spoilt, strm⟩ := (c.set SEQ_PSTAT_OPEN 0).aside_spoil
  have isOpen : c.closeStream.get SEQ_PSTAT_OPEN = 0 :=
    (spoilt.1.2.2 SEQ_PSTAT_OPEN (by unfold Fld.ofSeq Fld.still; decide)).trans (Chip.get_set_same ..)
  have closed : c.leaves (fun h => h.ofSeq ∧ h.key ≠ SEQ_PSTAT_OPEN.key) c.closeStream :=
    Chip.leaves_trans (c.leaves_set _ _ fun h hh => hh.2) (Chip.leaves_mono (fun _ h => h.1) spoilt.1)
  rw [Chip.noteBehind_caughtUp _ (.inl isOpen)]
  exact ⟨closed, isOpen, (congrArg Strm.closePt strm :)⟩

/-- Context 0 closes its stream at w0 and is HALTED (R71, R89). -/
def Chip.closeAt (c : Chip) (w0 : Nat) : Chip :=
  let c := c.appendRec { start := w0, stop := w0, seq := 0, kind := 15 } false
  let c := ({ c with strm := { c.strm with closePt := some w0 } } : Chip).closeStream
  ((c.noteBehind.setCtxState 0 HALTED).ckpt 0).checkEnd

theorem Chip.closeAt_facts (c : Chip) (w0 : Nat) :
    c.leaves Fld.ofPc (c.closeAt w0) ∧ (c.closeAt w0).ctxState 0 = HALTED ∧ (c.closeAt w0).get SEQ_PSTAT_OPEN = 0 ∧
      (c.closeAt w0).strm.closePt = some w0 := by
  unfold Chip.closeAt
  dsimp only
  have appended := c.leaves_appendRec { start := w0, stop := w0, seq := 0, kind := 15 } false
  generalize c.appendRec { start := w0, stop := w0, seq := 0, kind := 15 } false = a at *
  obtain ⟨closed, shut, point⟩ := ({ a with strm := { a.strm with closePt := some w0 } } : Chip).closeStream_facts
  generalize ({ a with strm := { a.strm with closePt := some w0 } } : Chip).closeStream.noteBehind = d at *
  have halted := d.leaves_setCtxState 0 HALTED
  have saved := (d.setCtxState 0 HALTED).leaves_ckpt 0
  have strm : ((d.setCtxState 0 HALTED).ckpt 0).strm = d.strm := (congrArg Chip.strm (Chip.unjournalled_ckpt (d.setCtxState 0 HALTED) 0) :)
  obtain ⟨ended, kept⟩ := ((d.setCtxState 0 HALTED).ckpt 0).checkEnd_facts
  have seq (f : Fld) (hf : f.ofSeq) : (((d.setCtxState 0 HALTED).ckpt 0).checkEnd).get f = (d.setCtxState 0 HALTED).get f :=
    (ended.1.2.2 f hf).trans (saved.2.2 f (ofSeq_ne_jseq f hf))
  refine ⟨?_, ?_, ?_, ?_⟩
  · have shuts : a.leaves Fld.ofPc d := Chip.leaves_mono (fun h hh => ⟨h.ofPc_ofSeq hh, fun e => absurd (e ▸ hh.1.1) (by decide)⟩) closed
    exact Chip.leaves_trans (Chip.leaves_mono Fld.ofPc_apart appended) <| Chip.leaves_trans shuts <| Chip.leaves_trans (Chip.leaves_mono Fld.ofPc_pcOrTrap halted)
        (Chip.leaves_trans (Chip.leaves_mono ofPc_ne_jseq saved) (Chip.leaves_mono Fld.ofPc_ofSeq ended.1))
  · exact (seq (SEQ_CSTAT_STATE 0) (by unfold Fld.ofSeq Fld.still; decide)).trans (Chip.ctxState_setCtxState_same ..)
  · exact (seq SEQ_PSTAT_OPEN (by unfold Fld.ofSeq Fld.still; decide)).trans ((Chip.get_set_ne _ _ _ _ (by decide)).trans shut)
  · exact kept.trans ((congrArg Strm.closePt strm).trans point)

/-- Settles O15: context 0 closes its stream, a handler ends its dispatch. -/
theorem haltEndsProgram : Obligations.HaltEndsProgram := by
  unfold Obligations.HaltEndsProgram
  intro n f s ready resv
  have run : exec (.halt n f) s = .next { s with chip := if n.val = 0 then (s.chip.next n).closeAt ((s.chip.next n).w 0 0).toNat else (s.chip.next n).endDispatch n } := by
    change execHalt n f s = _
    unfold execHalt
    rw [issueC_of_nil ready resv]
    rfl
  have went : (s.chip.next n).pc n = (s.chip.pc n + 1) % 2 ^ 19 := Chip.pc_next ..
  by_cases zero : n.val = 0
  · obtain ⟨leaves, halted, shut, point⟩ := (s.chip.next n).closeAt_facts ((s.chip.next n).w 0 0).toNat
    rw [if_pos zero] at run
    generalize (s.chip.next n).closeAt ((s.chip.next n).w 0 0).toNat = d at *
    exact ⟨_, run, rfl, leaves.1, leaves.2.1, (leaves.2.2 _ (cpc_ofPc n)).trans went, fun _ => ⟨halted, shut, point⟩, fun other => absurd (Fin.ext zero) other⟩
  · have leaves := (s.chip.next n).leaves_endDispatch n
    have idle := (s.chip.next n).endDispatch_ctxState n
    rw [if_neg zero] at run
    generalize (s.chip.next n).endDispatch n = d at *
    exact ⟨_, run, rfl, leaves.1, leaves.2.1, (leaves.2.2 _ (Fld.ofPc_pcOrTrap _ (cpc_ofPc n))).trans went, fun is0 => absurd (congrArg Fin.val is0) zero,
      fun _ => idle⟩

/-! ### Dispatch (R72 to R75) -/

section
variable (c : Chip) (n : CtxId) (e : Nat)

/-- g1 to g4 of the context that takes an entry. -/
def Chip.handed : Chip :=
  (((c.setG n 1 (BitVec.ofNat 64 e)).setG n 2 (BitVec.ofNat 64 (c.triggerWord e))).setG n 3 (BitVec.ofNat 64 (c.entry e).firstDt)).setG n 4
    (BitVec.ofNat 64 (c.get (SEQ_DISPB_COUNT e)))

/-- The registers of an entry that starts in context n. -/
def Chip.started : Chip :=
  let c := (c.set (SEQ_DISPA_PEND e) 0).set (SEQ_DISPB_COUNT e) 0
  let c := (c.jump n (c.dispPc e)).setCtxState n RUNNABLE
  ((c.set (SEQ_CSTAT_RUNNING n) 1).set (SEQ_CSTAT_ENTRY n) e).count (SEQ_CSTAT_DISPATCHES n)

/-- What the dispatcher remembers of a start, and its journal record. -/
def Chip.dispatched (x : DispEntry) : Chip :=
  let c := c.setEntry e { x with runningIn := some n, waited := 0 }
  let waiting := (List.range 128).filter fun j => j ≠ e && c.is (SEQ_DISPA_PEND j)
  let c := c.forAll waiting fun c j => c.setEntry j { c.entry j with waited := (c.entry j).waited + 1 }
  c.jrn .disp [e, n, 0, x.begun]

theorem Chip.dispatch_eq {others : List Nat} (picked : c.pick = some e) (idle : c.idleFor e = n.val :: others) :
    c.dispatch = ((c.handed n e).started n e).dispatched n e { c.entry e with begun := c.get (SEQ_DISPB_COUNT e) } := by
  simp only [Chip.dispatch, picked, idle]
  rfl

theorem Chip.leaves_dispatched (x : DispEntry) : c.leaves (fun h => h.key ≠ TW_JSEQ_JSEQ.key) (c.dispatched n e x) := by
  have entry (c : Chip) (j : Nat) (y : DispEntry) (P : Fld → Prop) : c.leaves P (c.setEntry j y) := ⟨fun _ _ _ => rfl, fun _ _ _ => rfl, fun _ _ => rfl⟩
  exact Chip.leaves_trans (entry c ..) (Chip.leaves_trans (Chip.leaves_foldl _ (fun c j => entry c ..) _ _) (Chip.leaves_jrn ..))

theorem Chip.setG_dispPc (i : Nat) (v : W64) : (c.setG n i v).dispPc e = c.dispPc e := by
  unfold Chip.setG
  split <;> rfl

theorem Chip.handed_g : (c.handed n e).g n 1 = BitVec.ofNat 64 e ∧ (c.handed n e).g n 2 = BitVec.ofNat 64 (c.triggerWord e) ∧
    (c.handed n e).g n 3 = BitVec.ofNat 64 (c.entry e).firstDt ∧ (c.handed n e).g n 4 = BitVec.ofNat 64 (c.get (SEQ_DISPB_COUNT e)) := by
  simp [Chip.handed, Chip.g_setG]

theorem Chip.started_facts :
    (c.started n e).ctxState n = RUNNABLE ∧ (c.started n e).pc n = c.dispPc e % 2 ^ 19 ∧ sameG c (c.started n e) ∧
      (c.started n e).get (SEQ_DISPA_PEND e) = 0 ∧ (c.started n e).get (SEQ_DISPB_COUNT e) = 0 ∧
      (c.started n e).get (SEQ_CSTAT_RUNNING n) = 1 ∧ (c.started n e).get (SEQ_CSTAT_ENTRY n) = e % 128 := by
  have context {off lo w r : Nat} (hoff : 0x400 ≤ off) (hlo : lo < 128) :
      (c.started n e).get (fld .seq 0 off lo w r) = ((c.set (SEQ_DISPA_PEND e) 0).set (SEQ_DISPB_COUNT e) 0).get (fld .seq 0 off lo w r) := by
    refine (Chip.get_set_ne _ _ _ _ (seq_key_ne (by omega))).trans ((Chip.get_set_ne _ _ _ _ (seq_key_ne (by omega))).trans
      ((Chip.get_set_ne _ _ _ _ (seq_key_ne (by omega))).trans ((Chip.get_set_ne _ _ _ _ (seq_key_ne (by omega))).trans ((Chip.get_set_ne _ _ _ _ ?_)))))
    exact seq_key_ne (by omega)
  refine ⟨?state, ?pc, fun _ _ _ => rfl, ?pend, ?count, ?running, ?entry⟩
  case state =>
    exact (Chip.get_set_ne _ _ _ _ (seq_key_ne (by omega))).trans ((Chip.get_set_ne _ _ _ _ (seq_key_ne (by omega))).trans
      ((Chip.get_set_ne _ _ _ _ (seq_key_ne (by omega))).trans (Chip.ctxState_setCtxState_same ..)))
  case pc =>
    have dispPc : ((c.set (SEQ_DISPA_PEND e) 0).set (SEQ_DISPB_COUNT e) 0).dispPc e = c.dispPc e := by
      have other {lo w r : Nat} (hl : lo = 30 ∨ lo = 0) : ((c.set (SEQ_DISPA_PEND e) 0).set (SEQ_DISPB_COUNT e) 0).get (fld .seq 0 (0x400 + 8 * e) lo w r) =
          c.get (fld .seq 0 (0x400 + 8 * e) lo w r) :=
        (Chip.get_set_ne _ _ _ _ (seq_key_ne (by omega))).trans (Chip.get_set_ne _ _ _ _ (seq_key_ne (by omega)))
      simp only [Chip.dispPc, Chip.resEntry, Chip.is, SEQ_DISPA_RES, SEQ_DISPA_ENTRY_PC, other (.inl rfl), other (.inr rfl)]
      rfl
    refine (Chip.get_set_ne _ _ _ _ (seq_key_ne (by omega))).trans ((Chip.get_set_ne _ _ _ _ (seq_key_ne (by omega))).trans
      ((Chip.get_set_ne _ _ _ _ (seq_key_ne (by omega))).trans ((Chip.get_set_ne _ _ _ _ (seq_key_ne (by omega))).trans ((Chip.get_set_same ..).trans ?_))))
    rw [dispPc]
    rfl
  case pend =>
    exact (context (by omega) (by omega)).trans ((Chip.get_set_ne _ _ _ _ (seq_key_ne (by omega))).trans (Chip.get_set_same ..))
  case count => exact (context (by omega) (by omega)).trans (Chip.get_set_same ..)
  case running =>
    exact (Chip.get_set_ne _ _ _ _ (seq_key_ne (by omega))).trans ((Chip.get_set_ne _ _ _ _ (seq_key_ne (by omega))).trans (Chip.get_set_same ..))
  case entry => exact (Chip.get_set_ne _ _ _ _ (seq_key_ne (by omega))).trans (Chip.get_set_same ..)

end

/-- Settles O16: the dispatcher's registers are handed over, set and remembered. -/
theorem handlerIsDispatched : Obligations.HandlerIsDispatched := by
  unfold Obligations.HandlerIsDispatched
  intro t s e n others c runs noHandoff picked idle
  have run : exec (.handlerDispatch t) s = .next ((s.at_ t).onChip fun c => if c.runs && !c.is TW_STAT_HANDOFF then c.dispatch else c) := rfl
  have eq := c.dispatch_eq n e picked idle
  have goes : (c.runs && !c.is TW_STAT_HANDOFF) = true := by
    rw [runs, Chip.is_eq_false_iff.2 noHandoff]
    rfl
  rw [State.onChip, if_pos goes] at run
  obtain ⟨g1, g2, g3, g4⟩ := c.handed_g n e
  obtain ⟨state, pc, gs, pend, count, running, entry⟩ := (c.handed n e).started_facts n e
  have noted := ((c.handed n e).started n e).leaves_dispatched n e { c.entry e with begun := c.get (SEQ_DISPB_COUNT e) }
  have handed : (c.handed n e).dispPc e = c.dispPc e := by simp only [Chip.handed, Chip.setG_dispPc]
  rw [← eq] at noted
  rw [handed] at pc
  have entryPc : c.resEntry e = false → c.dispPc e = c.get (SEQ_DISPA_ENTRY_PC e) := fun own => if_neg (by rw [own]; decide)
  have mem := s.at_mem t
  change exec (.handlerDispatch t) s = .next { s.at_ t with chip := c.dispatch } at run
  generalize c.dispatch = d at *
  generalize (c.handed n e).started n e = st at *
  generalize c.handed n e = h at *
  have seq {off lo w r : Nat} (ho : off < 0x10000) (hl : lo < 128) := noted.2.2 (fld .seq 0 off lo w r) (seq_key_ne_jseq off lo w r ho hl)
  have g (i : Nat) (hi : i < 32) := (noted.1 n i hi).trans (gs n i hi)
  exact ⟨_, run, mem, (seq (by omega) (by omega)).trans state, (seq (by omega) (by omega)).trans pc, entryPc,
    (g 1 (by decide)).trans g1, (g 2 (by decide)).trans g2, (g 3 (by decide)).trans g3, (g 4 (by decide)).trans g4,
    (seq (by omega) (by omega)).trans pend, (seq (by omega) (by omega)).trans count, (seq (by omega) (by omega)).trans running,
    (seq (by omega) (by omega)).trans (entry.trans (Nat.mod_eq_of_lt e.isLt))⟩

end Sys2Proof.Machine
end

section
/-!
PROOFS. Waits and serial counters (R95, R96, R101).
-/
namespace Sys2Proof.Machine

/-! ### Waits (R95, R96) -/

theorem Chip.ckpt_seq (c : Chip) (n : Nat) : (c.ckpt n).seq = c.seq := by
  unfold Chip.ckpt
  split
  · exact c.jrn_seq ..
  · rfl

theorem Chip.deadline_eq (c : Chip) (n gb : Nat) : c.deadline n gb = if c.g n gb = 0 then none else some (c.ns + (c.g n gb).toNat) := by
  simp only [Chip.deadline, toNat_eq_zero]

section
variable (c : Chip) (n : CtxId) (x : Wait)

/-- A context that waits runs again. -/
def Chip.woken : Chip := if c.ctxState n = WAITING then c.resume n else c

theorem Chip.leaves_woken : c.leaves Fld.calm (c.woken n) := by
  unfold Chip.woken
  split
  · exact c.leaves_calm_resume n
  · exact c.leaves_refl _

theorem Chip.woken_ns : (c.woken n).ns = c.ns := by
  unfold Chip.woken
  split <;> rfl

theorem Chip.endWait_facts (status : Nat) (low : x.gd < 32) :
    (c.endWait n x status).pc n = (c.pc n + 1) % 2 ^ 19 ∧ sameW c (c.endWait n x status) ∧
      FMap.get none (c.endWait n x status).seq.waits n = none ∧
      ∀ m i, i < 32 → (c.endWait n x status).g m i =
        if m = n.val ∧ i = x.gd ∧ x.gd ≠ 0 then BitVec.ofNat 64 (if x.kind = 2 then c.ns else status) else c.g m i := by
  obtain ⟨gs, ws, fields⟩ := c.leaves_woken n
  have ns := c.woken_ns n
  have eq : c.endWait n x status = ((({ c.woken n with seq := { (c.woken n).seq with waits := FMap.put none (c.woken n).seq.waits n none } } : Chip).setG n
      x.gd (BitVec.ofNat 64 (if x.kind = 2 then (c.woken n).ns else status))).next n) := rfl
  rw [eq]
  generalize c.woken n = d at *
  refine ⟨(Chip.pc_next ..).trans ?_, fun m i hi => ?_, ?_, fun m i hi => ?_⟩
  · rw [Chip.setG_pc]
    exact congrArg (fun p => (p + 1) % 2 ^ 19) (fields _ (.inr (.inl (cpc_ofPc n).2)))
  · exact (Chip.setG_w ..).trans (ws m i hi)
  · exact (congrArg (FMap.get none · n.val) (Chip.setG_seq_waits ..)).trans (FMap.get_put_same none _ n.val none)
  · rw [← ns, ← gs m i hi, Chip.next_g, Chip.g_setG _ _ _ _ _ _ low hi]
    rfl

/-- A context that waited runs again when its wait has ended. -/
theorem Chip.endWait_resumes (status : Nat) (waiting : c.ctxState n = WAITING) :
    (c.endWait n x status).ctxState n = RUNNABLE ∧ (c.endWait n x status).get (SEQ_CWAIT_KIND n) = 0 := by
  have run : c.woken n = c.resume n := if_pos waiting
  have state := c.resume_ctxState n
  have kind := c.resume_kind n
  have eq : c.endWait n x status = ((({ c.woken n with seq := { (c.woken n).seq with waits := FMap.put none (c.woken n).seq.waits n none } } : Chip).setG n
      x.gd (BitVec.ofNat 64 (if x.kind = 2 then (c.woken n).ns else status))).next n) := rfl
  rw [eq, run]
  generalize c.resume n = d at *
  refine ⟨(Chip.get_set_ne _ _ _ _ (seq_key_ne (by omega))).trans ((Chip.setG_get ..).trans state),
    (Chip.get_set_ne _ _ _ _ (seq_key_ne (by omega))).trans ((Chip.setG_get ..).trans kind)⟩

/-- The context at the start of a wait that is not met. -/
def Chip.asleep (operand : Nat) : Chip :=
  let c := ((c.setCtxState n WAITING).set (SEQ_CWAIT_KIND n) x.kind).set (SEQ_CWAIT_OPERAND n) operand
  { c with seq := { c.seq with waits := FMap.put none c.seq.waits n (some x) } }

theorem Chip.asleep_facts (operand : Nat) (kind : x.kind < 16) :
    (c.asleep n x operand).ctxState n = WAITING ∧ (c.asleep n x operand).get (SEQ_CWAIT_KIND n) = x.kind ∧ c.leaves Fld.pcOrTrap (c.asleep n x operand) := by
  obtain ⟨kindOperand, stateOperand, stateKind⟩ := ctx_keys_ne n
  refine ⟨?_, ?_, ?_⟩
  · exact (Chip.get_set_ne _ _ _ _ stateOperand).trans ((Chip.get_set_ne _ _ _ _ stateKind).trans (Chip.get_set_same ..))
  · exact (Chip.get_set_ne _ _ _ _ kindOperand).trans ((Chip.get_set_same ..).trans (Nat.mod_eq_of_lt kind))
  · exact Chip.leaves_trans (c.leaves_setCtxState n WAITING)
      (Chip.leaves_trans (Chip.leaves_set_stat _ _ _ _ _ x.kind (by omega) (by omega)) (Chip.leaves_set_stat _ _ _ _ _ operand (by omega) (by omega)))

theorem Chip.startWait_waits (operand : Nat) (kind : x.kind < 16) (unmet : c.waitMet x = false) :
    let d := c.startWait n x operand
    d.ctxState n = WAITING ∧ d.get (SEQ_CWAIT_KIND n) = x.kind ∧ FMap.get none d.seq.waits n = some x ∧ d.pc n = c.pc n ∧ sameG c d ∧ sameW c d := by
  have eq : c.startWait n x operand = (c.asleep n x operand).ckpt n := if_neg (by rw [unmet]; decide)
  intro d
  obtain ⟨state, waits, leaves⟩ := c.asleep_facts n x operand kind
  have saved := (c.asleep n x operand).leaves_ckpt n
  have seq : ((c.asleep n x operand).ckpt n).seq = (c.asleep n x operand).seq := Chip.ckpt_seq ..
  have own {off lo w r : Nat} (ho : off < 0x10000) (hl : lo < 128) := saved.2.2 (fld .seq 0 off lo w r) (seq_key_ne_jseq off lo w r ho hl)
  have kept : FMap.get none (c.asleep n x operand).seq.waits n = some x := FMap.get_put_same none _ n.val (some x)
  simp only [d, eq]
  generalize (c.asleep n x operand).ckpt n = e at *
  generalize c.asleep n x operand = a at *
  exact ⟨(own (by omega) (by omega)).trans state, (own (by omega) (by omega)).trans waits, by rw [seq]; exact kept,
    (own (by omega) (by omega)).trans (leaves.2.2 _ (Fld.ofPc_pcOrTrap _ (cpc_ofPc n))), fun m i hi => (saved.1 m i hi).trans (leaves.1 m i hi),
    fun m i hi => (saved.2.1 m i hi).trans (leaves.2.1 m i hi)⟩

end

/-- An instruction that waits: met, it goes on with status 0 or the time; unmet, it sleeps. -/
theorem waits_of_startWait {n : CtxId} {f : Fields} {s : State} {x : Wait} {i : Instr} {operand : Nat} (gd : x.gd = f.gd.toNat) (kind : x.kind < 16)
    (run : exec i s = .next { s with chip := s.chip.startWait n x operand }) :
    (s.chip.waitMet x = true → ∃ t, exec i s = .next t ∧ t.mem = s.mem ∧ wentOn n s t ∧ sameW s.chip t.chip ∧
        ∀ m i, i < 32 → t.chip.g m i =
          if m = n.val ∧ i = f.gd.toNat ∧ f.gd ≠ 0 then (if x.kind = 2 then BitVec.ofNat 64 s.chip.ns else 0) else s.chip.g m i) ∧
      (s.chip.waitMet x = false → ∃ t, exec i s = .next t ∧ t.mem = s.mem ∧ t.chip.ctxState n = WAITING ∧
        t.chip.get (SEQ_CWAIT_KIND n) = x.kind ∧ FMap.get none t.chip.seq.waits n = some x ∧ t.chip.pc n = s.chip.pc n ∧
        sameG s.chip t.chip ∧ sameW s.chip t.chip) := by
  refine ⟨fun met => ⟨_, run, rfl, ?_⟩, fun unmet => ⟨_, run, rfl, s.chip.startWait_waits n x operand kind unmet⟩⟩
  have eq : s.chip.startWait n x operand = s.chip.endWait n x 0 := if_pos met
  obtain ⟨pc, ws, -, gs⟩ := s.chip.endWait_facts n x 0 (by rw [gd]; omega)
  have status : BitVec.ofNat 64 (if x.kind = 2 then s.chip.ns else 0) = if x.kind = 2 then BitVec.ofNat 64 s.chip.ns else 0 := by
    split <;> rfl
  have zero : x.gd ≠ 0 ↔ f.gd ≠ 0 := by rw [gd]; exact not_congr toNat_eq_zero
  rw [eq]
  refine ⟨pc, ws, fun m j hj => (gs m j hj).trans ?_⟩
  rw [status, gd]
  simp only [← zero, gd]

/-- Settles O19: a wait that is met goes on, another one sleeps. -/
theorem waitsBlockUntilMet : Obligations.WaitsBlockUntilMet := by
  unfold Obligations.WaitsBlockUntilMet
  intro n f s x ready c limit wait
  refine ⟨fun mode sub known ga noImm imm front enabled is => ?web, fun resv is => ?time, fun resv use is => ?queue⟩
  case web =>
    have sub' : subOf f % 4 = mode := by rw [subOf, sub]; omega
    have extra : subExtra f 3 = false := by
      rw [subExtra, subOf, sub]
      obtain rfl | rfl | rfl : mode = 0 ∨ mode = 1 ∨ mode = 2 := by omega
      all_goals rfl
    have im : immOf f < 16 := imm
    have kind : x.kind < 16 := by rw [is]; show 1 < 16; decide
    have wa : f.ga.toNat % 8 = f.ga.toNat := Nat.mod_eq_of_lt ga
    refine waits_of_startWait (operand := f.ga.toNat % 8) (by rw [is]) kind (congrArg Host.Outcome.next ((issueC_of_nil ready ?_ _).trans ?_))
    · have noBar : ((decide (mode = 1) && c.enabledBars.isEmpty) || (decide (mode = 2) && !(c.setOf (immOf f % 16)).enabled (immOf f % 16))) = false := by
        rw [Nat.mod_eq_of_lt im]
        obtain rfl | rfl | rfl : mode = 0 ∨ mode = 1 ∨ mode = 2 := by omega
        · rfl
        · simpa using front rfl
        · simpa [immOf] using enabled rfl
      have noField : decide (immOf f ≥ if mode = 2 then 16 else 1) = false := by
        by_cases two : mode = 2
        · rw [if_pos two]; exact decide_eq_false (Nat.not_le.2 im)
        · rw [if_neg two, immOf, noImm two]; rfl
      rw [sub', extra, resvW_eq_nil ga, noField, noBar, decide_eq_false (show ¬ mode = 3 by omega)]
      rfl
    · rw [is, sub', Chip.deadline_eq, Nat.mod_eq_of_lt im, wa]
      rfl
  case time =>
    have kind : x.kind < 16 := by rw [is]; show 2 < 16; decide
    refine waits_of_startWait (operand := 0) (by rw [is]) kind (congrArg Host.Outcome.next ((issueC_of_nil ready resv _).trans ?_))
    have target (b : Bool) (u v : Nat) : (if b then u + v else v) = (if b then u else 0) + v := by cases b <;> simp
    rw [is, ← bit_toNat, ← target]
    rfl
  case queue =>
    have kind : x.kind < 16 := by rw [is]; show 3 < 16; decide
    refine waits_of_startWait (operand := c.queueOf n f) (by rw [is]) kind (congrArg Host.Outcome.next ((issueC_of_nil ready ?_ _).trans ?_))
    · exact List.append_eq_nil_iff.2 ⟨resv, use⟩
    · rw [is, Chip.deadline_eq]

/-- A wait that ends with its status, in a state that holds what s held. -/
theorem endWait_ends {n : CtxId} {s v : State} {x : Wait} (status : Nat) (low : x.gd < 32) (waiting : v.chip.ctxState n = WAITING) (mem : v.mem = s.mem)
    (pc : v.chip.pc n = s.chip.pc n) (g : ∀ m i, v.chip.g m i = s.chip.g m i) (w : ∀ m i, v.chip.w m i = s.chip.w m i) :
    let u := v.onChip (·.endWait n x status)
    u.mem = s.mem ∧ Resumed n u ∧ wentOn n s u ∧ sameW s.chip u.chip ∧ FMap.get none u.chip.seq.waits n = none ∧
      ∀ m i, i < 32 → u.chip.g m i =
        if m = n.val ∧ i = x.gd ∧ x.gd ≠ 0 then BitVec.ofNat 64 (if x.kind = 2 then v.chip.ns else status) else s.chip.g m i := by
  intro u
  obtain ⟨next, ws, none, gs⟩ := v.chip.endWait_facts n x status low
  rw [pc] at next
  simp only [g] at gs
  exact ⟨mem, v.chip.endWait_resumes n x status waiting, next, fun m i hi => (ws m i hi).trans (w m i), none, gs⟩

theorem exec_waitWake {t : Nat} {n : CtxId} {s : State} {x : Wait} (of : (s.at_ t).chip.waitOf n = some x) (met : (s.at_ t).chip.waitMet x = true) :
    exec (.waitWake t n) s = .next ((s.at_ t).onChip (·.endWait n x 0)) := by
  change execWaitWake t n s = _
  rw [execWaitWake, State.onChip, of]
  dsimp only
  rw [if_pos met]
  rfl

theorem exec_waitTimeout {t : Nat} {n : CtxId} {s : State} {x : Wait} {d : Nat} (of : (s.at_ t).chip.waitOf n = some x) (limit : x.deadline = some d)
    (passed : d ≤ (s.at_ t).chip.ns) :
    exec (.waitTimeout t n) s = .next ((s.at_ t).onChip (·.endWait n x (if (s.at_ t).chip.waitMet x then 0 else 1))) := by
  change execWaitTimeout t n s = _
  rw [execWaitTimeout, State.onChip, of]
  dsimp only
  rw [limit]
  dsimp only
  rw [if_pos passed]
  rfl

/-- Settles O20: the wait ends with its status and the context runs on. -/
theorem waitsEnd : Obligations.WaitsEnd := by
  unfold Obligations.WaitsEnd
  intro t n s x waiting op low now ends
  have waits : (s.at_ t).chip.ctxState n = WAITING := (s.at_ctxState t n).trans waiting
  have of : (s.at_ t).chip.waitOf n = some x := (if_pos waits).trans ((congrArg (FMap.get none · n.val) (congrArg Seq.waits (s.at_seq t))).trans op)
  have ended (status : Nat) := endWait_ends (x := x) status low waits (s.at_mem t) (s.at_pc t n) (s.at_g t) (s.at_w t)
  refine ⟨fun met => ⟨_, exec_waitWake of met, ended 0⟩, fun d limit passed unmet => ⟨_, exec_waitTimeout of limit passed, ?_⟩,
    fun d limit passed met => ⟨_, exec_waitTimeout of limit passed, ?_⟩⟩
  · rw [if_neg (by rw [unmet]; decide)]
    exact ended 1
  · rw [if_pos met]
    exact ended 0

/-! ### Serial counters (R101) -/

/-- A serial counter takes a new value, journalled unless it is only read. -/
def Chip.serial (c : Chip) (i fn new : Nat) : Chip :=
  let c := c.set (SEQ_SCTR_VALUE i) new
  if fn = 0 then c else c.jrn .counter [i, new]

/-- Settles O23: each function of vctr writes its value, and gD takes the old one. -/
theorem serialCounters : Obligations.SerialCounters := by
  unfold Obligations.SerialCounters
  intro n f s ready i is old a b counts
  have im : immOf f % 16 = i := by rw [immOf, is]; omega
  have small : decide (16 ≤ immOf f) = false := decide_eq_false (by rw [immOf, is]; omega)
  have counted {v : Nat} (d : Chip) (run : exec (.vctr n f) s = .next { s with chip := d.finish n f.gd (BitVec.ofNat 64 old) })
      (written : (s.chip.set (SEQ_SCTR_VALUE i) v).leaves (fun h => h.key ≠ TW_JSEQ_JSEQ.key) d) : counts (v % 2 ^ 64) := by
    have keys : (SEQ_SCTR_VALUE i).key ≠ (SEQ_CPC_PC n).key := seq_key_ne (by omega)
    have own (h : Fld) (hp : h.key ≠ (SEQ_CPC_PC n).key) (hj : h.key ≠ TW_JSEQ_JSEQ.key) := (d.finish_get n f.gd (BitVec.ofNat 64 old) h hp hj).trans (written.2.2 h hj)
    refine ⟨_, run, rfl, ?_, fun m j hj => (d.finish_w n f.gd _ m j hj).trans (written.2.1 m j hj), ?_, fun h hh => ?_, fun m j hj => ?_⟩
    · refine (d.finish_pc n f.gd _).trans (congrArg (fun p => (p + 1) % 2 ^ 19) ((written.2.2 _ (seq_key_ne_jseq _ _ _ _ (by omega) (by omega))).trans (Chip.get_set_ne _ _ _ _ keys.symm)))
    · exact (own _ keys (seq_key_ne_jseq _ _ _ _ (by omega) (by omega))).trans (Chip.get_set_same ..)
    · simp only [List.forall_mem_cons] at hh
      obtain ⟨pc, counter, journal, -⟩ := hh
      exact (own h pc journal).trans (Chip.get_set_ne _ _ _ _ counter)
    · rw [d.finish_g n f.gd _ m j hj, written.1 m j hj]
      rfl
  have run (traps : trapIf (decide (subOf f % 4 = 3)) ILLEGAL_OP ++ resvRaw f 3 true (subOf f % 4 = 1) (subOf f % 4 = 1 || subOf f % 4 = 2) true = [])
      (fits : (decide (subOf f % 4 = 1) && (decide (a < old + b) || decide (2 ^ 64 ≤ old + b))) = false) :
      exec (.vctr n f) s = .next { s with
        chip := (s.chip.serial i (subOf f % 4) (if subOf f % 4 = 1 then old + b else if subOf f % 4 = 2 then b else old)).finish n f.gd (BitVec.ofNat 64 old) } := by
    change execVctr n f s = _
    unfold execVctr
    dsimp only
    rw [small, im]
    exact congrArg Host.Outcome.next (issueC_of_nil ready (by rw [traps, fits]; rfl) _)
  refine ⟨fun resv read => ?read, fun resv add fits => ?add, fun resv set => ?set⟩
  case read =>
    have fn : subOf f % 4 = 0 := by rw [subOf, read]
    exact counted _ ((run (by rw [fn]; exact resv) (by rw [fn]; rfl)).trans (by rw [fn]; rfl)) (Chip.leaves_refl _ _)
  case add =>
    have fn : subOf f % 4 = 1 := by rw [subOf, add]
    have lt : old + b < 2 ^ 64 := Nat.lt_of_le_of_lt fits (BitVec.isLt _)
    have isAdd := counted (v := old + b) _ ((run (by rw [fn]; exact resv) (by
      rw [decide_eq_false (Nat.not_lt.2 fits), decide_eq_false (Nat.not_le.2 lt)]; simp)).trans (by rw [fn]; rfl)) (Chip.leaves_jrn ..)
    rwa [Nat.mod_eq_of_lt lt] at isAdd
  case set =>
    have fn : subOf f % 4 = 2 := by rw [subOf, set]
    have isSet := counted (v := b) _ ((run (by rw [fn]; exact resv) (by rw [fn]; rfl)).trans (by rw [fn]; rfl)) (Chip.leaves_jrn ..)
    rwa [Nat.mod_eq_of_lt (BitVec.isLt _)] at isSet

end Sys2Proof.Machine
end

section
/-!
PROOFS. Queues, records and events, marks and composed slots (R69, R70, R87 to R91, R103 to R108, R337, R341 to R345).
-/
namespace Sys2Proof.Machine

/-! ### Instructions that end after work that leaves every context -/

section
variable {c d : Chip} (n : CtxId) (gd : BitVec 5) (v : W64)

theorem Chip.finish_of_leaves (leaves : c.leaves Fld.ofPc d) :
    (d.finish n gd v).pc n = (c.pc n + 1) % 2 ^ 19 ∧ sameW c (d.finish n gd v) ∧
      ∀ m i, i < 32 → (d.finish n gd v).g m i = if m = n.val ∧ i = gd.toNat ∧ gd ≠ 0 then v else c.g m i := by
  obtain ⟨gs, ws, fields⟩ := leaves
  refine ⟨(d.finish_pc n gd v).trans (congrArg (fun p => (p + 1) % 2 ^ 19) (fields _ (cpc_ofPc n))),
    fun m i hi => (d.finish_w n gd v m i hi).trans (ws m i hi), fun m i hi => ?_⟩
  rw [d.finish_g n gd v m i hi, gs m i hi]

theorem Chip.finish_hosts (d : Chip) : (d.finish n gd v).hosts = d.hosts := (congrArg Chip.hosts (d.finish_unjournalled n gd v) :)

end

theorem Chip.leaves_ofPc_like {c d : Chip} (like : c.like d) : c.leaves Fld.ofPc d := Chip.leaves_of_like (fun h hh => h.ofContext_still hh.1) like

/-! ### The queue instructions (R69, R70, R335) -/

theorem Chip.queue_congr {c d : Chip} (h : d.hosts = c.hosts) (q : Nat) : d.queue q = c.queue q := by rw [Chip.queue, h, Chip.queue]

theorem Chip.takeApp_none {c : Chip} {q : Nat} (h : c.appWaiting q = []) : c.takeApp q = none := by
  rw [Chip.takeApp, takeFirst_none _ _ h]
  rfl

/-- The chip after the head application descriptor x of queue q, which leaves `rest`, is taken. -/
def Chip.takenApp (c : Chip) (q : Nat) (x : InDesc) (rest : List InDesc) : Chip :=
  (c.setQueue q { c.queue q with inq := rest }).complete q (fieldAt x.d 4 4) x.rx 0

theorem Chip.takeApp_some {c : Chip} {q : Nat} {before after : List InDesc} {x : InDesc} (h : (c.queue q).inq = before ++ x :: after)
    (others : ∀ y ∈ before, y.isApp = false) (app : x.isApp = true) : c.takeApp q = some (x, c.takenApp q x (before ++ after)) := by
  rw [Chip.takeApp, h, takeFirst_some _ before x after others app]
  rfl

theorem Chip.takenApp_facts (c : Chip) (q : Nat) (x : InDesc) (rest : List InDesc) :
    c.like (c.takenApp q x rest) ∧ ((c.takenApp q x rest).queue q).inq = rest :=
  ⟨Chip.like_trans (Chip.like_setQueue ..) (Chip.like_complete ..), (Chip.inq_complete ..).trans (by rw [Chip.queue_setQueue, if_pos rfl])⟩

/-- The end of qrecv: gD takes status OK, the tenant and how many descriptors still wait. -/
def received (n : CtxId) (gd : BitVec 5) (q tenant : Nat) (s : State) : State :=
  let left := (s.chip.appWaiting q).length
  s.onChip fun c => c.finish n gd (BitVec.ofNat 64 (tenant * 256 + left * 65536))

/-- Settles O11: qpeek counts, qrecv takes the head. -/
theorem queuePeekReceive : Obligations.QueuePeekReceive := by
  unfold Obligations.QueuePeekReceive
  intro n f s ready q a tenant
  refine ⟨fun resv use => gives_of_issueG ready rfl (List.append_eq_nil_iff.2 ⟨resv, use⟩), fun resv use aligned inside => ?_⟩
  have none : resvQueue f true ++ dTraps a 64 64 ++ s.chip.queueTraps n q true = [] := by
    rw [resv, dTraps_eq_nil.2 ⟨aligned, inside⟩, use]
    rfl
  have run : exec (.qrecv n f) s = .next (match s.chip.takeApp q with
      | .none => s.onChip fun c => c.finish n f.gd (BitVec.ofNat 64 (1 + tenant * 256))
      | some (x, d) => received n f.gd q tenant (storeD { s with chip := d } a (fit 64 x.d))) :=
    congrArg Host.Outcome.next (issue_of_nil ready none _)
  refine ⟨fun empty => ?empty, fun before x after head others app len => ?take⟩
  case empty =>
    rw [Chip.takeApp_none empty] at run
    obtain ⟨pc, -, gs⟩ := Chip.finish_of_leaves n f.gd (BitVec.ofNat 64 (1 + tenant * 256)) (s.chip.leaves_refl Fld.ofPc)
    exact ⟨_, run, rfl, pc, fun m i hi => by rw [Nat.mul_comm 256]; exact gs m i hi⟩
  case take =>
    rw [Chip.takeApp_some head others app] at run
    obtain ⟨like, inq⟩ := s.chip.takenApp_facts q x (before ++ after)
    have data : fit 64 x.d = x.d := by rw [fit, ← len, List.take_left]
    dsimp only at run
    rw [data] at run
    generalize s.chip.takenApp q x (before ++ after) = d at *
    have stored := leaves_storeD { s with chip := d } a x.d
    have same : (storeD { s with chip := d } a x.d).chip.queue q = d.queue q := Chip.queue_congr (Chip.jrn_hosts ..) q
    have left : ((storeD { s with chip := d } a x.d).chip.appWaiting q).length = (after.filter (·.isApp)).length := by
      have none : before.filter (·.isApp) = [] := List.filter_eq_nil_iff.2 fun y hy => by simp [others y hy]
      rw [Chip.appWaiting, same, inq, List.filter_append, none, List.nil_append]
    obtain ⟨pc, ws, gs⟩ := Chip.finish_of_leaves n f.gd (BitVec.ofNat 64 (tenant * 256 + (after.filter (·.isApp)).length * 65536))
      (Chip.leaves_trans (Chip.leaves_ofPc_like like) (Chip.leaves_mono ofPc_ne_jseq stored))
    refine ⟨_, run, fun b => stored_write _ _ _ b, rfl, rfl, ?_, ?_, ?_, ?_⟩
    all_goals rw [received, left]
    · exact (congrArg Queue.inq ((Chip.queue_congr (Chip.finish_hosts ..) q).trans same)).trans inq
    · exact pc
    · exact ws
    · exact gs

/-- The outbound ring after qsend: the record is posted unless the ring is full. -/
def Chip.sent (c : Chip) (n q : Nat) (bs : List Byte) : Chip :=
  if decide (c.get (QM_QCFG_ODEPTH q) ≤ c.outUsed q) then c else (c.postRecord q false 0x02 0 0 bs).noteSent n [q]

theorem Chip.sent_facts (c : Chip) (n q : Nat) (bs : List Byte) : c.leaves Fld.ofPc (c.sent n q bs) ∧
    (c.outUsed q < c.get (QM_QCFG_ODEPTH q) → (c.sent n q bs).hosts = (c.postRecord q false 0x02 0 0 bs).hosts) ∧
    (c.get (QM_QCFG_ODEPTH q) ≤ c.outUsed q → (c.sent n q bs).hosts = c.hosts) := by
  unfold Chip.sent
  by_cases full : c.get (QM_QCFG_ODEPTH q) ≤ c.outUsed q
  · rw [if_pos (decide_eq_true full)]
    exact ⟨c.leaves_refl _, fun room => absurd full (Nat.not_le.2 room), fun _ => rfl⟩
  · rw [if_neg (mt of_decide_eq_true full)]
    have posted := Chip.leaves_ofPc_like (c.like_postRecord q false 0x02 0 0 bs)
    generalize c.postRecord q false 0x02 0 0 bs = d at *
    exact ⟨posted, fun _ => rfl, fun isFull => absurd isFull full⟩

/-- Settles O12: the record or the events are posted and gD takes what the post gives. -/
theorem queueSendEventPost : Obligations.QueueSendEventPost := by
  unfold Obligations.QueueSendEventPost
  intro n f s ready q a
  refine ⟨fun r clean => ?send, fun resv imm => ?post⟩
  case send =>
    intro c resv use aligned inside
    have none : resvQueue f true ++ dTraps a 64 64 ++ s.chip.queueTraps n q true = [] := by
      rw [resv, dTraps_eq_nil.2 ⟨aligned, inside⟩, use]
      rfl
    have run : exec (.qsend n f r) s = .next { s with chip := (c.sent n q ((s.mem.data.read a 64).drop 12)).finish n f.gd (if decide (c.get (QM_QCFG_ODEPTH q) ≤ c.outUsed q) then 2 else 0) } :=
      congrArg Host.Outcome.next (issueD_of_nil ready clean none _)
    obtain ⟨leaves, room, full⟩ := c.sent_facts n q ((s.mem.data.read a 64).drop 12)
    obtain ⟨pc, ws, gs⟩ := Chip.finish_of_leaves n f.gd (if decide (c.get (QM_QCFG_ODEPTH q) ≤ c.outUsed q) then 2 else 0)
      (Chip.leaves_trans (Chip.leaves_ofPc_like (s.chip.like_dRead r)) leaves)
    refine ⟨_, run, rfl, pc, ws, fun hasRoom => ⟨(Chip.finish_hosts ..).trans (room hasRoom), ?_⟩, fun isFull => ⟨(Chip.finish_hosts ..).trans (full isFull), ?_⟩⟩
    · exact fun m i hi => (gs m i hi).trans (by rw [decide_eq_false (Nat.not_le.2 hasRoom)]; rfl)
    · exact fun m i hi => (gs m i hi).trans (by rw [decide_eq_true isFull]; rfl)
  case post =>
    intro r
    have source : (if n = 0 then 46 else 47) = if n.val = 0 then 46 else 47 := ite_of_iff (by rw [Fin.ext_iff]; rfl) rfl rfl
    have none : resvRaw f 0 true true true true ++ trapIf (decide (256 ≤ immOf f)) RESERVED_FIELD = [] := by
      have small : decide (256 ≤ immOf f) = false := decide_eq_false (Nat.not_le.2 imm)
      rw [resv, small]
      rfl
    have run : exec (.evpost n f) s = .next { s with chip := (r.2.noteSent n ((setBits 8 (immOf f)).filterMap r.2.eQueue)).finish n f.gd (BitVec.ofNat 64 r.1) } := by
      simp only [r, source]
      exact congrArg Host.Outcome.next (issueC_of_nil ready none _)
    have like : s.chip.like r.2 := Chip.like_postCoded _ _ _ _ _ (by split <;> decide)
    generalize r.2 = d at *
    have sent : d.leaves Fld.ofPc (d.noteSent n ((setBits 8 (immOf f)).filterMap d.eQueue)) := ⟨fun _ _ _ => rfl, fun _ _ _ => rfl, fun _ _ => rfl⟩
    obtain ⟨pc, ws, gs⟩ := Chip.finish_of_leaves n f.gd (BitVec.ofNat 64 r.1) (Chip.leaves_trans (Chip.leaves_ofPc_like like) sent)
    exact ⟨_, run, rfl, pc, ws, Chip.finish_hosts .., gs⟩

/-! ### Completions that wait (R337, R342) -/

theorem Chip.deliver_blocked (m : Nat) (c : Chip) (q : Nat) (h : c.canDeliver q = false) : Chip.deliver (m + 1) c q = c :=
  if_pos (by rw [h]; simp)

/-- A record that cannot be delivered waits at the end of the outbound ring. -/
theorem Chip.postRecord_blocked (c : Chip) (q : Nat) (completion : Bool) (rtype b2 b3 : Nat) (rest : List Byte) (h : c.canDeliver q = false) :
    c.postRecord q completion rtype b2 b3 rest = c.setQueue q { c.queue q with
      oseq := ((c.queue q).oseq + 1) % 2 ^ 32
      out := (c.queue q).out ++ [(completion, fit 64 (le 1 rtype ++ le 1 q ++ le 1 b2 ++ le 1 b3 ++ le 4 (((c.queue q).oseq + 1) % 2 ^ 32) ++ le 4 c.stamp ++ rest))] } :=
  Chip.deliver_blocked _ _ _ h

/-- Settles O31: the completion waits at the end of its ring. -/
theorem completionsArePosted : Obligations.CompletionsArePosted := by
  unfold Obligations.CompletionsArePosted
  intro c q tag rx st res k o rec64 blocked
  have eq : c.complete q tag rx st res = (c.setQueue q { k with reserved := k.reserved - 1 }).setQueue q { k with reserved := k.reserved - 1, oseq := o, out := k.out ++ [(true, rec64)] } := by
    have posted := (c.setQueue q { k with reserved := k.reserved - 1 }).postRecord_blocked q true 0x01 st 0
      (le 4 tag ++ le 4 rx ++ le 4 c.peerUnit ++ le 4 c.twin.epoch ++ le 1 c.role ++ zeros 3 ++ fit 32 res) blocked
    rw [Chip.queue_setQueue, if_pos rfl] at posted
    refine posted.trans ?_
    simp only [rec64, List.append_assoc]
    rfl
  rw [eq]
  refine ⟨by rw [Chip.queue_setQueue, if_pos rfl], fun p hp => ?_, fun _ _ => rfl, rfl⟩
  rw [Chip.queue_setQueue, if_neg hp, Chip.queue_setQueue, if_neg hp]

/-! ### The end of a composition (R108) -/

section
variable (c : Chip) (n : CtxId) (gd v : Nat)

/-- A field that shows nothing of context n stays when it is resumed. -/
theorem Chip.unpend_get {h : Fld} (keys : h.key ≠ (SEQ_CWAIT_OPERAND n).key ∧ h.key ≠ (SEQ_CWAIT_KIND n).key ∧ h.key ≠ (SEQ_CSTAT_STATE n).key) :
    (c.unpend n).get h = c.get h := by
  obtain ⟨operand, kind, state⟩ := keys
  change (c.resume n).get h = _
  unfold Chip.resume Chip.setCtxState
  rw [Chip.get_set_ne _ _ _ _ operand, Chip.get_set_ne _ _ _ _ kind, Chip.get_set_ne _ _ _ _ state]

/-- The unit is free and the context it composed for runs on with the handle in gD. -/
def Chip.handedOver : Chip := ((({ c with vd := { c.vd with busy := none } } : Chip).unpend n).setG n gd (BitVec.ofNat 64 v)).next n

theorem Chip.handedOver_facts (low : gd < 32) :
    ((c.handedOver n gd v).ctxState n = RUNNABLE ∧ (c.handedOver n gd v).get (SEQ_CWAIT_KIND n) = 0) ∧ (c.handedOver n gd v).pc n = (c.pc n + 1) % 2 ^ 19 ∧
      sameW c (c.handedOver n gd v) ∧
      ∀ m i, i < 32 → (c.handedOver n gd v).g m i = if m = n.val ∧ i = gd ∧ gd ≠ 0 then BitVec.ofNat 64 v else c.g m i := by
  have reg : (BitVec.ofNat 5 gd).toNat = gd := Nat.mod_eq_of_lt low
  have zero : BitVec.ofNat 5 gd ≠ 0 ↔ gd ≠ 0 := not_congr (toNat_eq_zero.symm.trans (by rw [reg]))
  obtain ⟨state, kind, next, ws, gs⟩ := ({ c with vd := { c.vd with busy := none } } : Chip).unpend_next n (BitVec.ofNat 5 gd) (BitVec.ofNat 64 v)
  rw [reg] at state kind next ws gs
  simp only [zero] at gs
  exact ⟨⟨state, kind⟩, next, ws, gs⟩

/-- Another context waits as before. -/
theorem Chip.handedOver_other (m : CtxId) (other : m ≠ n) :
    (c.handedOver n gd v).ctxState m = c.ctxState m ∧ (c.handedOver n gd v).get (SEQ_CWAIT_KIND m) = c.get (SEQ_CWAIT_KIND m) := by
  have ne : m.val ≠ n.val := fun e => other (Fin.ext e)
  have left {off lo w r : Nat} (h : off = 0x100 + 0x10 * m.val ∨ off = 0x108 + 0x10 * m.val) (hl : lo < 128) :
      (c.handedOver n gd v).get (fld .seq 0 off lo w r) = c.get (fld .seq 0 off lo w r) := by
    have keys : (fld .seq 0 off lo w r).key ≠ (SEQ_CPC_PC n).key ∧ (fld .seq 0 off lo w r).key ≠ (SEQ_CWAIT_OPERAND n).key ∧
        (fld .seq 0 off lo w r).key ≠ (SEQ_CWAIT_KIND n).key ∧ (fld .seq 0 off lo w r).key ≠ (SEQ_CSTAT_STATE n).key :=
      ⟨seq_key_ne (by omega), seq_key_ne (by omega), seq_key_ne (by omega), seq_key_ne (by omega)⟩
    exact (Chip.get_set_ne _ _ _ _ keys.1).trans ((Chip.setG_get ..).trans (Chip.unpend_get _ n keys.2))
  exact ⟨left (.inl rfl) (by omega), left (.inr rfl) (by omega)⟩

end

theorem Chip.freed_pendOp (c : Chip) (n : Nat) : Chip.pendOp { c with vd := { c.vd with busy := none } } n = c.pendOp n := rfl

theorem exec_vdComposeDone {t gd v : Nat} {n : CtxId} {s : State} (busy : (s.at_ t).chip.vd.busy = some n.val)
    (op : (s.at_ t).chip.pendOp n = some (.compose gd v)) :
    exec (.vdComposeDone t) s = .next ((s.at_ t).onChip fun c => (c.handedOver n gd v).wakeKind 10) := by
  rw [← (s.at_ t).chip.freed_pendOp] at op
  change execVdComposeDone t s = _
  rw [execVdComposeDone, State.onChip, busy]
  dsimp only
  rw [op]
  rfl

/-- Settles O25: gD takes the handle, and those who waited for the unit issue again. -/
theorem compositionEnds : Obligations.CompositionEnds := by
  unfold Obligations.CompositionEnds
  intro t n gd v s busy op low
  have vd := s.at_vd t
  have pc' : (s.at_ t).chip.pc n = s.chip.pc n := s.at_pc t n
  have gs' := s.at_g t
  have ws' := s.at_w t
  have state' (m : CtxId) : (s.at_ t).chip.ctxState m = s.chip.ctxState m := s.at_ctxState t m
  have kind' (m : CtxId) : (s.at_ t).chip.get (SEQ_CWAIT_KIND m) = s.chip.get (SEQ_CWAIT_KIND m) := s.at_seqField t _ _ _ _ (by omega) (by omega)
  refine ⟨_, exec_vdComposeDone (by rw [vd]; exact busy) ((s.at_pendOp t n).trans op), (State.onChip_mem ..).trans (s.at_mem t), ?_⟩
  simp only [Resumed, wentOn, State.onChip_chip]
  generalize (s.at_ t).chip = a at *
  obtain ⟨resumed, next, ws, gs⟩ := a.handedOver_facts n gd v low
  have other := a.handedOver_other n gd v
  have free : (a.handedOver n gd v).vd = { a.vd with busy := none } := Chip.setG_vd ..
  generalize a.handedOver n gd v = d at *
  obtain ⟨wg, ww, wf⟩ := d.leaves_calm_wakeKind 10
  have unit : (d.wakeKind 10).vd = d.vd := (congrArg Chip.vd (d.unlisted_wakeKind 10) :)
  refine ⟨?_, ?_, ?_, ?_, ?_, ?_, ?_⟩
  · rw [unit, free]
  · rw [unit, free, vd]
  · exact Chip.foldl_resume n n.isLt _ (fun k hk => List.mem_range.1 (List.mem_filter.1 hk).1) d (.inr resumed)
  · exact (wf _ (.inr (.inl (cpc_ofPc n).2))).trans (next.trans (by rw [pc']))
  · exact fun m i hi => (ww m i hi).trans ((ws m i hi).trans (ws' m i))
  · exact fun m ne stalled kind => d.wakeKind_resumes 10 m ((other m ne).1.trans ((state' m).trans stalled)) ((other m ne).2.trans ((kind' m).trans kind))
  · exact fun m i hi => (wg m i hi).trans ((gs m i hi).trans (by rw [gs']))

/-! ### Events count EVSEQ (R341) -/

theorem Chip.deliverOne_evseq (c : Chip) (q : Nat) : (c.deliverOne q).hosts.evseq = c.hosts.evseq := by
  have msix (c : Chip) (t : Nat) : (c.msix t q).hosts.evseq = c.hosts.evseq := of_ite (P := fun d : Chip => d.hosts.evseq = c.hosts.evseq) rfl rfl
  have frame (c : Chip) (k : EmitKind) (t p ty nrec dlen : Nat) (bs : List Byte) : (c.sendFrame k t p ty nrec dlen bs).hosts.evseq = c.hosts.evseq := by
    unfold Chip.sendFrame
    split <;> rfl
  have counted (b : Bool) (x : Queue) (f : Fld) : (if b = true then (c.setQueue q x).count f else c.setQueue q x).hosts.evseq = c.hosts.evseq :=
    of_ite (P := fun d : Chip => d.hosts.evseq = c.hosts.evseq) rfl rfl
  unfold Chip.deliverOne
  dsimp only
  split
  · rfl
  · refine of_ite (P := fun d : Chip => d.hosts.evseq = c.hosts.evseq) (of_ite (P := fun d : Chip => d.hosts.evseq = c.hosts.evseq) ?_ ?_) rfl
    · exact (msix _ _).trans (counted ..)
    · exact (frame ..).trans (counted ..)

theorem Chip.deliver_evseq (m : Nat) (c : Chip) (q : Nat) : (Chip.deliver m c q).hosts.evseq = c.hosts.evseq := by
  induction m generalizing c with
  | zero => rfl
  | succ m ih =>
    unfold Chip.deliver
    exact of_ite (P := fun d : Chip => d.hosts.evseq = c.hosts.evseq) rfl ((ih _).trans (c.deliverOne_evseq q))

theorem Chip.postEvent_evseq (c : Chip) (t ev fl sev code data : Nat) (bs : List Byte) :
    (c.postEvent t ev fl sev code data bs).2.hosts.evseq = FMap.put 0 c.hosts.evseq t ((FMap.get 0 c.hosts.evseq t + 1) % 2 ^ 32) := by
  unfold Chip.postEvent
  dsimp only
  split
  · split
    · exact Chip.deliver_evseq ..
    · rfl
  · rfl

/-- An event counts once in the EVSEQ of each tenant it goes to. -/
theorem Chip.event_evseq (c : Chip) (mask ev code data : Nat) {m : Nat} (hm : m < 8) (sent : bit mask m = true) :
    FMap.get 0 (c.event mask ev code data).hosts.evseq m = (FMap.get 0 c.hosts.evseq m + 1) % 2 ^ 32 := by
  suffices h : ∀ (ts : List Nat), ts.Nodup → ∀ r : Nat × Chip, FMap.get 0 (ts.foldl (fun (r : Nat × Chip) t =>
      let (ok, c) := r.2.postEvent t ev 0 0xFF code data []
      (if ok then r.1 else r.1 + 2 ^ t, c)) r).2.hosts.evseq m =
      if m ∈ ts then (FMap.get 0 r.2.hosts.evseq m + 1) % 2 ^ 32 else FMap.get 0 r.2.hosts.evseq m from
    (h (setBits 8 mask) (List.nodup_range.filter _) (0, c)).trans (if_pos (mem_setBits.2 ⟨hm, sent⟩))
  intro ts nodup
  induction ts with
  | nil => exact fun _ => rfl
  | cons t ts ih =>
    intro r
    obtain ⟨fresh, nodup⟩ := List.nodup_cons.1 nodup
    rw [List.foldl_cons, ih nodup]
    have posted := congrArg (FMap.get 0 · m) (r.2.postEvent_evseq t ev 0 0xFF code data [])
    simp only [FMap.get_put] at posted
    simp only [posted, List.mem_cons]
    by_cases e : m = t
    · subst e
      simp [fresh]
    · simp [e]

theorem Chip.retire_hosts (c : Chip) : c.retire.hosts = c.hosts := by
  have wake (d : Chip) (k : Nat) : (d.wakeKind k).hosts = d.hosts := (congrArg Chip.hosts (d.unlisted_wakeKind k) :)
  unfold Chip.retire
  dsimp only
  split
  · rfl
  · rw [wake, wake]
    exact Chip.forAll_congr Chip.hosts Chip.freeSlot (fun _ _ => rfl) _ _

theorem Chip.appendRec_hosts (c : Chip) (r : Rec) (keep : Bool) : (c.appendRec r keep).hosts = c.hosts := by
  have peak (d : Chip) : d.notePeak.hosts = d.hosts := by
    unfold Chip.notePeak
    split <;> rfl
  rw [Chip.appendRec_eq, Chip.retire_hosts, Chip.jrn_hosts, peak]
  rfl

/-! ### trunc and pmark (R87, R88, R90, R91) -/

/-- The new END of a record that trunc ends (R87, R91). -/
def Chip.truncStop (c : Chip) (r : Rec) : Nat :=
  if (c.w 0 0).toNat < c.maskHorizon r.bars then min r.stop (max (c.w 0 0).toNat (max (c.maskHorizon r.bars) r.start)) else max (c.w 0 0).toNat r.start

/-- The record that trunc appends. -/
def Chip.truncRec (c : Chip) (r : Rec) : Rec :=
  let late := decide ((c.w 0 0).toNat < c.maskHorizon r.bars)
  { start := if late then c.maskHorizon r.bars else (c.w 0 0).toNat, stop := c.truncStop r, seq := 0, kind := 6, bars := r.bars, param := r.seq,
    flags := if late then 4 else 0 }

/-- The stream after trunc. -/
def Chip.truncated (c : Chip) (r : Rec) : Chip :=
  let d := (c.setEnd r.seq (c.truncStop r)).appendRec (c.truncRec r) false
  if decide ((c.w 0 0).toNat < c.maskHorizon r.bars) then d.noteLate false else d

theorem Chip.truncate_eq (c : Chip) (n : CtxId) (gd : BitVec 5) (r : Rec) :
    c.truncate n gd.toNat r = (c.truncated r).finish n gd (BitVec.ofNat 64 (c.get SEQ_PSEQ_NEXT_SEQ)) := by
  simp only [Chip.truncate, Chip.truncated, Chip.truncRec, Chip.truncStop, decide_eq_true_eq]
  rfl

theorem Chip.appends_truncated (c : Chip) (r : Rec) : (c.setEnd r.seq (c.truncStop r)).Appends (c.truncRec r) false (c.truncated r) := by
  have appended := (c.setEnd r.seq (c.truncStop r)).appends_appendRec (c.truncRec r) false
  unfold Chip.truncated
  dsimp only
  split
  · exact appended.noteLate false
  · exact appended

theorem exec_trunc {f : Fields} {s : State} {r : Rec} (ready : Ready 0 s) (resv : resvRaw f 1 true true false false = []) (room : s.chip.streamFull = false)
    (target : s.chip.truncTarget ((s.chip.g 0 f.ga.toNat).toNat % 2 ^ 32) = some r)
    (late : f.sub.getLsbD 0 = false ∨ s.chip.maskHorizon r.bars ≤ (s.chip.w 0 0).toNat) :
    exec (.trunc 0 f) s = .next { s with chip := (s.chip.truncated r).finish 0 f.gd (BitVec.ofNat 64 (s.chip.get SEQ_PSEQ_NEXT_SEQ)) } := by
  have strict : (bit (subOf f) 0 && decide ((s.chip.w 0 0).toNat < s.chip.maskHorizon r.bars)) = false := by
    rw [Bool.and_eq_false_iff, subOf, bit_toNat]
    exact late.imp id fun h => decide_eq_false (Nat.not_lt.2 h)
  rw [← Chip.truncate_eq]
  change execTrunc 0 f s = _
  unfold execTrunc
  simp only [show (0 : CtxId).val = 0 from rfl, target, Option.any_some, Option.isNone_some]
  refine congrArg Host.Outcome.next ((issueC_of_nil ready ?_ _).trans ?_)
  · rw [resv, strict]
    rfl
  · rw [room]
    rfl

/-- The mark at w0 of a pmark. -/
def Chip.markRec (c : Chip) (k code data tenants : Nat) : Rec :=
  { start := (c.w 0 0).toNat, stop := (c.w 0 0).toNat, seq := 0, kind := 5, bars := 2 ^ k, phase := data, param := code + 65536 * tenants,
    markBar := k, markCode := code, markData := data, markTenants := tenants }

/-- Reports after a record leave what it appended. -/
theorem Chip.Appends.like {r : Rec} {keep : Bool} {c d e : Chip} (h : c.Appends r keep d) (like : d.like e) : c.Appends r keep e := by
  obtain ⟨leaves, next, strm⟩ := h
  refine ⟨Chip.leaves_trans leaves (Chip.leaves_of_like (fun _ h => h.2.1) like), ?_, ?_⟩
  · exact (like.2 _ (still_seq _ _ _ _ (by decide) (by decide) (by decide) (by decide))).trans next
  · rw [Chip.like_strm like]
    exact strm

/-- A mark is no content, and stays until its row has passed. -/
theorem Chip.markRec_outstanding (c : Chip) (k code data tenants q : Nat) :
    Rec.isContent { c.markRec k code data tenants with seq := q } = false ∧ c.outstanding { c.markRec k code data tenants with seq := q } = true := ⟨rfl, rfl⟩

/-- The stream after pmark: a mark whose row has passed is posted at once. -/
def Chip.marked (c : Chip) (k code data tenants : Nat) : Chip :=
  let past := decide ((firstRow c.pitch (c.w 0 0).toNat : Int) ≤ (c.bar k).rk)
  let d := c.appendRec (c.markRec k code data tenants) (!past)
  if past then d.postMark (code + 32768) data tenants else d

theorem Chip.marked_past {c : Chip} {k code data tenants : Nat} (past : firstRow c.pitch (c.w 0 0).toNat ≤ (c.bar k).rk) :
    c.marked k code data tenants = (c.appendRec (c.markRec k code data tenants) false).postMark (code + 32768) data tenants := by
  simp only [Chip.marked, past, decide_true, if_true]
  rfl

theorem Chip.marked_ahead {c : Chip} {k code data tenants : Nat} (ahead : ¬ firstRow c.pitch (c.w 0 0).toNat ≤ (c.bar k).rk) :
    c.marked k code data tenants = c.appendRec (c.markRec k code data tenants) true := by
  simp only [Chip.marked, ahead, decide_false]
  rfl

theorem exec_pmark {f : Fields} {s : State} (ready : Ready 0 s) (resv : resvRaw f 0 true true true true = []) (room : s.chip.streamFull = false)
    (enabled : (s.chip.setOf (f.imm.toNat % 16)).enabled (f.imm.toNat % 16) = true) (kind : f.imm.toNat / 16 % 16 = 0) (low : f.imm.toNat < 65536)
    (code : (s.chip.g 0 f.ga.toNat).toNat / 32768 % 2 = 0) :
    exec (.pmark 0 f) s = .next { s with
      chip := (s.chip.marked (f.imm.toNat % 16) ((s.chip.g 0 f.ga.toNat).toNat % 65536) (s.chip.g 0 f.gb.toNat).toNat (bits f.imm.toNat 8 8)).finish 0 f.gd
        (BitVec.ofNat 64 (s.chip.get SEQ_PSEQ_NEXT_SEQ)) } := by
  have high : bit ((s.chip.g 0 f.ga.toNat).toNat % 65536) 15 = false := by
    rw [bit, decide_eq_false_iff_not]
    omega
  have arg : (!(s.chip.setOf (f.imm.toNat % 16)).enabled (f.imm.toNat % 16) || bit ((s.chip.g 0 f.ga.toNat).toNat % 65536) 15 ||
      decide (bits f.imm.toNat 4 4 ≠ 0) || decide (65536 ≤ f.imm.toNat)) = false := by
    rw [enabled, high, decide_eq_false (Nat.not_le.2 low), decide_eq_false (Classical.not_not.2 (show bits f.imm.toNat 4 4 = 0 from kind))]
    rfl
  change execPmark 0 f s = _
  unfold execPmark
  simp only [show (0 : CtxId).val = 0 from rfl, immOf]
  refine congrArg Host.Outcome.next ((issueC_of_nil ready ?_ _).trans ?_)
  · exact List.append_eq_nil_iff.2 ⟨by rw [resv]; rfl, trapIf_eq_nil.2 arg⟩
  · rw [room]
    rfl

/-- Settles O18: the record ends, or the mark is placed or posted at once. -/
theorem truncateAndMark : Obligations.TruncateAndMark := by
  unfold Obligations.TruncateAndMark
  intro f s ready c w0 seq k ends room
  refine ⟨fun r resv target => ?trunc, fun resv enabled kind bars code => ?pmark⟩
  case trunc =>
    intro h stop late
    obtain ⟨pc, ws, next, ⟨recs, maxEnd⟩, gs⟩ := (c.appends_truncated r).finish 0 f.gd (BitVec.ofNat 64 seq)
    have outstanding : (c.setEnd r.seq (c.truncStop r)).outstanding = c.outstanding := Chip.outstanding_congr rfl rfl rfl
    rw [outstanding] at recs maxEnd
    exact ⟨_, exec_trunc ready resv room target late, rfl, pc, ws, next, ⟨recs, maxEnd⟩, gs⟩
  case pmark =>
    have im : immOf f = f.imm.toNat := rfl
    have run := exec_pmark ready resv room enabled kind bars code
    have none (rs : List Rec) (x : Rec) (mark : x.isContent = false) :
        (rs ++ [x]).filter (fun x => x.isContent && !c.outstanding x) = rs.filter fun x => x.isContent && !c.outstanding x := by
      rw [List.filter_append, List.filter_cons_of_neg (by simp [mark])]
      exact List.append_nil _
    have tenants : bits f.imm.toNat 8 8 = f.imm.toNat / 256 % 256 := rfl
    rw [tenants] at run
    have mark := c.markRec_outstanding k ((c.g 0 f.ga.toNat).toNat % 65536) (c.g 0 f.gb.toNat).toNat (f.imm.toNat / 256 % 256)
    by_cases past : firstRow c.pitch w0 ≤ (c.bar k).rk
    · rw [Chip.marked_past past] at run
      have appended := c.appends_appendRec (c.markRec k ((c.g 0 f.ga.toNat).toNat % 65536) (c.g 0 f.gb.toNat).toNat (f.imm.toNat / 256 % 256)) false
      have hosts := c.appendRec_hosts (c.markRec k ((c.g 0 f.ga.toNat).toNat % 65536) (c.g 0 f.gb.toNat).toNat (f.imm.toNat / 256 % 256)) false
      have role := (c.leaves_appendRec (c.markRec k ((c.g 0 f.ga.toNat).toNat % 65536) (c.g 0 f.gb.toNat).toNat (f.imm.toNat / 256 % 256)) false).2.2
        TW_STAT_ROLE (by unfold Fld.apart Fld.calm; decide)
      generalize c.appendRec (c.markRec k ((c.g 0 f.ga.toNat).toNat % 65536) (c.g 0 f.gb.toNat).toNat (f.imm.toNat / 256 % 256)) false = d at *
      have runs : d.runs = true := by
        have issues : c.runs = true := (Bool.and_eq_true_iff.1 ready.1).2
        rwa [Chip.runs, Chip.role, role]
      rw [Chip.postMark, if_pos runs] at run
      have posted := d.like_event (f.imm.toNat / 256 % 256) 46 ((c.g 0 f.ga.toNat).toNat % 65536 + 32768) (c.g 0 f.gb.toNat).toNat (by decide)
      obtain ⟨pc, ws, next, ⟨recs, maxEnd⟩, gs⟩ := (appended.like posted).finish 0 f.gd (BitVec.ofNat 64 seq)
      refine ⟨_, run, rfl, pc, ws, next, maxEnd, fun ahead => absurd past (Int.not_le.2 ahead), fun _ => ⟨recs, fun m hm sent => ?_⟩, gs⟩
      rw [Chip.finish_hosts, ← hosts]
      exact d.event_evseq _ _ _ _ hm (by rw [Nat.mod_eq_of_lt (by omega)]; exact sent)
    · rw [Chip.marked_ahead past] at run
      obtain ⟨pc, ws, next, ⟨recs, maxEnd⟩, gs⟩ := (c.appends_appendRec
        (c.markRec k ((c.g 0 f.ga.toNat).toNat % 65536) (c.g 0 f.gb.toNat).toNat (f.imm.toNat / 256 % 256)) true).finish 0 f.gd (BitVec.ofNat 64 seq)
      refine ⟨_, run, rfl, pc, ws, next, maxEnd.trans ?_, fun _ => ⟨{ c.markRec k ((c.g 0 f.ga.toNat).toNat % 65536) (c.g 0 f.gb.toNat).toNat (f.imm.toNat / 256 % 256) with seq := seq },
        recs.trans ?_, rfl, rfl, rfl, rfl, rfl, rfl, rfl⟩, fun isPast => absurd isPast past, gs⟩
      · rw [if_pos rfl, none _ _ (mark seq).1]
      · rw [if_pos rfl, List.filter_append]
        exact congrArg (_ ++ ·) (List.filter_cons_of_pos (mark seq).2)

end Sys2Proof.Machine
end

section
/-!
PROOFS. Composing text and symbols into field slots (R103 to R108, R124).
-/
namespace Sys2Proof.Machine

/-! ### A free slot -/

/-- The keys of entries with content hold every slot that reads with content. -/
theorem mem_used_of_content {m : FMap Slot} {i : Nat} (h : (FMap.get {} m i).content.isSome = true) :
    i ∈ (m.filter fun e => e.2.content.isSome).map Prod.fst := by
  induction m with
  | nil => simp [FMap.get] at h
  | cons e m ih =>
    obtain ⟨j, v⟩ := e
    simp only [FMap.get] at h
    split at h
    · next here => simp [h, here]
    · rw [List.filter_cons]
      split
      · exact List.mem_cons_of_mem _ (ih h)
      · exact ih h

/-- A search that fails has found content in every slot it tried. -/
theorem Chip.freeSlotFrom_none {c : Chip} {k v : Nat} (h : c.freeSlotFrom k v = none) : ∀ j < k, (c.slot ((v + j) % 2 ^ 20)).content.isSome = true := by
  induction k generalizing v with
  | zero => intro j hj; exact absurd hj (Nat.not_lt_zero j)
  | succ k ih =>
    unfold Chip.freeSlotFrom at h
    split at h
    · exact absurd h (by simp)
    · next used =>
      intro j hj
      cases j with
      | zero => rw [Nat.add_zero]; simpa [Option.isSome_iff_ne_none, Option.isNone_iff_eq_none] using used
      | succ j => rw [show v + (j + 1) = v + 1 + j by omega]; exact ih h j (by omega)

/-- A slot that is found is below 2^20 and has no content. -/
theorem Chip.freeSlotFrom_some {c : Chip} {k v i : Nat} (h : c.freeSlotFrom k v = some i) : i < 2 ^ 20 ∧ (c.slot i).content = none := by
  induction k generalizing v with
  | zero => exact absurd h (by simp [Chip.freeSlotFrom])
  | succ k ih =>
    unfold Chip.freeSlotFrom at h
    split at h
    · next free =>
      obtain rfl : v % 2 ^ 20 = i := Option.some.inj h
      exact ⟨Nat.mod_lt _ (by decide), Option.isNone_iff_eq_none.1 free⟩
    · exact ih h

/-- The first k slots that a search from slot v tries. -/
def triedSlots (v k : Nat) : List Nat := (List.range k).map fun j => (v + j) % 2 ^ 20

theorem triedSlots_nodup (v : Nat) {k : Nat} (h : k ≤ 2 ^ 20) : (triedSlots v k).Nodup := by
  refine List.pairwise_map.2 (List.nodup_range.imp_of_mem fun {i j} hi hj differ => ?_)
  rw [List.mem_range] at hi hj
  omega

/-- While slots are free, the search finds one: more slots are tried than have content, or all of them. -/
theorem Chip.freeSlotFrom_finds {c : Chip} (room : c.slotsUsed < 2 ^ 20) (v : Nat) :
    ∃ i, c.freeSlotFrom (c.vd.slots.length + 1) v = some i := by
  rw [← Option.ne_none_iff_exists']
  intro none
  have used := Chip.freeSlotFrom_none none
  have all : triedSlots v (min (c.vd.slots.length + 1) (2 ^ 20)) ⊆ (c.vd.slots.filter fun e => e.2.content.isSome).map Prod.fst := by
    intro i hi
    obtain ⟨j, hj, rfl⟩ := List.mem_map.1 hi
    exact mem_used_of_content (used j (Nat.lt_of_lt_of_le (List.mem_range.1 hj) (Nat.min_le_left ..)))
  have le := (triedSlots_nodup v (Nat.min_le_right (c.vd.slots.length + 1) _)).length_le_of_subset all
  rw [triedSlots, List.length_map, List.length_range, List.length_map] at le
  have few : c.slotsUsed ≤ c.vd.slots.length := List.length_filter_le ..
  unfold Chip.slotsUsed at room few
  omega

/-! ### Starting a composition -/

/-- The chip with the variable-data unit composing into slot i for context n. -/
def Chip.composing (c : Chip) (n i : Nat) (sl : Slot) : Chip :=
  let d : Chip := { c with vd := { busy := some n, turns := c.vd.turns.filter (· ≠ n), slots := FMap.put {} c.vd.slots i sl } }
  d.jrn .slot (i :: sl.nums) sl.chars

theorem Chip.startCompose_eq {c : Chip} {n gd i w h : Nat} {x : SlotContent}
    (found : c.freeSlotFrom (c.vd.slots.length + 1) (c.fresh (2 ^ 20)).1 = some i) :
    c.startCompose n gd x w h = (({ c with free := c.free + 1 } : Chip).composing n i { gen := (c.slot i).gen, content := some x, width := w, height := h }).pend n 10
      (.compose gd (i + 2 ^ 20 * (c.slot i).gen + 2 ^ 32 * w + 2 ^ 50 * h)) := by
  have same (k v : Nat) : Chip.freeSlotFrom { c with free := c.free + 1 } k v = c.freeSlotFrom k v := by
    induction k generalizing v with
    | zero => rfl
    | succ k ih => simp only [Chip.freeSlotFrom, ih]; rfl
  simp only [Chip.startCompose, Chip.fresh, same] at found ⊢
  rw [found]
  rfl

/-- A composition starts in a free slot, and the context stalls. -/
theorem composing_startCompose (n : CtxId) (gd : BitVec 5) (x : SlotContent) (w h : Nat) (s : State) (room : s.chip.slotsUsed < 2 ^ 20) :
    Composing n gd x w h s (s.onChip (·.startCompose n gd.toNat x w h)) := by
  obtain ⟨i, found⟩ := Chip.freeSlotFrom_finds room (s.chip.fresh (2 ^ 20)).1
  obtain ⟨small, empty⟩ := Chip.freeSlotFrom_some found
  have vd : (({ s.chip with free := s.chip.free + 1 } : Chip).composing n i { gen := (s.chip.slot i).gen, content := some x, width := w, height := h }).vd =
      { busy := some n.val, turns := s.chip.vd.turns.filter (· ≠ n.val),
        slots := FMap.put {} s.chip.vd.slots i { gen := (s.chip.slot i).gen, content := some x, width := w, height := h } } :=
    (congrArg Chip.vd (Chip.unjournalled_jrn ..) :)
  have leaves : s.chip.leaves (fun h => h.key ≠ TW_JSEQ_JSEQ.key)
      (({ s.chip with free := s.chip.free + 1 } : Chip).composing n i { gen := (s.chip.slot i).gen, content := some x, width := w, height := h }) :=
    Chip.leaves_jrn ..
  rw [State.onChip, Chip.startCompose_eq found]
  generalize ({ s.chip with free := s.chip.free + 1 } : Chip).composing n i { gen := (s.chip.slot i).gen, content := some x, width := w, height := h } = d at *
  obtain ⟨-, -, pc, state, kind, op, gs, ws, -, -⟩ := began_pend n 10 (.compose gd.toNat (i + 2 ^ 20 * (s.chip.slot i).gen + 2 ^ 32 * w + 2 ^ 50 * h)) { s with chip := d } (by decide)
  refine ⟨i, small, empty, rfl, fun m j hj => (gs m j hj).trans (leaves.1 m j hj), fun m j hj => (ws m j hj).trans (leaves.2.1 m j hj),
    pc.trans (leaves.2.2 _ (ofPc_ne_jseq _ (cpc_ofPc n))), fun j => ?_, congrArg VData.busy vd, congrArg VData.turns vd, state, kind, op⟩
  have slots := congrArg VData.slots vd
  refine (congrArg (FMap.get {} · j) slots).trans ?_
  rw [FMap.get_put]
  rfl

/-- An instruction that composes: it starts, or waits its turn, or waits for a slot. -/
def Composes (i : Instr) (n : CtxId) (gd : BitVec 5) (x : SlotContent) (w h : Nat) (s u : State) : Prop :=
  let c := u.chip
  (c.vd.busy = none → c.slotsUsed < 2 ^ 20 → c.behindTurn n = false → ∃ t, exec i s = .next t ∧ Composing n gd x w h u t) ∧
  (c.vd.busy ≠ none → c.slotsUsed < 2 ^ 20 → exec i s = .next { u with chip := c.awaitTurn n 10 }) ∧
  (c.vd.busy = none → c.slotsUsed < 2 ^ 20 → c.behindTurn n = true → exec i s = .next { u with chip := c.awaitTurn n 10 }) ∧
  (c.vd.busy = none → 2 ^ 20 ≤ c.slotsUsed → c.slotReferenced = true → exec i s = .next { u with chip := c.awaitTurn n 9 })

theorem composes_of_compose {i : Instr} {n : CtxId} {f : Fields} {e : Ecc} {s : State} {traps : List Nat} {x : SlotContent} {w h : Nat}
    (ready : Ready n s) (clean : e ≠ .uncorrectable) (run : exec i s = .next (compose n e f traps x w h s)) (none : traps = []) :
    Composes i n f.gd x w h s (s.onChip (·.dRead e)) := by
  have like := s.chip.like_dRead e
  have used : s.chip.slotsUsed = (s.chip.dRead e).slotsUsed := by rw [Chip.slotsUsed, Chip.slotsUsed, Chip.like_vd like]
  have referenced : s.chip.slotReferenced = (s.chip.dRead e).slotReferenced := by rw [Chip.slotReferenced, Chip.slotReferenced, Chip.like_strm like]
  have issued (pool : 2 ^ 20 ≤ (s.chip.dRead e).slotsUsed → (s.chip.dRead e).slotReferenced = true) :
      exec i s = .next ((s.onChip (·.dRead e)).onChip fun c =>
        if c.vd.busy.isSome then c.awaitTurn n 10
        else if decide (2 ^ 20 ≤ c.slotsUsed) then c.awaitTurn n 9
        else if c.behindTurn n then c.awaitTurn n 10
        else c.startCompose n f.gd.toNat x w h) := by
    have noPool : (decide (2 ^ 20 ≤ s.chip.slotsUsed) && !s.chip.slotReferenced) = false := by
      rw [used, referenced, Bool.and_eq_false_iff, decide_eq_false_iff_not, Bool.not_eq_false']
      exact (Classical.em _).symm.imp id pool
    refine run.trans (congrArg Host.Outcome.next ?_)
    unfold compose
    dsimp only
    rw [none, noPool, issueD_of_nil (tr := [] ++ trapIf false VD_POOL) ready clean rfl, used]
    rfl
  refine ⟨fun free room first => ?starts, fun busy room => ?busy, fun free room later => ?turn, fun free full referenced => ?full⟩
  case starts =>
    refine ⟨_, (issued fun full => absurd room (Nat.not_lt.2 full)).trans (congrArg Host.Outcome.next ?_), composing_startCompose n f.gd x w h (s.onChip (·.dRead e)) room⟩
    refine congrArg (fun d => ({ s.onChip (·.dRead e) with chip := d } : State)) ?_
    dsimp only
    rw [free, decide_eq_false (Nat.not_le.2 room), first]
    rfl
  case busy =>
    refine (issued fun full => absurd room (Nat.not_lt.2 full)).trans (congrArg Host.Outcome.next ?_)
    have isBusy : (s.onChip (·.dRead e)).chip.vd.busy.isSome = true := Option.isSome_iff_ne_none.2 busy
    exact congrArg (fun d => ({ s.onChip (·.dRead e) with chip := d } : State)) (if_pos isBusy)
  case turn =>
    refine (issued fun full => absurd room (Nat.not_lt.2 full)).trans (congrArg Host.Outcome.next ?_)
    refine congrArg (fun d => ({ s.onChip (·.dRead e) with chip := d } : State)) ?_
    dsimp only
    rw [free, decide_eq_false (Nat.not_le.2 room), later]
    rfl
  case full =>
    refine (issued fun _ => referenced).trans (congrArg Host.Outcome.next ?_)
    refine congrArg (fun d => ({ s.onChip (·.dRead e) with chip := d } : State)) ?_
    dsimp only
    rw [free, decide_eq_true full]
    rfl

/-- Settles O24: each instruction composes what it read, as wide and high as it says. -/
theorem textAndSymbolsCompose : Obligations.TextAndSymbolsCompose := by
  unfold Obligations.TextAndSymbolsCompose
  intro n f e s ready clean u c a b p text composes aligned inside
  have like : s.chip.like c := s.chip.like_dRead e
  have ga : (s.chip.g n f.ga.toNat).toNat = a := by rw [← Chip.like_g like]
  have gb : (s.chip.g n f.gb.toNat).toNat = b := by rw [← Chip.like_g like]
  have find : s.chip.store.find b = c.store.find b := by rw [Chip.like_store like]
  have composed {i : Instr} {x : SlotContent} {w h : Nat} (k : Composes i n f.gd x w h s u) : composes i x w h := k
  refine ⟨fun resv small usableB some short x found glyphs w low high width => composed ?text, fun resv al inP good short => ?symbol⟩
  case text =>
    have tr : sgn 8 (immOf f) = (f.imm.setWidth 8).toInt := sgn_eq_toInt (by decide) _
    have cs : textOf s a = text := rfl
    have len : textLen s a = text.length := (ByteMem.length_read ..).symm
    have wide : textWidth s.mem.job x (f.imm.setWidth 8).toInt text = w := width.symm
    have noGlyph : (text.any fun b => decide ((glyphEntry s.mem.job x b.toNat).2.2 = 0)) = false := by simpa using glyphs
    have run : exec (.vtext n f e) s = _ := rfl
    change execVtext n f e s = _ at run
    unfold execVtext at run
    dsimp only at run
    rw [ga, gb, find, found, tr, cs, len] at run
    simp only [Option.map_some, Option.getD_some, Option.any_some, wide, noGlyph, usableB, Int.toNat_natCast] at run
    refine composes_of_compose ready clean run.symm ?_
    have notLow : decide (256 ≤ immOf f) = false := decide_eq_false (Nat.not_le.2 small)
    have length : (decide (text.length = 0) || decide (120 < text.length)) = false := by
      rw [decide_eq_false (by omega), decide_eq_false (by omega)]
      rfl
    have size : (decide ((w : Int) < 1) || decide (163840 < (w : Int))) = false := by
      rw [decide_eq_false (by omega), decide_eq_false (by omega)]
      rfl
    rw [resv, notLow, dTraps_eq_nil.2 ⟨aligned, inside⟩, length, size]
    rfl
  case symbol =>
    have common : resvRaw f 0 true true true false ++ dTraps a 256 64 ++ dTraps b 64 64 ++ trapIf (decide (254 < text.length)) VD_TEXT ++
        trapIf (symBlockBad p) VD_SYMBOL = [] := by
      rw [resv, dTraps_eq_nil.2 ⟨aligned, inside⟩, dTraps_eq_nil.2 ⟨al, inP⟩, decide_eq_false (Nat.not_lt.2 short), good]
      rfl
    have run : exec (.vsym n f e) s = _ := rfl
    change execVsym n f e s = _ at run
    unfold execVsym at run
    dsimp only at run
    rw [ga, gb, show textOf s a = text from rfl, show textLen s a = text.length from (ByteMem.length_read ..).symm, show s.mem.data.read b 64 = p from rfl] at run
    refine ⟨fun ms linear chars modules fits => composed ?_, fun cw z matrix words pick => composed ?_⟩
    · rw [if_pos linear, chars, if_neg (by decide), ← modules] at run
      refine composes_of_compose ready clean run.symm ?_
      rw [common, decide_eq_false (Nat.not_lt.2 fits)]
      rfl
    · rw [if_neg (Nat.not_lt.2 matrix)] at run
      simp only [decide_eq_true_eq] at run
      rw [← words, pick] at run
      exact composes_of_compose ready clean run.symm common

end Sys2Proof.Machine
end

section
/-!
PROOFS. Host commands: how one starts (R336, R338), and RUN, STOP and FIRE_ARM (R52, R86, R220, R221, R339).
-/
namespace Sys2Proof.Machine

/-! ### The executor of host commands -/

section
variable {t opc fn : Nat} {q : Fin 64} {g : Option Nat} {body : InDesc → State → State} {s : State} {x : InDesc} {c : Chip}

theorem hostCommand_notHead (h : (s.at_ t).chip.headIs q opc fn = false) : hostCommand t q opc fn g body s = s.at_ t := by
  unfold hostCommand
  dsimp only
  rw [h]
  rfl

theorem Chip.headIs_iff {q : Nat} {c : Chip} (h : c.takeSys q = some (x, d)) : c.headIs q opc fn = (x.opc = opc && x.fn = fn) := by
  unfold Chip.headIs
  rw [h]

/-- A command whose descriptor heads the queue is judged: early, then by its grant, and then it runs. -/
theorem hostCommand_head (taken : (s.at_ t).chip.takeSys q = some (x, c)) (hopc : x.opc = opc) (hfn : x.fn = fn) :
    hostCommand t q opc fn g body s = match c.early q x with
      | some st => { s.at_ t with chip := c.complete q x.tag x.rx st }
      | none => if (g.map fun k => c.granted q k) = some false then { s.at_ t with chip := c.complete q x.tag x.rx stGRANT } else body x { s.at_ t with chip := c } := by
  have head : (s.at_ t).chip.headIs q opc fn = true := by
    rw [Chip.headIs_iff taken, hopc, hfn]
    simp
  unfold hostCommand
  dsimp only
  rw [head, taken]
  rfl

theorem hostCommand_started (h : Started t q opc fn g x c s) : hostCommand t q opc fn g body s = body x { s.at_ t with chip := c } := by
  obtain ⟨taken, hopc, hfn, early, granted⟩ := h
  have holds : (g.map fun k => c.granted q k) ≠ some false := by
    cases g with
    | none => simp
    | some k => simp [granted k rfl]
  rw [hostCommand_head taken hopc hfn, early]
  exact if_neg holds

theorem storeCommand_eq (idle : s.chip.testing 4 = false) : storeCommand t q opc g body s = hostCommand t q opc 0 g (fun x s =>
    let s := if s.chip.get (QM_QCFG_CLASS q) = 1 then { s with chip := { s.chip with hosts := { s.chip.hosts with lastB := s.chip.ns } } } else s
    if s.chip.regionOn 4 then body x s else s.done q x jsABSENT) s := if_neg (by rw [idle]; decide)

theorem stageCommand_eq (settled : s.chip.sstate ≠ 4) : stageCommand t q fn body s = hostCommand t q 5 fn (some 0) body s := if_neg fun h => settled h.1

end

/-- The commands of Table 13-5 go through the executor. -/
theorem hostCommands_run {t : Nat} {q : Fin 64} {host : List Byte} {r : Ecc} {lost : List Nat} {s : State} (settled : s.chip.sstate ≠ 4)
    (idle : s.chip.testing 4 = false) {e : Instr × Nat × Nat × Option Nat} (he : e ∈ hostCommands t q host r lost) :
    ∃ body, exec e.1 s = .next (hostCommand t q e.2.1 e.2.2.1 e.2.2.2 body s) := by
  have plain {i : Instr} {opc fn : Nat} {g : Option Nat} {body : InDesc → State → State} (run : exec i s = .next (hostCommand t q opc fn g body s)) :
      ∃ body, exec i s = .next (hostCommand t q opc fn g body s) := ⟨body, run⟩
  have stage {i : Instr} {fn : Nat} {body : InDesc → State → State} (run : exec i s = .next (stageCommand t q fn body s)) :
      ∃ body, exec i s = .next (hostCommand t q 5 fn (some 0) body s) := ⟨_, run.trans (congrArg Host.Outcome.next (stageCommand_eq settled))⟩
  have store {i : Instr} {opc : Nat} {g : Option Nat} {body : InDesc → State → State} (run : exec i s = .next (storeCommand t q opc g body s)) :
      ∃ body, exec i s = .next (hostCommand t q opc 0 g body s) := ⟨_, run.trans (congrArg Host.Outcome.next (storeCommand_eq idle))⟩
  revert e
  simp only [hostCommands, List.forall_mem_cons, List.not_mem_nil, false_implies, implies_true, and_true]
  exact ⟨plain rfl, plain rfl, plain rfl, plain rfl, plain rfl, stage rfl, stage rfl, stage rfl, stage rfl, stage rfl, stage rfl, plain rfl,
    plain rfl, plain rfl, plain rfl, plain rfl, store rfl, store rfl, store rfl, store rfl, store rfl, store rfl, store rfl, store rfl,
    store rfl, plain rfl, store rfl⟩

/-- Settles O30: what is not the head does nothing; a status of form, class or role, or of GRANT, is all that happens. -/
theorem hostCommandsAreChecked : Obligations.HostCommandsAreChecked := by
  unfold Obligations.HostCommandsAreChecked
  intro t q host r lost s settled idle e he
  obtain ⟨body, run⟩ := hostCommands_run settled idle he
  refine ⟨fun notHead => run.trans (congrArg Host.Outcome.next (hostCommand_notHead notHead)), fun x c taken hopc hfn => ⟨fun st early => ?_, fun early g hg denied => ?_⟩⟩
  · rw [OnlyCompletes, run, hostCommand_head taken hopc hfn, early]
  · rw [OnlyCompletes, run, hostCommand_head taken hopc hfn, early, hg]
    exact congrArg Host.Outcome.next (if_pos (by rw [Option.map_some, denied]))

/-! ### FIRE_ARM (R221) -/

/-- A command that starts does what its body does to the chip. -/
theorem exec_started {e : Instr} {t opc fn : Nat} {q : Fin 64} {g : Option Nat} {body : InDesc → State → State} {s : State} {x : InDesc} {c d : Chip}
    (run : exec e s = .next (hostCommand t q opc fn g body s)) (h : Started t q opc fn g x c s) (does : ∀ v : State, v.chip = c → body x v = { v with chip := d }) :
    exec e s = .next { s.at_ t with chip := d } := by
  rw [run, hostCommand_started h]
  generalize s.at_ t = v
  exact congrArg Host.Outcome.next (does { v with chip := c } rfl)

/-- A command that starts and only ends with a status. -/
theorem onlyCompletes_of {e : Instr} {t opc fn st : Nat} {q : Fin 64} {g : Option Nat} {body : InDesc → State → State} {s : State} {x : InDesc} {c : Chip} {res : List Byte}
    (run : exec e s = .next (hostCommand t q opc fn g body s)) (h : Started t q opc fn g x c s)
    (does : ∀ v : State, v.chip = c → body x v = v.done q x st res) : OnlyCompletes e t q x st res c s :=
  exec_started run h fun v hv => (does v hv).trans (by rw [← hv]; rfl)

/-- The chip with FIRE_ARM waiting for the next model update. -/
def Chip.arm (c : Chip) : Chip :=
  let d := c.jrn .runctl [3]
  { d with fire := { d.fire with armed := true } }

theorem Chip.arm_facts (c : Chip) : c.arm.fire = { c.fire with armed := true } ∧ sameFields [TW_JSEQ_JSEQ] c c.arm ∧
    { c.arm with fire := c.fire, twin := {}, regs := [] } = { c with twin := {}, regs := [] } := by
  have fire : (c.jrn .runctl [3]).fire = c.fire := (congrArg Chip.fire (c.unjournalled_jrn .runctl [3] []) :)
  refine ⟨by rw [Chip.arm, fire], fun h hh => c.jrn_get _ _ _ h (hh _ (by simp)), ?_⟩
  unfold Chip.arm Chip.jrn
  split <;> rfl

section
variable {v : State} (q : Nat) (x : InDesc)

theorem fireArmBody_closed (h : v.chip.get SEQ_PSTAT_OPEN = 0) : fireArmBody q x v = v.done q x stSTATE :=
  if_pos (by rw [Chip.is_eq_false_iff.2 h]; rfl)

theorem fireArmBody_open (h : v.chip.get SEQ_PSTAT_OPEN ≠ 0) : fireArmBody q x v =
    if !v.chip.is FS_STAT_HFN then v.done q x stHALT_INPUT
    else if v.chip.haltFaultPending then v.done q x stFAULT_PENDING
    else (if v.chip.is FS_STAT_HALTED then v.onChip Chip.arm else v).done q x stOK :=
  if_neg (by rw [Chip.is_iff.2 h]; decide)

end

/-! ### Halting fire (R220) -/

/-- A field of FS_STAT. -/
def Fld.ofFireStat (h : Fld) : Prop := h.key / 128 = FS_STAT_HALTED.key / 128

theorem ofFireStat_ne {h g : Fld} (hh : h.ofFireStat) (hg : g.key / 128 ≠ FS_STAT_HALTED.key / 128) : h.key ≠ g.key := fun e => hg (by rw [← e]; exact hh)

theorem Chip.leaves_fireStat_set (c : Chip) (f : Fld) (v : Nat) (hf : f.key / 128 ≠ FS_STAT_HALTED.key / 128) : c.leaves Fld.ofFireStat (c.set f v) :=
  c.leaves_set _ _ fun _ hh => ofFireStat_ne hh hf

/-- A band that is settled is told to the peer. -/
def Chip.sayOptional (c : Chip) (k : Nat) (y : Option Band) : Chip :=
  match y with
  | some y => c.sayBand k y
  | none => c

theorem Chip.sayOptional_fire (c : Chip) (k : Nat) (y : Option Band) : c.leaves Fld.ofFireStat (c.sayOptional k y) ∧ (c.sayOptional k y).fire = c.fire := by
  cases y with
  | none => exact ⟨c.leaves_refl _, rfl⟩
  | some y => exact ⟨Chip.leaves_mono (fun h hh => ofFireStat_ne hh (by decide)) (Chip.leaves_jrn ..), (congrArg Chip.fire (Chip.unjournalled_jrn ..) :)⟩

/-- A row that was found leaves its ring. -/
def Chip.release (c : Chip) (k n : Nat) (fired kept : Bool) (x : RowSlot) : Chip :=
  let b := ({ c.bar k with ring := (c.bar k).ring.filter fun y => y.n ≠ n } : Bar).settle x fired kept
  let d := (c.setBar k b).sayOptional k (b.bands.find? fun y => y.m = n / 64 && y.settled = 64)
  let last := x.heads.foldl (fun m h => match h.stamp with
    | some v => if v = 2 ^ 64 - 1 then m else FMap.put 0 m h.head v
    | none => m) d.fire.lastStamp
  { d with fire := { d.fire with lastStamp := last } }

theorem Chip.releaseRow_eq (c : Chip) (k n : Nat) (fired kept : Bool) : c.releaseRow k n fired kept =
    match (c.bar k).ring.find? fun x => x.n = n with
    | none => c
    | some x => c.release k n fired kept x := by
  unfold Chip.releaseRow
  dsimp only
  generalize (c.bar k).ring.find? (fun x => decide (x.n = n)) = found
  cases found <;> rfl

theorem Chip.release_fire (c : Chip) (k n : Nat) (fired kept : Bool) (x : RowSlot) :
    c.leaves Fld.ofFireStat (c.release k n fired kept x) ∧ (c.release k n fired kept x).fire.armed = c.fire.armed := by
  unfold Chip.release
  dsimp only
  generalize Bar.settle _ x fired kept = b
  generalize b.bands.find? _ = y
  obtain ⟨leaves, fire⟩ := (c.setBar k b).sayOptional_fire k y
  generalize (c.setBar k b).sayOptional k y = d at *
  exact ⟨leaves, congrArg Fire.armed fire⟩

/-- Releasing a row leaves FS_STAT, and that fire is armed. -/
theorem Chip.releaseRow_fire (c : Chip) (k n : Nat) (fired kept : Bool) :
    c.leaves Fld.ofFireStat (c.releaseRow k n fired kept) ∧ (c.releaseRow k n fired kept).fire.armed = c.fire.armed := by
  rw [Chip.releaseRow_eq]
  split
  · exact ⟨c.leaves_refl _, rfl⟩
  · exact c.release_fire k n fired kept _

/-- Firing and arming stay as they are, whatever rows leave. -/
def Chip.sameFire (c d : Chip) : Prop := c.leaves Fld.ofFireStat d ∧ d.fire.armed = c.fire.armed

theorem Chip.sameFire_forAll {α : Type} {g : Chip → α → Chip} (hg : ∀ c a, Chip.sameFire c (g c a)) (xs : List α) (c : Chip) : c.sameFire (c.forAll xs g) :=
  ⟨Chip.leaves_foldl g (fun c a => (hg c a).1) xs c, Chip.forAll_congr (·.fire.armed) g (fun c a => (hg c a).2) xs c⟩

theorem Chip.sameFire_skip (c : Chip) (k n : Nat) : c.sameFire ((c.releaseRow k n false).bump FS_HALT_SKIPPED) := by
  obtain ⟨leaves, armed⟩ := c.releaseRow_fire k n false true
  generalize c.releaseRow k n false = d at *
  exact ⟨Chip.leaves_trans leaves (Chip.leaves_fireStat_set _ _ _ (by decide)), armed⟩

theorem Chip.releaseUnfired_fire (c : Chip) : c.sameFire c.releaseUnfired := by
  unfold Chip.releaseUnfired
  split
  · exact Chip.sameFire_forAll (fun c k => Chip.sameFire_forAll (fun c n => c.sameFire_skip k n) _ c) _ c
  · exact ⟨c.leaves_refl _, rfl⟩

/-- FS_STAT of fire that is halted. -/
def Chip.markHalted (c : Chip) (cause : Nat) : Chip :=
  (((if c.is FS_STAT_HALTED then c else (c.set FS_STAT_HALTED 1).bump FS_HALT_HALTS).set FS_STAT_CAUSE cause).set FS_STAT_MODE 0)

theorem Chip.haltMark_eq (c : Chip) (cause : Nat) : c.haltMark cause =
    ({ (c.markHalted cause).dropStamps with fire := { (c.markHalted cause).fire with armed := false } } : Chip).releaseUnfired := rfl

theorem Chip.markHalted_facts (c : Chip) (cause : Nat) :
    (c.markHalted cause).get FS_STAT_HALTED ≠ 0 ∧ (c.markHalted cause).get FS_STAT_CAUSE = cause % 8 := by
  unfold Chip.markHalted
  refine ⟨?_, (Chip.get_set_ne _ _ _ _ (by decide)).trans (Chip.get_set_same ..)⟩
  rw [Chip.get_set_ne _ _ _ _ (by decide), Chip.get_set_ne _ _ _ _ (by decide)]
  split
  next h => exact Chip.is_iff.1 h
  next => rw [Chip.bump, Chip.get_set_ne _ _ _ _ (by decide), Chip.get_set_same]; decide

/-- Fire that halts: HALTED is set, CAUSE says why, and FIRE_ARM no longer waits. -/
theorem Chip.haltMark_facts (c : Chip) (cause : Nat) :
    (c.haltMark cause).get FS_STAT_HALTED ≠ 0 ∧ (c.haltMark cause).get FS_STAT_CAUSE = cause % 8 ∧ (c.haltMark cause).fire.armed = false := by
  obtain ⟨halted, why⟩ := c.markHalted_facts cause
  obtain ⟨⟨-, -, stat⟩, armed⟩ := ({ (c.markHalted cause).dropStamps with fire := { (c.markHalted cause).fire with armed := false } } : Chip).releaseUnfired_fire
  rw [Chip.haltMark_eq]
  generalize c.markHalted cause = d at *
  exact ⟨by rw [stat _ rfl]; exact halted, (stat FS_STAT_CAUSE rfl).trans why, armed⟩

theorem Chip.haltFire_facts (c : Chip) (cause : Nat) :
    (c.haltFire cause).get FS_STAT_HALTED ≠ 0 ∧ (c.haltFire cause).get FS_STAT_CAUSE = cause % 8 ∧ (c.haltFire cause).fire.armed = false := Chip.haltMark_facts ..

/-! ### STOP (R96, R339) -/

theorem Chip.leaves_foldl_mem {α : Type} {P : Fld → Prop} {xs : List α} (g : Chip → α → Chip) (hg : ∀ c, ∀ a ∈ xs, Chip.leaves P c (g c a)) (c : Chip) :
    c.leaves P (xs.foldl g c) := by
  induction xs generalizing c with
  | nil => exact c.leaves_refl _
  | cons x xs ih => exact Chip.leaves_trans (hg c x (by simp)) (ih (fun c a ha => hg c a (by simp [ha])) _)

theorem Chip.leaves_outside_seq (c : Chip) (off lo w r v : Nat) (ho : off < 0x10000) (hl : lo < 128) : c.leaves Fld.outside (c.set (fld .seq 0 off lo w r) v) :=
  c.leaves_set _ _ fun h hh e => by
    simp only [Fld.outside, e, fld, Blk.base] at hh
    omega

theorem Chip.leaves_outside_resume (c : Chip) (n : Nat) (hn : n < 17) : c.leaves Fld.outside (c.resume n) :=
  Chip.leaves_trans (c.leaves_outside_seq _ _ _ _ _ (by omega) (by omega))
    (Chip.leaves_trans (Chip.leaves_outside_seq _ _ _ _ _ _ (by omega) (by omega)) (Chip.leaves_outside_seq _ _ _ _ _ _ (by omega) (by omega)))

theorem Chip.leaves_outside_wakeKind (c : Chip) (k : Nat) : c.leaves Fld.outside (c.wakeKind k) :=
  Chip.leaves_foldl_mem Chip.resume (fun c n hn => c.leaves_outside_resume n (List.mem_range.1 (List.mem_filter.1 hn).1)) c

/-- Context 0 stops: it no longer waits, and is STOPPED. -/
def Chip.stop0 (c : Chip) : Chip :=
  let c : Chip := { c with seq := { c.seq with waits := FMap.put none c.seq.waits 0 none, ops := FMap.put none c.seq.ops 0 none } }
  (((c.dropTurn 0).set (SEQ_CWAIT_KIND 0) 0).set (SEQ_CWAIT_OPERAND 0) 0 |>.setCtxState 0 STOPPED).ckpt 0

theorem Chip.stop0_facts (c : Chip) : c.stop0.ctxState 0 = STOPPED ∧ c.stop0.get (SEQ_CWAIT_KIND 0) = 0 ∧
    c.leaves (fun h => h.outside ∧ h.key ≠ TW_JSEQ_JSEQ.key) c.stop0 ∧ c.stop0.strm = c.strm ∧ c.stop0.stage = c.stage ∧ c.stop0.store = c.store := by
  unfold Chip.stop0
  generalize hd : ({ c with seq := { c.seq with waits := FMap.put none c.seq.waits 0 none, ops := FMap.put none c.seq.ops 0 none } } : Chip) = d
  have bare : c.leaves Fld.outside d ∧ d.strm = c.strm ∧ d.stage = c.stage ∧ d.store = c.store := by
    subst hd
    exact ⟨⟨fun _ _ _ => rfl, fun _ _ _ => rfl, fun _ _ => rfl⟩, rfl, rfl, rfl⟩
  have dropped : c.leaves Fld.outside (d.dropTurn 0) ∧ (d.dropTurn 0).strm = c.strm ∧ (d.dropTurn 0).stage = c.stage ∧ (d.dropTurn 0).store = c.store := by
    obtain ⟨leaves, strm, stage, store⟩ := bare
    unfold Chip.dropTurn
    split
    · have unlisted := Chip.unlisted_wakeKind { d with vd := { d.vd with turns := d.vd.turns.filter (· ≠ 0) } } 10
      exact ⟨Chip.leaves_trans leaves (Chip.leaves_outside_wakeKind { d with vd := { d.vd with turns := d.vd.turns.filter (· ≠ 0) } } 10),
        (congrArg Chip.strm unlisted :).trans strm, (congrArg Chip.stage unlisted :).trans stage, (congrArg Chip.store unlisted :).trans store⟩
    · exact ⟨leaves, strm, stage, store⟩
  dsimp only
  generalize d.dropTurn 0 = e at *
  obtain ⟨leaves, strm, stage, store⟩ := dropped
  let f := (((e.set (SEQ_CWAIT_KIND 0) 0).set (SEQ_CWAIT_OPERAND 0) 0).setCtxState 0 STOPPED)
  have saved := f.leaves_ckpt 0
  have bared := f.unjournalled_ckpt 0
  refine ⟨?_, ?_, ?_, (congrArg Chip.strm bared :).trans strm, (congrArg Chip.stage bared :).trans stage, (congrArg Chip.store bared :).trans store⟩
  · exact (saved.2.2 (SEQ_CSTAT_STATE 0) (by decide)).trans (Chip.ctxState_setCtxState_same ..)
  · exact (saved.2.2 (SEQ_CWAIT_KIND 0) (by decide)).trans ((Chip.get_set_ne _ _ _ _ (by decide)).trans ((Chip.get_set_ne _ _ _ _ (by decide)).trans (Chip.get_set_same ..)))
  · have shown : e.leaves Fld.outside f := Chip.leaves_trans (Chip.leaves_outside_seq _ _ _ _ _ _ (by decide) (by decide))
      (Chip.leaves_trans (Chip.leaves_outside_seq _ _ _ _ _ _ (by decide) (by decide)) (Chip.leaves_outside_seq _ _ _ _ _ _ (by decide) (by decide)))
    exact Chip.leaves_trans (Chip.leaves_mono (fun _ h => h.1) (Chip.leaves_trans leaves shown)) (Chip.leaves_mono (fun _ h => h.2) saved)

/-- What STOP does to the chip before its completion. -/
theorem Chip.stopJob_eq (c : Chip) : c.stopJob = ((if c.ctx0Idle then c else c.stop0).jrn .runctl [1]).haltFire 3 := rfl

theorem stopBody_eq (q : Nat) (x : InDesc) (v : State) :
    stopBody q x v = { v with chip := v.chip.stopJob.complete q x.tag x.rx stOK (le 8 (v.chip.stopJob.get WM_X_X)) } := by
  simp only [stopBody, State.done, State.onChip, stOK]

section
variable (t : Nat) (q : Fin 64) (x : InDesc) (c : Chip) (s : State)

/-- STOP leaves context 0 STOPPED and fire halted. -/
theorem stops (started : Started t q 2 0 (some 0) x c s) :
    ∃ d : Chip, exec (.stop t q) s = .next { s.at_ t with chip := d.complete q x.tag x.rx 0 (le 8 (c.get WM_X_X)) } ∧
      d.get FS_STAT_HALTED ≠ 0 ∧ d.get FS_STAT_CAUSE = 3 ∧ d.fire.armed = false ∧ sameG c d ∧ sameW c d ∧ d.strm = c.strm ∧ d.stage = c.stage ∧ d.store = c.store ∧
      (c.ctx0Idle = false → d.ctxState 0 = STOPPED ∧ d.get (SEQ_CWAIT_KIND 0) = 0) ∧ (c.ctx0Idle = true → d.ctxState 0 = c.ctxState 0) := by
  have run : exec (.stop t q) s = .next (hostCommand t q 2 0 (some 0) (stopBody q) s) := rfl
  obtain ⟨halted, cause, armed⟩ := ((if c.ctx0Idle then c else c.stop0).jrn .runctl [1]).haltFire_facts 3
  have reports : (if c.ctx0Idle then c else c.stop0).like c.stopJob := Chip.like_trans (Chip.like_jrn _ .runctl [1] []) (Chip.like_haltFire _ 3)
  rw [← Chip.stopJob_eq] at halted cause armed
  obtain ⟨stopped, noWait, leaves, strm, stage, store⟩ := c.stop0_facts
  have before : c.leaves (fun h => h.outside ∧ h.key ≠ TW_JSEQ_JSEQ.key) (if c.ctx0Idle then c else c.stop0) ∧ (if c.ctx0Idle then c else c.stop0).strm = c.strm ∧
      (if c.ctx0Idle then c else c.stop0).stage = c.stage ∧ (if c.ctx0Idle then c else c.stop0).store = c.store := by
    split
    · exact ⟨c.leaves_refl _, rfl, rfl, rfl⟩
    · exact ⟨leaves, strm, stage, store⟩
  obtain ⟨⟨gs, ws, fields⟩, strm, stage, store⟩ := before
  have position : c.stopJob.get WM_X_X = c.get WM_X_X :=
    (reports.2 _ (by unfold Fld.still; decide)).trans (fields _ ⟨by unfold Fld.outside; decide, by decide⟩)
  refine ⟨c.stopJob, ?_, halted, cause, armed, fun m i hi => (Chip.like_g reports m i).trans (gs m i hi), fun m i hi => (Chip.like_w reports m i).trans (ws m i hi),
    (Chip.like_strm reports).trans strm, (Chip.like_stage reports).trans stage, (Chip.like_store reports).trans store, fun runs => ?_, fun idle => ?_⟩
  · exact exec_started run started fun v hv => by rw [stopBody_eq, hv, position]; rfl
  · rw [if_neg (by rw [runs]; decide)] at reports
    exact ⟨(Chip.like_ctxState reports 0).trans stopped, (reports.2 (SEQ_CWAIT_KIND 0) (by unfold Fld.still; decide)).trans noWait⟩
  · rw [if_pos idle] at reports
    exact Chip.like_ctxState reports 0

end

/-! ### RUN (R52, R86, R339, R364) -/

/-- The g and w registers of every context, and the entry point of context 0, stay. -/
def Chip.sameProgram (c d : Chip) : Prop := sameG c d ∧ sameW c d ∧ d.seq.start = c.seq.start

theorem Chip.sameProgram_of {c d : Chip} (h : d.seq = c.seq) : c.sameProgram d :=
  ⟨fun m i _ => by rw [Chip.g, h, Chip.g], fun m i _ => by rw [Chip.w, h, Chip.w], by rw [h]⟩

theorem Chip.sameProgram_trans {a b c : Chip} (h : a.sameProgram b) (k : b.sameProgram c) : a.sameProgram c := by
  obtain ⟨hg, hw, hs⟩ := h
  obtain ⟨kg, kw, ks⟩ := k
  exact ⟨fun m i hi => (kg m i hi).trans (hg m i hi), fun m i hi => (kw m i hi).trans (hw m i hi), ks.trans hs⟩

theorem Chip.sameProgram_like {c d : Chip} (h : c.like d) : c.sameProgram d :=
  ⟨fun m i _ => Chip.like_g h m i, fun m i _ => Chip.like_w h m i, congrArg (fun x => x.seq.start) h.1⟩

theorem Chip.sameProgram_ite {p : Prop} [Decidable p] {c d e : Chip} (h : c.sameProgram d) (k : c.sameProgram e) : c.sameProgram (if p then d else e) := by
  split
  · exact h
  · exact k

theorem Chip.sameProgram_forAll {α : Type} (c : Chip) (xs : List α) (g : Chip → α → Chip) (hg : ∀ c a, Chip.sameProgram c (g c a)) : c.sameProgram (c.forAll xs g) := by
  induction xs generalizing c with
  | nil => exact Chip.sameProgram_of rfl
  | cons x xs ih => exact Chip.sameProgram_trans (hg c x) (ih _)

theorem Chip.sameProgram_set (c : Chip) (f : Fld) (v : Nat) : c.sameProgram (c.set f v) := Chip.sameProgram_of rfl

theorem Chip.sameProgram_setBar (c : Chip) (k : Nat) (b : Bar) : c.sameProgram (c.setBar k b) := Chip.sameProgram_of rfl

theorem Chip.sameProgram_refl (c : Chip) : c.sameProgram c := Chip.sameProgram_of rfl

theorem Chip.sameProgram_applyReset (c : Chip) (k n : Nat) : c.sameProgram (c.applyReset k n) := by
  unfold Chip.applyReset
  dsimp only
  split
  · exact Chip.sameProgram_ite (Chip.sameProgram_of rfl) (Chip.sameProgram_of rfl)
  · exact Chip.sameProgram_of rfl

theorem Chip.sameProgram_applyCalib (c : Chip) (items : Nat) : c.sameProgram (c.applyCalib items) := by
  unfold Chip.applyCalib
  have ports : c.sameProgram (if bit items 1 then c.forAll (List.range 4) fun c p =>
      (c.set (TB_PORTLAT_TXLAT p) (TB_PORTLAT_TXLAT p).reset).set (TB_PORTLAT_RXLAT p) (TB_PORTLAT_RXLAT p).reset else c) :=
    Chip.sameProgram_ite (Chip.sameProgram_forAll _ _ _ fun c p => Chip.sameProgram_trans (c.sameProgram_set _ _) (Chip.sameProgram_set _ _ _)) c.sameProgram_refl
  exact Chip.sameProgram_ite (Chip.sameProgram_trans ports (Chip.sameProgram_of rfl)) ports

theorem Chip.sameProgram_settle (c : Chip) (x : Sched) : c.sameProgram (c.settle x) := by
  unfold Chip.settle
  let d : Chip := { c with stage := { c.stage with active := x.set, sched := none, calItems := x.set.calib.items }, fire := { c.fire with therm := c.fire.thermNext } }
  have start : c.sameProgram d := Chip.sameProgram_of rfl
  have carries : d.sameProgram (d.forAll (List.range 16) fun c k => c.setBar k { c.bar k with carry := (c.bar k).carry.take (x.set.width k) }) :=
    Chip.sameProgram_forAll _ _ _ fun c k => c.sameProgram_setBar k _
  have calib : d.sameProgram (if x.cal then d.forAll (List.range 16) fun c k => c.setBar k { c.bar k with carry := (c.bar k).carry.take (x.set.width k) }
      else (d.forAll (List.range 16) fun c k => c.setBar k { c.bar k with carry := (c.bar k).carry.take (x.set.width k) }).applyCalib x.set.calib.items) :=
    Chip.sameProgram_trans carries (Chip.sameProgram_ite (Chip.sameProgram_refl _) (Chip.sameProgram_applyCalib _ _))
  exact Chip.sameProgram_trans (Chip.sameProgram_trans start calib) (Chip.sameProgram_set _ _ _)

theorem Chip.sameProgram_takeCivil (c : Chip) (new : Int) (later : Bool) : c.sameProgram (c.takeCivil new later) := by
  unfold Chip.takeCivil
  dsimp only
  have slewed : c.sameProgram { c with time := { c.time with slew := none, holdAt := none } } := Chip.sameProgram_of rfl
  refine Chip.sameProgram_trans slewed ?_
  generalize ({ c with time := { c.time with slew := none, holdAt := none } } : Chip) = c
  have cleared : c.sameProgram (if later then c else c.set TB_STAT_CPEND 0) := Chip.sameProgram_ite c.sameProgram_refl (c.sameProgram_set _ _)
  refine Chip.sameProgram_trans cleared ?_
  generalize (if later then c else c.set TB_STAT_CPEND 0) = d
  have moved : d.sameProgram ((d.setS TB_CIVOFS_OFS new).set TB_STAT_HOLDING 0) := Chip.sameProgram_of rfl
  refine Chip.sameProgram_trans moved ?_
  generalize (d.setS TB_CIVOFS_OFS new).set TB_STAT_HOLDING 0 = e
  exact Chip.sameProgram_trans (Chip.sameProgram_ite (e.sameProgram_set _ _) e.sameProgram_refl) (Chip.sameProgram_like (Chip.like_jrn ..))

theorem Chip.sameProgram_applyCivil (c : Chip) (cpt : Nat) : c.sameProgram (c.applyCivil cpt) := by
  unfold Chip.applyCivil
  split
  · exact Chip.sameProgram_of rfl
  next new later _ =>
    have taken : c.sameProgram (c.takeCivil new later) := c.sameProgram_takeCivil new later
    dsimp only
    split
    · exact Chip.sameProgram_trans taken (Chip.sameProgram_ite (Chip.sameProgram_of rfl) (Chip.sameProgram_refl _))
    · exact taken
    · exact Chip.sameProgram_trans taken (Chip.sameProgram_ite (Chip.sameProgram_like (Chip.like_event _ _ _ _ _ (by decide))) (Chip.sameProgram_refl _))

/-- A chip without its registers, time and journal: what the civil time leaves. -/
theorem Chip.sameProgram_completeCommit (c : Chip) : c.sameProgram c.completeCommit := by
  have reset (c : Chip) (k : Nat) : c.sameProgram (match (c.bar k).reset with
      | some n => c.applyReset k n
      | none => c) := by
    split
    · exact c.sameProgram_applyReset _ _
    · exact c.sameProgram_refl
  have resets := c.sameProgram_forAll (List.range 16) _ reset
  unfold Chip.completeCommit
  dsimp only
  generalize c.forAll (List.range 16) _ = d at resets ⊢
  split
  · split
    · exact Chip.sameProgram_trans resets (d.sameProgram_settle _)
    · exact resets
  · exact resets

/-- A job is prepared: a commit that is fixed completes, a pending civil offset applies, fire halts with CAUSE 4. -/
def Chip.prepareJob (c : Chip) : Chip :=
  let c := (c.completeCommit.set TB_STAT_LOT 0).applyCivil 0
  if c.runs then c.haltFire 4 else c.haltMark 4

theorem Chip.prepareJob_facts (c : Chip) : c.sameProgram c.prepareJob ∧ c.prepareJob.get FS_STAT_HALTED ≠ 0 ∧ c.prepareJob.get FS_STAT_CAUSE = 4 := by
  have before : c.sameProgram ((c.completeCommit.set TB_STAT_LOT 0).applyCivil 0) :=
    Chip.sameProgram_trans c.sameProgram_completeCommit (Chip.sameProgram_trans (Chip.sameProgram_set _ _ _) (Chip.sameProgram_applyCivil _ 0))
  unfold Chip.prepareJob
  dsimp only
  generalize (c.completeCommit.set TB_STAT_LOT 0).applyCivil 0 = d at *
  split
  · obtain ⟨halted, cause, -⟩ := d.haltFire_facts 4
    exact ⟨Chip.sameProgram_trans before (Chip.sameProgram_like (d.like_haltFire 4)), halted, cause⟩
  · obtain ⟨halted, cause, -⟩ := d.haltMark_facts 4
    exact ⟨Chip.sameProgram_trans before (Chip.sameProgram_like (d.like_haltMark 4)), halted, cause⟩

/-- Registers of bars and of colour hold restart. -/
def Chip.restartBar (c : Chip) (k : Nat) : Chip :=
  ((c.set (BE_HRMIN_MIN k) (c.get (BE_HR_HEADROOM k))).set (CH_RESID_PEAK k) 0).setDeff k (16 * c.offset k)

theorem Chip.leaves_setDeff {P : Fld → Prop} (c : Chip) (k v : Nat) : c.leaves P (c.setDeff k v) := ⟨fun _ _ _ => rfl, fun _ _ _ => rfl, fun _ _ => rfl⟩

theorem Chip.restartBar_stat (c : Chip) (k : Nat) : c.leaves Fld.ofFireStat (c.restartBar k) := by
  have minimum : (BE_HRMIN_MIN k).key / 128 ≠ FS_STAT_HALTED.key / 128 := by
    simp only [BE_HRMIN_MIN, FS_STAT_HALTED, fld, Blk.base]
    omega
  have peak : (CH_RESID_PEAK k).key / 128 ≠ FS_STAT_HALTED.key / 128 := by
    simp only [CH_RESID_PEAK, FS_STAT_HALTED, fld, Blk.base]
    omega
  unfold Chip.restartBar
  generalize c.get (BE_HR_HEADROOM k) = v
  exact Chip.leaves_trans (Chip.leaves_trans (c.leaves_fireStat_set _ _ minimum) (Chip.leaves_fireStat_set _ _ _ peak)) (Chip.leaves_setDeff _ k _)

/-- No row is reached and nothing is rendered. -/
def Chip.freshBars (c : Chip) : Chip := { c.clearFetches with bars := FMap.mapV {} Bar.newJob c.bars, colour := {} }

theorem Chip.freshBars_facts (c : Chip) : c.sameProgram c.freshBars ∧ c.leaves Fld.ofFireStat c.freshBars ∧ c.freshBars.stage = c.stage :=
  ⟨Chip.sameProgram_of rfl, ⟨fun _ _ _ => rfl, fun _ _ _ => rfl, fun _ _ => rfl⟩, rfl⟩

/-- The bars' registers restart. -/
def Chip.restartRegs (c : Chip) : Chip := (c.forAll (List.range 16) Chip.restartBar).set CH_SUP_LIMITED 0

theorem Chip.restartRegs_facts (c : Chip) : c.sameProgram c.restartRegs ∧ c.leaves Fld.ofFireStat c.restartRegs ∧ c.restartRegs.stage = c.stage := by
  have bars := c.sameProgram_forAll (List.range 16) Chip.restartBar fun _ _ => Chip.sameProgram_of rfl
  have stats : c.leaves Fld.ofFireStat (c.forAll (List.range 16) Chip.restartBar) := Chip.leaves_foldl _ Chip.restartBar_stat _ _
  have stage : (c.forAll (List.range 16) Chip.restartBar).stage = c.stage := Chip.forAll_congr Chip.stage Chip.restartBar (fun _ _ => rfl) _ _
  unfold Chip.restartRegs
  generalize c.forAll (List.range 16) Chip.restartBar = d at *
  exact ⟨Chip.sameProgram_trans bars (d.sameProgram_set _ _), Chip.leaves_trans stats (d.leaves_fireStat_set _ _ (by decide)), stage⟩

/-- The model and the armed state restart. -/
def Chip.restartFire (c : Chip) : Chip :=
  ({ c with fire := { c.fire with
      armed := false, edge := none, fresh := false, back := false, rdegRun := 0, coasted := false, lastStamp := [], tooFast := false,
      motion := c.stage.active.devT 9 } } : Chip).set FS_RES_PEAK 0

theorem Chip.restartFire_facts (c : Chip) : c.sameProgram c.restartFire ∧ c.leaves Fld.ofFireStat c.restartFire ∧ c.restartFire.get FS_RES_PEAK = 0 ∧
    c.restartFire.fire.armed = false ∧ c.restartFire.stage = c.stage :=
  ⟨Chip.sameProgram_of rfl, Chip.leaves_fireStat_set _ _ _ (by decide), Chip.get_set_same .., rfl, rfl⟩

theorem Chip.restartBars_eq (c : Chip) : c.restartBars = c.freshBars.restartRegs.restartFire := rfl

theorem Chip.restartBars_facts (c : Chip) : c.sameProgram c.restartBars ∧ c.leaves Fld.ofFireStat c.restartBars ∧ c.restartBars.get FS_RES_PEAK = 0 ∧
    c.restartBars.fire.armed = false ∧ c.restartBars.stage = c.stage := by
  obtain ⟨p1, f1, s1⟩ := c.freshBars_facts
  obtain ⟨p2, f2, s2⟩ := c.freshBars.restartRegs_facts
  obtain ⟨p3, f3, peak, armed, s3⟩ := c.freshBars.restartRegs.restartFire_facts
  rw [Chip.restartBars_eq]
  exact ⟨Chip.sameProgram_trans p1 (Chip.sameProgram_trans p2 p3), Chip.leaves_trans f1 (Chip.leaves_trans f2 f3), peak, armed, s3.trans (s2.trans s1)⟩

/-- A stream opens: no records, counts from 0; the slots are free. -/
def Chip.newStream (c : Chip) (seed : Nat) : Chip :=
  let a := c.stage.active
  let clear (x : Slot) : Slot := if x.content.isSome then { gen := (x.gen + 1) % 4096 } else x
  let c : Chip := { c with vd := { c.vd with slots := FMap.mapV {} clear c.vd.slots } }
  let depths : FMap Nat := a.bars.foldl (fun m k => FMap.put 0 m k (a.geo 1 k)) []
  let new : Strm := { job := true, pitch := a.geo 0 0, seed := seed, depths := depths }
  let c : Chip := { c with strm := new }
  let c := ((c.set SEQ_PSTAT_OPEN 1).set SEQ_PSTAT_PEAK 0).set SEQ_PSEQ_NEXT_SEQ 0
  ((c.set SEQ_PLATE_CLIPPED 0).set SEQ_PLATE_DISCARDED 0).set SEQ_PCUR_CUR 0

theorem Chip.openStream_eq (c : Chip) (seed : Nat) : c.openStream seed = ((c.newStream seed).wakeKind 8).wakeKind 9 := rfl

/-- The counts of an open stream. -/
def Chip.streamCounts (c : Chip) : Chip :=
  (((((c.set SEQ_PSTAT_OPEN 1).set SEQ_PSTAT_PEAK 0).set SEQ_PSEQ_NEXT_SEQ 0).set SEQ_PLATE_CLIPPED 0).set SEQ_PLATE_DISCARDED 0).set SEQ_PCUR_CUR 0

theorem Chip.newStream_get (c : Chip) (seed : Nat) (f : Fld) : (c.newStream seed).get f = c.streamCounts.get f := rfl

theorem Chip.leaves_streamCounts (c : Chip) : c.leaves Fld.outside c.streamCounts := by
  have seq (c : Chip) (off lo w r v : Nat) (ho : off < 0x10000) (hl : lo < 128) := c.leaves_outside_seq off lo w r v ho hl
  exact Chip.leaves_trans (Chip.leaves_trans (Chip.leaves_trans (Chip.leaves_trans (Chip.leaves_trans (seq _ _ _ _ _ _ (by decide) (by decide))
    (seq _ _ _ _ _ _ (by decide) (by decide))) (seq _ _ _ _ _ _ (by decide) (by decide))) (seq _ _ _ _ _ _ (by decide) (by decide)))
    (seq _ _ _ _ _ _ (by decide) (by decide))) (seq _ _ _ _ _ _ (by decide) (by decide))

theorem Chip.streamCounts_get (c : Chip) : c.streamCounts.get SEQ_PSTAT_OPEN = 1 ∧ c.streamCounts.get SEQ_PSEQ_NEXT_SEQ = 0 ∧
    c.streamCounts.get SEQ_PCUR_CUR = 0 ∧ c.streamCounts.get SEQ_PLATE_CLIPPED = 0 := by
  have past {c : Chip} {f g : Fld} {v : Nat} (h : f.key ≠ g.key) := Chip.get_set_ne c g f v h
  unfold Chip.streamCounts
  refine ⟨?_, ?_, Chip.get_set_same .., ?_⟩
  · rw [past (by decide), past (by decide), past (by decide), past (by decide), past (by decide), Chip.get_set_same]
    rfl
  · rw [past (by decide), past (by decide), past (by decide), Chip.get_set_same]
    rfl
  · rw [past (by decide), past (by decide), Chip.get_set_same]
    rfl

theorem Chip.newStream_facts (c : Chip) (seed : Nat) : c.sameProgram (c.newStream seed) ∧ (c.newStream seed).fire = c.fire ∧
    (c.newStream seed).stage = c.stage := ⟨Chip.sameProgram_of rfl, rfl, rfl⟩

theorem Chip.newStream_strm (c : Chip) (seed : Nat) : (c.newStream seed).strm.recs = [] ∧ (c.newStream seed).strm.job = true ∧
    (c.newStream seed).strm.seed = seed ∧ (c.newStream seed).strm.pitch = c.stage.active.geo 0 0 ∧ (c.newStream seed).strm.behind = false :=
  ⟨rfl, rfl, rfl, rfl, rfl⟩

/-- Contexts that waited for the stream issue again: nothing else changes. -/
theorem Chip.wakeStream_facts (d : Chip) : d.leaves (fun h => h.outside ∨ h.calm) ((d.wakeKind 8).wakeKind 9) ∧
    ((d.wakeKind 8).wakeKind 9).unlisted = d.unlisted := by
  have once (d : Chip) (k : Nat) : d.leaves (fun h => h.outside ∨ h.calm) (d.wakeKind k) :=
    ⟨(d.leaves_calm_wakeKind k).1, (d.leaves_calm_wakeKind k).2.1, fun h hh => hh.elim ((d.leaves_outside_wakeKind k).2.2 h) ((d.leaves_calm_wakeKind k).2.2 h)⟩
  exact ⟨Chip.leaves_trans (once d 8) (once _ 9), (Chip.unlisted_wakeKind _ 9).trans (Chip.unlisted_wakeKind d 8)⟩

/-- The stream is open and empty, counts from 0, with the seed and the pitch of the active set. -/
theorem Chip.openStream_facts (c : Chip) (seed : Nat) : c.sameProgram (c.openStream seed) ∧ c.leaves Fld.outside (c.openStream seed) ∧
    (c.openStream seed).get SEQ_PSTAT_OPEN = 1 ∧ (c.openStream seed).get SEQ_PSEQ_NEXT_SEQ = 0 ∧ (c.openStream seed).get SEQ_PCUR_CUR = 0 ∧
    (c.openStream seed).get SEQ_PLATE_CLIPPED = 0 ∧ (c.openStream seed).fire = c.fire ∧ (c.openStream seed).stage = c.stage ∧
    (c.openStream seed).strm = (c.newStream seed).strm := by
  obtain ⟨program, fire, stage⟩ := c.newStream_facts seed
  obtain ⟨opened, next, cur, clipped⟩ := c.streamCounts_get
  have fields : c.leaves Fld.outside (c.newStream seed) := c.leaves_streamCounts
  have counts (f : Fld) := c.newStream_get seed f
  obtain ⟨leaves, unlisted⟩ := (c.newStream seed).wakeStream_facts
  rw [Chip.openStream_eq]
  generalize c.newStream seed = d at *
  have calm {f : Fld} (hf : f.key / 128 < 0x10100) := (leaves.2.2 f (.inr (.inl hf))).trans (counts f)
  exact ⟨Chip.sameProgram_trans program (Chip.sameProgram_of (congrArg Chip.seq unlisted :)),
    Chip.leaves_trans fields (Chip.leaves_mono (fun _ h => .inl h) leaves), (calm (by decide)).trans opened, (calm (by decide)).trans next,
    (calm (by decide)).trans cur, (calm (by decide)).trans clipped, (congrArg Chip.fire unlisted :).trans fire, (congrArg Chip.stage unlisted :).trans stage,
    (congrArg Chip.strm unlisted :)⟩

/-- The web's position at the start of the job, and the rows that the bars have reached there. -/
def Chip.positionJob (c : Chip) : Chip :=
  ({ c.spoil with motion := { c.spoil.motion with ext0 := c.getS (WM_EXT_EXT c.infeed) } } : Chip).refreshX.startRows

/-- A field outside the window of web motion. -/
def Fld.notMotion (h : Fld) : Prop := h.key / 128 < 0x90000 ∨ 0xA0000 ≤ h.key / 128

theorem Chip.leaves_notMotion_wm (c : Chip) (off lo w r v : Nat) (ho : off < 0x10000) (hl : lo < 128) : c.leaves Fld.notMotion (c.set (fld .wm 0 off lo w r) v) :=
  c.leaves_set _ _ fun h hh e => by
    simp only [Fld.notMotion, e, fld, Blk.base] at hh
    omega

/-- r_k of a bar at the RUN edge. -/
def Chip.startRow (c : Chip) (k : Nat) : Chip :=
  let r := rowIndex c.pitch (c.get WM_X_X) (c.tickOffset k)
  c.setBar k { c.bar k with rk := r, winRows := (r + 1).toNat, high := max (-1) ((c.get WM_X_X : Int) - c.tickOffset k) }

theorem Chip.startRows_facts (c : Chip) : c.sameProgram c.startRows ∧ c.leaves Fld.notMotion c.startRows ∧ c.startRows.fire = c.fire ∧
    c.startRows.stage = c.stage ∧ c.startRows.strm = c.strm := by
  rw [show c.startRows = c.forAll c.enabledBars Chip.startRow from rfl]
  exact ⟨Chip.sameProgram_of (Chip.forAll_congr Chip.seq Chip.startRow (fun _ _ => rfl) _ _),
    Chip.leaves_foldl Chip.startRow (fun _ _ => ⟨fun _ _ _ => rfl, fun _ _ _ => rfl, fun _ _ => rfl⟩) _ _, Chip.forAll_congr Chip.fire Chip.startRow (fun _ _ => rfl) _ _,
    Chip.forAll_congr Chip.stage Chip.startRow (fun _ _ => rfl) _ _, Chip.forAll_congr Chip.strm Chip.startRow (fun _ _ => rfl) _ _⟩

theorem Chip.positionJob_facts (c : Chip) : c.sameProgram c.positionJob ∧ c.leaves Fld.notMotion c.positionJob ∧ c.positionJob.fire = c.fire ∧
    c.positionJob.stage = c.stage ∧ c.positionJob.strm = c.strm := by
  have spoilt : c.sameProgram c.spoil ∧ c.leaves Fld.notMotion c.spoil ∧ c.spoil.fire = c.fire ∧ c.spoil.stage = c.stage ∧ c.spoil.strm = c.strm := by
    unfold Chip.spoil
    split
    · exact ⟨Chip.sameProgram_of rfl, Chip.leaves_notMotion_wm _ _ _ _ _ _ (by decide) (by decide), rfl, rfl, rfl⟩
    · exact ⟨c.sameProgram_refl, c.leaves_refl _, rfl, rfl, rfl⟩
  have shown (c : Chip) : c.sameProgram c.refreshX ∧ c.leaves Fld.notMotion c.refreshX ∧ c.refreshX.fire = c.fire ∧ c.refreshX.stage = c.stage ∧
      c.refreshX.strm = c.strm :=
    ⟨Chip.sameProgram_of rfl, Chip.leaves_trans (c.leaves_notMotion_wm _ _ _ _ _ (by decide) (by decide)) (Chip.leaves_notMotion_wm _ _ _ _ _ _ (by decide) (by decide)),
      rfl, rfl, rfl⟩
  unfold Chip.positionJob
  generalize c.getS (WM_EXT_EXT c.infeed) = ext
  generalize c.spoil = d at *
  obtain ⟨p2, f2, fire2, stage2, strm2⟩ := shown { d with motion := { d.motion with ext0 := ext } }
  obtain ⟨p3, f3, fire3, stage3, strm3⟩ := ({ d with motion := { d.motion with ext0 := ext } } : Chip).refreshX.startRows_facts
  obtain ⟨p1, f1, fire1, stage1, strm1⟩ := spoilt
  exact ⟨Chip.sameProgram_trans (Chip.sameProgram_trans p1 p2) p3, Chip.leaves_trans (Chip.leaves_trans f1 f2) f3, fire3.trans (fire2.trans fire1),
    stage3.trans (stage2.trans stage1), strm3.trans (strm2.trans strm1)⟩

theorem FMap.get_keep {α : Type} (d : α) (p : Nat → Bool) (m : FMap α) (k : Nat) : FMap.get d (FMap.keep p m) k = if p k then FMap.get d m k else d := by
  induction m with
  | nil => simp [FMap.keep, FMap.get]
  | cons e m ih =>
    obtain ⟨j, v⟩ := e
    rw [FMap.keep] at ih
    rw [FMap.keep, List.filter_cons]
    by_cases kj : k = j
    · subst kj
      by_cases pk : p k = true
      · simp [pk, FMap.get]
      · simp [pk, ih]
    · by_cases pj : p j = true
      · simp [pj, FMap.get, kj, ih]
      · simp [pj, FMap.get, kj, ih]

theorem Chip.startCtx0_facts (c : Chip) : c.startCtx0.ctxState 0 = RUNNABLE ∧ c.startCtx0.pc 0 = c.seq.start % 2 ^ 19 ∧ c.startCtx0.get (SEQ_CWAIT_KIND 0) = 0 ∧
    (∀ i, i < 32 → c.startCtx0.g 0 i = 0) ∧ (∀ i, i < 8 → c.startCtx0.w 0 i = 0) ∧
    (∀ m i, m ≠ 0 → i < 32 → c.startCtx0.g m i = c.g m i) ∧ (∀ m i, m ≠ 0 → i < 8 → c.startCtx0.w m i = c.w m i) ∧
    (∀ h : Fld, ¬ h.ofContext → c.startCtx0.get h = c.get h) := by
  have g (m i : Nat) : c.startCtx0.g m i = if i = 0 then 0 else FMap.get 0 (FMap.keep (fun i => decide (32 ≤ i)) c.seq.g) (32 * m + i) := rfl
  have w (m i : Nat) : c.startCtx0.w m i = FMap.get 0 (FMap.keep (fun i => decide (8 ≤ i)) c.seq.w) (8 * m + i) := rfl
  have past {c : Chip} {f g : Fld} {v : Nat} (h : f.key ≠ g.key) := Chip.get_set_ne c g f v h
  refine ⟨Chip.get_set_same .., (past (by decide)).trans (Chip.get_set_same ..), (past (by decide)).trans ((past (by decide)).trans ((past (by decide)).trans (Chip.get_set_same ..))),
    fun i hi => ?_, fun i hi => ?_, fun m i hm hi => ?_, fun m i hm hi => ?_, fun h hh => ?_⟩
  · rw [g, FMap.get_keep, if_neg (show ¬ decide (32 ≤ 32 * 0 + i) = true by simp; omega)]
    split <;> rfl
  · rw [w, FMap.get_keep, if_neg (show ¬ decide (8 ≤ 8 * 0 + i) = true by simp; omega)]
  · rw [g, FMap.get_keep, if_pos (show decide (32 ≤ 32 * m + i) = true by simp; omega)]
    rfl
  · rw [w, FMap.get_keep, if_pos (show decide (8 ≤ 8 * m + i) = true by simp; omega)]
    rfl
  · have ne {f : Fld} (hf : f.ofContext) : h.key ≠ f.key := fun e => hh (by rw [Fld.ofContext, e]; exact hf)
    exact (past (ne (by unfold Fld.ofContext; decide))).trans ((past (ne (by unfold Fld.ofContext; decide))).trans
      ((past (ne (by unfold Fld.ofContext; decide))).trans (past (ne (by unfold Fld.ofContext; decide)))))

/-- A stream that falls behind reports it; one that does not stays as it is. -/
theorem Chip.noteBehind_facts (c : Chip) : c.leaves (fun h => h.still ∧ h.key ≠ SEQ_PSTAT_BEHIND.key) c.noteBehind ∧ c.noteBehind.stage = c.stage ∧
    c.noteBehind.strm = { c.strm with behind := c.noteBehind.strm.behind } ∧
    (c.noteBehind.strm.behind = false → c.noteBehind = { c with strm := { c.strm with behind := false } }) := by
  unfold Chip.noteBehind
  dsimp only
  generalize (c.is SEQ_PSTAT_OPEN && decide (c.get SEQ_PCUR_CUR < c.frontHorizon)) = now
  have noted : c.leaves (fun h => h.still ∧ h.key ≠ SEQ_PSTAT_BEHIND.key) { c with strm := { c.strm with behind := now } } := ⟨fun _ _ _ => rfl, fun _ _ _ => rfl, fun _ _ => rfl⟩
  split
  next falls =>
    obtain rfl : now = true := (Bool.and_eq_true_iff.1 falls).1
    generalize hd : ({ c with strm := { c.strm with behind := true } } : Chip) = d at noted ⊢
    have stage : d.stage = c.stage := by rw [← hd]
    have strm : d.strm = { c.strm with behind := true } := by rw [← hd]
    have report := (d.latchRs SEQ_PSTAT_BEHIND).like_raise .seq 0 { src := 3 } (evSource_lt _ _ · (by decide))
    have same : ((d.latchRs SEQ_PSTAT_BEHIND).raise .seq 0 { src := 3 }).strm = d.strm := (Chip.like_strm report :)
    refine ⟨Chip.leaves_trans noted (Chip.leaves_trans (d.leaves_latchRs _ fun _ h => h.2) (Chip.leaves_of_like (fun _ h => h.1) report)),
      (Chip.like_stage report).trans stage, ?_, fun quiet => ?_⟩
    · rw [same, strm]
    · rw [same, strm] at quiet
      exact Bool.noConfusion quiet
  next =>
    exact ⟨noted, rfl, rfl, fun quiet => by rw [show now = false from quiet]⟩

/-- A job starts in these steps. -/
theorem Chip.startJob_eq (c : Chip) (seed : Nat) :
    c.startJob seed = (c.prepareJob.restartBars.openStream seed).positionJob.startCtx0.noteBehind := by
  unfold Chip.startJob Chip.prepareJob Chip.positionJob
  dsimp only

/-- The chip after RUN: context 0 at the entry point, an empty open stream, fire halted with CAUSE 4. -/
theorem Chip.startJob_facts (c : Chip) (seed : Nat) : let d := c.startJob seed
    (d.ctxState 0 = RUNNABLE ∧ d.pc 0 = c.seq.start % 2 ^ 19 ∧ d.get (SEQ_CWAIT_KIND 0) = 0 ∧
      (∀ i, i < 32 → d.g 0 i = 0) ∧ (∀ i, i < 8 → d.w 0 i = 0) ∧
      (∀ m i, m ≠ 0 → i < 32 → d.g m i = c.g m i) ∧ (∀ m i, m ≠ 0 → i < 8 → d.w m i = c.w m i)) ∧
    (d.get SEQ_PSTAT_OPEN = 1 ∧ d.get SEQ_PSEQ_NEXT_SEQ = 0 ∧ d.get SEQ_PCUR_CUR = 0 ∧ d.get SEQ_PLATE_CLIPPED = 0) ∧
    (d.strm.recs = [] ∧ d.strm.job = true ∧ d.strm.seed = seed ∧ d.strm.pitch = d.stage.active.geo 0 0) ∧ d.get FS_RES_PEAK = 0 ∧
    (d.strm.behind = false → d.fire.armed = false ∧ d.get FS_STAT_HALTED ≠ 0 ∧ d.get FS_STAT_CAUSE = 4) := by
  intro d
  obtain ⟨p1, halted, cause⟩ := c.prepareJob_facts
  obtain ⟨p2, f2, peak, armed, -⟩ := c.prepareJob.restartBars_facts
  obtain ⟨p3, f3, opened, next, cur, clipped, fire3, stage3, strm3⟩ := c.prepareJob.restartBars.openStream_facts seed
  obtain ⟨recs, job, seeded, pitch, behind⟩ := c.prepareJob.restartBars.newStream_strm seed
  obtain ⟨p4, f4, fire4, stage4, strm4⟩ := (c.prepareJob.restartBars.openStream seed).positionJob_facts
  have program := Chip.sameProgram_trans p1 (Chip.sameProgram_trans p2 (Chip.sameProgram_trans p3 p4))
  rw [← strm3, ← strm4] at recs job seeded pitch behind
  rw [show d = _ from c.startJob_eq seed]
  have fire34 := fire4.trans fire3
  have stage34 := stage4.trans stage3
  clear_value d
  generalize c.prepareJob = e at *
  generalize e.restartBars = r at *
  generalize r.openStream seed = o at *
  have fields (f : Fld) (hf : f.outside ∧ f.notMotion) : o.positionJob.get f = r.get f := (f4.2.2 f hf.2).trans (f3.2.2 f hf.1)
  have counts (f : Fld) (hf : f.notMotion) := f4.2.2 f hf
  generalize o.positionJob = p at *
  obtain ⟨state, pc, kind, g0, w0, g, w, rest⟩ := p.startCtx0_facts
  have fire5 : p.startCtx0.fire = p.fire := rfl
  have stage5 : p.startCtx0.stage = p.stage := rfl
  have strm5 : p.startCtx0.strm = p.strm := rfl
  generalize p.startCtx0 = q at *
  obtain ⟨leaves, stage6, strm6, quiet⟩ := q.noteBehind_facts
  generalize q.noteBehind = u at *
  obtain ⟨gs, ws, start⟩ := program
  have seq {off lo w r : Nat} (ho : 0x40 ≤ off) (h2 : off < 0x400) (hl : lo < 128) (ne : (fld .seq 0 off lo w r).key ≠ SEQ_PSTAT_BEHIND.key) :
      u.get (fld .seq 0 off lo w r) = q.get (fld .seq 0 off lo w r) := leaves.2.2 _ ⟨still_seq _ _ _ _ ho (.inl h2) (by omega) hl, ne⟩
  have past {f : Fld} (hf : ¬ f.ofContext) (hm : f.notMotion) := (rest f hf).trans (counts f hm)
  refine ⟨⟨?_, ?_, ?_, ?_, ?_, ?_, ?_⟩, ⟨?_, ?_, ?_, ?_⟩, ⟨?_, ?_, ?_, ?_⟩, ?_, fun calm => ?_⟩
  · exact (seq (by decide) (by decide) (by decide) (by decide)).trans state
  · exact (seq (by decide) (by decide) (by decide) (by decide)).trans (pc.trans (by rw [start]))
  · exact (seq (by decide) (by decide) (by decide) (by decide)).trans kind
  · exact fun i hi => (leaves.1 0 i hi).trans (g0 i hi)
  · exact fun i hi => (leaves.2.1 0 i hi).trans (w0 i hi)
  · exact fun m i hm hi => (leaves.1 m i hi).trans ((g m i hm hi).trans (gs m i hi))
  · exact fun m i hm hi => (leaves.2.1 m i hi).trans ((w m i hm hi).trans (ws m i hi))
  · exact (seq (by decide) (by decide) (by decide) (by decide)).trans ((past (by unfold Fld.ofContext; decide) (by unfold Fld.notMotion; decide)).trans opened)
  · exact (seq (by decide) (by decide) (by decide) (by decide)).trans ((past (by unfold Fld.ofContext; decide) (by unfold Fld.notMotion; decide)).trans next)
  · exact (seq (by decide) (by decide) (by decide) (by decide)).trans ((past (by unfold Fld.ofContext; decide) (by unfold Fld.notMotion; decide)).trans cur)
  · exact (seq (by decide) (by decide) (by decide) (by decide)).trans ((past (by unfold Fld.ofContext; decide) (by unfold Fld.notMotion; decide)).trans clipped)
  · rw [strm6, strm5]; exact recs
  · rw [strm6, strm5]; exact job
  · rw [strm6, strm5]; exact seeded
  · rw [strm6, strm5, stage6, stage5, stage34]; exact pitch
  · exact (leaves.2.2 FS_RES_PEAK ⟨by unfold Fld.still; decide, by decide⟩).trans ((rest _ (by unfold Fld.ofContext; decide)).trans
      ((fields _ ⟨by unfold Fld.outside; decide, by unfold Fld.notMotion; decide⟩).trans peak))
  · have same := quiet calm
    have stat (f : Fld) (hf : f.ofFireStat) (hc : ¬ f.ofContext) (ho : f.outside ∧ f.notMotion) : u.get f = e.get f := by
      rw [same]
      exact (rest f hc).trans ((fields f ho).trans (f2.2.2 f hf))
    refine ⟨?_, ?_, ?_⟩
    · rw [same]
      exact (congrArg Fire.armed (fire5.trans fire34)).trans armed
    · rw [stat FS_STAT_HALTED rfl (by unfold Fld.ofContext; decide) ⟨by unfold Fld.outside; decide, by unfold Fld.notMotion; decide⟩]
      exact halted
    · rw [stat FS_STAT_CAUSE rfl (by unfold Fld.ofContext; decide) ⟨by unfold Fld.outside; decide, by unfold Fld.notMotion; decide⟩]
      exact cause

section
variable {q : Nat} {x : InDesc} {v : State}

theorem runBody_refused {st : Nat} (h : v.chip.runRefused = some st) : runBody q x v = { v with chip := v.chip.abortRest.complete q x.tag x.rx st } := by
  simp only [runBody, h, State.done, State.onChip]

theorem runBody_runs (h : v.chip.runRefused = none) : runBody q x v = { v with
    chip := ((v.chip.jrn .runctl [0, x.param 16 8]).startJob (x.param 16 8)).complete q x.tag x.rx stOK
      (le 4 (((v.chip.jrn .runctl [0, x.param 16 8]).startJob (x.param 16 8)).get SEQ_IMGID_IMAGE_ID)) } := by
  simp only [runBody, h, State.done, State.onChip]

end

section
variable {c : Chip}

theorem Chip.runRefused_rest {r : BistRun} (h : c.health.bist = some r) : c.runRefused = some stSTATE := if_pos (by rw [h]; rfl)

theorem Chip.runRefused_state (rest : c.health.bist = none) (h : c.get SEQ_STAT_IMG_LOADED = 0 ∨ c.ctx0Idle = false) : c.runRefused = some stSTATE := by
  have busy : (!c.is SEQ_STAT_IMG_LOADED || !c.ctx0Idle) = true := by
    rcases h with h | h
    · rw [Chip.is_eq_false_iff.2 h]; rfl
    · rw [h]; simp
  rw [Chip.runRefused, rest, busy]
  rfl

theorem Chip.runRefused_infeed (rest : c.health.bist = none) (loaded : c.get SEQ_STAT_IMG_LOADED ≠ 0) (idle : c.ctx0Idle = true) :
    c.runRefused = if c.get (WM_ECFG_EN c.infeed) = 0 then some stNO_INFEED else none := by
  rw [Chip.runRefused, rest, Chip.is_iff.2 loaded, idle]
  by_cases en : c.get (WM_ECFG_EN c.infeed) = 0
  · rw [if_pos en, Chip.is_eq_false_iff.2 en]; rfl
  · rw [if_neg en, Chip.is_iff.2 en]; rfl

theorem Chip.abortRest_none (rest : c.health.bist = none) : c.abortRest = c := by rw [Chip.abortRest, rest]

end

/-- Settles O32: each command acts as its body says. -/
theorem runStopAndArm : Obligations.RunStopAndArm := by
  unfold Obligations.RunStopAndArm
  refine ⟨?run, ?stop, ?fireArm⟩
  case run =>
    intro t q x c s started
    have run : exec (.run t q) s = .next (hostCommand t q 1 0 (some 0) (runBody q) s) := rfl
    have refused {st : Nat} (rest : c.health.bist = none) (h : c.runRefused = some st) : OnlyCompletes (.run t q) t q x st [] c s :=
      exec_started run started fun v hv => by rw [runBody_refused (hv ▸ h), hv, Chip.abortRest_none rest]
    refine ⟨fun r rest => exec_started run started fun v hv => by rw [runBody_refused (hv ▸ Chip.runRefused_rest rest), hv]; rfl,
      fun rest => ⟨fun h => refused rest (Chip.runRefused_state rest h), fun loaded idle none => refused rest ((Chip.runRefused_infeed rest loaded idle).trans (if_pos none))⟩,
      fun rest loaded idle infeed => ?_⟩
    have journalled := c.like_jrn .runctl [0, x.param 16 8] []
    have seq := c.jrn_seq .runctl [0, x.param 16 8] []
    have does (v : State) (hv : v.chip = c) := runBody_runs (q := q) (x := x) (v := v)
      (hv ▸ (Chip.runRefused_infeed rest loaded idle).trans (if_neg infeed))
    simp only [stOK] at does
    obtain ⟨⟨state, pc, kind, g0, w0, g, w⟩, ⟨opened, next, cur, clipped⟩, ⟨recs, job, seeded, pitch⟩, peak, quiet⟩ :=
      (c.jrn .runctl [0, x.param 16 8]).startJob_facts (x.param 16 8)
    refine ⟨(c.jrn .runctl [0, x.param 16 8]).startJob (x.param 16 8), exec_started run started fun v hv => (does v hv).trans (by rw [hv]), ?_⟩
    clear does
    generalize c.jrn .runctl [0, x.param 16 8] = e at *
    generalize e.startJob (x.param 16 8) = d at *
    exact ⟨state, pc.trans (by rw [seq]), kind, g0, w0, fun m i hm hi => (g m i hm hi).trans (Chip.like_g journalled m i),
      fun m i hm hi => (w m i hm hi).trans (Chip.like_w journalled m i), opened, next, cur, clipped, recs, job, seeded, pitch, peak, quiet⟩
  case stop => exact stops
  case fireArm =>
    intro t q x c s started
    have run : exec (.fireArm t q) s = .next (hostCommand t q 3 0 (some 0) (fireArmBody q) s) := rfl
    refine ⟨fun shut => onlyCompletes_of run started fun v hv => ?_, fun opened low => onlyCompletes_of run started fun v hv => ?_,
      fun opened high fault => onlyCompletes_of run started fun v hv => ?_, fun opened high noFault fires => onlyCompletes_of run started fun v hv => ?_,
      fun opened high noFault halted => ⟨c.arm, ?_, c.arm_facts⟩⟩
    · exact fireArmBody_closed q x (hv ▸ shut)
    · rw [fireArmBody_open q x (hv ▸ opened), hv, Chip.is_eq_false_iff.2 low]
      rfl
    · rw [fireArmBody_open q x (hv ▸ opened), hv, Chip.is_iff.2 high, fault]
      rfl
    · rw [fireArmBody_open q x (hv ▸ opened), hv, Chip.is_iff.2 high, noFault, Chip.is_eq_false_iff.2 fires]
      rfl
    · refine exec_started run started fun v hv => ?_
      rw [fireArmBody_open q x (hv ▸ opened), hv, Chip.is_iff.2 high, noFault, Chip.is_iff.2 halted, ← hv]
      rfl

end Sys2Proof.Machine
end

section
/-!
PROOFS. The functions of STAGE_CTL (R374) and LOAD_PROGRAM (R57).
-/
namespace Sys2Proof.Machine

/-! ### STAGE_CTL -/

section
variable {e : Instr} {t q' fn : Nat} {q : Fin 64} {body : InDesc → State → State} {s : State} {x : InDesc} {c : Chip} {st gd code : Nat}

/-- A function that starts does what its body does. -/
theorem exec_body {opc : Nat} {g : Option Nat} (run : exec e s = .next (hostCommand t q opc fn g body s)) (h : Started t q opc fn g x c s) :
    exec e s = .next (body x { s.at_ t with chip := c }) := run.trans (congrArg Host.Outcome.next (hostCommand_started h))

/-- A command finds its state: the memories as they were, the chip at its time without its descriptor. -/
theorem exec_body_at {opc : Nat} {g : Option Nat} (run : exec e s = .next (hostCommand t q opc fn g body s)) (h : Started t q opc fn g x c s) :
    ∃ v : State, v.mem = s.mem ∧ v.pending = s.pending ∧ v.chip = c ∧ (∀ d : Chip, { v with chip := d } = { s.at_ t with chip := d }) ∧
      (∀ (m : Mem) (d : Chip), { v with mem := m, chip := d } = { s.at_ t with mem := m, chip := d }) ∧ exec e s = .next (body x v) := by
  have mem := s.at_mem t
  have pending := s.at_pending t
  have runs := exec_body run h
  generalize s.at_ t = u at *
  exact ⟨{ u with chip := c }, mem, pending, rfl, fun _ => rfl, fun _ _ => rfl, runs⟩

theorem stageCompletes_iff {u : State} : StageCompletes e q x st gd code u s ↔ exec e s = .next (u.stageDone q x st gd code) := Iff.rfl

theorem stageMakes_of {d : Chip} (run : exec e s = .next (hostCommand t q 5 fn (some 0) body s)) (h : Started t q 5 fn (some 0) x c s)
    (does : ∀ v : State, v.chip = c → body x v = ({ v with chip := d }).stageDone q x st gd code) : StageCompletes e q x st gd code { s.at_ t with chip := d } s := by
  rw [StageCompletes, exec_body run h]
  generalize s.at_ t = v
  exact congrArg Host.Outcome.next (does { v with chip := c } rfl)

theorem stageEnds_of (run : exec e s = .next (hostCommand t q 5 fn (some 0) body s)) (h : Started t q 5 fn (some 0) x c s)
    (does : ∀ v : State, v.chip = c → body x v = v.stageDone q x st gd code) : StageCompletes e q x st gd code { s.at_ t with chip := c } s :=
  stageMakes_of run h fun v hv => (does v hv).trans (by rw [← hv])

theorem stageCtl_pass {traps : List Nat} (f : State → State) (v : State) (h : traps = []) : stageCtl q' x traps f v = f v := by rw [h, stageCtl]

theorem stageCtl_trap {traps rest : List Nat} {n : Nat} (f : State → State) (v : State) (h : traps = n :: rest) (least : rest.foldl Nat.min n = code)
    (status : trapStatus code = st) : stageCtl q' x traps f v = v.stageDone q' x st 0 code := by rw [h, stageCtl, least, status]

/-- The traps of a commit, with that of a strict commit below the front horizon. -/
theorem Chip.commitTraps_eq (c : Chip) : c.commitTraps = if c.sstate = 1 then [0x41] else if c.sstate = 3 then [0x43] else [] := by
  by_cases dirty : c.sstate = 1
  · rw [if_pos dirty, Chip.commitTraps, dirty]; rfl
  · rw [if_neg dirty, Chip.commitTraps]
    by_cases sched : c.sstate = 3
    · rw [if_pos sched, sched]; rfl
    · rw [if_neg sched, List.append_eq_nil_iff]
      exact ⟨trapIf_eq_nil.2 (decide_eq_false dirty), trapIf_eq_nil.2 (decide_eq_false sched)⟩

end

section
variable {t : Nat} {q : Fin 64} {x : InDesc} {c : Chip} {s : State}

/-- A function that waits while the set is SETTLING leaves its command in the queue. -/
theorem stageCommand_waits {fn : Nat} {body : InDesc → State → State} (settling : s.chip.sstate = 4) (head : (s.at_ t).chip.headIs q 5 fn = true) :
    stageCommand t q fn body s = s.at_ t := if_pos ⟨settling, head⟩

/-- What QUERY, COMMITT, ABANDON and CALSAVE do once they start. -/
def queryBody (q : Nat) (x : InDesc) (s : State) : State :=
  ({ s with chip := { s.chip with free := s.chip.free + 1 } }).stageDone q x stOK (Config.freeValue s.chip.free % 2 ^ 64) 0

def committBody (q : Nat) (x : InDesc) (s : State) : State :=
  stageCtl q x s.chip.commitTraps (fun s => ({ s with chip := s.chip.committ (x.param 24 8) }).stageDone q x 0 0 0) s

def abandonBody (q : Nat) (x : InDesc) (s : State) : State :=
  ({ s with chip := s.chip.abandon.2 }).stageDone q x (if s.chip.abandon.1 = 1 then 5 else 0) s.chip.abandon.1 0

def calsaveBody (q : Nat) (x : InDesc) (s : State) : State :=
  stageCtl q x (trapIf (saveBad (x.param 17 1) (x.param 18 1)) 0x50) (fun s =>
    ({ s with chip := (s.chip.calSave (x.param 17 1) (x.param 18 1)).2 }).stageDone q x
      (if (s.chip.calSave (x.param 17 1) (x.param 18 1)).1 = 1 then 0x03 else if (s.chip.calSave (x.param 17 1) (x.param 18 1)).1 = 2 then 0x06 else 0)
      (s.chip.calSave (x.param 17 1) (x.param 18 1)).1 0) s

theorem exec_stageQuery (t : Nat) (q : Fin 64) (s : State) : exec (.stageQuery t q) s = .next (hostCommand t q 5 0 (some 0) (queryBody q) s) := rfl

theorem exec_stageCalsave (t : Nat) (q : Fin 64) (s : State) : exec (.stageCalsave t q) s = .next (hostCommand t q 5 7 (some 0) (calsaveBody q) s) := rfl

theorem stageQuery_completes (started : Started t q 5 0 (some 0) x c s) :
    StageCompletes (.stageQuery t q) q x 0 (Config.freeValue c.free % 2 ^ 64) 0 { s.at_ t with chip := { c with free := c.free + 1 } } s :=
  stageMakes_of (exec_stageQuery t q s) started fun v hv => by rw [queryBody, hv, stOK]

/-- What CHECK, COMMITW and RESTOREFAC do once they start. -/
def checkBody (q : Nat) (x : InDesc) (s : State) : State :=
  stageCtl q x (trapIf (s.chip.sstate = 3) 0x43) (fun s =>
    ({ s with chip := s.chip.runCheck.2 }).stageDone q x (if s.chip.runCheck.1 = 0 then 0 else 0x01) s.chip.runCheck.1 0) s

def commitwBody (q : Nat) (x : InDesc) (s : State) : State :=
  stageCtl q x (s.chip.commitTraps ++ trapIf (x.param 18 1 % 2 = 1 && s.chip.commitLate (x.param 24 8)) 0x42) (fun s =>
    ({ s with chip := (s.chip.commitw (x.param 24 8)).2 }).stageDone q x (if (s.chip.commitw (x.param 24 8)).1 = 2 then 0x01 else 0) (s.chip.commitw (x.param 24 8)).1 0) s

def restorefacBody (q : Nat) (x : InDesc) (s : State) : State :=
  stageCtl q x (trapIf (restoreBad (x.param 17 1) (x.param 20 2)) 0x50 ++ trapIf (s.chip.sstate = 3) 0x43)
    (fun s => ({ s with chip := s.chip.restoreFac (x.param 17 1) (x.param 20 2) }).stageDone q x 0 0 0) s

section
variable {v : State}

theorem checkBody_scheduled (h : v.chip.sstate = 3) : checkBody q x v = v.stageDone q x 3 0 0x43 :=
  stageCtl_trap (rest := []) _ _ (if_pos (decide_eq_true h)) (by decide) (by decide)

theorem checkBody_checks (h : v.chip.sstate ≠ 3) : checkBody q x v =
    ({ v with chip := v.chip.runCheck.2 }).stageDone q x (if v.chip.runCheck.1 = 0 then 0 else 1) v.chip.runCheck.1 0 :=
  stageCtl_pass _ _ (trapIf_eq_nil.2 (decide_eq_false h))

/-- The traps of a COMMITW: those of every commit, and STAGE_LATE for a strict one below the front horizon. -/
theorem commitwTraps_eq (c : Chip) (x : InDesc) : c.commitTraps ++ trapIf (x.param 18 1 % 2 = 1 && c.commitLate (x.param 24 8)) 0x42 =
    (if c.sstate = 1 then [0x41] else if c.sstate = 3 then [0x43] else []) ++ if x.param 18 1 % 2 = 1 ∧ c.commitLate (x.param 24 8) = true then [0x42] else [] := by
  rw [c.commitTraps_eq, trapIf]
  simp only [Bool.and_eq_true, decide_eq_true_eq]

theorem commitwBody_dirty (h : v.chip.sstate = 1) : commitwBody q x v = v.stageDone q x 2 0 0x41 := by
  have traps := commitwTraps_eq v.chip x
  rw [if_pos h] at traps
  by_cases late : x.param 18 1 % 2 = 1 ∧ v.chip.commitLate (x.param 24 8) = true
  · rw [if_pos late] at traps; exact stageCtl_trap _ _ traps (by decide) (by decide)
  · rw [if_neg late] at traps; exact stageCtl_trap _ _ traps (by decide) (by decide)

theorem commitwBody_late (h : v.chip.sstate ≠ 1) (late : x.param 18 1 % 2 = 1 ∧ v.chip.commitLate (x.param 24 8) = true) :
    commitwBody q x v = v.stageDone q x 4 0 0x42 := by
  have traps := commitwTraps_eq v.chip x
  rw [if_neg h, if_pos late] at traps
  by_cases sched : v.chip.sstate = 3
  · rw [if_pos sched] at traps; exact stageCtl_trap _ _ traps (by decide) (by decide)
  · rw [if_neg sched] at traps; exact stageCtl_trap _ _ traps (by decide) (by decide)

theorem commitwBody_scheduled (h : v.chip.sstate = 3) (early : ¬ (x.param 18 1 % 2 = 1 ∧ v.chip.commitLate (x.param 24 8) = true)) :
    commitwBody q x v = v.stageDone q x 3 0 0x43 := by
  have traps := commitwTraps_eq v.chip x
  rw [if_neg (by omega), if_pos h, if_neg early] at traps
  exact stageCtl_trap _ _ traps (by decide) (by decide)

theorem commitwBody_commits (h : v.chip.sstate ≠ 1) (h3 : v.chip.sstate ≠ 3)
    (early : ¬ (x.param 18 1 % 2 = 1 ∧ v.chip.commitLate (x.param 24 8) = true)) : commitwBody q x v =
    ({ v with chip := (v.chip.commitw (x.param 24 8)).2 }).stageDone q x (if (v.chip.commitw (x.param 24 8)).1 = 2 then 1 else 0) (v.chip.commitw (x.param 24 8)).1 0 := by
  have traps := commitwTraps_eq v.chip x
  rw [if_neg h, if_neg h3, if_neg early] at traps
  exact stageCtl_pass _ _ traps

theorem restorefacBody_scheduled (h : v.chip.sstate = 3) (ok : restoreBad (x.param 17 1) (x.param 20 2) = false) :
    restorefacBody q x v = v.stageDone q x 3 0 0x43 :=
  stageCtl_trap (rest := []) _ _ (by rw [ok, decide_eq_true h]; rfl) (by decide) (by decide)

theorem restorefacBody_bad (h : v.chip.sstate ≠ 3) (bad : restoreBad (x.param 17 1) (x.param 20 2) = true) :
    restorefacBody q x v = v.stageDone q x 8 0 0x50 :=
  stageCtl_trap (rest := []) _ _ (by rw [bad, decide_eq_false h]; rfl) (by decide) (by decide)

theorem restorefacBody_restores (h : v.chip.sstate ≠ 3) (ok : restoreBad (x.param 17 1) (x.param 20 2) = false) :
    restorefacBody q x v = ({ v with chip := v.chip.restoreFac (x.param 17 1) (x.param 20 2) }).stageDone q x 0 0 0 :=
  stageCtl_pass _ _ (by rw [ok, decide_eq_false h]; rfl)

end

variable (settled : s.chip.sstate ≠ 4)
include settled

theorem run_of_settled {e : Instr} {fn : Nat} {body : InDesc → State → State} (run : exec e s = .next (stageCommand t q fn body s)) :
    exec e s = .next (hostCommand t q 5 fn (some 0) body s) := run.trans (congrArg Host.Outcome.next (stageCommand_eq settled))

theorem stageCheck_completes (started : Started t q 5 1 (some 0) x c s) :
    (c.sstate = 3 → StageCompletes (.stageCheck t q) q x 3 0 0x43 { s.at_ t with chip := c } s) ∧
    (c.sstate ≠ 3 → StageCompletes (.stageCheck t q) q x (if (c.runCheck).1 = 0 then 0 else 1) (c.runCheck).1 0 { s.at_ t with chip := (c.runCheck).2 } s) := by
  have run := run_of_settled (t := t) (q := q) (e := .stageCheck t q) (body := checkBody q) settled rfl
  exact ⟨fun sched => stageEnds_of run started fun v hv => checkBody_scheduled (hv ▸ sched),
    fun open_ => stageMakes_of run started fun v hv => (checkBody_checks (hv ▸ open_)).trans (by rw [hv])⟩

theorem stageCommitw_completes (started : Started t q 5 2 (some 0) x c s) :
    let p := x.param 24 8
    let strict := x.param 18 1 % 2 = 1
    (c.sstate = 1 → StageCompletes (.stageCommitw t q) q x 2 0 0x41 { s.at_ t with chip := c } s) ∧
    (c.sstate = 3 → ¬ (strict ∧ c.commitLate p = true) → StageCompletes (.stageCommitw t q) q x 3 0 0x43 { s.at_ t with chip := c } s) ∧
    (c.sstate ≠ 1 → strict → c.commitLate p = true → StageCompletes (.stageCommitw t q) q x 4 0 0x42 { s.at_ t with chip := c } s) ∧
    (c.sstate ≠ 1 → c.sstate ≠ 3 → ¬ (strict ∧ c.commitLate p = true) →
      StageCompletes (.stageCommitw t q) q x (if (c.commitw p).1 = 2 then 1 else 0) (c.commitw p).1 0 { s.at_ t with chip := (c.commitw p).2 } s) := by
  intro p strict
  have run := run_of_settled (t := t) (q := q) (e := .stageCommitw t q) (body := commitwBody q) settled rfl
  exact ⟨fun dirty => stageEnds_of run started fun v hv => commitwBody_dirty (hv ▸ dirty),
    fun sched early => stageEnds_of run started fun v hv => commitwBody_scheduled (hv ▸ sched) (hv ▸ early),
    fun clean isStrict isLate => stageEnds_of run started fun v hv => commitwBody_late (hv ▸ clean) ⟨isStrict, hv ▸ isLate⟩,
    fun clean open_ early => stageMakes_of run started fun v hv => (commitwBody_commits (hv ▸ clean) (hv ▸ open_) (hv ▸ early)).trans (by rw [hv])⟩

theorem stageCommitt_completes (started : Started t q 5 3 (some 0) x c s) :
    (c.sstate = 1 → StageCompletes (.stageCommitt t q) q x 2 0 0x41 { s.at_ t with chip := c } s) ∧
    (c.sstate = 3 → StageCompletes (.stageCommitt t q) q x 3 0 0x43 { s.at_ t with chip := c } s) ∧
    (c.sstate ≠ 1 → c.sstate ≠ 3 → StageCompletes (.stageCommitt t q) q x 0 0 0 { s.at_ t with chip := c.committ (x.param 24 8) } s) := by
  have run := run_of_settled (t := t) (q := q) (e := .stageCommitt t q) (body := committBody q) settled rfl
  refine ⟨fun dirty => stageEnds_of run started fun v hv => stageCtl_trap (rest := []) (n := 0x41) _ _ ?_ (by decide) (by decide),
    fun sched => stageEnds_of run started fun v hv => stageCtl_trap (rest := []) (n := 0x43) _ _ ?_ (by decide) (by decide),
    fun clean open_ => stageMakes_of run started fun v hv => (stageCtl_pass _ _ ?_).trans (by rw [hv])⟩
  · exact hv ▸ c.commitTraps_eq.trans (if_pos dirty)
  · exact hv ▸ c.commitTraps_eq.trans ((if_neg (by omega)).trans (if_pos sched))
  · exact hv ▸ c.commitTraps_eq.trans ((if_neg clean).trans (if_neg open_))

theorem stageAbandon_completes (started : Started t q 5 4 (some 0) x c s) :
    StageCompletes (.stageAbandon t q) q x (if (c.abandon).1 = 1 then 5 else 0) (c.abandon).1 0 { s.at_ t with chip := (c.abandon).2 } s :=
  stageMakes_of (run_of_settled (e := .stageAbandon t q) (body := abandonBody q) settled rfl) started fun v hv => by rw [abandonBody, hv]

theorem stageRestorefac_completes (started : Started t q 5 6 (some 0) x c s) :
    let items := x.param 17 1
    let bars := x.param 20 2
    (c.sstate = 3 → restoreBad items bars = false → StageCompletes (.stageRestorefac t q) q x 3 0 0x43 { s.at_ t with chip := c } s) ∧
    (c.sstate ≠ 3 → restoreBad items bars = true → StageCompletes (.stageRestorefac t q) q x 8 0 0x50 { s.at_ t with chip := c } s) ∧
    (c.sstate ≠ 3 → restoreBad items bars = false →
      StageCompletes (.stageRestorefac t q) q x 0 0 0 { s.at_ t with chip := c.restoreFac items bars } s) := by
  intro items bars
  have run := run_of_settled (t := t) (q := q) (e := .stageRestorefac t q) (body := restorefacBody q) settled rfl
  exact ⟨fun sched ok => stageEnds_of run started fun v hv => restorefacBody_scheduled (hv ▸ sched) ok,
    fun open_ bad => stageEnds_of run started fun v hv => restorefacBody_bad (hv ▸ open_) bad,
    fun open_ ok => stageMakes_of run started fun v hv => (restorefacBody_restores (hv ▸ open_) ok).trans (by rw [hv])⟩

end

section
variable {t : Nat} {q : Fin 64} {x : InDesc} {c : Chip} {s : State}

theorem stageCalsave_completes (started : Started t q 5 7 (some 0) x c s) :
    let r := c.calSave (x.param 17 1) (x.param 18 1)
    (saveBad (x.param 17 1) (x.param 18 1) = true → StageCompletes (.stageCalsave t q) q x 8 0 0x50 { s.at_ t with chip := c } s) ∧
    (saveBad (x.param 17 1) (x.param 18 1) = false →
      StageCompletes (.stageCalsave t q) q x (if r.1 = 1 then 3 else if r.1 = 2 then 6 else 0) r.1 0 { s.at_ t with chip := r.2 } s) := by
  intro r
  have run := exec_stageCalsave t q s
  exact ⟨fun bad => stageEnds_of run started fun v hv => stageCtl_trap (rest := []) _ _ (if_pos bad) (by decide) (by decide),
    fun ok => stageMakes_of run started fun v hv => (stageCtl_pass _ _ (if_neg (by rw [ok]; decide))).trans (by rw [hv])⟩

end

section
variable {q : Nat} {x : InDesc} {v : State} {a : Alloc}

/-- What TLOAD does with its allocation once the region answers. -/
def tloadAt (q : Nat) (x : InDesc) (a : Alloc) (s : State) : State :=
  if !a.jobr || decide (a.size * 65536 < x.param 40 8 + 64) then s.stageDone q x 0x07 0 0x07
  else stageCtl q x (trapIf ((a.start + x.param 40 8) % 64 ≠ 0) 0x05 ++ trapIf (maskBad (x.param 17 1) (x.param 20 2)) 0x38 ++
      trapIf (s.chip.sstate = 3) 0x3B ++ imageTraps s (x.param 17 1) (a.start + x.param 40 8))
    (fun s => (loadTable (x.param 17 1) (x.param 20 2) (a.start + x.param 40 8) s).stageDone q x 0
      (imageTable s (x.param 17 1) (a.start + x.param 40 8)).version 0) s

def tloadBody (q : Nat) (x : InDesc) (s : State) : State :=
  if s.chip.testing 4 then s.done q x 0x15
  else match s.chip.store.find (x.param 32 4) with
    | none => s.stageDone q x 0x09 0 0
    | some a => tloadAt q x a s

theorem exec_stageTload (t : Nat) (q : Fin 64) (s : State) : exec (.stageTload t q) s = .next (stageCommand t q 5 (tloadBody q) s) := rfl

theorem tloadBody_found (h : v.chip.testing 4 = false) (found : v.chip.store.find (x.param 32 4) = some a) : tloadBody q x v = tloadAt q x a v := by
  rw [tloadBody, h, found]
  rfl

theorem tloadBody_stale (h : v.chip.testing 4 = false) (none : v.chip.store.find (x.param 32 4) = none) : tloadBody q x v = v.stageDone q x 9 0 0 := by
  rw [tloadBody, h, none]
  rfl

theorem tloadAt_denied (h : a.jobr = false) : tloadAt q x a v = v.stageDone q x 7 0 0x07 := if_pos (by rw [h]; rfl)

theorem tloadAt_loads (readable : a.jobr = true) (inside : x.param 40 8 + 64 ≤ a.size * 65536) (aligned : (a.start + x.param 40 8) % 64 = 0)
    (mask : maskBad (x.param 17 1) (x.param 20 2) = false) (open_ : v.chip.sstate ≠ 3) (image : imageTraps v (x.param 17 1) (a.start + x.param 40 8) = []) :
    tloadAt q x a v = (loadTable (x.param 17 1) (x.param 20 2) (a.start + x.param 40 8) v).stageDone q x 0
      (imageTable v (x.param 17 1) (a.start + x.param 40 8)).version 0 := by
  have admits : (!a.jobr || decide (a.size * 65536 < x.param 40 8 + 64)) ≠ true := by
    rw [readable, decide_eq_false (by omega : ¬ a.size * 65536 < x.param 40 8 + 64)]
    decide
  have traps : trapIf ((a.start + x.param 40 8) % 64 ≠ 0) 0x05 ++ trapIf (maskBad (x.param 17 1) (x.param 20 2)) 0x38 ++
      trapIf (v.chip.sstate = 3) 0x3B ++ imageTraps v (x.param 17 1) (a.start + x.param 40 8) = [] := by
    simp [trapIf, aligned, mask, open_, image]
  exact (if_neg admits).trans (stageCtl_pass _ _ traps)

end

theorem stageTload_completes {t : Nat} {q : Fin 64} {x : InDesc} {c : Chip} {s : State} (settled : s.chip.sstate ≠ 4) (started : Started t q 5 5 (some 0) x c s) :
    let ty := x.param 17 1
    let mask := x.param 20 2
    let only (d : Chip) : State := { s.at_ t with chip := d }
    (c.testing 4 = true → OnlyCompletes (.stageTload t q) t q x 0x15 [] c s) ∧
    (c.testing 4 = false → c.store.find (x.param 32 4) = none → StageCompletes (.stageTload t q) q x 9 0 0 (only c) s) ∧
    (∀ a, c.testing 4 = false → c.store.find (x.param 32 4) = some a → let j := a.start + x.param 40 8
      (a.jobr = false → StageCompletes (.stageTload t q) q x 7 0 0x07 (only c) s) ∧
      (a.jobr = true → x.param 40 8 + 64 ≤ a.size * 65536 → j % 64 = 0 → maskBad ty mask = false → c.sstate ≠ 3 →
        imageTraps (only c) ty j = [] →
        StageCompletes (.stageTload t q) q x 0 (imageTable (only c) ty j).version 0 (loadTable ty mask j (only c)) s)) := by
  intro ty mask only
  have run := run_of_settled settled (exec_stageTload t q s)
  refine ⟨fun tested => onlyCompletes_of run started fun v hv => if_pos (hv ▸ tested),
    fun idle none => stageEnds_of run started fun v hv => tloadBody_stale (hv ▸ idle) (hv ▸ none),
    fun a idle found => ⟨fun denied => stageEnds_of run started fun v hv => (tloadBody_found (hv ▸ idle) (hv ▸ found)).trans (tloadAt_denied denied),
      fun readable inside aligned good open_ image => ?_⟩⟩
  have loads := exec_body run started
  rw [tloadBody_found (v := only c) idle found, tloadAt_loads (v := only c) readable inside aligned good open_ image] at loads
  exact stageCompletes_iff.2 loads

/-- Settles O34: each function does what its body says, and a trap of the body is its completion with the lowest code. -/
theorem stageControlActsAsInstruction : Obligations.StageControlActsAsInstruction := by
  unfold Obligations.StageControlActsAsInstruction
  intro t q x c s only c1
  have waits {e : Instr} {fn : Nat} {body : InDesc → State → State} (run : exec e s = .next (stageCommand t q fn body s)) (settling : s.chip.sstate = 4)
      (head : (s.at_ t).chip.headIs q 5 fn = true) : exec e s = .next (s.at_ t) := run.trans (congrArg Host.Outcome.next (stageCommand_waits settling head))
  refine ⟨?_, fun started => ⟨_, stageQuery_completes started⟩, fun settled => ⟨stageCheck_completes settled, stageCommitw_completes settled,
    stageCommitt_completes settled, stageAbandon_completes settled, stageTload_completes settled, stageRestorefac_completes settled⟩, stageCalsave_completes⟩
  simp only [List.forall_mem_cons, List.not_mem_nil, false_implies, implies_true, and_true]
  exact ⟨waits rfl, waits rfl, waits rfl, waits rfl, waits rfl, waits rfl⟩

/-! ### LOAD_PROGRAM: what an image leaves in the chip -/

/-- A field that dispatch entry i takes from an image. -/
def Fld.ofImageEntry (i : Nat) (h : Fld) : Prop :=
  h.key = (SEQ_DISPA_EN i).key ∨ h.key = (SEQ_DISPA_PRIO i).key ∨ h.key = (SEQ_DISPA_ENTRY_PC i).key ∨ h.key = (SEQ_DISPB_CTX_MASK i).key

theorem not_ofImageEntry {i off lo w r : Nat} (h : ∀ a ∈ [(0x400 + 0x8 * i, 31), (0x400 + 0x8 * i, 19), (0x400 + 0x8 * i, 0), (0x404 + 0x8 * i, 0)],
    (0x10000 + off) * 128 + lo ≠ (0x10000 + a.1) * 128 + a.2) : ¬ (fld .seq 0 off lo w r).ofImageEntry i := by
  simp only [List.forall_mem_cons, List.not_mem_nil, false_implies, implies_true, and_true] at h
  obtain ⟨en, prio, pc, mask⟩ := h
  rintro (e | e | e | e)
  · exact en e
  · exact prio e
  · exact pc e
  · exact mask e

theorem Chip.leaves_setEntry (P : Fld → Prop) (c : Chip) (i : Nat) (x : DispEntry) : c.leaves P (c.setEntry i x) :=
  ⟨fun _ _ _ => rfl, fun _ _ _ => rfl, fun _ _ => rfl⟩

theorem Chip.leaves_loadEntry (img : List Byte) (c : Chip) (i : Nat) : c.leaves (fun h => ¬ h.ofImageEntry i) (Chip.loadEntry img c i) := by
  unfold Chip.loadEntry
  split
  · exact c.leaves_refl _
  · dsimp only
    have set (c : Chip) (f : Fld) (v : Nat) (hf : f.ofImageEntry i) : c.leaves (fun h => ¬ h.ofImageEntry i) (c.set f v) :=
      c.leaves_set f v fun h hh e => hh (by unfold Fld.ofImageEntry at hf ⊢; rwa [e])
    exact Chip.leaves_trans (Chip.leaves_trans (Chip.leaves_trans (Chip.leaves_trans (set c _ _ (.inl rfl)) (set _ _ _ (.inr (.inl rfl))))
      (set _ _ _ (.inr (.inr (.inl rfl))))) (set _ _ _ (.inr (.inr (.inr rfl))))) (Chip.leaves_setEntry ..)

/-- An entry that is not resident takes what the image says. -/
theorem Chip.loadEntry_facts (img : List Byte) (c : Chip) (i : Nat) (free : c.get (SEQ_DISPA_RES i) = 0) : let d := Chip.loadEntry img c i
    d.get (SEQ_DISPA_EN i) = (if imgF img 4 i ≠ 0 ∧ imgF img 5 i ≠ 0 then 1 else 0) ∧
    d.get (SEQ_DISPA_ENTRY_PC i) = (if imgF img 4 i ≠ 0 then imgF img 7 i else 0) % 2 ^ 19 ∧
    d.get (SEQ_DISPB_CTX_MASK i) = (if imgF img 4 i ≠ 0 then imgF img 8 i else 0) % 2 ^ 16 := by
  intro d
  have defines : imgDefines c img i = decide (imgF img 4 i ≠ 0) := by rw [imgDefines, Chip.is_eq_false_iff.2 free]; rfl
  have hd : d = Chip.loadEntry img c i := rfl
  rw [Chip.loadEntry, Chip.is_eq_false_iff.2 free, if_neg (by decide), defines] at hd
  rw [hd]
  refine ⟨?_, ?_, ?_⟩
  · refine (Chip.get_set_ne _ _ _ _ (seq_key_ne (by omega))).trans ((Chip.get_set_ne _ _ _ _ (seq_key_ne (by omega))).trans
      ((Chip.get_set_ne _ _ _ _ (seq_key_ne (by omega))).trans ((Chip.get_set_same ..).trans ?_)))
    by_cases on : imgF img 4 i = 0
    · simp [on, b2n, SEQ_DISPA_EN, fld]
    · by_cases en : imgF img 5 i = 0
      · simp [on, en, b2n, SEQ_DISPA_EN, fld]
      · simp [on, en, b2n, SEQ_DISPA_EN, fld]
  · refine (Chip.get_set_ne _ _ _ _ (seq_key_ne (by omega))).trans ((Chip.get_set_same ..).trans ?_)
    simp only [decide_eq_true_eq]
    rfl
  · refine (Chip.get_set_same ..).trans ?_
    simp only [decide_eq_true_eq]
    rfl

/-- What a field that only step i owns is after steps 0 to n − 1: what step i made of it. -/
theorem Chip.get_foldl_range {owns : Nat → Fld → Prop} (g : Chip → Nat → Chip) (hg : ∀ c i, Chip.leaves (fun h => ¬ owns i h) c (g c i)) (c : Chip)
    {h : Fld} {i : Nat} (own : ∀ j, j ≠ i → ¬ owns j h) {n : Nat} (hn : i < n) :
    ((List.range n).foldl g c).get h = (g ((List.range i).foldl g c) i).get h := by
  induction n with
  | zero => omega
  | succ n ih =>
    rw [List.range_succ, List.foldl_append]
    by_cases e : i = n
    · subst e; rfl
    · obtain ⟨-, -, hf⟩ := hg ((List.range n).foldl g c) n
      exact (hf h (own n (Ne.symm e))).trans (ih (by omega))

section
variable (img : List Byte) (c : Chip)

/-- The binding of queue i under an image. -/
def Chip.bindQueue (i : Nat) : Chip := c.set (SEQ_QBIND_CTX_MASK i) (imgF img 9 i)

/-- The chip with an image's bindings. -/
def Chip.bindQueues : Chip := c.forAll (List.range 64) (Chip.bindQueue img)

/-- The chip with an image's entry point and its number. -/
def Chip.nameImage : Chip :=
  let c : Chip := { c with seq := { c.seq with start := imgF img 1 0 } }
  (c.set SEQ_STAT_IMG_LOADED 1).set SEQ_IMGID_IMAGE_ID (imgF img 0 0)

/-- The chip with an image's dispatch entries. -/
def Chip.loadEntries : Chip := c.forAll (List.range 128) (Chip.loadEntry img)

/-- The program memory with an image's words in the user area. -/
def loadProg (img : List Byte) (m : FMap W64) : FMap W64 :=
  ((List.range (min 0x7C000 (imgF img 2 0))).map fun i => (i, BitVec.ofNat 64 (imgF img 3 i))).foldl (fun m e => FMap.put 0 m e.1 e.2)
    (FMap.keep (fun i => 0x7C000 ≤ i) m)

theorem loadImage_eq (v : State) : loadImage img v =
    { v with mem := { v.mem with prog := loadProg img v.mem.prog }, chip := ((v.chip.loadEntries img).bindQueues img).nameImage img } := by
  unfold loadImage loadProg Chip.nameImage Chip.bindQueues Chip.bindQueue Chip.loadEntries
  dsimp only [State.onChip]

end

/-- Words 0 to n − 1 put into a memory. -/
theorem FMap.get_puts {α : Type} [DecidableEq α] (z : α) (f : Nat → α) (m : FMap α) (n j : Nat) :
    FMap.get z (((List.range n).map fun i => (i, f i)).foldl (fun m e => FMap.put z m e.1 e.2) m) j = if j < n then f j else FMap.get z m j := by
  induction n with
  | zero => rfl
  | succ n ih =>
    rw [List.range_succ, List.map_append, List.foldl_append, List.map_singleton, List.foldl_cons, List.foldl_nil, FMap.get_put]
    by_cases e : j = n
    · rw [if_pos e, if_pos (by omega), e]
    · rw [if_neg e, ih]
      simp only [show j < n + 1 ↔ j < n by omega]

theorem get_loadProg (img : List Byte) (m : FMap W64) (i : Nat) : FMap.get 0 (loadProg img m) i =
    if 0x7C000 ≤ i then FMap.get 0 m i else if i < imgF img 2 0 then BitVec.ofNat 64 (imgF img 3 i) else 0 := by
  rw [loadProg, FMap.get_puts, FMap.get_keep]
  simp only [decide_eq_true_eq]
  by_cases user : 0x7C000 ≤ i
  · rw [if_pos user, if_neg (by omega), if_pos user]
  · rw [if_neg user, if_neg user]
    by_cases inside : i < imgF img 2 0
    · rw [if_pos inside, if_pos (by omega)]
    · rw [if_neg inside, if_neg (by omega)]

section
variable (img : List Byte) (c : Chip)

/-- A field of a dispatch entry. -/
def Fld.ofEntries (h : Fld) : Prop := (0x10000 + 0x400) * 128 ≤ h.key ∧ h.key < (0x10000 + 0x800) * 128

theorem Chip.leaves_bindQueues : c.leaves Fld.ofEntries (c.bindQueues img) :=
  Chip.leaves_foldl (Chip.bindQueue img) (fun c i => c.leaves_set _ _ fun h hh e => by
    obtain ⟨-, high⟩ := hh
    rw [e, show (SEQ_QBIND_CTX_MASK i).key = (0x10000 + (0x800 + 0x4 * i)) * 128 + 0 from rfl] at high
    omega) _ c

theorem Chip.leaves_nameImage : c.leaves Fld.ofEntries (c.nameImage img) := by
  have apart {f h : Fld} (hf : f.key < (0x10000 + 0x400) * 128) (hh : h.ofEntries) : h.key ≠ f.key := by
    obtain ⟨low, -⟩ := hh
    omega
  have start : c.leaves Fld.ofEntries { c with seq := { c.seq with start := imgF img 1 0 } } := ⟨fun _ _ _ => rfl, fun _ _ _ => rfl, fun _ _ => rfl⟩
  exact Chip.leaves_trans start (Chip.leaves_trans (Chip.leaves_set _ _ _ fun h hh => apart (by decide) hh) (Chip.leaves_set _ _ _ fun h hh => apart (by decide) hh))

theorem Chip.nameImage_facts : (c.nameImage img).seq.start = imgF img 1 0 ∧ (c.nameImage img).get SEQ_STAT_IMG_LOADED = 1 ∧
    (c.nameImage img).get SEQ_IMGID_IMAGE_ID = imgF img 0 0 % 2 ^ 32 :=
  ⟨rfl, (Chip.get_set_ne _ _ _ _ (by decide)).trans (Chip.get_set_same ..), Chip.get_set_same ..⟩

/-- What neither a register nor the sequencer holds. -/
def Chip.unsequenced (c : Chip) : Chip := { c with regs := [], seq := {} }

theorem Chip.loadEntry_unsequenced (i : Nat) : (Chip.loadEntry img c i).unsequenced = c.unsequenced := by
  unfold Chip.loadEntry
  split <;> rfl

theorem Chip.nameImage_unsequenced : (c.nameImage img).unsequenced = c.unsequenced := rfl

theorem Chip.loaded_unsequenced : (((c.loadEntries img).bindQueues img).nameImage img).unsequenced = c.unsequenced := by
  rw [Chip.nameImage_unsequenced, Chip.bindQueues,
    Chip.forAll_congr Chip.unsequenced (Chip.bindQueue img) (fun _ _ => rfl) (List.range 64) (c.loadEntries img)]
  exact Chip.forAll_congr Chip.unsequenced (Chip.loadEntry img) (fun c i => c.loadEntry_unsequenced img i) (List.range 128) c

/-- The fields of dispatch entry i once the entries are loaded. -/
theorem Chip.loadEntries_facts (i : Nat) (hi : i < 128) : let d := c.loadEntries img
    (c.get (SEQ_DISPA_RES i) = 0 → d.get (SEQ_DISPA_EN i) = (if imgF img 4 i ≠ 0 ∧ imgF img 5 i ≠ 0 then 1 else 0) ∧
      d.get (SEQ_DISPA_ENTRY_PC i) = (if imgF img 4 i ≠ 0 then imgF img 7 i else 0) % 2 ^ 19 ∧
      d.get (SEQ_DISPB_CTX_MASK i) = (if imgF img 4 i ≠ 0 then imgF img 8 i else 0) % 2 ^ 16) ∧
    (c.get (SEQ_DISPA_RES i) ≠ 0 → d.get (SEQ_DISPA_EN i) = c.get (SEQ_DISPA_EN i) ∧ d.get (SEQ_DISPA_ENTRY_PC i) = c.get (SEQ_DISPA_ENTRY_PC i) ∧
      d.get (SEQ_DISPB_CTX_MASK i) = c.get (SEQ_DISPB_CTX_MASK i)) := by
  intro d
  have at_ {off lo w r : Nat} (own : ∀ j, j ≠ i → ¬ (fld .seq 0 off lo w r).ofImageEntry j) :
      d.get (fld .seq 0 off lo w r) = (Chip.loadEntry img ((List.range i).foldl (Chip.loadEntry img) c) i).get (fld .seq 0 off lo w r) :=
    Chip.get_foldl_range (owns := Fld.ofImageEntry) (Chip.loadEntry img) (Chip.leaves_loadEntry img) c own hi
  have own {lo w r : Nat} (hlo : lo = 31 ∨ lo = 0) (j : Nat) (hj : j ≠ i) : ¬ (fld .seq 0 (0x400 + 0x8 * i) lo w r).ofImageEntry j :=
    not_ofImageEntry (by simp only [List.forall_mem_cons, List.not_mem_nil, false_implies, implies_true, and_true]; omega)
  have ownMask (j : Nat) (hj : j ≠ i) : ¬ (SEQ_DISPB_CTX_MASK i).ofImageEntry j :=
    not_ofImageEntry (by simp only [List.forall_mem_cons, List.not_mem_nil, false_implies, implies_true, and_true]; omega)
  have en := at_ (w := 1) (r := 0) (own (.inl rfl))
  have pc := at_ (w := 19) (r := 0) (own (.inr rfl))
  have mask := at_ ownMask
  have before {h : Fld} (hh : ∀ j, j < i → ¬ h.ofImageEntry j) : ((List.range i).foldl (Chip.loadEntry img) c).get h = c.get h := by
    obtain ⟨-, -, hf⟩ := Chip.leaves_foldl_mem (P := fun f => f = h) (xs := List.range i) (Chip.loadEntry img) (fun e j hj => by
      obtain ⟨kg, kw, kf⟩ := Chip.leaves_loadEntry img e j
      exact ⟨kg, kw, fun f hf => kf f (hf ▸ hh j (List.mem_range.1 hj))⟩) c
    exact hf h rfl
  have res : ((List.range i).foldl (Chip.loadEntry img) c).get (SEQ_DISPA_RES i) = c.get (SEQ_DISPA_RES i) :=
    before fun j _ => not_ofImageEntry (by simp only [List.forall_mem_cons, List.not_mem_nil, false_implies, implies_true, and_true]; omega)
  refine ⟨fun free => ?_, fun resident => ?_⟩
  · obtain ⟨hen, hpc, hmask⟩ := Chip.loadEntry_facts img _ i (res.trans free)
    exact ⟨en.trans hen, pc.trans hpc, mask.trans hmask⟩
  · have stays : Chip.loadEntry img ((List.range i).foldl (Chip.loadEntry img) c) i = (List.range i).foldl (Chip.loadEntry img) c :=
      if_pos (Chip.is_iff.2 (by rw [res]; exact resident))
    rw [stays] at en pc mask
    exact ⟨en.trans (before fun j hj => own (.inl rfl) j (by omega)), pc.trans (before fun j hj => own (.inr rfl) j (by omega)),
      mask.trans (before fun j hj => ownMask j (by omega))⟩

end

section
variable {q : Nat} {r : Ecc} {x : InDesc} {v : State} {a : Alloc}

/-- What LOAD_PROGRAM does with the bytes of an image once they are read. -/
def takeImage (q : Nat) (x : InDesc) (img : List Byte) (s : State) : State :=
  match loadFailure s.chip img with
  | some (k, i) => s.done q x 0x1B (le 1 k ++ le 1 i)
  | none => ((loadImage img s).onChip fun c => c.jrn .runctl [4, x.param 16 4, x.param 24 8]).done q x 0

/-- What LOAD_PROGRAM does with its allocation. -/
def loadFrom (q : Nat) (r : Ecc) (x : InDesc) (a : Alloc) (s : State) : State :=
  if !bit a.rd (s.chip.qTenant q) then s.done q x 0x05
  else if a.size * 65536 ≤ x.param 24 8 then s.done q x 0x13
  else if r = .uncorrectable then (s.onChip (·.jobStoreRead r)).done q x 0x0A
  else takeImage q x (imageAt s a (x.param 24 8)) (s.onChip (·.jobStoreRead r))

theorem loadBody_testing (h : v.chip.testing 4 = true) : loadBody q r x v = v.done q x 0x15 := if_pos h

theorem loadBody_busy (h : v.chip.testing 4 = false) (busy : v.chip.ctx0Idle = false ∨ ∃ n, n < 16 ∧ v.chip.ctxState (n + 1) ≠ IDLE) :
    loadBody q r x v = v.done q x 0x1B := by
  refine (if_neg (by rw [h]; decide)).trans (if_pos ?_)
  rcases busy with busy | ⟨n, hn, busy⟩
  · rw [busy]; rfl
  · rw [Bool.or_eq_true, List.any_eq_true]
    exact .inr ⟨n, List.mem_range.2 hn, decide_eq_true busy⟩

section
variable (h : v.chip.testing 4 = false) (idle : v.chip.ctx0Idle = true) (idles : ∀ n, n < 16 → v.chip.ctxState (n + 1) = IDLE)
include h idle idles

theorem loadBody_idle : loadBody q r x v = match v.chip.store.find (x.param 16 4) with
    | none => v.done q x 0x0B
    | some a => loadFrom q r x a v := by
  have free : ¬ (!v.chip.ctx0Idle || (List.range 16).any fun n => decide (v.chip.ctxState (n + 1) ≠ IDLE)) = true := by
    rw [idle, Bool.or_eq_true, List.any_eq_true]
    rintro (e | ⟨n, hn, busy⟩)
    · exact absurd e (by decide)
    · exact of_decide_eq_true busy (idles n (List.mem_range.1 hn))
  refine (if_neg (by rw [h]; decide)).trans ((if_neg free).trans ?_)
  cases v.chip.store.find (x.param 16 4) <;> rfl

theorem loadBody_stale (none : v.chip.store.find (x.param 16 4) = none) : loadBody q r x v = v.done q x 0x0B := by
  rw [loadBody_idle h idle idles, none]

theorem loadBody_found (found : v.chip.store.find (x.param 16 4) = some a) : loadBody q r x v = loadFrom q r x a v := by
  rw [loadBody_idle h idle idles, found]

end

theorem loadFrom_denied (denied : bit a.rd (v.chip.qTenant q) = false) : loadFrom q r x a v = v.done q x 0x05 := if_pos (by rw [denied]; rfl)

section
variable (readable : bit a.rd (v.chip.qTenant q) = true)
include readable

theorem loadFrom_beyond (beyond : a.size * 65536 ≤ x.param 24 8) : loadFrom q r x a v = v.done q x 0x13 :=
  (if_neg (by rw [readable]; decide)).trans (if_pos beyond)

variable (inside : x.param 24 8 < a.size * 65536)
include inside

theorem loadFrom_uncorrectable (bad : r = .uncorrectable) : loadFrom q r x a v = (v.onChip (·.jobStoreRead r)).done q x 0x0A :=
  (if_neg (by rw [readable]; decide)).trans ((if_neg (by omega)).trans (if_pos bad))

theorem loadFrom_read (ok : r ≠ .uncorrectable) : loadFrom q r x a v = takeImage q x (imageAt v a (x.param 24 8)) (v.onChip (·.jobStoreRead r)) :=
  (if_neg (by rw [readable]; decide)).trans ((if_neg (by omega)).trans (if_neg ok))

end

theorem takeImage_fails {img : List Byte} {k i : Nat} (bad : loadFailure v.chip img = some (k, i)) :
    takeImage q x img v = v.done q x 0x1B (le 1 k ++ le 1 i) := by rw [takeImage, bad]

theorem takeImage_loads {img : List Byte} (good : loadFailure v.chip img = none) :
    takeImage q x img v = ((loadImage img v).onChip fun c => c.jrn .runctl [4, x.param 16 4, x.param 24 8]).done q x 0 := by rw [takeImage, good]

end

theorem Chip.unsequenced_parts {c d : Chip} (h : d.unsequenced = c.unsequenced) : d.strm = c.strm ∧ d.stage = c.stage ∧ d.store = c.store :=
  ⟨(congrArg Chip.strm h :), (congrArg Chip.stage h :), (congrArg Chip.store h :)⟩

theorem Fld.ofEntries_fld {off lo w r : Nat} (low : 0x400 ≤ off) (high : off < 0x800) (hl : lo < 128) : (fld .seq 0 off lo w r).ofEntries := by
  show (0x10000 + 0x400) * 128 ≤ (0x10000 + off) * 128 + lo ∧ (0x10000 + off) * 128 + lo < (0x10000 + 0x800) * 128
  omega

/-- What an image leaves in the chip. -/
theorem Chip.loaded_facts (img : List Byte) (c : Chip) : let d := ((c.loadEntries img).bindQueues img).nameImage img
    (d.seq.start = imgF img 1 0 ∧ d.get SEQ_STAT_IMG_LOADED = 1 ∧ d.get SEQ_IMGID_IMAGE_ID = imgF img 0 0 % 2 ^ 32) ∧
    (∀ i, i < 128 → c.get (SEQ_DISPA_RES i) = 0 →
      d.get (SEQ_DISPA_EN i) = (if imgF img 4 i ≠ 0 ∧ imgF img 5 i ≠ 0 then 1 else 0) ∧
      d.get (SEQ_DISPA_ENTRY_PC i) = (if imgF img 4 i ≠ 0 then imgF img 7 i else 0) % 2 ^ 19 ∧
      d.get (SEQ_DISPB_CTX_MASK i) = (if imgF img 4 i ≠ 0 then imgF img 8 i else 0) % 2 ^ 16) ∧
    (∀ i, i < 128 → c.get (SEQ_DISPA_RES i) ≠ 0 → d.get (SEQ_DISPA_EN i) = c.get (SEQ_DISPA_EN i) ∧
      d.get (SEQ_DISPA_ENTRY_PC i) = c.get (SEQ_DISPA_ENTRY_PC i) ∧ d.get (SEQ_DISPB_CTX_MASK i) = c.get (SEQ_DISPB_CTX_MASK i)) ∧
    sameG c d ∧ sameW c d ∧ d.strm = c.strm ∧ d.stage = c.stage ∧ d.store = c.store := by
  intro d
  obtain ⟨g1, w1, -⟩ : c.leaves (fun _ => False) (c.loadEntries img) := Chip.leaves_foldl (Chip.loadEntry img) (fun c i => by
    obtain ⟨kg, kw, -⟩ := Chip.leaves_loadEntry img c i
    exact ⟨kg, kw, fun _ h => h.elim⟩) _ c
  have entries := c.loadEntries_facts img
  have parts := Chip.unsequenced_parts (c.loaded_unsequenced img)
  have named := ((c.loadEntries img).bindQueues img).nameImage_facts img
  obtain ⟨g2, w2, f2⟩ := Chip.leaves_trans ((c.loadEntries img).leaves_bindQueues img) (((c.loadEntries img).bindQueues img).leaves_nameImage img)
  rw [show ((c.loadEntries img).bindQueues img).nameImage img = d from rfl] at *
  clear_value d
  generalize c.loadEntries img = e at *
  have en (i : Nat) (hi : i < 128) := f2 (SEQ_DISPA_EN i) (Fld.ofEntries_fld (by omega) (by omega) (by omega))
  have pc (i : Nat) (hi : i < 128) := f2 (SEQ_DISPA_ENTRY_PC i) (Fld.ofEntries_fld (by omega) (by omega) (by omega))
  have mask (i : Nat) (hi : i < 128) := f2 (SEQ_DISPB_CTX_MASK i) (Fld.ofEntries_fld (by omega) (by omega) (by omega))
  refine ⟨named, fun i hi free => ?_, fun i hi resident => ?_, fun m i hi => (g2 m i hi).trans (g1 m i hi), fun m i hi => (w2 m i hi).trans (w1 m i hi), parts⟩
  · rw [en i hi, pc i hi, mask i hi]
    exact (entries i hi).1 free
  · rw [en i hi, pc i hi, mask i hi]
    exact (entries i hi).2 resident

theorem State.done_onChip (v : State) (g : Chip → Chip) (q : Nat) (x : InDesc) (st : Nat) (res : List Byte) :
    (v.onChip g).done q x st res = { v with chip := (g v.chip).complete q x.tag x.rx st res } := rfl

/-- The journalled load of an image completes. -/
theorem takeImage_state {q : Nat} {x : InDesc} {v : State} {img : List Byte} (good : loadFailure v.chip img = none) : takeImage q x img v =
    { v with
      mem := { v.mem with prog := loadProg img v.mem.prog }
      chip := ((((v.chip.loadEntries img).bindQueues img).nameImage img).jrn .runctl [4, x.param 16 4, x.param 24 8]).complete q x.tag x.rx 0 } := by
  rw [takeImage_loads good, State.done_onChip, loadImage_eq]

/-- Settles O33: each check refuses in its turn, and an image that passes them all is in force. -/
theorem loadProgramReplacesUserArea : Obligations.LoadProgramReplacesUserArea := by
  unfold Obligations.LoadProgramReplacesUserArea
  intro t q r x b s started c
  have run : exec (.loadProgram t ⟨q, r⟩) s = .next (hostCommand t q 4 0 (some 0) (loadBody q r) s) := rfl
  refine ⟨fun tested => onlyCompletes_of run started fun v hv => loadBody_testing (hv ▸ tested),
    fun calm busy => onlyCompletes_of run started fun v hv => loadBody_busy (hv ▸ calm) (.inl (hv ▸ busy)),
    fun n hn calm busy => onlyCompletes_of run started fun v hv => loadBody_busy (hv ▸ calm) (.inr ⟨n, hn, hv ▸ busy⟩), fun calm idle idles => ?_⟩
  have found {v : State} {a : Alloc} (hv : v.chip = b) (h : b.store.find (x.param 16 4) = some a) : loadBody q r x v = loadFrom q r x a v :=
    loadBody_found (hv ▸ calm) (hv ▸ idle) (hv ▸ idles) (hv ▸ h)
  refine ⟨fun none => onlyCompletes_of run started fun v hv => loadBody_stale (hv ▸ calm) (hv ▸ idle) (hv ▸ idles) (hv ▸ none),
    fun a h denied => onlyCompletes_of run started fun v hv => (found hv h).trans (loadFrom_denied (hv ▸ denied)),
    fun a h readable beyond => onlyCompletes_of run started fun v hv => (found hv h).trans (loadFrom_beyond (hv ▸ readable) beyond),
    fun a h readable inside bad => ?_, fun a h readable inside ok => ?_⟩
  · exact exec_started run started fun v hv => ((found hv h).trans (loadFrom_uncorrectable (hv ▸ readable) inside bad)).trans (by rw [State.done_onChip, hv])
  · obtain ⟨v, mem, pending, chip, back, -, read⟩ := exec_body_at run started
    rw [found chip h, loadFrom_read (by rw [chip]; exact readable) inside ok, imageAt, mem] at read
    generalize s.mem.job.read (a.start + x.param 24 8) (a.size * 65536 - x.param 24 8) = img at *
    refine ⟨fun k i bad => ?_, fun good => ?_⟩
    · rw [takeImage_fails (by rw [State.onChip_chip, chip]; exact bad), State.done_onChip, chip] at read
      exact read.trans (congrArg Host.Outcome.next (back _))
    rw [takeImage_state (by rw [State.onChip_chip, chip]; exact good), State.onChip_mem, State.onChip_chip, State.onChip_pending, chip, mem, pending] at read
    obtain ⟨⟨start, loaded, number⟩, entries, residents, g, w, parts⟩ := c.loaded_facts img
    have journalled := (((c.loadEntries img).bindQueues img).nameImage img).like_jrn .runctl [4, x.param 16 4, x.param 24 8] []
    have seq := (((c.loadEntries img).bindQueues img).nameImage img).jrn_seq .runctl [4, x.param 16 4, x.param 24 8] []
    obtain ⟨g', w', fields⟩ := (((c.loadEntries img).bindQueues img).nameImage img).leaves_jrn .runctl [4, x.param 16 4, x.param 24 8] []
    refine ⟨_, _, read, rfl, rfl, fun i user => (get_loadProg ..).trans (if_pos user), fun i user => (get_loadProg ..).trans (if_neg (Nat.not_le.2 user)), ?_⟩
    clear read
    generalize ((c.loadEntries img).bindQueues img).nameImage img = e at *
    generalize e.jrn .runctl [4, x.param 16 4, x.param 24 8] = d at *
    have field {off lo wd rs : Nat} (ho : off < 0x10000) (hl : lo < 128) := fields (fld .seq 0 off lo wd rs) (by simp only [TW_JSEQ_JSEQ, fld, Blk.base]; omega)
    have en (i : Nat) (hi : i < 128) : d.get (SEQ_DISPA_EN i) = e.get (SEQ_DISPA_EN i) := field (by omega) (by omega)
    have pc (i : Nat) (hi : i < 128) : d.get (SEQ_DISPA_ENTRY_PC i) = e.get (SEQ_DISPA_ENTRY_PC i) := field (by omega) (by omega)
    have mask (i : Nat) (hi : i < 128) : d.get (SEQ_DISPB_CTX_MASK i) = e.get (SEQ_DISPB_CTX_MASK i) := field (by omega) (by omega)
    refine ⟨by rw [seq, start], (field (by omega) (by omega)).trans loaded, (field (by omega) (by omega)).trans number, fun i hi free => ?_, fun i hi resident => ?_,
      fun m i hi => (g' m i hi).trans (g m i hi), fun m i hi => (w' m i hi).trans (w m i hi), (Chip.like_strm journalled).trans parts.1,
      (Chip.like_stage journalled).trans parts.2.1, (Chip.like_store journalled).trans parts.2.2⟩
    · rw [en i hi, pc i hi, mask i hi]
      exact entries i hi free
    · rw [en i hi, pc i hi, mask i hi]
      exact residents i hi resident

end Sys2Proof.Machine
end

section
/-!
PROOFS. The allocator (R113, R115 to R118) and the transfers of the job store (R134, R345).
-/
namespace Sys2Proof.Machine

/-! ### The lowest free run and the lowest free index -/

section
variable (st : Store) (n : Nat)

/-- A run of n granules from b lies in the area and overlaps no allocation. -/
theorem Store.runFree_iff (b : Nat) : st.runFree b n = true ↔ b + n ≤ 393216 ∧ ∀ x ∈ st.allocs, x.base + x.size ≤ b ∨ b + n ≤ x.base := by
  simp only [Store.runFree, Bool.and_eq_true, decide_eq_true_eq, List.all_eq_true, Bool.or_eq_true]
  rfl

/-- The greatest of the ends of allocations up to y. -/
theorem exists_start_below (xs : List Alloc) (y : Nat) : ∃ b ∈ 0 :: xs.map (fun x => x.base + x.size), b ≤ y ∧
    ∀ x ∈ xs, x.base + x.size ≤ y → x.base + x.size ≤ b := by
  induction xs with
  | nil => exact ⟨0, by simp, Nat.zero_le y, by simp⟩
  | cons a xs ih =>
    obtain ⟨b, mem, below, greatest⟩ := ih
    by_cases better : a.base + a.size ≤ y ∧ b ≤ a.base + a.size
    · refine ⟨a.base + a.size, by simp, better.1, fun x hx hy => ?_⟩
      rcases List.mem_cons.1 hx with rfl | hx
      · exact Nat.le_refl _
      · exact Nat.le_trans (greatest x hx hy) better.2
    · refine ⟨b, ?_, below, fun x hx hy => ?_⟩
      · rcases List.mem_cons.1 mem with h | h
        · rw [h]; exact List.mem_cons_self
        · exact List.mem_cons_of_mem _ (List.mem_cons_of_mem _ h)
      · rcases List.mem_cons.1 hx with rfl | hx
        · omega
        · exact greatest x hx hy

/-- Where a run fits, it fits from a start at or below: 0 or the end of an allocation. -/
theorem Store.exists_start_of_runFree {y : Nat} (free : st.runFree y n = true) : ∃ b ∈ st.starts.filter (st.runFree · n), b ≤ y := by
  obtain ⟨inside, apart⟩ := (st.runFree_iff n y).1 free
  obtain ⟨b, mem, below, greatest⟩ := exists_start_below st.allocs y
  refine ⟨b, List.mem_filter.2 ⟨mem, (st.runFree_iff n b).2 ⟨by omega, fun x hx => ?_⟩⟩, below⟩
  rcases apart x hx with h | h
  · exact .inl (greatest x hx h)
  · exact .inr (by omega)

theorem Store.place_eq_min : st.place n = (st.starts.filter (st.runFree · n)).min? := by
  unfold Store.place
  cases st.starts.filter (st.runFree · n) with
  | nil => rfl
  | cons x xs => exact List.min?_cons'.symm

theorem Store.freeIndex_eq_range' : st.freeIndex = (List.range' 1 65535).find? fun i => !st.allocs.any fun x => x.index = i := by
  rw [Store.freeIndex, List.range_eq_range', List.drop_range']

theorem Store.taken_iff (i : Nat) : (!st.allocs.any fun x => decide (x.index = i)) = true ↔ ∀ x ∈ st.allocs, x.index ≠ i := by simp

end

/-- Settles O38: the starts tried are 0 and the ends of allocations, and the least of those that fit is the least of all. -/
theorem lowestRunAndIndex : Obligations.LowestRunAndIndex := by
  unfold Obligations.LowestRunAndIndex
  intro st n free
  refine ⟨fun b placed => ?_, fun none y hy => ?_, fun i found => ?_, fun none j low high => ?_⟩
  · rw [st.place_eq_min n, List.min?_eq_some_iff] at placed
    obtain ⟨mem, least⟩ := placed
    refine ⟨(st.runFree_iff n b).1 (List.mem_filter.1 mem).2, fun y hy => ?_⟩
    obtain ⟨a, ha, below⟩ := st.exists_start_of_runFree n ((st.runFree_iff n y).2 hy)
    exact Nat.le_trans (least a ha) below
  · rw [st.place_eq_min n, List.min?_eq_none_iff] at none
    obtain ⟨a, ha, -⟩ := st.exists_start_of_runFree n ((st.runFree_iff n y).2 hy)
    rw [none] at ha
    exact absurd ha List.not_mem_nil
  · rw [st.freeIndex_eq_range', List.find?_range'_eq_some] at found
    obtain ⟨fits, range, least⟩ := found
    have bounds := List.mem_range'_1.1 range
    refine ⟨by omega, by omega, (st.taken_iff i).1 fits, fun j low high => ?_⟩
    simpa using least j low high
  · rw [st.freeIndex_eq_range', List.find?_range'_eq_none] at none
    simpa using none j low (by omega)

/-! ### Commands of the job store -/

section
variable {e : Instr} {t opc st : Nat} {q : Fin 64} {g : Option Nat} {body : InDesc → State → State} {s : State} {x : InDesc} {c d : Chip} {res : List Byte}

/-- A job store command that starts does what its body does. -/
theorem exec_storeBody (run : exec e s = .next (storeCommand t q opc g body s)) (h : StoreStarted t q opc g x c s) :
    exec e s = .next (body x { s.at_ t with chip := c }) := by
  obtain ⟨idle, d, started, on, hc⟩ := h
  rw [run, storeCommand_eq idle, hostCommand_started started]
  generalize s.at_ t = v
  by_cases b : d.get (QM_QCFG_CLASS q) = 1
  · rw [if_pos b] at hc
    refine congrArg Host.Outcome.next ?_
    dsimp only
    rw [if_pos b, hc]
    exact if_pos on
  · rw [if_neg b] at hc
    refine congrArg Host.Outcome.next ?_
    dsimp only
    rw [if_neg b, hc]
    exact if_pos on

/-- A job store command finds its state: the memories as they were, the chip at its time without its descriptor. -/
theorem exec_storeBody_at (run : exec e s = .next (storeCommand t q opc g body s)) (h : StoreStarted t q opc g x c s) :
    ∃ v : State, v.mem = s.mem ∧ v.chip = c ∧ (∀ d : Chip, { v with chip := d } = { s.at_ t with chip := d }) ∧
      (∀ (m : Mem) (d : Chip), { v with mem := m, chip := d } = { s.at_ t with mem := m, chip := d }) ∧ exec e s = .next (body x v) := by
  have mem := s.at_mem t
  have runs := exec_storeBody run h
  generalize s.at_ t = u at *
  exact ⟨{ u with chip := c }, mem, rfl, fun _ => rfl, fun _ _ => rfl, runs⟩

theorem exec_storeStarted (run : exec e s = .next (storeCommand t q opc g body s)) (h : StoreStarted t q opc g x c s)
    (does : ∀ v : State, v.chip = c → body x v = { v with chip := d }) : exec e s = .next { s.at_ t with chip := d } := by
  rw [exec_storeBody run h]
  generalize s.at_ t = v
  exact congrArg Host.Outcome.next (does { v with chip := c } rfl)

theorem onlyCompletes_of_store (run : exec e s = .next (storeCommand t q opc g body s)) (h : StoreStarted t q opc g x c s)
    (does : ∀ v : State, v.chip = c → body x v = v.done q x st res) : OnlyCompletes e t q x st res c s :=
  exec_storeStarted run h fun v hv => (does v hv).trans (by rw [← hv]; rfl)

end

/-- An allocation table written and noted in the journal. -/
theorem Chip.setStore_jrnAlloc (c : Chip) (st : Store) (a : Alloc) (live : Bool) : ((c.setStore st).jrnAlloc a live).store = st ∧
    sameFields [TW_JSEQ_JSEQ] c ((c.setStore st).jrnAlloc a live) ∧
    { (c.setStore st).jrnAlloc a live with regs := [], twin := {}, store := {} } = { c with regs := [], twin := {}, store := {} } := by
  refine ⟨Chip.like_store (Chip.like_jrn ..), fun h hh => Chip.jrn_get _ _ _ _ h (hh _ List.mem_cons_self), ?_⟩
  unfold Chip.jrnAlloc Chip.jrn
  split <;> rfl

theorem Chip.putAlloc_facts (c : Chip) (a : Alloc) : Reallocated a c (c.putAlloc a) ∧ (c.putAlloc a).store.lines = c.store.lines := by
  obtain ⟨store, fields, rest⟩ := c.setStore_jrnAlloc (c.store.update a) a true
  refine ⟨⟨?_, fields, rest, ?_⟩, ?_⟩ <;> (unfold Chip.putAlloc; rw [store]; rfl)

section
variable {q : Nat} {x : InDesc} {v : State} {a : Alloc}

theorem withOwned_stale (f : Alloc → State → State) (none : v.chip.store.find (x.param 16 4) = none) : withOwned q x v f = v.done q x 0x0B := by
  rw [withOwned, none]
  rfl

variable (found : v.chip.store.find (x.param 16 4) = some a)
include found

theorem withOwned_denied (f : Alloc → State → State) (denied : a.ownedBy (v.chip.qTenant q) = false) : withOwned q x v f = v.done q x 5 := by
  rw [withOwned, found]
  exact if_neg (by rw [denied]; decide)

theorem withOwned_owned (f : Alloc → State → State) (owned : a.ownedBy (v.chip.qTenant q) = true) : withOwned q x v f = f a v := by
  rw [withOwned, found]
  exact if_pos owned

end

/-! ### ALLOC -/

section
variable {q : Nat} {x : InDesc} {v : State}

/-- The quota of the queue's tenant does not hold n more granules. -/
def Chip.overQuota (c : Chip) (q n : Nat) : Prop := c.get (JS_QUOTA_QUOTA (c.qTenant q)) < c.store.used (fun y => y.owner = c.qTenant q) + n

theorem allocBody_format (h : 1 < x.param 20 1) : allocBody q x v = v.done q x 0x13 := if_pos h

variable (pin : x.param 20 1 ≤ 1)
include pin

theorem allocBody_range (h : x.param 16 4 = 0 ∨ 393216 < x.param 16 4) : allocBody q x v = v.done q x 6 := (if_neg (Nat.not_lt.2 pin)).trans (if_pos h)

variable (some_ : x.param 16 4 ≠ 0) (few : x.param 16 4 ≤ 393216)
include some_ few

theorem allocBody_quota (h : v.chip.overQuota q (x.param 16 4)) : allocBody q x v = v.done q x 8 :=
  (if_neg (Nat.not_lt.2 pin)).trans ((if_neg (by simp only [granules]; omega)).trans (if_pos h))

variable (quota : ¬ v.chip.overQuota q (x.param 16 4))
include quota

theorem allocBody_places : allocBody q x v = match v.chip.store.place (x.param 16 4), v.chip.store.freeIndex with
    | some b, some i =>
      let a : Alloc := { index := i, gen := FMap.get 0 v.chip.store.gens i, base := b, size := x.param 16 4, owner := v.chip.qTenant q,
                         rd := 2 ^ v.chip.qTenant q ||| 1, wr := 2 ^ v.chip.qTenant q ||| 1, pin := x.param 20 1 = 1 }
      (v.onChip fun c => (c.setStore { v.chip.store with allocs := v.chip.store.allocs ++ [a] }).jrnAlloc a true).done q x 0 (le 4 a.handle)
    | _, _ => v.done q x 1 :=
  (if_neg (Nat.not_lt.2 pin)).trans ((if_neg (by simp only [granules]; omega)).trans ((if_neg quota).trans rfl))

end

/-- ALLOC takes the lowest run and index, or is refused. -/
theorem alloc_acts (t : Nat) (q : Fin 64) (x : InDesc) (c : Chip) (s : State) (started : StoreStarted t q 0x100 none x c s) :
    let n := x.param 16 4
    let pin := x.param 20 1
    let own := c.qTenant q
    let st := c.store
    let full : Prop := c.get (JS_QUOTA_QUOTA own) < st.used (fun y => y.owner = own) + n
    (1 < pin → OnlyCompletes (.alloc t q) t q x 0x13 [] c s) ∧
    (pin ≤ 1 → n = 0 ∨ 393216 < n → OnlyCompletes (.alloc t q) t q x 6 [] c s) ∧
    (pin ≤ 1 → n ≠ 0 → n ≤ 393216 → full → OnlyCompletes (.alloc t q) t q x 8 [] c s) ∧
    (pin ≤ 1 → n ≠ 0 → n ≤ 393216 → ¬ full → st.place n = none ∨ st.freeIndex = none → OnlyCompletes (.alloc t q) t q x 1 [] c s) ∧
    (∀ b i, pin ≤ 1 → n ≠ 0 → n ≤ 393216 → ¬ full → st.place n = some b → st.freeIndex = some i →
      let m := 2 ^ own ||| 1
      let a : Alloc := { index := i, gen := FMap.get 0 st.gens i, base := b, size := n, owner := own, rd := m, wr := m, pin := pin = 1 }
      ∃ d, OnlyCompletes (.alloc t q) t q x 0 (le 4 a.handle) d s ∧ d.store = { st with allocs := st.allocs ++ [a] } ∧
        sameFields [TW_JSEQ_JSEQ] c d ∧ { d with regs := [], twin := {}, store := {} } = { c with regs := [], twin := {}, store := {} }) := by
  intro n pin own st full
  have run : exec (.alloc t q) s = .next (storeCommand t q 0x100 none (allocBody q) s) := rfl
  refine ⟨fun form => onlyCompletes_of_store run started fun v hv => allocBody_format form,
    fun low range => onlyCompletes_of_store run started fun v hv => allocBody_range low range,
    fun low some_ few quota => onlyCompletes_of_store run started fun v hv => allocBody_quota low some_ few (hv ▸ quota),
    fun low some_ few quota none => onlyCompletes_of_store run started fun v hv => ?_, fun b i low some_ few quota placed index => ?_⟩
  · rw [allocBody_places low some_ few (hv ▸ quota), hv]
    rcases none with h | h
    · rw [show c.store.place (x.param 16 4) = .none from h]
    · rw [show c.store.freeIndex = .none from h]
      cases c.store.place (x.param 16 4) <;> rfl
  · intro m a
    obtain ⟨store, fields, rest⟩ := c.setStore_jrnAlloc { st with allocs := st.allocs ++ [a] } a true
    refine ⟨_, exec_storeStarted run started fun v hv => ?_, store, fields, rest⟩
    rw [allocBody_places low some_ few (hv ▸ quota), hv, show c.store.place (x.param 16 4) = some b from placed, show c.store.freeIndex = some i from index]
    exact (State.done_onChip ..).trans (by rw [hv])

/-! ### FREE, SETRIGHTS, SEAL and UNSEAL -/

/-- What FREE does with an allocation that its tenant owns. -/
def freeOwned (q : Nat) (x : InDesc) (a : Alloc) (s : State) : State :=
  if s.chip.inUse a then s.done q x 7
  else (s.onChip fun c => (c.setStore (({ s.chip.store with
    allocs := s.chip.store.allocs.filter (fun y => y.index ≠ a.index)
    gens := FMap.put 0 s.chip.store.gens a.index ((a.gen + 1) % 4096) } : Store).dropCached a.handle)).jrnAlloc a false).done q x 0

/-- The allocation with the rights that SETRIGHTS gives it. -/
def newRights (x : InDesc) (a : Alloc) : Alloc :=
  { a with rd := x.param 20 1, wr := x.param 21 1, jobr := bit (x.param 22 1) 0, jobw := bit (x.param 22 1) 1, pin := bit (x.param 22 1) 2 }

def setrightsOwned (q : Nat) (x : InDesc) (a : Alloc) (s : State) : State :=
  if 8 ≤ x.param 22 1 then s.done q x 0x13
  else if a.jobr ∧ !bit (x.param 22 1) 0 ∧ s.chip.inUse a then s.done q x 7
  else if bit (x.param 22 1) 2 ∧ !a.pin ∧ a.isSealed ∧ a.tile ∧ pinFull s a then s.done q x 0x0D
  else (s.onChip (·.putAlloc (newRights x a))).done q x 0

def sealOwned (q : Nat) (x : InDesc) (a : Alloc) (s : State) : State :=
  if 1 < x.param 20 1 then s.done q x 0x13
  else if a.isSealed then s.done q x 5
  else if x.param 20 1 = 1 then (s.onChip (·.putAlloc { a with isSealed := true, tile := false })).done q x 0
  else submit q x { id := 0, op := .sealTile, src := a.handle } s

def unsealOwned (q : Nat) (x : InDesc) (a : Alloc) (s : State) : State :=
  if !a.isSealed then s.done q x 5
  else if s.chip.inUse a then s.done q x 7
  else (s.onChip fun c => (c.setStore (c.store.dropCached a.handle)).putAlloc { a with isSealed := false }).done q x 0

section
variable (t : Nat) (q : Fin 64) (s : State)

theorem exec_free : exec (.free t q) s = .next (storeCommand t q 0x101 none (fun x s => withOwned q x s (freeOwned q x)) s) := rfl

theorem exec_setrights : exec (.setrights t q) s = .next (storeCommand t q 0x102 none (fun x s => withOwned q x s (setrightsOwned q x)) s) := rfl

theorem exec_sealAlloc : exec (.sealAlloc t q) s = .next (storeCommand t q 0x103 none (fun x s => withOwned q x s (sealOwned q x)) s) := rfl

theorem exec_unsealAlloc : exec (.unsealAlloc t q) s = .next (storeCommand t q 0x104 none (fun x s => withOwned q x s (unsealOwned q x)) s) := rfl

end

section
variable {e : Instr} {t opc st : Nat} {q : Fin 64} {g : Option Nat} {f : InDesc → Alloc → State → State} {s : State} {x : InDesc} {c d : Chip} {res : List Byte}
variable (run : exec e s = .next (storeCommand t q opc g (fun x s => withOwned q x s (f x)) s)) (started : StoreStarted t q opc g x c s)
include run started

theorem owned_refusals : (c.store.find (x.param 16 4) = none → OnlyCompletes e t q x 0x0B [] c s) ∧
    (∀ a, c.store.find (x.param 16 4) = some a → a.ownedBy (c.qTenant q) = false → OnlyCompletes e t q x 5 [] c s) :=
  ⟨fun none => onlyCompletes_of_store run started fun _ hv => withOwned_stale _ (hv ▸ none),
    fun _ found denied => onlyCompletes_of_store run started fun _ hv => withOwned_denied (hv ▸ found) _ (hv ▸ denied)⟩

variable {a : Alloc} (found : c.store.find (x.param 16 4) = some a) (owned : a.ownedBy (c.qTenant q) = true)
include found owned

theorem exec_owned : exec e s = .next (f x a { s.at_ t with chip := c }) :=
  (exec_storeBody run started).trans (congrArg Host.Outcome.next (withOwned_owned (v := { s.at_ t with chip := c }) found _ owned))

theorem owned_completes (does : ∀ v : State, v = { s.at_ t with chip := c } → v.chip = c → f x a v = v.done q x st res) : OnlyCompletes e t q x st res c s := by
  rw [OnlyCompletes, exec_owned run started found owned, does _ rfl rfl]
  generalize s.at_ t = v
  rfl

theorem owned_changes {h : Chip → Chip} (does : ∀ v : State, v = { s.at_ t with chip := c } → v.chip = c → f x a v = (v.onChip h).done q x st res) :
    OnlyCompletes e t q x st res (h c) s := by
  rw [OnlyCompletes, exec_owned run started found owned, does _ rfl rfl]
  generalize s.at_ t = v
  rfl

end

section
variable {q : Nat} {x : InDesc} {v : State} {a : Alloc}

theorem freeOwned_inUse (h : v.chip.inUse a = true) : freeOwned q x a v = v.done q x 7 := if_pos h

theorem setrightsOwned_format (h : 8 ≤ x.param 22 1) : setrightsOwned q x a v = v.done q x 0x13 := if_pos h

section
variable (form : x.param 22 1 < 8)
include form

theorem setrightsOwned_inUse (h : a.jobr = true ∧ bit (x.param 22 1) 0 = false ∧ v.chip.inUse a = true) : setrightsOwned q x a v = v.done q x 7 :=
  (if_neg (by omega)).trans (if_pos ⟨h.1, by rw [h.2.1]; rfl, h.2.2⟩)

variable (kept : ¬ (a.jobr = true ∧ bit (x.param 22 1) 0 = false ∧ v.chip.inUse a = true))
include kept

theorem setrightsOwned_pinFull (h : bit (x.param 22 1) 2 = true ∧ a.pin = false ∧ a.isSealed = true ∧ a.tile = true ∧ pinFull v a = true) :
    setrightsOwned q x a v = v.done q x 0x0D :=
  (if_neg (by omega)).trans ((if_neg (by rw [Bool.not_eq_true']; exact kept)).trans (if_pos (by rw [Bool.not_eq_true']; exact h)))

theorem setrightsOwned_sets (h : ¬ (bit (x.param 22 1) 2 = true ∧ a.pin = false ∧ a.isSealed = true ∧ a.tile = true ∧ pinFull v a = true)) :
    setrightsOwned q x a v = (v.onChip (·.putAlloc (newRights x a))).done q x 0 :=
  (if_neg (by omega)).trans ((if_neg (by rw [Bool.not_eq_true']; exact kept)).trans (if_neg (by rw [Bool.not_eq_true']; exact h)))

end

theorem sealOwned_format (h : 1 < x.param 20 1) : sealOwned q x a v = v.done q x 0x13 := if_pos h

theorem sealOwned_sealed (form : x.param 20 1 ≤ 1) (h : a.isSealed = true) : sealOwned q x a v = v.done q x 5 := (if_neg (by omega)).trans (if_pos h)

section
variable (unsealed : a.isSealed = false)
include unsealed

theorem sealOwned_data (h : x.param 20 1 = 1) : sealOwned q x a v = (v.onChip (·.putAlloc { a with isSealed := true, tile := false })).done q x 0 :=
  (if_neg (by omega)).trans ((if_neg (by rw [unsealed]; decide)).trans (if_pos h))

theorem sealOwned_tile (h : x.param 20 1 = 0) : sealOwned q x a v = submit q x { id := 0, op := .sealTile, src := a.handle } v :=
  (if_neg (by omega)).trans ((if_neg (by rw [unsealed]; decide)).trans (if_neg (by omega)))

end

theorem submit_full {j : CodecJob} (h : 256 ≤ v.chip.store.waiting.length) : submit q x j v = v.done q x 9 := if_pos h

/-- A job that joins the queue. -/
theorem submit_joins {j : CodecJob} (h : v.chip.store.waiting.length < 256) : submit q x j v = v.onChip fun c => { c with store := { v.chip.store with
    jobs := v.chip.store.jobs ++ [{ j with id := v.chip.store.nextJob, queue := q, tag := x.tag, rx := x.rx, tenant := v.chip.qTenant q }]
    nextJob := v.chip.store.nextJob + 1 } } := if_neg (Nat.not_le.2 h)

theorem unsealOwned_unsealed (h : a.isSealed = false) : unsealOwned q x a v = v.done q x 5 := if_pos (by rw [h]; rfl)

theorem unsealOwned_inUse (sealed : a.isSealed = true) (h : v.chip.inUse a = true) : unsealOwned q x a v = v.done q x 7 :=
  (if_neg (by rw [sealed]; decide)).trans (if_pos h)

theorem unsealOwned_unseals (sealed : a.isSealed = true) (h : v.chip.inUse a = false) : unsealOwned q x a v =
    (v.onChip fun c => (c.setStore (c.store.dropCached a.handle)).putAlloc { a with isSealed := false }).done q x 0 :=
  (if_neg (by rw [sealed]; decide)).trans (if_neg (by rw [h]; decide))

end

/-- Settles O37: the checks come in their order, and what passes them writes the allocation table. -/
theorem allocatorCommands : Obligations.AllocatorCommands := by
  unfold Obligations.AllocatorCommands
  refine ⟨alloc_acts, fun t q x c s => ?_, fun t q x c s a found owned => ⟨fun started => ?_, fun started => ?_, fun started => ?_, fun started => ?_⟩⟩
  · simp only [List.forall_mem_cons, List.not_mem_nil, false_implies, implies_true, and_true]
    exact ⟨owned_refusals (exec_free t q s), owned_refusals (exec_setrights t q s), owned_refusals (exec_sealAlloc t q s), owned_refusals (exec_unsealAlloc t q s)⟩
  · have run := exec_free t q s
    refine ⟨fun used => owned_completes run started found owned fun v _ hv => freeOwned_inUse (hv ▸ used), fun unused => ?_⟩
    obtain ⟨store, fields, rest⟩ := c.setStore_jrnAlloc (({ c.store with
      allocs := c.store.allocs.filter (fun y => y.index ≠ a.index)
      gens := FMap.put 0 c.store.gens a.index ((a.gen + 1) % 4096) } : Store).dropCached a.handle) a false
    refine ⟨_, owned_changes run started found owned (h := fun e => (e.setStore (({ c.store with
      allocs := c.store.allocs.filter (fun y => y.index ≠ a.index)
      gens := FMap.put 0 c.store.gens a.index ((a.gen + 1) % 4096) } : Store).dropCached a.handle)).jrnAlloc a false)
      fun v _ hv => (if_neg (by rw [hv, unused]; decide)).trans (by rw [hv]), ?_, ?_, ?_, ?_, fields, rest⟩
    · rw [store]; rfl
    · rw [store]; exact FMap.get_put_same ..
    · rw [store]; rfl
    · rw [store]; rfl
  · have run := exec_setrights t q s
    intro fl new taken full
    exact ⟨fun form => owned_completes run started found owned fun v _ hv => setrightsOwned_format form,
      fun form used => owned_completes run started found owned fun v _ hv => setrightsOwned_inUse form (hv ▸ used),
      fun form unused room => owned_completes run started found owned fun v eq hv => setrightsOwned_pinFull form (hv ▸ unused) (eq ▸ room),
      fun form unused room => ⟨_, owned_changes run started found owned fun v eq hv => setrightsOwned_sets form (hv ▸ unused) (eq ▸ room), c.putAlloc_facts _⟩⟩
  · have run := exec_sealAlloc t q s
    intro kind
    refine ⟨fun form => owned_completes run started found owned fun v _ hv => sealOwned_format form,
      fun form sealed => owned_completes run started found owned fun v _ hv => sealOwned_sealed form sealed,
      fun data unsealed => ⟨_, owned_changes run started found owned fun v _ hv => sealOwned_data unsealed data, c.putAlloc_facts _⟩,
      fun tile unsealed full => owned_completes run started found owned fun v _ hv => (sealOwned_tile unsealed tile).trans (submit_full (hv ▸ full)),
      fun tile unsealed room => ?_⟩
    rw [exec_owned run started found owned, sealOwned_tile unsealed tile]
    generalize s.at_ t = v
    rw [submit_joins (v := { v with chip := c }) room, State.onChip]
  · have run := exec_unsealAlloc t q s
    refine ⟨fun unsealed => owned_completes run started found owned fun v _ hv => unsealOwned_unsealed unsealed,
      fun sealed used => owned_completes run started found owned fun v _ hv => unsealOwned_inUse sealed (hv ▸ used), fun sealed unused => ?_⟩
    obtain ⟨⟨allocs, fields, rest, others⟩, lines⟩ := (c.setStore (c.store.dropCached a.handle)).putAlloc_facts { a with isSealed := false }
    exact ⟨_, owned_changes run started found owned fun v _ hv => unsealOwned_unseals sealed (hv ▸ unused), ⟨allocs, fields, rest, others⟩, lines⟩

/-! ### WRITE and READ -/

section
variable {q : Nat} {x : InDesc} {v : State} {f : Alloc → State → State} {a : Alloc}

theorem withRange_stale (write : Bool) (none : v.chip.store.find (x.param 16 4) = none) : withRange q x v write f = v.done q x 0x0B := by
  rw [withRange, none]
  rfl

/-- The allocation denies the tenant a transfer. -/
def Alloc.denies (a : Alloc) (write : Bool) (t : Nat) : Bool := if write then !bit a.wr t || a.isSealed else !bit a.rd t

variable {write : Bool} (found : v.chip.store.find (x.param 16 4) = some a)
include found

theorem withRange_denied (h : a.denies write (v.chip.qTenant q) = true) : withRange q x v write f = v.done q x 5 := by
  rw [withRange, found]
  exact if_pos h

variable (admits : a.denies write (v.chip.qTenant q) = false)
include admits

theorem withRange_beyond (h : a.size * 65536 < x.param 24 8 + x.param 32 4) : withRange q x v write f = v.done q x 6 := by
  rw [withRange, found]
  exact (if_neg (by rw [show (if write = true then _ else _) = _ from admits]; decide)).trans (if_pos h)

theorem withRange_inside (h : x.param 24 8 + x.param 32 4 ≤ a.size * 65536) : withRange q x v write f = f a v := by
  rw [withRange, found]
  exact (if_neg (by rw [show (if write = true then _ else _) = _ from admits]; decide)).trans (if_neg (Nat.not_lt.2 h))

end

theorem Alloc.denies_write (a : Alloc) (t : Nat) : a.denies true t = true ↔ bit a.wr t = false ∨ a.isSealed = true := by simp [Alloc.denies]

theorem Alloc.admits_write (a : Alloc) {t : Nat} (writable : bit a.wr t = true) (unsealed : a.isSealed = false) : a.denies true t = false := by
  simp [Alloc.denies, writable, unsealed]

theorem Alloc.denies_read (a : Alloc) (t : Nat) : a.denies false t = !bit a.rd t := rfl

/-- What WRITE does with its allocation. -/
def writeTo (q : Nat) (host : List Byte) (x : InDesc) (a : Alloc) (s : State) : State :=
  let s := if x.bulk then s else s.onChip fun c => c.emit .pcieFetch (c.qTenant q) [q, x.param 40 8, x.param 32 4]
  (storeJ s (a.start + x.param 24 8) (fit (x.param 32 4) (if x.bulk then x.data else host))).done q x 0 (le 4 (x.param 32 4))

/-- The operands of WRITE do not fit its queue. -/
def writeMisfits (x : InDesc) : Prop := if x.bulk = true then x.param 40 8 ≠ 0 ∨ x.data.length ≠ 64 * ceilDiv (x.param 32 4) 64 else x.param 40 8 = 0

section
variable {q : Nat} {host : List Byte} {x : InDesc} {v : State}

theorem writeMisfits_iff : (if x.bulk then x.param 40 8 ≠ 0 || decide (x.data.length ≠ 64 * ceilDiv (x.param 32 4) 64) else x.param 40 8 = 0) = true ↔ writeMisfits x := by
  unfold writeMisfits
  cases x.bulk <;> simp

theorem writeBody_format (h : writeMisfits x) : writeBody q host x v = v.done q x 0x13 := if_pos (writeMisfits_iff.2 h)

theorem writeBody_fits (h : ¬ writeMisfits x) : writeBody q host x v = withRange q x v true (writeTo q host x) :=
  (if_neg fun e => h (writeMisfits_iff.1 e)).trans rfl

/-- What a journal entry leaves as it was. -/
def Chip.untwinned (c : Chip) : Chip := { c with regs := [], twin := {} }

theorem Chip.untwinned_jrn (c : Chip) (k : JKind) (as : List Nat) (bs : List Byte) : (c.jrn k as bs).untwinned = c.untwinned := by
  unfold Chip.jrn
  split <;> rfl

/-- The chip of a WRITE that stores, before its completion. -/
def Chip.writes (c : Chip) (q : Nat) (x : InDesc) (a : Nat) (bs : List Byte) : Chip :=
  (if x.bulk then c else c.emit .pcieFetch (c.qTenant q) [q, x.param 40 8, x.param 32 4]).jrn .jwrite [a] bs

theorem writeTo_eq (a : Alloc) : writeTo q host x a v = { v with
    mem := { v.mem with job := v.mem.job.write (a.start + x.param 24 8) (fit (x.param 32 4) (if x.bulk then x.data else host)) }
    chip := (v.chip.writes q x (a.start + x.param 24 8) (fit (x.param 32 4) (if x.bulk then x.data else host))).complete q x.tag x.rx 0 (le 4 (x.param 32 4)) } := by
  unfold writeTo Chip.writes
  cases x.bulk <;> rfl

theorem Chip.writes_facts (c : Chip) (a : Nat) (bs : List Byte) : sameFields [TW_JSEQ_JSEQ] c (c.writes q x a bs) ∧
    { c.writes q x a bs with regs := [], twin := {}, wire := [] } = { c with regs := [], twin := {}, wire := [] } := by
  unfold Chip.writes
  refine ⟨fun h hh => (Chip.jrn_get _ _ _ _ h (hh _ List.mem_cons_self)).trans ?_, ?_⟩
  · split <;> rfl
  · refine (congrArg (fun d : Chip => { d with wire := [] }) (Chip.untwinned_jrn _ .jwrite [a] bs) : _).trans ?_
    cases x.bulk <;> rfl

end

theorem write_acts (t : Nat) (q : Fin 64) (host : List Byte) (x : InDesc) (c : Chip) (s : State) (started : StoreStarted t q 0x105 none x c s) :
    let len := x.param 32 4
    let off := x.param 24 8
    let addr := x.param 40 8
    let bad : Prop := if x.bulk = true then addr ≠ 0 ∨ x.data.length ≠ 64 * ceilDiv len 64 else addr = 0
    (bad → OnlyCompletes (.write t q host) t q x 0x13 [] c s) ∧
    (¬ bad → c.store.find (x.param 16 4) = none → OnlyCompletes (.write t q host) t q x 0x0B [] c s) ∧
    (∀ a, ¬ bad → c.store.find (x.param 16 4) = some a →
      (bit a.wr (c.qTenant q) = false ∨ a.isSealed = true → OnlyCompletes (.write t q host) t q x 5 [] c s) ∧
      (bit a.wr (c.qTenant q) = true → a.isSealed = false → a.size * 65536 < off + len → OnlyCompletes (.write t q host) t q x 6 [] c s) ∧
      (bit a.wr (c.qTenant q) = true → a.isSealed = false → off + len ≤ a.size * 65536 →
        ∃ (d : Chip) (m : Mem), exec (.write t q host) s = .next { s.at_ t with mem := m, chip := d.complete q x.tag x.rx 0 (le 4 len) } ∧
          Stored s.mem.job m.job (a.start + off) (fit len (if x.bulk then x.data else host)) ∧ m.data = s.mem.data ∧ m.prog = s.mem.prog ∧
          sameFields [TW_JSEQ_JSEQ] c d ∧ { d with regs := [], twin := {}, wire := [] } = { c with regs := [], twin := {}, wire := [] })) := by
  intro len off addr bad
  have run : exec (.write t q host) s = .next (storeCommand t q 0x105 none (writeBody q host) s) := rfl
  refine ⟨fun h => onlyCompletes_of_store run started fun _ _ => writeBody_format h,
    fun h none => onlyCompletes_of_store run started fun _ hv => (writeBody_fits h).trans (withRange_stale true (hv ▸ none)),
    fun a h found => ⟨fun denied => onlyCompletes_of_store run started fun _ hv =>
      (writeBody_fits h).trans (withRange_denied (hv ▸ found) ((a.denies_write _).2 (hv ▸ denied))),
    fun writable unsealed beyond => onlyCompletes_of_store run started fun _ hv =>
      (writeBody_fits h).trans (withRange_beyond (hv ▸ found) (hv ▸ a.admits_write writable unsealed) beyond), fun writable unsealed inside => ?_⟩⟩
  obtain ⟨v, mem, chip, -, back, wrote⟩ := exec_storeBody_at run started
  rw [writeBody_fits h, withRange_inside (chip ▸ found) (chip ▸ a.admits_write writable unsealed) inside, writeTo_eq, mem, chip] at wrote
  obtain ⟨fields, rest⟩ := c.writes_facts (q := q) (x := x) (a.start + off) (fit len (if x.bulk then x.data else host))
  exact ⟨_, _, wrote.trans (congrArg Host.Outcome.next (back _ _)), stored_write _ _ _, rfl, rfl, fields, rest⟩

/-- What READ does with its allocation once the bytes are read. -/
def sendBytes (q : Nat) (x : InDesc) (bs : List Byte) (s : State) : State :=
  (s.onChip fun c =>
    if x.param 40 8 ≠ 0 then c.emit .pcieData (c.qTenant q) [q, x.param 40 8] bs
    else c.forAll (List.range (ceilDiv (x.param 32 4) (max 64 (c.bulkRoom q)))) fun e i =>
      e.sendData q x.tag (x.param 24 8 + max 64 (c.bulkRoom q) * i) ((bs.drop (max 64 (c.bulkRoom q) * i)).take (max 64 (c.bulkRoom q)))).done q x 0 (le 4 (x.param 32 4))

/-- What READ does with its allocation. -/
def readFrom (q : Nat) (r : Ecc) (x : InDesc) (a : Alloc) (s : State) : State :=
  if r = .uncorrectable then (s.onChip (·.jobStoreRead r)).done q x 0x0A
  else sendBytes q x (s.mem.job.read (a.start + x.param 24 8) (x.param 32 4)) (s.onChip (·.jobStoreRead r))

section
variable {q : Nat} {r : Ecc} {x : InDesc} {v : State}

theorem readBody_format (h : x.param 40 8 = 0 ∧ v.chip.is (QM_QCFG_VIA q) = true) : readBody q r x v = v.done q x 0x13 := if_pos h

theorem readBody_fits (h : ¬ (x.param 40 8 = 0 ∧ v.chip.is (QM_QCFG_VIA q) = true)) : readBody q r x v = withRange q x v false (readFrom q r x) := (if_neg h).trans rfl

theorem readFrom_uncorrectable (a : Alloc) (bad : r = .uncorrectable) : readFrom q r x a v = (v.onChip (·.jobStoreRead r)).done q x 0x0A := if_pos bad

theorem readFrom_read (a : Alloc) (ok : r ≠ .uncorrectable) :
    readFrom q r x a v = sendBytes q x (v.mem.job.read (a.start + x.param 24 8) (x.param 32 4)) (v.onChip (·.jobStoreRead r)) := if_neg ok

end

theorem read_acts (t : Nat) (q : Fin 64) (r : Ecc) (x : InDesc) (c : Chip) (s : State) (started : StoreStarted t q 0x106 none x c s) :
    let len := x.param 32 4
    let off := x.param 24 8
    let addr := x.param 40 8
    let pcie := c.is (QM_QCFG_VIA q)
    let bad : Prop := addr = 0 ∧ pcie = true
    (bad → OnlyCompletes (.read t q r) t q x 0x13 [] c s) ∧
    (¬ bad → c.store.find (x.param 16 4) = none → OnlyCompletes (.read t q r) t q x 0x0B [] c s) ∧
    (∀ a, ¬ bad → c.store.find (x.param 16 4) = some a →
      (bit a.rd (c.qTenant q) = false → OnlyCompletes (.read t q r) t q x 5 [] c s) ∧
      (bit a.rd (c.qTenant q) = true → a.size * 65536 < off + len → OnlyCompletes (.read t q r) t q x 6 [] c s) ∧
      (bit a.rd (c.qTenant q) = true → off + len ≤ a.size * 65536 →
        let d := c.jobStoreRead r
        let bs := s.mem.job.read (a.start + off) len
        let room := max 64 (d.bulkRoom q)
        (r = .uncorrectable → OnlyCompletes (.read t q r) t q x 0x0A [] d s) ∧
        (r ≠ .uncorrectable → addr ≠ 0 → OnlyCompletes (.read t q r) t q x 0 (le 4 len) (d.emit .pcieData (d.qTenant q) [q, addr] bs) s) ∧
        (r ≠ .uncorrectable → addr = 0 → OnlyCompletes (.read t q r) t q x 0 (le 4 len)
          (d.forAll (List.range (ceilDiv len room)) fun e i => e.sendData q x.tag (off + room * i) ((bs.drop (room * i)).take room)) s))) := by
  intro len off addr pcie bad
  have run : exec (.read t q r) s = .next (storeCommand t q 0x106 none (readBody q r) s) := rfl
  refine ⟨fun h => onlyCompletes_of_store run started fun _ hv => readBody_format (hv ▸ h),
    fun h none => onlyCompletes_of_store run started fun _ hv => (readBody_fits (hv ▸ h)).trans (withRange_stale false (hv ▸ none)),
    fun a h found => ⟨fun denied => onlyCompletes_of_store run started fun _ hv =>
      (readBody_fits (hv ▸ h)).trans (withRange_denied (hv ▸ found) (by rw [hv, a.denies_read, denied]; rfl)), fun readable beyond => ?_, fun readable inside => ?_⟩⟩
  · exact onlyCompletes_of_store run started fun _ hv => (readBody_fits (hv ▸ h)).trans
      (withRange_beyond (hv ▸ found) (by rw [hv, a.denies_read, readable]; rfl) beyond)
  · intro d bs room
    obtain ⟨v, mem, chip, back, -, reads⟩ := exec_storeBody_at run started
    rw [readBody_fits (chip ▸ h), withRange_inside (chip ▸ found) (by rw [chip, a.denies_read, readable]; rfl) inside] at reads
    refine ⟨fun lost => ?_, fun ok host => ?_, fun ok frames => ?_⟩
    · rw [readFrom_uncorrectable a lost, State.done_onChip, chip] at reads
      exact reads.trans (congrArg Host.Outcome.next (back _))
    · rw [readFrom_read a ok, mem, sendBytes, State.done_onChip, State.onChip_chip, chip] at reads
      exact reads.trans (congrArg Host.Outcome.next ((back _).trans (by rw [if_pos host])))
    · rw [readFrom_read a ok, mem, sendBytes, State.done_onChip, State.onChip_chip, chip] at reads
      exact reads.trans (congrArg Host.Outcome.next ((back _).trans (by rw [if_neg (Classical.not_not.2 frames)])))

/-! ### COMPRESS and DECOMPRESS -/

/-- The kind of stream does not fit the operation. -/
def codecMisfits (op : CodecOp) (x : InDesc) : Prop := op = .compress ∧ x.param 48 1 = 1 ∨ 2 < x.param 48 1

/-- The allocations allow a codec job of tenant t. -/
def codecAllowed (t : Nat) (a b : Alloc) : Prop := bit a.rd t = true ∧ bit b.wr t = true ∧ b.isSealed = false

/-- Source and destination lie in their allocations, at multiples of 64. -/
def codecInside (x : InDesc) (a b : Alloc) : Prop :=
  x.param 24 8 % 64 = 0 ∧ x.param 32 8 % 64 = 0 ∧ x.param 24 8 + x.param 40 4 ≤ a.size * 65536 ∧ x.param 32 8 + x.param 44 4 ≤ b.size * 65536

/-- The job that COMPRESS and DECOMPRESS submit. -/
def codecJob (op : CodecOp) (x : InDesc) (a b : Alloc) : CodecJob :=
  { id := 0, op := op, src := a.handle, dst := b.handle, soff := x.param 24 8, doff := x.param 32 8, len := x.param 40 4, cap := x.param 44 4, kind := x.param 48 1 }

section
variable {op : CodecOp} {q : Nat} {x : InDesc} {v : State} {a b : Alloc}

theorem codecMisfits_iff : (op = .compress ∧ x.param 48 1 ≠ 0 ∧ x.param 48 1 ≠ 2) ∨ 2 < x.param 48 1 ↔ codecMisfits op x := by
  unfold codecMisfits
  by_cases h : op = .compress
  · simp only [h, true_and]; omega
  · simp only [h, false_and]

theorem codecBody_format (h : codecMisfits op x) : codecBody op q x v = v.done q x 0x13 := if_pos (codecMisfits_iff.2 h)

variable (fits : ¬ codecMisfits op x)
include fits

theorem codecBody_stale (h : v.chip.store.find (x.param 16 4) = none ∨ v.chip.store.find (x.param 20 4) = none) : codecBody op q x v = v.done q x 0x0B := by
  refine (if_neg fun e => fits (codecMisfits_iff.1 e)).trans ?_
  rcases h with h | h
  · rw [h]; rfl
  · rw [h]
    cases v.chip.store.find (x.param 16 4) <;> rfl

variable (src : v.chip.store.find (x.param 16 4) = some a) (dst : v.chip.store.find (x.param 20 4) = some b)
include src dst

theorem codecBody_found : codecBody op q x v =
    if !bit a.rd (v.chip.qTenant q) ∨ !bit b.wr (v.chip.qTenant q) ∨ b.isSealed then v.done q x 5
    else if x.param 24 8 % 64 ≠ 0 ∨ x.param 32 8 % 64 ≠ 0 ∨ a.size * 65536 < x.param 24 8 + x.param 40 4 ∨ b.size * 65536 < x.param 32 8 + x.param 44 4 then v.done q x 6
    else submit q x (codecJob op x a b) v := by
  refine (if_neg fun e => fits (codecMisfits_iff.1 e)).trans ?_
  rw [src, dst]
  rfl

theorem codecBody_denied (h : ¬ codecAllowed (v.chip.qTenant q) a b) : codecBody op q x v = v.done q x 5 :=
  (codecBody_found fits src dst).trans (if_pos (by
    unfold codecAllowed at h
    rwa [Classical.not_and_iff_not_or_not, Classical.not_and_iff_not_or_not, Bool.not_eq_true, Bool.not_eq_true, Bool.not_eq_false, ← Bool.not_eq_true',
      ← Bool.not_eq_true'] at h))

variable (allowed : codecAllowed (v.chip.qTenant q) a b)
include allowed

theorem codecBody_allowed : codecBody op q x v =
    if x.param 24 8 % 64 ≠ 0 ∨ x.param 32 8 % 64 ≠ 0 ∨ a.size * 65536 < x.param 24 8 + x.param 40 4 ∨ b.size * 65536 < x.param 32 8 + x.param 44 4 then v.done q x 6
    else submit q x (codecJob op x a b) v :=
  (codecBody_found fits src dst).trans (if_neg (by
    obtain ⟨rd, wr, unsealed⟩ := allowed
    simp [rd, wr, unsealed]))

theorem codecBody_range (h : ¬ codecInside x a b) : codecBody op q x v = v.done q x 6 :=
  (codecBody_allowed fits src dst allowed).trans (if_pos (by unfold codecInside at h; omega))

theorem codecBody_submits (h : codecInside x a b) : codecBody op q x v = submit q x (codecJob op x a b) v :=
  (codecBody_allowed fits src dst allowed).trans (if_neg (by unfold codecInside at h; omega))

end

theorem codec_acts {e : Instr} {opc : Nat} {op : CodecOp} (t : Nat) (q : Fin 64) (x : InDesc) (c : Chip) (s : State)
    (run : exec e s = .next (storeCommand t q opc none (codecBody op q) s)) (started : StoreStarted t q opc none x c s) :
    (codecMisfits op x → OnlyCompletes e t q x 0x13 [] c s) ∧
    (¬ codecMisfits op x → c.store.find (x.param 16 4) = none ∨ c.store.find (x.param 20 4) = none → OnlyCompletes e t q x 0x0B [] c s) ∧
    (∀ a b, ¬ codecMisfits op x → c.store.find (x.param 16 4) = some a → c.store.find (x.param 20 4) = some b →
      (¬ codecAllowed (c.qTenant q) a b → OnlyCompletes e t q x 5 [] c s) ∧
      (codecAllowed (c.qTenant q) a b → ¬ codecInside x a b → OnlyCompletes e t q x 6 [] c s) ∧
      (codecAllowed (c.qTenant q) a b → codecInside x a b → 256 ≤ c.store.waiting.length → OnlyCompletes e t q x 9 [] c s) ∧
      (codecAllowed (c.qTenant q) a b → codecInside x a b → c.store.waiting.length < 256 →
        exec e s = .next { s.at_ t with chip := { c with store := { c.store with
          jobs := c.store.jobs ++ [{ codecJob op x a b with id := c.store.nextJob, queue := q, tag := x.tag, rx := x.rx, tenant := c.qTenant q }]
          nextJob := c.store.nextJob + 1 } } })) := by
  refine ⟨fun bad => onlyCompletes_of_store run started fun _ _ => codecBody_format bad,
    fun fits none => onlyCompletes_of_store run started fun _ hv => codecBody_stale fits (hv ▸ none), fun a b fits src dst => ⟨fun denied => ?_,
      fun allowed outside => ?_, fun allowed inside full => ?_, fun allowed inside room => ?_⟩⟩
  · exact onlyCompletes_of_store run started fun _ hv => codecBody_denied fits (hv ▸ src) (hv ▸ dst) (hv ▸ denied)
  · exact onlyCompletes_of_store run started fun _ hv => codecBody_range fits (hv ▸ src) (hv ▸ dst) (hv ▸ allowed) outside
  · exact onlyCompletes_of_store run started fun _ hv => (codecBody_submits fits (hv ▸ src) (hv ▸ dst) (hv ▸ allowed) inside).trans (submit_full (hv ▸ full))
  · exact exec_storeStarted run started fun v hv => (codecBody_submits fits (hv ▸ src) (hv ▸ dst) (hv ▸ allowed) inside).trans
      ((submit_joins (hv ▸ room)).trans (by rw [State.onChip, hv]))

/-- Settles O39: each transfer passes its checks or is refused, in their order. -/
theorem jobStoreTransfers : Obligations.JobStoreTransfers := by
  unfold Obligations.JobStoreTransfers
  exact ⟨write_acts, read_acts, fun t q x c s => List.forall_mem_cons.2
    ⟨codec_acts (op := .compress) t q x c s rfl, List.forall_mem_singleton.2 (codec_acts (op := .decompress) t q x c s rfl)⟩⟩

end Sys2Proof.Machine
end

section
/-!
PROOFS. STATUS, REG_READ, REG_WRITE and SET_CIVIL (R319, Table 13-5).
-/
namespace Sys2Proof.Machine

/-! ### SET_CIVIL -/

/-- What a civil measurement changes nothing of. -/
def Chip.unclocked (c : Chip) : Chip := { c with regs := [], time := {}, twin := {} }

theorem Chip.unclocked_jrn (c : Chip) (k : JKind) (as : List Nat) (bs : List Byte) : (c.jrn k as bs).unclocked = c.unclocked := by
  unfold Chip.jrn
  split <;> rfl

theorem Chip.unclocked_parts {c d : Chip} (h : d.unclocked = c.unclocked) :
    sameG c d ∧ sameW c d ∧ d.strm = c.strm ∧ d.stage = c.stage ∧ d.hosts = c.hosts ∧ d.faults = c.faults := by
  have seq : d.seq = c.seq := (congrArg Chip.seq h :)
  exact ⟨fun m i _ => by rw [Chip.g, seq, Chip.g], fun m i _ => by rw [Chip.w, seq, Chip.w], (congrArg Chip.strm h :), (congrArg Chip.stage h :),
    (congrArg Chip.hosts h :), (congrArg Chip.faults h :)⟩

/-- The chip with an error of civil time shown. -/
def Chip.noteError (c : Chip) (err : Int) : Chip := (c.set TB_CERR_ERR (satSgn 32 err)).set TB_STAT_CVALID 1

/-- The chip without a pending civil offset, as the journal notes it. -/
def Chip.unpendCivil (c : Chip) : Chip := (c.setPending none).jrnCivil

/-- The chip whose civil offset is slewed. -/
def Chip.withSlew (c : Chip) (x : Option (Int × Nat × Int)) : Chip := { c with time := { c.time with slew := x } }

theorem Chip.unpendCivil_facts (c : Chip) : c.unpendCivil.get TB_STAT_CPEND = 0 ∧ sameFields [TB_STAT_CPEND, TW_JSEQ_JSEQ] c c.unpendCivil ∧
    c.unpendCivil.unclocked = c.unclocked ∧ c.unpendCivil.time.slew = c.time.slew := by
  have journal := Chip.like_jrn (c.setPending none) .civil
    [(c.setPending none).get TB_CIVOFS_OFS, (c.setPending none).get TB_STAT_CPEND, (c.setPending none).get TB_CIVPEND_PEND, (c.setPending none).get TB_STAT_LOT] []
  refine ⟨(journal.2 _ (by unfold Fld.still; decide)).trans (Chip.get_set_same ..), fun h hh => ?_, (Chip.unclocked_jrn ..).trans rfl, ?_⟩
  · exact (Chip.jrn_get _ _ _ _ h (hh _ (by simp))).trans (Chip.get_set_ne _ _ _ _ (hh _ (by simp)))
  · exact (congrArg Time.slew (Chip.like_time journal)).trans rfl

theorem Chip.pendCivil_facts (c : Chip) (v : Int) : let d := (c.setPending (some v)).jrnCivil
    d.get TB_STAT_CPEND = 1 ∧ d.get TB_CIVPEND_PEND = uns 64 v % 2 ^ 64 ∧ sameFields [TB_STAT_CPEND, TB_CIVPEND_PEND, TW_JSEQ_JSEQ] c d ∧
    d.unclocked = c.unclocked ∧ d.time.slew = c.time.slew := by
  intro d
  have journal := Chip.like_jrn (c.setPending (some v)) .civil
    [(c.setPending (some v)).get TB_CIVOFS_OFS, (c.setPending (some v)).get TB_STAT_CPEND, (c.setPending (some v)).get TB_CIVPEND_PEND, (c.setPending (some v)).get TB_STAT_LOT] []
  refine ⟨(journal.2 _ (by unfold Fld.still; decide)).trans (Chip.get_set_same ..),
    (journal.2 _ (by unfold Fld.still; decide)).trans ((Chip.get_set_ne _ _ _ _ (by decide)).trans (Chip.get_set_same ..)), fun h hh => ?_, (Chip.unclocked_jrn ..).trans rfl, ?_⟩
  · exact (Chip.jrn_get _ _ _ _ h (hh _ (by simp))).trans ((Chip.get_set_ne _ _ _ _ (hh _ (by simp))).trans (Chip.get_set_ne _ _ _ _ (hh _ (by simp))))
  · exact (congrArg Time.slew (Chip.like_time journal)).trans rfl

section
variable (c : Chip) (m : Int) (a : Nat)

/-- The error of civil time that a measurement gives. -/
def Chip.civilError : Int := m - (a + c.getS TB_CIVOFS_OFS)

/-- The step up to which an error is slewed. -/
def Chip.civilStep : Int := c.get TB_CPAR_CSTEP * 1000000

/-- A small error is slewed. -/
def Chip.slewError (err : Int) : Chip :=
  let d := if (c.noteError err).is TB_STAT_CPEND then (c.noteError err).unpendCivil else c.noteError err
  d.withSlew (if err = 0 then none else some (err, d.ns, 0))

/-- A forward error above the step is corrected, before the report. -/
def Chip.stepCivil (err : Int) : Chip := ((((c.noteError err).withSlew none).setS TB_CIVOFS_OFS (c.getS TB_CIVOFS_OFS + err)).unpendCivil)

/-- A backward error above the step waits, before the report. -/
def Chip.holdCivil (err : Int) : Chip := ((((c.noteError err).withSlew none).setPending (some (c.getS TB_CIVOFS_OFS + err))).jrnCivil)

variable (runs : c.runs = true)
include runs

theorem Chip.measure_within (low : -c.civilStep ≤ c.civilError m a) (high : c.civilError m a ≤ c.civilStep) : c.measure m a = c.slewError (c.civilError m a) := by
  refine (if_neg (by rw [runs]; decide)).trans ((if_pos ⟨low, high⟩).trans rfl)

theorem Chip.measure_forward (high : c.civilStep < c.civilError m a) : c.measure m a = (c.stepCivil (c.civilError m a)).raise .tb 0 { src := 2 } :=
  (if_neg (by rw [runs]; decide)).trans ((if_neg fun h => absurd h.2 (Int.not_le.2 high)).trans (if_pos high))

theorem Chip.measure_backward (positive : 0 ≤ c.civilStep) (low : c.civilError m a < -c.civilStep) : c.measure m a =
    if (!(c.noteError (c.civilError m a)).is TB_STAT_CPEND) = true then (c.holdCivil (c.civilError m a)).raise .tb 0 { src := 1 } else c.holdCivil (c.civilError m a) :=
  (if_neg (by rw [runs]; decide)).trans ((if_neg fun h => absurd h.1 (Int.not_le.2 low)).trans (if_neg (Int.not_lt.2 (Int.le_trans (Int.le_of_lt low) (by omega : -c.civilStep ≤ c.civilStep)))))

end

theorem Chip.measure_waits (c : Chip) (m : Int) (a : Nat) (h : c.runs = false) : c.measure m a = c := if_pos (by rw [h]; rfl)

theorem Chip.noteError_facts (c : Chip) (err : Int) : (c.noteError err).get TB_CERR_ERR = satSgn 32 err % 2 ^ 32 ∧ (c.noteError err).get TB_STAT_CVALID = 1 ∧
    sameFields [TB_CERR_ERR, TB_STAT_CVALID] c (c.noteError err) ∧ (c.noteError err).unclocked = c.unclocked :=
  ⟨(Chip.get_set_ne _ _ _ _ (by decide)).trans (Chip.get_set_same ..), Chip.get_set_same ..,
    fun h hh => (Chip.get_set_ne _ _ _ _ (hh _ (by simp))).trans (Chip.get_set_ne _ _ _ _ (hh _ (by simp))), rfl⟩

section
variable (c : Chip) (err : Int)

theorem Chip.slewError_facts : let d := c.slewError err
    d.get TB_CERR_ERR = satSgn 32 err % 2 ^ 32 ∧ d.get TB_STAT_CVALID = 1 ∧ d.get TB_STAT_CPEND = 0 ∧
    sameFields [TB_CERR_ERR, TB_STAT_CVALID, TB_STAT_CPEND, TW_JSEQ_JSEQ] c d ∧ d.unclocked = c.unclocked ∧
    d.time.slew = if err = 0 then none else some (err, c.ns, 0) := by
  obtain ⟨shown, valid, fields, clock⟩ := c.noteError_facts err
  obtain ⟨off, unpended, clock', -⟩ := (c.noteError err).unpendCivil_facts
  unfold Chip.slewError
  generalize c.noteError err = e at *
  generalize e.unpendCivil = u at *
  dsimp only
  by_cases pending : e.is TB_STAT_CPEND = true
  · rw [if_pos pending]
    have ns : u.ns = c.ns := (congrArg Chip.ns (clock'.trans clock) :)
    refine ⟨(unpended TB_CERR_ERR (by decide)).trans shown, (unpended TB_STAT_CVALID (by decide)).trans valid, off, fun h hh => ?_, clock'.trans clock, by rw [ns]; rfl⟩
    exact (unpended h fun k hk => hh k (by simp at hk ⊢; grind)).trans (fields h fun k hk => hh k (by simp at hk ⊢; grind))
  · rw [if_neg pending]
    have ns : e.ns = c.ns := (congrArg Chip.ns clock :)
    exact ⟨shown, valid, Chip.is_eq_false_iff.1 (Bool.eq_false_iff.2 pending), fun h hh => fields h fun k hk => hh k (by simp at hk ⊢; grind), clock, by rw [ns]; rfl⟩

theorem Chip.stepCivil_facts : let d := c.stepCivil err
    d.get TB_CERR_ERR = satSgn 32 err % 2 ^ 32 ∧ d.get TB_STAT_CVALID = 1 ∧ d.get TB_STAT_CPEND = 0 ∧
    d.get TB_CIVOFS_OFS = uns 64 (c.getS TB_CIVOFS_OFS + err) % 2 ^ 64 ∧ d.unclocked = c.unclocked ∧ d.time.slew = none := by
  obtain ⟨shown, valid, -, clock⟩ := c.noteError_facts err
  obtain ⟨off, unpended, clock', slew⟩ := (((c.noteError err).withSlew none).setS TB_CIVOFS_OFS (c.getS TB_CIVOFS_OFS + err)).unpendCivil_facts
  unfold Chip.stepCivil
  generalize c.noteError err = e at *
  have steady (h : Fld) (hh : h.key ≠ TB_CIVOFS_OFS.key) : ((e.withSlew none).setS TB_CIVOFS_OFS (c.getS TB_CIVOFS_OFS + err)).get h = e.get h :=
    (Chip.get_set_ne _ _ _ _ hh).trans rfl
  exact ⟨(unpended _ (by decide)).trans ((steady _ (by decide)).trans shown), (unpended _ (by decide)).trans ((steady _ (by decide)).trans valid), off,
    (unpended _ (by decide)).trans (Chip.get_set_same ..), clock'.trans (Eq.trans rfl clock), slew.trans rfl⟩

theorem Chip.holdCivil_facts : let d := c.holdCivil err
    d.get TB_CERR_ERR = satSgn 32 err % 2 ^ 32 ∧ d.get TB_STAT_CVALID = 1 ∧ d.get TB_STAT_CPEND = 1 ∧
    d.get TB_CIVPEND_PEND = uns 64 (c.getS TB_CIVOFS_OFS + err) % 2 ^ 64 ∧ d.get TB_CIVOFS_OFS = c.get TB_CIVOFS_OFS ∧ d.unclocked = c.unclocked ∧ d.time.slew = none := by
  obtain ⟨shown, valid, fields, clock⟩ := c.noteError_facts err
  obtain ⟨on, pend, pended, clock', slew⟩ := ((c.noteError err).withSlew none).pendCivil_facts (c.getS TB_CIVOFS_OFS + err)
  unfold Chip.holdCivil
  generalize c.noteError err = e at *
  exact ⟨(pended _ (by decide)).trans shown, (pended _ (by decide)).trans valid, on, pend, (pended _ (by decide)).trans (fields _ (by decide)),
    clock'.trans clock, slew.trans rfl⟩

end

theorem Chip.like_raise_tb (c : Chip) (o : Occ) : c.like (c.raise .tb 0 o) := c.like_raise .tb 0 o (evSource_lt _ _ · (by decide))

theorem Chip.like_unclocked {b c d : Chip} (same : c.unclocked = b.unclocked) (h : c.like d) : sameG b d ∧ sameW b d ∧ d.strm = b.strm ∧ d.stage = b.stage := by
  obtain ⟨g, w, strm, stage, -, -⟩ := Chip.unclocked_parts same
  exact ⟨fun m i hi => (Chip.like_g h m i).trans (g m i hi), fun m i hi => (Chip.like_w h m i).trans (w m i hi), (Chip.like_strm h).trans strm, (Chip.like_stage h).trans stage⟩

/-- What a civil measurement does in a unit that runs. -/
theorem Chip.measure_facts (c : Chip) (m : Int) (a : Nat) (runs : c.runs = true) : let d := c.measure m a
    let off := c.getS TB_CIVOFS_OFS
    let err := m - (a + off)
    let step : Int := c.get TB_CPAR_CSTEP * 1000000
    d.get TB_CERR_ERR = satSgn 32 err % 2 ^ 32 ∧ d.get TB_STAT_CVALID = 1 ∧ sameG c d ∧ sameW c d ∧ d.strm = c.strm ∧ d.stage = c.stage ∧
      (-step ≤ err → err ≤ step → d.get TB_STAT_CPEND = 0 ∧ d.get TB_CIVOFS_OFS = c.get TB_CIVOFS_OFS ∧
        d.time.slew = (if err = 0 then none else some (err, c.ns, 0)) ∧
        sameFields [TB_CERR_ERR, TB_STAT_CVALID, TB_STAT_CPEND, TW_JSEQ_JSEQ] c d ∧ d.hosts = c.hosts ∧ d.faults = c.faults) ∧
      (step < err → 0 ≤ step → d.get TB_STAT_CPEND = 0 ∧ d.get TB_CIVOFS_OFS = uns 64 (off + err) % 2 ^ 64 ∧ d.time.slew = none) ∧
      (err < -step → 0 ≤ step → d.get TB_STAT_CPEND = 1 ∧ d.get TB_CIVPEND_PEND = uns 64 (off + err) % 2 ^ 64 ∧
        d.get TB_CIVOFS_OFS = c.get TB_CIVOFS_OFS ∧ d.time.slew = none) := by
  intro d off err step
  have positive : 0 ≤ step := by
    show (0 : Int) ≤ c.get TB_CPAR_CSTEP * 1000000
    omega
  have hd : d = c.measure m a := rfl
  have herr : c.civilError m a = err := rfl
  have hstep : c.civilStep = step := rfl
  have within := c.measure_within m a runs
  have forward := c.measure_forward m a runs
  have backward := c.measure_backward m a runs
  rw [herr, hstep, ← hd] at within forward backward
  clear_value d err step
  clear hd
  by_cases high : step < err
  · obtain ⟨shown, valid, unpended, ofs, clock, slew⟩ := c.stepCivil_facts err
    have like := (c.stepCivil err).like_raise_tb { src := 2 }
    rw [← forward high] at like
    clear within forward backward
    generalize c.stepCivil err = e at *
    have same (h : Fld) (hs : h.still) := like.2 h hs
    obtain ⟨g, w, strm, stage⟩ := Chip.like_unclocked clock like
    exact ⟨(same _ (by unfold Fld.still; decide)).trans shown, (same _ (by unfold Fld.still; decide)).trans valid, g, w, strm, stage,
      fun _ small => absurd high (Int.not_lt.2 small),
      fun _ _ => ⟨(same _ (by unfold Fld.still; decide)).trans unpended, (same _ (by unfold Fld.still; decide)).trans ofs, (congrArg Time.slew (Chip.like_time like)).trans slew⟩,
      fun low _ => absurd high (by omega)⟩
  · by_cases low : err < -step
    · obtain ⟨shown, valid, on, pend, ofs, clock, slew⟩ := c.holdCivil_facts err
      have like : (c.holdCivil err).like d := by
        rw [backward positive low]
        exact Chip.like_ite ((c.holdCivil err).like_raise_tb _) (Chip.like_refl _)
      clear within forward backward
      generalize c.holdCivil err = e at *
      have same (h : Fld) (hs : h.still) := like.2 h hs
      obtain ⟨g, w, strm, stage⟩ := Chip.like_unclocked clock like
      exact ⟨(same _ (by unfold Fld.still; decide)).trans shown, (same _ (by unfold Fld.still; decide)).trans valid, g, w, strm, stage,
        fun small => absurd low (Int.not_lt.2 small), fun h => absurd h high,
        fun _ _ => ⟨(same _ (by unfold Fld.still; decide)).trans on, (same _ (by unfold Fld.still; decide)).trans pend,
          (same _ (by unfold Fld.still; decide)).trans ofs, (congrArg Time.slew (Chip.like_time like)).trans slew⟩⟩
    · obtain ⟨shown, valid, unpended, fields, clock, slew⟩ := c.slewError_facts err
      rw [← within (Int.not_lt.1 low) (Int.not_lt.1 high)] at shown valid unpended fields clock slew
      clear within forward backward
      obtain ⟨g, w, strm, stage, hosts, faults⟩ := Chip.unclocked_parts clock
      exact ⟨shown, valid, g, w, strm, stage, fun _ _ => ⟨unpended, fields _ (by decide), slew, fields, hosts, faults⟩,
        fun h => absurd h high, fun h => absurd h low⟩

/-! ### The commands -/

/-- What SET_CIVIL does. -/
def setCivilBody (q : Nat) (x : InDesc) (s : State) : State :=
  (if s.chip.get TB_CFG_CSRC = 0 then s.onChip fun c => c.measure (sgn 64 (x.param 16 8)) (x.param 24 8) else s).done q x 0

theorem exec_setCivil (t : Nat) (q : Fin 64) (s : State) : exec (.setCivil t q) s = .next (hostCommand t q 6 0 (some 2) (setCivilBody q) s) := rfl

theorem setCivilBody_other {q : Nat} {x : InDesc} {v : State} (h : v.chip.get TB_CFG_CSRC ≠ 0) : setCivilBody q x v = v.done q x 0 := by
  rw [setCivilBody, if_neg h]

theorem setCivilBody_host {q : Nat} {x : InDesc} {v : State} (h : v.chip.get TB_CFG_CSRC = 0) : setCivilBody q x v =
    { v with chip := (v.chip.measure (sgn 64 (x.param 16 8)) (x.param 24 8)).complete q x.tag x.rx 0 } := by
  rw [setCivilBody, if_pos h, State.done_onChip]

section
variable {q : Nat} {x : InDesc} {v : State}

theorem regReadBody_format (h : x.param 16 4 % 4 ≠ 0 ∨ x.param 20 1 = 0 ∨ 8 < x.param 20 1) : regReadBody q x v = v.done q x 0x13 := if_pos h

variable (aligned : x.param 16 4 % 4 = 0) (few : x.param 20 1 ≤ 8)
include aligned few

theorem regReadBody_silent (h : ∃ i, i < x.param 20 1 ∧ v.chip.unreadable (x.param 16 4 + 4 * i) = true) : regReadBody q x v = v.done q x 0x15 := by
  obtain ⟨i, hi, silent⟩ := h
  exact (if_neg (by omega)).trans (if_pos (List.any_eq_true.2 ⟨i, List.mem_range.2 hi, silent⟩))

theorem regReadBody_reads (one : x.param 20 1 ≠ 0) (h : ∀ i, i < x.param 20 1 → v.chip.unreadable (x.param 16 4 + 4 * i) = false) : regReadBody q x v =
    (v.regReads (v.chip.qTenant q) (x.param 16 4) (x.param 20 1)).2.done q x 0 (v.regReads (v.chip.qTenant q) (x.param 16 4) (x.param 20 1)).1 := by
  have answers : ¬ (List.range (x.param 20 1)).any (fun i => v.chip.unreadable (x.param 16 4 + 4 * i)) = true := by
    rw [List.any_eq_true]
    rintro ⟨i, hi, silent⟩
    rw [h i (List.mem_range.1 hi)] at silent
    exact absurd silent (by decide)
  exact (if_neg (by omega)).trans (if_neg answers)

end

section
variable {q : Nat} {x : InDesc} {v : State}

theorem regWriteBody_format (h : x.param 16 4 % 4 ≠ 0) : regWriteBody q x v = v.done q x 0x13 := if_pos h

theorem regWriteBody_silent (aligned : x.param 16 4 % 4 = 0) (h : v.chip.noAnswer (x.param 16 4) = true) : regWriteBody q x v = v.done q x 0x15 :=
  (if_neg (Classical.not_not.2 aligned)).trans (if_pos h)

theorem regWriteBody_writes (aligned : x.param 16 4 % 4 = 0) (h : v.chip.noAnswer (x.param 16 4) = false) : regWriteBody q x v =
    { v with chip := (v.chip.regWrite (v.chip.qTenant q) (x.param 16 4) (x.param 20 4)).complete q x.tag x.rx 0 } :=
  (if_neg (Classical.not_not.2 aligned)).trans ((if_neg (by rw [h]; decide)).trans (State.done_onChip ..))

end

/-- Settles O36: each command checks its operands and does the one thing that its name says. -/
theorem statusRegisterAndCivilCommands : Obligations.StatusRegisterAndCivilCommands := by
  unfold Obligations.StatusRegisterAndCivilCommands
  refine ⟨fun t q x c s started => ?_, fun t q x c s started => ?_, fun t q x c s started => ?_, fun t q x c s started => ?_⟩
  · have run : exec (.status t q) s = .next (hostCommand t q 7 0 none (fun x s => s.done q x stOK (le 4 (s.chip.ctxState 0) ++ zeros 4 ++ le 8 s.chip.ns ++
      le 8 (s.chip.get WM_X_X) ++ le 2 (s.chip.headroomWord % 65536))) s) := rfl
    exact onlyCompletes_of run started fun v hv => by rw [hv, stOK]
  · have run : exec (.regRead t q) s = .next (hostCommand t q 8 0 none (regReadBody q) s) := rfl
    refine ⟨fun bad => onlyCompletes_of run started fun v _ => regReadBody_format bad,
      fun aligned _ few silent => onlyCompletes_of run started fun v hv => regReadBody_silent aligned few (hv ▸ silent), fun aligned one few answers => ?_⟩
    rw [exec_body run started, regReadBody_reads (v := { s.at_ t with chip := c }) aligned few one answers]
    rfl
  · have run : exec (.regWrite t q) s = .next (hostCommand t q 9 0 none (regWriteBody q) s) := rfl
    exact ⟨fun bad => onlyCompletes_of run started fun v _ => regWriteBody_format bad,
      fun aligned silent => onlyCompletes_of run started fun v hv => regWriteBody_silent aligned (hv ▸ silent),
      fun aligned answers => exec_started run started fun v hv => (regWriteBody_writes aligned (hv ▸ answers)).trans (by rw [hv])⟩
  · have run := exec_setCivil t q s
    intro off err step
    refine ⟨fun off => ?_, fun host runs => ⟨_, exec_started run started fun v hv => (setCivilBody_host (hv ▸ host)).trans (by rw [hv]), c.measure_facts _ _ runs⟩⟩
    by_cases host : c.get TB_CFG_CSRC = 0
    · have waits := off.resolve_left (Classical.not_not.2 host)
      exact exec_started run started fun v hv => (setCivilBody_host (hv ▸ host)).trans (by rw [hv, Chip.measure_waits _ _ _ waits])
    · exact onlyCompletes_of run started fun v hv => setCivilBody_other (hv ▸ host)

end Sys2Proof.Machine
end

section
/-!
PROOFS. Timed frames (R327, R340), reports (R160 to R163), arriving descriptors (R42, R337) and their timeout (R351).
-/
namespace Sys2Proof.Machine

/-! ### SEND_AT -/

section
variable {q : Nat} {x : InDesc} {v : State}

theorem sendAtBody_format (h : 8 ≤ x.param 24 1 ∨ x.param 25 1 = 0 ∨ 32 < x.param 25 1) : sendAtBody q x v = v.done q x 0x13 := if_pos h

variable (fits : ¬ (8 ≤ x.param 24 1 ∨ x.param 25 1 = 0 ∨ 32 < x.param 25 1))
include fits

theorem sendAtBody_noRing (h : v.chip.eQueue (x.param 24 1) = none) : sendAtBody q x v = v.done q x 0x15 := by
  refine (if_neg fits).trans ?_
  rw [h]
  rfl

variable {e : Nat} (ring : v.chip.eQueue (x.param 24 1) = some e)
include ring

theorem sendAtBody_ring : sendAtBody q x v =
    if v.chip.is (QM_QCFG_VIA e) ∨ (v.chip.session (x.param 24 1) (v.chip.get (QM_QCFG_PORT e))).isNone then v.done q x 0x15
    else { v with chip := { v.chip with hosts := { v.chip.hosts with timed := v.chip.hosts.timed ++
      [{ port := v.chip.get (QM_QCFG_PORT e), launch := x.param 16 8, dest := x.param 24 1, msg := (x.d.drop 32).take (x.param 25 1), queue := q, tag := x.tag,
         rx := x.rx }] } } } := by
  refine (if_neg fits).trans ?_
  rw [ring]
  rfl

theorem sendAtBody_closed (h : v.chip.is (QM_QCFG_VIA e) = true ∨ v.chip.session (x.param 24 1) (v.chip.get (QM_QCFG_PORT e)) = none) :
    sendAtBody q x v = v.done q x 0x15 := (sendAtBody_ring fits ring).trans (if_pos (h.imp_right Option.isNone_iff_eq_none.2))

theorem sendAtBody_queues (eth : v.chip.is (QM_QCFG_VIA e) = false) (h : v.chip.session (x.param 24 1) (v.chip.get (QM_QCFG_PORT e)) ≠ none) :
    sendAtBody q x v = { v with chip := { v.chip with hosts := { v.chip.hosts with timed := v.chip.hosts.timed ++
      [{ port := v.chip.get (QM_QCFG_PORT e), launch := x.param 16 8, dest := x.param 24 1, msg := (x.d.drop 32).take (x.param 25 1), queue := q, tag := x.tag,
         rx := x.rx }] } } } :=
  (sendAtBody_ring fits ring).trans (if_neg (by
    rw [eth, Option.isNone_iff_eq_none]
    exact not_or.2 ⟨by decide, h⟩))

end

/-! ### The launch of a timed frame -/

section
variable {c : Chip} {p : Nat} {f : TimedFrame} {rest : List TimedFrame} (next : nextTimed p c.hosts.timed = some (f, rest))
include next

/-- The chip without the timed frame that leaves. -/
def Chip.withTimed (c : Chip) (rest : List TimedFrame) : Chip := { c with hosts := { c.hosts with timed := rest } }

theorem Chip.sendAtLaunch_early (h : c.ns < f.launch) : c.sendAtLaunch p = c := by
  rw [Chip.sendAtLaunch, next]
  exact if_pos h

theorem Chip.sendAtLaunch_dropped (h : f.launch + 1000 ≤ c.ns) : c.sendAtLaunch p = (c.withTimed rest).complete f.queue f.tag f.rx 0x1A := by
  rw [Chip.sendAtLaunch, next]
  exact (if_neg (by omega)).trans (if_pos h)

/-- The chip that counts a timed frame, late or not, and remembers its launch time. -/
def Chip.countTimed (c : Chip) (p : Nat) (f : TimedFrame) (late : Bool) : Chip := { c with hosts := { c.hosts with
  lateFrames := FMap.put 0 c.hosts.lateFrames p (if late then FMap.get 0 c.hosts.lateFrames p + 1 else FMap.get 0 c.hosts.lateFrames p)
  lastL := FMap.put none c.hosts.lastL p (some f.launch) } }

/-- The chip after the timed record. -/
def Chip.sendTimed (c : Chip) (p e : Nat) (f : TimedFrame) : Chip :=
  let o := ((c.queue e).oseq + 1) % 2 ^ 32
  ((c.setQueue e { c.queue e with oseq := o }).sendFrame .timed f.dest p 4 1 0 (fit 64 (le 1 4 ++ le 1 e ++ le 2 0 ++ le 4 o ++ le 4 c.stamp ++ le 4 0 ++ f.msg))).complete
    f.queue f.tag f.rx 0

theorem Chip.sendAtLaunch_sent {e : Nat} {ses : Session} (due : f.launch ≤ c.ns) (h : c.ns < f.launch + 1000) (ring : c.eQueue f.dest = some e)
    (open_ : c.session f.dest p = some ses) : c.sendAtLaunch p =
    ((c.withTimed rest).countTimed p f (decide (f.launch < c.ns ∨ FMap.get none c.hosts.lastL p = some f.launch))).sendTimed p e f := by
  have ring' : (c.withTimed rest).eQueue f.dest = some e := ring
  have open' : (c.withTimed rest).session f.dest p = some ses := open_
  rw [Chip.sendAtLaunch, next]
  refine (if_neg (Nat.not_lt.2 due)).trans ((if_neg (Nat.not_le.2 h)).trans ?_)
  rw [← Chip.withTimed, ring', open', Bool.decide_or]
  rfl

theorem Chip.sendAtLaunch_counted {e : Nat} {ses : Session} (due : f.launch ≤ c.ns) (h : c.ns < f.launch + 1000) (ring : c.eQueue f.dest = some e)
    (open_ : c.session f.dest p = some ses) :
    let n := FMap.get 0 c.hosts.lateFrames p
    let o := ((c.queue e).oseq + 1) % 2 ^ 32
    let d : Chip := { c with hosts := { c.hosts with
      timed := rest
      lateFrames := FMap.put 0 c.hosts.lateFrames p (if f.launch < c.ns ∨ FMap.get none c.hosts.lastL p = some f.launch then n + 1 else n)
      lastL := FMap.put none c.hosts.lastL p (some f.launch) } }
    c.sendAtLaunch p = ((d.setQueue e { c.queue e with oseq := o }).sendFrame .timed f.dest p 4 1 0
      (fit 64 (le 1 4 ++ le 1 e ++ le 2 0 ++ le 4 o ++ le 4 c.stamp ++ le 4 0 ++ f.msg))).complete f.queue f.tag f.rx 0 := by
  intro n o d
  have counted : (c.withTimed rest).countTimed p f (decide (f.launch < c.ns ∨ FMap.get none c.hosts.lastL p = some f.launch)) = d := by
    simp only [d, n, Chip.countTimed, Chip.withTimed, decide_eq_true_eq]
  rw [Chip.sendAtLaunch_sent next due h ring open_, counted]
  rfl

end

theorem sendAt_acts (t : Nat) (q : Fin 64) (x : InDesc) (c : Chip) (s : State) (started : Started t q 0x109 0 (some 2) x c s) :
    let d := x.param 24 1
    let n := x.param 25 1
    let bad : Prop := 8 ≤ d ∨ n = 0 ∨ 32 < n
    (bad → OnlyCompletes (.sendAt t q) t q x 0x13 [] c s) ∧
    (¬ bad → c.eQueue d = none → OnlyCompletes (.sendAt t q) t q x 0x15 [] c s) ∧
    (∀ e, ¬ bad → c.eQueue d = some e →
      let p := c.get (QM_QCFG_PORT e)
      (c.is (QM_QCFG_VIA e) = true ∨ c.session d p = none → OnlyCompletes (.sendAt t q) t q x 0x15 [] c s) ∧
      (c.is (QM_QCFG_VIA e) = false → c.session d p ≠ none →
        let f : TimedFrame := { port := p, launch := x.param 16 8, dest := d, msg := (x.d.drop 32).take n, queue := q, tag := x.tag, rx := x.rx }
        Acts (.sendAt t q) t s { c with hosts := { c.hosts with timed := c.hosts.timed ++ [f] } })) := by
  intro d n bad
  have run : exec (.sendAt t q) s = .next (hostCommand t q 0x109 0 (some 2) (sendAtBody q) s) := rfl
  exact ⟨fun h => onlyCompletes_of run started fun _ _ => sendAtBody_format h,
    fun fits none => onlyCompletes_of run started fun _ hv => sendAtBody_noRing fits (hv ▸ none),
    fun e fits ring => ⟨fun closed => onlyCompletes_of run started fun _ hv => sendAtBody_closed fits (hv ▸ ring) (hv ▸ closed),
      fun eth open_ => exec_started run started fun v hv => (sendAtBody_queues fits (hv ▸ ring) (hv ▸ eth) (hv ▸ open_)).trans (by rw [hv])⟩⟩

theorem launch_acts (t : Nat) (p : Fin 4) (f : TimedFrame) (rest : List TimedFrame) (s : State) :
    let c := (s.at_ t).chip
    let n := FMap.get 0 c.hosts.lateFrames p
    let late : Prop := f.launch < c.ns ∨ FMap.get none c.hosts.lastL p = some f.launch
    nextTimed p c.hosts.timed = some (f, rest) →
    let d : Chip := { c with hosts := { c.hosts with timed := rest } }
    let lates := FMap.put 0 c.hosts.lateFrames p (if late then n + 1 else n)
    let d1 : Chip := { c with hosts := { c.hosts with timed := rest, lateFrames := lates, lastL := FMap.put none c.hosts.lastL p (some f.launch) } }
    (c.ns < f.launch → Passes (.sendAtLaunch t p) t s) ∧
    (f.launch + 1000 ≤ c.ns → Acts (.sendAtLaunch t p) t s (d.complete f.queue f.tag f.rx 0x1A)) ∧
    (∀ e ses, f.launch ≤ c.ns → c.ns < f.launch + 1000 → c.eQueue f.dest = some e → c.session f.dest p = some ses →
      let o := ((c.queue e).oseq + 1) % 2 ^ 32
      let r := fit 64 (le 1 4 ++ le 1 e ++ le 2 0 ++ le 4 o ++ le 4 c.stamp ++ le 4 0 ++ f.msg)
      Acts (.sendAtLaunch t p) t s
        (((d1.setQueue e { c.queue e with oseq := o }).sendFrame .timed f.dest p 4 1 0 r).complete f.queue f.tag f.rx 0)) := by
  intro c n late next d lates d1
  have run : exec (.sendAtLaunch t p) s = .next ((s.at_ t).onChip (·.sendAtLaunch p)) := rfl
  have acts {g : Chip} (h : c.sendAtLaunch p = g) : Acts (.sendAtLaunch t p) t s g := .of_onChip _ run h
  have passes (h : c.sendAtLaunch p = c) : Passes (.sendAtLaunch t p) t s := .of_onChip _ run h
  clear_value c
  exact ⟨fun early => passes (Chip.sendAtLaunch_early next early), fun old => acts (Chip.sendAtLaunch_dropped next old),
    fun e ses due soon ring open_ => acts (Chip.sendAtLaunch_counted next due soon ring open_)⟩

/-! ### REPORT -/

/-- The chip once the bytes of a report are read. -/
def Chip.readReport (c : Chip) (q : Nat) (r : Ecc) (x : InDesc) : Chip :=
  let c := if x.param 16 1 = 0 then c.jobStoreRead r else c
  if x.param 16 1 = 1 then c.emit .pcieFetch (c.qTenant q) [q, x.param 24 8, x.param 32 4] else c

/-- What REPORT does with the report that it has read. -/
def takeReport (q : Nat) (x : InDesc) (lost : List Nat) (p : Report) (s : State) : State :=
  let d := s.chip.loseBands p lost
  if d.reportStatus p ≠ 0 then ({ s with chip := d.bump CH_CNT_REJECTED }).done q x (d.reportStatus p)
  else ({ s with chip := (d.report p).2 }).done q x 0 (d.report p).1

section
variable {q : Nat} {host : List Byte} {r : Ecc} {lost : List Nat} {x : InDesc} {v : State}

theorem reportBody_format (h : 1 < x.param 16 1 ∨ 20512 < x.param 32 4) : reportBody q host r lost x v = (v.onChip (·.bump CH_CNT_REJECTED)).done q x 1 := if_pos h

variable (fits : ¬ (1 < x.param 16 1 ∨ 20512 < x.param 32 4))
include fits

theorem reportBody_stale (stored : x.param 16 1 = 0) (none : v.chip.store.find (x.param 20 4) = none) :
    reportBody q host r lost x v = (v.onChip (·.bump CH_CNT_REJECTED)).done q x 0x0B :=
  (if_neg fits).trans (if_pos (by rw [none, stored]; rfl))

variable (known : x.param 16 1 = 0 → v.chip.store.find (x.param 20 4) ≠ none)
include known

theorem reportBody_uncorrectable (stored : x.param 16 1 = 0) (bad : r = .uncorrectable) :
    reportBody q host r lost x v = ((v.onChip (·.jobStoreRead r)).onChip (·.bump CH_CNT_REJECTED)).done q x 0x0A :=
  (if_neg fits).trans ((if_neg (by rw [Option.isNone_eq_false_iff.2 (Option.isSome_iff_ne_none.2 (known stored))]; simp)).trans (if_pos (by simp [stored, bad])))

theorem reportBody_read (read : x.param 16 1 = 0 → r ≠ .uncorrectable) : reportBody q host r lost x v =
    takeReport q x lost ⟨reportBytes q host x { v with chip := v.chip.readReport q r x }⟩ { v with chip := v.chip.readReport q r x } := by
  have found : ¬ (decide (x.param 16 1 = 0) && (v.chip.store.find (x.param 20 4)).isNone) = true := by
    rw [Bool.and_eq_true, decide_eq_true_eq, Option.isNone_iff_eq_none]
    exact fun h => known h.1 h.2
  have good : ¬ (decide (x.param 16 1 = 0) && decide (r = .uncorrectable)) = true := by
    rw [Bool.and_eq_true, decide_eq_true_eq, decide_eq_true_eq]
    exact fun h => read h.1 h.2
  refine (if_neg fits).trans ((if_neg found).trans ((if_neg good).trans ?_))
  unfold Chip.readReport
  by_cases stored : x.param 16 1 = 0
  · have other : x.param 16 1 ≠ 1 := by omega
    simp only [stored, decide_true, if_true, if_neg (by decide : ¬ (0 = 1))]
    rfl
  · by_cases inHost : x.param 16 1 = 1
    · simp only [inHost, if_true, decide_eq_true_eq, if_neg (by decide : ¬ (1 = 0))]
      rfl
    · simp only [decide_eq_true_eq, if_neg stored, if_neg inHost]
      rfl

end

section
variable {q : Nat} {x : InDesc} {lost : List Nat} {p : Report} {v : State}

theorem takeReport_refused {c : Chip} (h : (c.loseBands p lost).reportStatus p ≠ 0) : takeReport q x lost p { v with chip := c } =
    { v with chip := ((c.loseBands p lost).bump CH_CNT_REJECTED).complete q x.tag x.rx ((c.loseBands p lost).reportStatus p) } := if_pos h

theorem takeReport_accepted {c : Chip} (h : (c.loseBands p lost).reportStatus p = 0) : takeReport q x lost p { v with chip := c } =
    { v with chip := ((c.loseBands p lost).report p).2.complete q x.tag x.rx 0 ((c.loseBands p lost).report p).1 } := if_neg (Classical.not_not.2 h)

end

theorem report_acts (t : Nat) (q : Fin 64) (host : List Byte) (r : Ecc) (lost : List Nat) (x : InDesc) (c : Chip) (s : State)
    (started : StoreStarted t q 0x200 (some 1) x c s) :
    let e := Instr.report t q ⟨host, r, lost⟩
    let stored : Prop := x.param 16 1 = 0
    let inHost : Prop := x.param 16 1 = 1
    let bad : Prop := 1 < x.param 16 1 ∨ 20512 < x.param 32 4
    let c1 := if stored then c.jobStoreRead r else c
    let c2 := if inHost then c1.emit .pcieFetch (c1.qTenant q) [q, x.param 24 8, x.param 32 4] else c1
    let p : Report := ⟨reportBytes q host x { s.at_ t with chip := c2 }⟩
    let d := c2.loseBands p lost
    let known : Prop := stored → c.store.find (x.param 20 4) ≠ none
    let read : Prop := stored → r ≠ .uncorrectable
    (bad → OnlyCompletes e t q x 1 [] (c.bump CH_CNT_REJECTED) s) ∧
    (¬ bad → ¬ known → OnlyCompletes e t q x 0x0B [] (c.bump CH_CNT_REJECTED) s) ∧
    (¬ bad → known → ¬ read → OnlyCompletes e t q x 0x0A [] (c1.bump CH_CNT_REJECTED) s) ∧
    (¬ bad → known → read → d.reportStatus p ≠ 0 → OnlyCompletes e t q x (d.reportStatus p) [] (d.bump CH_CNT_REJECTED) s) ∧
    (¬ bad → known → read → d.reportStatus p = 0 → OnlyCompletes e t q x 0 (d.report p).1 (d.report p).2 s) := by
  intro e stored inHost bad c1 c2 p d known read
  have run : exec e s = .next (storeCommand t q 0x200 (some 1) (reportBody q host r lost) s) := rfl
  have hc2 : c.readReport q r x = c2 := rfl
  refine ⟨fun h => exec_storeStarted run started fun v hv => (reportBody_format h).trans ((State.done_onChip ..).trans (by rw [hv])),
    fun fits unknown => ?_, fun fits known' lostRead => ?_, fun fits known' read' refused => ?_, fun fits known' read' accepted => ?_⟩
  · obtain ⟨isStored, none⟩ := Classical.not_imp.1 unknown
    exact exec_storeStarted run started fun v hv =>
      (reportBody_stale fits isStored (hv ▸ Classical.not_not.1 none)).trans ((State.done_onChip ..).trans (by rw [hv]))
  · obtain ⟨isStored, lost'⟩ := Classical.not_imp.1 lostRead
    refine exec_storeStarted run started fun v hv => (reportBody_uncorrectable fits (hv ▸ known') isStored (Classical.not_not.1 lost')).trans ?_
    rw [State.done_onChip, State.onChip_chip, hv, show c1 = c.jobStoreRead r from if_pos isStored]
    rfl
  · obtain ⟨v, -, chip, back, -, reads⟩ := exec_storeBody_at run started
    have bytes : (⟨reportBytes q host x { v with chip := c2 }⟩ : Report) = p := by rw [back]
    rw [reportBody_read fits (chip ▸ known') read', chip, hc2, bytes, takeReport_refused refused] at reads
    exact reads.trans (congrArg Host.Outcome.next (back _))
  · obtain ⟨v, -, chip, back, -, reads⟩ := exec_storeBody_at run started
    have bytes : (⟨reportBytes q host x { v with chip := c2 }⟩ : Report) = p := by rw [back]
    rw [reportBody_read fits (chip ▸ known') read', chip, hc2, bytes, takeReport_accepted accepted] at reads
    exact reads.trans (congrArg Host.Outcome.next (back _))

/-! ### Application descriptors -/

/-- The chip that holds descriptor x as the newest of queue q. -/
def Chip.holdDesc (c : Chip) (q : Nat) (x : InDesc) : Chip := c.setQueue q { c.queue q with inq := (c.queue q).inq ++ [x] }

/-- The chip that has counted a descriptor of queue q. -/
def Chip.countDesc (c : Chip) (q : Nat) : Chip :=
  c.setQueue q { c.queue q with accepted := ((c.queue q).accepted + 1) % 2 ^ 32, reserved := (c.queue q).reserved + 1 }

section
variable {c : Chip} {q : Nat} {b : List Byte} {rx : Nat} {port : Option Nat}

theorem Chip.accept_noCredit (h : c.credits q = 0) : c.accept q b rx port = c.noCredit port := if_pos h

variable (credit : c.credits q ≠ 0)
include credit

theorem Chip.accept_eq : c.accept q b rx port =
    let x : InDesc := { d := fit 64 b, arrival := c.ns, rx := rx }
    match (c.countDesc q).early q x with
    | some st => (c.countDesc q).complete q x.tag rx st
    | none => if x.isApp && !((c.countDesc q).queue q).inq.any (·.isApp) then ((c.countDesc q).holdDesc q x).trigger (64 + q) else (c.countDesc q).holdDesc q x :=
  if_neg credit

variable {x : InDesc} (hx : x = { d := fit 64 b, arrival := c.ns, rx := rx })
include hx

theorem Chip.accept_refused {st : Nat} (h : (c.countDesc q).early q x = some st) : c.accept q b rx port = (c.countDesc q).complete q x.tag rx st := by
  rw [Chip.accept_eq credit]
  dsimp only
  rw [← hx, h]

variable (well : (c.countDesc q).early q x = none) (app : x.isApp = true)
include well app

theorem Chip.accept_waits (h : ((c.countDesc q).queue q).inq.any (·.isApp) = true) : c.accept q b rx port = (c.countDesc q).holdDesc q x := by
  rw [Chip.accept_eq credit]
  dsimp only
  rw [← hx, well]
  exact if_neg (by rw [h, app]; decide)

theorem Chip.accept_first (h : ((c.countDesc q).queue q).inq.any (·.isApp) = false) : c.accept q b rx port = ((c.countDesc q).holdDesc q x).trigger (64 + q) := by
  rw [Chip.accept_eq credit]
  dsimp only
  rw [← hx, well]
  exact if_pos (by rw [h, app]; rfl)

end

/-- The chip to which an application descriptor of queue q comes. -/
def Chip.arriveDescriptor (c : Chip) (q : Nat) (b : List Byte) (rx : Nat) : Chip :=
  if 0x8000 ≤ fieldAt b 0 2 ∧ c.takesFrom (c.qTenant q) q then
    c.accept q b rx (if c.is (QM_QCFG_VIA q) then none else some (c.get (QM_QCFG_PORT q))) else c

/-- The chip whose first descriptor of queue q that has waited for TO completes. -/
def Chip.timeOutDescriptor (c : Chip) (q : Nat) : Chip :=
  if c.get (QM_QTO_TO q) = 0 then c
  else match takeFirst (fun (y : InDesc) => decide (y.arrival + 1000 * c.get (QM_QTO_TO q) ≤ c.ns)) (c.queue q).inq with
    | none => c
    | some (x, rest) => (c.setQueue q { c.queue q with inq := rest }).complete q x.tag x.rx 0x19

theorem descriptor_acts (t : Nat) (q : Fin 64) (b : List Byte) (rx : Nat) (s : State) :
    let c := (s.at_ t).chip
    let e := Instr.applicationDescriptor t q b rx
    let x : InDesc := { d := fit 64 b, arrival := c.ns, rx := rx }
    let k := c.queue q
    let d := c.setQueue q { k with accepted := (k.accepted + 1) % 2 ^ 32, reserved := k.reserved + 1 }
    let d1 := d.setQueue q { d.queue q with inq := (d.queue q).inq ++ [x] }
    x.isApp = true → 0x8000 ≤ fieldAt b 0 2 → c.takesFrom (c.qTenant q) q = true →
      (c.credits q = 0 → Acts e t s (c.noCredit (if c.is (QM_QCFG_VIA q) then none else some (c.get (QM_QCFG_PORT q))))) ∧
      (∀ st, c.credits q ≠ 0 → d.early q x = some st → Acts e t s (d.complete q x.tag rx st)) ∧
      (c.credits q ≠ 0 → d.early q x = none → (d.queue q).inq.any (·.isApp) = true → Acts e t s d1) ∧
      (c.credits q ≠ 0 → d.early q x = none → (d.queue q).inq.any (·.isApp) = false → Acts e t s (d1.trigger (64 + q))) := by
  intro c e x k d d1 app opcode takes
  have run : exec e s = .next ((s.at_ t).onChip (·.arriveDescriptor q b rx)) := rfl
  have acts {f : Chip} (h : c.accept q b rx (if c.is (QM_QCFG_VIA q) then none else some (c.get (QM_QCFG_PORT q))) = f) : Acts e t s f :=
    .of_onChip _ run ((if_pos ⟨opcode, takes⟩).trans h)
  exact ⟨fun none => acts (Chip.accept_noCredit none), fun st credit bad => acts (Chip.accept_refused credit rfl bad),
    fun credit well h => acts (Chip.accept_waits credit rfl well app h), fun credit well h => acts (Chip.accept_first credit rfl well app h)⟩

theorem timeout_acts (t : Nat) (q : Fin 64) (x : InDesc) (rest : List InDesc) (s : State) :
    let c := (s.at_ t).chip
    let lim := c.get (QM_QTO_TO q)
    lim ≠ 0 → takeFirst (fun (y : InDesc) => decide (y.arrival + 1000 * lim ≤ c.ns)) (c.queue q).inq = some (x, rest) →
      Acts (.queueTimeout t q) t s ((c.setQueue q { c.queue q with inq := rest }).complete q x.tag x.rx 0x19) := by
  intro c lim limited first
  refine .of_onChip (·.timeOutDescriptor q) rfl ((if_neg limited).trans ?_)
  rw [first]

/-- Settles O40: each command and each event takes the branch that its hypotheses name. -/
theorem timedFramesReportsAndDescriptors : Obligations.TimedFramesReportsAndDescriptors :=
  ⟨sendAt_acts, launch_acts, report_acts, descriptor_acts, timeout_acts⟩

end Sys2Proof.Machine
end

section
/-!
PROOFS. Codec jobs (R125, R133 to R138), the scrub (R114) and tile fetches (R139 to R143).
-/
namespace Sys2Proof.Machine

/-! ### Engines -/

section
variable (st : Store)

/-- The job of tenant (last + 1 + i) that waits longest. -/
def Store.readyJob (i : Nat) : Option CodecJob := st.waiting.find? fun j => j.tenant = (st.lastTenant + 1 + i) % 8

/-- The store in which job id runs. -/
def Store.runJob (id : Nat) : Store := st.mapJob id fun j => { j with running := true, saved := false }

variable {st}

theorem Store.startJob_full (h : 4 ≤ st.running.length) : st.startJob = st := if_pos h

theorem Store.nextToRun_twin {j : CodecJob} (h : st.waiting.find? (·.twin) = some j) : st.nextToRun = some j := by rw [Store.nextToRun, h]

theorem Store.nextToRun_host (h : st.waiting.find? (·.twin) = none) : st.nextToRun = ((List.range 8).map st.readyJob).findSome? id := by
  rw [Store.nextToRun, h]
  rfl

theorem Store.nextToRun_none (h : st.waiting.find? (·.twin) = none) (idle : ∀ i < 8, st.readyJob i = none) : st.nextToRun = none := by
  rw [Store.nextToRun_host h, List.findSome?_eq_none_iff]
  intro x hx
  obtain ⟨i, hi, rfl⟩ := List.mem_map.1 hx
  exact idle i (List.mem_range.1 hi)

/-- The first tenant after the last served that has a job that waits. -/
theorem Store.nextToRun_turn (h : st.waiting.find? (·.twin) = none) {i : Nat} {j : CodecJob} (hi : i < 8) (before : ∀ k < i, st.readyJob k = none)
    (ready : st.readyJob i = some j) : st.nextToRun = some j := by
  rw [Store.nextToRun_host h, List.findSome?_map, List.findSome?_eq_some_iff]
  refine ⟨List.range i, i, List.range' (i + 1) (7 - i), ?_, ready, fun k hk => before k (List.mem_range.1 hk)⟩
  rw [List.range_eq_range', List.range_eq_range', show 8 = i + (1 + (7 - i)) by omega, ← List.range'_append_1, Nat.zero_add, ← List.range'_append_1]
  rfl

theorem Store.startJob_idle (room : st.running.length < 4) (h : st.nextToRun = none) : st.startJob = st := by
  rw [Store.startJob, if_neg (Nat.not_le.2 room), h]

theorem Store.startJob_starts {j : CodecJob} (room : st.running.length < 4) (h : st.nextToRun = some j) :
    st.startJob = if j.twin then st.runJob j.id else { st.runJob j.id with lastTenant := j.tenant } := by
  rw [Store.startJob, if_neg (Nat.not_le.2 room), h]
  rfl

/-- A job that waits for the twin controller is the twin controller's. -/
theorem Store.twin_of_find {j : CodecJob} (h : st.waiting.find? (·.twin) = some j) : j.twin = true := List.find?_some h

theorem Store.host_of_find (h : st.waiting.find? (·.twin) = none) {i : Nat} {j : CodecJob} (ready : st.readyJob i = some j) : j.twin = false :=
  Bool.eq_false_iff.2 (List.find?_eq_none.1 h j (List.mem_of_find?_eq_some ready))

theorem Store.preempt_may {id : Nat} (h : st.waiting.any (·.twin) = true ∧ 4 ≤ st.running.length ∧ st.jobs.any (fun j => j.id = id && j.running && !j.twin) = true) :
    st.preempt id = (st.mapJob id fun j => { j with running := false, saved := true }).startJob :=
  if_pos (by
    obtain ⟨twin, full, mine⟩ := h
    rw [twin, decide_eq_true full, mine]
    rfl)

theorem Store.preempt_not {id : Nat} (h : ¬ (st.waiting.any (·.twin) = true ∧ 4 ≤ st.running.length ∧ st.jobs.any (fun j => j.id = id && j.running && !j.twin) = true)) :
    st.preempt id = st :=
  if_neg (by rw [Bool.and_eq_true, Bool.and_eq_true, decide_eq_true_eq, and_assoc]; exact h)

end

theorem Chip.setStore_same (c : Chip) {st : Store} (h : st = c.store) : c.setStore st = c := by rw [h]; rfl

theorem start_acts (t : Nat) (s : State) :
    let c := (s.at_ t).chip
    let st := c.store
    let ready (i : Nat) := st.waiting.find? fun j => j.tenant = (st.lastTenant + 1 + i) % 8
    let started (id : Nat) := st.jobs.map fun k => if k.id = id then { k with running := true, saved := false } else k
    (4 ≤ st.running.length → Passes (.codecJobStart t) t s) ∧
    (st.running.length < 4 → st.waiting.find? (·.twin) = none → (∀ i < 8, ready i = none) → Passes (.codecJobStart t) t s) ∧
    (∀ j, st.running.length < 4 → st.waiting.find? (·.twin) = some j → Acts (.codecJobStart t) t s (c.setStore { st with jobs := started j.id })) ∧
    (∀ i j, st.running.length < 4 → st.waiting.find? (·.twin) = none → i < 8 → (∀ h < i, ready h = none) → ready i = some j →
      Acts (.codecJobStart t) t s (c.setStore { st with jobs := started j.id, lastTenant := j.tenant })) := by
  intro c st ready started
  have run : exec (.codecJobStart t) s = .next ((s.at_ t).onChip fun c => c.setStore c.store.startJob) := rfl
  have acts {d : Store} (h : c.store.startJob = d) : Acts (.codecJobStart t) t s (c.setStore d) := .of_onChip _ run (congrArg c.setStore h)
  have passes (h : c.store.startJob = c.store) : Passes (.codecJobStart t) t s := .of_onChip _ run (c.setStore_same h)
  clear_value c
  refine ⟨fun full => passes (Store.startJob_full full), fun room twin none => passes (Store.startJob_idle room (Store.nextToRun_none twin none)),
    fun j room twin => acts ((Store.startJob_starts room (Store.nextToRun_twin twin)).trans (if_pos (Store.twin_of_find twin))),
    fun i j room twin hi before turn => acts ((Store.startJob_starts room (Store.nextToRun_turn twin hi before turn)).trans (if_neg ?_))⟩
  rw [Store.host_of_find twin turn]
  decide

theorem preempt_acts (t id : Nat) (s : State) :
    let c := (s.at_ t).chip
    let st := c.store
    let may : Prop := st.waiting.any (·.twin) = true ∧ 4 ≤ st.running.length ∧ st.jobs.any (fun j => j.id = id && j.running && !j.twin) = true
    (may → Acts (.codecPreempt t id) t s
      (c.setStore ({ st with jobs := st.jobs.map fun k => if k.id = id then { k with running := false, saved := true } else k } : Store).startJob)) ∧
    (¬ may → Passes (.codecPreempt t id) t s) := by
  intro c st may
  have run : exec (.codecPreempt t id) s = .next ((s.at_ t).onChip fun c => c.setStore (c.store.preempt id)) := rfl
  have acts {d : Store} (h : c.store.preempt id = d) : Acts (.codecPreempt t id) t s (c.setStore d) := .of_onChip _ run (congrArg c.setStore h)
  have passes (h : c.store.preempt id = c.store) : Passes (.codecPreempt t id) t s := .of_onChip _ run (c.setStore_same h)
  clear_value c
  exact ⟨fun h => acts (Store.preempt_may h), fun h => passes (Store.preempt_not h)⟩

/-! ### Stalls -/

/-- Ring space has come for job id. -/
def Store.goOn (st : Store) (id ns : Nat) : Store := st.mapJob id fun j => if j.running && j.twin then { j with resumed := some ns } else j

theorem Store.goOn_eq (st : Store) (id ns : Nat) : st.goOn id ns =
    { st with jobs := st.jobs.map fun k => if k.id = id ∧ k.running = true ∧ k.twin = true then { k with resumed := some ns } else k } := by
  refine congrArg (fun js => { st with jobs := js }) (List.map_congr_left fun k _ => ?_)
  by_cases mine : k.id = id <;> simp [mine]

theorem stallEnd_acts (t id : Nat) (s : State) :
    let c := (s.at_ t).chip
    let goes (k : CodecJob) : CodecJob := if k.id = id ∧ k.running = true ∧ k.twin = true then { k with resumed := some c.ns } else k
    Acts (.codecStallEnd t id) t s (c.setStore { c.store with jobs := c.store.jobs.map goes }) := by
  have run : exec (.codecStallEnd t id) s = .next ((s.at_ t).onChip fun c => c.setStore (c.store.goOn id c.ns)) := rfl
  unfold Acts
  generalize s.at_ t = v at run ⊢
  exact run.trans (by rw [State.onChip, Store.goOn_eq])

/-- What ends a stall of a running job after its time. -/
def stallTimeout (id since : Nat) (s : State) : State :=
  match s.chip.store.runningJob id with
  | some j =>
    let late := decide (since + 1000 * s.chip.get CD_STALLTO_STALLTO ≤ s.chip.ns)
    let resumed := match j.resumed with | some a => decide (since ≤ a) | none => false
    if j.twin && j.op = .compress && late && !resumed then twinJobDone j false [] s else s
  | none => s

theorem resumed_iff {j : CodecJob} {since : Nat} : (match j.resumed with | some a => decide (since ≤ a) | none => false) = true ↔ ∃ a, j.resumed = some a ∧ since ≤ a := by
  cases j.resumed <;> simp

theorem stallTimeout_eq {id since : Nat} {v : State} {j : CodecJob} (h : v.chip.store.runningJob id = some j) (twin : j.twin = true) (op : j.op = .compress) :
    stallTimeout id since v = if since + 1000 * v.chip.get CD_STALLTO_STALLTO ≤ v.chip.ns ∧ ¬ ∃ a, j.resumed = some a ∧ since ≤ a then
      { v with chip := v.chip.abortSnapshot j.soff } else v := by
  rw [stallTimeout, h]
  refine ite_congr (propext ?_) (fun _ => rfl) fun _ => rfl
  rw [twin, op, ← resumed_iff]
  simp

theorem exec_codecStallTimeout (t id since : Nat) (s : State) : exec (.codecStallTimeout t id since) s = .next (stallTimeout id since (s.at_ t)) := by
  change execCodecStallTimeout t id since s = _
  unfold execCodecStallTimeout
  generalize s.at_ t = v
  rfl

theorem stallTimeout_acts (t id since : Nat) (j : CodecJob) (s : State) :
    let c := (s.at_ t).chip
    c.store.runningJob id = some j → j.twin = true → j.op = .compress →
      let long : Prop := since + 1000 * c.get CD_STALLTO_STALLTO ≤ c.ns
      let went : Prop := ∃ a, j.resumed = some a ∧ since ≤ a
      let d := (c.setStore { c.store with jobs := c.store.jobs.filter fun k => !k.twin }).ropeSend .ropeSnap [j.soff, 2]
      (long → ¬ went → Acts (.codecStallTimeout t id since) t s { d with twin := { d.twin with snapSent := false, mirroring := false } }) ∧
      (¬ long ∨ went → Passes (.codecStallTimeout t id since) t s) := by
  have run := exec_codecStallTimeout t id since s
  unfold Acts Passes
  generalize s.at_ t = v at run ⊢
  intro c running twin op long went d
  rw [stallTimeout_eq running twin op] at run
  refine ⟨fun hl hw => ?_, fun h => ?_⟩
  · rw [if_pos ⟨hl, hw⟩, Chip.abortSnapshot] at run
    exact run
  · rw [if_neg fun k => h.elim (· k.1) k.2] at run
    exact run

/-! ### The end of a job -/

/-- From v to w the bytes bs have been stored in the job store from address a on, with their journal entry, and free values taken. -/
def Wrote (a : Nat) (bs : List Byte) (v w : State) : Prop :=
  w.pending = v.pending ∧ Stored v.mem.job w.mem.job a bs ∧ w.mem.data = v.mem.data ∧ w.mem.prog = v.mem.prog ∧ sameFields [TW_JSEQ_JSEQ] v.chip w.chip ∧
    w.chip.store = v.chip.store ∧
    { w.chip with regs := [], twin := {}, store := {}, free := 0 } = { v.chip with regs := [], twin := {}, store := {}, free := 0 }

theorem stored_nil (m : ByteMem) (a : Nat) : Stored m m a [] := fun x => (if_neg (by simp only [List.length_nil]; omega)).symm

theorem wrote_nothing (v : State) (a : Nat) : Wrote a [] v v := ⟨rfl, stored_nil _ a, rfl, rfl, fun _ _ => rfl, rfl, rfl⟩

theorem wrote_storeJ (v : State) (a : Nat) (bs : List Byte) : Wrote a bs v (storeJ v a bs) :=
  ⟨rfl, stored_write _ a bs, rfl, rfl, fun h hh => Chip.jrn_get _ _ _ _ h (hh _ List.mem_cons_self), Chip.like_store (Chip.like_jrn ..),
    (congrArg (fun d : Chip => { d with store := {}, free := 0 }) (Chip.untwinned_jrn v.chip .jwrite [a] bs) : _)⟩

theorem wrote_wipe (v : State) (a n : Nat) : Wrote a (zeros n) v (wipe v a n) := by
  unfold wipe
  split
  · next h =>
    rw [h]
    exact wrote_nothing v a
  · exact wrote_storeJ v a (zeros n)

/-- Taking a free value stores nothing. -/
theorem Wrote.of_fresh {v w : State} {a m : Nat} {bs : List Byte} (h : Wrote a bs { v with chip := (v.chip.fresh m).2 } w) : Wrote a bs v w := h

section
variable {e : Instr} {t : Nat} {j : CodecJob} {st : Nat} {res : List Byte} {a : Nat} {bs : List Byte} {s : State}

/-- A job that ends after a write. -/
theorem jobEnds_of {v w : State} {c : Chip} (mem : v.mem = s.mem) (chip : v.chip = c)
    (back : ∀ (m : Mem) (d : Chip), { v with mem := m, chip := d } = { s.at_ t with mem := m, chip := d })
    (wrote : Wrote a bs v w) (run : exec e s = .next (endJob j st res w)) : JobEnds e t j st res a bs c s := by
  obtain ⟨pending, stored, data, prog, fields, store, rest⟩ := wrote
  rw [mem] at stored data prog
  rw [chip] at fields store rest
  refine ⟨w.chip.setStore { w.chip.store with jobs := w.chip.store.jobs.filter fun k => k.id ≠ j.id }, w.mem, ?_, stored, data, prog,
    fields, by rw [store]; rfl, rest⟩
  rw [run, ← back]
  obtain ⟨m, d, p⟩ := w
  cases pending
  rfl

end

/-- What the end of running job id does. -/
def jobDone (id : Nat) (r : Ecc) (bad : List Nat) (vfail : Bool) (s : State) : State :=
  match s.chip.store.runningJob id with
  | some j =>
    if j.twin then
      if j.op = .compress then twinJobDone j (r ≠ .uncorrectable && !vfail) bad (s.onChip fun c => (c.jobStoreRead r).verifier bad vfail)
      else s
    else if j.op = .sealTile then sealJobDone j r s else hostJobDone j r bad vfail s
  | none => s

theorem exec_codecJobDone (t id : Nat) (r : Ecc) (bad : List Nat) (vfail : Bool) (s : State) :
    exec (.codecJobDone t id r bad vfail) s = .next (jobDone id r bad vfail (s.at_ t)) := by
  change execCodecJobDone t id r bad vfail s = _
  unfold execCodecJobDone
  generalize s.at_ t = v
  rfl

section
variable {id : Nat} {r : Ecc} {bad : List Nat} {vfail : Bool} {v : State} {j : CodecJob} (running : v.chip.store.runningJob id = some j)
include running

theorem jobDone_host (host : j.twin = false) (op : j.op ≠ .sealTile) : jobDone id r bad vfail v = hostJobDone j r bad vfail v := by
  rw [jobDone, running]
  exact (if_neg (by rw [host]; decide)).trans (if_neg op)

theorem jobDone_seal (host : j.twin = false) (op : j.op = .sealTile) : jobDone id r bad vfail v = sealJobDone j r v := by
  rw [jobDone, running]
  exact (if_neg (by rw [host]; decide)).trans (if_pos op)

theorem jobDone_pack (twin : j.twin = true) (op : j.op = .compress) : jobDone id r bad vfail v =
    twinJobDone j (r ≠ .uncorrectable && !vfail) bad (v.onChip fun c => (c.jobStoreRead r).verifier bad vfail) := by
  rw [jobDone, running]
  exact (if_pos twin).trans (if_pos op)

theorem jobDone_unpack (twin : j.twin = true) (op : j.op ≠ .compress) : jobDone id r bad vfail v = v := by
  rw [jobDone, running]
  exact (if_pos twin).trans (if_neg op)

end

/-! ### COMPRESS and DECOMPRESS jobs -/

/-- The chip once a job has read its source, and a COMPRESS job has been verified. -/
def Chip.readJob (c : Chip) (j : CodecJob) (r : Ecc) (bad : List Nat) (vfail : Bool) : Chip :=
  if j.op = .compress then (c.jobStoreRead r).verifier bad vfail else c.jobStoreRead r

section
variable {j : CodecJob} {r : Ecc} {bad : List Nat} {vfail : Bool} {v : State} {a b : Alloc}
variable (src : v.chip.store.find j.src = some a) (dst : v.chip.store.find j.dst = some b)
include src dst

/-- A host job that ends: its failure, its sealed destination, its output, or what it could not fit. -/
theorem hostJobDone_eq : hostJobDone j r bad vfail v =
    let u : State := { v with chip := v.chip.readJob j r bad vfail }
    let res := codecResult j (v.mem.job.read (a.start + j.soff) j.len) bad
    if r = .uncorrectable ∨ (j.op = .compress ∧ vfail = true) then endJob j (if r = .uncorrectable then 0x0A else 2) (le 4 0)
      (wipe { u with chip := (u.chip.fresh (res.1.length + 1)).2 } (b.start + j.doff)
        (if b.isSealed then 0 else (u.chip.fresh (res.1.length + 1)).1))
    else if b.isSealed then endJob j 5 (le 4 0) u
    else if res.2 = 0 then endJob j 0 (le 4 res.1.length) (storeJ u (b.start + j.doff) res.1)
    else endJob j res.2 (le 4 0) (wipe u (b.start + j.doff) res.1.length) := by
  rw [hostJobDone, src, dst]
  dsimp only [State.onChip]
  simp only [decide_eq_true_eq]
  rfl

end

theorem hostJob_acts (t id : Nat) (r : Ecc) (bad : List Nat) (vfail : Bool) (j : CodecJob) (s : State) (a b : Alloc) :
    let e := Instr.codecJobDone t id r bad vfail
    let c := (s.at_ t).chip
    c.store.runningJob id = some j → j.twin = false → j.op ≠ .sealTile → c.store.find j.src = some a → c.store.find j.dst = some b →
        let d := if j.op = .compress then (c.jobStoreRead r).verifier bad vfail else c.jobStoreRead r
        let dst := b.start + j.doff
        let out := (codecResult j (s.mem.job.read (a.start + j.soff) j.len) bad).1
        let st := (codecResult j (s.mem.job.read (a.start + j.soff) j.len) bad).2
        let unverified : Prop := j.op = .compress ∧ vfail = true
        (r = .uncorrectable → ∃ n, n ≤ (if b.isSealed then 0 else out.length) ∧ JobEnds e t j 0x0A (le 4 0) dst (zeros n) d s) ∧
        (r ≠ .uncorrectable → unverified → ∃ n, n ≤ (if b.isSealed then 0 else out.length) ∧ JobEnds e t j 2 (le 4 0) dst (zeros n) d s) ∧
        (r ≠ .uncorrectable → ¬ unverified → b.isSealed = true → JobEnds e t j 5 (le 4 0) dst [] d s) ∧
        (r ≠ .uncorrectable → ¬ unverified → b.isSealed = false → st = 0 → JobEnds e t j 0 (le 4 out.length) dst out d s) ∧
        (r ≠ .uncorrectable → ¬ unverified → b.isSealed = false → st ≠ 0 → JobEnds e t j st (le 4 0) dst (zeros out.length) d s) := by
  have run := exec_codecJobDone t id r bad vfail s
  have mem := s.at_mem t
  intro e c
  generalize hv : s.at_ t = v at run mem
  have hc : c = v.chip := congrArg State.chip hv
  clear_value c
  cases hc
  intro running host op src dst d place out st unverified
  rw [jobDone_host running host op, hostJobDone_eq src dst, show v.mem.job = s.mem.job from congrArg Mem.job mem] at run
  have back' (m : Mem) (f : Chip) : { ({ v with chip := d } : State) with mem := m, chip := f } = { s.at_ t with mem := m, chip := f } := by rw [hv]
  have ends {st : Nat} {res : List Byte} {bs : List Byte} {w : State} (wrote : Wrote place bs { v with chip := d } w)
      (run : exec e s = .next (endJob j st res w)) : JobEnds e t j st res place bs d s := jobEnds_of (v := { v with chip := d }) mem rfl back' wrote run
  have some_ (m : Nat) : (if b.isSealed then 0 else m % (out.length + 1)) ≤ if b.isSealed then 0 else out.length := by
    split
    · exact Nat.le_refl 0
    · exact Nat.le_of_lt_succ (Nat.mod_lt _ (Nat.succ_pos _))
  refine ⟨fun lost => ?_, fun ok bad => ?_, fun ok good sealed => ?_, fun ok good open_ fits => ?_, fun ok good open_ fails => ?_⟩
  · exact ⟨_, some_ _, ends (Wrote.of_fresh (wrote_wipe ..)) (run.trans (congrArg Host.Outcome.next ((if_pos (.inl lost)).trans (by rw [if_pos lost]; rfl))))⟩
  · exact ⟨_, some_ _, ends (Wrote.of_fresh (wrote_wipe ..)) (run.trans (congrArg Host.Outcome.next ((if_pos (.inr bad)).trans (by rw [if_neg ok]; rfl))))⟩
  · exact ends (wrote_nothing ..) (run.trans (congrArg Host.Outcome.next ((if_neg (not_or.2 ⟨ok, good⟩)).trans (if_pos sealed))))
  · exact ends (wrote_storeJ ..) (run.trans (congrArg Host.Outcome.next ((if_neg (not_or.2 ⟨ok, good⟩)).trans
      ((if_neg (Bool.eq_false_iff.1 open_)).trans (if_pos fits)))))
  · exact ends (wrote_wipe ..) (run.trans (congrArg Host.Outcome.next ((if_neg (not_or.2 ⟨ok, good⟩)).trans
      ((if_neg (Bool.eq_false_iff.1 open_)).trans (if_neg fails)))))

/-! ### SEAL jobs -/

section
variable {j : CodecJob} {r : Ecc} {v : State} {a : Alloc}

/-- What the checks of a SEAL job that has read its tile do. -/
def sealChecked (j : CodecJob) (a : Alloc) (s : State) : State :=
  let k := sealChecks s.mem.job a.start a.size
  if k.1 ≠ 0 then endJob j 0x0C (le 4 k.1 ++ le 4 k.2.1 ++ le 4 k.2.2) s
  else if a.pin ∧ pinFull s a then endJob j 0x0D [] s
  else endJob j 0 (zeros 12) (s.onChip (·.putAlloc { a with isSealed := true, tile := true }))

theorem sealJobDone_eq (src : v.chip.store.find j.src = some a) : sealJobDone j r v =
    if r = .uncorrectable then endJob j 0x0A [] { v with chip := v.chip.jobStoreRead r } else sealChecked j a { v with chip := v.chip.jobStoreRead r } := by
  rw [sealJobDone, src]
  rfl

end

theorem sealJob_acts (t id : Nat) (r : Ecc) (bad : List Nat) (vfail : Bool) (j : CodecJob) (s : State) (a : Alloc) :
    let e := Instr.codecJobDone t id r bad vfail
    let c := (s.at_ t).chip
    c.store.runningJob id = some j → j.twin = false → j.op = .sealTile → c.store.find j.src = some a →
        let d := c.jobStoreRead r
        let k := sealChecks s.mem.job a.start a.size
        let full : Prop := a.pin = true ∧ pinFull { s.at_ t with chip := d } a = true
        let gone (c : Chip) : Chip := c.setStore { c.store with jobs := c.store.jobs.filter fun k => k.id ≠ j.id }
        let ends (st : Nat) (res : List Byte) (c : Chip) : Prop := Acts e t s ((gone c).complete j.queue j.tag j.rx st res)
        (r = .uncorrectable → ends 0x0A [] d) ∧
        (r ≠ .uncorrectable → k.1 ≠ 0 → ends 0x0C (le 4 k.1 ++ le 4 k.2.1 ++ le 4 k.2.2) d) ∧
        (r ≠ .uncorrectable → k.1 = 0 → full → ends 0x0D [] d) ∧
        (r ≠ .uncorrectable → k.1 = 0 → ¬ full → ends 0 (zeros 12) (d.putAlloc { a with isSealed := true, tile := true })) := by
  have run := exec_codecJobDone t id r bad vfail s
  have mem := s.at_mem t
  unfold Acts
  generalize s.at_ t = v at run mem ⊢
  intro e c running host op src
  rw [jobDone_seal running host op, sealJobDone_eq src] at run
  have checks : sealChecks ({ v with chip := v.chip.jobStoreRead r } : State).mem.job a.start a.size = sealChecks s.mem.job a.start a.size :=
    congrArg (fun m : Mem => sealChecks m.job a.start a.size) mem
  intro d k full gone ends
  refine ⟨fun lost => run.trans (congrArg Host.Outcome.next (if_pos lost)), fun ok fails => ?_, fun ok good full' => ?_, fun ok good room => ?_⟩
  · rw [if_neg ok, sealChecked, checks] at run
    exact run.trans (congrArg Host.Outcome.next (if_pos fails))
  · rw [if_neg ok, sealChecked, checks] at run
    exact run.trans (congrArg Host.Outcome.next ((if_neg (Classical.not_not.2 good)).trans (if_pos full')))
  · rw [if_neg ok, sealChecked, checks] at run
    exact run.trans (congrArg Host.Outcome.next ((if_neg (Classical.not_not.2 good)).trans (if_neg room)))

/-! ### Packing jobs -/

section
variable {c : Chip} {n : Nat}

/-- The next section is packed, or aborted where its job finds no room. -/
def Chip.nextSection (c : Chip) (n : Nat) : Chip := (c.packSection n).getD (c.abortSnapshot n)

theorem Chip.nextSection_full (h : 256 ≤ c.store.waiting.length) : c.nextSection n = c.abortSnapshot n := by
  rw [Chip.nextSection, Chip.packSection, if_pos h]
  rfl

theorem Chip.nextSection_joins (h : c.store.waiting.length < 256) : c.nextSection n = c.setStore { c.store with
    jobs := c.store.jobs ++ [{ id := c.store.nextJob, op := .compress, twin := true, kind := 1, soff := n }]
    nextJob := c.store.nextJob + 1 } := by
  rw [Chip.nextSection, Chip.packSection, if_neg (Nat.not_le.2 h)]
  rfl

end

/-- The chip once a section has left. -/
def Chip.sendSection (c : Chip) (j : CodecJob) (stream : List Byte) : Chip :=
  (c.setStore { c.store with jobs := c.store.jobs.filter fun k => k.id ≠ j.id }).ropeSend .ropeSnap [j.soff, 1] stream

section
variable {j : CodecJob} {ok : Bool} {bad : List Nat} {v : State}

theorem twinJobDone_fails (h : ok = false) : twinJobDone j ok bad v = v.onChip (·.abortSnapshot j.soff) := if_pos (by rw [h]; rfl)

theorem twinJobDone_sends (h : ok = true) : twinJobDone j ok bad v = v.onChip fun c =>
    let sent := c.sendSection j (compressUnits 1 (sectionBytes (section_ v j.soff)) bad).flatten
    if 10 ≤ j.soff then sent else sent.nextSection (j.soff + 1) :=
  if_neg (by rw [h]; decide)

end

theorem packJob_acts (t id : Nat) (r : Ecc) (bad : List Nat) (vfail : Bool) (j : CodecJob) (s : State) :
    let e := Instr.codecJobDone t id r bad vfail
    let c := (s.at_ t).chip
    c.store.runningJob id = some j → j.twin = true → j.op = .compress →
        let d := (c.jobStoreRead r).verifier bad vfail
        let stream := (compressUnits 1 (sectionBytes (section_ { s.at_ t with chip := d } j.soff)) bad).flatten
        let sent := (d.setStore { d.store with jobs := d.store.jobs.filter fun k => k.id ≠ j.id }).ropeSend .ropeSnap [j.soff, 1] stream
        let fails (c : Chip) (n : Nat) : Chip :=
          let f := (c.setStore { c.store with jobs := c.store.jobs.filter fun k => !k.twin }).ropeSend .ropeSnap [n, 2]
          { f with twin := { f.twin with snapSent := false, mirroring := false } }
        (r ≠ .uncorrectable → vfail = false → 10 ≤ j.soff → Acts e t s sent) ∧
        (r ≠ .uncorrectable → vfail = false → j.soff < 10 → sent.store.waiting.length < 256 →
          Acts e t s (sent.setStore { sent.store with
            jobs := sent.store.jobs ++ [{ id := sent.store.nextJob, op := .compress, twin := true, kind := 1, soff := j.soff + 1 }]
            nextJob := sent.store.nextJob + 1 })) ∧
        (r ≠ .uncorrectable → vfail = false → j.soff < 10 → 256 ≤ sent.store.waiting.length → Acts e t s (fails sent (j.soff + 1))) ∧
        (r = .uncorrectable ∨ vfail = true → Acts e t s (fails d j.soff)) := by
  have run := exec_codecJobDone t id r bad vfail s
  unfold Acts
  generalize s.at_ t = v at run ⊢
  intro e c running twin op
  rw [jobDone_pack running twin op] at run
  intro d stream sent fails
  have good (ok : r ≠ .uncorrectable) (verified : vfail = false) : (decide (r ≠ .uncorrectable) && !vfail) = true := by
    rw [verified, decide_eq_true ok]
    rfl
  refine ⟨fun ok verified last => ?_, fun ok verified more room => ?_, fun ok verified more full => ?_, fun bad => ?_⟩
  · rw [twinJobDone_sends (good ok verified)] at run
    exact run.trans (congrArg (fun f : Chip => Host.Outcome.next { v with chip := f }) (if_pos last))
  · rw [twinJobDone_sends (good ok verified)] at run
    exact run.trans (congrArg (fun f : Chip => Host.Outcome.next { v with chip := f }) ((if_neg (Nat.not_le.2 more)).trans (Chip.nextSection_joins room)))
  · rw [twinJobDone_sends (good ok verified)] at run
    exact run.trans (congrArg (fun f : Chip => Host.Outcome.next { v with chip := f }) ((if_neg (Nat.not_le.2 more)).trans (Chip.nextSection_full full)))
  · have lost : (decide (r ≠ .uncorrectable) && !vfail) = false := by
      rcases bad with h | h <;> simp [h]
    rw [twinJobDone_fails lost] at run
    exact run

theorem unpackJob_passes (t id : Nat) (r : Ecc) (bad : List Nat) (vfail : Bool) (j : CodecJob) (s : State) :
    (s.at_ t).chip.store.runningJob id = some j → j.twin = true → j.op = .decompress → Passes (.codecJobDone t id r bad vfail) t s := by
  have run := exec_codecJobDone t id r bad vfail s
  unfold Passes
  generalize s.at_ t = v at run ⊢
  intro running twin op
  rwa [jobDone_unpack running twin (by rw [op]; decide)] at run

/-! ### The scrub and tile fetches -/

section
variable {c : Chip} {b : Blk} {i : Nat} (calm : c.is (FINJ_ARM b i) = false)
include calm

theorem Chip.armedInj_calm : c.armedInj b i = none := if_neg (by rw [calm]; decide)

theorem Chip.checker_calm (s cell : Nat) : c.checker b i s cell = (false, c) := by rw [Chip.checker, Chip.armedInj_calm calm]

theorem Chip.checked_calm (o : Occ) (real : Bool) : c.checked b i o real = if real = true then c.raise b i o else c := by
  rw [Chip.checked, Chip.checker_calm calm]
  rfl

theorem Chip.inject_calm (srcs : List Nat) : c.inject b i srcs = c := by rw [Chip.inject, Chip.armedInj_calm calm]

end

theorem scrub_acts (t : Nat) (r : Ecc) (s : State) :
    let c := (s.at_ t).chip
    c.regionOn 4 = true → c.is (FINJ_ARM .js 0) = false →
      (r = .corrected → Acts (.jobStoreScrub t r) t s (c.raise .js 0 { src := 0, acted := 0 })) ∧ (r ≠ .corrected → Passes (.jobStoreScrub t r) t s) := by
  have run : exec (.jobStoreScrub t r) s = .next ((s.at_ t).onChip fun c => if c.regionOn 4 then c.jobStoreRead r else c) := rfl
  unfold Acts Passes
  generalize s.at_ t = v at run ⊢
  intro c on calm
  rw [State.onChip, if_pos on, Chip.jobStoreRead, Chip.checked_calm calm] at run
  refine ⟨fun h => ?_, fun h => ?_⟩
  · rw [if_pos (decide_eq_true h)] at run
    exact run
  · rw [if_neg (by rw [decide_eq_false h]; decide)] at run
    exact run

/-- The chip of a fetch that fails. -/
def Chip.loseFetch (d : Chip) (h sg b : Nat) (x : Fetch) : Chip := d.setStore { d.store with
  lines := d.store.lines.filter fun y => !y.of h sg b
  fetches := d.store.fetches.map fun y => if y = x then { y with busy := false, failed := true } else y }

/-- The chip of a fetch that has filled its lines. -/
def Chip.fillFetch (d : Chip) (h sg b : Nat) (x : Fetch) : Chip := d.setStore { d.store with
  lines := d.store.lines.map fun y => if y.of h sg b then { y with locked := false } else y
  fetches := d.store.fetches.filter fun y => y ≠ x }

section
variable {h sg b retries : Nat} {r : Ecc} {v : State}

theorem tileFetchDone_none (none : (v.chip.store.fetches.find? fun x => x.h = h && x.sg = sg && x.b = b && x.busy) = none) :
    tileFetchDone h sg b retries r v = v := by rw [tileFetchDone, none]

variable {x : Fetch} (found : (v.chip.store.fetches.find? fun x => x.h = h && x.sg = sg && x.b = b && x.busy) = some x)
  {a : Alloc} (src : v.chip.store.find h = some a) (sealed : a.isSealed = true) (tile : a.tile = true)
  {d : Chip} (hd : d = (v.chip.jobStoreRead r).bump CD_FERR_RETRY (min retries 3)) (calm : d.is (FINJ_ARM .cd 0) = false)
include found src sealed tile hd calm

theorem tileFetchDone_fails (bad : r = .uncorrectable ∨ (tileOf v.mem.job a).stream v.mem.job a.start sg b = none) : tileFetchDone h sg b retries r v =
    { v with chip := ((((d.loseFetch h sg b x).bump CD_FERR_FAIL).raise .cd 0
      { src := 2, detail := h + sg % 2 ^ 32 * 2 ^ 32, detail2 := b % 65536 }).startFetches.sampleDemand) } := by
  have isBad : (decide (r = .uncorrectable) || (v.chip.store.find h).any fun a =>
      a.isSealed && a.tile && ((tileOf v.mem.job a).stream v.mem.job a.start sg b).isNone) = true := by
    rcases bad with h | h <;> simp [h, src, sealed, tile]
  have calm' : ((d.loseFetch h sg b x).bump CD_FERR_FAIL).is (FINJ_ARM .cd 0) = false := by
    rw [Chip.is_eq_false_iff] at calm ⊢
    exact (Chip.get_set_ne _ _ _ _ (by decide)).trans calm
  rw [tileFetchDone, found]
  dsimp only
  rw [isBad, State.onChip]
  rw [if_pos rfl, if_pos rfl, ← hd]
  exact congrArg (fun f : Chip => { v with chip := f.startFetches.sampleDemand }) ((Chip.checked_calm calm' _ true).trans (if_pos rfl))

theorem tileFetchDone_fills (good : ¬ (r = .uncorrectable ∨ (tileOf v.mem.job a).stream v.mem.job a.start sg b = none)) :
    tileFetchDone h sg b retries r v = { v with chip := ((d.fillFetch h sg b x).startFetches.sampleDemand) } := by
  obtain ⟨ok, stream⟩ := not_or.1 good
  have isGood : (decide (r = .uncorrectable) || (v.chip.store.find h).any fun a =>
      a.isSealed && a.tile && ((tileOf v.mem.job a).stream v.mem.job a.start sg b).isNone) = false := by
    simp [ok, src, sealed, tile, Option.isSome_iff_ne_none.2 stream]
  have calm' : (d.fillFetch h sg b x).is (FINJ_ARM .cd 0) = false := calm
  rw [tileFetchDone, found]
  dsimp only
  rw [isGood, State.onChip]
  rw [if_neg (by decide), if_neg (by decide), ← hd]
  exact congrArg (fun f : Chip => { v with chip := f.startFetches.sampleDemand }) (Chip.inject_calm calm' [2])

end

theorem fetch_acts (t h sg b retries : Nat) (r : Ecc) (s : State) :
    let e := Instr.tileFetchDone t h sg b retries r
    let c := (s.at_ t).chip
    let works (x : Fetch) : Bool := x.h = h && x.sg = sg && x.b = b && x.busy
    let d := (c.jobStoreRead r).bump CD_FERR_RETRY (min retries 3)
    (c.store.fetches.find? works = none → Passes e t s) ∧
    (∀ x a, c.store.fetches.find? works = some x → c.store.find h = some a → a.isSealed = true → a.tile = true → c.is (FINJ_ARM .cd 0) = false →
      d.is (FINJ_ARM .cd 0) = false →
      let bad : Prop := r = .uncorrectable ∨ (tileOf s.mem.job a).stream s.mem.job a.start sg b = none
      let full := d.setStore { d.store with
        lines := d.store.lines.map fun y => if y.of h sg b then { y with locked := false } else y
        fetches := d.store.fetches.filter fun y => y ≠ x }
      let lost := d.setStore { d.store with
        lines := d.store.lines.filter fun y => !y.of h sg b
        fetches := d.store.fetches.map fun y => if y = x then { y with busy := false, failed := true } else y }
      (bad → Acts e t s
        (((lost.bump CD_FERR_FAIL).raise .cd 0 { src := 2, detail := h + sg % 2 ^ 32 * 2 ^ 32, detail2 := b % 65536 }).startFetches.sampleDemand)) ∧
      (¬ bad → Acts e t s full.startFetches.sampleDemand)) := by
  have run : exec (.tileFetchDone t h sg b retries r) s = .next (tileFetchDone h sg b retries r (s.at_ t)) := rfl
  have mem := s.at_mem t
  unfold Acts Passes
  generalize s.at_ t = v at run mem ⊢
  intro e c works d
  have job : s.mem.job = v.mem.job := congrArg Mem.job mem.symm
  rw [job]
  refine ⟨fun none => run.trans (congrArg Host.Outcome.next (tileFetchDone_none none)), fun x a found src sealed tile _ calm => ?_⟩
  intro bad full lost
  exact ⟨fun h => run.trans (congrArg Host.Outcome.next (tileFetchDone_fails found src sealed tile rfl calm h)),
    fun h => run.trans (congrArg Host.Outcome.next (tileFetchDone_fills found src sealed tile rfl calm h))⟩

/-- Settles O41: each event takes the branch that its hypotheses name. -/
theorem codecJobsAndTileFetches : Obligations.CodecJobsAndTileFetches := by
  unfold Obligations.CodecJobsAndTileFetches
  exact ⟨start_acts, preempt_acts, stallEnd_acts, stallTimeout_acts, fun t id r bad vfail j s running =>
    ⟨fun a b => hostJob_acts t id r bad vfail j s a b running, fun a => sealJob_acts t id r bad vfail j s a running,
      unpackJob_passes t id r bad vfail j s running, packJob_acts t id r bad vfail j s running⟩, scrub_acts, fetch_acts⟩

end Sys2Proof.Machine
end

section
/-!
PROOFS. Sessions (R343 to R346), the PCIe rings (R347, R348), and the enables of queues and tenants (R330 to R333).
-/
namespace Sys2Proof.Machine

/-! ### Events of the chip alone -/

/-- An event that only runs g on the chip acts as g does. -/
theorem acts_onChip {e : Instr} {t : Nat} {s : State} (g : Chip → Chip) (run : exec e s = .next ((s.at_ t).onChip g)) {d : Chip} (h : g (s.at_ t).chip = d) :
    Acts e t s d := .of_onChip g run h

theorem passes_onChip {e : Instr} {t : Nat} {s : State} (g : Chip → Chip) (run : exec e s = .next ((s.at_ t).onChip g)) (h : g (s.at_ t).chip = (s.at_ t).chip) :
    Passes e t s := .of_onChip g run h

/-! ### OPEN -/

section
variable {c : Chip} {m p addr udp : Nat} {frame : List Byte}

theorem Chip.openSession_bad (h : frameOk frame = false) : c.openSession m p addr udp frame = c.bump (HP_CNT_SEQERR p) := if_pos (by rw [h]; rfl)

/-- OPEN opens a session. -/
def Chip.mayOpen (c : Chip) (m p : Nat) (frame : List Byte) : Prop :=
  frameType frame = 1 ∧ frameTenant frame = m ∧ c.get HL_PSTAT_STATE = 2 ∧ bit (c.get QM_TEN_EN) m = true ∧ bit (c.get (QM_GRANT_PORTS m)) p = true ∧ c.session m p = none

theorem mayOpen_iff : (frameType frame = 1 ∧ frameTenant frame = m ∧ c.get HL_PSTAT_STATE = 2 ∧ bit (c.get QM_TEN_EN) m ∧ bit (c.get (QM_GRANT_PORTS m)) p ∧
    (c.session m p).isNone) ↔ c.mayOpen m p frame := by rw [Chip.mayOpen, Option.isNone_iff_eq_none]

variable (ok : frameOk frame = true)
include ok

theorem Chip.openSession_opens (may : c.mayOpen m p frame) : c.openSession m p addr udp frame =
    ((c.setSession m p (some { addr := addr, udp := udp, expect := 1, send := 0, lastNs := c.ns })).sendFrame .openReply m p 1 0 0 []).deliverPort m p :=
  (if_neg (by rw [ok]; decide)).trans (if_pos (mayOpen_iff.2 may))

variable (not : ¬ c.mayOpen m p frame)
include not

theorem Chip.openSession_kept {ses : Session} (found : c.session (frameTenant frame) p = some ses) (ha : ses.addr = addr) (hu : ses.udp = udp) :
    c.openSession m p addr udp frame = c.setSession (frameTenant frame) p (some { ses with lastNs := c.ns }) := by
  refine (if_neg (by rw [ok]; decide)).trans ((if_neg (mt mayOpen_iff.1 not)).trans ?_)
  rw [found]
  exact if_pos ⟨ha, hu⟩

theorem Chip.openSession_ignored (other : ∀ ses, c.session (frameTenant frame) p = some ses → ses.addr = addr → ses.udp ≠ udp) :
    c.openSession m p addr udp frame = c := by
  refine (if_neg (by rw [ok]; decide)).trans ((if_neg (mt mayOpen_iff.1 not)).trans ?_)
  split
  · next ses found => exact if_neg fun h => other ses found h.1 h.2
  · rfl

end

/-! ### Datagrams of a session -/

section
variable {c d : Chip} {p addr udp ty : Nat} {frame : List Byte} {ses : Session} {f : Session → Chip → Chip}

theorem Chip.datagram_bad (h : frameOk frame = false) : c.datagram p addr udp ty frame f = c.bump (HP_CNT_SEQERR p) := if_pos (by rw [h]; rfl)

theorem Chip.datagram_heard (ok : frameOk frame = true) (type : frameType frame = ty) (found : c.session (frameTenant frame) p = some ses) (ha : ses.addr = addr)
    (hu : ses.udp = udp) : c.datagram p addr udp ty frame f =
    f { ses with lastNs := c.ns } (c.setSession (frameTenant frame) p (some { ses with lastNs := c.ns })) := by
  refine (if_neg (by rw [ok]; decide)).trans ((if_neg (Classical.not_not.2 type)).trans ?_)
  rw [found]
  exact if_neg fun h => h.elim (· ha) (· hu)

/-- What a datagram does that is heard at time t. -/
theorem heard_acts {t : Nat} {port : Fin 4} {e : Instr} {s : State} (heard : Heard t port addr udp ty frame ses c s)
    (run : exec e s = .next ((s.at_ t).onChip fun c => c.datagram port addr udp ty frame f)) (h : f { ses with lastNs := (s.at_ t).chip.ns } c = d) : Acts e t s d := by
  obtain ⟨ok, type, found, ha, hu, hc⟩ := heard
  refine acts_onChip _ run ?_
  generalize (s.at_ t).chip = b at *
  rw [Chip.datagram_heard ok type found ha hu, ← hc, h]

end

section
variable {c : Chip} {p : Nat} {ses : Session} {frame : List Byte} {f : Chip → Chip}

theorem Chip.inOrder_lost (lost : ses.lost = true) : c.inOrder p ses frame f = c := if_pos lost

variable (kept : ses.lost = false)
include kept

theorem Chip.inOrder_next (h : frameXseq frame = ses.expect) : c.inOrder p ses frame f =
    f (c.setSession (frameTenant frame) p (some { ses with expect := (frameXseq frame + 1) % 2 ^ 32 })) := by
  rw [h]
  exact (if_neg (by rw [kept]; decide)).trans (if_pos h)

variable (other : frameXseq frame ≠ ses.expect)
include other

theorem Chip.inOrder_gap (h : (frameXseq frame + 2 ^ 32 - ses.expect) % 2 ^ 32 < 2 ^ 31) : c.inOrder p ses frame f =
    ((c.setSession (frameTenant frame) p (some { ses with lost := true })).bump (HP_CNT_SEQERR p)).raise .hp p { src := 1 } :=
  (if_neg (by rw [kept]; decide)).trans ((if_neg other).trans (if_pos h))

theorem Chip.inOrder_duplicate (h : ¬ (frameXseq frame + 2 ^ 32 - ses.expect) % 2 ^ 32 < 2 ^ 31) : c.inOrder p ses frame f = c :=
  (if_neg (by rw [kept]; decide)).trans ((if_neg other).trans (if_neg h))

end

/-! ### The clauses -/

theorem open_acts (t : Nat) (m : Fin 8) (p : Fin 4) (addr udp : Nat) (frame : List Byte) (s : State) :
    let e := Instr.openSession t m p addr udp frame
    let c := (s.at_ t).chip
    let may : Prop := frameType frame = 1 ∧ frameTenant frame = m ∧ c.get HL_PSTAT_STATE = 2 ∧ bit (c.get QM_TEN_EN) m = true ∧
      bit (c.get (QM_GRANT_PORTS m)) p = true ∧ c.session m p = none
    let new : Session := { addr := addr, udp := udp, expect := 1, send := 0, lastNs := c.ns }
    (frameOk frame = false → Acts e t s (c.bump (HP_CNT_SEQERR p))) ∧
    (frameOk frame = true → may → Acts e t s (((c.setSession m p (some new)).sendFrame .openReply m p 1 0 0 []).deliverPort m p)) ∧
    (frameOk frame = true → ¬ may → ∀ ses, c.session (frameTenant frame) p = some ses → ses.addr = addr → ses.udp = udp →
      Acts e t s (c.setSession (frameTenant frame) p (some { ses with lastNs := c.ns }))) ∧
    (frameOk frame = true → ¬ may → (∀ ses, c.session (frameTenant frame) p = some ses → ses.addr = addr → ses.udp ≠ udp) → Passes e t s) := by
  have run : exec (.openSession t m p addr udp frame) s = .next ((s.at_ t).onChip (·.openSession m p addr udp frame)) := rfl
  have acts {d : Chip} := acts_onChip (d := d) _ run
  have passes := passes_onChip _ run
  generalize (s.at_ t).chip = c at acts passes ⊢
  exact ⟨fun bad => acts (Chip.openSession_bad bad), fun ok may => acts (Chip.openSession_opens ok may),
    fun ok not ses found ha hu => acts (Chip.openSession_kept ok not found ha hu), fun ok not other => passes (Chip.openSession_ignored ok not other)⟩

theorem badFrame_acts (t : Nat) (p : Fin 4) (addr udp : Nat) (frame : List Byte) (s : State) (bad : frameOk frame = false) :
    ∀ e ∈ [Instr.closeSession t p addr udp frame, .descFrame t p addr udp frame, .bulk t p addr udp frame, .resync t p addr udp frame],
      Acts e t s ((s.at_ t).chip.bump (HP_CNT_SEQERR p)) := by
  have counts {e : Instr} {ty : Nat} {f : Session → Chip → Chip} (run : exec e s = .next ((s.at_ t).onChip fun c => c.datagram p addr udp ty frame f)) :
      Acts e t s ((s.at_ t).chip.bump (HP_CNT_SEQERR p)) := acts_onChip _ run (Chip.datagram_bad bad)
  simp only [List.forall_mem_cons, List.not_mem_nil, false_implies, implies_true, and_true]
  exact ⟨counts rfl, counts rfl, counts rfl, counts rfl⟩

/-- DESC and BULK frames are taken in order. -/
theorem ordered_acts {e : Instr} {ty : Nat} {f : Chip → Chip} {t : Nat} {p : Fin 4} {addr udp : Nat} {frame : List Byte} {ses : Session} {c : Chip} {s : State}
    (run : exec e s = .next ((s.at_ t).onChip fun c => c.datagram p addr udp ty frame fun ses c => c.inOrder p ses frame f)) (heard : Heard t p addr udp ty frame ses c s) :
    let n := frameTenant frame
    let x := frameXseq frame
    let next := c.setSession n p (some { ses with lastNs := (s.at_ t).chip.ns, expect := (x + 1) % 2 ^ 32 })
    let stop := c.setSession n p (some { ses with lastNs := (s.at_ t).chip.ns, lost := true })
    let ahead : Prop := (x + 2 ^ 32 - ses.expect) % 2 ^ 32 < 2 ^ 31
    (ses.lost = true → Acts e t s c) ∧
    (ses.lost = false → x = ses.expect → Acts e t s (f next)) ∧
    (ses.lost = false → x ≠ ses.expect → ahead → Acts e t s ((stop.bump (HP_CNT_SEQERR p)).raise .hp p { src := 1 })) ∧
    (ses.lost = false → x ≠ ses.expect → ¬ ahead → Acts e t s c) := by
  have acts {d : Chip} := heard_acts (d := d) heard run
  generalize (s.at_ t).chip.ns = now at acts ⊢
  exact ⟨fun lost => acts (Chip.inOrder_lost (ses := { ses with lastNs := now }) lost),
    fun kept next => acts (Chip.inOrder_next (ses := { ses with lastNs := now }) kept next),
    fun kept other ahead => acts (Chip.inOrder_gap (ses := { ses with lastNs := now }) kept other ahead),
    fun kept other behind => acts (Chip.inOrder_duplicate (ses := { ses with lastNs := now }) kept other behind)⟩

theorem frames_act (t : Nat) (p : Fin 4) (addr udp : Nat) (frame : List Byte) (ses : Session) (c : Chip) (s : State) :
    ∀ e ∈ [(Instr.descFrame t p addr udp frame, 3), (.bulk t p addr udp frame, 6)], Heard t p addr udp e.2 frame ses c s →
      let n := frameTenant frame
      let x := frameXseq frame
      let next := c.setSession n p (some { ses with lastNs := (s.at_ t).chip.ns, expect := (x + 1) % 2 ^ 32 })
      let stop := c.setSession n p (some { ses with lastNs := (s.at_ t).chip.ns, lost := true })
      let ahead : Prop := (x + 2 ^ 32 - ses.expect) % 2 ^ 32 < 2 ^ 31
      (ses.lost = true → Acts e.1 t s c) ∧
      (ses.lost = false → x = ses.expect → Acts e.1 t s
        (if e.2 = 3 then next.forAll (frameRecords frame) (fun c d => c.arrive n p d [] false)
         else next.arrive n p ((frame.drop 32).take 64) (frame.drop 96) true)) ∧
      (ses.lost = false → x ≠ ses.expect → ahead → Acts e.1 t s ((stop.bump (HP_CNT_SEQERR p)).raise .hp p { src := 1 })) ∧
      (ses.lost = false → x ≠ ses.expect → ¬ ahead → Acts e.1 t s c) :=
  List.forall_mem_cons.2 ⟨fun heard => ordered_acts (f := fun c => c.forAll (frameRecords frame) fun c d => c.arrive (frameTenant frame) p d [] false) rfl heard,
    List.forall_mem_singleton.2 fun heard => ordered_acts (f := fun c => c.arrive (frameTenant frame) p ((frame.drop 32).take 64) (frame.drop 96) true) rfl heard⟩

theorem sessionTimeout_acts (t : Nat) (m : Fin 8) (p : Fin 4) (ses : Session) (s : State) (found : (s.at_ t).chip.session m p = some ses) :
    (ses.lastNs + 100000000 ≤ (s.at_ t).chip.ns → Acts (.sessionTimeout t m p) t s ((s.at_ t).chip.setSession m p none)) ∧
    ((s.at_ t).chip.ns < ses.lastNs + 100000000 → Passes (.sessionTimeout t m p) t s) := by
  have run : exec (.sessionTimeout t m p) s = .next ((s.at_ t).onChip fun c =>
    match c.session m p with
    | some ses => if ses.lastNs + 100000000 ≤ c.ns then c.setSession m p none else c
    | none => c) := rfl
  have acts {d : Chip} := acts_onChip (d := d) _ run
  have passes := passes_onChip _ run
  generalize (s.at_ t).chip = c at acts passes found ⊢
  rw [found] at acts passes
  exact ⟨fun old => acts (if_pos old), fun young => passes (if_neg (Nat.not_le.2 young))⟩

theorem credit_acts (t : Nat) (m : Fin 8) (p : Fin 4) (s : State) :
    let c := (s.at_ t).chip
    let qs := (List.range 64).filter fun q => c.takesFrom m q && !c.is (QM_QCFG_VIA q) && c.get (QM_QCFG_PORT q) = p
    let clean := c.forAll qs fun c q => c.setQueue q { c.queue q with creditDirty := false }
    let part (i : Nat) := (qs.drop (16 * i)).take 16
    let record (c : Chip) (q : Nat) := le 1 0 ++ le 1 q ++ le 2 0 ++ le 4 (c.get (TN_QCREL_CREL m q)) ++ zeros 56
    Acts (.creditFrameSend t m p) t s (clean.forAll (List.range 4) fun c i =>
      if part i = [] then c else c.sendFrame .credit m p 5 (part i).length 0 ((part i).flatMap (record c))) := by
  have run : exec (.creditFrameSend t m p) s = .next ((s.at_ t).onChip (·.creditFrames m p)) := rfl
  have acts {d : Chip} := acts_onChip (d := d) _ run
  generalize (s.at_ t).chip = c at acts ⊢
  intro c qs clean part record
  refine acts (congrArg (clean.forAll (List.range 4)) (funext fun d => funext fun i => ?_))
  show (match part i with
    | [] => d
    | some_ => d.sendFrame .credit m p 5 some_.length 0 (some_.flatMap (record d))) = _
  cases part i with
  | nil => rfl
  | cons q qs => rfl

theorem neighbour_acts (t : Nat) (p : Fin 4) (v6 : Bool) (target : Nat) (s : State) :
    let c := (s.at_ t).chip
    let own : Prop := if v6 = true then c.get (HP_CFG_IP6EN p) ≠ 0 ∧ c.get (HP_IP6_ADDR p) = target
      else c.get (HP_CFG_IP4EN p) ≠ 0 ∧ c.get (HP_IP4_ADDR p) = target
    (own → Acts (.neighbourRequest t p v6 target) t s (c.emit .neighbour p [b2n v6, target, c.get (HP_MAC_MAC p)])) ∧
    (¬ own → Passes (.neighbourRequest t p v6 target) t s) := by
  have run : exec (.neighbourRequest t p v6 target) s = .next ((s.at_ t).onChip fun c =>
    if (if v6 then c.is (HP_CFG_IP6EN p) && c.get (HP_IP6_ADDR p) = target else c.is (HP_CFG_IP4EN p) && c.get (HP_IP4_ADDR p) = target) then
      c.emit .neighbour p [b2n v6, target, c.get (HP_MAC_MAC p)] else c) := rfl
  have acts {d : Chip} := acts_onChip (d := d) _ run
  have passes := passes_onChip _ run
  generalize (s.at_ t).chip = c at acts passes ⊢
  intro c own
  have iff : (if v6 then c.is (HP_CFG_IP6EN p) && c.get (HP_IP6_ADDR p) = target else c.is (HP_CFG_IP4EN p) && c.get (HP_IP4_ADDR p) = target) = true ↔ own := by
    cases v6 <;> simp [own, Chip.is_iff]
  exact ⟨fun h => acts (if_pos (iff.2 h)), fun h => passes (if_neg (mt iff.1 h))⟩

/-! ### PCIe -/

section
variable {c : Chip} {m q pi : Nat} {ring : List (List Byte)}

/-- The chip once the host has written a doorbell. -/
def Chip.rungBell (c : Chip) (m q pi : Nat) : Chip := c.set (TN_QDB_PI m q) pi

/-- The chip that has fetched n descriptors. -/
def Chip.fetchDescs (c : Chip) (m q pi : Nat) (ring : List (List Byte)) (n : Nat) : Chip :=
  (c.rungBell m q pi).forAll (List.range n) fun d i =>
    (d.emit .pcieFetch m [q, d.get (TN_QIBASE_IBASE m q) + 64 * (((c.queue q).accepted + i) % max 1 ((c.rungBell m q pi).get (QM_QCFG_DEPTH q)))]).accept q
      (ring.getD i []) d.stamp none

/-- How many descriptors a doorbell names that are not accepted yet. -/
def Chip.newDescs (c : Chip) (q pi : Nat) : Nat := (pi + 2 ^ 32 - (c.queue q).accepted) % 2 ^ 32

variable (takes : c.takesFrom m q = true) (via : c.get (QM_QCFG_VIA q) ≠ 0) (on : bit (c.get QM_TEN_EN) m = true)
include takes via on

theorem Chip.doorbell_eq : c.doorbell m q pi ring =
    if min (c.newDescs q pi) ((c.rungBell m q pi).credits q) < c.newDescs q pi then
      (c.fetchDescs m q pi ring (min (c.newDescs q pi) ((c.rungBell m q pi).credits q))).noCredit none
    else c.fetchDescs m q pi ring (min (c.newDescs q pi) ((c.rungBell m q pi).credits q)) :=
  if_neg (by rw [takes, Chip.is_iff.2 via, on]; decide)

theorem Chip.doorbell_fits (h : c.newDescs q pi ≤ (c.rungBell m q pi).credits q) : c.doorbell m q pi ring = c.fetchDescs m q pi ring (c.newDescs q pi) := by
  rw [Chip.doorbell_eq takes via on, Nat.min_eq_left h, if_neg (Nat.lt_irrefl _)]

theorem Chip.doorbell_exceeds (h : (c.rungBell m q pi).credits q < c.newDescs q pi) :
    c.doorbell m q pi ring = (c.fetchDescs m q pi ring ((c.rungBell m q pi).credits q)).noCredit none := by
  rw [Chip.doorbell_eq takes via on, Nat.min_eq_right (Nat.le_of_lt h), if_pos h]

end

theorem doorbell_acts (t : Nat) (m : Fin 8) (q : Fin 64) (pi : BitVec 32) (ring : List (List Byte)) (s : State) :
    let c := (s.at_ t).chip
    let d := c.set (TN_QDB_PI m q) pi.toNat
    let first := (c.queue q).accepted
    let new := (pi.toNat + 2 ^ 32 - first) % 2 ^ 32
    let fetch (n : Nat) := d.forAll (List.range n) fun c i =>
      (c.emit .pcieFetch m [q, c.get (TN_QIBASE_IBASE m q) + 64 * ((first + i) % max 1 (d.get (QM_QCFG_DEPTH q)))]).accept q (ring.getD i []) c.stamp none
    c.takesFrom m q = true → c.get (QM_QCFG_VIA q) ≠ 0 → bit (c.get QM_TEN_EN) m = true →
      (new ≤ d.credits q → Acts (.doorbell t m q pi ring) t s (fetch new)) ∧
      (d.credits q < new → Acts (.doorbell t m q pi ring) t s ((fetch (d.credits q)).noCredit none)) := by
  have run : exec (.doorbell t m q pi ring) s = .next ((s.at_ t).onChip (·.doorbell m q pi.toNat ring)) := rfl
  have acts {d : Chip} := acts_onChip (d := d) _ run
  generalize (s.at_ t).chip = c at acts ⊢
  exact fun takes via on => ⟨fun h => acts (Chip.doorbell_fits takes via on h), fun h => acts (Chip.doorbell_exceeds takes via on h)⟩

theorem consume_acts (t : Nat) (m : Fin 8) (q : Fin 64) (oci : BitVec 32) (s : State) :
    let c := (s.at_ t).chip
    bit (c.get QM_TEN_EN) m = true → c.qTenant q = m →
      Acts (.outboundConsume t m q oci) t s (Chip.deliver 512 (c.set (TN_QOCI_OCI m q) oci.toNat) q) := by
  have run : exec (.outboundConsume t m q oci) s = .next ((s.at_ t).onChip (·.consume m q oci.toNat)) := rfl
  have acts {d : Chip} := acts_onChip (d := d) _ run
  generalize (s.at_ t).chip = c at acts ⊢
  exact fun on mine => acts (if_pos ⟨on, q.isLt, mine⟩)

theorem msix_acts (t : Nat) (q : Fin 64) (s : State) :
    let c := (s.at_ t).chip
    ((c.queue q).msixHeld = true → Acts (.msixDeferred t q) t s (c.msix (c.qTenant q) q)) ∧
    ((c.queue q).msixHeld = false → Passes (.msixDeferred t q) t s) := by
  have run : exec (.msixDeferred t q) s = .next ((s.at_ t).onChip (·.msixDeferred q)) := rfl
  have acts {d : Chip} := acts_onChip (d := d) _ run
  have passes := passes_onChip _ run
  generalize (s.at_ t).chip = c at acts passes ⊢
  exact ⟨fun held => acts (if_pos held), fun free => passes (if_neg (Bool.eq_false_iff.1 free))⟩

/-! ### Enables -/

section
variable {c : Chip} {q v : Nat}

theorem Chip.writeQcfg_on (on : c.get (QM_QCFG_EN q) ≠ 0) :
    c.writeQcfg q v = if bit v 31 = true then c else ((c.setQcfg q v).set (QM_QCFG_EN q) 0).setQueue q {} := if_pos (Chip.is_iff.2 on)

theorem Chip.writeQcfg_off (off : ¬ c.get (QM_QCFG_EN q) ≠ 0) : c.writeQcfg q v =
    if ¬ bit v 31 = true then c.setQcfg q v else if c.enableRefused q v = true then (c.setQcfg q v).raise .qm 0 { src := 1 } else (c.setQcfg q v).startQueue q := by
  refine (if_neg (mt Chip.is_iff.1 off)).trans (ite_congr (propext ?_) (fun _ => rfl) fun _ => rfl)
  rw [Bool.not_eq_true', Bool.not_eq_true]

end

theorem queueEnable_acts (t : Nat) (m : Fin 8) (q : Fin 64) (v : BitVec 32) (s : State) :
    let e := Instr.queueEnable t m q v
    let c := (s.at_ t).chip
    let on : Prop := c.get (QM_QCFG_EN q) ≠ 0
    let d := c.setQcfg q v.toNat
    let set : Prop := bit v.toNat 31 = true
    (c.holds m 3 = false → Acts e t s (c.noticeAccess (0x20400 + 8 * q))) ∧
    (c.holds m 3 = true → on → set → Passes e t s) ∧
    (c.holds m 3 = true → on → ¬ set → Acts e t s ((d.set (QM_QCFG_EN q) 0).setQueue q {})) ∧
    (c.holds m 3 = true → ¬ on → ¬ set → Acts e t s d) ∧
    (c.holds m 3 = true → ¬ on → set → c.enableRefused q v.toNat = true → Acts e t s (d.raise .qm 0 { src := 1 })) ∧
    (c.holds m 3 = true → ¬ on → set → c.enableRefused q v.toNat = false → Acts e t s (d.startQueue q)) := by
  have run : exec (.queueEnable t m q v) s = .next ((s.at_ t).onChip fun c =>
    if c.holds m 3 then c.writeQcfg q v.toNat else c.noticeAccess (0x20400 + 8 * q)) := rfl
  have acts {d : Chip} := acts_onChip (d := d) _ run
  have passes := passes_onChip _ run
  generalize (s.at_ t).chip = c at acts passes ⊢
  exact ⟨fun denied => acts (if_neg (Bool.eq_false_iff.1 denied)), fun holds on set => passes ((if_pos holds).trans ((Chip.writeQcfg_on on).trans (if_pos set))),
    fun holds on clear => acts ((if_pos holds).trans ((Chip.writeQcfg_on on).trans (if_neg clear))),
    fun holds off clear => acts ((if_pos holds).trans ((Chip.writeQcfg_off off).trans (if_pos clear))),
    fun holds off set refused => acts ((if_pos holds).trans ((Chip.writeQcfg_off off).trans ((if_neg (Classical.not_not.2 set)).trans (if_pos refused)))),
    fun holds off set may => acts ((if_pos holds).trans ((Chip.writeQcfg_off off).trans ((if_neg (Classical.not_not.2 set)).trans (if_neg (Bool.eq_false_iff.1 may)))))⟩

theorem tenantEnable_acts (t : Nat) (m : Fin 8) (v : BitVec 32) (s : State) :
    let e := Instr.tenantEnable t m v
    let c := (s.at_ t).chip
    let new := v.toNat % 256 ||| 1
    let off := (List.range 8).filter fun n => bit (c.get QM_TEN_EN) n && !bit new n
    let busy : Prop := ∃ n ∈ off, ∃ q < 64, c.get (QM_QCFG_EN q) ≠ 0 ∧ c.qTenant q = n
    (c.holds m 3 = false → Acts e t s (c.noticeAccess 0x20040)) ∧
    (c.holds m 3 = true → busy → Passes e t s) ∧
    (c.holds m 3 = true → ¬ busy → Acts e t s
      ((c.set QM_TEN_EN new).forAll off fun c n => c.forAll (List.range 4) fun c p => c.setSession n p none)) := by
  have run : exec (.tenantEnable t m v) s = .next ((s.at_ t).onChip fun c => if c.holds m 3 then c.writeTen v.toNat else c.noticeAccess 0x20040) := rfl
  have acts {d : Chip} := acts_onChip (d := d) _ run
  have passes := passes_onChip _ run
  generalize (s.at_ t).chip = c at acts passes ⊢
  intro e c new off busy
  have iff : (off.any fun t => (List.range 64).any fun q => c.is (QM_QCFG_EN q) && c.qTenant q = t) = true ↔ busy := by
    simp only [List.any_eq_true, List.mem_range, Bool.and_eq_true, decide_eq_true_eq, Chip.is_iff, busy]
  exact ⟨fun denied => acts (if_neg (Bool.eq_false_iff.1 denied)), fun holds h => passes ((if_pos holds).trans (if_pos (iff.2 h))),
    fun holds h => acts ((if_pos holds).trans (if_neg (mt iff.1 h)))⟩

/-- Settles O42: each event takes the branch that its hypotheses name. -/
theorem sessionsQueuesAndTenants : Obligations.SessionsQueuesAndTenants := by
  unfold Obligations.SessionsQueuesAndTenants
  refine ⟨open_acts, badFrame_acts, fun t p addr udp frame ses c s heard => heard_acts (f := fun _ c => c.setSession (frameTenant frame) p none) heard rfl rfl,
    frames_act, fun t p addr udp frame ses c s heard => heard_acts (f := fun ses c => c.resync p ses frame) heard rfl rfl, sessionTimeout_acts, credit_acts, neighbour_acts,
    doorbell_acts, consume_acts, msix_acts, queueEnable_acts, tenantEnable_acts⟩

end Sys2Proof.Machine
end

section
/-!
PROOFS. Events of the timebase: precision time (R314 to R316, R377, R378), PPS (R317), timers (R324, R325) and leap seconds (R322, R323).
-/
namespace Sys2Proof.Machine

/-! ### Grandmaster ports -/

section
variable {c : Chip} {p via domain rx id : Nat} {peer : Bool}

/-- Chip c after port or message kind k has taken its next PTP sequence number. -/
def Chip.numbered (c : Chip) (k : Nat) : Chip :=
  { c with time := { c.time with ptpSeq := FMap.put 0 c.time.ptpSeq k ((FMap.get 0 c.time.ptpSeq k + 1) % 65536) } }

/-- A delay request of the mechanism and the domain that the unit serves. -/
def Chip.servesDelay (c : Chip) (peer : Bool) (domain : Nat) : Prop := domain = c.get TB_PTPCFG_DOMAIN ∧ (peer = true ↔ c.get TB_PTPCFG_DELAY ≠ 0)

theorem Chip.ptpDelay_iff : (c.gm p && decide (domain = c.get TB_PTPCFG_DOMAIN) && peer == c.is TB_PTPCFG_DELAY) = true ↔
    c.gm p = true ∧ c.servesDelay peer domain := by
  have mechanism : peer = c.is TB_PTPCFG_DELAY ↔ (peer = true ↔ c.get TB_PTPCFG_DELAY ≠ 0) := by rw [Bool.eq_iff_iff, Chip.is_iff]
  rw [Bool.and_eq_true, Bool.and_eq_true, decide_eq_true_iff, beq_iff_eq, mechanism, and_assoc, Chip.servesDelay]

theorem Chip.ptpDelay_answers (gm : c.gm p = true) (h : c.servesDelay peer domain) : c.ptpDelay p via peer domain rx id =
    c.emit .ptpDelayResp p [via, domain, id, b2n peer, c.servedAt (c.rxNs p rx), c.servedAt (c.txNs p)] (clockIdentity p) :=
  if_pos (Chip.ptpDelay_iff.2 ⟨gm, h⟩)

theorem Chip.ptpDelay_silent (h : ¬ (c.gm p = true ∧ c.servesDelay peer domain)) : c.ptpDelay p via peer domain rx id = c :=
  if_neg (mt Chip.ptpDelay_iff.1 h)

end

theorem grandmaster_acts (t : Nat) (p : Fin 4) (s : State) :
    let c := (s.at_ t).chip
    let n (k : Nat) := FMap.get 0 c.time.ptpSeq k
    let d (k : Nat) : Chip := { c with time := { c.time with ptpSeq := FMap.put 0 c.time.ptpSeq k ((n k + 1) % 65536) } }
    let dom := c.get TB_PTPCFG_DOMAIN
    let now := c.servedAt (c.txNs p)
    (bit (c.get TB_PTPCFG_GMEN) p = true →
      Acts (.ptpSyncSend t p) t s (((d p).emit .ptpSync p [dom, n p, c.get TB_PTPCFG_LOGSYNC] (clockIdentity p)).emit .ptpFollowUp p
        [dom, n p, now] (clockIdentity p)) ∧
      Acts (.ptpAnnounceSend t p) t s ((d (8 + p)).emit .ptpAnnounce p [dom, n (8 + p), 0, 0xA0, c.get TB_PTPCFG_CLASS, 0xFE] (clockIdentity p)) ∧
      (∀ via domain id, Acts (.ptpManagement t ⟨p, via⟩ domain id) t s (c.emit .ptpManagement p [via, domain.toNat, id, 6] (clockIdentity p))) ∧
      (∀ via peer domain rx id,
        let mine : Prop := domain.toNat = dom ∧ (peer = true ↔ c.get TB_PTPCFG_DELAY ≠ 0)
        (mine → Acts (.ptpDelayReq t ⟨p, via⟩ peer domain rx id) t s
          (c.emit .ptpDelayResp p [via, domain.toNat, id, b2n peer, c.servedAt (c.rxNs p rx), now] (clockIdentity p))) ∧
        (¬ mine → Passes (.ptpDelayReq t ⟨p, via⟩ peer domain rx id) t s))) ∧
    (bit (c.get TB_PTPCFG_GMEN) p = false → ∀ via peer domain rx id,
      Passes (.ptpSyncSend t p) t s ∧ Passes (.ptpAnnounceSend t p) t s ∧ Passes (.ptpManagement t ⟨p, via⟩ domain id) t s ∧
      Passes (.ptpDelayReq t ⟨p, via⟩ peer domain rx id) t s) := by
  have sync : exec (.ptpSyncSend t p) s = .next ((s.at_ t).onChip (·.ptpSync p)) := rfl
  have announce : exec (.ptpAnnounceSend t p) s = .next ((s.at_ t).onChip (·.ptpAnnounce p)) := rfl
  have manage (via domain id) : exec (.ptpManagement t ⟨p, via⟩ domain id) s = .next ((s.at_ t).onChip fun c =>
    if c.gm p then c.emit .ptpManagement p [via, domain.toNat, id, 6] (clockIdentity p) else c) := rfl
  have delay (via peer domain rx id) : exec (.ptpDelayReq t ⟨p, via⟩ peer domain rx id) s =
    .next ((s.at_ t).onChip (·.ptpDelay p via peer domain.toNat rx id)) := rfl
  have actsSync {d : Chip} := acts_onChip (d := d) _ sync
  have actsAnnounce {d : Chip} := acts_onChip (d := d) _ announce
  have actsManage (via domain id) {d : Chip} := acts_onChip (d := d) _ (manage via domain id)
  have actsDelay (via peer domain rx id) {d : Chip} := acts_onChip (d := d) _ (delay via peer domain rx id)
  have passesSync := passes_onChip _ sync
  have passesAnnounce := passes_onChip _ announce
  have passesManage (via domain id) := passes_onChip _ (manage via domain id)
  have passesDelay (via peer domain rx id) := passes_onChip _ (delay via peer domain rx id)
  generalize (s.at_ t).chip = c at *
  have off (gm : bit (c.get TB_PTPCFG_GMEN) p = false) : ¬ c.gm p = true := fun h => Bool.false_ne_true (gm.symm.trans h)
  exact ⟨fun gm => ⟨actsSync (if_pos gm), actsAnnounce (if_pos gm), fun via domain id => actsManage via domain id (if_pos gm),
      fun via peer domain rx id => ⟨fun mine => actsDelay via peer domain rx id (Chip.ptpDelay_answers gm mine),
        fun not => passesDelay via peer domain rx id (Chip.ptpDelay_silent fun h => not h.2)⟩⟩,
    fun gm via peer domain rx id => ⟨passesSync (if_neg (off gm)), passesAnnounce (if_neg (off gm)), passesManage via domain id (if_neg (off gm)),
      passesDelay via peer domain rx id (Chip.ptpDelay_silent fun h => off gm h.1)⟩⟩

/-! ### The slave -/

/-- What an Announce does that the slave takes. -/
def Chip.announced (c : Chip) (ok : Bool) (leap61 leap59 : Bool) : Chip :=
  if ok ∧ c.get TB_CFG_CSRC = 1 then
    (if leap61 ∨ leap59 then (if c.is TB_STAT_LEAPARM then c else c.armLeap (leap59 && !leap61)) else
      if c.is TB_STAT_LEAPARM then c.disarmLeap else c)
  else c

section
variable {c : Chip} {ok leap61 leap59 : Bool}

theorem Chip.announced_other (h : ¬ (ok = true ∧ c.get TB_CFG_CSRC = 1)) : c.announced ok leap61 leap59 = c := if_neg h

variable (source : ok = true ∧ c.get TB_CFG_CSRC = 1)
include source

theorem Chip.announced_agrees (h : (leap61 = true ∨ leap59 = true) ↔ c.get TB_STAT_LEAPARM ≠ 0) : c.announced ok leap61 leap59 = c := by
  refine (if_pos source).trans ?_
  split
  · next leap => exact if_pos (Chip.is_iff.2 (h.1 leap))
  · next noLeap => exact if_neg (mt Chip.is_iff.1 (mt h.2 noLeap))

theorem Chip.announced_arms (leap : leap61 = true ∨ leap59 = true) (armed : ¬ c.get TB_STAT_LEAPARM ≠ 0) :
    c.announced ok leap61 leap59 = c.armLeap (leap59 && !leap61) :=
  (if_pos source).trans ((if_pos leap).trans (if_neg (mt Chip.is_iff.1 armed)))

theorem Chip.announced_disarms (leap : ¬ (leap61 = true ∨ leap59 = true)) (armed : c.get TB_STAT_LEAPARM ≠ 0) :
    c.announced ok leap61 leap59 = c.disarmLeap :=
  (if_pos source).trans ((if_neg leap).trans (if_pos (Chip.is_iff.2 armed)))

end

theorem announce_acts (t : Nat) (domain : BitVec 8) (scale valid : Bool) (ofs : Int) (leap61 leap59 : Bool) (iv : Nat) (s : State) :
    let e := Instr.ptpAnnounceReceived t domain scale valid ofs leap61 leap59 iv
    let c := (s.at_ t).chip
    let mine : Prop := c.get TB_PTPCFG_SLAVE ≠ 0 ∧ domain.toNat = c.get TB_PTPCFG_DOMAIN
    let d : Chip := { c with time := { c.time with announce := some (c.ns, iv), announceOk := scale && valid, utcOffset := ofs } }
    let source : Prop := scale = true ∧ valid = true ∧ c.get TB_CFG_CSRC = 1
    let leap : Prop := leap61 = true ∨ leap59 = true
    let armed : Prop := c.get TB_STAT_LEAPARM ≠ 0
    (¬ mine → Passes e t s) ∧
    (mine → ¬ source → Acts e t s d) ∧
    (mine → source → (leap ↔ armed) → Acts e t s d) ∧
    (mine → source → leap → ¬ armed → Acts e t s (d.armLeap (leap59 && !leap61))) ∧
    (mine → source → ¬ leap → armed → Acts e t s d.disarmLeap) := by
  have run : exec (.ptpAnnounceReceived t domain scale valid ofs leap61 leap59 iv) s = .next ((s.at_ t).onChip fun c =>
    if c.is TB_PTPCFG_SLAVE ∧ domain.toNat = c.get TB_PTPCFG_DOMAIN then
      Chip.announced { c with time := { c.time with announce := some (c.ns, iv), announceOk := scale && valid, utcOffset := ofs } } (scale && valid) leap61 leap59
    else c) := rfl
  have acts {d : Chip} := acts_onChip (d := d) _ run
  have passes := passes_onChip _ run
  generalize (s.at_ t).chip = c at acts passes ⊢
  have mine_iff : (c.is TB_PTPCFG_SLAVE ∧ domain.toNat = c.get TB_PTPCFG_DOMAIN) ↔ (c.get TB_PTPCFG_SLAVE ≠ 0 ∧ domain.toNat = c.get TB_PTPCFG_DOMAIN) :=
    and_congr_left' Chip.is_iff
  have source_iff : (scale && valid) = true ∧ c.get TB_CFG_CSRC = 1 ↔ scale = true ∧ valid = true ∧ c.get TB_CFG_CSRC = 1 := by
    rw [Bool.and_eq_true, and_assoc]
  exact ⟨fun not => passes (if_neg (mt mine_iff.1 not)),
    fun mine other => acts ((if_pos (mine_iff.2 mine)).trans (Chip.announced_other (mt source_iff.1 other))),
    fun mine source same => acts ((if_pos (mine_iff.2 mine)).trans (Chip.announced_agrees (source_iff.2 source) same)),
    fun mine source leap armed => acts ((if_pos (mine_iff.2 mine)).trans (Chip.announced_arms (source_iff.2 source) leap armed)),
    fun mine source leap armed => acts ((if_pos (mine_iff.2 mine)).trans (Chip.announced_disarms (source_iff.2 source) leap armed))⟩

section
variable {c : Chip} {t1 : Int} {rx : Nat} {x : PtpDelay}

/-- Chip c after the slave has sent its next delay request. -/
def Chip.asked (c : Chip) (domain : Nat) : Chip :=
  (c.numbered 19).emit .ptpDelayReq 3 [domain, FMap.get 0 c.time.ptpSeq 19, c.get TB_PTPCFG_DELAY] (clockIdentity 3)

theorem Chip.asked_facts (c : Chip) (domain : Nat) : (c.asked domain).slaveTime t1 rx x = c.slaveTime t1 rx x ∧
    (c.asked domain).get TB_CFG_CSRC = c.get TB_CFG_CSRC ∧ (c.asked domain).time.announceOk = c.time.announceOk ∧
    (c.asked domain).time.utcOffset = c.time.utcOffset := ⟨rfl, rfl, rfl, rfl⟩

/-- What a Sync does that the slave takes: d is the chip after its request. -/
def Chip.synced (d : Chip) (t1 : Int) (rx : Nat) (x : PtpDelay) : Chip :=
  match d.slaveTime t1 rx x with
  | some (t2, m) => if d.get TB_CFG_CSRC = 1 ∧ d.time.announceOk then d.measure (m - d.time.utcOffset * 1000000000) t2.toNat else d
  | none => d

section
variable {domain : Nat}

theorem Chip.ptpSlave_other (h : ¬ (c.get TB_PTPCFG_SLAVE ≠ 0 ∧ domain = c.get TB_PTPCFG_DOMAIN)) : c.ptpSlave domain t1 rx x = c :=
  if_neg (mt (and_congr_left' Chip.is_iff).1 h)

variable (mine : c.get TB_PTPCFG_SLAVE ≠ 0 ∧ domain = c.get TB_PTPCFG_DOMAIN)
include mine

theorem Chip.ptpSlave_mine : c.ptpSlave domain t1 rx x = (c.asked domain).synced t1 rx x := if_pos ((and_congr_left' Chip.is_iff).2 mine)

theorem Chip.ptpSlave_none (h : c.slaveTime t1 rx x = none) : c.ptpSlave domain t1 rx x = c.asked domain := by
  obtain ⟨time, -⟩ := c.asked_facts (t1 := t1) (rx := rx) (x := x) domain
  rw [Chip.ptpSlave_mine mine, Chip.synced, time, h]

theorem Chip.ptpSlave_some {t2 m : Int} (h : c.slaveTime t1 rx x = some (t2, m)) : c.ptpSlave domain t1 rx x =
    if c.get TB_CFG_CSRC = 1 ∧ c.time.announceOk = true then (c.asked domain).measure (m - c.time.utcOffset * 1000000000) t2.toNat else c.asked domain := by
  obtain ⟨time, source, ok, offset⟩ := c.asked_facts (t1 := t1) (rx := rx) (x := x) domain
  rw [Chip.ptpSlave_mine mine, Chip.synced, time, h, source, ok, offset]

end

section
variable {r back : Nat} {t4 turn : Int}

theorem Chip.slaveTime_request (h : c.get TB_PTPCFG_DELAY = 0) : c.slaveTime t1 rx (.request r t4) =
    some (c.rxNs 3 rx, t1 + halfUp ((c.rxNs 3 rx - t1) + (t4 - portNs r (c.get (TB_PORTLAT_TXLAT 3)))) 2) :=
  if_neg (mt Chip.is_iff.1 (Classical.not_not.2 h))

theorem Chip.slaveTime_peer (h : c.get TB_PTPCFG_DELAY ≠ 0) : c.slaveTime t1 rx (.peer r back turn) =
    some (c.rxNs 3 rx, t1 + halfUp (c.rxNs 3 back - portNs r (c.get (TB_PORTLAT_TXLAT 3)) - turn) 2) :=
  if_pos (Chip.is_iff.2 h)

theorem Chip.slaveTime_request_none (h : c.get TB_PTPCFG_DELAY ≠ 0) : c.slaveTime t1 rx (.request r t4) = none := if_pos (Chip.is_iff.2 h)

theorem Chip.slaveTime_peer_none (h : c.get TB_PTPCFG_DELAY = 0) : c.slaveTime t1 rx (.peer r back turn) = none := if_neg (mt Chip.is_iff.1 (Classical.not_not.2 h))

end

end

theorem sync_acts (t : Nat) (domain : BitVec 8) (t1 : Int) (rx : Nat) (x : PtpDelay) (s : State) :
    let e := Instr.ptpSyncReceived t domain t1 ⟨rx, x⟩
    let c := (s.at_ t).chip
    let n := FMap.get 0 c.time.ptpSeq 19
    let mine : Prop := c.get TB_PTPCFG_SLAVE ≠ 0 ∧ domain.toNat = c.get TB_PTPCFG_DOMAIN
    let d : Chip := { c with time := { c.time with ptpSeq := FMap.put 0 c.time.ptpSeq 19 ((n + 1) % 65536) } }
    let asks := d.emit .ptpDelayReq 3 [domain.toNat, n, c.get TB_PTPCFG_DELAY] (clockIdentity 3)
    let source : Prop := c.get TB_CFG_CSRC = 1 ∧ c.time.announceOk = true
    let t2 := c.rxNs 3 rx
    let tx (ps : Nat) := portNs ps (c.get (TB_PORTLAT_TXLAT 3))
    let takes (m : Int) : Prop := (source → Acts e t s (asks.measure (m - c.time.utcOffset * 1000000000) t2.toNat)) ∧ (¬ source → Acts e t s asks)
    (¬ mine → Passes e t s) ∧
    (∀ r t4, mine → x = .request r t4 → c.get TB_PTPCFG_DELAY = 0 → takes (t1 + halfUp ((t2 - t1) + (t4 - tx r)) 2)) ∧
    (∀ r back turn, mine → x = .peer r back turn → c.get TB_PTPCFG_DELAY ≠ 0 → takes (t1 + halfUp (c.rxNs 3 back - tx r - turn) 2)) ∧
    (∀ r t4, mine → x = .request r t4 → c.get TB_PTPCFG_DELAY ≠ 0 → Acts e t s asks) ∧
    (∀ r back turn, mine → x = .peer r back turn → c.get TB_PTPCFG_DELAY = 0 → Acts e t s asks) := by
  have run : exec (.ptpSyncReceived t domain t1 ⟨rx, x⟩) s = .next ((s.at_ t).onChip (·.ptpSlave domain.toNat t1 rx x)) := rfl
  have acts {d : Chip} := acts_onChip (d := d) _ run
  have passes := passes_onChip _ run
  generalize (s.at_ t).chip = c at acts passes ⊢
  have takes (t2 m : Int) (mine : c.get TB_PTPCFG_SLAVE ≠ 0 ∧ domain.toNat = c.get TB_PTPCFG_DOMAIN) (time : c.slaveTime t1 rx x = some (t2, m)) :
      (c.get TB_CFG_CSRC = 1 ∧ c.time.announceOk = true → Acts (.ptpSyncReceived t domain t1 ⟨rx, x⟩) t s
        ((c.asked domain.toNat).measure (m - c.time.utcOffset * 1000000000) t2.toNat)) ∧
      (¬ (c.get TB_CFG_CSRC = 1 ∧ c.time.announceOk = true) → Acts (.ptpSyncReceived t domain t1 ⟨rx, x⟩) t s (c.asked domain.toNat)) :=
    ⟨fun source => acts ((Chip.ptpSlave_some mine time).trans (if_pos source)), fun other => acts ((Chip.ptpSlave_some mine time).trans (if_neg other))⟩
  exact ⟨fun not => passes (Chip.ptpSlave_other not),
    fun _ _ mine hx h => takes _ _ mine ((congrArg _ hx).trans (Chip.slaveTime_request h)),
    fun _ _ _ mine hx h => takes _ _ mine ((congrArg _ hx).trans (Chip.slaveTime_peer h)),
    fun _ _ mine hx h => acts (Chip.ptpSlave_none mine ((congrArg _ hx).trans (Chip.slaveTime_request_none h))),
    fun _ _ _ mine hx h => acts (Chip.ptpSlave_none mine ((congrArg _ hx).trans (Chip.slaveTime_peer_none h)))⟩

theorem announceTimeout_acts (t a iv : Nat) (s : State) :
    let c := (s.at_ t).chip
    let lost : Prop := a + 3 * iv ≤ c.ns ∧ c.get TB_CFG_CSRC = 1
    let d : Chip := { c with time := { c.time with announce := none, announceOk := false, slew := none } }
    c.time.announce = some (a, iv) →
      (lost → Acts (.ptpAnnounceTimeout t) t s ((d.set TB_STAT_CVALID 0).raise .tb 0 { src := 0 })) ∧
      (¬ lost → Passes (.ptpAnnounceTimeout t) t s) := by
  have run : exec (.ptpAnnounceTimeout t) s = execPtpAnnounceTimeout t s := rfl
  unfold execPtpAnnounceTimeout at run
  have acts {d : Chip} := acts_onChip (d := d) _ run
  have passes := passes_onChip _ run
  generalize (s.at_ t).chip = c at acts passes ⊢
  intro c lost d found
  rw [found] at acts passes
  exact ⟨fun h => acts (if_pos h), fun h => passes (if_neg h)⟩

/-! ### PPS -/

theorem ppsOut_acts (t : Nat) (s : State) :
    let c := (s.at_ t).chip
    let high := decide ((c.ns + c.get TB_GMOFS_GMOFS) % 2 ^ 64 % 1000000000 < 100000000)
    let d : Chip := { c with time := { c.time with ppsHigh := high } }
    (high = c.time.ppsHigh → Passes (.ppsOutEdge t) t s) ∧
    (high ≠ c.time.ppsHigh → Acts (.ppsOutEdge t) t s (if c.role = 0 ∨ c.role = 1 then d.emit .ppsOut 0 [b2n high] else d)) := by
  have run : exec (.ppsOutEdge t) s = execPpsOutEdge t s := rfl
  unfold execPpsOutEdge at run
  have acts {d : Chip} := acts_onChip (d := d) _ run
  have passes := passes_onChip _ run
  generalize (s.at_ t).chip = c at acts passes ⊢
  exact ⟨fun same => passes (if_pos same), fun new => acts ((if_neg new).trans (ite_of_iff Chip.runs_iff rfl rfl))⟩

/-- Chip c after it has latched a rise of PPS_IN at DT n. -/
def Chip.ppsLatched (c : Chip) (n : Nat) : Chip := { c.set TB_PPSDT_DT n with time := { c.time with lastPps := some n, ppsMissed := false } }

/-- The instant at which the filtered level of PPS_IN began (R224, R317). -/
def Chip.ppsAt (c : Chip) : Nat := (c.dt - (max 1 (c.get TB_CFG_PPSFILT) - 1) * 163840) / 65536

theorem Chip.ppsLatched_source (c : Chip) (n : Nat) : (c.ppsLatched n).get TB_CFG_CSRC = c.get TB_CFG_CSRC := Chip.get_set_ne _ _ _ _ (by decide)

theorem Chip.ppsLatched_label (c : Chip) (n : Nat) : (c.ppsLatched n).get TB_PPSLBL_LABEL = c.get TB_PPSLBL_LABEL := Chip.get_set_ne _ _ _ _ (by decide)

theorem Chip.ppsEdge_eq (c : Chip) : c.ppsEdge = if (c.ppsLatched c.ppsAt).get TB_CFG_CSRC = 2 then
    ((c.ppsLatched c.ppsAt).measure ((c.ppsLatched c.ppsAt).get TB_PPSLBL_LABEL * 1000000000) c.ppsAt).count TB_PPSLBL_LABEL else c.ppsLatched c.ppsAt := rfl

theorem Chip.ppsEdge_other (c : Chip) (h : c.get TB_CFG_CSRC ≠ 2) : c.ppsEdge = c.ppsLatched c.ppsAt := by
  rw [Chip.ppsEdge_eq, c.ppsLatched_source, if_neg h]

theorem Chip.ppsEdge_source (c : Chip) (h : c.get TB_CFG_CSRC = 2) :
    c.ppsEdge = ((c.ppsLatched c.ppsAt).measure (c.get TB_PPSLBL_LABEL * 1000000000) c.ppsAt).count TB_PPSLBL_LABEL := by
  rw [Chip.ppsEdge_eq, c.ppsLatched_source, if_pos h, c.ppsLatched_label]

theorem ppsIn_acts (t : Nat) (s : State) :
    let c := (s.at_ t).chip
    let at' := (c.dt - (max 1 (c.get TB_CFG_PPSFILT) - 1) * 163840) / 65536
    let d : Chip := { c.set TB_PPSDT_DT at' with time := { c.time with lastPps := some at', ppsMissed := false } }
    (c.get TB_CFG_CSRC = 2 → Acts (.ppsInEdge t) t s ((d.measure (c.get TB_PPSLBL_LABEL * 1000000000) at').count TB_PPSLBL_LABEL)) ∧
    (c.get TB_CFG_CSRC ≠ 2 → Acts (.ppsInEdge t) t s d) := by
  have run : exec (.ppsInEdge t) s = .next ((s.at_ t).onChip (·.ppsEdge)) := rfl
  have acts {d : Chip} := acts_onChip (d := d) _ run
  generalize (s.at_ t).chip = c at acts ⊢
  exact ⟨fun h => acts (c.ppsEdge_source h), fun h => acts (c.ppsEdge_other h)⟩

theorem ppsLoss_acts (t : Nat) (s : State) :
    let c := (s.at_ t).chip
    let lost : Prop := c.time.lastPps.getD 0 + 1100000000 ≤ c.ns ∧ c.get TB_CFG_CSRC = 2 ∧ c.time.ppsMissed = false
    let d : Chip := { c with time := { c.time with ppsMissed := true, slew := none } }
    (lost → Acts (.ppsInLoss t) t s ((d.set TB_STAT_CVALID 0).raiseAll .tb 0 [{ src := 0 }, { src := 4 }])) ∧
    (¬ lost → Passes (.ppsInLoss t) t s) := by
  have run : exec (.ppsInLoss t) s = .next ((s.at_ t).onChip (·.ppsLoss)) := rfl
  have acts {d : Chip} := acts_onChip (d := d) _ run
  have passes := passes_onChip _ run
  generalize (s.at_ t).chip = c at acts passes ⊢
  exact ⟨fun h => acts (if_pos (and_left_comm.1 h)), fun h => passes (if_neg (mt and_left_comm.2 h))⟩

/-! ### Timers -/

section
variable {c : Chip} {n : Nat}

/-- Timer n still has a firing to come. -/
def Chip.timerWaits (c : Chip) (n : Nat) : Prop := c.get (TB_TMCFG_EN n) ≠ 0 ∧ (c.get (TB_TMCFG_MODE n) ≠ 0 ∨ FMap.get 0 c.time.nextK n = 0)

/-- The target of timer n. -/
def Chip.timerTarget (c : Chip) (n : Nat) : Nat :=
  c.get (TB_TMT_T n) + (if c.get (TB_TMCFG_MODE n) ≠ 0 then FMap.get 0 c.time.nextK n * c.get (TB_TMPER_PER n) else 0)

theorem Chip.timerDue_some (h : c.timerWaits n) : c.timerDue n = some (c.timerTarget n) := by
  obtain ⟨on, more⟩ := h
  refine (if_neg (by rw [Chip.is_iff.2 on]; decide)).trans ?_
  rw [Chip.timerTarget]
  by_cases periodic : c.get (TB_TMCFG_MODE n) ≠ 0
  · rw [if_pos (Chip.is_iff.2 periodic), if_pos periodic]
  · rw [if_neg (mt Chip.is_iff.1 periodic), if_pos (more.resolve_left periodic), if_neg periodic, Nat.add_zero]

theorem Chip.timerDue_none (h : ¬ c.timerWaits n) : c.timerDue n = none := by
  by_cases on : c.get (TB_TMCFG_EN n) = 0
  · exact if_pos (by rw [Chip.is_eq_false_iff.2 on]; rfl)
  · obtain ⟨once, fired⟩ := not_or.1 (not_and.1 h on)
    exact (if_neg (by rw [Chip.is_iff.2 on]; decide)).trans ((if_neg (mt Chip.is_iff.1 once)).trans (if_neg fired))

/-- Chip c after the firing of timer n is counted. -/
def Chip.fired (c : Chip) (n : Nat) : Chip :=
  { c with time := { c.time with nextK := FMap.put 0 c.time.nextK n (FMap.get 0 c.time.nextK n + 1), lateArmed := FMap.put false c.time.lateArmed n false } }

theorem Chip.timerFire_stays (h : ¬ (c.timerWaits n ∧ c.timerTarget n ≤ c.ns)) : c.timerFire n = c := by
  rw [Chip.timerFire]
  by_cases waits : c.timerWaits n
  · rw [Chip.timerDue_some waits]
    exact if_pos (Nat.not_le.1 (not_and.1 h waits))
  · rw [Chip.timerDue_none waits]

variable (h : c.timerWaits n ∧ c.timerTarget n ≤ c.ns)
include h

theorem Chip.timerFire_in_time (late : FMap.get false c.time.lateArmed n = false) : c.timerFire n =
    ((c.fired n).timerOutput n).raiseAll .tb 0 [{ src := 16 + n }] (((c.fired n).timerOutput n).get (TB_TMCFG_TMASK n)) := by
  rw [Chip.timerFire, Chip.timerDue_some h.1]
  refine (if_neg (Nat.not_lt.2 h.2)).trans ?_
  rw [late]
  rfl

theorem Chip.timerFire_late (late : FMap.get false c.time.lateArmed n = true) : c.timerFire n =
    (((c.fired n).timerOutput n).latchRs (TB_TMCFG_LATE n)).raiseAll .tb 0 [{ src := 16 + n }, { src := 5 }]
      ((((c.fired n).timerOutput n).latchRs (TB_TMCFG_LATE n)).get (TB_TMCFG_TMASK n)) := by
  rw [Chip.timerFire, Chip.timerDue_some h.1]
  refine (if_neg (Nat.not_lt.2 h.2)).trans ?_
  rw [late]
  rfl

end

theorem timer_acts (t : Nat) (n : Fin 16) (s : State) :
    let c := (s.at_ t).chip
    let k := FMap.get 0 c.time.nextK n
    let due := c.get (TB_TMT_T n) + (if c.get (TB_TMCFG_MODE n) ≠ 0 then k * c.get (TB_TMPER_PER n) else 0)
    let fires : Prop := c.get (TB_TMCFG_EN n) ≠ 0 ∧ (c.get (TB_TMCFG_MODE n) ≠ 0 ∨ k = 0) ∧ due ≤ c.ns
    let late := FMap.get false c.time.lateArmed n
    let d : Chip := { c with time := { c.time with nextK := FMap.put 0 c.time.nextK n (k + 1), lateArmed := FMap.put false c.time.lateArmed n false } }
    (¬ fires → Passes (.timerFire t n) t s) ∧
    (fires → late = false → Acts (.timerFire t n) t s
      ((d.timerOutput n).raiseAll .tb 0 [{ src := 16 + n }] ((d.timerOutput n).get (TB_TMCFG_TMASK n)))) ∧
    (fires → late = true →
      let f := (d.timerOutput n).latchRs (TB_TMCFG_LATE n)
      Acts (.timerFire t n) t s (f.raiseAll .tb 0 [{ src := 16 + n }, { src := 5 }] (f.get (TB_TMCFG_TMASK n)))) := by
  have run : exec (.timerFire t n) s = .next ((s.at_ t).onChip (·.timerFire n)) := rfl
  have acts {d : Chip} := acts_onChip (d := d) _ run
  have passes := passes_onChip _ run
  generalize (s.at_ t).chip = c at acts passes ⊢
  exact ⟨fun not => passes (Chip.timerFire_stays (mt and_assoc.1 not)), fun fires late => acts (Chip.timerFire_in_time (and_assoc.2 fires) late),
    fun fires late => acts (Chip.timerFire_late (and_assoc.2 fires) late)⟩

theorem pulse_acts (t : Nat) (g : Fin 8) (n since : Nat) (s : State) :
    let c := (s.at_ t).chip
    let d : Chip := { c with time := { c.time with pulse := FMap.put none c.time.pulse g none, trigLevel := FMap.put 0 c.time.trigLevel g 0 } }
    FMap.get none c.time.pulse g = some (n, since) →
      (since + c.get (TB_TMWID_WID n) ≤ c.ns → Acts (.trigPulseEnd t g) t s (if c.role = 0 ∨ c.role = 1 then d.emit .trigOut g [0] else d)) ∧
      (c.ns < since + c.get (TB_TMWID_WID n) → Passes (.trigPulseEnd t g) t s) := by
  have run : exec (.trigPulseEnd t g) s = .next ((s.at_ t).onChip (·.pulseEnd g)) := rfl
  have acts {d : Chip} := acts_onChip (d := d) _ run
  have passes := passes_onChip _ run
  generalize (s.at_ t).chip = c at acts passes ⊢
  intro c d found
  simp only [Chip.pulseEnd] at acts passes
  rw [found] at acts passes
  exact ⟨fun due => acts ((if_pos due).trans (ite_of_iff Chip.runs_iff rfl rfl)), fun high => passes (if_neg (Nat.not_le.2 high))⟩

/-! ### Leap seconds -/

section
variable {c : Chip} {mid : Int}

/-- What the midnight of a leap second does to the offset of a unit with a civil servo. -/
def Chip.leap (c : Chip) : Chip :=
  match c.time.smear with
  | some (delta, done) => c.setS TB_CIVOFS_OFS (c.getS TB_CIVOFS_OFS + (delta - done))
  | none => if c.is TB_LEAP_DEL then c.setS TB_CIVOFS_OFS (c.getS TB_CIVOFS_OFS + 1000000000) else c.setPending (some (c.getS TB_CIVOFS_OFS - 1000000000))

theorem Chip.leap_smear (c : Chip) {delta done : Int} (h : c.time.smear = some (delta, done)) :
    c.leap = c.setS TB_CIVOFS_OFS (c.getS TB_CIVOFS_OFS + (delta - done)) := by rw [Chip.leap, h]

theorem Chip.leap_deleted (c : Chip) (h : c.time.smear = none) (del : c.get TB_LEAP_DEL ≠ 0) :
    c.leap = c.setS TB_CIVOFS_OFS (c.getS TB_CIVOFS_OFS + 1000000000) := by
  rw [Chip.leap, h]
  exact if_pos (Chip.is_iff.2 del)

theorem Chip.leap_inserted (c : Chip) (h : c.time.smear = none) (ins : c.get TB_LEAP_DEL = 0) :
    c.leap = c.setPending (some (c.getS TB_CIVOFS_OFS - 1000000000)) := by
  rw [Chip.leap, h]
  exact if_neg (mt Chip.is_iff.1 (Classical.not_not.2 ins))

variable (armed : c.time.leapMid = some mid)
include armed

theorem Chip.leapSecond_waits (h : c.civil < mid) : c.leapSecond = c := by
  rw [Chip.leapSecond, armed]
  exact if_pos h

variable (h : mid ≤ c.civil)
include h

theorem Chip.leapSecond_disarms (role : ¬ (c.role = 0 ∨ c.role = 1)) : c.leapSecond = c.disarmLeap.raise .tb 0 { src := 7 } := by
  have off : c.runs = false := Bool.eq_false_iff.2 (mt Chip.runs_iff.1 role)
  rw [Chip.leapSecond, armed]
  refine (if_neg (Int.not_lt.2 h)).trans ?_
  simp only [off, Bool.not_false, if_true, Bool.false_eq_true, if_false]

theorem Chip.leapSecond_steps (role : c.role = 0 ∨ c.role = 1) (same : c.leap.role = c.role) :
    c.leapSecond = c.leap.jrnCivil.disarmLeap.raise .tb 0 { src := 7 } := by
  have on : c.runs = true := Chip.runs_iff.2 role
  have still : c.leap.runs = true := Chip.runs_iff.2 (same.symm ▸ role)
  rw [Chip.leapSecond, armed]
  refine (if_neg (Int.not_lt.2 h)).trans ?_
  simp only [on, Bool.not_true, Bool.false_eq_true, if_false]
  exact congrArg (fun d : Chip => d.disarmLeap.raise .tb 0 { src := 7 }) (if_pos still)

end

theorem Chip.setPending_role (c : Chip) (v : Option Int) : (c.setPending v).role = c.role := by
  cases v
  · exact Chip.get_set_ne _ _ _ _ (by decide)
  · exact (Chip.get_set_ne _ _ _ _ (by decide)).trans (Chip.get_set_ne _ _ _ _ (by decide))

theorem leap_acts (t : Nat) (mid : Int) (s : State) :
    let c := (s.at_ t).chip
    let off := c.getS TB_CIVOFS_OFS
    let ends (d : Chip) : Prop := Acts (.leapSecond t) t s (d.disarmLeap.raise .tb 0 { src := 7 })
    let runs : Prop := c.role = 0 ∨ c.role = 1
    c.time.leapMid = some mid →
      (c.civil < mid → Passes (.leapSecond t) t s) ∧
      (mid ≤ c.civil → ¬ runs → ends c) ∧
      (∀ delta done, mid ≤ c.civil → runs → c.time.smear = some (delta, done) → ends (c.setS TB_CIVOFS_OFS (off + (delta - done))).jrnCivil) ∧
      (mid ≤ c.civil → runs → c.time.smear = none → c.get TB_LEAP_DEL ≠ 0 → ends (c.setS TB_CIVOFS_OFS (off + 1000000000)).jrnCivil) ∧
      (mid ≤ c.civil → runs → c.time.smear = none → c.get TB_LEAP_DEL = 0 → ends (c.setPending (some (off - 1000000000))).jrnCivil) := by
  have run : exec (.leapSecond t) s = .next ((s.at_ t).onChip (·.leapSecond)) := rfl
  have acts {d : Chip} := acts_onChip (d := d) _ run
  have passes := passes_onChip _ run
  generalize (s.at_ t).chip = c at acts passes ⊢
  have ends {d : Chip} (armed : c.time.leapMid = some mid) (due : mid ≤ c.civil) (role : c.role = 0 ∨ c.role = 1) (is : c.leap = d) (same : d.role = c.role) :
      Acts (.leapSecond t) t s (d.jrnCivil.disarmLeap.raise .tb 0 { src := 7 }) := by
    subst is
    exact acts (Chip.leapSecond_steps armed due role same)
  exact fun armed => ⟨fun early => passes (Chip.leapSecond_waits armed early),
    fun due role => acts (Chip.leapSecond_disarms armed due role),
    fun delta done due role smear => ends armed due role (c.leap_smear smear) (Chip.get_set_ne _ _ _ _ (by decide)),
    fun due role smear del => ends armed due role (c.leap_deleted smear del) (Chip.get_set_ne _ _ _ _ (by decide)),
    fun due role smear ins => ends armed due role (c.leap_inserted smear ins) (c.setPending_role _)⟩

/-- Settles O43: the events of precision time, PPS, timers and leap seconds, each a command on the chip alone. -/
theorem timebaseEvents : Obligations.TimebaseEvents :=
  ⟨grandmaster_acts, announce_acts, sync_acts, announceTimeout_acts, ppsOut_acts, ppsIn_acts, ppsLoss_acts, timer_acts, pulse_acts, leap_acts⟩

end Sys2Proof.Machine
end

section
/-!
PROOFS. Events of the fire stamp engine (R203 to R221) and the firing of rows (R21).
-/
namespace Sys2Proof.Machine

/-! ### The model update (R203 to R206, R221) -/

/-- A model update has begun: it counts from now, and what web motion has reported is taken. -/
def Chip.updateBegun (c : Chip) : Chip := ({ c with fire := { c.fire with updAt := c.dt, back := false } } : Chip).takeMotion

/-- What follows the stamps of a model update: rows that X has passed go out while the web runs on. -/
def Chip.afterStamps (v : Chip) : Chip := (if v.is (WM_EST_STILL v.infeed) || v.is (WM_EST_REV v.infeed) then v else v.positionStamps).webMoved

/-- The stamps of a model update, and what follows them. -/
def Chip.stampRun (u : Chip) (drop : Bool) : Chip := (u.stampAll (u.get FS_STAT_MODE) drop).afterStamps

/-- The end of a model update that began in mode `was`. -/
def Chip.updateEnds (c : Chip) (was : Nat) : Chip :=
  if c.is FS_STAT_HALTED then c.webMoved else c.stampRun (was = 2 && c.get FS_STAT_MODE ≠ 2)

/-- An update by the rules of the mode. -/
def Chip.updateMode (c : Chip) (back : Bool) : Chip :=
  (if c.get FS_STAT_MODE = 2 then c.updatePredicted back else c.updatePosition).updateEnds (c.get FS_STAT_MODE)

/-- A model update of fire that may be halted; `arms` says that FIRE_ARM has just taken effect. -/
def Chip.updateFire (c : Chip) (arms back : Bool) : Chip :=
  if c.is FS_STAT_HALTED then { c with fire := { c.fire with t0 := c.dt, fresh := false } }.webMoved
  else (if arms then c else c.slewDeff).updateMode back

section
variable {c : Chip}

theorem Chip.modelUpdate_eq : c.modelUpdate =
    if decide (c.dt < c.fire.updAt + c.mp 0 2 * dtMicro) || decide (c.dt ≤ c.fire.t0) then c
    else if !c.printing then c.set FS_STAT_MODE 0
    else (if c.updateBegun.is FS_STAT_HALTED && c.updateBegun.fire.armed then c.updateBegun.armFire.set FS_STAT_MODE 1 else c.updateBegun).updateFire
      (c.updateBegun.is FS_STAT_HALTED && c.updateBegun.fire.armed) c.fire.back := rfl

/-- A model update is due. -/
def Chip.updateDue (c : Chip) : Prop := c.fire.updAt + c.mp 0 2 * dtMicro ≤ c.dt ∧ c.fire.t0 < c.dt

theorem Chip.modelUpdate_early (h : ¬ c.updateDue) : c.modelUpdate = c := by
  refine if_pos ?_
  rw [Bool.or_eq_true, decide_eq_true_iff, decide_eq_true_iff]
  exact (Classical.not_and_iff_not_or_not.1 h).imp Nat.not_le.1 Nat.not_lt.1

theorem Chip.modelUpdate_due (h : c.updateDue) : c.modelUpdate = if !c.printing then c.set FS_STAT_MODE 0
    else (if c.updateBegun.is FS_STAT_HALTED && c.updateBegun.fire.armed then c.updateBegun.armFire.set FS_STAT_MODE 1 else c.updateBegun).updateFire
      (c.updateBegun.is FS_STAT_HALTED && c.updateBegun.fire.armed) c.fire.back := by
  refine Chip.modelUpdate_eq.trans (if_neg ?_)
  rw [Bool.or_eq_true, decide_eq_true_iff, decide_eq_true_iff]
  exact not_or.2 ⟨Nat.not_lt.2 h.1, Nat.not_le.2 h.2⟩

theorem Chip.modelUpdate_idle (h : c.updateDue) (idle : ¬ c.printing = true) : c.modelUpdate = c.set FS_STAT_MODE 0 :=
  (Chip.modelUpdate_due h).trans (if_pos (by rw [Bool.eq_false_iff.2 idle]; rfl))

theorem Chip.updatePosition_halted : c.updatePosition.get FS_STAT_HALTED = c.get FS_STAT_HALTED := by
  rw [Chip.updatePosition]
  split
  · split <;> exact Chip.get_set_ne _ _ _ _ (by decide)
  · exact Chip.get_set_ne _ _ _ _ (by decide)

/-- The web runs on forward, so rows that X has passed go out. -/
def Chip.runsOn (u : Chip) : Prop := u.get (WM_EST_STILL u.infeed) = 0 ∧ u.get (WM_EST_REV u.infeed) = 0

theorem Chip.afterStamps_on (h : c.runsOn) : c.afterStamps = c.positionStamps.webMoved := by
  refine congrArg Chip.webMoved (if_neg ?_)
  rw [Chip.is_eq_false_iff.2 h.1, Chip.is_eq_false_iff.2 h.2]
  decide

theorem Chip.afterStamps_off (h : ¬ c.runsOn) : c.afterStamps = c.webMoved := by
  refine congrArg Chip.webMoved (if_pos ?_)
  rw [Bool.or_eq_true, Chip.is_iff, Chip.is_iff]
  exact Classical.not_and_iff_not_or_not.1 h

theorem Chip.updateEnds_halted {was : Nat} (h : c.get FS_STAT_HALTED ≠ 0) : c.updateEnds was = c.webMoved := if_pos (Chip.is_iff.2 h)

theorem Chip.updateEnds_position {was : Nat} (h : c.get FS_STAT_HALTED = 0) (mode : was ≠ 2) : c.updateEnds was = c.stampRun false := by
  refine (if_neg (mt Chip.is_iff.1 (Classical.not_not.2 h))).trans ?_
  rw [decide_eq_false mode, Bool.false_and]

theorem Chip.updateEnds_predicted (h : c.get FS_STAT_HALTED = 0) : c.updateEnds 2 = c.stampRun (c.get FS_STAT_MODE ≠ 2) := by
  refine (if_neg (mt Chip.is_iff.1 (Classical.not_not.2 h))).trans ?_
  rw [decide_eq_true rfl, Bool.true_and]

theorem Chip.updateMode_predicted {back : Bool} (h : c.get FS_STAT_MODE = 2) : c.updateMode back = (c.updatePredicted back).updateEnds 2 := by
  rw [Chip.updateMode, if_pos h, h]

theorem Chip.updateMode_position {back : Bool} (h : c.get FS_STAT_MODE ≠ 2) : c.updateMode back = c.updatePosition.updateEnds (c.get FS_STAT_MODE) := by
  rw [Chip.updateMode, if_neg h]

variable (due : c.updateDue) (prints : c.printing = true)
include due prints

theorem Chip.modelUpdate_halted (halted : c.updateBegun.get FS_STAT_HALTED ≠ 0) (unarmed : c.updateBegun.fire.armed = false) : c.modelUpdate =
    ({ c.updateBegun with fire := { c.updateBegun.fire with t0 := c.updateBegun.dt, fresh := false } } : Chip).webMoved := by
  rw [Chip.modelUpdate_due due, prints, unarmed, Bool.and_false]
  exact if_pos (Chip.is_iff.2 halted)

theorem Chip.modelUpdate_arms (halted : c.updateBegun.get FS_STAT_HALTED ≠ 0) (armed : c.updateBegun.fire.armed = true)
    (goes : (c.updateBegun.armFire.set FS_STAT_MODE 1).updatePosition.get FS_STAT_HALTED = 0) :
    c.modelUpdate = (c.updateBegun.armFire.set FS_STAT_MODE 1).updatePosition.stampRun false := by
  rw [Chip.modelUpdate_due due, prints, armed, Chip.is_iff.2 halted]
  generalize hp : c.updateBegun.armFire.set FS_STAT_MODE 1 = p at goes ⊢
  have mode : p.get FS_STAT_MODE ≠ 2 := by
    rw [← hp, Chip.get_set_same]
    decide
  have on : p.get FS_STAT_HALTED = 0 := Chip.updatePosition_halted.symm.trans goes
  exact (if_neg (mt Chip.is_iff.1 (Classical.not_not.2 on))).trans ((Chip.updateMode_position mode).trans (Chip.updateEnds_position goes mode))

theorem Chip.modelUpdate_live (live : ¬ c.updateBegun.get FS_STAT_HALTED ≠ 0) : c.modelUpdate = c.updateBegun.slewDeff.updateMode c.fire.back := by
  rw [Chip.modelUpdate_due due, prints, Bool.eq_false_iff.2 (mt Chip.is_iff.1 live), Bool.false_and]
  exact if_neg (mt Chip.is_iff.1 live)

end

theorem modelUpdate_acts (t : Nat) (s : State) :
    let c := (s.at_ t).chip
    let e := Instr.modelUpdate t
    let due : Prop := c.fire.updAt + c.mp 0 2 * dtMicro ≤ c.dt ∧ c.fire.t0 < c.dt
    let prints : Prop := c.printing = true
    let begun := ({ c with fire := { c.fire with updAt := c.dt, back := false } } : Chip).takeMotion
    let halted : Prop := begun.get FS_STAT_HALTED ≠ 0
    let idle : Chip := { begun with fire := { begun.fire with t0 := begun.dt, fresh := false } }
    let runsOn (u : Chip) : Prop := u.get (WM_EST_STILL u.infeed) = 0 ∧ u.get (WM_EST_REV u.infeed) = 0
    let stamped (u : Chip) (drop : Bool) : Prop :=
      let v := u.stampAll (u.get FS_STAT_MODE) drop
      (runsOn v → Acts e t s v.positionStamps.webMoved) ∧ (¬ runsOn v → Acts e t s v.webMoved)
    let position := begun.slewDeff.updatePosition
    let predicted := begun.slewDeff.updatePredicted c.fire.back
    let armed := (begun.armFire.set FS_STAT_MODE 1).updatePosition
    (¬ due → Passes e t s) ∧
    (due → ¬ prints → Acts e t s (c.set FS_STAT_MODE 0)) ∧
    (due → prints → halted → begun.fire.armed = false → Acts e t s idle.webMoved) ∧
    (due → prints → halted → begun.fire.armed = true → armed.get FS_STAT_HALTED = 0 → stamped armed false) ∧
    (due → prints → ¬ halted → begun.slewDeff.get FS_STAT_MODE ≠ 2 → position.get FS_STAT_HALTED = 0 → stamped position false) ∧
    (due → prints → ¬ halted → begun.slewDeff.get FS_STAT_MODE = 2 → predicted.get FS_STAT_HALTED = 0 →
      stamped predicted (predicted.get FS_STAT_MODE ≠ 2)) ∧
    (due → prints → ¬ halted → begun.slewDeff.get FS_STAT_MODE = 2 → predicted.get FS_STAT_HALTED ≠ 0 → Acts e t s predicted.webMoved) := by
  have run : exec (.modelUpdate t) s = .next ((s.at_ t).onChip (·.modelUpdate)) := rfl
  have acts {d : Chip} := acts_onChip (d := d) _ run
  have passes := passes_onChip _ run
  generalize (s.at_ t).chip = c at acts passes ⊢
  have stamped (u : Chip) (drop : Bool) (h : c.modelUpdate = u.stampRun drop) :
      ((u.stampAll (u.get FS_STAT_MODE) drop).runsOn → Acts (.modelUpdate t) t s (u.stampAll (u.get FS_STAT_MODE) drop).positionStamps.webMoved) ∧
      (¬ (u.stampAll (u.get FS_STAT_MODE) drop).runsOn → Acts (.modelUpdate t) t s (u.stampAll (u.get FS_STAT_MODE) drop).webMoved) :=
    ⟨fun on => acts (h.trans (Chip.afterStamps_on on)), fun off => acts (h.trans (Chip.afterStamps_off off))⟩
  exact ⟨fun early => passes (Chip.modelUpdate_early early), fun due idle => acts (Chip.modelUpdate_idle due idle),
    fun due prints halted unarmed => acts (Chip.modelUpdate_halted due prints halted unarmed),
    fun due prints halted armed goes => stamped _ _ (Chip.modelUpdate_arms due prints halted armed goes),
    fun due prints live mode goes => stamped _ _ ((Chip.modelUpdate_live due prints live).trans
      ((Chip.updateMode_position mode).trans (Chip.updateEnds_position goes mode))),
    fun due prints live mode goes => stamped _ _ ((Chip.modelUpdate_live due prints live).trans
      ((Chip.updateMode_predicted mode).trans (Chip.updateEnds_predicted goes))),
    fun due prints live mode halts => acts ((Chip.modelUpdate_live due prints live).trans
      ((Chip.updateMode_predicted mode).trans (Chip.updateEnds_halted halts)))⟩

/-! ### Frozen stamps (R212, R214) -/

section
variable {c : Chip} {h : HeadRow} {p v : Nat}

theorem HeadRow.pastHorizon_iff {now : Nat} (hs : h.stamp = some p) : h.pastHorizon now = true ↔ p ≠ 2 ^ 64 - 1 ∧ p < now + 40000 := by
  rw [HeadRow.pastHorizon, hs]
  exact (Bool.and_eq_true ..).to_iff.trans (and_congr decide_eq_true_iff decide_eq_true_iff)

/-- Head-row h after stamps have frozen. -/
def Chip.frozenHead (c : Chip) (h : HeadRow) : HeadRow := match h.stamp with
  | some p => if p ≠ 2 ^ 64 - 1 ∧ p < c.ns + 40000 then { h with frozen := true, queued := none, missed := h.missed || c.dropsAmend h } else h
  | none => h

theorem Chip.freezeHead_eq : c.freezeHead h = c.frozenHead h := by
  rw [Chip.freezeHead, Chip.frozenHead]
  cases hs : h.stamp with
  | some p => exact ite_of_iff (HeadRow.pastHorizon_iff hs) rfl rfl
  | none =>
    refine if_neg ?_
    rw [HeadRow.pastHorizon, hs]
    exact Bool.false_ne_true

/-- Chip c after its stamps have frozen, before a fault of MISSLIM. -/
def Chip.frozen (c : Chip) : Chip :=
  ({ c with bars := FMap.mapV {} (fun b => { b with ring := b.ring.map fun x => { x with heads := x.heads.map c.frozenHead } }) c.bars } : Chip).bump
    FS_AMISS_MISSED c.dropped.length

/-- A dropped amendment that MISSLIM is judged for now, beyond it. -/
def Chip.missesFar (c : Chip) (x : Nat × Nat × Nat × Nat) : Prop :=
  c.farOff x.2.2.1 x.2.2.2 = true ∧ x.2.2.1 * 65536 ≤ c.fire.updAt + c.mp 0 2 * dtMicro

theorem Chip.freeze_eq : c.freeze =
    match c.dropped.find? fun d => c.farOff d.2.2.1 d.2.2.2 && decide (d.2.2.1 * 65536 ≤ c.fire.updAt + c.mp 0 2 * dtMicro) with
    | some d => c.frozen.raise .fs 0 { src := 4, detail := packRow (some d.1) (some d.2.1) none }
    | none => c.frozen := by
  have heads : c.freezeHead = c.frozenHead := funext fun _ => Chip.freezeHead_eq
  rw [Chip.freeze, heads]
  rfl

theorem Chip.missesFar_iff {x : Nat × Nat × Nat × Nat} :
    (c.farOff x.2.2.1 x.2.2.2 && decide (x.2.2.1 * 65536 ≤ c.fire.updAt + c.mp 0 2 * dtMicro)) = true ↔ c.missesFar x := by
  rw [Bool.and_eq_true, decide_eq_true_iff, Chip.missesFar]

theorem Chip.freeze_near (near : ∀ x ∈ c.dropped, ¬ c.missesFar x) : c.freeze = c.frozen := by
  have found := List.find?_eq_none.2 fun x hx => mt Chip.missesFar_iff.1 (near x hx)
  rw [Chip.freeze_eq, found]

theorem Chip.freeze_far {before after : List (Nat × Nat × Nat × Nat)} {x : Nat × Nat × Nat × Nat} (ds : c.dropped = before ++ x :: after)
    (near : ∀ y ∈ before, ¬ c.missesFar y) (far : c.missesFar x) :
    c.freeze = c.frozen.raise .fs 0 { src := 4, detail := packRow (some x.1) (some x.2.1) none } := by
  have passed (y) (hy : y ∈ before) : (!(c.farOff y.2.2.1 y.2.2.2 && decide (y.2.2.1 * 65536 ≤ c.fire.updAt + c.mp 0 2 * dtMicro))) = true := by
    rw [Bool.not_eq_true', Bool.eq_false_iff]
    exact mt Chip.missesFar_iff.1 (near y hy)
  have found : (c.dropped.find? fun d => c.farOff d.2.2.1 d.2.2.2 && decide (d.2.2.1 * 65536 ≤ c.fire.updAt + c.mp 0 2 * dtMicro)) = some x :=
    List.find?_eq_some_iff_append.2 ⟨Chip.missesFar_iff.2 far, before, after, ds, passed⟩
  rw [Chip.freeze_eq, found]

/-- An amendment that waits when its stamp freezes is missed where it differs by more than ATOL. -/
theorem Chip.dropsAmend_iff (hs : h.stamp = some p) (hq : h.queued = some v) (free : h.frozen = false) (sent : p ≠ 2 ^ 64 - 1) (past : p < c.ns + 40000)
    (hv : v ≠ 2 ^ 64 - 1) : c.dropsAmend h = true ↔ (!h.frozen && v < p + 1 + c.mp 20 2 && p < v + 1 + c.mp 20 2) = false := by
  have frozen := (HeadRow.pastHorizon_iff hs).2 ⟨sent, past⟩
  have tol : (c.mp 20 2 < if v < p then p - v else v - p) ↔ ¬ (v < p + 1 + c.mp 20 2 ∧ p < v + 1 + c.mp 20 2) := by
    split <;> omega
  have hold : ¬ (p = holdStamp) ∧ ¬ (v = holdStamp) := ⟨sent, hv⟩
  rw [Chip.dropsAmend, free, frozen, hs, hq]
  simp only [Bool.not_false, Bool.true_and, Option.any_some, Option.getD_some, Chip.differs, hold.1, hold.2, decide_false, Bool.false_or, Bool.and_eq_true,
    decide_eq_true_iff, tol, Bool.and_eq_false_iff, decide_eq_false_iff_not, ne_eq]
  omega

end

theorem stampFreeze_acts (t : Nat) (s : State) :
    let c := (s.at_ t).chip
    let late (h : HeadRow) (v p : Nat) : Bool := !h.frozen && v < p + 1 + c.mp 20 2 && p < v + 1 + c.mp 20 2
    let head (h : HeadRow) : HeadRow := match h.stamp with
      | some p => if p ≠ 2 ^ 64 - 1 ∧ p < c.ns + 40000 then { h with frozen := true, queued := none, missed := h.missed || c.dropsAmend h } else h
      | none => h
    let ring (b : Bar) : Bar := { b with ring := b.ring.map fun x => { x with heads := x.heads.map head } }
    let d := ({ c with bars := FMap.mapV {} ring c.bars } : Chip).bump FS_AMISS_MISSED c.dropped.length
    let far (x : Nat × Nat × Nat × Nat) : Prop := c.farOff x.2.2.1 x.2.2.2 = true ∧ x.2.2.1 * 65536 ≤ c.fire.updAt + c.mp 0 2 * dtMicro
    ((∀ x ∈ c.dropped, ¬ far x) → Acts (.stampFreeze t) t s d) ∧
    (∀ before x after, c.dropped = before ++ x :: after → (∀ y ∈ before, ¬ far y) → far x →
      Acts (.stampFreeze t) t s (d.raise .fs 0 { src := 4, detail := packRow (some x.1) (some x.2.1) none })) ∧
    (∀ h p v, h.stamp = some p → h.queued = some v → h.frozen = false → p ≠ 2 ^ 64 - 1 → p < c.ns + 40000 → v ≠ 2 ^ 64 - 1 →
      (c.dropsAmend h = true ↔ late h v p = false)) := by
  have run : exec (.stampFreeze t) s = .next ((s.at_ t).onChip (·.freeze)) := rfl
  have acts {d : Chip} := acts_onChip (d := d) _ run
  generalize (s.at_ t).chip = c at acts ⊢
  exact ⟨fun near => acts (Chip.freeze_near near), fun _ _ _ ds near far => acts (Chip.freeze_far ds near far),
    fun _ _ _ hs hq free sent past hv => Chip.dropsAmend_iff hs hq free sent past hv⟩

/-! ### Coasting, HALT_FIRE_N, and rows that have fired -/

theorem coast_acts (t : Nat) (s : State) :
    let c := (s.at_ t).chip
    let coasts : Prop := c.get FS_STAT_MODE = 2 ∧ c.fire.coasted = false ∧ c.pastEdge (c.mp 16 2 * dtMicro) = true ∧
      ∀ k, s.countNow t c.infeed = some k → k = some 0
    let d : Chip := { c with fire := { c.fire with coasted := true } }
    (coasts → Acts (.coastTimeout t) t s (d.raise .fs 0 { src := 2, detail := packRow none none none })) ∧ (¬ coasts → Passes (.coastTimeout t) t s) := by
  have run : exec (.coastTimeout t) s = execCoastTimeout t s := rfl
  unfold execCoastTimeout at run
  have acts {d : Chip} := acts_onChip (d := d) _ run
  have passes := passes_onChip _ run
  generalize (s.at_ t).chip = c at acts passes ⊢
  have coasts_iff : (c.get FS_STAT_MODE = 2 && !c.fire.coasted && c.pastEdge (c.mp 16 2 * dtMicro) && (s.countNow t c.infeed).all (· = some 0)) = true ↔
      c.get FS_STAT_MODE = 2 ∧ c.fire.coasted = false ∧ c.pastEdge (c.mp 16 2 * dtMicro) = true ∧ ∀ k, s.countNow t c.infeed = some k → k = some 0 := by
    simp only [Bool.and_eq_true, decide_eq_true_iff, Bool.not_eq_true', Option.all_eq_true, and_assoc]
  exact ⟨fun h => acts (if_pos (coasts_iff.2 h)), fun h => passes (if_neg (mt coasts_iff.1 h))⟩

theorem haltFireN_acts (t : Nat) (s : State) :
    let c := (s.at_ t).chip
    (c.get FS_STAT_HFN ≠ 0 → Acts (.haltFireNLow t) t s (((c.set FS_STAT_HFN 0).haltFire 1).raise .ls 0 { src := 1 })) ∧
    (c.get FS_STAT_HFN = 0 → Passes (.haltFireNLow t) t s) ∧ Acts (.haltFireNHigh t) t s (c.set FS_STAT_HFN 1) := by
  have low : exec (.haltFireNLow t) s = .next ((s.at_ t).onChip fun c =>
    if c.is FS_STAT_HFN then ((c.set FS_STAT_HFN 0).haltFire 1).raise .ls 0 { src := 1 } else c) := rfl
  have high : exec (.haltFireNHigh t) s = .next ((s.at_ t).onChip (·.set FS_STAT_HFN 1)) := rfl
  have acts {d : Chip} := acts_onChip (d := d) _ low
  have passes := passes_onChip _ low
  have rises {d : Chip} := acts_onChip (d := d) _ high
  generalize (s.at_ t).chip = c at acts passes rises ⊢
  exact ⟨fun h => acts (if_pos (Chip.is_iff.2 h)), fun h => passes (if_neg (mt Chip.is_iff.1 (Classical.not_not.2 h))), rises rfl⟩

section
variable {c : Chip} {k : Nat} {x : RowSlot}

/-- The stamp of a head-row has passed, and its ROW frame is accepted. -/
def HeadRow.passedAt (h : HeadRow) (now : Nat) : Prop := h.ok = true ∧ ∃ v ∈ h.stamp, v ≠ 2 ^ 64 - 1 ∧ v ≤ now

theorem HeadRow.passedAt_iff {h : HeadRow} {now : Nat} : (h.ok && (match h.stamp with
    | some v => v ≠ holdStamp && decide (v ≤ now)
    | none => false)) = true ↔ h.passedAt now := by
  rw [HeadRow.passedAt]
  cases h.stamp with
  | none => simp
  | some v =>
    rw [Bool.and_eq_true]
    refine and_congr_right fun _ => ((Bool.and_eq_true ..).to_iff.trans (and_congr decide_eq_true_iff decide_eq_true_iff)).trans ?_
    simp only [Option.mem_some_iff, exists_eq_left', holdStamp]

theorem Chip.rowFired_iff : c.rowFired k x = true ↔
    x.complete = true ∧ (∀ h ∈ x.heads, h.passedAt c.ns) ∧ (x.heads = [] → (x.n : Int) ≤ (c.bar k).rk) := by
  have passed : x.heads.all (fun h => h.ok && (match h.stamp with
    | some v => v ≠ holdStamp && decide (v ≤ c.ns)
    | none => false)) = true ↔ ∀ h ∈ x.heads, h.passedAt c.ns :=
    List.all_eq_true.trans (forall₂_congr fun _ _ => HeadRow.passedAt_iff)
  have bare : (!x.heads.isEmpty || decide ((x.n : Int) ≤ (c.bar k).rk)) = true ↔ (x.heads = [] → (x.n : Int) ≤ (c.bar k).rk) := by
    rw [Bool.or_eq_true, Bool.not_eq_true', Bool.eq_false_iff, Ne, List.isEmpty_iff, decide_eq_true_iff, Classical.or_iff_not_imp_left, Classical.not_not]
  rw [Chip.rowFired, Bool.and_eq_true, Bool.and_eq_true, and_assoc]
  exact and_congr_right fun _ => and_congr passed bare

end

theorem fired_acts (t : Nat) (k : Fin 16) (n : Nat) (kept : Bool) (x : RowSlot) (s : State) :
    let c := (s.at_ t).chip
    let passed (h : HeadRow) : Prop := h.ok = true ∧ ∃ v ∈ h.stamp, v ≠ 2 ^ 64 - 1 ∧ v ≤ c.ns
    let fired : Prop := x.complete = true ∧ (∀ h ∈ x.heads, passed h) ∧ (x.heads = [] → (x.n : Int) ≤ (c.bar k).rk)
    ((c.bar k).ring.find? fun y => y.n = n) = some x →
      (fired → Acts (.fireStampPassed t k ⟨n, kept⟩) t s (c.releaseRow k n true kept)) ∧ (¬ fired → Passes (.fireStampPassed t k ⟨n, kept⟩) t s) := by
  have run : exec (.fireStampPassed t k ⟨n, kept⟩) s = execFireStampPassed t k ⟨n, kept⟩ s := rfl
  unfold execFireStampPassed at run
  have acts {d : Chip} := acts_onChip (d := d) _ run
  have passes := passes_onChip _ run
  generalize (s.at_ t).chip = c at acts passes ⊢
  refine fun found => ?_
  simp only [found] at acts passes
  exact ⟨fun h => acts (if_pos (Chip.rowFired_iff.2 h)), fun h => passes (if_neg (mt Chip.rowFired_iff.1 h))⟩

/-- Settles O45: the model update by its branches, stamps that freeze, coasting, HALT_FIRE_N, and rows that have fired. -/
theorem fireStampEvents : Obligations.FireStampEvents := ⟨modelUpdate_acts, stampFreeze_acts, coast_acts, haltFireN_acts, fired_acts⟩

end Sys2Proof.Machine
end

section
/-!
PROOFS. Events of the bar engines: passes and rows (R183, R185, R397), slices (R191 to R194), headroom (R195) and loop commits (R168 to R170).
-/
namespace Sys2Proof.Machine

/-- Fields of one block that begin at different bits are different fields. -/
theorem fld_key_ne {b : Blk} {i o l w r o' l' w' r' : Nat} (h : o * 128 + l ≠ o' * 128 + l') : (fld b i o l w r).key ≠ (fld b i o' l' w' r').key := by
  simp only [fld]
  omega

/-! ### Passes and rows -/

section
variable {c : Chip} {k n : Nat}

/-- A pass may start in bar k. -/
theorem Chip.mayPass_iff : c.mayPass k = true ↔ c.strm.job = true ∧ (c.role = 0 ∨ c.role = 1 ∨ c.role = 2 ∨ c.role = 3 ∧ c.twin.adopted = true) ∧
    c.barWorks k = true ∧ c.passDue k = true ∧ c.passRows k ≠ [] := by
  simp only [Chip.mayPass, Bool.and_eq_true, Bool.or_eq_true, Chip.runs_iff, decide_eq_true_iff, Bool.not_eq_true', List.isEmpty_eq_false_iff, and_assoc,
    or_assoc]

/-- The rows of a pass follow one another from the next row on, each allowed. -/
theorem Chip.passRows_getElem {i : Nat} (h : (c.passRows k)[i]? = some n) :
    n = (c.bar k).next + i ∧ c.rowAllowed k n = true ∧ i < c.get (BE_SCR_WORKING k) ∧ i + (c.bar k).ring.length < 64 := by
  have allowed : c.rowAllowed k n = true := List.all_eq_true.1 List.all_takeWhile n (List.mem_of_getElem? h)
  obtain ⟨rest, split⟩ : c.passRows k <+: (List.range (min (c.get (BE_SCR_WORKING k)) (64 - (c.bar k).ring.length))).map ((c.bar k).next + ·) :=
    List.takeWhile_prefix _
  obtain ⟨inside, -⟩ := List.getElem?_eq_some_iff.1 h
  have there := (List.getElem?_append_left (l₂ := rest) inside).trans h
  rw [split, List.getElem?_map] at there
  obtain ⟨j, found, rfl⟩ := Option.map_eq_some_iff.1 there
  obtain ⟨short, rfl⟩ := List.getElem?_eq_some_iff.1 found
  rw [List.length_range] at short
  rw [List.getElem_range] at allowed ⊢
  exact ⟨rfl, allowed, by omega, by omega⟩

/-- Row n of bar k waits to become complete. -/
def Chip.rowWaits (c : Chip) (k n : Nat) : Prop := (∃ x ∈ (c.bar k).ring, x.n = n ∧ x.complete = false) ∧ (∀ x ∈ c.store.fetches, (k, n) ∉ x.rows) ∧
  ((c.bar k).cutAt ≤ c.dt ∨ ∀ p ∈ (c.bar k).pass, n < p.1)

theorem Chip.rowWaits_iff : ((c.bar k).ring.any (fun x => x.n = n && !x.complete) && !c.store.stalls k n && c.passRuns k n && c.barWorks k) = true ↔
    c.rowWaits k n ∧ c.barWorks k = true := by
  have runs : c.passRuns k n = true ↔ ((c.bar k).cutAt ≤ c.dt ∨ ∀ p ∈ (c.bar k).pass, n < p.1) := by
    rw [Chip.passRuns]
    cases (c.bar k).pass <;> simp
  simp only [Bool.and_eq_true, runs, List.any_eq_true, decide_eq_true_iff, Bool.not_eq_true', Store.stalls, List.any_eq_false, List.contains_iff_mem,
    Chip.rowWaits, and_assoc]

end

theorem passStart_acts (t : Nat) (k : Fin 16) (s : State) :
    let c := (s.at_ t).chip
    let ns := c.passRows k
    let unit : Prop := c.role = 0 ∨ c.role = 1 ∨ c.role = 2 ∨ c.role = 3 ∧ c.twin.adopted = true
    let may : Prop := c.strm.job = true ∧ unit ∧ c.barWorks k = true ∧ c.passDue k = true ∧ ns ≠ []
    (may → exec (.passStart t k) s = .next (startPass k ns (s.at_ t))) ∧ (¬ may → Passes (.passStart t k) t s) ∧
    (∀ i n, ns[i]? = some n → n = (c.bar k).next + i ∧ c.rowAllowed k n = true ∧ i < c.get (BE_SCR_WORKING k) ∧ i + (c.bar k).ring.length < 64) := by
  have run : exec (.passStart t k) s = .next (if (s.at_ t).chip.mayPass k then startPass k ((s.at_ t).chip.passRows k) (s.at_ t) else s.at_ t) := rfl
  unfold Passes
  generalize s.at_ t = v at run ⊢
  exact ⟨fun may => run.trans (congrArg _ (if_pos (Chip.mayPass_iff.2 may))), fun not => run.trans (congrArg _ (if_neg (mt Chip.mayPass_iff.1 not))),
    fun _ _ => Chip.passRows_getElem⟩

theorem rowRendered_acts (t : Nat) (k : Fin 16) (n hits : Nat) (sram : Option (Nat × Bool)) (s : State) :
    let c := (s.at_ t).chip
    let waits : Prop := (∃ x ∈ (c.bar k).ring, x.n = n ∧ x.complete = false) ∧ (∀ x ∈ c.store.fetches, ((k : Nat), n) ∉ x.rows) ∧
      ((c.bar k).cutAt ≤ c.dt ∨ ∀ p ∈ (c.bar k).pass, n < p.1)
    let d := (c.inject .be k [1, 2]).sramCheck k sram
    (waits → c.barWorks k = true → d.barWorks k = true → Acts (.rowRendered t k n ⟨hits, sram⟩) t s ((d.rowComplete k n hits).hashRow k n)) ∧
    (waits → c.barWorks k = true → d.barWorks k = false → Acts (.rowRendered t k n ⟨hits, sram⟩) t s d) ∧
    (¬ waits ∨ c.barWorks k = false → Passes (.rowRendered t k n ⟨hits, sram⟩) t s) := by
  have run : exec (.rowRendered t k n ⟨hits, sram⟩) s = execRowRendered t k n ⟨hits, sram⟩ s := rfl
  unfold execRowRendered at run
  have acts {d : Chip} := acts_onChip (d := d) _ run
  have passes := passes_onChip _ run
  generalize (s.at_ t).chip = c at acts passes ⊢
  exact ⟨fun waits works still => acts ((if_pos (Chip.rowWaits_iff.2 ⟨waits, works⟩)).trans (if_pos still)),
    fun waits works ends => acts ((if_pos (Chip.rowWaits_iff.2 ⟨waits, works⟩)).trans (if_neg (Bool.eq_false_iff.1 ends))),
    fun not => passes (if_neg fun h => (Chip.rowWaits_iff.1 h).elim fun waits works =>
      not.elim (· waits) fun off => Bool.false_ne_true (off.symm.trans works))⟩

/-! ### Slices (R191 to R194) -/

section
variable {c : Chip} {k i : Nat}

/-- Slice i of bar k works, in a bar that works. -/
def Chip.sliceRuns (c : Chip) (k i : Nat) : Prop := bit (c.get (BE_FENCE_FENCED k)) i = false ∧ c.get (BE_SCR_SPARE k) ≠ i ∧ c.barWorks k = true

/-- Slice i of bar k is fenced and the pass rolls back. -/
def Chip.fencedSlice (c : Chip) (k i : Nat) : Chip :=
  ((c.rollBack k).set (BE_FENCE_FENCED k) (c.get (BE_FENCE_FENCED k) + 2 ^ i)).bump (BE_RBK_ROLLBACK k)

theorem Chip.rollBack_get (f : Fld) : (c.rollBack k).get f = c.get f := by
  unfold Chip.rollBack
  split <;> rfl

/-- The slice configuration of a bar stays when a slice is fenced. -/
theorem Chip.fencedSlice_scr (lo w r : Nat) (h : lo < 128) : (c.fencedSlice k i).get (fld .be k 0x40 lo w r) = c.get (fld .be k 0x40 lo w r) :=
  (Chip.get_set_ne _ _ _ _ (fld_key_ne (by omega))).trans ((Chip.get_set_ne _ _ _ _ (fld_key_ne (by omega))).trans (Chip.rollBack_get _))

variable (hi : i < 25)
include hi

theorem Chip.sliceRuns_iff : (!c.sliceWorks k i || !c.barWorks k) = true ↔ ¬ c.sliceRuns k i := by
  simp only [Chip.sliceWorks, Chip.sliceRuns, hi, decide_true, Bool.true_and, Bool.or_eq_true, Bool.not_eq_true', Bool.and_eq_false_iff, Bool.not_eq_false',
    decide_eq_false_iff_not, Classical.not_and_iff_not_or_not, Classical.not_not, Bool.not_eq_false, Bool.not_eq_true, or_assoc, ne_eq]

theorem Chip.sliceFault_stays (h : ¬ c.sliceRuns k i) : c.sliceFault k i = c := if_pos ((Chip.sliceRuns_iff hi).2 h)

variable (works : c.sliceRuns k i)
include works

theorem Chip.sliceFault_works : c.sliceFault k i =
    if (c.fencedSlice k i).hasSpare k then ((c.fencedSlice k i).noSpare k).raise .be k { src := 1, cell := i }
    else if (c.fencedSlice k i).get (BE_SCR_WORKING k) ≤ 20 then ((c.fencedSlice k i).raise .be k { src := 2, cell := i }).quarantine .be k
    else ((c.fencedSlice k i).set (BE_SCR_WORKING k) ((c.fencedSlice k i).get (BE_SCR_WORKING k) - 1)).raise .be k { src := 2, cell := i } :=
  if_neg (mt (Chip.sliceRuns_iff hi).1 (Classical.not_not.2 works))

theorem Chip.sliceFault_spare (spare : c.get (BE_SCR_SPARE k) ≠ 31) :
    c.sliceFault k i = ((c.fencedSlice k i).noSpare k).raise .be k { src := 1, cell := i } := by
  refine (Chip.sliceFault_works hi works).trans (if_pos (decide_eq_true ?_))
  exact (Chip.fencedSlice_scr (c := c) (k := k) (i := i) 6 5 0x18 (by decide)).symm ▸ spare

variable (spare : ¬ c.get (BE_SCR_SPARE k) ≠ 31)
include spare

theorem Chip.sliceFault_alone : c.sliceFault k i =
    if c.get (BE_SCR_WORKING k) ≤ 20 then ((c.fencedSlice k i).raise .be k { src := 2, cell := i }).quarantine .be k
    else ((c.fencedSlice k i).set (BE_SCR_WORKING k) (c.get (BE_SCR_WORKING k) - 1)).raise .be k { src := 2, cell := i } := by
  have working : (c.fencedSlice k i).get (BE_SCR_WORKING k) = c.get (BE_SCR_WORKING k) := Chip.fencedSlice_scr _ _ _ (by decide)
  have none : ¬ (c.fencedSlice k i).get (BE_SCR_SPARE k) ≠ 31 := (Chip.fencedSlice_scr (c := c) (k := k) (i := i) 6 5 0x18 (by decide)).symm ▸ spare
  rw [Chip.sliceFault_works hi works, working]
  exact if_neg (mt decide_eq_true_iff.1 none)

end

theorem sliceFault_acts (t : Nat) (k : Fin 16) (i : Fin 25) (s : State) :
    let e := Instr.sliceFault t k i
    let c := (s.at_ t).chip
    let works : Prop := bit (c.get (BE_FENCE_FENCED k)) i = false ∧ c.get (BE_SCR_SPARE k) ≠ i ∧ c.barWorks k = true
    let d := ((c.rollBack k).set (BE_FENCE_FENCED k) (c.get (BE_FENCE_FENCED k) + 2 ^ (i : Nat))).bump (BE_RBK_ROLLBACK k)
    let spare : Prop := c.get (BE_SCR_SPARE k) ≠ 31
    let n := c.get (BE_SCR_WORKING k)
    (¬ works → Passes e t s) ∧
    let ends (d : Chip) : Chip := if (c.bar k).lent = true ∧ (d.bar k).lent = false then d.dropReferee k else d
    (works → spare → Acts e t s (ends ((d.noSpare k).raise .be k { src := 1, cell := i }))) ∧
    (works → ¬ spare → 20 < n → Acts e t s (ends ((d.set (BE_SCR_WORKING k) (n - 1)).raise .be k { src := 2, cell := i }))) ∧
    (works → ¬ spare → n ≤ 20 → Acts e t s (ends ((d.raise .be k { src := 2, cell := i }).quarantine .be k))) := by
  have run : exec (.sliceFault t k i) s = .next ((s.at_ t).onChip fun c =>
    if (c.bar k).lent && !((c.sliceFault k i).bar k).lent then (c.sliceFault k i).dropReferee k else c.sliceFault k i) := rfl
  have acts {d : Chip} := acts_onChip (d := d) _ run
  have passes := passes_onChip _ run
  generalize (s.at_ t).chip = c at acts passes ⊢
  have ends {d : Chip} (h : c.sliceFault k i = d) : Acts (.sliceFault t k i) t s (if (c.bar k).lent = true ∧ (d.bar k).lent = false then d.dropReferee k else d) := by
    subst h
    exact acts (ite_of_iff (by rw [Bool.and_eq_true, Bool.not_eq_true']) rfl rfl)
  refine ⟨fun not => passes ?_, fun works spare => ends (Chip.sliceFault_spare i.2 works spare),
    fun works spare many => ends ((Chip.sliceFault_alone i.2 works spare).trans (if_neg (Nat.not_le.2 many))),
    fun works spare few => ends ((Chip.sliceFault_alone i.2 works spare).trans (if_pos few))⟩
  rw [Chip.sliceFault_stays i.2 not]
  exact if_neg (by rw [Bool.and_not_self]; decide)

section
variable {c : Chip} {k : Nat}

/-- The spare of bar k is due to change places with a working slice. -/
def Chip.rotationDue (c : Chip) (k : Nat) : Prop := c.barWorks k = true ∧ c.get (BE_SCR_SPARE k) ≠ 31 ∧ (c.bar k).spareOk = true ∧ (c.bar k).lent = false ∧
  (c.bar k).rotated + 10 * dtSecond ≤ c.dt ∧ ∀ x ∈ (c.bar k).ring, x.complete = true

theorem Chip.rotationDue_iff : (c.barWorks k && c.hasSpare k && (c.bar k).spareOk && !(c.bar k).lent && decide ((c.bar k).rotated + 10 * dtSecond ≤ c.dt) &&
    (c.bar k).ring.all (·.complete)) = true ↔ c.rotationDue k := by
  simp only [Chip.hasSpare, Bool.and_eq_true, decide_eq_true_iff, Bool.not_eq_true', List.all_eq_true, Chip.rotationDue, and_assoc]

/-- A test round of the spare of bar k runs. -/
def Chip.roundRuns (c : Chip) (k : Nat) : Prop := c.get (BE_SCR_SPARE k) ≠ 31 ∧ c.get (BE_SCR_SPARE_STATE k) = 0 ∧ c.barWorks k = true

theorem Chip.roundRuns_iff : (!c.hasSpare k || c.get (BE_SCR_SPARE_STATE k) ≠ 0 || !c.barWorks k) = true ↔ ¬ c.roundRuns k := by
  simp only [Chip.hasSpare, Bool.or_eq_true, Bool.not_eq_true', decide_eq_false_iff_not, decide_eq_true_iff, Chip.roundRuns, Classical.not_and_iff_not_or_not, Bool.not_eq_true,
    or_assoc, ne_eq]

end

theorem rotation_acts (t : Nat) (k : Fin 16) (s : State) :
    let c := (s.at_ t).chip
    let b := c.bar k
    let due : Prop := c.barWorks k = true ∧ c.get (BE_SCR_SPARE k) ≠ 31 ∧ b.spareOk = true ∧ b.lent = false ∧ b.rotated + 10 * dtSecond ≤ c.dt ∧
      ∀ x ∈ b.ring, x.complete = true
    (¬ due → Passes (.spareRotation t k) t s) ∧ (due → c.nextOut k b.lastOut = none → Passes (.spareRotation t k) t s) ∧
    (∀ i, due → c.nextOut k b.lastOut = some i → Acts (.spareRotation t k) t s
      ((((c.setBar k { b with lastOut := i, spareOk := false, rotated := c.dt }).set (BE_SCR_SPARE k) i).set (BE_SCR_SPARE_STATE k) 0).count (BE_SCR_ROTATIONS k))) ∧
    (∀ pass,
      let e := Instr.spareRoundEnd t k pass
      let i := c.get (BE_SCR_SPARE k)
      let runs : Prop := i ≠ 31 ∧ c.get (BE_SCR_SPARE_STATE k) = 0 ∧ c.barWorks k = true
      let d := c.set (BE_FENCE_FENCED k) (c.get (BE_FENCE_FENCED k) + 2 ^ i)
      (¬ runs → Passes e t s) ∧ (runs → pass = true → Acts e t s ((c.setBar k { b with spareOk := true }).inject .be k [3])) ∧
      (runs → pass = false → Acts e t s (((d.noSpare k).bump (BE_RBK_SPARE_FAIL k)).raise .be k { src := 3, cell := i }))) := by
  have rotates : exec (.spareRotation t k) s = execSpareRotation t k s := rfl
  unfold execSpareRotation at rotates
  have ends (pass : Bool) : exec (.spareRoundEnd t k pass) s = execSpareRoundEnd t k pass s := rfl
  unfold execSpareRoundEnd at ends
  have acts {d : Chip} := acts_onChip (d := d) _ rotates
  have passes := passes_onChip _ rotates
  have actsEnd (pass : Bool) {d : Chip} := acts_onChip (d := d) _ (ends pass)
  have passesEnd (pass : Bool) := passes_onChip _ (ends pass)
  generalize (s.at_ t).chip = c at acts passes actsEnd passesEnd ⊢
  have round (h : c.roundRuns k) : ¬ (!c.hasSpare k || c.get (BE_SCR_SPARE_STATE k) ≠ 0 || !c.barWorks k) = true := mt Chip.roundRuns_iff.1 (Classical.not_not.2 h)
  refine ⟨fun not => passes (if_neg (mt Chip.rotationDue_iff.1 not)), fun due none => passes ((if_pos (Chip.rotationDue_iff.2 due)).trans (by rw [none])),
    fun i due next => acts ((if_pos (Chip.rotationDue_iff.2 due)).trans (by rw [next])),
    fun pass => ⟨fun not => passesEnd pass (if_pos (Chip.roundRuns_iff.2 not)), fun runs good => ?_, fun runs bad => ?_⟩⟩
  · subst good
    exact actsEnd true ((if_neg (round runs)).trans (if_pos rfl))
  · subst bad
    exact actsEnd false ((if_neg (round runs)).trans (if_neg Bool.false_ne_true))

/-! ### Headroom (R195, R440) -/

section
variable {c : Chip} {k lost : Nat}

theorem Chip.headroom_le (skip : Nat) : c.headroom k skip lost ≤ 0xFFFE := by
  rw [Chip.headroom]
  split
  · exact Nat.le_refl _
  · split
    · exact Nat.zero_le _
    · exact Nat.min_le_left _ _

theorem Chip.closeHeadroom_facts : (c.closeHeadroom k lost).get (BE_HR_HEADROOM k) = c.headroom k (c.get (PWR_SKIP .be k)) lost ∧
    (c.closeHeadroom k lost).get (BE_HRMIN_MIN k) = min (c.headroom k (c.get (PWR_SKIP .be k)) lost) (c.get (BE_HRMIN_MIN k)) ∧
    (c.closeHeadroom k lost).get (PWR_SKIP .be k) = c.get (PWR_SKIP .be k) := by
  have small := c.headroom_le (k := k) (lost := lost) (c.get (PWR_SKIP .be k))
  unfold Chip.closeHeadroom
  generalize c.headroom k (c.get (PWR_SKIP .be k)) lost = h at small ⊢
  have shown : (c.set (BE_HR_HEADROOM k) h).get (BE_HR_HEADROOM k) = h := (Chip.get_set_same ..).trans (Nat.mod_eq_of_lt (by omega : h < 2 ^ 16))
  have least : (c.set (BE_HR_HEADROOM k) h).get (BE_HRMIN_MIN k) = c.get (BE_HRMIN_MIN k) := Chip.get_set_ne _ _ _ _ (fld_key_ne (by decide))
  have skip : (c.set (BE_HR_HEADROOM k) h).get (PWR_SKIP .be k) = c.get (PWR_SKIP .be k) := Chip.get_set_ne _ _ _ _ (fld_key_ne (by decide))
  dsimp only
  rw [least]
  split
  · next lower =>
    exact ⟨(Chip.get_set_ne _ _ _ _ (fld_key_ne (by decide))).trans shown,
      ((Chip.get_set_same ..).trans (Nat.mod_eq_of_lt (by omega : h < 2 ^ 16))).trans (Nat.min_eq_left (Nat.le_of_lt lower)).symm,
      (Chip.get_set_ne _ _ _ _ (fld_key_ne (by decide))).trans skip⟩
  · next higher => exact ⟨shown, least.trans (Nat.min_eq_right (Nat.not_lt.1 higher)).symm, skip⟩

/-- Chip c after the window of bar k has been taken for the throttle. -/
def Chip.windowed (c : Chip) (lost : List Nat) (k : Nat) : Chip :=
  (c.closeHeadroom k (lost.getD k 0)).onHealth fun h => { h with window := FMap.put none h.window k (some (c.windowOf k (lost.getD k 0))) }

theorem Chip.onHealth_get (f : Fld) (g : Health → Health) : (c.onHealth g).get f = c.get f := rfl

theorem Chip.windowed_get {losses : List Nat} (f : Fld) : (c.windowed losses k).get f = (c.closeHeadroom k (losses.getD k 0)).get f := Chip.onHealth_get f _

theorem Chip.barWindow_works {losses : List Nat} (on : c.regionOn (k / 4) = true) (idle : c.testing (k / 4) = false) : Chip.barWindow losses c k =
    if (c.windowed losses k).get (PWR_SKIP .be k) ≠ 0 ∧ (c.windowed losses k).get (BE_HR_HEADROOM k) < 50 then
      (c.windowed losses k).set (PWR_SKIP .be k) ((c.windowed losses k).get (PWR_SKIP .be k) - 1)
    else c.windowed losses k :=
  if_neg (by rw [on, idle]; decide)

/-- A window of 100 µs shows the headroom, keeps the least, and takes a skip back that headroom does not allow. -/
theorem Chip.barWindow_facts {losses : List Nat} (on : c.regionOn (k / 4) = true) (idle : c.testing (k / 4) = false) :
    (Chip.barWindow losses c k).get (BE_HR_HEADROOM k) = c.headroom k (c.get (PWR_SKIP .be k)) (losses.getD k 0) ∧
    (Chip.barWindow losses c k).get (BE_HRMIN_MIN k) = min (c.headroom k (c.get (PWR_SKIP .be k)) (losses.getD k 0)) (c.get (BE_HRMIN_MIN k)) ∧
    (Chip.barWindow losses c k).get (PWR_SKIP .be k) =
      if c.get (PWR_SKIP .be k) ≠ 0 ∧ c.headroom k (c.get (PWR_SKIP .be k)) (losses.getD k 0) < 50 then (c.get (PWR_SKIP .be k) - 1) % 64
      else c.get (PWR_SKIP .be k) := by
  obtain ⟨shown, least, skip⟩ := c.closeHeadroom_facts (k := k) (lost := losses.getD k 0)
  rw [Chip.barWindow_works on idle]
  rw [← Chip.windowed_get (losses := losses)] at shown least skip
  generalize c.windowed losses k = d at shown least skip ⊢
  rw [shown, skip]
  split
  · exact ⟨(Chip.get_set_ne _ _ _ _ (fld_key_ne (by decide))).trans shown, (Chip.get_set_ne _ _ _ _ (fld_key_ne (by decide))).trans least,
      Chip.get_set_same ..⟩
  · exact ⟨shown, least, skip⟩

end

theorem headroomWindow_acts (t : Nat) (lost : List Nat) (s : State) :
    Acts (.headroomWindow t lost) t s ((s.at_ t).chip.forAll (List.range 16) (Chip.barWindow lost)) ∧
    (∀ (c : Chip) (k : Fin 16), c.regionOn (k / 4) = true → c.testing (k / 4) = false →
      let d := Chip.barWindow lost c k
      let h := c.headroom k (c.get (PWR_SKIP .be k)) (lost.getD k 0)
      d.get (BE_HR_HEADROOM k) = h ∧ d.get (BE_HRMIN_MIN k) = min h (c.get (BE_HRMIN_MIN k)) ∧
      d.get (PWR_SKIP .be k) = if c.get (PWR_SKIP .be k) ≠ 0 ∧ h < 50 then (c.get (PWR_SKIP .be k) - 1) % 64 else c.get (PWR_SKIP .be k)) := by
  have run : exec (.headroomWindow t lost) s = .next ((s.at_ t).onChip fun c => c.forAll (List.range 16) (Chip.barWindow lost)) := rfl
  exact ⟨acts_onChip _ run rfl, fun _ _ on idle => Chip.barWindow_facts on idle⟩

/-! ### Loop commits (R168 to R170) -/

/-- The bars that have staged trims. -/
def Chip.changedBars (c : Chip) : List Nat := (List.range 16).filter fun k => (c.bar k).changed

theorem Chip.loopCommit_iff {c : Chip} : (!c.runs || !c.is SEQ_PSTAT_OPEN || c.changedBars.isEmpty || !c.loopDue) = true ↔
    ¬ ((c.role = 0 ∨ c.role = 1) ∧ c.get SEQ_PSTAT_OPEN ≠ 0 ∧ c.changedBars ≠ [] ∧ c.loopDue = true) := by
  rw [← Chip.runs_iff, ← Chip.is_iff, Ne, ← List.isEmpty_iff]
  simp only [Bool.or_eq_true, Bool.not_eq_true', Classical.not_and_iff_not_or_not, Bool.not_eq_true, Bool.not_eq_false, or_assoc]

theorem loopCommit_acts (t : Nat) (s : State) :
    let c := (s.at_ t).chip
    let ks := (List.range 16).filter fun k => (c.bar k).changed
    let due : Prop := (c.role = 0 ∨ c.role = 1) ∧ c.get SEQ_PSTAT_OPEN ≠ 0 ∧ ks ≠ [] ∧ c.loopDue = true
    let m := ceilDiv (firstRow c.pitch c.frontHorizon) 64 + c.get CH_COMMIT_CMARGIN
    let d := c.forAll ks (Chip.commitTrims (bandStart c.pitch m) (64 * m))
    (due → Acts (.loopCommit t) t s (({ d with colour := { d.colour with lastBand := some m } } : Chip).count CH_STAT_LCOMMITS).refreshPending) ∧
    (¬ due → Passes (.loopCommit t) t s) := by
  have run : exec (.loopCommit t) s = .next ((s.at_ t).onChip (·.loopCommit)) := rfl
  have acts {d : Chip} := acts_onChip (d := d) _ run
  have passes := passes_onChip _ run
  generalize (s.at_ t).chip = c at acts passes ⊢
  exact ⟨fun due => acts (if_neg (mt Chip.loopCommit_iff.1 (Classical.not_not.2 due))), fun not => passes (if_pos (Chip.loopCommit_iff.2 not))⟩

/-- Settles O46: passes and rendered rows, slice faults and the spare, the headroom window, and loop commits. -/
theorem barEvents : Obligations.BarEvents :=
  ⟨passStart_acts, rowRendered_acts, sliceFault_acts, rotation_acts, headroomWindow_acts, loopCommit_acts⟩

end Sys2Proof.Machine
end

section
/-!
PROOFS. Fault registers and injection (R411, R417), junction temperature (R436 to R438, R444), the throttle (R439 to R442), LSPD (R443),
MIN_CLR (R197) and REFOUT (R464).
-/
namespace Sys2Proof.Machine

/-! ### Writes to fault registers -/

section
variable {c : Chip} {m addr off i : Nat} {b : Blk} {f : Blk → Nat → Chip → Chip}

theorem Chip.windowWrite_nowhere (h : blockAt addr = none) : c.windowWrite m addr off f = c.noticeAccess addr := by rw [Chip.windowWrite, h]

theorem Chip.windowWrite_elsewhere (h : blockAt addr = some (b, i)) (other : b = .tn ∨ offIn b i addr ≠ off) : c.windowWrite m addr off f = c := by
  rw [Chip.windowWrite, h]
  exact if_neg fun here => other.elim here.1 (· here.2)

theorem Chip.windowWrite_here (h : blockAt addr = some (b, i)) (fault : b ≠ .tn) (same : offIn b i addr = off) (may : c.mayWrite m b i off = true)
    (there : c.reachable b i = true) : c.windowWrite m addr off f = f b i c := by
  rw [Chip.windowWrite, h]
  exact (if_pos ⟨fault, same⟩).trans (Chip.ownWrite_granted may there _)

end

section
variable {c : Chip} {b : Blk} {i v : Nat}

/-- Chip c after the CANCEL bit of a FINJ write. -/
def Chip.finjCancelled (c : Chip) (b : Blk) (i v : Nat) : Chip := if bit v 30 then c.set (FINJ_ARM b i) 0 else c

/-- Chip c after a FINJ write has stored SRC and CELL. -/
def Chip.finjStored (c : Chip) (b : Blk) (i v : Nat) : Chip := (c.set (FINJ_SRC b i) (bits v 0 5)).set (FINJ_CELL b i) (bits v 8 16)

/-- An injection may be armed. -/
def Chip.mayArm (c : Chip) (b : Blk) (s cell : Nat) : Prop :=
  (c.get SYS_STRAP_ROPED_EN ≠ 0 ∨ c.get SYS_STRAP_FTM ≠ 0) ∧ hasChecker b s = true ∧ (cell = 0xFFFF ∨ cell < b.cells)

theorem Chip.armRefused_iff {s cell : Nat} : c.armRefused b s cell = true ↔ ¬ c.mayArm b s cell := by
  simp only [Chip.armRefused, Chip.roped, Chip.mayArm, ← Chip.is_iff, Bool.or_eq_true, Bool.and_eq_true, Bool.not_eq_true', Bool.or_eq_false_iff,
    decide_eq_false_iff_not, Classical.not_and_iff_not_or_not, not_or, Bool.not_eq_true, or_assoc]

variable (arms : bit v 31 = true)
include arms

theorem Chip.writeFinj_armed (h : (c.finjCancelled b i v).get (FINJ_ARM b i) ≠ 0) : c.writeFinj b i v = c.finjCancelled b i v :=
  if_pos (by rw [arms, Bool.and_true]; exact Chip.is_iff.2 h)

theorem Chip.writeFinj_free (h : (c.finjCancelled b i v).get (FINJ_ARM b i) = 0) : c.writeFinj b i v =
    if ((c.finjCancelled b i v).finjStored b i v).armRefused b (bits v 0 5) (bits v 8 16) then
      ((c.finjCancelled b i v).finjStored b i v).raise .hl 0 { src := 23 }
    else if b = .sys then (((c.finjCancelled b i v).finjStored b i v).armInj b i (bits v 0 5) (bits v 8 16)).inject b i [1]
    else ((c.finjCancelled b i v).finjStored b i v).armInj b i (bits v 0 5) (bits v 8 16) := by
  refine (if_neg ?_).trans (if_neg (by rw [arms]; decide))
  rw [Bool.and_eq_true]
  exact fun armed => Chip.is_iff.1 armed.1 h

end

theorem bit_31_or (v : Nat) : bit (v ||| 2 ^ 31) 31 = true := by
  rw [bit, ← Nat.testBit_eq_decide_div_mod_eq, Nat.testBit_or, Nat.testBit_two_pow_self, Bool.or_true]

theorem faultWrite_acts (t : Nat) (m : Fin 8) (addr v : BitVec 32) (b : Blk) (i : Nat) (s : State) :
    let c := (s.at_ t).chip
    let xs := (setBits 32 (c.get (FSTAT_STICKY b i))).filter fun n => bit v.toNat n && FMap.get 0 c.faults.last (b.window i * 32 + n) ≠ c.clock
    let ack := (c.forAll xs fun c n => ((c.setBit (FSTAT_STICKY b i) n false).setBit (FINJST_INJONLY b i) n false).setBit (FESC_ESC b i) n false).refreshSum b i
    let held (off : Nat) : Prop := c.mayWrite m b i off = true ∧ c.reachable b i = true
    let w := v.toNat ||| 2 ^ 31
    let d := if bit w 30 = true then c.set (FINJ_ARM b i) 0 else c
    let f := (d.set (FINJ_SRC b i) (bits w 0 5)).set (FINJ_CELL b i) (bits w 8 16)
    let cell := bits w 8 16
    let good : Prop := (f.get SYS_STRAP_ROPED_EN ≠ 0 ∨ f.get SYS_STRAP_FTM ≠ 0) ∧ hasChecker b (bits w 0 5) = true ∧ (cell = 0xFFFF ∨ cell < b.cells)
    let on := f.armInj b i (bits w 0 5) cell
    (blockAt addr.toNat = none → Acts (.faultAck t m addr v) t s (c.noticeAccess addr.toNat) ∧ Acts (.faultInjectArm t m addr v) t s (c.noticeAccess addr.toNat) ∧
      Acts (.faultInjectCancel t m addr) t s (c.noticeAccess addr.toNat)) ∧
    (blockAt addr.toNat = some (.tn, i) → Passes (.faultAck t m addr v) t s ∧ Passes (.faultInjectArm t m addr v) t s ∧ Passes (.faultInjectCancel t m addr) t s) ∧
    (blockAt addr.toNat = some (b, i) → b ≠ .tn →
      (offIn b i addr.toNat = 0x10 → held 0x10 → Acts (.faultAck t m addr v) t s ack) ∧
      (offIn b i addr.toNat ≠ 0x10 → Passes (.faultAck t m addr v) t s) ∧
      (offIn b i addr.toNat = 0x38 → held 0x38 →
        (d.get (FINJ_ARM b i) ≠ 0 → Acts (.faultInjectArm t m addr v) t s d) ∧
        (d.get (FINJ_ARM b i) = 0 → ¬ good → Acts (.faultInjectArm t m addr v) t s (f.raise .hl 0 { src := 23 })) ∧
        (d.get (FINJ_ARM b i) = 0 → good → Acts (.faultInjectArm t m addr v) t s (if b = .sys then on.inject b i [1] else on)) ∧
        Acts (.faultInjectCancel t m addr) t s (c.set (FINJ_ARM b i) 0)) ∧
      (offIn b i addr.toNat ≠ 0x38 → Passes (.faultInjectArm t m addr v) t s ∧ Passes (.faultInjectCancel t m addr) t s)) := by
  have ack : exec (.faultAck t m addr v) s = .next ((s.at_ t).onChip fun c => c.windowWrite m addr.toNat 0x10 fun b i c => c.ackFaults b i v.toNat) := rfl
  have arm : exec (.faultInjectArm t m addr v) s = .next ((s.at_ t).onChip fun c => c.windowWrite m addr.toNat 0x38 fun b i c => c.writeFinj b i (v.toNat ||| 2 ^ 31)) := rfl
  have cancel : exec (.faultInjectCancel t m addr) s = .next ((s.at_ t).onChip fun c => c.windowWrite m addr.toNat 0x38 fun b i c => c.set (FINJ_ARM b i) 0) := rfl
  have acks {d : Chip} := acts_onChip (d := d) _ ack
  have arms {d : Chip} := acts_onChip (d := d) _ arm
  have cancels {d : Chip} := acts_onChip (d := d) _ cancel
  have noAck := passes_onChip _ ack
  have noArm := passes_onChip _ arm
  have noCancel := passes_onChip _ cancel
  generalize (s.at_ t).chip = c at acks arms cancels noAck noArm noCancel ⊢
  have high := bit_31_or v.toNat
  generalize v.toNat ||| 2 ^ 31 = w at high arm arms noArm ⊢
  exact ⟨fun none => ⟨acks (Chip.windowWrite_nowhere none), arms (Chip.windowWrite_nowhere none), cancels (Chip.windowWrite_nowhere none)⟩,
    fun tn => ⟨noAck (Chip.windowWrite_elsewhere tn (.inl rfl)), noArm (Chip.windowWrite_elsewhere tn (.inl rfl)), noCancel (Chip.windowWrite_elsewhere tn (.inl rfl))⟩,
    fun found fault => ⟨fun here held => acks (Chip.windowWrite_here found fault here held.1 held.2),
      fun other => noAck (Chip.windowWrite_elsewhere found (.inr other)),
      fun here held => ⟨fun armed => arms ((Chip.windowWrite_here found fault here held.1 held.2).trans (Chip.writeFinj_armed high armed)),
        fun free bad => arms ((Chip.windowWrite_here found fault here held.1 held.2).trans ((Chip.writeFinj_free high free).trans
          (if_pos (Chip.armRefused_iff.2 bad)))),
        fun free good => arms ((Chip.windowWrite_here found fault here held.1 held.2).trans ((Chip.writeFinj_free high free).trans
          (if_neg (mt Chip.armRefused_iff.1 (Classical.not_not.2 good))))),
        cancels (Chip.windowWrite_here found fault here held.1 held.2)⟩,
      fun other => ⟨noArm (Chip.windowWrite_elsewhere found (.inr other)), noCancel (Chip.windowWrite_elsewhere found (.inr other))⟩⟩⟩

/-! ### Junction temperature -/

theorem Chip.shutClears_iff {c : Chip} : c.shutClears = true ↔ c.health.shutAt ≠ none ∧ 200000 ≤ FMap.get 0 c.health.runClr 2 := by
  rw [Chip.shutClears, Bool.and_eq_true, decide_eq_true_iff, Option.isSome_iff_ne_none]

/-- What follows a sample: the restart or the end of a hardware shutdown that it clears. -/
def State.sampleEnds (v : State) : State :=
  if v.chip.shutClears && v.chip.health.silent then shutOverRestart v
  else if v.chip.shutClears then v.onChip fun c => c.onHealth fun h => { h with shutAt := none }
  else v

section
variable {v : State}

theorem State.sampleEnds_kept (h : ¬ v.chip.shutClears = true) : v.sampleEnds = v :=
  (if_neg (by rw [Bool.and_eq_true]; exact fun both => h both.1)).trans (if_neg h)

variable (cleared : v.chip.shutClears = true)
include cleared

theorem State.sampleEnds_live (live : v.chip.health.silent = false) : v.sampleEnds = v.onChip fun c => c.onHealth fun h => { h with shutAt := none } :=
  (if_neg (by rw [live, Bool.and_false]; decide)).trans (if_pos cleared)

theorem State.sampleEnds_silent (silent : v.chip.health.silent = true) : v.sampleEnds = shutOverRestart v := if_pos (by rw [cleared, silent]; rfl)

end

theorem thermalSample_acts (t : Nat) (temps : List (Option Int)) (vcore : Nat) (out : Bool) (s : State) :
    let e := Instr.thermalSample t temps vcore out
    let a := s.at_ t
    let d := a.chip.thermalSample temps vcore out
    let cleared : Prop := d.health.shutAt ≠ none ∧ 200000 ≤ FMap.get 0 d.health.runClr 2
    (a.chip.health.powerGood = false → Passes e t s) ∧ (a.chip.health.powerGood = true → ¬ cleared → Acts e t s d) ∧
    (a.chip.health.powerGood = true → cleared → d.health.silent = false → Acts e t s (d.onHealth fun h => { h with shutAt := none })) ∧
    (a.chip.health.powerGood = true → cleared → d.health.silent = true → exec e s = .next (shutOverRestart { a with chip := d })) := by
  have run : exec (.thermalSample t temps vcore out) s =
    .next (if !(s.at_ t).chip.health.powerGood then s.at_ t else ((s.at_ t).onChip fun c => c.thermalSample temps vcore out).sampleEnds) := rfl
  unfold Acts Passes
  generalize s.at_ t = a at run ⊢
  have good (on : a.chip.health.powerGood = true) : exec (.thermalSample t temps vcore out) s = .next (a.onChip fun c => c.thermalSample temps vcore out).sampleEnds :=
    run.trans (congrArg _ (if_neg (by rw [on]; decide)))
  exact ⟨fun off => run.trans (congrArg _ (if_pos (by rw [off]; rfl))),
    fun on kept => (good on).trans (congrArg _ (State.sampleEnds_kept (mt Chip.shutClears_iff.1 kept))),
    fun on cleared live => (good on).trans (congrArg _ (State.sampleEnds_live (Chip.shutClears_iff.2 cleared) live)),
    fun on cleared silent => (good on).trans (congrArg _ (State.sampleEnds_silent (Chip.shutClears_iff.2 cleared) silent))⟩

theorem judged_facts (temps : List (Option Int)) : (judged temps).length = 24 ∧
    ∀ i < 24, (judged temps)[i]? = some (match temps.getD i none with | some v => if -880 ≤ v ∧ v ≤ 2400 then (v, false) else (2400, true) | none => (2400, true)) := by
  refine ⟨by rw [judged, List.length_map, List.length_range], fun i hi => ?_⟩
  rw [judged, List.getElem?_map, List.getElem?_range hi]
  rfl

/-- One reading of the search for the hottest sensor: the greatest so far with its sensor, and how many readings there were. -/
def hotter (a : (Int × Nat) × Nat) (x : Int × Bool) : (Int × Nat) × Nat := (if a.2 = 0 ∨ a.1.1 < x.1 then (x.1, a.2) else a.1, a.2 + 1)

/-- The greatest of the readings is r.1, and r.2 is the lowest sensor that reads it. -/
def IsHottest (xs : List (Int × Bool)) (r : Int × Nat) : Prop :=
  (∃ x, xs[r.2]? = some x ∧ x.1 = r.1) ∧ (∀ x ∈ xs, x.1 ≤ r.1) ∧ ∀ j x, xs[j]? = some x → x.1 = r.1 → r.2 ≤ j

theorem isHottest_hotter {xs : List (Int × Bool)} {a : (Int × Nat) × Nat} {x : Int × Bool} (count : a.2 = xs.length) (best : xs ≠ [] → IsHottest xs a.1) :
    IsHottest (xs ++ [x]) (hotter a x).1 := by
  have members {j : Nat} {y : Int × Bool} (h : (xs ++ [x])[j]? = some y) : y ∈ xs ∧ xs[j]? = some y ∨ j = xs.length ∧ y = x := by
    rcases List.getElem?_append .. ▸ h with h
    split at h
    · exact .inl ⟨List.mem_of_getElem? h, h⟩
    · next high =>
      obtain ⟨last, rfl⟩ := List.getElem?_eq_some_iff.1 h
      rw [List.length_singleton] at last
      exact .inr ⟨by omega, by simp⟩
  rw [hotter]
  split
  · next new =>
    have below (y) (hy : y ∈ xs) : y.1 ≤ a.1.1 ∧ a.1.1 < x.1 := by
      have some := List.ne_nil_of_mem hy
      obtain ⟨-, least, -⟩ := best some
      exact ⟨least y hy, new.resolve_left fun none => some (List.length_eq_zero_iff.1 (count.symm.trans none))⟩
    refine ⟨⟨x, by rw [count]; exact List.getElem?_concat_length, rfl⟩, fun y hy => ?_, fun j y hj same => ?_⟩
    · rcases List.mem_append.1 hy with old | last
      · exact Int.le_trans (below y old).1 (Int.le_of_lt (below y old).2)
      · exact Int.le_of_eq (congrArg _ (List.mem_singleton.1 last))
    · rcases members hj with ⟨old, -⟩ | ⟨rfl, -⟩
      · exact absurd same (Int.ne_of_lt (Int.lt_of_le_of_lt (below y old).1 (below y old).2))
      · exact Nat.le_of_eq count
  · next old =>
    obtain ⟨some, lower⟩ := not_or.1 old
    obtain ⟨⟨y, at', value⟩, greatest, lowest⟩ := best fun none => some (by rw [count, none]; rfl)
    refine ⟨⟨y, (List.getElem?_append_left (List.getElem?_eq_some_iff.1 at').1).trans at', value⟩, fun z hz => ?_, fun j z hj same => ?_⟩
    · rcases List.mem_append.1 hz with old | last
      · exact greatest z old
      · exact Int.le_trans (Int.le_of_eq (congrArg _ (List.mem_singleton.1 last))) (Int.not_lt.1 lower)
    · rcases members hj with ⟨-, old⟩ | ⟨rfl, -⟩
      · exact lowest j z old same
      · exact Nat.le_of_lt (List.getElem?_eq_some_iff.1 at').1

/-- Induction on a list from its end. -/
theorem snoc_induction {α : Type} {P : List α → Prop} (nil : P []) (append_singleton : ∀ xs x, P xs → P (xs ++ [x])) (xs : List α) : P xs := by
  rw [← List.reverse_reverse xs]
  induction xs.reverse with
  | nil => exact nil
  | cons y ys ih =>
    rw [List.reverse_cons]
    exact append_singleton _ y ih

theorem foldl_hotter (xs : List (Int × Bool)) : (xs.foldl hotter ((0, 0), 0)).2 = xs.length ∧ (xs ≠ [] → IsHottest xs (xs.foldl hotter ((0, 0), 0)).1) := by
  induction xs using snoc_induction with
  | nil => exact ⟨rfl, fun h => absurd rfl h⟩
  | append_singleton xs x ih =>
    rw [List.foldl_append, List.foldl_cons, List.foldl_nil]
    generalize xs.foldl hotter ((0, 0), 0) = a at ih ⊢
    exact ⟨by rw [hotter, ih.1, List.length_append]; rfl, fun _ => isHottest_hotter ih.1 ih.2⟩

theorem hottest_isHottest {xs : List (Int × Bool)} (h : xs ≠ []) : IsHottest xs (hottest xs) := (foldl_hotter xs).2 h

theorem levelSample_facts (c : Chip) (th : Int) (i : Nat) :
    let r := c.levelSample i th
    let up := if levelSet i ≤ th then FMap.get 0 c.health.runSet i + 1 else 0
    let dn := if th < levelClear i then FMap.get 0 c.health.runClr i + 1 else 0
    (r.1 = true ↔ 256 ≤ up) ∧ (r.2.1 = true ↔ levelRun i ≤ dn) ∧ FMap.get 0 r.2.2.health.runSet i = min up 256 ∧ FMap.get 0 r.2.2.health.runClr i = min dn 200000 ∧
    r.2.2.get HL_THSTAT_WARN = c.get HL_THSTAT_WARN :=
  ⟨decide_eq_true_iff, decide_eq_true_iff, FMap.get_put_same .., FMap.get_put_same .., rfl⟩

/-! ### The throttle -/

/-- Step n of 1 to 4 has been taken. -/
def Chip.took (d : Chip) (n : Nat) : Bool := bit d.health.steps (n - 1)

/-- The first step that is allowed and not yet taken. -/
def Chip.nextStep (d : Chip) : Chip :=
  if !d.took 1 then d.divide 1 HL_THR_DIV_CR 1
  else if !d.took 2 && d.demandAllows 2 then d.divide 2 HL_THR_DIV_MR 1
  else if !d.took 3 then d.divide 3 HL_THR_DIV_CR 2
  else if d.took 2 && !d.took 4 && d.demandAllows 4 then d.divide 4 HL_THR_DIV_MR 2
  else if !(d.enabledBars.filter d.skipAllowed).isEmpty then
    d.forAll (d.enabledBars.filter d.skipAllowed) fun c k => c.set (PWR_SKIP .be k) (c.get (PWR_SKIP .be k) + 1)
  else if d.step6Due then d.lowerVth else d

section
variable {d : Chip}

theorem Chip.throttleStep_eq (c : Chip) : c.throttleStep = ((c.onHealth fun h => { h with stepAt := c.ns }).sampleDemand).nextStep := rfl

theorem Chip.nextStep_1 (h : ¬ d.took 1 = true) : d.nextStep = d.divide 1 HL_THR_DIV_CR 1 := if_pos (by rw [Bool.eq_false_iff.2 h]; rfl)

variable (h1 : d.took 1 = true)
include h1

theorem Chip.nextStep_2 (h2 : ¬ d.took 2 = true) (allows : d.demandAllows 2 = true) : d.nextStep = d.divide 2 HL_THR_DIV_MR 1 :=
  (if_neg (by rw [h1]; decide)).trans (if_pos (by rw [Bool.eq_false_iff.2 h2, allows]; rfl))

/-- Step 2 has been taken, or the fetch load does not allow it. -/
def Chip.past2 (d : Chip) : Prop := d.took 2 = true ∨ d.demandAllows 2 = false

variable (h2 : d.past2)
include h2

theorem Chip.nextStep_past2 : d.nextStep = if !d.took 3 then d.divide 3 HL_THR_DIV_CR 2
    else if d.took 2 && !d.took 4 && d.demandAllows 4 then d.divide 4 HL_THR_DIV_MR 2
    else if !(d.enabledBars.filter d.skipAllowed).isEmpty then
      d.forAll (d.enabledBars.filter d.skipAllowed) fun c k => c.set (PWR_SKIP .be k) (c.get (PWR_SKIP .be k) + 1)
    else if d.step6Due then d.lowerVth else d := by
  refine (if_neg (by rw [h1]; decide)).trans (if_neg ?_)
  rw [Bool.and_eq_true, Bool.not_eq_true']
  exact fun both => h2.elim (fun took => Bool.false_ne_true (both.1.symm.trans took)) fun no => Bool.false_ne_true (no.symm.trans both.2)

theorem Chip.nextStep_3 (h3 : ¬ d.took 3 = true) : d.nextStep = d.divide 3 HL_THR_DIV_CR 2 :=
  (Chip.nextStep_past2 h1 h2).trans (if_pos (by rw [Bool.eq_false_iff.2 h3]; rfl))

variable (h3 : d.took 3 = true)
include h3

theorem Chip.nextStep_4 (took : d.took 2 = true) (h4 : ¬ d.took 4 = true) (allows : d.demandAllows 4 = true) : d.nextStep = d.divide 4 HL_THR_DIV_MR 2 :=
  (Chip.nextStep_past2 h1 h2).trans ((if_neg (by rw [h3]; decide)).trans (if_pos (by rw [took, Bool.eq_false_iff.2 h4, allows]; rfl)))

variable (h4 : ¬ d.took 2 = true ∨ d.took 4 = true ∨ d.demandAllows 4 = false)
include h4

theorem Chip.nextStep_late : d.nextStep = if !(d.enabledBars.filter d.skipAllowed).isEmpty then
      d.forAll (d.enabledBars.filter d.skipAllowed) fun c k => c.set (PWR_SKIP .be k) (c.get (PWR_SKIP .be k) + 1)
    else if d.step6Due then d.lowerVth else d := by
  refine (Chip.nextStep_past2 h1 h2).trans ((if_neg (by rw [h3]; decide)).trans (if_neg ?_))
  rw [Bool.and_eq_true, Bool.and_eq_true, Bool.not_eq_true', and_assoc]
  rintro ⟨took2, free4, allows⟩
  rcases h4 with no | took4 | never
  · exact no took2
  · exact Bool.false_ne_true (free4.symm.trans took4)
  · exact Bool.false_ne_true (never.symm.trans allows)

theorem Chip.nextStep_5 (bars : d.enabledBars.filter d.skipAllowed ≠ []) : d.nextStep =
    d.forAll (d.enabledBars.filter d.skipAllowed) fun c k => c.set (PWR_SKIP .be k) (c.get (PWR_SKIP .be k) + 1) :=
  (Chip.nextStep_late h1 h2 h3 h4).trans (if_pos (by rw [Bool.not_eq_true', List.isEmpty_eq_false_iff]; exact bars))

theorem Chip.nextStep_6 (bars : d.enabledBars.filter d.skipAllowed = []) : d.nextStep = if d.step6Due = true then d.lowerVth else d :=
  (Chip.nextStep_late h1 h2 h3 h4).trans (if_neg (by rw [bars]; decide))

end

theorem throttle_acts (t : Nat) (s : State) :
    let c := (s.at_ t).chip
    let due (f : Fld) : Prop := c.health.stepAt + 1000000 * c.get f ≤ c.ns
    let throttles : Prop := c.get HL_THSTAT_THROT ≠ 0 ∧ due HL_THCFG_THR_PER
    let releases : Prop := c.get HL_THR_RELEASING ≠ 0 ∧ c.get HL_THSTAT_THROT = 0 ∧ due HL_THCFG_THR_RPER
    let d := (c.onHealth fun h => { h with stepAt := c.ns }).sampleDemand
    let took (n : Nat) : Prop := bit d.health.steps (n - 1) = true
    let ks := d.enabledBars.filter d.skipAllowed
    let hot (f : Chip) : Prop := Acts (.throttleStep t) t s f.refreshSlow
    let late : Prop := took 1 ∧ (took 2 ∨ d.demandAllows 2 = false) ∧ took 3 ∧ (¬ took 2 ∨ took 4 ∨ d.demandAllows 4 = false)
    (¬ throttles → Passes (.throttleStep t) t s) ∧ (throttles → ¬ took 1 → hot (d.divide 1 HL_THR_DIV_CR 1)) ∧
    (throttles → took 1 → ¬ took 2 → d.demandAllows 2 = true → hot (d.divide 2 HL_THR_DIV_MR 1)) ∧
    (throttles → took 1 → took 2 ∨ d.demandAllows 2 = false → ¬ took 3 → hot (d.divide 3 HL_THR_DIV_CR 2)) ∧
    (throttles → took 1 → took 2 → took 3 → ¬ took 4 → d.demandAllows 4 = true → hot (d.divide 4 HL_THR_DIV_MR 2)) ∧
    (throttles → late → ks ≠ [] → hot (d.forAll ks fun c k => c.set (PWR_SKIP .be k) (c.get (PWR_SKIP .be k) + 1))) ∧
    (throttles → late → ks = [] → hot (if d.step6Due = true then d.lowerVth else d)) ∧
    (releases → Acts (.throttleReleaseStep t) t s c.releaseStep.refreshSlow) ∧ (¬ releases → Passes (.throttleReleaseStep t) t s) := by
  have run : exec (.throttleStep t) s = execThrottleStep t s := rfl
  unfold execThrottleStep at run
  have back : exec (.throttleReleaseStep t) s = execThrottleReleaseStep t s := rfl
  unfold execThrottleReleaseStep at back
  have acts {d : Chip} := acts_onChip (d := d) _ run
  have passes := passes_onChip _ run
  have undoes {d : Chip} := acts_onChip (d := d) _ back
  have rests := passes_onChip _ back
  generalize (s.at_ t).chip = c at acts passes undoes rests ⊢
  have throttles_iff : (c.is HL_THSTAT_THROT && c.stepDue (c.get HL_THCFG_THR_PER)) = true ↔
      c.get HL_THSTAT_THROT ≠ 0 ∧ c.health.stepAt + 1000000 * c.get HL_THCFG_THR_PER ≤ c.ns := by
    rw [Bool.and_eq_true, Chip.is_iff, Chip.stepDue, decide_eq_true_iff]
  have releases_iff : (c.is HL_THR_RELEASING && !c.is HL_THSTAT_THROT && c.stepDue (c.get HL_THCFG_THR_RPER)) = true ↔
      c.get HL_THR_RELEASING ≠ 0 ∧ c.get HL_THSTAT_THROT = 0 ∧ c.health.stepAt + 1000000 * c.get HL_THCFG_THR_RPER ≤ c.ns := by
    rw [Bool.and_eq_true, Bool.and_eq_true, Chip.is_iff, Bool.not_eq_true', Chip.is_eq_false_iff, Chip.stepDue, decide_eq_true_iff, and_assoc]
  have step {f : Chip} (h : c.get HL_THSTAT_THROT ≠ 0 ∧ c.health.stepAt + 1000000 * c.get HL_THCFG_THR_PER ≤ c.ns)
      (is : ((c.onHealth fun h => { h with stepAt := c.ns }).sampleDemand).nextStep = f) : Acts (.throttleStep t) t s f.refreshSlow :=
    acts ((if_pos (throttles_iff.2 h)).trans (congrArg Chip.refreshSlow (c.throttleStep_eq.trans is)))
  exact ⟨fun not => passes (if_neg (mt throttles_iff.1 not)), fun h no1 => step h (Chip.nextStep_1 no1), fun h h1 no2 allows => step h (Chip.nextStep_2 h1 no2 allows),
    fun h h1 h2 no3 => step h (Chip.nextStep_3 h1 h2 no3), fun h h1 h2 h3 no4 allows => step h (Chip.nextStep_4 h1 (.inl h2) h3 h2 no4 allows),
    fun h late bars => step h (Chip.nextStep_5 late.1 late.2.1 late.2.2.1 late.2.2.2 bars),
    fun h late bars => step h (Chip.nextStep_6 late.1 late.2.1 late.2.2.1 late.2.2.2 bars),
    fun h => undoes (if_pos (releases_iff.2 h)), fun not => rests (if_neg (mt releases_iff.1 not))⟩

/-- Step n is undone: the field of its division takes v. -/
def Chip.undone (d : Chip) (n : Nat) (f : Fld) (v : Nat) : Chip := (d.onHealth fun h => { h with steps := h.steps &&& (15 - 2 ^ (n - 1)) }).set f v

/-- The bars that skip cycles. -/
def Chip.skippers (d : Chip) : List Nat := (List.range 16).filter fun k => d.is (PWR_SKIP .be k)

/-- The speed that a release step allows. -/
def Chip.raisedVth (d : Chip) : Nat := max (d.get HL_THR_VTH + 1) (d.get HL_THR_VTH * (100 + d.get HL_THCFG_VSTEP) / 100)

/-- What a release step takes back. -/
def Chip.releaseOnce (d : Chip) : Chip :=
  if d.get HL_THR_VTH ≠ 0xFFFFFF then d.set HL_THR_VTH (if d.speedLimit ≤ d.raisedVth then 0xFFFFFF else d.raisedVth)
  else if !d.skippers.isEmpty then d.forAll d.skippers fun c k => c.set (PWR_SKIP .be k) (c.get (PWR_SKIP .be k) - 1)
  else if d.took 4 then d.undone 4 HL_THR_DIV_MR 1
  else if d.took 3 then d.undone 3 HL_THR_DIV_CR 1
  else if d.took 2 then d.undone 2 HL_THR_DIV_MR 0
  else if d.took 1 then d.undone 1 HL_THR_DIV_CR 0 else d

section
variable {d : Chip}

theorem Chip.releaseOnce_speed (h : d.get HL_THR_VTH ≠ 0xFFFFFF) : d.releaseOnce = d.set HL_THR_VTH (if d.speedLimit ≤ d.raisedVth then 0xFFFFFF else d.raisedVth) :=
  if_pos h

variable (full : d.get HL_THR_VTH = 0xFFFFFF)
include full

theorem Chip.releaseOnce_skips (bars : d.skippers ≠ []) : d.releaseOnce = d.forAll d.skippers fun c k => c.set (PWR_SKIP .be k) (c.get (PWR_SKIP .be k) - 1) :=
  (if_neg (Classical.not_not.2 full)).trans (if_pos (by rw [Bool.not_eq_true', List.isEmpty_eq_false_iff]; exact bars))

theorem Chip.releaseOnce_division (bars : d.skippers = []) : d.releaseOnce =
    if d.took 4 then d.undone 4 HL_THR_DIV_MR 1 else if d.took 3 then d.undone 3 HL_THR_DIV_CR 1
    else if d.took 2 then d.undone 2 HL_THR_DIV_MR 0 else if d.took 1 then d.undone 1 HL_THR_DIV_CR 0 else d :=
  (if_neg (Classical.not_not.2 full)).trans (if_neg (by rw [bars]; decide))

end

theorem release_shows (c : Chip) :
    let d := c.onHealth fun h => { h with stepAt := c.ns }
    let v := d.get HL_THR_VTH
    let ks := (List.range 16).filter fun k => d.is (PWR_SKIP .be k)
    let step (n : Nat) : Prop := bit d.health.steps (n - 1) = true
    let undo (n : Nat) (f : Fld) (w : Nat) : Chip := (d.onHealth fun h => { h with steps := h.steps &&& (15 - 2 ^ (n - 1)) }).set f w
    let shown (f : Chip) : Prop := c.releaseStep = f.set HL_THR_RELEASING (b2n f.throttled)
    let up := max (v + 1) (v * (100 + d.get HL_THCFG_VSTEP) / 100)
    (v ≠ 0xFFFFFF → shown (d.set HL_THR_VTH (if d.speedLimit ≤ up then 0xFFFFFF else up))) ∧
    (v = 0xFFFFFF → ks ≠ [] → shown (d.forAll ks fun c k => c.set (PWR_SKIP .be k) (c.get (PWR_SKIP .be k) - 1))) ∧
    (v = 0xFFFFFF → ks = [] → step 4 → shown (undo 4 HL_THR_DIV_MR 1)) ∧ (v = 0xFFFFFF → ks = [] → ¬ step 4 → step 3 → shown (undo 3 HL_THR_DIV_CR 1)) ∧
    (v = 0xFFFFFF → ks = [] → ¬ step 4 → ¬ step 3 → step 2 → shown (undo 2 HL_THR_DIV_MR 0)) ∧
    (v = 0xFFFFFF → ks = [] → ¬ step 4 → ¬ step 3 → ¬ step 2 → step 1 → shown (undo 1 HL_THR_DIV_CR 0)) ∧
    (v = 0xFFFFFF → ks = [] → ¬ step 4 → ¬ step 3 → ¬ step 2 → ¬ step 1 → shown d) := by
  have run : c.releaseStep = (c.onHealth fun h => { h with stepAt := c.ns }).releaseOnce.set HL_THR_RELEASING
    (b2n (c.onHealth fun h => { h with stepAt := c.ns }).releaseOnce.throttled) := rfl
  generalize (c.onHealth fun h => { h with stepAt := c.ns }) = d at run ⊢
  have shown {f : Chip} (h : d.releaseOnce = f) : c.releaseStep = f.set HL_THR_RELEASING (b2n f.throttled) := h ▸ run
  exact ⟨fun limits => shown (Chip.releaseOnce_speed limits), fun full bars => shown (Chip.releaseOnce_skips full bars),
    fun full bars h4 => shown ((Chip.releaseOnce_division full bars).trans (if_pos h4)),
    fun full bars h4 h3 => shown ((Chip.releaseOnce_division full bars).trans ((if_neg h4).trans (if_pos h3))),
    fun full bars h4 h3 h2 => shown ((Chip.releaseOnce_division full bars).trans ((if_neg h4).trans ((if_neg h3).trans (if_pos h2)))),
    fun full bars h4 h3 h2 h1 => shown ((Chip.releaseOnce_division full bars).trans ((if_neg h4).trans ((if_neg h3).trans ((if_neg h2).trans (if_pos h1))))),
    fun full bars h4 h3 h2 h1 => shown ((Chip.releaseOnce_division full bars).trans ((if_neg h4).trans ((if_neg h3).trans ((if_neg h2).trans (if_neg h1)))))⟩

/-! ### LSPD, MIN_CLR and REFOUT -/

section
variable {c : Chip}

theorem Chip.lspdWord_eq : c.lspdWord = (if c.health.slow = true then 1 else 0) * 2 ^ 31 +
    (if c.thermBinds = true ∧ c.enabledBars ≠ [] then 1 else 0) * 2 ^ 28 + c.health.lspdSeq % 16 * 2 ^ 24 +
    if c.enabledBars = [] then 0 else min 0xFFFFFF (if c.thermBinds = true ∧ c.enabledBars ≠ [] then c.get HL_THR_VTH else c.speedLimit) := by
  have binds : (c.thermBinds && !c.enabledBars.isEmpty) = true ↔ c.thermBinds = true ∧ c.enabledBars ≠ [] := by
    rw [Bool.and_eq_true, Bool.not_eq_true', List.isEmpty_eq_false_iff]
  simp only [Chip.lspdWord, b2n, binds, List.isEmpty_iff]

/-- An LSPD frame of word w leaves and shows in the registers. -/
def Chip.lspdSent (c : Chip) (w : Nat) : Chip :=
  (((((c.emit .lspd 0 [w, popCount 32 w % 2]).onHealth fun h => { h with lspdSeq := (h.lspdSeq + 1) % 16 }).set LS_LSPD_SLOW (bits w 31 1)).set
    LS_LSPD_CAUSE (bits w 28 3)).set LS_LSPD_SEQ (bits w 24 4)).set LS_LSPD_LIMIT (bits w 0 24)

theorem Chip.lspdFrame_eq : c.lspdFrame = if !c.refreshSlow.runs || !c.refreshSlow.regionOn 5 then c.refreshSlow else c.refreshSlow.lspdSent c.refreshSlow.lspdWord := rfl

theorem Chip.drives_iff : (!c.runs || !c.regionOn 5) = true ↔ ¬ ((c.role = 0 ∨ c.role = 1) ∧ c.regionOn 5 = true) := by
  rw [Bool.or_eq_true, Bool.not_eq_true', Bool.not_eq_true', Classical.not_and_iff_not_or_not, ← Chip.runs_iff, Bool.not_eq_true, Bool.not_eq_true]

end

theorem lspd_acts (t : Nat) (s : State) :
    let c := (s.at_ t).chip.refreshSlow
    let drives : Prop := (c.role = 0 ∨ c.role = 1) ∧ c.regionOn 5 = true
    let bars := c.enabledBars
    let binds : Prop := c.thermBinds = true ∧ bars ≠ []
    let limit := if bars = [] then 0 else min 0xFFFFFF (if binds then c.get HL_THR_VTH else c.speedLimit)
    let w := (if c.health.slow = true then 1 else 0) * 2 ^ 31 + (if binds then 1 else 0) * 2 ^ 28 + c.health.lspdSeq % 16 * 2 ^ 24 + limit
    let d := (c.emit .lspd 0 [w, popCount 32 w % 2]).onHealth fun h => { h with lspdSeq := (h.lspdSeq + 1) % 16 }
    (¬ drives → Acts (.lspdFrame t) t s c) ∧
    (drives → Acts (.lspdFrame t) t s ((((d.set LS_LSPD_SLOW (bits w 31 1)).set LS_LSPD_CAUSE (bits w 28 3)).set LS_LSPD_SEQ (bits w 24 4)).set LS_LSPD_LIMIT (bits w 0 24))) := by
  have run : exec (.lspdFrame t) s = .next ((s.at_ t).onChip (·.lspdFrame)) := rfl
  have acts {d : Chip} := acts_onChip (d := d) _ run
  rw [Chip.lspdFrame_eq] at acts
  generalize (s.at_ t).chip.refreshSlow = c at acts ⊢
  refine ⟨fun not => acts (if_pos (Chip.drives_iff.2 not)), fun drives => acts ((if_neg (mt Chip.drives_iff.1 (Classical.not_not.2 drives))).trans ?_)⟩
  exact congrArg c.lspdSent Chip.lspdWord_eq

theorem clears_acts (t : Nat) (m : Fin 8) (k : Fin 16) (en : BitVec 6) (s : State) :
    let c := (s.at_ t).chip
    let d := (c.set LS_REFOUT_EN en.toNat).onHealth fun h => { h with refRun := en.toNat }
    (c.mayWrite m .be k 0x48 = true → c.reachable .be k = true → Acts (.minClr t m k) t s (c.set (BE_HRMIN_MIN k) (c.get (BE_HR_HEADROOM k)))) ∧
    (c.mayWrite m .ls 0 0x44 = true → c.reachable .ls 0 = true → Acts (.refoutEnable t m en) t s
      (d.forAll ((List.range 6).filter fun n => bit c.health.refRun n ≠ bit en.toNat n) fun c n => c.emit .refout n [b2n (bit en.toNat n)])) := by
  have least : exec (.minClr t m k) s = .next ((s.at_ t).onChip fun c => c.ownWrite m .be k 0x48 fun c => c.set (BE_HRMIN_MIN k) (c.get (BE_HR_HEADROOM k))) := rfl
  have clock : exec (.refoutEnable t m en) s = .next ((s.at_ t).onChip fun c => c.ownWrite m .ls 0 0x44 (·.refout en.toNat)) := rfl
  have acts {d : Chip} := acts_onChip (d := d) _ least
  have starts {d : Chip} := acts_onChip (d := d) _ clock
  generalize (s.at_ t).chip = c at acts starts ⊢
  exact ⟨fun may there => acts (Chip.ownWrite_granted may there _), fun may there => starts (Chip.ownWrite_granted may there _)⟩

/-- Settles O53: writes to fault registers, the sensors and the levels, the throttle and its release, LSPD, MIN_CLR and REFOUT. -/
theorem faultRegistersAndThermal : Obligations.FaultRegistersAndThermal :=
  ⟨faultWrite_acts, thermalSample_acts, fun temps _ => ⟨(judged_facts temps).1, (judged_facts temps).2, hottest_isHottest⟩, levelSample_facts, throttle_acts,
    release_shows, lspd_acts, clears_acts⟩

end Sys2Proof.Machine
end

section
/-!
PROOFS. Standby rest and self-test (R421 to R431), region power (R446, R451), start-up, shutdown and power loss (R444 to R450, R463).
-/
namespace Sys2Proof.Machine

/-! ### Rest (R425 to R427) -/

section
variable {c : Chip}

/-- The unit may rest. -/
theorem Chip.mayRest_iff : c.mayRest = true ↔ (c.role = 0 ∨ c.role = 1) ∧ c.get HL_PSTAT_STATE = 2 ∧ c.get SEQ_PSTAT_OPEN = 0 ∧ c.store.jobs = [] ∧ c.sstate ≤ 2 ∧
    c.health.bist = none := by
  rw [← Chip.runs_iff, ← Chip.is_eq_false_iff, ← List.isEmpty_iff, ← Option.isNone_iff_eq_none]
  simp only [Chip.mayRest, Bool.and_eq_true, decide_eq_true_iff, Bool.not_eq_true', and_assoc]
  exact Iff.rfl

/-- Rest is due by itself. -/
def Chip.restWanted (c : Chip) : Prop := c.get HL_BCFG_REST_AUTO ≠ 0 ∧ max c.health.idleSince c.hosts.lastB + 60000000000 * c.get HL_BCFG_REST_IDLE ≤ c.ns ∧
  ∀ a, c.health.restAt = some a → a + 28800000000000 ≤ c.ns

theorem Chip.restDue_iff : c.restDue = true ↔ c.restWanted := by
  rw [Chip.restDue, Bool.and_eq_true, Bool.and_eq_true, Chip.is_iff, decide_eq_true_iff, and_assoc, Chip.restWanted]
  cases c.health.restAt <;> simp

theorem Chip.abortRest_resting {r : BistRun} (found : c.health.bist = some r) (rest : r.kind = 2 ∧ r.aborted = false) :
    c.abortRest = (c.onHealth fun h => { h with bist := some { r with aborted := true } }).raise .hl 0 { src := 24 } := by
  rw [Chip.abortRest, found]
  exact if_pos ⟨rest.1, by rw [rest.2]; rfl⟩

theorem Chip.abortRest_other (h : ∀ r, c.health.bist = some r → ¬ (r.kind = 2 ∧ r.aborted = false)) : c.abortRest = c := by
  cases found : c.health.bist with
  | none => exact Chip.abortRest_none found
  | some r =>
    rw [Chip.abortRest, found]
    exact if_neg fun rest => h r found ⟨rest.1, by rw [← Bool.not_eq_true']; exact rest.2⟩

theorem Chip.noQuick_some {x : RecordSet} (h : c.health.sets.getLast? = some x) :
    c.noQuick = c.onHealth fun h => { h with sets := h.sets.dropLast ++ [{ x with quickOk := false }] } := by
  rw [Chip.noQuick, Chip.onHealth, Chip.onHealth, h]

theorem Chip.noQuick_none (h : c.health.sets = []) : c.noQuick = c := by
  rw [Chip.noQuick, Chip.onHealth, h]
  rfl

end

theorem rest_acts (t : Nat) (m : Fin 8) (s : State) :
    let c := (s.at_ t).chip
    let may : Prop := (c.role = 0 ∨ c.role = 1) ∧ c.get HL_PSTAT_STATE = 2 ∧ c.get SEQ_PSTAT_OPEN = 0 ∧ c.store.jobs = [] ∧ c.sstate ≤ 2 ∧ c.health.bist = none
    let due : Prop := c.get HL_BCFG_REST_AUTO ≠ 0 ∧ max c.health.idleSince c.hosts.lastB + 60000000000 * c.get HL_BCFG_REST_IDLE ≤ c.ns ∧
      ∀ a, c.health.restAt = some a → a + 28800000000000 ≤ c.ns
    let d := c.onHealth fun h => { h with bist := some { kind := 2, plog := c.get HL_BCFG_PLOG, dtStart := c.ns } }
    let rest := (d.forAll (List.range 4) fun c n => c.regionLanes n false).startWaves
    let resting (r : BistRun) : Prop := r.kind = 2 ∧ r.aborted = false
    let held : Prop := c.mayWrite m .hl 0 0x184 = true ∧ c.reachable .hl 0 = true
    (held → may → Acts (.rest t m) t s rest) ∧ (held → ¬ may → Passes (.rest t m) t s) ∧
    (may ∧ due → Acts (.restAuto t) t s rest) ∧ (¬ (may ∧ due) → Passes (.restAuto t) t s) ∧
    (∀ r, held → c.health.bist = some r → resting r → Acts (.abort t m) t s ((c.onHealth fun h => { h with bist := some { r with aborted := true } }).raise .hl 0 { src := 24 })) ∧
    (held → (∀ r, c.health.bist = some r → ¬ resting r) → Passes (.abort t m) t s) ∧
    (∀ x, held → c.health.sets.getLast? = some x → Acts (.noquick t m) t s (c.onHealth fun h => { h with sets := h.sets.dropLast ++ [{ x with quickOk := false }] })) ∧
    (held → c.health.sets = [] → Passes (.noquick t m) t s) := by
  have rest : exec (.rest t m) s = .next ((s.at_ t).onChip fun c => c.ownWrite m .hl 0 0x184 fun c => if c.mayRest then c.startRest else c) := rfl
  have auto : exec (.restAuto t) s = .next ((s.at_ t).onChip fun c => if c.mayRest && c.restDue then c.startRest else c) := rfl
  have abort : exec (.abort t m) s = .next ((s.at_ t).onChip fun c => c.ownWrite m .hl 0 0x184 (·.abortRest)) := rfl
  have noquick : exec (.noquick t m) s = .next ((s.at_ t).onChip fun c => c.ownWrite m .hl 0 0x184 (·.noQuick)) := rfl
  have rests {d : Chip} := acts_onChip (d := d) _ rest
  have autos {d : Chip} := acts_onChip (d := d) _ auto
  have aborts {d : Chip} := acts_onChip (d := d) _ abort
  have quicks {d : Chip} := acts_onChip (d := d) _ noquick
  have noRest := passes_onChip _ rest
  have noAuto := passes_onChip _ auto
  have noAbort := passes_onChip _ abort
  have noQuick := passes_onChip _ noquick
  generalize (s.at_ t).chip = c at rests autos aborts quicks noRest noAuto noAbort noQuick ⊢
  have own (held : c.mayWrite m .hl 0 0x184 = true ∧ c.reachable .hl 0 = true) := fun g => Chip.ownWrite_granted held.1 held.2 g
  have both : (c.mayRest && c.restDue) = true ↔ _ := (Bool.and_eq_true ..).to_iff.trans (and_congr Chip.mayRest_iff Chip.restDue_iff)
  exact ⟨fun held may => rests ((own held _).trans (if_pos (Chip.mayRest_iff.2 may))), fun held not => noRest ((own held _).trans (if_neg (mt Chip.mayRest_iff.1 not))),
    fun may => autos (if_pos (both.2 may)), fun not => noAuto (if_neg (mt both.1 not)),
    fun r held found resting => aborts ((own held _).trans (Chip.abortRest_resting found resting)),
    fun held other => noAbort ((own held _).trans (Chip.abortRest_other other)),
    fun x held last => quicks ((own held _).trans (Chip.noQuick_some last)), fun held none => noQuick ((own held _).trans (Chip.noQuick_none none))⟩

/-! ### Waves and record sets (R422, R423, R428 to R430) -/

theorem wave_acts (t : Nat) (e : WaveEnd) (xs : List BlockTest) (vmin vmax : Nat) (bad : List (Fin 16)) (ok : Bool) (s : State) :
    let c := (s.at_ t).chip
    (∀ r, c.health.bist = some r → c.get HL_BSTAT_STATE = 2 → Acts (.bistWaveEnd t e xs vmin vmax) t s (c.endWave r (c.get HL_BSTAT_WAVE) e xs vmin vmax)) ∧
    (c.health.bist = none ∨ c.get HL_BSTAT_STATE ≠ 2 → Passes (.bistWaveEnd t e xs vmin vmax) t s) ∧
    (∀ r, c.health.bist = some r → r.kind = 2 → c.get HL_BSTAT_STATE = 3 → Acts (.restEnd t bad ok) t s ((c.restoreBars (bad.map (·.val))).writeSet ok)) ∧
    ((∀ r, c.health.bist = some r → r.kind ≠ 2) ∨ c.get HL_BSTAT_STATE ≠ 3 → Passes (.restEnd t bad ok) t s) := by
  have wave : exec (.bistWaveEnd t e xs vmin vmax) s = execBistWaveEnd t e xs vmin vmax s := rfl
  unfold execBistWaveEnd at wave
  have rest : exec (.restEnd t bad ok) s = execRestEnd t bad ok s := rfl
  unfold execRestEnd at rest
  have waves {d : Chip} := acts_onChip (d := d) _ wave
  have noWave := passes_onChip _ wave
  have rests {d : Chip} := acts_onChip (d := d) _ rest
  have noRest := passes_onChip _ rest
  generalize (s.at_ t).chip = c at waves noWave rests noRest ⊢
  cases found : c.health.bist with
  | none =>
    simp only [found] at noWave noRest
    exact ⟨fun _ same => absurd (found.symm.trans same) nofun, fun _ => noWave trivial, fun _ same => absurd (found.symm.trans same) nofun,
      fun _ => noRest trivial⟩
  | some r =>
    simp only [found] at waves noWave rests noRest
    refine ⟨fun r' same tests => ?_, fun other => noWave (if_neg (other.resolve_left fun none => absurd (found.symm.trans none) nofun)), fun r' same kind ends => ?_,
      fun other => noRest (if_neg fun h => other.elim (fun kinds => kinds r found h.1) (· h.2))⟩
    · obtain rfl := Option.some.inj (found.symm.trans same)
      exact waves (if_pos tests)
    · obtain rfl := Option.some.inj (found.symm.trans same)
      exact rests (if_pos ⟨kind, ends⟩)

theorem waveRec_tested {c : Chip} {plog vmin vmax : Nat} {e : WaveEnd} {xs : List BlockTest} {b : Blk × Nat} (vdd : e ≠ .skipVdd) (ref : e ≠ .skipRef) :
    waveRec c plog e xs vmin vmax b = match xs.find? fun x => x.code = b.1.code && x.inst = b.2 with
      | none => plainRec c b brINCOMPLETE vmin vmax
      | some x =>
        let whole := decide (e = .ran) && decide (x.count = 2 ^ plog)
        let good := decide (x.sig = Config.goldenSignature x.code x.inst plog)
        let result := if !whole then brINCOMPLETE else if good && decide (x.cells = 0) then brPASS else brFAIL
        { plainRec c b result vmin vmax with complete := whole, isMatch := good, count := x.count, sig := x.sig, cells := x.cells } := by
  cases e with
  | skipVdd => exact absurd rfl vdd
  | skipRef => exact absurd rfl ref
  | ran => rfl
  | stopped => rfl

theorem waveRec_facts (c : Chip) (plog : Nat) (e : WaveEnd) (xs : List BlockTest) (vmin vmax : Nat) (b : Blk × Nat) :
    let r := waveRec c plog e xs vmin vmax b
    (e = .skipVdd → r.result = 3) ∧ (e = .skipRef → r.result = 4) ∧
    (e ≠ .skipVdd → e ≠ .skipRef → (∀ x ∈ xs, ¬ (x.code = b.1.code ∧ x.inst = b.2)) → r.result = 2) ∧
    (e ≠ .skipVdd → e ≠ .skipRef → ∀ x, xs = [x] → x.code = b.1.code → x.inst = b.2 →
      let whole : Prop := e = .ran ∧ x.count = 2 ^ plog
      let pass : Prop := x.sig = Config.goldenSignature x.code x.inst plog ∧ x.cells = 0
      r.count = x.count ∧ r.sig = x.sig ∧ r.cells = x.cells ∧ (¬ whole → r.result = 2) ∧ (whole → pass → r.result = 0) ∧ (whole → ¬ pass → r.result = 1)) := by
  refine ⟨fun skips => by subst skips; rfl, fun skips => by subst skips; rfl, fun vdd ref none => ?_, fun vdd ref x single code inst => ?_⟩
  · have found : (xs.find? fun x => x.code = b.1.code && x.inst = b.2) = .none := List.find?_eq_none.2 fun x hx => by
      rw [Bool.and_eq_true, decide_eq_true_iff, decide_eq_true_iff]
      exact none x hx
    rw [waveRec_tested vdd ref, found]
    rfl
  · have found : ([x].find? fun x => x.code = b.1.code && x.inst = b.2) = some x := List.find?_cons_of_pos (by simp [code, inst])
    have whole_iff : (decide (e = .ran) && decide (x.count = 2 ^ plog)) = true ↔ e = .ran ∧ x.count = 2 ^ plog := by simp
    have pass_iff : (decide (x.sig = Config.goldenSignature x.code x.inst plog) && decide (x.cells = 0)) = true ↔
      x.sig = Config.goldenSignature x.code x.inst plog ∧ x.cells = 0 := by simp
    subst single
    rw [waveRec_tested vdd ref, found]
    refine ⟨rfl, rfl, rfl, fun part => if_pos ?_, fun all good => (if_neg ?_).trans (if_pos (pass_iff.2 good)), fun all fails => (if_neg ?_).trans (if_neg (mt pass_iff.1 fails))⟩
    · rw [Bool.eq_false_iff.2 (mt whole_iff.1 part)]
      rfl
    · rw [whole_iff.2 all]
      decide
    · rw [whole_iff.2 all]
      decide

/-- The number and the slot of the next record set. -/
def Health.nextSet (h : Health) : Nat × Nat := match h.latest with
  | some x => ((x.slot + 1) % 4096, (x.sseq + 1) % 2 ^ 32)
  | none => (0, 1)

/-- The record set that ends run r. -/
def Chip.setOfRun (c : Chip) (r : BistRun) (stored : Bool) : RecordSet :=
  { slot := c.health.nextSet.1, kind := r.kind, plog := r.plog, sseq := c.health.nextSet.2, qsn := if r.kind = 0 then 0 else c.get HL_BSTAT_QSN, dtStart := r.dtStart, ended := stored && c.writeTemp,
    recs := if r.kind = 2 then r.recs ++ crBlocks.map fun b => plainRec c b brNONE 0 0 else r.recs }

/-- What writing the set of run r leaves in the health block. -/
theorem Chip.writeSet_health {c : Chip} {r : BistRun} {stored : Bool} (run : c.health.bist = some r) : (c.writeSet stored).health =
    { c.health with bist := none, sets := (c.health.sets.filter fun y => y.slot ≠ c.health.nextSet.1) ++ [c.setOfRun r stored],
                    restAt := if r.kind = 2 then some c.ns else c.health.restAt } := by
  unfold Chip.writeSet
  rw [run]
  dsimp only
  split
  · rfl
  · exact Chip.like_health (Chip.like_raise _ .hl 0 _ (evSource_lt _ _ · (by decide)))

theorem writeSet_facts (c : Chip) (stored : Bool) :
    (c.health.bist = none → c.writeSet stored = c) ∧
    (∀ r, c.health.bist = some r → ∃ x, (c.writeSet stored).health.latest = some x ∧ (c.writeSet stored).health.bist = none ∧ x.kind = r.kind ∧ x.plog = r.plog ∧
      x.ended = (stored && c.writeTemp) ∧ (c.health.latest = none → x.sseq = 1 ∧ x.slot = 0) ∧
      (∀ y, c.health.latest = some y → x.sseq = (y.sseq + 1) % 2 ^ 32 ∧ x.slot = (y.slot + 1) % 4096)) := by
  refine ⟨fun idle => by rw [Chip.writeSet, idle], fun r run => ⟨c.setOfRun r stored, ?_, ?_, rfl, rfl, rfl, fun none => ?_, fun y last => ?_⟩⟩
  · rw [Chip.writeSet_health run]
    exact List.getLast?_concat
  · rw [Chip.writeSet_health run]
  · simp only [Chip.setOfRun, Health.nextSet, none, and_self]
  · simp only [Chip.setOfRun, Health.nextSet, last, and_self]

/-! ### Region power (R446, R451) -/

section
variable {c : Chip} {n d : Nat}

/-- Nothing uses region n, so it may lose its domain. -/
def Chip.unusedRegion (c : Chip) (n : Nat) : Prop := c.get SEQ_PSTAT_OPEN = 0 ∧ (∀ j < 4, c.stage.active.enabled (4 * n + j) = false) ∧
  (∀ j < 6, c.get (LQ_CFG_EN (6 * n + j)) = 0) ∧ ∀ r, c.health.bist = some r → r.kind ≠ 2

theorem Chip.mayPowerOff_iff : c.mayPowerOff n = true ↔ c.unusedRegion n := by
  have rests : c.health.bist.all (fun r => r.kind ≠ 2) = true ↔ ∀ r, c.health.bist = some r → r.kind ≠ 2 := by
    rw [Option.all_eq_true]
    exact forall₂_congr fun _ _ => decide_eq_true_iff
  rw [Chip.mayPowerOff, Bool.and_eq_true, rests]
  simp only [Bool.and_eq_true, Bool.not_eq_true', Chip.is_eq_false_iff, List.all_eq_true, List.mem_range, Chip.unusedRegion, and_assoc]

/-- The requests of RGOFF that are carried out. -/
def Chip.rgoffTaken (c : Chip) (asked back : List Nat) : Chip :=
  (c.forAll (asked.filter fun n => c.mayPowerOff n) fun c n => (c.setBit HL_PCTL_RGOFF n true).askPower n (some false)).forAll back
    fun c n => (c.setBit HL_PCTL_RGOFF n false).askPower n (some true)

/-- The regions that v asks to turn off, and those that it turns on again. -/
def Chip.rgoffAsked (c : Chip) (v : Nat) : List Nat := (List.range 4).filter fun n => bit v n && !bit (c.get HL_PCTL_RGOFF) n
def Chip.rgoffBack (c : Chip) (v : Nat) : List Nat := (List.range 4).filter fun n => !bit v n && bit (c.get HL_PCTL_RGOFF) n

theorem Chip.writeRgoff_eq (v : Nat) : c.writeRgoff v = if ((c.rgoffAsked v).filter fun n => !c.mayPowerOff n).isEmpty then c.rgoffTaken (c.rgoffAsked v) (c.rgoffBack v)
    else (c.rgoffTaken (c.rgoffAsked v) (c.rgoffBack v)).raise .hl 0 { src := 13 } := rfl

theorem Chip.rgoff_refused_iff (ns : List Nat) : (ns.filter fun n => !c.mayPowerOff n).isEmpty = true ↔ ∀ n ∈ ns, c.unusedRegion n := by
  rw [List.isEmpty_iff, List.filter_eq_nil_iff]
  exact forall₂_congr fun n _ => by rw [Bool.not_eq_true', Bool.not_eq_false, Chip.mayPowerOff_iff]

/-- Domain d has been asked on for 20 ms. -/
def Chip.askedLate (c : Chip) (d : Nat) : Prop := 3 ≤ d ∧ ∃ x ∈ c.health.powerReq, x.1 = d - 3 ∧ x.2.1 = true ∧ x.2.2 + 20000000 ≤ c.ns

theorem Chip.askedLate_iff : (decide (3 ≤ d) && c.health.powerReq.any fun e => e.1 = d - 3 && e.2.1 && decide (e.2.2 + 20000000 ≤ c.ns)) = true ↔ c.askedLate d := by
  simp only [Bool.and_eq_true, decide_eq_true_iff, List.any_eq_true, Chip.askedLate, and_assoc]

theorem Chip.domainLate_asked (late : c.askedLate d) : c.domainLate d = (c.askPower (d - 3) none).raise .hl 0 { src := 15 } := if_pos (Chip.askedLate_iff.2 late)

theorem Chip.domainLate_unasked (h : ¬ c.askedLate d) : c.domainLate d = if c.get HL_PSTAT_STATE = 1 ∧ d ≠ 0 ∧ bit (c.get HL_PSTAT_DOMAIN_ON) d then
    (c.setBit HL_PSTAT_DOMAIN_ON d false).raise .hl 0 { src := 15 } else c := if_neg (mt Chip.askedLate_iff.1 h)

end

theorem rgoff_acts (t : Nat) (m : Fin 8) (off : BitVec 4) (s : State) :
    let c := (s.at_ t).chip
    let old := c.get HL_PCTL_RGOFF
    let asked := (List.range 4).filter fun n => bit off.toNat n && !bit old n
    let back := (List.range 4).filter fun n => !bit off.toNat n && bit old n
    let may (n : Nat) : Prop := c.get SEQ_PSTAT_OPEN = 0 ∧ (∀ j < 4, c.stage.active.enabled (4 * n + j) = false) ∧ (∀ j < 6, c.get (LQ_CFG_EN (6 * n + j)) = 0) ∧ ∀ r, c.health.bist = some r → r.kind ≠ 2
    let d := c.forAll (asked.filter fun n => c.mayPowerOff n) fun c n => (c.setBit HL_PCTL_RGOFF n true).askPower n (some false)
    let d := d.forAll back fun c n => (c.setBit HL_PCTL_RGOFF n false).askPower n (some true)
    c.mayWrite m .hl 0 0x54 = true → c.reachable .hl 0 = true →
      (∀ n, c.mayPowerOff n = true ↔ may n) ∧ ((∀ n ∈ asked, may n) → Acts (.rgoff t m off) t s d) ∧ ((∃ n ∈ asked, ¬ may n) → Acts (.rgoff t m off) t s (d.raise .hl 0 { src := 13 })) := by
  have run : exec (.rgoff t m off) s = .next ((s.at_ t).onChip fun c => c.ownWrite m .hl 0 0x54 (·.writeRgoff off.toNat)) := rfl
  have acts {d : Chip} := acts_onChip (d := d) _ run
  generalize (s.at_ t).chip = c at acts ⊢
  exact fun may there => ⟨fun _ => Chip.mayPowerOff_iff,
    fun all => acts ((Chip.ownWrite_granted may there _).trans ((c.writeRgoff_eq _).trans (if_pos ((Chip.rgoff_refused_iff _).2 all)))),
    fun ⟨n, asked, not⟩ => acts ((Chip.ownWrite_granted may there _).trans ((c.writeRgoff_eq _).trans
      (if_neg fun none => not ((Chip.rgoff_refused_iff _).1 none n asked))))⟩

theorem regionPower_acts (t : Nat) (n : Fin 4) (bad : List (Fin 16)) (d : Fin 8) (s : State) :
    let e := Instr.regionPowerDone t n bad
    let c := (s.at_ t).chip
    let late : Prop := 3 ≤ d.val ∧ ∃ x ∈ c.health.powerReq, x.1 = d.val - 3 ∧ x.2.1 = true ∧ x.2.2 + 20000000 ≤ c.ns
    let starting : Prop := c.get HL_PSTAT_STATE = 1 ∧ d.val ≠ 0 ∧ bit (c.get HL_PSTAT_DOMAIN_ON) d = true
    (c.powerAsked n = none → Passes e t s) ∧
    let off := ((c.askPower n none).clearRegion n).setBit HL_PSTAT_DOMAIN_ON (3 + n) false
    (c.powerAsked n = some false → Acts e t s (off.forAll (((List.range 24).map (24 * n.val + ·)).filter fun l => off.laneState l ≠ 0) Chip.laneOff)) ∧
    (c.powerAsked n = some true → Acts e t s
      ((((c.askPower n none).setBit HL_PSTAT_DOMAIN_ON (3 + n) true).restoreBars ((bad.map (·.val)).filter fun k => k / 4 = n.val)).regionLanes n true)) ∧
    (late → Acts (.domainOnTimeout t d) t s ((c.askPower (d.val - 3) none).raise .hl 0 { src := 15 })) ∧
    (¬ late → starting → Acts (.domainOnTimeout t d) t s ((c.setBit HL_PSTAT_DOMAIN_ON d false).raise .hl 0 { src := 15 })) ∧
    (¬ late → ¬ starting → Passes (.domainOnTimeout t d) t s) := by
  have power : exec (.regionPowerDone t n bad) s = .next ((s.at_ t).onChip fun c => c.powerDone n (bad.map (·.val))) := rfl
  have domain : exec (.domainOnTimeout t d) s = .next ((s.at_ t).onChip fun c => c.domainLate d) := rfl
  have done {d : Chip} := acts_onChip (d := d) _ power
  have undone := passes_onChip _ power
  have fails {d : Chip} := acts_onChip (d := d) _ domain
  have passes := passes_onChip _ domain
  generalize (s.at_ t).chip = c at done undone fails passes ⊢
  exact ⟨fun none => undone (by rw [Chip.powerDone, none]), fun off => done (by rw [Chip.powerDone, off]; rfl), fun on => done (by rw [Chip.powerDone, on]),
    fun late => fails (Chip.domainLate_asked late), fun unasked starts => fails ((Chip.domainLate_unasked unasked).trans (if_pos starts)),
    fun unasked not => passes ((Chip.domainLate_unasked unasked).trans (if_neg not))⟩

/-! ### Shutdown (R444, R450) -/

section
variable {c : Chip}

/-- The unit prints with nobody to take over, or rests. -/
def Chip.busyAlone (c : Chip) : Prop :=
  (c.role = 0 ∨ c.role = 1) ∧ c.peerStandby = false ∧ c.get SEQ_PSTAT_OPEN ≠ 0 ∨ ∃ r, c.health.bist = some r ∧ r.kind = 2

theorem Chip.busyAlone_iff : (((c.runs && !c.peerStandby) && c.is SEQ_PSTAT_OPEN) || (c.health.bist.any fun r => r.kind = 2)) = true ↔ c.busyAlone := by
  simp only [Bool.or_eq_true, Bool.and_eq_true, Chip.runs_iff, Bool.not_eq_true', Chip.is_iff, Option.any_eq_true, decide_eq_true_iff, Chip.busyAlone, and_assoc]

theorem Chip.shutdown_unready (h : ¬ c.get HL_PSTAT_STATE = 2) : c.shutdown = c := if_pos h

variable (ready : c.get HL_PSTAT_STATE = 2)
include ready

theorem Chip.shutdown_busy (busy : c.busyAlone) : c.shutdown = c.raise .hl 0 { src := 14 } :=
  (if_neg (Classical.not_not.2 ready)).trans (if_pos (Chip.busyAlone_iff.2 busy))

theorem Chip.shutdown_free (free : ¬ c.busyAlone) : c.shutdown = match c.twin.handoff with
    | some h => { c with twin := { c.twin with handoff := some { h with forShutdown := true } } }
    | none => if c.peerStandby then c.startHandoff true else c.beginShutdown :=
  (if_neg (Classical.not_not.2 ready)).trans (if_neg (mt Chip.busyAlone_iff.1 free))

end

section
variable {c : Chip}

theorem Chip.shutOver_iff : c.shutOver = true ↔ c.get HL_PSTAT_STATE = 3 ∧ c.get NV_STAT_BUSY = 0 ∧ (c.health.bist = none ∨ c.get HL_BSTAT_STATE = 3) := by
  simp only [Chip.shutOver, Bool.and_eq_true, decide_eq_true_iff, Bool.not_eq_true', Chip.is_eq_false_iff, Bool.or_eq_true, Option.isNone_iff_eq_none, and_assoc]

end

theorem shutdown_acts (t : Nat) (m : Fin 8) (ok : Bool) (s : State) :
    let e := Instr.shutdown t m
    let a := s.at_ t
    let c := a.chip
    let ready : Prop := c.get HL_PSTAT_STATE = 2
    let busy : Prop := (c.role = 0 ∨ c.role = 1) ∧ c.peerStandby = false ∧ c.get SEQ_PSTAT_OPEN ≠ 0 ∨ ∃ r, c.health.bist = some r ∧ r.kind = 2
    let ended : Prop := c.get HL_PSTAT_STATE = 3 ∧ c.get NV_STAT_BUSY = 0 ∧ (c.health.bist = none ∨ c.get HL_BSTAT_STATE = 3)
    (c.mayWrite m .hl 0 0x54 = true → c.reachable .hl 0 = true →
      (¬ ready → Passes e t s) ∧ (ready → busy → Acts e t s (c.raise .hl 0 { src := 14 })) ∧
      (∀ h, ready → ¬ busy → c.twin.handoff = some h → Acts e t s { c with twin := { c.twin with handoff := some { h with forShutdown := true } } }) ∧
      (ready → ¬ busy → c.twin.handoff = none → c.peerStandby = true → Acts e t s (c.startHandoff true)) ∧
      (ready → ¬ busy → c.twin.handoff = none → c.peerStandby = false → Acts e t s c.beginShutdown)) ∧
    (ended → exec (.shutdownDone t ok) s = .next (powerDown 4 (a.onChip fun c => (c.writeSet ok).event 1 60 0x0601 ((c.writeSet ok).get HL_BSET_SSEQ)))) ∧
    (¬ ended → Passes (.shutdownDone t ok) t s) := by
  have run : exec (.shutdown t m) s = .next ((s.at_ t).onChip fun c => c.ownWrite m .hl 0 0x54 (·.shutdown)) := rfl
  have done : exec (.shutdownDone t ok) s = .next (if (s.at_ t).chip.shutOver then
    powerDown 4 ((s.at_ t).onChip fun c => (c.writeSet ok).event 1 60 0x0601 ((c.writeSet ok).get HL_BSET_SSEQ)) else s.at_ t) := rfl
  have acts {d : Chip} := acts_onChip (d := d) _ run
  have passes := passes_onChip _ run
  unfold Passes at passes ⊢
  unfold Acts at acts ⊢
  generalize s.at_ t = a at acts passes done ⊢
  exact ⟨fun may there => ⟨fun unready => passes ((Chip.ownWrite_granted may there _).trans (Chip.shutdown_unready unready)),
      fun ready busy => acts ((Chip.ownWrite_granted may there _).trans (Chip.shutdown_busy ready busy)),
      fun h ready free hands => acts ((Chip.ownWrite_granted may there _).trans ((Chip.shutdown_free ready free).trans (by rw [hands]))),
      fun ready free none peer => acts ((Chip.ownWrite_granted may there _).trans ((Chip.shutdown_free ready free).trans (by rw [none]; exact if_pos peer))),
      fun ready free none peer => acts ((Chip.ownWrite_granted may there _).trans ((Chip.shutdown_free ready free).trans
        (by rw [none]; exact if_neg (Bool.eq_false_iff.1 peer))))⟩,
    fun ended => done.trans (congrArg _ (if_pos (Chip.shutOver_iff.2 ended))), fun not => done.trans (congrArg _ (if_neg (mt Chip.shutOver_iff.1 not)))⟩

section
variable {c : Chip}

/-- The power-down after a SHUT at DT x is due. -/
def Chip.downAt (c : Chip) (x : Nat) : Prop := c.health.shutAt = some x ∧ c.health.silent = false ∧
  (x + 1000000 ≤ c.ns ∨ c.get TW_STAT_HANDOFF = 0 ∧ (c.health.shutHandoff = true ∨ x + 100000 ≤ c.ns))

theorem Chip.downDue_iff : c.downDue = true ↔ ∃ x, c.downAt x := by
  rw [Chip.downDue]
  simp only [Chip.downAt]
  cases c.health.shutAt with
  | none => exact ⟨fun h => absurd h Bool.false_ne_true, fun ⟨_, h, _⟩ => absurd h nofun⟩
  | some a =>
    simp only [Bool.and_eq_true, Bool.or_eq_true, Bool.not_eq_true', decide_eq_true_iff, Chip.is_eq_false_iff, Option.some.injEq, exists_eq_left']

end

theorem shutdownPowerDown_acts (t : Nat) (s : State) :
    let a := s.at_ t
    let c := a.chip
    let due (x : Nat) : Prop := c.health.shutAt = some x ∧ c.health.silent = false ∧
      (x + 1000000 ≤ c.ns ∨ c.get TW_STAT_HANDOFF = 0 ∧ (c.health.shutHandoff = true ∨ x + 100000 ≤ c.ns))
    ((∃ x, due x) → exec (.shutdownPowerDown t) s = .next ((powerDown 1 a).onChip fun c => ((c.latchRs HL_THSTAT_PREV_SHUT).set HL_THSTAT_PREV_PWRFAIL 0).emit .thermtrip 0 [0])) ∧
    ((∀ x, ¬ due x) → Passes (.shutdownPowerDown t) t s) := by
  have run : exec (.shutdownPowerDown t) s = .next (if (s.at_ t).chip.downDue then
    (powerDown 1 (s.at_ t)).onChip fun c => ((c.latchRs HL_THSTAT_PREV_SHUT).set HL_THSTAT_PREV_PWRFAIL 0).emit .thermtrip 0 [0] else s.at_ t) := rfl
  unfold Passes
  generalize s.at_ t = a at run ⊢
  exact ⟨fun due => run.trans (congrArg _ (if_pos (Chip.downDue_iff.2 due))),
    fun none => run.trans (congrArg _ (if_neg fun due => (Chip.downDue_iff.1 due).elim none))⟩

/-! ### Start-up and the loss of power (R431, R448, R449, R463) -/

/-- The supplies let a wave run. -/
theorem supplyGood_iff {vcore : Nat} {ref : Option Int} : supplyGood vcore ref = true ↔
    720 ≤ vcore ∧ vcore ≤ 800 ∧ ∃ p, ref = some p ∧ -300 ≤ p ∧ p ≤ 300 := by
  cases ref <;> simp [supplyGood, and_assoc]

/-- A record set allows a quick start. -/
def RecordSet.allowsQuick (x : RecordSet) : Prop :=
  x.kind = 1 ∧ x.ended = true ∧ x.quickOk = true ∧ 20 ≤ x.plog ∧ x.qsn < 15 ∧ x.recs ≠ [] ∧ ∀ y ∈ x.recs, y.result = 0

theorem Health.quickSet_iff {h : Health} : h.quickSet = true ↔ ∃ x, h.latest = some x ∧ x.allowsQuick := by
  rw [Health.quickSet]
  cases h.latest with
  | none => exact ⟨fun h => absurd h Bool.false_ne_true, fun ⟨_, h, _⟩ => absurd h nofun⟩
  | some x =>
    simp only [Bool.and_eq_true, decide_eq_true_iff, Bool.not_eq_true', List.isEmpty_eq_false_iff, List.all_eq_true, Option.some.injEq, exists_eq_left',
      RecordSet.allowsQuick, and_assoc]
    exact Iff.rfl

theorem Chip.startDone_iff {c : Chip} : c.startDone = true ↔ c.health.powerGood = true ∧ c.health.silent = false ∧ c.get HL_PSTAT_STATE = 1 ∧
    c.twin.deciding = false ∧ c.twin.needDt = false ∧ (c.health.bist = none ∨ c.get HL_BSTAT_STATE = 3) := by
  simp only [Chip.startDone, Bool.and_eq_true, Bool.not_eq_true', decide_eq_true_iff, Bool.or_eq_true, Option.isNone_iff_eq_none, and_assoc]

theorem power_acts (t : Nat) (ftm roped pref ok : Bool) (vcore : Nat) (ref : Option Int) (s : State) :
    let e := Instr.pwrgoodRise t ftm roped pref vcore ref
    let a := s.at_ t
    let c := a.chip
    let n (b : Bool) : Nat := if b = true then 1 else 0
    let straps := ((c.set SYS_STRAP_FTM (n ftm)).set SYS_STRAP_ROPED_EN (n roped)).set SYS_STRAP_ROPE_PREF (n pref)
    let supply : Prop := 720 ≤ vcore ∧ vcore ≤ 800 ∧ ∃ p, ref = some p ∧ -300 ≤ p ∧ p ≤ 300
    let allows (x : RecordSet) : Prop := x.kind = 1 ∧ x.ended = true ∧ x.quickOk = true ∧ 20 ≤ x.plog ∧ x.qsn < 15 ∧ x.recs ≠ [] ∧ ∀ y ∈ x.recs, y.result = 0
    let quick : Prop := ftm = false ∧ supply ∧ ∃ x, c.health.latest = some x ∧ allows x
    let done : Prop := c.health.powerGood = true ∧ c.health.silent = false ∧ c.get HL_PSTAT_STATE = 1 ∧ c.twin.deciding = false ∧ c.twin.needDt = false ∧
      (c.health.bist = none ∨ c.get HL_BSTAT_STATE = 3)
    (c.health.powerGood = true → Passes e t s) ∧ (c.health.powerGood = false → quick → exec e s = .next (startUp true { a with chip := straps })) ∧
    (c.health.powerGood = false → ¬ quick → exec e s = .next (startUp false { a with chip := straps })) ∧
    (done → Acts (.startupReady t ok) t s (c.ready ok)) ∧ (¬ done → Passes (.startupReady t ok) t s) ∧
    (c.health.powerGood = true → exec (.pwrgoodFall t) s = .next (powerFall a)) ∧ (c.health.powerGood = false → Passes (.pwrgoodFall t) t s) ∧
    Acts (.refclkLoss t) t s (((c.forAll (setBits 6 c.health.refRun) fun c n => c.emit .refout n [0]).onHealth fun h => { h with refRun := 0 }).raise .sys 0 { src := 2 }) := by
  have rise : exec (.pwrgoodRise t ftm roped pref vcore ref) s = .next (if (s.at_ t).chip.health.powerGood then s.at_ t else
    startUp (!ftm && supplyGood vcore ref && (s.at_ t).chip.health.quickSet) ((s.at_ t).onChip fun c =>
      ((c.set SYS_STRAP_FTM (b2n ftm)).set SYS_STRAP_ROPED_EN (b2n roped)).set SYS_STRAP_ROPE_PREF (b2n pref))) := rfl
  have fall : exec (.pwrgoodFall t) s = .next (if (s.at_ t).chip.health.powerGood then powerFall (s.at_ t) else s.at_ t) := rfl
  have start : exec (.startupReady t ok) s = .next ((s.at_ t).onChip fun c => if c.startDone then c.ready ok else c) := rfl
  have loss : exec (.refclkLoss t) s = .next ((s.at_ t).onChip fun c =>
    ((c.forAll (setBits 6 c.health.refRun) fun c n => c.emit .refout n [0]).onHealth fun h => { h with refRun := 0 }).raise .sys 0 { src := 2 }) := rfl
  have starts {d : Chip} := acts_onChip (d := d) _ start
  have waits := passes_onChip _ start
  have stops {d : Chip} := acts_onChip (d := d) _ loss
  unfold Passes at waits ⊢
  unfold Acts at starts stops ⊢
  generalize s.at_ t = a at starts waits stops rise fall ⊢
  have quick_iff : (!ftm && supplyGood vcore ref && a.chip.health.quickSet) = true ↔
      ftm = false ∧ (720 ≤ vcore ∧ vcore ≤ 800 ∧ ∃ p, ref = some p ∧ -300 ≤ p ∧ p ≤ 300) ∧ ∃ x, a.chip.health.latest = some x ∧ x.allowsQuick := by
    rw [Bool.and_eq_true, Bool.and_eq_true, Bool.not_eq_true', supplyGood_iff, Health.quickSet_iff, and_assoc]
  have low (off : a.chip.health.powerGood = false) : ¬ a.chip.health.powerGood = true := Bool.eq_false_iff.1 off
  exact ⟨fun on => rise.trans (congrArg _ (if_pos on)),
    fun off quick => rise.trans (congrArg _ ((if_neg (low off)).trans (by rw [quick_iff.2 quick]; rfl))),
    fun off full => rise.trans (congrArg _ ((if_neg (low off)).trans (by rw [Bool.eq_false_iff.2 (mt quick_iff.1 full)]; rfl))),
    fun done => starts (if_pos (Chip.startDone_iff.2 done)), fun not => waits (if_neg (mt Chip.startDone_iff.1 not)),
    fun on => fall.trans (congrArg _ (if_pos on)), fun off => fall.trans (congrArg _ (if_neg (low off))), stops rfl⟩

/-- The loss of power leaves the NOR and the fields that are kept. -/
theorem powerLost_facts (keep : Nat → Bool) (s : State) :
    let d := powerLost keep s
    d.mem = {} ∧ d.pending = s.pending ∧ d.chip.stage.bankA = s.chip.stage.bankA ∧ d.chip.stage.bankB = s.chip.stage.bankB ∧ d.chip.health = s.chip.health ∧
    (∀ f : Fld, keep f.key = true → d.chip.get f = s.chip.get f) ∧ (∀ f : Fld, keep f.key = false → d.chip.get f = f.reset) :=
  ⟨rfl, rfl, rfl, rfl, rfl, fun _ kept => (FMap.get_keep ..).trans (if_pos kept), fun _ gone => (FMap.get_keep ..).trans (if_neg (Bool.eq_false_iff.1 gone))⟩

/-- Settles O52: rest, the ends of waves and record sets, region power, shutdown, start-up and the loss of power. -/
theorem selfTestPowerAndStart : Obligations.SelfTestPowerAndStart :=
  ⟨rest_acts, wave_acts, waveRec_facts, writeSet_facts, rgoff_acts, regionPower_acts, shutdown_acts, power_acts, shutdownPowerDown_acts, powerLost_facts⟩

end Sys2Proof.Machine
end

section
/-!
PROOFS. The twin pair: heartbeats (R384, R385), rope frames (R383), the journal and the snapshot (R391, R395, R404), the referee (R398) and hub
lead (R400).
-/
namespace Sys2Proof.Machine

/-! ### Heartbeats -/

section
variable {c : Chip}

/-- Chip c after its next belay frame has left. -/
def Chip.belaySent (c : Chip) : Chip :=
  { c.emit .belay 0 [] c.belayOctets with twin := { (c.emit .belay 0 [] c.belayOctets).twin with
    hbSeq := ((c.emit .belay 0 [] c.belayOctets).twin.hbSeq + 1) % 65536 } }

/-- The heartbeat on the rope link: it shows no provisional DT. -/
def Chip.ropeBeatSent (d : Chip) : Chip :=
  let r := if d.provisional then d.fresh (2 ^ 80) else (d.dt, d)
  r.2.emit .ropeHb 0 [r.1, r.2.get TB_RATE_NOW, r.2.beatRole, r.2.twin.epoch, r.2.get TW_JSEQ_JSEQ, unitId]

theorem Chip.heartbeat_eq : c.heartbeat = if !c.transmits then c
    else if c.belaySent.roped && c.belaySent.is TW_STAT_ROPE_UP then c.belaySent.ropeBeatSent else c.belaySent := rfl

theorem Chip.transmits_iff : (!c.transmits) = true ↔ ¬ (c.health.powerGood = true ∧ c.health.silent = false) := by
  rw [Chip.transmits, Bool.not_eq_true', Bool.eq_false_iff, Ne, Bool.and_eq_true, Bool.not_eq_true']

/-- The rope link carries heartbeats. -/
theorem Chip.ropeRuns_iff : (c.roped && c.is TW_STAT_ROPE_UP) = true ↔ c.get SYS_STRAP_ROPED_EN ≠ 0 ∧ c.get TW_STAT_ROPE_UP ≠ 0 := by
  rw [Bool.and_eq_true, Chip.roped, Chip.is_iff, Chip.is_iff]

theorem Chip.ropeRuns_not_iff : (!c.roped || !c.is TW_STAT_ROPE_UP) = true ↔ ¬ (c.get SYS_STRAP_ROPED_EN ≠ 0 ∧ c.get TW_STAT_ROPE_UP ≠ 0) := by
  rw [← Chip.ropeRuns_iff, ← Bool.not_and, Bool.not_eq_true', Bool.eq_false_iff]

theorem Chip.provisional_iff : c.provisional = true ↔ c.twin.deciding = true ∨ c.twin.needDt = true := by
  rw [Chip.provisional, Bool.or_eq_true]

end

theorem heartbeat_acts (t : Nat) (s : State) :
    let c := (s.at_ t).chip
    let runs : Prop := c.health.powerGood = true ∧ c.health.silent = false
    let bs := le 1 0x48 ++ le 1 c.beatRole ++ le 1 c.beatFlags ++ le 1 0 ++ le 4 unitId ++ le 4 c.twin.epoch ++ le 2 c.twin.hbSeq
    let d := c.emit .belay 0 [] (bs ++ le 2 (crcMsb 16 0x1021 0xFFFF (bs.take 14)))
    let d : Chip := { d with twin := { d.twin with hbSeq := (d.twin.hbSeq + 1) % 65536 } }
    let rope : Prop := d.get SYS_STRAP_ROPED_EN ≠ 0 ∧ d.get TW_STAT_ROPE_UP ≠ 0
    (¬ runs → Passes (.heartbeatSend t) t s) ∧ (runs → ¬ rope → Acts (.heartbeatSend t) t s d) ∧
    let hidden : Prop := d.twin.deciding = true ∨ d.twin.needDt = true
    let f := if hidden then (d.fresh (2 ^ 80)).2 else d
    let shown := if hidden then (d.fresh (2 ^ 80)).1 else d.dt
    (runs → rope → Acts (.heartbeatSend t) t s (f.emit .ropeHb 0 [shown, d.get TB_RATE_NOW, d.beatRole, d.twin.epoch, d.get TW_JSEQ_JSEQ, unitId])) := by
  have run : exec (.heartbeatSend t) s = .next ((s.at_ t).onChip (·.heartbeat)) := rfl
  have acts {d : Chip} := acts_onChip (d := d) _ run
  have passes := passes_onChip _ run
  generalize (s.at_ t).chip = c at acts passes ⊢
  have sent (runs : c.health.powerGood = true ∧ c.health.silent = false) : c.heartbeat =
      if c.belaySent.roped && c.belaySent.is TW_STAT_ROPE_UP then c.belaySent.ropeBeatSent else c.belaySent :=
    Chip.heartbeat_eq.trans (if_neg (mt Chip.transmits_iff.1 (Classical.not_not.2 runs)))
  refine ⟨fun off => passes (if_pos (Chip.transmits_iff.2 off)), fun runs alone => acts ((sent runs).trans (if_neg (mt Chip.ropeRuns_iff.1 alone))),
    fun runs rope => acts ((sent runs).trans ((if_pos (Chip.ropeRuns_iff.2 rope)).trans ?_))⟩
  change c.belaySent.ropeBeatSent = Chip.emit (if c.belaySent.twin.deciding = true ∨ c.belaySent.twin.needDt = true then (c.belaySent.fresh (2 ^ 80)).2 else c.belaySent)
    .ropeHb 0 [if c.belaySent.twin.deciding = true ∨ c.belaySent.twin.needDt = true then (c.belaySent.fresh (2 ^ 80)).1 else c.belaySent.dt, c.belaySent.get TB_RATE_NOW,
      c.belaySent.beatRole, c.belaySent.twin.epoch, c.belaySent.get TW_JSEQ_JSEQ, unitId] _
  generalize c.belaySent = d
  rw [Chip.ropeBeatSent]
  by_cases hidden : d.twin.deciding = true ∨ d.twin.needDt = true
  · rw [if_pos (Chip.provisional_iff.2 hidden), if_pos hidden, if_pos hidden]
    rfl
  · rw [if_neg (mt Chip.provisional_iff.1 hidden), if_neg hidden, if_neg hidden]

section
variable {c : Chip} {b : List Byte}

/-- A belay frame is whole. -/
def BelayWhole (b : List Byte) : Prop := b.length = 16 ∧ fieldAt b 0 1 = 0x48 ∧ fieldAt b 14 2 = crcMsb 16 0x1021 0xFFFF (b.take 14)

theorem belayWhole_iff : (b.length ≠ 16 || fieldAt b 0 1 ≠ 0x48 || fieldAt b 14 2 ≠ belayCrc b) = true ↔ ¬ BelayWhole b := by
  simp only [Bool.or_eq_true, decide_eq_true_iff, BelayWhole, Classical.not_and_iff_not_or_not, ne_eq, or_assoc]
  exact Iff.rfl

theorem Chip.belayFrame_bad (h : ¬ BelayWhole b) : c.belayFrame b = c := if_pos (belayWhole_iff.2 h)

theorem Chip.belayFrame_whole (h : BelayWhole b) : c.belayFrame b =
    if (c.injected .tw [0]).1 then (c.injected .tw [0]).2 else (c.injected .tw [0]).2.countBeat false (fieldAt b 1 1) (fieldAt b 4 4) (fieldAt b 8 4) :=
  if_neg (mt belayWhole_iff.1 (Classical.not_not.2 h))

end

theorem belayFrame_acts (t : Nat) (b : List Byte) (s : State) :
    let e := Instr.belayFrame t b
    let c := (s.at_ t).chip
    let whole : Prop := b.length = 16 ∧ fieldAt b 0 1 = 0x48 ∧ fieldAt b 14 2 = crcMsb 16 0x1021 0xFFFF (b.take 14)
    let i := c.injected .tw [0]
    (¬ whole → Passes e t s) ∧ (whole → i.1 = true → Acts e t s i.2) ∧
    (whole → i.1 = false → Acts e t s (i.2.countBeat false (fieldAt b 1 1) (fieldAt b 4 4) (fieldAt b 8 4))) := by
  have run : exec (.belayFrame t b) s = .next ((s.at_ t).onChip fun c => c.belayFrame b) := rfl
  have acts {d : Chip} := acts_onChip (d := d) _ run
  have passes := passes_onChip _ run
  generalize (s.at_ t).chip = c at acts passes ⊢
  exact ⟨fun bad => passes (Chip.belayFrame_bad bad), fun whole lost => acts ((Chip.belayFrame_whole whole).trans (if_pos lost)),
    fun whole heard => acts ((Chip.belayFrame_whole whole).trans (if_neg (Bool.eq_false_iff.1 heard)))⟩

section
variable {c : Chip} {rope : Bool} {role id epoch : Nat}

/-- Chip c after a heartbeat of the peer has been noted on its path. -/
def Chip.beatNoted (c : Chip) (rope : Bool) (role id epoch : Nat) : Chip :=
  (((({ c with twin := { (if rope = true then { c.twin with ropeAt := some c.ns, ropeTold := false } else { c.twin with belayAt := some c.ns, belayTold := false } : Twin) with
    peerRole := some role, peerEpoch := epoch, peerFailed := false } } : Chip).set TW_PEER_PEER id).set (if rope = true then TW_STAT_ROPE_HEARD else TW_STAT_BELAY_HEARD) 1).set
    TW_STAT_CLAIMHOLD 0).peerBack

/-- What the heartbeat tells a unit that is still deciding its role. -/
def Chip.beatJudged (d : Chip) (role id : Nat) : Chip := if d.twin.deciding = true then d.hearWhileDeciding role id else d

theorem Chip.counts_iff : (!c.roped || !c.fromPeer id) = true ↔ c.get SYS_STRAP_ROPED_EN = 0 ∨ c.fromPeer id = false := by
  rw [Bool.or_eq_true, Bool.not_eq_true', Bool.not_eq_true', Chip.roped, Chip.is_eq_false_iff]

theorem Chip.countBeat_foreign (h : c.get SYS_STRAP_ROPED_EN = 0 ∨ c.fromPeer id = false) : c.countBeat rope role id epoch = c := if_pos (Chip.counts_iff.2 h)

/-- The peer's claim to be ACTIVE takes the unit to CATCHUP. -/
def Chip.losesTo (d : Chip) (role id epoch : Nat) : Prop :=
  d.role = 1 ∧ role = 1 ∧ d.handingOver = false ∧ (d.twin.epoch < epoch ∨ d.twin.epoch = epoch ∧ id < unitId)

theorem Chip.losesTo_iff : (c.role = 1 ∧ role = 1 ∧ !c.handingOver ∧ c.yields id epoch) ↔ c.losesTo role id epoch := by
  rw [Bool.not_eq_true', Chip.losesTo, Chip.yields]
  simp only [Bool.or_eq_true, Bool.and_eq_true, decide_eq_true_iff]

variable (roped : c.get SYS_STRAP_ROPED_EN ≠ 0) (peer : c.fromPeer id = true)
include roped peer

theorem Chip.countBeat_counts : c.countBeat rope role id epoch =
    if ((c.beatNoted rope role id epoch).beatJudged role id).role = 1 ∧ role = 1 ∧ !((c.beatNoted rope role id epoch).beatJudged role id).handingOver ∧
      ((c.beatNoted rope role id epoch).beatJudged role id).yields id epoch then ((c.beatNoted rope role id epoch).beatJudged role id).yieldTo
    else (c.beatNoted rope role id epoch).beatJudged role id :=
  if_neg (mt Chip.counts_iff.1 (not_or.2 ⟨roped, Bool.not_eq_false _ ▸ peer⟩))

end

theorem countBeat_facts (c : Chip) (rope : Bool) (role id epoch : Nat) :
    let d : Chip := { c with twin := { (if rope = true then { c.twin with ropeAt := some c.ns, ropeTold := false } else { c.twin with belayAt := some c.ns, belayTold := false } : Twin) with
      peerRole := some role, peerEpoch := epoch, peerFailed := false } }
    let d := ((d.set TW_PEER_PEER id).set (if rope = true then TW_STAT_ROPE_HEARD else TW_STAT_BELAY_HEARD) 1).set TW_STAT_CLAIMHOLD 0
    let d := if d.peerBack.twin.deciding = true then d.peerBack.hearWhileDeciding role id else d.peerBack
    let loses : Prop := d.role = 1 ∧ role = 1 ∧ d.handingOver = false ∧ (d.twin.epoch < epoch ∨ d.twin.epoch = epoch ∧ id < unitId)
    (c.get SYS_STRAP_ROPED_EN = 0 ∨ c.fromPeer id = false → c.countBeat rope role id epoch = c) ∧
    (c.get SYS_STRAP_ROPED_EN ≠ 0 → c.fromPeer id = true → loses → c.countBeat rope role id epoch = (d.toCatchup 4).raise .tw 0 { src := 3, level := some 2 }) ∧
    (c.get SYS_STRAP_ROPED_EN ≠ 0 → c.fromPeer id = true → ¬ loses → c.countBeat rope role id epoch = d) :=
  ⟨fun foreign => Chip.countBeat_foreign foreign, fun roped peer loses => (Chip.countBeat_counts roped peer).trans (if_pos (Chip.losesTo_iff.2 loses)),
    fun roped peer holds => (Chip.countBeat_counts roped peer).trans (if_neg (mt Chip.losesTo_iff.1 holds))⟩

section
variable {c : Chip} {b : RopeBeat}

/-- What a heartbeat on the rope link does that counts: d is the chip after it is counted. -/
def Chip.ropeBeatTaken (d : Chip) (b : RopeBeat) : Chip :=
  if d.role = 1 then
    if b.role = 3 then (if d.twin.resend = true ∧ b.role = 2 then d.resendJournal b.jseq else d).joinAsked
    else if d.twin.resend = true ∧ b.role = 2 then d.resendJournal b.jseq else d
  else if (d.role = 2 ∨ d.role = 3) ∧ b.role = 1 then d.followTime b
  else d

/-- A heartbeat on the rope link counts. -/
def Chip.ropeBeatCounts (c : Chip) (b : RopeBeat) : Prop := (c.injected .rl [0, 1]).1 = false ∧ (c.injected .rl [0, 1]).2.get TW_STAT_ROPE_UP ≠ 0 ∧
  (c.injected .rl [0, 1]).2.get SYS_STRAP_ROPED_EN ≠ 0 ∧ (c.injected .rl [0, 1]).2.fromPeer b.unit = true

theorem Chip.ropeHb_eq : c.ropeHb b = if (c.injected .rl [0, 1]).1 || !(c.injected .rl [0, 1]).2.is TW_STAT_ROPE_UP then (c.injected .rl [0, 1]).2
    else if !(c.injected .rl [0, 1]).2.roped || !(c.injected .rl [0, 1]).2.fromPeer b.unit then (c.injected .rl [0, 1]).2
    else ((c.injected .rl [0, 1]).2.countBeat true b.role b.unit b.epoch).ropeBeatTaken b := rfl

theorem Chip.ropeHb_lost (h : ¬ c.ropeBeatCounts b) : c.ropeHb b = (c.injected .rl [0, 1]).2 := by
  rw [Chip.ropeHb_eq, Chip.roped]
  rw [Chip.ropeBeatCounts] at h
  generalize c.injected .rl [0, 1] = i at h ⊢
  split
  · rfl
  · next heard =>
    rw [Bool.or_eq_true, Bool.not_eq_true', Chip.is_eq_false_iff, not_or, Bool.not_eq_true] at heard
    refine if_pos ?_
    rw [Bool.or_eq_true, Bool.not_eq_true', Bool.not_eq_true', Chip.is_eq_false_iff]
    exact (Classical.not_and_iff_not_or_not.1 fun both => h ⟨heard.1, heard.2, both⟩).imp Classical.not_not.1 (Bool.eq_false_iff.2 ·)

theorem Chip.ropeHb_counts (h : c.ropeBeatCounts b) : c.ropeHb b = ((c.injected .rl [0, 1]).2.countBeat true b.role b.unit b.epoch).ropeBeatTaken b := by
  obtain ⟨heard, up, roped, peer⟩ := h
  rw [Chip.ropeHb_eq]
  refine (if_neg ?_).trans (if_neg ?_)
  · rw [heard, Chip.is_iff.2 up]
    decide
  · rw [Chip.roped, Chip.is_iff.2 roped, peer]
    decide

end

theorem ropeHb_acts (t : Nat) (b : RopeBeat) (s : State) :
    let e := Instr.ropeHb t b
    let i := (s.at_ t).chip.injected .rl [0, 1]
    let counts : Prop := i.1 = false ∧ i.2.get TW_STAT_ROPE_UP ≠ 0 ∧ i.2.get SYS_STRAP_ROPED_EN ≠ 0 ∧ i.2.fromPeer b.unit = true
    let d := i.2.countBeat true b.role b.unit b.epoch
    let f := if d.twin.resend = true ∧ b.role = 2 then d.resendJournal b.jseq else d
    (¬ counts → Acts e t s i.2) ∧ (counts → d.role = 1 → Acts e t s (if b.role = 3 then f.joinAsked else f)) ∧
    (counts → d.role = 2 ∨ d.role = 3 → b.role = 1 → Acts e t s (d.followTime b)) ∧
    (counts → d.role ≠ 1 → (d.role ≠ 2 ∧ d.role ≠ 3) ∨ b.role ≠ 1 → Acts e t s d) := by
  have run : exec (.ropeHb t b) s = .next ((s.at_ t).onChip fun c => c.ropeHb b) := rfl
  have acts {d : Chip} := acts_onChip (d := d) _ run
  generalize (s.at_ t).chip = c at acts ⊢
  exact ⟨fun lost => acts (Chip.ropeHb_lost lost), fun counts active => acts ((Chip.ropeHb_counts counts).trans (if_pos active)),
    fun counts passive peer => acts ((Chip.ropeHb_counts counts).trans ((if_neg (by omega)).trans (if_pos ⟨passive, peer⟩))),
    fun counts passive other => acts ((Chip.ropeHb_counts counts).trans ((if_neg passive).trans (if_neg (by omega))))⟩

/-! ### Rope frames -/

theorem rxRope_facts (c : Chip) (rseq : Nat) :
    let up : Prop := c.get SYS_STRAP_ROPED_EN ≠ 0 ∧ c.get TW_STAT_ROPE_UP ≠ 0
    let i := c.injected .rl [0, 1]
    let r := i.2.twin.rxSeq
    let d : Chip := { i.2 with twin := { i.2.twin with rxSeq := rseq } }
    (¬ up → c.rxRope rseq = (false, c)) ∧ (up → i.1 = true → c.rxRope rseq = (false, i.2)) ∧
    (up → i.1 = false → rseq = (r + 1) % 65536 → c.rxRope rseq = (true, d.emit .ropeAck 0 [rseq])) ∧
    (up → i.1 = false → rseq ≠ (r + 1) % 65536 → c.rxRope rseq = (false, i.2.emit .ropeAck 0 [r])) := by
  have run (up : c.get SYS_STRAP_ROPED_EN ≠ 0 ∧ c.get TW_STAT_ROPE_UP ≠ 0) : c.rxRope rseq = _ := if_neg (mt Chip.ropeRuns_not_iff.1 (Classical.not_not.2 up))
  exact ⟨fun down => if_pos (Chip.ropeRuns_not_iff.2 down), fun up lost => (run up).trans (if_pos lost),
    fun up heard next => (run up).trans ((if_neg (Bool.eq_false_iff.1 heard)).trans (if_pos next)),
    fun up heard early => (run up).trans ((if_neg (Bool.eq_false_iff.1 heard)).trans (if_neg early))⟩

section
variable {c : Chip} {rseq : Nat}

/-- Frame f of a sequence number has waited 20 µs for its ACK. -/
def RopeFrame.overdue (f : RopeFrame) (rseq now : Nat) : Prop := f.rseq = rseq ∧ f.sent + 20000 ≤ now

theorem RopeFrame.overdue_iff {f : RopeFrame} : (f.rseq = rseq && decide (f.sent + 20000 ≤ c.ns)) = true ↔ f.overdue rseq c.ns := by
  rw [Bool.and_eq_true, decide_eq_true_iff, decide_eq_true_iff, RopeFrame.overdue]

theorem Chip.ropeResend_none (h : ∀ f ∈ c.twin.sent, ¬ f.overdue rseq c.ns) : c.ropeResend rseq = c := by
  rw [Chip.ropeResend, List.find?_eq_none.2 fun f hf => mt RopeFrame.overdue_iff.1 (h f hf)]

theorem Chip.ropeResend_some (h : ∃ f ∈ c.twin.sent, f.overdue rseq c.ns) : ∃ f ∈ c.twin.sent, f.overdue rseq c.ns ∧ c.ropeResend rseq =
    if f.tries < 3 then
      (((({ c with twin := { c.twin with sent := c.twin.sent.map fun x => if x.rseq = rseq then { f with sent := c.ns, tries := f.tries + 1 } else x } } : Chip).emit
        f.kind 0 (f.rseq :: f.args) f.bytes).bump RL_CNT_RESENDS).raise .rl 0 { src := 1 })
    else c.forAll [96, 97, 98, 99] Chip.enterLock := by
  obtain ⟨g, hg, late⟩ := h
  obtain ⟨f, found⟩ : ∃ f, (c.twin.sent.find? fun (f : RopeFrame) => f.rseq = rseq && decide (f.sent + 20000 ≤ c.ns)) = some f :=
    Option.isSome_iff_exists.1 (List.find?_isSome.2 ⟨g, hg, RopeFrame.overdue_iff.2 late⟩)
  have hit := List.find?_some found
  refine ⟨f, List.mem_of_find?_eq_some found, RopeFrame.overdue_iff.1 hit, ?_⟩
  rw [Chip.ropeResend, found]

end

theorem ropeAck_acts (t rseq : Nat) (s : State) :
    let c := (s.at_ t).chip
    let i := c.injected .rl [0, 1]
    let old (f : RopeFrame) : Prop := f.rseq = rseq ∧ f.sent + 20000 ≤ c.ns
    (c.get TW_STAT_ROPE_UP = 0 → Passes (.ropeAck t rseq) t s) ∧
    (c.get TW_STAT_ROPE_UP ≠ 0 → Acts (.ropeAck t rseq) t s (if i.1 = true then i.2 else i.2.ropeAck rseq)) ∧
    ((∀ f ∈ c.twin.sent, ¬ old f) → Passes (.ropeResendTimeout t rseq) t s) ∧
    ((∃ f ∈ c.twin.sent, old f) → ∃ f ∈ c.twin.sent, old f ∧
      let g : RopeFrame := { f with sent := c.ns, tries := f.tries + 1 }
      let d : Chip := { c with twin := { c.twin with sent := c.twin.sent.map fun x => if x.rseq = rseq then g else x } }
      (f.tries < 3 → Acts (.ropeResendTimeout t rseq) t s (((d.emit f.kind 0 (f.rseq :: f.args) f.bytes).bump RL_CNT_RESENDS).raise .rl 0 { src := 1 })) ∧
      (3 ≤ f.tries → Acts (.ropeResendTimeout t rseq) t s (c.forAll [96, 97, 98, 99] Chip.enterLock))) := by
  have ack : exec (.ropeAck t rseq) s = .next ((s.at_ t).onChip fun c => if !c.is TW_STAT_ROPE_UP then c
    else if (c.injected .rl [0, 1]).1 then (c.injected .rl [0, 1]).2 else (c.injected .rl [0, 1]).2.ropeAck rseq) := rfl
  have again : exec (.ropeResendTimeout t rseq) s = .next ((s.at_ t).onChip fun c => c.ropeResend rseq) := rfl
  have acks {d : Chip} := acts_onChip (d := d) _ ack
  have deaf := passes_onChip _ ack
  have acts {d : Chip} := acts_onChip (d := d) _ again
  have passes := passes_onChip _ again
  generalize (s.at_ t).chip = c at acks deaf acts passes ⊢
  refine ⟨fun down => deaf (if_pos (by rw [Chip.is_eq_false_iff.2 down]; rfl)), fun up => acks (if_neg (by rw [Chip.is_iff.2 up]; decide)),
    fun none => passes (Chip.ropeResend_none none), fun some => ?_⟩
  obtain ⟨f, hf, late, sends⟩ := Chip.ropeResend_some some
  exact ⟨f, hf, late, fun more => acts (sends.trans (if_pos more)), fun vain => acts (sends.trans (if_neg (Nat.not_lt.2 vain)))⟩

/-- A verdict as the active unit hears it. -/
def Chip.hearVerdict (c : Chip) (bar row : Nat) (v : Fin 3) : Chip :=
  let o (n : Nat) : Occ := { src := n, detail := packRow (some row) none (some bar) }
  match v with
  | 0 => c.bump TW_VERD_SWRONG
  | 1 => (c.bump TW_VERD_AWRONG).raise .tw 0 (o 7)
  | 2 => (c.bump TW_VERD_UNDEC).raise .tw 0 (o 8)

theorem ropeJrn_eq (rseq : Nat) (es : List (Nat × JItem)) (v : State) : ropeJrn rseq es v = if (v.chip.rxRope rseq).1 then
    (es.foldl applyEntry { v with chip := (v.chip.rxRope rseq).2 }).onChip (·.checkJoined) else { v with chip := (v.chip.rxRope rseq).2 } := rfl

theorem ropeFrames_act (t rseq token bar row sect : Nat) (hrow : List Nat) (hs : List RowHash) (v : Fin 3) (es : List (Nat × JItem)) (items : List JItem) (x : SnapEnd)
    (s : State) :
    let a := s.at_ t
    let r := a.chip.rxRope rseq
    let o (n : Nat) : Occ := { src := n, detail := packRow (some row) none (some bar) }
    Acts (.ropeOffer t rseq token hrow) t s (if r.1 = true ∧ r.2.role = 2 then r.2.startClaim token else r.2) ∧
    Acts (.ropeHash t rseq hs) t s (if r.1 = true then r.2.forAll hs Chip.rowHash else r.2) ∧
    let unpacked := if r.2.role = 3 ∧ r.2.twin.stuck = false then r.2.unpackJob sect x else r.2
    Acts (.ropeSnap t rseq sect items x) t s (if r.1 = true then unpacked.ropeSnap sect items x else r.2) ∧
    (r.1 = false → exec (.ropeJrn t rseq es) s = .next { a with chip := r.2 }) ∧
    (r.1 = true → exec (.ropeJrn t rseq es) s = .next ((es.foldl applyEntry { a with chip := r.2 }).onChip (·.checkJoined))) ∧
    (r.1 = false ∨ r.2.role ≠ 1 → Acts (.ropeVerdict t rseq bar row v) t s r.2) ∧
    (r.1 = true → r.2.role = 1 → v = 0 → Acts (.ropeVerdict t rseq bar row v) t s (r.2.bump TW_VERD_SWRONG)) ∧
    (r.1 = true → r.2.role = 1 → v = 1 → Acts (.ropeVerdict t rseq bar row v) t s ((r.2.bump TW_VERD_AWRONG).raise .tw 0 (o 7))) ∧
    (r.1 = true → r.2.role = 1 → v = 2 → Acts (.ropeVerdict t rseq bar row v) t s ((r.2.bump TW_VERD_UNDEC).raise .tw 0 (o 8))) := by
  have offer : exec (.ropeOffer t rseq token hrow) s = .next ((s.at_ t).onChip fun c =>
    if (c.rxRope rseq).1 ∧ (c.rxRope rseq).2.role = 2 then (c.rxRope rseq).2.startClaim token else (c.rxRope rseq).2) := rfl
  have hash : exec (.ropeHash t rseq hs) s = .next ((s.at_ t).onChip fun c => if (c.rxRope rseq).1 then (c.rxRope rseq).2.forAll hs Chip.rowHash else (c.rxRope rseq).2) := rfl
  have snap : exec (.ropeSnap t rseq sect items x) s = .next ((s.at_ t).onChip fun c => if (c.rxRope rseq).1 then
    (if (c.rxRope rseq).2.role = 3 ∧ !(c.rxRope rseq).2.twin.stuck then (c.rxRope rseq).2.unpackJob sect x else (c.rxRope rseq).2).ropeSnap sect items x
    else (c.rxRope rseq).2) := rfl
  have verdict : exec (.ropeVerdict t rseq bar row v) s = .next ((s.at_ t).onChip fun c => if !(c.rxRope rseq).1 || (c.rxRope rseq).2.role ≠ 1 then (c.rxRope rseq).2
    else (c.rxRope rseq).2.hearVerdict bar row v) := rfl
  have jrn : exec (.ropeJrn t rseq es) s = .next (ropeJrn rseq es (s.at_ t)) := rfl
  rw [ropeJrn_eq] at jrn
  have offers {d : Chip} := acts_onChip (d := d) _ offer
  have hashes {d : Chip} := acts_onChip (d := d) _ hash
  have snaps {d : Chip} := acts_onChip (d := d) _ snap
  have judges {d : Chip} := acts_onChip (d := d) _ verdict
  unfold Acts at offers hashes snaps judges ⊢
  generalize s.at_ t = a at offers hashes snaps judges jrn ⊢
  have heard (new : (a.chip.rxRope rseq).1 = true) (active : (a.chip.rxRope rseq).2.role = 1) :
      ¬ (!(a.chip.rxRope rseq).1 || (a.chip.rxRope rseq).2.role ≠ 1) = true := by
    rw [new, decide_eq_false (Classical.not_not.2 active)]
    decide
  refine ⟨offers rfl, hashes rfl, snaps (ite_of_iff Iff.rfl (congrArg (fun d : Chip => d.ropeSnap sect items x) (ite_of_iff (by rw [Bool.not_eq_true']) rfl rfl)) rfl),
    fun old => jrn.trans (congrArg _ (if_neg (Bool.eq_false_iff.1 old))), fun new => jrn.trans (congrArg _ (if_pos new)),
    fun h => judges (if_pos ?_), fun new active h => judges ((if_neg (heard new active)).trans ?_), fun new active h => judges ((if_neg (heard new active)).trans ?_),
    fun new active h => judges ((if_neg (heard new active)).trans ?_)⟩
  · rw [Bool.or_eq_true, Bool.not_eq_true', decide_eq_true_iff]
    exact h
  all_goals rw [h, Chip.hearVerdict]


/-! ### The journal and the snapshot -/

theorem applyEntry_facts (s : State) (e : Nat × JItem) :
    let c := s.chip
    let mirrors : Prop := c.role = 2 ∨ c.role = 3 ∧ c.twin.adopted = true
    let d := (e.1 + 2 ^ 32 - c.get TW_JSEQ_JSEQ) % 2 ^ 32
    (mirrors → d = 1 → applyEntry s e = (applyItem (s.onChip (·.set TW_JACK_JACK e.1)) e.2).onChip (·.set TW_JSEQ_JSEQ e.1)) ∧
    (mirrors → d = 0 ∨ 2 ^ 31 ≤ d → applyEntry s e = s) ∧
    (mirrors → 2 ≤ d → d < 2 ^ 31 → applyEntry s e = s.onChip fun c => if c.role = 2 then c.toCatchup 3 else c.failCatchup 3) ∧
    (¬ mirrors → applyEntry s e = if c.role = 3 ∧ c.twin.stuck = false then s.onChip fun c => c.storeEntry e.1 e.2 else s) := by
  refine ⟨fun mirrors next => (if_pos mirrors).trans (if_pos next), fun mirrors old => (if_pos mirrors).trans ((if_neg ?_).trans (if_pos old)),
    fun mirrors ahead near => (if_pos mirrors).trans ((if_neg ?_).trans (if_neg ?_)), fun other => (if_neg other).trans (ite_of_iff ?_ rfl rfl)⟩
  · omega
  · omega
  · omega
  · rw [Bool.not_eq_true]


section
variable {c : Chip} {ok : Bool}

/-- The unit begins a snapshot for its CATCHUP peer. -/
def Chip.mayBegin (c : Chip) : Prop := c.role = 1 ∧ c.twin.peerRole = some 3 ∧ (c.get TW_STAT_BELAY_HEARD ≠ 0 ∨ c.get TW_STAT_ROPE_HEARD ≠ 0) ∧ c.twin.peerFailed = false ∧
  c.get TW_STAT_ROPE_UP ≠ 0 ∧ c.twin.snapSent = false

theorem Chip.peerHeard_iff : c.peerHeard = true ↔ c.get TW_STAT_BELAY_HEARD ≠ 0 ∨ c.get TW_STAT_ROPE_HEARD ≠ 0 := by
  rw [Chip.peerHeard, Bool.or_eq_true, Chip.is_iff, Chip.is_iff]

theorem Chip.mayBegin_iff : (c.role = 1 && c.twin.peerRole = some 3 && c.peerHeard && !c.twin.peerFailed && c.is TW_STAT_ROPE_UP && !c.twin.snapSent) = true ↔ c.mayBegin := by
  simp only [Bool.and_eq_true, decide_eq_true_iff, Chip.peerHeard_iff, Bool.not_eq_true', Chip.is_iff, Chip.mayBegin, and_assoc]

/-- The jobs of the store without those of the twin controller. -/
def Store.untwinned (st : Store) : Store := { st with jobs := st.jobs.filter fun j => !j.twin }

/-- Chip c after its snapshot has begun. -/
def Chip.snapshotBegun (c : Chip) : Chip :=
  let d := c.setStore { c.store with
    jobs := c.store.jobs.filter (fun j => !j.twin) ++ [{ id := c.store.nextJob, op := .compress, twin := true, kind := 1, soff := 0 }],
    nextJob := c.store.nextJob + 1 }
  ({ d with twin := { d.twin with snapSent := true, asked := false, mirroring := true, kept := [], fresh := [] } } : Chip).set TW_JSEQ_JSEQ (2 ^ 32 - 1)

theorem Chip.packSection_full {n : Nat} (h : 256 ≤ c.store.waiting.length) : c.packSection n = none := if_pos h

theorem Chip.packSection_room {n : Nat} (h : c.store.waiting.length < 256) : c.packSection n = some (c.setStore { c.store with
    jobs := c.store.jobs ++ [{ id := c.store.nextJob, op := .compress, twin := true, kind := 1, soff := n }], nextJob := c.store.nextJob + 1 }) := if_neg (Nat.not_le.2 h)

theorem Chip.snapshotStart_begins (h : c.mayBegin) (room : c.store.untwinned.waiting.length < 256) : c.snapshotStart = c.snapshotBegun := by
  rw [Chip.snapshotStart]
  refine (if_pos (Chip.mayBegin_iff.2 h)).trans ?_
  dsimp only
  rw [Chip.packSection_room room]
  rfl

theorem Chip.snapshotStart_stays (h : ¬ (c.mayBegin ∧ c.store.untwinned.waiting.length < 256)) : c.snapshotStart = c := by
  rw [Chip.snapshotStart]
  split
  · next may =>
    dsimp only
    rw [Chip.packSection_full (Nat.not_lt.1 (not_and.1 h (Chip.mayBegin_iff.1 may)))]
  · rfl

/-- The snapshot is whole. -/
theorem Chip.mayAdopt_iff : c.mayAdopt ok = true ↔ c.role = 3 ∧ c.twin.stuck = false ∧ c.twin.lost = false ∧ c.twin.adopted = false ∧ ok = true ∧
    (∀ n < 11, ∃ e ∈ c.twin.snap, e.1 = n) ∧ journalWhole 0 c.twin.kept = true := by
  simp only [Chip.mayAdopt, Bool.and_eq_true, decide_eq_true_iff, Bool.not_eq_true', List.all_eq_true, List.mem_range, List.any_eq_true, and_assoc]

end

theorem snapshot_acts (t : Nat) (ok : Bool) (s : State) :
    let a := s.at_ t
    let c := a.chip
    let begins : Prop := c.role = 1 ∧ c.twin.peerRole = some 3 ∧ (c.get TW_STAT_BELAY_HEARD ≠ 0 ∨ c.get TW_STAT_ROPE_HEARD ≠ 0) ∧ c.twin.peerFailed = false ∧ c.get TW_STAT_ROPE_UP ≠ 0 ∧
      c.twin.snapSent = false ∧ ({ c.store with jobs := c.store.jobs.filter fun j => !j.twin } : Store).waiting.length < 256
    let st := c.store
    let job : CodecJob := { id := st.nextJob, op := .compress, twin := true, kind := 1, soff := 0 }
    let d := c.setStore { st with jobs := st.jobs.filter (fun j => !j.twin) ++ [job], nextJob := st.nextJob + 1 }
    let d : Chip := { d with twin := { d.twin with snapSent := true, asked := false, mirroring := true, kept := [], fresh := [] } }
    let tw := c.twin
    let may : Prop := c.role = 3 ∧ tw.stuck = false ∧ tw.lost = false ∧ tw.adopted = false ∧ ok = true ∧ (∀ n < 11, ∃ e ∈ tw.snap, e.1 = n) ∧ journalWhole 0 tw.kept = true
    (begins → Acts (.snapshotStart t) t s (d.set TW_JSEQ_JSEQ (2 ^ 32 - 1))) ∧ (¬ begins → Passes (.snapshotStart t) t s) ∧
    (may → exec (.snapshotAdopt t ok) s = .next (adoptSnapshot a)) ∧ (¬ may → Passes (.snapshotAdopt t ok) t s) := by
  have start : exec (.snapshotStart t) s = .next ((s.at_ t).onChip (·.snapshotStart)) := rfl
  have adopt : exec (.snapshotAdopt t ok) s = .next (if (s.at_ t).chip.mayAdopt ok then adoptSnapshot (s.at_ t) else s.at_ t) := rfl
  have acts {d : Chip} := acts_onChip (d := d) _ start
  have passes := passes_onChip _ start
  unfold Passes at passes ⊢
  unfold Acts at acts ⊢
  generalize s.at_ t = a at acts passes adopt ⊢
  exact ⟨fun ⟨active, peer, heard, alive, up, free, room⟩ => acts (Chip.snapshotStart_begins ⟨active, peer, heard, alive, up, free⟩ room),
    fun not => passes (Chip.snapshotStart_stays fun ⟨⟨active, peer, heard, alive, up, free⟩, room⟩ => not ⟨active, peer, heard, alive, up, free, room⟩),
    fun may => adopt.trans (congrArg _ (if_pos (Chip.mayAdopt_iff.2 may))), fun not => adopt.trans (congrArg _ (if_neg (mt Chip.mayAdopt_iff.1 not)))⟩

/-! ### The referee and hub lead -/

section
variable {c : Chip} {k row chk : Nat}

/-- Rendering e of the referee is row `row` of bar k. -/
def IsRendering (k row : Nat) (e : RowHash × Nat) : Prop := e.1.bar = k ∧ e.1.row = row

theorem isRendering_iff {e : RowHash × Nat} : (e.1.bar = k && e.1.row = row) = true ↔ IsRendering k row e := by
  rw [Bool.and_eq_true, decide_eq_true_iff, decide_eq_true_iff, IsRendering]

theorem Chip.refereeDone_none (h : ∀ e ∈ c.twin.referee, ¬ IsRendering k row e) : c.refereeDone k row chk = c := by
  rw [Chip.refereeDone, List.find?_eq_none.2 fun e he => mt isRendering_iff.1 (h e he)]

/-- Chip c after a rendering has left the referee. -/
def Chip.renderingOver (c : Chip) (k row : Nat) : Chip :=
  { c with twin := { c.twin with referee := c.twin.referee.filter fun e => decide ¬ (e.1.bar = k ∧ e.1.row = row) } }

theorem Chip.refereeDone_some (h : ∃ e ∈ c.twin.referee, IsRendering k row e) : ∃ e ∈ c.twin.referee, IsRendering k row e ∧ c.refereeDone k row chk =
    ((((c.renderingOver k row).setBar k { (c.renderingOver k row).bar k with lent := false }).set (BE_SCR_SPARE_STATE k)
      (if (c.renderingOver k row).get (BE_SCR_SPARE k) ≠ 31 then 0 else 2)).judgeRow k row (if chk = e.1.chk then 0 else if chk = e.2 then 1 else 2)) := by
  obtain ⟨g, hg, mine⟩ := h
  obtain ⟨e, found⟩ : ∃ e, (c.twin.referee.find? fun e => e.1.bar = k && e.1.row = row) = some e :=
    Option.isSome_iff_exists.1 (List.find?_isSome.2 ⟨g, hg, isRendering_iff.2 mine⟩)
  have kept : (fun e : RowHash × Nat => !(decide (e.1.bar = k) && decide (e.1.row = row))) = fun e => decide ¬ (e.1.bar = k ∧ e.1.row = row) :=
    funext fun e => by rw [decide_not, Bool.decide_and]
  have spare (d : Chip) : (if d.hasSpare k = true then 0 else 2) = if d.get (BE_SCR_SPARE k) ≠ 31 then 0 else 2 := ite_of_iff decide_eq_true_iff rfl rfl
  have hit := List.find?_some found
  refine ⟨e, List.mem_of_find?_eq_some found, isRendering_iff.1 hit, ?_⟩
  rw [Chip.refereeDone, found]
  dsimp only
  rw [kept, spare]
  rfl

end

theorem referee_acts (t : Nat) (m : Fin 8) (k : Fin 16) (row chk : Nat) (s : State) :
    let c := (s.at_ t).chip
    let mine (e : RowHash × Nat) : Prop := e.1.bar = k.val ∧ e.1.row = row
    (c.mayWrite m .tw 0 0x50 = true → c.reachable .tw 0 = true →
      (c.role = 3 → Acts (.recatch t m) t s c.dropSnapshot) ∧ (c.role ≠ 3 → Passes (.recatch t m) t s)) ∧
    ((∀ e ∈ c.twin.referee, ¬ mine e) → Passes (.refereeDone t k row chk) t s) ∧
    ((∃ e ∈ c.twin.referee, mine e) → ∃ e ∈ c.twin.referee, mine e ∧
      let d : Chip := { c with twin := { c.twin with referee := c.twin.referee.filter fun e => decide (¬ mine e) } }
      let f := d.setBar k { d.bar k with lent := false }
      Acts (.refereeDone t k row chk) t s ((f.set (BE_SCR_SPARE_STATE k) (if f.get (BE_SCR_SPARE k) ≠ 31 then 0 else 2)).judgeRow k row
        (if chk = e.1.chk then 0 else if chk = e.2 then 1 else 2))) := by
  have again : exec (.recatch t m) s = .next ((s.at_ t).onChip fun c => c.ownWrite m .tw 0 0x50 fun c => if c.role = 3 then c.dropSnapshot else c) := rfl
  have done : exec (.refereeDone t k row chk) s = .next ((s.at_ t).onChip fun c => c.refereeDone k row chk) := rfl
  have drops {d : Chip} := acts_onChip (d := d) _ again
  have keeps := passes_onChip _ again
  have acts {d : Chip} := acts_onChip (d := d) _ done
  have passes := passes_onChip _ done
  generalize (s.at_ t).chip = c at drops keeps acts passes ⊢
  refine ⟨fun may there => ⟨fun behind => drops ((Chip.ownWrite_granted may there _).trans (if_pos behind)),
    fun other => keeps ((Chip.ownWrite_granted may there _).trans (if_neg other))⟩, fun none => passes (Chip.refereeDone_none none), fun some => ?_⟩
  obtain ⟨e, he, mine, judged⟩ := Chip.refereeDone_some (chk := chk) some
  exact ⟨e, he, mine, acts judged⟩

section
variable {c : Chip}

/-- The hub lead of every enabled bar shows. -/
def Chip.leadShown (c : Chip) : Chip :=
  c.forAll c.enabledBars fun c k => c.set (TW_HLEAD_HLEAD k) (if FMap.get 0 c.twin.leads k = 0 then 0xFFFF else min 0xFFFF ((FMap.get 0 c.twin.leads k - 1) / 1000))

/-- A new window of hub lead begins. -/
def Chip.leadBegun (d : Chip) : Chip := { d with twin := { d.twin with leads := [] } }

theorem Chip.hubLead_eq : c.hubLead = if (c.enabledBars.any fun k => decide (c.leadShown.get (TW_HLEAD_HLEAD k) < 280)) &&
    (c.leadShown.leadBegun.twin.peerRole = some 1 || c.leadShown.leadBegun.twin.peerRole = some 2) && c.leadShown.leadBegun.peerHeard then
    c.leadShown.leadBegun.raise .tw 0 { src := 10 } else c.leadShown.leadBegun := rfl

end

theorem hubLead_acts (t : Nat) (s : State) :
    let c := (s.at_ t).chip
    let d := c.forAll c.enabledBars fun c k => c.set (TW_HLEAD_HLEAD k) (if FMap.get 0 c.twin.leads k = 0 then 0xFFFF else min 0xFFFF ((FMap.get 0 c.twin.leads k - 1) / 1000))
    let low : Prop := ∃ k ∈ c.enabledBars, d.get (TW_HLEAD_HLEAD k) < 280
    let f : Chip := { d with twin := { d.twin with leads := [] } }
    let told : Prop := low ∧ (f.twin.peerRole = some 1 ∨ f.twin.peerRole = some 2) ∧ (f.get TW_STAT_BELAY_HEARD ≠ 0 ∨ f.get TW_STAT_ROPE_HEARD ≠ 0)
    (told → Acts (.hubLeadWindow t) t s (f.raise .tw 0 { src := 10 })) ∧ (¬ told → Acts (.hubLeadWindow t) t s f) := by
  have run : exec (.hubLeadWindow t) s = .next ((s.at_ t).onChip (·.hubLead)) := rfl
  have acts {d : Chip} := acts_onChip (d := d) _ run
  rw [Chip.hubLead_eq] at acts
  generalize (s.at_ t).chip = c at acts ⊢
  have told : ((c.enabledBars.any fun k => decide (c.leadShown.get (TW_HLEAD_HLEAD k) < 280)) &&
      (c.leadShown.leadBegun.twin.peerRole = some 1 || c.leadShown.leadBegun.twin.peerRole = some 2) && c.leadShown.leadBegun.peerHeard) = true ↔
      (∃ k ∈ c.enabledBars, c.leadShown.get (TW_HLEAD_HLEAD k) < 280) ∧ (c.leadShown.leadBegun.twin.peerRole = some 1 ∨ c.leadShown.leadBegun.twin.peerRole = some 2) ∧
      (c.leadShown.leadBegun.get TW_STAT_BELAY_HEARD ≠ 0 ∨ c.leadShown.leadBegun.get TW_STAT_ROPE_HEARD ≠ 0) := by
    simp only [Bool.and_eq_true, List.any_eq_true, decide_eq_true_iff, Bool.or_eq_true, Chip.peerHeard_iff, and_assoc]
  exact ⟨fun h => acts (if_pos (told.2 h)), fun h => acts (if_neg (mt told.1 h))⟩

/-- Settles O51: heartbeats, rope frames with their acknowledgement, the journal, the snapshot, the referee and hub lead. -/
theorem ropeJournalAndReferee : Obligations.RopeJournalAndReferee :=
  ⟨heartbeat_acts, belayFrame_acts, countBeat_facts, ropeHb_acts, rxRope_facts, ropeAck_acts, ropeFrames_act, applyEntry_facts, snapshot_acts, referee_acts, hubLead_acts⟩

end Sys2Proof.Machine
end

section
/-!
PROOFS. Ownership of hubs (R302, R306, R386, R387), claims (R388), the planned handoff (R399) and the loss of the peer (R385, R396).
-/
namespace Sys2Proof.Machine

/-! ### Records of a hub that are received (R277) -/

section
variable {v : State} {l : Nat} {fr : List RxBlock} {i type : Nat} {r : List Byte} {f : List Byte → State → State}

/-- A lane takes in the data blocks of a frame before its records act. -/
theorem State.data_arrived : (if fr.any (·.data) then v.onChip (·.dataBlock l) else v) = { v with chip := arrived v.chip l fr } := by
  rw [arrived]
  split <;> rfl

theorem State.record_received (up : v.chip.laneState l = 4) (found : statRecord fr i = some r) (same : fieldAt r 0 1 = type) :
    v.record l fr i type f = f r { v with chip := arrived v.chip l fr } := by
  rw [State.record, State.data_arrived, found]
  exact (if_neg (Classical.not_not.2 up)).trans (if_pos same)

end

/-- A record that only changes the chip acts so when it is received. -/
theorem received_acts {t : Nat} {l : Fin 96} {fr : List RxBlock} {i type : Nat} {r : List Byte} {s : State} {e : Instr} {g : List Byte → Chip → Chip} {d : Chip}
    (received : Received t l fr i type r s) (run : exec e s = .next ((s.at_ t).record l fr i type fun r s => s.onChip (g r)))
    (h : g r (arrived (s.at_ t).chip l fr) = d) : Acts e t s d := by
  obtain ⟨up, found, same⟩ := received
  unfold Acts
  generalize s.at_ t = v at up run h ⊢
  rw [State.record_received up found same] at run
  exact run.trans (congrArg (fun d => Host.Outcome.next { v with chip := d }) h)

/-! ### EPOCH records -/

section
variable {c : Chip} {l : Nat} {r : List Byte}

/-- The hub's record names this unit as owner. -/
def IsSelf (r : List Byte) : Prop := fieldAt r 1 1 % 4 ≠ 0 ∧ fieldAt r 8 4 = unitId

/-- What an EPOCH record shows in the registers of lane l. -/
def Chip.ownerShown (c : Chip) (l : Nat) (r : List Byte) (self : Nat) : Chip :=
  let b := fieldAt r 1 1
  let d := (c.setLane l { c.lane l with owner := if b % 4 = 0 then 0 else fieldAt r 8 4 }).set (LQ_HEP_CUR (l / 4) (l % 4)) (fieldAt r 4 4)
  let d := (d.set (LQ_HST_OWNER (l / 4) (l % 4)) (b % 4)).set (LQ_HST_SELF (l / 4) (l % 4)) self
  ((d.set (LQ_HST_LEASE (l / 4) (l % 4)) (bits b 2 1)).set (LQ_HST_ARM_L (l / 4) (l % 4)) (bits b 3 1)).set (LQ_HST_ARM_S (l / 4) (l % 4)) (bits b 4 1)

theorem Chip.noteOwner_eq : c.noteOwner l r =
    if c.ownsHub l = true ∧ ¬ (fieldAt r 1 1 % 4 ≠ 0 ∧ fieldAt r 8 4 = unitId) then
      (c.ownerShown l r (if fieldAt r 1 1 % 4 ≠ 0 ∧ fieldAt r 8 4 = unitId then 1 else 0)).refreshEpoch.raise .lq (l / 4) { src := 26, cell := l % 4 }
    else (c.ownerShown l r (if fieldAt r 1 1 % 4 ≠ 0 ∧ fieldAt r 8 4 = unitId then 1 else 0)).refreshEpoch := by
  have self : (fieldAt r 1 1 % 4 ≠ 0 && fieldAt r 8 4 = unitId) = true ↔ fieldAt r 1 1 % 4 ≠ 0 ∧ fieldAt r 8 4 = unitId := by
    rw [Bool.and_eq_true, decide_eq_true_iff, decide_eq_true_iff]
  have shown : b2n (fieldAt r 1 1 % 4 ≠ 0 && fieldAt r 8 4 = unitId) = if fieldAt r 1 1 % 4 ≠ 0 ∧ fieldAt r 8 4 = unitId then 1 else 0 := ite_of_iff self rfl rfl
  have lost : (c.ownsHub l && !(fieldAt r 1 1 % 4 ≠ 0 && fieldAt r 8 4 = unitId)) = true ↔
      c.ownsHub l = true ∧ ¬ (fieldAt r 1 1 % 4 ≠ 0 ∧ fieldAt r 8 4 = unitId) := by
    rw [Bool.and_eq_true, Bool.not_eq_true', Bool.eq_false_iff, Ne, self]
  rw [← shown]
  exact ite_of_iff lost rfl rfl

/-- The unit may claim the hub of lane l. -/
theorem Chip.claimFree_iff : (c.runs && c.newest.laneUsed l && c.laneState l = lsSERVICE && !c.is (LQ_HST_LEASE (l / 4) (l % 4)) && !c.ownsHub l &&
    !c.is TW_STAT_HANDOFF) = true ↔ (c.role = 0 ∨ c.role = 1) ∧ c.newest.laneUsed l = true ∧ c.laneState l = 4 ∧ c.get (LQ_HST_LEASE (l / 4) (l % 4)) = 0 ∧
    c.ownsHub l = false ∧ c.get TW_STAT_HANDOFF = 0 := by
  simp only [Bool.and_eq_true, Chip.runs_iff, decide_eq_true_iff, Bool.not_eq_true', Chip.is_eq_false_iff, and_assoc]
  exact Iff.rfl

/-- The active unit is lost and the hub's lease has ended. -/
theorem Chip.alone_iff : (c.role = 3 && c.twin.lost && c.newest.laneUsed l && !c.is (LQ_HST_LEASE (l / 4) (l % 4))) = true ↔
    c.role = 3 ∧ c.twin.lost = true ∧ c.newest.laneUsed l = true ∧ c.get (LQ_HST_LEASE (l / 4) (l % 4)) = 0 := by
  simp only [Bool.and_eq_true, decide_eq_true_iff, Bool.not_eq_true', Chip.is_eq_false_iff, and_assoc]

end

/-- What follows an EPOCH record that has been noted. -/
def epochNoted (l : Nat) (v : State) : State :=
  if v.chip.role = 3 && v.chip.twin.lost && v.chip.newest.laneUsed l && !v.chip.is (LQ_HST_LEASE (l / 4) (l % 4)) then
    (freshActive v).onChip fun c => c.forAll c.usedLanes Chip.claimFree
  else v.onChip fun c => (c.claimFree l).checkHandedOver

theorem epochRecord_acts (t : Nat) (l : Fin 96) (fr : List RxBlock) (i : Nat) (r : List Byte) (s : State) (received : Received t l fr i 4 r s) :
    let e := Instr.epochRecord t l ⟨fr, i⟩
    let a := s.at_ t
    let c := arrived a.chip l fr
    let b := fieldAt r 1 1
    let id := fieldAt r 8 4
    let self : Prop := b % 4 ≠ 0 ∧ id = unitId
    let d := (c.setLane l { c.lane l with owner := if b % 4 = 0 then 0 else id }).set (LQ_HEP_CUR (l / 4) (l % 4)) (fieldAt r 4 4)
    let d := (d.set (LQ_HST_OWNER (l / 4) (l % 4)) (b % 4)).set (LQ_HST_SELF (l / 4) (l % 4)) (if self then 1 else 0)
    let d := ((d.set (LQ_HST_LEASE (l / 4) (l % 4)) (bits b 2 1)).set (LQ_HST_ARM_L (l / 4) (l % 4)) (bits b 3 1)).set (LQ_HST_ARM_S (l / 4) (l % 4)) (bits b 4 1)
    let d := if c.ownsHub l = true ∧ ¬ self then d.refreshEpoch.raise .lq (l / 4) { src := 26, cell := l % 4 } else d.refreshEpoch
    let alone : Prop := d.role = 3 ∧ d.twin.lost = true ∧ d.newest.laneUsed l = true ∧ d.get (LQ_HST_LEASE (l / 4) (l % 4)) = 0
    let free : Prop := (d.role = 0 ∨ d.role = 1) ∧ d.newest.laneUsed l = true ∧ d.laneState l = 4 ∧ d.get (LQ_HST_LEASE (l / 4) (l % 4)) = 0 ∧ d.ownsHub l = false ∧ d.get TW_STAT_HANDOFF = 0
    (alone → exec e s = .next ((freshActive { a with chip := d }).onChip fun c => c.forAll c.usedLanes Chip.claimFree)) ∧
    (¬ alone → free → Acts e t s (d.claimLane l 0).checkHandedOver) ∧ (¬ alone → ¬ free → Acts e t s d.checkHandedOver) := by
  obtain ⟨up, found, same⟩ := received
  have run : exec (.epochRecord t l ⟨fr, i⟩) s = .next ((s.at_ t).record l fr i 4 (epochRecord l)) := rfl
  rw [State.record_received up found same] at run
  unfold Acts
  generalize s.at_ t = a at run ⊢
  have noted : epochRecord l r { a with chip := arrived a.chip l fr } = epochNoted l { a with chip := (arrived a.chip l fr).noteOwner l r } := rfl
  rw [noted, Chip.noteOwner_eq] at run
  exact ⟨fun alone => run.trans (congrArg _ (if_pos (Chip.alone_iff.2 alone))),
    fun peer free => run.trans (congrArg _ ((if_neg (mt Chip.alone_iff.1 peer)).trans
      (congrArg (fun d : Chip => { a with chip := d.checkHandedOver }) (if_pos (Chip.claimFree_iff.2 free))))),
    fun peer held => run.trans (congrArg _ ((if_neg (mt Chip.alone_iff.1 peer)).trans
      (congrArg (fun d : Chip => { a with chip := d.checkHandedOver }) (if_neg (mt Chip.claimFree_iff.1 held)))))⟩

theorem checkHandedOver_facts (c : Chip) :
    (c.twin.handoff = none → c.checkHandedOver = c) ∧
    (∀ h, c.twin.handoff = some h →
      let ended : Prop := c.role = 1 ∧ c.usedLanes ≠ [] ∧ ∀ l ∈ c.usedLanes, c.peerOwns l = true
      let d := c.flushJrn.endHandoff
      let d : Chip := { d with twin := { d.twin with mirroring := false, kept := [], claims := [], wait := [] } }
      let d := (d.setRole 2).settleHandlers
      (¬ ended → c.checkHandedOver = c) ∧ (ended → h.forShutdown = false → c.checkHandedOver = d) ∧ (ended → h.forShutdown = true → c.checkHandedOver = d.beginShutdown)) := by
  have ended_iff : (c.role = 1 ∧ !c.usedLanes.isEmpty ∧ c.usedLanes.all c.peerOwns) ↔ c.role = 1 ∧ c.usedLanes ≠ [] ∧ ∀ l ∈ c.usedLanes, c.peerOwns l = true := by
    rw [Bool.not_eq_true', List.isEmpty_eq_false_iff, List.all_eq_true]
  refine ⟨fun none => by rw [Chip.checkHandedOver, none], fun h some => ?_⟩
  rw [Chip.checkHandedOver, some]
  exact ⟨fun not => if_neg (mt ended_iff.1 not), fun ended stays => (if_pos (ended_iff.2 ended)).trans (if_neg (Bool.eq_false_iff.1 stays)),
    fun ended stops => (if_pos (ended_iff.2 ended)).trans (if_pos stops)⟩

/-! ### Claims -/

/-- The claim on lane l that stands first. -/
theorem exists_find_claim {xs : List (Nat × Nat)} {l : Nat} (h : ∃ x ∈ xs, x.1 = l) : ∃ x ∈ xs, x.1 = l ∧ (xs.find? fun e => e.1 = l) = some x := by
  obtain ⟨y, hy, same⟩ := h
  obtain ⟨x, found⟩ : ∃ x, (xs.find? fun e => e.1 = l) = some x := Option.isSome_iff_exists.1 (List.find?_isSome.2 ⟨y, hy, decide_eq_true same⟩)
  have hit := List.find?_some found
  exact ⟨x, List.mem_of_find?_eq_some found, of_decide_eq_true hit, found⟩

theorem find_claim_none {xs : List (Nat × Nat)} {l : Nat} (h : ∀ x ∈ xs, x.1 ≠ l) : (xs.find? fun e => e.1 = l) = none :=
  List.find?_eq_none.2 fun x hx => mt of_decide_eq_true (h x hx)

section
variable {c : Chip} {l : Nat} {r : List Byte}

/-- What a CLAIM_REPLY shows in the registers of lane l. -/
def Chip.replyShown (c : Chip) (l : Nat) (r : List Byte) : Chip :=
  let d := (c.setLane l { c.lane l with owner := fieldAt r 12 4 }).set (LQ_HEP_CUR (l / 4) (l % 4)) (fieldAt r 8 4)
  let d := (d.set (LQ_HST_SELF (l / 4) (l % 4)) (if fieldAt r 12 4 = unitId then 1 else 0)).refreshEpoch
  (d.set (LQ_HST_CLAIM_SEEN (l / 4) (l % 4)) 1).set (LQ_HST_CLAIM_RES (l / 4) (l % 4)) (fieldAt r 2 1)

/-- The round notes a reply. -/
def Chip.replyNoted (d : Chip) (l res : Nat) : Chip := { d with twin := { d.twin with claiming := d.twin.claiming.map fun x => x.note l res } }

/-- What a reply to a claim under way does. -/
def Chip.replied (f : Chip) (l res token : Nat) : Chip :=
  if res = 0 then f.claimAccepted l token
  else if res = 4 ∧ f.get TW_PEER_PEER < unitId then { f with twin := { f.twin with wait := FMap.put 0 f.twin.wait l (f.ns + 30000) } }
  else f

theorem Chip.claimReply_eq : c.claimReply l r = match (c.replyShown l r).twin.claims.find? fun e => e.1 = l with
    | none => c.replyShown l r
    | some (_, token) => ((c.replyShown l r).replyNoted l (fieldAt r 2 1)).replied l (fieldAt r 2 1) token := by
  have self : b2n (fieldAt r 12 4 = unitId) = if fieldAt r 12 4 = unitId then 1 else 0 := ite_of_iff decide_eq_true_iff rfl rfl
  rw [Chip.replyShown, ← self]
  rfl

theorem Chip.claimReply_unclaimed (h : ∀ x ∈ (c.replyShown l r).twin.claims, x.1 ≠ l) : c.claimReply l r = c.replyShown l r := by
  rw [Chip.claimReply_eq, find_claim_none h]

theorem Chip.claimReply_claimed {x : Nat × Nat} (h : ((c.replyShown l r).twin.claims.find? fun e => e.1 = l) = some x) :
    c.claimReply l r = ((c.replyShown l r).replyNoted l (fieldAt r 2 1)).replied l (fieldAt r 2 1) x.2 := by
  rw [Chip.claimReply_eq, h]

/-- A hub accepts: the claim ends, and a STANDBY unit takes over. -/
def Chip.claimTaken (f : Chip) (l token : Nat) : Chip :=
  if ((f.unclaim l).refreshEpoch).role = 2 then ((f.unclaim l).refreshEpoch).takeOver token else (f.unclaim l).refreshEpoch

theorem Chip.claimAccepted_eq {token : Nat} : c.claimAccepted l token =
    if (c.claimTaken l token).twin.claiming.isSome && (c.claimTaken l token).twin.claims.isEmpty then (c.claimTaken l token).endRound else c.claimTaken l token := rfl

theorem Chip.roundDone_iff : (c.twin.claiming.isSome && c.twin.claims.isEmpty) = true ↔ c.twin.claiming ≠ none ∧ c.twin.claims = [] := by
  rw [Bool.and_eq_true, Option.isSome_iff_ne_none, List.isEmpty_iff]

end

theorem claimReply_acts (t : Nat) (l : Fin 96) (fr : List RxBlock) (i : Nat) (r : List Byte) (s : State) (received : Received t l fr i 5 r s) :
    let e := Instr.claimReply t l ⟨fr, i⟩
    let c := arrived (s.at_ t).chip l fr
    let res := fieldAt r 2 1
    let id := fieldAt r 12 4
    let d := (c.setLane l { c.lane l with owner := id }).set (LQ_HEP_CUR (l / 4) (l % 4)) (fieldAt r 8 4)
    let d := (d.set (LQ_HST_SELF (l / 4) (l % 4)) (if id = unitId then 1 else 0)).refreshEpoch
    let d := (d.set (LQ_HST_CLAIM_SEEN (l / 4) (l % 4)) 1).set (LQ_HST_CLAIM_RES (l / 4) (l % 4)) res
    ((∀ x ∈ d.twin.claims, x.1 ≠ l.val) → Acts e t s d) ∧
    ((∃ x ∈ d.twin.claims, x.1 = l.val) → ∃ x ∈ d.twin.claims, x.1 = l.val ∧
      let f : Chip := { d with twin := { d.twin with claiming := d.twin.claiming.map fun x => x.note l res } }
      let g := (f.unclaim l).refreshEpoch
      let g := if g.role = 2 then g.takeOver x.2 else g
      let done : Prop := g.twin.claiming ≠ none ∧ g.twin.claims = []
      let yields : Prop := res = 4 ∧ f.get TW_PEER_PEER < unitId
      (res = 0 → done → Acts e t s g.endRound) ∧ (res = 0 → ¬ done → Acts e t s g) ∧
      (yields → Acts e t s { f with twin := { f.twin with wait := FMap.put 0 f.twin.wait l (f.ns + 30000) } }) ∧ (res ≠ 0 → ¬ yields → Acts e t s f)) := by
  have run : exec (.claimReply t l ⟨fr, i⟩) s = .next ((s.at_ t).record l fr i 5 fun r s => s.onChip (·.claimReply l r)) := rfl
  have acts {d : Chip} := received_acts (d := d) received run
  generalize arrived (s.at_ t).chip l fr = c at acts ⊢
  refine ⟨fun none => acts (Chip.claimReply_unclaimed none), fun some => ?_⟩
  obtain ⟨x, hx, same, found⟩ := exists_find_claim (xs := (c.replyShown l r).twin.claims) some
  have replies {f : Chip} (h : ((c.replyShown l r).replyNoted l (fieldAt r 2 1)).replied l (fieldAt r 2 1) x.2 = f) : Acts (.claimReply t l ⟨fr, i⟩) t s f :=
    acts ((Chip.claimReply_claimed found).trans h)
  exact ⟨x, hx, same, fun accepted done => replies ((if_pos accepted).trans (Chip.claimAccepted_eq.trans (if_pos (Chip.roundDone_iff.2 done)))),
    fun accepted open' => replies ((if_pos accepted).trans (Chip.claimAccepted_eq.trans (if_neg (mt Chip.roundDone_iff.1 open')))),
    fun yields => replies ((if_neg (by omega)).trans (if_pos yields)), fun refused stays => replies ((if_neg refused).trans (if_neg stays))⟩

section
variable {c : Chip} {l : Nat}

/-- The wait after a REFUSED_CONFLICT on lane l is over. -/
def Chip.conflictOver (c : Chip) (l : Nat) : Prop := FMap.get 0 c.twin.wait l ≠ 0 ∧ FMap.get 0 c.twin.wait l ≤ c.ns

/-- Lane l claims again. -/
def Chip.claimedAgain (c : Chip) (l token : Nat) : Chip :=
  ({ c with twin := { c.twin with wait := FMap.put 0 c.twin.wait l 0 } } : Chip).want l (.claim ((c.curOf l + 1) % 2 ^ 32) token)

/-- Claims of the round that still refuse. -/
def Chip.splitBy (c : Chip) (x : ClaimRound) : Prop := ∃ l ∈ x.refused, ∃ y ∈ c.twin.claims, y.1 = l

theorem Chip.splitBy_iff {x : ClaimRound} : (x.refused.any fun l => c.twin.claims.any fun e => e.1 = l) = true ↔ c.splitBy x := by
  simp only [List.any_eq_true, decide_eq_true_iff, Chip.splitBy]

theorem Chip.claimwinExpiry_none (h : c.twin.claiming = none) : c.claimwinExpiry = c := by rw [Chip.claimwinExpiry, h]

variable {x : ClaimRound} (round : c.twin.claiming = some x)
include round

theorem Chip.claimwinExpiry_early (h : ¬ x.since + 1000 * c.get TW_CFG_CLAIMWIN ≤ c.ns) : c.claimwinExpiry = c := by
  rw [Chip.claimwinExpiry, round]
  exact if_pos (Nat.not_le.1 h)

variable (late : x.since + 1000 * c.get TW_CFG_CLAIMWIN ≤ c.ns)
include late

theorem Chip.claimwinExpiry_refused (h : x.accepted = []) : c.claimwinExpiry = ((c.withdrawClaims).set TW_STAT_CLAIMHOLD 1).raise .tw 0 { src := 2 } := by
  rw [Chip.claimwinExpiry, round]
  exact (if_neg (Nat.not_lt.2 late)).trans (if_pos (List.isEmpty_iff.2 h))

theorem Chip.claimwinExpiry_accepted (h : x.accepted ≠ []) : c.claimwinExpiry =
    if x.refused.any fun l => c.twin.claims.any fun e => e.1 = l then c.endRound.raise .tw 0 { src := 3, level := some 4 } else c.endRound := by
  rw [Chip.claimwinExpiry, round]
  exact (if_neg (Nat.not_lt.2 late)).trans (if_neg (mt List.isEmpty_iff.1 h))

end

theorem claimTimes_act (t : Nat) (l : Fin 96) (s : State) :
    let c := (s.at_ t).chip
    let w := FMap.get 0 c.twin.wait l
    let ended : Prop := w ≠ 0 ∧ w ≤ c.ns
    let d : Chip := { c with twin := { c.twin with wait := FMap.put 0 c.twin.wait l 0 } }
    ((∃ x ∈ c.twin.claims, x.1 = l.val) → ended → ∃ x ∈ c.twin.claims, x.1 = l.val ∧
      Acts (.claimConflictWait t l) t s (d.want l (.claim ((d.curOf l + 1) % 2 ^ 32) x.2))) ∧
    (¬ ended ∨ (∀ x ∈ c.twin.claims, x.1 ≠ l.val) → Passes (.claimConflictWait t l) t s) ∧
    (c.twin.claiming = none → Passes (.claimwinExpiry t) t s) ∧
    (∀ x, c.twin.claiming = some x →
      let late : Prop := x.since + 1000 * c.get TW_CFG_CLAIMWIN ≤ c.ns
      let split : Prop := ∃ l ∈ x.refused, ∃ y ∈ c.twin.claims, y.1 = l
      (¬ late → Passes (.claimwinExpiry t) t s) ∧
      (late → x.accepted = [] → Acts (.claimwinExpiry t) t s (((c.withdrawClaims).set TW_STAT_CLAIMHOLD 1).raise .tw 0 { src := 2 })) ∧
      (late → x.accepted ≠ [] → split → Acts (.claimwinExpiry t) t s (c.endRound.raise .tw 0 { src := 3, level := some 4 })) ∧
      (late → x.accepted ≠ [] → ¬ split → Acts (.claimwinExpiry t) t s c.endRound)) := by
  have wait : exec (.claimConflictWait t l) s = execClaimConflictWait t l s := rfl
  unfold execClaimConflictWait at wait
  have window : exec (.claimwinExpiry t) s = .next ((s.at_ t).onChip (·.claimwinExpiry)) := rfl
  have acts {d : Chip} := acts_onChip (d := d) _ wait
  have passes := passes_onChip _ wait
  have ends {d : Chip} := acts_onChip (d := d) _ window
  have goesOn := passes_onChip _ window
  generalize (s.at_ t).chip = c at acts passes ends goesOn ⊢
  refine ⟨fun some ended => ?_, fun not => passes ?_, fun none => goesOn (Chip.claimwinExpiry_none none),
    fun x round => ⟨fun early => goesOn (Chip.claimwinExpiry_early round early), fun late none => ends (Chip.claimwinExpiry_refused round late none),
      fun late some split => ends ((Chip.claimwinExpiry_accepted round late some).trans (if_pos (Chip.splitBy_iff.2 split))),
      fun late some whole => ends ((Chip.claimwinExpiry_accepted round late some).trans (if_neg (mt Chip.splitBy_iff.1 whole)))⟩⟩
  · obtain ⟨x, hx, same, found⟩ := exists_find_claim some
    simp only [found] at acts
    exact ⟨x, hx, same, acts (if_pos ended)⟩
  · split
    · next x y found =>
      have hit := List.find?_some found
      exact if_neg fun done => not.elim (· done) fun none => none _ (List.mem_of_find?_eq_some found) (of_decide_eq_true hit)
    · rfl

/-! ### The planned handoff -/

section
variable {c : Chip}

/-- The token of a handoff: never 0, and not the one before. -/
def Chip.nextToken (d : Chip) (v : Nat) : Nat := if v + 1 < d.twin.lastToken ∨ d.twin.lastToken = 0 then v + 1 else v + 2

theorem Chip.nextToken_facts {v : Nat} (h : v < 2 ^ 32 - 2) : 1 ≤ c.nextToken v ∧ c.nextToken v < 2 ^ 32 ∧ c.nextToken v ≠ c.twin.lastToken := by
  rw [Chip.nextToken]
  split <;> omega

theorem Chip.fresh_lt (c : Chip) {m : Nat} (h : 0 < m) : (c.fresh m).1 < m := Nat.mod_lt _ h

/-- A handoff may begin. -/
theorem Chip.startHandoff_iff : (c.peerStandby ∧ ¬ c.is TW_STAT_HANDOFF) ↔ c.peerStandby = true ∧ c.get TW_STAT_HANDOFF = 0 := by
  rw [Bool.not_eq_true, Chip.is_eq_false_iff]

end

theorem handoff_acts (t : Nat) (m : Fin 8) (s : State) :
    let c := (s.at_ t).chip
    let may : Prop := c.peerStandby = true ∧ c.get TW_STAT_HANDOFF = 0
    let v := (c.fresh (2 ^ 32 - 2)).1
    let d := (c.fresh (2 ^ 32 - 2)).2
    let token := if v + 1 < d.twin.lastToken ∨ d.twin.lastToken = 0 then v + 1 else v + 2
    let hrow := (List.range 16).map fun k => ((d.bar k).rk + 16).toNat
    let f := (d.set TW_STAT_HANDOFF 1).ckpt0.flushJrn
    let f : Chip := { f with twin := { f.twin with handoff := some { th := f.ns, token := token, hrow := hrow, forShutdown := false, failreq := false }, lastToken := token } }
    c.mayWrite m .tw 0 0x50 = true → c.reachable .tw 0 = true →
      (may → Acts (.handoff t m) t s (f.ropeSend .ropeOffer (token :: (List.range 96).map fun l => hrow.getD (f.newest.laneBar l) 0)) ∧
        1 ≤ token ∧ token < 2 ^ 32 ∧ token ≠ d.twin.lastToken) ∧
      (¬ may → Passes (.handoff t m) t s) := by
  have run : exec (.handoff t m) s = .next ((s.at_ t).onChip fun c => c.ownWrite m .tw 0 0x50 (·.startHandoff)) := rfl
  have acts {d : Chip} := acts_onChip (d := d) _ run
  have passes := passes_onChip _ run
  generalize (s.at_ t).chip = c at acts passes ⊢
  exact fun may there => ⟨fun standby => ⟨acts ((Chip.ownWrite_granted may there _).trans (if_pos (Chip.startHandoff_iff.2 standby))),
      Chip.nextToken_facts (c.fresh_lt (by decide))⟩,
    fun not => passes ((Chip.ownWrite_granted may there _).trans (if_neg (mt Chip.startHandoff_iff.1 not)))⟩

section
variable {c : Chip} {h : Handoff}

/-- Chip c after a handoff that has not completed has ended. -/
def Chip.handoffFailed (c : Chip) (h : Handoff) : Chip :=
  let d := c.endHandoff
  let d := (d.forAll (d.serviceLanes.filter d.ownsHub) fun c l => c.want l (.epoch (c.curOf l) 0 0)).raise .tw 0 { src := 11 }
  if h.forShutdown = true then d.raise .hl 0 { src := 14 } else d

theorem Chip.handoffTimeout_none (none : c.twin.handoff = none) : c.handoffTimeout = c := by rw [Chip.handoffTimeout, none]

variable (hands : c.twin.handoff = some h)
include hands

theorem Chip.handoffTimeout_early (early : ¬ h.th + 1000000 ≤ c.ns) : c.handoffTimeout = c := by
  rw [Chip.handoffTimeout, hands]
  exact if_pos (Nat.not_le.1 early)

theorem Chip.handoffTimeout_late (late : h.th + 1000000 ≤ c.ns) : c.handoffTimeout =
    if (c.usedLanes.filter fun l => c.peerOwns l).isEmpty then c.handoffFailed h
    else if !(c.handoffFailed h).twin.peerFailed && (c.handoffFailed h).peerHeard then (c.handoffFailed h).toCatchup 9
    else (c.handoffFailed h).forAll (c.usedLanes.filter fun l => c.peerOwns l) Chip.claimFree := by
  rw [Chip.handoffTimeout, hands]
  exact if_neg (Nat.not_lt.2 late)

end

theorem handoffTimeout_acts (t : Nat) (s : State) :
    let e := Instr.handoffTimeout t
    let c := (s.at_ t).chip
    (c.twin.handoff = none → Passes e t s) ∧
    (∀ h, c.twin.handoff = some h →
      let late : Prop := h.th + 1000000 ≤ c.ns
      let taken := c.usedLanes.filter fun l => c.peerOwns l
      let d := c.endHandoff
      let d := (d.forAll (d.serviceLanes.filter d.ownsHub) fun c l => c.want l (.epoch (c.curOf l) 0 0)).raise .tw 0 { src := 11 }
      let d := if h.forShutdown = true then d.raise .hl 0 { src := 14 } else d
      let heard : Prop := d.twin.peerFailed = false ∧ (d.get TW_STAT_BELAY_HEARD ≠ 0 ∨ d.get TW_STAT_ROPE_HEARD ≠ 0)
      (¬ late → Passes e t s) ∧ (late → taken = [] → Acts e t s d) ∧ (late → taken ≠ [] → heard → Acts e t s (d.toCatchup 9)) ∧
      (late → taken ≠ [] → ¬ heard → Acts e t s (d.forAll taken Chip.claimFree))) := by
  have run : exec (.handoffTimeout t) s = .next ((s.at_ t).onChip (·.handoffTimeout)) := rfl
  have acts {d : Chip} := acts_onChip (d := d) _ run
  have passes := passes_onChip _ run
  generalize (s.at_ t).chip = c at acts passes ⊢
  have heard_iff (d : Chip) : (!d.twin.peerFailed && d.peerHeard) = true ↔ d.twin.peerFailed = false ∧ (d.get TW_STAT_BELAY_HEARD ≠ 0 ∨ d.get TW_STAT_ROPE_HEARD ≠ 0) := by
    rw [Bool.and_eq_true, Bool.not_eq_true', Chip.peerHeard_iff]
  exact ⟨fun none => passes (Chip.handoffTimeout_none none), fun h hands => ⟨fun early => passes (Chip.handoffTimeout_early hands early),
    fun late none => acts ((Chip.handoffTimeout_late hands late).trans (if_pos (List.isEmpty_iff.2 none))),
    fun late some heard => acts ((Chip.handoffTimeout_late hands late).trans ((if_neg (mt List.isEmpty_iff.1 some)).trans (if_pos ((heard_iff _).2 heard)))),
    fun late some alone => acts ((Chip.handoffTimeout_late hands late).trans ((if_neg (mt List.isEmpty_iff.1 some)).trans (if_neg (mt (heard_iff _).1 alone))))⟩⟩

/-! ### Silence -/

section
variable {c : Chip}

/-- A path that was heard has been silent for 100 µs while the other still counts, and it has not been said. -/
theorem silent_iff {told : Bool} {at' other : Option Nat} : (!told && at'.isSome && c.silentFor at' 100000 && !c.silentFor other 100000) = true ↔
    told = false ∧ at' ≠ none ∧ c.silentFor at' 100000 = true ∧ c.silentFor other 100000 = false := by
  simp only [Bool.and_eq_true, Bool.not_eq_true', Option.isSome_iff_ne_none, and_assoc]

theorem Chip.pathSilence_belay : c.pathSilence false =
    if !c.twin.belayTold && c.twin.belayAt.isSome && c.silentFor c.twin.belayAt 100000 && !c.silentFor c.twin.ropeAt 100000 then
      ({ c with twin := { c.twin with belayTold := true } } : Chip).raise .tw 0 { src := 0 } else c := rfl

theorem Chip.pathSilence_rope : c.pathSilence true =
    if !c.twin.ropeTold && c.twin.ropeAt.isSome && c.silentFor c.twin.ropeAt 100000 && !c.silentFor c.twin.belayAt 100000 then
      (if ({ c with twin := { c.twin with ropeTold := true } } : Chip).is TW_STAT_ROPE_UP then
        ({ c with twin := { c.twin with ropeTold := true } } : Chip).forAll [96, 97, 98, 99] Chip.enterLock else { c with twin := { c.twin with ropeTold := true } })
    else c := rfl

end

theorem silence_acts (t : Nat) (s : State) :
    let c := (s.at_ t).chip
    let tw := c.twin
    let told (f : Twin) : Chip := { c with twin := f }
    let dumbBelay : Prop := tw.belayTold = false ∧ tw.belayAt ≠ none ∧ c.silentFor tw.belayAt 100000 = true ∧ c.silentFor tw.ropeAt 100000 = false
    let dumbRope : Prop := tw.ropeTold = false ∧ tw.ropeAt ≠ none ∧ c.silentFor tw.ropeAt 100000 = true ∧ c.silentFor tw.belayAt 100000 = false
    let r := told { tw with ropeTold := true }
    (dumbBelay → Acts (.pathSilence t false) t s ((told { tw with belayTold := true }).raise .tw 0 { src := 0 })) ∧ (¬ dumbBelay → Passes (.pathSilence t false) t s) ∧
    (dumbRope → r.get TW_STAT_ROPE_UP ≠ 0 → Acts (.pathSilence t true) t s (r.forAll [96, 97, 98, 99] Chip.enterLock)) ∧
    (dumbRope → r.get TW_STAT_ROPE_UP = 0 → Acts (.pathSilence t true) t s r) ∧ (¬ dumbRope → Passes (.pathSilence t true) t s) ∧
    (c.silentFor tw.ropeAt 30001 = true → Acts (.peerHeardExpiry t true) t s (c.set TW_STAT_ROPE_HEARD 0)) ∧ (c.silentFor tw.ropeAt 30001 = false → Passes (.peerHeardExpiry t true) t s) ∧
    (c.silentFor tw.belayAt 30001 = true → Acts (.peerHeardExpiry t false) t s (c.set TW_STAT_BELAY_HEARD 0)) ∧ (c.silentFor tw.belayAt 30001 = false → Passes (.peerHeardExpiry t false) t s) ∧
    (∀ (c : Chip) (n : Nat), c.silentFor none n = true) ∧ (∀ (c : Chip) (a n : Nat), c.silentFor (some a) n = true ↔ a + n ≤ c.ns) := by
  have path (rope : Bool) : exec (.pathSilence t rope) s = .next ((s.at_ t).onChip fun c => c.pathSilence rope) := rfl
  have expiry (rope : Bool) : exec (.peerHeardExpiry t rope) s = .next ((s.at_ t).onChip fun c =>
    if c.silentFor (if rope then c.twin.ropeAt else c.twin.belayAt) 30001 then c.set (if rope then TW_STAT_ROPE_HEARD else TW_STAT_BELAY_HEARD) 0 else c) := rfl
  have acts (rope : Bool) {d : Chip} := acts_onChip (d := d) _ (path rope)
  have passes (rope : Bool) := passes_onChip _ (path rope)
  have clears (rope : Bool) {d : Chip} := acts_onChip (d := d) _ (expiry rope)
  have keeps (rope : Bool) := passes_onChip _ (expiry rope)
  generalize (s.at_ t).chip = c at acts passes clears keeps ⊢
  exact ⟨fun dumb => acts false (Chip.pathSilence_belay.trans (if_pos (silent_iff.2 dumb))), fun fine => passes false (Chip.pathSilence_belay.trans (if_neg (mt silent_iff.1 fine))),
    fun dumb up => acts true (Chip.pathSilence_rope.trans ((if_pos (silent_iff.2 dumb)).trans (if_pos (Chip.is_iff.2 up)))),
    fun dumb down => acts true (Chip.pathSilence_rope.trans ((if_pos (silent_iff.2 dumb)).trans (if_neg (mt Chip.is_iff.1 (Classical.not_not.2 down))))),
    fun fine => passes true (Chip.pathSilence_rope.trans (if_neg (mt silent_iff.1 fine))),
    fun old => clears true (if_pos old), fun new => keeps true (if_neg (Bool.eq_false_iff.1 new)),
    fun old => clears false (if_pos old), fun new => keeps false (if_neg (Bool.eq_false_iff.1 new)), fun _ _ => rfl, fun _ _ _ => decide_eq_true_iff⟩

section
variable {c : Chip}

/-- Peer failure is recognised. -/
def Chip.peerLost (c : Chip) : Prop := c.roped = true ∧ c.twin.deciding = false ∧ c.twin.peerFailed = false ∧ c.twin.peerRole ≠ none ∧
  c.silentFor c.twin.belayAt 100000 = true ∧ c.silentFor c.twin.ropeAt 100000 = true

theorem Chip.peerLost_iff : (!c.roped || c.twin.deciding || c.twin.peerFailed || c.twin.peerRole.isNone || !c.silentFor c.twin.belayAt 100000 ||
    !c.silentFor c.twin.ropeAt 100000) = true ↔ ¬ c.peerLost := by
  simp only [Chip.peerLost, Bool.or_eq_true, Bool.not_eq_true', Classical.not_and_iff_not_or_not, Bool.not_eq_true, Bool.not_eq_false, Option.isNone_iff_eq_none, Classical.not_not, or_assoc, ne_eq]

/-- What the loss of the peer does in the unit's role: d is the chip after source 1. -/
def Chip.afterLoss (d : Chip) : Chip :=
  if d.role = 2 ∧ ¬ d.is TW_STAT_CLAIMHOLD then d.startClaim 0
  else if d.role = 3 ∧ ¬ d.twin.stuck then
    (({ d with twin := { d.twin with lost := true, needDt := false } } : Chip).set TW_STAT_REASON 8).raise .tw 0
      { src := 5, detail := ({ d with twin := { d.twin with lost := true, needDt := false } } : Chip).get TW_STAT_SECTIONS }
  else d

theorem Chip.peerFailure_lost (h : c.peerLost) : c.peerFailure =
    (({ c with twin := { c.twin with peerFailed := true, resend := true } } : Chip).raise .tw 0 { src := 1 }).afterLoss :=
  if_neg (mt Chip.peerLost_iff.1 (Classical.not_not.2 h))

theorem Chip.undecided_iff : (c.roped && c.twin.deciding && decide (c.twin.startNs + 1998000000 ≤ c.ns)) = true ↔
    c.roped = true ∧ c.twin.deciding = true ∧ c.twin.startNs + 1998000000 ≤ c.ns := by
  rw [Bool.and_eq_true, Bool.and_eq_true, decide_eq_true_iff, and_assoc]

theorem Chip.afterLoss_claims (role : c.role = 2) (free : c.get TW_STAT_CLAIMHOLD = 0) : c.afterLoss = c.startClaim 0 :=
  if_pos ⟨role, mt Chip.is_iff.1 (Classical.not_not.2 free)⟩

theorem Chip.afterLoss_held (role : c.role = 2) (held : c.get TW_STAT_CLAIMHOLD ≠ 0) : c.afterLoss = c :=
  (if_neg fun h => h.2 (Chip.is_iff.2 held)).trans (if_neg fun h => absurd (role.symm.trans h.1) (by decide))

theorem Chip.afterLoss_other (notStandby : c.role ≠ 2) : c.afterLoss = if c.role = 3 ∧ ¬ c.twin.stuck then
    (({ c with twin := { c.twin with lost := true, needDt := false } } : Chip).set TW_STAT_REASON 8).raise .tw 0
      { src := 5, detail := ({ c with twin := { c.twin with lost := true, needDt := false } } : Chip).get TW_STAT_SECTIONS }
  else c := if_neg fun h => notStandby h.1

end

theorem peerLoss_acts (t : Nat) (s : State) :
    let c := (s.at_ t).chip
    let tw := c.twin
    let failed : Prop := c.roped = true ∧ tw.deciding = false ∧ tw.peerFailed = false ∧ tw.peerRole ≠ none ∧ c.silentFor tw.belayAt 100000 = true ∧ c.silentFor tw.ropeAt 100000 = true
    let d : Chip := { c with twin := { tw with peerFailed := true, resend := true } }
    let d := d.raise .tw 0 { src := 1 }
    let f : Chip := { d with twin := { d.twin with lost := true, needDt := false } }
    let undecided : Prop := c.roped = true ∧ tw.deciding = true ∧ tw.startNs + 1998000000 ≤ c.ns
    let act : Chip := { c with twin := { tw with deciding := false } }
    (¬ failed → Passes (.peerFailure t) t s) ∧
    (failed → d.role = 2 → d.get TW_STAT_CLAIMHOLD = 0 → Acts (.peerFailure t) t s (d.startClaim 0)) ∧
    (failed → d.role = 2 → d.get TW_STAT_CLAIMHOLD ≠ 0 → Acts (.peerFailure t) t s d) ∧
    (failed → d.role = 3 → d.twin.stuck = false → Acts (.peerFailure t) t s ((f.set TW_STAT_REASON 8).raise .tw 0 { src := 5, detail := f.get TW_STAT_SECTIONS })) ∧
    (failed → d.role = 3 → d.twin.stuck = true → Acts (.peerFailure t) t s d) ∧ (failed → d.role ≠ 2 → d.role ≠ 3 → Acts (.peerFailure t) t s d) ∧
    (undecided → Acts (.roleDecisionTimeout t) t s (act.setRole 1)) ∧ (¬ undecided → Passes (.roleDecisionTimeout t) t s) := by
  have failure : exec (.peerFailure t) s = .next ((s.at_ t).onChip (·.peerFailure)) := rfl
  have decision : exec (.roleDecisionTimeout t) s = .next ((s.at_ t).onChip fun c =>
    if c.roped && c.twin.deciding && decide (c.twin.startNs + 1998000000 ≤ c.ns) then c.decideActive else c) := rfl
  have acts {d : Chip} := acts_onChip (d := d) _ failure
  have passes := passes_onChip _ failure
  have decides {d : Chip} := acts_onChip (d := d) _ decision
  have waits := passes_onChip _ decision
  generalize (s.at_ t).chip = c at acts passes decides waits ⊢
  exact ⟨fun alive => passes (if_pos (Chip.peerLost_iff.2 alive)),
    fun failed role free => acts ((Chip.peerFailure_lost failed).trans (Chip.afterLoss_claims role free)),
    fun failed role held => acts ((Chip.peerFailure_lost failed).trans (Chip.afterLoss_held role held)),
    fun failed role moves => acts ((Chip.peerFailure_lost failed).trans ((Chip.afterLoss_other fun two => absurd (two.symm.trans role) (by decide)).trans (if_pos ⟨role, Bool.eq_false_iff.1 moves⟩))),
    fun failed role stuck => acts ((Chip.peerFailure_lost failed).trans ((Chip.afterLoss_other fun two => absurd (two.symm.trans role) (by decide)).trans (if_neg fun h => h.2 stuck))),
    fun failed no2 no3 => acts ((Chip.peerFailure_lost failed).trans ((Chip.afterLoss_other no2).trans (if_neg fun h => no3 h.1))),
    fun late => decides (if_pos (Chip.undecided_iff.2 late)), fun not => waits (if_neg (mt Chip.undecided_iff.1 not))⟩

/-- Settles O50: EPOCH records, claims and their rounds, the planned handoff, silence and the loss of the peer. -/
theorem ownershipClaimsAndPeerLoss : Obligations.OwnershipClaimsAndPeerLoss :=
  ⟨epochRecord_acts, checkHandedOver_facts, claimReply_acts, claimTimes_act, handoff_acts, handoffTimeout_acts, silence_acts, peerLoss_acts⟩

end Sys2Proof.Machine
end

section
/-!
PROOFS. Hub records (R277, R284, R285, R289, R302 to R304, R306), EEPROM accesses (R303, R307) and the frames that go out regularly (R290, R292, R297, R300).
-/
namespace Sys2Proof.Machine

/-! ### Echoes (R284, R285) -/

section
variable {c : Chip} {l k n : Nat} {r : List Byte} {h : HeadRow}

/-- The head that a record names. -/
def namedHead (l : Nat) (r : List Byte) : Nat := 16 * l + bits (fieldAt r 1 1) 1 5 % 16

/-- The ECHO is OK with the DCRC that was framed. -/
def EchoGood (r : List Byte) (h : HeadRow) : Prop := fieldAt r 2 1 = 0 ∧ fieldAt r 8 4 = h.dcrc

/-- The head's row n of bar k is verified. -/
def Chip.verified (c : Chip) (l k n head : Nat) : Chip :=
  let i := c.checker .lq (l / 4) (20 + l % 4) (l % 4)
  let f := if i.1 = true then i.2.raise .lq (l / 4) { src := 20 + l % 4, cell := l % 4, inj := true } else i.2
  ((f.setHeadRow k n head fun h => { h with ok := true }).noteLead k n).noteEchoed k n

theorem Chip.echo_unknown (hr : c.findRow (namedHead l r) (fieldAt r 4 4) = none) : c.echo l r = c := by
  rw [namedHead] at hr
  rw [Chip.echo, hr]

theorem Chip.echo_headless (hr : c.findRow (namedHead l r) (fieldAt r 4 4) = some (k, n)) (hh : c.headRow? k n (namedHead l r) = none) : c.echo l r = c := by
  rw [namedHead] at hr hh
  simp only [Chip.echo, hr, hh]

theorem Chip.echo_known (hr : c.findRow (namedHead l r) (fieldAt r 4 4) = some (k, n)) (hh : c.headRow? k n (namedHead l r) = some h) :
    c.echo l r = if h.ok || h.launched.isNone then c else if fieldAt r 2 1 = 0 ∧ fieldAt r 8 4 = h.dcrc then c.verified l k n (namedHead l r)
      else c.resendRow l k n h := by
  rw [namedHead] at hr hh
  simp only [Chip.echo, hr, hh]
  rfl

theorem echo_acts (t : Nat) (l : Fin 96) (fr : List RxBlock) (i : Nat) (r : List Byte) (s : State) (received : Received t l fr i 1 r s) :
    let e := Instr.echo t l ⟨fr, i⟩
    let d := arrived (s.at_ t).chip l fr
    let head := 16 * l + bits (fieldAt r 1 1) 1 5 % 16
    let good : Prop := fieldAt r 2 1 = 0
    (d.findRow head (fieldAt r 4 4) = none → Acts e t s d) ∧
    (∀ k n, d.findRow head (fieldAt r 4 4) = some (k, n) →
      (d.headRow? k n head = none → Acts e t s d) ∧
      (∀ h, d.headRow? k n head = some h →
        (h.ok = true ∨ h.launched = none → Acts e t s d) ∧
        (h.ok = false → h.launched ≠ none → good → fieldAt r 8 4 = h.dcrc →
          let i := d.checker .lq (l / 4) (20 + l % 4) (l % 4)
          let f := if i.1 = true then i.2.raise .lq (l / 4) { src := 20 + l % 4, cell := l % 4, inj := true } else i.2
          Acts e t s (((f.setHeadRow k n head fun h => { h with ok := true }).noteLead k n).noteEchoed k n)) ∧
        (h.ok = false → h.launched ≠ none → ¬ good ∨ fieldAt r 8 4 ≠ h.dcrc → Acts e t s (d.resendRow l k n h)))) := by
  have run : exec (.echo t l ⟨fr, i⟩) s = .next ((s.at_ t).record l fr i 1 fun r s => s.onChip (·.echo l r)) := rfl
  have acts {d : Chip} := received_acts (d := d) received run
  refine ⟨fun hr => acts (Chip.echo_unknown hr), fun k n hr => ⟨fun hh => acts (Chip.echo_headless hr hh), fun h hh => ?_⟩⟩
  have known := Chip.echo_known hr hh
  have closed : (h.ok || h.launched.isNone) = true ↔ h.ok = true ∨ h.launched = none := by rw [Bool.or_eq_true, Option.isNone_iff_eq_none]
  have waiting (bad : h.ok = false) (sent : h.launched ≠ none) : ¬ (h.ok || h.launched.isNone) = true :=
    fun e => (closed.1 e).elim (fun ok => by rw [bad] at ok; exact Bool.noConfusion ok) sent
  exact ⟨fun done => acts (known.trans (if_pos (closed.2 done))),
    fun bad sent ok crc => acts (known.trans ((if_neg (waiting bad sent)).trans (if_pos ⟨ok, crc⟩))),
    fun bad sent wrong => acts (known.trans ((if_neg (waiting bad sent)).trans (if_neg fun e => wrong.elim (· e.1) (· e.2))))⟩

/-- The launch of h has had no ECHO within 20 µs. -/
def HeadRow.unechoed (now : Nat) (h : HeadRow) : Prop := ∃ sent ∈ h.launched, h.ok = false ∧ sent + 20000 ≤ now

/-- A head-row that a missing ECHO may concern is judged. -/
def Chip.echoJudged (c : Chip) (l k n : Nat) (h : HeadRow) : Chip :=
  match h.launched with
  | some at' => if !h.ok ∧ at' + 20000 ≤ c.ns then c.resendRow l k n h else c
  | none => c

/-- What the absence of an ECHO does. -/
def Chip.echoLate (c : Chip) (l head row : Nat) : Chip :=
  match c.findRow head row with
  | none => c
  | some (k, n) => match c.headRow? k n head with
    | none => c
    | some h => c.echoJudged l k n h

theorem Chip.echoJudged_late {sent : Nat} (hl : h.launched = some sent) (bad : h.ok = false) (late : sent + 20000 ≤ c.ns) :
    c.echoJudged l k n h = c.resendRow l k n h := by
  rw [Chip.echoJudged, hl]
  exact if_pos ⟨by rw [bad]; rfl, late⟩

theorem Chip.echoJudged_early (early : ¬ h.unechoed c.ns) : c.echoJudged l k n h = c := by
  rw [Chip.echoJudged]
  split
  · next sent hl => exact if_neg fun e => early ⟨sent, hl, by simpa using e.1, e.2⟩
  · rfl

theorem Chip.echoLate_early {head row : Nat} (early : ¬ ∃ x ∈ c.findRow head row, ∃ h ∈ c.headRow? x.1 x.2 head, h.unechoed c.ns) :
    c.echoLate l head row = c := by
  rw [Chip.echoLate]
  split
  · rfl
  · next k n hr =>
    split
    · rfl
    · next h hh => exact Chip.echoJudged_early fun late => early ⟨(k, n), hr, h, hh, late⟩

theorem Chip.echoLate_known {head row : Nat} (hr : c.findRow head row = some (k, n)) (hh : c.headRow? k n head = some h) :
    c.echoLate l head row = c.echoJudged l k n h := by
  simp only [Chip.echoLate, hr, hh]

end

theorem echoTimeout_acts (t : Nat) (l : Fin 96) (a : Fin 16) (row : Nat) (s : State) :
    let e := Instr.echoTimeout t l a row
    let c := (s.at_ t).chip
    let head := 16 * l.val + a.val
    let late : Prop := ∃ x ∈ c.findRow head row, ∃ h ∈ c.headRow? x.1 x.2 head, ∃ sent ∈ h.launched, h.ok = false ∧ sent + 20000 ≤ c.ns
    (¬ late → Passes e t s) ∧
    (∀ k n h sent, c.findRow head row = some (k, n) → c.headRow? k n head = some h → h.launched = some sent → h.ok = false → sent + 20000 ≤ c.ns →
      Acts e t s (c.resendRow l k n h)) ∧
    (∀ (c : Chip) (k n : Nat) (h : HeadRow), (h.tries < 4 → c.resendRow l k n h = ((c.setHeadRow k n h.head fun h => { h with launched := none }).enqueue l (.row k n h.head)).bump
      (LQ_HERR_RESENDS (l / 4) (l % 4))) ∧ (4 ≤ h.tries → c.resendRow l k n h = c.fenceLane l 0 (20 + l % 4) true)) := by
  have run : exec (.echoTimeout t l a row) s = .next ((s.at_ t).onChip (·.echoLate l (16 * l.val + a.val) row)) := rfl
  have acts {d : Chip} := acts_onChip (d := d) _ run
  have passes := passes_onChip _ run
  generalize (s.at_ t).chip = c at acts passes ⊢
  exact ⟨fun early => passes (Chip.echoLate_early early),
    fun k n h sent hr hh hl bad late => acts ((Chip.echoLate_known hr hh).trans (Chip.echoJudged_late hl bad late)),
    fun c k n h => ⟨fun more => if_pos more, fun enough => if_neg (Nat.not_lt.2 enough)⟩⟩

/-! ### Acknowledgements (R289) -/

section
variable {c : Chip} {l : Nat} {r : List Byte}

/-- The stamp frames that stay unacknowledged. -/
def Chip.unackedLeft (c : Chip) (l : Nat) (r : List Byte) : List SentStamps :=
  (c.lane l).unacked.filter fun f => decide (¬ (f.bank = fieldAt r 1 1 % 2 ∧ (fieldAt r 4 4 + 2 ^ 32 - f.fseq) % 2 ^ 32 < 2 ^ 31))

/-- The lane's stamp frames but those that an ACK covers. -/
def Chip.acked (c : Chip) (l : Nat) (r : List Byte) : Chip := c.setLane l { c.lane l with unacked := c.unackedLeft l r }

/-- A stamp frame that an ACK names. -/
def NamedByAck (r : List Byte) (f : SentStamps) : Prop := f.bank = fieldAt r 1 1 % 2 ∧ f.fseq = fieldAt r 8 4

theorem namedByAck_iff {f : SentStamps} : (f.bank = fieldAt r 1 1 % 2 && f.fseq = fieldAt r 8 4) = true ↔ NamedByAck r f := by
  rw [Bool.and_eq_true, decide_eq_true_iff, decide_eq_true_iff, NamedByAck]

theorem not_covered_eq (r : List Byte) : (fun f : SentStamps => f.bank ≠ fieldAt r 1 1 % 2 || decide (2 ^ 31 ≤ (fieldAt r 4 4 + 2 ^ 32 - f.fseq) % 2 ^ 32)) =
    fun f => decide (¬ (f.bank = fieldAt r 1 1 % 2 ∧ (fieldAt r 4 4 + 2 ^ 32 - f.fseq) % 2 ^ 32 < 2 ^ 31)) := by
  funext f
  rw [Bool.eq_iff_iff, Bool.or_eq_true, decide_eq_true_iff, decide_eq_true_iff, decide_eq_true_iff, Classical.not_and_iff_not_or_not, Nat.not_lt]

theorem Chip.ack_eq : c.ack l r = if bit (fieldAt r 2 1) 0 then
    match (c.unackedLeft l r).find? fun f => f.bank = fieldAt r 1 1 % 2 && f.fseq = fieldAt r 8 4 with
    | some f => (c.acked l r).resendStamps l f
    | none => c.acked l r
  else c.acked l r := by
  rw [Chip.acked, Chip.unackedLeft, ← not_covered_eq]
  rfl

theorem Chip.ack_done (h : ¬ bit (fieldAt r 2 1) 0 = true ∨ ∀ f ∈ c.unackedLeft l r, ¬ NamedByAck r f) : c.ack l r = c.acked l r := by
  rw [Chip.ack_eq]
  split
  · next asks =>
    rw [List.find?_eq_none.2 fun f hf e => (h.resolve_left (Classical.not_not.2 asks)) f hf (namedByAck_iff.1 e)]
  · rfl

theorem Chip.ack_resends (asks : bit (fieldAt r 2 1) 0 = true) (named : ∃ f ∈ c.unackedLeft l r, NamedByAck r f) :
    ∃ f ∈ c.unackedLeft l r, NamedByAck r f ∧ c.ack l r = (c.acked l r).resendStamps l f := by
  have some : ((c.unackedLeft l r).find? fun f => f.bank = fieldAt r 1 1 % 2 && f.fseq = fieldAt r 8 4).isSome := by
    obtain ⟨f, hf, hn⟩ := named
    exact List.find?_isSome.2 ⟨f, hf, namedByAck_iff.2 hn⟩
  obtain ⟨f, found⟩ := Option.isSome_iff_exists.1 some
  have hit := List.find?_some found
  refine ⟨f, List.mem_of_find?_eq_some found, namedByAck_iff.1 hit, ?_⟩
  rw [Chip.ack_eq, if_pos asks, found]

end

theorem ack_acts (t : Nat) (l : Fin 96) (fr : List RxBlock) (i : Nat) (r : List Byte) (s : State) (received : Received t l fr i 2 r s) :
    let e := Instr.ack t l ⟨fr, i⟩
    let d := arrived (s.at_ t).chip l fr
    let bank := fieldAt r 1 1 % 2
    let covered (f : SentStamps) : Prop := f.bank = bank ∧ (fieldAt r 4 4 + 2 ^ 32 - f.fseq) % 2 ^ 32 < 2 ^ 31
    let keep := (d.lane l).unacked.filter fun f => decide (¬ covered f)
    let d := d.setLane l { d.lane l with unacked := keep }
    let named (f : SentStamps) : Prop := f.bank = bank ∧ f.fseq = fieldAt r 8 4
    let asks : Prop := bit (fieldAt r 2 1) 0 = true
    (¬ asks ∨ (∀ f ∈ keep, ¬ named f) → Acts e t s d) ∧
    (asks → (∃ f ∈ keep, named f) → ∃ f ∈ keep, named f ∧ Acts e t s (d.resendStamps l f)) := by
  have run : exec (.ack t l ⟨fr, i⟩) s = .next ((s.at_ t).record l fr i 2 fun r s => s.onChip (·.ack l r)) := rfl
  have acts {d : Chip} := received_acts (d := d) received run
  refine ⟨fun done => acts (Chip.ack_done done), fun asks named => ?_⟩
  obtain ⟨f, kept, hn, eq⟩ := Chip.ack_resends asks named
  exact ⟨f, kept, hn, acts eq⟩

/-- The stamp frame with FSEQ has had no ACK within 20 µs. -/
def SentStamps.unanswered (seq now : Nat) (f : SentStamps) : Prop := f.fseq = seq ∧ f.at_ + 20000 ≤ now

/-- What the absence of an ACK does. -/
def Chip.ackLate (c : Chip) (l seq : Nat) : Chip :=
  match (c.lane l).unacked.find? fun f => f.fseq = seq && decide (f.at_ + 20000 ≤ c.ns) with
  | some f => c.resendStamps l f
  | none => c

theorem SentStamps.unanswered_iff {f : SentStamps} {seq now : Nat} : (f.fseq = seq && decide (f.at_ + 20000 ≤ now)) = true ↔ f.unanswered seq now := by
  rw [Bool.and_eq_true, decide_eq_true_iff, decide_eq_true_iff, SentStamps.unanswered]

theorem Chip.ackLate_none {c : Chip} {l seq : Nat} (h : ∀ f ∈ (c.lane l).unacked, ¬ f.unanswered seq c.ns) : c.ackLate l seq = c := by
  rw [Chip.ackLate, List.find?_eq_none.2 fun f hf e => h f hf (SentStamps.unanswered_iff.1 e)]

theorem Chip.ackLate_some {c : Chip} {l seq : Nat} (h : ∃ f ∈ (c.lane l).unacked, f.unanswered seq c.ns) :
    ∃ f ∈ (c.lane l).unacked, f.unanswered seq c.ns ∧ c.ackLate l seq = c.resendStamps l f := by
  have some : ((c.lane l).unacked.find? fun f => f.fseq = seq && decide (f.at_ + 20000 ≤ c.ns)).isSome := by
    obtain ⟨f, hf, old⟩ := h
    exact List.find?_isSome.2 ⟨f, hf, SentStamps.unanswered_iff.2 old⟩
  obtain ⟨f, found⟩ := Option.isSome_iff_exists.1 some
  have hit := List.find?_some found
  refine ⟨f, List.mem_of_find?_eq_some found, SentStamps.unanswered_iff.1 hit, ?_⟩
  rw [Chip.ackLate, found]

theorem ackTimeout_acts (t : Nat) (l : Fin 96) (seq : Nat) (s : State) :
    let c := (s.at_ t).chip
    let old (f : SentStamps) : Prop := f.fseq = seq ∧ f.at_ + 20000 ≤ c.ns
    ((∃ f ∈ (c.lane l).unacked, old f) → ∃ f ∈ (c.lane l).unacked, old f ∧ Acts (.ackTimeout t l seq) t s (c.resendStamps l f)) ∧
    ((∀ f ∈ (c.lane l).unacked, ¬ old f) → Passes (.ackTimeout t l seq) t s) := by
  have run : exec (.ackTimeout t l seq) s = .next ((s.at_ t).onChip (·.ackLate l seq)) := rfl
  have acts {d : Chip} := acts_onChip (d := d) _ run
  have passes := passes_onChip _ run
  generalize (s.at_ t).chip = c at acts passes ⊢
  refine ⟨fun late => ?_, fun none => passes (Chip.ackLate_none none)⟩
  obtain ⟨f, hf, old, eq⟩ := Chip.ackLate_some late
  exact ⟨f, hf, old, acts eq⟩

/-! ### Stamps that are sent again (R289) -/

section
variable {c : Chip} {l : Nat} {f : SentStamps}

/-- The rows and heads of a stamp frame of lane l. -/
def SentStamps.heads (f : SentStamps) (l : Nat) : List (Nat × Nat) := f.es.flatMap fun e => (setBits 16 e.2).map fun a => (e.1, 16 * l + a)

/-- The chip when stamp frame f no longer waits for its ACK and counts as sent again. -/
def Chip.unwaited (c : Chip) (l : Nat) (f : SentStamps) : Chip :=
  (c.freeze.setLane l { c.freeze.lane l with unacked := (c.freeze.lane l).unacked.filter (· ≠ f) }).bump (LQ_HERR_RESENDS (l / 4) (l % 4))

/-- The head-row of a row as framed and a head. -/
def Chip.rowOf (c : Chip) (e : Nat × Nat) : Option HeadRow := (c.findRow e.2 (e.1 % 2 ^ 32)).bind fun x => c.headRow? x.1 x.2 e.2

/-- The stamp of a row and head is frozen. -/
def Chip.frozenAt (c : Chip) (e : Nat × Nat) : Bool :=
  match c.findRow e.2 (e.1 % 2 ^ 32) with
  | some (k, n) => (match c.headRow? k n e.2 with | some h => h.frozen | none => false)
  | none => false

/-- The current stamp of a row and head waits again, unless it is frozen or a value waits already. -/
def Chip.stampAgain (c : Chip) (e : Nat × Nat) : Chip :=
  match c.findRow e.2 (e.1 % 2 ^ 32) with
  | some (k, n) => c.setHeadRow k n e.2 fun h => if h.frozen || h.queued.isSome then h else { h with queued := h.stamp }
  | none => c

theorem Chip.frozenAt_iff {e : Nat × Nat} : c.frozenAt e = true ↔ ∃ h ∈ c.rowOf e, h.frozen = true := by
  rw [Chip.frozenAt, Chip.rowOf]
  cases hr : c.findRow e.2 (e.1 % 2 ^ 32) with
  | none => simp
  | some x => cases hh : c.headRow? x.1 x.2 e.2 with
    | none => simp [hh]
    | some h => simp [hh]

theorem Chip.resendStamps_eq : c.resendStamps l f = match (f.heads l).find? (c.unwaited l f).frozenAt with
    | some e => ((c.unwaited l f).forAll (f.heads l) Chip.stampAgain).raise .lq (l / 4) { src := 24, cell := l % 4, detail := packRow (some e.1) (some e.2) none }
    | none => (c.unwaited l f).forAll (f.heads l) Chip.stampAgain := rfl

theorem Chip.resendStamps_live (h : ∀ e ∈ f.heads l, ∀ x ∈ (c.unwaited l f).rowOf e, x.frozen = false) :
    c.resendStamps l f = (c.unwaited l f).forAll (f.heads l) Chip.stampAgain := by
  have none : (f.heads l).find? (c.unwaited l f).frozenAt = none := List.find?_eq_none.2 fun e he frozen => by
    obtain ⟨x, hx, hf⟩ := Chip.frozenAt_iff.1 frozen
    rw [h e he x hx] at hf
    exact Bool.noConfusion hf
  rw [Chip.resendStamps_eq, none]

theorem Chip.resendStamps_frozen (h : ∃ e ∈ f.heads l, ∃ x ∈ (c.unwaited l f).rowOf e, x.frozen = true) :
    ∃ e ∈ f.heads l, (∃ x ∈ (c.unwaited l f).rowOf e, x.frozen = true) ∧ c.resendStamps l f =
      ((c.unwaited l f).forAll (f.heads l) Chip.stampAgain).raise .lq (l / 4) { src := 24, cell := l % 4, detail := packRow (some e.1) (some e.2) none } := by
  have some : ((f.heads l).find? (c.unwaited l f).frozenAt).isSome := by
    obtain ⟨e, he, frozen⟩ := h
    exact List.find?_isSome.2 ⟨e, he, Chip.frozenAt_iff.2 frozen⟩
  obtain ⟨e, found⟩ := Option.isSome_iff_exists.1 some
  have hit := List.find?_some found
  refine ⟨e, List.mem_of_find?_eq_some found, Chip.frozenAt_iff.1 hit, ?_⟩
  rw [Chip.resendStamps_eq, found]

end

theorem resendStamps_facts (c : Chip) (l : Nat) (f : SentStamps) :
    let d := c.freeze
    let hs := f.es.flatMap fun e => (setBits 16 e.2).map fun a => (e.1, 16 * l + a)
    let g := (d.setLane l { d.lane l with unacked := (d.lane l).unacked.filter (· ≠ f) }).bump (LQ_HERR_RESENDS (l / 4) (l % 4))
    let row (g : Chip) (e : Nat × Nat) : Option HeadRow := (g.findRow e.2 (e.1 % 2 ^ 32)).bind fun x => g.headRow? x.1 x.2 e.2
    let again := g.forAll hs fun c e => match c.findRow e.2 (e.1 % 2 ^ 32) with
      | some (k, n) => c.setHeadRow k n e.2 fun h => if h.frozen || h.queued.isSome then h else { h with queued := h.stamp }
      | none => c
    ((∀ e ∈ hs, ∀ h ∈ row g e, h.frozen = false) → c.resendStamps l f = again) ∧
    ((∃ e ∈ hs, ∃ h ∈ row g e, h.frozen = true) → ∃ e ∈ hs, (∃ h ∈ row g e, h.frozen = true) ∧
      c.resendStamps l f = again.raise .lq (l / 4) { src := 24, cell := l % 4, detail := packRow (some e.1) (some e.2) none }) :=
  ⟨fun live => Chip.resendStamps_live live, fun frozen => Chip.resendStamps_frozen frozen⟩

/-! ### Reports, temperatures, hub data (R302 to R306) -/

theorem reports_act (t : Nat) (l : Fin 96) (fr : List RxBlock) (i : Nat) (r : List Byte) (s : State) :
    let d := arrived (s.at_ t).chip l fr
    let n := d.bump (LQ_HERR_REPORTS (l / 4) (l % 4))
    let head := 16 * l.val + bits (fieldAt r 1 1) 1 5 % 16
    let a := fieldAt r 1 1 % 16
    let m := 16 * (l.val % 4) + a
    let v := (d.set (LQ_HTEMP_VALID (l / 4) m) (fieldAt r 2 1)).set (LQ_HTEMP_TEMP (l / 4) m) (fieldAt r 4 2)
    (Received t l fr i 3 r s → bit (fieldAt r 1 1) 0 = true → Acts (.fireReport t l ⟨fr, i⟩) t s n) ∧
    (Received t l fr i 3 r s → bit (fieldAt r 1 1) 0 = false → Acts (.fireReport t l ⟨fr, i⟩) t s
      (n.raise .lq (l / 4) { src := 25, cell := l % 4, detail := packRow (some (fieldAt r 4 4)) (some head) none })) ∧
    (Received t l fr i 6 r s → Acts (.tempRecord t l ⟨fr, i⟩) t s { v with lanes := { v.lanes with tempAt := FMap.put 0 v.lanes.tempAt (16 * l.val + a) v.ns } }) ∧
    (Received t l fr i 8 r s → Acts (.hubInfo t l ⟨fr, i⟩) t s (d.set (LQ_HST_PRESENT (l / 4) (l % 4)) (fieldAt r 8 2))) := by
  have report : exec (.fireReport t l ⟨fr, i⟩) s = .next ((s.at_ t).record l fr i 3 fun r s => s.onChip (·.fireReport l r)) := rfl
  have temp : exec (.tempRecord t l ⟨fr, i⟩) s = .next ((s.at_ t).record l fr i 6 fun r s => s.onChip (·.tempRecord l r)) := rfl
  have info : exec (.hubInfo t l ⟨fr, i⟩) s = .next ((s.at_ t).record l fr i 8 fun r s => s.onChip (·.set (LQ_HST_PRESENT (l / 4) (l % 4)) (fieldAt r 8 2))) := rfl
  exact ⟨fun received live => received_acts received report (if_pos live),
    fun received shadow => received_acts received report (if_neg (Bool.eq_false_iff.1 shadow)),
    fun received => received_acts received temp rfl, fun received => received_acts received info rfl⟩

/-! ### Head EEPROMs (R303, R307) -/

section
variable {c : Chip} {q v : Nat}

/-- The operands of an access show. -/
def Chip.hcmdShown (c : Chip) (q v : Nat) : Chip :=
  let d := ((c.set (LQ_HCMD_WRITE q) (bits v 30 1)).set (LQ_HCMD_LANE q) (bits v 28 2)).set (LQ_HCMD_ADDR q) (bits v 24 4)
  (d.set (LQ_HCMD_COUNT q) (max 1 (min 8 (bits v 20 4)))).set (LQ_HCMD_EEADDR q) (bits v 0 16)

/-- An access of quad q begins. -/
def Chip.eeBegun (c : Chip) (q v : Nat) : Chip :=
  let w := bit v 30
  let lane := 4 * q + bits v 28 2
  let n := max 1 (min 8 (bits v 20 4))
  let tag := FMap.get 0 c.lanes.eeTag q
  let f : Chip := { c with lanes := { c.lanes with eeTag := FMap.put 0 c.lanes.eeTag q ((tag + 1) % 256) } }
  let f := f.eeSet q (some { lane := lane, addr := bits v 24 4, tag := tag, write := w, since := f.ns })
  f.enqueue lane (.ctrl (if w then 3 else 2) (bits v 24 4) tag n (bits v 0 16) (if w then (le 8 (f.get (LQ_HDATA_DATA q))).take n else []))

/-- A START is judged. -/
def Chip.eeStarted (c : Chip) (q v : Nat) : Chip :=
  if bit v 30 && !c.writeTemp then c.eeEnd q 4
  else if bit v 30 && c.is (LQ_HST_OWNER q ((4 * q + bits v 28 2) % 4)) && !c.ownsHub (4 * q + bits v 28 2) then c.eeEnd q 6
  else c.eeBegun q v

theorem Chip.writeHcmd_eq : c.writeHcmd q v = if (FMap.get none c.lanes.ee q).isSome && bit v 31 then c
    else if !bit v 31 then c.hcmdShown q v else ((c.hcmdShown q v).set (LQ_HRES_DONE q) 0).eeStarted q v := rfl

theorem Chip.writeHcmd_running (running : FMap.get none c.lanes.ee q ≠ none) (start : bit v 31 = true) : c.writeHcmd q v = c := by
  refine if_pos ?_
  rw [start, Option.isSome_iff_ne_none.2 running]
  rfl

theorem Chip.writeHcmd_shows (h : bit v 31 = false) : c.writeHcmd q v = c.hcmdShown q v := by
  rw [Chip.writeHcmd_eq, h, Bool.and_false]
  rfl

theorem Chip.writeHcmd_starts (free : ¬ FMap.get none c.lanes.ee q ≠ none) (start : bit v 31 = true) :
    c.writeHcmd q v = ((c.hcmdShown q v).set (LQ_HRES_DONE q) 0).eeStarted q v := by
  rw [Chip.writeHcmd_eq, Classical.not_not.1 free, start]
  rfl

/-- A write in the cold or the heat (R303). -/
def Chip.coldWrite (c : Chip) (v : Nat) : Prop := bit v 30 = true ∧ c.writeTemp = false

/-- A write to a hub that another unit owns. -/
def Chip.foreignWrite (c : Chip) (q v : Nat) : Prop :=
  bit v 30 = true ∧ c.get (LQ_HST_OWNER q ((4 * q + bits v 28 2) % 4)) ≠ 0 ∧ c.ownsHub (4 * q + bits v 28 2) = false

theorem Chip.coldWrite_iff : (bit v 30 && !c.writeTemp) = true ↔ c.coldWrite v := by rw [Bool.and_eq_true, Bool.not_eq_true', Chip.coldWrite]

theorem Chip.foreignWrite_iff : (bit v 30 && c.is (LQ_HST_OWNER q ((4 * q + bits v 28 2) % 4)) && !c.ownsHub (4 * q + bits v 28 2)) = true ↔ c.foreignWrite q v := by
  rw [Bool.and_eq_true, Bool.and_eq_true, Bool.not_eq_true', Chip.is_iff, and_assoc, Chip.foreignWrite]

theorem Chip.eeStarted_cold (cold : c.coldWrite v) : c.eeStarted q v = c.eeEnd q 4 := if_pos (Chip.coldWrite_iff.2 cold)

theorem Chip.eeStarted_foreign (warm : ¬ c.coldWrite v) (foreign : c.foreignWrite q v) : c.eeStarted q v = c.eeEnd q 6 :=
  (if_neg (mt Chip.coldWrite_iff.1 warm)).trans (if_pos (Chip.foreignWrite_iff.2 foreign))

theorem Chip.eeStarted_begins (warm : ¬ c.coldWrite v) (own : ¬ c.foreignWrite q v) : c.eeStarted q v = c.eeBegun q v :=
  (if_neg (mt Chip.coldWrite_iff.1 warm)).trans (if_neg (mt Chip.foreignWrite_iff.1 own))

end

theorem eeAccess_acts (t : Nat) (m : Fin 8) (q : Fin 24) (v : BitVec 32) (s : State) :
    let e := Instr.eeAccess t m q v
    let c := (s.at_ t).chip
    let running : Prop := FMap.get none c.lanes.ee q ≠ none
    let w := bit v.toNat 30
    let lane := 4 * q + bits v.toNat 28 2
    let n := max 1 (min 8 (bits v.toNat 20 4))
    let d := ((c.set (LQ_HCMD_WRITE q) (bits v.toNat 30 1)).set (LQ_HCMD_LANE q) (bits v.toNat 28 2)).set (LQ_HCMD_ADDR q) (bits v.toNat 24 4)
    let d := (d.set (LQ_HCMD_COUNT q) n).set (LQ_HCMD_EEADDR q) (bits v.toNat 0 16)
    let go := d.set (LQ_HRES_DONE q) 0
    let cold : Prop := w = true ∧ go.writeTemp = false
    let foreign : Prop := w = true ∧ go.get (LQ_HST_OWNER q (lane % 4)) ≠ 0 ∧ go.ownsHub lane = false
    let tag := FMap.get 0 go.lanes.eeTag q
    let f : Chip := { go with lanes := { go.lanes with eeTag := FMap.put 0 go.lanes.eeTag q ((tag + 1) % 256) } }
    let f := f.eeSet q (some { lane := lane, addr := bits v.toNat 24 4, tag := tag, write := w, since := f.ns })
    c.mayWrite m .lq q 0x50 = true → c.reachable .lq q = true →
      (running → bit v.toNat 31 = true → Passes e t s) ∧ (bit v.toNat 31 = false → Acts e t s d) ∧
      (¬ running → bit v.toNat 31 = true → cold → Acts e t s (go.eeEnd q 4)) ∧
      (¬ running → bit v.toNat 31 = true → ¬ cold → foreign → Acts e t s (go.eeEnd q 6)) ∧
      (¬ running → bit v.toNat 31 = true → ¬ cold → ¬ foreign → Acts e t s (f.enqueue lane
        (.ctrl (if w then 3 else 2) (bits v.toNat 24 4) tag n (bits v.toNat 0 16) (if w then (le 8 (f.get (LQ_HDATA_DATA q))).take n else [])))) := by
  have run : exec (.eeAccess t m q v) s = .next ((s.at_ t).onChip fun c => c.ownWrite m .lq q 0x50 (·.writeHcmd q v.toNat)) := rfl
  have acts {d : Chip} := acts_onChip (d := d) _ run
  have passes := passes_onChip _ run
  generalize (s.at_ t).chip = c at acts passes ⊢
  exact fun may there =>
    have written {d : Chip} (h : c.writeHcmd q v.toNat = d) := acts ((Chip.ownWrite_granted may there _).trans h)
    ⟨fun running start => passes ((Chip.ownWrite_granted may there _).trans (Chip.writeHcmd_running running start)),
      fun quiet => written (Chip.writeHcmd_shows quiet),
      fun free start cold => written ((Chip.writeHcmd_starts free start).trans (Chip.eeStarted_cold cold)),
      fun free start warm foreign => written ((Chip.writeHcmd_starts free start).trans (Chip.eeStarted_foreign warm foreign)),
      fun free start warm own => written ((Chip.writeHcmd_starts free start).trans (Chip.eeStarted_begins warm own))⟩

section
variable {c : Chip} {l : Nat} {r : List Byte} {x : EeAccess}

/-- The reply r on lane l is that of access x. -/
def EeAccess.answeredBy (x : EeAccess) (l : Nat) (r : List Byte) : Prop := x.lane = l ∧ x.tag = fieldAt r 3 1 ∧ x.addr = fieldAt r 1 1 % 32

theorem Chip.eeReply_none (none : FMap.get none c.lanes.ee (l / 4) = none) : c.eeReply l r = c := by rw [Chip.eeReply, none]

variable (found : FMap.get none c.lanes.ee (l / 4) = some x)
include found

theorem Chip.eeReply_other (other : ¬ x.answeredBy l r) : c.eeReply l r = c := by
  rw [Chip.eeReply, found]
  exact if_neg other

theorem Chip.eeReply_mine (mine : x.answeredBy l r) : c.eeReply l r =
    (if fieldAt r 2 1 = 0 ∧ ¬ x.write then c.set (LQ_HDATA_DATA (l / 4)) (fieldAt r 8 (min 8 (fieldAt r 6 1))) else c).eeEnd (l / 4) (min 3 (fieldAt r 2 1)) := by
  rw [Chip.eeReply, found]
  exact if_pos mine

theorem Chip.eeReply_read (mine : x.answeredBy l r) (ok : fieldAt r 2 1 = 0) (read : x.write = false) : c.eeReply l r =
    (c.set (LQ_HDATA_DATA (l / 4)) (fieldAt r 8 (min 8 (fieldAt r 6 1)))).eeEnd (l / 4) (min 3 (fieldAt r 2 1)) := by
  rw [Chip.eeReply_mine found mine, if_pos ⟨ok, Bool.eq_false_iff.1 read⟩]

theorem Chip.eeReply_ends (mine : x.answeredBy l r) (h : fieldAt r 2 1 ≠ 0 ∨ x.write = true) : c.eeReply l r = c.eeEnd (l / 4) (min 3 (fieldAt r 2 1)) := by
  rw [Chip.eeReply_mine found mine, if_neg fun e => h.elim (· e.1) e.2]

end

theorem eeReply_acts (t : Nat) (l : Fin 96) (fr : List RxBlock) (i : Nat) (r : List Byte) (s : State) (received : Received t l fr i 7 r s) :
    let d := arrived (s.at_ t).chip l fr
    let mine (x : EeAccess) : Prop := x.lane = l.val ∧ x.tag = fieldAt r 3 1 ∧ x.addr = fieldAt r 1 1 % 32
    (FMap.get none d.lanes.ee (l / 4) = none → Acts (.eeReply t l ⟨fr, i⟩) t s d) ∧
    (∀ x, FMap.get none d.lanes.ee (l / 4) = some x →
      (¬ mine x → Acts (.eeReply t l ⟨fr, i⟩) t s d) ∧
      (mine x → fieldAt r 2 1 = 0 → x.write = false → Acts (.eeReply t l ⟨fr, i⟩) t s ((d.set (LQ_HDATA_DATA (l / 4)) (fieldAt r 8 (min 8 (fieldAt r 6 1)))).eeEnd (l / 4) (min 3 (fieldAt r 2 1)))) ∧
      (mine x → fieldAt r 2 1 ≠ 0 ∨ x.write = true → Acts (.eeReply t l ⟨fr, i⟩) t s (d.eeEnd (l / 4) (min 3 (fieldAt r 2 1))))) := by
  have run : exec (.eeReply t l ⟨fr, i⟩) s = .next ((s.at_ t).record l fr i 7 fun r s => s.onChip (·.eeReply l r)) := rfl
  have acts {d : Chip} := received_acts (d := d) received run
  exact ⟨fun none => acts (Chip.eeReply_none none), fun x found => ⟨fun other => acts (Chip.eeReply_other found other),
    fun mine ok read => acts (Chip.eeReply_read found mine ok read), fun mine h => acts (Chip.eeReply_ends found mine h)⟩⟩

/-- What the 50 ms of an EEPROM access do. -/
def Chip.eeLate (c : Chip) (q : Nat) : Chip :=
  match FMap.get none c.lanes.ee q with
  | some x => if x.since + 50000000 ≤ c.ns then c.eeEnd q 5 else c
  | none => c

theorem Chip.eeLate_none {c : Chip} {q : Nat} (none : FMap.get none c.lanes.ee q = none) : c.eeLate q = c := by rw [Chip.eeLate, none]

theorem Chip.eeLate_some {c : Chip} {q : Nat} {x : EeAccess} (found : FMap.get none c.lanes.ee q = some x) :
    c.eeLate q = if x.since + 50000000 ≤ c.ns then c.eeEnd q 5 else c := by rw [Chip.eeLate, found]

theorem eeTimeout_acts (t : Nat) (q : Fin 24) (s : State) :
    let c := (s.at_ t).chip
    (FMap.get none c.lanes.ee q = none → Passes (.eeTimeout t q) t s) ∧
    (∀ x, FMap.get none c.lanes.ee q = some x → (x.since + 50000000 ≤ c.ns → Acts (.eeTimeout t q) t s (c.eeEnd q 5)) ∧ (c.ns < x.since + 50000000 → Passes (.eeTimeout t q) t s)) ∧
    (∀ c : Chip, ∀ n, c.eeEnd q n = ((({ c with lanes := { c.lanes with ee := FMap.put none c.lanes.ee q none } } : Chip).set (LQ_HRES_RESULT q) n).set (LQ_HRES_DONE q) 1)) := by
  have run : exec (.eeTimeout t q) s = .next ((s.at_ t).onChip (·.eeLate q)) := rfl
  have acts {d : Chip} := acts_onChip (d := d) _ run
  have passes := passes_onChip _ run
  generalize (s.at_ t).chip = c at acts passes ⊢
  exact ⟨fun none => passes (Chip.eeLate_none none),
    fun x found => ⟨fun late => acts ((Chip.eeLate_some found).trans (if_pos late)), fun early => passes ((Chip.eeLate_some found).trans (if_neg (Nat.not_le.2 early)))⟩,
    fun c n => rfl⟩

/-! ### Frames that go out regularly (R290, R292, R297, R300) -/

section
variable {c : Chip}

/-- What a step of a walk over the chip keeps, a step may rest on. -/
theorem Chip.forAll_eq_of {α : Type} {P : Chip → Prop} {f g : Chip → α → Chip} (xs : List α) (keep : ∀ d x, P d → P (g d x)) (same : ∀ d x, P d → f d x = g d x)
    (base : P c) : c.forAll xs f = c.forAll xs g := by
  induction xs generalizing c with
  | nil => rfl
  | cons x xs ih =>
    change (f c x).forAll xs f = (g c x).forAll xs g
    rw [same c x base]
    exact ih (keep c x base)

theorem Chip.want_twin (k : Nat) (f : LaneFrame) : (c.want k f).twin = c.twin := by
  unfold Chip.want Chip.enqueue
  split
  · rfl
  · split <;> rfl

theorem Chip.epochFrames_handoff {h : Handoff} (found : c.twin.handoff = some h) : c.epochFrames =
    c.forAll (c.serviceLanes.filter c.ownsHub) fun d l => d.want l (.epoch (d.curOf l) h.token (h.row (d.newest.laneBar l))) :=
  Chip.forAll_eq_of (P := fun d => d.twin.handoff = some h) _ (fun d l held => by rw [Chip.want_twin, held]) (fun d l held => by rw [held]) found

theorem Chip.epochFrames_none (none : c.twin.handoff = none) : c.epochFrames =
    c.forAll (c.serviceLanes.filter c.ownsHub) fun d l => d.want l (.epoch (d.curOf l) 0 0) :=
  Chip.forAll_eq_of (P := fun d => d.twin.handoff = Option.none) _ (fun d l held => by rw [Chip.want_twin, held]) (fun d l held => by rw [held]) none

/-- The unit keeps its lease of the hub of lane l. -/
def Chip.keepsLease (c : Chip) (l : Nat) : Prop := c.ownsHub l = true ∧ (c.role = 0 ∨ c.role = 1) ∧ ∀ r, c.health.bist = some r → r.kind ≠ 2

theorem Chip.keepsLease_iff {l : Nat} : (c.ownsHub l && c.runs && (c.health.bist.all fun r => r.kind ≠ 2)) = true ↔ c.keepsLease l := by
  rw [Bool.and_eq_true, Bool.and_eq_true, Chip.runs_iff, and_assoc, Option.all_eq_true]
  simp only [decide_eq_true_iff]
  rfl

end

theorem regularFrames_act (t : Nat) (l : Fin 96) (s : State) :
    let c := (s.at_ t).chip
    let keeps : Prop := c.ownsHub l = true ∧ (c.role = 0 ∨ c.role = 1) ∧ ∀ r, c.health.bist = some r → r.kind ≠ 2
    (c.twin.deciding = false → c.twin.needDt = false → Acts (.timeFrameSend t) t s (c.forAll c.serviceLanes fun c l => c.want l .time)) ∧
    (c.twin.deciding = true ∨ c.twin.needDt = true → Passes (.timeFrameSend t) t s) ∧
    (∀ h, c.twin.handoff = some h → Acts (.epochFrameSend t) t s (c.forAll (c.serviceLanes.filter c.ownsHub) fun d l =>
      d.want l (.epoch (d.curOf l) h.token (h.row (d.newest.laneBar l))))) ∧
    (c.twin.handoff = none → Acts (.epochFrameSend t) t s (c.forAll (c.serviceLanes.filter c.ownsHub) fun d l => d.want l (.epoch (d.curOf l) 0 0))) ∧
    (keeps → Acts (.fireKeepalive t l) t s (c.want l .fire)) ∧ (¬ keeps → Passes (.fireKeepalive t l) t s) ∧
    Acts (.claimSend t) t s (c.forAll (c.twin.claims.filter fun e => FMap.get 0 c.twin.wait e.1 ≤ c.ns) fun c e => c.want e.1 (.claim ((c.curOf e.1 + 1) % 2 ^ 32) e.2)) ∧
    (∀ (d : Chip) (k : Nat) (f : LaneFrame), d.want k f = if f ∈ (d.lane k).txq then d else d.enqueue k f) := by
  have time : exec (.timeFrameSend t) s = .next ((s.at_ t).onChip fun c => if c.provisional then c else c.forAll c.serviceLanes fun c l => c.want l .time) := rfl
  have epoch : exec (.epochFrameSend t) s = .next ((s.at_ t).onChip (·.epochFrames)) := rfl
  have fire : exec (.fireKeepalive t l) s = .next ((s.at_ t).onChip fun c =>
    if c.ownsHub l && c.runs && (c.health.bist.all fun r => r.kind ≠ 2) then c.want l .fire else c) := rfl
  have claim : exec (.claimSend t) s = .next ((s.at_ t).onChip (·.claimFrames)) := rfl
  have timeActs {d : Chip} := acts_onChip (d := d) _ time
  have timePasses := passes_onChip _ time
  have epochActs {d : Chip} := acts_onChip (d := d) _ epoch
  have fireActs {d : Chip} := acts_onChip (d := d) _ fire
  have firePasses := passes_onChip _ fire
  have claimActs {d : Chip} := acts_onChip (d := d) _ claim
  generalize (s.at_ t).chip = c at *
  have sure (known : c.twin.deciding = false) (dt : c.twin.needDt = false) : ¬ c.provisional = true := fun h => by
    rw [Chip.provisional_iff, known, dt] at h
    simp at h
  exact ⟨fun known dt => timeActs (if_neg (sure known dt)), fun h => timePasses (if_pos (Chip.provisional_iff.2 h)),
    fun h found => epochActs (Chip.epochFrames_handoff found), fun none => epochActs (Chip.epochFrames_none none),
    fun keeps => fireActs (if_pos (Chip.keepsLease_iff.2 keeps)), fun not => firePasses (if_neg (mt Chip.keepsLease_iff.1 not)),
    claimActs rfl, fun d k f => ite_of_iff List.contains_iff_mem rfl rfl⟩

/-! ### Records that do not count (R277) -/

/-- A record that is not received leaves what the data blocks of its frame did. -/
theorem notReceived_acts {t : Nat} {l : Fin 96} {fr : List RxBlock} {i type : Nat} {s : State} {e : Instr} {f : List Byte → State → State}
    (lost : NotReceived t l fr i type s) (run : exec e s = .next ((s.at_ t).record l fr i type f)) :
    Acts e t s (if (s.at_ t).chip.laneState l = 4 then arrived (s.at_ t).chip l fr else (s.at_ t).chip) := by
  unfold NotReceived at lost
  unfold Acts
  generalize s.at_ t = v at lost run ⊢
  refine run.trans (congrArg _ ?_)
  rw [State.record, State.data_arrived]
  split
  · next down => exact congrArg (fun d => { v with chip := d }) (if_neg down).symm
  · next up =>
    have kept : { v with chip := arrived v.chip l fr } = { v with chip := if v.chip.laneState l = 4 then arrived v.chip l fr else v.chip } :=
      congrArg (fun d => { v with chip := d }) (if_pos (Classical.not_not.1 up)).symm
    split
    · next r found => exact (if_neg ((lost.resolve_left up) r found)).trans kept
    · exact kept

theorem lostRecords_act (t : Nat) (l : Fin 96) (fr : List RxBlock) (i : Nat) (s : State) :
    let c := (s.at_ t).chip
    ∀ e ∈ [(Instr.echo t l ⟨fr, i⟩, 1), (.ack t l ⟨fr, i⟩, 2), (.fireReport t l ⟨fr, i⟩, 3), (.epochRecord t l ⟨fr, i⟩, 4), (.claimReply t l ⟨fr, i⟩, 5),
        (.tempRecord t l ⟨fr, i⟩, 6), (.eeReply t l ⟨fr, i⟩, 7), (.hubInfo t l ⟨fr, i⟩, 8)],
      NotReceived t l fr i e.2 s → Acts e.1 t s (if c.laneState l = 4 then arrived c l fr else c) := by
  intro c e he lost
  have run : ∃ f, exec e.1 s = .next ((s.at_ t).record l fr i e.2 f) := by
    simp only [List.mem_cons, List.not_mem_nil, or_false] at he
    rcases he with rfl | rfl | rfl | rfl | rfl | rfl | rfl | rfl
    · exact ⟨fun r s => s.onChip (·.echo l r), rfl⟩
    · exact ⟨fun r s => s.onChip (·.ack l r), rfl⟩
    · exact ⟨fun r s => s.onChip (·.fireReport l r), rfl⟩
    · exact ⟨epochRecord l, rfl⟩
    · exact ⟨fun r s => s.onChip (·.claimReply l r), rfl⟩
    · exact ⟨fun r s => s.onChip (·.tempRecord l r), rfl⟩
    · exact ⟨fun r s => s.onChip (·.eeReply l r), rfl⟩
    · exact ⟨fun r s => s.onChip (·.set (LQ_HST_PRESENT (l / 4) (l % 4)) (fieldAt r 8 2)), rfl⟩
  obtain ⟨f, run⟩ := run
  exact notReceived_acts lost run

/-- Settles O49: clause by clause, an ECHO, an ACK or their absence resend what they miss, records show, an EEPROM access has one of its ends, and frames go out. -/
theorem hubRecordsAndRegularFrames : Obligations.HubRecordsAndRegularFrames :=
  ⟨echo_acts, echoTimeout_acts, ack_acts, ackTimeout_acts, resendStamps_facts, reports_act, eeAccess_acts, eeReply_acts, eeTimeout_acts, regularFrames_act, lostRecords_act⟩

end Sys2Proof.Machine
end

section
/-!
PROOFS. Cairn markers and deskew (R261 to R265), eye scans and adaptation (R268, R269), recalibration (R270) and the launch of frames (R280).
-/
namespace Sys2Proof.Machine

theorem isRope_iff {l : Nat} : isRope l = true ↔ 96 ≤ l := decide_eq_true_iff

theorem isRope_eq_false_iff {l : Nat} : isRope l = false ↔ l < 96 := by rw [Bool.eq_false_iff, Ne, isRope_iff, Nat.not_le]

/-! ### Markers that go out (R262) -/

theorem Chip.mem_markerLanes {c : Chip} {rate l : Nat} : l ∈ c.markerLanes rate ↔ (1 ≤ c.laneState l ∧ c.laneState l ≤ 5) ∧
    (rate = 2 ∧ 96 ≤ l ∧ l < 100 ∨ rate ≠ 2 ∧ l < 96 ∧ c.et5208 l = false ∧ (c.fast (l / 4) = true ↔ rate = 1)) := by
  have rope : l ∈ [96, 97, 98, 99] ↔ 96 ≤ l ∧ l < 100 := by
    simp only [List.mem_cons, List.not_mem_nil, or_false]
    omega
  rw [Chip.markerLanes, List.mem_filter, Bool.and_eq_true, decide_eq_true_iff, decide_eq_true_iff, and_comm]
  refine and_congr_right fun _ => ?_
  split
  · next two => rw [rope, two]; simp
  · next other =>
    have rates : c.fast (l / 4) = decide (rate = 1) ↔ (c.fast (l / 4) = true ↔ rate = 1) := by rw [Bool.eq_iff_iff, decide_eq_true_iff]
    rw [List.mem_filter, List.mem_range, Bool.and_eq_true, Bool.not_eq_true', beq_iff_eq, rates]
    simp [other]

theorem markerSend_acts (t : Nat) (rate : Fin 3) (s : State) :
    let c := (s.at_ t).chip
    let m := FMap.get 0 c.lanes.mcount rate
    let d : Chip := { c with lanes := { c.lanes with mcount := FMap.put 0 c.lanes.mcount rate ((m + 1) % 2 ^ 24) } }
    Acts (.cairnMarkerSend t rate) t s (d.forAll (c.markerLanes rate) fun c l =>
      let bip := (c.fresh 256).1
      let c := (c.fresh 256).2
      let bs := le 1 0xC5 ++ le 1 (l % 96) ++ le 3 m ++ le 1 bip ++ le 1 0
      let c := c.emit .marker l [m] (bs ++ le 1 (crcMsb 8 0x07 0 bs))
      c.setLane l { c.lane l with marks := ((m, c.psNow) :: (c.lane l).marks).take 4 }) ∧
    (∀ l, l ∈ c.markerLanes rate ↔ (1 ≤ c.laneState l ∧ c.laneState l ≤ 5) ∧
      (rate.val = 2 ∧ 96 ≤ l ∧ l < 100 ∨ rate.val ≠ 2 ∧ l < 96 ∧ c.et5208 l = false ∧ (c.fast (l / 4) = true ↔ rate.val = 1))) := by
  have run : exec (.cairnMarkerSend t rate) s = .next ((s.at_ t).onChip (·.sendMarkers rate)) := rfl
  have acts {d : Chip} := acts_onChip (d := d) _ run
  generalize (s.at_ t).chip = c at acts ⊢
  exact ⟨acts rfl, fun l => Chip.mem_markerLanes⟩

/-! ### Markers as received (R262 to R265) -/

section
variable {c : Chip} {l m ps turn : Nat} {b : List Byte} {bipOk onTime : Bool}

/-- Markers count on lane l: mode ET9612, in ALIGN or SERVICE. -/
def Chip.markersLive (c : Chip) (l : Nat) : Prop := c.et5208 l = false ∧ (c.laneState l = 3 ∨ c.laneState l = 4)

theorem Chip.markersLive_iff : (c.et5208 l || (c.laneState l ≠ lsALIGN && c.laneState l ≠ lsSERVICE)) = true ↔ ¬ c.markersLive l := by
  rw [Bool.or_eq_true, Bool.and_eq_true, decide_eq_true_iff, decide_eq_true_iff, Chip.markersLive, Classical.not_and_iff_not_or_not, Bool.not_eq_false, not_or]
  exact Iff.rfl

/-- A marker block is whole. -/
def MarkerWhole (b : List Byte) : Prop := b.length = 8 ∧ fieldAt b 0 1 = 0xC5 ∧ fieldAt b 7 1 = crcMsb 8 0x07 0 (b.take 7)

theorem markerWhole_iff : (b.length ≠ 8 || fieldAt b 0 1 ≠ 0xC5 || fieldAt b 7 1 ≠ crcMsb 8 0x07 0 (b.take 7)) = true ↔ ¬ MarkerWhole b := by
  rw [Bool.or_eq_true, Bool.or_eq_true, decide_eq_true_iff, decide_eq_true_iff, decide_eq_true_iff, MarkerWhole, Classical.not_and_iff_not_or_not, Classical.not_and_iff_not_or_not, or_assoc]

theorem Chip.cairnMarker_dead (dead : ¬ c.markersLive l) : c.cairnMarker l b ps bipOk onTime = c := if_pos (Chip.markersLive_iff.2 dead)

theorem Chip.missMarker_dead (dead : ¬ c.markersLive l) : c.missMarker l = c := if_pos (Chip.markersLive_iff.2 dead)

section
variable (live : c.markersLive l)
include live

theorem Chip.missMarker_live : c.missMarker l =
    if 4 ≤ (c.lane l).missing + 1 then ((c.setLane l { c.lane l with missing := (c.lane l).missing + 1, good := 0 }).bump (LQ_ERR_MISSED (l / 4) (l % 4))).markerFault l 8
    else (c.setLane l { c.lane l with missing := (c.lane l).missing + 1, good := 0 }).bump (LQ_ERR_MISSED (l / 4) (l % 4)) :=
  if_neg fun h => Chip.markersLive_iff.1 h live

theorem Chip.cairnMarker_broken (broken : ¬ MarkerWhole b) : c.cairnMarker l b ps bipOk onTime = c.missMarker l :=
  (if_neg fun h => Chip.markersLive_iff.1 h live).trans (if_pos (markerWhole_iff.2 broken))

variable (whole : MarkerWhole b)
include whole

theorem Chip.cairnMarker_whole : c.cairnMarker l b ps bipOk onTime =
    if fieldAt b 1 1 < 128 then
      if isRope l then
        let bs := le 1 0xC5 ++ le 1 (fieldAt b 1 1 + 128) ++ le 3 (fieldAt b 2 3) ++ le 1 (fieldAt b 5 1) ++ le 1 (1 + Config.factory 40 % 255)
        c.emit .marker l [fieldAt b 2 3] (bs ++ le 1 (crcMsb 8 0x07 0 bs))
      else c.missMarker l
    else if fieldAt b 1 1 % 128 ≠ l % 96 then c.markerFault l lcLANE_ID
    else c.goodMarker l (fieldAt b 2 3) (ps / 100 * 100) (fieldAt b 6 1) bipOk onTime :=
  (if_neg fun h => Chip.markersLive_iff.1 h live).trans (if_neg fun h => markerWhole_iff.1 h whole)

theorem Chip.cairnMarker_own (own : fieldAt b 1 1 < 128) (head : l < 96) : c.cairnMarker l b ps bipOk onTime = c.missMarker l := by
  rw [Chip.cairnMarker_whole live whole, if_pos own, isRope_eq_false_iff.2 head]
  rfl

theorem Chip.cairnMarker_returned (own : fieldAt b 1 1 < 128) (rope : 96 ≤ l) : c.cairnMarker l b ps bipOk onTime =
    let bs := le 1 0xC5 ++ le 1 (fieldAt b 1 1 + 128) ++ le 3 (fieldAt b 2 3) ++ le 1 (fieldAt b 5 1) ++ le 1 (1 + Config.factory 40 % 255)
    c.emit .marker l [fieldAt b 2 3] (bs ++ le 1 (crcMsb 8 0x07 0 bs)) := by
  rw [Chip.cairnMarker_whole live whole, if_pos own, if_pos (isRope_iff.2 rope)]

theorem Chip.cairnMarker_foreign (hub : 128 ≤ fieldAt b 1 1) (other : fieldAt b 1 1 % 128 ≠ l % 96) : c.cairnMarker l b ps bipOk onTime = c.markerFault l 6 := by
  rw [Chip.cairnMarker_whole live whole, if_neg (Nat.not_lt.2 hub), if_pos other]
  rfl

theorem Chip.cairnMarker_good (hub : 128 ≤ fieldAt b 1 1) (same : fieldAt b 1 1 % 128 = l % 96) : c.cairnMarker l b ps bipOk onTime =
    c.goodMarker l (fieldAt b 2 3) (ps / 100 * 100) (fieldAt b 6 1) bipOk onTime := by
  rw [Chip.cairnMarker_whole live whole, if_neg (Nat.not_lt.2 hub), if_neg (Classical.not_not.2 same)]

end

end

theorem cairnMarker_acts (t : Nat) (l : Fin 100) (b : List Byte) (ps : Nat) (bipOk onTime : Bool) (s : State) :
    let e := Instr.cairnMarker t l b ps bipOk onTime
    let c := (s.at_ t).chip
    let live : Prop := c.et5208 l = false ∧ (c.laneState l = 3 ∨ c.laneState l = 4)
    let whole : Prop := b.length = 8 ∧ fieldAt b 0 1 = 0xC5 ∧ fieldAt b 7 1 = crcMsb 8 0x07 0 (b.take 7)
    let w := fieldAt b 1 1
    let m := fieldAt b 2 3
    let back := le 1 0xC5 ++ le 1 (w + 128) ++ le 3 m ++ le 1 (fieldAt b 5 1) ++ le 1 (1 + Config.factory 40 % 255)
    let x := c.lane l
    (¬ live → Passes e t s ∧ Passes (.markerMissing t l) t s) ∧
    (live → ¬ whole ∨ w < 128 ∧ l.val < 96 → Acts e t s (c.missMarker l)) ∧
    (live → whole → w < 128 → 96 ≤ l.val → Acts e t s (c.emit .marker l [m] (back ++ le 1 (crcMsb 8 0x07 0 back)))) ∧
    (live → whole → 128 ≤ w → w % 128 ≠ l % 96 → Acts e t s (c.markerFault l 6)) ∧
    (live → whole → 128 ≤ w → w % 128 = l % 96 → Acts e t s (c.goodMarker l m (ps / 100 * 100) (fieldAt b 6 1) bipOk onTime)) ∧
    (live →
      let d := (c.setLane l { x with missing := x.missing + 1, good := 0 }).bump (LQ_ERR_MISSED (l / 4) (l % 4))
      Acts (.markerMissing t l) t s (if 4 ≤ x.missing + 1 then d.markerFault l 8 else d)) := by
  have run : exec (.cairnMarker t l b ps bipOk onTime) s = .next ((s.at_ t).onChip fun c => c.cairnMarker l b ps bipOk onTime) := rfl
  have miss : exec (.markerMissing t l) s = .next ((s.at_ t).onChip fun c => c.missMarker l) := rfl
  have acts {d : Chip} := acts_onChip (d := d) _ run
  have passes := passes_onChip _ run
  have missActs {d : Chip} := acts_onChip (d := d) _ miss
  have missPasses := passes_onChip _ miss
  generalize (s.at_ t).chip = c at *
  exact ⟨fun dead => ⟨passes (Chip.cairnMarker_dead dead), missPasses (Chip.missMarker_dead dead)⟩,
    fun live h => acts (by
      by_cases whole : MarkerWhole b
      · obtain ⟨own, head⟩ := h.resolve_left (Classical.not_not.2 whole)
        exact Chip.cairnMarker_own live whole own head
      · exact Chip.cairnMarker_broken live whole),
    fun live whole own rope => acts (Chip.cairnMarker_returned live whole own rope),
    fun live whole hub other => acts (Chip.cairnMarker_foreign live whole hub other),
    fun live whole hub same => acts (Chip.cairnMarker_good live whole hub same),
    fun live => missActs (Chip.missMarker_live live)⟩

section
variable {c : Chip} {l m ps turn : Nat} {bipOk onTime : Bool}

/-- The good markers in a row after one with number m. -/
def Chip.goodRun (c : Chip) (l m : Nat) (onTime : Bool) : Nat :=
  if onTime = true ∧ (c.lane l).mcount.map (fun p => (p + 1) % 2 ^ 24) = some m then (c.lane l).good + 1 else 1

/-- The BIP of a good marker is judged. -/
def Chip.bipJudged (c : Chip) (l : Nat) (bipOk : Bool) : Chip :=
  if isRope l then (if bipOk then c else c.bipMismatch l)
  else
    let (inj, c) := c.checker .lq (l / 4) 17 (l % 4)
    let c := if inj && bipOk then c.raise .lq (l / 4) { src := 17, cell := l % 4, inj := true } else c
    if bipOk then c else c.bipMismatch l

theorem Chip.bipJudged_head (head : l < 96) : c.bipJudged l bipOk =
    let i := c.checker .lq (l / 4) 17 (l % 4)
    let d := if i.1 = true ∧ bipOk = true then i.2.raise .lq (l / 4) { src := 17, cell := l % 4, inj := true } else i.2
    if bipOk then d else d.bipMismatch l := by
  refine (if_neg (by rw [isRope_eq_false_iff.2 head]; decide)).trans ?_
  generalize c.checker .lq (l / 4) 17 (l % 4) = i
  obtain ⟨inj, d⟩ := i
  have both : (inj && bipOk) = true ↔ inj = true ∧ bipOk = true := by rw [Bool.and_eq_true]
  exact congrArg (fun d : Chip => if bipOk then d else d.bipMismatch l) (ite_of_iff both rfl rfl)

/-- A good marker is noted in lane l. -/
def Chip.markerKept (c : Chip) (l m ps good : Nat) : Chip := c.setLane l { c.lane l with mcount := some m, arr := ps, good := good, missing := 0 }

/-- What a good marker leads to once it is noted. -/
def Chip.markerJudged (c : Chip) (l m good skew : Nat) : Chip :=
  if c.laneState l = lsALIGN then
    if good < 2 then c
    else if 96 < c.skewOf l m then c.markerFault l lcSKEW
    else ((c.setLane l { c.lane l with skew := c.skewOf l m }).set (LQ_LSTAT_SKEW (l / 4) (l % 4)) (c.skewOf l m)).enterService l
  else if c.skewOf l m ≤ skew + 1 ∧ skew ≤ c.skewOf l m + 1 then c.set (LQ_LSTAT_SKEW (l / 4) (l % 4)) (c.skewOf l m)
  else (c.set (LQ_LSTAT_SKEW (l / 4) (l % 4)) (c.skewOf l m)).markerFault l lcSKEW

theorem Chip.goodMarker_eq : c.goodMarker l m ps turn bipOk onTime =
    (((c.markerKept l m ps (c.goodRun l m onTime)).bipJudged l bipOk).noteRtt l m ps turn).markerJudged l m (c.goodRun l m onTime) (c.lane l).skew := by
  have run : (onTime && (c.lane l).mcount.map (fun p => (p + 1) % 2 ^ 24) = some m) = true ↔
      onTime = true ∧ (c.lane l).mcount.map (fun p => (p + 1) % 2 ^ 24) = some m := by rw [Bool.and_eq_true, decide_eq_true_iff]
  have good : c.goodRun l m onTime = if onTime && (c.lane l).mcount.map (fun p => (p + 1) % 2 ^ 24) = some m then (c.lane l).good + 1 else 1 :=
    (ite_of_iff run rfl rfl).symm
  rw [good]
  rfl

end

theorem goodMarker_facts (c : Chip) (l m ps turn : Nat) (bipOk onTime : Bool) : l < 96 → c.et5208 l = false →
    let x := c.lane l
    let good := if onTime = true ∧ x.mcount.map (fun p => (p + 1) % 2 ^ 24) = some m then x.good + 1 else 1
    let d := c.setLane l { x with mcount := some m, arr := ps, good := good, missing := 0 }
    let i := d.checker .lq (l / 4) 17 (l % 4)
    let d := if i.1 = true ∧ bipOk = true then i.2.raise .lq (l / 4) { src := 17, cell := l % 4, inj := true } else i.2
    let d := (if bipOk then d else d.bipMismatch l).noteRtt l m ps turn
    let sk := d.skewOf l m
    let near : Prop := sk ≤ x.skew + 1 ∧ x.skew ≤ sk + 1
    let set := d.set (LQ_LSTAT_SKEW (l / 4) (l % 4)) sk
    (d.laneState l = 3 → good < 2 → c.goodMarker l m ps turn bipOk onTime = d) ∧
    (d.laneState l = 3 → 2 ≤ good → 96 < sk → c.goodMarker l m ps turn bipOk onTime = d.markerFault l 7) ∧
    (d.laneState l = 3 → 2 ≤ good → sk ≤ 96 → c.goodMarker l m ps turn bipOk onTime =
      ((d.setLane l { d.lane l with skew := sk }).set (LQ_LSTAT_SKEW (l / 4) (l % 4)) sk).enterService l) ∧
    (d.laneState l ≠ 3 → c.goodMarker l m ps turn bipOk onTime = if near then set else set.markerFault l 7) :=
  fun head _ => by
    rw [Chip.goodMarker_eq, Chip.bipJudged_head head]
    exact ⟨fun align few => (if_pos align).trans (if_pos few),
      fun align enough far => (if_pos align).trans ((if_neg (Nat.not_lt.2 enough)).trans (if_pos far)),
      fun align enough close => (if_pos align).trans ((if_neg (Nat.not_lt.2 enough)).trans (if_neg (Nat.not_lt.2 close))),
      fun serves => if_neg serves⟩

/-! ### Adaptation and quick scans (R268, R269) -/

section
variable {c : Chip} {l : Nat}

/-- A scheduled quick scan of lane l is due. -/
def Chip.scanDue (c : Chip) (l : Nat) : Prop :=
  c.laneState l = 4 ∧ (c.lane l).scan = 0 ∧ c.pointOn l = false ∧ (c.lane l).scanAt + max 1 (c.get (LQ_EYECFG_SCANPER (l / 4))) * 250 * dtMilli ≤ c.dt

theorem Chip.scanDue_iff : (c.laneState l = lsSERVICE && (c.lane l).scan = 0 && !c.pointOn l &&
    decide ((c.lane l).scanAt + max 1 (c.get (LQ_EYECFG_SCANPER (l / 4))) * 250 * dtMilli ≤ c.dt)) = true ↔ c.scanDue l := by
  simp only [Bool.and_eq_true, decide_eq_true_iff, Bool.not_eq_true', and_assoc]
  exact Iff.rfl

end

theorem sampler_acts (t : Nat) (l : Fin 100) (s : State) :
    let c := (s.at_ t).chip
    let x := c.lane l
    let due : Prop := c.laneState l = 4 ∧ x.scan = 0 ∧ c.pointOn l = false ∧ x.scanAt + max 1 (c.get (LQ_EYECFG_SCANPER (l / 4))) * 250 * dtMilli ≤ c.dt
    (c.laneState l = 4 → x.dataAt + dtMilli ≤ c.dt → Acts (.adaptFreeze t l) t s (c.set (LQ_EYE_FROZEN (l / 4) (l % 4)) 1)) ∧
    (c.laneState l ≠ 4 ∨ c.dt < x.dataAt + dtMilli → Passes (.adaptFreeze t l) t s) ∧
    (due → Acts (.quickScanStart t l) t s (c.setLane l { x with scan := 1, scanAt := c.dt })) ∧ (¬ due → Passes (.quickScanStart t l) t s) := by
  have freeze : exec (.adaptFreeze t l) s = .next ((s.at_ t).onChip fun c =>
    if c.laneState l = lsSERVICE ∧ (c.lane l).dataAt + dtMilli ≤ c.dt then c.set (LQ_EYE_FROZEN (l.val / 4) (l.val % 4)) 1 else c) := rfl
  have scan : exec (.quickScanStart t l) s = .next ((s.at_ t).onChip fun c =>
    if c.laneState l = lsSERVICE && (c.lane l).scan = 0 && !c.pointOn l &&
        decide ((c.lane l).scanAt + max 1 (c.get (LQ_EYECFG_SCANPER (l.val / 4))) * 250 * dtMilli ≤ c.dt) then
      c.setLane l { c.lane l with scan := 1, scanAt := c.dt }
    else c) := rfl
  have freezeActs {d : Chip} := acts_onChip (d := d) _ freeze
  have freezePasses := passes_onChip _ freeze
  have scanActs {d : Chip} := acts_onChip (d := d) _ scan
  have scanPasses := passes_onChip _ scan
  generalize (s.at_ t).chip = c at *
  exact ⟨fun serves quiet => freezeActs (if_pos ⟨serves, quiet⟩), fun h => freezePasses (if_neg fun e => h.elim (· e.1) (Nat.not_lt.2 e.2)),
    fun due => scanActs (if_pos (Chip.scanDue_iff.2 due)), fun not => scanPasses (if_neg (mt Chip.scanDue_iff.1 not))⟩

/-- Counts that all stay within the limit are one run. -/
theorem takeWhile_le_length {b n : Nat} {xs : List Nat} (h : ∀ v ∈ xs, v ≤ b) : ((xs.take n).takeWhile (· ≤ b)).length = min n xs.length := by
  have whole := List.takeWhile_append_of_pos (p := fun v => decide (v ≤ b)) (l₁ := xs.take n) (l₂ := []) fun v hv => decide_eq_true (h v (List.mem_of_mem_take hv))
  rw [List.append_nil, List.takeWhile_nil, List.append_nil] at whole
  rw [whole, List.length_take]

theorem scanRun_facts (berth mid : Nat) (up down : List Nat) (m n : Nat) : (berth < mid → scanRun berth mid up m down n = 0) ∧
    (mid ≤ berth → (∀ v ∈ up, v ≤ berth) → (∀ v ∈ down, v ≤ berth) → scanRun berth mid up m down n = 1 + min m up.length + min n down.length) := by
  exact ⟨fun fails => if_pos fails, fun passes hu hd => (if_neg (Nat.not_lt.2 passes)).trans
    (congr (congrArg (fun a b => 1 + a + b) (takeWhile_le_length hu)) (takeWhile_le_length hd))⟩

section
variable {c : Chip} {l w h settings : Nat}

/-- The figure of a quick scan shows. -/
def Chip.eyeShown (c : Chip) (l w h : Nat) : Chip :=
  ((c.set (LQ_EYE_WIDTH (l / 4) (l % 4)) w).set (LQ_EYE_HEIGHT (l / 4) (l % 4)) h).count (LQ_EYE_SCANS (l / 4) (l % 4))

/-- A quick scan of the tap search of lane l runs. -/
def Chip.searchRuns (c : Chip) (l : Nat) : Prop := c.laneState l = 2 ∧ c.et5208 l = false ∧ (c.lane l).train.phase = 2

/-- A quick scan of lane l in SERVICE runs. -/
def Chip.serviceRuns (c : Chip) (l : Nat) : Prop := c.laneState l = 4 ∧ ((c.lane l).scan = 1 ∨ (c.lane l).scan = 2)

/-- The figure is good. -/
def Chip.eyeGood (c : Chip) (l w h : Nat) : Prop := c.get (LQ_EYECFG_EWMIN (l / 4)) ≤ w ∧ c.get (LQ_EYECFG_EHMIN (l / 4)) ≤ h

/-- A quick scan ends with a figure and settings. -/
def Chip.scanEnds (c : Chip) (l w h settings : Nat) : Chip :=
  if c.laneState l = lsTRAIN ∧ ¬ c.et5208 l ∧ (c.lane l).train.phase = 2 then ((c.setLane l { c.lane l with settings := settings }).eyeShown l w h).searchScan l w h
  else if c.laneState l = lsSERVICE ∧ ((c.lane l).scan = 1 ∨ (c.lane l).scan = 2) then (c.eyeShown l w h).serviceScan l w h settings
  else c

theorem Chip.quickScanDone_eq {k : ScanCounts} : c.quickScanDone l k settings = (c.flushTrain l).scanEnds l (c.eyeFigure l k).1 (c.eyeFigure l k).2 settings := rfl

theorem Chip.searchRuns_iff : (c.laneState l = lsTRAIN ∧ ¬ c.et5208 l ∧ (c.lane l).train.phase = 2) ↔ c.searchRuns l := by
  rw [Chip.searchRuns, Bool.not_eq_true]
  exact Iff.rfl

theorem Chip.scanEnds_search (search : c.searchRuns l) : c.scanEnds l w h settings =
    ((c.setLane l { c.lane l with settings := settings }).eyeShown l w h).searchScan l w h := if_pos (Chip.searchRuns_iff.2 search)

theorem Chip.scanEnds_service (serves : c.serviceRuns l) : c.scanEnds l w h settings = (c.eyeShown l w h).serviceScan l w h settings := by
  refine (if_neg fun search => ?_).trans (if_pos serves)
  exact absurd (search.1.symm.trans serves.1) (by decide)

theorem Chip.scanEnds_none (search : ¬ c.searchRuns l) (serves : ¬ c.serviceRuns l) : c.scanEnds l w h settings = c :=
  (if_neg (mt Chip.searchRuns_iff.1 search)).trans (if_neg serves)

theorem Chip.serviceScan_good (good : c.eyeGood l w h) : c.serviceScan l w h settings =
    (c.setLane l { c.lane l with scan := 0, settings := settings, lkg := settings }).set (LQ_EYE_LKG (l / 4) (l % 4)) 1 := if_pos good

theorem Chip.serviceScan_restores (bad : ¬ c.eyeGood l w h) (first : (c.lane l).scan = 1) : c.serviceScan l w h settings =
    c.setLane l { c.lane l with scan := 2, settings := (c.lane l).lkg } := (if_neg bad).trans (if_pos first)

theorem Chip.serviceScan_reports (bad : ¬ c.eyeGood l w h) (second : (c.lane l).scan ≠ 1) : c.serviceScan l w h settings =
    let again := (c.setLane l { c.lane l with scan := 0, settings := settings }).raiseLane l (12 + l % 4)
    if again.laneInUse l = true ∧ l < 96 then again else again.enterLock l := by
  have head (d : Chip) : (d.laneInUse l ∧ ¬ isRope l) ↔ d.laneInUse l = true ∧ l < 96 := by rw [isRope_iff, Nat.not_le]
  exact (if_neg bad).trans ((if_neg second).trans (ite_of_iff (head _) rfl rfl))

end

theorem quickScanDone_acts (t : Nat) (l : Fin 100) (k : ScanCounts) (settings : Nat) (s : State) :
    let e := Instr.quickScanDone t l k.toPhaseCounts k.toVoltCounts settings
    let w := ((s.at_ t).chip.eyeFigure l k).1
    let h := ((s.at_ t).chip.eyeFigure l k).2
    let c := (s.at_ t).chip.flushTrain l
    let shown (d : Chip) : Chip := ((d.set (LQ_EYE_WIDTH (l / 4) (l % 4)) w).set (LQ_EYE_HEIGHT (l / 4) (l % 4)) h).count (LQ_EYE_SCANS (l / 4) (l % 4))
    let search : Prop := c.laneState l = 2 ∧ c.et5208 l = false ∧ (c.lane l).train.phase = 2
    let serves : Prop := c.laneState l = 4 ∧ ((c.lane l).scan = 1 ∨ (c.lane l).scan = 2)
    let d := shown c
    let x := d.lane l
    let good : Prop := d.get (LQ_EYECFG_EWMIN (l / 4)) ≤ w ∧ d.get (LQ_EYECFG_EHMIN (l / 4)) ≤ h
    let again := (d.setLane l { x with scan := 0, settings := settings }).raiseLane l (12 + l % 4)
    (search → Acts e t s ((shown (c.setLane l { c.lane l with settings := settings })).searchScan l w h)) ∧
    (serves → good → Acts e t s ((d.setLane l { x with scan := 0, settings := settings, lkg := settings }).set (LQ_EYE_LKG (l / 4) (l % 4)) 1)) ∧
    (serves → ¬ good → x.scan = 1 → Acts e t s (d.setLane l { x with scan := 2, settings := x.lkg })) ∧
    (serves → ¬ good → x.scan ≠ 1 → Acts e t s (if again.laneInUse l = true ∧ l.val < 96 then again else again.enterLock l)) ∧
    (¬ search → ¬ serves → Acts e t s c) ∧
    (∀ (berth mid : Nat) (up down : List Nat) (m n : Nat), (berth < mid → scanRun berth mid up m down n = 0) ∧
      (mid ≤ berth → (∀ v ∈ up, v ≤ berth) → (∀ v ∈ down, v ≤ berth) → scanRun berth mid up m down n = 1 + min m up.length + min n down.length)) := by
  have run : exec (.quickScanDone t l k.toPhaseCounts k.toVoltCounts settings) s = .next ((s.at_ t).onChip fun c => c.quickScanDone l k settings) := rfl
  have acts {d : Chip} := acts_onChip (d := d) _ run
  simp only [Chip.quickScanDone_eq] at acts
  generalize (s.at_ t).chip = b at acts ⊢
  generalize b.flushTrain l = c at acts ⊢
  generalize (b.eyeFigure l k).1 = w at acts ⊢
  generalize (b.eyeFigure l k).2 = h at acts ⊢
  exact ⟨fun search => acts (Chip.scanEnds_search search),
    fun serves good => acts ((Chip.scanEnds_service serves).trans (Chip.serviceScan_good good)),
    fun serves bad first => acts ((Chip.scanEnds_service serves).trans (Chip.serviceScan_restores bad first)),
    fun serves bad second => acts ((Chip.scanEnds_service serves).trans (Chip.serviceScan_reports bad second)),
    fun search serves => acts (Chip.scanEnds_none search serves), scanRun_facts⟩

/-! ### Eye points (R268) -/

section
variable {c : Chip} {q v count : Nat}

/-- The operands of an eye point show. -/
def Chip.eyeptShown (c : Chip) (q v : Nat) : Chip :=
  ((c.set (LQ_EYEPT_LANE q) (bits v 24 2)).set (LQ_EYEPT_H q) (bits v 16 6)).set (LQ_EYEPT_V q) (bits v 8 7)

theorem Chip.writeEyept_eq : c.writeEyept q v = if (FMap.get none c.lanes.point q).isSome && bit v 31 then c
    else if bit v 31 then ((c.eyeptShown q v).set (LQ_EYEPT_DONE q) 0).setPoint q (some ⟨bits v 24 2, bits v 16 6, bits v 8 7⟩) else c.eyeptShown q v := rfl

theorem Chip.writeEyept_running (running : FMap.get none c.lanes.point q ≠ none) (start : bit v 31 = true) : c.writeEyept q v = c := by
  refine if_pos ?_
  rw [start, Option.isSome_iff_ne_none.2 running]
  rfl

theorem Chip.writeEyept_shows (h : bit v 31 = false) : c.writeEyept q v = c.eyeptShown q v := by
  rw [Chip.writeEyept_eq, h, Bool.and_false]
  rfl

theorem Chip.writeEyept_starts (free : FMap.get none c.lanes.point q = none) (start : bit v 31 = true) : c.writeEyept q v =
    ((c.eyeptShown q v).set (LQ_EYEPT_DONE q) 0).setPoint q (some ⟨bits v 24 2, bits v 16 6, bits v 8 7⟩) := by
  rw [Chip.writeEyept_eq, free, start]
  rfl

/-- The count of an eye point shows. -/
def Chip.pointCounted (c : Chip) (q count : Nat) : Chip :=
  ((c.set (LQ_EYECNT_COUNT q) (min count (min (2 ^ (16 + c.get (LQ_EYECFG_DWELL q))) (2 ^ 32 - 1)))).set (LQ_EYEPT_DONE q) 1).setPoint q none

theorem Chip.eyePointDone_none (none : FMap.get none c.lanes.point q = none) : c.eyePointDone q count = c := by rw [Chip.eyePointDone, none]

theorem Chip.eyePointDone_some {p : EyePoint} (found : FMap.get none c.lanes.point q = some p) : c.eyePointDone q count =
    if c.scanning (4 * q + p.lane) then c
    else if ((c.pointCounted q count).lane (4 * q + p.lane)).scan = 3 then
      (c.pointCounted q count).setLane (4 * q + p.lane) { (c.pointCounted q count).lane (4 * q + p.lane) with scan := 1 }
    else c.pointCounted q count := by
  rw [Chip.eyePointDone, found]
  rfl

end

theorem eyePoint_acts (t : Nat) (m : Fin 8) (q : Fin 24) (v : BitVec 32) (count : Nat) (s : State) :
    let e := Instr.eyePointStart t m q v
    let c := (s.at_ t).chip
    let point := FMap.get none c.lanes.point q
    let d := ((c.set (LQ_EYEPT_LANE q) (bits v.toNat 24 2)).set (LQ_EYEPT_H q) (bits v.toNat 16 6)).set (LQ_EYEPT_V q) (bits v.toNat 8 7)
    let go (c : Chip) (p : Option EyePoint) : Chip := { c with lanes := { c.lanes with point := FMap.put none c.lanes.point q p } }
    (c.mayWrite m .lq q 0x48 = true → c.reachable .lq q = true →
      (point ≠ none → bit v.toNat 31 = true → Passes e t s) ∧ (bit v.toNat 31 = false → Acts e t s d) ∧
      (point = none → bit v.toNat 31 = true →
        Acts e t s (go (d.set (LQ_EYEPT_DONE q) 0) (some ⟨bits v.toNat 24 2, bits v.toNat 16 6, bits v.toNat 8 7⟩)))) ∧
    (point = none → Passes (.eyePointDone t q count) t s) ∧
    (∀ p, point = some p →
      let l := 4 * q.val + p.lane
      let n := min count (min (2 ^ (16 + c.get (LQ_EYECFG_DWELL q))) (2 ^ 32 - 1))
      let f := go ((c.set (LQ_EYECNT_COUNT q) n).set (LQ_EYEPT_DONE q) 1) none
      (c.scanning l = true → Passes (.eyePointDone t q count) t s) ∧
      (c.scanning l = false → Acts (.eyePointDone t q count) t s
        (if (f.lane l).scan = 3 then f.setLane l { f.lane l with scan := 1 } else f))) := by
  have start : exec (.eyePointStart t m q v) s = .next ((s.at_ t).onChip fun c => c.ownWrite m .lq q 0x48 (·.writeEyept q v.toNat)) := rfl
  have done : exec (.eyePointDone t q count) s = .next ((s.at_ t).onChip fun c => c.eyePointDone q count) := rfl
  have startActs {d : Chip} := acts_onChip (d := d) _ start
  have startPasses := passes_onChip _ start
  have doneActs {d : Chip} := acts_onChip (d := d) _ done
  have donePasses := passes_onChip _ done
  generalize (s.at_ t).chip = c at *
  exact ⟨fun may there => ⟨fun running go => startPasses ((Chip.ownWrite_granted may there _).trans (Chip.writeEyept_running running go)),
      fun quiet => startActs ((Chip.ownWrite_granted may there _).trans (Chip.writeEyept_shows quiet)),
      fun free go => startActs ((Chip.ownWrite_granted may there _).trans (Chip.writeEyept_starts free go))⟩,
    fun none => donePasses (Chip.eyePointDone_none none),
    fun p found => ⟨fun busy => donePasses ((Chip.eyePointDone_some found).trans (if_pos busy)),
      fun free => doneActs ((Chip.eyePointDone_some found).trans (if_neg (Bool.eq_false_iff.1 free)))⟩⟩

/-! ### Recalibration (R270) -/

section
variable {c : Chip} {l : Nat} {beyond : Bool}

/-- Lane l has its sampler's new trim, or keeps the previous one. -/
def Chip.recalTrimmed (c : Chip) (l : Nat) (beyond : Bool) : Chip :=
  if beyond = true then (c.raiseLane l 18).setLane l { (c.raiseLane l 18).lane l with recal := false, sampler := (c.lane l).sampler }
  else (c.fresh 65536).2.setLane l { (c.fresh 65536).2.lane l with recal := false, sampler := (c.fresh 65536).1 }

/-- No lane recalibrates, and another pass is asked for. -/
def Chip.passOver (c : Chip) : Prop := (∀ j < 96, (c.lane j).recal = false) ∧ c.lanes.again = true

theorem Chip.passOver_iff : (!c.recalibrating && c.lanes.again) = true ↔ c.passOver := by
  rw [Bool.and_eq_true, Bool.not_eq_true', Chip.recalibrating, List.any_eq_false, Chip.passOver]
  simp only [List.mem_range, Bool.not_eq_true]

theorem Chip.recalNext_over (h : (c.recalFrom (l / 4) (l % 4 + 1)).passOver) : c.recalNext l = (c.recalFrom (l / 4) (l % 4 + 1)).recalPass :=
  if_pos (Chip.passOver_iff.2 h)

theorem Chip.recalNext_more (h : ¬ (c.recalFrom (l / 4) (l % 4 + 1)).passOver) : c.recalNext l = c.recalFrom (l / 4) (l % 4 + 1) :=
  if_neg (mt Chip.passOver_iff.1 h)

theorem Chip.recalDone_idle (h : (c.lane l).recal = false ∨ (c.lane l).scan ≠ 0) : c.recalDone l beyond = c := by
  refine if_pos ?_
  rw [Bool.or_eq_true, Bool.not_eq_true', decide_eq_true_iff]
  exact h

theorem Chip.recalDone_ends (runs : (c.lane l).recal = true) (free : (c.lane l).scan = 0) : c.recalDone l beyond = (c.recalTrimmed l beyond).recalNext l := by
  refine (if_neg ?_).trans ?_
  · rw [runs, free]
    decide
  · cases beyond <;> rfl

end

theorem laneRecalDone_acts (t : Nat) (l : Fin 96) (beyond : Bool) (s : State) :
    let e := Instr.laneRecalDone t l beyond
    let c := (s.at_ t).chip
    let x := c.lane l
    let new := c.fresh 65536
    let kept := c.raiseLane l 18
    let d := if beyond = true then kept.setLane l { kept.lane l with recal := false, sampler := x.sampler }
      else new.2.setLane l { new.2.lane l with recal := false, sampler := new.1 }
    let f := d.recalFrom (l / 4) (l % 4 + 1)
    let last : Prop := (∀ j < 96, (f.lane j).recal = false) ∧ f.lanes.again = true
    (x.recal = false ∨ x.scan ≠ 0 → Passes e t s) ∧
    (x.recal = true → x.scan = 0 → ¬ last → Acts e t s f) ∧ (x.recal = true → x.scan = 0 → last → Acts e t s f.recalPass) := by
  have run : exec (.laneRecalDone t l beyond) s = .next ((s.at_ t).onChip fun c => c.recalDone l beyond) := rfl
  have acts {d : Chip} := acts_onChip (d := d) _ run
  have passes := passes_onChip _ run
  generalize (s.at_ t).chip = c at acts passes ⊢
  exact ⟨fun idle => passes (Chip.recalDone_idle idle),
    fun runs free more => acts ((Chip.recalDone_ends runs free).trans (Chip.recalNext_more more)),
    fun runs free last => acts ((Chip.recalDone_ends runs free).trans (Chip.recalNext_over last))⟩

/-! ### Launching (R280) -/

section
variable {c : Chip} {l : Nat} {f g : LaneFrame} {q : List LaneFrame}

/-- Of two waiting frames the one that goes first, f the later of them. -/
def Chip.firstOfTwo (c : Chip) (best : Option LaneFrame) (f : LaneFrame) : Option LaneFrame :=
  match best with
  | none => some f
  | some g =>
    if f.rank < g.rank then some f
    else match f, g with
      | .row k n h, .row k' n' h' => if c.rowBefore k n h k' n' h' then some f else some g
      | _, _ => some g

/-- Frame f may go first of those of q: no other has a lesser rank, and no other row goes before it. -/
def Chip.GoesFirst (c : Chip) (q : List LaneFrame) (f : LaneFrame) : Prop :=
  f ∈ q ∧ (∀ g ∈ q, f.rank ≤ g.rank) ∧ ∀ k n h k' n' h', f = .row k n h → .row k' n' h' ∈ q → c.rowBefore k' n' h' k n h = false

theorem LaneFrame.rank_le (f : LaneFrame) : f.rank ≤ 6 := by
  cases f with
  | ctrl code _ _ _ _ _ =>
    rw [LaneFrame.rank]
    split <;> decide
  | _ => simp [LaneFrame.rank]

theorem Chip.rowBefore_iff {k n h k' n' h' : Nat} : c.rowBefore k n h k' n' h' = true ↔ n < n' ∨ n = n' ∧
    ((((c.setFor n).barT k 5).spans.find? fun x => x.head = h).map (·.first)).getD 0 <
      ((((c.setFor n').barT k' 5).spans.find? fun x => x.head = h').map (·.first)).getD 0 := by
  rw [Chip.rowBefore, Bool.or_eq_true, Bool.and_eq_true, decide_eq_true_iff, decide_eq_true_iff, decide_eq_true_iff]

theorem Chip.rowBefore_irrefl {k n h : Nat} : c.rowBefore k n h k n h = false := by
  rw [Bool.eq_false_iff, Ne, Chip.rowBefore_iff]
  omega

/-- A row that goes before one that nothing goes before has nothing before it. -/
theorem Chip.rowBefore_trans {k n h k' n' h' i m x : Nat} (before : c.rowBefore k n h k' n' h' = true) (least : c.rowBefore i m x k' n' h' = false) :
    c.rowBefore i m x k n h = false := by
  rw [Bool.eq_false_iff, Ne, Chip.rowBefore_iff] at least ⊢
  rw [Chip.rowBefore_iff] at before
  omega

theorem Chip.goesFirst_single : c.GoesFirst [f] f := by
  refine ⟨List.mem_singleton_self f, fun g hg => ?_, fun k n h k' n' h' hf hr => ?_⟩
  · exact Nat.le_of_eq (congrArg LaneFrame.rank (List.mem_singleton.1 hg).symm)
  · rw [hf, List.mem_singleton] at hr
    cases hr
    exact Chip.rowBefore_irrefl

/-- A frame of lesser rank goes first. -/
theorem Chip.GoesFirst.less (first : c.GoesFirst q g) (h : f.rank < g.rank) : c.GoesFirst (q ++ [f]) f := by
  obtain ⟨_, least, _⟩ := first
  refine ⟨by simp, fun x hx => ?_, fun k n i k' n' i' hf hr => ?_⟩
  · rcases List.mem_append.1 hx with hx | hx
    · exact Nat.le_trans (Nat.le_of_lt h) (least x hx)
    · exact Nat.le_of_eq (congrArg LaneFrame.rank (List.mem_singleton.1 hx).symm)
  · have row : f.rank = 6 := by rw [hf]; rfl
    have := g.rank_le
    omega

/-- A frame of no lesser rank does not go first unless it is a row before the one that does. -/
theorem Chip.GoesFirst.keeps (first : c.GoesFirst q g) (h : g.rank ≤ f.rank)
    (rows : ∀ k n i k' n' i', g = .row k n i → f = .row k' n' i' → c.rowBefore k' n' i' k n i = false) : c.GoesFirst (q ++ [f]) g := by
  obtain ⟨mem, least, before⟩ := first
  refine ⟨List.mem_append_left _ mem, fun x hx => ?_, fun k n i k' n' i' hg hr => ?_⟩
  · rcases List.mem_append.1 hx with hx | hx
    · exact least x hx
    · rw [List.mem_singleton.1 hx]
      exact h
  · rcases List.mem_append.1 hr with hr | hr
    · exact before k n i k' n' i' hg hr
    · exact rows k n i k' n' i' hg (List.mem_singleton.1 hr).symm

/-- A row before the one that goes first goes first. -/
theorem Chip.GoesFirst.row {k n i k' n' i' : Nat} (first : c.GoesFirst q (.row k' n' i')) (h : c.rowBefore k n i k' n' i' = true) :
    c.GoesFirst (q ++ [.row k n i]) (.row k n i) := by
  obtain ⟨_, least, before⟩ := first
  refine ⟨by simp, fun x hx => ?_, fun k₁ n₁ i₁ k₂ n₂ i₂ hf hr => ?_⟩
  · rcases List.mem_append.1 hx with hx | hx
    · exact least x hx
    · exact Nat.le_of_eq (congrArg LaneFrame.rank (List.mem_singleton.1 hx).symm)
  · cases hf
    rcases List.mem_append.1 hr with hr | hr
    · exact Chip.rowBefore_trans h (before _ _ _ _ _ _ rfl hr)
    · cases List.mem_singleton.1 hr
      exact Chip.rowBefore_irrefl

theorem Chip.firstOfTwo_less (h : f.rank < g.rank) : c.firstOfTwo (some g) f = some f := if_pos h

theorem Chip.firstOfTwo_rows {k n i k' n' i' : Nat} : c.firstOfTwo (some (.row k' n' i')) (.row k n i) =
    if c.rowBefore k n i k' n' i' then some (.row k n i) else some (.row k' n' i') := by
  rw [Chip.firstOfTwo]
  exact if_neg (Nat.lt_irrefl 6)

theorem Chip.firstOfTwo_keeps (h : ¬ f.rank < g.rank) (other : ∀ k n i k' n' i', g = .row k' n' i' → f ≠ .row k n i) : c.firstOfTwo (some g) f = some g := by
  refine (if_neg h).trans ?_
  split
  · exact absurd rfl (other _ _ _ _ _ _ rfl)
  · rfl

theorem Chip.firstOfTwo_goesFirst (first : c.GoesFirst q g) : ∃ x, c.firstOfTwo (some g) f = some x ∧ c.GoesFirst (q ++ [f]) x := by
  by_cases less : f.rank < g.rank
  · exact ⟨f, Chip.firstOfTwo_less less, first.less less⟩
  · by_cases rows : ∃ k n i k' n' i', g = .row k' n' i' ∧ f = .row k n i
    · obtain ⟨k, n, i, k', n', i', rfl, rfl⟩ := rows
      rw [Chip.firstOfTwo_rows]
      split
      · next before => exact ⟨_, rfl, first.row before⟩
      · next after => exact ⟨_, rfl, first.keeps (Nat.not_lt.1 less) fun _ _ _ _ _ _ hg hf => by cases hg; cases hf; exact Bool.eq_false_iff.2 after⟩
    · exact ⟨g, Chip.firstOfTwo_keeps less fun k n i k' n' i' hg hf => rows ⟨k, n, i, k', n', i', hg, hf⟩,
        first.keeps (Nat.not_lt.1 less) fun k' n' i' k n i hg hf => (rows ⟨k, n, i, k', n', i', hg, hf⟩).elim⟩

/-- Of the frames that wait, the one that is found goes first. -/
theorem Chip.foldl_goesFirst (h : q ≠ []) : ∃ x, q.foldl c.firstOfTwo none = some x ∧ c.GoesFirst q x := by
  induction q using snoc_induction with
  | nil => exact absurd rfl h
  | append_singleton q f ih =>
    rw [List.foldl_append]
    by_cases empty : q = []
    · rw [empty]
      exact ⟨f, rfl, Chip.goesFirst_single⟩
    · obtain ⟨g, found, first⟩ := ih empty
      rw [found]
      exact Chip.firstOfTwo_goesFirst first

theorem Chip.bestWaiting_eq : c.bestWaiting l = (c.lane l).txq.foldl c.firstOfTwo none := rfl

theorem Chip.bestWaiting_none (empty : (c.lane l).txq = []) : c.bestWaiting l = none := by rw [Chip.bestWaiting_eq, empty]; rfl

theorem Chip.bestWaiting_some (waits : (c.lane l).txq ≠ []) : ∃ x, c.bestWaiting l = some x ∧ c.GoesFirst (c.lane l).txq x := Chip.foldl_goesFirst waits

end

section
variable {c : Chip} {l : Nat} {f : LaneFrame}

/-- The rank of the frame that goes first, 9 with none. -/
def bestRank (best : Option LaneFrame) : Nat := match best with | some f => f.rank | none => 9

/-- A frame boundary of a lane in SERVICE. -/
def Chip.boundary (c : Chip) (l : Nat) : Chip :=
  if 3 < bestRank (c.bestWaiting l) ∧ ¬ (c.waiting l false).isEmpty then c.launchStamps l false
  else if 4 < bestRank (c.bestWaiting l) ∧ ¬ (c.waiting l true).isEmpty then c.launchStamps l true
  else match c.bestWaiting l with
    | some f => c.launchFrame l f
    | none => c

theorem Chip.laneLaunch_eq : c.laneLaunch l = if c.laneState l ≠ lsSERVICE then c else c.freeze.boundary l := rfl

theorem Chip.laneLaunch_down (down : c.laneState l ≠ 4) : c.laneLaunch l = c := if_pos down

theorem Chip.laneLaunch_serves (serves : c.laneState l = 4) : c.laneLaunch l = c.freeze.boundary l := if_neg (Classical.not_not.2 serves)

/-- Frames that all have a rank above a number below 9 leave none of lesser rank. -/
theorem Chip.lt_bestRank {n : Nat} (h9 : n < 9) (h : ∀ f ∈ (c.lane l).txq, n < f.rank) : n < bestRank (c.bestWaiting l) := by
  by_cases empty : (c.lane l).txq = []
  · rw [Chip.bestWaiting_none empty]
    exact h9
  · obtain ⟨f, found, mem, _⟩ := Chip.bestWaiting_some empty
    rw [found]
    exact h f mem

theorem Chip.boundary_stamps (waits : c.waiting l false ≠ []) (h : ∀ f ∈ (c.lane l).txq, 3 < f.rank) : c.boundary l = c.launchStamps l false :=
  if_pos ⟨Chip.lt_bestRank (by decide) h, mt List.isEmpty_iff.1 waits⟩

theorem Chip.boundary_amendments (no : c.waiting l false = []) (waits : c.waiting l true ≠ []) (h : ∀ f ∈ (c.lane l).txq, 4 < f.rank) :
    c.boundary l = c.launchStamps l true :=
  (if_neg fun e => e.2 (List.isEmpty_iff.2 no)).trans (if_pos ⟨Chip.lt_bestRank (by decide) h, mt List.isEmpty_iff.1 waits⟩)

/-- With no stamps that go before it, the frame that goes first is launched. -/
theorem Chip.boundary_best (h : bestRank (c.bestWaiting l) ≤ 3 ∨ c.waiting l false = [] ∧ (bestRank (c.bestWaiting l) ≤ 4 ∨ c.waiting l true = [])) :
    c.boundary l = match c.bestWaiting l with | some f => c.launchFrame l f | none => c := by
  refine (if_neg fun e => ?_).trans (if_neg fun e => ?_)
  · exact h.elim (Nat.not_le.2 e.1) fun no => e.2 (List.isEmpty_iff.2 no.1)
  · exact h.elim (fun low => absurd e.1 (by omega)) fun no => no.2.elim (Nat.not_le.2 e.1) fun none => e.2 (List.isEmpty_iff.2 none)

theorem Chip.boundary_idle (noStamps : c.waiting l false = []) (noAmendments : c.waiting l true = []) (empty : (c.lane l).txq = []) : c.boundary l = c := by
  rw [Chip.boundary_best (.inr ⟨noStamps, .inr noAmendments⟩), Chip.bestWaiting_none empty]

theorem Chip.boundary_frame (mem : f ∈ (c.lane l).txq) (before : f.rank ≤ 3 ∨ c.waiting l false = [] ∧ (f.rank ≤ 4 ∨ c.waiting l true = []))
    (least : ∀ g ∈ (c.lane l).txq, f.rank ≤ g.rank) : ∃ f' ∈ (c.lane l).txq, f'.rank = f.rank ∧ (∀ g ∈ (c.lane l).txq, f'.rank ≤ g.rank) ∧
      c.boundary l = c.launchFrame l f' ∧ ∀ k n h k' n' h', f' = .row k n h → .row k' n' h' ∈ (c.lane l).txq → c.rowBefore k' n' h' k n h = false := by
  obtain ⟨f', found, mem', least', rows⟩ := Chip.bestWaiting_some (List.ne_nil_of_mem mem)
  have same : f'.rank = f.rank := Nat.le_antisymm (least' f mem) (least f' mem')
  have rank : bestRank (c.bestWaiting l) = f.rank := by rw [found]; exact same
  refine ⟨f', mem', same, least', ?_, rows⟩
  rw [Chip.boundary_best (by rw [rank]; exact before), found]

end

theorem laneFrameLaunch_acts (t : Nat) (l : Fin 96) (s : State) :
    let e := Instr.laneFrameLaunch t l
    let c := (s.at_ t).chip
    let d := c.freeze
    let q := (d.lane l).txq
    (c.laneState l ≠ 4 → Passes e t s) ∧
    (c.laneState l = 4 → d.waiting l false ≠ [] → (∀ f ∈ q, 3 < f.rank) → Acts e t s (d.launchStamps l false)) ∧
    (c.laneState l = 4 → d.waiting l false = [] → d.waiting l true ≠ [] → (∀ f ∈ q, 4 < f.rank) → Acts e t s (d.launchStamps l true)) ∧
    (c.laneState l = 4 → d.waiting l false = [] → d.waiting l true = [] → q = [] → Acts e t s d) ∧
    (∀ f ∈ q, c.laneState l = 4 → f.rank ≤ 3 ∨ d.waiting l false = [] ∧ (f.rank ≤ 4 ∨ d.waiting l true = []) → (∀ g ∈ q, f.rank ≤ g.rank) →
      ∃ f' ∈ q, f'.rank = f.rank ∧ (∀ g ∈ q, f'.rank ≤ g.rank) ∧ Acts e t s (d.launchFrame l f') ∧
        ∀ k n h k' n' h', f' = .row k n h → .row k' n' h' ∈ q → d.rowBefore k' n' h' k n h = false) := by
  have run : exec (.laneFrameLaunch t l) s = .next ((s.at_ t).onChip (·.laneLaunch l)) := rfl
  have acts {d : Chip} := acts_onChip (d := d) _ run
  have passes := passes_onChip _ run
  generalize (s.at_ t).chip = c at acts passes ⊢
  refine ⟨fun down => passes (Chip.laneLaunch_down down),
    fun serves waits later => acts ((Chip.laneLaunch_serves serves).trans (Chip.boundary_stamps waits later)),
    fun serves no waits later => acts ((Chip.laneLaunch_serves serves).trans (Chip.boundary_amendments no waits later)),
    fun serves no none empty => acts ((Chip.laneLaunch_serves serves).trans (Chip.boundary_idle no none empty)),
    fun f mem serves before least => ?_⟩
  obtain ⟨f', mem', same, least', eq, rows⟩ := Chip.boundary_frame mem before least
  exact ⟨f', mem', same, least', acts ((Chip.laneLaunch_serves serves).trans eq), rows⟩

/-- Settles O48: clause by clause, a marker and what follows a good one, freezing, scans and eye points, recalibration, and a launch by the walk over the frames
that wait, which keeps the one that goes first. -/
theorem laneMarkersEyesAndLaunches : Obligations.LaneMarkersEyesAndLaunches :=
  ⟨markerSend_acts, cairnMarker_acts, goodMarker_facts, sampler_acts, quickScanDone_acts, eyePoint_acts, laneRecalDone_acts, laneFrameLaunch_acts⟩

end Sys2Proof.Machine
end

section
/-!
PROOFS. Bring-up of a lane: enable and mode (R250), block lock and its limits (R253 to R256), training (R257 to R260, R266) and deskew (R267).
-/
namespace Sys2Proof.Machine

/-! ### Enable, mode and rate (R250) -/

section
variable {c : Chip} {l q : Nat}

theorem Chip.laneEn_head (head : l < 96) : c.laneEn l = bit (c.get (LQ_CFG_EN (l / 4))) (l % 4) := by
  rw [Chip.laneEn, isRope_eq_false_iff.2 head]
  rfl

/-- The enable of a lane is written. -/
def Chip.laneEnabled (c : Chip) (l : Nat) (on : Bool) : Chip :=
  if c.laneEn l = on then c
  else if on then (c.setBit (LQ_CFG_EN (l / 4)) (l % 4) on).enterLock l else (c.setBit (LQ_CFG_EN (l / 4)) (l % 4) on).laneOff l

end

theorem laneEnable_acts (t : Nat) (m : Fin 8) (l : Fin 96) (on : Bool) (s : State) :
    let e := Instr.laneEnable t m l on
    let c := (s.at_ t).chip
    c.mayWrite m .lq (l / 4) 0x40 = true → c.reachable .lq (l / 4) = true →
      let d := c.setBit (LQ_CFG_EN (l / 4)) (l % 4) on
      let was := bit (c.get (LQ_CFG_EN (l / 4))) (l % 4)
      (was = on → Passes e t s) ∧ (was = false → on = true → Acts e t s (d.enterLock l)) ∧ (was = true → on = false → Acts e t s (d.laneOff l)) := by
  have run : exec (.laneEnable t m l on) s = .next ((s.at_ t).onChip fun c => c.ownWrite m .lq (l / 4) 0x40 fun c => c.laneEnabled l on) := rfl
  have acts {d : Chip} := acts_onChip (d := d) _ run
  have passes := passes_onChip _ run
  generalize (s.at_ t).chip = c at acts passes ⊢
  intro e c may there d was
  have old : c.laneEn l = was := Chip.laneEn_head l.2
  refine ⟨fun same => passes ((Chip.ownWrite_granted may there _).trans (if_pos (old.trans same))), fun off on => ?_, fun wasOn off => ?_⟩
  · refine acts ((Chip.ownWrite_granted may there _).trans ((if_neg ?_).trans (if_pos on)))
    rw [old, off, on]
    decide
  · refine acts ((Chip.ownWrite_granted may there _).trans ((if_neg ?_).trans (if_neg (Bool.eq_false_iff.1 off))))
    rw [old, off, wasOn]
    decide

section
variable {c : Chip} {q : Nat} {mode rate : Bool}

/-- MODE and RATE keep their values. -/
def Chip.sameMode (c : Chip) (q : Nat) (mode rate : Bool) : Prop := (mode = true ↔ c.get (LQ_CFG_MODE q) ≠ 0) ∧ (rate = true ↔ c.get (LQ_CFG_RATE q) ≠ 0)

theorem Chip.is_eq_iff {f : Fld} {b : Bool} : c.is f = b ↔ (b = true ↔ c.get f ≠ 0) := by
  rw [Bool.eq_iff_iff, Chip.is_iff]
  exact ⟨Iff.symm, Iff.symm⟩

theorem Chip.sameMode_iff : (c.is (LQ_CFG_MODE q) = mode ∧ c.is (LQ_CFG_RATE q) = rate) ↔ c.sameMode q mode rate := by
  rw [Chip.is_eq_iff, Chip.is_eq_iff, Chip.sameMode]

theorem Chip.quadUsed_iff {ls : List Nat} : ls.any c.laneInUse = true ↔ ∃ l ∈ ls, c.laneInUse l = true := List.any_eq_true

/-- Quad q takes on a mode and a rate, and its enabled lanes retrain. -/
def Chip.quadRetrained (c : Chip) (q : Nat) (mode rate : Bool) : Chip :=
  let lanes := (List.range 4).map (4 * q + ·)
  let d := (c.set (LQ_CFG_MODE q) (b2n mode)).set (LQ_CFG_RATE q) (b2n rate)
  let f := if mode = true then d.forAll lanes (fun c l => c.set (LQ_RTT_RTT q (l % 4)) 0) else d
  f.forAll (lanes.filter f.laneEn) Chip.enterLock

theorem Chip.modeChange_same (same : c.sameMode q mode rate) : c.modeChange q mode rate = c := if_pos (Chip.sameMode_iff.2 same)

variable (new : ¬ c.sameMode q mode rate)
include new

theorem Chip.modeChange_used (used : ∃ l ∈ (List.range 4).map (4 * q + ·), c.laneInUse l = true) : c.modeChange q mode rate = c.raise .lq q { src := 27 } :=
  (if_neg (mt Chip.sameMode_iff.1 new)).trans (if_pos (Chip.quadUsed_iff.2 used))

theorem Chip.modeChange_free (free : ¬ ∃ l ∈ (List.range 4).map (4 * q + ·), c.laneInUse l = true) : c.modeChange q mode rate = c.quadRetrained q mode rate :=
  (if_neg (mt Chip.sameMode_iff.1 new)).trans (if_neg (mt Chip.quadUsed_iff.1 free))

end

theorem laneModeChange_acts (t : Nat) (m : Fin 8) (q : Fin 24) (mode rate : Bool) (s : State) :
    let e := Instr.laneModeChange t m q mode rate
    let c := (s.at_ t).chip
    let lanes := (List.range 4).map (4 * q.val + ·)
    let same : Prop := (mode = true ↔ c.get (LQ_CFG_MODE q) ≠ 0) ∧ (rate = true ↔ c.get (LQ_CFG_RATE q) ≠ 0)
    let used : Prop := ∃ l ∈ lanes, c.laneInUse l = true
    let d := (c.set (LQ_CFG_MODE q) (b2n mode)).set (LQ_CFG_RATE q) (b2n rate)
    c.mayWrite m .lq q 0x40 = true → c.reachable .lq q = true →
      let f := if mode = true then d.forAll lanes (fun c l => c.set (LQ_RTT_RTT q (l % 4)) 0) else d
      (same → Passes e t s) ∧ (¬ same → used → Acts e t s (c.raise .lq q { src := 27 })) ∧
      (¬ same → ¬ used → Acts e t s (f.forAll (lanes.filter f.laneEn) Chip.enterLock)) := by
  have run : exec (.laneModeChange t m q mode rate) s = .next ((s.at_ t).onChip fun c => c.ownWrite m .lq q 0x40 fun c => c.modeChange q mode rate) := rfl
  have acts {d : Chip} := acts_onChip (d := d) _ run
  have passes := passes_onChip _ run
  generalize (s.at_ t).chip = c at acts passes ⊢
  exact fun may there => ⟨fun same => passes ((Chip.ownWrite_granted may there _).trans (Chip.modeChange_same same)),
    fun new used => acts ((Chip.ownWrite_granted may there _).trans (Chip.modeChange_used new used)),
    fun new free => acts ((Chip.ownWrite_granted may there _).trans (Chip.modeChange_free new free))⟩

/-! ### Block lock and the limits of each state (R253 to R256) -/

theorem blockLocked_iff {hs : List Bool} : blockLocked hs = true ↔ 64 ≤ hs.length ∧ ∀ v ∈ hs.drop (hs.length - 64), v = true := by
  rw [blockLocked, Bool.and_eq_true, decide_eq_true_iff, List.all_eq_true]
  exact Iff.rfl

theorem blockLost_iff {hs : List Bool} : blockLost hs = true ↔ 16 ≤ (hs.drop (hs.length - 64)).countP fun v => !v := decide_eq_true_iff

section
variable {c : Chip} {l st n : Nat}

theorem Chip.lingered_iff : c.lingered l st n = true ↔ c.laneState l = st ∧ (c.lane l).since + n ≤ c.dt := by
  rw [Chip.lingered, Bool.and_eq_true, decide_eq_true_iff, decide_eq_true_iff]

/-- A state that has not lasted has not lingered. -/
theorem Chip.not_lingered (h : c.laneState l ≠ st ∨ ¬ (c.lane l).since + n ≤ c.dt) : ¬ c.lingered l st n = true :=
  fun e => h.elim (· (Chip.lingered_iff.1 e).1) (· (Chip.lingered_iff.1 e).2)

/-- Block lock of lane l. -/
def Chip.locks (c : Chip) (l : Nat) : Chip :=
  if c.laneState l = lsLOCK ∧ ¬ (c.lane l).offFreq then c.enterTrain l
  else if c.laneState l = lsRELOCK then ((c.bump (LQ_LSTAT_RELOCKS (l / 4) (l % 4))).enterService l).raiseLane l 19
  else c

theorem Chip.locks_trains (lock : c.laneState l = 1) (near : (c.lane l).offFreq = false) : c.locks l = c.enterTrain l := if_pos ⟨lock, Bool.eq_false_iff.1 near⟩

theorem Chip.locks_serves (relock : c.laneState l = 5) : c.locks l = ((c.bump (LQ_LSTAT_RELOCKS (l / 4) (l % 4))).enterService l).raiseLane l 19 := by
  refine (if_neg fun h => ?_).trans (if_pos relock)
  exact absurd (h.1.symm.trans relock) (by decide)

theorem Chip.locks_stays (relock : c.laneState l ≠ 5) (lock : c.laneState l ≠ 1 ∨ (c.lane l).offFreq = true) : c.locks l = c :=
  (if_neg fun h => lock.elim (· h.1) h.2).trans (if_neg relock)

end

theorem blockLock_acts (t : Nat) (l : Fin 100) (hs : List Bool) (s : State) :
    let c := (s.at_ t).chip
    let x := c.lane l
    let st := c.laneState l
    let latest := hs.drop (hs.length - 64)
    let locked : Prop := 64 ≤ hs.length ∧ ∀ v ∈ latest, v = true
    let lost : Prop := 16 ≤ latest.countP (fun v => !v)
    ((locked → st = 1 → x.offFreq = false → Acts (.blockLock t ⟨l, hs⟩) t s (c.enterTrain l)) ∧
     (locked → st = 5 → Acts (.blockLock t ⟨l, hs⟩) t s (((c.bump (LQ_LSTAT_RELOCKS (l / 4) (l % 4))).enterService l).raiseLane l 19)) ∧
     (¬ locked ∨ st ≠ 5 ∧ (st ≠ 1 ∨ x.offFreq = true) → Passes (.blockLock t ⟨l, hs⟩) t s)) ∧
    ((lost → st = 4 → Acts (.blockLockLost t ⟨l, hs⟩) t s ((c.setLane l { x with tries := 1 }).laneTo l 5)) ∧
     (¬ lost ∨ st ≠ 4 → Passes (.blockLockLost t ⟨l, hs⟩) t s)) := by
  have lock : exec (.blockLock t ⟨l, hs⟩) s = .next ((s.at_ t).onChip fun c => if !blockLocked hs then c else c.locks l) := rfl
  have lose : exec (.blockLockLost t ⟨l, hs⟩) s = .next ((s.at_ t).onChip fun c => if blockLost hs then c.loseLock l else c) := rfl
  have lockActs {d : Chip} := acts_onChip (d := d) _ lock
  have lockPasses := passes_onChip _ lock
  have loseActs {d : Chip} := acts_onChip (d := d) _ lose
  have losePasses := passes_onChip _ lose
  generalize (s.at_ t).chip = c at *
  have unlocked : (!blockLocked hs) = true ↔ ¬ (64 ≤ hs.length ∧ ∀ v ∈ hs.drop (hs.length - 64), v = true) := by
    rw [Bool.not_eq_true', Bool.eq_false_iff, Ne, blockLocked_iff]
  refine ⟨⟨fun locked st near => lockActs ((if_neg fun e => unlocked.1 e locked).trans (Chip.locks_trains st near)),
      fun locked st => lockActs ((if_neg fun e => unlocked.1 e locked).trans (Chip.locks_serves st)), fun h => lockPasses ?_⟩,
    fun lost st => loseActs ((if_pos (blockLost_iff.2 lost)).trans (if_pos st)), fun h => losePasses ?_⟩
  · by_cases locked : 64 ≤ hs.length ∧ ∀ v ∈ hs.drop (hs.length - 64), v = true
    · obtain ⟨relock, out⟩ := h.resolve_left (Classical.not_not.2 locked)
      exact (if_neg fun e => unlocked.1 e locked).trans (Chip.locks_stays relock out)
    · exact if_pos (unlocked.2 locked)
  · by_cases lost : blockLost hs = true
    · exact (if_pos lost).trans (if_neg (h.resolve_left (Classical.not_not.2 (blockLost_iff.1 lost))))
    · exact if_neg lost

section
variable {c : Chip} {l : Nat}

/-- A lane in use, fenced when its relock or its markers fail. -/
def Chip.fencedInUse (c : Chip) (l : Nat) : Prop := c.laneInUse l = true ∧ l < 96

theorem Chip.fencedInUse_iff : (c.laneInUse l ∧ ¬ isRope l) ↔ c.fencedInUse l := by rw [Chip.fencedInUse, isRope_iff, Nat.not_le]

/-- An attempt to relock has lasted 20 µs. -/
def Chip.relockEnds (c : Chip) (l : Nat) : Chip :=
  if !c.lingered l lsRELOCK (20 * dtMicro) then c
  else if (c.lane l).tries < 3 then c.setLane l { c.lane l with tries := (c.lane l).tries + 1, since := c.dt }
  else if c.laneInUse l ∧ ¬ isRope l then c.fenceLane l lcRELOCK_FAIL (4 + l % 4) true
  else (c.laneCause l lcRELOCK_FAIL).enterLock l

theorem Chip.relockEnds_early (h : c.laneState l ≠ 5 ∨ ¬ (c.lane l).since + 20 * dtMicro ≤ c.dt) : c.relockEnds l = c :=
  if_pos (by rw [Bool.not_eq_true']; exact Bool.eq_false_iff.2 (Chip.not_lingered h))

variable (relock : c.laneState l = 5) (long : (c.lane l).since + 20 * dtMicro ≤ c.dt)
include relock long

theorem Chip.relockEnds_late : c.relockEnds l = if (c.lane l).tries < 3 then c.setLane l { c.lane l with tries := (c.lane l).tries + 1, since := c.dt }
    else if c.laneInUse l ∧ ¬ isRope l then c.fenceLane l lcRELOCK_FAIL (4 + l % 4) true
    else (c.laneCause l lcRELOCK_FAIL).enterLock l := by
  have late : c.lingered l lsRELOCK (20 * dtMicro) = true := Chip.lingered_iff.2 ⟨relock, long⟩
  refine if_neg fun e => ?_
  rw [late] at e
  exact Bool.noConfusion e

theorem Chip.relockEnds_again (more : (c.lane l).tries < 3) : c.relockEnds l = c.setLane l { c.lane l with tries := (c.lane l).tries + 1, since := c.dt } :=
  (Chip.relockEnds_late relock long).trans (if_pos more)

variable (enough : 3 ≤ (c.lane l).tries)
include enough

theorem Chip.relockEnds_fences (used : c.fencedInUse l) : c.relockEnds l = c.fenceLane l 9 (4 + l % 4) true :=
  (Chip.relockEnds_late relock long).trans ((if_neg (Nat.not_lt.2 enough)).trans (if_pos (Chip.fencedInUse_iff.2 used)))

theorem Chip.relockEnds_trains (unused : ¬ c.fencedInUse l) : c.relockEnds l = (c.laneCause l 9).enterLock l :=
  (Chip.relockEnds_late relock long).trans ((if_neg (Nat.not_lt.2 enough)).trans (if_neg (mt Chip.fencedInUse_iff.1 unused)))

end

/-- What a state that lasts too long leads to. -/
theorem lingers_act {t : Nat} {l st n : Nat} {s : State} {e : Instr} {f : Chip → Chip}
    (run : exec e s = .next ((s.at_ t).onChip fun c => if c.lingered l st n then f c else c)) :
    let c := (s.at_ t).chip
    (c.laneState l = st → (c.lane l).since + n ≤ c.dt → Acts e t s (f c)) ∧ (c.laneState l ≠ st ∨ ¬ (c.lane l).since + n ≤ c.dt → Passes e t s) :=
  ⟨fun same long => acts_onChip _ run (if_pos (Chip.lingered_iff.2 ⟨same, long⟩)), fun h => passes_onChip _ run (if_neg (Chip.not_lingered h))⟩

theorem relock_acts (t : Nat) (l : Fin 100) (s : State) :
    let c := (s.at_ t).chip
    let x := c.lane l
    let st := c.laneState l
    let long (n : Nat) : Prop := x.since + n ≤ c.dt
    let fenced : Prop := c.laneInUse l = true ∧ l.val < 96
    (st = 5 → long (20 * dtMicro) → x.tries < 3 → Acts (.relockTimeout t l) t s (c.setLane l { x with tries := x.tries + 1, since := c.dt })) ∧
     (st = 5 → long (20 * dtMicro) → 3 ≤ x.tries → fenced → Acts (.relockTimeout t l) t s (c.fenceLane l 9 (4 + l % 4) true)) ∧
     (st = 5 → long (20 * dtMicro) → 3 ≤ x.tries → ¬ fenced → Acts (.relockTimeout t l) t s ((c.laneCause l 9).enterLock l)) ∧
     (st ≠ 5 ∨ ¬ long (20 * dtMicro) → Passes (.relockTimeout t l) t s) := by
  have run : exec (.relockTimeout t l) s = .next ((s.at_ t).onChip (·.relockEnds l)) := rfl
  have acts {d : Chip} := acts_onChip (d := d) _ run
  have passes := passes_onChip _ run
  generalize (s.at_ t).chip = c at acts passes ⊢
  exact ⟨fun st long more => acts (Chip.relockEnds_again st long more), fun st long enough used => acts (Chip.relockEnds_fences st long enough used),
    fun st long enough unused => acts (Chip.relockEnds_trains st long enough unused), fun early => passes (Chip.relockEnds_early early)⟩

section
variable {c : Chip} {l : Nat}

/-- The lane's requester has had no answer for 2 ms. -/
def Chip.unanswered (c : Chip) (l : Nat) : Prop :=
  c.laneState l = 2 ∧ c.et5208 l = false ∧ (c.lane l).train.phase = 0 ∧ (c.lane l).train.since + 2 * dtMilli ≤ c.dt

theorem Chip.unanswered_iff : (c.laneState l = lsTRAIN ∧ ¬ c.et5208 l ∧ (c.lane l).train.phase = 0 ∧ (c.lane l).train.since + 2 * dtMilli ≤ c.dt) ↔
    c.unanswered l := by
  rw [Chip.unanswered, Bool.not_eq_true]
  exact Iff.rfl

/-- A lane of the group aligns on a later block. -/
def Chip.alignsLater (c : Chip) (l : Nat) : Prop := ∃ p, (c.lane l).alignEnd = some p ∧ ∃ y ∈ c.alignPlaces l, p < y.2

theorem Chip.alignsLater_iff : ((c.alignPlaces l).any fun e => match (c.lane l).alignEnd with | some p => decide (p < e.2) | none => false) = true ↔ c.alignsLater l := by
  rw [List.any_eq_true, Chip.alignsLater]
  cases (c.lane l).alignEnd with
  | none => simp
  | some p => simp

/-- TALIGN has passed. -/
def Chip.alignEnds (c : Chip) (l : Nat) : Chip :=
  if !c.lingered l lsALIGN (2 * dtMilli) then c
  else if c.et5208 l then
    if (c.alignPlaces l).any fun e => match (c.lane l).alignEnd with | some p => decide (p < e.2) | none => false then c
    else (c.laneFail l lcSKEW).alignGroup l
  else c.laneFail l lcMARKER_LOSS

theorem Chip.alignEnds_early (h : ¬ c.lingered l lsALIGN (2 * dtMilli) = true) : c.alignEnds l = c :=
  if_pos (by rw [Bool.not_eq_true']; exact Bool.eq_false_iff.2 h)

variable (late : c.lingered l lsALIGN (2 * dtMilli) = true)
include late

theorem Chip.alignEnds_late : c.alignEnds l = if c.et5208 l then
      if (c.alignPlaces l).any fun e => match (c.lane l).alignEnd with | some p => decide (p < e.2) | none => false then c else (c.laneFail l lcSKEW).alignGroup l
    else c.laneFail l lcMARKER_LOSS := if_neg fun e => by rw [late] at e; exact Bool.noConfusion e

theorem Chip.alignEnds_markers (fast : c.et5208 l = false) : c.alignEnds l = c.laneFail l 8 :=
  (Chip.alignEnds_late late).trans (if_neg (Bool.eq_false_iff.1 fast))

theorem Chip.alignEnds_skew (slow : c.et5208 l = true) (last : ¬ c.alignsLater l) : c.alignEnds l = (c.laneFail l 7).alignGroup l :=
  (Chip.alignEnds_late late).trans ((if_pos slow).trans (if_neg (mt Chip.alignsLater_iff.1 last)))

theorem Chip.alignEnds_waits (slow : c.et5208 l = true) (later : c.alignsLater l) : c.alignEnds l = c :=
  (Chip.alignEnds_late late).trans ((if_pos slow).trans (if_pos (Chip.alignsLater_iff.2 later)))

end

theorem alignTimeout_acts (t : Nat) (l : Fin 100) (s : State) :
    let c := (s.at_ t).chip
    let x := c.lane l
    let st := c.laneState l
    let long (n : Nat) : Prop := x.since + n ≤ c.dt
    let later : Prop := ∃ p, x.alignEnd = some p ∧ ∃ y ∈ c.alignPlaces l, p < y.2
    (st = 3 → long (2 * dtMilli) → c.et5208 l = false → Acts (.alignTimeout t l) t s (c.laneFail l 8)) ∧
     (st = 3 → long (2 * dtMilli) → c.et5208 l = true → ¬ later → Acts (.alignTimeout t l) t s ((c.laneFail l 7).alignGroup l)) ∧
     (st ≠ 3 ∨ ¬ long (2 * dtMilli) ∨ c.et5208 l = true ∧ later → Passes (.alignTimeout t l) t s) := by
  have run : exec (.alignTimeout t l) s = .next ((s.at_ t).onChip (·.alignEnds l)) := rfl
  have acts {d : Chip} := acts_onChip (d := d) _ run
  have passes := passes_onChip _ run
  generalize (s.at_ t).chip = c at acts passes ⊢
  refine ⟨fun st long fast => acts (Chip.alignEnds_markers (Chip.lingered_iff.2 ⟨st, long⟩) fast),
    fun st long slow last => acts (Chip.alignEnds_skew (Chip.lingered_iff.2 ⟨st, long⟩) slow last), fun h => passes ?_⟩
  by_cases late : c.lingered l lsALIGN (2 * dtMilli) = true
  · obtain ⟨st, long⟩ := Chip.lingered_iff.1 late
    obtain ⟨slow, later⟩ := (h.resolve_left (Classical.not_not.2 st)).resolve_left (Classical.not_not.2 long)
    exact Chip.alignEnds_waits late slow later
  · exact Chip.alignEnds_early late

theorem tapTimeout_acts (t : Nat) (l : Fin 100) (s : State) :
    let c := (s.at_ t).chip
    let x := c.lane l
    let asks : Prop := c.laneState l = 2 ∧ c.et5208 l = false ∧ x.train.phase = 0 ∧ x.train.since + 2 * dtMilli ≤ c.dt
    (asks → Acts (.tapTimeout t l) t s (c.laneFail l 2)) ∧ (¬ asks → Passes (.tapTimeout t l) t s) := by
  have run : exec (.tapTimeout t l) s = .next ((s.at_ t).onChip fun c =>
    if c.laneState l = lsTRAIN ∧ ¬ c.et5208 l ∧ (c.lane l).train.phase = 0 ∧ (c.lane l).train.since + 2 * dtMilli ≤ c.dt then c.laneFail l lcTAP_TIMEOUT else c) := rfl
  exact ⟨fun asks => acts_onChip _ run (if_pos (Chip.unanswered_iff.2 asks)), fun not => passes_onChip _ run (if_neg (mt Chip.unanswered_iff.1 not))⟩

/-! ### Training (R257 to R260, R266) -/

section
variable {c : Chip} {l : Nat} {b : List Byte}

/-- Lane l takes a training block. -/
def Chip.trains (c : Chip) (l : Nat) (b : List Byte) : Prop :=
  c.laneState l = 2 ∧ c.et5208 l = false ∧ b.length = 8 ∧ fieldAt b 0 1 = 0xD2 ∧ fieldAt b 7 1 = crcMsb 8 0x07 0 (b.take 7)

theorem Chip.trains_iff : (!(b.length = 8 && fieldAt b 0 1 = 0xD2 && fieldAt b 7 1 = crcMsb 8 0x07 0 (b.take 7)) || c.laneState l ≠ lsTRAIN || c.et5208 l) = true ↔
    ¬ c.trains l b := by
  have whole : (b.length = 8 && fieldAt b 0 1 = 0xD2 && fieldAt b 7 1 = crcMsb 8 0x07 0 (b.take 7)) = true ↔
      b.length = 8 ∧ fieldAt b 0 1 = 0xD2 ∧ fieldAt b 7 1 = crcMsb 8 0x07 0 (b.take 7) := by
    rw [Bool.and_eq_true, Bool.and_eq_true, decide_eq_true_iff, decide_eq_true_iff, decide_eq_true_iff, and_assoc]
  rw [Bool.or_eq_true, Bool.or_eq_true, Bool.not_eq_true', Bool.eq_false_iff, Ne, whole, decide_eq_true_iff, Chip.trains]
  refine ⟨fun h ⟨train, fast, ok⟩ => h.elim (·.elim (· ok) (· train)) (Bool.eq_false_iff.1 fast), fun h => Classical.byContradiction fun e => h ?_⟩
  obtain ⟨taken, fast⟩ := not_or.1 e
  obtain ⟨ok, train⟩ := not_or.1 taken
  exact ⟨Classical.not_not.1 train, Bool.eq_false_iff.2 fast, Classical.not_not.1 ok⟩

/-- The peer's training block names the other rate. -/
def Chip.rateDiffers (c : Chip) (l : Nat) (b : List Byte) : Prop := l < 96 ∧ c.fast (l / 4) = true ∧ bit (fieldAt b 4 1) 0 = false

theorem Chip.rateDiffers_iff : (!isRope l && c.fast (l / 4) && !bit (fieldAt b 4 1) 0) = true ↔ c.rateDiffers l b := by
  rw [Bool.and_eq_true, Bool.and_eq_true, Bool.not_eq_true', Bool.not_eq_true', isRope_eq_false_iff, and_assoc, Chip.rateDiffers]

theorem Chip.trainingBlock_other (h : ¬ c.trains l b) : c.trainingBlock l b = c := if_pos (Chip.trains_iff.2 h)

theorem Chip.trainingBlock_rate (h : c.trains l b) (differs : c.rateDiffers l b) : c.trainingBlock l b = c.laneFail l 4 :=
  (if_neg fun e => Chip.trains_iff.1 e h).trans (if_pos (Chip.rateDiffers_iff.2 differs))

theorem Chip.trainingBlock_answers (h : c.trains l b) (same : ¬ c.rateDiffers l b) : c.trainingBlock l b =
    (((c.flushTrain l).respond l (tapRequest (fieldAt b 1 1) (fieldAt b 4 1))).requester l (fieldAt b 2 1)).readyRun l (bit (fieldAt b 2 1) 6) :=
  (if_neg fun e => Chip.trains_iff.1 e h).trans (if_neg (mt Chip.rateDiffers_iff.1 same))

end

theorem trainingBlock_acts (t : Nat) (l : Fin 100) (b : List Byte) (s : State) :
    let c := (s.at_ t).chip
    let good : Prop := c.laneState l = 2 ∧ c.et5208 l = false ∧ b.length = 8 ∧ fieldAt b 0 1 = 0xD2 ∧ fieldAt b 7 1 = crcMsb 8 0x07 0 (b.take 7)
    let slow : Prop := l.val < 96 ∧ c.fast (l / 4) = true ∧ bit (fieldAt b 4 1) 0 = false
    let d := (((c.flushTrain l).respond l (tapRequest (fieldAt b 1 1) (fieldAt b 4 1))).requester l (fieldAt b 2 1)).readyRun l (bit (fieldAt b 2 1) 6)
    (good → slow → Acts (.trainingBlock t l b) t s (c.laneFail l 4)) ∧
    (good → ¬ slow → Acts (.trainingBlock t l b) t s d) ∧
    (¬ good → Passes (.trainingBlock t l b) t s) := by
  have run : exec (.trainingBlock t l b) s = .next ((s.at_ t).onChip (·.trainingBlock l b)) := rfl
  have acts {d : Chip} := acts_onChip (d := d) _ run
  have passes := passes_onChip _ run
  generalize (s.at_ t).chip = c at acts passes ⊢
  exact ⟨fun good slow => acts (Chip.trainingBlock_rate good slow), fun good same => acts (Chip.trainingBlock_answers good same),
    fun other => passes (Chip.trainingBlock_other other)⟩

/-! ### Deskew in mode ET5208 (R266, R267) -/

section
variable {c : Chip} {l place : Nat}

/-- A lane of the group is still on its way to its sixteenth alignment block. -/
def Chip.groupWaits (c : Chip) (l : Nat) : Prop :=
  ∃ j ∈ c.group l, (c.lane j).alignEnd = none ∧ (c.laneState j = 1 ∨ c.laneState j = 2 ∨ c.laneState j = 3)

/-- A delay of the group is beyond 6,335 bits. -/
def Chip.groupFar (c : Chip) (l : Nat) : Prop := ∃ y ∈ c.alignPlaces l, y.2 + 6335 < greatest ((c.alignPlaces l).map (·.2))

theorem Chip.groupStays_iff : (((c.group l).any fun j => (c.lane j).alignEnd.isNone && (c.laneState j = lsLOCK || c.laneState j = lsTRAIN || c.laneState j = lsALIGN)) ||
    (c.alignPlaces l).any fun e => decide (e.2 + 6335 < greatest ((c.alignPlaces l).map (·.2)))) = true ↔ c.groupWaits l ∨ c.groupFar l := by
  simp only [Bool.or_eq_true, List.any_eq_true, Bool.and_eq_true, Option.isNone_iff_eq_none, decide_eq_true_iff, or_assoc]
  exact Iff.rfl

theorem Chip.alignGroup_stays (h : c.groupWaits l ∨ c.groupFar l) : c.alignGroup l = c := if_pos (Chip.groupStays_iff.2 h)

theorem Chip.alignGroup_enters (h : ¬ (c.groupWaits l ∨ c.groupFar l)) : c.alignGroup l = c.forAll (c.alignPlaces l) fun d y =>
    (d.setLane y.1 { d.lane y.1 with delay := greatest ((c.alignPlaces l).map (·.2)) - y.2 }).enterService y.1 := if_neg (mt Chip.groupStays_iff.1 h)

theorem Chip.alignmentBlock_other (h : c.et5208 l = false ∨ c.laneState l ≠ 3) : c.alignmentBlock l place = c := by
  refine if_pos ?_
  rw [Bool.or_eq_true, Bool.not_eq_true', decide_eq_true_iff]
  exact h

theorem Chip.alignmentBlock_aligns (slow : c.et5208 l = true) (align : c.laneState l = 3) :
    c.alignmentBlock l place = (c.setLane l { c.lane l with alignEnd := some place }).alignGroup l := by
  refine if_neg fun h => ?_
  rw [slow, Bool.not_true, Bool.false_or, decide_eq_true_iff] at h
  exact h align

end

theorem alignmentBlock_acts (t : Nat) (l : Fin 96) (place : Nat) (s : State) :
    let c := (s.at_ t).chip
    let d := c.setLane l { c.lane l with alignEnd := some place }
    let ps := d.alignPlaces l
    let last := greatest (ps.map (·.2))
    let waits : Prop := ∃ j ∈ d.group l, (d.lane j).alignEnd = none ∧ (d.laneState j = 1 ∨ d.laneState j = 2 ∨ d.laneState j = 3)
    let far : Prop := ∃ y ∈ ps, y.2 + 6335 < last
    (c.et5208 l = true → c.laneState l = 3 → waits ∨ far → Acts (.alignmentBlock t l place) t s d) ∧
    (c.et5208 l = true → c.laneState l = 3 → ¬ waits → ¬ far → Acts (.alignmentBlock t l place) t s (d.forAll ps fun c y =>
      (c.setLane y.1 { c.lane y.1 with delay := last - y.2 }).enterService y.1)) ∧
    (c.et5208 l = false ∨ c.laneState l ≠ 3 → Passes (.alignmentBlock t l place) t s) ∧
    (let d := (c.setLane l { c.lane l with lkg := (c.lane l).settings }).set (LQ_EYE_LKG (l / 4) (l % 4)) 1
     (c.et5208 l = true → c.laneState l = 2 → Acts (.rxReady t l) t s (d.laneTo l 3)) ∧
     (c.et5208 l = false ∨ c.laneState l ≠ 2 → Passes (.rxReady t l) t s)) := by
  have block : exec (.alignmentBlock t l place) s = .next ((s.at_ t).onChip (·.alignmentBlock l place)) := rfl
  have ready : exec (.rxReady t l) s = .next ((s.at_ t).onChip fun c =>
    if c.laneState l = lsTRAIN ∧ c.et5208 l then
      ((c.setLane l { c.lane l with lkg := (c.lane l).settings }).set (LQ_EYE_LKG (l.val / 4) (l.val % 4)) 1).laneTo l lsALIGN
    else c) := rfl
  have blockActs {d : Chip} := acts_onChip (d := d) _ block
  have blockPasses := passes_onChip _ block
  have readyActs {d : Chip} := acts_onChip (d := d) _ ready
  have readyPasses := passes_onChip _ ready
  generalize (s.at_ t).chip = c at *
  exact ⟨fun slow align stays => blockActs ((Chip.alignmentBlock_aligns slow align).trans (Chip.alignGroup_stays stays)),
    fun slow align moves near => blockActs ((Chip.alignmentBlock_aligns slow align).trans (Chip.alignGroup_enters fun h => h.elim moves near)),
    fun other => blockPasses (Chip.alignmentBlock_other other),
    fun slow train => readyActs (if_pos ⟨train, slow⟩),
    fun other => readyPasses (if_neg fun e => other.elim (Bool.eq_false_iff.1 · e.2) (· e.1))⟩

/-! ### The shared reference (R253) -/

section
variable {c : Chip} {l : Nat}

/-- Lane l leaves block lock with cause REF. -/
def Chip.offReference (c : Chip) (l : Nat) : Chip :=
  if c.laneState l = 4 then
    let f := c.laneCause l 5
    ((f.setLane l { f.lane l with tries := 1 }).laneTo l 5).raiseLane l 16
  else if c.laneState l = 2 ∨ c.laneState l = 3 then (c.laneFail l 5).raiseLane l 16 else c

theorem Chip.causeOf_stateOf (q i cause : Nat) : (c.set (LQ_LSTAT_CAUSE q i) cause).get (LQ_LSTAT_STATE q i) = c.get (LQ_LSTAT_STATE q i) :=
  Chip.get_set_ne _ _ _ _ (fld_key_ne (by omega))

theorem Chip.laneCause_laneState (cause : Nat) : (c.laneCause l cause).laneState l = c.laneState l := Chip.causeOf_stateOf _ _ cause

theorem Chip.refLost_eq : c.refLost l = c.offReference l := by
  by_cases serves : c.laneState l = 4
  · have locked : (c.laneCause l lcREF).laneState l = lsSERVICE := (Chip.laneCause_laneState lcREF).trans serves
    exact (if_pos serves).trans ((congrArg (fun d : Chip => d.raiseLane l 16) (if_pos locked)).trans (if_pos serves).symm)
  · exact (if_neg serves).trans (if_neg serves).symm

end

theorem reference_acts (t : Nat) (l : Fin 100) (ppb : Int) (s : State) :
    let c := (s.at_ t).chip
    let off := decide (20000 < ppb.natAbs)
    let d := c.setLane l { c.lane l with offFreq := off }
    let lost (d : Chip) : Chip :=
      if d.laneState l = 4 then
        let f := d.laneCause l 5
        ((f.setLane l { f.lane l with tries := 1 }).laneTo l 5).raiseLane l 16
      else if d.laneState l = 2 ∨ d.laneState l = 3 then (d.laneFail l 5).raiseLane l 16 else d
    (ppb.natAbs ≤ 20000 → Acts (.refOffsetCheck t l ppb) t s d) ∧ (20000 < ppb.natAbs → Acts (.refOffsetCheck t l ppb) t s (lost d)) ∧
    Acts (.rxBufferOverflow t l) t s (lost c) := by
  have check : exec (.refOffsetCheck t l ppb) s = .next ((s.at_ t).onChip fun c =>
    if decide (20000 < ppb.natAbs) then (c.setLane l { c.lane l with offFreq := decide (20000 < ppb.natAbs) }).refLost l
    else c.setLane l { c.lane l with offFreq := decide (20000 < ppb.natAbs) }) := rfl
  have overflow : exec (.rxBufferOverflow t l) s = .next ((s.at_ t).onChip (·.refLost l)) := rfl
  have checkActs {d : Chip} := acts_onChip (d := d) _ check
  have overflowActs {d : Chip} := acts_onChip (d := d) _ overflow
  generalize (s.at_ t).chip = c at *
  exact ⟨fun near => checkActs (if_neg (mt of_decide_eq_true (Nat.not_lt.2 near))), fun far => checkActs ((if_pos (decide_eq_true far)).trans Chip.refLost_eq),
    overflowActs Chip.refLost_eq⟩

/-- Settles O47: clause by clause, the enable and the mode of a lane, block lock and the limit of each state, a training block, deskew and the reference. -/
theorem laneBringUp : Obligations.LaneBringUp := by
  refine ⟨laneEnable_acts, laneModeChange_acts, fun t l hs s => ?_, trainingBlock_acts, alignmentBlock_acts, reference_acts⟩
  obtain ⟨locks, loses⟩ := blockLock_acts t l hs s
  have locking := lingers_act (show exec (.lockTimeout t l) s = .next ((s.at_ t).onChip fun c => if c.lingered l lsLOCK (10 * dtMilli) then c.laneFail l lcLOCK_TIMEOUT else c) from rfl)
  have retrying := lingers_act (show exec (.failedRetry t l) s = .next ((s.at_ t).onChip fun c => if c.lingered l lsFAILED (10 * dtMilli) then c.enterLock l else c) from rfl)
  have training := lingers_act (show exec (.trainTimeout t l) s = .next ((s.at_ t).onChip fun c => if c.lingered l lsTRAIN (500 * dtMilli) then c.laneFail l lcTRAIN_TIMEOUT else c) from rfl)
  exact ⟨locks, loses, locking, relock_acts t l s, retrying, tapTimeout_acts t l s, training, alignTimeout_acts t l s⟩

end Sys2Proof.Machine
end

section
/-!
PROOFS. Words of control space: writes of whole registers by access type (R11 to R13), held and latched words, refused accesses (R46, R332).
-/
namespace Sys2Proof.Machine

/-! ### Fields that are written (R12, R13) -/

/-- The bits of a field in a word that is written whole. -/
theorem bits_ones {lo w : Nat} (h : lo + w ≤ 32) : bits (2 ^ 32 - 1) lo w = 2 ^ w - 1 := by
  refine Nat.eq_of_testBit_eq fun i => ?_
  rw [bits, Nat.testBit_mod_two_pow, Nat.testBit_div_two_pow, Nat.testBit_two_pow_sub_one, Nat.testBit_two_pow_sub_one, ← Bool.decide_and, decide_eq_decide]
  omega

theorem bits_and_ones (v lo w : Nat) : bits v lo w &&& (2 ^ w - 1) = bits v lo w := by
  rw [Nat.and_two_pow_sub_one_eq_mod, bits, Nat.mod_mod]

section
variable {c : Chip} {b : Blk} {i v : Nat} {w : RegWrite} {r f : RegField} {fs : List RegField}

/-- The chip but for its registers and held words. -/
def Chip.unfiled (c : Chip) : Chip := { c with regs := [], held := [] }

theorem Chip.storeField_cases : c.storeField b i w r = c ∨ ∃ x, c.storeField b i w r = c.set r.f x := by
  unfold Chip.storeField
  split
  · exact .inl rfl
  · split
    · dsimp only
      split
      · exact .inl rfl
      · exact .inr ⟨_, rfl⟩
    · exact .inr ⟨_, rfl⟩
    · split
      · exact .inl rfl
      · exact .inr ⟨_, rfl⟩
    · exact .inl rfl

theorem Chip.storeField_unfiled : (c.storeField b i w r).unfiled = c.unfiled := by
  obtain h | ⟨x, h⟩ := Chip.storeField_cases (c := c) (b := b) (i := i) (w := w) (r := r) <;> rw [h]
  rfl

theorem Chip.storeField_get_ne {h : Fld} (ne : h.key ≠ r.f.key) : (c.storeField b i w r).get h = c.get h := by
  obtain same | ⟨x, set⟩ := Chip.storeField_cases (c := c) (b := b) (i := i) (w := w) (r := r)
  · rw [same]
  · rw [set, Chip.get_set_ne _ _ _ _ ne]

theorem Chip.storeReg_cons : c.storeReg b i (r :: fs) w = (c.storeField b i w r).storeReg b i fs w := rfl

theorem Chip.storeReg_append {gs : List RegField} : c.storeReg b i (fs ++ gs) w = (c.storeReg b i fs w).storeReg b i gs w := List.foldl_append

theorem Chip.storeReg_unfiled : (c.storeReg b i fs w).unfiled = c.unfiled := Chip.forAll_congr Chip.unfiled _ (fun _ _ => Chip.storeField_unfiled) fs c

theorem Chip.storeReg_get_ne {h : Fld} (ne : ∀ r ∈ fs, h.key ≠ r.f.key) : (c.storeReg b i fs w).get h = c.get h := by
  induction fs generalizing c with
  | nil => rfl
  | cons r fs ih =>
    rw [Chip.storeReg_cons, ih fun g hg => ne g (List.mem_cons_of_mem r hg), Chip.storeField_get_ne (ne r List.mem_cons_self)]

/-- A field that stands alone at its place gets what storing it alone gives. -/
theorem Chip.storeReg_get_alone (alone : fs.filter (fun g => g.f.key = f.f.key) = [f]) :
    ∃ d : Chip, d.unfiled = c.unfiled ∧ d.get f.f = c.get f.f ∧ (c.storeReg b i fs w).get f.f = (d.storeField b i w f).get f.f := by
  obtain ⟨pre, post, split, before, _, after⟩ := List.filter_eq_cons_iff.1 alone
  have other {gs : List RegField} (none : ∀ g ∈ gs, ¬ decide (g.f.key = f.f.key) = true) : ∀ g ∈ gs, f.f.key ≠ g.f.key :=
    fun g hg same => none g hg (decide_eq_true same.symm)
  refine ⟨c.storeReg b i pre w, Chip.storeReg_unfiled, Chip.storeReg_get_ne (other before), ?_⟩
  rw [split, Chip.storeReg_append, Chip.storeReg_cons, Chip.storeReg_get_ne (other (List.filter_eq_nil_iff.1 after))]

/-- A field of a word that is written whole. -/
structure InWord (b : Blk) (i : Nat) (f : Fld) : Prop where
  wide : f.width ≠ 0
  fits : f.lo + f.width ≤ 32
  level : b.base i + 0x40 ≤ f.base

theorem InWord.hits (h : InWord b i r.f) : (RegWrite.mk (2 ^ 32 - 1) v).hits r.f = true := by
  have ones : 2 ≤ 2 ^ r.f.width := Nat.le_self_pow h.wide 2
  rw [RegWrite.hits, bits_ones h.fits, decide_eq_true_iff]
  omega

theorem InWord.keepsLevel (h : InWord b i r.f) (x : Nat) : keepsLevel b i x r.f = false := by
  have high : ¬ r.f.base - b.base i < 0x30 := by
    have := h.level
    omega
  unfold Sys2Proof.Machine.keepsLevel
  dsimp only
  rw [decide_eq_false high, Bool.and_false, Bool.false_and]

theorem InWord.ones (h : InWord b i r.f) : (RegWrite.mk (2 ^ 32 - 1) v).ones r.f = bits v r.f.lo r.f.width := by
  rw [RegWrite.ones, bits_ones h.fits, bits_and_ones]

theorem InWord.merge (h : InWord b i r.f) (old : Nat) : (RegWrite.mk (2 ^ 32 - 1) v).merge r.f old % 2 ^ r.f.width = bits v r.f.lo r.f.width := by
  have small : bits v r.f.lo r.f.width < 2 ^ r.f.width := Nat.mod_lt _ (Nat.two_pow_pos _)
  have whole : old - old % 2 ^ r.f.width = 2 ^ r.f.width * (old / 2 ^ r.f.width) := by
    have := Nat.div_add_mod old (2 ^ r.f.width)
    omega
  unfold RegWrite.merge
  dsimp only
  rw [bits_ones h.fits, bits_and_ones, Nat.and_two_pow_sub_one_eq_mod, whole, Nat.mul_add_mod, Nat.mod_eq_of_lt small]

theorem InWord.storeField (h : InWord b i r.f) : c.storeField b i ⟨2 ^ 32 - 1, v⟩ r =
    match r.acc with
    | .rw => c.set r.f (r.filter.apply r.f.width (c.get r.f) ((RegWrite.mk (2 ^ 32 - 1) v).merge r.f (c.get r.f)))
    | .w1c => c.set r.f (c.get r.f - (c.get r.f &&& bits v r.f.lo r.f.width))
    | .rs => if FMap.get 0 c.faults.latched r.f.key = c.clock then c else c.set r.f (c.get r.f - (c.get r.f &&& bits v r.f.lo r.f.width))
    | _ => c := by
  refine (if_neg (by rw [h.hits]; decide)).trans ?_
  dsimp only
  rw [h.ones]
  cases r.acc with
  | rw => exact if_neg (Bool.eq_false_iff.1 (h.keepsLevel _))
  | _ => rfl

theorem InWord.ro (h : InWord b i r.f) (acc : r.acc = .ro) : (c.storeField b i ⟨2 ^ 32 - 1, v⟩ r).get r.f = c.get r.f := by rw [h.storeField, acc]

theorem InWord.rw (h : InWord b i r.f) (acc : r.acc = .rw) (any : r.filter = .any) :
    (c.storeField b i ⟨2 ^ 32 - 1, v⟩ r).get r.f = bits v r.f.lo r.f.width := by
  rw [h.storeField, acc, any]
  exact (Chip.get_set_same _ _ _).trans (h.merge _)

theorem InWord.rs_held (h : InWord b i r.f) (acc : r.acc = .rs) (now : FMap.get 0 c.faults.latched r.f.key = c.clock) :
    (c.storeField b i ⟨2 ^ 32 - 1, v⟩ r).get r.f = c.get r.f := by
  rw [h.storeField, acc]
  exact congrArg (fun d : Chip => d.get r.f) (if_pos now)

theorem InWord.cleared (h : InWord b i r.f) (acc : r.acc = .w1c ∨ r.acc = .rs ∧ FMap.get 0 c.faults.latched r.f.key ≠ c.clock) :
    (c.storeField b i ⟨2 ^ 32 - 1, v⟩ r).get r.f = (c.get r.f - (c.get r.f &&& bits v r.f.lo r.f.width)) % 2 ^ r.f.width := by
  rw [h.storeField]
  rcases acc with acc | ⟨acc, past⟩
  · rw [acc]
    exact Chip.get_set_same _ _ _
  · rw [acc]
    exact (congrArg (fun d : Chip => d.get r.f) (if_neg past)).trans (Chip.get_set_same _ _ _)

end

/-! ### Words that are written (R11) -/

/-- Windows whose one-word registers from 0x40 on only take their fields. -/
def plainWindows : List Blk := [Blk.sys, .seq, .hp, .pcie, .fs, .rl, .nv, .mr, .hbm, .tc, .rg]

section
variable {c : Chip} {b : Blk} {i addr v : Nat} {r : RegField} {fs : List RegField}

theorem Chip.applyWrite_plain {off : Nat} {w : RegWrite} (plain : b ∈ plainWindows) (h : 0x40 ≤ off) : c.applyWrite b i off fs w = c.storeReg b i fs w := by
  have low : ¬ (b ≠ .tn ∧ off < 0x40) := fun e => absurd e.2 (Nat.not_lt.2 h)
  refine (if_neg low).trans ?_
  simp only [plainWindows, List.mem_cons, List.not_mem_nil, or_false] at plain
  rcases plain with rfl | rfl | rfl | rfl | rfl | rfl | rfl | rfl | rfl | rfl | rfl <;> rfl

theorem Chip.gather_one (base : Nat) : c.gather base 1 v = ⟨2 ^ 32 - 1, v⟩ := by simp [Chip.gather]

theorem Chip.clearHeld_one (base : Nat) : c.clearHeld base 1 = { c with held := FMap.put none c.held base none } := rfl

theorem Chip.writeWord_held (found : fieldsAt b i addr = r :: fs) (low : addr < r.f.base + 4 * (regWords (r :: fs) - 1)) :
    c.writeWord b i addr v = { c with held := FMap.put none c.held addr (some v) } := by
  unfold Chip.writeWord
  rw [found]
  exact if_pos low

theorem Chip.writeWord_one (found : fieldsAt b i addr = r :: fs) (one : regWords (r :: fs) = 1) (base : r.f.base = addr) (plain : b ∈ plainWindows)
    (high : b.base i + 0x40 ≤ addr) : c.writeWord b i addr v =
      ({ c with held := FMap.put none c.held addr none } : Chip).storeReg b i (r :: fs) ⟨2 ^ 32 - 1, v⟩ := by
  unfold Chip.writeWord
  rw [found]
  have top : ¬ addr < r.f.base + 4 * (regWords (r :: fs) - 1) := by rw [one, base]; omega
  refine (if_neg top).trans ?_
  rw [one, base, Chip.gather_one, Chip.clearHeld_one]
  exact Chip.applyWrite_plain plain (by omega)

/-- What a write of a one-word register leaves in its fields. -/
def FieldWritten (c d : Chip) (v : Nat) (f : RegField) : Prop :=
  (f.acc = .ro → d.get f.f = c.get f.f) ∧
  (f.acc = .rw → f.filter = .any → d.get f.f = bits v f.f.lo f.f.width) ∧
  (f.acc = .rs → FMap.get 0 c.faults.latched f.f.key = c.clock → d.get f.f = c.get f.f) ∧
  (f.acc = .w1c ∨ f.acc = .rs ∧ FMap.get 0 c.faults.latched f.f.key ≠ c.clock →
    d.get f.f = (c.get f.f - (c.get f.f &&& bits v f.f.lo f.f.width)) % 2 ^ f.f.width)

theorem FieldWritten.of_storeField {d : Chip} {f : RegField} (h : InWord b i f.f) (get : d.get f.f = c.get f.f) (unfiled : d.unfiled = c.unfiled) :
    FieldWritten c (d.storeField b i ⟨2 ^ 32 - 1, v⟩ f) v f := by
  have faults : d.faults = c.faults := (congrArg Chip.faults unfiled :)
  have clock : d.clock = c.clock := (congrArg Chip.clock unfiled :)
  rw [FieldWritten, ← get, ← faults, ← clock]
  exact ⟨h.ro, h.rw, h.rs_held, h.cleared⟩

/-- A field of the chip after the write reads as after storing it alone. -/
theorem FieldWritten.of_get {d e : Chip} {f : RegField} (same : e.get f.f = d.get f.f) (h : FieldWritten c d v f) : FieldWritten c e v f := by
  rwa [FieldWritten, same]

theorem storeReg_facts (c : Chip) (b : Blk) (i v addr : Nat) (fs : List RegField) (high : b.base i + 0x40 ≤ addr) :
    let d := ({ c with held := FMap.put none c.held addr none } : Chip).storeReg b i fs ⟨2 ^ 32 - 1, v⟩
    sameFields (fs.map (·.f)) c d ∧ d.unfiled = c.unfiled ∧
    ∀ f ∈ fs, f.f.base = addr → fs.filter (fun g => g.f.key = f.f.key) = [f] → f.f.width ≠ 0 → f.f.lo + f.f.width ≤ 32 → FieldWritten c d v f := by
  refine ⟨fun h other => ?_, Chip.storeReg_unfiled, fun f _ base alone wide fits => ?_⟩
  · exact Chip.storeReg_get_ne fun r hr => other r.f (List.mem_map_of_mem hr)
  · obtain ⟨d, unfiled, get, same⟩ := Chip.storeReg_get_alone (c := { c with held := FMap.put none c.held addr none }) (b := b) (i := i) (w := ⟨2 ^ 32 - 1, v⟩) alone
    exact FieldWritten.of_get same (FieldWritten.of_storeField ⟨wide, fits, by rw [base]; exact high⟩ get unfiled)

end

/-! ### Accesses (R11, R46, R332) -/

section
variable {c : Chip} {a : State} {b : Blk} {i t addr v : Nat} {r : RegField} {fs : List RegField}

theorem Chip.regWrite_nowhere (nowhere : blockAt addr = none) : c.regWrite t addr v = c.noticeAccess addr := by rw [Chip.regWrite, nowhere]

theorem State.regRead_nowhere (nowhere : blockAt addr = none) : a.regRead t addr = (0, { a with chip := a.chip.noticeAccess addr }) := by
  rw [State.regRead, nowhere]
  rfl

variable (there : blockAt addr = some (b, i))
include there

theorem Chip.regWrite_refused (no : c.mayWrite t b i (offIn b i addr) = false) : c.regWrite t addr v = c.noticeAccess addr := by
  rw [Chip.regWrite, there]
  exact if_pos (by rw [no]; rfl)

theorem Chip.regWrite_granted (may : c.mayWrite t b i (offIn b i addr) = true) :
    c.regWrite t addr v = if c.reachable b i && c.blockOn b i then c.writeWord b i addr v else c := by
  rw [Chip.regWrite, there]
  exact if_neg (by rw [may]; decide)

theorem Chip.regWrite_silent (may : c.mayWrite t b i (offIn b i addr) = true) (off : (c.reachable b i && c.blockOn b i) = false) : c.regWrite t addr v = c :=
  (Chip.regWrite_granted there may).trans (if_neg (Bool.eq_false_iff.1 off))

theorem Chip.regWrite_writes (may : c.mayWrite t b i (offIn b i addr) = true) (on : (c.reachable b i && c.blockOn b i) = true) :
    c.regWrite t addr v = c.writeWord b i addr v := (Chip.regWrite_granted there may).trans (if_pos on)

theorem State.regRead_refused (no : a.chip.mayRead t b i = false) : a.regRead t addr = (0, { a with chip := a.chip.noticeAccess addr }) := by
  rw [State.regRead, there]
  exact if_pos (by rw [no]; rfl)

variable (may : a.chip.mayRead t b i = true)
include may

theorem State.regRead_granted : a.regRead t addr = if !(a.chip.reachable b i && a.chip.blockOn b i) || a.chip.dtHidden b i addr then
    ((a.chip.fresh (2 ^ 32)).1, { a with chip := (a.chip.fresh (2 ^ 32)).2 }) else a.readWord b i addr := by
  rw [State.regRead, there]
  exact if_neg (by rw [may]; decide)

theorem State.regRead_silent (h : (a.chip.reachable b i && a.chip.blockOn b i) = false ∨ a.chip.dtHidden b i addr = true) :
    a.regRead t addr = ((a.chip.fresh (2 ^ 32)).1, { a with chip := { a.chip with free := a.chip.free + 1 } }) := by
  refine (State.regRead_granted there may).trans (if_pos ?_)
  rw [Bool.or_eq_true, Bool.not_eq_true']
  exact h

theorem State.regRead_reads (on : (a.chip.reachable b i && a.chip.blockOn b i) = true) (shown : a.chip.dtHidden b i addr = false) :
    a.regRead t addr = a.readWord b i addr := by
  refine (State.regRead_granted there may).trans (if_neg ?_)
  rw [on, shown]
  decide

end

section
variable {a : State} {b : Blk} {i addr : Nat} {r : RegField} {fs : List RegField}

theorem State.readWord_empty (none : fieldsAt b i addr = []) : a.readWord b i addr = (0, { a with chip := a.chip }) := by
  unfold State.readWord
  rw [none]

theorem State.readWord_register (found : fieldsAt b i addr = r :: fs) (still : b ≠ .cd) : a.readWord b i addr =
    if r.f.base = addr then (a.regValue b i (r :: fs) % 2 ^ 32, { a with chip := a.chip.latchWords addr (regWords (r :: fs)) (a.regValue b i (r :: fs)) })
    else ((FMap.get none a.chip.latch addr).getD (bits (regReset (r :: fs)) (32 * ((addr - r.f.base) / 4)) 32), a) := by
  unfold State.readWord
  rw [found]
  dsimp only
  rw [if_neg still]
  rfl

theorem State.readWord_lowest (found : fieldsAt b i addr = r :: fs) (still : b ≠ .cd) (base : r.f.base = addr) : a.readWord b i addr =
    (a.regValue b i (r :: fs) % 2 ^ 32, { a with chip := a.chip.latchWords addr (regWords (r :: fs)) (a.regValue b i (r :: fs)) }) :=
  (State.readWord_register found still).trans (if_pos base)

theorem State.readWord_higher (found : fieldsAt b i addr = r :: fs) (still : b ≠ .cd) (higher : r.f.base ≠ addr) : a.readWord b i addr =
    ((FMap.get none a.chip.latch addr).getD (bits (regReset (r :: fs)) (32 * ((addr - r.f.base) / 4)) 32), { a with chip := a.chip }) :=
  (State.readWord_register found still).trans (if_neg higher)

end

section
variable {t : Nat} {tnt : Fin 8} {a v : BitVec 32} {s : State}

/-- The word x goes back to the host that reads an address. -/
def State.answered (tnt : Nat) (addr : Nat) (x : Nat × State) : State := x.2.onChip fun c => c.emit .pcieData tnt [addr, x.1]

theorem registerRead_eq (whole : Bool) : exec (.registerRead t tnt a whole) s = .next (State.answered tnt a.toNat
    (if !whole || a.toNat % 4 ≠ 0 then (0, (s.at_ t).onChip (·.noticeAccess a.toNat)) else (s.at_ t).regRead tnt a.toNat)) := rfl

theorem State.answered_chip (tnt addr n : Nat) (w : State) (d : Chip) : State.answered tnt addr (n, { w with chip := d }) =
    { w with chip := d.emit .pcieData tnt [addr, n] } := rfl

theorem registerRead_noticed {whole : Bool} (partly : (!whole || a.toNat % 4 ≠ 0) = true) : exec (.registerRead t tnt a whole) s =
    .next { s.at_ t with chip := ((s.at_ t).chip.noticeAccess a.toNat).emit .pcieData tnt [a.toNat, 0] } := by
  rw [registerRead_eq, if_pos partly]
  exact congrArg _ (State.answered_chip _ _ _ _ _)

theorem registerRead_part : exec (.registerRead t tnt a false) s =
    .next { s.at_ t with chip := ((s.at_ t).chip.noticeAccess a.toNat).emit .pcieData tnt [a.toNat, 0] } := registerRead_noticed rfl

theorem registerRead_misaligned (odd : a.toNat % 4 ≠ 0) : exec (.registerRead t tnt a true) s =
    .next { s.at_ t with chip := ((s.at_ t).chip.noticeAccess a.toNat).emit .pcieData tnt [a.toNat, 0] } :=
  registerRead_noticed (by rw [decide_eq_true odd]; rfl)

theorem registerRead_aligned (aligned : a.toNat % 4 = 0) {n : Nat} {d : Chip} (read : (s.at_ t).regRead tnt a.toNat = (n, { s.at_ t with chip := d })) :
    exec (.registerRead t tnt a true) s = .next { s.at_ t with chip := d.emit .pcieData tnt [a.toNat, n] } := by
  rw [registerRead_eq, if_neg (by rw [aligned]; decide), read, State.answered_chip]

theorem registerWrite_eq : exec (.registerWrite t tnt a (some v)) s = .next ((s.at_ t).onChip fun c =>
    if a.toNat % 4 ≠ 0 then c.noticeAccess a.toNat else c.regWrite tnt a.toNat v.toNat) := rfl

theorem registerWrite_part : exec (.registerWrite t tnt a none) s = .next { s.at_ t with chip := (s.at_ t).chip.noticeAccess a.toNat } := by
  have run : exec (.registerWrite t tnt a none) s = .next ((s.at_ t).onChip (·.noticeAccess a.toNat)) := rfl
  rw [run]
  rfl

theorem registerWrite_misaligned (odd : a.toNat % 4 ≠ 0) :
    exec (.registerWrite t tnt a (some v)) s = .next { s.at_ t with chip := (s.at_ t).chip.noticeAccess a.toNat } := by
  rw [registerWrite_eq]
  simp only [if_pos odd]
  rfl

theorem registerWrite_aligned (aligned : a.toNat % 4 = 0) {d : Chip} (written : (s.at_ t).chip.regWrite tnt a.toNat v.toNat = d) :
    exec (.registerWrite t tnt a (some v)) s = .next { s.at_ t with chip := d } := by
  rw [registerWrite_eq, ← written]
  simp only [if_neg (Classical.not_not.2 aligned)]
  rfl

end

/-- Settles O35: a write or a read takes the first of its cases that applies; a plain one-word register takes its fields one by one. -/
theorem controlSpaceAccesses : Obligations.ControlSpaceAccesses := by
  intro t tnt a v s
  have partRead := registerRead_part (t := t) (tnt := tnt) (a := a) (s := s)
  have partWrite := registerWrite_part (t := t) (tnt := tnt) (a := a) (s := s)
  have oddRead := registerRead_misaligned (t := t) (tnt := tnt) (a := a) (s := s)
  have oddWrite := registerWrite_misaligned (t := t) (tnt := tnt) (a := a) (v := v) (s := s)
  have reads := fun (aligned : a.toNat % 4 = 0) n d => registerRead_aligned (t := t) (tnt := tnt) (s := s) aligned (n := n) (d := d)
  have writes := fun (aligned : a.toNat % 4 = 0) d => registerWrite_aligned (t := t) (tnt := tnt) (v := v) (s := s) aligned (d := d)
  generalize s.at_ t = w at *
  intro c only addr write read answer
  refine ⟨fun h => ?_, partRead, partWrite, fun b i aligned there => ⟨fun no => writes aligned _ (Chip.regWrite_refused there no),
    fun may off => writes aligned _ (Chip.regWrite_silent there may off), fun no => reads aligned _ _ (State.regRead_refused there no),
    fun may h => ⟨_, reads aligned _ _ (State.regRead_silent there may h)⟩, fun may on r fs found => ⟨fun low => ?_, fun plain one base high => ?_⟩,
    fun may on shown => ⟨fun none => ?_, fun r fs found still => ⟨fun base => ?_, fun higher => ?_⟩⟩⟩⟩
  · by_cases odd : addr % 4 ≠ 0
    · exact ⟨oddWrite odd, oddRead odd⟩
    · have nowhere := h.resolve_left odd
      exact ⟨writes (Classical.not_not.1 odd) _ (Chip.regWrite_nowhere nowhere), reads (Classical.not_not.1 odd) _ _ (State.regRead_nowhere nowhere)⟩
  · exact writes aligned _ ((Chip.regWrite_writes there may on).trans (Chip.writeWord_held found low))
  · exact ⟨_, writes aligned _ ((Chip.regWrite_writes there may on).trans (Chip.writeWord_one found one base plain high)),
      storeReg_facts c b i v.toNat addr (r :: fs) high⟩
  · exact reads aligned _ _ ((State.regRead_reads there may on shown).trans (State.readWord_empty none))
  · exact reads aligned _ _ ((State.regRead_reads there may on shown).trans (State.readWord_lowest found still base))
  · exact reads aligned _ _ ((State.regRead_reads there may on shown).trans (State.readWord_higher found still higher))

end Sys2Proof.Machine
end
